-- ==== Sys2Proof/Word.lean ====
section
/-! DEFINITION. The word types of the manual (R8, R10, R12) and the sparse table type. -/

namespace Sys2Proof

/-- A byte of any memory. -/
abbrev Byte := BitVec 8

/-- A register or a word of a command (R12, R299). -/
abbrev Word := BitVec 32

/-- A sparse table: keys strictly rising, no entry equal to what an unlisted key reads as. -/
abbrev SMap (α : Type) := List (Nat × α)

end Sys2Proof
end

