-- ==== Sys2Proof/Machine/Flags.lean ====
section
/-! DEFINITION. The number formats, roundings, conversions, flags and check codes of the chapters on
number formats and hallmarks: every flag computation of the model stands here. -/

namespace Sys2Proof.Machine

/-! ## Flag words (R120) -/

/-- A 16-bit flag word (R120). -/
abbrev FlagWord := BitVec 16

def Flag.inv : FlagWord := 0x1
def Flag.dbz : FlagWord := 0x2
def Flag.ovf : FlagWord := 0x4
def Flag.unf : FlagWord := 0x8
def Flag.inx : FlagWord := 0x10
def Flag.span : FlagWord := 0x20
def Flag.skew : FlagWord := 0x40

/-- A flag when a condition holds. -/
def flagIf (b : Bool) (f : FlagWord) : FlagWord := if b then f else 0

/-- Whether a flag word holds any of the bits of `f`. -/
def hasFlag (w f : FlagWord) : Bool := (w &&& f) != 0

/-! ## Format codes (R95) -/

/-- The twelve formats of R95. -/
inductive Fmt
  | int4 | int8 | int16 | q15 | q31 | e4m3 | e5m2 | fp16 | bf16 | fp32 | bfp8 | bfp16
  deriving DecidableEq, Repr

/-- The format of a 4-bit code; codes 0xC to 0xF are reserved (R95). -/
def Fmt.ofCode : Nat → Option Fmt
  | 0 => some .int4 | 1 => some .int8 | 2 => some .int16 | 3 => some .q15 | 4 => some .q31
  | 5 => some .e4m3 | 6 => some .e5m2 | 7 => some .fp16 | 8 => some .bf16 | 9 => some .fp32
  | 10 => some .bfp8 | 11 => some .bfp16 | _ => none

/-- The format of a code that the image loader has accepted. -/
def Fmt.get (c : Nat) : Fmt := (Fmt.ofCode c).getD .int8

/-- The 4-bit code of a format (R95). -/
def Fmt.code : Fmt → Nat
  | .int4 => 0 | .int8 => 1 | .int16 => 2 | .q15 => 3 | .q31 => 4 | .e4m3 => 5 | .e5m2 => 6
  | .fp16 => 7 | .bf16 => 8 | .fp32 => 9 | .bfp8 => 10 | .bfp16 => 11

/-- Element size in bits (R95); for the block formats, of the mantissa. -/
def Fmt.bits : Fmt → Nat
  | .int4 => 4 | .int8 => 8 | .int16 => 16 | .q15 => 16 | .q31 => 32 | .e4m3 => 8 | .e5m2 => 8
  | .fp16 => 16 | .bf16 => 16 | .fp32 => 32 | .bfp8 => 8 | .bfp16 => 16

/-- Digits of a stationary element (R95). -/
def Fmt.digits : Fmt → Nat
  | .int4 => 1 | .int8 => 2 | .int16 => 4 | .q15 => 4 | .q31 => 8 | .e4m3 => 1 | .e5m2 => 1
  | .fp16 => 3 | .bf16 => 2 | .fp32 => 6 | .bfp8 => 2 | .bfp16 => 4

/-- INT4, INT8 and INT16, which alone may be zero-pointed (R97). -/
def Fmt.isInt : Fmt → Bool
  | .int4 | .int8 | .int16 => true
  | _ => false

/-- Integer and fixed-point formats. -/
def Fmt.isFixed : Fmt → Bool
  | .int4 | .int8 | .int16 | .q15 | .q31 => true
  | _ => false

/-- The block floating-point formats. -/
def Fmt.isBfp : Fmt → Bool
  | .bfp8 | .bfp16 => true
  | _ => false

/-- The floating-point formats. -/
def Fmt.isFloat : Fmt → Bool
  | .e4m3 | .e5m2 | .fp16 | .bf16 | .fp32 => true
  | _ => false

/-- The formats whose Anvil products are summed in binary64 (R109). -/
def Fmt.isWide : Fmt → Bool
  | .bf16 | .fp32 => true
  | _ => false

/-- Exponent of the code weight of R105; 0 for the formats the table does not list. -/
def Fmt.weight : Fmt → Int
  | .q15 => -15 | .q31 => -31 | .e4m3 => -9 | .e5m2 => -16 | .fp16 => -24
  | _ => 0

/-- Top exponent T of a target that is not zero-pointed (R127). -/
def Fmt.top : Fmt → Int
  | .int4 => 3 | .int8 => 7 | .int16 => 15 | .q15 => 0 | .q31 => 0 | .e4m3 => 8 | .e5m2 => 15
  | .fp16 => 15
  | _ => 0

/-! ## Values -/

/-- A real value on its way through the device: a signed dyadic number, an infinity or a NaN, whose
payload is the mantissa aligned to 52 bits with the quiet bit at bit 51. -/
inductive FVal
  | fin (neg : Bool) (mag : Nat) (exp : Int)
  | inf (neg : Bool)
  | nan (neg : Bool) (payload : Nat)
  deriving DecidableEq, Repr

/-- The canonical NaN (R98). -/
def FVal.qnan : FVal := .nan false (2 ^ 51)

/-- Zero. -/
def FVal.zero : FVal := .fin false 0 0

/-- An integer times a power of two. -/
def FVal.ofInt (i : Int) (exp : Int) : FVal := .fin (decide (i < 0)) i.natAbs exp

/-- The value times `2^k`. -/
def FVal.scale (v : FVal) (k : Int) : FVal :=
  match v with
  | .fin n m e => .fin n m (e + k)
  | w => w

/-- The value with the opposite sign. -/
def FVal.negate : FVal → FVal
  | .fin n m e => .fin (!n) m e
  | .inf n => .inf (!n)
  | .nan n p => .nan (!n) p

/-- The sign bit. -/
def FVal.isNeg : FVal → Bool
  | .fin n _ _ => n
  | .inf n => n
  | .nan n _ => n

def FVal.isNan : FVal → Bool
  | .nan _ _ => true
  | _ => false

def FVal.isInf : FVal → Bool
  | .inf _ => true
  | _ => false

def FVal.isZero : FVal → Bool
  | .fin _ 0 _ => true
  | _ => false

/-- A NaN whose quiet bit is clear (R98). -/
def FVal.isSignalling : FVal → Bool
  | .nan _ p => p / 2 ^ 51 % 2 == 0
  | _ => false

/-- Exponent e of R126: the smallest e with M < 2^e, for a non-zero magnitude. -/
def ceilLog (mag : Nat) (exp : Int) : Int := Nat.log2 mag + exp + 1

/-- A signed dyadic number as an integer over a power of two. -/
def alignTo (neg : Bool) (mag : Nat) (exp q : Int) : Int :=
  let m : Int := (mag <<< (exp - q).toNat : Nat)
  if neg then -m else m

/-- Comparison of two magnitudes, `m1·2^e1 < m2·2^e2`. -/
def magLt (m1 : Nat) (e1 : Int) (m2 : Nat) (e2 : Int) : Bool :=
  let q := min e1 e2
  decide ((m1 <<< (e1 - q).toNat : Nat) < (m2 <<< (e2 - q).toNat : Nat))

/-- Order of two finite values; NaN and infinities by `FVal.lt`. -/
def finLt (n1 : Bool) (m1 : Nat) (e1 : Int) (n2 : Bool) (m2 : Nat) (e2 : Int) : Bool :=
  let q := min e1 e2
  decide (alignTo n1 m1 e1 q < alignTo n2 m2 e2 q)

/-- The order of IEEE 754 on values that are not NaN; false when either is. -/
def FVal.lt : FVal → FVal → Bool
  | .fin n1 m1 e1, .fin n2 m2 e2 => finLt n1 m1 e1 n2 m2 e2
  | .inf a, .inf b => a && !b
  | .inf a, .fin _ _ _ => a
  | .fin _ _ _, .inf b => !b
  | _, _ => false

/-- Equality of IEEE 754, in which the two zeros are equal; false on NaN. -/
def FVal.eqv : FVal → FVal → Bool
  | .fin n1 m1 e1, .fin n2 m2 e2 =>
      let q := min e1 e2
      decide (alignTo n1 m1 e1 q = alignTo n2 m2 e2 q)
  | .inf a, .inf b => a == b
  | _, _ => false

/-! ## Rounding (R113, R114) -/

/-- The rounding modes of R114. -/
inductive RMode
  | nearestEven | nearestAway | up | down | zero
  deriving DecidableEq, Repr

/-- The mode of an RMODE code; codes 5 to 7 are refused by the image loader (R114). -/
def RMode.ofCode : Nat → RMode
  | 1 => .nearestAway | 2 => .up | 3 => .down | 4 => .zero
  | _ => .nearestEven

/-- Whether the magnitude `n` with remainder `r` of `d` is rounded away from zero. -/
def roundsUp (mode : RMode) (neg : Bool) (n r d : Nat) : Bool :=
  match mode with
  | .nearestEven => decide (2 * r > d) || (decide (2 * r = d) && n % 2 == 1)
  | .nearestAway => decide (2 * r ≥ d)
  | .up => !neg && decide (r > 0)
  | .down => neg && decide (r > 0)
  | .zero => false

/-- `mag·2^exp` rounded once to a whole multiple of `2^q`, and whether it was inexact. -/
def roundMag (mode : RMode) (neg : Bool) (mag : Nat) (exp q : Int) : Nat × Bool :=
  if q ≤ exp then (mag <<< (exp - q).toNat, false)
  else
    let d := 2 ^ (q - exp).toNat
    let n := mag / d
    let r := mag % d
    (if roundsUp mode neg n r d then n + 1 else n, r != 0)

/-! ## Floating-point formats (R98, R99) -/

/-- Exponent bits, mantissa bits and whether the format has infinities. -/
structure FloatFmt where
  ebits : Nat
  mbits : Nat
  hasInf : Bool
  deriving DecidableEq, Repr

def FloatFmt.bias (f : FloatFmt) : Int := 2 ^ (f.ebits - 1) - 1

/-- Exponent of the smallest normal. -/
def FloatFmt.emin (f : FloatFmt) : Int := 1 - f.bias

/-- The code of +infinity, where the format has one. -/
def FloatFmt.infCode (f : FloatFmt) : Nat := (2 ^ f.ebits - 1) * 2 ^ f.mbits

/-- The code of the largest finite value: 0x7E in FP8-E4M3 (R99). -/
def FloatFmt.maxCode (f : FloatFmt) : Nat :=
  if f.hasInf then f.infCode - 1 else 2 ^ (f.ebits + f.mbits) - 2

/-- The canonical NaN of R98. -/
def FloatFmt.nanCode (f : FloatFmt) : Nat :=
  if f.hasInf then f.infCode + 2 ^ (f.mbits - 1) else 2 ^ (f.ebits + f.mbits) - 1

/-- Sign bit in place. -/
def FloatFmt.sign (f : FloatFmt) (neg : Bool) : Nat := if neg then 2 ^ (f.ebits + f.mbits) else 0

def binary64 : FloatFmt := ⟨11, 52, true⟩
def binary32 : FloatFmt := ⟨8, 23, true⟩

/-- The layout of a floating-point format of R98. -/
def Fmt.float : Fmt → FloatFmt
  | .e4m3 => ⟨4, 3, false⟩
  | .e5m2 => ⟨5, 2, true⟩
  | .fp16 => ⟨5, 10, true⟩
  | .bf16 => ⟨8, 7, true⟩
  | _ => binary32

/-- The value of a code (R98, R99). -/
def FloatFmt.decode (f : FloatFmt) (code : Nat) : FVal :=
  let neg := code / 2 ^ (f.ebits + f.mbits) % 2 == 1
  let e := code / 2 ^ f.mbits % 2 ^ f.ebits
  let m := code % 2 ^ f.mbits
  if f.hasInf && e == 2 ^ f.ebits - 1 then
    if m == 0 then .inf neg else .nan neg (m * 2 ^ (52 - f.mbits))
  else if !f.hasInf && code % 2 ^ (f.ebits + f.mbits) == 2 ^ (f.ebits + f.mbits) - 1 then
    .nan neg (2 ^ 51)
  else if e == 0 then .fin neg m (f.emin - f.mbits)
  else .fin neg (2 ^ f.mbits + m) (f.emin - f.mbits + (e - 1 : Nat))

/-- A finite value rounded to the format: the magnitude code, which lies above `maxCode` on overflow,
whether it was inexact, and whether it is tiny after rounding (R118). -/
def FloatFmt.encodeMag (f : FloatFmt) (mode : RMode) (neg : Bool) (mag : Nat) (exp : Int) :
    Nat × Bool × Bool :=
  if mag = 0 then (0, false, false)
  else
    let l : Int := Nat.log2 mag + exp
    let e := max l f.emin
    let (n, ix) := roundMag mode neg mag exp (e - f.mbits)
    let (n', _) := roundMag mode neg mag exp (l - f.mbits)
    let tiny := decide (l < f.emin) && !(decide (l = f.emin - 1) && n' == 2 ^ (f.mbits + 1))
    ((e - f.emin).toNat * 2 ^ f.mbits + n, ix, tiny)

/-- Fast-mode encoding (R117, R119): the code and its flags. The only underflow is the flush of a
BF16 subnormal. -/
def FloatFmt.encodeFast (f : FloatFmt) (flushSub : Bool) : FVal → Nat × FlagWord
  | .nan _ _ => (f.nanCode, 0)
  | .inf n => (f.sign n + f.maxCode, Flag.ovf)
  | .fin n m e =>
      let (c, _, _) := f.encodeMag .nearestEven n m e
      if c > f.maxCode then (f.sign n + f.maxCode, Flag.ovf)
      else if flushSub && c != 0 && decide (c < 2 ^ f.mbits) then (f.sign n, Flag.unf)
      else (f.sign n + c, 0)

/-- The largest finite value of the format (R98, R119). -/
def FloatFmt.largest (f : FloatFmt) : Nat × Int :=
  match f.decode f.maxCode with
  | .fin _ m e => (m, e)
  | _ => (0, 0)

/-- A fast conversion to the format (R119, R129): a value beyond the largest finite one overflows, also where it would
round back to it. -/
def FloatFmt.convertFast (f : FloatFmt) (flushSub : Bool) (v : FVal) : Nat × FlagWord :=
  let (c, g) := f.encodeFast flushSub v
  match v with
  | .fin _ m e => (c, g ||| flagIf (magLt f.largest.1 f.largest.2 m e) Flag.ovf)
  | _ => (c, g)

/-- The strict result of an overflow: infinity or the largest finite value, by rounding mode. -/
def FloatFmt.overflowCode (f : FloatFmt) (mode : RMode) (neg : Bool) : Nat :=
  match mode with
  | .zero => f.maxCode
  | .up => if neg then f.maxCode else f.infCode
  | .down => if neg then f.infCode else f.maxCode
  | _ => f.infCode

/-- Strict-mode encoding (R117 to R119). A value beyond the largest finite one that rounds back to it is no overflow of
IEEE 754, whose result and flags R118 gives; FP8-E4M3, which conforms to nothing there, takes R119 by its words (DEDUCED,
log entry 104). -/
def FloatFmt.encodeStrict (f : FloatFmt) (mode : RMode) : FVal → Nat × FlagWord
  | .nan n p =>
      let inv := flagIf (p / 2 ^ 51 % 2 == 0) Flag.inv
      if f.hasInf then
        (f.sign n + f.infCode + (p / 2 ^ (52 - f.mbits) ||| 2 ^ (f.mbits - 1)), inv)
      else (f.sign n + f.nanCode, inv)
  | .inf n => if f.hasInf then (f.sign n + f.infCode, 0) else (f.nanCode, Flag.inv)
  | .fin n m e =>
      let (c, ix, tiny) := f.encodeMag mode n m e
      if c > f.maxCode then
        if f.hasInf then (f.sign n + f.overflowCode mode n, Flag.ovf ||| Flag.inx)
        else (f.sign n + f.maxCode, Flag.inv)
      else if !f.hasInf && magLt f.largest.1 f.largest.2 m e then (f.sign n + f.maxCode, Flag.inv)
      else (f.sign n + c, flagIf ix Flag.inx ||| flagIf (tiny && ix) Flag.unf)

/-! ## Integer and fixed-point targets (R115, R119) -/

/-- The low `n` bits of an integer. -/
def wrapBits (n : Nat) (i : Int) : Nat := (i % 2 ^ n).toNat

/-- The signed value of the low `n` bits. -/
def signBits (n c : Nat) : Int :=
  let r := c % 2 ^ n
  if r ≥ 2 ^ (n - 1) then (r : Int) - 2 ^ n else r

/-- The value `v`, which is `y` of R115, to an integer code of `n` bits with zero point `z`. A NaN gives the code 0, also
where the target is zero-pointed (DESIGN CHOICE, log entry 105: R119 says 0, and not whether it means the code). -/
def encodeInt (n : Nat) (zp : Option Nat) (strict : Bool) (mode : RMode) (v : FVal) :
    Nat × FlagWord :=
  let z : Int := (zp.getD 0 : Nat)
  let lo : Int := if zp.isSome then 0 else -(2 ^ (n - 1))
  let hi : Int := if zp.isSome then 2 ^ n - 1 else 2 ^ (n - 1) - 1
  let bad := if strict then Flag.inv else Flag.ovf
  match v with
  | .nan _ _ => (0, Flag.inv)
  | .inf neg => (wrapBits n (if neg then lo else hi), bad)
  | .fin neg m e =>
      let (r, ix) := roundMag (if strict then mode else .nearestEven) neg m e 0
      let i : Int := if neg then -(r : Int) else r
      let above := !neg && !(magLt m e (hi + 1 - z).toNat 0)
      if above then (wrapBits n hi, bad)
      else if i < lo - z then (wrapBits n lo, bad)
      else (wrapBits n (min (i + z) hi), flagIf (strict && ix) Flag.inx)

/-! ## Element codes -/

/-- The value of one element code with its zero point, before any channel shift (R96 to R99); a block
mantissa reads the code −2^(n−1) as its symmetric bound (R101). -/
def Fmt.decode (f : Fmt) (zp : Option Nat) (code : Nat) : FVal :=
  if f.isFloat then f.float.decode (code % 2 ^ f.bits)
  else if f.isBfp then
    let m := signBits f.bits code
    FVal.ofInt (max m (-(2 ^ (f.bits - 1) - 1))) 0
  else match zp with
    | some z => FVal.ofInt ((code % 2 ^ f.bits : Nat) - (z : Int)) 0
    | none => FVal.ofInt (signBits f.bits code) f.weight

/-- One element in the target format after the shift `s` (R115, R119, R129); the block formats are
encoded by `encodeBfp`. -/
def Fmt.encode (f : Fmt) (zp : Option Nat) (strict : Bool) (mode : RMode) (s : Int) (v : FVal) :
    Nat × FlagWord :=
  if f.isFloat then
    if strict then f.float.encodeStrict mode (v.scale (-s))
    else f.float.convertFast (f == .bf16) (v.scale (-s))
  else encodeInt f.bits (if f.isInt then zp else none) strict mode (v.scale (-s - f.weight))

/-- Largest magnitude of the finite values, as a dyadic number. -/
def maxMag : List FVal → Nat × Int
  | [] => (0, 0)
  | .fin _ m e :: vs =>
      let (m', e') := maxMag vs
      if magLt m' e' m e then (m, e) else (m', e')
  | _ :: vs => maxMag vs

/-- One block of R102: its exponent byte, mantissa codes and flags. Strict conversions raise Invalid
for a value beyond range and Inexact for one that changes (R119). -/
def encodeBfp (n : Nat) (strict : Bool) (mode : RMode) (vs : List FVal) :
    Nat × List Nat × FlagWord :=
  let (m, e) := maxMag vs
  let raw : Int := if m = 0 then 0 else ceilLog m e - (n - 1 : Nat) + 127
  let clamped := decide (raw > 255)
  let ex : Int := if m = 0 then 0 else max 0 (min raw 255)
  let top : Nat := 2 ^ (n - 1) - 1
  let bad := if strict then Flag.inv else Flag.ovf
  let one : FVal → Nat × FlagWord := fun v =>
    match v with
    | .nan _ _ => (0, Flag.inv)
    | .inf neg => (wrapBits n (if neg then -(top : Int) else top), bad)
    | .fin neg mg ev =>
        let (r, ix) := roundMag (if strict then mode else .nearestEven) neg mg (ev + 127 - ex) 0
        if r > top then
          (wrapBits n (if neg then -(top : Int) else top),
            if r == top + 1 && !clamped then 0 else bad)
        else (wrapBits n (if neg then -(r : Int) else r), flagIf (strict && ix) Flag.inx)
  (ex.toNat, vs.map fun v => (one v).1, vs.foldl (fun fl v => fl ||| (one v).2) 0)

/-! ## Arithmetic in a floating-point format

One IEEE 754 operation on values: the exact result and the flags that the operands alone raise. -/

/-- The first NaN operand, quieted (R117). -/
def firstNan (xs : List FVal) : Option FVal :=
  xs.findSome? fun v =>
    match v with
    | .nan n p => some (.nan n (p ||| 2 ^ 51))
    | _ => none

/-- Invalid for any signalling operand. -/
def signalFlag (xs : List FVal) : FlagWord := flagIf (xs.any FVal.isSignalling) Flag.inv

/-- The zero of an exact sum that cancels: negative under rounding toward −∞ (IEEE 754). -/
def zeroSum (mode : RMode) : FVal := .fin (mode == .down) 0 0

/-- Exact sum. -/
def FVal.add (mode : RMode) (a b : FVal) : FVal × FlagWord :=
  match firstNan [a, b] with
  | some n => (n, signalFlag [a, b])
  | none =>
    match a, b with
    | .inf x, .inf y => if x == y then (.inf x, 0) else (.qnan, Flag.inv)
    | .inf x, _ => (.inf x, 0)
    | _, .inf y => (.inf y, 0)
    | .fin n1 m1 e1, .fin n2 m2 e2 =>
        if m1 = 0 && m2 = 0 then (if n1 == n2 then .fin n1 0 0 else zeroSum mode, 0)
        else
          let q := min e1 e2
          let s := alignTo n1 m1 e1 q + alignTo n2 m2 e2 q
          (if s = 0 then zeroSum mode else FVal.ofInt s q, 0)
    | _, _ => (.qnan, 0)

/-- Exact product; 0 × ∞ raises Invalid even beside a NaN (R122). -/
def FVal.mul (a b : FVal) : FVal × FlagWord :=
  match firstNan [a, b] with
  | some n => (n, signalFlag [a, b])
  | none =>
    let neg := a.isNeg != b.isNeg
    match a, b with
    | .fin _ m1 e1, .fin _ m2 e2 => (.fin neg (m1 * m2) (e1 + e2), 0)
    | _, _ => if a.isZero || b.isZero then (.qnan, Flag.inv) else (.inf neg, 0)

/-- Whether a product is 0 × ∞ (R122). -/
def zeroTimesInf (a b : FVal) : Bool := (a.isZero && b.isInf) || (a.isInf && b.isZero)

/-- Integer square root, from the highest bit pair down. -/
def isqrt : Nat → Nat → Nat → Nat
  | 0, _, r => r
  | k + 1, n, r =>
      let t := r + 2 ^ k
      isqrt k n (if t * t ≤ n then t else r)

/-- Quotient to 80 significant bits with a sticky last bit. -/
def FVal.div (a b : FVal) : FVal × FlagWord :=
  match firstNan [a, b] with
  | some n => (n, signalFlag [a, b])
  | none =>
    let neg := a.isNeg != b.isNeg
    match a, b with
    | .inf _, .inf _ => (.qnan, Flag.inv)
    | .inf _, _ => (.inf neg, 0)
    | _, .inf _ => (.fin neg 0 0, 0)
    | .fin _ m1 e1, .fin _ m2 e2 =>
        if m2 = 0 then if m1 = 0 then (.qnan, Flag.inv) else (.inf neg, Flag.dbz)
        else
          let k := 80 + Nat.log2 m2
          let n := m1 <<< k
          (.fin neg (2 * (n / m2) + (if n % m2 = 0 then 0 else 1)) (e1 - e2 - k - 1), 0)
    | _, _ => (.qnan, 0)

/-- Square root to 80 significant bits with a sticky last bit. -/
def FVal.sqrt (a : FVal) : FVal × FlagWord :=
  match firstNan [a] with
  | some n => (n, signalFlag [a])
  | none =>
    match a with
    | .fin n 0 e => (.fin n 0 e, 0)
    | .inf false => (.inf false, 0)
    | .fin false m e =>
        let k : Nat := if (e % 2 == 0) then 160 else 161
        let s := m <<< k
        let r := isqrt (Nat.log2 s / 2 + 1) s 0
        (.fin false (2 * r + (if r * r = s then 0 else 1)) ((e - k) / 2 - 1), 0)
    | _ => (.qnan, Flag.inv)

/-- A value rounded to binary64 by convergent rounding, as a value again (R109). -/
def toFp64 (v : FVal) : FVal := binary64.decode (binary64.encodeStrict .nearestEven v).1

/-- Sum in binary64 with convergent rounding, and Invalid (R109). -/
def addFp64 (a b : FVal) : FVal × FlagWord :=
  let (s, f) := FVal.add .nearestEven a b
  (toFp64 s, f)

/-! ## Byte order and packing (R10, R96) -/

/-- Little-endian bytes of a number. -/
def leBytes : Nat → Nat → List Byte
  | 0, _ => []
  | k + 1, v => BitVec.ofNat 8 v :: leBytes k (v / 256)

/-- The number that little-endian bytes spell. -/
def leNat : List Byte → Nat
  | [] => 0
  | b :: bs => b.toNat + 256 * leNat bs

/-- Big-endian bytes of a number. -/
def beBytes (k v : Nat) : List Byte := (leBytes k v).reverse

/-- The number that big-endian bytes spell. -/
def beNat (bs : List Byte) : Nat := leNat bs.reverse

/-- The first `n` element codes of packed elements of `bits` bits (R96). -/
def unpackCodes (bits n : Nat) (bs : List Byte) : List Nat :=
  let v := leNat bs
  (List.range n).map fun i => v / 2 ^ (bits * i) % 2 ^ bits

/-- Element codes packed into bytes, the last byte filled with zero bits (R96). -/
def packCodes (bits : Nat) (cs : List Nat) : List Byte :=
  leBytes ((cs.length * bits + 7) / 8) (cs.foldr (fun c v => c % 2 ^ bits + 2 ^ bits * v) 0)

/-- Bytes that `n` elements of `bits` bits take. -/
def packedBytes (bits n : Nat) : Nat := (bits * n + 7) / 8

/-! ## Check codes (R252, R451, R496, R580) -/

/-- One step of a most-significant-bit-first CRC of `n` bits. -/
def crcBit (n poly r : Nat) (b : Bool) : Nat :=
  let top := r / 2 ^ (n - 1) % 2 == 1
  let r' := r * 2 % 2 ^ n
  if top != b then r' ^^^ poly else r'

/-- A CRC over bits, from an initial register. -/
def crcBits (n poly init : Nat) (bs : List Bool) : Nat := bs.foldl (crcBit n poly) init

/-- The bits of a byte, most significant first. -/
def byteBits (b : Byte) : List Bool :=
  [b.getLsbD 7, b.getLsbD 6, b.getLsbD 5, b.getLsbD 4, b.getLsbD 3, b.getLsbD 2, b.getLsbD 1,
    b.getLsbD 0]

/-- The bits of a byte string, most significant bit of each byte first. -/
def bytesBits (bs : List Byte) : List Bool := bs.flatMap byteBits

/-- Eight bits as a byte, most significant first. -/
def bitsByte (bs : List Bool) : Byte :=
  BitVec.ofNat 8 (bs.foldl (fun v b => 2 * v + (if b then 1 else 0)) 0)

/-- One byte of the reflected CRC-32C register. -/
def crc32cByte (r : Nat) (b : Byte) : Nat :=
  (List.range 8).foldl
    (fun v _ => if v % 2 == 1 then (v / 2) ^^^ 0x82F63B78 else v / 2) (r ^^^ b.toNat)

/-- CRC-32C (R252, code 6): generator 0x1EDC_6F41 in its reflected form. -/
def crc32c (bs : List Byte) : Nat := bs.foldl crc32cByte 0xFFFFFFFF ^^^ 0xFFFFFFFF

/-- CRC-8 of the register framing (R580). -/
def crc8 (bs : List Byte) : Nat := crcBits 8 0x07 0 (bytesBits bs)

/-- CRC-64 of the twin digest (R496). -/
def crc64 (bs : List Byte) : Nat := crcBits 64 0x42F0E1EBA9EA3693 0 (bytesBits bs)

/-- The residue of an integer modulo 65,521 (R451). -/
def residue (i : Int) : Nat := (i % 65521).toNat

/-- Even parity over the low `n` bits: whether the number of ones is odd. -/
def oddOnes : Nat → Nat → Bool
  | 0, _ => false
  | n + 1, v => (v % 2 == 1) != oddOnes n (v / 2)

end Sys2Proof.Machine
end

