-- ==== Sys2Proof/Machine/Parts.lean ====
section
/-! DEFINITION. Plain data that commands carry and State holds: engine commands (R299), the parts of
a plan that the image supplies (R306), contexts and job records (R316, R318). -/

namespace Sys2Proof.Machine

/-- The eight words of a command or of a block descriptor (R270, R299). -/
structure Words where
  w0 : Word := 0
  w1 : Word := 0
  w2 : Word := 0
  w3 : Word := 0
  w4 : Word := 0
  w5 : Word := 0
  w6 : Word := 0
  w7 : Word := 0
  deriving DecidableEq, Repr

/-- Bits `lo` to `lo + n - 1` of a word. -/
def bitsOf (w : Word) (lo n : Nat) : Nat := w.toNat / 2 ^ lo % 2 ^ n

/-- Bit `i` of a word. -/
def bitOf (w : Word) (i : Nat) : Bool := w.getLsbD i

/-- The signed value of bits `lo` to `lo + n - 1` of a word. -/
def sbitsOf (w : Word) (lo n : Nat) : Int :=
  let r := bitsOf w lo n
  if r ≥ 2 ^ (n - 1) then (r : Int) - 2 ^ n else r

/-- A fault of the chip spine under a flit (R38, R59): 0 two flits on one hop, 1 an uncorrectable flit,
2 an injection table entry that fails parity, 3 a corrected flit; its hop and direction, the frame cycle of the
entry, and the buffers that the flit or entry carried. -/
structure SpineFault where
  kind : Nat
  hop : Nat
  dir : Nat
  bufs : List (Nat × Nat) := []
  entry : Nat := 0
  deriving DecidableEq, Repr

/-- An engine command of a plan or of an elastic context's list. `region` and `unit` name the engine;
`cyc` is the cycle of an elastic issue (a data-plane command carries its own, R301); `deps` are its
dependency-table entries (R305); `wsh` is the layer's weight shift, where the command takes weights of a layer (R382); `batch` the
Tinker whose closed batch gives the command its M (R179);
`dry` says which parts of its input from HBM or another region come late and by how
many cycles, and `backup` which hand-overs of its output back up and for how long (R170, R178): an Anvil counts its
beats and rows, a Planisher, Swage or Crucible its 64-byte beats, another engine the cycles since its issue; `fail` is the
position at which the engine's own duplicate or
recomputation differed and by how much, if it did (R168, R177, R204, R214, R242, R257, R461);
`ecc` lists the words in which its reads met SECDED errors, 1 plus the bit of a corrected one and 255 for one that
was not (R32, R53); `slip` is a
write that an addressing upset sent elsewhere: its position and the place it went to (R453, R459); `shadow` is
the position at which a shadow converter or a duplicated max tap differed (R461); `parity` the granules of an ARM's
stream whose transfer between Ladle and client fails its byte parity (R456); `spine` a fault of the chip spine that
its flits met; `stored` the SECDED error that the fetch of its words from the plan store met, in the form of `ecc`
(R302); `map` says that an ARM's stream is the read of a constellation map by the mapper or the demapper (R359, R360; which
commands read a map is the plan's, DESIGN CHOICE, log entry 119). -/
structure Cmd where
  region : Nat := 0
  unit : Nat := 0
  cyc : Nat := 0
  w : Words := {}
  deps : List Nat := []
  wsh : Option Int := none
  batch : Option Nat := none
  dry : List (Nat × Nat) := []
  backup : List (Nat × Nat) := []
  fail : Option (Nat × Nat) := none
  ecc : List (Nat × Nat) := []
  slip : Option (Nat × Nat) := none
  shadow : Option Nat := none
  parity : List Nat := []
  spine : Option SpineFault := none
  stored : Option Nat := none
  map : Bool := false
  deriving DecidableEq, Repr

/-- Cycles of a list of delays. -/
def delayCycles (ds : List (Nat × Nat)) : Nat := (ds.map (·.2)).sum

/-- By how much part `j` of a command's input comes late. -/
def Cmd.lateness (c : Cmd) (j : Nat) : Nat := delayCycles (c.dry.filter fun d => d.1 = j)

/-- OPCODE of word 0 (R299). -/
def Cmd.opcode (c : Cmd) : Nat := bitsOf c.w.w0 0 8
/-- CLASS of word 0 (R299). -/
def Cmd.cls (c : Cmd) : Nat := bitsOf c.w.w0 8 4
/-- FLAGS of word 0 (R299). -/
def Cmd.flags (c : Cmd) : Nat := bitsOf c.w.w0 12 12
/-- Flag bit `i` of word 0. -/
def Cmd.flag (c : Cmd) (i : Nat) : Bool := bitOf c.w.w0 (12 + i)
/-- EL of word 1: an elastic command (R299). -/
def Cmd.elastic (c : Cmd) : Bool := bitOf c.w.w1 31
/-- ORD of an elastic command (R299). -/
def Cmd.ord (c : Cmd) : Nat := bitsOf c.w.w0 24 8
/-- CTX of an elastic command (R299). -/
def Cmd.ctx (c : Cmd) : Nat := bitsOf c.w.w1 0 6
/-- KIND of an elastic command (R299). -/
def Cmd.kind (c : Cmd) : Nat := bitsOf c.w.w1 6 2
/-- WBUF (R299). -/
def Cmd.wbuf (c : Cmd) : Nat := bitsOf c.w.w1 13 12
/-- DEPT (R299). -/
def Cmd.dept (c : Cmd) : Bool := bitOf c.w.w1 25
/-- The issue cycle: ISSUEHI × 256 + ISSUELO on the data plane (R301). -/
def Cmd.issue (c : Cmd) : Nat :=
  if c.elastic then c.cyc else bitsOf c.w.w1 0 13 * 256 + bitsOf c.w.w0 24 8

/-! ## Plans (R306) -/

/-- One entry of an elastic window table (R312). -/
structure ElsWindow where
  start : Nat
  stop : Nat
  engines : Nat
  parity : Bool := true
  deriving DecidableEq, Repr

/-- One entry of an HBM window table (R287), and whether its parity holds. -/
structure HbmWindow where
  start : Nat
  count : Nat
  period : Nat
  type : Nat
  req : Nat
  bank : Nat
  parity : Bool := true
  deriving DecidableEq, Repr

/-- One entry of the Switu window table (R490): first superframe, first granule slot, granules. -/
structure SwituWindow where
  frame : Nat
  slot : Nat
  count : Nat
  deriving DecidableEq, Repr

/-- A data-plane buffer that a plan produces: its region, number, ledger tag (R464), where it lies,
and whether an exit point reads it (R496). -/
structure PlanBuf where
  region : Nat
  buf : Nat
  tag : Nat
  memRegion : Nat := 0
  addr : Nat
  granules : Nat
  isExit : Bool := false
  deriving DecidableEq, Repr

/-- A non-zero-lag read of a plan (R310). -/
structure LagRead where
  region : Nat
  buf : Nat
  addr : Nat
  lag : Nat
  deriving DecidableEq, Repr

/-- A symbol at which a gain loop freezes (R363): loop, symbol and length in symbols. -/
structure FreezeEntry where
  loop : Nat
  symbol : Nat
  length : Nat
  deriving DecidableEq, Repr

/-- The window of an UPRX of a plan (R423, R425): eAxC, symbol, SLAG, issue cycle and OPEN. -/
structure UplaneWindow where
  eaxc : Nat
  sym : Nat
  slag : Nat
  issue : Nat
  opens : Nat
  deriving DecidableEq, Repr

/-- Who uses a bank port of a region crossbar (R21, R22, R29, R267): the spine stop, the memory sprue, the main or
side path of a Ladle, the swap port. In the other regions the stop, and the local units by number. -/
inductive Requester
  | spine | sprue | ladle (l : Nat) (side : Bool) | swap | local_ (unit : Nat)
  deriving DecidableEq, Repr

/-- A stretch of a region crossbar table (R22): the bank port or local memory, the requester that it serves, and the
cycles start + i × (period + 1) for i below count; whether the plan marks them elastic (R47). -/
structure XbarEntry where
  region : Nat
  port : Nat
  who : Requester
  start : Nat
  count : Nat
  period : Nat := 0
  elastic : Bool := false
  deriving DecidableEq, Repr

/-- The types of a spine table entry (R40). -/
inductive SpineType
  | idle | planned | elastic | control
  deriving DecidableEq, Repr

/-- An entry of a spine injection table (R40). -/
structure SpineEntry where
  type : SpineType
  hops : Nat
  port : Nat
  deriving DecidableEq, Repr

/-- The fields of the 16 bits of a spine table entry (R40); bits [4:0] are reserved. -/
def SpineEntry.ofWord (w : BitVec 16) : SpineEntry :=
  let v := w.toNat
  ⟨match v / 2 ^ 14 with
    | 0 => .idle | 1 => .planned | 2 => .elastic | _ => .control, v / 2 ^ 11 % 8, v / 2 ^ 5 % 64⟩

/-- An injection table of a stop (R39): its direction, 0 clockwise and 1 counter-clockwise, and its entries that are
not zero, by frame cycle. -/
structure SpineTable where
  stop : Nat
  dir : Nat
  entries : List (Nat × BitVec 16)
  deriving DecidableEq, Repr

/-- What a scratchpad byte is for (R266). -/
inductive PadUse
  | data | elastic | shared
  deriving DecidableEq, Repr

/-- An area of scratchpad with the use that the image gives it, and whether it is retained or loaded from the image
(R266). -/
structure UseArea where
  region : Nat
  addr : Nat
  size : Nat
  use : PadUse
  kept : Bool := false
  deriving DecidableEq, Repr

/-- One slot plan (R306): its command lists and ARM lists (`lists`, each command with its engine and dependency
entries), its tables, and what they name; `positions` gives the
job positions of R80 under region × 4 + kind. -/
structure Plan where
  bufs : List PlanBuf := []
  lags : List LagRead := []
  windows : List (Nat × ElsWindow) := []
  eseq : List (Nat × BitVec 64) := []
  hbm : List (Nat × HbmWindow) := []
  hbmExact : List (Nat × HbmWindow) := []
  leave : List (BitVec 64) := []
  eleave : List (BitVec 64) := []
  switu : List SwituWindow := []
  positions : List (Nat × Nat) := []
  kept : List (Nat × Nat) := []
  freezes : List FreezeEntry := []
  uprx : List UplaneWindow := []
  netTx : List (Nat × Nat) := []
  lists : List Cmd := []
  xbar : List XbarEntry := []
  spine : List SpineTable := []
  deriving DecidableEq, Repr

/-- A buffer of a carry list (R310): region, number and address. -/
structure CarryEntry where
  region : Nat
  buf : Nat
  addr : Nat
  deriving DecidableEq, Repr

/-- What a twin variant pair names (R482, R499, R503): the partner's variant, the loss variant, the
live (side-A), shadow (side-B) and attach halves. -/
structure PairInfo where
  mode : Nat
  peerVariant : Nat
  loss : Nat
  live : Nat
  shadow : Nat
  attach : Nat
  deriving DecidableEq, Repr

/-- A row of the RADIO channel table (R338, R347): link, converter, NCO, engine and ring. -/
structure RadioChan where
  link : Nat := 0
  conv : Nat := 0
  nco : Option Nat := none
  engine : Nat := 0
  ring : Nat := 0
  rlen : Nat := 64
  deriving DecidableEq, Repr

/-- A plan variant (R306, R307). `anvils` holds, for each compute region, one more than the highest
logical Anvil that its lists name (R86); `partition_` is its record of binary32 reductions, group and region
(R89); `hasExact` and `hasLeave` say whether it carries an elastic sequence and an elastic leave table (R82). -/
structure Variant where
  anvils : List Nat := []
  slicer : Bool := false
  regions : Nat := 0
  pattern : List Nat := [0]
  plans : List Plan := [{}]
  carry : List CarryEntry := []
  peak : Nat := 0
  hasExact : Bool := false
  pair : Option PairInfo := none
  rx : List (Nat × RadioChan) := []
  tx : List (Nat × RadioChan) := []
  partition_ : List (Nat × Nat) := []
  hasLeave : Bool := false
  deriving DecidableEq, Repr

/-! ## Faults (R469) -/

/-- The classes of R465. -/
inductive FaultClass
  | masked | detected | fatal
  deriving DecidableEq, Repr

/-- The class field of a record (R469). -/
def FaultClass.code : FaultClass → Nat
  | .masked => 0 | .detected => 1 | .fatal => 2

/-- A queued fault record (R469), with the epoch it arose in (R472) and whether its announcement is
still owed (R585). -/
structure Record where
  ns : Nat
  sec : Nat
  slot : Nat
  loc : BitVec 64
  code : Nat
  cls : FaultClass
  form : Bool
  rep : Nat
  d0 : Word
  d1 : Word
  epoch : Nat
  owed : Bool
  deriving DecidableEq, Repr

/-! ## What falls due -/

/-- What an engine command leaves to be done in a later cycle: a counter that stops at its largest value, a sticky flag word, sticky bits, a
field that takes a value, the slot of the first event that a counter counts, first-occurrence registers that a valid bit guards, a report of a block to its fault unit, the fence of its region, a record. -/
inductive Effect
  | count (k lo n by_ : Nat)
  | flags (k : Nat) (f : FlagWord)
  | mask (k : Nat) (w : Word)
  | put (k lo n v : Nat)
  | first (k lo n slot : Nat) (v : Word)
  | latch (k bit : Nat) (vs : List (Nat × Word))
  | report (cls idx code : Nat) (loc : BitVec 64) (d0 d1 : Nat)
  | fence (cause : Nat)
  | record (code : Nat) (cls : FaultClass) (loc : BitVec 64) (d0 d1 : Nat)
  deriving DecidableEq, Repr

/-- The location that an effect's record names; 0 for the others. -/
def Effect.loc : Effect → Nat
  | .report _ _ _ l _ _ => l.toNat
  | .record _ _ l _ _ => l.toNat
  | _ => 0

/-- An effect with its cycle of the slot and its region. -/
structure Due where
  at_ : Nat
  region : Nat
  effect : Effect
  deriving DecidableEq, Repr

/-! ## Conversion channels (R125) -/

/-- The state of a channel: its eight history entries, newest first, the shift in force and the
indications of R127. W, AUTO, FLOOR and the zero point stand in FMT.CHCFG and FMT.CHZP. -/
structure Channel where
  hist : List (Option Int) := []
  shift : Int := 0
  fresh : Bool := true
  held : Bool := false
  flr : Bool := false
  deriving DecidableEq, Repr

/-- An entry that a max tap pushes when its command completes (R126, R130). -/
structure TapPush where
  due : Nat
  chan : Nat
  entry : Option Int
  deriving DecidableEq, Repr

/-- The latched shift and zero point of each of a command's channels. -/
structure ChanSet where
  region : Nat
  unit : Nat
  base : Nat
  count : Nat
  chans : List (Channel × Option Nat)
  deriving DecidableEq, Repr

/-- The conversion stage of a Ladle at work on a stream (R126, R127, R275): its channels as the ARM read them at its
issue, how many of them the elements have used, the largest magnitude that each has met, the flags that it owes the flag
words of the output, and whether it found scale skew. -/
structure Stage where
  set : ChanSet
  used : Nat := 0
  mags : List FVal := []
  flags : FlagWord := 0
  skew : Bool := false
  deriving DecidableEq, Repr

/-- The flag words and the scale stream that travel beside an output (R120, R132). -/
structure Beside where
  flags : List FlagWord := []
  scale : List Byte := []
  deriving DecidableEq, Repr

/-! ## Streams (R268, R270) -/

/-- A block descriptor (R270). -/
structure Block where
  addr : Nat := 0
  space : Nat := 0
  region : Nat := 0
  kind : Nat := 0
  usz : Nat := 0
  cnt0 : Nat := 0
  cnt1 : Nat := 0
  cnt2 : Nat := 0
  cnt3 : Nat := 0
  str0 : Int := 0
  str1 : Int := 0
  str2 : Int := 0
  str3 : Int := 0
  deriving DecidableEq, Repr

/-- A stream of a Ladle: the words of its ARM, its blocks, how far each kind has moved, which of its HBM
read and write stripes have had their slots, the bytes staged for HBM
writes with their addresses and the hallmarks that go with them, the spans of its data that
read as zeros (R279), and what has gone wrong in it. `ctx` is the context of an elastic stream; `parity` names the
granules of its data whose transfer fails its byte parity (R456), `stage` its conversion. -/
structure Stream where
  w0 : Word := 0
  w1 : Word := 0
  w2 : Word := 0
  w3 : Word := 0
  w4 : Word := 0
  w5 : Word := 0
  w6 : Word := 0
  planned : Nat := 0
  start : Nat := 0
  blocks : List Block := []
  dblocks : List Block := []
  posData : Nat := 0
  posExp : Nat := 0
  posScale : Nat := 0
  posFlag : Nat := 0
  moved : List Nat := []
  wmoved : List Nat := []
  staged : List (Nat × Byte) := []
  halls : List (Nat × Word) := []
  zeros : List (Nat × Nat) := []
  hallOk : Bool := true
  void : Bool := false
  cause : Nat := 0
  finished : Bool := false
  doneAt : Nat := 0
  stopping : Bool := false
  ctx : Option Nat := none
  shadow : Option Nat := none
  parity : List Nat := []
  stage : Option Stage := none
  map : Bool := false
  deriving DecidableEq, Repr

/-- A Ladle (R267): the active stream and the one-deep shadow, and the data it has moved. -/
structure Ladle where
  active : Option Stream := none
  shadow : Option Stream := none
  bytes : Nat := 0
  deriving DecidableEq, Repr

/-- A stripe that waits for its bank (R293): its Ladle, its number, and the stripe slot at which its
window entry ends. -/
structure Delayed where
  region : Nat
  ladle : Nat
  stripe : Nat
  until_ : Nat
  write : Bool
  deriving DecidableEq, Repr

/-- A command that an engine is still running, for R74, R172 and R315. -/
structure Running where
  cls : Nat
  region : Nat
  unit : Nat
  port : Nat
  w0 : Word
  planned : Nat
  finish : Nat
  outs : List (Nat × Nat)
  ctx : Option Nat
  deriving DecidableEq, Repr

/-- A completion that falls due at a cycle of the slot: a region's buffer, of the data plane or of a
context (R303). -/
structure Signal where
  due : Nat
  region : Nat
  buf : Nat
  ctx : Option Nat
  deriving DecidableEq, Repr

/-! ## Anvil and Slicer (R139 to R178) -/

/-- What one streaming row adds to one accumulator entry: an exact sum and a special code (0 none,
1 +infinity, 2 minus infinity, 3 NaN; R108), the block pairs of R106 in order (exponent sum, sum of
products), or the binary64 block sum of R109 as a code. -/
inductive Contrib
  | exact (sum : Int) (special : Nat)
  | block (pairs : List (Nat × Int))
  | wide (sum : Nat)
  deriving DecidableEq, Repr

/-- Scale information that travels with an operand (R132): the tags of its blocks and its shifts. -/
structure ScaleInfo where
  tags : List Nat := []
  shifts : List Int := []
  deriving DecidableEq, Repr

/-- A stationary tile (R141): its parameters, its elements in K order, its block exponents column by
column, and the check values of each K row for the two phases (R166, R167), and the context whose command loaded it (R169). -/
structure Tile where
  fmt : Nat := 0
  krows : Nat := 0
  ncols : Nat := 0
  digits : Nat := 0
  cplx : Bool := false
  rows : List (List FVal) := []
  exps : List Nat := []
  check1 : List Int := []
  check2 : List Int := []
  wide1 : List FVal := []
  wide2 : List FVal := []
  mag : List FVal := []
  scale : ScaleInfo := {}
  hallOk : Bool := true
  void : Bool := false
  cause : Nat := 0
  ctx : Option Nat := none
  deriving DecidableEq, Repr

/-- Classes of products (R143). -/
inductive AccClass
  | exact | block | wide
  deriving DecidableEq, Repr

/-- What an accumulator row keeps beside its entries (R156, R166, R167): flags, VOID with its first
cause, READY, the check accumulators, and what its drain needs to know of the products in it;
`seq` is the row that its last writer intended (R453). -/
structure AccRow where
  flags : FlagWord := 0
  void : Bool := false
  cause : Nat := 0
  ready : Bool := false
  chkOn : Bool := false
  check : Nat := 0
  wideS : FVal := .zero
  wideA : FVal := .zero
  cls : AccClass := .exact
  weight : Int := 0
  tshift : Int := 0
  sshifts : List Int := []
  tags : List Nat := []
  hallOk : Bool := true
  seq : Nat := 0
  deriving DecidableEq, Repr

/-- A row on its way through the array (R152): when and where it is written, and what it adds; a BIAS
row carries raw entries. -/
structure RowWrite where
  time : Nat
  row : Nat
  acc : Bool
  judged : Bool
  ncols : Nat
  cols : List Contrib := []
  flags : FlagWord := 0
  raw : Option (List (BitVec 128)) := none
  checkAdd : Int := 0
  wideS : FVal := .zero
  wideA : FVal := .zero
  chkOn : Bool := false
  void : Bool := false
  cause : Nat := 0
  cls : AccClass := .exact
  weight : Int := 0
  tshift : Int := 0
  sshifts : List Int := []
  tags : List Nat := []
  hallOk : Bool := true
  seq : Nat := 0
  deriving DecidableEq, Repr

/-- A DRAIN that runs (R147, R154): its command, its issue cycle, rows and context, its channels, the next row that it reads,
the freezes that have held it up, and of the rows read so far the values by channel, the row flags, the raw bytes and the
scale tags; whether its output is void and why, and whether every input checked. -/
structure Drain where
  cmd : Cmd
  at_ : Nat
  rows : Nat
  ctx : Option Nat
  set : ChanSet
  next : Nat := 0
  freezes : List (Nat × Nat) := []
  vals : List (Nat × FVal) := []
  rowFlags : List FlagWord := []
  raw : List Byte := []
  tags : List Nat := []
  void : Bool := false
  cause : Nat := 0
  hallOk : Bool := true
  deriving DecidableEq, Repr

/-- A logical Anvil (R139, R155): the loaded tile, the accumulator entries keyed row × 64 + column,
what each row keeps beside them, the rows still in the pipeline, the DRAIN that runs, and when its two slots are free. -/
structure Anvil where
  tile : Option Tile := none
  entries : SMap (BitVec 128) := []
  rows : SMap AccRow := []
  flight : List RowWrite := []
  drain : Option Drain := none
  arrayFree : Nat := 0
  drainFree : Nat := 0
  deriving DecidableEq, Repr

/-- A Slicer (R174): the vector store with its format, the result store, and the check lane. -/
structure Slicer where
  fmt : Nat := 0
  vecs : List (List FVal) := []
  exps : List (List Nat) := []
  scale : ScaleInfo := {}
  vecHallOk : Bool := true
  vecVoid : Bool := false
  vecCause : Nat := 0
  entries : SMap (BitVec 128) := []
  flags : FlagWord := 0
  check : List Nat := []
  wideS : List FVal := []
  wideA : List FVal := []
  cls : AccClass := .exact
  weight : Int := 0
  wsh : Int := 0
  chkOn : Bool := false
  void : Bool := false
  cause : Nat := 0
  hallOk : Bool := true
  seqs : SMap Nat := []
  bytes : Nat := 0
  free : Nat := 0
  deriving DecidableEq, Repr

/-! ## The control space and its commit unit (R587 to R591) -/

/-- A staged write: which bits of the register and their values. -/
structure Staged where
  mask : Word := 0
  val : Word := 0
  deriving DecidableEq, Repr

/-- An accepted commit of one register: the slot whose tick applies it, and the staged bits. -/
structure Accepted where
  due : Nat
  key : Nat
  staged : Staged
  deriving DecidableEq, Repr

/-! ## The slot ledger (R462 to R464) -/

/-- The bits of one buffer in one slot set, and the code of the first cause of its VOID. -/
structure LedgerCell where
  complete : Bool := false
  void : Bool := false
  suspect : Bool := false
  cause : Nat := 0
  deriving DecidableEq, Repr

/-- An entry of an extract (R464). -/
structure LedgerEntry where
  region : Nat
  buf : Nat
  void : Bool
  suspect : Bool
  lag : Nat
  cause : Nat
  deriving DecidableEq, Repr

/-- How often a block has detected a fault in consecutive slots (R32). -/
structure Escalation where
  slot : Nat := 0
  run : Nat := 0
  deriving DecidableEq, Repr

/-- A leave request that waits at a governor (R517): context, engine bit, amount and arrival. -/
structure LeaveReq where
  ctx : Nat
  engine : Nat
  amount : Nat
  since : Int
  deriving DecidableEq, Repr

/-- A grant (R517): the context, its amount, and when its command completes (none: not yet issued). -/
structure Grant where
  ctx : Nat
  amount : Nat
  finish : Option Nat
  deriving DecidableEq, Repr

/-- A swap in progress in a region (R328). -/
structure Swapping where
  out : Option Nat
  into : Nat
  start : Nat
  finish : Nat
  deriving DecidableEq, Repr

/-! ## Swage and Crucible (R197 to R217) -/

/-- A block buffer of a Swage between its fill and its emit (R202). -/
structure SwageBlock where
  rows : Nat := 0
  cols : Nat := 0
  fmt : Nat := 0
  sink : Nat := 0
  codes : List Nat := []
  scales : List Byte := []
  flags : FlagWord := 0
  sum : Nat := 0
  hallOk : Bool := true
  void : Bool := false
  cause : Nat := 0
  filled : Bool := false
  emitAt : Nat := 0
  emitEnd : Nat := 0
  upset : Option (Nat × Nat) := none
  ecc : List (Nat × Nat) := []
  deriving DecidableEq, Repr

/-- A Swage (R197, R202). -/
structure Swage where
  bufs : SMap SwageBlock := []
  fillFree : Nat := 0
  emitFree : Nat := 0
  bytes : Nat := 0
  deriving DecidableEq, Repr

/-- A tensor record (R206); `hallOk` says whether every input granule of its ACCUMs checked (R457), `seq` is the tensor that its last writer intended (R453). -/
structure Tensor where
  isOpen : Bool := false
  base : Nat := 0
  rows : Nat := 0
  cols : Nat := 0
  g : Int := 0
  owner : Nat := 0
  flags : FlagWord := 0
  void : Bool := false
  count : Nat := 0
  rho : Nat := 0
  hallOk : Bool := true
  seq : Nat := 0
  deriving DecidableEq, Repr

/-- A Crucible (R205, R206). -/
structure Crucible where
  entries : SMap (BitVec 128) := []
  tensors : SMap Tensor := []
  free : Nat := 0
  deriving DecidableEq, Repr

/-! ## Planisher and Tinker (R223 to R257) -/

/-- What a tile register keeps beside a row (R224). -/
structure PlnRow where
  flags : FlagWord := 0
  void : Bool := false
  cause : Nat := 0
  hallOk : Bool := true
  deriving DecidableEq, Repr

/-- A Planisher command in flight (R239): its slot, the tiles it reads and writes, when its slot is
free and when it completes. -/
structure PlnFlight where
  arith : Bool
  reads : List Nat
  writes : List Nat
  free : Nat
  finish : Nat
  deriving DecidableEq, Repr

/-- A Planisher (R223, R224, R241): elements keyed (tile × 64 + row) × 64 + lane, the rows keyed
tile × 64 + row, the type tag of each tile (true: INT) and the witness count. -/
structure Planisher where
  elems : SMap Word := []
  rows : SMap PlnRow := []
  ints : SMap Bool := []
  witness : Nat := 0
  flight : List PlnFlight := []
  deriving DecidableEq, Repr

/-! ## Contexts and jobs (R316, R318) -/

/-- A job record (R316), and the position of its kind that it fills under EXACT (R80). -/
structure Job where
  ctx : Nat := 0
  kind : Nat := 0
  client : Nat := 0
  cell : Nat := 0
  step : Nat := 0
  airslot : Nat := 0
  alloc : Nat := 0
  param : List Word := []
  pos : Option Nat := none
  deriving DecidableEq, Repr

/-- The hand-in record of a UE (R333, R411): the context that runs its ingest, the AIRSLOT of its attach, the chunks that
have not completed, and whether one of them was aborted. -/
structure HandIn where
  ctx : Nat
  airslot : Nat
  open_ : Nat := 0
  lost : Bool := false
  deriving DecidableEq, Repr

/-- What the image gives an elastic context (R302, R318, R327): its home, client, engine mask and command
list, the region-local address and length of its elastic scratchpad area, the accumulator rows (Anvil and
row) and tile registers (Planisher and tile) that its state holds, and where in HBM it is saved. -/
structure CtxImage where
  home : Nat := 0
  client : Nat := 0
  mask : Nat := 0
  list : List Cmd := []
  areaAddr : Nat := 0
  areaLen : Nat := 0
  erows : List (Nat × Nat) := []
  tiles : List (Nat × Nat) := []
  homeAddr : Nat := 0
  deriving DecidableEq, Repr

/-- Scheduler states of R321. -/
inductive CtxState
  | idle | runnable | blocked | running
  deriving DecidableEq, Repr

/-- Why a context is blocked (R321). -/
inductive BlockCause
  | none | buffer | leave | ladle
  deriving DecidableEq, Repr

/-- One elastic context: the image's record and its state (R304, R318, R321, R327): `member` is the cycle
at which its membership began, `sliceEnd` the end of its slice, `lastDone` the completion of the last
command of the membership, `due` the list position and cycle that the elastic sequence names (R331), and
`accs` and `plns` what its accumulator rows and tile rows keep beside their entries while it is out. -/
structure Ctx where
  image : CtxImage := {}
  queue : List Job := []
  pos : Nat := 0
  resident : Bool := false
  slot : Nat := 0
  state : CtxState := .idle
  cause : BlockCause := .none
  blockedSince : Int := 0
  member : Option Nat := none
  sliceEnd : Nat := 0
  due : Option (Nat × Nat) := none
  duePos : Nat := 0
  accs : List AccRow := []
  plns : List PlnRow := []
  lastDone : Nat := 0
  done : List Nat := []
  void : List Nat := []
  deriving DecidableEq, Repr

/-- A descriptor template of a table store: its eight words and the words that its patch mask
replaces, in order (R248). -/
structure Template where
  words : List Word
  patch : List Nat
  deriving DecidableEq, Repr

/-- A look-up table of a table store: its entries and its default entry (R249). -/
structure LookTable where
  entries : List Nat
  dflt : Nat
  deriving DecidableEq, Repr

/-- A Tinker (R245): its table store, the open batch with its alternating buffer (R255), and the rows of the last
batch that closed (R179). -/
structure Tinker where
  templates : List Template := []
  tables : List LookTable := []
  batch : List (List Byte) := []
  batchBuf : Bool := false
  closed : Nat := 0
  free : Nat := 0
  deriving DecidableEq, Repr

/-! ## RADIO (R338 to R369) -/

/-- A word queued for a steering destination (R362, R365, R368): 1 gain, 2 frequency, 3 timing. The
apply time is a cycle count from the data-plane start. -/
structure SteerWord where
  type : Nat
  dest : Nat
  time : Nat
  data : Word
  deriving DecidableEq, Repr

/-- A lane of the steering port (R366 to R368). -/
structure SteerLane where
  queue : List SteerWord := []
  seq : Nat := 0
  last : Option (BitVec 100) := none
  deriving DecidableEq, Repr

/-- An NCO step that a STEER record has set for a later sample or symbol tick (R365). -/
structure NcoStep where
  kind : Nat
  target : Nat
  value : Int
  time : Nat
  deriving DecidableEq, Repr

/-- A gain loop's running state (R361 to R363): the attenuation, the last window power, the sum and count
of the window being gathered, whether it is frozen and until when, a freeze that a detection has set,
the gain words whose apply time has not passed (time and attenuation), and the gain records of the last
four slots under (slot mod 4) × 16 + symbol, as ATT + 256 × frozen + 1. -/
structure GainLoop where
  att : Nat := 0
  lastP : Nat := 255
  sum : Nat := 0
  count : Nat := 0
  seen : Bool := false
  frozen : Bool := false
  frozenUntil : Nat := 0
  det : Option (Nat × Nat) := none
  words : List (Nat × Nat) := []
  recs : SMap Nat := []
  deriving DecidableEq, Repr

/-- An NCO (R364): its phase and the absolute number of the sample at which it has that phase. -/
structure Nco where
  phase : Word := 0
  at_ : Nat := 0
  deriving DecidableEq, Repr

/-- Samples that an IFFT has put into a transmit ring (R345): the absolute number of the first, how many,
when the IFFT has signalled completion (slot and cycle), the symbol's buffer and whether it is void. -/
structure TxSpan where
  first : Nat
  count : Nat
  slot : Nat
  finish : Nat
  buf : Nat
  void : Bool
  deriving DecidableEq, Repr

/-! ## CODE and weight sets (R385 to R398) -/

/-- A re-encode request that CODE has accepted (R391, R392): its context and the 16 words of its record. -/
structure CodeRequest where
  ctx : Nat
  words : List Word
  deriving DecidableEq, Repr

/-- A tensor of fine-tuned weights as the image places it (R192, R385): its Crucible, the rows and columns
of the forward layout, the weight format and shift, and in each copy the HBM addresses of the masters and of
the two layouts. -/
structure WeightTensor where
  region : Nat
  tensor : Nat
  rows : Nat
  cols : Nat
  fmt : Nat
  wsh : Int
  masters : Nat × Nat
  forward : Nat × Nat
  back : Nat × Nat
  deriving DecidableEq, Repr

/-- Where the image places the two copies and the base set in HBM, with their length (R385). -/
structure WeightArea where
  copies : Nat × Nat := (0, 0)
  base : Nat := 0
  len : Nat := 0
  tensors : List WeightTensor := []
  deriving DecidableEq, Repr

/-- What the device keeps of training and of the Taster (R386, R394, R397): the kept sets that the running
step has gathered, the last kept sets that void buffers have ruled out (R186), the updates applied, whether the standby holds the base set, the epochs left of the
running evaluation period, for the running period and for one that awaits its decision, whether the
standby was CANDIDATE from its first slot, and the slot before which an attach emptied the kept sets (R504). -/
structure Training where
  gathered : Nat := 0
  voidIn : List Nat := []
  updates : Nat := 0
  reverted : Bool := false
  epochs : Nat := 0
  whole : Bool := false
  due : Option Bool := none
  keptFrom : Option Nat := none
  deriving DecidableEq, Repr

/-! ## NET and the time unit (R417 to R450) -/

/-- A row of the image's eAxC table (R421). -/
structure Eaxc where
  id : Nat
  port : Nat
  cell : Nat
  bfp : Bool
  width : Nat
  scl : Int
  deriving DecidableEq, Repr

/-- What the image gives NET: the ports' addresses, its own and the slave's settings, and the transport-block
buffers of allocations under cell × 65536 + UE position × 16 + HARQ process (R418, R421, R428, R433, R434). -/
structure NetImage where
  macs : List Nat := []
  ipv4 : Nat := 0
  ipv6 : List Nat := []
  ptpAddr : Nat := 0x011B19000000
  domain : Nat := 24
  eaxc : List Eaxc := []
  tbBufs : List (Nat × Nat × Nat) := []
  deriving DecidableEq, Repr

/-- What an Ethernet frame shows at its port (R417, R418, R428): whether its FCS is good, its destination,
its EtherType, its VLAN tags, its length, the slow-protocol subtype, and of a datagram whether its
addresses, its form and its checksum are good, and its SEQ (R429). -/
structure EthFrame where
  fcs : Bool
  dst : Nat
  etype : Nat
  tags : Nat
  len : Nat
  slowSub : Nat := 0
  neighbour : Bool := false
  udp : Option (Bool × Nat) := none
  deriving DecidableEq, Repr

/-- A received U-plane section (R420, R421, R425): its eCPRI and O-RAN header options, its eAxC ID, the frame,
subframe, slot and symbol of its header, its PRBs, and per PRB the exponent and the 24 mantissas. -/
structure USection where
  rev : Nat := 1
  concat : Bool := false
  msgType : Nat := 0
  eBit : Bool := true
  payVer : Nat := 1
  filter : Nat := 0
  symInc : Bool := false
  eaxc : Nat
  frame : Nat
  subframe : Nat
  slotId : Nat
  sym : Nat
  prb0 : Nat
  prbs : List (Nat × List Int)
  deriving DecidableEq, Repr

/-- A section that a reception window has taken, with the slot in which it landed. -/
structure TakenSection where
  landed : Nat
  sec : USection
  deriving DecidableEq, Repr

/-- An L2 message (R429, R430): type, length field, cell, flags, and the body. -/
structure L2Msg where
  type : Nat
  len : Nat
  cell : Nat
  flags : Nat
  body : List Byte
  deriving DecidableEq, Repr

/-- A downlink allocation that a sent GRANT announces (R433): air slot, cell, UE position, HARQ process and
transport-block bytes. -/
structure GrantRec where
  airslot : Nat
  cell : Nat
  ue : Nat
  harq : Nat
  bytes : Nat
  deriving DecidableEq, Repr

/-- Messages of the timing protocol (R434, R437, R438). -/
inductive PtpKind
  | sync | delayReq | followUp | delayResp | announce
  deriving DecidableEq, Repr

/-- A PTP message: kind, domain, whether it uses an option that R434 does not list, sequenceId,
sourcePortIdentity, correctionField in 2^-16 ns, the two-step flag, its time stamp field in 2^-16 ns, and
the identity that a Delay_Resp answers. -/
structure PtpMsg where
  kind : PtpKind
  domain : Nat
  badOpt : Bool
  seq : Nat
  src : Nat
  corr : Int
  twoStep : Bool
  stamp : Nat
  reqSrc : Nat := 0
  deriving DecidableEq, Repr

/-- The data set of an Announce, in the order in which the profile compares it (R434). -/
structure MasterSet where
  cls : Nat
  accuracy : Nat
  variance : Nat
  priority2 : Nat
  gm : Nat
  steps : Nat
  parent : Nat
  deriving DecidableEq, Repr

/-- What leaves a port: U-plane frames of one symbol, one C-plane message, a datagram (its messages; SEQ and
SLOT are filled as it leaves), an answer to ARP or to a neighbour solicitation, an ESMC PDU, or a PTP message
with its corrected ingress stamp. -/
inductive Sent
  | uplane (eaxc frame subframe slotId sym prb0 : Nat) (prbs : List (Nat × List Int))
  | cplane (eaxc dir type sym frame subframe slotId : Nat) (records : List (List Word))
  | datagram (seq slot : Nat) (msgs : List (List Byte))
  | arpReply (mac ip own : Nat)
  | neighbour (mac ip own : Nat)
  | esmc (event : Bool) (ql : Nat)
  | ptp (m : PtpMsg) (ingress : Nat) (own : Bool)
  deriving DecidableEq, Repr

/-- A two-step Sync that has left a port (R437): its identity, the port and its residence time. -/
structure LeftSync where
  seq : Nat
  src : Nat
  port : Nat
  residence : Int
  deriving DecidableEq, Repr

/-- The slave (R438 to R440): the masters heard, the selected one, the offsets within the limit in a row, the
Sync messages missed in a row, the first offsets against a changed master, the stamps of the exchange in
progress (t1 and t2 of the last Sync, a two-step Sync that waits for its Follow_Up, t3 of the own
Delay_Req), and the frequency that it steers. -/
structure Slave where
  heard : List MasterSet := []
  master : Option MasterSet := none
  good : Nat := 0
  missed : Nat := 0
  judging : Option (List Int) := none
  t1 : Option Int := none
  t2 : Int := 0
  wait : Option (Nat × Int) := none
  reqSeq : Nat := 0
  t3 : Option Int := none
  freq : BitVec 64 := 0
  pend : Int := 0
  deriving DecidableEq, Repr

/-! ## TWIN (R480 to R509) -/

/-- A granule on the Switu link (R485): partner tag, index, VOID, its bytes and its H-C. -/
structure Granule where
  pbuf : Nat
  index : Nat
  void : Bool
  bytes : List Byte
  hall : Word
  deriving DecidableEq, Repr

/-- The marker of a superframe (R486): the sender's slot number and superframe index, its role (true: live or
side A), FATAL, and the echo of the last marker that the sender received (slot and index). -/
structure Marker where
  slot : Nat
  index : Nat
  live : Bool
  fatal : Bool
  echo : Nat × Nat
  deriving DecidableEq, Repr

/-- Kinds of NOTICE (R486). -/
inductive Notice
  | swap | transfer | join | detach | abort
  deriving DecidableEq, Repr

/-- What a HELLO carries (R486): image digest, DET.MODE.IDENT, match record, ARC.ANVMAP and twin ID. -/
structure Hello where
  digest : BitVec 512
  ident : Nat
  matchRec : Word
  anvmap : Word
  id : Nat
  deriving DecidableEq, Repr

/-- A slot digest (R496, R497): slot, CRC-64, and whether its twin made a detected or fatal record in it. -/
structure SlotDigest where
  slot : Nat
  value : BitVec 64
  isLocal : Bool
  deriving DecidableEq, Repr

/-- What a newcomer has received that has no memory address (R504): channel tables, committed values and the
weight state of the running twin. -/
structure Transferred where
  chans : List (Nat × Channel) := []
  regs : List (Nat × Word) := []
  weights : Word := 0
  deriving DecidableEq, Repr

/-! ## Start, security, management and test (R538 to R616) -/

/-- A finding of the self-test (R558): its native location, its kind in the repair map (1 row, 2 column, 3 an
Anvil or Slicer, 4 another unit) and the spare that replaces it. -/
structure Finding where
  loc : BitVec 64
  kind : Nat
  spare : Nat := 0
  deriving DecidableEq, Repr

/-- What an image holds in sections whose layout the manual leaves to Pozil (R306, R552): its variants, leave
amounts, contexts, table stores under region × 4 + Tinker, channel tables, the register values of windows,
weight areas, network settings, the job rings (region and address), the Ethernet ports and whether the Switu link is to be trained, the
uses of scratchpad (R266), the base ceilings of the power domains (R516), whether it requires the checks of R151, the
section and item that a plan check on parts with no layout in the manual refuses, and a section whose second read differs from the first. -/
structure ImageContent where
  variants : List Variant := []
  amounts : List (BitVec 64) := []
  ctxs : List (Nat × CtxImage) := []
  tinkers : List (Nat × Tinker) := []
  chans : List (Nat × Channel) := []
  regs : List (Nat × Word) := []
  weights : WeightArea := {}
  net : NetImage := {}
  rings : List (Nat × Nat) := []
  ports : Nat := 0
  switu : Bool := false
  uses : List UseArea := []
  ceilings : List (Nat × Nat) := []
  chkReq : Bool := false
  refused : Option (Nat × Nat) := none
  reread : Option Nat := none
  deriving DecidableEq, Repr

/-- What a start meets that no rule of the device decides: the straps, the outcome of the identity checks, the
certificate's grade and serial, the self-test's counts and findings, what the board has put into the flash,
the flash's size and whether its smallest sector is 64 KiB, the contents of the two slots' images, the step whose limit passes, the level of TWIN_PEER, and the µs at which steps 1 to 9 complete. -/
structure StartInput where
  straps : Nat := 0
  seedOk : Bool := true
  keyOk : Bool := true
  chainOk : Bool := true
  cgrade : Nat := 0
  serial : Nat := 0
  mems : Nat := 0
  failed : Nat := 0
  findings : List Finding := []
  flash : List (Nat × List Byte) := []
  flashSize : Nat := 0x4000000
  sector64 : Bool := false
  image0 : ImageContent := {}
  image1 : ImageContent := {}
  stall : Option Nat := none
  twinPeer : Bool := false
  times : List Nat := []
  deriving DecidableEq, Repr

/-- An interface that trains, retrains or is looped back (R541, R602 to R605): an Ethernet port, a JESD
receive or transmit link, the loop of a JESD link, the Switu link, a steering lane, an HBM PHY. -/
inductive LinkId
  | ether (port : Nat)
  | jrx (link : Nat)
  | jtx (link : Nat)
  | jesd (link : Nat)
  | switu
  | steer (lane : Nat)
  | hbm (stack : Nat)
  deriving DecidableEq, Repr

/-- A PRBS lane (R608, R615): an Ethernet port and lane, a JESD lane, a Switu lane. -/
inductive PrbsLane
  | ether (port lane : Nat)
  | jesd (lane : Nat)
  | switu (lane : Nat)
  deriving DecidableEq, Repr

/-- An NVM command that runs (R566 to R568): its code, its slot, its flash offset and its words. -/
structure NvmJob where
  cmd : Nat
  slot : Nat
  addr : Nat
  words : List Word
  deriving DecidableEq, Repr

/-- An attestation report that is forming (R562 to R565): whether the L2 port asked for it, and its bytes up to
the signature. -/
structure Report where
  l2 : Bool
  body : List Byte
  deriving DecidableEq, Repr

/-- A step of the management sequencer (R595). -/
structure SeqStep where
  w0 : Word := 0
  w1 : Word := 0
  w2 : Word := 0
  w3 : Word := 0
  deriving DecidableEq, Repr

/-- OP of a step (R595). -/
def SeqStep.op (x : SeqStep) : Nat := bitsOf x.w0 0 4

/-- What a tick meets that no rule of the device decides: the phase error of the tick and the clock steering in
force (R62), the mean power of the epoch that ends (R519), and the last offset estimates by cell (R415). -/
structure TickInput where
  ps : Int := 0
  ppb : Int := 0
  mean : Nat := 0
  estimates : List (Nat × Word × Word) := []
  deriving DecidableEq, Repr

/-- What an in-band interrupt announces (R585): a record of the queue, or an event of a kind with its payload. -/
inductive Announcement
  | record (r : Record)
  | event (kind : Nat) (payload : List Byte)
  deriving DecidableEq, Repr

end Sys2Proof.Machine
end

