-- ==== Sys2Proof/Syntax.lean ====
section
/-! DEFINITION. The commands of the block: one constructor per row of the table of operations and
events, with the operands that its rule reads. -/

namespace Sys2Proof

open Sys2Proof.Machine

/-- The rows of the table of operations and events. -/
inductive Instr
  /-- SLOT_TICK (R68). -/
  | slotTick (x : TickInput)
  /-- EPOCH_TICK (R67). -/
  | epochTick (x : TickInput)
  /-- SYMBOL_TICK (R65). -/
  | symbolTick (symbol : Nat)
  /-- EPOCH_PROGRAM (R593). -/
  | epochProgram (run leg : Nat)
  /-- TICK_MISMATCH (R468). -/
  | tickMismatch (regions : List Nat)
  /-- LOAD (R152). -/
  | load (c : Cmd)
  /-- STREAM (R152). -/
  | stream (c : Cmd)
  /-- LOADSTREAM (R152). -/
  | loadstream (c : Cmd)
  /-- BIAS (R154). -/
  | bias (c : Cmd)
  /-- DRAIN (R158). -/
  | drain (c : Cmd)
  /-- VLOAD (R175). -/
  | vload (c : Cmd)
  /-- SWEEP (R176). -/
  | sweep (c : Cmd)
  /-- SOUT (R177). -/
  | sout (c : Cmd)
  /-- TRANSPOSE (R202). -/
  | transpose (c : Cmd)
  /-- TRANSPOSE_EMIT (R202). -/
  | transposeEmit (region : Nat) (buf : Nat)
  /-- OPEN (R216). -/
  | openTensor (c : Cmd)
  /-- ACCUM (R209). -/
  | accum (c : Cmd)
  /-- FLUSH (R215). -/
  | flush (c : Cmd)
  /-- TLOAD (R225). -/
  | tload (c : Cmd)
  /-- TSTORE (R243). -/
  | tstore (c : Cmd)
  /-- EWISE (R229). -/
  | ewise (c : Cmd)
  /-- REDUCE (R233). -/
  | reduce (c : Cmd)
  /-- DESC (R248). -/
  | desc (c : Cmd)
  /-- LOOKUP (R249). -/
  | lookup (c : Cmd)
  /-- SORT (R250). -/
  | sort (c : Cmd)
  /-- SELECT (R250). -/
  | select (c : Cmd)
  /-- PACK (R251). -/
  | pack (c : Cmd)
  /-- CRC (R252). -/
  | crc (c : Cmd)
  /-- SCRAMBLE (R253). -/
  | scramble (c : Cmd)
  /-- REENC (R254). -/
  | reenc (c : Cmd)
  /-- BATCH (R255). -/
  | batch (c : Cmd)
  /-- FILL (R256). -/
  | fill (c : Cmd)
  /-- ARM (R277). -/
  | arm (c : Cmd) (bank : Option (Nat × Requester)) (spine : Option SpineFault)
  /-- SHADOW_BECOMES_ACTIVE (R281). -/
  | shadowBecomesActive (region ladle : Nat)
  /-- STREAM_DONE (R277). -/
  | streamDone (region ladle : Nat)
  /-- ABSENT (R279). -/
  | absent (region ladle offset n discarded : Nat)
  /-- LADLE_RELEASE (R284). -/
  | ladleRelease (region ladle : Nat)
  /-- HBM_STRIPE (R287). -/
  | hbmStripe (stack sslot region ladle : Nat) (write : Bool) (ecc : List (Nat × Bool))
  /-- DELAYED_STRIPE (R293). -/
  | delayedStripe (stack sslot : Nat)
  /-- REFRESH_ENTRY (R287). -/
  | refreshEntry (stack sslot : Nat)
  /-- HBM_OVER_TEMPERATURE (R291). -/
  | hbmOverTemperature (stack temp : Nat)
  /-- SCRUB (R264). -/
  | scrub (region bank : Nat) (found : List (Nat × Nat))
  /-- FFT (R352). -/
  | fft (c : Cmd)
  /-- IFFT (R352). -/
  | ifft (c : Cmd)
  /-- FIR (R355). -/
  | fir (c : Cmd)
  /-- FETCH (R357). -/
  | fetch (c : Cmd)
  /-- STEER (R365). -/
  | steer (c : Cmd)
  /-- NCO_DELTA_UPDATE (R365). -/
  | ncoDeltaUpdate (nco cycle : Nat)
  /-- NCO_TOFF_UPDATE (R365). -/
  | ncoToffUpdate (nco cycle : Nat)
  /-- STEERING_FRAME (R368). -/
  | steeringFrame (frame : Nat)
  /-- RECEIVE_SAMPLE (R348). -/
  | receiveSample (chan slot sample re im : Nat)
  /-- TRANSMIT_SAMPLE (R348). -/
  | transmitSample (chan slot sample buf : Nat)
  /-- JESD_LINK_CRC (R345). -/
  | jesdLinkCrc (link slot sample count : Nat)
  /-- JESD_LINK_DOWN (R345). -/
  | jesdLinkDown (tx : Bool) (link : Nat) (elastic : Bool)
  /-- RELOCK (R345). -/
  | relock (tx : Bool) (link : Nat)
  /-- SYSREF_EDGE (R343). -/
  | sysrefEdge (off : Bool) (t : Nat)
  /-- GAIN_WINDOW (R361). -/
  | gainWindow (loop : Nat)
  /-- GAIN_WORD_APPLY (R362). -/
  | gainWordApply (loop cycle : Nat)
  /-- FREEZE_END (R363). -/
  | freezeEnd (loop cycle : Nat)
  /-- LDEC (R403). -/
  | ldec (c : Cmd)
  /-- LENC (R406). -/
  | lenc (c : Cmd)
  /-- PDEC (R402). -/
  | pdec (c : Cmd)
  /-- PENC (R402). -/
  | penc (c : Cmd)
  /-- TBSEG (R405). -/
  | tbseg (c : Cmd)
  /-- TBCHK (R405). -/
  | tbchk (c : Cmd)
  /-- RE_ENCODING (R392). -/
  | reEncoding (unit cycle : Nat)
  /-- UPRX (R426). -/
  | uprx (c : Cmd)
  /-- UPTX (R424). -/
  | uptx (c : Cmd)
  /-- CPTX (R427). -/
  | cptx (c : Cmd)
  /-- L2TX (R431). -/
  | l2tx (c : Cmd)
  /-- L2RX (R432). -/
  | l2rx (c : Cmd)
  /-- U_PLANE_SECTION (R425). -/
  | uPlaneSection (cycle : Nat) (sec : USection)
  /-- ETHERNET_FRAME (R418). -/
  | ethernetFrame (port : Nat) (f : EthFrame)
  /-- NON_PLANNED_FRAME (R419). -/
  | nonPlannedFrame (port cycle stamp : Nat)
  /-- ARP_REQUEST (R428). -/
  | arpRequest (mac ip target : Nat)
  /-- NEIGHBOUR_SOLICITATION (R428). -/
  | neighbourSolicitation (mac ip target : Nat)
  /-- BSR (R430). -/
  | bsr (m : L2Msg)
  /-- QOS (R430). -/
  | qos (m : L2Msg)
  /-- DLDATA (R430). -/
  | dldata (m : L2Msg)
  /-- ATTREQ (R562). -/
  | attreq (m : L2Msg)
  /-- FAULT (R431). -/
  | fault
  /-- ANNOUNCE (R434). -/
  | announce (port : Nat) (m : PtpMsg) (d : MasterSet)
  /-- SYNC (R437). -/
  | sync (port : Nat) (m : PtpMsg) (stamp : Nat)
  /-- DELAY_REQ (R437). -/
  | delayReq (port : Nat) (m : PtpMsg) (stamp : Nat)
  /-- FOLLOW_UP (R437). -/
  | followUp (port : Nat) (m : PtpMsg)
  /-- FOLLOW_UP_TIMEOUT (R437). -/
  | followUpTimeout (seq src : Nat)
  /-- SYNC_MISSED (R438). -/
  | syncMissed
  /-- ESMC_PDU (R442). -/
  | esmcPdu (port ql : Nat)
  /-- ESMC_TIMEOUT (R442). -/
  | esmcTimeout
  /-- INFORMATION_PDU (R442). -/
  | informationPdu
  /-- TRIGGER_ARM (R445). -/
  | triggerArm (n : Nat) (value : Word)
  /-- TRIGGER_FIRE (R445). -/
  | triggerFire (n cycle : Nat)
  /-- CAPTURE (R447). -/
  | capture (n source stamp : Nat)
  /-- TIME_READ (R443). -/
  | timeRead
  /-- TIME_STEP_ACCEPT (R439). -/
  | timeStepAccept
  /-- ENTER_FREERUN (R438). -/
  | enterFreerun
  /-- SUPERFRAME (R485). -/
  | superframe (cycle : Nat) (m : Marker) (gs : List Granule)
  /-- SWITU_LINK_DOWN (R488). -/
  | swituLinkDown (lanes : Nat)
  /-- SEND (R490). -/
  | send (c : Cmd)
  /-- RECV (R491). -/
  | recv (c : Cmd)
  /-- HELLO (R503). -/
  | hello (h : Hello) (us : Nat)
  /-- DIGEST (R497). -/
  | digest (d : SlotDigest)
  /-- DIGEST_SEND (R497). -/
  | digestSend
  /-- DIGEST_COMPARE (R497). -/
  | digestCompare
  /-- ROLE_SWAP (R499). -/
  | roleSwap
  /-- SWAP_NOTICE (R486). -/
  | swapNotice (slot : Nat)
  /-- TRANSFER_NOTICE (R503). -/
  | transferNotice (slot : Nat)
  /-- JOIN_NOTICE (R503). -/
  | joinNotice (slot : Nat)
  /-- DETACH_NOTICE (R506). -/
  | detachNotice (slot : Nat)
  /-- ABORT_NOTICE (R505). -/
  | abortNotice
  /-- TRANSFER_START (R503). -/
  | transferStart
  /-- BULK_COPY_COMPLETE (R503). -/
  | bulkCopyComplete
  /-- JOIN (R503). -/
  | join (x : Transferred) (us : Nat)
  /-- ATTACH_ABORTED (R505). -/
  | attachAborted
  /-- TWIN_PEER_FALL (R499). -/
  | twinPeerFall (marker : Bool)
  /-- TAKEOVER (R499). -/
  | takeover
  /-- ATTACH (R503). -/
  | attach
  /-- DETACH (R506). -/
  | detach
  /-- SWAP_ROLES (R499). -/
  | swapRoles
  /-- PLAN_SWITCH_REQUEST (R309). -/
  | planSwitchRequest (variant : Nat)
  /-- PROMOTE (R387). -/
  | promote
  /-- REVERT (R388). -/
  | revert
  /-- REVERT_COPY_COMPLETE (R388). -/
  | revertCopyComplete
  /-- SEEDING_JOB_COMPLETE (R386). -/
  | seedingJobComplete
  /-- TRAINING_STEP (R394). -/
  | trainingStep
  /-- TASTER_DECISION (R398). -/
  | tasterDecision (n eAct eCand eCls voids : Nat)
  /-- HISTORY_RESET (R136). -/
  | historyReset (region unit chan : Nat)
  /-- CHANNEL_UPDATE_STAGE (R135). -/
  | channelUpdateStage (zp : Bool) (value : Nat)
  /-- NCO_CLEAR (R373). -/
  | ncoClear (nco : Nat)
  /-- COMMIT (R588). -/
  | commit (groups : Nat)
  /-- DISCARD (R599). -/
  | discard (groups : Nat)
  /-- REGISTER_WRITE (R13). -/
  | registerWrite (addr : Nat) (value : Word) (leg : Nat)
  /-- ELASTIC_WINDOW_START (R325). -/
  | elasticWindowStart (region start : Nat)
  /-- SCHEDULER_DECISION (R325). -/
  | schedulerDecision (region cycle : Nat)
  /-- SLICE_END (R326). -/
  | sliceEnd (region context : Nat)
  /-- SWAP (R328). -/
  | swap (region cycle cycles : Nat)
  /-- SWAP_COMPLETE (R328). -/
  | swapComplete (region : Nat)
  /-- ELASTIC_WINDOW_CUT (R315). -/
  | elasticWindowCut (region cycle : Nat)
  /-- ELASTIC_SEQUENCE_ENTRY (R331). -/
  | elasticSequenceEntry (region index cycles : Nat)
  /-- LEAVE_GRANT (R517). -/
  | leaveGrant (region cycle : Nat)
  /-- OVER_TEMPERATURE (R519). -/
  | overTemperature (sensor temp : Nat)
  /-- THERMAL_TRIP (R519). -/
  | thermalTrip (sensor temp : Nat)
  /-- PLL_LOSS_OF_LOCK (R513). -/
  | pllLossOfLock (domain : Nat)
  /-- LOCKSTEP_MISMATCH (R467). -/
  | lockstepMismatch (block : Nat) (action : Bool)
  /-- ROTATING_SELF_TEST (R476). -/
  | rotatingSelfTest (done : Bool) (fail checker : Option Nat)
  /-- LEDGER_EXTRACT (R464). -/
  | ledgerExtract
  /-- RUN_REQUEST (R522). -/
  | runRequest
  /-- TRIM_REQUEST (R522). -/
  | trimRequest
  /-- DOZE (R523). -/
  | doze
  /-- KEEP (R525). -/
  | keep
  /-- REGION_RESET (R531). -/
  | regionReset
  /-- REGION_POWER_DOWN (R531). -/
  | regionPowerDown
  /-- REGION_POWER_UP (R532). -/
  | regionPowerUp
  /-- WAKE_N (R624). -/
  | wakeN
  /-- WAKE_NOW (R526). -/
  | wakeNow
  /-- WAKE_TIMEOUT (R528). -/
  | wakeTimeout (region : Option Nat)
  /-- BROWN_OUT (R628). -/
  | brownOut (x : StartInput)
  /-- SUPPLY_RESET (R628). -/
  | supplyReset
  /-- POWER_ON (R538). -/
  | powerOn (x : StartInput)
  /-- START_STEP_TIMEOUT (R538). -/
  | startStepTimeout (stack : Nat)
  /-- LINK_NOT_TRAINED (R541). -/
  | linkNotTrained (us : Nat)
  /-- TIME_LOCK_TIMEOUT (R542). -/
  | timeLockTimeout (us : Nat)
  /-- HANDSHAKE_WAIT_EXPIRY (R543). -/
  | handshakeWaitExpiry (us : Nat)
  /-- DATA_PLANE_START (R544). -/
  | dataPlaneStart (us : Nat)
  /-- ERASE (R567). -/
  | erase
  /-- PROGRAM (R566). -/
  | program
  /-- VERIFY (R566). -/
  | verify (slot : Nat)
  /-- ACTIVATE (R566). -/
  | activate (slot : Nat)
  /-- SAVEW (R568). -/
  | savew
  /-- DROPW (R568). -/
  | dropw
  /-- PAGE_BUFFER_WRITE (R567). -/
  | pageBufferWrite (value : Word)
  /-- NVM_COMMAND_DONE (R585). -/
  | nvmCommandDone (error : Bool)
  /-- GO (R562). -/
  | go (map : Bool)
  /-- REPORT_READY (R562). -/
  | reportReady
  /-- ATTDATA_READ (R572). -/
  | attdataRead
  /-- POP (R471). -/
  | pop
  /-- ECHO (R607). -/
  | echo (count : Nat)
  /-- WRITE (R580). -/
  | write (frame : List Byte) (leg : Nat)
  /-- READ (R580). -/
  | read (frame : List Byte) (leg : Nat)
  /-- RESPONSE_READ (R581). -/
  | responseRead (pending : Bool)
  /-- ENEC (R579). -/
  | enec (ev : Nat)
  /-- DISEC (R579). -/
  | disec (ev : Nat)
  /-- ENTAS (R579). -/
  | entas (k : Nat)
  /-- RSTDAA (R579). -/
  | rstdaa
  /-- ENTDAA (R579). -/
  | entdaa (da : Nat)
  /-- ENTHDR0 (R579). -/
  | enthdr0
  /-- HDR_EXIT (R579). -/
  | hdrExit
  /-- SETAASA (R579). -/
  | setaasa
  /-- SETDASA (R579). -/
  | setdasa (da : Nat)
  /-- SETNEWDA (R579). -/
  | setnewda (da : Nat)
  /-- GETMWL (R579). -/
  | getmwl
  /-- GETMRL (R579). -/
  | getmrl
  /-- GETPID (R579). -/
  | getpid
  /-- GETBCR (R579). -/
  | getbcr
  /-- GETDCR (R579). -/
  | getdcr
  /-- GETSTATUS (R579). -/
  | getstatus
  /-- GETMXDS (R579). -/
  | getmxds
  /-- GETCAPS (R579). -/
  | getcaps
  /-- IBI (R586). -/
  | ibi (ack : Bool)
  /-- SEQ_READ (R595). -/
  | seqRead (prog idx : Nat) (x : SeqStep)
  /-- SEQ_WRITE (R595). -/
  | seqWrite (prog idx : Nat) (x : SeqStep)
  /-- RMW (R595). -/
  | rmw (prog idx : Nat) (x : SeqStep)
  /-- DELTA (R595). -/
  | delta (prog idx : Nat) (x : SeqStep)
  /-- TEST (R595). -/
  | test (prog idx : Nat) (x : SeqStep)
  /-- RECORD (R595). -/
  | record (prog idx : Nat) (x : SeqStep)
  /-- SEQ_COMMIT (R595). -/
  | seqCommit (prog idx : Nat) (x : SeqStep)
  /-- LOOPBACK_ACTIVATE (R602). -/
  | loopbackActivate
  /-- PRBS_LOCK (R609). -/
  | prbsLock (lane : PrbsLane) (errors units : Nat)
  /-- PRBS_LOSS_OF_LOCK (R609). -/
  | prbsLossOfLock (lane : PrbsLane) (errors units : Nat)
  /-- EXTEST (R612). -/
  | extest (sampled data : Nat)
  /-- IDCODE (R613). -/
  | idcode
  /-- SAMPLE_PRELOAD (R612). -/
  | samplePreload (sampled data : Nat)
  /-- HIGHZ (R612). -/
  | highz
  /-- CLAMP (R612). -/
  | clamp
  /-- EXTEST_PULSE (R612). -/
  | extestPulse (sampled data : Nat)
  /-- EXTEST_TRAIN (R612). -/
  | extestTrain (sampled data : Nat)
  /-- BYPASS (R612). -/
  | bypass
  /-- TEST_LOGIC_RESET (R614). -/
  | testLogicReset
  /-- ANV_CLR_LATCH (R182). -/
  | anvClrLatch (region unit : Nat)
  /-- ANV_CLR_CNT (R182). -/
  | anvClrCnt (region unit : Nat)
  /-- SLC_CLR_LATCH (R182). -/
  | slcClrLatch (region : Nat)
  /-- SLC_CLR_CNT (R182). -/
  | slcClrCnt (region : Nat)
  /-- SWG_CLR (R222). -/
  | swgClr (region : Nat)
  /-- CRU_CLR (R222). -/
  | cruClr (region : Nat)
  /-- PLN_CLR_LATCH (R260). -/
  | plnClrLatch (region unit : Nat)
  /-- PLN_CLR_CNT (R260). -/
  | plnClrCnt (region unit : Nat)
  /-- TNK_CLR (R260). -/
  | tnkClr (region unit : Nat)
  /-- LDL_CLR (R298). -/
  | ldlClr (region unit : Nat)
  /-- SPD_CLR (R298). -/
  | spdClr (region : Nat)
  /-- DELAY_RESP (R438). -/
  | delayResp (port : Nat) (m : PtpMsg) (us : Nat)
  /-- PLL_RELOCK (R513). -/
  | pllRelock (domain : Nat)
  /-- READY_SIGNAL (R527). -/
  | readySignal (region : Option Nat) (us : Nat) (x : StartInput)
  /-- LINK_UP (R541). -/
  | linkUp (link : LinkId) (us errs : Nat)
  /-- ETHERNET_LINK_DOWN (R448). -/
  | ethernetLinkDown (port : Nat)
  /-- TEMPERATURE_FALLEN_BELOW_LIMIT (R519). -/
  | temperatureFallenBelowLimit (sensor temp : Nat)
  /-- GUARD_REACHED (R326). -/
  | guardReached (region context cycle : Nat)
  /-- SPN_CNTCLR (R58). -/
  | spnCntclr
  /-- DET_CLR (R94). -/
  | detClr
  /-- FMT_CLR (R138). -/
  | fmtClr
  /-- GRD_CLR (R222). -/
  | grdClr
  /-- MEM_CLR (R298). -/
  | memClr
  /-- ELS_CLR (R337). -/
  | elsClr
  /-- RAD_CLR (R375). -/
  | radClr
  /-- CDC_CLR (R416). -/
  | cdcClr
  /-- WGT_CLR (R416). -/
  | wgtClr
  /-- SCH_CLR (R416). -/
  | schClr
  /-- NET_CLR (R450). -/
  | netClr
  /-- FLT_CLR (R479). -/
  | fltClr
  /-- LGR_CLR (R479). -/
  | lgrClr
  /-- TWN_CLR (R509). -/
  | twnClr
  /-- PWR_CLR (R537). -/
  | pwrClr
  /-- CLK_CLR (R537). -/
  | clkClr
  /-- SEC_CLR (R574). -/
  | secClr
  /-- MGT_CLR (R600). -/
  | mgtClr
  /-- NET_PRBS_CLR (R615). -/
  | netPrbsClr
  /-- RAD_PRBS_CLR (R615). -/
  | radPrbsClr
  /-- TWN_PRBS_CLR (R615). -/
  | twnPrbsClr
  deriving DecidableEq, Repr

end Sys2Proof
end

