-- ==== Sys2Proof/Decode.lean ====
section
/-! DEFINITION. Words of the operation table. Its rows give no bits: the commands are events and register
accesses, so no word spells one. -/

namespace Sys2Proof

/-- The command that a word spells by the table's bits: none, since no row of the table gives bits. -/
def decodeTableWord (_nbits _w : Nat) : Option Instr := none

end Sys2Proof
end

