-- ==== Sys2Proof/Config.lean ====
section
/-! DEFINITION. What the manual leaves to another standard, to the part or to nature, as constants
without a body: no proof can see a value of one. Each is named in a log entry. -/

namespace Sys2Proof.Config

/-- A free value, fresh for each number that the state's counter gives (log entry 4). -/
opaque freeValue : Nat → BitVec 64

/-- SHA3-512 of a byte string (R552, R554): a published standard that the manual only names. -/
opaque sha3 : List Byte → BitVec 512

/-- ML-DSA-87 verification of a signature over a digest under a public key (R554 to R569). -/
opaque mldsaVerify : List Byte → BitVec 512 → List Byte → Bool

/-- ML-DSA-87 signature by the identity key, which no register or command reads (R560, R564). -/
opaque mldsaSign : BitVec 512 → List Byte

/-- The identity public key, derived at step 3 and named by the device certificate (R560, R561). -/
opaque identityKey : List Byte

/-- The mask ROM's digest of the vendor public key (R554). -/
opaque vendorKeyDigest : BitVec 512

/-- Parity bits of TS 38.212 LDPC encoding: base graph 2 or not, lifting size, systematic bits (R402). -/
opaque ldpcParity : Bool → Nat → List Bool → List Bool

/-- Layered normalised min-sum on 8-bit LLRs: base graph 2 or not, lifting size, iterations, soft
bits; the systematic bits and whether every parity check holds (R403). -/
opaque ldpcDecode : Bool → Nat → Nat → List Int → List Bool × Bool

/-- Polar encoding of TS 38.212: log2 N, CRC code, message bits (R402). -/
opaque polarEncode : Nat → Nat → List Bool → List Bool

/-- CRC-aided list-8 polar decoding: log2 N, K, CRC code, LLRs (R402). -/
opaque polarDecode : Nat → Nat → Nat → List Int → List Bool × Bool

/-- Whether a window's power between two 0.25 dB steps reads as the lower step, from the sum of the
window and W (R361 states no rounding). -/
opaque powerDown : Nat → Nat → Bool

/-- The fixed latency in cc of a transmit or receive JESD link under its configuration words (R344 gives no value). -/
opaque jesdLatency : Bool → Nat → List (BitVec 32) → BitVec 16

/-- Cycles of a VLOAD beyond the first: vectors, elements and element bits (R175 states none). -/
opaque vloadCycles : Nat → Nat → Nat → Nat

/-- Which value inside its stated accuracy a fast Planisher operation gives: operation code, operand A
and operand B (R229 states the accuracy alone). -/
opaque approx : Nat → BitVec 32 → BitVec 32 → Nat

end Sys2Proof.Config
end

