-- ==== Sys2Proof/Machine/Registers.lean ====
section
/-! DEFINITION. The register tables of the manual (R12 to R15 and the register sections of every
chapter): one row per register name, with its address, its instances, the selector that chooses what
it shows, and its fields with their access codes and start values. -/

namespace Sys2Proof.Machine

/-- Access codes of R13. -/
inductive Access
  | ro | rw | w1c | wo | rws
  deriving DecidableEq, Repr

/-- One field of a register: its lowest bit, its width, its access code, the start value the manual
states, and whether a register value of the image supplies it (R14). -/
structure FieldDef where
  lo : Nat
  width : Nat
  acc : Access
  start : Nat
  image : Bool
  deriving DecidableEq, Repr

/-- What chooses the instance that a register shows, stages or clears (R49, R137, R336, R372, R448,
R535, R615). -/
inductive Selector
  | none | fmtChannel | agcLoop | netPort | elsRegionClass | elsRegion | elsClient | elsContext
  | ofsCell | pwrRegion | radLane | twnLane
  deriving DecidableEq, Repr

/-- One register name: instance `i` along dimension `(stride, count)` adds `i * stride`. -/
structure RegDef where
  name : String
  base : Nat
  dims : List (Nat × Nat)
  sel : Selector
  fields : List FieldDef
  deriving DecidableEq, Repr


/-- ARC.ID (R57): PART [31:16], STEP [15:8], MINOR [7:0]. -/
def Reg.ARC_ID : Nat := 0x0

/-- ARC.GRADE (R57): GRADE [0:0], SLICERS [8:8]. -/
def Reg.ARC_GRADE : Nat := 0x4

/-- ARC.ANVMAP (R57): EN [31:0]. -/
def Reg.ARC_ANVMAP : Nat := 0x8

/-- ARC.LOCFORM (R57): FORM [0:0]. -/
def Reg.ARC_LOCFORM : Nat := 0xC

/-- SPN.FRAME (R58): LEN [9:0]. -/
def Reg.SPN_FRAME : Nat := 0x100

/-- SPN.GATE (R58): FENCED [13:0]. -/
def Reg.SPN_GATE : Nat := 0x104

/-- SPN.ABSCNT (R58): COUNT [31:0]. -/
def Reg.SPN_ABSCNT : Nat := 0x108

/-- SPN.DISCNT (R58): COUNT [31:0]. -/
def Reg.SPN_DISCNT : Nat := 0x10C

/-- SPN.CTLMAX (R58): CC [15:0]. -/
def Reg.SPN_CTLMAX : Nat := 0x110

/-- SPN.ERR (R58): COLL [0:0], UNCORR [1:1], TABLE [2:2]. -/
def Reg.SPN_ERR : Nat := 0x114

/-- SPN.CNTCLR (R58): CLR [0:0]. -/
def Reg.SPN_CNTCLR : Nat := 0x118

/-- DET.MODE (R93): EXACT [0:0], IDENT [2:1]. -/
def Reg.DET_MODE : Nat := 0x200

/-- DET.MATCHREC (R93): GRADE [0:0], ANVILS [15:8], VARIANT [31:16]. -/
def Reg.DET_MATCHREC : Nat := 0x204

/-- DET.VARIANT (R93): ACTIVE [15:0]. -/
def Reg.DET_VARIANT : Nat := 0x208

/-- DET.BREACH (R93): DATA [15:0], ELASTIC [31:16]. -/
def Reg.DET_BREACH : Nat := 0x20C

/-- DET.BRSLOT (R93): SLOT [31:0]. -/
def Reg.DET_BRSLOT : Nat := 0x210

/-- DET.BRCC (R93): CC [20:0], VALID [31:31]. -/
def Reg.DET_BRCC : Nat := 0x214

/-- DET.CLR (R93): CLR [0:0]. -/
def Reg.DET_CLR : Nat := 0x218

/-- FMT.CHSEL (R137): REGION [3:0], UNIT [11:4], CHAN [23:16]. -/
def Reg.FMT_CHSEL : Nat := 0x300

/-- FMT.CHCFG (R137): WM1 [2:0], AUTO [3:3], RESET [4:4], FLOOR [19:8]. -/
def Reg.FMT_CHCFG : Nat := 0x304

/-- FMT.CHZP (R137): ZP [15:0], ZPEN [16:16]. -/
def Reg.FMT_CHZP : Nat := 0x308

/-- FMT.CHSTAT (R137): SHIFT [11:0], HELD [12:12], FRESH [13:13], FLR [14:14], ENTRIES [19:16]. -/
def Reg.FMT_CHSTAT : Nat := 0x30C

/-- FMT.CHMAX (R137): EW [11:0], EMPTY [31:31]. -/
def Reg.FMT_CHMAX : Nat := 0x310

/-- FMT.STAGED (R137): COUNT [6:0], FULL [8:8]. -/
def Reg.FMT_STAGED : Nat := 0x314

/-- FMT.SKEW (R137): DATA [15:0], ELASTIC [31:16]. -/
def Reg.FMT_SKEW : Nat := 0x318

/-- FMT.SKEWSLOT (R137): SLOT [31:0]. -/
def Reg.FMT_SKEWSLOT : Nat := 0x31C

/-- FMT.SKEWLOC (R137): REGION [3:0], UNIT [11:4], VALID [31:31]. -/
def Reg.FMT_SKEWLOC : Nat := 0x320

/-- FMT.FLAGCNT (R137): OVF [15:0], INV [31:16]. -/
def Reg.FMT_FLAGCNT : Nat := 0x324

/-- FMT.CLR (R137): CLR [0:0]. -/
def Reg.FMT_CLR : Nat := 0x328

/-- GRD.CFG (R219): EST [2:0], EQU [6:4], DEM [10:8]. -/
def Reg.GRD_CFG : Nat := 0x400

/-- GRD.KEEP (R219): DEPTH [3:0]. -/
def Reg.GRD_KEEP : Nat := 0x404

/-- GRD.JOBS (R219): OVERRUN [15:0], VOIDIN [31:16]. -/
def Reg.GRD_JOBS : Nat := 0x408

/-- GRD.STALE (R219): COUNT [15:0]. -/
def Reg.GRD_STALE : Nat := 0x40C

/-- GRD.CLR (R219): CLR [0:0]. -/
def Reg.GRD_CLR : Nat := 0x410

/-- SPL.VARCNT (R335): COUNT [15:0]. -/
def Reg.SPL_VARCNT : Nat := 0x500

/-- SPL.SWREQ (R335): VARIANT [15:0], REQ [16:16]. -/
def Reg.SPL_SWREQ : Nat := 0x504

/-- SPL.SWLAST (R335): SLOT [31:0]. -/
def Reg.SPL_SWLAST : Nat := 0x508

/-- SPL.SWCAUSE (R335): FROM [15:0], CAUSE [17:16], COLD [18:18]. -/
def Reg.SPL_SWCAUSE : Nat := 0x50C

/-- SPL.SWCNT (R335): MGMT [15:0], FAULT [31:16]. -/
def Reg.SPL_SWCNT : Nat := 0x510

/-- SPL.PATTERN (R335): PERIOD [6:0], PLAN [13:8]. -/
def Reg.SPL_PATTERN : Nat := 0x514

/-- ELS.CFG (R336): QUANTUM [15:0], SLICE [31:16]. -/
def Reg.ELS_CFG : Nat := 0x600

/-- ELS.NPMAX (R336): CC [19:0]. -/
def Reg.ELS_NPMAX : Nat := 0x604

/-- ELS.WEIGHT (R336): W0 [7:0], W1 [15:8], W2 [23:16], W3 [31:24]. -/
def Reg.ELS_WEIGHT (i : Nat) : Nat := 0x610 + i * 0x4

/-- ELS.CLMAP (R336): CLASS0 [3:0], CLASS1 [7:4], CLASS2 [11:8], CLASS3 [15:12], CLASS4 [19:16], CLASS5 [23:20], CLASS6 [27:24], CLASS7 [31:28]. -/
def Reg.ELS_CLMAP (i : Nat) : Nat := 0x620 + i * 0x4

/-- ELS.SEL (R336): REGION [3:0], CLASS [7:4], CLIENT [13:8], CTX [21:16]. -/
def Reg.ELS_SEL : Nat := 0x640

/-- ELS.DEF (R336): CC [31:0]. -/
def Reg.ELS_DEF : Nat := 0x644

/-- ELS.JOBSUB (R336): COUNT [31:0]. -/
def Reg.ELS_JOBSUB : Nat := 0x648

/-- ELS.JOBDONE (R336): COUNT [31:0]. -/
def Reg.ELS_JOBDONE : Nat := 0x64C

/-- ELS.JOBABRT (R336): COUNT [31:0]. -/
def Reg.ELS_JOBABRT : Nat := 0x650

/-- ELS.CTX (R336): HOME [3:0], STATE [5:4], RES [6:6], QUEUED [12:7], CLIENT [18:13], POS [21:19]. -/
def Reg.ELS_CTX : Nat := 0x654

/-- ELS.SWAPS (R336): COUNT [15:0], EVICT [31:16]. -/
def Reg.ELS_SWAPS : Nat := 0x658

/-- ELS.CUTS (R336): COUNT [15:0], ORDER [31:16]. -/
def Reg.ELS_CUTS : Nat := 0x65C

/-- ELS.OVR (R336): CC [31:0]. -/
def Reg.ELS_OVR : Nat := 0x660

/-- ELS.CLR (R336): CNT [0:0]. -/
def Reg.ELS_CLR : Nat := 0x664

/-- WGT.STATE (R413): ACT [0:0], SB [3:1], GEN [31:16]. -/
def Reg.WGT_STATE : Nat := 0x700

/-- WGT.TRAIN (R413): SETS [15:0], STEPS [31:16]. -/
def Reg.WGT_TRAIN : Nat := 0x704

/-- WGT.ETA (R413): VALUE [31:0]. -/
def Reg.WGT_ETA : Nat := 0x708

/-- WGT.CLIP (R413): VALUE [31:0]. -/
def Reg.WGT_CLIP : Nat := 0x70C

/-- WGT.CTL (R413): AUTO [0:0], REQ [1:1], REVERT [2:2]. -/
def Reg.WGT_CTL : Nat := 0x710

/-- WGT.CNT (R413): PROMOTED [15:0], REJECTED [31:16]. -/
def Reg.WGT_CNT : Nat := 0x714

/-- WGT.SAT (R413): COUNT [31:0]. -/
def Reg.WGT_SAT : Nat := 0x718

/-- WGT.CLR (R413): CNT [0:0]. -/
def Reg.WGT_CLR : Nat := 0x71C

/-- TST.CFG (R414): FRAC [5:0], EVAL [31:16]. -/
def Reg.TST_CFG : Nat := 0x740

/-- TST.LIM (R414): MARGIN [15:0], MINBLK [31:16]. -/
def Reg.TST_LIM : Nat := 0x744

/-- TST.N (R414): COUNT [31:0]. -/
def Reg.TST_N : Nat := 0x748

/-- TST.EACT (R414): COUNT [31:0]. -/
def Reg.TST_EACT : Nat := 0x74C

/-- TST.ECAND (R414): COUNT [31:0]. -/
def Reg.TST_ECAND : Nat := 0x750

/-- TST.ECLS (R414): COUNT [31:0]. -/
def Reg.TST_ECLS : Nat := 0x754

/-- TST.DROP (R414): COUNT [31:0]. -/
def Reg.TST_DROP : Nat := 0x758

/-- SCH.CFG (R415): HANDIN [15:0]. -/
def Reg.SCH_CFG : Nat := 0x780

/-- SCH.CNT (R415): LATE [7:0], OVF [15:8], VOID [31:16]. -/
def Reg.SCH_CNT : Nat := 0x784

/-- SCH.CLR (R415): CNT [0:0]. -/
def Reg.SCH_CLR : Nat := 0x788

/-- ANV.CTL (R180): DIGITS [3:0], SFMT [7:4], KROWS [15:8], NCOLS [22:16], CPLX [23:23], LOADED [24:24], PHYS [26:25], CHKREQ [28:28]. -/
def Reg.ANV_CTL (r a : Nat) : Nat := 0x10010000 + r * 0x1000000 + a * 0x1000

/-- ANV.STAT (R180): FLAGS [15:0], ARRAY [16:16], DRAIN [17:17]. -/
def Reg.ANV_STAT (r a : Nat) : Nat := 0x10010004 + r * 0x1000000 + a * 0x1000

/-- ANV.ZISLOT (R180): SLOT [31:0]. -/
def Reg.ANV_ZISLOT (r a : Nat) : Nat := 0x10010008 + r * 0x1000000 + a * 0x1000

/-- ANV.ZIPOS (R180): ROW [15:0], COL [21:16], KBLK [28:22], VALID [31:31]. -/
def Reg.ANV_ZIPOS (r a : Nat) : Nat := 0x1001000C + r * 0x1000000 + a * 0x1000

/-- ANV.FRZ (R180): DRY [15:0], BACKUP [31:16]. -/
def Reg.ANV_FRZ (r a : Nat) : Nat := 0x10010010 + r * 0x1000000 + a * 0x1000

/-- ANV.CHK (R180): COUNT [15:0]. -/
def Reg.ANV_CHK (r a : Nat) : Nat := 0x10010014 + r * 0x1000000 + a * 0x1000

/-- ANV.CHKSLOT (R180): SLOT [31:0]. -/
def Reg.ANV_CHKSLOT (r a : Nat) : Nat := 0x10010018 + r * 0x1000000 + a * 0x1000

/-- ANV.ACT (R180): CC [31:0]. -/
def Reg.ANV_ACT (r a : Nat) : Nat := 0x1001001C + r * 0x1000000 + a * 0x1000

/-- ANV.EROWS (R180): BASE [8:0], LEN [25:16]. -/
def Reg.ANV_EROWS (r a : Nat) : Nat := 0x10010020 + r * 0x1000000 + a * 0x1000

/-- ANV.CLR (R180): LATCH [0:0], CNT [1:1]. -/
def Reg.ANV_CLR (r a : Nat) : Nat := 0x10010024 + r * 0x1000000 + a * 0x1000

/-- PLN.CTL (R258): ETBASE [2:0], ETLEN [7:4]. -/
def Reg.PLN_CTL (r p : Nat) : Nat := 0x10014000 + r * 0x1000000 + p * 0x1000

/-- PLN.STAT (R258): FLAGS [15:0], LS [16:16], ARITH [17:17]. -/
def Reg.PLN_STAT (r p : Nat) : Nat := 0x10014004 + r * 0x1000000 + p * 0x1000

/-- PLN.LFLG0 (R258): LANES [31:0]. -/
def Reg.PLN_LFLG0 (r p : Nat) : Nat := 0x10014008 + r * 0x1000000 + p * 0x1000

/-- PLN.LFLG1 (R258): LANES [31:0]. -/
def Reg.PLN_LFLG1 (r p : Nat) : Nat := 0x1001400C + r * 0x1000000 + p * 0x1000

/-- PLN.ZISLOT (R258): SLOT [31:0]. -/
def Reg.PLN_ZISLOT (r p : Nat) : Nat := 0x10014010 + r * 0x1000000 + p * 0x1000

/-- PLN.ZIPOS (R258): ROW [5:0], LANE [11:6], TILE [14:12], VALID [31:31]. -/
def Reg.PLN_ZIPOS (r p : Nat) : Nat := 0x10014014 + r * 0x1000000 + p * 0x1000

/-- PLN.WIT (R258): COUNT [15:0], LANE [21:16], VALID [31:31]. -/
def Reg.PLN_WIT (r p : Nat) : Nat := 0x10014018 + r * 0x1000000 + p * 0x1000

/-- PLN.WITSLOT (R258): SLOT [31:0]. -/
def Reg.PLN_WITSLOT (r p : Nat) : Nat := 0x1001401C + r * 0x1000000 + p * 0x1000

/-- PLN.ACT (R258): CC [31:0]. -/
def Reg.PLN_ACT (r p : Nat) : Nat := 0x10014020 + r * 0x1000000 + p * 0x1000

/-- PLN.STRICT (R258): CC [31:0]. -/
def Reg.PLN_STRICT (r p : Nat) : Nat := 0x10014024 + r * 0x1000000 + p * 0x1000

/-- PLN.CLR (R258): LATCH [0:0], CNT [1:1]. -/
def Reg.PLN_CLR (r p : Nat) : Nat := 0x10014028 + r * 0x1000000 + p * 0x1000

/-- SLC.STAT (R181): FLAGS [15:0], BUSY [16:16]. -/
def Reg.SLC_STAT (r : Nat) : Nat := 0x10018000 + r * 0x1000000

/-- SLC.ZISLOT (R181): SLOT [31:0]. -/
def Reg.SLC_ZISLOT (r : Nat) : Nat := 0x10018004 + r * 0x1000000

/-- SLC.ZIPOS (R181): VEC [3:0], OUT [17:4], KBLK [26:18], VALID [31:31]. -/
def Reg.SLC_ZIPOS (r : Nat) : Nat := 0x10018008 + r * 0x1000000

/-- SLC.FRZ (R181): CC [15:0], CHK [31:16]. -/
def Reg.SLC_FRZ (r : Nat) : Nat := 0x1001800C + r * 0x1000000

/-- SLC.BYTES (R181): KIB [31:0]. -/
def Reg.SLC_BYTES (r : Nat) : Nat := 0x10018010 + r * 0x1000000

/-- SLC.CLR (R181): LATCH [0:0], CNT [1:1]. -/
def Reg.SLC_CLR (r : Nat) : Nat := 0x10018014 + r * 0x1000000

/-- SWG.STAT (R220): FLAGS [15:0], FILL [16:16], EMIT [17:17]. -/
def Reg.SWG_STAT (r : Nat) : Nat := 0x10019000 + r * 0x1000000

/-- SWG.CHK (R220): COUNT [15:0], HC [31:16]. -/
def Reg.SWG_CHK (r : Nat) : Nat := 0x10019004 + r * 0x1000000

/-- SWG.CHKSLOT (R220): SLOT [31:0]. -/
def Reg.SWG_CHKSLOT (r : Nat) : Nat := 0x10019008 + r * 0x1000000

/-- SWG.BYTES (R220): KIB [31:0]. -/
def Reg.SWG_BYTES (r : Nat) : Nat := 0x1001900C + r * 0x1000000

/-- SWG.CLR (R220): CNT [0:0]. -/
def Reg.SWG_CLR (r : Nat) : Nat := 0x10019010 + r * 0x1000000

/-- CRU.STAT (R221): FLAGS [15:0], BUSY [16:16]. -/
def Reg.CRU_STAT (r : Nat) : Nat := 0x1001A000 + r * 0x1000000

/-- CRU.TSEL (R221): TENS [3:0]. -/
def Reg.CRU_TSEL (r : Nat) : Nat := 0x1001A004 + r * 0x1000000

/-- CRU.TBASE (R221): BASE [17:0], OPEN [31:31]. -/
def Reg.CRU_TBASE (r : Nat) : Nat := 0x1001A008 + r * 0x1000000

/-- CRU.TSHAPE (R221): ROWS [12:0], COLS [28:16]. -/
def Reg.CRU_TSHAPE (r : Nat) : Nat := 0x1001A00C + r * 0x1000000

/-- CRU.TEXP (R221): G [11:0], OWNER [21:16]. -/
def Reg.CRU_TEXP (r : Nat) : Nat := 0x1001A010 + r * 0x1000000

/-- CRU.TFLAGS (R221): FLAGS [15:0], VOID [16:16], RHO [31:17]. -/
def Reg.CRU_TFLAGS (r : Nat) : Nat := 0x1001A014 + r * 0x1000000

/-- CRU.TACC (R221): COUNT [31:0]. -/
def Reg.CRU_TACC (r : Nat) : Nat := 0x1001A018 + r * 0x1000000

/-- CRU.SAT (R221): COUNT [15:0], ALIGN [31:16]. -/
def Reg.CRU_SAT (r : Nat) : Nat := 0x1001A01C + r * 0x1000000

/-- CRU.CLR (R221): CNT [0:0]. -/
def Reg.CRU_CLR (r : Nat) : Nat := 0x1001A020 + r * 0x1000000

/-- CRU.TRHO (R221): RHO [15:0]. -/
def Reg.CRU_TRHO (r : Nat) : Nat := 0x1001A024 + r * 0x1000000

/-- TNK.STAT (R259): BUSY [0:0], BROWS [14:8]. -/
def Reg.TNK_STAT (r t : Nat) : Nat := 0x1001C000 + r * 0x1000000 + t * 0x400

/-- TNK.SELF (R259): COUNT [15:0], HC [31:16]. -/
def Reg.TNK_SELF (r t : Nat) : Nat := 0x1001C004 + r * 0x1000000 + t * 0x400

/-- TNK.SELFSLOT (R259): SLOT [31:0]. -/
def Reg.TNK_SELFSLOT (r t : Nat) : Nat := 0x1001C008 + r * 0x1000000 + t * 0x400

/-- TNK.LKMISS (R259): COUNT [15:0], DROP [31:16]. -/
def Reg.TNK_LKMISS (r t : Nat) : Nat := 0x1001C00C + r * 0x1000000 + t * 0x400

/-- TNK.BATCH (R259): FULL [15:0], CLOSED [31:16]. -/
def Reg.TNK_BATCH (r t : Nat) : Nat := 0x1001C010 + r * 0x1000000 + t * 0x400

/-- TNK.REENC (R259): ACCEPT [15:0], REFUSED [31:16]. -/
def Reg.TNK_REENC (r t : Nat) : Nat := 0x1001C014 + r * 0x1000000 + t * 0x400

/-- TNK.CLR (R259): CNT [0:0]. -/
def Reg.TNK_CLR (r t : Nat) : Nat := 0x1001C018 + r * 0x1000000 + t * 0x400

/-- LDL.STAT (R295): ACTIVE [0:0], SHADOW [1:1], STOPPING [2:2], BLK [15:8], DRAIN [25:16]. -/
def Reg.LDL_STAT (r l : Nat) : Nat := 0x1001D000 + r * 0x1000000 + l * 0x100

/-- LDL.HDR (R295): WORD [31:0]. -/
def Reg.LDL_HDR (r l k : Nat) : Nat := 0x1001D004 + r * 0x1000000 + l * 0x100 + k * 0x4

/-- LDL.DESC0 (R295): ADDR [31:0]. -/
def Reg.LDL_DESC0 (r l : Nat) : Nat := 0x1001D020 + r * 0x1000000 + l * 0x100

/-- LDL.DESC1 (R295): ADDRHI [3:0], SPACE [5:4], REGION [8:6], KIND [10:9], USZ [13:11]. -/
def Reg.LDL_DESC1 (r l : Nat) : Nat := 0x1001D024 + r * 0x1000000 + l * 0x100

/-- LDL.DESC2 (R295): CNT0 [15:0], CNT1 [31:16]. -/
def Reg.LDL_DESC2 (r l : Nat) : Nat := 0x1001D028 + r * 0x1000000 + l * 0x100

/-- LDL.DESC3 (R295): CNT2 [15:0], CNT3 [31:16]. -/
def Reg.LDL_DESC3 (r l : Nat) : Nat := 0x1001D02C + r * 0x1000000 + l * 0x100

/-- LDL.STR (R295): STR [31:0]. -/
def Reg.LDL_STR (r l k : Nat) : Nat := 0x1001D030 + r * 0x1000000 + l * 0x100 + k * 0x4

/-- LDL.ERR (R295): REARM [7:0], HC [15:8], RANGE [23:16], ABSENT [31:24]. -/
def Reg.LDL_ERR (r l : Nat) : Nat := 0x1001D040 + r * 0x1000000 + l * 0x100

/-- LDL.ERRSLOT (R295): SLOT [31:0]. -/
def Reg.LDL_ERRSLOT (r l : Nat) : Nat := 0x1001D044 + r * 0x1000000 + l * 0x100

/-- LDL.BYTES (R295): KIB [31:0]. -/
def Reg.LDL_BYTES (r l : Nat) : Nat := 0x1001D048 + r * 0x1000000 + l * 0x100

/-- LDL.CLR (R295): CNT [0:0]. -/
def Reg.LDL_CLR (r l : Nat) : Nat := 0x1001D04C + r * 0x1000000 + l * 0x100

/-- SPD.RETLO (R296): BANKS [31:0]. -/
def Reg.SPD_RETLO (r : Nat) : Nat := 0x1001E000 + r * 0x1000000

/-- SPD.RETHI (R296): BANKS [15:0]. -/
def Reg.SPD_RETHI (r : Nat) : Nat := 0x1001E004 + r * 0x1000000

/-- SPD.SCRUB (R296): PASSES [15:0]. -/
def Reg.SPD_SCRUB (r : Nat) : Nat := 0x1001E008 + r * 0x1000000

/-- SPD.ECC (R296): CORR [15:0], UNCORR [31:16]. -/
def Reg.SPD_ECC (r : Nat) : Nat := 0x1001E00C + r * 0x1000000

/-- SPD.ECCLOC (R296): BANK [5:0], WORD [21:6], VALID [31:31]. -/
def Reg.SPD_ECCLOC (r : Nat) : Nat := 0x1001E010 + r * 0x1000000

/-- SPD.COLL (R296): COUNT [15:0]. -/
def Reg.SPD_COLL (r : Nat) : Nat := 0x1001E014 + r * 0x1000000

/-- SPD.CLR (R296): CNT [0:0]. -/
def Reg.SPD_CLR (r : Nat) : Nat := 0x1001E018 + r * 0x1000000

/-- RAD.SYSREF (R370): CONT [0:0], ALIGNED [1:1], EDGES [15:8], PHERR [23:16]. -/
def Reg.RAD_SYSREF : Nat := 0x18000000

/-- RAD.OFDM (R370): NR [0:0]. -/
def Reg.RAD_OFDM : Nat := 0x18000004

/-- RAD.CNT (R370): FIXED [15:0], TXLATE [31:16]. -/
def Reg.RAD_CNT : Nat := 0x18000008

/-- RAD.CLR (R370): CNT [0:0]. -/
def Reg.RAD_CLR : Nat := 0x1800000C

/-- RAD.LPBK (R615): LINKS [7:0], DEPTH [9:8], ACTIVE [23:16]. -/
def Reg.RAD_LPBK : Nat := 0x18000010

/-- RAD.PRBS (R615): LANE [4:0], GEN [7:5], CHK [10:8], LOCK [11:11], CLR [16:16]. -/
def Reg.RAD_PRBS : Nat := 0x18000014

/-- RAD.PRBSERR (R615): ERRORS [31:0]. -/
def Reg.RAD_PRBSERR : Nat := 0x18000018

/-- RAD.TRATE (R615): RATE [11:0]. -/
def Reg.RAD_TRATE : Nat := 0x1800001C

/-- JRX.CFG0 (R371): LANES [23:0]. -/
def Reg.JRX_CFG0 (n : Nat) : Nat := 0x18001000 + n * 0x20

/-- JRX.CFG1 (R371): M [5:0], NSEL [7:6], S2 [8:8], EM1 [10:9], RATE [23:12]. -/
def Reg.JRX_CFG1 (n : Nat) : Nat := 0x18001004 + n * 0x20

/-- JRX.CFG2 (R371): RBD [6:0], OFS [31:16]. -/
def Reg.JRX_CFG2 (n : Nat) : Nat := 0x18001008 + n * 0x20

/-- JRX.STAT (R371): STATE [2:0], LAT [31:16]. -/
def Reg.JRX_STAT (n : Nat) : Nat := 0x1800100C + n * 0x20

/-- JRX.ERR (R371): CRC [7:0], SH [15:8], EB [23:16], RELOCK [31:24]. -/
def Reg.JRX_ERR (n : Nat) : Nat := 0x18001010 + n * 0x20

/-- JTX.CFG0 (R371): LANES [23:0]. -/
def Reg.JTX_CFG0 (n : Nat) : Nat := 0x18001400 + n * 0x20

/-- JTX.CFG1 (R371): M [5:0], NSEL [7:6], S2 [8:8], EM1 [10:9], RATE [23:12]. -/
def Reg.JTX_CFG1 (n : Nat) : Nat := 0x18001404 + n * 0x20

/-- JTX.CFG2 (R371): RBD [6:0], OFS [31:16]. -/
def Reg.JTX_CFG2 (n : Nat) : Nat := 0x18001408 + n * 0x20

/-- JTX.STAT (R371): STATE [2:0], LAT [31:16]. -/
def Reg.JTX_STAT (n : Nat) : Nat := 0x1800140C + n * 0x20

/-- JTX.ERR (R371): CRC [7:0], SH [15:8], EB [23:16], RELOCK [31:24]. -/
def Reg.JTX_ERR (n : Nat) : Nat := 0x18001410 + n * 0x20

/-- AGC.SEL (R372): LOOP [5:0]. -/
def Reg.AGC_SEL : Nat := 0x18002000

/-- AGC.CFG (R372): TGT [7:0], W [11:8], HYST [15:12], DSTEP [19:16], RISE [23:20], FLEN [27:24], MANUAL [28:28], DETEN [29:29]. -/
def Reg.AGC_CFG : Nat := 0x18002004

/-- AGC.MAN (R372): ATT [7:0]. -/
def Reg.AGC_MAN : Nat := 0x18002008

/-- AGC.STAT (R372): ATT [7:0], FROZEN [8:8], PENDING [9:9], PWR [23:16]. -/
def Reg.AGC_STAT : Nat := 0x1800200C

/-- AGC.CNT (R372): WORDS [15:0], DET [23:16], WDRAWN [31:24]. -/
def Reg.AGC_CNT : Nat := 0x18002010

/-- NCO.CTL (R373): EN [0:0], CLRD [1:1]. -/
def Reg.NCO_CTL (n : Nat) : Nat := 0x18002400 + n * 0x10

/-- NCO.BASE (R373): FREQ [31:0]. -/
def Reg.NCO_BASE (n : Nat) : Nat := 0x18002404 + n * 0x10

/-- NCO.DELTA (R373): FREQ [31:0]. -/
def Reg.NCO_DELTA (n : Nat) : Nat := 0x18002408 + n * 0x10

/-- NCO.TOFF (R373): SAMPLES [15:0]. -/
def Reg.NCO_TOFF (n : Nat) : Nat := 0x1800240C + n * 0x10

/-- TE.STAT (R374): FLAGS [15:0], BUSY [16:16], BE [21:17]. -/
def Reg.TE_STAT (t : Nat) : Nat := 0x18003000 + t * 0x10

/-- TE.ACT (R374): CC [31:0]. -/
def Reg.TE_ACT (t : Nat) : Nat := 0x18003004 + t * 0x10

/-- STP.CFG (R374): LANES [3:0], GLEAD [17:4]. -/
def Reg.STP_CFG : Nat := 0x18004000

/-- STP.STAT (R374): DEPTH [7:0], REFUSED [15:8], SENT [31:16]. -/
def Reg.STP_STAT : Nat := 0x18004004

/-- STP.ERR (R374): LATE [15:0], FULL [31:16]. -/
def Reg.STP_ERR : Nat := 0x18004008

/-- STP.LPBK (R615): DEPTH [1:0], LANES [7:4], ACTIVE [11:8]. -/
def Reg.STP_LPBK : Nat := 0x1800400C

/-- STP.LPCNT (R615): FRAMES [15:0], ERRORS [31:16]. -/
def Reg.STP_LPCNT : Nat := 0x18004010

/-- OFS.CFG (R415): GSH [3:0], HAND [31:4]. -/
def Reg.OFS_CFG : Nat := 0x18005000

/-- OFS.FEST (R415): VALUE [31:0]. -/
def Reg.OFS_FEST : Nat := 0x18005004

/-- OFS.TEST (R415): VALUE [31:0]. -/
def Reg.OFS_TEST : Nat := 0x18005008

/-- OFS.SEL (R415): CELL [2:0]. -/
def Reg.OFS_SEL : Nat := 0x1800500C

/-- NET.PORTSEL (R448): PORT [3:0]. -/
def Reg.NET_PORTSEL : Nat := 0x19000000

/-- NET.PSTAT (R448): LINK [0:0], FEC [1:1], UNCORR [31:16]. -/
def Reg.NET_PSTAT : Nat := 0x19000004

/-- NET.PCNT (R448): DROP [15:0], FULL [31:16]. -/
def Reg.NET_PCNT : Nat := 0x19000008

/-- NET.STAT (R448): FLAGS [15:0]. -/
def Reg.NET_STAT : Nat := 0x1900000C

/-- NET.FHCNT0 (R448): EARLY [15:0], LATE [31:16]. -/
def Reg.NET_FHCNT0 : Nat := 0x19000010

/-- NET.FHCNT1 (R448): MISS [15:0], DUP [31:16]. -/
def Reg.NET_FHCNT1 : Nat := 0x19000014

/-- NET.FHCNT2 (R448): UNMATCHED [15:0], BADHDR [31:16]. -/
def Reg.NET_FHCNT2 : Nat := 0x19000018

/-- NET.L2CNT0 (R448): DROP [7:0], BAD [15:8], LATE [31:16]. -/
def Reg.NET_L2CNT0 : Nat := 0x19000020

/-- NET.L2CNT1 (R448): FULL [7:0], NODATA [15:8], GAP [31:16]. -/
def Reg.NET_L2CNT1 : Nat := 0x19000024

/-- NET.PTPFWD (R448): MASK [7:0]. -/
def Reg.NET_PTPFWD : Nat := 0x19000030

/-- NET.PTPLAT (R448): IN [15:0], EG [31:16]. -/
def Reg.NET_PTPLAT : Nat := 0x19000034

/-- NET.PTPCNT (R448): DROP [15:0], NOFU [31:16]. -/
def Reg.NET_PTPCNT : Nat := 0x19000038

/-- NET.SYNCE (R448): SRC0 [3:0], SRC1 [7:4], QLRX [11:8], QLTX [15:12]. -/
def Reg.NET_SYNCE : Nat := 0x1900003C

/-- NET.CLR (R448): CNT [0:0]. -/
def Reg.NET_CLR : Nat := 0x19000040

/-- NET.LPBK (R615): DEPTH [2:0], ACTIVE [8:8]. -/
def Reg.NET_LPBK : Nat := 0x19000100

/-- NET.PRBS (R615): GEN [2:0], GSSPRQ [3:3], CHK [6:4], CSSPRQ [7:7], LOCK [9:8], CLR [16:16]. -/
def Reg.NET_PRBS : Nat := 0x19000104

/-- NET.PRBSERR0 (R615): ERRORS [31:0]. -/
def Reg.NET_PRBSERR0 : Nat := 0x19000108

/-- NET.PRBSERR1 (R615): ERRORS [31:0]. -/
def Reg.NET_PRBSERR1 : Nat := 0x1900010C

/-- NET.PRBSBITS (R615): UNITS [31:0]. -/
def Reg.NET_PRBSBITS : Nat := 0x19000110

/-- CDC.SB (R412): BASE [29:0]. -/
def Reg.CDC_SB : Nat := 0x1A000000

/-- CDC.SBSZ (R412): SIZE [23:0]. -/
def Reg.CDC_SBSZ : Nat := 0x1A000004

/-- CDC.CB (R412): COUNT [31:0]. -/
def Reg.CDC_CB : Nat := 0x1A000008

/-- CDC.CBFAIL (R412): COUNT [31:0]. -/
def Reg.CDC_CBFAIL : Nat := 0x1A00000C

/-- CDC.TBPASS (R412): COUNT [31:0]. -/
def Reg.CDC_TBPASS : Nat := 0x1A000010

/-- CDC.TBFAIL (R412): COUNT [31:0]. -/
def Reg.CDC_TBFAIL : Nat := 0x1A000014

/-- CDC.REFUSE (R412): REC [15:0], VOIDIN [31:16]. -/
def Reg.CDC_REFUSE : Nat := 0x1A000018

/-- CDC.RQ (R412): DEPTH [4:0], FULL [15:8], INVALID [23:16]. -/
def Reg.CDC_RQ : Nat := 0x1A00001C

/-- CDC.CLR (R412): CNT [0:0]. -/
def Reg.CDC_CLR : Nat := 0x1A000020

/-- MEM.CFG (R297): STACKS [1:0], GIB [15:8]. -/
def Reg.MEM_CFG : Nat := 0x1B000000

/-- MEM.STAT (R297): TEMP0 [7:0], TEMP1 [15:8], HOT [16:16]. -/
def Reg.MEM_STAT : Nat := 0x1B000004

/-- MEM.REFGAP (R297): MAX [9:0]. -/
def Reg.MEM_REFGAP : Nat := 0x1B000008

/-- MEM.ECC (R297): CORR [15:0], UNCORR [31:16]. -/
def Reg.MEM_ECC : Nat := 0x1B00000C

/-- MEM.ECCADDR (R297): ADDR [31:0]. -/
def Reg.MEM_ECCADDR : Nat := 0x1B000010

/-- MEM.ECCADDRHI (R297): ADDR [3:0], VALID [31:31]. -/
def Reg.MEM_ECCADDRHI : Nat := 0x1B000014

/-- MEM.RDSTR (R297): COUNT [31:0]. -/
def Reg.MEM_RDSTR : Nat := 0x1B000018

/-- MEM.WRSTR (R297): COUNT [31:0]. -/
def Reg.MEM_WRSTR : Nat := 0x1B00001C

/-- MEM.LATE (R297): DATA [15:0], ELASTIC [31:16]. -/
def Reg.MEM_LATE : Nat := 0x1B000020

/-- MEM.TBLERR (R297): COUNT [15:0]. -/
def Reg.MEM_TBLERR : Nat := 0x1B000024

/-- MEM.CLR (R297): CNT [0:0]. -/
def Reg.MEM_CLR : Nat := 0x1B000028

/-- MEM.LPBK (R615): STACKS [1:0], ACTIVE [9:8]. -/
def Reg.MEM_LPBK : Nat := 0x1B000040

/-- MEM.LPRES (R615): RUNS [15:0], ERRORS [31:16]. -/
def Reg.MEM_LPRES : Nat := 0x1B000044

/-- TWN.CFG (R508): MODE [1:0], ID [2:2], LATMAX [27:16]. -/
def Reg.TWN_CFG : Nat := 0x1C000000

/-- TWN.VAR (R508): PEER [15:0], LOSS [31:16]. -/
def Reg.TWN_VAR : Nat := 0x1C000004

/-- TWN.STAT (R508): STATE [2:0], LIVE [3:3], LINK [4:4], PEEROK [5:5], SUSPECT [6:6]. -/
def Reg.TWN_STAT : Nat := 0x1C000008

/-- TWN.LAT (R508): CC [11:0]. -/
def Reg.TWN_LAT : Nat := 0x1C00000C

/-- TWN.DIGLO (R508): VALUE [31:0]. -/
def Reg.TWN_DIGLO : Nat := 0x1C000010

/-- TWN.DIGHI (R508): VALUE [31:0]. -/
def Reg.TWN_DIGHI : Nat := 0x1C000014

/-- TWN.PDIGLO (R508): VALUE [31:0]. -/
def Reg.TWN_PDIGLO : Nat := 0x1C000018

/-- TWN.PDIGHI (R508): VALUE [31:0]. -/
def Reg.TWN_PDIGHI : Nat := 0x1C00001C

/-- TWN.DSLOT (R508): SLOT [31:0]. -/
def Reg.TWN_DSLOT : Nat := 0x1C000020

/-- TWN.CNT (R508): DISAGREE [15:0], TAKEOVER [23:16], YIELD [31:24]. -/
def Reg.TWN_CNT : Nat := 0x1C000024

/-- TWN.LNK (R508): LOST [15:0], DOWN [23:16], MISSING [31:24]. -/
def Reg.TWN_LNK : Nat := 0x1C000028

/-- TWN.JOIN (R508): SLOT [31:0]. -/
def Reg.TWN_JOIN : Nat := 0x1C00002C

/-- TWN.CTL (R508): ATTACH [0:0], DETACH [1:1], SWAP [2:2]. -/
def Reg.TWN_CTL : Nat := 0x1C000030

/-- TWN.CLR (R508): CNT [0:0]. -/
def Reg.TWN_CLR : Nat := 0x1C000034

/-- TWN.LPBK (R615): DEPTH [2:0], ACTIVE [8:8]. -/
def Reg.TWN_LPBK : Nat := 0x1C000040

/-- TWN.PRBS (R615): LANE [4:0], GEN [7:5], CHK [10:8], LOCK [11:11], CLR [16:16]. -/
def Reg.TWN_PRBS : Nat := 0x1C000044

/-- TWN.PRBSERR (R615): ERRORS [31:0]. -/
def Reg.TWN_PRBSERR : Nat := 0x1C000048

/-- MGT.COMMIT (R599): GROUPS [14:0]. -/
def Reg.MGT_COMMIT : Nat := 0x1F000000

/-- MGT.DISCARD (R599): GROUPS [14:0]. -/
def Reg.MGT_DISCARD : Nat := 0x1F000004

/-- MGT.CSTAT (R599): ACCEPTED [14:0], REFUSED [30:16]. -/
def Reg.MGT_CSTAT : Nat := 0x1F000008

/-- MGT.CEPOCH (R599): SLOT [31:0]. -/
def Reg.MGT_CEPOCH : Nat := 0x1F00000C

/-- MGT.CREASON (R599): REASON [3:0], GROUP [7:4]. -/
def Reg.MGT_CREASON : Nat := 0x1F000010

/-- MGT.CADDR (R599): ADDR [31:0]. -/
def Reg.MGT_CADDR : Nat := 0x1F000014

/-- MGT.PEND (R599): STAGED [14:0], WAIT [30:16]. -/
def Reg.MGT_PEND : Nat := 0x1F000018

/-- MGT.CCNT (R599): ACCEPT [15:0], REFUSE [31:16]. -/
def Reg.MGT_CCNT : Nat := 0x1F00001C

/-- MGT.ACC (R599): UNASSIGNED [15:0], FRAME [31:16]. -/
def Reg.MGT_ACC : Nat := 0x1F000020

/-- MGT.EPOCH (R599): COUNT [31:0]. -/
def Reg.MGT_EPOCH : Nat := 0x1F000024

/-- MGT.I3C (R599): DA [6:0], DAVALID [7:7], SA [14:8], ENINT [15:15], HDR [16:16]. -/
def Reg.MGT_I3C : Nat := 0x1F000030

/-- MGT.IBI (R599): UNANN [10:0], NACK [23:16], SENT [31:24]. -/
def Reg.MGT_IBI : Nat := 0x1F000034

/-- MGT.SEQ (R599): EN [15:0]. -/
def Reg.MGT_SEQ : Nat := 0x1F000040

/-- MGT.SEQSTAT (R599): PROG [3:0], BUSY [4:4], STEP [15:8], OVERRUN [31:16]. -/
def Reg.MGT_SEQSTAT : Nat := 0x1F000044

/-- MGT.TLMCFG (R599): COUNT [8:0]. -/
def Reg.MGT_TLMCFG : Nat := 0x1F000050

/-- MGT.TLMSEL (R599): INDEX [7:0]. -/
def Reg.MGT_TLMSEL : Nat := 0x1F000054

/-- MGT.TLMDATA (R599): VALUE [31:0]. -/
def Reg.MGT_TLMDATA : Nat := 0x1F000058

/-- MGT.TLMEPOCH (R599): COUNT [31:0]. -/
def Reg.MGT_TLMEPOCH : Nat := 0x1F00005C

/-- MGT.CLR (R599): CNT [0:0]. -/
def Reg.MGT_CLR : Nat := 0x1F000060

/-- MGT.I3CTEST (R615): ECHO [7:0]. -/
def Reg.MGT_I3CTEST : Nat := 0x1F000070

/-- TCK.SLOTLEN (R92): LEN [20:0]. -/
def Reg.TCK_SLOTLEN : Nat := 0x1F000400

/-- TCK.SPE (R92): N [3:0]. -/
def Reg.TCK_SPE : Nat := 0x1F000404

/-- TCK.SLOTNUM (R92): NUM [31:0]. -/
def Reg.TCK_SLOTNUM : Nat := 0x1F000408

/-- TCK.FRAME (R92): SLOT [6:0], SFN [25:16]. -/
def Reg.TCK_FRAME : Nat := 0x1F00040C

/-- TCK.SYMS (R92): COUNT [3:0]. -/
def Reg.TCK_SYMS : Nat := 0x1F000410

/-- TCK.ALIGN (R92): NS [31:0]. -/
def Reg.TCK_ALIGN : Nat := 0x1F000414

/-- TCK.PHERR (R92): PS [15:0], PPB [31:16]. -/
def Reg.TCK_PHERR : Nat := 0x1F000418

/-- TCK.SYMOFF (R92): CC [20:0]. -/
def Reg.TCK_SYMOFF (k : Nat) : Nat := 0x1F000440 + k * 0x4

/-- TU.SECHI (R449): SEC [15:0]. -/
def Reg.TU_SECHI : Nat := 0x1F000800

/-- TU.SECLO (R449): SEC [31:0]. -/
def Reg.TU_SECLO : Nat := 0x1F000804

/-- TU.NS (R449): NS [29:0]. -/
def Reg.TU_NS : Nat := 0x1F000808

/-- TU.SUBNS (R449): SUB [15:0]. -/
def Reg.TU_SUBNS : Nat := 0x1F00080C

/-- TU.STAT (R449): STATE [1:0], PENDING [2:2], SLEW [3:3]. -/
def Reg.TU_STAT : Nat := 0x1F000810

/-- TU.OFS (R449): NS [31:0]. -/
def Reg.TU_OFS : Nat := 0x1F000814

/-- TU.STEP (R449): THR [23:0]. -/
def Reg.TU_STEP : Nat := 0x1F000818

/-- TU.PEND (R449): NS [31:0]. -/
def Reg.TU_PEND : Nat := 0x1F00081C

/-- TU.CTL (R449): ACCEPT [0:0], FREE [1:1]. -/
def Reg.TU_CTL : Nat := 0x1F000820

/-- TU.CAPSRC (R449): SRC0 [1:0], SRC1 [5:4], SRC2 [9:8], SRC3 [13:12]. -/
def Reg.TU_CAPSRC : Nat := 0x1F000824

/-- TU.TRGS (R449): SEC [31:0]. -/
def Reg.TU_TRGS (n : Nat) : Nat := 0x1F000840 + n * 0x10

/-- TU.TRGN (R449): NS [29:0], EN [31:31]. -/
def Reg.TU_TRGN (n : Nat) : Nat := 0x1F000844 + n * 0x10

/-- TU.TRGP (R449): PERIOD [31:0]. -/
def Reg.TU_TRGP (n : Nat) : Nat := 0x1F000848 + n * 0x10

/-- TU.TRGC (R449): WIDTH [15:0], LATE [16:16], REFUSED [17:17], FIRED [31:24]. -/
def Reg.TU_TRGC (n : Nat) : Nat := 0x1F00084C + n * 0x10

/-- TU.CAPS (R449): SEC [31:0]. -/
def Reg.TU_CAPS (n : Nat) : Nat := 0x1F000880 + n * 0x10

/-- TU.CAPN (R449): NS [29:0], VALID [31:31]. -/
def Reg.TU_CAPN (n : Nat) : Nat := 0x1F000884 + n * 0x10

/-- TU.CAPF (R449): SUB [15:0], LOST [31:24]. -/
def Reg.TU_CAPF (n : Nat) : Nat := 0x1F000888 + n * 0x10

/-- FLT.CFG (R477): IBIM [0:0], L2CLS [2:1], COAL [3:3]. -/
def Reg.FLT_CFG : Nat := 0x1F000C00

/-- FLT.COV (R477): LEVEL [1:0]. -/
def Reg.FLT_COV : Nat := 0x1F000C04

/-- FLT.QSTAT (R477): COUNT [10:0], MASKED [26:16]. -/
def Reg.FLT_QSTAT : Nat := 0x1F000C08

/-- FLT.POP (R477): POP [0:0]. -/
def Reg.FLT_POP : Nat := 0x1F000C0C

/-- FLT.LOST (R477): MASKED [15:0], OTHER [31:16]. -/
def Reg.FLT_LOST : Nat := 0x1F000C10

/-- FLT.CNTD (R477): COUNT [31:0]. -/
def Reg.FLT_CNTD : Nat := 0x1F000C14

/-- FLT.CNTM (R477): COUNT [31:0]. -/
def Reg.FLT_CNTM : Nat := 0x1F000C18

/-- FLT.FATAL (R477): CODE [15:0], VALID [31:31]. -/
def Reg.FLT_FATAL : Nat := 0x1F000C1C

/-- FLT.REC (R477): WORD [31:0]. -/
def Reg.FLT_REC (k : Nat) : Nat := 0x1F000C20 + k * 0x4

/-- FLT.STEST (R477): PASSES [15:0], FAIL [31:16]. -/
def Reg.FLT_STEST : Nat := 0x1F000C40

/-- FLT.CLR (R477): CNT [0:0]. -/
def Reg.FLT_CLR : Nat := 0x1F000C44

/-- LGR.LAST (R478): SLOT [31:0]. -/
def Reg.LGR_LAST : Nat := 0x1F000E00

/-- LGR.LCNT (R478): VOID [15:0], SUSPECT [31:16]. -/
def Reg.LGR_LCNT : Nat := 0x1F000E04

/-- LGR.TOTAL (R478): COUNT [31:0]. -/
def Reg.LGR_TOTAL : Nat := 0x1F000E08

/-- LGR.XOVF (R478): COUNT [15:0], LOST [31:16]. -/
def Reg.LGR_XOVF : Nat := 0x1F000E0C

/-- LGR.XBUF (R478): ADDR [24:0], REGION [27:25]. -/
def Reg.LGR_XBUF : Nat := 0x1F000E10

/-- LGR.XNUM (R478): BUF [11:0]. -/
def Reg.LGR_XNUM : Nat := 0x1F000E14

/-- LGR.QSEL (R478): REGION [3:0], BUF [15:4], LAG [17:16]. -/
def Reg.LGR_QSEL : Nat := 0x1F000E18

/-- LGR.QRES (R478): COMPLETE [0:0], VOID [1:1], SUSPECT [2:2]. -/
def Reg.LGR_QRES : Nat := 0x1F000E1C

/-- LGR.CLR (R478): CNT [0:0]. -/
def Reg.LGR_CLR : Nat := 0x1F000E20

/-- PWR.STATE (R535): CUR [1:0], REQ [3:2], TRIM [4:4]. -/
def Reg.PWR_STATE : Nat := 0x1F001000

/-- PWR.CAP (R535): CAP [12:0], PEAK [28:16]. -/
def Reg.PWR_CAP : Nat := 0x1F001004

/-- PWR.DOM (R535): ON [29:0]. -/
def Reg.PWR_DOM : Nat := 0x1F001008

/-- PWR.RREQ (R535): REGION [3:0], ACT [5:4]. -/
def Reg.PWR_RREQ : Nat := 0x1F00100C

/-- PWR.MEAS (R535): MEAN [12:0], PEAK [28:16]. -/
def Reg.PWR_MEAS : Nat := 0x1F001010

/-- PWR.TEMP (R535): TJ [7:0], SENSOR [11:8], WARN [16:16]. -/
def Reg.PWR_TEMP : Nat := 0x1F001014

/-- PWR.SEL (R535): REGION [3:0]. -/
def Reg.PWR_SEL : Nat := 0x1F001018

/-- PWR.GOV (R535): BUDGET [12:0], GRANTED [28:16]. -/
def Reg.PWR_GOV : Nat := 0x1F00101C

/-- PWR.WAIT (R535): CC [31:0]. -/
def Reg.PWR_WAIT : Nat := 0x1F001020

/-- PWR.RSTCAUSE (R535): POR [0:0], BOR [1:1], KEEP [2:2]. -/
def Reg.PWR_RSTCAUSE : Nat := 0x1F001024

/-- PWR.WAKE (R535): PIN [0:0], TRIG [1:1], I3C [2:2], NOW [8:8]. -/
def Reg.PWR_WAKE : Nat := 0x1F001028

/-- PWR.WTIME (R535): US [15:0]. -/
def Reg.PWR_WTIME : Nat := 0x1F00102C

/-- PWR.CLR (R535): CNT [0:0]. -/
def Reg.PWR_CLR : Nat := 0x1F001030

/-- CLK.RUN0 (R536): ON [31:0]. -/
def Reg.CLK_RUN0 : Nat := 0x1F001200

/-- CLK.RUN1 (R536): ON [7:0]. -/
def Reg.CLK_RUN1 : Nat := 0x1F001204

/-- CLK.LOL (R536): DOMAIN [5:0], COUNT [15:8], VALID [31:31]. -/
def Reg.CLK_LOL : Nat := 0x1F001208

/-- CLK.CLR (R536): CNT [0:0]. -/
def Reg.CLK_CLR : Nat := 0x1F00120C

/-- STA.STEP (R571): STEP [3:0], MGMTONLY [4:4]. -/
def Reg.STA_STEP : Nat := 0x1F001400

/-- STA.STRAP (R571): TWIN_SEL [0:0], I3CSA [3:1], RECOVERY [4:4]. -/
def Reg.STA_STRAP : Nat := 0x1F001404

/-- STA.IMG (R571): SLOT [0:0], FALLBACK [1:1], SIGNER [2:2], SAVEDW [3:3], REGREST [4:4], KEYID [31:16]. -/
def Reg.STA_IMG : Nat := 0x1F001408

/-- STA.IMGVER (R571): VERSION [31:0]. -/
def Reg.STA_IMGVER : Nat := 0x1F00140C

/-- STA.REFUSE (R571): REASON [3:0], SECTION [13:4], ITEM [31:16]. -/
def Reg.STA_REFUSE : Nat := 0x1F001410

/-- STA.TSTEP (R571): US [31:0]. -/
def Reg.STA_TSTEP (k : Nat) : Nat := 0x1F001420 + k * 0x4

/-- STA.DIG (R571): BYTES [31:0]. -/
def Reg.STA_DIG (k : Nat) : Nat := 0x1F001460 + k * 0x4

/-- STA.MBIST (R616): MEMS [15:0], FAILED [31:16]. -/
def Reg.STA_MBIST : Nat := 0x1F0014C0

/-- STA.REPAIR (R616): ENTRIES [8:0], UNITS [23:16]. -/
def Reg.STA_REPAIR : Nat := 0x1F0014C4

/-- STA.LBPLN (R616): PLN [15:0], SLC [23:16]. -/
def Reg.STA_LBPLN : Nat := 0x1F0014C8

/-- STA.LBANV (R616): PASS [31:0]. -/
def Reg.STA_LBANV : Nat := 0x1F0014CC

/-- STA.RMSEL (R616): INDEX [7:0]. -/
def Reg.STA_RMSEL : Nat := 0x1F0014D0

/-- STA.RMDATA (R616): WORD [31:0]. -/
def Reg.STA_RMDATA (k : Nat) : Nat := 0x1F0014D4 + k * 0x4

/-- SEC.ID (R572): PUFOK [0:0], CERT [1:1], CGRADE [2:2]. -/
def Reg.SEC_ID : Nat := 0x1F001600

/-- SEC.SERLO (R572): SERIAL [31:0]. -/
def Reg.SEC_SERLO : Nat := 0x1F001604

/-- SEC.SERHI (R572): SERIAL [31:0]. -/
def Reg.SEC_SERHI : Nat := 0x1F001608

/-- SEC.NONCE (R572): BYTES [31:0]. -/
def Reg.SEC_NONCE (k : Nat) : Nat := 0x1F001610 + k * 0x4

/-- SEC.ATTCTL (R572): GO [0:0], MAP [1:1]. -/
def Reg.SEC_ATTCTL : Nat := 0x1F001630

/-- SEC.ATTSTAT (R572): BUSY [0:0], READY [1:1], STATUS [3:2], LENGTH [31:16]. -/
def Reg.SEC_ATTSTAT : Nat := 0x1F001634

/-- SEC.ATTDATA (R572): WORD [31:0]. -/
def Reg.SEC_ATTDATA : Nat := 0x1F001638

/-- SEC.CNT (R572): REPORTS [15:0], BUSY [23:16], UNAVAIL [31:24]. -/
def Reg.SEC_CNT : Nat := 0x1F00163C

/-- SEC.CLR (R572): CNT [0:0]. -/
def Reg.SEC_CLR : Nat := 0x1F001640

/-- NVM.ADDR (R573): OFFSET [31:0]. -/
def Reg.NVM_ADDR : Nat := 0x1F001800

/-- NVM.DATA (R573): WORD [31:0]. -/
def Reg.NVM_DATA : Nat := 0x1F001804

/-- NVM.CMD (R573): CMD [3:0], SLOT [4:4]. -/
def Reg.NVM_CMD : Nat := 0x1F001808

/-- NVM.STAT (R573): BUSY [0:0], WORDS [7:1], RESULT [11:8], REASON [15:12], VER0 [16:16], VER1 [17:17], ERRORS [31:24]. -/
def Reg.NVM_STAT : Nat := 0x1F00180C


def regTable0 : List RegDef := [
  ⟨"ARC.ID", 0x0, [], .none, [⟨16, 16, .ro, 2368, false⟩, ⟨8, 8, .ro, 176, false⟩, ⟨0, 8, .ro, 0, false⟩]⟩,
  ⟨"ARC.GRADE", 0x4, [], .none, [⟨0, 1, .ro, 0, false⟩, ⟨8, 1, .ro, 0, false⟩]⟩,
  ⟨"ARC.ANVMAP", 0x8, [], .none, [⟨0, 32, .ro, 0, false⟩]⟩,
  ⟨"ARC.LOCFORM", 0xC, [], .none, [⟨0, 1, .rws, 0, true⟩]⟩,
  ⟨"SPN.FRAME", 0x100, [], .none, [⟨0, 10, .ro, 0, true⟩]⟩,
  ⟨"SPN.GATE", 0x104, [], .none, [⟨0, 14, .ro, 0, false⟩]⟩,
  ⟨"SPN.ABSCNT", 0x108, [], .none, [⟨0, 32, .ro, 0, false⟩]⟩,
  ⟨"SPN.DISCNT", 0x10C, [], .none, [⟨0, 32, .ro, 0, false⟩]⟩,
  ⟨"SPN.CTLMAX", 0x110, [], .none, [⟨0, 16, .ro, 0, false⟩]⟩,
  ⟨"SPN.ERR", 0x114, [], .none, [⟨0, 1, .w1c, 0, false⟩, ⟨1, 1, .w1c, 0, false⟩, ⟨2, 1, .w1c, 0, false⟩]⟩,
  ⟨"SPN.CNTCLR", 0x118, [], .none, [⟨0, 1, .wo, 0, false⟩]⟩,
  ⟨"DET.MODE", 0x200, [], .none, [⟨0, 1, .rws, 0, true⟩, ⟨1, 2, .ro, 0, false⟩]⟩,
  ⟨"DET.MATCHREC", 0x204, [], .none, [⟨0, 1, .ro, 0, false⟩, ⟨8, 8, .ro, 0, false⟩, ⟨16, 16, .ro, 0, false⟩]⟩,
  ⟨"DET.VARIANT", 0x208, [], .none, [⟨0, 16, .ro, 0, false⟩]⟩,
  ⟨"DET.BREACH", 0x20C, [], .none, [⟨0, 16, .ro, 0, false⟩, ⟨16, 16, .ro, 0, false⟩]⟩,
  ⟨"DET.BRSLOT", 0x210, [], .none, [⟨0, 32, .ro, 0, false⟩]⟩,
  ⟨"DET.BRCC", 0x214, [], .none, [⟨0, 21, .ro, 0, false⟩, ⟨31, 1, .ro, 0, false⟩]⟩,
  ⟨"DET.CLR", 0x218, [], .none, [⟨0, 1, .wo, 0, false⟩]⟩,
  ⟨"FMT.CHSEL", 0x300, [], .none, [⟨0, 4, .rw, 0, false⟩, ⟨4, 8, .rw, 0, false⟩, ⟨16, 8, .rw, 0, false⟩]⟩,
  ⟨"FMT.CHCFG", 0x304, [], .fmtChannel, [⟨0, 3, .rws, 0, false⟩, ⟨3, 1, .rws, 0, false⟩, ⟨4, 1, .rws, 0, false⟩, ⟨8, 12, .rws, 0, false⟩]⟩,
  ⟨"FMT.CHZP", 0x308, [], .fmtChannel, [⟨0, 16, .rws, 0, false⟩, ⟨16, 1, .rws, 0, false⟩]⟩,
  ⟨"FMT.CHSTAT", 0x30C, [], .fmtChannel, [⟨0, 12, .ro, 0, false⟩, ⟨12, 1, .ro, 0, false⟩, ⟨13, 1, .ro, 0, false⟩, ⟨14, 1, .ro, 0, false⟩, ⟨16, 4, .ro, 0, false⟩]⟩,
  ⟨"FMT.CHMAX", 0x310, [], .fmtChannel, [⟨0, 12, .ro, 0, false⟩, ⟨31, 1, .ro, 0, false⟩]⟩,
  ⟨"FMT.STAGED", 0x314, [], .none, [⟨0, 7, .ro, 0, false⟩, ⟨8, 1, .w1c, 0, false⟩]⟩]


def regTable1 : List RegDef := [
  ⟨"FMT.SKEW", 0x318, [], .none, [⟨0, 16, .ro, 0, false⟩, ⟨16, 16, .ro, 0, false⟩]⟩,
  ⟨"FMT.SKEWSLOT", 0x31C, [], .none, [⟨0, 32, .ro, 0, false⟩]⟩,
  ⟨"FMT.SKEWLOC", 0x320, [], .none, [⟨0, 4, .ro, 0, false⟩, ⟨4, 8, .ro, 0, false⟩, ⟨31, 1, .ro, 0, false⟩]⟩,
  ⟨"FMT.FLAGCNT", 0x324, [], .none, [⟨0, 16, .ro, 0, false⟩, ⟨16, 16, .ro, 0, false⟩]⟩,
  ⟨"FMT.CLR", 0x328, [], .none, [⟨0, 1, .wo, 0, false⟩]⟩,
  ⟨"GRD.CFG", 0x400, [], .none, [⟨0, 3, .ro, 0, true⟩, ⟨4, 3, .ro, 0, true⟩, ⟨8, 3, .ro, 0, true⟩]⟩,
  ⟨"GRD.KEEP", 0x404, [], .none, [⟨0, 4, .ro, 0, true⟩]⟩,
  ⟨"GRD.JOBS", 0x408, [], .none, [⟨0, 16, .ro, 0, false⟩, ⟨16, 16, .ro, 0, false⟩]⟩,
  ⟨"GRD.STALE", 0x40C, [], .none, [⟨0, 16, .ro, 0, false⟩]⟩,
  ⟨"GRD.CLR", 0x410, [], .none, [⟨0, 1, .wo, 0, false⟩]⟩,
  ⟨"SPL.VARCNT", 0x500, [], .none, [⟨0, 16, .ro, 0, false⟩]⟩,
  ⟨"SPL.SWREQ", 0x504, [], .none, [⟨0, 16, .rws, 0, false⟩, ⟨16, 1, .rws, 0, false⟩]⟩,
  ⟨"SPL.SWLAST", 0x508, [], .none, [⟨0, 32, .ro, 0, false⟩]⟩,
  ⟨"SPL.SWCAUSE", 0x50C, [], .none, [⟨0, 16, .ro, 0, false⟩, ⟨16, 2, .ro, 0, false⟩, ⟨18, 1, .ro, 0, false⟩]⟩,
  ⟨"SPL.SWCNT", 0x510, [], .none, [⟨0, 16, .ro, 0, false⟩, ⟨16, 16, .ro, 0, false⟩]⟩,
  ⟨"SPL.PATTERN", 0x514, [], .none, [⟨0, 7, .ro, 0, false⟩, ⟨8, 6, .ro, 0, false⟩]⟩,
  ⟨"ELS.CFG", 0x600, [], .none, [⟨0, 16, .rws, 0, true⟩, ⟨16, 16, .rws, 0, true⟩]⟩,
  ⟨"ELS.NPMAX", 0x604, [], .none, [⟨0, 20, .ro, 0, true⟩]⟩,
  ⟨"ELS.WEIGHT", 0x610, [(0x4, 4)], .none, [⟨0, 8, .rws, 0, true⟩, ⟨8, 8, .rws, 0, true⟩, ⟨16, 8, .rws, 0, true⟩, ⟨24, 8, .rws, 0, true⟩]⟩,
  ⟨"ELS.CLMAP", 0x620, [(0x4, 8)], .none, [⟨0, 4, .rws, 0, true⟩, ⟨4, 4, .rws, 0, true⟩, ⟨8, 4, .rws, 0, true⟩, ⟨12, 4, .rws, 0, true⟩, ⟨16, 4, .rws, 0, true⟩, ⟨20, 4, .rws, 0, true⟩, ⟨24, 4, .rws, 0, true⟩, ⟨28, 4, .rws, 0, true⟩]⟩,
  ⟨"ELS.SEL", 0x640, [], .none, [⟨0, 4, .rw, 0, false⟩, ⟨4, 4, .rw, 0, false⟩, ⟨8, 6, .rw, 0, false⟩, ⟨16, 6, .rw, 0, false⟩]⟩,
  ⟨"ELS.DEF", 0x644, [], .elsRegionClass, [⟨0, 32, .ro, 0, false⟩]⟩,
  ⟨"ELS.JOBSUB", 0x648, [], .elsClient, [⟨0, 32, .ro, 0, false⟩]⟩,
  ⟨"ELS.JOBDONE", 0x64C, [], .elsClient, [⟨0, 32, .ro, 0, false⟩]⟩]


def regTable2 : List RegDef := [
  ⟨"ELS.JOBABRT", 0x650, [], .elsClient, [⟨0, 32, .ro, 0, false⟩]⟩,
  ⟨"ELS.CTX", 0x654, [], .elsContext, [⟨0, 4, .ro, 0, false⟩, ⟨4, 2, .ro, 0, false⟩, ⟨6, 1, .ro, 0, false⟩, ⟨7, 6, .ro, 0, false⟩, ⟨13, 6, .ro, 0, false⟩, ⟨19, 3, .ro, 0, false⟩]⟩,
  ⟨"ELS.SWAPS", 0x658, [], .elsRegion, [⟨0, 16, .ro, 0, false⟩, ⟨16, 16, .ro, 0, false⟩]⟩,
  ⟨"ELS.CUTS", 0x65C, [], .elsRegion, [⟨0, 16, .ro, 0, false⟩, ⟨16, 16, .ro, 0, false⟩]⟩,
  ⟨"ELS.OVR", 0x660, [], .elsRegion, [⟨0, 32, .ro, 0, false⟩]⟩,
  ⟨"ELS.CLR", 0x664, [], .none, [⟨0, 1, .wo, 0, false⟩]⟩,
  ⟨"WGT.STATE", 0x700, [], .none, [⟨0, 1, .ro, 0, false⟩, ⟨1, 3, .ro, 0, false⟩, ⟨16, 16, .ro, 0, false⟩]⟩,
  ⟨"WGT.TRAIN", 0x704, [], .none, [⟨0, 16, .rws, 0, true⟩, ⟨16, 16, .rws, 0, true⟩]⟩,
  ⟨"WGT.ETA", 0x708, [], .none, [⟨0, 32, .rws, 0, true⟩]⟩,
  ⟨"WGT.CLIP", 0x70C, [], .none, [⟨0, 32, .rws, 0, true⟩]⟩,
  ⟨"WGT.CTL", 0x710, [], .none, [⟨0, 1, .rws, 0, true⟩, ⟨1, 1, .rws, 0, false⟩, ⟨2, 1, .rws, 0, false⟩]⟩,
  ⟨"WGT.CNT", 0x714, [], .none, [⟨0, 16, .ro, 0, false⟩, ⟨16, 16, .ro, 0, false⟩]⟩,
  ⟨"WGT.SAT", 0x718, [], .none, [⟨0, 32, .ro, 0, false⟩]⟩,
  ⟨"WGT.CLR", 0x71C, [], .none, [⟨0, 1, .wo, 0, false⟩]⟩,
  ⟨"TST.CFG", 0x740, [], .none, [⟨0, 6, .rws, 0, true⟩, ⟨16, 16, .rws, 0, true⟩]⟩,
  ⟨"TST.LIM", 0x744, [], .none, [⟨0, 16, .rws, 0, true⟩, ⟨16, 16, .rws, 0, true⟩]⟩,
  ⟨"TST.N", 0x748, [], .none, [⟨0, 32, .ro, 0, false⟩]⟩,
  ⟨"TST.EACT", 0x74C, [], .none, [⟨0, 32, .ro, 0, false⟩]⟩,
  ⟨"TST.ECAND", 0x750, [], .none, [⟨0, 32, .ro, 0, false⟩]⟩,
  ⟨"TST.ECLS", 0x754, [], .none, [⟨0, 32, .ro, 0, false⟩]⟩,
  ⟨"TST.DROP", 0x758, [], .none, [⟨0, 32, .ro, 0, false⟩]⟩,
  ⟨"SCH.CFG", 0x780, [], .none, [⟨0, 16, .ro, 0, true⟩]⟩,
  ⟨"SCH.CNT", 0x784, [], .none, [⟨0, 8, .ro, 0, false⟩, ⟨8, 8, .ro, 0, false⟩, ⟨16, 16, .ro, 0, false⟩]⟩,
  ⟨"SCH.CLR", 0x788, [], .none, [⟨0, 1, .wo, 0, false⟩]⟩]


def regTable3 : List RegDef := [
  ⟨"ANV.CTL", 0x10010000, [(0x1000000, 8), (0x1000, 4)], .none, [⟨0, 4, .ro, 0, false⟩, ⟨4, 4, .ro, 0, false⟩, ⟨8, 8, .ro, 0, false⟩, ⟨16, 7, .ro, 0, false⟩, ⟨23, 1, .ro, 0, false⟩, ⟨24, 1, .ro, 0, false⟩, ⟨25, 2, .ro, 0, false⟩, ⟨28, 1, .ro, 0, false⟩]⟩,
  ⟨"ANV.STAT", 0x10010004, [(0x1000000, 8), (0x1000, 4)], .none, [⟨0, 16, .w1c, 0, false⟩, ⟨16, 1, .ro, 0, false⟩, ⟨17, 1, .ro, 0, false⟩]⟩,
  ⟨"ANV.ZISLOT", 0x10010008, [(0x1000000, 8), (0x1000, 4)], .none, [⟨0, 32, .ro, 0, false⟩]⟩,
  ⟨"ANV.ZIPOS", 0x1001000C, [(0x1000000, 8), (0x1000, 4)], .none, [⟨0, 16, .ro, 0, false⟩, ⟨16, 6, .ro, 0, false⟩, ⟨22, 7, .ro, 0, false⟩, ⟨31, 1, .ro, 0, false⟩]⟩,
  ⟨"ANV.FRZ", 0x10010010, [(0x1000000, 8), (0x1000, 4)], .none, [⟨0, 16, .ro, 0, false⟩, ⟨16, 16, .ro, 0, false⟩]⟩,
  ⟨"ANV.CHK", 0x10010014, [(0x1000000, 8), (0x1000, 4)], .none, [⟨0, 16, .ro, 0, false⟩]⟩,
  ⟨"ANV.CHKSLOT", 0x10010018, [(0x1000000, 8), (0x1000, 4)], .none, [⟨0, 32, .ro, 0, false⟩]⟩,
  ⟨"ANV.ACT", 0x1001001C, [(0x1000000, 8), (0x1000, 4)], .none, [⟨0, 32, .ro, 0, false⟩]⟩,
  ⟨"ANV.EROWS", 0x10010020, [(0x1000000, 8), (0x1000, 4)], .none, [⟨0, 9, .ro, 0, true⟩, ⟨16, 10, .ro, 0, true⟩]⟩,
  ⟨"ANV.CLR", 0x10010024, [(0x1000000, 8), (0x1000, 4)], .none, [⟨0, 1, .wo, 0, false⟩, ⟨1, 1, .wo, 0, false⟩]⟩,
  ⟨"PLN.CTL", 0x10014000, [(0x1000000, 8), (0x1000, 2)], .none, [⟨0, 3, .ro, 0, true⟩, ⟨4, 4, .ro, 0, true⟩]⟩,
  ⟨"PLN.STAT", 0x10014004, [(0x1000000, 8), (0x1000, 2)], .none, [⟨0, 16, .w1c, 0, false⟩, ⟨16, 1, .ro, 0, false⟩, ⟨17, 1, .ro, 0, false⟩]⟩,
  ⟨"PLN.LFLG0", 0x10014008, [(0x1000000, 8), (0x1000, 2)], .none, [⟨0, 32, .w1c, 0, false⟩]⟩,
  ⟨"PLN.LFLG1", 0x1001400C, [(0x1000000, 8), (0x1000, 2)], .none, [⟨0, 32, .w1c, 0, false⟩]⟩,
  ⟨"PLN.ZISLOT", 0x10014010, [(0x1000000, 8), (0x1000, 2)], .none, [⟨0, 32, .ro, 0, false⟩]⟩,
  ⟨"PLN.ZIPOS", 0x10014014, [(0x1000000, 8), (0x1000, 2)], .none, [⟨0, 6, .ro, 0, false⟩, ⟨6, 6, .ro, 0, false⟩, ⟨12, 3, .ro, 0, false⟩, ⟨31, 1, .ro, 0, false⟩]⟩,
  ⟨"PLN.WIT", 0x10014018, [(0x1000000, 8), (0x1000, 2)], .none, [⟨0, 16, .ro, 0, false⟩, ⟨16, 6, .ro, 0, false⟩, ⟨31, 1, .ro, 0, false⟩]⟩,
  ⟨"PLN.WITSLOT", 0x1001401C, [(0x1000000, 8), (0x1000, 2)], .none, [⟨0, 32, .ro, 0, false⟩]⟩,
  ⟨"PLN.ACT", 0x10014020, [(0x1000000, 8), (0x1000, 2)], .none, [⟨0, 32, .ro, 0, false⟩]⟩,
  ⟨"PLN.STRICT", 0x10014024, [(0x1000000, 8), (0x1000, 2)], .none, [⟨0, 32, .ro, 0, false⟩]⟩,
  ⟨"PLN.CLR", 0x10014028, [(0x1000000, 8), (0x1000, 2)], .none, [⟨0, 1, .wo, 0, false⟩, ⟨1, 1, .wo, 0, false⟩]⟩,
  ⟨"SLC.STAT", 0x10018000, [(0x1000000, 8)], .none, [⟨0, 16, .w1c, 0, false⟩, ⟨16, 1, .ro, 0, false⟩]⟩,
  ⟨"SLC.ZISLOT", 0x10018004, [(0x1000000, 8)], .none, [⟨0, 32, .ro, 0, false⟩]⟩,
  ⟨"SLC.ZIPOS", 0x10018008, [(0x1000000, 8)], .none, [⟨0, 4, .ro, 0, false⟩, ⟨4, 14, .ro, 0, false⟩, ⟨18, 9, .ro, 0, false⟩, ⟨31, 1, .ro, 0, false⟩]⟩]


def regTable4 : List RegDef := [
  ⟨"SLC.FRZ", 0x1001800C, [(0x1000000, 8)], .none, [⟨0, 16, .ro, 0, false⟩, ⟨16, 16, .ro, 0, false⟩]⟩,
  ⟨"SLC.BYTES", 0x10018010, [(0x1000000, 8)], .none, [⟨0, 32, .ro, 0, false⟩]⟩,
  ⟨"SLC.CLR", 0x10018014, [(0x1000000, 8)], .none, [⟨0, 1, .wo, 0, false⟩, ⟨1, 1, .wo, 0, false⟩]⟩,
  ⟨"SWG.STAT", 0x10019000, [(0x1000000, 8)], .none, [⟨0, 16, .w1c, 0, false⟩, ⟨16, 1, .ro, 0, false⟩, ⟨17, 1, .ro, 0, false⟩]⟩,
  ⟨"SWG.CHK", 0x10019004, [(0x1000000, 8)], .none, [⟨0, 16, .ro, 0, false⟩, ⟨16, 16, .ro, 0, false⟩]⟩,
  ⟨"SWG.CHKSLOT", 0x10019008, [(0x1000000, 8)], .none, [⟨0, 32, .ro, 0, false⟩]⟩,
  ⟨"SWG.BYTES", 0x1001900C, [(0x1000000, 8)], .none, [⟨0, 32, .ro, 0, false⟩]⟩,
  ⟨"SWG.CLR", 0x10019010, [(0x1000000, 8)], .none, [⟨0, 1, .wo, 0, false⟩]⟩,
  ⟨"CRU.STAT", 0x1001A000, [(0x1000000, 8)], .none, [⟨0, 16, .w1c, 0, false⟩, ⟨16, 1, .ro, 0, false⟩]⟩,
  ⟨"CRU.TSEL", 0x1001A004, [(0x1000000, 8)], .none, [⟨0, 4, .rw, 0, false⟩]⟩,
  ⟨"CRU.TBASE", 0x1001A008, [(0x1000000, 8)], .none, [⟨0, 18, .ro, 0, false⟩, ⟨31, 1, .ro, 0, false⟩]⟩,
  ⟨"CRU.TSHAPE", 0x1001A00C, [(0x1000000, 8)], .none, [⟨0, 13, .ro, 0, false⟩, ⟨16, 13, .ro, 0, false⟩]⟩,
  ⟨"CRU.TEXP", 0x1001A010, [(0x1000000, 8)], .none, [⟨0, 12, .ro, 0, false⟩, ⟨16, 6, .ro, 0, false⟩]⟩,
  ⟨"CRU.TFLAGS", 0x1001A014, [(0x1000000, 8)], .none, [⟨0, 16, .ro, 0, false⟩, ⟨16, 1, .ro, 0, false⟩, ⟨17, 15, .ro, 0, false⟩]⟩,
  ⟨"CRU.TACC", 0x1001A018, [(0x1000000, 8)], .none, [⟨0, 32, .ro, 0, false⟩]⟩,
  ⟨"CRU.SAT", 0x1001A01C, [(0x1000000, 8)], .none, [⟨0, 16, .ro, 0, false⟩, ⟨16, 16, .ro, 0, false⟩]⟩,
  ⟨"CRU.CLR", 0x1001A020, [(0x1000000, 8)], .none, [⟨0, 1, .wo, 0, false⟩]⟩,
  ⟨"CRU.TRHO", 0x1001A024, [(0x1000000, 8)], .none, [⟨0, 16, .ro, 0, false⟩]⟩,
  ⟨"TNK.STAT", 0x1001C000, [(0x1000000, 8), (0x400, 4)], .none, [⟨0, 1, .ro, 0, false⟩, ⟨8, 7, .ro, 0, false⟩]⟩,
  ⟨"TNK.SELF", 0x1001C004, [(0x1000000, 8), (0x400, 4)], .none, [⟨0, 16, .ro, 0, false⟩, ⟨16, 16, .ro, 0, false⟩]⟩,
  ⟨"TNK.SELFSLOT", 0x1001C008, [(0x1000000, 8), (0x400, 4)], .none, [⟨0, 32, .ro, 0, false⟩]⟩,
  ⟨"TNK.LKMISS", 0x1001C00C, [(0x1000000, 8), (0x400, 4)], .none, [⟨0, 16, .ro, 0, false⟩, ⟨16, 16, .ro, 0, false⟩]⟩,
  ⟨"TNK.BATCH", 0x1001C010, [(0x1000000, 8), (0x400, 4)], .none, [⟨0, 16, .ro, 0, false⟩, ⟨16, 16, .ro, 0, false⟩]⟩,
  ⟨"TNK.REENC", 0x1001C014, [(0x1000000, 8), (0x400, 4)], .none, [⟨0, 16, .ro, 0, false⟩, ⟨16, 16, .ro, 0, false⟩]⟩]


def regTable5 : List RegDef := [
  ⟨"TNK.CLR", 0x1001C018, [(0x1000000, 8), (0x400, 4)], .none, [⟨0, 1, .wo, 0, false⟩]⟩,
  ⟨"LDL.STAT", 0x1001D000, [(0x1000000, 8), (0x100, 6)], .none, [⟨0, 1, .ro, 0, false⟩, ⟨1, 1, .ro, 0, false⟩, ⟨2, 1, .ro, 0, false⟩, ⟨8, 8, .ro, 0, false⟩, ⟨16, 10, .ro, 0, false⟩]⟩,
  ⟨"LDL.HDR", 0x1001D004, [(0x1000000, 8), (0x100, 6), (0x4, 5)], .none, [⟨0, 32, .ro, 0, false⟩]⟩,
  ⟨"LDL.DESC0", 0x1001D020, [(0x1000000, 8), (0x100, 6)], .none, [⟨0, 32, .ro, 0, false⟩]⟩,
  ⟨"LDL.DESC1", 0x1001D024, [(0x1000000, 8), (0x100, 6)], .none, [⟨0, 4, .ro, 0, false⟩, ⟨4, 2, .ro, 0, false⟩, ⟨6, 3, .ro, 0, false⟩, ⟨9, 2, .ro, 0, false⟩, ⟨11, 3, .ro, 0, false⟩]⟩,
  ⟨"LDL.DESC2", 0x1001D028, [(0x1000000, 8), (0x100, 6)], .none, [⟨0, 16, .ro, 0, false⟩, ⟨16, 16, .ro, 0, false⟩]⟩,
  ⟨"LDL.DESC3", 0x1001D02C, [(0x1000000, 8), (0x100, 6)], .none, [⟨0, 16, .ro, 0, false⟩, ⟨16, 16, .ro, 0, false⟩]⟩,
  ⟨"LDL.STR", 0x1001D030, [(0x1000000, 8), (0x100, 6), (0x4, 4)], .none, [⟨0, 32, .ro, 0, false⟩]⟩,
  ⟨"LDL.ERR", 0x1001D040, [(0x1000000, 8), (0x100, 6)], .none, [⟨0, 8, .ro, 0, false⟩, ⟨8, 8, .ro, 0, false⟩, ⟨16, 8, .ro, 0, false⟩, ⟨24, 8, .ro, 0, false⟩]⟩,
  ⟨"LDL.ERRSLOT", 0x1001D044, [(0x1000000, 8), (0x100, 6)], .none, [⟨0, 32, .ro, 0, false⟩]⟩,
  ⟨"LDL.BYTES", 0x1001D048, [(0x1000000, 8), (0x100, 6)], .none, [⟨0, 32, .ro, 0, false⟩]⟩,
  ⟨"LDL.CLR", 0x1001D04C, [(0x1000000, 8), (0x100, 6)], .none, [⟨0, 1, .wo, 0, false⟩]⟩,
  ⟨"SPD.RETLO", 0x1001E000, [(0x1000000, 8)], .none, [⟨0, 32, .ro, 0, true⟩]⟩,
  ⟨"SPD.RETHI", 0x1001E004, [(0x1000000, 8)], .none, [⟨0, 16, .ro, 0, true⟩]⟩,
  ⟨"SPD.SCRUB", 0x1001E008, [(0x1000000, 8)], .none, [⟨0, 16, .ro, 0, false⟩]⟩,
  ⟨"SPD.ECC", 0x1001E00C, [(0x1000000, 8)], .none, [⟨0, 16, .ro, 0, false⟩, ⟨16, 16, .ro, 0, false⟩]⟩,
  ⟨"SPD.ECCLOC", 0x1001E010, [(0x1000000, 8)], .none, [⟨0, 6, .ro, 0, false⟩, ⟨6, 16, .ro, 0, false⟩, ⟨31, 1, .ro, 0, false⟩]⟩,
  ⟨"SPD.COLL", 0x1001E014, [(0x1000000, 8)], .none, [⟨0, 16, .ro, 0, false⟩]⟩,
  ⟨"SPD.CLR", 0x1001E018, [(0x1000000, 8)], .none, [⟨0, 1, .wo, 0, false⟩]⟩,
  ⟨"RAD.SYSREF", 0x18000000, [], .none, [⟨0, 1, .ro, 0, true⟩, ⟨1, 1, .ro, 0, false⟩, ⟨8, 8, .ro, 0, false⟩, ⟨16, 8, .ro, 0, false⟩]⟩,
  ⟨"RAD.OFDM", 0x18000004, [], .none, [⟨0, 1, .rws, 0, true⟩]⟩,
  ⟨"RAD.CNT", 0x18000008, [], .none, [⟨0, 16, .ro, 0, false⟩, ⟨16, 16, .ro, 0, false⟩]⟩,
  ⟨"RAD.CLR", 0x1800000C, [], .none, [⟨0, 1, .wo, 0, false⟩]⟩,
  ⟨"RAD.LPBK", 0x18000010, [], .none, [⟨0, 8, .rws, 0, false⟩, ⟨8, 2, .rws, 0, false⟩, ⟨16, 8, .ro, 0, false⟩]⟩]


def regTable6 : List RegDef := [
  ⟨"RAD.PRBS", 0x18000014, [], .radLane, [⟨0, 5, .rw, 0, false⟩, ⟨5, 3, .rws, 0, false⟩, ⟨8, 3, .rws, 0, false⟩, ⟨11, 1, .ro, 0, false⟩, ⟨16, 1, .wo, 0, false⟩]⟩,
  ⟨"RAD.PRBSERR", 0x18000018, [], .radLane, [⟨0, 32, .ro, 0, false⟩]⟩,
  ⟨"RAD.TRATE", 0x1800001C, [], .none, [⟨0, 12, .rws, 3250, false⟩]⟩,
  ⟨"JRX.CFG0", 0x18001000, [(0x20, 8)], .none, [⟨0, 24, .ro, 0, true⟩]⟩,
  ⟨"JRX.CFG1", 0x18001004, [(0x20, 8)], .none, [⟨0, 6, .ro, 0, true⟩, ⟨6, 2, .ro, 0, true⟩, ⟨8, 1, .ro, 0, true⟩, ⟨9, 2, .ro, 0, true⟩, ⟨12, 12, .ro, 0, true⟩]⟩,
  ⟨"JRX.CFG2", 0x18001008, [(0x20, 8)], .none, [⟨0, 7, .ro, 0, true⟩, ⟨16, 16, .ro, 0, true⟩]⟩,
  ⟨"JRX.STAT", 0x1800100C, [(0x20, 8)], .none, [⟨0, 3, .ro, 0, false⟩, ⟨16, 16, .ro, 0, false⟩]⟩,
  ⟨"JRX.ERR", 0x18001010, [(0x20, 8)], .none, [⟨0, 8, .ro, 0, false⟩, ⟨8, 8, .ro, 0, false⟩, ⟨16, 8, .ro, 0, false⟩, ⟨24, 8, .ro, 0, false⟩]⟩,
  ⟨"JTX.CFG0", 0x18001400, [(0x20, 8)], .none, [⟨0, 24, .ro, 0, true⟩]⟩,
  ⟨"JTX.CFG1", 0x18001404, [(0x20, 8)], .none, [⟨0, 6, .ro, 0, true⟩, ⟨6, 2, .ro, 0, true⟩, ⟨8, 1, .ro, 0, true⟩, ⟨9, 2, .ro, 0, true⟩, ⟨12, 12, .ro, 0, true⟩]⟩,
  ⟨"JTX.CFG2", 0x18001408, [(0x20, 8)], .none, [⟨0, 7, .ro, 0, true⟩, ⟨16, 16, .ro, 0, true⟩]⟩,
  ⟨"JTX.STAT", 0x1800140C, [(0x20, 8)], .none, [⟨0, 3, .ro, 0, false⟩, ⟨16, 16, .ro, 0, false⟩]⟩,
  ⟨"JTX.ERR", 0x18001410, [(0x20, 8)], .none, [⟨0, 8, .ro, 0, false⟩, ⟨8, 8, .ro, 0, false⟩, ⟨16, 8, .ro, 0, false⟩, ⟨24, 8, .ro, 0, false⟩]⟩,
  ⟨"AGC.SEL", 0x18002000, [], .none, [⟨0, 6, .rw, 0, false⟩]⟩,
  ⟨"AGC.CFG", 0x18002004, [], .agcLoop, [⟨0, 8, .rws, 0, true⟩, ⟨8, 4, .rws, 0, true⟩, ⟨12, 4, .rws, 0, true⟩, ⟨16, 4, .rws, 0, true⟩, ⟨20, 4, .rws, 0, true⟩, ⟨24, 4, .rws, 0, true⟩, ⟨28, 1, .rws, 0, true⟩, ⟨29, 1, .rws, 0, true⟩]⟩,
  ⟨"AGC.MAN", 0x18002008, [], .agcLoop, [⟨0, 8, .rws, 0, true⟩]⟩,
  ⟨"AGC.STAT", 0x1800200C, [], .agcLoop, [⟨0, 8, .ro, 0, false⟩, ⟨8, 1, .ro, 0, false⟩, ⟨9, 1, .ro, 0, false⟩, ⟨16, 8, .ro, 255, false⟩]⟩,
  ⟨"AGC.CNT", 0x18002010, [], .agcLoop, [⟨0, 16, .ro, 0, false⟩, ⟨16, 8, .ro, 0, false⟩, ⟨24, 8, .ro, 0, false⟩]⟩,
  ⟨"NCO.CTL", 0x18002400, [(0x10, 16)], .none, [⟨0, 1, .rws, 0, true⟩, ⟨1, 1, .rws, 0, false⟩]⟩,
  ⟨"NCO.BASE", 0x18002404, [(0x10, 16)], .none, [⟨0, 32, .rws, 0, true⟩]⟩,
  ⟨"NCO.DELTA", 0x18002408, [(0x10, 16)], .none, [⟨0, 32, .ro, 0, false⟩]⟩,
  ⟨"NCO.TOFF", 0x1800240C, [(0x10, 16)], .none, [⟨0, 16, .ro, 0, false⟩]⟩,
  ⟨"TE.STAT", 0x18003000, [(0x10, 16)], .none, [⟨0, 16, .w1c, 0, false⟩, ⟨16, 1, .ro, 0, false⟩, ⟨17, 5, .ro, 0, false⟩]⟩,
  ⟨"TE.ACT", 0x18003004, [(0x10, 16)], .none, [⟨0, 32, .ro, 0, false⟩]⟩]


def regTable7 : List RegDef := [
  ⟨"STP.CFG", 0x18004000, [], .none, [⟨0, 4, .rws, 0, true⟩, ⟨4, 14, .rws, 0, true⟩]⟩,
  ⟨"STP.STAT", 0x18004004, [], .none, [⟨0, 8, .ro, 0, false⟩, ⟨8, 8, .ro, 0, false⟩, ⟨16, 16, .ro, 0, false⟩]⟩,
  ⟨"STP.ERR", 0x18004008, [], .none, [⟨0, 16, .ro, 0, false⟩, ⟨16, 16, .ro, 0, false⟩]⟩,
  ⟨"STP.LPBK", 0x1800400C, [], .none, [⟨0, 2, .rws, 0, false⟩, ⟨4, 4, .rws, 0, false⟩, ⟨8, 4, .ro, 0, false⟩]⟩,
  ⟨"STP.LPCNT", 0x18004010, [], .none, [⟨0, 16, .ro, 0, false⟩, ⟨16, 16, .ro, 0, false⟩]⟩,
  ⟨"OFS.CFG", 0x18005000, [], .none, [⟨0, 4, .rws, 0, true⟩, ⟨4, 28, .rws, 0, true⟩]⟩,
  ⟨"OFS.FEST", 0x18005004, [], .ofsCell, [⟨0, 32, .ro, 0, false⟩]⟩,
  ⟨"OFS.TEST", 0x18005008, [], .ofsCell, [⟨0, 32, .ro, 0, false⟩]⟩,
  ⟨"OFS.SEL", 0x1800500C, [], .none, [⟨0, 3, .rw, 0, false⟩]⟩,
  ⟨"NET.PORTSEL", 0x19000000, [], .none, [⟨0, 4, .rw, 0, false⟩]⟩,
  ⟨"NET.PSTAT", 0x19000004, [], .netPort, [⟨0, 1, .ro, 0, false⟩, ⟨1, 1, .ro, 0, false⟩, ⟨16, 16, .ro, 0, false⟩]⟩,
  ⟨"NET.PCNT", 0x19000008, [], .netPort, [⟨0, 16, .ro, 0, false⟩, ⟨16, 16, .ro, 0, false⟩]⟩,
  ⟨"NET.STAT", 0x1900000C, [], .none, [⟨0, 16, .w1c, 0, false⟩]⟩,
  ⟨"NET.FHCNT0", 0x19000010, [], .none, [⟨0, 16, .ro, 0, false⟩, ⟨16, 16, .ro, 0, false⟩]⟩,
  ⟨"NET.FHCNT1", 0x19000014, [], .none, [⟨0, 16, .ro, 0, false⟩, ⟨16, 16, .ro, 0, false⟩]⟩,
  ⟨"NET.FHCNT2", 0x19000018, [], .none, [⟨0, 16, .ro, 0, false⟩, ⟨16, 16, .ro, 0, false⟩]⟩,
  ⟨"NET.L2CNT0", 0x19000020, [], .none, [⟨0, 8, .ro, 0, false⟩, ⟨8, 8, .ro, 0, false⟩, ⟨16, 16, .ro, 0, false⟩]⟩,
  ⟨"NET.L2CNT1", 0x19000024, [], .none, [⟨0, 8, .ro, 0, false⟩, ⟨8, 8, .ro, 0, false⟩, ⟨16, 16, .ro, 0, false⟩]⟩,
  ⟨"NET.PTPFWD", 0x19000030, [], .none, [⟨0, 8, .rws, 0, true⟩]⟩,
  ⟨"NET.PTPLAT", 0x19000034, [], .netPort, [⟨0, 16, .rws, 0, true⟩, ⟨16, 16, .rws, 0, true⟩]⟩,
  ⟨"NET.PTPCNT", 0x19000038, [], .none, [⟨0, 16, .ro, 0, false⟩, ⟨16, 16, .ro, 0, false⟩]⟩,
  ⟨"NET.SYNCE", 0x1900003C, [], .none, [⟨0, 4, .rws, 0, true⟩, ⟨4, 4, .rws, 0, true⟩, ⟨8, 4, .ro, 15, false⟩, ⟨12, 4, .rws, 0, true⟩]⟩,
  ⟨"NET.CLR", 0x19000040, [], .none, [⟨0, 1, .wo, 0, false⟩]⟩,
  ⟨"NET.LPBK", 0x19000100, [], .netPort, [⟨0, 3, .rws, 0, false⟩, ⟨8, 1, .ro, 0, false⟩]⟩]


def regTable8 : List RegDef := [
  ⟨"NET.PRBS", 0x19000104, [], .netPort, [⟨0, 3, .rws, 0, false⟩, ⟨3, 1, .rws, 0, false⟩, ⟨4, 3, .rws, 0, false⟩, ⟨7, 1, .rws, 0, false⟩, ⟨8, 2, .ro, 0, false⟩, ⟨16, 1, .wo, 0, false⟩]⟩,
  ⟨"NET.PRBSERR0", 0x19000108, [], .netPort, [⟨0, 32, .ro, 0, false⟩]⟩,
  ⟨"NET.PRBSERR1", 0x1900010C, [], .netPort, [⟨0, 32, .ro, 0, false⟩]⟩,
  ⟨"NET.PRBSBITS", 0x19000110, [], .netPort, [⟨0, 32, .ro, 0, false⟩]⟩,
  ⟨"CDC.SB", 0x1A000000, [], .none, [⟨0, 30, .ro, 0, true⟩]⟩,
  ⟨"CDC.SBSZ", 0x1A000004, [], .none, [⟨0, 24, .ro, 0, true⟩]⟩,
  ⟨"CDC.CB", 0x1A000008, [], .none, [⟨0, 32, .ro, 0, false⟩]⟩,
  ⟨"CDC.CBFAIL", 0x1A00000C, [], .none, [⟨0, 32, .ro, 0, false⟩]⟩,
  ⟨"CDC.TBPASS", 0x1A000010, [], .none, [⟨0, 32, .ro, 0, false⟩]⟩,
  ⟨"CDC.TBFAIL", 0x1A000014, [], .none, [⟨0, 32, .ro, 0, false⟩]⟩,
  ⟨"CDC.REFUSE", 0x1A000018, [], .none, [⟨0, 16, .ro, 0, false⟩, ⟨16, 16, .ro, 0, false⟩]⟩,
  ⟨"CDC.RQ", 0x1A00001C, [], .none, [⟨0, 5, .ro, 0, false⟩, ⟨8, 8, .ro, 0, false⟩, ⟨16, 8, .ro, 0, false⟩]⟩,
  ⟨"CDC.CLR", 0x1A000020, [], .none, [⟨0, 1, .wo, 0, false⟩]⟩,
  ⟨"MEM.CFG", 0x1B000000, [], .none, [⟨0, 2, .ro, 3, false⟩, ⟨8, 8, .ro, 24, false⟩]⟩,
  ⟨"MEM.STAT", 0x1B000004, [], .none, [⟨0, 8, .ro, 0, false⟩, ⟨8, 8, .ro, 0, false⟩, ⟨16, 1, .ro, 0, false⟩]⟩,
  ⟨"MEM.REFGAP", 0x1B000008, [], .none, [⟨0, 10, .ro, 0, false⟩]⟩,
  ⟨"MEM.ECC", 0x1B00000C, [], .none, [⟨0, 16, .ro, 0, false⟩, ⟨16, 16, .ro, 0, false⟩]⟩,
  ⟨"MEM.ECCADDR", 0x1B000010, [], .none, [⟨0, 32, .ro, 0, false⟩]⟩,
  ⟨"MEM.ECCADDRHI", 0x1B000014, [], .none, [⟨0, 4, .ro, 0, false⟩, ⟨31, 1, .ro, 0, false⟩]⟩,
  ⟨"MEM.RDSTR", 0x1B000018, [], .none, [⟨0, 32, .ro, 0, false⟩]⟩,
  ⟨"MEM.WRSTR", 0x1B00001C, [], .none, [⟨0, 32, .ro, 0, false⟩]⟩,
  ⟨"MEM.LATE", 0x1B000020, [], .none, [⟨0, 16, .ro, 0, false⟩, ⟨16, 16, .ro, 0, false⟩]⟩,
  ⟨"MEM.TBLERR", 0x1B000024, [], .none, [⟨0, 16, .ro, 0, false⟩]⟩,
  ⟨"MEM.CLR", 0x1B000028, [], .none, [⟨0, 1, .wo, 0, false⟩]⟩]


def regTable9 : List RegDef := [
  ⟨"MEM.LPBK", 0x1B000040, [], .none, [⟨0, 2, .rws, 0, false⟩, ⟨8, 2, .ro, 0, false⟩]⟩,
  ⟨"MEM.LPRES", 0x1B000044, [], .none, [⟨0, 16, .ro, 0, false⟩, ⟨16, 16, .ro, 0, false⟩]⟩,
  ⟨"TWN.CFG", 0x1C000000, [], .none, [⟨0, 2, .ro, 0, false⟩, ⟨2, 1, .ro, 0, false⟩, ⟨16, 12, .ro, 0, true⟩]⟩,
  ⟨"TWN.VAR", 0x1C000004, [], .none, [⟨0, 16, .ro, 0, false⟩, ⟨16, 16, .ro, 0, false⟩]⟩,
  ⟨"TWN.STAT", 0x1C000008, [], .none, [⟨0, 3, .ro, 0, false⟩, ⟨3, 1, .ro, 0, false⟩, ⟨4, 1, .ro, 0, false⟩, ⟨5, 1, .ro, 0, false⟩, ⟨6, 1, .ro, 0, false⟩]⟩,
  ⟨"TWN.LAT", 0x1C00000C, [], .none, [⟨0, 12, .ro, 0, false⟩]⟩,
  ⟨"TWN.DIGLO", 0x1C000010, [], .none, [⟨0, 32, .ro, 0, false⟩]⟩,
  ⟨"TWN.DIGHI", 0x1C000014, [], .none, [⟨0, 32, .ro, 0, false⟩]⟩,
  ⟨"TWN.PDIGLO", 0x1C000018, [], .none, [⟨0, 32, .ro, 0, false⟩]⟩,
  ⟨"TWN.PDIGHI", 0x1C00001C, [], .none, [⟨0, 32, .ro, 0, false⟩]⟩,
  ⟨"TWN.DSLOT", 0x1C000020, [], .none, [⟨0, 32, .ro, 0, false⟩]⟩,
  ⟨"TWN.CNT", 0x1C000024, [], .none, [⟨0, 16, .ro, 0, false⟩, ⟨16, 8, .ro, 0, false⟩, ⟨24, 8, .ro, 0, false⟩]⟩,
  ⟨"TWN.LNK", 0x1C000028, [], .none, [⟨0, 16, .ro, 0, false⟩, ⟨16, 8, .ro, 0, false⟩, ⟨24, 8, .ro, 0, false⟩]⟩,
  ⟨"TWN.JOIN", 0x1C00002C, [], .none, [⟨0, 32, .ro, 0, false⟩]⟩,
  ⟨"TWN.CTL", 0x1C000030, [], .none, [⟨0, 1, .rws, 0, false⟩, ⟨1, 1, .rws, 0, false⟩, ⟨2, 1, .rws, 0, false⟩]⟩,
  ⟨"TWN.CLR", 0x1C000034, [], .none, [⟨0, 1, .wo, 0, false⟩]⟩,
  ⟨"TWN.LPBK", 0x1C000040, [], .none, [⟨0, 3, .rws, 0, false⟩, ⟨8, 1, .ro, 0, false⟩]⟩,
  ⟨"TWN.PRBS", 0x1C000044, [], .twnLane, [⟨0, 5, .rw, 0, false⟩, ⟨5, 3, .rws, 0, false⟩, ⟨8, 3, .rws, 0, false⟩, ⟨11, 1, .ro, 0, false⟩, ⟨16, 1, .wo, 0, false⟩]⟩,
  ⟨"TWN.PRBSERR", 0x1C000048, [], .twnLane, [⟨0, 32, .ro, 0, false⟩]⟩,
  ⟨"MGT.COMMIT", 0x1F000000, [], .none, [⟨0, 15, .wo, 0, false⟩]⟩,
  ⟨"MGT.DISCARD", 0x1F000004, [], .none, [⟨0, 15, .wo, 0, false⟩]⟩,
  ⟨"MGT.CSTAT", 0x1F000008, [], .none, [⟨0, 15, .ro, 0, false⟩, ⟨16, 15, .ro, 0, false⟩]⟩,
  ⟨"MGT.CEPOCH", 0x1F00000C, [], .none, [⟨0, 32, .ro, 0, false⟩]⟩,
  ⟨"MGT.CREASON", 0x1F000010, [], .none, [⟨0, 4, .ro, 0, false⟩, ⟨4, 4, .ro, 0, false⟩]⟩]


def regTable10 : List RegDef := [
  ⟨"MGT.CADDR", 0x1F000014, [], .none, [⟨0, 32, .ro, 0, false⟩]⟩,
  ⟨"MGT.PEND", 0x1F000018, [], .none, [⟨0, 15, .ro, 0, false⟩, ⟨16, 15, .ro, 0, false⟩]⟩,
  ⟨"MGT.CCNT", 0x1F00001C, [], .none, [⟨0, 16, .ro, 0, false⟩, ⟨16, 16, .ro, 0, false⟩]⟩,
  ⟨"MGT.ACC", 0x1F000020, [], .none, [⟨0, 16, .ro, 0, false⟩, ⟨16, 16, .ro, 0, false⟩]⟩,
  ⟨"MGT.EPOCH", 0x1F000024, [], .none, [⟨0, 32, .ro, 0, false⟩]⟩,
  ⟨"MGT.I3C", 0x1F000030, [], .none, [⟨0, 7, .ro, 0, false⟩, ⟨7, 1, .ro, 0, false⟩, ⟨8, 7, .ro, 0, false⟩, ⟨15, 1, .ro, 0, false⟩, ⟨16, 1, .ro, 0, false⟩]⟩,
  ⟨"MGT.IBI", 0x1F000034, [], .none, [⟨0, 11, .ro, 0, false⟩, ⟨16, 8, .ro, 0, false⟩, ⟨24, 8, .ro, 0, false⟩]⟩,
  ⟨"MGT.SEQ", 0x1F000040, [], .none, [⟨0, 16, .rws, 0, true⟩]⟩,
  ⟨"MGT.SEQSTAT", 0x1F000044, [], .none, [⟨0, 4, .ro, 0, false⟩, ⟨4, 1, .ro, 0, false⟩, ⟨8, 8, .ro, 0, false⟩, ⟨16, 16, .ro, 0, false⟩]⟩,
  ⟨"MGT.TLMCFG", 0x1F000050, [], .none, [⟨0, 9, .ro, 0, true⟩]⟩,
  ⟨"MGT.TLMSEL", 0x1F000054, [], .none, [⟨0, 8, .rw, 0, false⟩]⟩,
  ⟨"MGT.TLMDATA", 0x1F000058, [], .none, [⟨0, 32, .ro, 0, false⟩]⟩,
  ⟨"MGT.TLMEPOCH", 0x1F00005C, [], .none, [⟨0, 32, .ro, 0, false⟩]⟩,
  ⟨"MGT.CLR", 0x1F000060, [], .none, [⟨0, 1, .wo, 0, false⟩]⟩,
  ⟨"MGT.I3CTEST", 0x1F000070, [], .none, [⟨0, 8, .rw, 0, false⟩]⟩,
  ⟨"TCK.SLOTLEN", 0x1F000400, [], .none, [⟨0, 21, .ro, 0, true⟩]⟩,
  ⟨"TCK.SPE", 0x1F000404, [], .none, [⟨0, 4, .ro, 0, true⟩]⟩,
  ⟨"TCK.SLOTNUM", 0x1F000408, [], .none, [⟨0, 32, .ro, 0, false⟩]⟩,
  ⟨"TCK.FRAME", 0x1F00040C, [], .none, [⟨0, 7, .ro, 0, false⟩, ⟨16, 10, .ro, 0, false⟩]⟩,
  ⟨"TCK.SYMS", 0x1F000410, [], .none, [⟨0, 4, .ro, 0, true⟩]⟩,
  ⟨"TCK.ALIGN", 0x1F000414, [], .none, [⟨0, 32, .ro, 0, true⟩]⟩,
  ⟨"TCK.PHERR", 0x1F000418, [], .none, [⟨0, 16, .ro, 0, false⟩, ⟨16, 16, .ro, 0, false⟩]⟩,
  ⟨"TCK.SYMOFF", 0x1F000440, [(0x4, 14)], .none, [⟨0, 21, .ro, 0, true⟩]⟩,
  ⟨"TU.SECHI", 0x1F000800, [], .none, [⟨0, 16, .ro, 0, false⟩]⟩]


def regTable11 : List RegDef := [
  ⟨"TU.SECLO", 0x1F000804, [], .none, [⟨0, 32, .ro, 0, false⟩]⟩,
  ⟨"TU.NS", 0x1F000808, [], .none, [⟨0, 30, .ro, 0, false⟩]⟩,
  ⟨"TU.SUBNS", 0x1F00080C, [], .none, [⟨0, 16, .ro, 0, false⟩]⟩,
  ⟨"TU.STAT", 0x1F000810, [], .none, [⟨0, 2, .ro, 0, false⟩, ⟨2, 1, .ro, 0, false⟩, ⟨3, 1, .ro, 0, false⟩]⟩,
  ⟨"TU.OFS", 0x1F000814, [], .none, [⟨0, 32, .ro, 0, false⟩]⟩,
  ⟨"TU.STEP", 0x1F000818, [], .none, [⟨0, 24, .rws, 0, true⟩]⟩,
  ⟨"TU.PEND", 0x1F00081C, [], .none, [⟨0, 32, .ro, 0, false⟩]⟩,
  ⟨"TU.CTL", 0x1F000820, [], .none, [⟨0, 1, .rws, 0, false⟩, ⟨1, 1, .rws, 0, false⟩]⟩,
  ⟨"TU.CAPSRC", 0x1F000824, [], .none, [⟨0, 2, .rw, 0, false⟩, ⟨4, 2, .rw, 0, false⟩, ⟨8, 2, .rw, 0, false⟩, ⟨12, 2, .rw, 0, false⟩]⟩,
  ⟨"TU.TRGS", 0x1F000840, [(0x10, 4)], .none, [⟨0, 32, .rw, 0, false⟩]⟩,
  ⟨"TU.TRGN", 0x1F000844, [(0x10, 4)], .none, [⟨0, 30, .rw, 0, false⟩, ⟨31, 1, .rw, 0, false⟩]⟩,
  ⟨"TU.TRGP", 0x1F000848, [(0x10, 4)], .none, [⟨0, 32, .rw, 0, false⟩]⟩,
  ⟨"TU.TRGC", 0x1F00084C, [(0x10, 4)], .none, [⟨0, 16, .rw, 0, false⟩, ⟨16, 1, .w1c, 0, false⟩, ⟨17, 1, .w1c, 0, false⟩, ⟨24, 8, .ro, 0, false⟩]⟩,
  ⟨"TU.CAPS", 0x1F000880, [(0x10, 4)], .none, [⟨0, 32, .ro, 0, false⟩]⟩,
  ⟨"TU.CAPN", 0x1F000884, [(0x10, 4)], .none, [⟨0, 30, .ro, 0, false⟩, ⟨31, 1, .w1c, 0, false⟩]⟩,
  ⟨"TU.CAPF", 0x1F000888, [(0x10, 4)], .none, [⟨0, 16, .ro, 0, false⟩, ⟨24, 8, .ro, 0, false⟩]⟩,
  ⟨"FLT.CFG", 0x1F000C00, [], .none, [⟨0, 1, .rws, 0, true⟩, ⟨1, 2, .rws, 0, true⟩, ⟨3, 1, .rws, 0, true⟩]⟩,
  ⟨"FLT.COV", 0x1F000C04, [], .none, [⟨0, 2, .ro, 0, false⟩]⟩,
  ⟨"FLT.QSTAT", 0x1F000C08, [], .none, [⟨0, 11, .ro, 0, false⟩, ⟨16, 11, .ro, 0, false⟩]⟩,
  ⟨"FLT.POP", 0x1F000C0C, [], .none, [⟨0, 1, .wo, 0, false⟩]⟩,
  ⟨"FLT.LOST", 0x1F000C10, [], .none, [⟨0, 16, .ro, 0, false⟩, ⟨16, 16, .ro, 0, false⟩]⟩,
  ⟨"FLT.CNTD", 0x1F000C14, [], .none, [⟨0, 32, .ro, 0, false⟩]⟩,
  ⟨"FLT.CNTM", 0x1F000C18, [], .none, [⟨0, 32, .ro, 0, false⟩]⟩,
  ⟨"FLT.FATAL", 0x1F000C1C, [], .none, [⟨0, 16, .ro, 0, false⟩, ⟨31, 1, .ro, 0, false⟩]⟩]


def regTable12 : List RegDef := [
  ⟨"FLT.REC", 0x1F000C20, [(0x4, 8)], .none, [⟨0, 32, .ro, 0, false⟩]⟩,
  ⟨"FLT.STEST", 0x1F000C40, [], .none, [⟨0, 16, .ro, 0, false⟩, ⟨16, 16, .ro, 0, false⟩]⟩,
  ⟨"FLT.CLR", 0x1F000C44, [], .none, [⟨0, 1, .wo, 0, false⟩]⟩,
  ⟨"LGR.LAST", 0x1F000E00, [], .none, [⟨0, 32, .ro, 0, false⟩]⟩,
  ⟨"LGR.LCNT", 0x1F000E04, [], .none, [⟨0, 16, .ro, 0, false⟩, ⟨16, 16, .ro, 0, false⟩]⟩,
  ⟨"LGR.TOTAL", 0x1F000E08, [], .none, [⟨0, 32, .ro, 0, false⟩]⟩,
  ⟨"LGR.XOVF", 0x1F000E0C, [], .none, [⟨0, 16, .ro, 0, false⟩, ⟨16, 16, .ro, 0, false⟩]⟩,
  ⟨"LGR.XBUF", 0x1F000E10, [], .none, [⟨0, 25, .ro, 0, true⟩, ⟨25, 3, .ro, 0, true⟩]⟩,
  ⟨"LGR.XNUM", 0x1F000E14, [], .none, [⟨0, 12, .ro, 0, true⟩]⟩,
  ⟨"LGR.QSEL", 0x1F000E18, [], .none, [⟨0, 4, .rw, 0, false⟩, ⟨4, 12, .rw, 0, false⟩, ⟨16, 2, .rw, 0, false⟩]⟩,
  ⟨"LGR.QRES", 0x1F000E1C, [], .none, [⟨0, 1, .ro, 0, false⟩, ⟨1, 1, .ro, 0, false⟩, ⟨2, 1, .ro, 0, false⟩]⟩,
  ⟨"LGR.CLR", 0x1F000E20, [], .none, [⟨0, 1, .wo, 0, false⟩]⟩,
  ⟨"PWR.STATE", 0x1F001000, [], .none, [⟨0, 2, .ro, 0, false⟩, ⟨2, 2, .rws, 0, false⟩, ⟨4, 1, .rws, 0, true⟩]⟩,
  ⟨"PWR.CAP", 0x1F001004, [], .none, [⟨0, 13, .ro, 0, true⟩, ⟨16, 13, .ro, 0, false⟩]⟩,
  ⟨"PWR.DOM", 0x1F001008, [], .none, [⟨0, 30, .ro, 0, false⟩]⟩,
  ⟨"PWR.RREQ", 0x1F00100C, [], .none, [⟨0, 4, .rws, 0, false⟩, ⟨4, 2, .rws, 0, false⟩]⟩,
  ⟨"PWR.MEAS", 0x1F001010, [], .none, [⟨0, 13, .ro, 0, false⟩, ⟨16, 13, .ro, 0, false⟩]⟩,
  ⟨"PWR.TEMP", 0x1F001014, [], .none, [⟨0, 8, .ro, 0, false⟩, ⟨8, 4, .ro, 0, false⟩, ⟨16, 1, .ro, 0, false⟩]⟩,
  ⟨"PWR.SEL", 0x1F001018, [], .none, [⟨0, 4, .rw, 0, false⟩]⟩,
  ⟨"PWR.GOV", 0x1F00101C, [], .pwrRegion, [⟨0, 13, .ro, 0, false⟩, ⟨16, 13, .ro, 0, false⟩]⟩,
  ⟨"PWR.WAIT", 0x1F001020, [], .pwrRegion, [⟨0, 32, .ro, 0, false⟩]⟩,
  ⟨"PWR.RSTCAUSE", 0x1F001024, [], .none, [⟨0, 1, .w1c, 0, false⟩, ⟨1, 1, .w1c, 0, false⟩, ⟨2, 1, .w1c, 0, false⟩]⟩,
  ⟨"PWR.WAKE", 0x1F001028, [], .none, [⟨0, 1, .rws, 0, true⟩, ⟨1, 1, .rws, 0, true⟩, ⟨2, 1, .rws, 0, true⟩, ⟨8, 1, .wo, 0, false⟩]⟩,
  ⟨"PWR.WTIME", 0x1F00102C, [], .none, [⟨0, 16, .ro, 0, false⟩]⟩]


def regTable13 : List RegDef := [
  ⟨"PWR.CLR", 0x1F001030, [], .none, [⟨0, 1, .wo, 0, false⟩]⟩,
  ⟨"CLK.RUN0", 0x1F001200, [], .none, [⟨0, 32, .ro, 0, false⟩]⟩,
  ⟨"CLK.RUN1", 0x1F001204, [], .none, [⟨0, 8, .ro, 0, false⟩]⟩,
  ⟨"CLK.LOL", 0x1F001208, [], .none, [⟨0, 6, .ro, 0, false⟩, ⟨8, 8, .ro, 0, false⟩, ⟨31, 1, .ro, 0, false⟩]⟩,
  ⟨"CLK.CLR", 0x1F00120C, [], .none, [⟨0, 1, .wo, 0, false⟩]⟩,
  ⟨"STA.STEP", 0x1F001400, [], .none, [⟨0, 4, .ro, 0, false⟩, ⟨4, 1, .ro, 0, false⟩]⟩,
  ⟨"STA.STRAP", 0x1F001404, [], .none, [⟨0, 1, .ro, 0, false⟩, ⟨1, 3, .ro, 0, false⟩, ⟨4, 1, .ro, 0, false⟩]⟩,
  ⟨"STA.IMG", 0x1F001408, [], .none, [⟨0, 1, .ro, 0, false⟩, ⟨1, 1, .ro, 0, false⟩, ⟨2, 1, .ro, 0, false⟩, ⟨3, 1, .ro, 0, false⟩, ⟨4, 1, .ro, 0, false⟩, ⟨16, 16, .ro, 0, false⟩]⟩,
  ⟨"STA.IMGVER", 0x1F00140C, [], .none, [⟨0, 32, .ro, 0, false⟩]⟩,
  ⟨"STA.REFUSE", 0x1F001410, [], .none, [⟨0, 4, .ro, 0, false⟩, ⟨4, 10, .ro, 0, false⟩, ⟨16, 16, .ro, 0, false⟩]⟩,
  ⟨"STA.TSTEP", 0x1F001420, [(0x4, 13)], .none, [⟨0, 32, .ro, 0, false⟩]⟩,
  ⟨"STA.DIG", 0x1F001460, [(0x4, 16)], .none, [⟨0, 32, .ro, 0, false⟩]⟩,
  ⟨"STA.MBIST", 0x1F0014C0, [], .none, [⟨0, 16, .ro, 0, false⟩, ⟨16, 16, .ro, 0, false⟩]⟩,
  ⟨"STA.REPAIR", 0x1F0014C4, [], .none, [⟨0, 9, .ro, 0, false⟩, ⟨16, 8, .ro, 0, false⟩]⟩,
  ⟨"STA.LBPLN", 0x1F0014C8, [], .none, [⟨0, 16, .ro, 0, false⟩, ⟨16, 8, .ro, 0, false⟩]⟩,
  ⟨"STA.LBANV", 0x1F0014CC, [], .none, [⟨0, 32, .ro, 0, false⟩]⟩,
  ⟨"STA.RMSEL", 0x1F0014D0, [], .none, [⟨0, 8, .rw, 0, false⟩]⟩,
  ⟨"STA.RMDATA", 0x1F0014D4, [(0x4, 4)], .none, [⟨0, 32, .ro, 0, false⟩]⟩,
  ⟨"SEC.ID", 0x1F001600, [], .none, [⟨0, 1, .ro, 0, false⟩, ⟨1, 1, .ro, 0, false⟩, ⟨2, 1, .ro, 0, false⟩]⟩,
  ⟨"SEC.SERLO", 0x1F001604, [], .none, [⟨0, 32, .ro, 0, false⟩]⟩,
  ⟨"SEC.SERHI", 0x1F001608, [], .none, [⟨0, 32, .ro, 0, false⟩]⟩,
  ⟨"SEC.NONCE", 0x1F001610, [(0x4, 8)], .none, [⟨0, 32, .rw, 0, false⟩]⟩,
  ⟨"SEC.ATTCTL", 0x1F001630, [], .none, [⟨0, 1, .wo, 0, false⟩, ⟨1, 1, .wo, 0, false⟩]⟩,
  ⟨"SEC.ATTSTAT", 0x1F001634, [], .none, [⟨0, 1, .ro, 0, false⟩, ⟨1, 1, .ro, 0, false⟩, ⟨2, 2, .ro, 0, false⟩, ⟨16, 16, .ro, 0, false⟩]⟩]


def regTable14 : List RegDef := [
  ⟨"SEC.ATTDATA", 0x1F001638, [], .none, [⟨0, 32, .ro, 0, false⟩]⟩,
  ⟨"SEC.CNT", 0x1F00163C, [], .none, [⟨0, 16, .ro, 0, false⟩, ⟨16, 8, .ro, 0, false⟩, ⟨24, 8, .ro, 0, false⟩]⟩,
  ⟨"SEC.CLR", 0x1F001640, [], .none, [⟨0, 1, .wo, 0, false⟩]⟩,
  ⟨"NVM.ADDR", 0x1F001800, [], .none, [⟨0, 32, .rw, 0, false⟩]⟩,
  ⟨"NVM.DATA", 0x1F001804, [], .none, [⟨0, 32, .wo, 0, false⟩]⟩,
  ⟨"NVM.CMD", 0x1F001808, [], .none, [⟨0, 4, .wo, 0, false⟩, ⟨4, 1, .wo, 0, false⟩]⟩,
  ⟨"NVM.STAT", 0x1F00180C, [], .none, [⟨0, 1, .ro, 0, false⟩, ⟨1, 7, .ro, 0, false⟩, ⟨8, 4, .ro, 0, false⟩, ⟨12, 4, .ro, 0, false⟩, ⟨16, 1, .ro, 0, false⟩, ⟨17, 1, .ro, 0, false⟩, ⟨24, 8, .ro, 0, false⟩]⟩]


/-- Every register of the control space, in ascending base address. -/
def regTable : List RegDef :=
  regTable0 ++ regTable1 ++ regTable2 ++ regTable3 ++ regTable4 ++ regTable5 ++ regTable6 ++ regTable7 ++ regTable8 ++ regTable9 ++ regTable10 ++ regTable11 ++ regTable12 ++ regTable13 ++ regTable14

end Sys2Proof.Machine
end

