-- ==== Sys2Proof/Machine/State.lean ====
section
/-! DEFINITION. The state of the device: every register, memory, buffer, queue and mode that the manual
gives it, as plain data, and the queue of the commands that wait. -/

namespace Sys2Proof.Machine

/-- Why the device stops: no rule of the manual stops it, so no meaning raises a fault. -/
inductive Fault
  deriving DecidableEq, Repr

/-- Why a command has no effect of its own.
* `notModelled`: raised by an arm of the dispatch whose command has no meaning yet; safe.
* `loaderRefuses`: raised by an engine command that the image loader refuses by a rule that reads the
  command alone, so that no plan ever holds it (R306); safe. -/
inductive Refusal
  | notModelled (mnemonic : String)
  | loaderRefuses
  deriving DecidableEq, Repr

/-- The tick state (R60 to R69): whether the data plane runs, the slot cycle, the time scale at cycle
0 of the slot in units of 2^-16 ns, whether the epoch-only steps of this slot's tick are done, and
whether the cycle is that of the tick that ends the slot. -/
structure Clock where
  running : Bool := false
  cc : Nat := 0
  tu : Nat := 0
  epochDone : Bool := false
  inTick : Bool := false
  deriving DecidableEq, Repr

/-- The memories (R261 to R263, R285, R286, R302, R327): bytes, hallmarks and the SECDED state of
each 8-byte word (0 clean, 1 + b a single error at bit b, 255 uncorrectable). Scratchpad keys are
region × 2^25 + address. `beside` holds, under region × 4096 + buffer, the flag words and scale blocks of outputs of units
without a Ladle, for which no rule says where they lie (log entry 47). -/
structure Memories where
  pad : SMap Byte := []
  padHall : SMap Word := []
  padEcc : SMap Nat := []
  hbm : SMap Byte := []
  hbmHall : SMap Word := []
  te : SMap Word := []
  beside : SMap Beside := []
  teHall : SMap Word := []
  teVoid : SMap Nat := []
  flash : SMap Byte := []
  store : SMap Byte := []
  deriving DecidableEq, Repr

/-- The HBM controllers (R287 to R293): keyed stack × 16 + bank, one more than the absolute stripe slot of
the last stripe and of the last refresh of a bank; the stripe that waits in each stack; and the lines that
the scrubber has read of each scratchpad bank, keyed region × 48 + bank (R264). -/
structure HbmUnit where
  lastStripe : SMap Nat := []
  lastRefresh : SMap Nat := []
  waiting : SMap (Option Delayed) := []
  scrubbed : SMap Nat := []
  deriving DecidableEq, Repr

/-- The commit unit (R587 to R591): the shadow of each register, and the accepted commits that wait
for their epoch tick. -/
structure CommitUnit where
  shadow : SMap Staged := []
  waiting : List Accepted := []
  deriving DecidableEq, Repr

/-- The fault controller (R32, R34, R466, R471, R473, R594): the record queue, the copies owed to the
L2 port, the slot in which a fatal fault was detected, the slots with detected records, the codes
queued since the last epoch tick, the blocks that have reported in this cycle (block key, cycle), the escalation
counts, the regions fenced in this slot, whose next slot is void as well (R32), the switch it asks for, and whether a lockstep mismatch discards the next management action and repeats the
sequencer's step (R467). -/
structure FaultUnit where
  queue : List Record := []
  copies : List Record := []
  fatalSlot : Option Nat := none
  badSlots : List Nat := []
  codes : List Nat := []
  reports : List (Nat × Nat) := []
  lost : SMap Nat := []
  voidNext : List Nat := []
  escal : SMap Escalation := []
  collisions : SMap Escalation := []
  switchTo : Option Nat := none
  discard : Bool := false
  repeatStep : Bool := false
  deriving DecidableEq, Repr

/-- The slot ledger (R304, R462 to R464): the four slot sets, keyed ((slot mod 4) × 14 + region) ×
4096 + buffer, the entries that fell due late, and the entries of the last closed ledger. -/
structure Ledger where
  cells : SMap LedgerCell := []
  late : List LedgerEntry := []
  closed : List LedgerEntry := []
  closedSlot : Nat := 0
  extracted : Bool := true
  deriving DecidableEq, Repr

/-- The plan store and the other parts of the image that act at run time (R266, R306 to R310, R385, R421, R517): the
variants, the slot of the last cold switch, the leave amounts, the weight areas, the network settings, the job rings, the image's register values and channel tables,
which a region takes again after a reset or a power-down (R532), and the uses of scratchpad. -/
structure PlanStore where
  variants : List Variant := []
  coldAt : Option Nat := none
  amounts : List (BitVec 64) := []
  weights : WeightArea := {}
  net : NetImage := {}
  rings : List (Nat × Nat) := []
  regs0 : SMap Word := []
  chans0 : SMap Channel := []
  uses : List UseArea := []
  deriving DecidableEq, Repr

/-- The elastic plane (R316 to R330): contexts, deficits keyed region × 16 + class, carried overruns
under the same key, swaps in progress, the waiting requests and the grants of the power governors (R517), and
how much of each region's job ring has been taken in (R316), and the hand-in records that wait for their token step (R411). -/
structure Elastic where
  ctxs : SMap Ctx := []
  deficits : SMap Int := []
  carry : SMap Nat := []
  swaps : SMap (Option Swapping) := []
  waits : SMap (List LeaveReq) := []
  grants : SMap (List Grant) := []
  ringSeen : SMap Nat := []
  handIns : List HandIn := []
  deriving DecidableEq, Repr

/-- CODE (R392, R404): the re-encode requests that wait, and the soft buffers that an uncorrectable error has
voided. -/
structure CodeUnit where
  queue : List CodeRequest := []
  sbVoid : List Nat := []
  deriving DecidableEq, Repr

/-- RADIO (R338 to R369): NCOs with the steps that STEER records have set, gain loops, the steering
lanes with the remainder of STP.STAT.SENT, the transmit spans of each channel, the last sample that each
channel has sent to its link. -/
structure Radio where
  ncos : SMap Nco := []
  steps : List NcoStep := []
  loops : SMap GainLoop := []
  lanes : SMap SteerLane := []
  sent : Nat := 0
  spans : SMap (List TxSpan) := []
  out : SMap Word := []
  deriving DecidableEq, Repr

/-- NET (R417 to R437): the sections in the packet buffer, the L2 messages that wait, the last air slot that
an L2RX has closed for each type plus one, the peer's next SEQ and the device's own, the downlink
allocations announced, the non-planned frames that wait at each port, what each port has last sent, and the
two-step Syncs that have left. -/
structure Net where
  sections : List TakenSection := []
  msgs : List L2Msg := []
  closed : SMap Nat := []
  peerSeq : Option Nat := none
  seq : Nat := 0
  grants : List GrantRec := []
  egress : SMap (List Sent) := []
  sent : SMap (List Sent) := []
  left : List LeftSync := []
  deriving DecidableEq, Repr

/-- The time unit (R62, R438 to R447): the slave, the tick phase still to be slewed, and until when each
trigger output stays high (one more than the instant; 0 low). -/
structure TimeUnit where
  slave : Slave := {}
  slew : Int := 0
  outs : SMap Nat := []
  deriving DecidableEq, Repr

/-- TWIN (R480 to R509): the receive staging with the slot in which each granule landed, the granule slots of
the window table that SENDs have taken in this slot, the granules that have left in it (superframe and
granule slot), the last marker received and whether it arrived as R503 asks, this twin's digest and the
partner's, a partner loss that waits for its slot tick (event row, slot, cycle), the slots named for a swap,
a transfer, a join, this twin's and the partner's departure, the attach procedure (state before it, step,
abort pending, promotion suspended), the halves chosen, the notices sent, and the granules that forwarded
writes have set. -/
structure Twin where
  staging : List (Nat × Granule) := []
  windows : Nat := 0
  left : List (Nat × Nat × Granule) := []
  marker : Option Marker := none
  aligned : Bool := false
  own : Option SlotDigest := none
  peer : Option SlotDigest := none
  loss : Option (Nat × Nat × Nat) := none
  swapAt : Option Nat := none
  transferAt : Option Nat := none
  joinAt : Option Nat := none
  leaveAt : Option Nat := none
  peerLeaveAt : Option Nat := none
  before : Nat := 0
  step : Nat := 0
  abort : Bool := false
  hold : Bool := false
  halves : Option PairInfo := none
  notices : List (Notice × Nat) := []
  set : List (Nat × Nat) := []
  deriving DecidableEq, Repr

/-- The power sequencer (R513, R519 to R532): the regions that Trim has switched off, the regions that a
power-up brings back with the last of its steps that is ready (4 LOGIC_OK), the regions whose gates open at the
next epoch tick, the regions that Doze has switched off with whether their gates open after it, the wake in progress (the state that it leaves, 2 Doze or 3 Keep, and the last step that is
ready), a WAKE_N edge held until Keep is entered, a committed state request, whether the device returns from
Trim to Run when its regions are back, whether the data plane waits to run again after Doze, a thermal trip that
waits for its slot tick, the clock domains that have lost lock, and what Keep has saved: registers, time
scale, frequency and image digest. -/
structure Power where
  trimmed : List Nat := []
  rising : List (Nat × Nat) := []
  resets : List Nat := []
  asleep : List (Nat × Bool) := []
  wake : Option (Nat × Nat) := none
  wakeHeld : Bool := false
  request : Option Nat := none
  toRun : Bool := false
  resume : Bool := false
  tripped : Bool := false
  unlocked : List Nat := []
  saved : Option (List (Nat × Word) × Nat × BitVec 64 × BitVec 512) := none
  deriving DecidableEq, Repr

/-- The start sequence (R538 to R569): what it meets, the µs since it began that the device knows of, the slot
it runs or tries, the slots that failed with their reasons, the start address and the values of the running
image's header (TLOCK, HSWAIT, MODE, VERSION), the links that step 10 waits for, those that were reported, the
instant of LEMC alignment, whether a scan instruction holds it at step 4, a brown-out to be recorded,
whether step 7 is done, and the repair map. -/
structure Start where
  input : StartInput := {}
  us : Nat := 0
  slot : Nat := 0
  failed : List (Nat × Nat) := []
  base : Nat := 0
  tlock : Nat := 0
  hswait : Nat := 0
  links : List LinkId := []
  reported : List LinkId := []
  lemcAt : Option Nat := none
  held : Bool := false
  brownOut : Bool := false
  tested : Bool := false
  repair : List Finding := []
  deriving DecidableEq, Repr

/-- The NVM loader and the security unit (R562 to R573): the page buffer, the command that runs, whether SAVEW
has reached its epoch tick, the report that is forming, and the I3C report with how many of its words have been
read. -/
structure Security where
  page : List Word := []
  job : Option NvmJob := none
  saving : Bool := false
  forming : Option Report := none
  report : List Byte := []
  taken : Nat := 0
  deriving DecidableEq, Repr

/-- The management sequencer (R593 to R597): the place of the program store in always-on memory, value slots,
predicate, the program that runs, the steps deferred to the next epoch tick, and the two halves of the
telemetry buffer. -/
structure Sequencer where
  store : Nat := 0
  slots : List Word := []
  p : Bool := false
  prog : Nat := 0
  deferred : List (Nat × Nat × SeqStep) := []
  complete : List Word := []
  standby : List Word := []
  deriving DecidableEq, Repr

/-- The I3C target (R578 to R586): the response to the last request, what it has last returned for a common
command code, a protocol error since the last GETSTATUS, the announcement that is out, and the events that
wait. -/
structure I3cTarget where
  response : List Byte := []
  reply : List Byte := []
  err : Bool := false
  out : Option Announcement := none
  events : List (Nat × List Byte) := []
  deriving DecidableEq, Repr

/-- Test modes (R601 to R614): the loop-backs that are in force, the PRBS settings that are in force (lanes), the
frames that a steering loop has checked, the instruction of the test access port, its boundary register and
the data register that it shifts out. -/
structure Test where
  loops : List LinkId := []
  prbs : List PrbsLane := []
  steered : Nat := 0
  tap : Nat := 1
  boundary : Nat := 0
  dr : Nat := 0
  deriving DecidableEq, Repr

/-- The balls that the device drives or samples (R466, R483, R511, R612, R620 to R637): the outputs that it
drives, the last levels that it has seen on its inputs, and what a scan instruction drives in their place. -/
structure Pins where
  faultN : Bool := false
  pwrEn : Bool := false
  twinOk : Bool := false
  twinPeer : Bool := false
  sysrefReq : Bool := false
  xspiResets : Nat := 0
  scan : Option Nat := none
  highZ : Bool := false
  deriving DecidableEq, Repr

/-- The chip spine (R59): the injection table entries that a parity error has made idle until the next plan load. -/
structure Spine where
  idle : List SpineFault := []
  deriving DecidableEq, Repr

/-- The whole device. `due` holds what engine commands leave to later cycles, latest first. `free` counts the free
values taken so far, `drawn` those that data-plane commands have taken (R78); both are the model's own. -/
structure State where
  pending : List Instr := []
  regs : SMap Word := []
  clock : Clock := {}
  commit : CommitUnit := {}
  chans : SMap Channel := []
  taps : List TapPush := []
  due : List Due := []
  spine : Spine := {}
  faults : FaultUnit := {}
  ledger : Ledger := {}
  mem : Memories := {}
  hbm : HbmUnit := {}
  ladles : SMap Ladle := []
  running : List Running := []
  signals : List Signal := []
  anvils : SMap Anvil := []
  slicers : SMap Slicer := []
  swages : SMap Swage := []
  crucibles : SMap Crucible := []
  planishers : SMap Planisher := []
  tinkers : SMap Tinker := []
  plan : PlanStore := {}
  els : Elastic := {}
  radio : Radio := {}
  code : CodeUnit := {}
  train : Training := {}
  net : Net := {}
  time : TimeUnit := {}
  twin : Twin := {}
  power : Power := {}
  start : Start := {}
  sec : Security := {}
  seq : Sequencer := {}
  i3c : I3cTarget := {}
  test : Test := {}
  pins : Pins := {}
  free : Nat := 0
  drawn : Nat := 0
  deriving DecidableEq, Repr

/-- The registers that do not start at 0 where neither the image nor the course of the start gives their
value (R57, R297, R372, R442, R448, R615): ARC.ID, RAD.TRATE, NET.SYNCE.QLRX, MEM.CFG, and AGC.STAT.PWR of each
loop. -/
def resetRegs : SMap Word :=
  [(0x00000000, 0x0940B000), (0x1800001C, 3250), (0x1900003C, 0xF00), (0x1B000000, 0x1803)] ++
  (List.range 64).map fun l => ((l + 1) * 2 ^ 32 + 0x1800200C, 0xFF0000)

/-- The device before its first power-on: FAULT_N is low, nothing is powered, and nothing has been loaded
(R14, R622, R623). What the manual gives no value for is 0 (log entry 5). -/
def State.reset : State := { regs := resetRegs }

end Sys2Proof.Machine
end

