-- ==== Sys2Proof/Machine/Store.lean ====
section
/-! DEFINITION. Reading and writing a sparse table, the one form in which registers, memories and the
arrays of units are held: keys strictly rising, and no entry equal to what an unlisted key reads as. -/

namespace Sys2Proof

/-- The entry at a key; `d` is what an unlisted key reads as. -/
def SMap.read {α : Type} (d : α) : SMap α → Nat → α
  | [], _ => d
  | (k', v) :: m, k => if k = k' then v else SMap.read d m k

/-- The table with an entry put at its place. -/
def SMap.insert {α : Type} : SMap α → Nat → α → SMap α
  | [], k, v => [(k, v)]
  | (k', v') :: m, k, v =>
      if k < k' then (k, v) :: (k', v') :: m
      else if k = k' then (k, v) :: m
      else (k', v') :: SMap.insert m k v

/-- The table with `v` at key `k`; writing `d` removes the entry. -/
def SMap.write {α : Type} [DecidableEq α] (d : α) (m : SMap α) (k : Nat) (v : α) : SMap α :=
  if v = d then m.filter fun e => e.1 != k else SMap.insert m k v

/-- The table with a list of values at consecutive keys. -/
def SMap.writeList {α : Type} [DecidableEq α] (d : α) (m : SMap α) (k : Nat) : List α → SMap α
  | [] => m
  | v :: vs => SMap.writeList d (SMap.write d m k v) (k + 1) vs

/-- The table with the values of a list of keys. -/
def SMap.writeAll {α : Type} [DecidableEq α] (d : α) (m : SMap α) : List (Nat × α) → SMap α
  | [] => m
  | e :: es => SMap.writeAll d (SMap.write d m e.1 e.2) es

/-- `n` consecutive entries. -/
def SMap.readList {α : Type} (d : α) (m : SMap α) (k n : Nat) : List α :=
  (List.range n).map fun i => SMap.read d m (k + i)

/-- The table without the keys for which `p` holds. -/
def SMap.drop {α : Type} (m : SMap α) (p : Nat → Bool) : SMap α := m.filter fun e => !p e.1

/-- The keys rise strictly from `lo` and no entry equals `d`. -/
def SMap.wfFrom {α : Type} [DecidableEq α] (d : α) : Nat → SMap α → Bool
  | _, [] => true
  | lo, (k, v) :: m => decide (lo ≤ k) && decide (v ≠ d) && SMap.wfFrom d (k + 1) m

/-- The canonical form of a table. -/
def SMap.wf {α : Type} [DecidableEq α] (d : α) (m : SMap α) : Bool := SMap.wfFrom d 0 m

end Sys2Proof
end

