-- ==== Sys2Proof/Machine/Ops.lean ====
section
/-! DEFINITION. The named operations that every family shares: registers and their fields, time,
locations, fault records, the slot ledger, contexts and their jobs, and the fence of a region. -/

namespace Sys2Proof.Machine

open Sys2Proof

/-! ## Registers -/

/-- The stored word of a register; a windowed register has one for each instance. -/
def State.reg (s : State) (k : Nat) : Word := SMap.read 0 s.regs k

/-- The state with a register's stored word replaced. -/
def State.setReg (s : State) (k : Nat) (w : Word) : State :=
  { s with regs := SMap.write 0 s.regs k w }

/-- A word with bits `lo` to `lo + n - 1` replaced. -/
def putBits (w : Word) (lo n v : Nat) : Word :=
  BitVec.ofNat 32 (w.toNat - bitsOf w lo n * 2 ^ lo + v % 2 ^ n * 2 ^ lo)

/-- A field of a register. -/
def State.fld (s : State) (k lo n : Nat) : Nat := bitsOf (s.reg k) lo n

/-- A signed field of a register. -/
def State.sfld (s : State) (k lo n : Nat) : Int := sbitsOf (s.reg k) lo n

/-- One bit of a register. -/
def State.bit (s : State) (k i : Nat) : Bool := bitOf (s.reg k) i

/-- The state with a field of a register replaced. -/
def State.setFld (s : State) (k lo n v : Nat) : State := s.setReg k (putBits (s.reg k) lo n v)

/-- The state with one bit of a register replaced. -/
def State.setBit (s : State) (k i : Nat) (b : Bool) : State := s.setFld k i 1 (if b then 1 else 0)

/-- A counter field that stops at its largest value. -/
def State.bump (s : State) (k lo n by_ : Nat) : State :=
  s.setFld k lo n (min (s.fld k lo n + by_) (2 ^ n - 1))

/-- A counter field that wraps. -/
def State.wrapAdd (s : State) (k lo n by_ : Nat) : State :=
  s.setFld k lo n ((s.fld k lo n + by_) % 2 ^ n)

/-- A counter that stops at its largest value, when a condition holds. -/
def State.bumpIf (s : State) (b : Bool) (k lo n by_ : Nat) : State :=
  if b then s.bump k lo n by_ else s

/-- ORs a flag word into a sticky register (R121). -/
def State.orFlags (s : State) (k : Nat) (f : FlagWord) : State :=
  s.setFld k 0 16 (s.fld k 0 16 ||| f.toNat)

/-- The key of instance `i` of a windowed register. -/
def winKey (i addr : Nat) : Nat := (i + 1) * 2 ^ 32 + addr

/-- The state with a list of registers set to 0. -/
def State.zeroRegs (s : State) : List Nat → State
  | [] => s
  | k :: ks => (s.setReg k 0).zeroRegs ks

/-! ## Time -/

/-- TCK.SLOTNUM (R63). -/
def State.slot (s : State) : Nat := (s.reg Reg.TCK_SLOTNUM).toNat

/-- TCK.SLOTLEN.LEN (R61). -/
def State.slotLen (s : State) : Nat := s.fld Reg.TCK_SLOTLEN 0 21

/-- TCK.SPE.N (R67). -/
def State.spe (s : State) : Nat := s.fld Reg.TCK_SPE 0 4

/-- DET.MODE.EXACT (R79). -/
def State.exact (s : State) : Bool := s.bit Reg.DET_MODE 0

/-- One engine cycle in units of 2^-16 ns (R9). -/
def ccTime : Nat := 40960

/-- By how much the next tick moves towards its boundary (R62): at most 10 ppm of a slot. -/
def State.slewStep (s : State) : Int :=
  let most : Int := s.slotLen * ccTime / 100000
  max (-most) (min most (-s.time.slew))

/-- The instant of the next slot tick. -/
def State.nextTu (s : State) : Nat := ((s.clock.tu : Int) + s.slotLen * ccTime + s.slewStep).toNat

/-- The present instant of the time scale, in units of 2^-16 ns. -/
def State.now (s : State) : Nat :=
  if s.clock.inTick then s.nextTu else s.clock.tu + s.clock.cc * ccTime

/-- Nanoseconds and seconds of an instant. -/
def nsOf (t : Nat) : Nat := t / 2 ^ 16 % 1000000000
def secOf (t : Nat) : Nat := t / 2 ^ 16 / 1000000000

/-- The slot number `n` slots before the present one. -/
def State.slotBack (s : State) (n : Nat) : Nat := (s.slot + 2 ^ 32 - n) % 2 ^ 32

/-! ## Locations (R50 to R55) -/

/-- A native location (R50). -/
def nativeLoc (level region cls index cell bit : Nat) : BitVec 64 :=
  BitVec.ofNat 64 (level * 2 ^ 62 + region % 16 * 2 ^ 58 + cls % 64 * 2 ^ 52 + index % 64 * 2 ^ 46
    + cell % 2 ^ 20 * 2 ^ 26 + bit % 256 * 2 ^ 18)

/-- A block of a region. -/
def blockLoc (region cls index : Nat) : BitVec 64 := nativeLoc 1 region cls index 0 0xFF

/-- A cell of a block, with its bit or 0xFF. -/
def cellLoc (region cls index cell bit : Nat) : BitVec 64 := nativeLoc 0 region cls index cell bit

/-- A region. -/
def regionLoc (region : Nat) : BitVec 64 := nativeLoc 2 region 0 0 0 0xFF

/-- The chip (R71). -/
def chipLoc : BitVec 64 := nativeLoc 3 15 0 0 0 0xFF

/-- Hop `h` of the chip spine in direction `d` (R52). -/
def hopLoc (h d : Nat) : BitVec 64 := nativeLoc 3 15 0x0C (2 * h + d) 0 0xFF

/-- A location of the seven-level form (R54). -/
def sevenForm (level region block macro_ bank word bit twin : Nat) : BitVec 64 :=
  BitVec.ofNat 64 (level * 2 ^ 61 + region % 16 * 2 ^ 57 + block % 64 * 2 ^ 51 + macro_ % 64 * 2 ^ 45
    + bank % 8 * 2 ^ 42 + word % 2 ^ 16 * 2 ^ 26 + bit % 256 * 2 ^ 18 + twin % 2 * 2 ^ 17)

/-- The seven-level form of a native location (R55): the finest enclosing level that the form has. -/
def sevenLoc (l : BitVec 64) : BitVec 64 :=
  let v := l.toNat
  let level := v / 2 ^ 62
  let region := v / 2 ^ 58 % 16
  let cls := v / 2 ^ 52 % 64
  let idx := v / 2 ^ 46 % 64
  let cell := v / 2 ^ 26 % 2 ^ 20
  let bit := v / 2 ^ 18 % 256
  let twin := v / 2 ^ 17 % 2
  let known := decide (bit < 255)
  let word (macro_ bank w : Nat) : BitVec 64 :=
    if known then sevenForm 0 region cls macro_ bank w bit twin
    else sevenForm 1 region cls macro_ bank w 0 twin
  if level = 3 then sevenForm 6 15 0 0 0 0 0 twin
  else if level = 2 then sevenForm 5 region 0 0 0 0 0 twin
  else if level = 1 then
    if cls = 0x08 then sevenForm 2 region cls (idx / 8) (idx % 8) 0 0 twin
    else if (cls ∈ [0x01, 0x02, 0x03, 0x04, 0x10, 0x11, 0x12, 0x13, 0x14, 0x18, 0x1A, 0x1B, 0x20,
        0x21, 0x22, 0x24, 0x25, 0x28, 0x29, 0x2A, 0x30] : Bool) then
      sevenForm 3 region cls idx 0 0 0 twin
    else sevenForm 4 region cls 0 0 0 0 twin
  else if cls = 0x08 then word (idx / 8) (idx % 8) cell
  else if cls = 0x01 && cell / 2 ^ 18 = 1 then
    word idx (cell % 64 / 8) (8 * (cell / 64 % 512) + cell % 8)
  else if cls = 0x06 then word 0 (cell / 65536) (cell % 65536)
  else if cls = 0x05 || cls = 0x3F then word 0 0 cell
  else if cls = 0x1B then word idx (cell / 65536) (cell % 65536)
  else if cls = 0x10 then word idx (cell / 2 ^ 15 % 2) (cell % 2 ^ 15)
  else if cls = 0x15 then sevenForm 3 region cls 0 0 0 0 twin
  else sevenForm 3 region cls idx 0 0 0 twin

/-! ## Fault records (R465 to R473) -/

/-- Masked records queued. -/
def maskedCount (q : List Record) : Nat := (q.filter fun r => r.cls = .masked).length

/-- Whether FLT.CFG.L2CLS selects a class for copies to the L2 port (R477). -/
def copiesClass (sel : Nat) (c : FaultClass) : Bool :=
  match sel, c with
  | 0, _ => true
  | 1, .detected => true
  | 1, .fatal => true
  | 2, .fatal => true
  | _, _ => false

/-- The eight words of a record (R469). -/
def Record.words (r : Record) : List Word :=
  [BitVec.ofNat 32 (r.ns % 2 ^ 30), BitVec.ofNat 32 r.sec, BitVec.ofNat 32 r.slot,
    r.loc.setWidth 32, (r.loc >>> 32).setWidth 32,
    BitVec.ofNat 32 (r.code % 2 ^ 16 + r.cls.code * 2 ^ 16 + (if r.form then 2 ^ 18 else 0)
      + min r.rep 255 * 2 ^ 19),
    r.d0, r.d1]

/-- Whether a record merges into the newest one (R472). -/
def mergesWith (coal : Bool) (q : List Record) (code : Nat) (loc : BitVec 64) (epoch : Nat) : Bool :=
  match q.getLast? with
  | some r => coal && r.code == code && r.loc == loc && r.epoch == epoch
  | none => false

/-- The queue with REPEAT of its newest record one higher, stopping at 255. -/
def bumpLast (q : List Record) : List Record :=
  match q.getLast? with
  | some r => q.dropLast ++ [{ r with rep := min (r.rep + 1) 255 }]
  | none => q

/-- The place of a record among those of one cycle (R470): its region, then its location. -/
def Record.place (r : Record) : Nat :=
  let l := r.loc.toNat
  (if r.form then l / 2 ^ 57 % 16 else l / 2 ^ 58 % 16) * 2 ^ 64 + l

/-- Puts a record behind the queue, before those of its own cycle that R470 places after it: `q` is newest first. -/
def placeRecord (r : Record) : List Record → List Record
  | [] => [r]
  | x :: q =>
      if x.sec = r.sec && x.ns = r.ns && x.slot = r.slot && decide (r.place < x.place) then x :: placeRecord r q
      else r :: x :: q

/-- Whether the data plane has started since the last start of the device (R539). -/
def State.started (s : State) : Bool := s.clock.running || s.fld Reg.STA_STEP 0 4 == 13

/-- The number of the slot that the present cycle belongs to: the new slot's in the cycle of a tick (R63, R68;
DEDUCED, log entry 40). -/
def State.curSlot (s : State) : Nat := if s.clock.inTick then (s.slot + 1) % 2 ^ 32 else s.slot

/-- The slot number as records and reports show it: 0xFFFF_FFFF before slot 0 (R539, R563). -/
def State.slotShown (s : State) : Nat := if s.started then s.curSlot else 0xFFFFFFFF

/-- A fatal fault (R466): the first one is kept, FAULT_N and TWIN_OK fall; during a start the device goes to
management-only operation (R545). -/
def State.goFatal (s : State) (code : Nat) : State :=
  let s := { s with pins := { s.pins with faultN := false, twinOk := false } }
  let s := if s.started then s else s.setBit Reg.STA_STEP 4 true
  if s.bit Reg.FLT_FATAL 31 then s
  else
    { (s.setReg Reg.FLT_FATAL (BitVec.ofNat 32 (code + 2 ^ 31))) with
      faults := { s.faults with fatalSlot := some s.curSlot } }

/-- The queue after a new record (R471, R472): merged, dropped and counted, or appended. -/
def State.queueRecord (s : State) (r : Record) : State :=
  let q := s.faults.queue
  if mergesWith (s.bit Reg.FLT_CFG 3) q r.code r.loc r.epoch then
    { s with faults := { s.faults with queue := bumpLast q } }
  else if r.cls = .masked && decide (768 ≤ maskedCount q) then s.bump Reg.FLT_LOST 0 16 1
  else if 1024 ≤ q.length then
    if r.cls = .masked then s.bump Reg.FLT_LOST 0 16 1 else s.bump Reg.FLT_LOST 16 16 1
  else
    { s with faults := { s.faults with
        queue := (placeRecord r q.reverse).reverse
        codes := s.faults.codes ++ [r.code]
        copies := if copiesClass (s.fld Reg.FLT_CFG 1 2) r.cls then s.faults.copies ++ [r]
          else s.faults.copies } }

/-- Raises a fault at a native location (R465, R469 to R473). -/
def State.raise (s : State) (code : Nat) (cls : FaultClass) (loc : BitVec 64) (d0 d1 : Nat) :
    State :=
  let form := s.bit Reg.ARC_LOCFORM 0
  let t := s.now
  let r : Record :=
    { ns := nsOf t, sec := secOf t, slot := s.slotShown, loc := if form then sevenLoc loc else loc,
      code := code, cls := cls, form := form, rep := 0, d0 := BitVec.ofNat 32 d0,
      d1 := BitVec.ofNat 32 d1, epoch := (s.reg Reg.MGT_EPOCH).toNat,
      owed := cls != .masked || s.bit Reg.FLT_CFG 0 }
  let s := s.queueRecord r
  match cls with
  | .masked => s.bump Reg.FLT_CNTM 0 32 1
  | .detected =>
      { (s.bump Reg.FLT_CNTD 0 32 1) with
        faults := { s.faults with badSlots := (s.curSlot :: s.faults.badSlots).take 4 } }
  | .fatal =>
      let s := { s with faults := { s.faults with badSlots := (s.curSlot :: s.faults.badSlots).take 4 } }
      s.goFatal code

/-- Raises a fault when a condition holds. -/
def State.raiseIf (s : State) (b : Bool) (code : Nat) (cls : FaultClass) (loc : BitVec 64)
    (d0 d1 : Nat) : State :=
  if b then s.raise code cls loc d0 d1 else s

/-- Whether the device is in the fatal state's idleness: the slot tick after the fault has come
(R466). -/
def State.fatalIdle (s : State) : Bool :=
  match s.faults.fatalSlot with
  | some n => n != s.curSlot || !s.clock.running
  | none => false

/-! ## Regions -/

/-- SPN.GATE.FENCED of a region (R46). -/
def State.fenced (s : State) (r : Nat) : Bool := s.bit Reg.SPN_GATE r

/-- The power domains of a region (R510). -/
def domainsOf (r : Nat) : List Nat :=
  if r < 8 then [r, 8 + r]
  else match r with
    | 8 => [16]
    | 9 => [17]
    | 10 => [18]
    | 11 => [19]
    | 12 => [20]
    | _ => [27]

/-- Whether every domain of a region is powered (R510, R535). -/
def State.powered (s : State) (r : Nat) : Bool :=
  (domainsOf r).all fun d => s.bit Reg.PWR_DOM d

/-- A region that serves requests: not fenced and not switched off (R531, R577). -/
def State.served (s : State) (r : Nat) : Bool := r == 13 || (!s.fenced r && s.powered r)

/-! ## Contexts (R318 to R321) -/

/-- A context. -/
def State.ctx (s : State) (c : Nat) : Ctx := SMap.read {} s.els.ctxs c

/-- The state with a context replaced. -/
def State.setCtx (s : State) (c : Nat) (x : Ctx) : State :=
  { s with els := { s.els with ctxs := SMap.write {} s.els.ctxs c x } }

/-- The state with a context changed by a function. -/
def State.onCtx (s : State) (c : Nat) (f : Ctx → Ctx) : State := s.setCtx c (f (s.ctx c))

/-- Adds to a client's count of submitted (0), completed (1) or aborted (2) jobs (R319). -/
def State.countJob (s : State) (client which n : Nat) : State :=
  s.bump (winKey client (Reg.ELS_JOBSUB + 4 * which)) 0 32 n

/-- A Ladle. -/
def State.ladle (s : State) (r l : Nat) : Ladle := SMap.read {} s.ladles (r * 8 + l)

/-- The state with a Ladle replaced. -/
def State.setLadle (s : State) (r l : Nat) (x : Ladle) : State :=
  { s with ladles := SMap.write {} s.ladles (r * 8 + l) x }

/-- A stream that stops at its next block boundary (R284). -/
def Stream.cancel (t : Stream) : Stream := { t with stopping := true }

/-- One Ladle after the cancellation of a context's job: its stream stops and its shadow is emptied. -/
def Ladle.cancel (x : Ladle) (c : Nat) : Ladle :=
  { x with
    active := x.active.map fun t => if t.ctx = some c then t.cancel else t
    shadow := x.shadow.filter fun t => t.ctx != some c }

/-- Every Ladle after the cancellation of a context's job (R284). -/
def State.cancelStreams (s : State) (c : Nat) : State :=
  { s with ladles := (s.ladles.map fun e => (e.1, e.2.cancel c)).filter fun e => e.2 != {} }

/-- What a job that has stopped leaves behind outside its context: its completions no longer arrive, its
re-encode requests that have not started are withdrawn (R392), and its streams stop. -/
def State.withdrawCtx (s : State) (c : Nat) : State :=
  let s := s.cancelStreams c
  { s with
    running := s.running.filter fun r => r.ctx != some c
    signals := s.signals.filter fun x => x.ctx != some c
    code := { s.code with queue := s.code.queue.filter fun q => q.ctx != c } }

/-- Changes the hand-in record that a history ingest job (R333: kind 1) writes to, a new one where there is none yet. -/
def State.onHandIn (s : State) (j : Job) (f : HandIn → HandIn) : State :=
  if j.kind != 1 then s
  else
    let mine (h : HandIn) : Bool := h.ctx == j.ctx && h.airslot == j.airslot
    let old := (s.els.handIns.find? mine).getD ⟨j.ctx, j.airslot, 0, false⟩
    { s with els := { s.els with handIns := (s.els.handIns.filter fun h => !mine h) ++ [f old] } }

/-- What the abort of jobs leaves behind: Taster jobs drop their allocations from the period (R397), and the hand-in of a
history that lacks a chunk never completes (R411). -/
def State.dropTaster (s : State) (js : List Job) : State :=
  let s := s.bump Reg.TST_DROP 0 32 (js.filter fun j => j.kind = 2).length
  js.foldl (fun s j => s.onHandIn j fun h => { h with lost := true }) s

/-- Aborts the job that a context runs: it leaves the queue and counts as aborted (R319). -/
def State.abortJob (s : State) (c : Nat) : State :=
  match (s.ctx c).queue with
  | [] => s
  | j :: rest =>
      let s := (s.countJob j.client 2 1).dropTaster [j]
      let s := s.onCtx c fun x =>
        { x with queue := rest, pos := 0, done := [], void := [], member := none
                 state := if rest.isEmpty then .idle else .runnable, cause := .none }
      s.withdrawCtx c

/-- Aborts every queued job of a context for which `p` holds, the running one among them. -/
def State.abortJobs (s : State) (c : Nat) (p : Job → Bool) : State :=
  let x := s.ctx c
  let n := (x.queue.filter p).length
  if n = 0 then s
  else
    let head := match x.queue with
      | j :: _ => p j
      | [] => false
    let s := (s.countJob x.image.client 2 n).dropTaster (x.queue.filter p)
    let rest := x.queue.filter fun j => !p j
    let s := s.onCtx c fun x =>
      if head then
        { x with queue := rest, pos := 0, done := [], void := [], member := none
                 state := if rest.isEmpty then .idle else .runnable, cause := .none }
      else { x with queue := rest }
    if head then s.withdrawCtx c else s

/-- Aborts the jobs for which `p` holds in every context for which `q` holds. -/
def State.abortWhere (s : State) (q : Ctx → Bool) (p : Job → Bool) : State :=
  (List.range 64).foldl (fun s c => if q (s.ctx c) then s.abortJobs c p else s) s

/-! ## The slot ledger (R303 to R305, R462 to R464) -/

/-- The key of a buffer's bits in the set of a slot. -/
def ledgerKey (slot region buf : Nat) : Nat := (slot % 4 * 14 + region) * 4096 + buf

/-- The bits of a data-plane buffer `lag` slots back. -/
def State.cell (s : State) (lag region buf : Nat) : LedgerCell :=
  SMap.read {} s.ledger.cells (ledgerKey (s.slotBack lag) region buf)

/-- The state with the bits of a buffer `lag` slots back replaced. -/
def State.setCell (s : State) (lag region buf : Nat) (x : LedgerCell) : State :=
  { s with ledger := { s.ledger with
      cells := SMap.write {} s.ledger.cells (ledgerKey (s.slotBack lag) region buf) x } }

/-- Enters a buffer as VOID in the ledger of the slot `lag` slots back (R462, R463). An entry for a
closed ledger is listed late; one outside the four kept sets is only listed. -/
def State.voidEntry (s : State) (lag region buf cause : Nat) : State :=
  if lag ≤ 3 then
    let x := s.cell lag region buf
    if x.void then s
    else
      let s := s.setCell lag region buf { x with void := true, suspect := false, cause := cause }
      let s := s.bump Reg.LGR_TOTAL 0 32 1
      if lag = 0 then s
      else { s with ledger := { s.ledger with
               late := s.ledger.late ++ [⟨region, buf, true, false, lag, cause⟩] } }
  else
    { (s.bump Reg.LGR_TOTAL 0 32 1) with ledger := { s.ledger with
        late := s.ledger.late ++ [⟨region, buf, true, false, lag, cause⟩] } }

/-- Enters a buffer as SUSPECT (R462); VOID prevails. -/
def State.suspectEntry (s : State) (lag region buf cause : Nat) : State :=
  let x := s.cell lag region buf
  if x.void || x.suspect then s
  else
    let s := s.setCell lag region buf { x with suspect := true, cause := cause }
    if lag = 0 then s
    else { s with ledger := { s.ledger with
             late := s.ledger.late ++ [⟨region, buf, false, true, lag, cause⟩] } }

/-- Marks an output void: in the slot ledger on the data plane, in the context's state in an elastic
window (R75, R305). Buffer 0xFFF names none. -/
def State.voidBuf (s : State) (ctx : Option Nat) (region buf cause : Nat) : State :=
  if buf = 0xFFF then s
  else match ctx with
    | none => s.voidEntry 0 region buf cause
    | some c => s.onCtx c fun x =>
        { x with void := if buf ∈ x.void then x.void else x.void ++ [buf] }

/-- Marks a list of outputs void. -/
def State.voidOuts (s : State) (ctx : Option Nat) (outs : List (Nat × Nat)) (cause : Nat) : State :=
  outs.foldl (fun s o => s.voidBuf ctx o.1 o.2 cause) s

/-- Signals completion of a buffer (R303, R304). -/
def State.complete (s : State) (ctx : Option Nat) (region buf : Nat) : State :=
  if buf = 0xFFF then s
  else match ctx with
    | none => s.setCell 0 region buf { s.cell 0 region buf with complete := true }
    | some c => s.onCtx c fun x =>
        { x with done := if buf ∈ x.done then x.done else x.done ++ [buf] }

/-- Clears the completion and void bits of a context's buffer, as its producer issues (R304). -/
def State.clearBuf (s : State) (c buf : Nat) : State :=
  s.onCtx c fun x => { x with done := x.done.erase buf, void := x.void.erase buf }

/-! ## Plans (R306 to R310) -/

/-- DET.VARIANT.ACTIVE. -/
def State.active (s : State) : Nat := s.fld Reg.DET_VARIANT 0 16

/-- A variant of the image. -/
def State.variant (s : State) (v : Nat) : Variant := s.plan.variants.getD v {}

/-- The slot plan that runs (R307). -/
def State.curPlan (s : State) : Plan :=
  (s.variant s.active).plans.getD (s.fld Reg.SPL_PATTERN 8 6) {}

/-- The plan of a variant in the slot whose index in the frame is `f` (R307). -/
def Variant.planAt (v : Variant) (f : Nat) : Plan :=
  v.plans.getD (v.pattern.getD (f % v.pattern.length) 0) {}

/-- Slots in a frame. -/
def State.frameSlots (s : State) : Nat := max 1 (10 * s.spe)

/-- Enabled Anvils of CRn in ARC.ANVMAP. -/
def State.enabledAnvils (s : State) (n : Nat) : Nat :=
  ((List.range 4).filter fun a => s.bit Reg.ARC_ANVMAP (4 * n + a)).length

/-- The engine conditions of R86 and its condition on fenced regions. -/
def State.fits (s : State) (v : Variant) : Bool :=
  (List.range 8).all (fun n => decide (v.anvils.getD n 0 ≤ s.enabledAnvils n)) &&
  (!v.slicer || s.bit Reg.ARC_GRADE 8) &&
  (List.range 14).all (fun r => !(v.regions.testBit r && s.fenced r))

/-- Whether the part has the engine that a command of a compute region names (R1, R6, R20): a logical Anvil below the
number enabled there, the Slicer where the grade has it. -/
def State.hasEngine (s : State) (cls region unit : Nat) : Bool :=
  if cls = 1 then decide (unit < s.enabledAnvils region) else cls != 2 || s.bit Reg.ARC_GRADE 8

/-- The first variant in image order that fits. -/
def State.firstFit (s : State) : Option Nat :=
  (List.range s.plan.variants.length).find? fun v => s.fits (s.variant v)

/-- The logical engines' locations: the physical Anvil of a logical one (R51). -/
def State.physAnvil (s : State) (n a : Nat) : Nat :=
  (((List.range 4).filter fun p => s.bit Reg.ARC_ANVMAP (4 * n + p)).getD a a)

/-! ## Containment (R29 to R36) -/

/-- The data-plane buffers of a region in a plan. -/
def Plan.bufsOf (p : Plan) (r : Nat) : List PlanBuf := p.bufs.filter fun b => b.region = r

/-- Voids every buffer that a region was to produce in this slot (R32, R34). -/
def State.voidRegion (s : State) (r cause : Nat) : State :=
  (s.curPlan.bufsOf r).foldl (fun s b => s.voidEntry 0 r b.buf cause) s

/-- Closes a region's gates (R46): its lists stop, the streams and commands of its engines end, its
contexts' jobs are aborted (R311, R531), and the buffers it was to produce are void. The tiles of its
Anvils are no longer loaded (R165). -/
def State.closeGate (s : State) (r cause : Nat) : State :=
  let s := s.setBit Reg.SPN_GATE r true
  let s := s.voidRegion r cause
  let s := s.abortWhere (fun x => x.image.home = r && !x.queue.isEmpty) (fun _ => true)
  { s with
    running := s.running.filter fun e => e.region != r
    due := s.due.filter fun e => e.region != r || decide (e.at_ ≤ s.clock.cc)
    ladles := s.ladles.filter fun e => e.1 / 8 != r
    anvils := s.anvils.filterMap fun e =>
      if e.1 / 4 = r then
        let a : Anvil := { e.2 with tile := none, flight := [], drain := none, arrayFree := 0, drainFree := 0 }
        if a = {} then none else some (e.1, a)
      else some e }

/-- The variant that excludes every fenced region, if the image holds one that fits (R34, R71). -/
def State.excluding (s : State) : Option Nat := s.firstFit

/-- A fence by the region fault unit (R32, R34): the gates close, the buffers of this slot and of the next are void,
the record is made, and in SOLO the fault controller asks for a switch at the next slot tick. -/
def State.fenceFault (s : State) (r cause : Nat) : State :=
  if s.fenced r then s
  else
    let s := s.closeGate r cause
    let s := { s with faults := { s.faults with voidNext := s.faults.voidNext ++ [r] } }
    let s := s.raise 0x030A .detected (regionLoc r) 0 0
    if s.fld Reg.TWN_CFG 0 2 = 0 then
      { s with faults := { s.faults with switchTo := s.excluding } }
    else s

/-- Counts a block's detected fault; the fourth consecutive slot fences its region (R32). -/
def State.blockFault (s : State) (r cls idx cause : Nat) : State :=
  let k := (r * 64 + cls) * 64 + idx
  let e := SMap.read {} s.faults.escal k
  let run := if e.run = 0 then 1
    else if e.slot = s.slot then e.run
    else if e.slot = s.slotBack 1 then e.run + 1 else 1
  let s := { s with faults := { s.faults with
    escal := SMap.write {} s.faults.escal k ⟨s.slot, run⟩ } }
  if 4 ≤ run && r < 13 then s.fenceFault r cause else s

/-- A report of a block to its region fault unit (R36), which queues at most 16 of one cycle; one more is lost,
counted, and escalated as "record overflow". A block makes one report per cycle, so what one command reports beyond
its first comes in later cycles. `true` when the report is taken. DEDUCED. -/
def State.report (s : State) (r cls idx : Nat) : State × Bool :=
  let k := (r * 64 + cls) * 64 + idx
  let now := s.faults.reports.filter fun e => e.2 = s.clock.cc
  if now.any fun e => e.1 = k then (s, true)
  else if (now.filter fun e => e.1 / 4096 = r).length < 16 then
    ({ s with faults := { s.faults with reports := (k, s.clock.cc) :: now } }, true)
  else
    let s := { s with faults := { s.faults with
      lost := SMap.write 0 s.faults.lost r (SMap.read 0 s.faults.lost r + 1) } }
    (s.raise 0x0109 .detected (blockLoc r 0x0A 0) 0 0, false)

/-- A fault of a block, reported through its region's fault unit and counted for escalation. -/
def State.blockRaise (s : State) (r cls idx code : Nat) (loc : BitVec 64) (d0 d1 : Nat) : State :=
  match s.report r cls idx with
  | (s, true) => (s.raise code .detected loc d0 d1).blockFault r cls idx code
  | (s, false) => s

/-- A bank collision (R29, R32): counted, raised, and in the second consecutive slot the region is
fenced. -/
def State.bankCollision (s : State) (r bank : Nat) : State :=
  let s := s.bump (Reg.SPD_COLL r) 0 16 1
  let s := s.raise 0x0103 .detected (blockLoc r 0x08 bank) 0 0
  let e := SMap.read {} s.faults.collisions r
  let run := if e.run = 0 then 1
    else if e.slot = s.slot then e.run
    else if e.slot = s.slotBack 1 then e.run + 1 else 1
  let s := { s with faults := { s.faults with
    collisions := SMap.write {} s.faults.collisions r ⟨s.slot, run⟩ } }
  if 2 ≤ run then s.fenceFault r 0x0103 else s

/-! ### What falls due -/

/-- Whether an effect comes after another: a later cycle, or in one cycle a later place (R470). -/
def Due.after (a b : Due) : Bool :=
  decide (b.at_ < a.at_) || (a.at_ == b.at_ && (decide (b.region < a.region) ||
    (a.region == b.region && decide (b.effect.loc ≤ a.effect.loc))))

/-- Puts an effect in its place among those that wait, latest first. -/
def insertDue (e : Due) : List Due → List Due
  | [] => [e]
  | x :: xs => if e.after x then e :: x :: xs else x :: insertDue e xs

/-- An effect takes place. -/
def State.apply (s : State) (region : Nat) : Effect → State
  | .count k lo n by_ => s.bump k lo n by_
  | .flags k f => s.orFlags k f
  | .mask k w => s.setReg k (s.reg k ||| w)
  | .put k lo n v => s.setFld k lo n v
  | .first k lo n slot v => if s.fld k lo n = 0 then s.setReg slot v else s
  | .latch k bit vs => if s.bit k bit then s else vs.foldl (fun s v => s.setReg v.1 v.2) s
  | .report cls idx code loc d0 d1 => s.blockRaise region cls idx code loc d0 d1
  | .fence cause => s.fenceFault region cause
  | .record code cls loc d0 d1 => s.raise code cls loc d0 d1

/-- An effect of a region in cycle `t`. In the cycle itself it counts after what the cycle reads and clears (R94, R138,
R182). -/
def State.later (s : State) (t region : Nat) (e : Effect) : State :=
  if t < s.clock.cc && !s.clock.inTick then s.apply region e
  else { s with due := insertDue ⟨t, region, e⟩ s.due }

/-- A list of effects of a region in one cycle. -/
def State.laters (s : State) (t region : Nat) (es : List Effect) : State :=
  es.foldl (fun s e => s.later t region e) s

/-- What is due before cycle `t` takes place, in order, each in its own cycle. -/
def State.settle (s : State) (t : Nat) : State :=
  let now := s.due.filter fun e => decide (e.at_ < t)
  now.foldr (fun e s =>
      ({ s with clock := { s.clock with cc := max s.clock.cc e.at_ } } : State).apply e.region e.effect)
    { s with due := s.due.filter fun e => !decide (e.at_ < t) }

/-- The state when slot cycle `t` has been reached: what earlier cycles owe has taken place. -/
def State.reach (s : State) (t : Nat) : State :=
  if t ≤ s.clock.cc then s
  else
    let s := s.settle t
    { s with clock := { s.clock with cc := t } }

/-! ### Timing breaches -/

/-- The region of a native location. -/
def locRegion (l : BitVec 64) : Nat := l.toNat / 2 ^ 58 % 16

/-- A data-plane timing breach or slot overrun at cycle `t` as DET.BREACH and its latches show it (R93). -/
def State.countBreach (s : State) (r t : Nat) : State :=
  s.laters t r [.count Reg.DET_BREACH 0 16 1,
    .latch Reg.DET_BRCC 31 [(Reg.DET_BRSLOT, BitVec.ofNat 32 s.curSlot),
      (Reg.DET_BRCC, BitVec.ofNat 32 (t % 2 ^ 21 + 2 ^ 31))]]

/-- A timing breach at a cycle of the slot, `late` cycles late (R73, R75): detected on the data plane and under
EXACT, masked otherwise. -/
def State.breachAt (s : State) (ctx : Option Nat) (loc : BitVec 64) (w0 : Word) (planned cycle late : Nat) :
    State :=
  let d1 := planned % 2 ^ 21 + min late 2047 * 2 ^ 21
  let r := locRegion loc
  match ctx with
  | none => (s.countBreach r cycle).later cycle r (.record 0x0301 .detected loc w0.toNat d1)
  | some _ => s.laters cycle r [.count Reg.DET_BREACH 16 16 1,
      .record 0x0301 (if s.exact then .detected else .masked) loc w0.toNat d1]

/-- A timing breach that shows at a command's planned cycle. -/
def State.breach (s : State) (ctx : Option Nat) (loc : BitVec 64) (w0 : Word) (planned late : Nat) :
    State :=
  s.breachAt ctx loc w0 planned planned late

/-- What `n` more breaches like the newest ones add at cycle `t` once the fault queue can take no more (R93, R471,
R472): the counts, and either nothing more in the newest record or as many lost records. -/
def State.moreBreaches (s : State) (ctx : Option Nat) (loc : BitVec 64) (t n : Nat) : State :=
  let masked := ctx.isSome && !s.exact
  let r := locRegion loc
  let s := s.laters t r [.count Reg.DET_BREACH (if ctx.isNone then 0 else 16) 16 n,
    .count (if masked then Reg.FLT_CNTM else Reg.FLT_CNTD) 0 32 n]
  if s.bit Reg.FLT_CFG 3 then s else s.later t r (.count Reg.FLT_LOST (if masked then 0 else 16) 16 n)

/-- `n` breaches of one command in consecutive cycles from a cycle on, after `late` earlier ones (R170, R171).
Past 2,048 of them the queue is full or merges. -/
def State.breachRun (s : State) (ctx : Option Nat) (loc : BitVec 64) (w0 : Word) (planned cycle late n : Nat) :
    State :=
  let k := min n 2048
  let s := (List.range k).foldl (fun s j => s.breachAt ctx loc w0 planned (cycle + j) (late + j + 1)) s
  if n = k then s else s.moreBreaches ctx loc (cycle + n - 1) (n - k)

/-- A free value that nature or the management plane meets: fresh at every use (log entry 4). -/
def State.fresh (s : State) : BitVec 64 × State :=
  (Config.freeValue (2 * s.free), { s with free := s.free + 1 })

/-- `n` free values that a data-plane command meets. They depend on nothing but the free values that data-plane
commands took before (R78). -/
def State.draw (s : State) (n : Nat) : List (BitVec 64) × State :=
  ((List.range n).map fun i => Config.freeValue (2 * (s.drawn + i) + 1), { s with drawn := s.drawn + n })

/-- `n` free values of a command: an elastic command's are apart from the data plane's (R78). -/
def State.drawFor (s : State) (elastic : Bool) (n : Nat) : List (BitVec 64) × State :=
  if elastic then
    ((List.range n).map fun i => Config.freeValue (2 * (s.free + i)), { s with free := s.free + n })
  else s.draw n

/-- The record of a SECDED error, corrected or not (R32, R469): its address, the high address bits of HBM,
and a syndrome, which no rule states and is a free value (log entry 18). -/
def State.eccRecord (s : State) (unc : Bool) (r cls idx : Nat) (loc : BitVec 64) (addr hi : Nat) :
    State :=
  let (f, s) := s.fresh
  let d1 := f.toNat % 256 + hi % 16 * 256
  if unc then s.blockRaise r cls idx 0x0102 loc addr d1
  else s.raise 0x0101 .masked loc addr d1

/-- A SECDED error at cycle `t`, as `eccRecord` reports it: a corrected one makes a record, another a report. -/
def State.eccLater (s : State) (unc : Bool) (r cls idx : Nat) (loc : BitVec 64) (addr t : Nat) : State :=
  let (f, s) := s.fresh
  let d1 := f.toNat % 256
  if unc then s.later t r (.report cls idx 0x0102 loc addr d1)
  else s.later t r (.record 0x0101 .masked loc addr d1)

/-! ## The chip spine (R37 to R46, R58, R59) -/

/-- The spine stop of a region (R17). -/
def regionStop (r : Nat) : Nat := [1, 2, 3, 4, 8, 9, 10, 11, 5, 6, 12, 7, 13, 0].getD r 0

/-- The next stop in a direction: 0 clockwise, 1 counter-clockwise (R37). -/
def nextStop (stop dir : Nat) : Nat := if dir = 0 then (stop + 1) % 14 else (stop + 13) % 14

/-- Hops from one stop to another in a direction. -/
def hopsBetween (a b dir : Nat) : Nat := if dir = 0 then (b + 14 - a) % 14 else (a + 14 - b) % 14

/-- Hops from TWIN's stop to a region's, the shorter way round (R37). -/
def hopsTo (r : Nat) : Nat := min (hopsBetween 13 (regionStop r) 0) (hopsBetween 13 (regionStop r) 1)

/-- Hops from one region's stop to another's, the shorter way round (R37). -/
def hopsFrom (a b : Nat) : Nat :=
  min (hopsBetween (regionStop a) (regionStop b) 0) (hopsBetween (regionStop a) (regionStop b) 1)

/-- The hops that a flit injected at frame cycle `t` occupies (R41): stop, direction and frame cycle of each. -/
def occupied (stop dir t : Nat) : Nat → List (Nat × Nat × Nat)
  | 0 => []
  | k + 1 => (stop, dir, t) :: occupied (nextStop stop dir) dir (t + 2) k

/-- When a flit injected at cycle `t` is delivered (R41). -/
def deliveredAt (t hops : Nat) : Nat := t + 2 * hops + 3

/-- How long before its injection a request reaches the injection stage (R41). -/
def injectionLead : Nat := 3

/-- SPN.FRAME.LEN (R45). -/
def State.frameLen (s : State) : Nat := s.fld Reg.SPN_FRAME 0 10

/-- An entry of a plan's injection tables (R39, R40); what a table does not list is idle. -/
def Plan.spineEntry (p : Plan) (stop dir t : Nat) : SpineEntry :=
  match p.spine.find? fun x => x.stop = stop && x.dir = dir with
  | some x => .ofWord (((x.entries.find? fun e => e.1 = t).map (·.2)).getD 0)
  | none => .ofWord 0

/-- Whether a flit of so many hops can take an entry (R40, R43): a planned entry names its hops; an elastic one reserves
every hop up to its reach, of which the stop's elastic queue chooses one at run time, and under EXACT the plan's one; a
control entry delivers anywhere within its reach. -/
def SpineEntry.takes (e : SpineEntry) (exact : Bool) (hops : Nat) : Bool :=
  match e.type with
  | .idle => false
  | .planned => hops == e.hops
  | .elastic => if exact then hops == e.hops else decide (0 < hops) && decide (hops ≤ e.hops)
  | .control => decide (hops ≤ e.hops)

/-- What a stop injects in a direction at slot cycle `c` (R39, R59): the entry of the frame cycle, unless it is idle, has
failed parity since the last plan load, or would be delivered in the last 32 cycles of the slot. -/
def State.injects (s : State) (stop dir c : Nat) : Option SpineEntry :=
  let t := c % max 1 s.frameLen
  let e := s.curPlan.spineEntry stop dir t
  if e.type = .idle || s.spine.idle.any (fun f => f.hop = stop && f.dir = dir && f.entry = t) then none
  else if e.type != .control && decide (s.slotLen - 32 < deliveredAt c e.hops) then none
  else some e

/-- When a control request that is ready at cycle `c` at a stop is delivered at another (R41, R44): in the first control
entry that reaches it. -/
def State.controlDelivery (s : State) (a b c : Nat) : Option Nat :=
  (List.range s.frameLen).findSome? fun w =>
    let t := c + injectionLead + w
    [0, 1].findSome? fun dir =>
      let h := hopsBetween a b dir
      match s.injects a dir (t % max 1 s.slotLen) with
      | some e => if e.type = .control && e.takes s.exact h then some (deliveredAt t h) else none
      | none => none

/-- The longer leg of an access to a region's stop: the request from MGMT, and the reply (R44, R58). Where the plan holds
no table the hardware's leg is what `seen` says, within the bound of R44. -/
def State.controlLeg (s : State) (r seen : Nat) : Nat :=
  let c := s.clock.cc
  let bound := s.frameLen + 20
  match s.controlDelivery 0 (regionStop r) c with
  | none => min seen bound
  | some d => max (d - c) (match s.controlDelivery (regionStop r) 0 d with
      | some b => b - d
      | none => 0)

/-- A fault of the chip spine (R38, R59): its bit of SPN.ERR, its record, the buffers that the flit carried void; an entry
that fails parity is idle until the next plan load. -/
def State.spineFault (s : State) (ctx : Option Nat) (f : SpineFault) : State :=
  let loc := hopLoc f.hop f.dir
  match f.kind with
  | 0 => ((s.setBit Reg.SPN_ERR 0 true).raise 0x0104 .detected loc 0 0).voidOuts ctx f.bufs 0x0104
  | 1 => ((s.setBit Reg.SPN_ERR 1 true).raise 0x0105 .detected loc 0 0).voidOuts ctx f.bufs 0x0105
  | 2 =>
      let s := ((s.setBit Reg.SPN_ERR 2 true).raise 0x0106 .detected loc 0 0).voidOuts ctx f.bufs 0x0106
      { s with spine := { s.spine with idle := f :: s.spine.idle } }
  | _ => s.eccRecord false 0 0 0 loc 0 0

/-- The buffers that entries of failed parity were to carry are void in every slot (R59). -/
def State.voidIdleEntries (s : State) : State :=
  s.spine.idle.foldl (fun s f => s.voidOuts none f.bufs 0x0106) s

/-- New tables come from the plan store (R39, R59). -/
def State.loadTables (s : State) : State := { s with spine := {} }

/-- Whether the device is the shadow of a running pair, whose ports neither take nor send (R494). -/
def State.isShadow (s : State) : Bool :=
  s.fld Reg.TWN_CFG 0 2 = 1 && s.fld Reg.TWN_STAT 0 3 = 3 && !s.bit Reg.TWN_STAT 3

/-- Whether a clock domain has lost lock, so that its output is void (R513). -/
def State.lostLock (s : State) (d : Nat) : Bool := s.power.unlocked.contains d

/-- PWR.STATE.CUR: 0 Run, 1 Trim, 2 Doze, 3 Keep (R520). -/
def State.powerState (s : State) : Nat := s.fld Reg.PWR_STATE 0 2

/-- A wake source in Keep (R526): 0 WAKE_N, 1 trigger 3, 2 NOW, where PWR.WAKE enables it. -/
def State.wakeSource (s : State) (src : Nat) : State :=
  if s.powerState = 3 && s.bit Reg.PWR_WAKE src && s.power.wake.isNone then
    { s with power := { s.power with wake := some (3, 0) }, pins := { s.pins with pwrEn := true } }
  else s

/-- An event that waits for its in-band interrupt; a repeat of its kind replaces it (R585, R586). -/
def State.announce (s : State) (kind : Nat) (payload : List Byte) : State :=
  { s with i3c := { s.i3c with
    events := (s.i3c.events.filter fun e => e.1 != kind) ++ [(kind, payload)] } }

/-- Whether a loop-back of an interface is in force (R601, R603). -/
def State.looped (s : State) (l : LinkId) : Bool := s.test.loops.contains l

/-- A management action, unless a lockstep mismatch discards it (R467). -/
def State.managed (s : State) (f : State → State) : State :=
  if s.faults.discard then { s with faults := { s.faults with discard := false } } else f s

/-- Whether an offset is that of an instance along the dimensions of a register. -/
def instanceAt : List (Nat × Nat) → Nat → Bool
  | [], o => o == 0
  | d :: ds, o => decide (o / d.1 < d.2) && instanceAt ds (o % d.1)

/-- Whether a register of the table has an instance at an address. -/
def RegDef.covers (d : RegDef) (a : Nat) : Bool := decide (d.base ≤ a) && instanceAt d.dims (a - d.base)

/-- The register at an address. -/
def findReg (a : Nat) : Option RegDef := regTable.find? fun d => d.covers a

/-- The bits of a register whose fields have an access code. -/
def RegDef.maskOf (d : RegDef) (p : Access → Bool) : Word :=
  BitVec.ofNat 32 ((d.fields.map fun f => if p f.acc then (2 ^ f.width - 1) * 2 ^ f.lo else 0).sum)

/-- The bits of a register whose values the image's register values supply (R14). -/
def RegDef.imageMask (d : RegDef) : Word :=
  BitVec.ofNat 32 ((d.fields.map fun f => if f.image then (2 ^ f.width - 1) * 2 ^ f.lo else 0).sum)

/-- The outcome of a command that the image loader's own rules admit. -/
def admitted (ok : Bool) (s : State) : Host.Outcome State Fault Refusal :=
  if ok then .next s else .refused .loaderRefuses

end Sys2Proof.Machine
end

