-- ==== Sys2Proof/Machine/Operands.lean ====
section
/-! DEFINITION. Every operand form: how a command issues and checks its inputs, what a stream delivers
and takes, scale blocks and channels, and the conversion units. -/

namespace Sys2Proof.Machine

open Sys2Proof

/-! ## Issue (R30, R73, R75, R172, R301, R305, R314, R320) -/

/-- How a command issued: whether it did, its cycle, the context of an elastic command, and whether
its outputs are void from the start, with the first cause. -/
structure Issue where
  go : Bool
  t : Nat
  ctx : Option Nat
  void : Bool
  cause : Nat
  deriving DecidableEq, Repr

/-- A command that does not issue. -/
def Issue.none : Issue := ⟨false, 0, .none, false, 0⟩

/-- The entries of a dependency table that a command has: up to 7, to the one with LAST (R305). -/
def depEntries : Nat → List Nat → List Nat
  | 0, _ => []
  | _, [] => []
  | n + 1, e :: es => e :: (if e / 16384 % 2 = 1 then [] else depEntries n es)

/-- The input buffers of a command with their lags, in the order of R463; an entry whose parity fails stands as it is
(DESIGN CHOICE, log entry 122). -/
def Cmd.inputs (c : Cmd) : List (Nat × Nat) :=
  (if c.wbuf = 0xFFF then [] else [(c.wbuf, 0)]) ++
    (if c.dept then (depEntries 7 c.deps).map fun e => (e % 4096, e / 4096 % 4) else [])

/-- Whether an input has signalled completion; a context's own buffers are 0xC00 and above (R303). -/
def State.inputDone (s : State) (region : Nat) (ctx : Option Nat) (i : Nat × Nat) : Bool :=
  match ctx with
  | some c => if 0xC00 ≤ i.1 then (s.ctx c).done.contains i.1 else (s.cell i.2 region i.1).complete
  | none => (s.cell i.2 region i.1).complete

/-- The cause of an input's VOID, if it is void (R305, R463). -/
def State.inputVoid (s : State) (region : Nat) (ctx : Option Nat) (i : Nat × Nat) : Option Nat :=
  let x := s.cell i.2 region i.1
  match ctx with
  | some c =>
      if 0xC00 ≤ i.1 then if (s.ctx c).void.contains i.1 then some 0x0301 else none
      else if x.void then some x.cause else none
  | none => if x.void then some x.cause else none

/-- A lagged input of the first three slots after a cold switch that reaches a slot before the switch
(R310). -/
def State.coldInput (s : State) (i : Nat × Nat) : Bool :=
  match s.plan.coldAt with
  | some c =>
      let d := (s.slot + 2 ^ 32 - c) % 2 ^ 32
      decide (d < 3) && decide (d < i.2)
  | none => false

/-- The first cause among void inputs, in the order of R463. -/
def State.firstVoid (s : State) (region : Nat) (ctx : Option Nat) (is : List (Nat × Nat)) :
    Option Nat :=
  is.findSome? fun i => s.inputVoid region ctx i

/-- Whether an engine may run at all: the data plane runs, no fatal fault idles it, and the region's
gates are open (R466, R523, R531). -/
def State.engineLive (s : State) (region : Nat) : Bool :=
  s.clock.running && !s.fatalIdle && s.served region

/-- The buffers, with their regions, that a command names as its own outputs rather than through a Ladle's stream: an ARM,
the transform engines, CODE, NET and Switu receptions. -/
def Cmd.ownBufs (c : Cmd) : List (Nat × Nat) :=
  let far (r b : Nat) : List (Nat × Nat) := (c.region, b) :: (if c.elastic then [] else [(r, b)])
  match c.cls with
  | 5 => [(c.region, bitsOf c.w.w4 0 12)]
  | 8 =>
      if c.opcode = 0x81 then [(8, bitsOf c.w.w7 0 12)]
      else if c.opcode = 0x80 || c.opcode = 0x82 then [(bitsOf c.w.w6 25 3, bitsOf c.w.w7 0 12)]
      else []
  | 9 => far (bitsOf c.w.w5 25 3) (bitsOf c.w.w2 16 12)
  | 10 =>
      if c.opcode = 0xA0 || c.opcode = 0xA4 then far (bitsOf c.w.w4 25 3) (bitsOf c.w.w6 0 12) else []
  | 11 =>
      if c.opcode = 0xB1 then
        far (if bitOf c.w.w2 28 then 11 else bitsOf c.w.w2 25 3) (bitsOf c.w.w5 0 12)
      else []
  | _ => []

/-- A data-plane command whose engine is not free before the slot tick: it does nothing, and the tick stops it and enters
its buffers as void (R74). -/
def State.neverStarts (s : State) (c : Cmd) (t : Nat) : State :=
  { s with running := ⟨c.cls, c.region, c.unit, 2, c.w.w0, c.issue, t + 1, c.ownBufs, none⟩ :: s.running }

/-- A data-plane command at its planned cycle; `free` is when its slot is free (R73, R172). -/
def State.issueData (s : State) (c : Cmd) (loc : BitVec 64) (free : Nat) : Issue × State :=
  let planned := c.issue
  let t := max planned free
  if s.slotLen ≤ t && decide (planned < t) then (Issue.none, s.neverStarts c t)
  else
  let s := s.reach t
  let missing := c.inputs.filter fun i => !s.inputDone c.region none i
  let cold := missing.all fun i => s.coldInput i
  let late := decide (planned < t)
  let void := s.firstVoid c.region none c.inputs
  let s := if !cold || late then s.breach none loc c.w.w0 planned (t - planned) else s
  let cause :=
    if !missing.isEmpty then if cold then 0x0304 else 0x0301
    else if late then 0x0301 else void.getD 0
  (⟨true, t, none, !missing.isEmpty || late || void.isSome, cause⟩, s)

/-- The windows of a region in the running plan that a cycle may issue in (R312, R314). -/
def State.openWindow (s : State) (region t engines : Nat) : Option ElsWindow :=
  ((s.curPlan.windows.filter fun w => w.1 = region).map (·.2)).find? fun w =>
    w.parity && decide (w.start ≤ t) && decide (t + s.fld Reg.ELS_NPMAX 0 20 ≤ w.stop)
      && decide (w.engines &&& engines = engines)

/-- Whether the kept set of a job has a void buffer in the ledger of its slot (R186), or an attach has emptied it
(R504). -/
def State.keptVoid (s : State) (j : Job) : Bool :=
  let lag := (s.slot + 2 ^ 32 - j.step) % 2 ^ 32
  (s.train.keptFrom.any fun e => decide ((s.slot + 2 ^ 32 - e) % 2 ^ 32 < lag) && decide (lag < 2 ^ 31)) || decide (lag ≤ 3) &&
    ((s.variant s.active).planAt (s.fld Reg.TCK_FRAME 0 7 + s.frameSlots - lag)).kept.any fun b =>
      (s.cell lag b.1 b.2).void

/-- A kept set that a void buffer rules out counts once (R186). -/
def State.countVoidIn (s : State) (step : Nat) : State :=
  if s.train.voidIn.contains step then s
  else { (s.bump Reg.GRD_JOBS 16 16 1) with train := { s.train with voidIn := (step :: s.train.voidIn).take 8 } }

/-- A gradient job whose kept set has a void buffer by the time it would start is not started (R186). -/
def State.skipVoidJob (s : State) (c : Nat) : State :=
  let x := s.ctx c
  match x.queue with
  | [] => s
  | j :: rest =>
      if j.kind = 0 && x.pos = 0 && s.keptVoid j then
        (s.countVoidIn j.step).onCtx c fun x =>
          { x with queue := rest, state := if rest.isEmpty then .idle else x.state }
      else s

/-- A position of the elastic sequence without a job (R80): its command runs with zero rows or counts, which completes at
once and signals completion. -/
def State.zeroRun (s : State) (c : Cmd) (t : Nat) : State :=
  let s := c.ownBufs.foldl (fun s o => s.complete (some c.ctx) o.1 o.2) (s.reach t)
  s.onCtx c.ctx fun x => { x with pos := (x.pos + 1) % max 1 x.image.list.length, due := none }

/-- Whether the job of a context fills the position that its entry of the elastic sequence names (R80, R331); a job that was
taken in without a position fills any. -/
def Ctx.fills (x : Ctx) : Bool :=
  match x.queue with
  | [] => false
  | j :: _ => j.pos.all fun p => p % 4 == x.duePos

/-- An elastic command (R80, R314, R320, R322, R331, R332): `engine` is its bit of ENGINES. -/
def State.issueElastic (s : State) (c : Cmd) (loc : BitVec 64) (free engine : Nat) :
    Issue × State :=
  let s := s.skipVoidJob c.ctx
  let x := s.ctx c.ctx
  let c := if s.exact then { c with cyc := (x.due.getD (0, 0)).2 } else c
  let t := max c.issue free
  let named := !s.exact || (match x.due with
    | some d => d.1 == x.pos % 256
    | none => false)
  if !named || (s.openWindow c.region t engine).isNone then (Issue.none, s)
  else if x.queue.isEmpty || (s.exact && !x.fills) then
    (Issue.none, if s.exact && c.ord == x.pos % 256 then s.zeroRun c t else s)
  else if !s.exact && x.member.isSome && decide (x.sliceEnd ≤ t) then (Issue.none, s)
  else if c.ord != x.pos % 256 then
    let s := s.reach t
    let s := s.bump (winKey c.region Reg.ELS_CUTS) 16 16 1
    let s := s.raise 0x0502 .detected loc c.w.w0.toNat (c.issue % 2 ^ 21)
    (Issue.none, s.abortJob c.ctx)
  else
    let missing := c.inputs.filter fun i => !s.inputDone c.region (some c.ctx) i
    if !s.exact && x.state != .running then (Issue.none, s)
    else if !s.exact && !missing.isEmpty then
      (Issue.none, (s.reach t).onCtx c.ctx fun x =>
        { x with state := .blocked, cause := .buffer, blockedSince := t })
    else
      let s := s.reach t
      let void := s.firstVoid c.region (some c.ctx) c.inputs
      let bad := !missing.isEmpty || decide (c.issue < t)
      let s := if bad then s.breach (some c.ctx) loc c.w.w0 c.issue (t - c.issue) else s
      let bv := !missing.isEmpty || (s.exact && bad)
      (⟨true, t, some c.ctx, bv || void.isSome, if bv then 0x0301 else void.getD 0⟩, s)

/-- Signals the completions that are due by a cycle. -/
def State.settleSignals (s : State) (t : Nat) : State :=
  let due := s.signals.filter fun x => decide (x.due ≤ t)
  due.foldr (fun x s => s.complete x.ctx x.region x.buf)
    { s with signals := s.signals.filter fun x => !decide (x.due ≤ t) }

/-- A completion that falls due at a cycle. -/
def State.signalAt (s : State) (ctx : Option Nat) (region buf due : Nat) : State :=
  if buf = 0xFFF then s else { s with signals := ⟨due, region, buf, ctx⟩ :: s.signals }

/-- The faults of the chip spine that a command's flits meet (R38, R59); its outputs are void with the buffers that it
names. -/
def State.meetSpine (x : Issue × State) (c : Cmd) : Issue × State :=
  match c.spine with
  | some f => if x.1.go then (x.1, x.2.spineFault x.1.ctx f) else x
  | none => x

/-- The step number of a command (R133, R317). -/
def State.stepNumber (s : State) (ctx : Option Nat) : Nat :=
  match ctx with
  | some c => ((s.ctx c).queue.headD {}).step
  | none => s.slot

/-- A command that has issued is running until `finish`; an elastic one moves its context's list on,
and the last of the list completes the job (R319). -/
def State.track (s : State) (c : Cmd) (i : Issue) (port finish : Nat) (outs : List (Nat × Nat)) :
    State :=
  let e : Running := ⟨c.cls, c.region, c.unit, port, c.w.w0, c.issue, finish, outs, i.ctx⟩
  let s := { s with running := e :: s.running.filter fun r =>
    !(r.cls == c.cls && r.region == c.region && r.unit == c.unit && r.port == port && decide (r.finish ≤ i.t)) }
  match i.ctx with
  | none => s
  | some k =>
      let x := s.ctx k
      let s := s.onCtx k fun x =>
        { x with pos := x.pos + 1, lastDone := max x.lastDone finish, due := none }
      if x.pos + 1 < x.image.list.length then s
      else
        let s := s.countJob x.image.client 1 1
        let s := s.onHandIn (x.queue.headD {}) fun h => { h with open_ := h.open_ - 1 }
        let s := if (x.queue.headD {}).kind = 0 then
          { s with train := { s.train with gathered := s.train.gathered + 1 } } else s
        s.onCtx k fun x =>
          let rest := x.queue.drop 1
          { x with queue := rest, pos := 0, done := [], void := []
                   state := if rest.isEmpty then .idle else x.state }

/-! ## Streams (R270 to R284) -/

/-- A block descriptor from its 32 bytes (R270). -/
def Block.ofBytes (bs : List Byte) : Block :=
  let w (i : Nat) : Word := BitVec.ofNat 32 (leNat ((bs.drop (4 * i)).take 4))
  { addr := (w 0).toNat + bitsOf (w 1) 0 4 * 2 ^ 32
    space := bitsOf (w 1) 4 2, region := bitsOf (w 1) 6 3, kind := bitsOf (w 1) 9 2
    usz := bitsOf (w 1) 11 3
    cnt0 := bitsOf (w 2) 0 16, cnt1 := bitsOf (w 2) 16 16
    cnt2 := bitsOf (w 3) 0 16, cnt3 := bitsOf (w 3) 16 16
    str0 := (w 4).toInt, str1 := (w 5).toInt, str2 := (w 6).toInt, str3 := (w 7).toInt }

/-- Bytes that a block moves. -/
def Block.size (b : Block) : Nat := b.cnt0 * b.cnt1 * b.cnt2 * b.cnt3 * 2 ^ b.usz

/-- Index of unit `u` along dimension 0 to 3 (R271). -/
def Block.index (b : Block) (u : Nat) : Nat → Nat
  | 0 => u % b.cnt0
  | 1 => u / b.cnt0 % b.cnt1
  | 2 => u / (b.cnt0 * b.cnt1) % b.cnt2
  | _ => u / (b.cnt0 * b.cnt1 * b.cnt2)

/-- Address of byte `o` of a block (R271). -/
def Block.byteAddr (b : Block) (o : Nat) : Int :=
  let u := o / 2 ^ b.usz
  (b.addr : Int) + b.index u 0 * b.str0 + b.index u 1 * b.str1 + b.index u 2 * b.str2
    + b.index u 3 * b.str3 + (o % 2 ^ b.usz : Nat)

/-- The blocks of one KIND, in list order (R272). -/
def Stream.ofKind (t : Stream) (kind : Nat) : List Block := t.blocks.filter fun b => b.kind = kind

/-- Bytes of a list of blocks. -/
def blocksSize (bs : List Block) : Nat := (bs.map Block.size).sum

/-- Where byte `o` of a list of blocks lies: the block, the offset within it, and the address. -/
def locate : List Block → Nat → Option (Block × Nat × Int)
  | [], _ => none
  | b :: bs, o => if o < b.size then some (b, o, b.byteAddr o) else locate bs (o - b.size)

/-- A place of one byte: a region's scratchpad, HBM, outside its space, or in a region that does not
answer. -/
inductive Place
  | pad (region addr : Nat)
  | hbm (addr : Nat)
  | outside (line : Int)
  | absent (region : Nat) (unit : Int)
  deriving DecidableEq, Repr

/-- The place of a byte of a block, seen from the Ladle's own region (R46, R261, R270, R274, R279). A region that does not
answer is asked for a line of scratchpad or a stripe of HBM. -/
def State.place (s : State) (own : Nat) (b : Block) (a : Int) : Place :=
  if b.space = 1 then
    if a < 0 || a > 0xBFFFFFFFF then .outside (a / 64)
    else if !s.served 11 then .absent 11 (a / 2048)
    else .hbm a.toNat
  else
    let r := if b.space = 2 then b.region else own
    if b.space = 3 then .outside (a / 64)
    else if b.space = 2 && !s.served r then .absent r (a / 64)
    else if a < 0 || a > 0x17FFFFF then .outside (a / 64) else .pad r a.toNat

/-- The places of `n` bytes of a list of blocks from offset `o`. -/
def State.places (s : State) (own : Nat) (bs : List Block) (o n : Nat) : List Place :=
  (List.range n).filterMap fun i => (locate bs (o + i)).map fun x => s.place own x.1 x.2.2

/-- A scratchpad key. -/
def padKey (r a : Nat) : Nat := r * 2 ^ 25 + a

/-- The byte at a place; zeros where nothing answers (R274, R279). -/
def State.byteAt (s : State) : Place → Byte
  | .pad r a => SMap.read 0 s.mem.pad (padKey r a)
  | .hbm a => SMap.read 0 s.mem.hbm a
  | _ => 0

/-- The state with the byte at a place written; suppressed where nothing answers. -/
def State.setByte (s : State) (p : Place) (b : Byte) : State :=
  match p with
  | .pad r a => { s with mem := { s.mem with pad := SMap.write 0 s.mem.pad (padKey r a) b } }
  | .hbm a => { s with mem := { s.mem with hbm := SMap.write 0 s.mem.hbm a b } }
  | _ => s

/-- The granule of a place: the space (0 scratchpad, 1 HBM) and the granule number, under which its
H-C is kept (R263, R286). -/
def Place.granule : Place → Option (Nat × Nat)
  | .pad r a => some (0, (padKey r a) / 256)
  | .hbm a => some (1, a / 256)
  | _ => none

/-- A list without repeats of neighbours. -/
def dedupRuns {α : Type} [DecidableEq α] : List α → List α
  | [] => []
  | [x] => [x]
  | x :: y :: xs => if x = y then dedupRuns (y :: xs) else x :: dedupRuns (y :: xs)

/-- The 256 bytes of a granule. -/
def State.granuleBytes (s : State) (g : Nat × Nat) : List Byte :=
  if g.1 = 0 then SMap.readList 0 s.mem.pad (g.2 * 256) 256
  else SMap.readList 0 s.mem.hbm (g.2 * 256) 256

/-- The stored H-C of a granule. -/
def State.hallmark (s : State) (g : Nat × Nat) : Word :=
  if g.1 = 0 then SMap.read 0 s.mem.padHall g.2 else SMap.read 0 s.mem.hbmHall g.2

/-- The state with a granule's H-C written. -/
def State.setHallmark (s : State) (g : Nat × Nat) (h : Word) : State :=
  if g.1 = 0 then { s with mem := { s.mem with padHall := SMap.write 0 s.mem.padHall g.2 h } }
  else { s with mem := { s.mem with hbmHall := SMap.write 0 s.mem.hbmHall g.2 h } }

/-- The H-C of 256 bytes (R451). -/
def hc (bs : List Byte) : Word := BitVec.ofNat 32 (crc32c bs)

/-- Whether a granule's H-C checks (R455). -/
def State.hallOk (s : State) (g : Nat × Nat) : Bool := s.hallmark g == hc (s.granuleBytes g)

/-- The state with a fresh H-C of a granule's present bytes. -/
def State.remark (s : State) (g : Nat × Nat) : State := s.setHallmark g (hc (s.granuleBytes g))

/-- The first event counted in LDL.ERR latches its slot (R295). -/
def State.ladleErr (s : State) (r l lo n : Nat) : State :=
  if n = 0 then s
  else
    let s := if s.reg (Reg.LDL_ERR r l) = 0 then
      s.setReg (Reg.LDL_ERRSLOT r l) (BitVec.ofNat 32 s.slot) else s
    s.bump (Reg.LDL_ERR r l) lo 8 n

/-- The SECDED states of the 8-byte words that a list of places touches: corrected and not. -/
def State.eccHits (s : State) (ps : List Place) : List (Nat × Nat) :=
  (dedupRuns (ps.filterMap fun p => match p with
    | .pad r a => some (padKey r a / 8)
    | _ => none)).filterMap fun w =>
      let e := SMap.read 0 s.mem.padEcc w
      if e = 0 then none else some (w, e)

/-- A SECDED error that a read of a scratchpad word met (R32, R262, R296). -/
def State.padEcc (s : State) (w e : Nat) : State :=
  let r := w / 2 ^ 22
  let bank := w % 2 ^ 22 / 65536
  let word := w % 65536
  if e = 255 then
    let s := s.bump (Reg.SPD_ECC r) 16 16 1
    let s := if s.bit (Reg.SPD_ECCLOC r) 31 then s
      else s.setReg (Reg.SPD_ECCLOC r) (BitVec.ofNat 32 (bank + word * 64 + 2 ^ 31))
    s.eccRecord true r 0x08 bank (cellLoc r 0x08 bank word 0xFF) (word * 8) 0
  else
    let s := s.bump (Reg.SPD_ECC r) 0 16 1
    s.eccRecord false r 0x08 bank (cellLoc r 0x08 bank word (e - 1)) (word * 8) 0

/-- New SECDED states of scratchpad words: 1 plus the bit of a single error, 255 for a double one (R262). The manual
does not say which bits a double error turns, so the word's bytes are free values (DESIGN CHOICE 19, safe). -/
def State.markWords (s : State) (es : List (Nat × Nat)) : State :=
  es.foldl (fun s e =>
    let s := { s with mem := { s.mem with padEcc := SMap.write 0 s.mem.padEcc e.1 e.2 } }
    if e.2 = 255 then
      let (bs, s) := s.drawFor true 8
      { s with mem := { s.mem with pad := SMap.writeList 0 s.mem.pad (e.1 * 8) (bs.map (·.setWidth 8)) } }
    else s) s

/-- A Ladle as an engine command names it: the region, the Ladle and the client code (R269). -/
structure Port where
  region : Nat
  ladle : Nat
  client : Nat
  deriving DecidableEq, Repr

/-- The stream that runs on a Ladle for a client in a direction (R269). -/
def State.portStream (s : State) (p : Port) (write : Bool) : Option Stream :=
  (s.ladle p.region p.ladle).active.filter fun t =>
    bitsOf t.w4 16 6 == p.client && bitOf t.w3 9 == write && !t.stopping

/-- The active stream of a Ladle replaced. -/
def State.setActive (s : State) (r l : Nat) (t : Option Stream) : State :=
  s.setLadle r l { s.ladle r l with active := t }

/-- The read stream of a port changed by a function. -/
def State.onStream (s : State) (p : Port) (f : Stream → Stream) : State :=
  match s.portStream p false with
  | some t => s.setActive p.region p.ladle (some (f t))
  | none => s

/-- The write stream of a port changed by a function. -/
def State.onStreamW (s : State) (p : Port) (f : Stream → Stream) : State :=
  match s.portStream p true with
  | some t => s.setActive p.region p.ladle (some (f t))
  | none => s

/-- What a read of a stream gave: the bytes, whether every H-C checked, whether the reader's output is
void and why, whether the stream had too few bytes, and how many granules failed. -/
structure Taken where
  bytes : List Byte := []
  hallOk : Bool := true
  void : Bool := false
  cause : Nat := 0
  short : Bool := false
  bad : Nat := 0
  deriving DecidableEq, Repr

/-- The void of two reads together; the first cause stands. -/
def Taken.join (a b : Taken) : Taken :=
  { bytes := a.bytes ++ b.bytes, hallOk := a.hallOk && b.hallOk, void := a.void || b.void
    cause := if a.void then a.cause else b.cause, short := a.short || b.short
    bad := a.bad + b.bad }

/-- Whether an ARM carries hallmarks unchanged: no conversion and whole granules to aligned
destinations (R276). -/
def Stream.carries (t : Stream) : Bool :=
  !bitOf t.w3 8 && bitsOf t.w4 16 6 == 0x3F &&
    (t.ofKind 0 ++ t.dblocks.filter fun b => b.kind = 0).all fun b =>
      b.addr % 256 == 0 && b.size % 256 == 0 && b.str0 == (2 : Int) ^ b.usz &&
      b.str1 % 256 == 0 && b.str2 % 256 == 0 && b.str3 % 256 == 0 &&
      (b.cnt0 * 2 ^ b.usz) % 256 == 0

/-- The position of a KIND. -/
def Stream.pos (t : Stream) : Nat → Nat
  | 0 => t.posData
  | 1 => t.posExp
  | 2 => t.posScale
  | _ => t.posFlag

/-- The stream moved on by `n` bytes of a KIND. -/
def Stream.advance (t : Stream) (kind n : Nat) : Stream :=
  match kind with
  | 0 => { t with posData := t.posData + n }
  | 1 => { t with posExp := t.posExp + n }
  | 2 => { t with posScale := t.posScale + n }
  | _ => { t with posFlag := t.posFlag + n }

/-- BUF of a stream. -/
def Stream.buf (t : Stream) : Nat := bitsOf t.w4 0 12

/-- The number of accesses of a list of places that lie outside their space (R271, R274). -/
def rangeErrors (ps : List Place) : Nat :=
  (dedupRuns (ps.filterMap fun p => match p with
    | .outside l => some l
    | _ => none)).length

/-- The requests to regions that do not answer (R58): one for each line of scratchpad or stripe of HBM. -/
def absentCount (ps : List Place) : Nat :=
  (dedupRuns (ps.map fun p => match p with
    | .absent r u => some (r, u)
    | _ => none)).foldl (fun n x => if x.isSome then n + 1 else n) 0

/-- Raises one "hallmark mismatch" for each granule that fails (R459), counted in LDL.ERR.HC. -/
def State.hallFaults (s : State) (r l : Nat) (gs : List (Nat × Nat)) : State :=
  gs.foldl (fun s g => (s.ladleErr r l 8 1).blockRaise r 0x04 l 0x0201 (blockLoc r 0x04 l)
    (s.hallmark g).toNat (hc (s.granuleBytes g)).toNat) s

/-- "stream address range" for each access outside its space (R274). -/
def State.rangeFaults (s : State) (r l : Nat) (t : Stream) (n : Nat) : State :=
  let s := s.ladleErr r l 16 n
  (List.range n).foldl (fun s _ =>
    s.raise 0x0308 .detected (blockLoc r 0x04 l) t.w0.toNat (t.planned % 2 ^ 21)) s

/-- What a reader of a constellation map gets for each group, and whether the group is counted as fixed (R359, R360): the
index of the lowest-numbered group of its allocation where `nr` is set, and 0 for a reserved index. -/
def readMap (nr : Bool) (es : List Nat) : List (Nat × Bool) :=
  es.map fun e =>
    let first := if nr && e / 16 != 0xFFF then (es.find? fun x => x / 16 == e / 16).getD e else e
    let used := if first % 16 < 8 then first % 16 else 0
    (e / 16 * 16 + used, used != e % 16)

/-- The bytes at offset `o` of a stream that reads a constellation map, and how many groups among them were fixed. -/
def State.mapBytes (s : State) (r : Nat) (t : Stream) (o : Nat) (bs : List Byte) : List Byte × Nat :=
  let blocks := t.ofKind 0
  let all_ := (s.places r blocks 0 (blocksSize blocks)).map s.byteAt
  let es := readMap (s.bit Reg.RAD_OFDM 0)
    ((List.range (all_.length / 2)).map fun i => leNat ((all_.drop (2 * i)).take 2))
  let fixed := es.flatMap fun e => leBytes 2 e.1
  ((List.range bs.length).map fun i => fixed.getD (o + i) (bs.getD i 0),
    ((List.range es.length).filter fun i => decide (o ≤ 2 * i) && decide (2 * i < o + bs.length) &&
      (es.getD i (0, false)).2).length)

/-- Takes `n` bytes of a KIND from a read stream for its client (R271, R274, R279, R455). The H-C of
each granule is checked where the stream first enters it; a transfer that fails its parity is a mismatch of its granule
(R456). -/
def State.take (s : State) (p : Port) (kind n : Nat) : Taken × State :=
  let r := p.region
  let l := p.ladle
  match s.portStream p false with
  | none => ({ bytes := List.replicate n 0, short := decide (0 < n) }, s)
  | some t =>
      let bs := t.ofKind kind
      let o := t.pos kind
      let ps := s.places r bs o n
      let before := if o = 0 then none else (s.places r bs (o - 1) 1).head?.bind Place.granule
      let gs := (dedupRuns (ps.map Place.granule)).filterMap id
      let gs := if gs.head? = before then gs.drop 1 else gs
      let bad := gs.filter fun g => !s.hallOk g
      let par := if kind = 0 then (t.parity.filter fun q => decide (o ≤ 256 * q) && decide (256 * q < o + n)).filterMap
          fun q => (s.places r bs (256 * q) 1).head?.bind Place.granule else []
      let bad := bad ++ par
      let out := rangeErrors ps
      let abs := absentCount ps
      let ecc := s.eccHits ps
      let unc := ecc.any fun e => e.2 = 255
      let bytes := (List.range ps.length).map fun i =>
        if kind = 0 && t.zeros.any fun z => decide (z.1 ≤ o + i) && decide (o + i < z.1 + z.2) then 0
        else s.byteAt (ps.getD i (.outside 0))
      let (bytes, fixed) := if t.map && kind = 0 then s.mapBytes r t o bytes else (bytes, 0)
      let s := s.bumpIf t.map Reg.RAD_CNT 0 16 fixed
      let short := decide (ps.length < n)
      let s := s.hallFaults r l bad
      let s := s.rangeFaults r l t out
      let s := s.ladleErr r l 24 abs
      let s := s.bump Reg.SPN_ABSCNT 0 32 abs
      let s := ecc.foldl (fun s e => s.padEcc e.1 e.2) s
      let cause := if !bad.isEmpty then 0x0201 else if 0 < out then 0x0308
        else if unc then 0x0102 else if 0 < abs then 0x030A else 0
      let void := cause != 0
      let s := if void then s.voidBuf t.ctx r t.buf cause else s
      let t := t.advance kind n
      let fin := decide (blocksSize (t.ofKind 0) ≤ t.posData)
      let t := { t with
        void := t.void || void, cause := if t.void then t.cause else cause
        finished := t.finished || fin, doneAt := if t.finished then t.doneAt else s.clock.cc }
      let x := s.ladle r l
      let s := s.setLadle r l { x with
        active := some t, bytes := x.bytes + (if kind = 0 then ps.length else 0) }
      ({ bytes := bytes ++ List.replicate (n - ps.length) 0, hallOk := bad.isEmpty
         void := t.void, cause := t.cause, short := short, bad := bad.length }, s)

/-- Bytes of a KIND that a stream has left. -/
def State.left (s : State) (p : Port) (kind : Nat) : Nat :=
  match s.portStream p false with
  | none => 0
  | some t => blocksSize (t.ofKind kind) - t.pos kind

/-- The runs of consecutive bytes that a write makes in one 8-byte word: the word and how many of its bytes. -/
def wordRuns (keys : List Nat) : List (Nat × Nat) :=
  keys.foldr (fun k (x : List (Nat × Nat)) => match x with
    | [] => [(k / 8, 1)]
    | e :: es => if e.1 = k / 8 then (e.1, e.2 + 1) :: es else (k / 8, 1) :: e :: es) []

/-- A write to scratchpad renews the check bits of each word (R262): of all 8 bytes silently; of fewer after the
merge has read the word, which reports and corrects a single error, and reports and keeps an uncorrectable one. -/
def State.renewWords (s : State) (ps : List Place) : State :=
  let keys := ps.filterMap fun p => match p with
    | .pad r a => some (padKey r a)
    | _ => none
  (wordRuns keys).foldl (fun s (x : Nat × Nat) =>
    let e := SMap.read 0 s.mem.padEcc x.1
    let clean (s : State) : State :=
      { s with mem := { s.mem with padEcc := SMap.write 0 s.mem.padEcc x.1 0 } }
    if e = 0 then s
    else if 8 ≤ x.2 then clean s
    else if e = 255 then s.padEcc x.1 255
    else clean (s.padEcc x.1 e)) s

/-- Writes bytes at places; HBM bytes go to the stream's staging instead. -/
def State.putBytes (s : State) : List (Place × Byte) → State
  | [] => s
  | (p, b) :: rest => (s.setByte p b).putBytes rest

/-- Hands `bs` of a KIND to a write stream (R272, R274, R277): scratchpad bytes land, HBM bytes wait
staged for their stripes. Side data beyond its side blocks is not written. A transfer that fails its parity is a
mismatch of its granule (R456). -/
def State.give (s : State) (p : Port) (kind : Nat) (bs : List Byte) : State :=
  let r := p.region
  let l := p.ladle
  match s.portStream p true with
  | none => s
  | some t =>
      let dst := t.ofKind kind
      let o := t.pos kind
      let ps := s.places r dst o bs.length
      let excess := decide (ps.length < bs.length) && kind != 0 && !dst.isEmpty
      let out := rangeErrors ps + (if excess then 1 else 0)
      let par := if kind = 0 then (t.parity.filter fun q => decide (o ≤ 256 * q) &&
          decide (256 * q < o + bs.length)).filterMap fun q => (s.places r dst (256 * q) 1).head?.bind Place.granule
        else []
      let staged := (ps.zip bs).filterMap fun e => match e.1 with
        | .hbm a => some (a, e.2)
        | _ => none
      let s := s.renewWords ps
      let s := s.putBytes ((ps.zip bs).filter fun e => match e.1 with
        | .pad _ _ => true
        | _ => false)
      let s := s.rangeFaults r l t out
      let s := s.bump Reg.SPN_ABSCNT 0 32 (absentCount ps)
      let s := s.hallFaults r l par
      let why := if !par.isEmpty then 0x0201 else if 0 < out then 0x0308 else 0
      let s := if why = 0 then s else s.voidBuf t.ctx r t.buf why
      let t := t.advance kind ps.length
      let t := { t with
        staged := t.staged ++ staged, void := t.void || why != 0, hallOk := t.hallOk && par.isEmpty
        cause := if t.void then t.cause else why }
      let x := s.ladle r l
      s.setLadle r l { x with
        active := some t, bytes := x.bytes + (if kind = 0 then ps.length else 0) }

/-- The granules that a write stream's blocks lie in. -/
def State.streamGranules (s : State) (r : Nat) (bs : List Block) : List (Nat × Nat) :=
  ((dedupRuns ((s.places r bs 0 (blocksSize bs)).map Place.granule)).filterMap id).dedup

/-- Zeroes the bytes of a granule that none of the keys names (R452). -/
def State.fillGranule (s : State) (keys : List Nat) (g : Nat × Nat) : State :=
  if g.1 = 0 then
    (List.range 256).foldl (fun s i =>
      if keys.contains (g.2 * 256 + i) then s
      else { s with mem := { s.mem with pad := SMap.write 0 s.mem.pad (g.2 * 256 + i) 0 } }) s
  else s

/-- The buffer that a Ladle's stream signals, with its region, for a command's outputs. -/
def State.outsOf (s : State) (p : Port) : List (Nat × Nat) :=
  match s.portStream p true with
  | some t => [(p.region, t.buf)]
  | none => []

/-! ## Scale blocks (R132 to R134) -/

/-- A 32-byte scale block. -/
structure ScaleBlock where
  tag : Nat
  base : Nat
  fmt : Nat
  entries : List (Int × Bool × Bool)
  deriving DecidableEq, Repr

/-- The bytes of a scale block (R132). -/
def ScaleBlock.bytes (b : ScaleBlock) : List Byte :=
  leBytes 4 (b.tag % 16 + b.entries.length % 16 * 16 + b.base % 256 * 256 + b.fmt % 16 * 65536) ++
  (b.entries.flatMap fun e => leBytes 2 (wrapBits 12 e.1 + (if e.2.1 then 4096 else 0)
    + (if e.2.2 then 8192 else 0))) ++ List.replicate (28 - 2 * b.entries.length) 0

/-- The scale block that 32 bytes hold. -/
def ScaleBlock.ofBytes (bs : List Byte) : ScaleBlock :=
  let h := leNat (bs.take 4)
  { tag := h % 16, base := h / 256 % 256, fmt := h / 65536 % 16
    entries := (List.range (min 14 (h / 16 % 16))).map fun j =>
      let e := leNat ((bs.drop (4 + 2 * j)).take 2)
      (signBits 12 e, e / 4096 % 2 == 1, e / 8192 % 2 == 1) }

/-- Cuts a list into pieces of `n`, at most `k` of them. -/
def chunks {α : Type} (n : Nat) : Nat → List α → List (List α)
  | 0, _ => []
  | _ + 1, [] => []
  | k + 1, xs => xs.take n :: chunks n k (xs.drop n)

/-- The scale blocks that bytes hold. -/
def scaleBlocks (bs : List Byte) : List ScaleBlock :=
  (chunks 32 (bs.length / 32) bs).map ScaleBlock.ofBytes

/-- What a consumer keeps of the scale blocks it read. -/
def scaleInfo (bs : List ScaleBlock) : ScaleInfo :=
  ⟨bs.map (·.tag), bs.flatMap fun b => b.entries.map (·.1)⟩

/-- The scale stream of channels in ascending order (R132). -/
def makeScale (tag fmt base : Nat) (es : List (Int × Bool × Bool)) : List ScaleBlock :=
  let cs := chunks 14 (es.length / 14 + 1) es
  (List.range cs.length).map fun i =>
    ⟨tag % 16, (base + 14 * i) % 256, fmt, cs.getD i []⟩

/-- Takes the whole scale side stream of a Ladle. -/
def State.takeScale (s : State) (p : Port) : ScaleInfo × Taken × State :=
  let n := s.left p 2
  if n = 0 then (⟨[], []⟩, {}, s)
  else
    let (k, s) := s.take p 2 n
    (scaleInfo (scaleBlocks k.bytes), k, s)

/-- Whether the tags that a consumer read differ from the one it expects (R133, R134). -/
def tagsSkewed (tags : List Nat) (step lag : Nat) : Bool :=
  tags.any fun g => g != (step + 2 ^ 32 - lag) % 16

/-- Raises "scale skew" at cycle `t` (R134, R137); `unit` is the consumer's conversion unit or 0xFF. -/
def State.scaleSkew (s : State) (ctx : Option Nat) (region unit : Nat) (loc : BitVec 64) (t : Nat) : State :=
  s.laters t region [.count Reg.FMT_SKEW (if ctx.isNone then 0 else 16) 16 1,
    .latch Reg.FMT_SKEWLOC 31 [(Reg.FMT_SKEWSLOT, BitVec.ofNat 32 s.slot),
      (Reg.FMT_SKEWLOC, BitVec.ofNat 32 (region + unit * 16 + 2 ^ 31))],
    .record 0x0401 .detected loc 0 0]

/-! ## Channels and conversion units (R123 to R131) -/

/-- The key of a channel of a conversion unit. -/
def chanKey (region unit chan : Nat) : Nat := (region * 256 + unit) * 256 + chan % 256

/-- The zero point of a channel, when it is zero-pointed (R97, R125). -/
def State.zeroPoint (s : State) (k : Nat) : Option Nat :=
  if s.bit (winKey k Reg.FMT_CHZP) 16 then some (s.fld (winKey k Reg.FMT_CHZP) 0 16) else none

/-- W, AUTO and FLOOR of a channel (R125). -/
def State.chanW (s : State) (k : Nat) : Nat := s.fld (winKey k Reg.FMT_CHCFG) 0 3 + 1
def State.chanAuto (s : State) (k : Nat) : Bool := s.bit (winKey k Reg.FMT_CHCFG) 3
def State.chanFloor (s : State) (k : Nat) : Int := s.sfld (winKey k Reg.FMT_CHCFG) 8 12

/-- The state of a channel. -/
def State.chan (s : State) (k : Nat) : Channel := SMap.read {} s.chans k

/-- The state with a channel replaced. -/
def State.setChan (s : State) (k : Nat) (c : Channel) : State :=
  { s with chans := SMap.write {} s.chans k c }

/-- A history with one more entry; the oldest of eight leaves (R126). -/
def Channel.push (c : Channel) (e : Option Int) : Channel := { c with hist := (e :: c.hist).take 8 }

/-- Applies the pushes that have completed by cycle `t` (R126, R130). -/
def State.settleTaps (s : State) (t : Nat) : State :=
  let due := s.taps.filter fun p => decide (p.due ≤ t)
  let s := { s with taps := s.taps.filter fun p => !decide (p.due ≤ t) }
  due.reverse.foldl (fun s p => s.setChan p.chan ((s.chan p.chan).push p.entry)) s

/-- The largest non-empty entry among the W most recent (R127). -/
def Channel.window (c : Channel) (w : Nat) : Option Int :=
  ((c.hist.take w).filterMap id).foldl (fun m e => match m with
    | none => some e
    | some x => some (max x e)) none

/-- The top exponent of a target with its zero point (R127). -/
def topExp (f : Fmt) (zp : Option Nat) : Int :=
  match zp with
  | some z => if f.isInt then (Nat.log2 (2 ^ f.bits - z) : Nat) else f.top
  | none => f.top

/-- The channel as a converting command reads it at its issue (R127, R128). -/
def State.latchChan (s : State) (k : Nat) (f : Fmt) : Channel :=
  let c := s.chan k
  let floor := s.chanFloor k
  if f.isBfp then c
  else if f.isWide || !s.chanAuto k then { c with shift := floor, flr := true, held := false }
  else match c.window (s.chanW k) with
    | none =>
        if c.fresh then { c with shift := floor, flr := true, held := false }
        else { c with held := true, flr := false }
    | some ew =>
        let want := ew - topExp f (if f.isInt then s.zeroPoint k else none)
        if floor > want then { c with shift := floor, flr := true, held := false, fresh := false }
        else { c with shift := want, flr := false, held := false, fresh := false }

/-- The entry that a max tap pushes for the finite values of a channel (R126). -/
def tapEntry (vs : List FVal) : Option Int :=
  let (m, e) := maxMag vs
  if m = 0 then none else some (max (-2048) (min 2047 (ceilLog m e)))

/-- What a conversion gave: element codes, block exponents, flags, and the scale entries of its
channels. -/
structure Converted where
  codes : List Nat
  exps : List Nat
  flags : FlagWord
  deriving DecidableEq, Repr

/-- The channels that a command uses of a range of `count` (R126, R132): those that its elements fall on. -/
def usedChans (count : Nat) (ix : List Nat) : Nat := min count (ix.foldl (fun m i => max m (i + 1)) 0)

/-- Latches the channels of a converting command at cycle `t` and writes them back (R127, R130). -/
def State.openChans (s : State) (region unit base count : Nat) (f : Fmt) (t : Nat) :
    ChanSet × State :=
  let s := s.settleTaps t
  let ks := (List.range count).map fun i => chanKey region unit (base + i)
  let cs := ks.map fun k => (s.latchChan k f, if f.isInt then s.zeroPoint k else none)
  let s := (ks.zip cs).foldl (fun s e => s.setChan e.1 e.2.1) s
  (⟨region, unit, base, count, cs⟩, s)

/-- The channel of position `i` along the channel axis (R124). -/
def ChanSet.get (cs : ChanSet) (i : Nat) : Channel × Option Nat :=
  cs.chans.getD (if cs.count = 0 then 0 else i % cs.count) ({}, none)

/-- The scale entries of the channels (R128, R132). -/
def ChanSet.entries (cs : ChanSet) (f : Fmt) : List (Int × Bool × Bool) :=
  cs.chans.map fun c => if f.isBfp then (0, false, false) else (c.1.shift, c.1.held, c.1.flr)

/-- Converts values in order, with the position of each along the channel axis (R113, R115, R119,
R129); BFP blocks are 16 consecutive elements (R100, R102). -/
def ChanSet.convert (cs : ChanSet) (f : Fmt) (vs : List (Nat × FVal)) : Converted :=
  if f.isBfp then
    let bs := chunks 16 (vs.length / 16 + 1) vs
    let es := bs.map fun b => encodeBfp f.bits false .nearestEven (b.map (·.2))
    ⟨es.flatMap (·.2.1), es.map (·.1), es.foldl (fun fl e => fl ||| e.2.2) 0⟩
  else
    let es := vs.map fun v =>
      let c := cs.get v.1
      f.encode c.2 false .nearestEven c.1.shift v.2
    ⟨es.map (·.1), [], es.foldl (fun fl e => fl ||| e.2) 0⟩

/-- The pushes of the max taps of a command that completes at `due` (R126). -/
def State.closeChans (s : State) (cs : ChanSet) (vs : List (Nat × FVal)) (due : Nat) : State :=
  (List.range cs.count).foldl (fun s i =>
    let mine := (vs.filter fun v => v.1 % cs.count = i).map (·.2)
    { s with taps := ⟨due, chanKey cs.region cs.unit (cs.base + i), tapEntry mine⟩ :: s.taps }) s

/-- A Ladle's conversion stage after more values, each with its position along the channel axis (R126). -/
def Stage.meet (g : Stage) (vs : List (Nat × FVal)) (flags : FlagWord) : Stage :=
  let n := g.set.count
  { g with
    used := max g.used (usedChans n (vs.map (·.1))), flags := g.flags ||| flags
    mags := (List.range n).map fun i =>
      let (m, e) := maxMag (g.mags.getD i .zero :: (vs.filter fun v => v.1 % n = i).map (·.2))
      .fin false m e }

/-- The scale entries of the channels that a stage has used (R132). -/
def Stage.entries (g : Stage) (f : Fmt) : List (Int × Bool × Bool) := (g.set.entries f).take g.used

/-- The pushes of a stage's max taps at the completion of its stream (R126, R275). -/
def State.closeStage (s : State) (g : Stage) (due : Nat) : State :=
  (List.range g.used).foldl (fun s i =>
    { s with taps := ⟨due, chanKey g.set.region g.set.unit (g.set.base + i),
      tapEntry [g.mags.getD i .zero]⟩ :: s.taps }) s

/-- Counts the flag words that a command of a region writes at its completion (R120, R137). -/
def State.countFlags (s : State) (region due : Nat) (fs : List FlagWord) : State :=
  s.laters due region
    [.count Reg.FMT_FLAGCNT 0 16 (fs.filter fun f => hasFlag f Flag.ovf).length,
     .count Reg.FMT_FLAGCNT 16 16 (fs.filter fun f => hasFlag f Flag.inv).length]

/-- The bytes of a list of flag words. -/
def flagBytes (fs : List FlagWord) : List Byte := fs.flatMap fun f => leBytes 2 f.toNat

/-- "Shadow mismatch" of a conversion or transform (R461) at a position, at cycle `t`. -/
def State.shadowFault (s : State) (r cls idx : Nat) (p : Option Nat) (t : Nat) : State :=
  match p with
  | some q => s.later t r (.report cls idx 0x0206 (blockLoc r cls idx) (q % 64) (t % 2 ^ 21))
  | none => s

/-- Whether an error that a command met was uncorrectable, and the bit of one that was not (R53). -/
def eccBad (e : Nat × Nat) : Bool := e.2 == 255
def eccBit (e : Nat × Nat) : Nat := if e.2 = 255 then 0xFF else e.2 - 1

/-- The SECDED errors that an engine's reads of a memory of its own met, in cycle `t` (R32, R51, R53): whether one was
uncorrectable, and the reports, each at the word that it names. -/
def State.eccCells (s : State) (c : Cmd) (cls idx t : Nat) : Bool × State :=
  (c.ecc.any eccBad, c.ecc.foldl (fun s e =>
    s.eccLater (eccBad e) c.region cls idx (cellLoc c.region cls idx e.1 (eccBit e)) e.1 t) s)

/-- The SECDED errors that the reads of a block without cells met, in cycle `t`. -/
def State.eccReads (s : State) (c : Cmd) (cls idx t : Nat) : Bool × State :=
  (c.ecc.any eccBad, c.ecc.foldl (fun s e =>
    s.eccLater (eccBad e) c.region cls idx (blockLoc c.region cls idx) e.1 t) s)

/-! ## Elements through a Ladle -/

/-- Elements that a client took: their values in the client's format, their block exponents, the scale
information beside them, the state of the read, their codes and the scale blocks of the stage. -/
structure Elems where
  fmt : Fmt
  vals : List FVal
  exps : List Nat
  scale : ScaleInfo
  taken : Taken
  codes : List Nat := []
  blocks : List ScaleBlock := []
  deriving DecidableEq, Repr

/-- Where element `i` of a data stream stands: the block before it, its unit and its byte within the unit. -/
def elemAt (bs : List Block) (bits i : Nat) : Option (Block × Nat × Nat) :=
  (locate bs (i * bits / 8)).map fun x => (x.1, x.2.1 / 2 ^ x.1.usz, x.2.1 % 2 ^ x.1.usz)

/-- Position of element `i` within its run of dimension 0. -/
def runIndex (bs : List Block) (bits i : Nat) : Nat :=
  match elemAt bs bits i with
  | none => 0
  | some (b, u, o) => (b.index u 0 * 2 ^ b.usz + o) * 8 / bits + (if bits = 4 then i % 2 else 0)

/-- Position of element `i` of a data stream along a channel axis (R268): along dimension 0 it is the
element position within the run; the two parts of a complex element share it (R103, R124). -/
def axisIndex (bs : List Block) (bits axis : Nat) (cplx : Bool) (i : Nat) : Nat :=
  if axis = 0 then runIndex bs bits i / (if cplx then 2 else 1)
  else match elemAt bs bits i with
    | none => 0
    | some (b, u, _) => b.index u axis

/-- Runs of dimension 0 of a block, and the 16-element blocks of each (R100): its last one may be short. -/
def Block.runs (b : Block) : Nat := b.cnt1 * b.cnt2 * b.cnt3
def Block.runBlocks (b : Block) (bits : Nat) : Nat := (b.cnt0 * 2 ^ b.usz * 8 / bits + 15) / 16

/-- The number, in block order, of the floating point block of element `i` of a stream (R100, R102). -/
def bfpIndex : List Block → Nat → Nat → Nat
  | [], _, i => i / 16
  | b :: bs, bits, i =>
      let n := b.size * 8 / bits
      if i < n then
        let len := max 1 (b.cnt0 * 2 ^ b.usz * 8 / bits)
        i / len * b.runBlocks bits + i % len / 16
      else b.runs * b.runBlocks bits + bfpIndex bs bits (i - n)

/-- Cuts a list at each change of its keys. -/
def cutByKey {α : Type} (ks : List Nat) (xs : List α) : List (List α) :=
  ((ks.zip xs).foldr (fun e (a : List (Nat × List α)) => match a with
    | (k, ys) :: rest => if k = e.1 then (k, e.2 :: ys) :: rest else (e.1, [e.2]) :: a
    | [] => [(e.1, [e.2])]) []).map (·.2)

/-- Values that a conversion stage converts in memory order, each with its position along the channel axis and the
number of its floating point block (R102, R113, R129). -/
def ChanSet.convertRuns (cs : ChanSet) (f : Fmt) (blk : List Nat) (vs : List (Nat × FVal)) : Converted :=
  if f.isBfp then
    let es := (cutByKey blk vs).map fun b => encodeBfp f.bits false .nearestEven (b.map (·.2))
    ⟨es.flatMap (·.2.1), es.map (·.1), es.foldl (fun fl e => fl ||| e.2.2) 0⟩
  else cs.convert f vs

/-- The shift of the operand that a scale entry list gives to position `i` (R131, R132). -/
def scaleShift (shifts : List Int) (i : Nat) : Int := if shifts.isEmpty then 0 else shifts.getD (i % shifts.length) 0

/-- The stage of a stream: as the ARM latched it at its issue. -/
def Stream.stageOf (t : Stream) (r l : Nat) : Stage :=
  t.stage.getD { set := ⟨r, 6 + l, bitsOf t.w3 13 8, bitsOf t.w3 21 8 + 1, []⟩ }

/-- A shadow mismatch of a Ladle's conversion stage (R461): its stream's buffer is void. -/
def State.spoil (s : State) (r l : Nat) (p : Option Nat) : State :=
  if p.isNone then s
  else
    let s := s.shadowFault r 0x04 l p s.clock.cc
    match (s.ladle r l).active with
    | none => s
    | some t =>
        let s := s.voidBuf t.ctx r t.buf 0x0206
        s.setLadle r l { s.ladle r l with
          active := some { t with
            void := true, hallOk := false, cause := if t.void then t.cause else 0x0206, shadow := none } }

/-- The check of a stage's input scale tags against the ARM's LAG (R133, R134, R275). -/
def State.stageTags (s : State) (r l : Nat) (tags : List Nat) : State :=
  match (s.ladle r l).active with
  | none => s
  | some t =>
      if tagsSkewed tags (s.stepNumber t.ctx) (bitsOf t.w2 28 4) then
        let s := (s.scaleSkew t.ctx r (6 + l) (blockLoc r 0x04 l) s.clock.cc).voidBuf t.ctx r t.buf 0x0401
        let g := t.stageOf r l
        s.setActive r l (some { t with
          void := true, cause := if t.void then t.cause else 0x0401
          stage := some { g with flags := g.flags ||| Flag.skew, skew := true } })
      else s

/-- Takes `n` elements of the format `f` that the client names, with `ne` exponent bytes when they are
block floating point (R141, R144, R225, R275). Without CONV the codes are the memory's. With CONV the
stage converts from MFMT under its channels, with the input shifts of the scale side
stream, and the client gets the stage's own scale entries. `zp` is the zero point of element `i`. -/
def State.takeElems (s : State) (p : Port) (n ne : Nat) (f : Fmt) (zp : Nat → Option Nat) :
    Elems × State :=
  let r := p.region
  let l := p.ladle
  match s.portStream p false with
  | none => (⟨f, List.replicate n .zero, [], ⟨[], []⟩, { short := decide (0 < n) }, [], []⟩, s)
  | some t =>
      let conv := bitOf t.w3 8
      let m := if conv then Fmt.get (bitsOf t.w3 0 4) else f
      let start := t.posData * 8 / m.bits
      let bs := t.ofKind 0
      let (k, s) := s.take p 0 (packedBytes m.bits n)
      let (si, ks, s) := s.takeScale p
      let first := bfpIndex bs m.bits start
      let last := bfpIndex bs m.bits (start + n - 1)
      let (es, ke, s) := if m.isBfp then
          let s := if conv then s.onStream p fun t => { t with posExp := first } else s
          let (e, s) := s.take p 1 (if conv then last + 1 - first else ne)
          (e.bytes.map (·.toNat), e, s)
        else ([], {}, s)
      let codes := unpackCodes m.bits n k.bytes
      let j := { ((k.join ks).join ke) with bytes := [] }
      if conv then
        let s := s.stageTags r l si.tags
        let cplx := bitOf t.w3 10
        let is := (List.range n).map (start + ·)
        let ix := is.map fun i => axisIndex bs m.bits (bitsOf t.w3 11 2) cplx i
        let bx := is.map fun i => bfpIndex bs m.bits i
        let g := ((s.portStream p false).getD t).stageOf r l
        let vs := ((ix.zip bx).zip codes).map fun e =>
          let sh := if m.isBfp then (es.getD (e.1.2 - first) 0 : Int) - 127 else scaleShift si.shifts e.1.1
          (e.1.1, (m.decode none e.2).scale sh)
        let c := g.set.convertRuns f bx vs
        let g := g.meet vs c.flags
        let s := s.onStream p fun t => { t with stage := some g }
        let s := s.spoil r l t.shadow
        let bad := g.skew || t.shadow.isSome
        let out := (List.range n).map fun i => f.decode (zp i) (c.codes.getD i 0)
        let j := { j with void := j.void || bad
                          cause := if j.void then j.cause else if g.skew then 0x0401 else if bad then 0x0206 else 0 }
        let step := s.stepNumber t.ctx
        (⟨f, out, c.exps, ⟨[step % 16], (g.entries f).map (·.1)⟩, j, c.codes,
          makeScale step f.code (bitsOf t.w3 13 8) (g.entries f)⟩, s)
      else
        let out := (List.range n).map fun i => f.decode (zp i) (codes.getD i 0)
        (⟨f, out, es, si, j, codes, []⟩, s)

/-- Values that a client hands to a write stream's conversion stage, `bits` wide codes in memory, with each one's value
before the stage's shift (R131, R275). -/
def State.giveStaged (s : State) (p : Port) (vals : List (Nat → FVal)) : State :=
  let r := p.region
  let l := p.ladle
  match s.portStream p true with
  | none => s
  | some t =>
      let m := Fmt.get (bitsOf t.w3 0 4)
      let bs := t.ofKind 0
      let start := t.posData * 8 / m.bits
      let is := (List.range vals.length).map (start + ·)
      let ix := is.map fun i => axisIndex bs m.bits (bitsOf t.w3 11 2) (bitOf t.w3 10) i
      let vs := (ix.zip vals).map fun e => (e.1, e.2 e.1)
      let g := t.stageOf r l
      let c := g.set.convertRuns m (is.map fun i => bfpIndex bs m.bits i) vs
      let s := s.setActive r l (some { t with stage := some (g.meet vs c.flags) })
      let s := s.give p 0 (packCodes m.bits c.codes)
      let s := if m.isBfp then s.give p 1 (c.exps.map fun e => BitVec.ofNat 8 e) else s
      s.spoil r l t.shadow

/-- Hands element codes of format `f` to a write stream, with the index of each one's block exponent, the exponents and
the client's own scale blocks (R100, R132, R275). Without CONV they go to memory as they are. With CONV
the stage checks the tags, adds the client's shifts and converts to MFMT. -/
def State.giveElems (s : State) (p : Port) (f : Fmt) (codes : List Nat) (exps : List Nat) (exOf : Nat → Nat)
    (scale : List ScaleBlock) : State :=
  match s.portStream p true with
  | none => s
  | some t =>
      if bitOf t.w3 8 then
        let info := scaleInfo scale
        let s := s.stageTags p.region p.ladle info.tags
        s.giveStaged p (codes.zipIdx.map fun e => fun x =>
          (f.decode none e.1).scale
            (if f.isBfp then (exps.getD (exOf e.2) 0 : Int) - 127 else scaleShift info.shifts x))
      else
        let s := s.give p 0 (packCodes f.bits codes)
        let s := if f.isBfp then s.give p 1 (exps.map fun e => BitVec.ofNat 8 e) else s
        s.give p 2 (scale.flatMap ScaleBlock.bytes)

/-- The flag words of a command's output, written at its completion (R120, R159): with what the stream's conversion stage
owes them. -/
def State.giveFlags (s : State) (p : Port) (due : Nat) (flags : List FlagWord) : State :=
  let owed := match s.portStream p true with
    | some t => match t.stage with
        | some g => g.flags
        | none => 0
    | none => 0
  let fs := flags.map fun f => f ||| owed
  let s := s.onStreamW p fun t => { t with stage := t.stage.map fun g => { g with flags := if g.skew then Flag.skew else 0 } }
  let s := s.countFlags p.region due fs
  s.give p 3 (flagBytes fs)

/-- A conversion stage emits its scale stream when its stream's last element has been converted (R132, R275). -/
def State.stageScale (s : State) (p : Port) : State :=
  match s.portStream p true with
  | none => s
  | some t =>
      match t.stage with
      | some g =>
          if bitOf t.w3 8 && !t.finished && decide (blocksSize (t.ofKind 0) ≤ t.posData) then
            let m := Fmt.get (bitsOf t.w3 0 4)
            s.give p 2 ((makeScale (s.stepNumber t.ctx) m.code (bitsOf t.w3 13 8) (g.entries m)).flatMap
              ScaleBlock.bytes)
          else s
      | none => s

/-- The end of a client's writing to a stream at cycle `t`: when its last data byte has been handed
over the stream has finished, and with MKH its granules take fresh hallmarks when every input granule's check and the
producer's own check passed, whatever else made the output void (R276, R452, R457). A void output is entered for BUF. -/
def State.endWrite (s : State) (p : Port) (at_ : Nat) (ok void : Bool) (cause : Nat) : State :=
  let s := s.stageScale p
  let r := p.region
  let l := p.ladle
  match s.portStream p true with
  | none => s
  | some t =>
      let s := if void then s.voidBuf t.ctx r t.buf cause else s
      let remote := t.blocks.filter fun b => b.space = 2
      let s := if void && t.ctx.isNone then
        (remote.map (·.region)).dedup.foldl (fun s d => s.voidEntry 0 d t.buf cause) s else s
      let t := { t with void := t.void || void, cause := if t.void then t.cause else cause
                        hallOk := t.hallOk && ok }
      let fin := decide (blocksSize (t.ofKind 0) ≤ t.posData)
      let t := { t with finished := t.finished || fin, doneAt := at_ + 2 }
      let s := s.setLadle r l { s.ladle r l with active := some t }
      if fin && bitOf t.w3 31 && t.hallOk then
        let keys := (s.places r t.blocks 0 0) ++
          (t.blocks.flatMap fun b => s.places r [b] 0 b.size)
        let ks := keys.filterMap fun p => match p with
          | .pad q a => some (padKey q a)
          | _ => none
        let gs := (t.blocks.flatMap fun b => s.streamGranules r [b]).dedup.filter fun g => g.1 = 0
        gs.foldl (fun s g => (s.fillGranule ks g).remark g) s
      else s

/-! ## Leave (R514, R517) -/

/-- A leave table entry's fields (R515). -/
def leaveStart (e : BitVec 64) : Nat := e.toNat % 2 ^ 21
def leaveEnd (e : BitVec 64) : Nat := e.toNat / 2 ^ 21 % 2 ^ 21
def leaveAmount (e : BitVec 64) : Nat := e.toNat / 2 ^ 42 % 2 ^ 12
def leaveDomain (e : BitVec 64) : Nat := e.toNat / 2 ^ 54 % 2 ^ 5
def leaveEB (e : BitVec 64) : Bool := e.getLsbD 59

/-- A region's elastic budget at a cycle (R517). An entry that fails parity is open (R516). -/
def State.budget (s : State) (r t : Nat) : Nat :=
  ((s.curPlan.leave.filter fun e => leaveEB e && (domainsOf r).contains (leaveDomain e) &&
    (oddOnes 64 e.toNat || (decide (leaveStart e ≤ t) && decide (t < leaveEnd e)))).map
      leaveAmount).sum

/-- The grants of a region that are still held at a cycle. -/
def State.heldGrants (s : State) (r t : Nat) : List Grant :=
  (SMap.read [] s.els.grants r).filter fun g => match g.finish with
    | some f => decide (t < f)
    | none => true

/-- The state with a region's grants replaced. -/
def State.setGrants (s : State) (r : Nat) (gs : List Grant) : State :=
  { s with els := { s.els with grants := SMap.write [] s.els.grants r gs } }

/-- The state with a region's waiting requests replaced. -/
def State.setWaits (s : State) (r : Nat) (ws : List LeaveReq) : State :=
  { s with els := { s.els with waits := SMap.write [] s.els.waits r ws } }

/-- Whether the governors grant nothing new (R519). -/
def State.hot (s : State) : Bool := s.bit Reg.PWR_TEMP 16

/-- The leave of a heavy command (R514, R517): `true` when it may issue. Only an elastic command under
EXACT = 0 asks; one that does not fit waits and blocks its context. -/
def State.takeLeave (s : State) (c : Cmd) (engine leave : Nat) : Bool × State :=
  if !c.elastic || s.exact || !s.engineLive c.region then (true, s)
  else
    let t := max s.clock.cc c.issue
    let gs := s.heldGrants c.region t
    if gs.any fun g => g.ctx = c.ctx && g.finish.isNone then (true, s)
    else
      let amount := leaveAmount (s.plan.amounts.getD (leave - 1) 0)
      let ws := SMap.read [] s.els.waits c.region
      let used := (gs.map (·.amount)).sum
      if ws.isEmpty && !s.hot && decide (used + amount ≤ s.budget c.region t) then
        (true, s.setGrants c.region (gs ++ [⟨c.ctx, amount, none⟩]))
      else if ws.any fun w => w.ctx = c.ctx then (false, s)
      else
        let s := s.setWaits c.region (ws ++ [⟨c.ctx, engine, amount, t⟩])
        (false, s.onCtx c.ctx fun x =>
          { x with state := .blocked, cause := .leave, blockedSince := t })

/-- The grant of a command that has issued is released at its completion (R517). -/
def State.useLeave (s : State) (c : Cmd) (finish : Nat) : State :=
  if !c.elastic || s.exact then s
  else s.setGrants c.region ((s.heldGrants c.region s.clock.cc).map fun g =>
    if g.ctx = c.ctx && g.finish.isNone then { g with finish := some finish } else g)

/-- The wait of a command whose data has not come or is not accepted (R203, R247). -/
def State.waitBreach (s : State) (i : Issue) (c : Cmd) (loc : BitVec 64) (cycles : Nat) : State :=
  if cycles = 0 then s else s.breach i.ctx loc c.w.w0 c.issue cycles

/-- Freezes of an engine: stretches of cycles in their order, each its first cycle and its length. -/
abbrev Freezes : Type := List (Nat × Nat)

/-- The freezes that delays make from a cycle on: each with the cycles after it at which it begins. -/
def delayFreezes (t : Nat) (ds : List (Nat × Nat)) : Freezes :=
  (ds.foldl (fun (x : Nat × Freezes) d =>
    if d.2 = 0 then x else (x.1 + d.2, x.2 ++ [(t + d.1 + x.1, d.2)])) (0, [])).2

/-- The cycle of an event that freezes move: those that begin by then hold it up (R170). -/
def delayed (fs : Freezes) (t : Nat) : Nat := fs.foldl (fun x f => if f.1 ≤ x then x + f.2 else x) t

/-- The cycle after an event, as freezes move it. -/
def delayedEnd (fs : Freezes) (t : Nat) : Nat := if t = 0 then 0 else delayed fs (t - 1) + 1

/-- Freeze cycles. -/
def frozenCycles (fs : Freezes) : Nat := (fs.map (·.2)).sum

/-- The breaches of a command's freezes: one for each cycle (R171). -/
def State.freezeBreaches (s : State) (i : Issue) (c : Cmd) (loc : BitVec 64) (fs : Freezes) : State :=
  (fs.foldl (fun (x : Nat × State) f =>
    (x.1 + f.2, x.2.breachRun i.ctx loc c.w.w0 c.issue f.1 x.1 f.2)) (0, s)).2

/-- Whether freezes void an output: on the data plane and under EXACT (R171). -/
def State.freezeVoids (s : State) (i : Issue) (cycles : Nat) : Bool :=
  decide (0 < cycles) && (i.ctx.isNone || s.exact)

/-- The line of a place: the unit of a main-path access (R267). -/
def Place.line : Place → Nat × Int
  | .pad r a => (r, a / 64)
  | .hbm a => (16, a / 64)
  | .outside l => (17, l)
  | .absent r u => (32 + r, u)

/-- Where the accesses that read a list of bytes end, in order: consecutive bytes of one line share an access
(R271). -/
def accessEnds (ps : List Place) : List Nat :=
  (ps.foldr (fun p (x : List Nat × Option (Nat × Int) × Nat) =>
    let l := some p.line
    (if x.2.1 = l then x.1 else x.2.2 :: x.1, l, x.2.2 - 1)) ([], none, ps.length)).1

/-- Where the accesses of a read stream's data end, for a stream whose data lie in local scratchpad. -/
def State.streamAccesses (s : State) (r : Nat) (t : Stream) (n : Nat) : List Nat :=
  let bs := t.ofKind 0
  if bs.any fun b => b.space != 0 then [] else accessEnds (s.places r bs 0 n)

/-- Whether a stream may run ahead of its client (R283). -/
def Stream.pre (t : Stream) : Bool := bitOf t.w3 29

/-- The accesses of a read stream, as they issue: where those to come end, what had been taken before, the first cycle of the next one, the
cycle and the end of the last one, when the client took the data of the last four (0: not yet), and when it took
each row, newest first, with the row's end; and the client's waits. -/
structure Feeding where
  rest : List Nat := []
  base : Nat := 0
  next : Nat := 0
  last : Nat := 0
  end_ : Nat := 0
  taken : List Nat := []
  rows : List (Nat × Nat) := []
  wait : Nat := 0
  freezes : Freezes := []

/-- Accesses issue until the data up to `upto` have been read (R277, R283): one each cycle; with PRE none runs
more than 16 KiB ahead of the client, without it none more than four accesses. -/
def Feeding.issueTo (pre : Bool) (upto : Nat) : List Nat → Feeding → Feeding
  | [], x => { x with rest := [] }
  | e :: es, x =>
      if upto ≤ x.end_ then { x with rest := e :: es }
      else
        let limit := if pre then
            ((x.rows.takeWhile fun r => decide (e < r.1 + 16384)).getLast?.map (·.2)).getD 0
          else x.taken.getD 3 0
        let c := max x.next (if pre && decide (e ≤ x.base + 16384) then 0 else limit)
        Feeding.issueTo pre upto es
          { x with next := c + 1, last := c, end_ := e, taken := (0 :: x.taken).take 4 }

/-- The freezes of an engine that takes its data from a stream in `m` parts (R170): part `j` at cycle `due j`, with
`size j` bytes in all up to its end. It waits for a part that is not there, and to the slot tick for one that
never comes. Where the stream's blocks lie in local scratchpad, R275, R277 and R283 give the cycle in which each
part is there; `late j` is how late part `j` comes from HBM or another region. -/
def State.feeds (s : State) (p : Port) (m : Nat) (size due late : Nat → Nat) : Freezes :=
  let t := (s.portStream p false).getD {}
  let avail := s.left p 0
  let conv (b : Nat) : Nat :=
    if bitOf t.w3 8 then b * 8 / (Fmt.get (bitsOf t.w3 0 4)).bits * (Fmt.get (bitsOf t.w3 4 4)).bits / 512 else 0
  let total := if m = 0 then 0 else size (m - 1)
  let ends := (s.streamAccesses p.region t (t.posData + min avail total)).filter fun e => decide (t.posData < e)
  let part (x : Feeding) (j : Nat) : Feeding :=
    let upto := t.posData + size j
    let x := x.issueTo t.pre upto x.rest
    let at_ := due j + x.wait
    let ready := if size j = 0 then 0 else if avail < size j then s.slotLen
      else if ends.isEmpty then 0 else max (x.last + 4) (t.start + 8 + conv (upto - 1))
    let ready := if late j = 0 then ready else max ready (at_ + late j)
    let w := ready - at_
    { x with
      wait := x.wait + w, rows := (upto, at_ + w) :: x.rows
      taken := x.taken.map fun a => if a = 0 then at_ + w else a
      freezes := if w = 0 then x.freezes else (at_, w) :: x.freezes }
  ((List.range m).foldl part { rest := ends, base := t.posData, next := t.start + 4 }).freezes.reverse

/-- The freezes of an engine that takes 64 bytes each cycle from a cycle on, `total` bytes in all. -/
def State.feedsBytes (s : State) (p : Port) (total start : Nat) (late : Nat → Nat) : Freezes :=
  s.feeds p ((total + 63) / 64) (fun j => min total (64 * (j + 1))) (fun j => start + j) late

/-- The freezes of an engine that takes `m` rows of `nel` elements of a format, row `j` from cycle `due j` on, 64
bytes each cycle. -/
def State.feedsElems (s : State) (p : Port) (f : Fmt) (m nel : Nat) (due late : Nat → Nat) : Freezes :=
  let bits := match s.portStream p false with
    | some t => if bitOf t.w3 8 then (Fmt.get (bitsOf t.w3 0 4)).bits else f.bits
    | none => f.bits
  let row := nel * bits
  let beats := max 1 ((row + 511) / 512)
  s.feeds p (m * beats) (fun q => (q / beats * row + min row (512 * (q % beats + 1)) + 7) / 8)
    (fun q => due (q / beats) + q % beats) late

/-- The client of a read stream takes its last data at a cycle, as freezes move it, and where a part never comes
one `gap` before that part: a stream that has given all it has completes then (R277). -/
def State.takenBy (s : State) (p : Port) (fs : Freezes) (cycle : Nat) (gap : Nat := 1) : State :=
  match s.portStream p false with
  | none => s
  | some t =>
      let last := match fs.find? fun f => decide (s.slotLen ≤ f.1 + f.2) with
        | some f => f.1 - gap
        | none => delayed fs cycle
      if t.finished then s.setActive p.region p.ladle (some { t with doneAt := max t.doneAt last }) else s

end Sys2Proof.Machine
end

