-- ==== Sys2Proof/Machine/Array.lean ====
section
/-! DEFINITION. The arrays of the Anvils (R104 to R110, R139 to R172): accumulator entries, products, the check column,
the rows on their way through an array, freezes, and a DRAIN as it runs. -/

namespace Sys2Proof.Machine

open Sys2Proof

/-! ## Accumulator entries (R104 to R110) -/

/-- An exact entry as R107 and R108 read it. -/
inductive EntryVal
  | fin (v : Int)
  | sat (neg : Bool)
  | inf (neg : Bool)
  | nan
  deriving DecidableEq, Repr

/-- Reads an exact entry (R107). A value of 2^104 or more in magnitude, which R108 leaves in range as it is written, has
bits [127:105] that are no copies of bit 104, and is read as R107's last sentence says: saturated (DEDUCED, log entry
106). -/
def readExact (e : BitVec 128) : EntryVal :=
  let v := e.toNat
  let hi := v / 2 ^ 104
  if v / 8 = 0x80 * 2 ^ 117 then
    match v % 8 with
    | 0 => .sat false
    | 1 => .sat true
    | 2 => .inf false
    | 3 => .inf true
    | _ => .nan
  else if hi = 0 || hi = 2 ^ 24 - 1 then .fin e.toInt
  else .sat (e.getLsbD 127)

/-- Writes an exact entry (R107). -/
def writeExact : EntryVal → BitVec 128
  | .fin v => BitVec.ofInt 128 v
  | .sat n => BitVec.ofNat 128 (0x80 * 2 ^ 120 + (if n then 1 else 0))
  | .inf n => BitVec.ofNat 128 (0x80 * 2 ^ 120 + (if n then 3 else 2))
  | .nan => BitVec.ofNat 128 (0x80 * 2 ^ 120 + 4)

/-- Two entry values together; specials combine in the order NaN, infinity, saturation (R108). -/
def EntryVal.add : EntryVal → EntryVal → EntryVal × FlagWord
  | .nan, _ => (.nan, 0)
  | _, .nan => (.nan, 0)
  | .inf a, .inf b => if a == b then (.inf a, 0) else (.nan, Flag.inv)
  | .inf a, _ => (.inf a, 0)
  | _, .inf b => (.inf b, 0)
  | .sat a, _ => (.sat a, 0)
  | _, .sat b => (.sat b, 0)
  | .fin a, .fin b => (.fin (a + b), 0)

/-- The range of R108, judged on the value that a streaming row writes. -/
def EntryVal.judge : EntryVal → EntryVal × FlagWord
  | .fin v => if v.natAbs ≥ 2 ^ 105 then (.sat (decide (v < 0)), Flag.ovf) else (.fin v, 0)
  | e => (e, 0)

/-- Anchor and value of a block entry (R107). -/
def readBlock (e : BitVec 128) : Nat × Int :=
  (e.toNat / 2 ^ 119, signBits 119 e.toNat)

/-- A block entry (R107). -/
def writeBlock (a : Nat) (v : Int) : BitVec 128 := BitVec.ofNat 128 (a * 2 ^ 119 + wrapBits 119 v)

/-- The magnitude that marks a saturated block entry (R107). -/
def blockSat : Int := 2 ^ 118 - 1

/-- Saturates a block value that would reach the bound (R106). -/
def blockJudge (a : Nat) (v : Int) (f : FlagWord) : Nat × Int × FlagWord :=
  if v ≥ blockSat then (a, blockSat, f ||| Flag.ovf)
  else if v ≤ -blockSat then (a, -blockSat, f ||| Flag.ovf)
  else (a, v, f)

/-- One block pair into a block entry (R106): its exponent sum and its sum of products. -/
def blockStep (x : Nat × Int × FlagWord) (p : Nat × Int) : Nat × Int × FlagWord :=
  let (a, v, f) := x
  if v.natAbs = blockSat.natAbs then x
  else if v = 0 then blockJudge p.1 p.2 f
  else
    let d : Int := (p.1 : Int) - a
    if d.natAbs > 64 then (a, if v < 0 then -blockSat else blockSat, f ||| Flag.ovf ||| Flag.span)
    else if d < 0 then
      let v' := v * 2 ^ d.natAbs
      let (a', v'', f') := blockJudge p.1 v' f
      if v''.natAbs = blockSat.natAbs then (a', v'', f') else blockJudge p.1 (v' + p.2) f
    else blockJudge a (v + p.2 * 2 ^ d.toNat) f

/-- The code of a binary64 value. -/
def fp64Code (v : FVal) : Nat := (binary64.encodeStrict .nearestEven v).1

/-- The flags of a binary64 addition: Invalid, and Overflow when finite terms give an infinity. -/
def addFp64Flags (a b : FVal) : FVal × FlagWord :=
  let (s, f) := addFp64 a b
  (s, (f &&& Flag.inv) ||| flagIf (s.isInf && !a.isInf && !b.isInf) Flag.ovf)

/-! ## Products (R139, R143, R162) -/

/-- The class of a pair of formats (R143). -/
def classOf (a b : Fmt) : AccClass :=
  if a.isWide || b.isWide then .wide else if a.isBfp || b.isBfp then .block else .exact

/-- The integer of a finite value in units of 2^w. -/
def unitsOf (w : Int) : FVal → Int
  | .fin n m e => alignTo n m e w
  | _ => 0

/-- An exact sum in progress: the sum, the special it has become, and whether it raised Invalid. -/
def exactStep (w : Int) (acc : EntryVal × FlagWord) (p : FVal × FVal) : EntryVal × FlagWord :=
  let (x, b) := p
  let term : EntryVal :=
    if x.isNan || b.isNan || zeroTimesInf x b then .nan
    else if x.isInf || b.isInf then .inf (x.isNeg != b.isNeg)
    else .fin (unitsOf w (x.mul b).1)
  let (v, f) := acc.1.add term
  (v, acc.2 ||| f ||| flagIf (zeroTimesInf x b) Flag.inv)

/-- The contribution of an exact-class column (R104, R108). -/
def exactContrib (w : Int) (ps : List (FVal × FVal)) : Contrib × FlagWord :=
  let (v, f) := ps.foldl (exactStep w) (.fin 0, 0)
  match v with
  | .fin s => (.exact s 0, f)
  | .inf false => (.exact 0 1, f)
  | .inf true => (.exact 0 2, f)
  | _ => (.exact 0 3, f)

/-- The contribution of a block-class column (R106): the exponent sum and the sum of products of each block pair that
it takes, in order. -/
def blockContrib (gs : List (List (Nat × FVal × FVal))) : Contrib × FlagWord :=
  (.block (gs.filterMap fun g => g.head?.map fun h =>
    (h.1, (g.map fun p => unitsOf 0 p.2.1 * unitsOf 0 p.2.2).sum)), 0)

/-- The block sum of a wide-class column (R109), and the flags of its operations. -/
def wideContrib (ps : List (FVal × FVal)) : Contrib × FlagWord :=
  let prod (p : FVal × FVal) : FVal × FlagWord :=
    (toFp64 (p.1.mul p.2).1, flagIf (zeroTimesInf p.1 p.2) Flag.inv)
  match ps with
  | [] => (.wide 0, 0)
  | p :: rest =>
      let (v, f) := rest.foldl (fun a q =>
        let (x, g) := prod q
        let (s, h) := addFp64Flags a.1 x
        (s, a.2 ||| g ||| h)) (prod p)
      (.wide (fp64Code v), f)

/-- The pairs of one column of a real product. -/
def realPairs (row : List FVal) (tile : List (List FVal)) (n : Nat) : List (FVal × FVal) :=
  row.zip (tile.map fun r => r.getD n .zero)

/-- The pairs of one column of a complex product in the order of R162: phase 1, then phase 2. -/
def complexPairs (row : List FVal) (tile : List (List FVal)) (n : Nat) : List (FVal × FVal) :=
  let re := (List.range tile.length).map fun k => row.getD (2 * k) .zero
  let im := (List.range tile.length).map fun k => row.getD (2 * k + 1) .zero
  let c := tile.map fun r => r.getD n .zero
  let partner := tile.map fun r =>
    if n % 2 = 0 then (r.getD (n + 1) .zero).negate else r.getD (n - 1) .zero
  re.zip c ++ im.zip partner

/-- The block pairs of column `n` (R106, R141, R143). A real column pairs blocks of 16 K rows. The blocks of a complex
row hold 8 complex values (R103), those of the tile 16 K rows of each cell column, as R141 says, so that a pair covers
8 K rows: those of phase 1, then those of phase 2 with the partner's values (DEDUCED, log entry 107). -/
def Tile.blockPairs (t : Tile) (row : List FVal) (rowExps : List Nat) (n : Nat) :
    List (List (Nat × FVal × FVal)) :=
  let nb := (t.krows + 15) / 16
  let ex (col k : Nat) : Nat := t.exps.getD (col * nb + k / 16) 0
  if t.cplx then
    let ps := complexPairs row t.rows n
    let partner := if n % 2 = 0 then n + 1 else n - 1
    let es (col : Nat) := (List.range t.krows).map fun k => rowExps.getD (k / 8) 0 + ex col k
    let one := (es n).zip (ps.take t.krows)
    let two := (es partner).zip (ps.drop t.krows)
    chunks 8 t.krows one ++ chunks 8 t.krows two
  else
    chunks 16 t.krows (((List.range t.krows).map fun k => rowExps.getD (k / 16) 0 + ex n k).zip
      (realPairs row t.rows n))

/-- The contribution of a streaming row to column `n` of a tile. -/
def Tile.contrib (t : Tile) (cls : AccClass) (w : Int) (row : List FVal) (rowExps : List Nat)
    (n : Nat) : Contrib × FlagWord :=
  let ps := if t.cplx then complexPairs row t.rows n else realPairs row t.rows n
  match cls with
  | .exact => exactContrib w ps
  | .wide => wideContrib ps
  | .block => blockContrib (t.blockPairs row rowExps n)

/-- The columns of a streaming row in which a product is 0 × ∞ (R122). -/
def Tile.zeroInf (t : Tile) (row : List FVal) : Option Nat :=
  (List.range t.ncols).find? fun n =>
    (if t.cplx then complexPairs row t.rows n else realPairs row t.rows n).any
      fun p => zeroTimesInf p.1 p.2

/-! ## The check column (R166, R167) -/

/-- Check values of a K row over the active columns, in units of the stationary weight: for phase 1
and, in a complex tile, for phase 2. -/
def checkValue (w : Int) (row : List FVal) : Int := (row.map (unitsOf w)).sum

/-- The two complex check values: Σ (c + e), and Σ (c − e). -/
def checkValue2 (w : Int) (row : List FVal) : Int :=
  ((List.range (row.length / 2)).map fun j =>
    unitsOf w (row.getD (2 * j) .zero) - unitsOf w (row.getD (2 * j + 1) .zero)).sum

/-- Sum of values in binary64, in order. -/
def sumFp64 (vs : List FVal) : FVal := vs.foldl (fun a v => (addFp64 a v).1) .zero

/-- The magnitude of a value. -/
def FVal.abs : FVal → FVal
  | .fin _ m e => .fin false m e
  | .inf _ => .inf false
  | .nan _ p => .nan false p

/-- Product rounded to binary64. -/
def mulFp64 (a b : FVal) : FVal := toFp64 (a.mul b).1

/-- What a streaming row adds to the check accumulator of an exact row. -/
def Tile.checkTerm (t : Tile) (w : Int) (row : List FVal) : Int :=
  if t.cplx then
    ((List.range t.krows).map fun k =>
      unitsOf w (row.getD (2 * k) .zero) * t.check1.getD k 0 +
      unitsOf w (row.getD (2 * k + 1) .zero) * t.check2.getD k 0).sum
  else ((List.range t.krows).map fun k => unitsOf w (row.getD k .zero) * t.check1.getD k 0).sum

/-- The sums S and A of R167 that a streaming row adds. -/
def Tile.wideTerm (t : Tile) (row : List FVal) : FVal × FVal :=
  let idx := List.range t.krows
  if t.cplx then
    (sumFp64 ((idx.map fun k => mulFp64 (row.getD (2 * k) .zero) (t.wide1.getD k .zero)) ++
        idx.map fun k => mulFp64 (row.getD (2 * k + 1) .zero) (t.wide2.getD k .zero)),
      sumFp64 ((idx.map fun k => mulFp64 (row.getD (2 * k) .zero).abs (t.mag.getD k .zero)) ++
        idx.map fun k => mulFp64 (row.getD (2 * k + 1) .zero).abs (t.mag.getD k .zero)))
  else
    (sumFp64 (idx.map fun k => mulFp64 (row.getD k .zero) (t.wide1.getD k .zero)),
      sumFp64 (idx.map fun k => mulFp64 (row.getD k .zero).abs (t.mag.getD k .zero)))

/-! ## The accumulator buffer (R155, R156) -/

/-- An Anvil's entry. -/
def Anvil.entry (a : Anvil) (row n : Nat) : BitVec 128 := SMap.read 0 a.entries (row * 64 + n)

/-- What a row keeps beside its entries. -/
def Anvil.row (a : Anvil) (row : Nat) : AccRow := SMap.read {} a.rows row

/-- The residue of a row of entries of a class (R166). -/
def rowResidue (cls : AccClass) (es : List (BitVec 128)) : Nat :=
  match cls with
  | .exact => residue (es.map fun e => match readExact e with
      | .fin v => v
      | _ => 0).sum
  | .block => residue (es.map fun e => (readBlock e).2).sum
  | .wide => 0

/-- One entry after a contribution (R106, R108, R109). -/
def addContrib (judged : Bool) (old : BitVec 128) : Contrib → BitVec 128 × FlagWord
  | .exact s spec =>
      let term : EntryVal := match spec with
        | 0 => .fin s
        | 1 => .inf false
        | 2 => .inf true
        | _ => .nan
      let (v, f) := (readExact old).add term
      let (v', f') := if judged then v.judge else (v, 0)
      (writeExact v', f ||| f')
  | .block ps =>
      let (a, v) := readBlock old
      let (a', v', f) := ps.foldl blockStep (a, v, 0)
      (writeBlock a' v', f)
  | .wide b =>
      let (s, f) := addFp64Flags (binary64.decode (old.toNat % 2 ^ 64)) (binary64.decode b)
      (BitVec.ofNat 128 (fp64Code s), f)

/-- A row write takes effect (R156). The check accumulator runs for every write, and the CHK flag of the row's last writer
says whether a DRAIN compares it (DEDUCED, log entry 108). The sum S of a wide row starts from the signed sum of its
initial entries and A from that of their magnitudes, so that a row without a fault passes (DEDUCED, log entry 108). -/
def Anvil.apply (a : Anvil) (w : RowWrite) : Anvil :=
  match w.raw with
  | some es =>
      let vs := es.map fun e => binary64.decode (e.toNat % 2 ^ 64)
      { a with
        entries := SMap.writeList 0 a.entries (w.row * 64) es
        rows := SMap.write {} a.rows w.row
          { void := w.void, cause := w.cause, ready := true, chkOn := w.chkOn
            check := rowResidue w.cls es, wideS := sumFp64 vs, wideA := sumFp64 (vs.map FVal.abs)
            cls := w.cls, hallOk := w.hallOk, seq := w.seq } }
  | none =>
      let old := a.row w.row
      let keep : AccRow := if w.acc then old else {}
      let base (n : Nat) : BitVec 128 := if w.acc then a.entry w.row n else 0
      let outs := (List.range w.ncols).map fun n =>
        if w.judged then addContrib true (base n) (w.cols.getD n (.exact 0 0)) else (base n, 0)
      let before := (List.range 64).map fun n => if n < w.ncols then base n else a.entry w.row n
      let after := outs.map (·.1) ++ (before.drop w.ncols)
      let flags := outs.foldl (fun f o => f ||| o.2) (keep.flags ||| w.flags)
      let start := if w.acc then keep.check else rowResidue w.cls before
      let vs := before.map fun e => binary64.decode (e.toNat % 2 ^ 64)
      let (s0, a0) := if w.acc then (keep.wideS, keep.wideA)
        else (sumFp64 vs, sumFp64 (vs.map FVal.abs))
      let check := match w.cls with
        | .exact => residue (start + w.checkAdd)
        | .block => residue ((start : Int) + rowResidue .block after - rowResidue .block before)
        | .wide => 0
      { a with
        entries := SMap.writeList 0 a.entries (w.row * 64) (outs.map (·.1))
        rows := SMap.write {} a.rows w.row
          { flags := flags, void := keep.void || w.void
            cause := if keep.void then keep.cause else w.cause
            ready := true, chkOn := w.chkOn, check := check
            wideS := (addFp64 s0 w.wideS).1, wideA := (addFp64 a0 w.wideA).1
            cls := w.cls, weight := w.weight, tshift := w.tshift, sshifts := w.sshifts
            tags := if w.acc then keep.tags ++ w.tags else w.tags
            hallOk := (!w.acc || keep.hallOk) && w.hallOk, seq := w.seq } }

/-- The row that write `j` of a command reaches: the intended one, but for an addressing upset. -/
def Cmd.reaches (c : Cmd) (j row : Nat) : Nat :=
  match c.slip with
  | some (p, q) => if p = j then q % 512 else row
  | none => row

/-- Puts a row write in its place among those that wait: after those of earlier cycles and of its own. -/
def insertRow (w : RowWrite) : List RowWrite → List RowWrite
  | [] => [w]
  | x :: xs => if w.time < x.time then w :: x :: xs else x :: insertRow w xs

/-- Every row write due by cycle `t` takes effect, in the order of the cycles and of the issues in one (R28, R153,
R154). -/
def Anvil.settle (a : Anvil) (t : Nat) : Anvil :=
  let due := (a.flight.filter fun w => decide (w.time ≤ t)).foldl (fun ws w => insertRow w ws) []
  due.foldl Anvil.apply { a with flight := a.flight.filter fun w => !decide (w.time ≤ t) }

/-! ## An Anvil's events -/

/-- A logical Anvil. -/
def State.anvil (s : State) (r a : Nat) : Anvil := SMap.read {} s.anvils (r * 4 + a)

/-- The state with a logical Anvil replaced. -/
def State.setAnvil (s : State) (r a : Nat) (x : Anvil) : State :=
  { s with anvils := SMap.write {} s.anvils (r * 4 + a) x }

/-- The location of a logical Anvil (R51). -/
def State.anvilLoc (s : State) (c : Cmd) : BitVec 64 :=
  blockLoc c.region 0x01 (s.physAnvil c.region c.unit)

/-- The value of an entry under its row's class, weight and operand shifts (R105, R106, R131), where `n` is its column
along the channel axis. A saturated entry is an infinite source (R119). The products of a row share one shift: that of
the streaming operand's first channel along K, with that of the stationary operand's channel of the column (DEDUCED, log
entry 109). -/
def drainValue (r : AccRow) (n : Nat) (e : BitVec 128) : FVal :=
  let sh := r.tshift + scaleShift r.sshifts n
  match r.cls with
  | .exact => match readExact e with
      | .fin v => (FVal.ofInt v r.weight).scale sh
      | .sat neg => .inf neg
      | .inf neg => .inf neg
      | .nan => .qnan
  | .block =>
      let (a, v) := readBlock e
      if v.natAbs = blockSat.natAbs then .inf (decide (v < 0))
      else FVal.ofInt v ((a : Int) - 254)
  | .wide => (binary64.decode (e.toNat % 2 ^ 64)).scale sh

/-- Whether a row holds a special entry, which exempts it from the comparison (R168). -/
def rowSpecial (cls : AccClass) (es : List (BitVec 128)) : Bool :=
  es.any fun e => match cls with
    | .exact => match readExact e with
        | .fin _ => false
        | _ => true
    | .block => (readBlock e).2.natAbs == blockSat.natAbs
    | .wide =>
        let v := binary64.decode (e.toNat % 2 ^ 64)
        v.isInf || v.isNan

/-- The comparison of the check column (R166 to R168): the residues expected and found, both 0 for the
wide class, and whether they differ. `err` is what an upset added to the row sum. -/
def checkRow (r : AccRow) (es : List (BitVec 128)) (err : Nat) : Bool × Nat × Nat :=
  if rowSpecial r.cls es then (false, 0, 0)
  else match r.cls with
    | .wide =>
        let d := sumFp64 (es.map fun e => binary64.decode (e.toNat % 2 ^ 64))
        let diff := ((addFp64 d r.wideS.negate).1).abs
        let bound := r.wideA.scale (-40)
        (bound.lt diff || decide (0 < err), 0, 0)
    | c =>
        let found := (rowResidue c es + err) % 65521
        (found != r.check, r.check, found)

/-- The flag words of groups of 64 rows (R159): row flags with what conversion raised in the group. -/
def groupFlags (rowFlags : List FlagWord) (conv : List FlagWord) (all : FlagWord) : List FlagWord :=
  (List.range ((rowFlags.length + 63) / 64)).map fun g =>
    ((rowFlags.drop (64 * g)).take 64).foldl (fun f x => f ||| x) 0 |||
    ((conv.drop (64 * g)).take 64).foldl (fun f x => f ||| x) 0 ||| all

/-- Freeze cycles of an Anvil command, counted by cause as they pass (R170, R180): 0 dry, 16 backed up. -/
def State.countFreeze (s : State) (r a lo : Nat) (fs : Freezes) : State :=
  fs.foldl (fun s f => s.later (f.1 + f.2 - 1) r (.count (Reg.ANV_FRZ r a) lo 16 f.2)) s

/-- A row write as freezes leave it (R170, R171): later, and void where `v` says so and it comes after the first
freeze. -/
def RowWrite.frozen (fs : Freezes) (v : Bool) (w : RowWrite) : RowWrite :=
  match fs with
  | [] => w
  | f :: _ =>
      let hit := v && decide (f.1 ≤ w.time)
      { w with
        time := delayed fs w.time, void := w.void || hit
        cause := if w.void then w.cause else if hit then 0x0301 else w.cause }

/-- A DRAIN as freezes leave it. -/
def Drain.frozen (fs : Freezes) (v : Bool) (d : Drain) : Drain :=
  { d with
    freezes := d.freezes ++ fs, void := d.void || v, cause := if d.void then d.cause else if v then 0x0301 else d.cause }

/-- The freezes of a command hold up its whole array (R170, R171): every later event of the commands that run
there comes later, rows written afterwards are void, and so is the buffer of a frozen DRAIN. -/
def State.freezeAnvil (s : State) (i : Issue) (c : Cmd) (loc : BitVec 64) (fs : Freezes) : State :=
  match fs with
  | [] => s
  | f :: _ =>
      let s := s.freezeBreaches i c loc fs
      let v := s.freezeVoids i (frozenCycles fs)
      let a := s.anvil c.region c.unit
      let s := s.setAnvil c.region c.unit
        { a with
          flight := a.flight.map fun w => w.frozen fs v
          drain := a.drain.map fun d => d.frozen fs v
          arrayFree := delayedEnd fs a.arrayFree, drainFree := delayedEnd fs a.drainFree }
      let here (e : Running) : Bool := e.cls == 1 && e.region == c.region && e.unit == c.unit
      let s := (s.running.filter fun e => here e && decide (f.1 < e.finish)).foldl (fun s e =>
        if v then s.voidOuts e.ctx e.outs 0x0301 else s) s
      let s := match i.ctx with
        | some k => s.onCtx k fun x => { x with lastDone := delayedEnd fs x.lastDone }
        | none => s
      { s with running := s.running.map fun e => if here e then { e with finish := delayedEnd fs e.finish } else e }

/-! ## A DRAIN as it runs (R147, R154, R158 to R161, R164, R168) -/

/-- M of a command: its ROWS, or the rows of the closed batch that it streams (R179). -/
def State.rowsOf (s : State) (c : Cmd) : Nat :=
  match c.batch with
  | some t => (SMap.read {} s.tinkers (c.region * 4 + t)).closed
  | none => bitsOf c.w.w3 0 16

/-- The Ladle port that takes a DRAIN's rows. -/
def Cmd.drainPort (c : Cmd) : Port := ⟨c.region, bitsOf c.w.w2 0 4, 4 * c.unit + 3⟩

/-- The issue of a DRAIN that runs. -/
def Drain.issue (d : Drain) : Issue := ⟨true, d.at_, d.ctx, d.void, d.cause⟩

/-- The cycle in which a DRAIN reads its row `j` (R154, R170). -/
def Drain.readAt (d : Drain) (j : Nat) : Nat := delayed d.freezes (d.at_ + j * bitsOf d.cmd.w.w3 25 5)

/-- The cycle in which a DRAIN completes (R154, R170). -/
def Drain.finish (d : Drain) : Nat :=
  delayedEnd d.freezes (d.at_ + (d.rows - 1) * bitsOf d.cmd.w.w3 25 5 + 13)

/-- The events of a row's check, at the cycle in which the DRAIN reads it (R166 to R168, R453). -/
def State.drainChecks (s : State) (c : Cmd) (at_ m : Nat) (bad skip : Bool) (want found seq : Nat) : State :=
  let r := c.region
  let phys := s.physAnvil r c.unit
  let loc := cellLoc r 0x01 phys (2 ^ 18 + m * 64) 0xFF
  let s := if bad then s.laters at_ r
      [.first (Reg.ANV_CHK r c.unit) 0 16 (Reg.ANV_CHKSLOT r c.unit) (BitVec.ofNat 32 s.slot),
       .count (Reg.ANV_CHK r c.unit) 0 16 1, .report 0x01 phys 0x0203 loc (want + found * 65536) at_] else s
  if skip then s.later at_ r (.report 0x01 phys 0x0202 loc (m * 65536) (seq * 65536)) else s

/-- A DRAIN reads its next row, in cycle `at_`; a row that is not ready freezes the array to the slot tick. -/
def State.drainRow (s : State) (d : Drain) (at_ : Nat) : State :=
  let c := d.cmd
  let r := c.region
  let a := (s.anvil r c.unit).settle at_
  let j := d.next
  let m := (bitsOf c.w.w3 16 9 + j) % 512
  let x := a.row m
  if !x.ready then
    let fs : Freezes := [(at_, s.slotLen - at_)]
    let s := s.setAnvil r c.unit a
    (s.freezeAnvil d.issue c (s.anvilLoc c) fs).countFreeze r c.unit 0 fs
  else
    let es := (List.range 64).map fun n => a.entry m n
    let err := match c.fail with
      | some (p, e) => if p = j then e else 0
      | none => 0
    let (bad, want, found) := if c.flag 4 && x.chkOn then checkRow x es err else (false, 0, 0)
    let skip := c.flag 4 && x.chkOn && x.cls != .wide && x.seq != m
    let phys := s.physAnvil r c.unit
    let s := s.drainChecks c at_ m bad skip want found x.seq
    let hits := c.ecc.filter fun e => e.1 / 64 = m
    let unc := hits.any eccBad
    let s := hits.foldl (fun s e =>
      s.eccLater (eccBad e) r 0x01 phys (cellLoc r 0x01 phys (2 ^ 18 + e.1) (eccBit e)) e.1 at_) s
    let vals := (List.range 64).map fun n =>
      let q := if c.flag 1 then n / 2 else n
      (q, drainValue x q (es.getD n 0))
    let own := !bad && !skip && !unc && ((c.flag 4 && x.chkOn) || !x.void)
    let bad := bad || skip || unc
    let d := { d with
      next := j + 1, vals := if c.flag 5 then d.vals else d.vals ++ vals, rowFlags := d.rowFlags ++ [x.flags]
      raw := if c.flag 5 then d.raw ++ es.flatMap (fun e => leBytes 16 e.toNat) else d.raw
      void := d.void || x.void || bad
      cause := if d.void then d.cause else if x.void then x.cause
        else if skip then 0x0202 else if unc then 0x0102 else if bad then 0x0203 else 0
      hallOk := d.hallOk && x.hallOk && own, tags := d.tags ++ x.tags }
    s.setAnvil r c.unit { a with
      rows := SMap.write {} a.rows m { x with ready := false }, drain := some d }

/-- What a DRAIN has handed over of its first `n` rows: converted, or raw. -/
def State.drainOut (s : State) (d : Drain) (n : Nat) (scale : List ScaleBlock) : List Converted × State :=
  let c := d.cmd
  if c.flag 5 then ([], s.give c.drainPort 0 (d.raw.take (1024 * n)))
  else
    let f := Fmt.get (bitsOf c.w.w2 4 4)
    let conv := (chunks 64 n d.vals).map fun row => d.set.convert f row
    (conv, s.giveElems c.drainPort f (conv.flatMap (·.codes)) (conv.flatMap (·.exps)) (· / 16) scale)

/-- The end of a DRAIN: its output has been handed over, with flag words, scale blocks and hallmarks (R159, R168). -/
def State.endDrain (s : State) (d : Drain) : State :=
  let c := d.cmd
  let raw := c.flag 5
  let f := Fmt.get (bitsOf c.w.w2 4 4)
  let phys := s.physAnvil c.region c.unit
  let finish := d.finish
  let step := s.stepNumber d.ctx
  let skew := !raw && tagsSkewed d.tags step (bitsOf c.w.w4 0 8)
  let s := if skew then s.scaleSkew d.ctx c.region c.unit (s.anvilLoc c) finish else s
  let s := s.shadowFault c.region 0x01 phys c.shadow finish
  let (conv, s) := s.drainOut d d.rows (makeScale step f.code d.set.base (d.set.entries f))
  let s := if raw then s else s.closeChans d.set d.vals finish
  let fl := groupFlags d.rowFlags (conv.map (·.flags)) (flagIf skew Flag.skew)
  let s := s.giveFlags c.drainPort finish fl
  let s := s.later finish c.region (.flags (Reg.ANV_STAT c.region c.unit) (fl.foldl (fun a b => a ||| b) 0))
  let s := s.endWrite c.drainPort (finish - 1) (d.hallOk && c.shadow.isNone) (d.void || skew || c.shadow.isSome)
    (if d.void then d.cause else if skew then 0x0401 else 0x0206)
  s.setAnvil c.region c.unit { s.anvil c.region c.unit with drain := none }

/-- A DRAIN's rows up to cycle `t`, and its end if that has come; `n` bounds the steps. -/
def State.drainTo (s : State) (r a t : Nat) : Nat → State
  | 0 => s
  | n + 1 =>
      match (s.anvil r a).drain with
      | none => s
      | some d =>
          if d.next < d.rows then
            if d.readAt d.next < t then (s.drainRow d (d.readAt d.next)).drainTo r a t n else s
          else if d.finish ≤ t then s.endDrain d
          else s

/-- Every DRAIN that runs, up to cycle `t`: an array command that issues later can write rows that it reads (R147). -/
def State.drainsTo (s : State) (t : Nat) : State :=
  s.anvils.foldl (fun s e => match e.2.drain with
    | some d => s.drainTo (e.1 / 4) (e.1 % 4) t (d.rows + 3)
    | none => s) s

/-- The slot tick stops a DRAIN (R74): the rows that it has handed over by then stand in its output. -/
def State.stopDrain (s : State) (k : Nat) (d : Drain) : State :=
  let n := ((List.range d.next).filter fun j => decide (d.readAt j + 12 < s.slotLen)).length
  let s := (s.drainOut d n []).2
  s.setAnvil (k / 4) (k % 4) { s.anvil (k / 4) (k % 4) with drain := none }

end Sys2Proof.Machine
end

