-- ==== Sys2Proof/Machine/Issue.lean ====
section
/-! DEFINITION. The issue of an engine command (R30, R73, R75, R172, R301, R305, R314, R320). -/

namespace Sys2Proof.Machine

open Sys2Proof

/-- Whether a stream is a COPY (R269). -/
def Stream.isCopy (t : Stream) : Bool := bitsOf t.w4 16 6 == 0x3F

/-- Whether a stream writes for its client. -/
def Stream.writes (t : Stream) : Bool := bitOf t.w3 9 && !t.isCopy

/-- The HBM stripes that a list of blocks visits, in order, by their number (R273, R285). -/
def stripesOf (bs : List Block) : List Nat :=
  bs.flatMap fun b =>
    if b.space = 1 then
      (List.range (b.size / 2048)).filterMap fun j =>
        let a := b.byteAddr (2048 * j)
        if a < 0 || a > 0xBFFFFFFFF then none else some (a.toNat / 2048)
    else []

/-- The stripes that a stream reads. -/
def Stream.readStripes (t : Stream) : List Nat := if t.writes then [] else stripesOf t.blocks

/-- The stripes that a stream writes. -/
def Stream.writeStripes (t : Stream) : List Nat :=
  if t.isCopy then stripesOf t.dblocks else if t.writes then stripesOf t.blocks else []

/-- Whether every transfer of a stream is done: its client's part and its write stripes (R277). -/
def Stream.isDone (t : Stream) : Bool :=
  t.finished && decide (t.writeStripes.length ≤ t.wmoved.length)

/-- The max taps of a Ladle's active stream push when the stream has completed by cycle `t` (R126, R130). -/
def State.closeDone (s : State) (r l t : Nat) : State :=
  match (s.ladle r l).active with
  | none => s
  | some a =>
      match a.stage with
      | some g =>
          if a.isDone && decide (a.doneAt ≤ t) then
            (s.closeStage g a.doneAt).setActive r l (some { a with stage := none })
          else s
      | none => s

/-- What the device has done by the present cycle, where a reader looks: the DRAINs that run and the max taps of streams that
have completed (R130, R147). -/
def State.catchUp (s : State) : State :=
  let t := s.clock.cc
  (List.range 8).foldl (fun s r => (List.range 6).foldl (fun s l => s.closeDone r l t) s) (s.drainsTo t)

/-- When a command comes: its issue cycle, or the present one if that has passed. -/
def State.comesAt (s : State) (c : Cmd) : Nat := max s.clock.cc c.issue

/-- The class of a command's block (R51, R299): an Anvil's by CLASS, CODE's, NET's and TWIN's by what they run. -/
def Cmd.blockOf (loc : BitVec 64) : Nat × Nat := (loc.toNat / 2 ^ 52 % 64, loc.toNat / 2 ^ 46 % 64)

/-- The SECDED error of the plan store word that a command came from (R32, R53, R302): corrected, or uncorrectable, when it
hits the command sequencing of the block, whose outputs are void and whose region is fenced. -/
def State.meetStore (x : Issue × State) (c : Cmd) (loc : BitVec 64) : Issue × State :=
  match c.stored with
  | none => x
  | some e =>
      if !x.1.go then x
      else if e != 255 then (x.1, x.2.eccLater false c.region 0 0 loc 0 x.1.t)
      else
        let (k, i) := Cmd.blockOf loc
        ({ x.1 with void := true, cause := if x.1.void then x.1.cause else 0x0102 },
          (x.2.eccLater true c.region k i loc 0 x.1.t).later x.1.t c.region (.fence 0x0102))

/-- Whether an elastic command issues in the state in which its completions have been signalled: its context has a job and
stands at the command; under EXACT the context's entry of the elastic sequence names its position and the job fills it,
else the context runs, is not past its slice, and its inputs have completed; and a window that serves the engine is open
(R80, R305, R314, R320, R322, R331). -/
def State.goesElastic (s : State) (c : Cmd) (free engine : Nat) : Bool :=
  let s := s.skipVoidJob c.ctx
  let x := s.ctx c.ctx
  let c := if s.exact then { c with cyc := (x.due.getD (0, 0)).2 } else c
  let t := max c.issue free
  (s.openWindow c.region t engine).isSome && !x.queue.isEmpty && c.ord == x.pos % 256 &&
    (if s.exact then x.fills && (match x.due with
      | some d => d.1 == x.pos % 256
      | none => false)
    else x.state == .running && !(x.member.isSome && decide (x.sliceEnd ≤ t)) &&
      c.inputs.all fun i => s.inputDone c.region (some c.ctx) i)

/-- Whether a command issues where its engine is free from cycle `free` on: the part has the engine, the engines of its
region run, and the command comes on the data plane in time to start before the slot tick, or in an elastic window as
`goesElastic` says (R1, R30, R73, R172, R301). -/
def State.goes (s : State) (c : Cmd) (free engine : Nat) : Bool :=
  let s := (s.drainsTo (s.comesAt c)).settleSignals (s.comesAt c)
  s.engineLive c.region && s.hasEngine c.cls c.region c.unit &&
    (if c.elastic then s.goesElastic c free engine
    else decide (max c.issue free < s.slotLen) || decide (free ≤ c.issue))

/-- Issues an engine command, after what the DRAINs under way have done by its cycle. An engine that the part does not
have runs nothing. -/
def State.issue (s : State) (c : Cmd) (loc : BitVec 64) (free engine : Nat) : Issue × State :=
  let s := (s.drainsTo (s.comesAt c)).settleSignals (s.comesAt c)
  if !s.engineLive c.region || !s.hasEngine c.cls c.region c.unit then (Issue.none, s)
  else
    let x := if c.elastic then s.issueElastic c loc free engine else s.issueData c loc free
    State.meetStore (State.meetSpine x c) c loc

end Sys2Proof.Machine
end

