-- ==== Sys2Proof/Machine/Accept.lean ====
section
/-! DEFINITION. The rules of the image loader that read one engine command alone (R299 to R301 and the
command sections of the engine chapters). -/

namespace Sys2Proof.Machine

open Sys2Proof

/-- Whether a word sets only bits of a mask. -/
def onlyBits (w : Word) (mask : Nat) : Bool := w &&& ~~~(BitVec.ofNat 32 mask) == 0

/-- Whether words 2 to 7 of a command set only bits of their masks: a field that a command does not use
is zero (R148, R299). -/
def Cmd.within (c : Cmd) (m2 m3 m4 m5 m6 m7 : Nat) : Bool :=
  onlyBits c.w.w2 m2 && onlyBits c.w.w3 m3 && onlyBits c.w.w4 m4 && onlyBits c.w.w5 m5
    && onlyBits c.w.w6 m6 && onlyBits c.w.w7 m7

/-- The dependency-table entries of a command (R305): at most 7, LAST on the final one alone, even
parity over the whole entry. -/
def depsOk (es : List Nat) : Bool :=
  decide (es.length ≤ 7) && es.all (fun e => decide (e < 2 ^ 16) && !oddOnes 16 e) &&
    (es.dropLast.all fun e => e / 2 ^ 14 % 2 == 0) && (match es.getLast? with
      | some e => e / 2 ^ 14 % 2 == 1
      | none => true)

/-- The common words (R299, R300): class, opcode, the regions that hold the class, the number of its
engines, whether it has an elastic queue, and the flags that the opcode lists. -/
def Cmd.common (c : Cmd) (cls op units : Nat) (regions : List Nat) (elasticOk dataOk : Bool)
    (flags : Nat) : Bool :=
  c.cls == cls && c.opcode == op && decide (c.unit < units) && regions.contains c.region
    && (if c.elastic then elasticOk && bitsOf c.w.w1 8 5 == 0 else dataOk)
    && bitsOf c.w.w1 26 5 == 0 && c.dept == !c.deps.isEmpty && depsOk c.deps
    && c.flags &&& flags == c.flags

/-- The compute regions. -/
def crs : List Nat := [0, 1, 2, 3, 4, 5, 6, 7]

/-- A Ladle number of a compute region's engines (R148). -/
def ladleOk (l : Nat) : Bool := decide (l ≤ 5)

/-- A format code that is not reserved (R95). -/
def fmtOk (f : Nat) : Bool := decide (f ≤ 11)

/-- A channel base and a count minus one (R124). -/
def chansOk (base countM1 : Nat) : Bool := decide (base + countM1 + 1 ≤ 256)

/-- The class of products of a format (R143): 0 exact, 1 block, 2 wide. -/
def prodClass (f : Nat) : Nat :=
  if (Fmt.get f).isWide then 2 else if (Fmt.get f).isBfp then 1 else 0

/-- The pair rules of R142 and R143 for a stationary format, its digits and a streaming format. -/
def pairOk (sf digits tf : Nat) : Bool :=
  prodClass sf == prodClass tf && !((tf == 4 || tf == 9) && digits == 1)

/-- The minimum PERIOD of a DRAIN (R158). -/
def minPeriod (raw : Bool) (f : Nat) : Nat :=
  if raw then 16
  else
    let g := Fmt.get f
    ((64 * g.bits + 7) / 8 + (if g.isBfp then 4 else 0) + 63) / 64

/-! ## Anvil (R146 to R151) -/

/-- The stationary operand's fields (R145, R151). -/
def Cmd.stationaryOk (c : Cmd) : Bool :=
  ladleOk (bitsOf c.w.w2 0 4) && fmtOk (bitsOf c.w.w2 8 4) && decide (bitsOf c.w.w2 16 8 ≤ 128)
    && decide (bitsOf c.w.w2 24 7 ≤ 64) && (!c.flag 1 || bitsOf c.w.w2 24 1 == 0)
    && (!c.flag 2 || c.flag 1)
    && (if c.flag 3 then decide (bitsOf c.w.w2 8 4 ≤ 2) && chansOk (bitsOf c.w.w4 16 8)
          (bitsOf c.w.w4 24 8)
        else bitsOf c.w.w4 16 16 == 0)

/-- The streaming operand's fields (R124, R148). -/
def Cmd.streamingOk (c : Cmd) : Bool :=
  ladleOk (bitsOf c.w.w2 4 4) && fmtOk (bitsOf c.w.w2 12 4)
    && chansOk (bitsOf c.w.w4 0 8) (bitsOf c.w.w4 8 8)

def Cmd.wfLoad (c : Cmd) : Bool :=
  c.common 1 0x10 4 crs true true 0x1E && c.within 0x7FFF0F0F 0 0xFFFF0000 0 0 0 && c.stationaryOk

def Cmd.wfStream (c : Cmd) : Bool :=
  c.common 1 0x11 4 crs true true 0x11 && c.within 0xF0F0 0xFFFFFFFF 0xFFFF 0xFFF 0 0
    && c.streamingOk && bitsOf c.w.w5 0 12 != 0

def Cmd.wfLoadstream (c : Cmd) : Bool :=
  c.common 1 0x12 4 crs true true 0x1F && c.within 0x7FFFFFFF 0xFFFFFFFF 0xFFFFFFFF 0xFFF 0 0
    && c.stationaryOk && c.streamingOk && bitsOf c.w.w5 0 12 != 0
    && pairOk (bitsOf c.w.w2 8 4)
        ((Fmt.get (bitsOf c.w.w2 8 4)).digits + (if c.flag 3 then 1 else 0)) (bitsOf c.w.w2 12 4)

def Cmd.wfBias (c : Cmd) : Bool :=
  c.common 1 0x13 4 crs true true 0x10 && c.within 0x3F 0x01FFFFFF 0 0 0 0
    && ladleOk (bitsOf c.w.w2 0 4) && bitsOf c.w.w2 4 2 != 3

def Cmd.wfDrain (c : Cmd) : Bool :=
  c.common 1 0x14 4 crs true true 0x32 && c.within 0xFFFF00FF 0x3FFFFFFF 0xFF 0 0 0
    && ladleOk (bitsOf c.w.w2 0 4) && fmtOk (bitsOf c.w.w2 4 4)
    && (if c.flag 5 then bitsOf c.w.w2 4 4 == 0 && bitsOf c.w.w2 16 16 == 0 && bitsOf c.w.w4 0 8 == 0
        else chansOk (bitsOf c.w.w2 16 8) (bitsOf c.w.w2 24 8))
    && decide (minPeriod (c.flag 5) (bitsOf c.w.w2 4 4) ≤ bitsOf c.w.w3 25 5)
    && decide (bitsOf c.w.w3 25 5 ≤ 16)

/-! ## Slicer (R174 to R177) -/

/-- Slots of the vector store that an element takes (R174). -/
def vecSlots (f : Nat) : Nat := if f == 4 || f == 9 then 2 else 1

def Cmd.wfVload (c : Cmd) : Bool :=
  c.common 2 0x20 1 crs true true 0x10 && c.within 0xFFFF1FFF 0xFFFF 0 0 0 0
    && ladleOk (bitsOf c.w.w2 0 4) && fmtOk (bitsOf c.w.w2 4 4) && decide (bitsOf c.w.w2 8 5 ≤ 16)
    && decide (bitsOf c.w.w2 8 5 * bitsOf c.w.w2 16 16 * vecSlots (bitsOf c.w.w2 4 4) ≤ 32768)
    && chansOk (bitsOf c.w.w3 0 8) (bitsOf c.w.w3 8 8)

def Cmd.wfSweep (c : Cmd) : Bool :=
  c.common 2 0x21 1 crs true true 0x11 && c.within 0x3FFFFFFF 0x1F0F 0x3FFFFFFF 0xFFF 0 0
    && fmtOk (bitsOf c.w.w3 0 4) && decide (bitsOf c.w.w3 8 5 ≤ 16)
    && decide (bitsOf c.w.w3 8 5 * bitsOf c.w.w2 16 14 ≤ 16384) && bitsOf c.w.w4 0 5 == 0
    && bitsOf c.w.w5 0 12 != 0

def Cmd.wfSout (c : Cmd) : Bool :=
  c.common 2 0x22 1 crs true true 0x10 && c.within 0x3FFF1F0F 0 0 0 0 0
    && ladleOk (bitsOf c.w.w2 0 4) && decide (bitsOf c.w.w2 8 5 ≤ 16)
    && decide (bitsOf c.w.w2 8 5 * bitsOf c.w.w2 16 14 ≤ 16384)

/-! ## Swage and Crucible (R198, R199, R207, R208) -/

def Cmd.wfTranspose (c : Cmd) : Bool :=
  let f := Fmt.get (bitsOf c.w.w2 12 4)
  c.common 6 0x60 1 crs true true 0 && c.within 0xFFFFFFFF 0 0 0 0 0
    && ladleOk (bitsOf c.w.w2 0 4) && ladleOk (bitsOf c.w.w2 4 4) && fmtOk (bitsOf c.w.w2 12 4)
    && !f.isBfp && f.bits == 4 * 2 ^ bitsOf c.w.w2 10 2
    && decide (bitsOf c.w.w2 16 8 ≤ 128) && decide (bitsOf c.w.w2 24 8 ≤ 128)
    && decide (bitsOf c.w.w2 16 8 * bitsOf c.w.w2 24 8 * f.bits ≤ 8 * 32768)

def Cmd.wfOpen (c : Cmd) : Bool :=
  let rows := bitsOf c.w.w3 0 13
  let cols := bitsOf c.w.w3 16 13
  c.common 7 0x70 1 crs true false 0 && c.within 0x003FFFFF 0x1FFF1FFF 0xFFF 0 0 0
    && decide (1 ≤ rows) && decide (rows ≤ 4096) && decide (1 ≤ cols) && decide (cols ≤ 4096)
    && decide (bitsOf c.w.w2 4 18 + rows * cols ≤ 262144)

def Cmd.wfAccum (c : Cmd) : Bool :=
  let src := bitOf c.w.w2 16
  c.common 7 0x71 1 crs true false 0
    && (if src then c.within 0x100FF 0x1FFF1FFF 0x1FFF1FFF 0xFFF00 0 0
        else c.within 0xFFFF 0x1FFF1FFF 0x1FFF1FFF 0xFF 0xFF 0
          && ladleOk (bitsOf c.w.w2 8 4) && ladleOk (bitsOf c.w.w2 12 4)
          && fmtOk (bitsOf c.w.w5 0 4) && prodClass (bitsOf c.w.w5 0 4) == 0
          && fmtOk (bitsOf c.w.w5 4 4) && prodClass (bitsOf c.w.w5 4 4) == 0)
    && ladleOk (bitsOf c.w.w2 4 4)
    && decide (bitsOf c.w.w4 0 13 ≤ 4096) && decide (bitsOf c.w.w4 16 13 ≤ 4096)
    && decide (bitsOf c.w.w3 0 13 + bitsOf c.w.w4 0 13 ≤ 4096)
    && decide (bitsOf c.w.w3 16 13 + bitsOf c.w.w4 16 13 ≤ 4096)

def Cmd.wfFlush (c : Cmd) : Bool :=
  c.common 7 0x72 1 crs true false 0 && c.within 0x3FF 0 0 0 0 0 && ladleOk (bitsOf c.w.w2 4 4)

/-! ## Planisher (R226 to R235) -/

/-- The fields that TLOAD and TSTORE share. -/
def Cmd.tileMoveOk (c : Cmd) : Bool :=
  ladleOk (bitsOf c.w.w2 0 4) && fmtOk (bitsOf c.w.w2 4 4)
    && decide (bitsOf c.w.w2 18 6 + bitsOf c.w.w2 11 7 ≤ 64)
    && chansOk (bitsOf c.w.w3 0 8) (bitsOf c.w.w3 8 8)

def Cmd.wfTload (c : Cmd) : Bool :=
  c.common 3 0x30 2 crs true true 0xA && c.within 0x00FFFFFF 0x00F1FFFF 0 0 0 0 && c.tileMoveOk
    && (!c.flag 3 || decide (bitsOf c.w.w2 4 4 ≤ 2))

def Cmd.wfTstore (c : Cmd) : Bool :=
  c.common 3 0x31 2 crs true true 0x2 && c.within 0x00FFFFFF 0x0001FFFF 0 0 0 0 && c.tileMoveOk

/-- The operations of R229 that have a strict form. -/
def strictOps : List Nat :=
  [0, 1, 2, 3, 4, 5, 6, 7, 8, 9, 0xA, 0x15, 0x16, 0x17, 0x18, 0x1E, 0x22]

/-- The operations of R229 that read operand B. -/
def readsB : List Nat :=
  [0, 1, 2, 3, 4, 5, 9, 0x12, 0x13, 0x14, 0x15, 0x16, 0x19, 0x1A, 0x1B, 0x1C, 0x1D, 0x20]

def Cmd.wfEwise (c : Cmd) : Bool :=
  let op := bitsOf c.w.w2 0 6
  let bm := bitsOf c.w.w2 18 2
  let hasB := readsB.contains op
  c.common 3 0x32 2 crs true true 0x3 && c.within 0x07FFFFFF 0x3F3FFFFF 0xFFFFFFFF 0 0 0
    && (decide (op ≤ 0x1E) || (decide (0x20 ≤ op) && decide (op ≤ 0x22) && c.flag 1)) && op != 0x1F
    && (!c.flag 0 || (strictOps.contains op && decide (bitsOf c.w.w3 19 3 ≤ 4)))
    && (c.flag 0 || bitsOf c.w.w3 19 3 == 0)
    && (!c.flag 1 || (bitsOf c.w.w3 6 1 == 0 && bitsOf c.w.w3 12 1 == 0))
    && decide (bitsOf c.w.w3 0 6 + bitsOf c.w.w2 20 7 ≤ 64)
    && decide (bitsOf c.w.w3 6 6 + bitsOf c.w.w3 12 7 ≤ 64)
    && (hasB || op == 8 || bm == 0) && (op != 8 || bm == 0 || bm == 3)
    && ((hasB && bm != 3) || bitsOf c.w.w2 12 3 == 0)
    && (op == 3 || op == 0x15 || bitsOf c.w.w2 15 3 == 0)
    && (bm == 1 || bm == 2 || bitsOf c.w.w3 24 6 == 0)
    && (bm == 3 || op == 8 || c.w.w4 == 0)

def Cmd.wfReduce (c : Cmd) : Bool :=
  let rop := bitsOf c.w.w2 0 4
  c.common 3 0x33 2 crs true true 0x5 && c.within 0x001FFFFF 0x1FF 0 0 0 0
    && decide (rop ≤ 5) && decide (bitsOf c.w.w2 11 7 ≤ 64) && (rop == 5 || bitsOf c.w.w2 18 3 == 0)
    && (if c.flag 0 then decide (bitsOf c.w.w3 6 3 ≤ 4) else bitsOf c.w.w3 6 3 == 0)

/-! ## Tinker (R246) -/

/-- What every Tinker command shares: the class, the common word 2 and the words it uses. -/
def Cmd.tinkerOk (c : Cmd) (op : Nat) (el data : Bool) (m3 m4 : Nat) : Bool :=
  c.common 4 op 4 crs el data 0 && c.within 0x00FFFFFF m3 m4 0 0 0
    && ladleOk (bitsOf c.w.w2 0 4) && ladleOk (bitsOf c.w.w2 4 4)

/-- The record and key fields of SORT and SELECT. -/
def Cmd.keyOk (c : Cmd) : Bool :=
  decide (bitsOf c.w.w3 8 4 + bitsOf c.w.w3 12 3 + 1 ≤ bitsOf c.w.w3 0 6 + 1)

def Cmd.wfDesc (c : Cmd) : Bool := c.tinkerOk 0x40 true true 0xFFFF 0

def Cmd.wfLookup (c : Cmd) : Bool := c.tinkerOk 0x41 true true 0x7FF 0 && bitsOf c.w.w3 9 2 != 3

def Cmd.wfSort (c : Cmd) : Bool :=
  c.tinkerOk 0x42 true true 0x1FF3F 0 && c.keyOk && decide (bitsOf c.w.w2 8 16 ≤ 4096)

def Cmd.wfSelect (c : Cmd) : Bool :=
  c.tinkerOk 0x43 true true 0x1FF3F 0x7F && c.keyOk && decide (1 ≤ bitsOf c.w.w4 0 7)
    && decide (bitsOf c.w.w4 0 7 ≤ 64)

def Cmd.wfPack (c : Cmd) : Bool :=
  c.tinkerOk 0x44 true true 0xFF 0 && decide (1 ≤ bitsOf c.w.w3 0 6) && decide (bitsOf c.w.w3 0 6 ≤ 32)

def Cmd.wfCrc (c : Cmd) : Bool := c.tinkerOk 0x45 true true 0x7F 0 && decide (bitsOf c.w.w3 0 3 ≤ 6)

def Cmd.wfScramble (c : Cmd) : Bool := c.tinkerOk 0x46 true true 0xFFFFFFFF 0xFFFFFFFF

def Cmd.wfReenc (c : Cmd) : Bool :=
  c.tinkerOk 0x47 true false 0xFFFFFFFF 0 && decide (bitsOf c.w.w2 8 16 ≤ 1)
    && decide (c.w.w3.toNat * 64 + 64 ≤ 0x1800000)

def Cmd.wfBatch (c : Cmd) : Bool :=
  c.tinkerOk 0x48 false true 0x1FFF 0 && decide (bitsOf c.w.w2 8 16 ≤ 64)

def Cmd.wfFill (c : Cmd) : Bool := c.tinkerOk 0x49 false true 0x0FFF0FFF 0

/-! ## Ladle (R268, R269) -/

/-- Client codes of a compute region (R269). -/
def clientOk (k : Nat) : Bool := decide (k ≤ 0x23) || k == 0x3F

def Cmd.wfArm (c : Cmd) : Bool :=
  let conv := bitOf c.w.w3 8
  let client := bitsOf c.w.w4 16 6
  c.common 5 0x50 6 crs true true 0
    && c.within 0xFFFFFFFF 0xFFFFFFFF 0x003F1FFF 0xFFF (if client = 0x3F then 0x0FFFFFFF else 0) 0
    && fmtOk (bitsOf c.w.w3 0 4) && fmtOk (bitsOf c.w.w3 4 4) && clientOk client
    && (!c.elastic || decide (0xC00 ≤ bitsOf c.w.w4 0 12))
    && (if conv then chansOk (bitsOf c.w.w3 13 8) (bitsOf c.w.w3 21 8)
        else bitsOf c.w.w3 0 4 == bitsOf c.w.w3 4 4 && bitsOf c.w.w3 11 18 == 0)

/-! ## Transform engines (R351) -/

/-- Whether two sample ranges of one memory are apart. -/
def apart (a n b m : Nat) : Bool := decide (a + n ≤ b) || decide (b + m ≤ a)

/-- What FFT and IFFT share: the size, the work areas, and a plain source apart from them. -/
def Cmd.transformOk (c : Cmd) (n : Nat) : Bool :=
  let log := bitsOf c.w.w2 0 4
  let size := 2 ^ log
  decide (7 ≤ log) && decide (log ≤ 13) && decide (bitsOf c.w.w3 0 16 + 2 * size ≤ 65536)
    && decide (bitsOf c.w.w4 16 14 ≤ size)
    && (bitOf c.w.w2 4 || (decide (bitsOf c.w.w2 12 16 + n ≤ 65536)
      && (!bitOf c.w.w2 11 || apart (bitsOf c.w.w2 12 16) n (bitsOf c.w.w3 0 16) (2 * size))))

/-- The source fields that do not go together: SMEM with a ring source, SLAG with a plain one. -/
def Cmd.ringOk (c : Cmd) : Bool := if bitOf c.w.w2 4 then !bitOf c.w.w2 11 else bitsOf c.w.w2 28 2 == 0

/-- The destination and output stage of FFT and FIR. -/
def Cmd.stageOk (c : Cmd) (n extra : Nat) : Bool :=
  fmtOk (bitsOf c.w.w5 16 4) && chansOk (bitsOf c.w.w5 0 8) (bitsOf c.w.w5 8 8)
    && decide (bitsOf c.w.w6 0 25 + (2 * n * (Fmt.get (bitsOf c.w.w5 16 4)).bits + 7) / 8 + extra
      ≤ 0x1800000)

def Cmd.wfFft (c : Cmd) : Bool :=
  c.common 8 0x80 16 [8] false true 0
    && c.within 0x3FFFFFFF 0xFFFF 0x3FFF1FFF 0xFFFFF 0x0FFFFFFF 0xFFF && c.ringOk
    && c.transformOk (2 ^ bitsOf c.w.w2 0 4) && c.stageOk (bitsOf c.w.w4 16 14) 64

def Cmd.wfIfft (c : Cmd) : Bool :=
  c.common 8 0x81 16 [8] false true 0
    && c.within 0x0FFFFFEF 0x0FFFFFFF 0x3FFF1FFF 0x01F00000 0x3FFFF 0xFFF
    && c.transformOk (bitsOf c.w.w4 16 14) && decide (bitsOf c.w.w3 16 12 ≤ 2048)
    && decide (bitsOf c.w.w3 16 12 ≤ 2 ^ bitsOf c.w.w2 0 4)

def Cmd.wfFir (c : Cmd) : Bool :=
  let taps := 8 * bitsOf c.w.w3 16 8
  let n := bitsOf c.w.w4 0 16 * 2 ^ bitsOf c.w.w3 24 2 + taps
  c.common 8 0x82 16 [8] false true 0
    && c.within 0x3FFFFFF0 0x03FFFFFF 0xFFFF 0xFFFFF 0x0FFFFFFF 0xFFF && c.ringOk
    && decide (8 ≤ taps) && decide (taps ≤ 256) && decide (bitsOf c.w.w3 0 16 + taps ≤ 65536)
    && (bitOf c.w.w2 4 || (decide (bitsOf c.w.w2 12 16 + n ≤ 65536 + 2 ^ bitsOf c.w.w3 24 2)
      && (!bitOf c.w.w2 11 || apart (bitsOf c.w.w2 12 16) n (bitsOf c.w.w3 0 16) taps)))
    && c.stageOk (bitsOf c.w.w4 0 16) 0

def Cmd.wfFetch (c : Cmd) : Bool :=
  c.common 8 0x83 16 [8] false true 0 && c.within 0x0FFFFFFF 0x1FFFF 0xFFFF 0 0 0
    && decide (bitsOf c.w.w3 0 16 + bitsOf c.w.w4 0 16 ≤ 65536)
    && decide (bitsOf c.w.w2 0 25 + 4 * bitsOf c.w.w4 0 16 ≤ 0x1800000)

def Cmd.wfSteer (c : Cmd) : Bool :=
  c.common 8 0x84 16 [8] false true 0 && c.within 0xFFFFFF 0 0 0 0 0
    && decide (bitsOf c.w.w2 0 16 + 4 * bitsOf c.w.w2 16 8 ≤ 65536)

/-! ## CODE (R400, R514) -/

/-- A CODE command: its opcode, the first number of its unit class and its units, and whether it is heavy.
Units are numbered through: 16 decoders, 8 encoders, 4 polar units, 8 CRC units. -/
def Cmd.codeOk (c : Cmd) (op base units : Nat) (heavy : Bool) : Bool :=
  c.common 9 op 36 [10] true true 0
    && c.within 0x0FFFFFFF 0x0FFFFFFF 0x0FFFFFFF 0x0FFFFFFF 0xFFFFF 0
    && decide (bitsOf c.w.w2 0 4 < units) && c.unit == base + bitsOf c.w.w2 0 4
    && (if heavy then decide (0 < bitsOf c.w.w2 4 12) else bitsOf c.w.w2 4 12 == 0)
    && decide (32 ≤ bitsOf c.w.w6 0 20)
    && (!c.elastic || decide (0xC00 ≤ bitsOf c.w.w2 16 12))
    && decide (bitsOf c.w.w3 0 25 + 64 ≤ 0x1800000)

def Cmd.wfLdec (c : Cmd) : Bool := c.codeOk 0x90 0 16 true
def Cmd.wfLenc (c : Cmd) : Bool := c.codeOk 0x91 16 8 true
def Cmd.wfPdec (c : Cmd) : Bool := c.codeOk 0x92 24 4 false
def Cmd.wfPenc (c : Cmd) : Bool := c.codeOk 0x93 24 4 false
def Cmd.wfTbseg (c : Cmd) : Bool := c.codeOk 0x94 28 8 false
def Cmd.wfTbchk (c : Cmd) : Bool := c.codeOk 0x95 28 8 false

/-! ## NET (R423) -/

/-- A NET command: class 0xA, on the data plane only, without flags; units are the ports. -/
def Cmd.netOk (c : Cmd) (op m2 m3 m4 m5 m6 : Nat) : Bool :=
  c.common 10 op 9 [9] false true 0 && c.within m2 m3 m4 m5 m6 0

/-- A format of the NET converters. -/
def netFmt (f : Nat) : Bool := [7, 8, 9, 11].contains f

def Cmd.wfUprx (c : Cmd) : Bool :=
  c.netOk 0xA0 0x3FFFFF 0x3FFFFF 0x0FFFFFFF 0xFFFFF 0xFFF && decide (c.unit < 8)
    && decide (bitsOf c.w.w2 16 4 ≤ 13) && decide (bitsOf c.w.w3 9 9 ≤ 273) && netFmt (bitsOf c.w.w3 18 4)

def Cmd.wfUptx (c : Cmd) : Bool :=
  c.netOk 0xA1 0x3FFFFF 0x3FFFFF 0x0FFFFFFF 0 0 && decide (c.unit < 8)
    && decide (bitsOf c.w.w2 16 4 ≤ 13) && decide (bitsOf c.w.w3 9 9 ≤ 273) && netFmt (bitsOf c.w.w3 18 4)

def Cmd.wfCptx (c : Cmd) : Bool :=
  c.netOk 0xA2 0xFFFFF 0 0x0FFFFFFF 0 0 && c.unit == bitsOf c.w.w2 0 4 && decide (c.unit < 8)
    && decide (bitsOf c.w.w2 4 16 ≤ 4095)

def Cmd.wfL2tx (c : Cmd) : Bool :=
  c.netOk 0xA3 0xFFFF0 0 0x0FFFFFFF 0 0 && c.unit == 8 && decide (bitsOf c.w.w2 4 16 ≤ 4095)

def Cmd.wfL2rx (c : Cmd) : Bool :=
  c.netOk 0xA4 0x3FFFF 0 0x0FFFFFFF 0xFFFF 0xFFF && c.unit == 8

/-! ## TWIN (R489) -/

def Cmd.wfSend (c : Cmd) : Bool :=
  c.common 11 0xB0 1 [12] true true 0 && c.within 0x1FFFFFFF 0x0FFFFFFF 0xFFFF 0xFFF 0 0
    && (bitOf c.w.w2 28 || c.w.w3 == 0)

def Cmd.wfRecv (c : Cmd) : Bool :=
  c.common 11 0xB1 1 [12] true true 0 && c.within 0x1FFFFFFF 0x0FFFFFFF 0xFFFF 0xFFF 0xFFF 0
    && (bitOf c.w.w2 28 || c.w.w3 == 0) && (!c.elastic || decide (0xC00 ≤ bitsOf c.w.w5 0 12))

end Sys2Proof.Machine
end

