-- ==== Sys2Proof/WellFormed.lean ====
section
/-! DEFINITION. Which commands can be given at all: an engine command by the image loader's rules that read it alone, an
event by the ranges of its operands. -/

namespace Sys2Proof

open Sys2Proof.Machine

/-- Whether a command can be given at all: an engine command by the image loader's rules that read the
command alone, an event by the ranges of its operands. -/
def Instr.wf : Instr → Bool
  | .slotTick _ => true
  | .epochTick _ => true
  | .symbolTick _ => true
  | .epochProgram _ _ => true
  | .tickMismatch _ => true
  | .load c => c.wfLoad
  | .stream c => c.wfStream
  | .loadstream c => c.wfLoadstream
  | .bias c => c.wfBias
  | .drain c => c.wfDrain
  | .vload c => c.wfVload
  | .sweep c => c.wfSweep
  | .sout c => c.wfSout
  | .transpose c => c.wfTranspose
  | .transposeEmit region buf => decide (region < 8) && decide (buf < 4)
  | .openTensor c => c.wfOpen
  | .accum c => c.wfAccum
  | .flush c => c.wfFlush
  | .tload c => c.wfTload
  | .tstore c => c.wfTstore
  | .ewise c => c.wfEwise
  | .reduce c => c.wfReduce
  | .desc c => c.wfDesc
  | .lookup c => c.wfLookup
  | .sort c => c.wfSort
  | .select c => c.wfSelect
  | .pack c => c.wfPack
  | .crc c => c.wfCrc
  | .scramble c => c.wfScramble
  | .reenc c => c.wfReenc
  | .batch c => c.wfBatch
  | .fill c => c.wfFill
  | .arm c _ _ => c.wfArm
  | .shadowBecomesActive _ _ => true
  | .streamDone _ _ => true
  | .absent _ _ _ _ _ => true
  | .ladleRelease _ _ => true
  | .hbmStripe _ _ _ _ _ _ => true
  | .delayedStripe _ _ => true
  | .refreshEntry _ _ => true
  | .hbmOverTemperature _ _ => true
  | .scrub _ _ _ => true
  | .fft c => c.wfFft
  | .ifft c => c.wfIfft
  | .fir c => c.wfFir
  | .fetch c => c.wfFetch
  | .steer c => c.wfSteer
  | .ncoDeltaUpdate _ _ => true
  | .ncoToffUpdate _ _ => true
  | .steeringFrame _ => true
  | .receiveSample _ _ _ _ _ => true
  | .transmitSample _ _ _ _ => true
  | .jesdLinkCrc _ _ _ _ => true
  | .jesdLinkDown _ _ _ => true
  | .relock _ _ => true
  | .sysrefEdge _ _ => true
  | .gainWindow _ => true
  | .gainWordApply _ _ => true
  | .freezeEnd _ _ => true
  | .ldec c => c.wfLdec
  | .lenc c => c.wfLenc
  | .pdec c => c.wfPdec
  | .penc c => c.wfPenc
  | .tbseg c => c.wfTbseg
  | .tbchk c => c.wfTbchk
  | .reEncoding unit _ => decide (unit < 8)
  | .uprx c => c.wfUprx
  | .uptx c => c.wfUptx
  | .cptx c => c.wfCptx
  | .l2tx c => c.wfL2tx
  | .l2rx c => c.wfL2rx
  | .uPlaneSection _ _ => true
  | .ethernetFrame port _ => decide (port < 9)
  | .nonPlannedFrame port _ _ => decide (port < 9)
  | .arpRequest _ _ _ => true
  | .neighbourSolicitation _ _ _ => true
  | .bsr m => m.type == 1
  | .qos m => m.type == 2
  | .dldata m => m.type == 3
  | .attreq m => m.type == 4
  | .fault => true
  | .announce _ _ _ => true
  | .sync _ _ _ => true
  | .delayReq _ _ _ => true
  | .followUp _ _ => true
  | .followUpTimeout _ _ => true
  | .syncMissed => true
  | .esmcPdu _ _ => true
  | .esmcTimeout => true
  | .informationPdu => true
  | .triggerArm n _ => decide (n < 4)
  | .triggerFire n _ => decide (n < 4)
  | .capture n _ _ => decide (n < 4)
  | .timeRead => true
  | .timeStepAccept => true
  | .enterFreerun => true
  | .superframe _ _ _ => true
  | .swituLinkDown _ => true
  | .send c => c.wfSend
  | .recv c => c.wfRecv
  | .hello _ _ => true
  | .digest _ => true
  | .digestSend => true
  | .digestCompare => true
  | .roleSwap => true
  | .swapNotice _ => true
  | .transferNotice _ => true
  | .joinNotice _ => true
  | .detachNotice _ => true
  | .abortNotice => true
  | .transferStart => true
  | .bulkCopyComplete => true
  | .join _ _ => true
  | .attachAborted => true
  | .twinPeerFall _ => true
  | .takeover => true
  | .attach => true
  | .detach => true
  | .swapRoles => true
  | .planSwitchRequest variant => decide (variant < 65536)
  | .promote => true
  | .revert => true
  | .revertCopyComplete => true
  | .seedingJobComplete => true
  | .trainingStep => true
  | .tasterDecision _ _ _ _ _ => true
  | .historyReset _ _ _ => true
  | .channelUpdateStage _ _ => true
  | .ncoClear _ => true
  | .commit _ => true
  | .discard _ => true
  | .registerWrite addr _ _ => decide (addr < 2 ^ 32)
  | .elasticWindowStart _ _ => true
  | .schedulerDecision _ _ => true
  | .sliceEnd _ _ => true
  | .swap _ _ _ => true
  | .swapComplete _ => true
  | .elasticWindowCut _ _ => true
  | .elasticSequenceEntry _ _ _ => true
  | .leaveGrant region _ => decide (region < 13)
  | .overTemperature sensor _ => decide (sensor < 16)
  | .thermalTrip sensor _ => decide (sensor < 16)
  | .pllLossOfLock domain => decide (domain < 40)
  | .lockstepMismatch _ _ => true
  | .rotatingSelfTest _ _ _ => true
  | .ledgerExtract => true
  | .runRequest => true
  | .trimRequest => true
  | .doze => true
  | .keep => true
  | .regionReset => true
  | .regionPowerDown => true
  | .regionPowerUp => true
  | .wakeN => true
  | .wakeNow => true
  | .wakeTimeout _ => true
  | .brownOut _ => true
  | .supplyReset => true
  | .powerOn _ => true
  | .startStepTimeout stack => decide (stack < 2)
  | .linkNotTrained _ => true
  | .timeLockTimeout _ => true
  | .handshakeWaitExpiry _ => true
  | .dataPlaneStart _ => true
  | .erase => true
  | .program => true
  | .verify slot => decide (slot < 2)
  | .activate slot => decide (slot < 2)
  | .savew => true
  | .dropw => true
  | .pageBufferWrite _ => true
  | .nvmCommandDone _ => true
  | .go _ => true
  | .reportReady => true
  | .attdataRead => true
  | .pop => true
  | .echo _ => true
  | .write frame _ => frame.head? != some 2
  | .read frame _ => frame.head? == some 2
  | .responseRead _ => true
  | .enec _ => true
  | .disec _ => true
  | .entas k => decide (k < 4)
  | .rstdaa => true
  | .entdaa da => decide (da < 128)
  | .enthdr0 => true
  | .hdrExit => true
  | .setaasa => true
  | .setdasa da => decide (da < 128)
  | .setnewda da => decide (da < 128)
  | .getmwl => true
  | .getmrl => true
  | .getpid => true
  | .getbcr => true
  | .getdcr => true
  | .getstatus => true
  | .getmxds => true
  | .getcaps => true
  | .ibi _ => true
  | .seqRead prog _ _ => decide (prog < 16)
  | .seqWrite prog _ _ => decide (prog < 16)
  | .rmw prog _ _ => decide (prog < 16)
  | .delta prog _ _ => decide (prog < 16)
  | .test prog _ _ => decide (prog < 16)
  | .record prog _ _ => decide (prog < 16)
  | .seqCommit prog _ _ => decide (prog < 16)
  | .loopbackActivate => true
  | .prbsLock _ _ _ => true
  | .prbsLossOfLock _ _ _ => true
  | .extest _ _ => true
  | .idcode => true
  | .samplePreload _ _ => true
  | .highz => true
  | .clamp => true
  | .extestPulse _ _ => true
  | .extestTrain _ _ => true
  | .bypass => true
  | .testLogicReset => true
  | .anvClrLatch _ _ => true
  | .anvClrCnt _ _ => true
  | .slcClrLatch _ => true
  | .slcClrCnt _ => true
  | .swgClr _ => true
  | .cruClr _ => true
  | .plnClrLatch _ _ => true
  | .plnClrCnt _ _ => true
  | .tnkClr _ _ => true
  | .ldlClr _ _ => true
  | .spdClr _ => true
  | .delayResp _ _ _ => true
  | .pllRelock domain => decide (domain < 40)
  | .readySignal _ _ _ => true
  | .linkUp _ _ _ => true
  | .ethernetLinkDown port => decide (port < 9)
  | .temperatureFallenBelowLimit sensor _ => decide (sensor < 16)
  | .guardReached _ _ _ => true
  | .spnCntclr => true
  | .detClr => true
  | .fmtClr => true
  | .grdClr => true
  | .memClr => true
  | .elsClr => true
  | .radClr => true
  | .cdcClr => true
  | .wgtClr => true
  | .schClr => true
  | .netClr => true
  | .fltClr => true
  | .lgrClr => true
  | .twnClr => true
  | .pwrClr => true
  | .clkClr => true
  | .secClr => true
  | .mgtClr => true
  | .netPrbsClr => true
  | .radPrbsClr => true
  | .twnPrbsClr => true

end Sys2Proof
end

