-- ==== Sys2Proof/Machine/Anvil.lean ====
section
/-! DEFINITION. The Anvil commands (R139 to R173): LOAD, STREAM, LOADSTREAM, BIAS and DRAIN. -/

namespace Sys2Proof.Machine

open Sys2Proof

/-- LEAVE of the array commands (R148). -/
def Cmd.anvilLeave (c : Cmd) : Nat := bitsOf c.w.w5 0 12

/-- The stationary tile that a LOAD or the first part of a LOADSTREAM forms (R141, R145, R162, R166),
with the read's outcome. A weight tile's shift is its layer's (R382). ASYM subtracts the channel's zero point whatever
its ZPEN says (DEDUCED, log entry 110). -/
def State.readTile (s : State) (c : Cmd) (i : Issue) : Tile × Taken × State :=
  let f := Fmt.get (bitsOf c.w.w2 8 4)
  let k := bitsOf c.w.w2 16 8
  let n := bitsOf c.w.w2 24 7
  let l := bitsOf c.w.w2 0 4
  let asym := c.flag 3
  let cnt := bitsOf c.w.w4 24 8 + 1
  let zp (j : Nat) : Option Nat :=
    if asym then
      some (s.fld (winKey (chanKey c.region (6 + l) (bitsOf c.w.w4 16 8 + j % n % cnt))
        Reg.FMT_CHZP) 0 16)
    else none
  let ne := (k + 15) / 16 * n
  let (e, s) := s.takeElems ⟨c.region, l, 4 * c.unit⟩ (k * n) ne f zp
  let rows := chunks n k e.vals
  let rows := if c.flag 1 && c.flag 2 then
      rows.map fun r => (List.range n).map fun j =>
        let v := r.getD j .zero
        if j % 2 = 1 then v.negate else v
    else rows
  let t : Tile :=
    { fmt := f.code, krows := k, ncols := n, digits := f.digits + (if asym then 1 else 0)
      cplx := c.flag 1, rows := rows, exps := e.exps
      check1 := rows.map (checkValue f.weight), check2 := rows.map (checkValue2 f.weight)
      wide1 := rows.map sumFp64
      wide2 := rows.map fun r => sumFp64 ((List.range n).map fun j =>
        if j % 2 = 1 then (r.getD j .zero).negate else r.getD j .zero)
      mag := rows.map fun r => sumFp64 (r.map FVal.abs)
      scale := match c.wsh with
        | some w => ⟨[], [w]⟩
        | none => e.scale
      hallOk := e.taken.hallOk, ctx := i.ctx
      void := i.void || e.taken.void, cause := if i.void then i.cause else e.taken.cause }
  (t, e.taken, s)

/-- The tile of an array with none loaded (R165). -/
def noTile : Tile := { fmt := 1, krows := 0, ncols := 64, digits := 1 }

/-- Rows that stream through a tile, with the row and column of each 0 × ∞ of theirs and the cycle of the row's write. -/
structure Streamed where
  rows : List RowWrite
  zeros : List (Nat × Nat × Nat)

/-- Streams M rows through a tile from cycle `enter` (R152, R156, R157): the row writes in flight, as they fall
without freezes. A row takes KROWS elements from its Ladle, or as many complex ones; those of inactive K rows are none
of the stream's (DEDUCED, log entry 111). An entry that a command with ACC reads can show a SECDED error (R155). -/
def State.streamRows (s : State) (c : Cmd) (i : Issue) (t : Tile) (m enter : Nat)
    (extraVoid : Bool) (cause : Nat) : Streamed × State :=
  let f := Fmt.get (bitsOf c.w.w2 12 4)
  let sf := Fmt.get t.fmt
  let nel := if t.cplx then 2 * t.krows else t.krows
  let l := bitsOf c.w.w2 4 4
  let cnt := bitsOf c.w.w4 8 8 + 1
  let s0 := s
  let zp (j : Nat) : Option Nat :=
    if f.isInt then s0.zeroPoint (chanKey c.region (6 + l)
      (bitsOf c.w.w4 0 8 + (j % nel / (if t.cplx then 2 else 1)) % cnt)) else none
  let nb := (nel + 15) / 16
  let (e, s) := if nel = 0 then ((⟨f, [], [], ⟨[], []⟩, {}, [], []⟩ : Elems), s)
    else s.takeElems ⟨c.region, l, 4 * c.unit + 1⟩ (m * nel) (m * nb) f zp
  let d := if t.cplx then 2 * t.digits else t.digits
  let lat := 196 + (d - 1)
  let cls := classOf sf f
  let w := sf.weight + f.weight
  let void := i.void || e.taken.void || t.void || extraVoid
  let why := if i.void then i.cause else if e.taken.void then e.taken.cause
    else if t.void then t.cause else cause
  let errs (row : Nat) := if c.flag 0 then
    c.ecc.filter fun x => x.1 / 64 = row && decide (x.1 % 64 < t.ncols) else []
  let rows := (List.range m).map fun j =>
    let row := (e.vals.drop (j * nel)).take nel
    let exps := (e.exps.drop (j * nb)).take nb
    let outs := if t.krows = 0 then [] else
      (List.range t.ncols).map fun n => t.contrib cls w row exps n
    let (ws, wa) := if cls = .wide then t.wideTerm row else (FVal.zero, FVal.zero)
    let seq := (bitsOf c.w.w3 16 9 + j) % 512
    let unc := (errs seq).any eccBad
    ({ time := enter + j * d + lat, row := c.reaches j seq, seq := seq
       acc := c.flag 0, judged := decide (0 < t.krows), ncols := t.ncols
       cols := outs.map (·.1), flags := outs.foldl (fun fl o => fl ||| o.2) 0
       checkAdd := if cls = .exact then t.checkTerm f.weight row else 0
       wideS := ws, wideA := wa, chkOn := c.flag 4, void := void || unc
       cause := if void then why else if unc then 0x0102 else 0
       cls := cls, weight := w, tshift := e.scale.shifts.headD 0, sshifts := t.scale.shifts
       tags := e.scale.tags, hallOk := e.taken.hallOk && t.hallOk } : RowWrite)
  let zeros := (List.range m).filterMap fun j =>
    (t.zeroInf ((e.vals.drop (j * nel)).take nel)).map fun n => (j, n, enter + j * d + lat)
  let phys := s.physAnvil c.region c.unit
  let s := rows.foldl (fun s w => (errs w.seq).foldl (fun s x =>
    s.eccLater (eccBad x) c.region 0x01 phys (cellLoc c.region 0x01 phys (2 ^ 18 + x.1) (eccBit x)) x.1 w.time) s) s
  (⟨rows, zeros⟩, s)

/-- The 0 × ∞ of a streamed command, as its rows are written: the sticky status, and the latch where it is free (R122,
R173). -/
def State.latchZero (s : State) (c : Cmd) (fs : Freezes) (zeros : List (Nat × Nat × Nat)) : State :=
  zeros.foldl (fun s z =>
    s.laters (delayed fs z.2.2) c.region
      [.flags (Reg.ANV_STAT c.region c.unit) Flag.inv,
       .latch (Reg.ANV_ZIPOS c.region c.unit) 31
        [(Reg.ANV_ZISLOT c.region c.unit, BitVec.ofNat 32 s.slot),
         (Reg.ANV_ZIPOS c.region c.unit,
          BitVec.ofNat 32 (z.1 % 2 ^ 16 + z.2.1 * 2 ^ 16 + bitsOf c.w.w3 25 7 * 2 ^ 22 + 2 ^ 31))]]) s

/-- The cycles in which rows enter the array, counted as they enter (R180). -/
def State.countRows (s : State) (c : Cmd) (fs : Freezes) (m d enter : Nat) : State :=
  (List.range m).foldl (fun s j =>
    s.later (delayed fs (enter + j * d + d - 1)) c.region (.count (Reg.ANV_ACT c.region c.unit) 0 32 d)) s

/-- The row period P of a tile (R152). -/
def Tile.period (t : Tile) : Nat := if t.cplx then 2 * t.digits else t.digits

/-- The ports at which an array command takes its stationary and its streaming data (R269). -/
def Cmd.loadPort (c : Cmd) : Port := ⟨c.region, bitsOf c.w.w2 0 4, 4 * c.unit⟩
def Cmd.streamPort (c : Cmd) : Port := ⟨c.region, bitsOf c.w.w2 4 4, 4 * c.unit + 1⟩

/-- The 64-byte beats of a stationary load. -/
def Cmd.loadBeats (c : Cmd) : Nat :=
  bitsOf c.w.w2 16 8 * max 1 ((bitsOf c.w.w2 24 7 * (Fmt.get (bitsOf c.w.w2 8 4)).bits + 511) / 512)

/-- The freezes of a stationary load that begins at a cycle: one K row each cycle (R152). -/
def State.loadFreezes (s : State) (c : Cmd) (t : Nat) : Freezes :=
  let f := Fmt.get (bitsOf c.w.w2 8 4)
  let n := bitsOf c.w.w2 24 7
  s.feedsElems c.loadPort f (bitsOf c.w.w2 16 8) n (fun k => t + k) c.lateness

/-- The freezes of rows that stream through a tile from a cycle on (R152), after those of the load, whose beats come
before theirs. -/
def State.streamFreezes (s : State) (c : Cmd) (tile : Tile) (m enter beats : Nat) (load : Freezes) : Freezes :=
  let d := tile.period
  let f := Fmt.get (bitsOf c.w.w2 12 4)
  let n := if tile.cplx then 2 * tile.krows else tile.krows
  s.feedsElems (c.streamPort) f m n
    (fun j => delayed load (enter + j * d)) (fun j => c.lateness (beats + j))

/-- LOAD (R152): the array stalls and a stationary tile loads, one K row per cycle. -/
def State.anvilLoad (s : State) (c : Cmd) : State :=
  let loc := s.anvilLoc c
  let s := s.drainsTo (s.comesAt c)
  let (i, s) := s.issue c loc (s.anvil c.region c.unit).arrayFree (2 ^ c.unit)
  if !i.go then s
  else
    let fs := s.loadFreezes c i.t
    let (tile, _, s) := s.readTile c i
    let s := s.takenBy c.loadPort fs (i.t + tile.krows - 1)
    let s := (s.freezeAnvil i c loc fs).countFreeze c.region c.unit 0 fs
    let finish := delayedEnd fs (i.t + 128)
    let a := s.anvil c.region c.unit
    let s := s.setAnvil c.region c.unit { a with tile := some tile, arrayFree := finish }
    s.track c i 0 finish []

/-- STREAM (R152, R164, R165): M rows through the loaded tile. -/
def State.anvilStream (s : State) (c : Cmd) : State :=
  let loc := s.anvilLoc c
  let m := s.rowsOf c
  let s := s.drainsTo (s.comesAt c)
  let (ok, s) := s.takeLeave c (2 ^ c.unit) c.anvilLeave
  if !ok then s
  else
    let (i, s) := s.issue c loc (s.anvil c.region c.unit).arrayFree (2 ^ c.unit)
    if !i.go then s
    else
      let loaded := (s.anvil c.region c.unit).tile.filter fun t => t.ctx == i.ctx
      let tile := loaded.getD noTile
      let s := if loaded.isNone then
        s.blockRaise c.region 0x01 (s.physAnvil c.region c.unit) 0x0307 loc c.w.w0.toNat
          (c.issue % 2 ^ 21) else s
      let fs := s.streamFreezes c tile m i.t 0 []
      let (x, s) := s.streamRows c i tile m i.t loaded.isNone 0x0307
      let s := s.latchZero c fs x.zeros
      let s := s.takenBy c.streamPort fs (i.t + (m - 1) * tile.period) tile.period
      let s := (s.freezeAnvil i c loc fs).countFreeze c.region c.unit 0 fs
      let v := s.freezeVoids i (frozenCycles fs)
      let d := tile.period
      let finish := if m = 0 then i.t + 1
        else delayedEnd fs (i.t + (m - 1) * d + 196 + (d - 1) + 1)
      let a := s.anvil c.region c.unit
      let s := s.setAnvil c.region c.unit
        { a with
          flight := a.flight ++ x.rows.map fun w => w.frozen fs v
          arrayFree := if m = 0 then i.t else delayedEnd fs (i.t + m * d) }
      let s := s.countRows c fs m d i.t
      let s := s.useLeave c finish
      s.track c i 0 finish []

/-- LOADSTREAM (R152): LOAD, then STREAM, as one command. -/
def State.anvilLoadStream (s : State) (c : Cmd) : State :=
  let loc := s.anvilLoc c
  let m := s.rowsOf c
  let s := s.drainsTo (s.comesAt c)
  let (ok, s) := s.takeLeave c (2 ^ c.unit) c.anvilLeave
  if !ok then s
  else
    let (i, s) := s.issue c loc (s.anvil c.region c.unit).arrayFree (2 ^ c.unit)
    if !i.go then s
    else
      let lf := s.loadFreezes c i.t
      let (tile, _, s) := s.readTile c i
      let fs := lf ++ s.streamFreezes c tile m (i.t + 128) c.loadBeats lf
      let (x, s) := s.streamRows c i tile m (i.t + 128) false 0
      let s := s.latchZero c fs x.zeros
      let s := (s.takenBy c.loadPort lf (i.t + tile.krows - 1)).takenBy c.streamPort fs
        (i.t + 128 + (m - 1) * tile.period) tile.period
      let s := (s.freezeAnvil i c loc fs).countFreeze c.region c.unit 0 fs
      let v := s.freezeVoids i (frozenCycles fs)
      let d := tile.period
      let finish := delayedEnd fs
        (if m = 0 then i.t + 128 else i.t + 128 + (m - 1) * d + 196 + (d - 1) + 1)
      let a := s.anvil c.region c.unit
      let s := s.setAnvil c.region c.unit
        { a with
          tile := some tile, flight := a.flight ++ x.rows.map fun w => w.frozen fs v
          arrayFree := delayedEnd fs (i.t + 128 + m * d) }
      let s := s.countRows c fs m d (i.t + 128)
      let s := s.useLeave c finish
      s.track c i 0 finish []

/-- The class that CLS of a BIAS names (R150). -/
def biasClass : Nat → AccClass
  | 0 => .exact
  | 1 => .block
  | _ => .wide

/-- BIAS (R150, R154): raw entries into accumulator rows at 16 cc per row. It holds the array slot until it completes
(DEDUCED, log entry 112). -/
def State.anvilBias (s : State) (c : Cmd) : State :=
  let loc := s.anvilLoc c
  let m := s.rowsOf c
  let s := s.drainsTo (s.comesAt c)
  let (i, s) := s.issue c loc (s.anvil c.region c.unit).arrayFree (2 ^ c.unit)
  if !i.go then s
  else
    let port : Port := ⟨c.region, bitsOf c.w.w2 0 4, 4 * c.unit + 2⟩
    let fs := s.feedsBytes port (m * 1024) i.t c.lateness
    let (k, s) := s.take port 0 (m * 1024)
    let s := s.takenBy port fs (i.t + 16 * m - 1)
    let s := (s.freezeAnvil i c loc fs).countFreeze c.region c.unit 0 fs
    let v := s.freezeVoids i (frozenCycles fs)
    let void := i.void || k.void
    let why := if i.void then i.cause else k.cause
    let rows := (List.range m).map fun j =>
      let es := (List.range 64).map fun n =>
        BitVec.ofNat 128 (leNat ((k.bytes.drop (j * 1024 + n * 16)).take 16))
      ({ time := i.t + 16 * j + 4, row := c.reaches j ((bitsOf c.w.w3 16 9 + j) % 512)
         seq := (bitsOf c.w.w3 16 9 + j) % 512, acc := false
         judged := false, ncols := 64, raw := some es, chkOn := c.flag 4, void := void
         cause := if void then why else 0, cls := biasClass (bitsOf c.w.w2 4 2)
         hallOk := k.hallOk } : RowWrite)
    let finish := if m = 0 then i.t + 1 else delayedEnd fs (i.t + 16 * m + 5)
    let a := s.anvil c.region c.unit
    let s := s.setAnvil c.region c.unit
      { a with flight := a.flight ++ rows.map fun w => w.frozen fs v, arrayFree := finish }
    s.track c i 0 finish []

/-- The freezes of a DRAIN's hand-overs that its Ladle does not accept (R170): each row is handed over 12 cycles after it
is read (R154). -/
def Cmd.backups (c : Cmd) (t : Nat) : Freezes :=
  delayFreezes t (c.backup.map fun b => (b.1 * bitsOf c.w.w3 25 5 + 12, b.2))

/-- DRAIN (R158 to R161, R164, R168): it takes the drain slot, and reads its rows as their cycles come. -/
def State.anvilDrain (s : State) (c : Cmd) : State :=
  let loc := s.anvilLoc c
  let m := s.rowsOf c
  let s := s.drainsTo (s.comesAt c)
  let (i, s) := s.issue c loc (s.anvil c.region c.unit).drainFree (2 ^ c.unit)
  if !i.go then s
  else
    let outs := s.outsOf c.drainPort
    if m = 0 then
      let s := s.voidOuts i.ctx (if i.void then outs else []) i.cause
      let s := s.setAnvil c.region c.unit { s.anvil c.region c.unit with drainFree := i.t + 1 }
      s.track c i 1 (i.t + 1) outs
    else
      let raw := c.flag 5
      let f := Fmt.get (bitsOf c.w.w2 4 4)
      let base := bitsOf c.w.w2 16 8
      let count := min (bitsOf c.w.w2 24 8 + 1) (if c.flag 1 then 32 else 64)
      let (cs, s) := if raw then ((⟨c.region, c.unit, 0, 0, []⟩ : ChanSet), s)
        else s.openChans c.region c.unit base count f i.t
      let d : Drain := { cmd := c, at_ := i.t, rows := m, ctx := i.ctx, set := cs, void := i.void, cause := i.cause }
      let s := s.setAnvil c.region c.unit
        { s.anvil c.region c.unit with drain := some d, drainFree := d.finish }
      let s := s.track c i 1 d.finish outs
      (s.freezeAnvil i c loc (c.backups i.t)).countFreeze c.region c.unit 16 (c.backups i.t)

def execLoad (c : Cmd) (s : State) : Host.Outcome State Fault Refusal :=
  admitted (Instr.load c).wf (s.anvilLoad c)

def execStream (c : Cmd) (s : State) : Host.Outcome State Fault Refusal :=
  admitted (Instr.stream c).wf (s.anvilStream c)

def execLoadstream (c : Cmd) (s : State) : Host.Outcome State Fault Refusal :=
  admitted (Instr.loadstream c).wf (s.anvilLoadStream c)

def execBias (c : Cmd) (s : State) : Host.Outcome State Fault Refusal :=
  admitted (Instr.bias c).wf (s.anvilBias c)

def execDrain (c : Cmd) (s : State) : Host.Outcome State Fault Refusal :=
  admitted (Instr.drain c).wf (s.anvilDrain c)

end Sys2Proof.Machine
end

