-- ==== Sys2Proof/Machine/Clear.lean ====
section
/-! DEFINITION. The clear registers: what a write of 1 to each sets to 0 (the register sections of every
chapter). A region that does not answer takes no write (R46, R531). -/

namespace Sys2Proof.Machine

open Sys2Proof

/-- A control-space access that reaches a region (R46, R531): one that does not answer completes with
status ABSENT, and the access has no effect. -/
def State.atRegion (s : State) (r : Nat) (f : State → State) : State :=
  if s.served r then f s.catchUp else s.bump Reg.SPN_ABSCNT 0 32 1

/-- An access that no register serves (R577, R598), made by master class `m` of MGMT. -/
def State.unassigned (s : State) (m a : Nat) : State :=
  (s.bump Reg.MGT_ACC 0 16 1).raise 0x0D01 .masked (blockLoc 13 m 0) a 0

/-- A write to a clear register of a block that the part's grade may lack: its address is then unassigned (R15, R180,
R181). -/
def State.whereFitted (s : State) (fitted : Bool) (a : Nat) (f : State → State) : State :=
  if fitted then f s else s.unassigned 0x39 a

/-- SPN_CNTCLR (R58). -/
def State.spnCntclr (s : State) : State :=
  s.zeroRegs [Reg.SPN_ABSCNT, Reg.SPN_DISCNT, Reg.SPN_CTLMAX]

/-- DET_CLR (R93, R94). -/
def State.detClr (s : State) : State :=
  s.zeroRegs [Reg.DET_BREACH, Reg.DET_BRSLOT, Reg.DET_BRCC]

/-- FMT_CLR (R137). -/
def State.fmtClr (s : State) : State :=
  s.zeroRegs [Reg.FMT_SKEW, Reg.FMT_SKEWSLOT, Reg.FMT_SKEWLOC, Reg.FMT_FLAGCNT]

/-- ANV_CLR_LATCH (R180, R182). -/
def State.anvClrLatch (s : State) (region unit : Nat) : State :=
  s.atRegion region fun s =>
    s.zeroRegs [Reg.ANV_ZISLOT region unit, Reg.ANV_ZIPOS region unit]

/-- ANV_CLR_CNT (R180, R182). -/
def State.anvClrCnt (s : State) (region unit : Nat) : State :=
  s.atRegion region fun s =>
    s.zeroRegs [Reg.ANV_FRZ region unit, Reg.ANV_CHK region unit, Reg.ANV_CHKSLOT region unit,
      Reg.ANV_ACT region unit]

/-- SLC_CLR_LATCH (R181, R182). -/
def State.slcClrLatch (s : State) (region : Nat) : State :=
  s.atRegion region fun s =>
    s.zeroRegs [Reg.SLC_ZISLOT region, Reg.SLC_ZIPOS region]

/-- SLC_CLR_CNT (R181, R182). -/
def State.slcClrCnt (s : State) (region : Nat) : State :=
  s.atRegion region fun s =>
    let x := SMap.read {} s.slicers region
    { (s.zeroRegs [Reg.SLC_FRZ region, Reg.SLC_BYTES region]) with
      slicers := SMap.write {} s.slicers region { x with bytes := 0 } }

/-- GRD_CLR (R219). -/
def State.grdClr (s : State) : State :=
  s.zeroRegs [Reg.GRD_JOBS, Reg.GRD_STALE]

/-- SWG_CLR (R220). -/
def State.swgClr (s : State) (region : Nat) : State :=
  s.atRegion region fun s =>
    let x := SMap.read {} s.swages region
    { (s.zeroRegs [Reg.SWG_CHK region, Reg.SWG_CHKSLOT region, Reg.SWG_BYTES region]) with
      swages := SMap.write {} s.swages region { x with bytes := 0 } }

/-- CRU_CLR (R221). -/
def State.cruClr (s : State) (region : Nat) : State :=
  s.atRegion region fun s =>
    s.zeroRegs [Reg.CRU_SAT region]

/-- PLN_CLR_LATCH (R258, R260). -/
def State.plnClrLatch (s : State) (region unit : Nat) : State :=
  s.atRegion region fun s =>
    s.zeroRegs [Reg.PLN_ZISLOT region unit, Reg.PLN_ZIPOS region unit]

/-- PLN_CLR_CNT (R258, R260). -/
def State.plnClrCnt (s : State) (region unit : Nat) : State :=
  s.atRegion region fun s =>
    s.zeroRegs [Reg.PLN_WIT region unit, Reg.PLN_WITSLOT region unit, Reg.PLN_ACT region unit,
      Reg.PLN_STRICT region unit]

/-- TNK_CLR (R259, R260). -/
def State.tnkClr (s : State) (region unit : Nat) : State :=
  s.atRegion region fun s =>
    s.zeroRegs [Reg.TNK_SELF region unit, Reg.TNK_SELFSLOT region unit, Reg.TNK_LKMISS region unit,
      Reg.TNK_BATCH region unit, Reg.TNK_REENC region unit]

/-- LDL_CLR (R295, R298). -/
def State.ldlClr (s : State) (region unit : Nat) : State :=
  s.atRegion region fun s =>
    (s.zeroRegs [Reg.LDL_ERR region unit, Reg.LDL_ERRSLOT region unit,
      Reg.LDL_BYTES region unit]).setLadle
      region unit { s.ladle region unit with bytes := 0 }

/-- SPD_CLR (R296, R298). -/
def State.spdClr (s : State) (region : Nat) : State :=
  s.atRegion region fun s =>
    s.zeroRegs [Reg.SPD_SCRUB region, Reg.SPD_ECC region, Reg.SPD_ECCLOC region, Reg.SPD_COLL region]

/-- MEM_CLR (R297, R298). -/
def State.memClr (s : State) : State :=
  s.atRegion 11 fun s =>
    s.zeroRegs [Reg.MEM_REFGAP, Reg.MEM_ECC, Reg.MEM_ECCADDR, Reg.MEM_ECCADDRHI, Reg.MEM_RDSTR,
      Reg.MEM_WRSTR, Reg.MEM_LATE, Reg.MEM_TBLERR]

/-- ELS_CLR (R336, R337). -/
def State.elsClr (s : State) : State :=
  let s := s.zeroRegs ((List.range 64).flatMap fun c =>
    [winKey c Reg.ELS_JOBSUB, winKey c Reg.ELS_JOBDONE, winKey c Reg.ELS_JOBABRT])
  s.zeroRegs ((List.range 14).flatMap fun r =>
    [winKey r Reg.ELS_SWAPS, winKey r Reg.ELS_CUTS, winKey r Reg.ELS_OVR])

/-- RAD_CLR (R370, R375). -/
def State.radClr (s : State) : State :=
  s.atRegion 8 fun s =>
    let s := s.setFld Reg.RAD_SYSREF 16 8 0
    let s := s.zeroRegs ([Reg.RAD_CNT, Reg.STP_ERR] ++
      ((List.range 8).flatMap fun n => [Reg.JRX_ERR n, Reg.JTX_ERR n]) ++
      ((List.range 64).map fun l => winKey l Reg.AGC_CNT) ++ (List.range 16).map Reg.TE_ACT)
    { (s.setReg Reg.STP_STAT 0) with radio := { s.radio with sent := 0 } }

/-- CDC_CLR (R412). -/
def State.cdcClr (s : State) : State :=
  s.atRegion 10 fun s =>
    let s := s.zeroRegs [Reg.CDC_CB, Reg.CDC_CBFAIL, Reg.CDC_TBPASS, Reg.CDC_TBFAIL, Reg.CDC_REFUSE]
    (s.setFld Reg.CDC_RQ 8 8 0).setFld Reg.CDC_RQ 16 8 0

/-- WGT_CLR (R413). -/
def State.wgtClr (s : State) : State :=
  s.zeroRegs [Reg.WGT_CNT, Reg.WGT_SAT]

/-- SCH_CLR (R415). -/
def State.schClr (s : State) : State :=
  s.zeroRegs [Reg.SCH_CNT]

/-- NET_CLR (R448, R450). -/
def State.netClr (s : State) : State :=
  s.atRegion 9 fun s =>
    let s := s.zeroRegs [Reg.NET_FHCNT0, Reg.NET_FHCNT1, Reg.NET_FHCNT2, Reg.NET_L2CNT0,
      Reg.NET_L2CNT1, Reg.NET_PTPCNT]
    (List.range 9).foldl (fun s p =>
      (s.setReg (winKey p Reg.NET_PCNT) 0).setFld (winKey p Reg.NET_PSTAT) 16 16 0) s

/-- FLT_CLR (R477, R479). -/
def State.fltClr (s : State) : State :=
  s.zeroRegs [Reg.FLT_LOST, Reg.FLT_CNTD, Reg.FLT_CNTM, Reg.FLT_STEST]

/-- LGR_CLR (R478, R479). -/
def State.lgrClr (s : State) : State :=
  s.zeroRegs [Reg.LGR_TOTAL, Reg.LGR_XOVF]

/-- TWN_CLR (R508). -/
def State.twnClr (s : State) : State :=
  s.atRegion 12 fun s =>
    s.zeroRegs [Reg.TWN_CNT, Reg.TWN_LNK]

/-- PWR_CLR (R535). -/
def State.pwrClr (s : State) : State :=
  let s := s.setFld Reg.PWR_MEAS 16 13 0
  s.zeroRegs ((List.range 14).map fun r => winKey r Reg.PWR_WAIT)

/-- CLK_CLR (R536). -/
def State.clkClr (s : State) : State :=
  s.zeroRegs [Reg.CLK_LOL]

/-- SEC_CLR (R572). -/
def State.secClr (s : State) : State :=
  s.zeroRegs [Reg.SEC_CNT]

/-- MGT_CLR (R599, R600). -/
def State.mgtClr (s : State) : State :=
  let s := s.zeroRegs [Reg.MGT_CCNT, Reg.MGT_ACC]
  (s.setFld Reg.MGT_IBI 16 8 0).setFld Reg.MGT_SEQSTAT 16 16 0

/-- NET_PRBS_CLR (R615). -/
def State.netPrbsClr (s : State) : State :=
  s.atRegion 9 fun s =>
    let p := s.fld Reg.NET_PORTSEL 0 4
    s.zeroRegs [winKey p Reg.NET_PRBSERR0, winKey p Reg.NET_PRBSERR1, winKey p Reg.NET_PRBSBITS]

/-- RAD_PRBS_CLR (R615). -/
def State.radPrbsClr (s : State) : State :=
  s.atRegion 8 fun s =>
    s.setReg (winKey (s.fld Reg.RAD_PRBS 0 5) Reg.RAD_PRBSERR) 0

/-- TWN_PRBS_CLR (R615). -/
def State.twnPrbsClr (s : State) : State :=
  s.atRegion 12 fun s =>
    s.setReg (winKey (s.fld Reg.TWN_PRBS 0 5) Reg.TWN_PRBSERR) 0

def execSpnCntclr (s : State) : Host.Outcome State Fault Refusal :=
  .next (s.managed fun s => s.spnCntclr)

def execDetClr (s : State) : Host.Outcome State Fault Refusal :=
  .next (s.managed fun s => s.detClr)

def execFmtClr (s : State) : Host.Outcome State Fault Refusal :=
  .next (s.managed fun s => s.fmtClr)

def execAnvClrLatch (region unit : Nat) (s : State) : Host.Outcome State Fault Refusal :=
  .next (s.managed fun s => s.whereFitted (!(unit == 3 && s.bit Reg.ARC_GRADE 0))
    (Reg.ANV_CLR region unit) fun s => s.anvClrLatch region unit)

def execAnvClrCnt (region unit : Nat) (s : State) : Host.Outcome State Fault Refusal :=
  .next (s.managed fun s => s.whereFitted (!(unit == 3 && s.bit Reg.ARC_GRADE 0))
    (Reg.ANV_CLR region unit) fun s => s.anvClrCnt region unit)

def execSlcClrLatch (region : Nat) (s : State) : Host.Outcome State Fault Refusal :=
  .next (s.managed fun s => s.whereFitted (s.bit Reg.ARC_GRADE 8) (Reg.SLC_CLR region) fun s => s.slcClrLatch region)

def execSlcClrCnt (region : Nat) (s : State) : Host.Outcome State Fault Refusal :=
  .next (s.managed fun s => s.whereFitted (s.bit Reg.ARC_GRADE 8) (Reg.SLC_CLR region) fun s => s.slcClrCnt region)

def execGrdClr (s : State) : Host.Outcome State Fault Refusal :=
  .next (s.managed fun s => s.grdClr)

def execSwgClr (region : Nat) (s : State) : Host.Outcome State Fault Refusal :=
  .next (s.managed fun s => s.swgClr region)

def execCruClr (region : Nat) (s : State) : Host.Outcome State Fault Refusal :=
  .next (s.managed fun s => s.cruClr region)

def execPlnClrLatch (region unit : Nat) (s : State) : Host.Outcome State Fault Refusal :=
  .next (s.managed fun s => s.plnClrLatch region unit)

def execPlnClrCnt (region unit : Nat) (s : State) : Host.Outcome State Fault Refusal :=
  .next (s.managed fun s => s.plnClrCnt region unit)

def execTnkClr (region unit : Nat) (s : State) : Host.Outcome State Fault Refusal :=
  .next (s.managed fun s => s.tnkClr region unit)

def execLdlClr (region unit : Nat) (s : State) : Host.Outcome State Fault Refusal :=
  .next (s.managed fun s => s.ldlClr region unit)

def execSpdClr (region : Nat) (s : State) : Host.Outcome State Fault Refusal :=
  .next (s.managed fun s => s.spdClr region)

def execMemClr (s : State) : Host.Outcome State Fault Refusal :=
  .next (s.managed fun s => s.memClr)

def execElsClr (s : State) : Host.Outcome State Fault Refusal :=
  .next (s.managed fun s => s.elsClr)

def execRadClr (s : State) : Host.Outcome State Fault Refusal :=
  .next (s.managed fun s => s.radClr)

def execCdcClr (s : State) : Host.Outcome State Fault Refusal :=
  .next (s.managed fun s => s.cdcClr)

def execWgtClr (s : State) : Host.Outcome State Fault Refusal :=
  .next (s.managed fun s => s.wgtClr)

def execSchClr (s : State) : Host.Outcome State Fault Refusal :=
  .next (s.managed fun s => s.schClr)

def execNetClr (s : State) : Host.Outcome State Fault Refusal :=
  .next (s.managed fun s => s.netClr)

def execFltClr (s : State) : Host.Outcome State Fault Refusal :=
  .next (s.managed fun s => s.fltClr)

def execLgrClr (s : State) : Host.Outcome State Fault Refusal :=
  .next (s.managed fun s => s.lgrClr)

def execTwnClr (s : State) : Host.Outcome State Fault Refusal :=
  .next (s.managed fun s => s.twnClr)

def execPwrClr (s : State) : Host.Outcome State Fault Refusal :=
  .next (s.managed fun s => s.pwrClr)

def execClkClr (s : State) : Host.Outcome State Fault Refusal :=
  .next (s.managed fun s => s.clkClr)

def execSecClr (s : State) : Host.Outcome State Fault Refusal :=
  .next (s.managed fun s => s.secClr)

def execMgtClr (s : State) : Host.Outcome State Fault Refusal :=
  .next (s.managed fun s => s.mgtClr)

def execNetPrbsClr (s : State) : Host.Outcome State Fault Refusal :=
  .next (s.managed fun s => s.netPrbsClr)

def execRadPrbsClr (s : State) : Host.Outcome State Fault Refusal :=
  .next (s.managed fun s => s.radPrbsClr)

def execTwnPrbsClr (s : State) : Host.Outcome State Fault Refusal :=
  .next (s.managed fun s => s.twnPrbsClr)

end Sys2Proof.Machine
end

