-- ==== Sys2Proof/Machine/Crossbar.lean ====
section
/-! DEFINITION. The region crossbar at the bank ports (R19, R21, R22, R26 to R31, R47): which requester the plan's static
table serves in a cycle, which cycles it leaves empty, and what a port does when two requesters meet. -/

namespace Sys2Proof.Machine

open Sys2Proof

/-- Whether an entry of the crossbar table holds its port in a cycle (R22). -/
def XbarEntry.holds (e : XbarEntry) (c : Nat) : Bool :=
  decide (e.start ≤ c) && (c - e.start) % (e.period + 1) == 0 && decide ((c - e.start) / (e.period + 1) < e.count)

/-- The cycles that an entry holds. -/
def XbarEntry.cycles (e : XbarEntry) : List Nat := (List.range e.count).map fun i => e.start + i * (e.period + 1)

/-- The requester that the table names for a bank port in a cycle (R22). -/
def Plan.portUser (p : Plan) (r port c : Nat) : Option Requester :=
  (p.xbar.find? fun e => e.region == r && e.port == port && e.holds c).map (·.who)

/-- The entries of one port. -/
def Plan.portEntries (p : Plan) (r port : Nat) : List XbarEntry :=
  p.xbar.filter fun e => e.region == r && e.port == port

/-- The cycles of a slot that the table leaves empty on a port (R27, R264). -/
def Plan.emptyCycles (p : Plan) (r port len : Nat) : Nat :=
  len - ((p.portEntries r port).map fun e => e.count).sum

/-- Whether two entries hold one port in one cycle. -/
def XbarEntry.meets (a b : XbarEntry) : Bool :=
  a.region == b.region && a.port == b.port && a.cycles.any b.holds

/-- Whether the table names at most one requester for each port and cycle (R22). -/
def xbarOk : List XbarEntry → Bool
  | [] => true
  | e :: es => !es.any e.meets && xbarOk es

/-- The rank of a requester at a bank port, lowest first: the spine stop, the sprue, the Ladles in ascending number (R29).
The rule names no place for the swap port and for the local ports of the other regions; they come last (DESIGN CHOICE, log
entry 116). -/
def Requester.rank : Requester → Nat
  | .spine => 0
  | .sprue => 1
  | .ladle l side => 2 + 2 * l + if side then 1 else 0
  | .swap => 1000
  | .local_ n => 1001 + n

/-- The requester that a port serves when two reach it in one cycle (R29). -/
def Requester.winner (a b : Requester) : Requester := if b.rank < a.rank then b else a

/-- Whether the running plan leaves a bank port empty in the present cycle (R27): the scrubber and the rotating self-test
use no other. -/
def State.portEmpty (s : State) (r port : Nat) : Bool :=
  !s.clock.running || (s.curPlan.portUser r port s.clock.cc).isNone

/-- The requester that loses a port retries in the next cycle (R29): a Ladle's stream and the swap port end one later. -/
def State.retry (s : State) (r : Nat) : Requester → State
  | .ladle l _ =>
      match (s.ladle r l).active with
      | some t => s.setActive r l (some { t with
          start := t.start + 1, doneAt := if t.finished then t.doneAt + 1 else t.doneAt })
      | none => s
  | .swap =>
      match SMap.read none s.els.swaps r with
      | some w => { s with els := { s.els with swaps := SMap.write none s.els.swaps r (some { w with finish := w.finish + 1 }) } }
      | none => s
  | _ => s

/-- Two requesters reach a bank port in one cycle (R29): the fault, and the retry of the one that the port does not serve. -/
def State.portClash (s : State) (r bank : Nat) (a b : Requester) : State :=
  (s.bankCollision r bank).retry r (if a.winner b = a then b else a)

end Sys2Proof.Machine
end

