-- ==== Sys2Proof/Machine/Ladle.lean ====
section
/-! DEFINITION. Ladles (R267 to R284, R295): arming a stream, the shadow, copies, and the ends of
streams. -/

namespace Sys2Proof.Machine

open Sys2Proof

/-- The location of a Ladle. -/
def ladleLoc (r l : Nat) : BitVec 64 := blockLoc r 0x04 l

/-- Main-path accesses of a copy (R267, R271, R277): of its data blocks' lines in the source or the destination, whichever
are more. -/
def State.copyAccesses (s : State) (r : Nat) (t : Stream) : Nat :=
  let lines (bs : List Block) : Nat := (accessEnds (s.places r bs 0 (blocksSize bs))).length
  max (lines (t.ofKind 0)) (lines (t.dblocks.filter fun b => b.kind = 0))

/-- When the last byte of a copy lands (R277): after its last local access, or its last HBM stripe. -/
def State.copyEnd (s : State) (r : Nat) (t : Stream) : Nat :=
  if t.readStripes.isEmpty then t.start + s.copyAccesses r t + 9 else s.clock.cc + 193

/-- A block list in scratchpad (R268, R270). -/
def State.blockList (s : State) (r a n : Nat) : List Block :=
  (List.range n).map fun i =>
    Block.ofBytes (SMap.readList 0 s.mem.pad (padKey r ((a + 32 * i) % 2 ^ 25)) 32)

/-- A COPY that carries hallmarks unchanged (R276): bytes and H-Cs move together; with CHKH each
granule is checked as it is read. -/
def State.copyWhole (s : State) (r l : Nat) (t : Stream) : State :=
  let n := blocksSize (t.ofKind 0)
  let ps := s.places r (t.ofKind 0) 0 n
  let qs := s.places r (t.dblocks.filter fun b => b.kind = 0) 0 n
  let gs := (dedupRuns ((ps.map Place.granule).zip (qs.map Place.granule))).filterMap fun e =>
    match e with
    | (some g, some h) => some (g, h)
    | _ => none
  let bad := if bitOf t.w3 30 then (gs.map (·.1)).filter fun g => !s.hallOk g else []
  let bs := (List.range n).map fun i =>
    if t.zeros.any fun z => decide (z.1 ≤ i) && decide (i < z.1 + z.2) then 0
    else s.byteAt (ps.getD i (.outside 0))
  let hs := gs.map fun e => (e.2, s.hallmark e.1)
  let out := rangeErrors ps + rangeErrors qs
  let abs := absentCount ps + absentCount qs
  let ecc := s.eccHits ps
  let s := s.hallFaults r l bad
  let s := s.rangeFaults r l t out
  let s := s.ladleErr r l 24 abs
  let s := s.bump Reg.SPN_ABSCNT 0 32 abs
  let s := ecc.foldl (fun s e => s.padEcc e.1 e.2) s
  let s := s.renewWords qs
  let s := s.putBytes ((qs.zip bs).filter fun e => match e.1 with
    | .pad _ _ => true
    | _ => false)
  let s := hs.foldl (fun s e => if e.1.1 = 0 then s.setHallmark e.1 e.2 else s) s
  let cause := if !bad.isEmpty then 0x0201 else if 0 < out then 0x0308
    else if ecc.any fun e => e.2 = 255 then 0x0102 else if 0 < abs then 0x030A else 0
  let s := if cause = 0 then s else s.voidBuf t.ctx r t.buf cause
  let x := s.ladle r l
  s.setLadle r l { x with
    bytes := x.bytes + n
    active := some { t with
      posData := n, finished := true, doneAt := s.copyEnd r t
      staged := (qs.zip bs).filterMap fun e => match e.1 with
        | .hbm a => some (a, e.2)
        | _ => none
      halls := hs.filterMap fun e => if e.1.1 = 1 then some (e.1.2, e.2) else none
      hallOk := t.hallOk && bad.isEmpty
      void := t.void || cause != 0, cause := if t.void then t.cause else cause } }

/-- A COPY through the staging buffer (R275, R276): its blocks are read as a read stream's and written
as a write stream's, converted between the two with CONV. What its conversion raises is in every flag word of the output,
and in one of its own where the source has none (R120; DEDUCED, log entry 114). -/
def State.copyStaged (s : State) (r l : Nat) (t : Stream) : State :=
  let p : Port := ⟨r, l, 0x3F⟩
  let before := (s.ladle r l).bytes
  let conv := bitOf t.w3 8
  let swap := conv && bitOf t.w3 9
  let mf := if swap then bitsOf t.w3 4 4 else bitsOf t.w3 0 4
  let ef := if swap then bitsOf t.w3 0 4 else bitsOf t.w3 4 4
  let w3 := putBits (putBits (putBits t.w3 9 1 0) 0 4 mf) 4 4 ef
  let s := s.setActive r l (some { t with w3 := w3 })
  let size := blocksSize (t.ofKind 0)
  let m := Fmt.get mf
  let f := Fmt.get ef
  let (e, s) :=
    if conv then s.takeElems p (size * 8 / m.bits) 0 f fun _ => none
    else
      let (k, s) := s.take p 0 size
      let (k1, s) := s.take p 1 (s.left p 1)
      let (k2, s) := s.take p 2 (s.left p 2)
      (⟨f, [], k1.bytes.map (·.toNat), ⟨[], []⟩,
        { ((k.join k1).join k2) with bytes := k.bytes }, k2.bytes.map (·.toNat), []⟩, s)
  let (k3, s) := s.take p 3 (s.left p 3)
  let t' := (s.ladle r l).active.getD t
  let s := s.setActive r l (some { t' with
    w3 := putBits (putBits t.w3 9 1 1) 8 1 0, blocks := t.dblocks, posData := 0, posExp := 0
    posScale := 0, posFlag := 0, finished := false })
  let s :=
    if conv then
      s.giveElems p f e.codes e.exps (· / 16) e.blocks
    else
      let s := s.give p 0 e.taken.bytes
      let s := s.give p 1 (e.exps.map fun x => BitVec.ofNat 8 x)
      s.give p 2 (e.codes.map fun x => BitVec.ofNat 8 x)
  let owed := if conv then (((s.ladle r l).active.getD t).stageOf r l).flags else 0
  let words := (List.range (k3.bytes.length / 2)).map fun j =>
    BitVec.ofNat 16 (leNat ((k3.bytes.drop (2 * j)).take 2)) ||| owed
  let words := if words.isEmpty && conv then [owed] else words
  let s := if conv then s.countFlags r (s.copyEnd r t) words else s
  let s := s.give p 3 (if conv && !(t.dblocks.filter fun b => b.kind = 3).isEmpty then flagBytes words else k3.bytes)
  let s := s.endWrite p (s.copyEnd r t - 2) (e.taken.hallOk && k3.hallOk) (e.taken.void || k3.void)
    (if e.taken.void then e.taken.cause else k3.cause)
  let t' := (s.ladle r l).active.getD t
  s.setLadle r l { active := some { t' with w3 := t.w3, blocks := t.blocks, finished := true }
                   shadow := (s.ladle r l).shadow, bytes := before + size }

/-- Moves a COPY's data, once every read stripe of it has had its slot. -/
def State.copyNow (s : State) (r l : Nat) : State :=
  match (s.ladle r l).active with
  | none => s
  | some t => if t.carries then s.copyWhole r l t else s.copyStaged r l t

/-- A stream starts at a cycle (R277, R280): one with every block empty completes in the next cycle, and
a COPY that waits for no HBM stripe moves. -/
def State.beginStream (s : State) (r l : Nat) (t : Stream) (at_ : Nat) : State :=
  let empty := decide (blocksSize (t.blocks ++ t.dblocks) = 0)
  let s := s.setActive r l (some { t with
    start := at_, finished := empty, doneAt := if empty then at_ + 1 else 0 })
  if t.isCopy && !empty && t.readStripes.isEmpty then s.copyNow r l else s

/-- The end of a Ladle's active stream (R277): DONE signals its buffer in the following cycle, in every region
that the stream wrote, and the Ladle holds no active stream. -/
def State.endStream (s : State) (r l : Nat) : State :=
  match (s.ladle r l).active with
  | none => s
  | some t =>
      if !t.isDone || t.stopping then s
      else
        let s := s.closeDone r l t.doneAt
        let s := s.setActive r l none
        let dst := if t.isCopy then t.dblocks else t.blocks
        let far := ((dst.filter fun b => b.space = 2).map (·.region)).dedup.filter fun d => d != r
        if !bitOf t.w4 12 then s
        else if t.ctx.isSome || !(t.isCopy || t.writes) then s.signalAt t.ctx r t.buf (t.doneAt + 1)
        else far.foldl (fun s d => s.signalAt none d t.buf (t.doneAt + 1)) (s.signalAt none r t.buf (t.doneAt + 1))

/-- The re-arm in the shadow becomes active in the cycle after `at_` (R281). -/
def State.promoteShadow (s : State) (r l at_ : Nat) : State :=
  let x := s.ladle r l
  match x.active, x.shadow with
  | none, some t => (s.setLadle r l { x with shadow := none }).beginStream r l t (at_ + 1)
  | _, _ => s

/-- The soft errors that an ARM's operand places in its region's scratchpad: the word's number and its
state, 1 plus the bit for a single error, 255 for a double one (R262). -/
def State.plantErrors (s : State) (r : Nat) (es : List (Nat × Nat)) : State :=
  s.markWords (es.map fun e => (r * 2 ^ 22 + e.1 % 2 ^ 22, e.2))

/-- The conversion stage of an ARM reads its channels as the ARM issues (R127, R130, R275), after the push of a stream that
completes by then. -/
def State.openStage (s : State) (c : Cmd) (t : Nat) : Option Stage × State :=
  if bitOf c.w.w3 8 then
    let f := Fmt.get (if bitOf c.w.w3 9 then bitsOf c.w.w3 0 4 else bitsOf c.w.w3 4 4)
    let (cs, s) := (s.closeDone c.region c.unit t).openChans c.region (6 + c.unit) (bitsOf c.w.w3 13 8)
      (bitsOf c.w.w3 21 8 + 1) f t
    (some { set := cs }, s)
  else (none, s)

/-- ARM (R268 to R284): starts a stream, or puts a re-arm into the shadow. -/
def State.arm (s : State) (c : Cmd) (bank : Option (Nat × Requester)) (spine : Option SpineFault) : State :=
  let r := c.region
  let l := c.unit
  let loc := ladleLoc r l
  let stopping := match (s.ladle r l).active with
    | some t => t.stopping
    | none => false
  if stopping && c.elastic && s.engineLive r && !s.exact then
    s.onCtx c.ctx fun x =>
      { x with state := .blocked, cause := .ladle, blockedSince := max s.clock.cc c.issue }
  else
    let leave := bitsOf c.w.w5 0 12
    let (ok, s) := if leave = 0 then (true, s) else s.takeLeave c (2 ^ (10 + l)) leave
    if !ok then s
    else
      let (i, s) := s.issue c loc 0 (2 ^ (10 + l))
      if !i.go then s
      else
        let s := s.plantErrors r c.ecc
        let s := match spine with
          | some f => s.spineFault i.ctx f
          | none => s
        let buf := bitsOf c.w.w4 0 12
        let s := match i.ctx with
          | some k => if bitOf c.w.w4 12 then s.clearBuf k buf else s
          | none => s
        let s := s.useLeave c i.t
        let s := s.track c i 0 i.t []
        let s := if i.void then s.voidBuf i.ctx r buf i.cause else s
        let (ga, gn) := (32 * bitsOf c.w.w2 0 20, bitsOf c.w.w2 20 8)
        let (da, dn) := (32 * bitsOf c.w.w6 0 20, bitsOf c.w.w6 20 8)
        let copy := bitsOf c.w.w4 16 6 == 0x3F
        let listed := s.eccHits (((List.range (32 * gn)).map fun o => Place.pad r (ga + o)) ++
          (List.range (if copy then 32 * dn else 0)).map fun o => Place.pad r (da + o))
        let s := listed.foldl (fun s e => s.padEcc e.1 e.2) s
        let lost := listed.any fun e => e.2 = 255
        let s := if lost then s.voidBuf i.ctx r buf 0x0102 else s
        let (stage, s) := s.openStage c i.t
        let t : Stream :=
          { w0 := c.w.w0, w1 := c.w.w1, w2 := c.w.w2, w3 := c.w.w3, w4 := c.w.w4, w5 := c.w.w5
            w6 := c.w.w6, planned := c.issue, start := i.t, blocks := s.blockList r ga gn
            dblocks := if copy then s.blockList r da dn else []
            void := i.void || lost, cause := if i.void then i.cause else if lost then 0x0102 else 0
            ctx := i.ctx, shadow := c.shadow, parity := c.parity, stage := stage, map := c.map }
        let x := s.ladle r l
        let busy := match x.active with
          | some a => !a.isDone || decide (i.t ≤ a.doneAt)
          | none => false
        let s := if busy then s else (s.endStream r l).promoteShadow r l (s.clock.cc - 1)
        let x := s.ladle r l
        let s := if x.active.isNone && x.shadow.isNone then s.beginStream r l t i.t
        else if x.shadow.isNone then s.setLadle r l { x with shadow := some t }
        else
          let s := s.ladleErr r l 0 1
          let s := s.raise 0x0309 .detected loc c.w.w0.toNat (c.issue % 2 ^ 21)
          if i.ctx.isSome then s.voidBuf i.ctx r buf 0x0309 else s
        match bank with
        | some (b, q) => s.portClash r b (.ladle l false) q
        | none => s

/-- A cancelled stream's drain count reaches zero (R284): the Ladle is released, and a context whose ARM
waited for it can run. -/
def State.releaseLadle (s : State) (r l : Nat) : State :=
  match (s.ladle r l).active with
  | none => s
  | some t =>
      if !t.stopping then s
      else
        let s := s.setActive r l none
        (List.range 64).foldl (fun s k =>
          let x := s.ctx k
          if x.state = .blocked && x.cause = .ladle && x.image.home = r then
            s.onCtx k fun x => { x with state := .runnable, cause := .none }
          else s) s

/-- A remote read that its reply did not reach (R279): `n` bytes at offset `offset` of the stream's data
read as zeros, the buffer is void; `discarded` replies of a fenced region were dropped (R46). -/
def State.absentReply (s : State) (r l offset n discarded : Nat) : State :=
  let s := s.bump Reg.SPN_DISCNT 0 32 discarded
  match (s.ladle r l).active with
  | none => s
  | some t =>
      let s := s.ladleErr r l 24 1
      let s := s.bump Reg.SPN_ABSCNT 0 32 1
      let s := s.voidBuf t.ctx r t.buf 0x030A
      s.setActive r l (some { t with
        zeros := t.zeros ++ [(offset, n)], void := true, cause := if t.void then t.cause else 0x030A })

def execArm (c : Cmd) (bank : Option (Nat × Requester)) (spine : Option SpineFault) (s : State) :
    Host.Outcome State Fault Refusal :=
  admitted (Instr.arm c bank spine).wf (s.arm c bank spine)

def execShadowBecomesActive (region ladle : Nat) (s : State) : Host.Outcome State Fault Refusal :=
  .next (((s.drainsTo s.clock.cc).endStream region ladle).promoteShadow region ladle s.clock.cc)

def execStreamDone (region ladle : Nat) (s : State) : Host.Outcome State Fault Refusal :=
  .next ((s.drainsTo s.clock.cc).endStream region ladle)

def execAbsent (region ladle offset n discarded : Nat) (s : State) :
    Host.Outcome State Fault Refusal :=
  .next (s.absentReply region ladle offset n discarded)

def execLadleRelease (region ladle : Nat) (s : State) : Host.Outcome State Fault Refusal :=
  .next (s.releaseLadle region ladle)

end Sys2Proof.Machine
end

