-- ==== Sys2Proof/Machine/Elastic.lean ====
section
/-! DEFINITION. The share scheduler, residency and swaps, the ends of elastic windows and the elastic
sequence (R312 to R332). -/

namespace Sys2Proof.Machine

open Sys2Proof

/-- The number of engines in a mask of ENGINES (R312). -/
def engineCount (mask : Nat) : Nat := ((List.range 19).filter fun i => mask.testBit i).length

/-- The share class of a client (R323). -/
def State.shareClass (s : State) (client : Nat) : Nat :=
  s.fld (Reg.ELS_CLMAP (client % 64 / 8)) (4 * (client % 8)) 4

/-- The weight of a share class (R323). -/
def State.weightOf (s : State) (cl : Nat) : Nat := s.fld (Reg.ELS_WEIGHT (cl / 4)) (8 * (cl % 4)) 8

/-- A class's deficit in a region (R323). -/
def State.deficit (s : State) (r cl : Nat) : Int := SMap.read 0 s.els.deficits (r * 16 + cl)

/-- The state with a deficit replaced. -/
def State.setDeficit (s : State) (r cl : Nat) (d : Int) : State :=
  { s with els := { s.els with deficits := SMap.write 0 s.els.deficits (r * 16 + cl) d } }

/-- Charges engine cycles to a class (R324, R328); the deficit is a signed 32-bit value. -/
def State.charge (s : State) (r cl n : Nat) : State :=
  s.setDeficit r cl (max (-(2 ^ 31)) (s.deficit r cl - n))

/-- The contexts homed in a region. -/
def State.homed (s : State) (r : Nat) : List Nat :=
  (List.range 64).filter fun k => (s.ctx k).image.home = r && !(s.ctx k).image.list.isEmpty

/-- The next command of a context. -/
def Ctx.next (x : Ctx) : Option Cmd := x.image.list[x.pos]?

/-- Whether the inputs of a context's next command are complete; for a context out of residence its
data-plane inputs count (R321). -/
def State.inputsReady (s : State) (r k : Nat) : Bool :=
  let x := s.ctx k
  match x.next with
  | none => true
  | some c => c.inputs.all fun i =>
      (!x.resident && decide (0xC00 ≤ i.1)) || s.inputDone r (some k) i

/-- Brings the state of a context up to date (R321): a blocked one whose inputs have come is runnable, a
runnable one whose inputs have not is blocked. -/
def State.refreshCtx (s : State) (r t k : Nat) : State :=
  let x := s.ctx k
  if x.queue.isEmpty then s.onCtx k fun x => { x with state := .idle, cause := .none }
  else
    let ready := s.inputsReady r k
    match x.state with
    | .idle => s.onCtx k fun x =>
        if ready then { x with state := .runnable }
        else { x with state := .blocked, cause := .buffer, blockedSince := t }
    | .blocked =>
        if x.cause = .buffer && ready then
          s.onCtx k fun x => { x with state := .runnable, cause := .none }
        else s
    | .runnable =>
        if ready || decide (t < x.lastDone) then s
        else s.onCtx k fun x => { x with state := .blocked, cause := .buffer, blockedSince := t }
    | .running => s

/-- Ends a running-set membership and charges its class (R324, R326). `slice` is whether the slice has
ended: the overrun then shortens the class's next slices. -/
def State.endMember (s : State) (r k : Nat) (slice : Bool) : State :=
  let x := s.ctx k
  match x.member with
  | none => s
  | some start =>
      let cl := s.shareClass x.image.client
      let s := s.charge r cl (engineCount x.image.mask * (x.lastDone - start))
      let s := s.onCtx k fun x =>
        { x with member := none, state := if x.state = .running then .runnable else x.state }
      if slice then
        let over_ := x.lastDone - x.sliceEnd
        let s := s.bump (winKey r Reg.ELS_OVR) 0 32 over_
        let key := r * 16 + cl
        { s with els := { s.els with
            carry := SMap.write 0 s.els.carry key (SMap.read 0 s.els.carry key + over_) } }
      else s

/-- Begins a membership (R326): the slice is shorter by the overrun that its class carries. -/
def State.beginMember (s : State) (r t k : Nat) : State :=
  let x := s.ctx k
  let key := r * 16 + s.shareClass x.image.client
  let full := s.fld Reg.ELS_CFG 16 16
  let cut := min full (SMap.read 0 s.els.carry key)
  let s := { s with els := { s.els with
    carry := SMap.write 0 s.els.carry key (SMap.read 0 s.els.carry key - cut) } }
  s.onCtx k fun x =>
    { x with member := some t, sliceEnd := t + (full - cut), lastDone := t, state := .running }

/-- Whether context `a` goes before context `b`: larger deficit, lower class, lower number (R325, R329). -/
def State.before (s : State) (r a b : Nat) : Bool :=
  let ca := s.shareClass (s.ctx a).image.client
  let cb := s.shareClass (s.ctx b).image.client
  let da := s.deficit r ca
  let db := s.deficit r cb
  decide (db < da) || (decide (da = db) && (decide (ca < cb) || (decide (ca = cb) && decide (a < b))))

/-- The best of a list of contexts. -/
def State.bestOf (s : State) (r : Nat) : List Nat → Option Nat
  | [] => none
  | k :: ks => match s.bestOf r ks with
    | none => some k
    | some b => if s.before r k b then some k else some b

/-- The contexts that a decision may add at a cycle (R322, R325). -/
def State.candidates (s : State) (r t : Nat) : List Nat :=
  let used := (s.homed r).foldl (fun m k =>
    if (s.ctx k).member.isSome then m ||| (s.ctx k).image.mask else m) 0
  (s.homed r).filter fun k =>
    let x := s.ctx k
    x.resident && x.state == .runnable && decide (x.lastDone ≤ t) && x.image.mask &&& used == 0
      && (s.openWindow r t x.image.mask).isSome

/-- Adds members until nothing more fits. -/
def State.fillSet (s : State) (r t : Nat) : Nat → State
  | 0 => s
  | n + 1 => match s.bestOf r (s.candidates r t) with
    | none => s
    | some k => (s.beginMember r t k).fillSet r t n

/-- A decision of a region's share scheduler at a cycle (R325): members that have blocked or become idle
leave, and the running set is filled. -/
def State.decision (s : State) (r t : Nat) : State :=
  if s.exact || !s.engineLive r then s
  else
    let s := s.settleSignals t
    let s := (s.homed r).foldl (fun s k => s.refreshCtx r t k) s
    let s := (s.homed r).foldl (fun s k =>
      let x := s.ctx k
      if x.member.isSome && x.state != .running then s.endMember r k false else s) s
    s.fillSet r t 8

/-- An Anvil without the data plane's stationary tile (R169). -/
def Anvil.dropDataTile (a : Anvil) : Anvil :=
  { a with tile := a.tile.filter fun t => t.ctx.isSome }

/-- The Anvils of a window hold no tile of the data plane (R169). -/
def State.dropTiles (s : State) (r mask : Nat) : State :=
  if 8 ≤ r then s
  else
    let keep (e : Nat × Anvil) : Nat × Anvil :=
      if e.1 / 4 = r && mask.testBit (e.1 % 4) then (e.1, e.2.dropDataTile) else e
    { s with anvils := (s.anvils.map keep).filter fun e => e.2 != {} }

/-- A window starts (R165, R169, R325): its Anvils hold no tile for the data plane any more, and the
scheduler decides. -/
def State.windowStart (s : State) (r start : Nat) : State :=
  let ws := ((s.curPlan.windows.filter fun w => w.1 = r && w.2.start = start && w.2.parity)).map (·.2)
  if !s.engineLive r || ws.isEmpty then s
  else
    let s := s.reach start
    let mask := ws.foldl (fun m w => m ||| w.engines) 0
    (s.dropTiles r mask).decision r start

/-- A slice ends (R326). -/
def State.sliceEnded (s : State) (r k : Nat) : State :=
  let x := s.ctx k
  if s.exact || x.member.isNone || x.image.home != r then s
  else
    let s := s.reach x.sliceEnd
    (s.endMember r k true).decision r x.sliceEnd

/-- A member reaches its window's guard (R314, R326). -/
def State.guardReached (s : State) (r k t : Nat) : State :=
  let x := s.ctx k
  if s.exact || x.member.isNone || x.image.home != r || (s.openWindow r (t + 1) x.image.mask).isSome then
    s
  else (s.reach t).endMember r k false

/-! ## Residency and swaps (R327 to R330) -/

/-- The saved size of a context (R327). -/
def CtxImage.size (i : CtxImage) : Nat :=
  512 + 1024 * i.erows.length + 16384 * i.tiles.length + i.areaLen

/-- The bytes of an accumulator row: its 64 entries in column order. -/
def State.rowBytes (s : State) (r a row : Nat) : List Byte :=
  let v := SMap.read {} s.anvils (r * 4 + a)
  (List.range 64).flatMap fun j => leBytes 16 (SMap.read 0 v.entries (row * 64 + j)).toNat

/-- The bytes of a Planisher tile register. -/
def State.tileBytes (s : State) (r p tile : Nat) : List Byte :=
  let v := SMap.read {} s.planishers (r * 2 + p)
  (List.range 4096).flatMap fun j => leBytes 4 (SMap.read 0 v.elems (tile * 4096 + j)).toNat

/-- The hallmarks of a context's scratchpad area move with its granules (R263, R327): from scratchpad to HBM, or
back (log entry 44). -/
def State.moveHalls (s : State) (r : Nat) (i : CtxImage) (out : Bool) : State :=
  let a := (i.homeAddr + i.size - i.areaLen) / 256
  let b := padKey r i.areaAddr / 256
  (List.range ((i.areaLen + 255) / 256)).foldl (fun s g =>
    if out then s.setHallmark (1, a + g) (s.hallmark (0, b + g))
    else s.setHallmark (0, b + g) (s.hallmark (1, a + g))) s

/-- Saves a context's state to HBM (R327): its header, whose bytes no rule lays out and are free values, its
accumulator rows, its tile registers and its scratchpad area (log entry 44). -/
def State.saveCtx (s : State) (r k : Nat) : State :=
  let i := (s.ctx k).image
  let (vs, s) := s.drawFor true 512
  let head := vs.map (·.setWidth 8)
  let bs := (i.erows.flatMap fun e => s.rowBytes r e.1 e.2) ++
    (i.tiles.flatMap fun e => s.tileBytes r e.1 e.2) ++
    SMap.readList 0 s.mem.pad (padKey r i.areaAddr) i.areaLen
  let accs := i.erows.map fun e =>
    SMap.read ({} : AccRow) (SMap.read {} s.anvils (r * 4 + e.1)).rows e.2
  let plns := i.tiles.flatMap fun e => (List.range 64).map fun j =>
    SMap.read ({} : PlnRow) (SMap.read {} s.planishers (r * 2 + e.1)).rows (e.2 * 64 + j)
  let s := { s with
    mem := { s.mem with hbm := SMap.writeList 0 s.mem.hbm i.homeAddr (head ++ bs) } }
  (s.moveHalls r i true).onCtx k fun x => { x with accs := accs, plns := plns, resident := false }

/-- Restores one accumulator row from 1,024 bytes. -/
def State.loadRow (s : State) (r a row : Nat) (keep : AccRow) (bs : List Byte) : State :=
  let v := SMap.read {} s.anvils (r * 4 + a)
  let es := (List.range 64).map fun j => BitVec.ofNat 128 (leNat ((bs.drop (16 * j)).take 16))
  let v := { v with entries := SMap.writeList 0 v.entries (row * 64) es
                    rows := SMap.write {} v.rows row keep }
  { s with anvils := SMap.write {} s.anvils (r * 4 + a) v }

/-- Restores one tile register from 16 KiB. -/
def State.loadTile (s : State) (r p tile : Nat) (keep : List PlnRow) (bs : List Byte) : State :=
  let v := SMap.read {} s.planishers (r * 2 + p)
  let es := (List.range 4096).map fun j => BitVec.ofNat 32 (leNat ((bs.drop (4 * j)).take 4))
  let v := { v with elems := SMap.writeList 0 v.elems (tile * 4096) es
                    rows := SMap.writeList {} v.rows (tile * 64) keep }
  { s with planishers := SMap.write {} s.planishers (r * 2 + p) v }

/-- Restores a context's state from HBM (R327). -/
def State.restoreCtx (s : State) (r k slot : Nat) : State :=
  let x := s.ctx k
  let i := x.image
  let a0 := i.homeAddr + 512
  let a1 := a0 + 1024 * i.erows.length
  let a2 := a1 + 16384 * i.tiles.length
  let s := (List.range i.erows.length).foldl (fun s n =>
    let e := i.erows.getD n (0, 0)
    s.loadRow r e.1 e.2 (x.accs.getD n {}) (SMap.readList 0 s.mem.hbm (a0 + 1024 * n) 1024)) s
  let s := (List.range i.tiles.length).foldl (fun s n =>
    let e := i.tiles.getD n (0, 0)
    s.loadTile r e.1 e.2 ((x.plns.drop (64 * n)).take 64)
      (SMap.readList 0 s.mem.hbm (a1 + 16384 * n) 16384)) s
  let area := SMap.readList 0 s.mem.hbm a2 i.areaLen
  let s := { s with mem := { s.mem with
    pad := SMap.writeList 0 s.mem.pad (padKey r i.areaAddr) area } }
  (s.moveHalls r i false).onCtx k fun x => { x with resident := true, slot := slot }

/-- The swap in progress in a region. -/
def State.swapping (s : State) (r : Nat) : Option Swapping := SMap.read none s.els.swaps r

/-- The state with a region's swap replaced. -/
def State.setSwap (s : State) (r : Nat) (x : Option Swapping) : State :=
  { s with els := { s.els with swaps := SMap.write none s.els.swaps r x } }

/-- The resident contexts of a region. -/
def State.residents (s : State) (r : Nat) : List Nat := (s.homed r).filter fun k => (s.ctx k).resident

/-- The context that a full region evicts (R329): the lowest idle one, else the one that has been blocked
longest. -/
def State.evictee (s : State) (r : Nat) : Option Nat :=
  let rs := s.residents r
  match rs.find? fun k => (s.ctx k).state == .idle with
  | some k => some k
  | none => rs.foldl (fun b k => match b with
      | none => some k
      | some j => if (s.ctx k).blockedSince < (s.ctx j).blockedSince then some k else some j) none

/-- The cycles that a swap takes at least (R328). -/
def State.swapCycles (s : State) (out : Option Nat) (into : Nat) : Nat :=
  let up (n : Nat) := (n + 63) / 64
  128 + (match out with
    | some k => up (s.ctx k).image.size
    | none => 0) + up (s.ctx into).image.size

/-- Starts a swap. -/
def State.startSwap (s : State) (r t cycles : Nat) (out : Option Nat) (into : Nat) : State :=
  s.setSwap r (some ⟨out, into, t, t + max cycles (s.swapCycles out into)⟩)

/-- Whether a cycle lies in an elastic window of a region (R312, R328). -/
def State.inWindow (s : State) (r t : Nat) : Bool :=
  s.curPlan.windows.any fun w => w.1 == r && w.2.parity && decide (w.2.start ≤ t) && decide (t < w.2.stop)

/-- The swap that a region's scheduler makes at a cycle (R328, R329), of `cycles` cycles. -/
def State.trySwap (s : State) (r t cycles : Nat) : State :=
  if s.exact || !s.engineLive r || (s.swapping r).isSome || !s.inWindow r t then s
  else
    let s := s.settleSignals t
    let s := (s.homed r).foldl (fun s k => s.refreshCtx r t k) s
    let waiting := (s.homed r).filter fun k =>
      !(s.ctx k).resident && (s.ctx k).state == .runnable
    match s.bestOf r waiting with
    | none => s
    | some into =>
        let rs := s.residents r
        if rs.length < 8 then (s.reach t).startSwap r t cycles none into
        else if rs.all fun k => ((s.ctx k).state == .blocked || (s.ctx k).state == .idle)
            && decide ((s.ctx k).lastDone ≤ t) then
          match s.evictee r with
          | none => s
          | some o => (s.reach t).startSwap r t cycles (some o) into
        else s

/-- The lowest free resident position. -/
def State.freePosition (s : State) (r : Nat) : Nat :=
  ((List.range 8).find? fun p => (s.residents r).all fun k => (s.ctx k).slot != p).getD 0

/-- A swap completes (R327, R328). -/
def State.swapComplete (s : State) (r : Nat) : State :=
  match s.swapping r with
  | none => s
  | some w =>
      let s := s.reach w.finish
      let slot := match w.out with
        | some o => (s.ctx o).slot
        | none => s.freePosition r
      let s := match w.out with
        | some o => s.saveCtx r o
        | none => s
      let s := s.restoreCtx r w.into slot
      let s := s.setSwap r none
      let i := (s.ctx w.into).image
      let s := s.charge r (s.shareClass i.client) (engineCount i.mask * (w.finish - w.start))
      let s := s.bump (winKey r Reg.ELS_SWAPS) 0 16 1
      let s := s.bumpIf (w.out.isSome && !s.exact) (winKey r Reg.ELS_SWAPS) 16 16 1
      s.decision r w.finish

/-! ## Window cuts (R315, R330) -/

/-- The class of a cut. -/
def State.cutClass (s : State) : FaultClass := if s.exact then .detected else .masked

/-- The bit of ENGINES of a running command. -/
def Running.engine (e : Running) : Nat :=
  match e.cls with
  | 1 => e.unit
  | 3 => 4 + e.unit
  | 4 => 6 + e.unit
  | 5 => 10 + e.unit
  | 6 => 16
  | 7 => 17
  | 2 => 18
  | _ => e.unit

/-- The location of a CODE unit: 16 LDPC decoders, 8 encoders, 4 polar units, then the CRC units. -/
def codeLoc (u : Nat) : BitVec 64 :=
  if u < 16 then blockLoc 10 0x20 u else if u < 24 then blockLoc 10 0x21 (u - 16)
  else if u < 28 then blockLoc 10 0x22 (u - 24) else blockLoc 10 0x24 (u - 28)

/-- The location of a running command's engine (R51). -/
def State.runningLoc (s : State) (e : Running) : BitVec 64 :=
  match e.cls with
  | 1 => blockLoc e.region 0x01 (s.physAnvil e.region e.unit)
  | 2 => blockLoc e.region 0x07 0
  | 3 => blockLoc e.region 0x02 e.unit
  | 4 => blockLoc e.region 0x03 e.unit
  | 5 => blockLoc e.region 0x04 e.unit
  | 6 => blockLoc e.region 0x05 0
  | 7 => blockLoc e.region 0x06 0
  | 8 => blockLoc e.region 0x10 e.unit
  | 9 => codeLoc e.unit
  | 0xA => if e.unit < 8 then blockLoc 9 0x18 e.unit else blockLoc 9 0x19 0
  | _ => blockLoc 12 0x31 0

/-- One cut command: counted, raised, its outputs void. -/
def State.cutCommand (s : State) (e : Running) : State :=
  let s := s.bump (winKey e.region Reg.ELS_CUTS) 0 16 1
  let s := s.raise 0x0501 s.cutClass (s.runningLoc e) e.w0.toNat (e.planned % 2 ^ 21)
  s.voidOuts e.ctx e.outs 0x0501

/-- A Ladle whose elastic stream is cut at a window end (R284, R315). -/
def State.cutStream (s : State) (r l : Nat) : State :=
  match (s.ladle r l).active with
  | none => s
  | some t =>
      if t.ctx.isNone || t.stopping || t.isDone then s
      else
        let s := s.bump (winKey r Reg.ELS_CUTS) 0 16 1
        let s := s.raise 0x0501 s.cutClass (ladleLoc r l) t.w0.toNat (t.planned % 2 ^ 21)
        let s := s.voidBuf t.ctx r t.buf 0x0501
        s.setLadle r l { s.ladle r l with active := some t.cancel, shadow := none }

/-- The end of a window (R315, R330). -/
def State.windowCut (s : State) (r t : Nat) : State :=
  let ws := ((s.curPlan.windows.filter fun w => w.1 = r && w.2.stop = t && w.2.parity)).map (·.2)
  if !s.engineLive r || ws.isEmpty then s
  else
    let s := s.reach t
    let mask := ws.foldl (fun m w => m ||| w.engines) 0
    let hit (e : Running) : Bool := e.region = r && e.ctx.isSome && mask.testBit e.engine
    let late := s.running.filter fun e => hit e && decide (t < e.finish)
    let s := late.foldl (fun s e => s.cutCommand e) s
    let s := { s with running := s.running.filter fun e => !(hit e && decide (t < e.finish)) }
    let s := if r < 8 then (List.range 6).foldl (fun s l =>
      if mask.testBit (10 + l) then s.cutStream r l else s) s else s
    let s := (s.homed r).foldl (fun s k =>
      let x := s.ctx k
      if x.member.isSome && x.image.mask &&& mask != 0 then
        (s.onCtx k fun x => { x with lastDone := min x.lastDone t }).endMember r k false else s) s
    match s.swapping r with
    | none => s
    | some w =>
        if w.finish ≤ t then s
        else
          let s := s.bump (winKey r Reg.ELS_CUTS) 0 16 1
          let s := s.raise 0x0501 s.cutClass (regionLoc r) 0 (w.start % 2 ^ 21)
          s.setSwap r none

/-! ## The elastic sequence (R331, R332) -/

/-- An entry of the running plan's elastic sequence acts at its cycle. -/
def State.sequenceEntry (s : State) (r index cycles : Nat) : State :=
  let es := ((s.curPlan.eseq.filter fun e => e.1 = r)).map (·.2)
  match es[index]? with
  | none => s
  | some e =>
      if !s.exact || !s.engineLive r then s
      else
        let v := e.toNat
        let t := v % 2 ^ 21
        let k := v / 2 ^ 21 % 64
        let s := s.reach t
        if oddOnes 64 v then s.raise 0x0503 .detected (regionLoc r) 0 0
        else if e.getLsbD 35 then
          if (s.swapping r).isSome then s
          else
            let slot := v / 2 ^ 36 % 8
            s.startSwap r t cycles ((s.residents r).find? fun j => (s.ctx j).slot == slot) k
        else s.onCtx k fun x => { x with due := some (v / 2 ^ 27 % 256, t), duePos := v / 2 ^ 39 % 4 }

def execElasticWindowStart (region start : Nat) (s : State) : Host.Outcome State Fault Refusal :=
  .next (s.windowStart region start)

def execSchedulerDecision (region cycle : Nat) (s : State) : Host.Outcome State Fault Refusal :=
  .next ((s.reach cycle).decision region cycle)

def execSliceEnd (region context : Nat) (s : State) : Host.Outcome State Fault Refusal :=
  .next (s.sliceEnded region context)

def execGuardReached (region context cycle : Nat) (s : State) : Host.Outcome State Fault Refusal :=
  .next (s.guardReached region context cycle)

def execSwap (region cycle cycles : Nat) (s : State) : Host.Outcome State Fault Refusal :=
  .next (s.trySwap region cycle cycles)

def execSwapComplete (region : Nat) (s : State) : Host.Outcome State Fault Refusal :=
  .next (s.swapComplete region)

def execElasticWindowCut (region cycle : Nat) (s : State) : Host.Outcome State Fault Refusal :=
  .next (s.windowCut region cycle)

def execElasticSequenceEntry (region index cycles : Nat) (s : State) :
    Host.Outcome State Fault Refusal :=
  .next (s.sequenceEntry region index cycles)

end Sys2Proof.Machine
end

