-- ==== Sys2Proof/Machine/Tinker.lean ====
section
/-! DEFINITION. The Tinker commands (R245 to R257) but REENC: DESC, LOOKUP, SORT, SELECT, PACK, CRC,
SCRAMBLE, BATCH and FILL. -/

namespace Sys2Proof.Machine

open Sys2Proof

/-- A Tinker. -/
def State.tinker (s : State) (r t : Nat) : Tinker := SMap.read {} s.tinkers (r * 4 + t)

/-- The state with a Tinker replaced. -/
def State.setTinker (s : State) (r t : Nat) (x : Tinker) : State :=
  { s with tinkers := SMap.write {} s.tinkers (r * 4 + t) x }

/-- The location of a Tinker. -/
def tinkerLoc (c : Cmd) : BitVec 64 := blockLoc c.region 0x03 c.unit

/-- The bit of a Tinker in ENGINES (R312). -/
def tinkerBit (c : Cmd) : Nat := 2 ^ (6 + c.unit)

/-- COUNT of word 2 (R246). -/
def Cmd.count (c : Cmd) : Nat := bitsOf c.w.w2 8 16

/-- The little-endian bytes of a word. -/
def wordBytes (w : Word) : List Byte := leBytes 4 w.toNat

/-- The little-endian words of bytes. -/
def bytesWords (bs : List Byte) : List Word :=
  (List.range (bs.length / 4)).map fun i => BitVec.ofNat 32 (leNat ((bs.drop (4 * i)).take 4))

/-- The input and output ports of a Tinker command (R246, R269). -/
def Cmd.tinkerIn (c : Cmd) : Port := ⟨c.region, bitsOf c.w.w2 0 4, 0x14 + 2 * c.unit⟩
def Cmd.tinkerOut (c : Cmd) : Port := ⟨c.region, bitsOf c.w.w2 4 4, 0x15 + 2 * c.unit⟩

/-- The self-check of a Tinker's two datapaths (R257). -/
def State.tinkerCheck (s : State) (c : Cmd) (t : Nat) : State :=
  match c.fail with
  | none => s
  | some (p, _) =>
      let k := Reg.TNK_SELF c.region c.unit
      s.laters t c.region
        [.first k 0 16 (Reg.TNK_SELFSLOT c.region c.unit) (BitVec.ofNat 32 s.slot), .count k 0 16 1,
         .report 0x03 c.unit 0x0208 (tinkerLoc c) (p % 64) (t % 2 ^ 21)]

/-- One Tinker command (R246, R247, R257): it reads `need` bytes, its effect gives the output bytes, and
it completes `dur` cycles after its issue. With COUNT = 0 it completes at t + 1 without an effect unless
`always` holds: a BATCH that closes and a FILL run as ever (R255, R256). -/
def State.tinkerRun (s : State) (c : Cmd) (always : Bool) (need dur : Nat)
    (effect : Nat → State → List Byte → List Byte × State) : State :=
  let (i, s) := s.issue c (tinkerLoc c) (s.tinker c.region c.unit).free (tinkerBit c)
  if !i.go then s
  else
    let outs := s.outsOf c.tinkerOut
    let r := c.region
    if c.count = 0 && !always then
      let s := s.voidOuts i.ctx (if i.void then outs else []) i.cause
      let s := s.setTinker r c.unit { s.tinker r c.unit with free := i.t + 1 }
      s.track c i 0 (i.t + 1) outs
    else
      let (k, s) := if need = 0 then (({} : Taken), s) else s.take c.tinkerIn 0 need
      let s := s.later i.t r (.count (Reg.TNK_SELF r c.unit) 16 16 k.bad)
      let (out, s) := effect i.t s k.bytes
      let s := s.tinkerCheck c i.t
      let (unc, s) := s.eccReads c 0x03 c.unit i.t
      let frz := delayCycles c.dry + delayCycles c.backup + (if k.short then s.slotLen - i.t else 0)
      let s := s.waitBreach i c (tinkerLoc c) frz
      let finish := i.t + dur + frz
      let s := s.give c.tinkerOut 0 out
      let void := i.void || k.void || c.fail.isSome || unc || s.freezeVoids i frz
      let cause := if i.void then i.cause else if k.void then k.cause
        else if c.fail.isSome then 0x0208 else if unc then 0x0102 else 0x0301
      let s := s.endWrite c.tinkerOut finish (k.hallOk && c.fail.isNone && !unc) void cause
      let s := s.setTinker r c.unit { s.tinker r c.unit with free := finish }
      s.track c i 0 finish outs

/-! ## DESC and LOOKUP (R248, R249) -/

/-- A template with its patched fields replaced by parameter words, in order. -/
def Template.fill (t : Template) (params : List Word) : List Word :=
  (List.range 8).map fun i =>
    match t.patch.findIdx? (· == i) with
    | some j => params.getD j 0
    | none => t.words.getD i 0

def State.tinkerDesc (s : State) (c : Cmd) : State :=
  s.tinkerRun c false (16 * c.count) (8 * c.count + 6) fun _ s bs =>
    let ts := (s.tinker c.region c.unit).templates
    let first := bitsOf c.w.w3 0 8
    let seq := bitsOf c.w.w3 8 8
    ((List.range c.count).flatMap fun j =>
      ((ts.getD (first + j % seq) ⟨[], []⟩).fill
        (bytesWords ((bs.drop (16 * j)).take 16))).flatMap wordBytes, s)

def State.tinkerLookup (s : State) (c : Cmd) : State :=
  let iw := if bitOf c.w.w3 8 then 2 else 1
  let ew := 2 ^ bitsOf c.w.w3 9 2
  s.tinkerRun c false (iw * c.count) ((c.count + 15) / 16 + 6) fun at_ s bs =>
    let t := (s.tinker c.region c.unit).tables.getD (bitsOf c.w.w3 0 8) ⟨[], 0⟩
    let idx := (List.range c.count).map fun j => leNat ((bs.drop (iw * j)).take iw)
    (idx.flatMap fun i => leBytes ew (t.entries.getD i t.dflt),
      s.later at_ c.region (.count (Reg.TNK_LKMISS c.region c.unit) 0 16
        (idx.filter fun i => decide (t.entries.length ≤ i)).length))

/-! ## SORT and SELECT (R250) -/

/-- The key of a record: its bytes are little-endian (R10). -/
def recordKey (c : Cmd) (rec : List Byte) : Int :=
  let kb := bitsOf c.w.w3 12 3 + 1
  let v := leNat ((rec.drop (bitsOf c.w.w3 8 4)).take kb)
  if bitOf c.w.w3 16 then signBits (8 * kb) v else v

/-- Inserts a record after every record that stands before it or ties with it. -/
def insertRec (before : Int → Int → Bool) (k : Int) (r : List Byte) :
    List (Int × List Byte) → List (Int × List Byte)
  | [] => [(k, r)]
  | (k', r') :: xs =>
      if before k k' then (k, r) :: (k', r') :: xs else (k', r') :: insertRec before k r xs

/-- The records in key order, stable. -/
def sortRecs (c : Cmd) (bs : List Byte) : List (List Byte) :=
  let size := bitsOf c.w.w3 0 6 + 1
  let desc := bitOf c.w.w3 15
  let before (a b : Int) : Bool := if desc then decide (b < a) else decide (a < b)
  ((chunks size c.count bs).foldl (fun acc r => insertRec before (recordKey c r) r acc) []).map (·.2)

/-- ceil(log2 n). -/
def ceilLog2 (n : Nat) : Nat := if n ≤ 1 then 0 else Nat.log2 (n - 1) + 1

def State.tinkerSort (s : State) (c : Cmd) : State :=
  let l := ceilLog2 c.count
  s.tinkerRun c false ((bitsOf c.w.w3 0 6 + 1) * c.count)
    (l * (l + 1) / 2 * ((c.count + 7) / 8) + 10) fun _ s bs => ((sortRecs c bs).flatten, s)

def State.tinkerSelect (s : State) (c : Cmd) : State :=
  let size := bitsOf c.w.w3 0 6 + 1
  let k := bitsOf c.w.w4 0 7
  s.tinkerRun c false (size * c.count) ((c.count + 7) / 8 + 80) fun _ s bs =>
    let best := ((sortRecs c bs).take k).flatten
    (best ++ List.replicate (size * (k - c.count)) 0xFF, s)

/-! ## PACK, CRC and SCRAMBLE (R251 to R253) -/

/-- The low `n` bits of a number, most significant first. -/
def bitsMsb (n v : Nat) : List Bool := (List.range n).map fun i => v.testBit (n - 1 - i)

/-- The number that bits spell, most significant first. -/
def msbNat (bs : List Bool) : Nat := bs.foldl (fun a b => 2 * a + (if b then 1 else 0)) 0

/-- Bits to bytes, most significant first, the last byte padded with zeros. -/
def packMsb (bs : List Bool) : List Byte :=
  (chunks 8 (bs.length / 8 + 1) bs).map fun b =>
    BitVec.ofNat 8 (msbNat (b ++ List.replicate (8 - b.length) false))

def State.tinkerPack (s : State) (c : Cmd) : State :=
  let w := bitsOf c.w.w3 0 6
  let n := c.count
  let packed := (n * w + 7) / 8
  let unpack := bitOf c.w.w3 6
  s.tinkerRun c false (if unpack then packed else 4 * n) ((max packed (4 * n) + 63) / 64 + 6)
    fun _ s bs =>
      if unpack then
        let bits := bytesBits bs
        ((List.range n).flatMap fun j =>
          let v := msbNat ((bits.drop (j * w)).take w)
          leBytes 4 (if bitOf c.w.w3 7 then wrapBits 32 (signBits w v) else v), s)
      else
        (packMsb ((List.range n).flatMap fun j =>
          bitsMsb w (leNat ((bs.drop (4 * j)).take 4))), s)

/-- Width and generator of the CRC polynomials but CRC-32C (R252). -/
def crcPoly : Nat → Nat × Nat
  | 0 => (24, 0x864CFB) | 1 => (24, 0x800063) | 2 => (24, 0xB2B117) | 3 => (16, 0x1021)
  | 4 => (11, 0x621) | _ => (6, 0x21)

/-- One bit into the reflected CRC-32C register. -/
def crc32cBit (r : Nat) (b : Bool) : Nat :=
  let low := (r % 2 == 1) != b
  if low then (r / 2) ^^^ 0x82F63B78 else r / 2

/-- CRC-32C of bytes and the extra bits that follow them (R252, log entry 15). -/
def crc32cExtra (bs : List Byte) (extra : List Bool) : Nat :=
  extra.foldl crc32cBit (crc32c bs ^^^ 0xFFFFFFFF) ^^^ 0xFFFFFFFF

def State.tinkerCrc (s : State) (c : Cmd) : State :=
  let n := c.count
  let extra := bitsOf c.w.w3 3 3
  let poly := bitsOf c.w.w3 0 3
  s.tinkerRun c false (n + (if extra = 0 then 0 else 1)) ((n + 31) / 32 + 8) fun _ s bs =>
    let ex := (byteBits (bs.getD n 0)).take extra
    let msg := bs.take n
    let out : Nat :=
      if poly = 6 then
        if bitOf c.w.w3 6 then
          if crc32cExtra (msg.take (n - 4)) [] = leNat (msg.drop (n - 4)) then 0 else 1
        else crc32cExtra msg ex
      else
        let (w, g) := crcPoly poly
        let v := crcBits w g 0 (bytesBits msg ++ ex)
        if bitOf c.w.w3 6 then if v = 0 then 0 else 1 else v
    (leBytes 4 out, s)

/-- The two 31-bit registers of the Gold sequence one step on (TS 38.211, named by R253). -/
def goldStep (x : Nat × Nat) : Nat × Nat :=
  let (a, b) := x
  let f := (a.testBit 3) != (a.testBit 0)
  let g := (b.testBit 3 != b.testBit 2) != (b.testBit 1 != b.testBit 0)
  (a / 2 + (if f then 2 ^ 30 else 0), b / 2 + (if g then 2 ^ 30 else 0))

/-- The registers after `n` steps. -/
def goldAfter : Nat → Nat × Nat → Nat × Nat
  | 0, x => x
  | n + 1, x => goldAfter n (goldStep x)

/-- `n` bits of the sequence from the present registers. -/
def goldBits : Nat → Nat × Nat → List Bool
  | 0, _ => []
  | n + 1, x => (x.1.testBit 0 != x.2.testBit 0) :: goldBits n (goldStep x)

/-- `n` bits of the Gold sequence of `init` from bit `offset`, with N_c = 1,600. -/
def gold (init offset n : Nat) : List Bool := goldBits n (goldAfter (1600 + offset) (1, init % 2 ^ 31))

/-- An INT8 LLR negated; −128 becomes 127 (R253). -/
def negLlr (b : Byte) : Byte := if b = 0x80 then 0x7F else -b

/-- Scrambles bytes as bits or as LLRs (R253). -/
def scramble (llr : Bool) (init offset : Nat) (bs : List Byte) : List Byte :=
  if llr then
    (bs.zip (gold init offset bs.length)).map fun e => if e.2 then negLlr e.1 else e.1
  else
    packMsb (((bytesBits bs).zip (gold init offset (8 * bs.length))).map fun e => e.1 != e.2)

def State.tinkerScramble (s : State) (c : Cmd) : State :=
  s.tinkerRun c false c.count ((c.count + 63) / 64 + 40) fun _ s bs =>
    (scramble (bitOf c.w.w3 31) (bitsOf c.w.w3 0 31) c.w.w4.toNat bs, s)

/-! ## BATCH and FILL (R255, R256, R409) -/

/-- A closed batch as written: row count, slot number and the rows (log entry 16). -/
def batchBytes (slot : Nat) (rows : List (List Byte)) : List Byte :=
  leBytes 4 rows.length ++ leBytes 4 slot ++ rows.flatten

/-- Moves a write stream to the start of its data block `k`, where it has one. -/
def State.seekBlock (s : State) (p : Port) (k : Nat) : State :=
  match s.portStream p true with
  | none => s
  | some t =>
      if k < (t.ofKind 0).length then
        s.setLadle p.region p.ladle { s.ladle p.region p.ladle with
          active := some { t with posData := blocksSize ((t.ofKind 0).take k) } }
      else s

/-- Closes the open batch of a Tinker: it goes to the alternating buffer (R255). -/
def State.closeBatch (s : State) (c : Cmd) : State :=
  let x := s.tinker c.region c.unit
  let s := s.seekBlock c.tinkerOut (if x.batchBuf then 1 else 0)
  let s := s.give c.tinkerOut 0 (batchBytes s.slot x.batch)
  s.setTinker c.region c.unit { x with batch := [], batchBuf := !x.batchBuf, closed := x.batch.length }

/-- Appends one vector to the open batch, which closes at 64 rows (R255). -/
def State.appendBatch (s : State) (c : Cmd) (at_ : Nat) (v : List Byte) : State :=
  let x := s.tinker c.region c.unit
  let s := s.setTinker c.region c.unit { x with batch := x.batch ++ [v] }
  if 64 ≤ x.batch.length + 1 then
    (s.later at_ c.region (.count (Reg.TNK_BATCH c.region c.unit) 0 16 1)).closeBatch c
  else s

def State.tinkerBatch (s : State) (c : Cmd) : State :=
  let size := bitsOf c.w.w3 0 12
  let close := bitOf c.w.w3 12
  s.tinkerRun c close (size * c.count) ((c.count * size + 63) / 64 + 8) fun at_ s bs =>
    let s := (chunks size c.count bs).foldl (fun s v => s.appendBatch c at_ v) s
    let s := if close then (s.later at_ c.region (.count (Reg.TNK_BATCH c.region c.unit) 16 16 1)).closeBatch c else s
    ([], s)

/-- The 32-byte header of a structure (R256, R409): the records written and the overflow bit. The air
slot, the cell and the direction, whose source no rule gives, are free values (log entry 17). -/
def fillHeader (vs : List (BitVec 64)) (written : Nat) (spill : Bool) : List Byte :=
  leBytes 4 (written + (if spill then 2 ^ 16 else 0)) ++
  leBytes 4 ((vs.getD 0 0).toNat % 2 ^ 32) ++
  leBytes 4 ((vs.getD 1 0).toNat % 16) ++ List.replicate 20 0

/-- The buffer that a command's output Ladle writes and whether the slot ledger holds it void. -/
def State.outVoid (s : State) (c : Cmd) : Bool :=
  (s.outsOf c.tinkerOut).any fun o => (s.cell 0 o.1 o.2).void

def State.tinkerFill (s : State) (c : Cmd) : State :=
  let size := bitsOf c.w.w3 0 12
  let slots := bitsOf c.w.w3 16 12
  let alloc := size == 32 && slots == 64
  let was := s.outVoid c
  let s := s.tinkerRun c true (size * c.count) ((slots * size + 63) / 64 + 8) fun at_ s bs =>
    let n := min c.count slots
    let spill := decide (slots < c.count)
    let s := s.later at_ c.region (.count (Reg.TNK_LKMISS c.region c.unit) 16 16 (c.count - slots))
    let s := if spill && alloc then s.later at_ c.region (.count Reg.SCH_CNT 8 8 1) else s
    let (vs, s) := s.drawFor c.elastic 2
    (fillHeader vs n spill ++ bs.take (size * n) ++ List.replicate (size * (slots - n)) 0xFF, s)
  s.bumpIf (alloc && !was && s.outVoid c) Reg.SCH_CNT 16 16 1

def execDesc (c : Cmd) (s : State) : Host.Outcome State Fault Refusal :=
  admitted (Instr.desc c).wf (s.tinkerDesc c)

def execLookup (c : Cmd) (s : State) : Host.Outcome State Fault Refusal :=
  admitted (Instr.lookup c).wf (s.tinkerLookup c)

def execSort (c : Cmd) (s : State) : Host.Outcome State Fault Refusal :=
  admitted (Instr.sort c).wf (s.tinkerSort c)

def execSelect (c : Cmd) (s : State) : Host.Outcome State Fault Refusal :=
  admitted (Instr.select c).wf (s.tinkerSelect c)

def execPack (c : Cmd) (s : State) : Host.Outcome State Fault Refusal :=
  admitted (Instr.pack c).wf (s.tinkerPack c)

def execCrc (c : Cmd) (s : State) : Host.Outcome State Fault Refusal :=
  admitted (Instr.crc c).wf (s.tinkerCrc c)

def execScramble (c : Cmd) (s : State) : Host.Outcome State Fault Refusal :=
  admitted (Instr.scramble c).wf (s.tinkerScramble c)

def execBatch (c : Cmd) (s : State) : Host.Outcome State Fault Refusal :=
  admitted (Instr.batch c).wf (s.tinkerBatch c)

def execFill (c : Cmd) (s : State) : Host.Outcome State Fault Refusal :=
  admitted (Instr.fill c).wf (s.tinkerFill c)

end Sys2Proof.Machine
end

