-- ==== Sys2Proof/Machine/Transfer.lean ====
section
/-! DEFINITION. How the units without a Ladle (transform engines, CODE, NET, TWIN) read and write a
compute region's scratchpad over the chip spine (R21, R46, R452, R455, R457, R458). -/

namespace Sys2Proof.Machine

open Sys2Proof

/-- A unit as the location of its faults: region, class code and index (R51). -/
structure Unit_ where
  region : Nat
  cls : Nat
  index : Nat
  deriving DecidableEq, Repr

/-- The location of a unit. -/
def Unit_.loc (u : Unit_) : BitVec 64 := blockLoc u.region u.cls u.index

/-- The places of `n` bytes at an address of a region's scratchpad. -/
def State.padPlaces (s : State) (r a n : Nat) : List Place :=
  (List.range n).map fun i => s.place r ⟨0, 2, r, 0, 0, 0, 0, 0, 0, 0, 0, 0, 0⟩ (a + i : Nat)

/-- Reads `n` bytes of a region's scratchpad for a unit: the H-C of every granule is checked (R455), a
region that does not answer gives zeros (R46). `bad` counts the failing granules. -/
def State.readPad (s : State) (u : Unit_) (r a n : Nat) : Taken × State :=
  let ps := s.padPlaces r a n
  let gs := (dedupRuns (ps.map Place.granule)).filterMap id
  let bad := gs.filter fun g => !s.hallOk g
  let abs := absentCount ps
  let ecc := s.eccHits ps
  let unc := ecc.any fun e => e.2 = 255
  let bytes := ps.map s.byteAt
  let s := bad.foldl (fun s g => s.blockRaise u.region u.cls u.index 0x0201 u.loc
    (s.hallmark g).toNat (hc (s.granuleBytes g)).toNat) s
  let s := s.bump Reg.SPN_ABSCNT 0 32 abs
  let s := ecc.foldl (fun s e => s.padEcc e.1 e.2) s
  let cause := if !bad.isEmpty then 0x0201 else if unc then 0x0102 else if 0 < abs then 0x030A else 0
  ({ bytes := bytes, hallOk := bad.isEmpty, void := cause != 0, cause := cause, short := false
     bad := bad.length }, s)

/-- Whether the granules that hold `n` bytes at an address check, without a report. -/
def State.padOk (s : State) (r a n : Nat) : Bool :=
  ((dedupRuns ((s.padPlaces r a n).map Place.granule)).filterMap id).all s.hallOk

/-- Writes bytes to a region's scratchpad: the rest of a granule is zeroed, and each granule takes a
fresh H-C when the producer's checks passed (R452, R457). A region that does not answer discards them. -/
def State.writePad (s : State) (r a : Nat) (bs : List Byte) (ok : Bool) : State :=
  let ps := s.padPlaces r a bs.length
  let abs := absentCount ps
  let s := s.bump Reg.SPN_ABSCNT 0 32 abs
  let s := s.renewWords ps
  let s := s.putBytes (ps.zip bs)
  if !ok then s
  else
    let ks := ps.filterMap fun p => match p with
      | .pad q b => some (padKey q b)
      | _ => none
    let gs := ((dedupRuns (ps.map Place.granule)).filterMap id)
    gs.foldl (fun s g => (s.fillGranule ks g).remark g) s

/-- The flag words and scale blocks beside an output (R120, R132): no rule says where they lie for a unit without a Ladle
(log entry 47). -/
def State.putBeside (s : State) (r buf : Nat) (x : Beside) : State :=
  { s with mem := { s.mem with beside := SMap.write {} s.mem.beside (r * 4096 + buf) x } }

/-- When the last command that a unit's queue issued in this slot completes (R172, R301). -/
def State.unitFree (s : State) (cls region unit : Nat) : Nat :=
  ((s.running.filter fun e => e.cls = cls && e.region = region && e.unit = unit).map (·.finish)).foldl
    max 0

end Sys2Proof.Machine
end

