-- ==== Sys2Proof/Machine/Code.lean ====
section
/-! DEFINITION. CODE (R399 to R406): the six commands and their code records, the soft buffers, and the
re-encode requests of the Tinkers (R254, R391, R392). -/

namespace Sys2Proof.Machine

open Sys2Proof

/-! ## Code records (R401, R402) -/

/-- The lifting sizes of TS 38.212: 2 to 15 times a power of two, up to 384. -/
def liftingSizes : List Nat :=
  [2, 3, 5, 7, 9, 11, 13, 15].flatMap fun a =>
    ((List.range 8).map fun j => a * 2 ^ j).filter fun z => decide (z ≤ 384)

/-- A code record with its fields named (R401). -/
structure CodeRec where
  kind : Nat
  bg2 : Bool
  zc : Nat
  iter : Nat
  fp8 : Bool
  harq : Bool
  newd : Bool
  blocks : Nat
  elo : Nat
  nlo : Nat
  ehi : Nat
  qidx : Nat
  rv : Nat
  kcb : Nat
  sb : Nat
  tbs : Nat
  cinit : Nat
  scr : Bool
  deriving DecidableEq, Repr

/-- The fields of a record's words. -/
def CodeRec.ofWords (ws : List Word) : CodeRec :=
  let w (i : Nat) : Word := ws.getD i 0
  { kind := bitsOf (w 0) 0 4, bg2 := bitOf (w 0) 4, zc := bitsOf (w 0) 5 9, iter := bitsOf (w 0) 14 4
    fp8 := bitOf (w 0) 18, harq := bitOf (w 0) 19, newd := bitOf (w 0) 20, blocks := bitsOf (w 0) 21 8
    elo := bitsOf (w 1) 0 22, nlo := bitsOf (w 1) 22 8, ehi := bitsOf (w 2) 0 22
    qidx := bitsOf (w 2) 22 4, rv := bitsOf (w 2) 26 2, kcb := bitsOf (w 3) 0 14, sb := (w 4).toNat
    tbs := bitsOf (w 5) 0 21, cinit := bitsOf (w 8) 0 31, scr := bitOf (w 8) 31 }

/-- Bits per symbol of a constellation index (R359). -/
def qmOf : Nat → Nat
  | 1 => 1 | 2 => 1 | 3 => 2 | 4 => 4 | 5 => 6 | 6 => 8 | 7 => 10 | _ => 0

/-- log2 N of a polar record. -/
def CodeRec.logN (r : CodeRec) : Nat := r.zc % 16

/-- E of block `i`. -/
def CodeRec.e (r : CodeRec) (i : Nat) : Nat := if i < r.nlo then r.elo else r.ehi

/-- All received or sent bits of an LDPC record. -/
def CodeRec.total (r : CodeRec) : Nat := ((List.range r.blocks).map r.e).sum

/-- The systematic bits of a block, fillers among them. -/
def CodeRec.sysBits (r : CodeRec) : Nat := (if r.bg2 then 10 else 22) * r.zc

/-- The circular buffer (R402). -/
def CodeRec.ncb (r : CodeRec) : Nat := (if r.bg2 then 50 else 66) * r.zc

/-- The start of a redundancy version in the circular buffer (TS 38.212, named by R402). -/
def CodeRec.k0 (r : CodeRec) : Nat :=
  (if r.bg2 then [0, 13, 25, 43].getD r.rv 0 else [0, 17, 33, 56].getD r.rv 0) * r.zc

/-- Whether C, K or TBS, as the record's KIND uses them, is 0 (R406). -/
def CodeRec.empty (r : CodeRec) : Bool :=
  match r.kind with
  | 1 => r.blocks == 0 || r.kcb == 0
  | 2 => r.kcb == 0
  | _ => r.blocks == 0 || r.kcb == 0 || r.tbs == 0

/-- Whether every field lies in its range (R401, R402). -/
def CodeRec.inRange (r : CodeRec) : Bool :=
  match r.kind with
  | 1 =>
      liftingSizes.contains r.zc && decide (1 ≤ r.iter) && decide (0 < qmOf r.qidx)
        && decide (r.kcb ≤ r.sysBits)
        && (List.range r.blocks).all fun i => r.e i % qmOf r.qidx == 0
  | 2 =>
      decide (5 ≤ r.logN) && decide (r.logN ≤ 10) && decide (12 ≤ r.kcb) && decide (r.kcb ≤ 1013)
        && [2, 4, 5].contains r.iter
  | _ => true

/-- The KIND that an opcode takes. -/
def kindOf (op : Nat) : Nat := if op ≤ 0x91 then 1 else if op ≤ 0x93 then 2 else 3

/-- Rounds a quotient up. -/
def ceilDiv (a b : Nat) : Nat := (a + b - 1) / b

/-- The working time of a record (R406). -/
def CodeRec.work (r : CodeRec) (op : Nat) : Nat :=
  match op with
  | 0x90 => r.blocks * ceilDiv (r.kcb * r.iter) 40 + ceilDiv r.ehi 64 + 96
  | 0x91 => r.blocks * ceilDiv r.kcb 20 + ceilDiv r.ehi 512 + 24
  | 0x92 => ceilDiv (2 ^ r.logN * r.logN * 8) 64 + 48
  | 0x93 => ceilDiv (2 ^ r.logN) 16 + 16
  | _ => ceilDiv r.tbs 256 + 24

/-! ## Bits (R402, R403) -/

/-- `n` bits that no rule states. -/
def State.freshBits (s : State) (elastic : Bool) (n : Nat) : List Bool × State :=
  let (vs, s) := s.drawFor elastic n
  (vs.map (·.getLsbD 0), s)

/-- The circular buffer of an encoded block: `none` marks a filler. -/
def CodeRec.circular (r : CodeRec) (bits : List Bool) : List (Option Bool) :=
  let k := r.sysBits
  let sys := bits.take r.kcb ++ List.replicate (k - r.kcb) false
  let par := Config.ldpcParity r.bg2 r.zc sys
  let full := ((List.range k).zip sys).map fun e => if e.1 < r.kcb then some e.2 else none
  (full.drop (2 * r.zc) ++ par.map some).take r.ncb

/-- The positions of the circular buffer that the bits of block `i` come from, fillers passed over. -/
def CodeRec.positions (r : CodeRec) (i : Nat) : List Nat :=
  let n := r.ncb
  let lo := r.kcb - 2 * r.zc
  let hi := r.sysBits - 2 * r.zc
  let ring := ((List.range n).map fun j => (r.k0 + j) % n).filter fun p =>
    !(decide (lo ≤ p) && decide (p < hi))
  let a := ring.toArray
  (List.range (r.e i)).map fun j => a.getD (j % a.size) 0

/-- The order in which the bit interleaver sends E bits (TS 38.212). -/
def interleaved (e qm : Nat) : List Nat :=
  (List.range e).map fun j => j % qm * (e / qm) + j / qm

/-- The sent bits of block `i`. -/
def CodeRec.rateMatch (r : CodeRec) (i : Nat) (bits : List Bool) : List Bool :=
  let d := (r.circular bits).toArray
  let e := ((r.positions i).map fun p => (d.getD p none).getD false).toArray
  (interleaved (r.e i) (qmOf r.qidx)).map fun j => e.getD j false

/-- Adds LLRs within ±127 (R404). -/
def addLlr (a b : Int) : Int := max (-127) (min 127 (a + b))

/-- The LLR of an input byte (R403). -/
def llrOf (fp8 : Bool) (b : Byte) : Int :=
  if fp8 then
    let c := encodeInt 16 none false .nearestEven ((Fmt.e4m3.decode none b.toNat).scale 2)
    max (-127) (min 127 (signBits 16 c.1))
  else b.toInt

/-- The soft values of block `i` after its received LLRs have been added (R404). -/
def CodeRec.combine (r : CodeRec) (i : Nat) (soft llrs : List Int) : List Int :=
  let a := llrs.toArray
  let order := (interleaved (r.e i) (qmOf r.qidx)).zip (List.range (r.e i))
  let ps := (r.positions i).toArray
  (order.foldl (fun (x : Array Int) (o : Nat × Nat) =>
    let p := ps.getD o.1 0
    x.setIfInBounds p (addLlr (x.getD p 0) (a.getD o.2 0))) soft.toArray).toList

/-- The soft values that the decoder sees: fillers are known zeros. -/
def CodeRec.withFillers (r : CodeRec) (soft : List Int) : List Int :=
  let lo := r.kcb - 2 * r.zc
  let hi := r.sysBits - 2 * r.zc
  ((List.range soft.length).zip soft).map fun e =>
    if lo ≤ e.1 ∧ e.1 < hi then 127 else e.2

/-- A decoded block: its KCB bits and its status bit (R403). -/
def CodeRec.decodeBlock (r : CodeRec) (soft : List Int) : List Bool × Bool :=
  let (bits, ok) := Config.ldpcDecode r.bg2 r.zc r.iter (r.withFillers soft)
  ((bits ++ List.replicate r.kcb false).take r.kcb, ok)

/-- A CRC as bits, most significant first. -/
def crcOf (poly : Nat) (bits : List Bool) : List Bool :=
  let (w, g) := crcPoly poly
  bitsMsb w (crcBits w g 0 bits)

/-- The CRC code of a transport block (R405). -/
def tbCrc (tbs : Nat) : Nat := if 3824 < tbs then 0 else 3

/-- Bits of a block without its code-block CRC (R405). -/
def CodeRec.payload (r : CodeRec) : Nat := if 1 < r.blocks then r.kcb - 24 else r.kcb

/-- Cuts bytes into blocks of `n` bits, each starting at a byte. -/
def blockBits (n k : Nat) (bs : List Byte) : List (List Bool) :=
  let step := (n + 7) / 8
  (List.range k).map fun i => (bytesBits ((bs.drop (i * step)).take step)).take n

/-- The bytes of a code record at an address. -/
def State.readRecord (s : State) (u : Unit_) (w : Word) : List Word × Taken × State :=
  let (k, s) := s.readPad u (bitsOf w 25 3) (bitsOf w 0 25) 64
  (bytesWords k.bytes, k, s)

/-- The sent bytes of an LDPC record for the segments of its blocks (R400, R405): the CRC of each block when
there is more than one, parity, rate matching, interleaving and scrambling. -/
def CodeRec.encodeAll (r : CodeRec) (segs : List (List Bool)) : List Byte :=
  let bits := (List.range r.blocks).flatMap fun i =>
    let seg := segs.getD i []
    r.rateMatch i (if 1 < r.blocks then seg ++ crcOf 1 seg else seg)
  packMsb (if r.scr then (bits.zip (gold r.cinit 0 bits.length)).map fun e => e.1 != e.2 else bits)

/-! ## Soft buffers (R404) -/

/-- The HBM address of block `i` of a soft buffer. -/
def State.softAddr (s : State) (r : CodeRec) (i : Nat) : Nat :=
  (s.fld Reg.CDC_SB 0 30 + r.sb * s.fld Reg.CDC_SBSZ 0 24) * 64 + i * (ceilDiv r.ncb 64 * 64)

/-- The stripes of a record's soft buffer: one pass over its blocks (R404). -/
def CodeRec.softStripes (r : CodeRec) : Nat := ceilDiv (r.blocks * (ceilDiv r.ncb 64 * 64)) 2048

/-- The soft values of block `i`. -/
def State.softRead (s : State) (r : CodeRec) (i : Nat) : List Int :=
  (SMap.readList 0 s.mem.hbm (s.softAddr r i) r.ncb).map BitVec.toInt

/-- The state with the soft values of block `i` written, with fresh hallmarks. -/
def State.softWrite (s : State) (r : CodeRec) (i : Nat) (xs : List Int) : State :=
  let a := s.softAddr r i
  let s := { s with mem := { s.mem with
    hbm := SMap.writeList 0 s.mem.hbm a (xs.map fun x => BitVec.ofInt 8 x) } }
  (List.range ((a + xs.length) / 256 + 1 - a / 256)).foldl (fun s g => s.remark (1, a / 256 + g)) s

/-! ## Issue and end of a command (R399, R400, R406) -/

/-- The unit of a CODE command as a location. -/
def codeUnit (c : Cmd) : Unit_ :=
  if c.unit < 16 then ⟨10, 0x20, c.unit⟩ else if c.unit < 24 then ⟨10, 0x21, c.unit - 16⟩
  else if c.unit < 28 then ⟨10, 0x22, c.unit - 24⟩ else ⟨10, 0x24, c.unit - 28⟩

/-- BUF, LEAVE and DUR of a CODE command. -/
def Cmd.codeBuf (c : Cmd) : Nat := bitsOf c.w.w2 16 12
def Cmd.codeLeave (c : Cmd) : Nat := bitsOf c.w.w2 4 12
def Cmd.codeDur (c : Cmd) : Nat := bitsOf c.w.w6 0 20

/-- The regions in which an output's completion and void are entered (R303): CODE's own and, on the data
plane, the one that it writes. -/
def Cmd.codeOuts (c : Cmd) (ctx : Option Nat) : List (Nat × Nat) :=
  let d := bitsOf c.w.w5 25 3
  (10, c.codeBuf) :: (if ctx.isNone then [(d, c.codeBuf)] else [])

/-- Whether an input of an issuing command is void or missing (R404, R405). -/
def State.voidInput (s : State) (c : Cmd) (ctx : Option Nat) : Bool :=
  (s.firstVoid c.region ctx c.inputs).isSome ||
    c.inputs.any fun i => !s.inputDone c.region ctx i

/-- The end of a CODE command: its outputs void where a check failed, its completion at `finish`. -/
def State.codeEnd (s : State) (c : Cmd) (i : Issue) (finish : Nat) (void : Bool) (cause : Nat) : State :=
  let outs := c.codeOuts i.ctx
  let s := if void then s.voidOuts i.ctx outs cause else s
  let s := outs.foldl (fun s o => s.signalAt i.ctx o.1 o.2 finish) s
  s.track c i 0 finish outs

/-- One CODE command (R406): the record is read and judged; a valid one has its effect, which gives the
output bytes or none, and the void of its output. `heavy` commands take leave (R514). -/
def State.codeRun (s : State) (c : Cmd) (heavy : Bool)
    (effect : State → Issue → CodeRec → Bool → Option (List Byte) × Option Nat × State) : State :=
  let u := codeUnit c
  let (ok, s) := if heavy then s.takeLeave c (2 ^ c.unit) c.codeLeave else (true, s)
  if !ok then s
  else
    let (i, s) := s.issue c u.loc (s.unitFree 9 10 c.unit) (2 ^ c.unit)
    if !i.go then s
    else
      let vin := s.voidInput c i.ctx
      let s := match i.ctx with
        | some k => s.clearBuf k c.codeBuf
        | none => s
      let (ws, k, s) := s.readRecord u c.w.w3
      let r := CodeRec.ofWords ws
      let finish := i.t + c.codeDur
      let s := if heavy then s.useLeave c finish else s
      let matched := r.kind == kindOf c.opcode
      if matched && r.empty then
        s.codeEnd c i (i.t + 1) (i.void || k.void) (if i.void then i.cause else k.cause)
      else if !matched || !r.inRange || decide (c.codeDur < r.work c.opcode) then
        let s := s.later i.t 10 (.count Reg.CDC_REFUSE 0 16 1)
        let s := s.blockRaise 10 u.cls u.index 0x0702 u.loc 0 0
        s.codeEnd c i finish true 0x0702
      else
        let (out, bad, s) := effect s i r vin
        let (unc, s) := s.eccReads c u.cls u.index i.t
        let why := bad.orElse fun _ => if k.void then some k.cause else if unc then some 0x0102 else none
        let s := match out with
          | some bs => s.writePad (bitsOf c.w.w5 25 3) (bitsOf c.w.w5 0 25) bs (why.isNone && !vin)
          | none => s
        s.codeEnd c i finish (i.void || why.isSome) (if i.void then i.cause else why.getD 0)

/-- Reads a command's input. -/
def State.codeInput (s : State) (c : Cmd) (n : Nat) : Taken × State :=
  s.readPad (codeUnit c) (bitsOf c.w.w4 25 3) (bitsOf c.w.w4 0 25) n

/-- The cause that a read leaves. -/
def Taken.why (k : Taken) : Option Nat := if k.void then some k.cause else none

/-! ## The commands (R400 to R405) -/

/-- LDEC (R402 to R404). The soft buffer keeps its contents when an input is void or fails its check; while MEM does not
answer, its stripes are absent requests and the output is void (R46). -/
def State.ldec (s : State) (c : Cmd) : State :=
  let hbmErr := c.ecc.any eccBad
  s.codeRun c true fun s i r vin =>
    let (k, s) := s.codeInput c r.total
    if vin || k.void then
      (none, if k.void then k.why else some 0x0301, s.later i.t 10 (.count Reg.CDC_REFUSE 16 16 1))
    else
      let s := if r.newd then { s with code := { s.code with
        sbVoid := s.code.sbVoid.filter fun b => b != r.sb } } else s
      let s := if r.harq && hbmErr then { s with code := { s.code with
        sbVoid := if s.code.sbVoid.contains r.sb then s.code.sbVoid else r.sb :: s.code.sbVoid } } else s
      let gone := r.harq && !s.served 11
      let s := if gone then s.bump Reg.SPN_ABSCNT 0 32 (2 * r.softStripes) else s
      let lost := r.harq && s.code.sbVoid.contains r.sb || gone
      let llrs := k.bytes.map (llrOf r.fp8)
      let llrs := if r.scr then (llrs.zip (gold r.cinit 0 llrs.length)).map fun e =>
        if e.2 then -e.1 else e.1 else llrs
      let starts := (List.range r.blocks).map fun i => ((List.range i).map r.e).sum
      let softs := ((List.range r.blocks).zip starts).map fun e =>
        let old := if r.harq && !r.newd && !gone then s.softRead r e.1 else List.replicate r.ncb 0
        r.combine e.1 old ((llrs.drop e.2).take (r.e e.1))
      let s := if r.harq && !gone then
        ((List.range softs.length).zip softs).foldl (fun s e => s.softWrite r e.1 e.2) s else s
      let decs := softs.map r.decodeBlock
      let s := s.laters (i.t + c.codeDur) 10 [.count Reg.CDC_CB 0 32 r.blocks,
        .count Reg.CDC_CBFAIL 0 32 (decs.filter fun d => !d.2).length]
      (some (decs.flatMap fun d => packMsb (d.1 ++ [d.2])), if lost then some 0x0102 else none, s)

/-- LENC (R402, R405). -/
def State.lenc (s : State) (c : Cmd) : State :=
  s.codeRun c true fun s _ r _ =>
    let n := r.payload
    let (k, s) := s.codeInput c (r.blocks * ((n + 7) / 8))
    (some (r.encodeAll (blockBits n r.blocks k.bytes)), k.why, s)

/-- PDEC (R402). -/
def State.pdec (s : State) (c : Cmd) : State :=
  s.codeRun c false fun s _ r _ =>
    let (k, s) := s.codeInput c (2 ^ r.logN)
    let (bits, ok) := Config.polarDecode r.logN r.kcb r.iter (k.bytes.map (llrOf r.fp8))
    (some (packMsb ((bits ++ List.replicate r.kcb false).take r.kcb ++ [ok])), k.why, s)

/-- PENC (R402). -/
def State.penc (s : State) (c : Cmd) : State :=
  s.codeRun c false fun s _ r _ =>
    let (k, s) := s.codeInput c ((r.kcb + 7) / 8)
    let bits := Config.polarEncode r.logN r.iter ((bytesBits k.bytes).take r.kcb)
    (some (packMsb ((bits ++ List.replicate (2 ^ r.logN) false).take (2 ^ r.logN))), k.why, s)

/-- TBSEG (R405): the transport-block CRC, then segments of equal length. -/
def State.tbseg (s : State) (c : Cmd) : State :=
  s.codeRun c false fun s _ r _ =>
    let (k, s) := s.codeInput c ((r.tbs + 7) / 8)
    let tb := (bytesBits k.bytes).take r.tbs
    let bits := tb ++ crcOf (tbCrc r.tbs) tb
    let (pad, s) := s.freshBits c.elastic (r.blocks * r.payload - bits.length)
    let all := bits ++ pad
    (some ((List.range r.blocks).flatMap fun i => packMsb ((all.drop (i * r.payload)).take r.payload)),
      k.why, s)

/-- TBCHK (R405): the blocks' status and CRC24B, the transport-block CRC, the block and its status word. -/
def State.tbchk (s : State) (c : Cmd) : State :=
  s.codeRun c false fun s i r vin =>
    let (k, s) := s.codeInput c (r.blocks * ((r.kcb + 8) / 8))
    let bs := blockBits (r.kcb + 1) r.blocks k.bytes
    let ok (b : List Bool) : Bool := b.getD r.kcb false
    let crcOk (b : List Bool) : Bool :=
      r.blocks ≤ 1 || crcOf 1 (b.take r.payload) == (b.take r.kcb).drop r.payload
    let fails := (bs.filter fun b => !(ok b && crcOk b)).length
    let finish := i.t + c.codeDur
    let s := s.later finish 10 (.count Reg.CDC_CBFAIL 0 32 (bs.filter fun b => ok b && !crcOk b).length)
    let w := if 3824 < r.tbs then 24 else 16
    let bits := bs.flatMap fun b => b.take r.payload
    let (pad, s) := s.freshBits c.elastic (r.tbs + w - bits.length)
    let bits := bits ++ pad
    let tb := bits.take r.tbs
    let pass := crcOf (tbCrc r.tbs) tb == (bits.drop r.tbs).take w && !vin && !k.void
    let s := s.later finish 10 (.count (if pass then Reg.CDC_TBPASS else Reg.CDC_TBFAIL) 0 32 1)
    let refused := c.inputs.any fun x => s.inputVoid c.region i.ctx x == some 0x0702
    let status := (if pass then 1 else 0) + (if vin then 2 else 0) + (if refused then 4 else 0)
      + min fails 255 * 256
    (some (packMsb tb ++ leBytes 4 status ++ List.replicate 28 0), k.why, s)

/-! ## Re-encoding (R254, R391, R392) -/

/-- Whether CODE accepts a re-encode request (R392): 0 accepted, 1 the queue is full, 2 the record or
PASSCHK. -/
def State.judgeRequest (s : State) (ws : List Word) : Nat :=
  let r := CodeRec.ofWords ws
  let w9 := ws.getD 9 0
  let w11 := ws.getD 11 0
  if 16 ≤ s.code.queue.length then 1
  else if r.kind != 1 || !r.inRange then 2
  else if bitOf w11 16 && !((s.byteAt (s.place (bitsOf w9 25 3) ⟨0, 2, bitsOf w9 25 3, 0, 0, 0, 0, 0, 0, 0, 0, 0, 0⟩
      ((bitsOf w9 0 25 : Int) - 32))).getLsbD 0) then 2
  else 0

/-- A re-encode request reaches CODE, unless its record fails its hallmark; a refused one leaves the target buffer void in its job's status. -/
def State.request (s : State) (c : Cmd) (ws : List Word) (bad : Bool) : State :=
  let w11 := ws.getD 11 0
  let ctx := bitsOf w11 0 6
  let v := if bad || !s.served 10 then 2 else s.judgeRequest ws
  if v = 0 then
    let s := s.bump (Reg.TNK_REENC c.region c.unit) 0 16 1
    { s with code := { s.code with queue := s.code.queue ++ [⟨ctx, ws⟩] } }
  else
    let s := s.bump (Reg.TNK_REENC c.region c.unit) 16 16 1
    let s := if v = 1 then s.bump Reg.CDC_RQ 8 8 1 else s.bump Reg.CDC_RQ 16 8 1
    s.voidBuf (some ctx) 10 (0xC00 + bitsOf w11 6 10) 0x0702

def State.tinkerReenc (s : State) (c : Cmd) : State :=
  s.tinkerRun c false 0 4 fun _ s _ =>
    let (k, s) := s.readPad ⟨c.region, 3, c.unit⟩ c.region (c.w.w3.toNat * 64) 64
    ([], s.request c (bytesWords k.bytes) k.void)

/-- CODE starts its oldest re-encode request on an encoder in an elastic window (R392). -/
def State.reEncoding (s : State) (unit cycle : Nat) : State :=
  let s := s.reach cycle
  match s.code.queue with
  | [] => s
  | q :: rest =>
      let u := 16 + unit
      if !s.engineLive 10 || (s.openWindow 10 cycle (2 ^ u)).isNone || decide (cycle < s.unitFree 9 10 u)
      then s
      else
        let loc : Unit_ := ⟨10, 0x21, unit⟩
        let w (i : Nat) : Word := q.words.getD i 0
        let r := CodeRec.ofWords q.words
        let buf := 0xC00 + bitsOf (w 11) 6 10
        let s := { s with code := { s.code with queue := rest } }
        let s := s.clearBuf q.ctx buf
        let finish := if r.empty then cycle + 1 else cycle + r.work 0x91
        let n := r.payload
        let (k, s) := if r.empty then (({} : Taken), s) else
          s.readPad loc (bitsOf (w 9) 25 3) (bitsOf (w 9) 0 25) ((r.tbs + 7) / 8)
        let tb := (bytesBits k.bytes).take r.tbs
        let bits := tb ++ crcOf (tbCrc r.tbs) tb
        let (pad, s) := s.freshBits true (if r.empty then 0 else r.blocks * n - bits.length)
        let all := bits ++ pad
        let out := r.encodeAll ((List.range r.blocks).map fun i => (all.drop (i * n)).take n)
        let s := if r.empty then s else
          s.writePad (bitsOf (w 10) 25 3) (bitsOf (w 10) 0 25) out (!k.void)
        let s := if k.void then s.voidBuf (some q.ctx) 10 buf k.cause else s
        let s := s.signalAt (some q.ctx) 10 buf finish
        { s with running :=
            ⟨9, 10, u, 0, 0, cycle, finish, [(10, buf)], some q.ctx⟩ ::
              s.running.filter fun e => !(e.cls == 9 && e.region == 10 && e.unit == u) }

def execLdec (c : Cmd) (s : State) : Host.Outcome State Fault Refusal :=
  admitted (Instr.ldec c).wf (s.ldec c)

def execLenc (c : Cmd) (s : State) : Host.Outcome State Fault Refusal :=
  admitted (Instr.lenc c).wf (s.lenc c)

def execPdec (c : Cmd) (s : State) : Host.Outcome State Fault Refusal :=
  admitted (Instr.pdec c).wf (s.pdec c)

def execPenc (c : Cmd) (s : State) : Host.Outcome State Fault Refusal :=
  admitted (Instr.penc c).wf (s.penc c)

def execTbseg (c : Cmd) (s : State) : Host.Outcome State Fault Refusal :=
  admitted (Instr.tbseg c).wf (s.tbseg c)

def execTbchk (c : Cmd) (s : State) : Host.Outcome State Fault Refusal :=
  admitted (Instr.tbchk c).wf (s.tbchk c)

def execReenc (c : Cmd) (s : State) : Host.Outcome State Fault Refusal :=
  admitted (Instr.reenc c).wf (s.tinkerReenc c)

def execReEncoding (unit cycle : Nat) (s : State) : Host.Outcome State Fault Refusal :=
  admitted (Instr.reEncoding unit cycle).wf (s.reEncoding unit cycle)

end Sys2Proof.Machine
end

