-- ==== Sys2Proof/Machine/Switch.lean ====
section
/-! DEFINITION. Plan switches (R307 to R311) and what a region loses when it is reset or switched off
(R522, R531, R532). -/

namespace Sys2Proof.Machine

open Sys2Proof

/-- Whether a switch from `u` to `v` at the slot with frame index `f` is warm (R310). -/
def State.isWarm (s : State) (u v : Variant) (f : Nat) : Bool :=
  (List.range 3).all fun k =>
    ((v.planAt (f + k)).lags.filter fun r => decide (k < r.lag)).all fun r =>
      let e : CarryEntry := ⟨r.region, r.buf, r.addr⟩
      u.carry.contains e && v.carry.contains e &&
        (u.planAt (f + k + s.frameSlots - r.lag)).bufs.any fun b => b.region = r.region && b.buf = r.buf

/-! ## What a region loses (R531) -/

/-- The control base of a region. -/
def controlBase (r : Nat) : Nat := 0x10000000 + r * 0x1000000

/-- Whether a register key belongs to a region: by its address, or by the region that its window names
(FMT.CHCFG and FMT.CHZP). -/
def keyOfRegion (r k : Nat) : Bool :=
  let a := k % 2 ^ 32
  if a = Reg.FMT_CHCFG || a = Reg.FMT_CHZP then decide (2 ^ 32 ≤ k) && (k / 2 ^ 32 - 1) / 65536 == r
  else decide (controlBase r ≤ a) && decide (a < controlBase r + 0x1000000) && decide (r < 13)

/-- Drops what is staged or accepted for a region (R531). -/
def State.dropStaged (s : State) (r : Nat) : State :=
  { s with commit :=
    { shadow := s.commit.shadow.drop (keyOfRegion r)
      waiting := s.commit.waiting.filter fun a => !keyOfRegion r a.key } }

/-- The image's register values and channel tables of a region (R14, R125, R532). -/
def State.imageRegion (s : State) (r : Nat) : State :=
  { s with
    regs := SMap.writeAll 0 (s.regs.drop (keyOfRegion r))
      ((resetRegs ++ s.plan.regs0).filter fun e => keyOfRegion r e.1)
    chans := SMap.writeAll {} (s.chans.drop fun k => k / 65536 = r)
      (s.plan.chans0.filter fun e => e.1 / 65536 = r) }

/-- The SRAMs and the logic of a region cleared, with the banks for which `keep` holds spared. -/
def State.clearRegion (s : State) (r : Nat) (keep : Nat → Bool) : State :=
  let lost (k : Nat) : Bool := decide (k / 2 ^ 25 = r) && !keep (k % 2 ^ 25 / 2 ^ 19)
  let mem := { s.mem with
    pad := s.mem.pad.drop lost
    padHall := s.mem.padHall.drop fun g => lost (g * 256)
    padEcc := s.mem.padEcc.drop fun w => lost (w * 8) }
  let mem := if r = 8 then { mem with te := [], teHall := [], teVoid := [] } else mem
  let s := { s with
    mem := mem
    ladles := s.ladles.drop fun k => k / 8 = r
    anvils := s.anvils.drop fun k => k / 4 = r
    planishers := s.planishers.drop fun k => k / 2 = r
    tinkers := s.tinkers.drop fun k => k / 4 = r
    slicers := s.slicers.drop fun k => k = r
    swages := s.swages.drop fun k => k = r
    crucibles := s.crucibles.drop fun k => k = r
    running := s.running.filter fun e => e.region != r
    taps := s.taps.filter fun t => t.chan / 65536 != r
    hbm := { s.hbm with scrubbed := s.hbm.scrubbed.drop fun k => k / 48 = r } }
  let s := if r = 8 then { s with radio := {} } else s
  let s := if r = 9 then { s with net := {} } else s
  let s := if r = 10 then { s with code := { s.code with queue := [] } } else s
  let s := if r = 12 then { s with twin := { s.twin with staging := [], left := [], windows := 0 } } else s
  (s.dropStaged r).imageRegion r

/-- The powered bits of a region's domains set or cleared. -/
def State.setDomains (s : State) (r : Nat) (on : Bool) : State :=
  (domainsOf r).foldl (fun s d => if d < 26 then s.setBit Reg.PWR_DOM d on else s) s

/-- A region switched off (R531). -/
def State.regionOff (s : State) (r : Nat) : State :=
  (((s.closeGate r 0x030A).clearRegion r fun _ => false).setDomains r false)

/-! ## Trim (R522) -/

/-- The regions that Trim may switch off: those whose domains are on by variant (R510). -/
def trimRegions : List Nat := [0, 1, 2, 3, 4, 5, 6, 7, 8, 10, 12]

/-- Switches off what the active variant leaves unused; a region that is fenced already stays as it is. -/
def State.trimUnused (s : State) : State :=
  let v := s.variant s.active
  trimRegions.foldl (fun s r =>
    if v.regions.testBit r || s.fenced r || !s.powered r then s
    else
      let s := s.regionOff r
      { s with power := { s.power with trimmed := s.power.trimmed ++ [r] } }) s

/-! ## The switch (R308 to R311) -/

/-- SPL.PATTERN shows the active variant's period (R335). -/
def State.showPeriod (s : State) : State :=
  s.setFld Reg.SPL_PATTERN 0 7 (s.variant s.active).pattern.length

/-- SPL.PATTERN shows the plan that runs in the slot with frame index `f` (R307). -/
def State.showPlan (s : State) (f : Nat) : State :=
  let w := s.variant s.active
  s.showPeriod.setFld Reg.SPL_PATTERN 8 6 (w.pattern.getD (f % w.pattern.length) 0)

/-- Installs a variant in step 1 of the tick that begins slot `n`, whose frame index is `f` (R308 to R311,
R522). Causes: 1 management, 2 fault controller, 3 twin link. -/
def State.install (s : State) (v cause n f : Nat) : State :=
  let u := s.active
  let new := s.variant v
  let cold := !s.isWarm (s.variant u) new f
  let s := s.loadTables.setFld Reg.DET_VARIANT 0 16 v
  let s := s.setReg Reg.SPL_SWLAST (BitVec.ofNat 32 n)
  let s := s.setReg Reg.SPL_SWCAUSE (BitVec.ofNat 32
    (u % 2 ^ 16 + cause * 2 ^ 16 + (if cold then 2 ^ 18 else 0)))
  let s := if cause = 1 then s.bump Reg.SPL_SWCNT 0 16 1
    else if cause = 2 then s.bump Reg.SPL_SWCNT 16 16 1 else s
  let s := s.setFld Reg.PWR_CAP 16 13 new.peak
  let s := match new.pair with
    | some p => (s.setFld Reg.TWN_VAR 0 16 p.peerVariant).setFld Reg.TWN_VAR 16 16 p.loss
    | none => s
  let s := if cold then
    { (s.raise 0x0304 .detected chipLoc (v % 2 ^ 16 + u % 2 ^ 16 * 2 ^ 16) n) with
      plan := { s.plan with coldAt := some n } }
    else s
  let s := s.abortWhere (fun x => !new.regions.testBit x.image.home && !x.queue.isEmpty) fun _ => true
  if s.bit Reg.PWR_STATE 4 then
    let s := s.trimUnused
    if s.power.trimmed.isEmpty then s else s.setFld Reg.PWR_STATE 0 2 1
  else s

/-- The variant that runs from the start of the data plane, with what the registers show of it. -/
def State.setVariant (s : State) (v : Nat) : State :=
  let p := s.variant v
  let s := ((s.setFld Reg.DET_VARIANT 0 16 v).setFld Reg.PWR_CAP 16 13 p.peak).showPeriod
  match p.pair with
  | some q => (s.setFld Reg.TWN_VAR 0 16 q.peerVariant).setFld Reg.TWN_VAR 16 16 q.loss
  | none => s

/-- Installs a variant in the slot that has just begun, at the asking of the twin link. -/
def State.installNow (s : State) (v : Nat) : State :=
  (s.install v 3 s.slot (s.fld Reg.TCK_FRAME 0 7)).showPlan (s.fld Reg.TCK_FRAME 0 7)

end Sys2Proof.Machine
end

