-- ==== Sys2Proof/Machine/Slicer.lean ====
section
/-! DEFINITION. The Slicer commands (R174 to R178): VLOAD, SWEEP and SOUT. -/

namespace Sys2Proof.Machine

open Sys2Proof

/-- The Slicer of a region. -/
def State.slicer (s : State) (r : Nat) : Slicer := SMap.read {} s.slicers r

/-- The state with a Slicer replaced. -/
def State.setSlicer (s : State) (r : Nat) (x : Slicer) : State :=
  { s with slicers := SMap.write {} s.slicers r x }

/-- The location of a Slicer (R51). -/
def slicerLoc (c : Cmd) : BitVec 64 := blockLoc c.region 0x07 0

/-- The bit of a Slicer in ENGINES (R312). -/
def slicerBit : Nat := 2 ^ 18

/-- Freezes of a Slicer: breaches, and the cycles counted in SLC.FRZ.CC as they pass (R178). -/
def State.slicerFreeze (s : State) (i : Issue) (c : Cmd) (fs : Freezes) : State :=
  fs.foldl (fun s f => s.later (f.1 + f.2 - 1) c.region (.count (Reg.SLC_FRZ c.region) 0 16 f.2))
    (s.freezeBreaches i c (slicerLoc c) fs)

/-- VLOAD (R175): up to 16 vectors into the vector store. Its duration with data is not stated (log
entry 8). -/
def State.slicerVload (s : State) (c : Cmd) : State :=
  let (i, s) := s.issue c (slicerLoc c) (s.slicer c.region).free slicerBit
  if !i.go then s
  else
    let l := bitsOf c.w.w2 0 4
    let f := Fmt.get (bitsOf c.w.w2 4 4)
    let b := bitsOf c.w.w2 8 5
    let k := bitsOf c.w.w2 16 16
    let cnt := bitsOf c.w.w3 8 8 + 1
    let s0 := s
    let zp (j : Nat) : Option Nat :=
      if f.isInt then s0.zeroPoint (chanKey c.region (6 + l)
        (bitsOf c.w.w3 0 8 + (j % (max k 1)) % cnt)) else none
    if b * k = 0 then
      let s := s.setSlicer c.region { s.slicer c.region with fmt := f.code, free := i.t + 1 }
      s.track c i 0 (i.t + 1) []
    else
      let nb := (k + 15) / 16
      let (e, s) := s.takeElems ⟨c.region, l, 0x22⟩ (b * k) (b * nb) f zp
      let fs := delayFreezes i.t c.dry
      let fs := if e.taken.short then fs ++ [(i.t + frozenCycles fs, s.slotLen - (i.t + frozenCycles fs))] else fs
      let s := s.slicerFreeze i c fs
      let void := i.void || e.taken.void || s.freezeVoids i (frozenCycles fs)
      let finish := delayedEnd fs (i.t + 1 + Config.vloadCycles b k f.bits)
      let s := s.setSlicer c.region
        { s.slicer c.region with
          fmt := f.code, vecs := chunks k b e.vals, exps := chunks nb b e.exps, scale := e.scale
          vecHallOk := e.taken.hallOk, vecVoid := void
          vecCause := if i.void then i.cause else if e.taken.void then e.taken.cause else 0x0301
          free := finish }
      s.track c i 0 finish []

/-- The weights of a SWEEP in HBM, row by row (R176), and their granules; zeros while MEM does not answer (R46). -/
def State.sweepWeights (s : State) (f : Fmt) (addr k n : Nat) : List (List FVal) × List (Nat × Nat) :=
  let bytes := packedBytes f.bits (k * n)
  let codes := unpackCodes f.bits (k * n)
    (if s.served 11 then SMap.readList 0 s.mem.hbm addr bytes else List.replicate bytes 0)
  (chunks (max n 1) k (codes.map (f.decode none)),
    (List.range ((bytes + 255) / 256)).map fun g => (1, addr / 256 + g))

/-- What a SWEEP adds to one result entry (R176); a block pair covers 16 values of k (R143). -/
def sweepEntry (cls : AccClass) (w : Int) (ps : List (FVal × FVal)) (es : List Nat)
    (start : BitVec 128) : BitVec 128 × FlagWord :=
  match cls with
  | .exact =>
      let (c, f) := exactContrib w ps
      let (e, g) := addContrib true start c
      (e, f ||| g)
  | .block =>
      let (c, f) := blockContrib (chunks 16 ps.length (es.zip ps))
      let (e, g) := addContrib true start c
      (e, f ||| g)
  | .wide =>
      (chunks 128 (ps.length / 128 + 1) ps).foldl (fun a blk =>
        let (c, f) := wideContrib blk
        let (e, g) := addContrib true a.1 c
        (e, a.2 ||| f ||| g)) (start, 0)

/-- The first 0 × ∞ of a SWEEP in the order in which weights arrive: its k, output and vector. -/
def firstZeroInf (vecs rows : List (List FVal)) (n : Nat) : Option (Nat × Nat × Nat) :=
  (List.range rows.length).findSome? fun k =>
    (List.range n).findSome? fun j =>
      (List.range vecs.length).findSome? fun b =>
        if zeroTimesInf ((vecs.getD b []).getD k .zero) ((rows.getD k []).getD j .zero) then
          some (k, j, b) else none

/-- Latches a SWEEP's first 0 × ∞ at cycle `t` (R122, R173, R181). -/
def State.slicerZero (s : State) (r t : Nat) : Option (Nat × Nat × Nat) → State
  | none => s
  | some (k, j, b) =>
      s.laters t r [.flags (Reg.SLC_STAT r) Flag.inv,
        .latch (Reg.SLC_ZIPOS r) 31 [(Reg.SLC_ZISLOT r, BitVec.ofNat 32 s.slot),
          (Reg.SLC_ZIPOS r,
            BitVec.ofNat 32 (b % 16 + j % 2 ^ 14 * 16 + k / 128 % 512 * 2 ^ 18 + 2 ^ 31))]]

/-- The check lane of one vector after a SWEEP (R177): the residue, and the binary64 pair. -/
def sweepCheck (cls : AccClass) (w : Int) (x : List FVal) (rows : List (List FVal))
    (start : Nat × FVal × FVal) (before after : List (BitVec 128)) : Nat × FVal × FVal :=
  let (r0, s0, a0) := start
  match cls with
  | .exact => (residue ((r0 : Int) +
      ((x.zip rows).map fun e => unitsOf w e.1 * checkValue w e.2).sum), s0, a0)
  | .block => (residue ((r0 : Int) + rowResidue .block after - rowResidue .block before), s0, a0)
  | .wide =>
      (0, (addFp64 s0 (sumFp64 ((x.zip rows).map fun e => mulFp64 e.1 (sumFp64 e.2)))).1,
        (addFp64 a0 (sumFp64 ((x.zip rows).map fun e =>
          mulFp64 e.1.abs (sumFp64 (e.2.map FVal.abs))))).1)

/-- The exponents of a SWEEP's block floating point weights, whose place in HBM no rule gives (log
entry 9). -/
def State.freeExps (s : State) (elastic : Bool) (f : Fmt) (count : Nat) : List Nat × State :=
  if f.isBfp then
    let (vs, s) := s.drawFor elastic count
    (vs.map fun v => v.toNat % 256, s)
  else ([], s)

/-- SWEEP (R176): a K × N weight matrix from HBM against the held vectors. -/
def State.slicerSweep (s : State) (c : Cmd) : State :=
  let (ok, s) := s.takeLeave c slicerBit (bitsOf c.w.w5 0 12)
  if !ok then s
  else
    let (i, s) := s.issue c (slicerLoc c) (s.slicer c.region).free slicerBit
    if !i.go then s
    else
      let k := bitsOf c.w.w2 0 16
      let n := bitsOf c.w.w2 16 14
      let f := Fmt.get (bitsOf c.w.w3 0 4)
      let nvec := bitsOf c.w.w3 8 5
      let x := s.slicer c.region
      let vf := Fmt.get x.fmt
      let cls := classOf f vf
      let bytes := packedBytes f.bits (k * n)
      let served := s.served 11
      let (rows, gs) := s.sweepWeights f (bitsOf c.w.w4 0 30 * 64) k n
      let s := if served then s else s.bump Reg.SPN_ABSCNT 0 32 ((bytes + 2047) / 2048)
      let bad := gs.filter fun g => served && !s.hallOk g
      let s := bad.foldl (fun s g => s.blockRaise c.region 0x07 0 0x0201 (slicerLoc c)
        (s.hallmark g).toNat (hc (s.granuleBytes g)).toNat) s
      let nb := (k + 15) / 16
      let (wexps, s) := s.freeExps c.elastic f (n * nb)
      let vecs := (List.range nvec).map fun b =>
        (List.range k).map fun j => (x.vecs.getD b []).getD j .zero
      let w := f.weight + vf.weight
      let outs := (List.range nvec).map fun b => (List.range n).map fun j =>
        let ps := (vecs.getD b []).zip (rows.map fun r => r.getD j .zero)
        let es := (List.range k).map fun q =>
          (x.exps.getD b []).getD (q / 16) 0 + wexps.getD (j * nb + q / 16) 0
        sweepEntry cls w ps es (if c.flag 0 then SMap.read 0 x.entries (b * n + j) else 0)
      let flags := (outs.flatMap id).foldl (fun a o => a ||| o.2)
        (if c.flag 0 then x.flags else 0)
      let checks := (List.range nvec).map fun b =>
        let before := (List.range n).map fun j =>
          if c.flag 0 then SMap.read 0 x.entries (b * n + j) else 0
        let start := if c.flag 0 then
            (x.check.getD b 0, x.wideS.getD b .zero, x.wideA.getD b .zero)
          else (0, FVal.zero, FVal.zero)
        sweepCheck cls f.weight (vecs.getD b []) rows start before ((outs.getD b []).map (·.1))
      let entries := (List.range nvec).foldl (fun m b =>
        SMap.writeList 0 m (b * n) ((outs.getD b []).map (·.1))) x.entries
      let seqs := (List.range ((nvec * n + 63) / 64)).foldl (fun m q =>
        let at_ := match c.slip with
          | some (p, z) => if p = q then z % 256 else q
          | none => q
        SMap.write 0 m at_ q) x.seqs
      let fs := delayFreezes i.t c.dry
      let s := s.slicerFreeze i c fs
      let zero := firstZeroInf vecs rows n
      let s := s.slicerZero c.region (match zero with
        | some (q, j, _) => delayed fs (i.t + ((q * n + j + 1) * f.bits + 999) / 1000 + 40)
        | none => i.t) zero
      let errs := if c.flag 0 then c.ecc.filter fun e => decide (e.1 < nvec * n) else []
      let (unc, s) := s.eccReads { c with ecc := errs } 0x07 0 i.t
      let total := x.bytes + bytes
      let s := s.setReg (Reg.SLC_BYTES c.region) (BitVec.ofNat 32 (min (total / 1024) (2 ^ 32 - 1)))
      let void := i.void || x.vecVoid || !bad.isEmpty || unc || !served || s.freezeVoids i (frozenCycles fs)
      let why := if i.void then i.cause else if x.vecVoid then x.vecCause
        else if !bad.isEmpty then 0x0201 else if unc then 0x0102 else if !served then 0x030A else 0x0301
      let keepVoid := c.flag 0 && x.void
      let finish := if k * n * nvec = 0 then i.t + 1
        else delayedEnd fs (i.t + (k * n * f.bits + 999) / 1000 + 40)
      let s := s.setSlicer c.region
        { x with
          entries := entries, flags := flags, check := checks.map (·.1)
          wideS := checks.map (·.2.1), wideA := checks.map (·.2.2), cls := cls, weight := w
          wsh := c.wsh.getD 0, chkOn := c.flag 4, void := keepVoid || void, cause := if keepVoid then x.cause else why
          hallOk := (!c.flag 0 || x.hallOk) && x.vecHallOk && bad.isEmpty, seqs := seqs, bytes := total
          free := finish }
      let s := s.useLeave c finish
      s.track c i 0 finish []

/-- The value of a result entry for the conversion of its raw entry (R131, R176): under the shift of the vectors' first
channel (DEDUCED, log entry 109) and of the weights (R382). -/
def Slicer.value (x : Slicer) (e : BitVec 128) : FVal :=
  drainValue { cls := x.cls, weight := x.weight, tshift := x.scale.shifts.headD 0 + x.wsh } 0 e

/-- Raw entries handed to a write stream, whose conversion stage converts them once (R131, R176). -/
def State.giveRaw (s : State) (p : Port) (es : List (BitVec 128)) (value : BitVec 128 → FVal) :
    State :=
  match s.portStream p true with
  | none => s
  | some t =>
      if bitOf t.w3 8 then s.giveStaged p (es.map fun e => fun _ => value e)
      else s.give p 0 (es.flatMap fun e => leBytes 16 e.toNat)

/-- SOUT (R176, R177): B × N raw entries to a Ladle after the check lane's comparison. Its whole output is one tile with
one flag word (DEDUCED, log entry 113). -/
def State.slicerSout (s : State) (c : Cmd) : State :=
  let loc := slicerLoc c
  let (i, s) := s.issue c loc (s.slicer c.region).free slicerBit
  if !i.go then s
  else
    let port : Port := ⟨c.region, bitsOf c.w.w2 0 4, 0x23⟩
    let nvec := bitsOf c.w.w2 8 5
    let n := bitsOf c.w.w2 16 14
    let outs := s.outsOf port
    let x := s.slicer c.region
    if nvec * n = 0 then
      let s := s.voidOuts i.ctx (if i.void then outs else []) i.cause
      let s := s.setSlicer c.region { x with free := i.t + 1 }
      s.track c i 0 (i.t + 1) outs
    else
      let vec (b : Nat) := (List.range n).map fun j => SMap.read 0 x.entries (b * n + j)
      let checks := (List.range nvec).map fun b =>
        let err := match c.fail with
          | some (p, e) => if p = b then e else 0
          | none => 0
        let r : AccRow := { cls := x.cls, check := x.check.getD b 0
                            wideS := x.wideS.getD b .zero, wideA := x.wideA.getD b .zero }
        if c.flag 4 && x.chkOn then checkRow r (vec b) err else (false, 0, 0)
      let bad := checks.filter fun k => k.1
      let s := bad.foldl (fun s k =>
        s.laters i.t c.region [.count (Reg.SLC_FRZ c.region) 16 16 1,
          .report 0x07 0 0x0204 loc (k.2.1 + k.2.2 * 65536) i.t]) s
      let skips := (List.range ((nvec * n + 63) / 64)).filter fun q =>
        c.flag 4 && x.chkOn && x.cls != .wide && SMap.read 0 x.seqs q != q
      let s := skips.foldl (fun s q => s.later i.t c.region (.report 0x07 0 0x0202 loc (q * 65536)
        (SMap.read 0 x.seqs q * 65536))) s
      let (unc, s) := s.eccReads c 0x07 0 i.t
      let fs := delayFreezes i.t c.backup
      let s := s.slicerFreeze i c fs
      let void := i.void || x.void || !bad.isEmpty || !skips.isEmpty || unc || s.freezeVoids i (frozenCycles fs)
      let cause := if i.void then i.cause else if x.void then x.cause
        else if !bad.isEmpty then 0x0204 else if !skips.isEmpty then 0x0202
        else if unc then 0x0102 else 0x0301
      let finish := delayedEnd fs (i.t + (nvec * n + 3) / 4 + 12)
      let s := s.giveRaw port ((List.range nvec).flatMap vec) x.value
      let s := s.giveFlags port finish [x.flags]
      let s := s.later finish c.region (.flags (Reg.SLC_STAT c.region) x.flags)
      let s := s.setSlicer c.region { s.slicer c.region with free := finish }
      let own := bad.isEmpty && skips.isEmpty && !unc && ((c.flag 4 && x.chkOn) || !x.void)
      let s := s.endWrite port finish (x.hallOk && own) void cause
      s.track c i 0 finish outs

def execVload (c : Cmd) (s : State) : Host.Outcome State Fault Refusal :=
  admitted (Instr.vload c).wf (s.slicerVload c)

def execSweep (c : Cmd) (s : State) : Host.Outcome State Fault Refusal :=
  admitted (Instr.sweep c).wf (s.slicerSweep c)

def execSout (c : Cmd) (s : State) : Host.Outcome State Fault Refusal :=
  admitted (Instr.sout c).wf (s.slicerSout c)

end Sys2Proof.Machine
end

