-- ==== Sys2Proof/Machine/Gradient.lean ====
section
/-! DEFINITION. The Swage (R197 to R204) and the Crucible (R205 to R217): TRANSPOSE, TRANSPOSE_EMIT,
OPEN, ACCUM and FLUSH. -/

namespace Sys2Proof.Machine

open Sys2Proof

/-! ## Swage -/

/-- The Swage of a region. -/
def State.swage (s : State) (r : Nat) : Swage := SMap.read {} s.swages r

/-- The state with a Swage replaced. -/
def State.setSwage (s : State) (r : Nat) (x : Swage) : State :=
  { s with swages := SMap.write {} s.swages r x }

/-- The location of a Swage. -/
def swageLoc (r : Nat) : BitVec 64 := blockLoc r 0x05 0

/-- The sum of element codes mod 65,521 (R204). -/
def codeSum (cs : List Nat) : Nat := cs.sum % 65521

/-- The order in which a block is emitted (R200): output row c holds elements (0, c) to (R − 1, c). -/
def transposed (rows cols : Nat) (cs : List Nat) : List Nat :=
  (List.range cols).flatMap fun c => (List.range rows).map fun r => cs.getD (r * cols + c) 0

/-- Emits a filled block to its sink Ladle (R200 to R204). -/
def State.swageEmit (s : State) (r buf : Nat) : State :=
  let x := s.swage r
  let b := SMap.read {} x.bufs buf
  if !b.filled then s
  else
    let s := s.reach b.emitAt
    let out := transposed b.rows b.cols b.codes
    let err := match b.upset with
      | some (_, e) => e
      | none => 0
    let bad := (codeSum out + err) % 65521 != b.sum
    let s := if bad then s.laters b.emitAt r
        [.first (Reg.SWG_CHK r) 0 16 (Reg.SWG_CHKSLOT r) (BitVec.ofNat 32 s.slot),
         .count (Reg.SWG_CHK r) 0 16 1, .report 0x05 0 0x0207 (swageLoc r) 0 0]
      else s
    let unc := b.ecc.any eccBad
    let s := b.ecc.foldl (fun s e =>
      s.eccLater (eccBad e) r 0x05 0 (cellLoc r 0x05 0 e.1 (eccBit e)) e.1 b.emitAt) s
    let f := Fmt.get b.fmt
    let port : Port := ⟨r, b.sink, 0x1D⟩
    let total := x.bytes + packedBytes f.bits out.length
    let s := s.setReg (Reg.SWG_BYTES r) (BitVec.ofNat 32 (min (total / 1024) (2 ^ 32 - 1)))
    let fresh := match s.portStream port true with
      | some t => t.posScale == 0
      | none => false
    let s := s.giveElems port f out [] (fun _ => 0) (if fresh then scaleBlocks b.scales else [])
    let s := s.giveFlags port b.emitEnd [b.flags]
    let s := s.later b.emitEnd r (.flags (Reg.SWG_STAT r) b.flags)
    let s := s.endWrite port b.emitEnd (b.hallOk && !bad && !unc) (b.void || bad || unc)
      (if b.void then b.cause else if bad then 0x0207 else 0x0102)
    let x := s.swage r
    s.setSwage r { x with bufs := SMap.write {} x.bufs buf { b with filled := false }
                          bytes := total }

/-- The bytes `a` to `b` of a stream's side data that go with bytes `o` to `o + n` of its data, `size` bytes in all, where
each of the `count` items of `width` bytes goes with an equal part of the data. -/
def sideShare (size o n count width : Nat) : Nat × Nat :=
  if size = 0 || n = 0 || count = 0 then (0, 0)
  else (o * count / size * width, ((o + n) * count - 1) / size * width + width)

/-- The flag words of the input tiles that a block of a read stream lies in, and all the scale blocks beside the stream
(R201). Data up to `n` bytes further on are still to be taken. -/
def State.takeTiles (s : State) (p : Port) (n : Nat) : Taken × Taken × State :=
  match s.portStream p false with
  | none => ({}, {}, s)
  | some t =>
      let (a, b) := sideShare (blocksSize (t.ofKind 0)) t.posData n (blocksSize (t.ofKind 3) / 2) 2
      let s := s.onStream p fun t => { t with posScale := 0, posFlag := a }
      let (ks, s) := s.take p 2 (s.left p 2)
      let (kf, s) := s.take p 3 (b - a)
      (ks, kf, s)

/-- TRANSPOSE (R198 to R203): the fill side takes a block in row order. -/
def State.swageTranspose (s : State) (c : Cmd) : State :=
  let r := c.region
  let x := s.swage r
  let buf := bitsOf c.w.w2 8 2
  let (i, s) := s.issue c (swageLoc r)
    (max x.fillFree (SMap.read {} x.bufs buf).emitEnd) (2 ^ 16)
  if !i.go then s
  else
    let s := s.swageEmit r buf
    let src : Port := ⟨r, bitsOf c.w.w2 0 4, 0x1C⟩
    let snk := bitsOf c.w.w2 4 4
    let rows := bitsOf c.w.w2 16 8
    let cols := bitsOf c.w.w2 24 8
    let f := Fmt.get (bitsOf c.w.w2 12 4)
    let outs := s.outsOf ⟨r, snk, 0x1D⟩
    if rows * cols = 0 then
      let s := s.voidOuts i.ctx (if i.void then outs else []) i.cause
      s.track c i 0 (i.t + 1) outs
    else
      let n := rows * cols
      let fill := s.feedsBytes src (packedBytes f.bits n) i.t c.lateness
      let (ks, kf, s) := s.takeTiles src (packedBytes f.bits n)
      let (k, s) := s.take src 0 (packedBytes f.bits n)
      let s := s.takenBy src fill (i.t + (n * f.bits + 511) / 512 - 1)
      let fs := (List.range (kf.bytes.length / 2)).foldl (fun a j =>
        a ||| BitVec.ofNat 16 (leNat ((kf.bytes.drop (2 * j)).take 2))) (0 : FlagWord)
      let codes := unpackCodes f.bits n k.bytes
      let j := (k.join ks).join kf
      let s := s.later i.t r (.count (Reg.SWG_CHK r) 16 16 j.bad)
      let frz := frozenCycles fill
      let s := s.waitBreach i c (swageLoc r) frz
      let b := (n * f.bits + 511) / 512
      let x := s.swage r
      let start := max (i.t + b + 2 + frz) x.emitFree
      let void := i.void || j.void || s.freezeVoids i frz
      let blk : SwageBlock :=
        { rows := rows, cols := cols, fmt := f.code, sink := snk, codes := codes
          scales := ks.bytes, flags := fs, sum := codeSum codes, hallOk := j.hallOk, void := void
          cause := if i.void then i.cause else if j.void then j.cause else 0x0301
          filled := true, emitAt := start, emitEnd := start + b + 2, upset := c.fail, ecc := c.ecc }
      let s := s.setSwage r { x with
        bufs := SMap.write {} x.bufs buf blk, fillFree := i.t + b + frz, emitFree := start + b }
      s.track c i 0 (start + b + 2) outs

def execTranspose (c : Cmd) (s : State) : Host.Outcome State Fault Refusal :=
  admitted (Instr.transpose c).wf (s.swageTranspose c)

/-- TRANSPOSE_EMIT (R202): the filled block of a buffer is emitted once the emit side is free. -/
def execTransposeEmit (region buf : Nat) (s : State) : Host.Outcome State Fault Refusal :=
  .next (if s.engineLive region then s.swageEmit region buf else s)

/-! ## Crucible -/

/-- The Crucible of a region. -/
def State.crucible (s : State) (r : Nat) : Crucible := SMap.read {} s.crucibles r

/-- The state with a Crucible replaced. -/
def State.setCrucible (s : State) (r : Nat) (x : Crucible) : State :=
  { s with crucibles := SMap.write {} s.crucibles r x }

/-- A tensor record. -/
def Crucible.tensor (x : Crucible) (t : Nat) : Tensor := SMap.read {} x.tensors t

/-- The Crucible with a tensor record replaced. -/
def Crucible.setTensor (x : Crucible) (t : Nat) (y : Tensor) : Crucible :=
  { x with tensors := SMap.write {} x.tensors t y }

/-- The location of a Crucible. -/
def crucibleLoc (r : Nat) : BitVec 64 := blockLoc r 0x06 0

/-- A Crucible entry's value in units of its tensor's G (R205). The check bits are not held. -/
def readTensor (e : BitVec 128) : EntryVal :=
  if e.getLsbD 107 then
    match e.toNat / 2 ^ 104 % 8 with
    | 0 => .sat false
    | 1 => .sat true
    | 2 => .inf false
    | 3 => .inf true
    | _ => .nan
  else .fin (signBits 96 (e.toNat % 2 ^ 96))

/-- The code of a special value (R107, R205). -/
def specCode : EntryVal → Nat
  | .sat false => 0
  | .sat true => 1
  | .inf false => 2
  | .inf true => 3
  | .nan => 4
  | .fin _ => 0

/-- A Crucible entry (R205): V, or SPECIAL with SPEC and PAR, even parity over [108:104]. -/
def writeTensor : EntryVal → BitVec 128
  | .fin v => BitVec.ofNat 128 (wrapBits 96 v)
  | e =>
      let spec := specCode e
      let ones := spec % 2 + spec / 2 % 2 + spec / 4 % 2 + 1
      BitVec.ofNat 128 (spec * 2 ^ 104 + 2 ^ 107 + ones % 2 * 2 ^ 109)

/-- The 96-bit range of a running value (R213): the value, OVF, and whether it saturated now. -/
def tensorJudge : EntryVal → EntryVal × FlagWord × Bool
  | .fin v =>
      if v ≥ 2 ^ 95 || v < -(2 ^ 95) then (.sat (decide (v < 0)), Flag.ovf, true)
      else (.fin v, 0, false)
  | e => (e, 0, false)

/-- The flags that an incoming special entry sets (R213, log entry 10). -/
def incomingFlags : EntryVal → FlagWord
  | .nan => Flag.inv
  | .inf _ => Flag.ovf
  | .sat _ => Flag.ovf
  | .fin _ => 0

/-- The SECDED and parity errors of the entries that a Crucible command reads in cycle `t` (R32, R53, R205): whether one
was uncorrectable. -/
def State.crucibleErrors (s : State) (c : Cmd) (t : Nat) : Bool × State := s.eccCells c 0x06 0 t

/-- A refused Crucible command (R217): it completes at t + 1 and changes nothing. -/
def State.crucibleRefuse (s : State) (c : Cmd) (i : Issue) (outs : List (Nat × Nat)) : State :=
  let s := s.blockRaise c.region 0x06 0 0x0403 (crucibleLoc c.region) 0 0
  let s := s.voidOuts i.ctx outs 0x0403
  let s := s.setCrucible c.region { s.crucible c.region with free := i.t + 1 }
  s.track c i 0 (i.t + 1) outs

/-- Whether a context may use a tensor (R217). -/
def Tensor.usable (y : Tensor) (ctx : Option Nat) : Bool := y.isOpen && ctx == some y.owner

/-- OPEN (R206, R216, R217). -/
def State.crucibleOpen (s : State) (c : Cmd) : State :=
  let r := c.region
  let (i, s) := s.issue c (crucibleLoc r) (s.crucible r).free (2 ^ 17)
  if !i.go then s
  else
    let t := bitsOf c.w.w2 0 4
    let x := s.crucible r
    let y := x.tensor t
    if y.isOpen && i.ctx != some y.owner then s.crucibleRefuse c i []
    else
      let base := bitsOf c.w.w2 4 18
      let rows := bitsOf c.w.w3 0 13
      let cols := bitsOf c.w.w3 16 13
      let n := rows * cols
      let finish := i.t + (n + 7) / 8 + 2
      let x := { x with
        entries := SMap.drop x.entries fun k => decide (base ≤ k) && decide (k < base + n)
        free := finish }
      let x := x.setTensor t
        { isOpen := true, base := base, rows := rows, cols := cols, g := sbitsOf c.w.w4 0 12
          owner := c.ctx, seq := t }
      (s.setCrucible r x).track c i 0 finish []

/-- An ACCUM in progress: the entries, the flags, the residue, and the entries that saturated. -/
structure Accumulating where
  entries : SMap (BitVec 128)
  flags : FlagWord
  rho : Int
  sats : Nat

/-- One incoming element (R209, R213, R214): its entry's number, its value and its exponent. -/
def accumOne (g : Int) (x : Accumulating) (p : Nat × EntryVal × Int) : Accumulating :=
  let (k, v, e) := p
  let inc : EntryVal := match v with
    | .fin n => .fin (n * 2 ^ (e - g).toNat)
    | w => w
  let old := readTensor (SMap.read 0 x.entries k)
  let (sum, f) := old.add inc
  let (new, h, sat) := tensorJudge sum
  { entries := SMap.write 0 x.entries k (writeTensor new)
    flags := x.flags ||| f ||| h ||| incomingFlags v
    rho := x.rho + (match inc with
      | .fin n => n
      | _ => 0)
    sats := x.sats + (if sat then 1 else 0) }

/-- The scale blocks that a Ladle delivers to an ACCUM: its scale side stream, or its data stream where
it has none (log entry 11). -/
def State.takeBlocks (s : State) (p : Port) : ScaleInfo × Taken × State :=
  let kind := if 0 < s.left p 2 then 2 else 0
  let (k, s) := s.take p kind (s.left p kind)
  (scaleInfo (scaleBlocks k.bytes), k, s)

/-- A list of shifts lengthened to `n` with free values (R134 gives none to a missing entry). -/
def State.padShifts (s : State) (n : Nat) (xs : List Int) : List Int × State :=
  let miss := n - xs.length
  let (vs, s) := s.drawFor true miss
  ((xs ++ vs.map fun v => signBits 12 (v.toNat % 4096)).take n, s)

/-- ACCUM (R209 to R214). -/
def State.crucibleAccum (s : State) (c : Cmd) : State :=
  let r := c.region
  let loc := crucibleLoc r
  let (i, s) := s.issue c loc (s.crucible r).free (2 ^ 17)
  if !i.go then s
  else
    let t := bitsOf c.w.w2 0 4
    if !((s.crucible r).tensor t).usable i.ctx then s.crucibleRefuse c i []
    else
      let rows := bitsOf c.w.w4 0 13
      let cols := bitsOf c.w.w4 16 13
      let n := rows * cols
      if n = 0 then
        let s := s.setCrucible r { s.crucible r with free := i.t + 1 }
        s.track c i 0 (i.t + 1) []
      else
        let src := bitOf c.w.w2 16
        let step := s.stepNumber i.ctx
        let none' : ScaleInfo × Taken := (⟨[], []⟩, {})
        let ((rs, kr), s) := if src then (none', s) else
          let (a, b, s) := s.takeBlocks ⟨r, bitsOf c.w.w2 8 4, 0x1F⟩
          ((a, b), s)
        let ((cs, kc), s) := if src then (none', s) else
          let (a, b, s) := s.takeBlocks ⟨r, bitsOf c.w.w2 12 4, 0x20⟩
          ((a, b), s)
        let skew := !src && (decide (rs.shifts.length < rows) || decide (cs.shifts.length < cols)
          || tagsSkewed rs.tags step (bitsOf c.w.w6 0 4)
          || tagsSkewed cs.tags step (bitsOf c.w.w6 4 4))
        let s := if skew then s.scaleSkew i.ctx r 0xFF loc i.t else s
        let gone := !src && ((s.portStream ⟨r, bitsOf c.w.w2 8 4, 0x1F⟩ false).isNone ||
          (s.portStream ⟨r, bitsOf c.w.w2 12 4, 0x20⟩ false).isNone)
        let s := if gone then s.breach i.ctx loc c.w.w0 c.issue 0 else s
        let (rsh, s) := if src then ([], s) else s.padShifts rows rs.shifts
        let (csh, s) := if src then ([], s) else s.padShifts cols cs.shifts
        let sblk := if src then 0 else (rows + 13) / 14 + (cols + 13) / 14
        let data : Port := ⟨r, bitsOf c.w.w2 4 4, 0x1E⟩
        let fill := s.feedsBytes data (n * 16) (i.t + sblk) c.lateness
        let (k, s) := s.take data 0 (n * 16)
        let s := s.takenBy data fill (i.t + sblk + (n + 3) / 4 - 1)
        let j := (k.join kr).join kc
        let base := (Fmt.get (bitsOf c.w.w5 0 4)).weight + (Fmt.get (bitsOf c.w.w5 4 4)).weight
        let expo (a b : Nat) : Int :=
          if src then sbitsOf c.w.w5 8 12 else base + rsh.getD a 0 + csh.getD b 0
        let x := s.crucible r
        let dst := match c.slip with
          | some (_, q) => q % 16
          | none => t
        let y := x.tensor dst
        let low := (List.range rows).any fun a => (List.range cols).any fun b =>
          decide (expo a b < y.g)
        let frz := frozenCycles fill
        let s := s.waitBreach i c loc frz
        let (unc, s) := s.crucibleErrors c i.t
        let void := i.void || j.void || skew || unc || (gone && s.exact) || s.freezeVoids i frz
        let finish := i.t + sblk + (n + 3) / 4 + 7 + frz
        let skewF := flagIf skew Flag.skew
        let s := if low then
            let s := s.laters i.t r [.count (Reg.CRU_SAT r) 16 16 1, .report 0x06 0 0x0402 loc 0 0]
            let s := s.later finish r (.flags (Reg.CRU_STAT r) skewF)
            s.setCrucible r ({ x with free := finish }.setTensor dst
              { y with void := true, count := min (y.count + 1) (2 ^ 32 - 1)
                       flags := y.flags ||| skewF, hallOk := y.hallOk && j.hallOk, seq := t })
          else
            let els := (List.range n).map fun q =>
              (y.base + (bitsOf c.w.w3 0 13 + q / cols) * y.cols + bitsOf c.w.w3 16 13 + q % cols,
                readExact (BitVec.ofNat 128 (leNat ((k.bytes.drop (16 * q)).take 16))),
                expo (q / cols) (q % cols))
            let err : Int := match c.fail with
              | some (_, e) => e
              | none => 0
            let z := els.foldl (accumOne y.g) ⟨x.entries, y.flags ||| skewF, (y.rho : Int) + err, 0⟩
            let s := s.laters finish r [.count (Reg.CRU_SAT r) 0 16 z.sats, .flags (Reg.CRU_STAT r) z.flags]
            s.setCrucible r ({ x with entries := z.entries, free := finish }.setTensor dst
              { y with flags := z.flags, void := y.void || void, hallOk := y.hallOk && j.hallOk
                       count := min (y.count + 1) (2 ^ 32 - 1), rho := residue z.rho, seq := t })
        s.track c i 0 finish []

/-- The value of a tensor entry (R215): saturated entries and infinities are infinite sources. -/
def tensorValue (g : Int) (e : BitVec 128) : FVal :=
  match readTensor e with
  | .fin v => FVal.ofInt v g
  | .sat n => .inf n
  | .inf n => .inf n
  | .nan => .qnan

/-- FLUSH (R214, R215). -/
def State.crucibleFlush (s : State) (c : Cmd) : State :=
  let r := c.region
  let loc := crucibleLoc r
  let (i, s) := s.issue c loc (s.crucible r).free (2 ^ 17)
  if !i.go then s
  else
    let t := bitsOf c.w.w2 0 4
    let port : Port := ⟨r, bitsOf c.w.w2 4 4, 0x21⟩
    let outs := s.outsOf port
    let y := (s.crucible r).tensor t
    if !y.usable i.ctx then s.crucibleRefuse c i outs
    else
      let x := s.crucible r
      let n := y.rows * y.cols
      let es := (List.range n).map fun q => SMap.read 0 x.entries (y.base + q)
      let special := es.any fun e => e.getLsbD 107
      let found := residue (es.map fun e => match readTensor e with
        | .fin v => v
        | _ => 0).sum
      let err := match c.fail with
        | some (_, e) => e
        | none => 0
      let found := (found + err) % 65521
      let bad := !special && found != y.rho
      let s := if bad then s.later i.t r (.report 0x06 0 0x0209 loc 0 0) else s
      let skip := y.seq != t
      let s := if skip then s.later i.t r (.report 0x06 0 0x0202 loc (t * 65536) (y.seq * 65536)) else s
      let (unc, s) := s.crucibleErrors c i.t
      let fp := bitOf c.w.w2 8
      let frz := delayCycles c.backup
      let s := s.waitBreach i c loc frz
      let finish := i.t + (if fp then (n + 7) / 8 else (n + 3) / 4) + 10 + frz
      let conv := es.map fun e =>
        if fp then Fmt.fp32.encode none false .nearestEven 0 (tensorValue y.g e) else (0, 0)
      let s := if fp then s.giveElems port .fp32 (conv.map (·.1)) [] (fun _ => 0) []
        else s.giveRaw port (es.map fun e => writeExact (readTensor e)) fun e =>
          match readExact e with
          | .fin v => FVal.ofInt v y.g
          | .sat b => .inf b
          | .inf b => .inf b
          | .nan => .qnan
      let fl := (List.range ((y.rows + 63) / 64)).map fun q =>
        (((conv.drop (64 * q * y.cols)).take (64 * y.cols)).foldl (fun a p => a ||| p.2) y.flags)
      let s := s.giveFlags port finish fl
      let s := s.later finish r (.flags (Reg.CRU_STAT r) (fl.foldl (fun a b => a ||| b) 0))
      let void := i.void || y.void || bad || skip || unc || s.freezeVoids i frz
      let cause := if i.void then i.cause else if bad then 0x0209 else if skip then 0x0202
        else if unc then 0x0102 else 0x0301
      let s := s.endWrite port finish (y.hallOk && !bad && !skip && !unc) void cause
      let x := s.crucible r
      let s := s.setCrucible r ({ x with free := finish }.setTensor t
        { y with void := y.void || bad || unc, isOpen := y.isOpen && !bitOf c.w.w2 9 })
      s.track c i 0 finish outs

def execOpen (c : Cmd) (s : State) : Host.Outcome State Fault Refusal :=
  admitted (Instr.openTensor c).wf (s.crucibleOpen c)

def execAccum (c : Cmd) (s : State) : Host.Outcome State Fault Refusal :=
  admitted (Instr.accum c).wf (s.crucibleAccum c)

def execFlush (c : Cmd) (s : State) : Host.Outcome State Fault Refusal :=
  admitted (Instr.flush c).wf (s.crucibleFlush c)

end Sys2Proof.Machine
end

