-- ==== Sys2Proof/Machine/Approx.lean ====
section
/-! DEFINITION. The fast Planisher operations of stated accuracy (R229): the exact result to 2^-56, and
the binary32 values that lie within the accuracy of it. -/

namespace Sys2Proof.Machine

open Sys2Proof

/-- Fraction bits of the fixed-point numbers below. -/
def fixBits : Nat := 128

/-- One, in fixed point. -/
def fixOne : Nat := 2 ^ fixBits

/-- 2^(2^-i) for i from 0 to `n`, each the square root of the one before. -/
def rootsOfTwo : Nat → List Nat
  | 0 => [2 * fixOne]
  | n + 1 =>
      let rs := rootsOfTwo n
      let r := rs.getLastD fixOne * fixOne
      rs ++ [isqrt (Nat.log2 r / 2 + 1) r 0]

/-- 2^f for a fraction `f` given in units of 2^-64. -/
def exp2Frac (f : Nat) : Nat :=
  let rs := rootsOfTwo 64
  (List.range 64).foldl (fun a i =>
    if f.testBit (63 - i) then a * rs.getD (i + 1) fixOne / fixOne else a) fixOne

/-- log2 of a mantissa between 1 and 2, in units of 2^-64. -/
def log2Frac : Nat → Nat → Nat
  | 0, _ => 0
  | k + 1, y =>
      let z := y * y / fixOne
      if 2 * fixOne ≤ z then 2 ^ k + log2Frac k (z / 2) else log2Frac k z

/-- A finite value in units of 2^-q, rounded toward −∞. -/
def fixedOf (q : Nat) : FVal → Int
  | .fin n m e =>
      let k := e + q
      if 0 ≤ k then (if n then -(m * 2 ^ k.toNat : Nat) else (m * 2 ^ k.toNat : Nat))
      else
        let d := 2 ^ (-k).toNat
        if n then -(((m + d - 1) / d : Nat) : Int) else (m / d : Nat)
  | _ => 0

/-- 2^x for x in units of 2^-64. -/
def exp2Fixed (x : Int) : FVal :=
  let n := x / 2 ^ 64
  .fin false (exp2Frac (x % 2 ^ 64).toNat) (n - fixBits)

/-- log2 e in units of 2^-64. -/
def log2E : Nat := 26613026195688644984

/-- e^x for x in units of 2^-64. -/
def expFixed (x : Int) : FVal := exp2Fixed (x * log2E / 2 ^ 64)

/-- Clamps the operand of an exponential to where its result has long settled. -/
def clampExp (x : Int) : Int := max (-(512 * 2 ^ 64)) (min x (512 * 2 ^ 64))

/-- The exact result of EXP2, LOG2, TANH or SIGM of a finite operand in its domain, to 2^-56. -/
def exp2Val (a : FVal) : FVal := exp2Fixed (clampExp (fixedOf 64 a))

def log2Val : FVal → FVal
  | .fin _ m e =>
      let l := Nat.log2 m
      let y := if l ≤ fixBits then m * 2 ^ (fixBits - l) else m / 2 ^ (l - fixBits)
      FVal.ofInt (((l : Int) + e) * 2 ^ 64 + log2Frac 64 y) (-64)
  | v => v

/-- (1 − t) ÷ (1 + t) and 1 ÷ (1 + t) for a finite t. -/
def ratio (minus : Bool) (t : FVal) : FVal :=
  let one : FVal := .fin false 1 0
  let den := (one.add .nearestEven t).1
  let num := if minus then (one.add .nearestEven t.negate).1 else one
  (num.div den).1

def tanhVal (a : FVal) : FVal :=
  let x := clampExp (fixedOf 64 a)
  let r := ratio true (expFixed (-(2 * (x.natAbs : Int))))
  if a.isNeg then r.negate else r

def sigmVal (a : FVal) : FVal := ratio false (expFixed (-(clampExp (fixedOf 64 a))))

/-! ## Values within an accuracy -/

/-- The order number of a binary32 code: adjacent values differ by 1, and both zeros are 0. -/
def ordOf (c : Nat) : Int := if c / 2 ^ 31 = 1 then -((c % 2 ^ 31 : Nat) : Int) else (c % 2 ^ 31 : Nat)

/-- The binary32 code of an order number. -/
def codeOfOrd (neg : Bool) (o : Int) : Nat :=
  if o = 0 then (if neg then 2 ^ 31 else 0)
  else if o < 0 then 2 ^ 31 + o.natAbs else o.natAbs

/-- The finite binary32 value next to `v` in a direction, as an order number. -/
def boundOrd (mode : RMode) (v : FVal) : Int :=
  match v with
  | .fin n m e =>
      let (c, _, _) := binary32.encodeMag mode n m e
      let c := min c binary32.maxCode
      if n then -(c : Int) else c
  | _ => 0

/-- One unit in the last place of a finite value in binary32. -/
def ulpOf : FVal → FVal
  | .fin _ 0 _ => .fin false 1 (-149)
  | .fin _ m e => .fin false 1 (max (-149) ((Nat.log2 m : Int) + e - 23))
  | v => v

/-- A binary32 value within `tol` of the exact value `v`, which `free` chooses (R229). A result beyond
the range follows fast mode (R117). -/
def within (v tol : FVal) (free : Nat) : Nat × FlagWord :=
  let (c, f) := binary32.encodeFast false v
  if hasFlag f Flag.ovf then (c, f)
  else
    let lo := boundOrd .up (v.add .nearestEven tol.negate).1
    let hi := boundOrd .down (v.add .nearestEven tol).1
    let n := (hi - lo).toNat + 1
    if hi < lo then (c, f) else (codeOfOrd v.isNeg (lo + (free % n : Nat)), 0)

/-- 2^-22. -/
def absTol : FVal := .fin false 1 (-22)

/-- Two units in the last place. -/
def twoUlp (v : FVal) : FVal := (ulpOf v).scale 1

/-- The canonical NaN of binary32, as fast mode writes it. -/
def nan32 : Nat := binary32.nanCode

/-- The largest finite binary32 value of a sign, for an infinite result in fast mode (R117). -/
def big32 (neg : Bool) : Nat := binary32.sign neg + binary32.maxCode

/-- A fast operation of stated accuracy (R229, R230): codes 0x0B to 0x10, 0x13 and 0x14. -/
def approxOp (op : Nat) (a b : BitVec 32) : Nat × FlagWord :=
  let x := binary32.decode a.toNat
  let y := binary32.decode b.toNat
  let free := Config.approx op a b
  let sig := flagIf (x.isSignalling || ((op = 0x13 || op = 0x14) && y.isSignalling)) Flag.inv
  let pole (neg : Bool) : Nat × FlagWord := (big32 neg, Flag.dbz ||| Flag.ovf)
  if x.isNan || ((op = 0x13 || op = 0x14) && y.isNan) then (nan32, sig)
  else match op with
  | 0x0B =>
      if x.isZero then pole x.isNeg
      else if x.isInf then (binary32.sign x.isNeg, 0)
      else
        let v := ((FVal.fin false 1 0).div x).1
        within v (ulpOf v) free
  | 0x0C =>
      if x.isZero then pole x.isNeg
      else if x.isNeg then (nan32, Flag.inv)
      else if x.isInf then (0, 0)
      else
        let v := ((FVal.fin false 1 0).div x.sqrt.1).1
        within v (ulpOf v) free
  | 0x0D =>
      if x.isInf then if x.isNeg then (0, 0) else (big32 false, Flag.ovf)
      else
        let v := exp2Val x
        within v (ulpOf v) free
  | 0x0E =>
      if x.isZero then pole true
      else if x.isNeg then (nan32, Flag.inv)
      else if x.isInf then (big32 false, Flag.ovf)
      else
        let v := log2Val x
        let near := !x.lt (.fin false 1 (-1)) && !(FVal.fin false 1 1).lt x
        within v (if near then absTol else ulpOf v) free
  | 0x0F =>
      let one : FVal := .fin x.isNeg 1 0
      within (if x.isInf then one else tanhVal x) absTol free
  | 0x10 =>
      let v := if x.isInf then (if x.isNeg then .zero else .fin false 1 0) else sigmVal x
      within v absTol free
  | _ =>
      let one : FVal := .fin false 1 0
      let (p, f) := if op = 0x13 then x.mul x else (x, 0)
      let (q, g) := one.add .nearestEven p.negate
      let (r, h) := if op = 0x13 then (y, 0) else y.mul x
      let (v, k) := r.mul q
      let fl := f ||| g ||| h ||| k
      if v.isNan then (nan32, fl)
      else if v.isInf then (big32 v.isNeg, fl ||| Flag.ovf)
      else
        let (c, w) := within v (twoUlp v) free
        (c, fl ||| w)

end Sys2Proof.Machine
end

