-- ==== Sys2Proof/Machine/Planisher.lean ====
section
/-! DEFINITION. The Planisher commands (R223 to R243): TLOAD, TSTORE, EWISE and REDUCE. -/

namespace Sys2Proof.Machine

open Sys2Proof

/-! ## Element arithmetic (R229 to R235) -/

/-- An element that an operation gave: its bits, its flags, and whether it is a 0 × ∞ (R122). -/
structure Lane where
  bits : Word
  flags : FlagWord := 0
  zeroInf : Bool := false
  deriving DecidableEq, Repr

/-- The value of a binary32 element. -/
def fp (w : Word) : FVal := binary32.decode w.toNat

/-- Ends a binary32 operation in its mode (R117 to R119). -/
def endFp (strict : Bool) (mode : RMode) (v : FVal × FlagWord) : Lane :=
  if strict then
    let (c, f) := binary32.encodeStrict mode v.1
    ⟨BitVec.ofNat 32 c, v.2 ||| f, false⟩
  else
    let (c, f) := binary32.encodeFast false v.1
    ⟨BitVec.ofNat 32 c, (v.2 &&& (Flag.inv ||| Flag.dbz ||| Flag.ovf)) ||| f, false⟩

/-- The element of a 0 × ∞ product (R122). -/
def zeroInfLane (f : FlagWord) : Lane := ⟨BitVec.ofNat 32 nan32, f ||| Flag.inv, true⟩

/-- A × B + C with one rounding (R229). -/
def fmaVal (mode : RMode) (a b c : FVal) : FVal × FlagWord :=
  match firstNan [a, b, c] with
  | some n => (n, signalFlag [a, b, c])
  | none =>
    let (p, f) := a.mul b
    let (r, g) := p.add mode c
    (r, f ||| g)

/-- Maximum or minimum of IEEE 754-2019: NaN propagates, −0 < +0 (R229). -/
def extremum (big : Bool) (a b : FVal) : FVal × FlagWord :=
  match firstNan [a, b] with
  | some n => (n, signalFlag [a, b])
  | none =>
    let less := a.lt b || (a.isZero && b.isZero && a.isNeg && !b.isNeg)
    (if big == less then b else a, 0)

/-- An element that moves or changes sign (R229): in fast mode a NaN is canonical and an infinity the
largest finite value, without a flag. -/
def moved (strict : Bool) (w : Word) : Lane :=
  if strict then ⟨w, 0, false⟩ else ⟨BitVec.ofNat 32 (binary32.encodeFast false (fp w)).1, 0, false⟩

/-- An integer limited to 32 bits, with Overflow (R230, R234). -/
def satInt (i : Int) : Lane :=
  if i ≥ 2 ^ 31 then ⟨BitVec.ofInt 32 (2 ^ 31 - 1), Flag.ovf, false⟩
  else if i < -(2 ^ 31) then ⟨BitVec.ofInt 32 (-(2 ^ 31)), Flag.ovf, false⟩
  else ⟨BitVec.ofInt 32 i, 0, false⟩

/-- CVTI of a value (R230). -/
def cvti (strict : Bool) (mode : RMode) (v : FVal) : Lane :=
  match v with
  | .nan _ _ => ⟨0, Flag.inv, false⟩
  | .inf n => ⟨if n then BitVec.ofInt 32 (-(2 ^ 31)) else BitVec.ofInt 32 (2 ^ 31 - 1), Flag.inv, false⟩
  | .fin n m e =>
      let (r, ix) := roundMag (if strict then mode else .nearestEven) n m e 0
      let i : Int := if n then -(r : Int) else r
      if i ≥ 2 ^ 31 then ⟨BitVec.ofInt 32 (2 ^ 31 - 1), Flag.inv, false⟩
      else if i < -(2 ^ 31) then ⟨BitVec.ofInt 32 (-(2 ^ 31)), Flag.inv, false⟩
      else ⟨BitVec.ofInt 32 i, flagIf (strict && ix) Flag.inx, false⟩

/-- The operations that only an FP tile takes, or that take FP by the tile's tag (R229). -/
def fpElem (op : Nat) (strict : Bool) (mode : RMode) (a b c imm : Word) : Lane :=
  let x := fp a
  let y := fp b
  match op with
  | 0x00 => endFp strict mode (x.add mode y)
  | 0x01 => endFp strict mode (x.add mode (if y.isNan then y else y.negate))
  | 0x02 => if zeroTimesInf x y then zeroInfLane 0 else endFp strict mode (x.mul y)
  | 0x03 => if zeroTimesInf x y then zeroInfLane (signalFlag [fp c])
      else endFp strict mode (fmaVal mode x y (fp c))
  | 0x04 => endFp strict mode (extremum true x y)
  | 0x05 => endFp strict mode (extremum false x y)
  | 0x06 => moved strict (a &&& 0x7FFFFFFF)
  | 0x07 => moved strict (a ^^^ 0x80000000)
  | 0x08 => endFp strict mode (match firstNan [x] with
      | some n => (n, signalFlag [x])
      | none => (x.scale (max (-600) (min 600 imm.toInt)), 0))
  | 0x09 => endFp strict mode (x.div y)
  | 0x0A => endFp strict mode x.sqrt
  | 0x11 => if x.isNan || x.isNeg || x.isZero then ⟨0, 0, false⟩ else endFp false .nearestEven (x, 0)
  | 0x12 => if x.isNan || x.isNeg || x.isZero then ⟨0, 0, false⟩ else endFp false .nearestEven (y, 0)
  | 0x15 => moved strict (if c = 0 then b else a)
  | 0x16 => if x.isNan || y.isNan then ⟨0, Flag.inv, false⟩ else ⟨if y.lt x then 1 else 0, 0, false⟩
  | 0x17 => cvti strict mode x
  | 0x1E => moved strict a
  | _ =>
      let (r, f) := approxOp op a b
      ⟨BitVec.ofNat 32 r, f, false⟩

/-- The operations on INT elements (R229, R230). -/
def intElem (op : Nat) (strict : Bool) (mode : RMode) (a b c : Word) : Lane :=
  let x := a.toInt
  let y := b.toInt
  match op with
  | 0x00 => satInt (x + y)
  | 0x01 => satInt (x - y)
  | 0x02 => satInt (x * y)
  | 0x04 => ⟨if x < y then b else a, 0, false⟩
  | 0x05 => ⟨if y < x then b else a, 0, false⟩
  | 0x06 => satInt x.natAbs
  | 0x07 => satInt (-x)
  | 0x15 => ⟨if c = 0 then b else a, 0, false⟩
  | 0x16 => ⟨if y < x then 1 else 0, 0, false⟩
  | 0x18 => endFp strict mode (FVal.ofInt x 0, 0)
  | 0x19 => ⟨a &&& b, 0, false⟩
  | 0x1A => ⟨a ||| b, 0, false⟩
  | 0x1B => ⟨a ^^^ b, 0, false⟩
  | 0x1C => ⟨a <<< (b.toNat % 32), 0, false⟩
  | 0x1D => ⟨a.sshiftRight (b.toNat % 32), 0, false⟩
  | _ => ⟨a, 0, false⟩

/-- Whether an operation takes its operand A as an integer, given the tile's tag. -/
def opTakesInt (op : Nat) (tag : Bool) : Bool :=
  if [0x18, 0x19, 0x1A, 0x1B, 0x1C, 0x1D].contains op then true
  else if [0x00, 0x01, 0x02, 0x04, 0x05, 0x06, 0x07, 0x15, 0x16, 0x1E].contains op then tag else false

/-- Whether an operation's result tile is INT (R224, R229). -/
def opGivesInt (op : Nat) (tag : Bool) : Bool :=
  if [0x16, 0x17, 0x19, 0x1A, 0x1B, 0x1C, 0x1D].contains op then true
  else if op = 0x18 then false else opTakesInt op tag

/-- One element of EWISE. -/
def ewiseElem (op : Nat) (int strict : Bool) (mode : RMode) (a b c imm : Word) : Lane :=
  if opTakesInt op int then intElem op strict mode a b c else fpElem op strict mode a b c imm

/-- A product rounded once to binary32, as a value (R229). -/
def round32 (v : FVal × FlagWord) : FVal × FlagWord :=
  let (c, f) := binary32.encodeStrict .nearestEven v.1
  (binary32.decode c, v.2 ||| (f &&& Flag.ovf))

/-- CMUL, CMAG2 and CONJ on the pair a + jb, c + jd (R229, R237). -/
def pairElem (op : Nat) (strict : Bool) (a b c d : Word) : Lane × Lane :=
  let x := fp a
  let y := fp b
  match op with
  | 0x20 =>
      let u := fp c
      let v := fp d
      let bd := round32 (y.mul v)
      let bc := round32 (y.mul u)
      let re := fmaVal .nearestEven x u (if bd.1.isNan then bd.1 else bd.1.negate)
      let im := fmaVal .nearestEven x v bc.1
      let one (bad : Bool) (f : FlagWord) (r : FVal × FlagWord) : Lane :=
        if bad then zeroInfLane f else endFp false .nearestEven (r.1, r.2 ||| f)
      (one (zeroTimesInf x u || zeroTimesInf y v) bd.2 re,
        one (zeroTimesInf x v || zeroTimesInf y u) bc.2 im)
  | 0x21 =>
      let q := round32 (y.mul y)
      let r := fmaVal .nearestEven x x q.1
      let l := endFp false .nearestEven (r.1, r.2 ||| q.2)
      (l, l)
  | _ => (moved strict a, moved strict (b ^^^ 0x80000000))

/-! ## Tile registers (R223, R224) -/

/-- A Planisher. -/
def State.planisher (s : State) (r p : Nat) : Planisher := SMap.read {} s.planishers (r * 2 + p)

/-- The state with a Planisher replaced. -/
def State.setPlanisher (s : State) (r p : Nat) (x : Planisher) : State :=
  { s with planishers := SMap.write {} s.planishers (r * 2 + p) x }

/-- Key of an element. -/
def tileKey (tile row lane : Nat) : Nat := (tile * 64 + row % 64) * 64 + lane % 64

/-- An element of a tile register. -/
def Planisher.elem (x : Planisher) (tile row lane : Nat) : Word :=
  SMap.read 0 x.elems (tileKey tile row lane)

/-- What a tile keeps beside a row. -/
def Planisher.row (x : Planisher) (tile row : Nat) : PlnRow :=
  SMap.read {} x.rows (tile * 64 + row % 64)

/-- The type tag of a tile: INT or FP. -/
def Planisher.int (x : Planisher) (tile : Nat) : Bool := SMap.read false x.ints tile

/-- Writes lanes of a row with their flags. A full row replaces the row's flags and VOID, a part of one
adds to them (log entry 12). -/
def Planisher.put (x : Planisher) (tile row : Nat) (full : Bool) (side : PlnRow)
    (es : List (Nat × Lane)) : Planisher :=
  let old := x.row tile row
  let fl := es.foldl (fun f e => f ||| e.2.flags) side.flags
  let new : PlnRow := if full then { side with flags := fl }
    else { flags := old.flags ||| fl, void := old.void || side.void
           cause := if old.void then old.cause else side.cause, hallOk := old.hallOk && side.hallOk }
  { x with
    elems := es.foldl (fun m e => SMap.write 0 m (tileKey tile row e.1) e.2.bits) x.elems
    rows := SMap.write {} x.rows (tile * 64 + row % 64) new }

/-- The Planisher with a tile's tag set. -/
def Planisher.tag (x : Planisher) (tile : Nat) (int : Bool) : Planisher :=
  { x with ints := SMap.write false x.ints tile int }

/-- VOID and hallmarks of rows together; the first cause stands. -/
def joinRows (a b : PlnRow) : PlnRow :=
  { void := a.void || b.void, cause := if a.void then a.cause else b.cause, hallOk := a.hallOk && b.hallOk }

/-- When a command may issue (R239): its slot is free, and no command of the other slot touches its
tiles. -/
def Planisher.freeFor (x : Planisher) (arith : Bool) (reads writes : List Nat) : Nat :=
  x.flight.foldl (fun t f =>
    if f.arith == arith then max t f.free
    else if f.writes.any (fun w => reads.contains w || writes.contains w)
        || f.reads.any (fun w => writes.contains w) then max t f.finish
    else t) 0

/-- The Planisher with a command in flight in a slot. -/
def Planisher.fly (x : Planisher) (f : PlnFlight) : Planisher :=
  { x with flight := f :: x.flight.filter fun g => g.arith != f.arith }

/-- The location of a Planisher. -/
def planLoc (c : Cmd) : BitVec 64 := blockLoc c.region 0x02 c.unit

/-- The bit of a Planisher in ENGINES (R312). -/
def planBit (c : Cmd) : Nat := 2 ^ (4 + c.unit)

/-- Cycles of one row in a format (R238). -/
def rowCycles (f : Fmt) : Nat := ((64 * f.bits + 7) / 8 + (if f.isBfp then 4 else 0) + 63) / 64

/-- The issue of a Planisher command. -/
def State.planIssue (s : State) (c : Cmd) (arith : Bool) (reads writes : List Nat) :
    Issue × State :=
  s.issue c (planLoc c) ((s.planisher c.region c.unit).freeFor arith reads writes) (planBit c)

/-- The witness comparison of an arithmetic command in cycle `t` (R241, R242). -/
def State.witness (s : State) (c : Cmd) (t : Nat) : Bool × State :=
  match c.fail with
  | none => (false, s)
  | some (lane, _) =>
      let k := Reg.PLN_WIT c.region c.unit
      (true, s.laters t c.region
        [.latch k 31 [(k, BitVec.ofNat 32 (s.fld k 0 16 + lane % 64 * 2 ^ 16 + 2 ^ 31)),
          (Reg.PLN_WITSLOT c.region c.unit, BitVec.ofNat 32 s.slot)],
         .count k 0 16 1,
         .report 0x02 c.unit 0x0205 (cellLoc c.region 0x02 c.unit (lane % 64) 0xFF) (lane % 64) (t % 2 ^ 21)])

/-- Latches a 0 × ∞ at cycle `t` (R237). -/
def State.planZero (s : State) (c : Cmd) (tile t : Nat) : Option (Nat × Nat) → State
  | none => s
  | some (row, lane) =>
      let k := Reg.PLN_ZIPOS c.region c.unit
      s.later t c.region (.latch k 31 [(Reg.PLN_ZISLOT c.region c.unit, BitVec.ofNat 32 s.slot),
        (k, BitVec.ofNat 32 (row % 64 + lane % 64 * 64 + tile * 4096 + 2 ^ 31))])

/-- The sticky status and lane masks of a command's flags, at its completion (R121, R236). -/
def State.planFlags (s : State) (c : Cmd) (t : Nat) (fs : List (Nat × FlagWord)) : State :=
  let raised := fs.filter fun f => f.2 != 0
  let mask (lo : Nat) : Word := raised.foldl (fun w f =>
    if lo ≤ f.1 && f.1 < lo + 32 then w ||| BitVec.ofNat 32 (2 ^ (f.1 - lo)) else w) 0
  s.laters t c.region
    [.flags (Reg.PLN_STAT c.region c.unit) (raised.foldl (fun a f => a ||| f.2) 0),
     .mask (Reg.PLN_LFLG0 c.region c.unit) (mask 0), .mask (Reg.PLN_LFLG1 c.region c.unit) (mask 32)]

/-- Cycles of rows counted in PLN.ACT and PLN.STRICT as they pass: `n` from cycle `t` on. -/
def State.planCycles (s : State) (c : Cmd) (strict : Bool) (t n : Nat) : State :=
  let s := s.laters (t + n - 1) c.region [.count (Reg.PLN_ACT c.region c.unit) 0 32 n]
  if strict then s.later (t + n - 1) c.region (.count (Reg.PLN_STRICT c.region c.unit) 0 32 n) else s

/-! ## TLOAD and TSTORE -/

/-- The bits that a loaded value takes in an FP tile (R225): binary32 bits unchanged, other values in
fast mode with an infinity or NaN loaded as its value. -/
def loadBits (f : Fmt) (v : FVal) : Word × FlagWord :=
  match v with
  | .nan n p =>
      (BitVec.ofNat 32 (binary32.sign n + binary32.infCode
        + (if f == .fp32 then p / 2 ^ 29 else (p / 2 ^ 29) ||| 2 ^ 22)), 0)
  | .inf n => (BitVec.ofNat 32 (binary32.sign n + binary32.infCode), 0)
  | w =>
      let (c, fl) := binary32.convertFast false w
      (BitVec.ofNat 32 c, fl)

/-- TLOAD (R225). -/
def State.planTload (s : State) (c : Cmd) : State :=
  let r := c.region
  let p := c.unit
  let tile := bitsOf c.w.w2 8 3
  let (i, s) := s.planIssue c false [] [tile]
  if !i.go then s
  else
    let rows := bitsOf c.w.w2 11 7
    let row0 := bitsOf c.w.w2 18 6
    if rows = 0 then s.track c i 0 (i.t + 1) []
    else
      let l := bitsOf c.w.w2 0 4
      let f := Fmt.get (bitsOf c.w.w2 4 4)
      let int := c.flag 3
      let base := bitsOf c.w.w3 0 8
      let cnt := bitsOf c.w.w3 8 8 + 1
      let cplx := c.flag 1
      let rowAxis := bitOf c.w.w3 16
      let chan (j : Nat) : Nat :=
        (if rowAxis then j / 64 else if cplx then j % 64 / 2 else j % 64) % cnt
      let s0 := s
      let zp (j : Nat) : Option Nat :=
        if f.isInt && !int then s0.zeroPoint (chanKey r (6 + l) (base + chan j)) else none
      let port : Port := ⟨r, l, 0x10 + 2 * p⟩
      let fs := s.feedsElems port f rows 64 (fun q => i.t + q * rowCycles f) c.lateness
      let (e, s) := s.takeElems port (rows * 64) (rows * 4) f zp
      let s := s.takenBy port fs (i.t + rows * rowCycles f - 1) (rowCycles f)
      let skew := tagsSkewed e.scale.tags (s.stepNumber i.ctx) (bitsOf c.w.w3 20 4)
      let frz := frozenCycles fs
      let occ := rows * rowCycles f + frz
      let finish := i.t + occ + 10
      let s := if skew then s.scaleSkew i.ctx r (4 + p) (planLoc c) finish else s
      let s := s.shadowFault r 0x02 p c.shadow finish
      let s := s.freezeBreaches i c (planLoc c) fs
      let load (j : Nat) : Lane :=
        let v := e.vals.getD j .zero
        if int then match v with
          | .fin n m _ => ⟨BitVec.ofInt 32 (if n then -(m : Int) else m), 0, false⟩
          | _ => ⟨0, 0, false⟩
        else
          let sh : Int := if f.isBfp then (e.exps.getD (j / 16) 0 : Int) - 127
            else if f.isFixed then scaleShift e.scale.shifts (chan j) else 0
          let (b, fl) := loadBits f (v.scale sh)
          ⟨b, fl, false⟩
      let void := i.void || e.taken.void || skew || c.shadow.isSome || s.freezeVoids i frz
      let side : PlnRow :=
        { flags := flagIf skew Flag.skew, void := void
          cause := if !void then 0 else if i.void then i.cause else if e.taken.void then e.taken.cause
            else if skew then 0x0401 else if c.shadow.isSome then 0x0206 else 0x0301
          hallOk := e.taken.hallOk }
      let x := (List.range rows).foldl (fun x q =>
        if i.ctx.isNone && decide (s.slotLen ≤ delayedEnd fs (i.t + (q + 1) * rowCycles f)) then
          x.put tile (row0 + q) false { side with void := true, cause := if void then side.cause else 0x0302 } []
        else
          x.put tile (row0 + q) true side ((List.range 64).map fun n => (n, load (q * 64 + n))))
        (s.planisher r p)
      let x := (x.tag tile int).fly ⟨false, [], [tile], i.t + occ, finish⟩
      let s := s.setPlanisher r p x
      let s := s.planFlags c finish ((List.range (rows * 64)).map fun j => (j % 64, (load j).flags))
      let s := s.later finish r (.flags (Reg.PLN_STAT r p) (flagIf skew Flag.skew))
      s.track c i 0 finish []

/-- The code of an INT element in its target (R243): limited to the target's codes. -/
def storeInt (f : Fmt) (zp : Option Nat) (w : Word) : Nat × FlagWord :=
  let i := w.toInt
  let lo : Int := if zp.isSome then 0 else -(2 ^ (f.bits - 1))
  let hi : Int := if zp.isSome then 2 ^ f.bits - 1 else 2 ^ (f.bits - 1) - 1
  (wrapBits f.bits (max lo (min i hi)), flagIf (i < lo || hi < i) Flag.ovf)

/-- TSTORE (R236, R242, R243). -/
def State.planTstore (s : State) (c : Cmd) : State :=
  let r := c.region
  let p := c.unit
  let tile := bitsOf c.w.w2 8 3
  let port : Port := ⟨r, bitsOf c.w.w2 0 4, 0x11 + 2 * p⟩
  let (i, s) := s.planIssue c false [tile] []
  if !i.go then s
  else
    let outs := s.outsOf port
    let rows := bitsOf c.w.w2 11 7
    let row0 := bitsOf c.w.w2 18 6
    if rows = 0 then
      let s := s.voidOuts i.ctx (if i.void then outs else []) i.cause
      s.track c i 0 (i.t + 1) outs
    else
      let f := Fmt.get (bitsOf c.w.w2 4 4)
      let base := bitsOf c.w.w3 0 8
      let cplx := c.flag 1
      let rowAxis := bitOf c.w.w3 16
      let cnt := min (bitsOf c.w.w3 8 8 + 1) (if rowAxis then rows else if cplx then 32 else 64)
      let x := s.planisher r p
      let int := x.int tile
      let chan (j : Nat) : Nat :=
        if rowAxis then j / 64 else if cplx then j % 64 / 2 else j % 64
      let (cs, s) := if int then
          ((⟨r, 4 + p, base, cnt, (List.range cnt).map fun k =>
            (({} : Channel), if f.isInt then s.zeroPoint (chanKey r (4 + p) (base + k)) else none)⟩
              : ChanSet), s)
        else s.openChans r (4 + p) base cnt f i.t
      let rowsVal := (List.range rows).map fun q => (List.range 64).map fun n =>
        x.elem tile (row0 + q) n
      let conv := (List.range rows).map fun q =>
        let ws := rowsVal.getD q []
        if int then
          let es := (List.range 64).map fun n =>
            storeInt f (cs.get (chan (q * 64 + n))).2 (ws.getD n 0)
          (⟨es.map (·.1), [], es.foldl (fun a e => a ||| e.2) 0⟩ : Converted)
        else cs.convert f ((List.range 64).map fun n => (chan (q * 64 + n), fp (ws.getD n 0)))
      let side := (List.range rows).foldl (fun a q => joinRows a (x.row tile (row0 + q))) {}
      let rowFl := (List.range rows).foldl (fun a q => a ||| (x.row tile (row0 + q)).flags) 0
      let fl := conv.foldl (fun a k => a ||| k.flags) rowFl
      let laneFl := (List.range (rows * 64)).map fun j =>
        let w := (rowsVal.getD (j / 64) []).getD (j % 64) 0
        (j % 64, if int then (storeInt f (cs.get (chan j)).2 w).2
          else if f.isBfp then (cs.convert f (((List.range 16).map fun n => j / 16 * 16 + n).map fun n =>
            (chan n, fp ((rowsVal.getD (n / 64) []).getD (n % 64) 0)))).flags
          else (cs.convert f [(chan j, fp w)]).flags)
      let fs := delayFreezes (i.t + 10) c.backup
      let frz := frozenCycles fs
      let s := s.freezeBreaches i c (planLoc c) fs
      let occ := rows * rowCycles f + frz
      let finish := i.t + occ + 10
      let s := s.shadowFault r 0x02 p c.shadow finish
      let (unc, s) := s.eccReads c 0x02 p i.t
      let es := if int then cs.chans.map fun _ => ((0 : Int), false, false) else cs.entries f
      let s := s.giveElems port f (conv.flatMap (·.codes)) (conv.flatMap (·.exps)) (· / 16)
        (makeScale (s.stepNumber i.ctx) f.code base es)
      let s := if int then s else s.closeChans cs
        ((List.range (rows * 64)).map fun j => (chan j, fp ((rowsVal.getD (j / 64) []).getD (j % 64) 0)))
        finish
      let s := s.giveFlags port finish [fl]
      let s := s.planFlags c finish laneFl
      let s := s.later finish r (.flags (Reg.PLN_STAT r p) fl)
      let void := i.void || side.void || unc || c.shadow.isSome || s.freezeVoids i frz
      let cause := if i.void then i.cause else if side.void then side.cause
        else if unc then 0x0102 else if c.shadow.isSome then 0x0206 else 0x0301
      let s := s.endWrite port finish (side.hallOk && c.shadow.isNone && !unc) void cause
      let s := s.setPlanisher r p ((s.planisher r p).fly ⟨false, [tile], [], i.t + occ, finish⟩)
      s.track c i 0 finish outs

/-! ## EWISE -/

/-- The tiles that EWISE reads. -/
def Cmd.ewiseReads (c : Cmd) : List Nat :=
  let op := bitsOf c.w.w2 0 6
  [bitsOf c.w.w2 9 3] ++ (if bitsOf c.w.w2 18 2 = 3 then [] else [bitsOf c.w.w2 12 3]) ++
    (if op = 0x03 || op = 0x15 then [bitsOf c.w.w2 15 3] else [])

/-- Operand B of an element (R228, R231); `part` is 1 for the imaginary part of CMUL. -/
def Planisher.operandB (x : Planisher) (c : Cmd) (row lane part : Nat) : Word :=
  let t := bitsOf c.w.w2 12 3
  let k := bitsOf c.w.w3 24 6
  match bitsOf c.w.w2 18 2 with
  | 0 => x.elem t row lane
  | 1 => x.elem t k lane
  | 2 => x.elem t row k
  | _ => if part = 1 then 0 else c.w.w4

/-- One row of EWISE: its lanes. -/
def Planisher.ewiseRow (x : Planisher) (c : Cmd) (row : Nat) : List (Nat × Lane) :=
  let op := bitsOf c.w.w2 0 6
  let ta := bitsOf c.w.w2 9 3
  let tc := bitsOf c.w.w2 15 3
  let l0 := bitsOf c.w.w3 6 6
  let n := bitsOf c.w.w3 12 7
  let strict := c.flag 0
  let mode := if strict then RMode.ofCode (bitsOf c.w.w3 19 3) else .nearestEven
  if 0x20 ≤ op then
    (List.range (n / 2)).flatMap fun j =>
      let q := l0 + 2 * j
      let (u, v) := pairElem op strict (x.elem ta row q) (x.elem ta row (q + 1))
        (x.operandB c row q 0) (x.operandB c row (q + 1) 1)
      [(q, u), (q + 1, v)]
  else
    (List.range n).map fun j =>
      let q := l0 + j
      (q, ewiseElem op (x.int ta) strict mode (x.elem ta row q) (x.operandB c row q 0)
        (x.elem tc row q) c.w.w4)

/-- EWISE (R229 to R231, R235 to R242). -/
def State.planEwise (s : State) (c : Cmd) : State :=
  let r := c.region
  let p := c.unit
  let dst := bitsOf c.w.w2 6 3
  let reads := c.ewiseReads
  let (i, s) := s.planIssue c true reads [dst]
  if !i.go then s
  else
    let rows := bitsOf c.w.w2 20 7
    let row0 := bitsOf c.w.w3 0 6
    let n := bitsOf c.w.w3 12 7
    let strict := c.flag 0
    if rows * n = 0 then s.track c i 1 (i.t + 1) []
    else
      let x := s.planisher r p
      let (bad, s) := s.witness c i.t
      let (unc, s) := s.eccReads c 0x02 p i.t
      let bmode := bitsOf c.w.w2 18 2
      let out := (List.range rows).map fun q => (row0 + q, x.ewiseRow c (row0 + q))
      let side (row : Nat) : PlnRow :=
        let a := reads.foldl (fun a t => joinRows a
          (x.row t (if bmode = 1 && t = bitsOf c.w.w2 12 3 && t != bitsOf c.w.w2 9 3
            then bitsOf c.w.w3 24 6 else row))) ({} : PlnRow)
        let a := if bmode = 1 then joinRows a (x.row (bitsOf c.w.w2 12 3) (bitsOf c.w.w3 24 6)) else a
        let own := i.void || bad || unc
        { a with void := a.void || own
                 cause := if i.void then i.cause else if a.void then a.cause
                   else if bad then 0x0205 else if unc then 0x0102 else 0 }
      let y := out.foldl (fun y o => y.put dst o.1 (n == 64) (side o.1) o.2) x
      let cyc := (if strict then 8 else 1) * rows
      let y := { (y.tag dst (opGivesInt (bitsOf c.w.w2 0 6) (x.int (bitsOf c.w.w2 9 3)))).fly
        ⟨true, reads, [dst], i.t + cyc, i.t + cyc + 12⟩ with witness := x.witness + cyc }
      let s := s.setPlanisher r p y
      let s := s.planFlags c (i.t + cyc + 12) (out.flatMap fun o => o.2.map fun e => (e.1, e.2.flags))
      let s := s.planZero c dst (i.t + cyc + 12) (out.findSome? fun o =>
        (o.2.find? fun e => e.2.zeroInf).map fun e => (o.1, e.1))
      let s := s.planCycles c strict i.t cyc
      s.track c i 1 (i.t + cyc + 12) []

/-! ## REDUCE (R232 to R235) -/

/-- A node of a reduction: the lane or row of its lowest input, its value, and the flags by position. -/
structure RedNode where
  pos : Nat
  val : FVal
  flags : List (Nat × FlagWord)

/-- One combination of a reduction. -/
def combine (rop : Nat) (strict : Bool) (mode : RMode) (a b : RedNode) : RedNode :=
  let v := match rop with
    | 2 => extremum true a.val b.val
    | 3 => extremum false a.val b.val
    | 4 => extremum true a.val b.val
    | _ => a.val.add mode b.val
  let l := endFp strict mode v
  { pos := a.pos, val := fp l.bits, flags := a.flags ++ b.flags ++ [(a.pos, l.flags)] }

/-- One level of the lane tree: adjacent positions together; an absent one passes the other (R233). -/
def treeLevel (rop : Nat) : List (Option RedNode) → List (Option RedNode)
  | some a :: some b :: xs => some (combine rop false .nearestEven a b) :: treeLevel rop xs
  | some a :: none :: xs => some a :: treeLevel rop xs
  | none :: b :: xs => b :: treeLevel rop xs
  | [x] => [x]
  | [] => []

/-- The leaf of a position: the element, its square, its magnitude or its product (R232, R233). -/
def leaf (rop : Nat) (strict : Bool) (mode : RMode) (pos : Nat) (a b : Word) : RedNode × Bool :=
  let x := fp a
  match rop with
  | 1 =>
      let l := endFp strict mode (x.mul x)
      (⟨pos, fp l.bits, [(pos, l.flags)]⟩, false)
  | 4 => (⟨pos, if x.isNan then x else if x.isNeg then x.negate else x, []⟩, false)
  | 5 =>
      let y := fp b
      let l := if zeroTimesInf x y then zeroInfLane 0 else endFp strict mode (x.mul y)
      (⟨pos, fp l.bits, [(pos, l.flags)]⟩, l.zeroInf)
  | _ => (⟨pos, x, []⟩, false)

/-- The FP reduction of one group (R233, R235): its element with the flags by position. -/
def reduceFp (rop : Nat) (strict : Bool) (mode : RMode) (xs : List (Word × Word))
    (acc : Option Word) : Lane × List (Nat × FlagWord) :=
  let ls := (List.range xs.length).map fun i =>
    leaf rop strict mode i (xs.getD i (0, 0)).1 (xs.getD i (0, 0)).2
  let fs := ls.flatMap fun l => l.1.flags
  if ls.any fun l => l.2 then (zeroInfLane 0, fs ++ [(0, Flag.inv)])
  else
    let accNode := acc.map fun w => (⟨0, fp w, []⟩ : RedNode)
    let res : Option RedNode :=
      if strict then
        (accNode.toList ++ ls.map (·.1)).foldl (fun a b => match a with
          | none => some b
          | some a =>
              let c := combine rop true mode a b
              some { c with pos := b.pos, flags := a.flags ++ b.flags ++
                (c.flags.drop (a.flags.length + b.flags.length)).map fun f => (b.pos, f.2) }) none
      else
        let level0 := (List.range 64).map fun i => (ls[i]?).map (·.1)
        let top := (treeLevel rop (treeLevel rop (treeLevel rop (treeLevel rop (treeLevel rop
          (treeLevel rop level0)))))).headD none
        match top, accNode with
        | some t, some a => some (combine rop false .nearestEven t a)
        | some t, none => some t
        | none, a => a
    match res with
    | none => (⟨0, 0, false⟩, [])
    | some n =>
        let l := endFp strict mode (n.val, 0)
        (⟨l.bits, 0, false⟩, n.flags ++ [(n.pos, l.flags)])

/-- The INT reduction of one group (R234). -/
def reduceInt (rop : Nat) (xs : List Int) (acc : Option Int) : Lane :=
  match rop, xs ++ (if rop = 4 then [] else acc.toList) with
  | 0, ys => satInt ys.sum
  | 2, y :: ys => satInt (ys.foldl max y)
  | 3, y :: ys => satInt (ys.foldl min y)
  | 4, _ =>
      let m := (xs.map fun x => (x.natAbs : Int)).foldl max 0
      satInt (match acc with
        | some a => max m a
        | none => m)
  | _, _ => ⟨0, 0, false⟩

/-- The tiles that a REDUCE reads (R232). -/
def Cmd.reduceReads (c : Cmd) : List Nat :=
  [bitsOf c.w.w2 4 3] ++ (if bitsOf c.w.w2 0 4 = 5 then [bitsOf c.w.w2 18 3] else []) ++
    (if c.flag 2 then [bitsOf c.w.w2 7 3] else [])

/-- REDUCE (R232 to R238). -/
def State.planReduce (s : State) (c : Cmd) : State :=
  let r := c.region
  let p := c.unit
  let rop := bitsOf c.w.w2 0 4
  let src := bitsOf c.w.w2 4 3
  let dst := bitsOf c.w.w2 7 3
  let srcb := bitsOf c.w.w2 18 3
  let reads := c.reduceReads
  let (i, s) := s.planIssue c true reads [dst]
  if !i.go then s
  else
    let axis := bitOf c.w.w2 10
    let rows := bitsOf c.w.w2 11 7
    let didx := bitsOf c.w.w3 0 6
    let strict := c.flag 0
    let mode := if strict then RMode.ofCode (bitsOf c.w.w3 6 3) else .nearestEven
    let x := s.planisher r p
    let int := x.int src
    if rows = 0 then
      let y := if axis && !c.flag 2 then
          ((x.put dst didx true { void := i.void, cause := if i.void then i.cause else 0 }
            ((List.range 64).map fun n => (n, ⟨0, 0, false⟩))).tag dst int)
        else x
      (s.setPlanisher r p y).track c i 1 (i.t + 1) []
    else
      let (bad, s) := s.witness c i.t
      let (unc, s) := s.eccReads c 0x02 p i.t
      let group (g : Nat) : List (Word × Word) :=
        if axis then (List.range rows).map fun q => (x.elem src q g, x.elem srcb q g)
        else (List.range 64).map fun n => (x.elem src g n, x.elem srcb g n)
      let acc (g : Nat) : Option Word :=
        if c.flag 2 then some (if axis then x.elem dst didx g else x.elem dst g didx) else none
      let res (g : Nat) : Lane × List (Nat × FlagWord) :=
        if int then
          let l := reduceInt rop ((group g).map fun e => e.1.toInt) ((acc g).map (·.toInt))
          (⟨l.bits, 0, false⟩, [(if axis then g else 0, l.flags)])
        else
          let (l, fs) := reduceFp rop strict mode (group g) (acc g)
          (l, if axis then fs.map fun f => (g, f.2) else fs)
      let out := (List.range (if axis then 64 else rows)).map fun g => (g, res g)
      let own := i.void || bad || unc
      let mk (a : PlnRow) : PlnRow :=
        { void := a.void || own, hallOk := a.hallOk
          cause := if i.void then i.cause else if a.void then a.cause
            else if bad then 0x0205 else if unc then 0x0102 else 0 }
      let rowIn (q : Nat) : PlnRow :=
        joinRows (x.row src q) (if rop = 5 then x.row srcb q else {})
      let flagged (o : Nat × Lane × List (Nat × FlagWord)) : Lane :=
        { o.2.1 with flags := o.2.2.foldl (fun a f => a ||| f.2) 0 }
      let y := if axis then
          let a := (List.range rows).foldl (fun a q => joinRows a (rowIn q)) {}
          let a := if c.flag 2 then joinRows a (x.row dst didx) else a
          x.put dst didx true (mk a) (out.map fun o => (o.1, flagged o))
        else out.foldl (fun y o => y.put dst o.1 false (mk (rowIn o.1)) [(didx, flagged o)]) x
      let cyc := (if strict then 8 else 1) * rows
      let y := { (y.tag dst int).fly ⟨true, reads, [dst], i.t + cyc, i.t + cyc + 18⟩ with
        witness := x.witness + cyc }
      let s := s.setPlanisher r p y
      let s := s.planFlags c (i.t + cyc + 18) (out.flatMap fun o => o.2.2)
      let s := s.planZero c dst (i.t + cyc + 18) ((out.find? fun o => o.2.1.zeroInf).map fun o =>
        if axis then (didx, o.1) else (o.1, didx))
      let s := s.planCycles c strict i.t cyc
      s.track c i 1 (i.t + cyc + 18) []

def execTload (c : Cmd) (s : State) : Host.Outcome State Fault Refusal :=
  admitted (Instr.tload c).wf (s.planTload c)

def execTstore (c : Cmd) (s : State) : Host.Outcome State Fault Refusal :=
  admitted (Instr.tstore c).wf (s.planTstore c)

def execEwise (c : Cmd) (s : State) : Host.Outcome State Fault Refusal :=
  admitted (Instr.ewise c).wf (s.planEwise c)

def execReduce (c : Cmd) (s : State) : Host.Outcome State Fault Refusal :=
  admitted (Instr.reduce c).wf (s.planReduce c)

end Sys2Proof.Machine
end

