-- ==== Sys2Proof/Machine/Weights.lean ====
section
/-! DEFINITION. Weight sets, the weight update and the Taster (R385 to R398). -/

namespace Sys2Proof.Machine

open Sys2Proof

/-- WGT.STATE.SB (R386): 0 EMPTY, 1 TRAINING, 2 CANDIDATE, 3 PASSED, 4 REVERTING. -/
def State.standby (s : State) : Nat := s.fld Reg.WGT_STATE 1 3

/-- The state with the standby's state replaced. -/
def State.setStandby (s : State) (v : Nat) : State := s.setFld Reg.WGT_STATE 1 3 v

/-- Which copy is active (R386). -/
def State.activeCopy (s : State) : Nat := s.fld Reg.WGT_STATE 0 1

/-- One of a pair by copy number. -/
def ofCopy (p : Nat × Nat) (c : Nat) : Nat := if c = 0 then p.1 else p.2

/-- The state with bytes at an HBM address written and the granules they touch marked afresh. -/
def State.hbmPut (s : State) (a : Nat) (bs : List Byte) : State :=
  let s := { s with mem := { s.mem with hbm := SMap.writeList 0 s.mem.hbm a bs } }
  (List.range ((a + bs.length + 255) / 256 - a / 256)).foldl (fun s g => s.remark (1, a / 256 + g)) s

/-- The standby takes the bytes of an area of HBM (R386, R388). -/
def State.fillStandby (s : State) (src : Nat) : State :=
  let w := s.plan.weights
  s.hbmPut (ofCopy w.copies (1 - s.activeCopy)) (SMap.readList 0 s.mem.hbm src w.len)

/-- Aborts the gradient jobs whose kept set was produced before the epoch tick, by the slot numbers' wrapping order
(R187). -/
def State.abortStale (s : State) : State :=
  let p (j : Job) : Bool :=
    let d := (s.curSlot + 2 ^ 32 - j.step) % 2 ^ 32
    j.kind = 0 && decide (0 < d) && decide (d < 2 ^ 31)
  let n := ((List.range 64).map fun c => ((s.ctx c).queue.filter p).length).sum
  (s.abortWhere (fun _ => true) p).bump Reg.GRD_STALE 0 16 n

/-- The tensors of a training step closed, as the flush of the update job leaves them (R215, R394). -/
def State.closeTensors (s : State) : State :=
  s.plan.weights.tensors.foldl (fun s t =>
    let x := s.crucible t.region
    s.setCrucible t.region (x.setTensor t.tensor { x.tensor t.tensor with isOpen := false })) s

/-- A promotion or a revert aborts the training step (R394): its tensors are flushed and skipped, for the standby is
not TRAINING, and a new step gathers from zero. -/
def State.abortTraining (s : State) : State :=
  { s.closeTensors with train := { s.train with gathered := 0, updates := 0, reverted := false } }

/-- A promotion (R387): only a PASSED standby becomes active. -/
def State.promote (s : State) : State :=
  if s.standby != 3 then s
  else
    let gen := if s.train.reverted then 0 else (s.fld Reg.WGT_STATE 16 16 + 1) % 2 ^ 16
    let s := s.setReg Reg.WGT_STATE (BitVec.ofNat 32 (1 - s.activeCopy + gen * 2 ^ 16))
    (s.bump Reg.WGT_CNT 0 16 1).abortStale.abortTraining

/-- A revert (R388): training stops, the maintenance jobs, which write the standby, are aborted, and the
base set is being copied in. -/
def State.revert (s : State) : State :=
  let s := s.abortWhere (fun _ => true) fun j => j.kind = 3
  (s.setStandby 4).abortTraining

/-- Whether promotion is suspended: SAVEW writes the active set (R568), or an attach is under way (R503). -/
def State.promotionHeld (s : State) : Bool := s.sec.saving || s.twin.hold

/-- A committed WGT.CTL.REQ (R387); WGT.CTL.REVERT at the same tick prevails (R388). -/
def State.promoteRow (s : State) : State :=
  if !s.bit Reg.WGT_CTL 1 then s
  else
    let both := s.bit Reg.WGT_CTL 2
    let s := s.setBit Reg.WGT_CTL 1 false
    if both || s.promotionHeld then s else s.promote

/-- A committed WGT.CTL.REVERT (R388). -/
def State.revertRow (s : State) : State :=
  if !s.bit Reg.WGT_CTL 2 then s
  else ((s.setBit Reg.WGT_CTL 2 false).setBit Reg.WGT_CTL 1 false).revert

/-- The copy of the base set completes (R386, R388). -/
def State.revertCopied (s : State) : State :=
  if s.standby != 4 then s
  else
    let s := (s.fillStandby s.plan.weights.base).setStandby 3
    { s with train := { s.train with reverted := true } }

/-- A seeding job completes (R386). -/
def State.seeded (s : State) : State :=
  if s.standby != 0 then s
  else
    let s := (s.fillStandby (ofCopy s.plan.weights.copies s.activeCopy)).setStandby 1
    { s with train := { s.train with gathered := 0, updates := 0, reverted := false } }

/-! ## The weight update (R394) -/

/-- A word of HBM. -/
def State.hbmWord (s : State) (a : Nat) : Word := BitVec.ofNat 32 (leNat (SMap.readList 0 s.mem.hbm a 4))

/-- One master weight after the update, in fast mode (R394). -/
def updatedWeight (eta clip n g w : Word) : Word :=
  let op (k : Nat) (a b : Word) : Word := (fpElem k false .nearestEven a b 0 0).bits
  let d := op 0x09 (op 0x02 eta g) n
  let lo := BitVec.ofNat 32 ((clip.toNat + 2 ^ 31) % 2 ^ 32)
  op 0x01 w (op 0x04 lo (op 0x05 clip d))

/-- The update of one tensor of the standby: masters, both layouts and the saturations. The Crucible holds the gradient
with output channels on rows, the orientation of the transposed layout (R191). -/
def State.updateTensor (s : State) (n : Nat) (t : WeightTensor) : State :=
  let x := s.crucible t.region
  let y := x.tensor t.tensor
  if n = 0 || y.void then s
  else
    let k := 1 - s.activeCopy
    let count := t.rows * t.cols
    let f := Fmt.get t.fmt
    let n32 := BitVec.ofNat 32 (Fmt.fp32.encode none false .nearestEven 0 (FVal.ofInt n 0)).1
    let ms := (List.range count).map fun i =>
      let g := (Fmt.fp32.encode none false .nearestEven 0
        (tensorValue y.g (SMap.read 0 x.entries (y.base + (i % t.cols * t.rows + i / t.cols))))).1
      updatedWeight (s.reg Reg.WGT_ETA) (s.reg Reg.WGT_CLIP) n32 (BitVec.ofNat 32 g)
        (s.hbmWord (ofCopy t.masters k + 4 * i))
    let qs := ms.map fun m => f.encode none false .nearestEven t.wsh (fp m)
    let sat := (qs.filter fun q => hasFlag q.2 Flag.ovf).length
    let codes := qs.map (·.1)
    let s := s.hbmPut (ofCopy t.masters k) (ms.flatMap fun m => leBytes 4 m.toNat)
    let s := s.hbmPut (ofCopy t.forward k) (packCodes f.bits codes)
    let s := s.hbmPut (ofCopy t.back k) (packCodes f.bits (transposed t.rows t.cols codes))
    s.bump Reg.WGT_SAT 0 32 sat

/-- A training step has gathered its kept sets (R386, R394). -/
def State.trainingStep (s : State) : State :=
  let n := s.train.gathered
  if n < s.fld Reg.WGT_TRAIN 0 16 then s
  else
    let ts := s.plan.weights.tensors
    let s := { s with train := { s.train with gathered := 0 } }
    let s := if s.standby = 1 then
      let s := ts.foldl (fun s t => s.updateTensor n t) s
      if n = 0 then s else { s with train := { s.train with updates := s.train.updates + 1 } }
      else s
    s.closeTensors

/-! ## The Taster (R395 to R398) -/

/-- The end of an evaluation period at an epoch tick, and the start of the next (R386, R397): a trained
standby becomes CANDIDATE, and the ended period awaits its decision. -/
def State.tasterEpoch (s : State) : State :=
  let t := s.train
  if 1 < t.epochs then { s with train := { t with epochs := t.epochs - 1 } }
  else
    let s := if s.standby = 1 && decide (s.fld Reg.WGT_TRAIN 16 16 ≤ t.updates) then s.setStandby 2 else s
    { s with train := { t with
        epochs := s.fld Reg.TST_CFG 16 16, due := some t.whole, whole := s.standby = 2 && !t.whole } }

/-- The decision at the end of a period (R398), from the counts that the Taster jobs of the period gave and
the allocations that void outcomes dropped. -/
def State.tasterDecision (s : State) (n eAct eCand eCls voids : Nat) : State :=
  match s.train.due with
  | none => s
  | some whole =>
      let s := { s with train := { s.train with due := none } }
      let s := s.setReg Reg.TST_N (BitVec.ofNat 32 n)
      let s := s.setReg Reg.TST_EACT (BitVec.ofNat 32 eAct)
      let s := s.setReg Reg.TST_ECAND (BitVec.ofNat 32 eCand)
      let s := s.setReg Reg.TST_ECLS (BitVec.ofNat 32 eCls)
      let s := s.bump Reg.TST_DROP 0 32 voids
      let margin := s.fld Reg.TST_LIM 0 16
      let enough := decide (s.fld Reg.TST_LIM 16 16 ≤ n)
      let below := decide (eCls + margin < eAct) && enough
      let back := below && s.bit Reg.WGT_CTL 0 && s.standby != 4
      let s := s.raiseIf below 0x0701 .detected (blockLoc 13 0x38 0) eAct eCls
      if back then s.revert
      else if !(whole && s.standby = 2) then s
      else if enough && decide (eCand ≤ eAct) && decide (eCand ≤ eCls + margin) then s.setStandby 3
      else (s.setStandby 0).bump Reg.WGT_CNT 16 16 1

/-! ## Channels (R123, R135 to R137) -/

/-- The units of a region's conversion units (R123). -/
def convUnits (region : Nat) : Nat := if region < 8 then 12 else if region = 8 then 16 else 0

/-- A committed FMT.CHCFG.RESET (R136); the bit reads 0 after it. -/
def State.historyReset (s : State) (region unit chan : Nat) : State :=
  let k := chanKey region unit chan
  if unit < convUnits region && s.bit (winKey k Reg.FMT_CHCFG) 4 then
    let s := s.setBit (winKey k Reg.FMT_CHCFG) 4 false
    s.setChan k { s.chan k with hist := [], fresh := true }
  else s

/-- The channel that FMT.CHSEL names, where R123 lists it. -/
def State.selChan (s : State) : Option Nat :=
  let w := s.reg Reg.FMT_CHSEL
  let r := bitsOf w 0 4
  let u := bitsOf w 4 8
  if u < convUnits r then some (chanKey r u (bitsOf w 16 8)) else none

/-- The channels with a staged update (R135). -/
def State.stagedChans (s : State) : List Nat :=
  ((s.commit.shadow.filterMap fun e =>
    if e.1 % 2 ^ 32 = Reg.FMT_CHCFG || e.1 % 2 ^ 32 = Reg.FMT_CHZP then
      if 2 ^ 32 ≤ e.1 then some (e.1 / 2 ^ 32 - 1) else none
    else none)).dedup

/-- A write of FMT.CHCFG or FMT.CHZP stages an update for the selected channel (R135, R137). -/
def State.stageChannel (s : State) (zp : Bool) (value : Nat) : State :=
  match s.selChan with
  | none => s
  | some k =>
      let cs := s.stagedChans
      if !cs.contains k && decide (64 ≤ cs.length) then s.setBit Reg.FMT_STAGED 8 true
      else
        let key := winKey k (if zp then Reg.FMT_CHZP else Reg.FMT_CHCFG)
        let mask : Word := if zp then 0x1FFFF else 0xFFF1F
        let x : Staged := ⟨mask, BitVec.ofNat 32 value &&& mask⟩
        { s with commit := { s.commit with shadow := SMap.write {} s.commit.shadow key x } }

def execPromote (s : State) : Host.Outcome State Fault Refusal := .next (s.managed State.promoteRow)

def execRevert (s : State) : Host.Outcome State Fault Refusal := .next (s.managed State.revertRow)

def execRevertCopyComplete (s : State) : Host.Outcome State Fault Refusal := .next s.revertCopied

def execSeedingJobComplete (s : State) : Host.Outcome State Fault Refusal := .next s.seeded

def execTrainingStep (s : State) : Host.Outcome State Fault Refusal := .next s.trainingStep

def execTasterDecision (n eAct eCand eCls voids : Nat) (s : State) : Host.Outcome State Fault Refusal :=
  .next (s.tasterDecision n eAct eCand eCls voids)

def execHistoryReset (region unit chan : Nat) (s : State) : Host.Outcome State Fault Refusal :=
  .next (s.managed fun s => s.historyReset region unit chan)

def execChannelUpdateStage (zp : Bool) (value : Nat) (s : State) : Host.Outcome State Fault Refusal :=
  .next (s.managed fun s => s.stageChannel zp value)

end Sys2Proof.Machine
end

