-- ==== Sys2Proof/Machine/Twin.lean ====
section
/-! DEFINITION. TWIN (R480 to R509): the Switu link and its transfers, slot digests, roles, loss of a partner,
and attaching and detaching a twin. -/

namespace Sys2Proof.Machine

open Sys2Proof

/-- The location of the Switu link layer. -/
def linkLayer : Unit_ := ⟨12, 0x31, 0⟩

/-- TWN.STAT.STATE: 0 SOLO, 1 HANDSHAKE, 2 TRANSFER, 3 PAIRED, 4 DETACHED, 5 IDLE. -/
def State.twinState (s : State) : Nat := s.fld Reg.TWN_STAT 0 3
def State.setTwinState (s : State) (v : Nat) : State := s.setFld Reg.TWN_STAT 0 3 v

/-- TWN.CFG.MODE: 0 SOLO, 1 MIRROR, 2 SPLIT. -/
def State.twinMode (s : State) : Nat := s.fld Reg.TWN_CFG 0 2

/-- The live twin or side A. -/
def State.isLive (s : State) : Bool := s.bit Reg.TWN_STAT 3
def State.setLive (s : State) (b : Bool) : State := s.setBit Reg.TWN_STAT 3 b

/-- The link is up. -/
def State.linkUp (s : State) : Bool := s.bit Reg.TWN_STAT 4

/-- A NOTICE that this twin sends. -/
def State.notify (s : State) (k : Notice) (slot : Nat) : State :=
  { s with twin := { s.twin with notices := s.twin.notices ++ [(k, slot)] } }

/-- The first epoch tick at least `n` slots after the present slot (R67). -/
def State.epochAfter (s : State) (n : Nat) : Nat :=
  let e := max 1 s.spe
  (s.slot + n + e - 1) / e * e

/-- The data plane stops (R499, R506, R523): TWIN_OK falls. -/
def State.stopPlane (s : State) : State :=
  { s with clock := { s.clock with running := false }, pins := { s.pins with twinOk := false } }

/-! ## Switu transfers (R489 to R492) -/

/-- Issues a Switu command. A newcomer takes transfers before its data plane runs (R503). -/
def State.issueSwitu (s : State) (c : Cmd) : Issue × State :=
  if s.twinState = 2 && !s.clock.running && !s.fatalIdle then
    (⟨true, c.issue, if c.elastic then some c.ctx else none, false, 0⟩, s)
  else s.issue c linkLayer.loc (s.unitFree 11 12 0) 1

/-- When the granule slots of the window table come: superframe, granule slot and cycle, in table order. -/
def Plan.granuleSlots (p : Plan) : List (Nat × Nat) :=
  p.switu.flatMap fun w => (List.range w.count).map fun i =>
    let n := w.slot - 1 + i
    (w.frame + n / 63, 1 + n % 63)

/-- The granules of a SEND's source and whether each checks (R458, R490). -/
def State.switSource (s : State) (c : Cmd) (n : Nat) : List (List Byte × Word × Bool) :=
  (List.range n).map fun i =>
    if bitOf c.w.w2 28 then
      let g := (1, bitsOf c.w.w3 0 28 + i)
      if s.served 11 then (s.granuleBytes g, s.hallmark g, s.hallOk g) else (List.replicate 256 0, 0, false)
    else
      let r := bitsOf c.w.w2 25 3
      let a := bitsOf c.w.w2 0 25 + 256 * i
      let bs := (s.padPlaces r a 256).map s.byteAt
      let h := SMap.read 0 s.mem.padHall (padKey r a / 256)
      (bs, h, h == hc bs)

/-- SEND (R490, R492): the granules leave in the next windows of the table; one that is not in staging at its
slot, that fails its hallmark or whose buffer is void leaves with VOID set. -/
def State.send (s : State) (c : Cmd) : State :=
  let (i, s) := s.issueSwitu c
  if !i.go then s
  else
    let n := bitsOf c.w.w4 0 16
    let slots := (s.curPlan.granuleSlots.drop s.twin.windows).take n
    let finish := match slots.getLast? with
      | some e => if n = 0 then i.t + 1 else 64 * e.1 + e.2 + 1
      | none => i.t + 1
    let s := { s with twin := { s.twin with windows := s.twin.windows + n } }
    if n = 0 || !s.linkUp then s.track c i 0 finish []
    else
      let src := s.switSource c n
      let away := !s.served (if bitOf c.w.w2 28 then 11 else bitsOf c.w.w2 25 3)
      let bad := if away then 0 else (src.filter fun e => !e.2.2).length
      let s := if away then s.bump Reg.SPN_ABSCNT 0 32 n else s
      let (unc, s) := s.eccReads c 0x31 0 i.t
      let s := (List.range bad).foldl (fun s _ =>
        s.blockRaise 12 0x31 0 0x0201 linkLayer.loc 0 0) s
      let s := if bad = 0 then s else s.voidBuf i.ctx c.region c.wbuf 0x0201
      let when (k : Nat) : Nat := match slots[k]? with
        | some e => 64 * e.1 + e.2
        | none => i.t
      let s := ((List.range n).filter fun k => decide (0 < c.lateness k)).foldl (fun s k =>
        s.breachAt i.ctx linkLayer.loc c.w.w0 c.issue (when k) (c.lateness k)) s
      let out := ((List.range n).zip (slots.zip src)).map fun e =>
        (e.2.1.1, e.2.1.2, (⟨bitsOf c.w.w5 0 12, e.1, i.void || unc || !e.2.2.2.2 || decide (0 < c.lateness e.1),
          e.2.2.1, e.2.2.2.1⟩ : Granule))
      let s := { s with twin := { s.twin with left := s.twin.left ++ out } }
      s.track c i 0 finish []

/-- The granules of a RECV in index order (R491). -/
def State.arrived (s : State) (c : Cmd) (n : Nat) : List (Option Granule) :=
  let tag := bitsOf c.w.w6 0 12
  (List.range n).map fun k =>
    (s.twin.staging.find? fun e => e.1 = s.slot && e.2.pbuf = tag && e.2.index = k).map (·.2)

/-- The place of a RECV's granule: the space (1 HBM) and the granule number. -/
def Cmd.recvPlace (c : Cmd) (k : Nat) : Nat × Nat :=
  if bitOf c.w.w2 28 then (1, bitsOf c.w.w3 0 28 + k)
  else (0, padKey (bitsOf c.w.w2 25 3) (bitsOf c.w.w2 0 25) / 256 + k)

/-- Writes a granule with the hallmark that it carries. -/
def State.putGranule (s : State) (g : Nat × Nat) (bs : List Byte) (h : Word) : State :=
  let s := if g.1 = 1 then
    { s with mem := { s.mem with hbm := SMap.writeList 0 s.mem.hbm (g.2 * 256) bs } }
    else { s with mem := { s.mem with pad := SMap.writeList 0 s.mem.pad (g.2 * 256) bs } }
  s.setHallmark g h

/-- RECV (R491, R492, R503): missing granules are zeros; a bulk copy does not overwrite what a forwarded
write has set during a transfer. -/
def State.recv (s : State) (c : Cmd) : State :=
  let (i, s) := s.issueSwitu c
  if !i.go then s
  else
    let n := bitsOf c.w.w4 0 16
    let r := if bitOf c.w.w2 28 then 11 else bitsOf c.w.w2 25 3
    let buf := bitsOf c.w.w5 0 12
    let outs := if i.ctx.isSome then [(12, buf)] else [(12, buf), (r, buf)]
    let finish := if n = 0 then i.t + 1 else i.t + n + 8 + 2 * hopsTo r + 3
    let gs := s.arrived c n
    let joining := s.twinState = 2 && !s.clock.running
    let tag := bitsOf c.w.w6 0 12
    let missing := (gs.filter Option.isNone).length
    let bad := (gs.filterMap id).filter fun g => !g.void && g.hall != hc g.bytes
    let void := (gs.filterMap id).any (·.void)
    let s := { s with twin := { s.twin with
      staging := s.twin.staging.filter fun e => !(e.1 = s.slot && e.2.pbuf = tag && decide (e.2.index < n)) } }
    let s := if missing = 0 || !s.linkUp then s
      else (s.bump Reg.TWN_LNK 0 16 missing).raise 0x0A02 .detected linkLayer.loc tag missing
    let s := bad.foldl (fun s g => s.blockRaise 12 0x31 0 0x0201 linkLayer.loc g.hall.toNat
      (hc g.bytes).toNat) s
    let s := ((List.range n).zip gs).foldl (fun s e =>
      let p := c.recvPlace e.1
      if s.served r && !(joining && c.elastic && s.twin.set.contains p) then
        match e.2 with
        | some g => s.putGranule p g.bytes g.hall
        | none => s.putGranule p (List.replicate 256 0) (hc (List.replicate 256 0))
      else s) s
    let s := if joining && !c.elastic then
      { s with twin := { s.twin with
        set := s.twin.set ++ ((List.range n).map c.recvPlace).filter fun p => !s.twin.set.contains p } }
      else s
    let s := if s.served r then s else s.bump Reg.SPN_ABSCNT 0 32 n
    let cause := if i.void then i.cause else if !bad.isEmpty then 0x0201
      else if void then 0x0201 else 0x0A02
    let s := if i.void || decide (0 < missing) || !bad.isEmpty || void then s.voidOuts i.ctx outs cause
      else s
    let s := outs.foldl (fun s o => s.signalAt i.ctx o.1 o.2 finish) s
    s.track c i 0 finish outs

/-! ## The link (R485 to R488) -/

/-- A partner loss that waits for its slot tick (R499): event row 0 FATAL or TWIN_PEER, 1 link down with
TWIN_PEER low, 2 link down with it high. Before the join it aborts an attach (R505). -/
def State.partnerLost (s : State) (row : Nat) : State :=
  if s.twinState = 3 then
    match s.twin.loss with
    | some (2, _, _) =>
        if row = 2 then s else { s with twin := { s.twin with loss := some (row, s.slot, s.clock.cc) } }
    | some _ => s
    | none => { s with twin := { s.twin with loss := some (row, s.slot, s.clock.cc) } }
  else if s.twinState = 1 || s.twinState = 2 then { s with twin := { s.twin with abort := true } }
  else s

/-- A received superframe at a cycle (R485 to R488, R491, R503): the marker, the latency from its echo, and the
granules, up to the receive staging's 16,384. -/
def State.superframe (s : State) (t : Nat) (m : Marker) (gs : List Granule) : State :=
  if !s.served 12 || !s.linkUp then s
  else
    let s := s.reach t
    let d : Int := (((s.slot : Int) - m.echo.1) * s.slotLen + t - 64 * m.echo.2) / 2
    let lat := (max 0 (min 4095 d)).toNat
    let s := s.setFld Reg.TWN_LAT 0 12 lat
    let off : Int := (t : Int) - (64 * m.index + lat : Nat)
    let ok := decide (off.natAbs ≤ 4) && m.slot == s.slot
    let room := 16384 - s.twin.staging.length
    let s := { s with twin := { s.twin with
      marker := some m, aligned := ok
      staging := s.twin.staging ++ ((gs.take 63).take room).map fun g =>
        (s.slot, { g with void := g.void || s.lostLock 26 }) } }
    if m.fatal then s.partnerLost 0 else s

/-- The link goes down (R488); `lanes` are the lanes out of lock. -/
def State.switDown (s : State) (lanes : Nat) : State :=
  if !s.linkUp then s
  else
    let s := s.setBit Reg.TWN_STAT 4 false
    let s := s.bump Reg.TWN_LNK 16 8 1
    let s := s.raiseIf (!s.looped .switu) 0x0A03 .detected linkLayer.loc lanes 0
    s.partnerLost (if s.pins.twinPeer then 2 else 1)

/-- TWIN_PEER falls, or a marker shows FATAL (R483, R499). -/
def State.twinPeerFall (s : State) (byMarker : Bool) : State :=
  let s := if byMarker then s
    else { (s.setBit Reg.TWN_STAT 5 false) with pins := { s.pins with twinPeer := false } }
  s.partnerLost 0

/-! ## Slot digests (R496 to R498) -/

/-- The exit buffers of a plan in ascending region and buffer number (R496). -/
def Plan.exits (p : Plan) : List PlanBuf :=
  (p.bufs.filter (·.isExit)).foldl (fun acc b =>
    let (lo, hi) := (acc.filter fun x => decide (x.region * 4096 + x.buf ≤ b.region * 4096 + b.buf),
      acc.filter fun x => decide (b.region * 4096 + b.buf < x.region * 4096 + x.buf))
    lo ++ b :: hi) []

/-- The digest of the slot that ends, over its plan's exit buffers (R496). -/
def State.digestOf (s : State) (p : Plan) : BitVec 64 :=
  let body := p.exits.flatMap fun b =>
    let void := (s.cell 0 b.region b.buf).void
    (List.range b.granules).flatMap fun i =>
      leBytes 4 (if void then 0xFFFFFFFF
        else (SMap.read 0 s.mem.padHall (padKey b.memRegion b.addr / 256 + i)).toNat)
  BitVec.ofNat 64 (crc64 (leBytes 4 s.slot ++ body))

/-- At a slot tick the digest of the ending slot is formed (R496, R497). -/
def State.formDigest (s : State) : State :=
  if s.twinState = 3 && s.twinMode = 1 then
    { s with twin := { s.twin with
      own := some ⟨s.slot, s.digestOf s.curPlan, s.faults.badSlots.contains s.slot⟩ } }
  else s

/-- This twin sends its digest of the slot before (R497). -/
def State.digestSend (s : State) : State :=
  match s.twin.own with
  | some d =>
      if s.twinState = 3 && s.twinMode = 1 && s.linkUp then
        (s.setReg Reg.TWN_DIGLO (d.value.setWidth 32)).setReg Reg.TWN_DIGHI ((d.value >>> 32).setWidth 32)
      else s
  | none => s

/-- The partner's digest arrives. -/
def State.digestArrived (s : State) (d : SlotDigest) : State :=
  if s.twinState = 3 && s.twinMode = 1 && s.linkUp then
    let s := { s with twin := { s.twin with peer := some d } }
    (s.setReg Reg.TWN_PDIGLO (d.value.setWidth 32)).setReg Reg.TWN_PDIGHI ((d.value >>> 32).setWidth 32)
  else s

/-- Enters every exit buffer of the running slot as SUSPECT (R498). -/
def State.suspectSlot (s : State) : State :=
  s.curPlan.exits.foldl (fun s b => s.suspectEntry 0 b.region b.buf 0x0A01) s

/-- The comparison at slot cycle 8,192 (R497, R498). -/
def State.digestCompare (s : State) : State :=
  if !(s.twinState = 3 && s.twinMode = 1) then s
  else
    let n := s.slotBack 1
    match s.twin.own.filter fun d => d.slot == n, s.twin.peer.filter fun d => d.slot == n with
    | some a, some b =>
        let s := s.setReg Reg.TWN_DSLOT (BitVec.ofNat 32 n)
        if a.value == b.value then s.setBit Reg.TWN_STAT 6 false
        else
          let s := s.bump Reg.TWN_CNT 0 16 1
          let s := s.raise 0x0A01 .detected linkLayer.loc n
            ((if a.isLocal then 1 else 0) + (if b.isLocal then 2 else 0))
          if a.isLocal && !b.isLocal then
            let s := (s.bump Reg.TWN_CNT 24 8 1).raise 0x0A06 .detected linkLayer.loc n 0
            if s.isLive then { s with twin := { s.twin with swapAt := some ((s.slot + 1) % 2 ^ 32) } } else s
          else if b.isLocal && !a.isLocal then
            if s.isLive then s
            else { s with twin := { s.twin with swapAt := some ((s.slot + 1) % 2 ^ 32) } }
          else if a.isLocal then s
          else (s.setBit Reg.TWN_STAT 6 true).suspectSlot
    | _, _ => (s.bump Reg.TWN_LNK 24 8 1).raise 0x0A07 .detected linkLayer.loc n 0

/-! ## Roles and the loss of a partner (R499 to R502) -/

/-- The half of the chosen pair that serves a role. -/
def State.roleHalf (s : State) (live : Bool) : Nat :=
  match s.twin.halves with
  | some p => if live then p.live else p.shadow
  | none => s.active

/-- The twins of a MIRROR pair exchange their roles. -/
def State.exchangeRoles (s : State) : State :=
  let live := !s.isLive
  let s := { s with twin := { s.twin with swapAt := none } }
  (s.setLive live).installNow (s.roleHalf live)

/-- A swap that is due at this slot (R497, R499); a loss takes precedence (R501). -/
def State.roleSwap (s : State) : State :=
  match s.twin.swapAt with
  | some n =>
      if s.twinState = 3 && s.twinMode = 1 && n == s.slot && s.twin.loss.isNone then s.exchangeRoles else s
  | none => s

/-- A takeover or a switch to the loss variant. -/
def State.takeOver (s : State) (v : Nat) : State :=
  let s := (s.setLive true).installNow v
  let s := s.bump Reg.TWN_CNT 16 8 1
  s.raise 0x0A05 .masked linkLayer.loc v s.slot

/-- What a twin does for a lost partner (R499). -/
def State.actOnLoss (s : State) (row : Nat) : State :=
  let live := s.isLive
  let loss := s.fld Reg.TWN_VAR 16 16
  let s := (s.setTwinState 4).setBit Reg.TWN_STAT 6 false
  let s := { s with twin := { s.twin with loss := none, swapAt := none, peerLeaveAt := none } }
  if s.twinMode = 1 then
    if live then s
    else if row = 2 then s.stopPlane
    else s.takeOver (s.roleHalf true)
  else if row = 2 && !live then s.stopPlane
  else s.takeOver loss

/-- The slot tick at which a partner loss acts (R499, R506): the first at least 256 cc after it. -/
def State.takeover (s : State) : State :=
  if !s.clock.running || s.twinState != 3 then s
  else match s.twin.loss with
    | some (row, n, cc) =>
        let slots := (s.slot + 2 ^ 32 - n) % 2 ^ 32
        if 1 ≤ slots ∧ 256 ≤ slots * s.slotLen - cc then
          (s.actOnLoss row).raise 0x0A04 .detected linkLayer.loc row 0
        else s
    | none =>
        match s.twin.peerLeaveAt with
        | some n => if n == s.slot then s.actOnLoss 0 else s
        | none => s

/-- A committed TWN.CTL.SWAP (R499, R509): only the live twin of a MIRROR pair; DETACH prevails. -/
def State.swapRoles (s : State) : State :=
  if !s.bit Reg.TWN_CTL 2 then s
  else
    let s := s.setBit Reg.TWN_CTL 2 false
    if s.bit Reg.TWN_CTL 1 || !(s.twinState = 3 && s.twinMode = 1 && s.isLive) || s.twin.loss.isSome then s
    else s.exchangeRoles

/-! ## Attach and detach (R503 to R506) -/

/-- Whether a variant's engines lie within an ARC.ANVMAP (R86, R482). -/
def Variant.fitsMap (v : Variant) (map : Word) : Bool :=
  (List.range 8).all fun n =>
    decide (v.anvils.getD n 0 ≤ ((List.range 4).filter fun a => bitOf map (4 * n + a)).length)

/-- The first variant pair of which every half fits both devices (R482). -/
def State.fittingPair (s : State) (map : Word) : Option PairInfo :=
  s.plan.variants.findSome? fun v => v.pair.filter fun p =>
    [p.live, p.shadow, p.attach, p.loss].all fun k => s.fits (s.variant k) && (s.variant k).fitsMap map

/-- Why a HELLO is refused (R503, R507), 0 when it is not. -/
def State.helloFault (s : State) (h : Hello) (digest : BitVec 512) : Nat :=
  let ident := s.fld Reg.DET_MODE 1 2
  if h.digest != digest then 1
  else if h.ident != ident || (ident == 1 && h.matchRec != s.reg Reg.DET_MATCHREC) then 2
  else if h.id == s.fld Reg.TWN_CFG 2 1 then 3
  else if s.fld Reg.TWN_CFG 16 12 < s.fld Reg.TWN_LAT 0 12 then 4
  else if (s.fittingPair h.anvmap).isNone then 5
  else if s.clock.running && !s.twin.aligned then 6
  else 0

/-- The image digest D (R554, R571). -/
def State.imageDigest (s : State) : BitVec 512 :=
  BitVec.ofNat 512 ((List.range 16).foldr (fun k v =>
    (s.reg (Reg.STA_DIG k)).toNat + 2 ^ 32 * v) 0)

/-- A received HELLO (R503, R543). A running twin names the transfer tick; of two that start together, twin 0
is live or side A. A refused newcomer, or twin 1, stays in management-only operation. -/
def State.hello (s : State) (h : Hello) : State :=
  if s.twinState != 1 || !s.linkUp then s
  else
    let why := s.helloFault h s.imageDigest
    if why != 0 then
      let s := s.raise 0x0A08 .detected linkLayer.loc why 0
      if s.clock.running then s.setTwinState s.twin.before
      else if s.fld Reg.TWN_CFG 2 1 = 0 && !(s.twin.marker.any fun m => m.slot != 0xFFFFFFFF) then
        s.setTwinState 0
      else (s.setTwinState 5).setBit Reg.STA_STEP 4 true
    else
      let s := { s with twin := { s.twin with halves := s.fittingPair h.anvmap, step := 4 } }
      if s.clock.running then
        let e := s.epochAfter 64
        let s := { s with twin := { s.twin with transferAt := some e, step := 5 } }
        s.notify .transfer e
      else
        let live := s.fld Reg.TWN_CFG 2 1 = 0
        let later := s.twin.marker.any fun m => m.slot != 0xFFFFFFFF
        s.setLive (if later && s.twinMode = 1 then false else live)

/-- A TRANSFER notice reaches the newcomer. -/
def State.transferNotice (s : State) (e : Nat) : State :=
  if s.twinState = 1 && !s.clock.running then
    { s with twin := { s.twin with transferAt := some e, step := 5 } } else s

/-- The Crucibles without open tensors (R504). -/
def emptied (m : SMap Crucible) : SMap Crucible :=
  m.filterMap fun e =>
    let x : Crucible := { e.2 with tensors := [] }
    if x = {} then none else some (e.1, x)

/-- The start of the transfer (R503, R504): the running twin's elastic jobs, standby, tensors and kept sets are emptied; the newcomer takes its slot number from the running twin's marker. -/
def State.transferStart (s : State) : State :=
  match s.twin.transferAt with
  | none => s
  | some e =>
      if s.twinState != 1 then s
      else if s.clock.running then
        if e != s.slot then s
        else
          let s := (s.setTwinState 2).abortWhere (fun _ => true) fun _ => true
          let s := s.setStandby 0
          let s := { s with
            twin := { s.twin with transferAt := none, step := 6, hold := true }
            train := { s.train with gathered := 0, updates := 0, reverted := false, keptFrom := some s.slot }
            crucibles := emptied s.crucibles }
          match s.twin.halves with
          | some p => s.installNow p.attach
          | none => s
      else
        let s := match s.twin.marker with
          | some m => s.setReg Reg.TCK_SLOTNUM (BitVec.ofNat 32 m.slot)
          | none => s
        { (s.setTwinState 2) with twin := { s.twin with transferAt := none, step := 6, set := [] } }

/-- The bulk copy is complete: the running twin names the join tick (R503). -/
def State.bulkComplete (s : State) : State :=
  if s.twinState = 2 && s.clock.running && s.twin.joinAt.isNone then
    let j := s.epochAfter (2 * s.spe)
    let s := { s with twin := { s.twin with joinAt := some j, step := 7 } }
    s.notify .join j
  else s

/-- A JOIN notice (R503, R543). -/
def State.joinNotice (s : State) (j : Nat) : State :=
  if !s.clock.running && (s.twinState = 1 || s.twinState = 2) then
    { s with twin := { s.twin with joinAt := some j, step := 7 } } else s

/-- What the newcomer has received without a memory address takes effect (R504). -/
def State.takeTransferred (s : State) (x : Transferred) : State :=
  { s with
    chans := x.chans.foldl (fun m e => SMap.write {} m e.1 e.2) s.chans
    regs := SMap.write 0 (x.regs.foldl (fun m e => SMap.write 0 m e.1 e.2) s.regs) Reg.WGT_STATE x.weights }

/-- The join (R503): each twin runs its role half from this tick, and promotion resumes. -/
def State.join (s : State) (x : Transferred) : State :=
  match s.twin.joinAt with
  | none => s
  | some j =>
      let fresh := !s.clock.running
      if s.clock.running && j != s.slot then s
      else
        let s := if fresh then
          let s := if s.twinState = 2 then s.takeTransferred x else s
          let s := s.setReg Reg.TCK_SLOTNUM (BitVec.ofNat 32 j)
          { s with
            clock := { s.clock with running := true, cc := 0 }
            pins := { s.pins with twinOk := true } }
          else s
        let s := (s.setTwinState 3).setReg Reg.TWN_JOIN (BitVec.ofNat 32 j)
        let s := { s with twin := { s.twin with
          joinAt := none, step := 0, hold := false, own := none, peer := none } }
        let v : Nat := s.roleHalf s.isLive
        if fresh then s.setVariant v else if (v == s.active : Bool) then s else s.installNow v

/-- A SWAP notice. -/
def State.swapNotice (s : State) (n : Nat) : State :=
  if s.twinState = 3 && s.twinMode = 1 then { s with twin := { s.twin with swapAt := some n } } else s

/-- A DETACH notice (R506); before the join it ends the attach (R505). -/
def State.detachNotice (s : State) (n : Nat) : State :=
  if s.twinState = 3 then { s with twin := { s.twin with peerLeaveAt := some n } }
  else if s.twinState = 1 || s.twinState = 2 then { s with twin := { s.twin with abort := true } }
  else s

/-- The end of an attach (R505). -/
def State.endAttach (s : State) : State :=
  let s := s.raise 0x0A09 .detected linkLayer.loc s.twin.step 0
  let back := s.twin.before
  let running := s.clock.running
  let was := s.twinState
  let s := { s with twin := { s.twin with
    abort := false, step := 0, hold := false, transferAt := none, joinAt := none } }
  if running then
    let s := s.setTwinState back
    if was = 2 then s.installNow (s.roleHalf s.isLive) else s
  else s.setTwinState 5

/-- An ABORT notice (R505). -/
def State.abortNotice (s : State) : State :=
  if s.twinState = 1 || s.twinState = 2 then s.endAttach else s

/-- An attach that link loss, a fatal fault or a DETACH has ended, at the next slot tick (R505). -/
def State.attachAborted (s : State) : State :=
  if s.twin.abort && (s.twinState = 1 || s.twinState = 2) then s.endAttach.notify .abort s.slot
  else s

/-- A committed TWN.CTL.ATTACH (R503). -/
def State.attach (s : State) : State :=
  if !s.bit Reg.TWN_CTL 0 then s
  else
    let s := s.setBit Reg.TWN_CTL 0 false
    let st := s.twinState
    if st = 0 || st = 4 then
      { (s.setTwinState 1) with twin := { s.twin with before := st, step := 1, abort := false } }
    else s

/-- A committed TWN.CTL.DETACH (R505, R506, R509). -/
def State.detach (s : State) : State :=
  if !s.bit Reg.TWN_CTL 1 then s
  else
    let s := (s.setBit Reg.TWN_CTL 1 false).setBit Reg.TWN_CTL 2 false
    if s.twinState = 1 || s.twinState = 2 then { s with twin := { s.twin with abort := true } }
    else if s.twinState = 3 then
      let n := s.epochAfter 1
      let s := { s with twin := { s.twin with leaveAt := some n } }
      s.notify .detach n
    else s

/-- The departing twin stops its data plane at the tick that its notice named (R506). -/
def State.depart (s : State) : State :=
  match s.twin.leaveAt with
  | some n =>
      if n == s.slot && s.twinState = 3 then
        { (s.setTwinState 4).stopPlane with twin := { s.twin with leaveAt := none } }
      else s
  | none => s

def execSuperframe (cycle : Nat) (m : Marker) (gs : List Granule) (s : State) :
    Host.Outcome State Fault Refusal := .next (s.superframe cycle m gs)

def execSwituLinkDown (lanes : Nat) (s : State) : Host.Outcome State Fault Refusal := .next (s.switDown lanes)

def execSend (c : Cmd) (s : State) : Host.Outcome State Fault Refusal :=
  admitted (Instr.send c).wf (s.send c)

def execRecv (c : Cmd) (s : State) : Host.Outcome State Fault Refusal :=
  admitted (Instr.recv c).wf (s.recv c)

def execDigest (d : SlotDigest) (s : State) : Host.Outcome State Fault Refusal := .next (s.digestArrived d)

def execDigestSend (s : State) : Host.Outcome State Fault Refusal := .next s.digestSend

def execDigestCompare (s : State) : Host.Outcome State Fault Refusal := .next s.digestCompare

def execRoleSwap (s : State) : Host.Outcome State Fault Refusal := .next s.roleSwap

def execSwapNotice (slot : Nat) (s : State) : Host.Outcome State Fault Refusal := .next (s.swapNotice slot)

def execTransferNotice (slot : Nat) (s : State) : Host.Outcome State Fault Refusal :=
  .next (s.transferNotice slot)

def execJoinNotice (slot : Nat) (s : State) : Host.Outcome State Fault Refusal := .next (s.joinNotice slot)

def execDetachNotice (slot : Nat) (s : State) : Host.Outcome State Fault Refusal :=
  .next (s.detachNotice slot)

def execAbortNotice (s : State) : Host.Outcome State Fault Refusal := .next s.abortNotice

def execTransferStart (s : State) : Host.Outcome State Fault Refusal := .next s.transferStart

def execBulkCopyComplete (s : State) : Host.Outcome State Fault Refusal := .next s.bulkComplete

def execAttachAborted (s : State) : Host.Outcome State Fault Refusal := .next s.attachAborted

def execTwinPeerFall (marker : Bool) (s : State) : Host.Outcome State Fault Refusal :=
  .next (s.twinPeerFall marker)

def execTakeover (s : State) : Host.Outcome State Fault Refusal := .next s.takeover

def execAttach (s : State) : Host.Outcome State Fault Refusal := .next (s.managed State.attach)

def execDetach (s : State) : Host.Outcome State Fault Refusal := .next (s.managed State.detach)

def execSwapRoles (s : State) : Host.Outcome State Fault Refusal := .next (s.managed State.swapRoles)

end Sys2Proof.Machine
end

