-- ==== Sys2Proof/Machine/Power.lean ====
section
/-! DEFINITION. Power states, wakes, region power, leave grants, temperature and clocks (R510 to R537). -/

namespace Sys2Proof.Machine

open Sys2Proof

/-- The location of the power sequencer, which reports the faults of R534. -/
def powerLoc : BitVec 64 := blockLoc 13 0x3D 0

def State.setPowerState (s : State) (v : Nat) : State := s.setFld Reg.PWR_STATE 0 2 v

/-- Takes a committed state request, if it is the one asked for (R521). -/
def State.takeRequest (s : State) (k : Nat) (f : State → State) : State :=
  if s.power.request = some k then f { s with power := { s.power with request := none } } else s

/-! ## Leave and temperature (R517, R519) -/

/-- Requests in the order in which the governor judges them: by arrival, then by engine bit. -/
def LeaveReq.before (a b : LeaveReq) : Bool :=
  decide (a.since < b.since) || (a.since == b.since && decide (a.engine < b.engine))

/-- Inserts a request in that order. -/
def insertReq (x : LeaveReq) : List LeaveReq → List LeaveReq
  | [] => [x]
  | y :: ys => if x.before y then x :: y :: ys else y :: insertReq x ys

/-- Grants what fits from the front of the queue; the first request that does not fit holds up the rest. -/
def State.grantWaiting (s : State) (r t : Nat) : List LeaveReq → State
  | [] => s.setWaits r []
  | w :: ws =>
      let gs := s.heldGrants r t
      if (gs.map (·.amount)).sum + w.amount ≤ s.budget r t then
        let s := s.setGrants r (gs ++ [⟨w.ctx, w.amount, none⟩])
        let s := s.bump (winKey r Reg.PWR_WAIT) 0 32  ((t - w.since : Int).toNat)
        let s := s.onCtx w.ctx fun x =>
          if x.cause = .leave then { x with state := .runnable, cause := .none } else x
        s.grantWaiting r t ws
      else s.setWaits r (w :: ws)

/-- LEAVE_GRANT (R517, R519): a region's governor judges its waiting requests at a cycle. -/
def State.leaveGrant (s : State) (r t : Nat) : State :=
  if s.exact || s.hot || !s.engineLive r then s
  else
    let s := s.reach t
    let live := (SMap.read [] s.els.waits r).filter fun w => (s.ctx w.ctx).cause = .leave
    s.grantWaiting r (max t s.clock.cc) (live.foldr insertReq [])

/-- The detail word of a temperature fault, in the layout of PWR.TEMP. -/
def tempDetail (sensor temp : Nat) : Nat := temp % 256 + sensor % 16 * 256

/-- PWR.TEMP shows the hottest junction. -/
def State.setTemp (s : State) (sensor temp : Nat) (warn : Bool) : State :=
  s.setReg Reg.PWR_TEMP (BitVec.ofNat 32 (tempDetail sensor temp + if warn then 2 ^ 16 else 0))

/-- OVER_TEMPERATURE (R519): the governors grant nothing new from here on under EXACT = 0. -/
def State.overTemp (s : State) (sensor temp : Nat) : State :=
  (s.setTemp sensor temp true).raise 0x0B02 .detected powerLoc (tempDetail sensor temp) 0

/-- THERMAL_TRIP (R519): the domains go off at the next slot tick. -/
def State.thermalTrip (s : State) (sensor temp : Nat) : State :=
  let s := s.setTemp sensor temp true
  let s := { s with power := { s.power with tripped := true } }
  s.raise 0x0B03 .fatal powerLoc (tempDetail sensor temp) 0

/-- TEMPERATURE_FALLEN_BELOW_LIMIT (R519): the governors grant again. -/
def State.tempFallen (s : State) (sensor temp : Nat) : State :=
  let s := s.setTemp sensor temp false
  (List.range 13).foldl (fun s r => s.leaveGrant r s.clock.cc) s

/-- Domains 0 to 25 go off (R519). -/
def State.tripOff (s : State) : State :=
  if !s.power.tripped then s
  else
    let s := { s with power := { s.power with tripped := false } }
    let s := (List.range 13).foldl (fun s r => s.regionOff r) s
    (List.range 26).foldl (fun s d => s.setBit Reg.PWR_DOM d false) s

/-! ## Clocks (R512, R513) -/

/-- PLL_LOSS_OF_LOCK (R513, R536): the clock domains 0 to 12 share the engine PLL. -/
def State.pllLost (s : State) (d : Nat) : State :=
  let s := if s.bit Reg.CLK_LOL 31 then s
    else (s.setFld Reg.CLK_LOL 0 6 d).setBit Reg.CLK_LOL 31 true
  let s := s.bump Reg.CLK_LOL 8 8 1
  if d ≤ 12 then s.raise 0x0B06 .fatal powerLoc d 0
  else
    let s := { s with power := { s.power with
      unlocked := if d ∈ s.power.unlocked then s.power.unlocked else s.power.unlocked ++ [d] } }
    s.raise 0x0B06 .detected powerLoc d 0

/-- PLL_RELOCK (R513). -/
def State.pllRelock (s : State) (d : Nat) : State :=
  { s with power := { s.power with unlocked := s.power.unlocked.filter fun x => x != d } }

/-- Whether a clock domain runs (R512, R536). -/
def State.clockRuns (s : State) (i : Nat) : Bool :=
  let cur := s.powerState
  let awake := decide (cur < 2)
  if i < 9 || (10 ≤ i && i ≤ 12) then
    awake && (domainsOf (if i < 9 then i else i)).all fun d => s.bit Reg.PWR_DOM d
  else if i = 9 then decide (cur < 3) && s.bit Reg.PWR_DOM 17
  else if i = 13 || i = 14 then awake && s.bit Reg.PWR_DOM (21 + (i - 13))
  else if i ≤ 23 then decide (cur < 3) && s.bit Reg.PWR_DOM 23
  else if i = 24 || i = 25 then awake && s.bit Reg.PWR_DOM 24
  else if i = 26 || i = 27 then awake && s.bit Reg.PWR_DOM 25
  else if i = 31 || i = 35 || i = 36 || i = 39 then decide (cur < 3)
  else if i = 33 || i = 34 then awake
  else true

/-! ## Regions (R530 to R532) -/

/-- A committed PWR.RREQ of an action is taken; ACT then reads 0b00. -/
def State.takeRegion (s : State) (act : Nat) (f : Nat → State → State) : State :=
  if s.fld Reg.PWR_RREQ 4 2 = act then
    f (s.fld Reg.PWR_RREQ 0 4) (s.setFld Reg.PWR_RREQ 4 2 0)
  else s

/-- REGION_RESET (R531, R532): the gates open at the next epoch tick. -/
def State.regionReset (s : State) : State :=
  s.takeRegion 1 fun r s =>
    let s := (s.closeGate r 0x030A).clearRegion r fun _ => false
    { s with power := { s.power with resets := s.power.resets ++ [r] } }

/-- REGION_POWER_DOWN (R531). -/
def State.regionDown (s : State) : State := s.takeRegion 2 fun r s => s.regionOff r

/-- REGION_POWER_UP (R532): the wake steps of the region's domains begin. -/
def State.regionUp (s : State) : State :=
  s.takeRegion 3 fun r s => { s with power := { s.power with
    rising := (s.power.rising.filter fun e => e.1 != r) ++ [(r, 0)] } }

/-- At an epoch tick the gates of the regions that are ready open, which clears a fault fence as well (R532);
when the last of the regions that Trim had switched off is back, a Run request is fulfilled (R522). -/
def State.openGates (s : State) : State :=
  let s := s.power.resets.foldl (fun s r => s.setBit Reg.SPN_GATE r false) s
  let s := { s with power := { s.power with
    trimmed := s.power.trimmed.filter fun r => !s.power.resets.contains r
    resets := [] } }
  if s.power.toRun && s.power.trimmed.isEmpty then
    let s := s.setPowerState 0
    { s with power := { s.power with toRun := false } }
  else s

/-! ## States (R520 to R525) -/

/-- RUN_REQUEST (R522, R526): from Trim the regions that Trim switched off come back; from Doze a wake. -/
def State.runRequest (s : State) : State :=
  s.takeRequest 0 fun s =>
    if s.powerState = 1 then
      if s.power.trimmed.isEmpty then s.setPowerState 0
      else { s with power := { s.power with
        toRun := true
        rising := s.power.rising ++ (s.power.trimmed.map fun r => (r, 0)) } }
    else if s.powerState = 2 then { s with power := { s.power with wake := some (2, 0) } }
    else s

/-- TRIM_REQUEST (R522). -/
def State.trimRequest (s : State) : State :=
  s.takeRequest 1 fun s => if s.powerState = 0 then s.trimUnused.setPowerState 1 else s

/-- The regions that Doze switches off: all but NET (R510). -/
def dozeRegions : List Nat := [0, 1, 2, 3, 4, 5, 6, 7, 8, 10, 11, 12]

/-- Whether the retention rail holds a bank of a region (R265). -/
def State.retained (s : State) (r bank : Nat) : Bool :=
  decide (r < 8) && (if bank < 32 then s.bit (Reg.SPD_RETLO r) bank
    else s.bit (Reg.SPD_RETHI r) (bank - 32))

/-- The registers of R525, with one key for each loop and each port. -/
def savedKeys : List Nat :=
  (List.range 64).flatMap (fun l => [winKey l Reg.AGC_CFG, winKey l Reg.AGC_MAN]) ++
  (List.range 16).flatMap (fun n => [Reg.NCO_CTL n, Reg.NCO_BASE n]) ++
  [Reg.RAD_OFDM, Reg.STP_CFG, Reg.OFS_CFG, Reg.NET_PTPFWD, Reg.NET_SYNCE, Reg.TWN_CTL] ++
  (List.range 9).map (fun p => winKey p Reg.NET_PTPLAT)

/-- DOZE (R523): the data plane and the elastic plane are idle, and the domains of R510 go off. -/
def State.doze (s : State) : State :=
  s.takeRequest 2 fun s =>
    if 2 ≤ s.powerState then s
    else
      let regs := savedKeys.map fun k => (k, s.reg k)
      let s := s.abortWhere (fun x => !x.queue.isEmpty) fun _ => true
      let s := (List.range 13).foldl (fun s r => s.voidRegion r 0x030A) s
      let s := { s.stopPlane with running := [], signals := [] }
      let on := dozeRegions.filter fun r => s.powered r || s.power.trimmed.contains r
      let asleep := on.map fun r => (r, !s.fenced r || s.power.trimmed.contains r)
      let s := dozeRegions.foldl (fun s r =>
        let keep (b : Nat) : Bool := s.retained r b
        ((s.closeGate r 0x030A).clearRegion r keep).setDomains r false) s
      { (s.setPowerState 2) with power := { s.power with
          trimmed := [], rising := [], resets := [], asleep := asleep, toRun := false
          saved := some (regs, 0, 0, 0) } }

/-- KEEP (R524, R525): the set is saved, every other domain goes off, and the time unit is in HOLDOVER. -/
def State.keep (s : State) : State :=
  s.takeRequest 3 fun s =>
    if s.powerState != 2 then s
    else
      let now := (s.power.saved.map (·.1)).getD []
      let regs := now.map fun e => (e.1, if keyOfRegion 9 e.1 then s.reg e.1 else e.2)
      let s := { s with power := { s.power with
        saved := some (regs, s.now, s.time.slave.freq, s.imageDigest)
        wake := none, resume := false } }
      let s := (List.range 13).foldl (fun s r => s.regionOff r) s
      let s := { s with mem := { s.mem with hbm := [], hbmHall := [] } }
      let s := (s.setReg Reg.PWR_DOM 0x1C000000).setPowerState 3
      let s := s.setFld Reg.TU_STAT 0 2 3
      let s := { s with pins := { s.pins with pwrEn := false } }
      if s.power.wakeHeld then
        let s := { s with power := { s.power with wakeHeld := false } }
        s.wakeSource 0
      else s

/-! ## Wakes (R526 to R528, R624) -/

/-- WAKE_N (R526, R624): a falling edge held for 100 µs. One that comes while an accepted Keep waits for its
epoch tick is held. -/
def State.wakeN (s : State) : State :=
  if s.powerState = 3 then s.wakeSource 0
  else if s.power.request = some 3 || s.commit.waiting.any (fun a => a.key == Reg.PWR_STATE &&
      bitsOf a.staged.mask 2 2 != 0 && bitsOf a.staged.val 2 2 == 3) then
    { s with power := { s.power with wakeHeld := true } }
  else s

/-- WAKE_NOW (R526): a write of 1 to PWR.WAKE.NOW. -/
def State.wakeNow (s : State) : State := s.wakeSource 2

/-- WAKE_TIMEOUT (R528): of the wake, or of a region that powers up. -/
def State.wakeTimeout (s : State) (region : Option Nat) : State :=
  match region with
  | some r =>
      match s.power.rising.find? fun e => e.1 = r with
      | some e =>
          let s := s.raise 0x0B04 .detected powerLoc (e.2 + 1) 0
          let s := { s with power := { s.power with rising := s.power.rising.filter fun e => e.1 != r } }
          s.setDomains r false
      | none => s
  | none =>
      match s.power.wake with
      | some (back, k) =>
          let s := s.raise 0x0B04 .detected powerLoc (k + 1) 0
          let s := { s with power := { s.power with wake := none } }
          if back = 3 then { s with pins := { s.pins with pwrEn := false } }
          else s.power.asleep.foldl (fun s e => s.setDomains e.1 false) s
      | none => s

def execLeaveGrant (region cycle : Nat) (s : State) : Host.Outcome State Fault Refusal :=
  .next (s.leaveGrant region cycle)

def execOverTemperature (sensor temp : Nat) (s : State) : Host.Outcome State Fault Refusal :=
  .next (s.overTemp sensor temp)

def execThermalTrip (sensor temp : Nat) (s : State) : Host.Outcome State Fault Refusal :=
  .next (s.thermalTrip sensor temp)

def execTemperatureFallenBelowLimit (sensor temp : Nat) (s : State) : Host.Outcome State Fault Refusal :=
  .next (s.tempFallen sensor temp)

def execPllLossOfLock (domain : Nat) (s : State) : Host.Outcome State Fault Refusal :=
  .next (s.pllLost domain)

def execPllRelock (domain : Nat) (s : State) : Host.Outcome State Fault Refusal :=
  .next (s.pllRelock domain)

def execRunRequest (s : State) : Host.Outcome State Fault Refusal := .next (s.managed State.runRequest)

def execTrimRequest (s : State) : Host.Outcome State Fault Refusal := .next (s.managed State.trimRequest)

def execDoze (s : State) : Host.Outcome State Fault Refusal := .next (s.managed State.doze)

def execKeep (s : State) : Host.Outcome State Fault Refusal := .next (s.managed State.keep)

def execRegionReset (s : State) : Host.Outcome State Fault Refusal := .next (s.managed State.regionReset)

def execRegionPowerDown (s : State) : Host.Outcome State Fault Refusal :=
  .next (s.managed State.regionDown)

def execRegionPowerUp (s : State) : Host.Outcome State Fault Refusal := .next (s.managed State.regionUp)

def execWakeN (s : State) : Host.Outcome State Fault Refusal := .next s.wakeN

def execWakeNow (s : State) : Host.Outcome State Fault Refusal := .next (s.managed State.wakeNow)

def execWakeTimeout (region : Option Nat) (s : State) : Host.Outcome State Fault Refusal :=
  .next (s.wakeTimeout region)

end Sys2Proof.Machine
end

