-- ==== Sys2Proof/Machine/Commit.lean ====
section
/-! DEFINITION. The commit unit: staged writes, the judging of commits, and what an epoch tick applies
(R16, R69, R82, R309, R336, R387, R439, R503, R521, R530, R587 to R592). -/

namespace Sys2Proof.Machine

open Sys2Proof

/-- The commit group of a register key (R587). -/
def groupOf (k : Nat) : Nat :=
  let a := k % 2 ^ 32
  if a < 0x1000 then 0 else if 0x1F000000 ≤ a then 14 else (a - 0x10000000) / 0x1000000 + 1

/-- A value with the bits of a mask replaced. -/
def overlay (w : Word) (x : Staged) : Word := (w &&& ~~~x.mask) ||| (x.val &&& x.mask)

/-- The staged value of a register where it is staged, and the committed value otherwise (R589). -/
def State.effective (s : State) (k : Nat) : Word := overlay (s.reg k) (SMap.read {} s.commit.shadow k)

/-- Whether anything of a register is staged. -/
def State.isStaged (s : State) (k : Nat) : Bool := (SMap.read ({} : Staged) s.commit.shadow k).mask != 0

/-- A staged write (R587): a later write of the same bits replaces an earlier one. -/
def State.stage (s : State) (k : Nat) (mask val : Word) : State :=
  let x := SMap.read {} s.commit.shadow k
  let y : Staged := ⟨x.mask ||| mask, overlay x.val ⟨mask, val⟩⟩
  { s with commit := { s.commit with shadow := SMap.write {} s.commit.shadow k y } }

/-! ## Judging (R588 to R590) -/

/-- The patterns that a lane supports (R608). -/
def prbsOk (jesd : Bool) (code : Nat) : Bool :=
  if jesd then [0, 1, 2, 4, 5, 6].contains code else [0, 1, 3, 6, 7].contains code

/-- Whether a field lies in a range. -/
def fieldIn (w : Word) (lo n a b : Nat) : Bool := decide (a ≤ bitsOf w lo n) && decide (bitsOf w lo n ≤ b)

/-- Whether a register's value keeps the ranges stated in its table (R336, R370, R372, R413 to R416, R535,
R608, R615). -/
def rangeOk (a : Nat) (w : Word) : Bool :=
  if a = Reg.ELS_CFG then fieldIn w 0 16 1 65535 && fieldIn w 16 16 256 65535
  else if (List.range 4).any (fun i => a = Reg.ELS_WEIGHT i) then
    (List.range 4).all fun j => fieldIn w (8 * j) 8 1 255
  else if a = Reg.AGC_CFG then
    fieldIn w 8 4 4 12 && fieldIn w 16 4 1 15 && fieldIn w 20 4 1 15 && fieldIn w 24 4 1 14
  else if a = Reg.WGT_TRAIN then fieldIn w 0 16 1 65535 && fieldIn w 16 16 1 65535
  else if a = Reg.TST_CFG then fieldIn w 0 6 0 32 && fieldIn w 16 16 1 65535
  else if a = Reg.PWR_RREQ then fieldIn w 0 4 0 13
  else if a = Reg.NET_LPBK || a = Reg.TWN_LPBK then fieldIn w 0 3 0 4
  else if a = Reg.STP_LPBK then fieldIn w 0 2 0 2
  else if a = Reg.RAD_TRATE then fieldIn w 0 12 600 3250
  else if a = Reg.NET_PRBS then prbsOk false (bitsOf w 0 3) && prbsOk false (bitsOf w 4 3)
  else if a = Reg.RAD_PRBS then prbsOk true (bitsOf w 5 3) && prbsOk true (bitsOf w 8 3)
  else if a = Reg.TWN_PRBS then prbsOk false (bitsOf w 5 3) && prbsOk false (bitsOf w 8 3)
  else true

/-- NaN or infinite, as a binary32 code. -/
def notFinite (w : Word) : Bool := bitsOf w 23 8 == 255

/-- Zero or negative, as a binary32 code. -/
def notPositive (w : Word) : Bool := bitsOf w 0 31 == 0 || bitOf w 31

/-- Whether the agreement checks of R589 that name a register hold. -/
def State.agrees (s : State) (k : Nat) : Bool :=
  let a := k % 2 ^ 32
  let w := s.effective k
  if a = Reg.WGT_ETA then !notFinite w && !(bitOf w 31 && bitsOf w 0 31 != 0)
  else if a = Reg.WGT_CLIP then !notFinite w && !notPositive w
  else if a = Reg.TST_CFG || a = Reg.TST_LIM then
    !(decide (0 < bitsOf (s.effective Reg.TST_CFG) 0 6) && bitsOf (s.effective Reg.TST_LIM) 16 16 == 0)
  else if a = Reg.TU_CTL then !(bitOf w 0 && bitOf w 1)
  else if a = Reg.TU_STEP then bitsOf w 0 24 != 0
  else if a = Reg.TWN_CTL then !(bitOf w 0 && bitOf w 1)
  else if a = Reg.PWR_STATE || a = Reg.PWR_WAKE then
    !(bitsOf (s.effective Reg.PWR_STATE) 2 2 == 3 && bitsOf (s.effective Reg.PWR_WAKE) 0 3 == 0)
  else if a = Reg.AGC_CFG then !(bitOf w 28 && bitOf w 29)
  else if a = Reg.OFS_CFG then bitsOf w 4 28 != 0
  else if a = Reg.NET_SYNCE then decide (bitsOf w 0 4 ≤ 8) && decide (bitsOf w 4 4 ≤ 8)
  else true

/-- The slot of the epoch tick at which a commit that is accepted now takes effect (R16, R69, R540). -/
def State.dueSlot (s : State) : Nat :=
  if !s.started then 0
  else
    let e := s.epochAfter 1
    let late := e == s.slot + 1 && decide (s.slotLen < s.clock.cc + 2048)
    (if late then e + max 1 s.spe else e) % 2 ^ 32

/-- The variant that is in force at the next commit's epoch tick: an accepted switch, or the present one. -/
def State.variantThen (s : State) : Nat :=
  match (s.commit.waiting.filter fun a => a.key == Reg.SPL_SWREQ && bitOf a.staged.val 16).getLast? with
  | some a => bitsOf a.staged.val 0 16
  | none => s.active

/-- Whether an accepted commit resets or switches off a region that a variant uses (R530). -/
def State.regionGoes (s : State) (v : Variant) : Bool :=
  s.commit.waiting.any fun a => a.key == Reg.PWR_RREQ &&
    (bitsOf a.staged.val 4 2 == 1 || bitsOf a.staged.val 4 2 == 2) && v.regions.testBit (bitsOf a.staged.val 0 4)

/-- Whether a variant uses a region whose domains are off (R521). -/
def State.needsPower (s : State) (v : Variant) : Bool :=
  (List.range 13).any fun r => v.regions.testBit r && !s.powered r

/-- The refusals of PWR.STATE.REQ (R521). -/
def State.stateRefused (s : State) (req : Nat) : Bool :=
  let cur := s.powerState
  let ts := s.twinState
  (req == 2 && ts != 0 && ts != 4) || (req == 3 && cur != 2) || (req == 1 && (cur == 2 || cur == 3)) ||
  ((req == 0 || req == 2) && cur == 3) || req == cur

/-- The refusals of PWR.RREQ (R530). -/
def State.regionRefused (s : State) (w : Word) : Bool :=
  let r := bitsOf w 0 4
  let act := bitsOf w 4 2
  act != 0 && (r == 13 || (act == 3 && s.powered r) ||
    (act != 3 && (s.variant s.variantThen).regions.testBit r))

/-- The refusal of a staged register by its owning rule, as the fault that it raises. -/
def State.stateFault (s : State) (k : Nat) : Option Nat :=
  let w := s.effective k
  let refuse (b : Bool) (code : Nat) : Option Nat := if b then some code else none
  if k = Reg.DET_MODE then
    refuse (if bitOf w 0 then s.plan.variants.any fun v => !(v.hasExact && v.hasLeave) else s.fld Reg.TWN_CFG 0 2 == 1) 0x0D03
  else if k = Reg.SPL_SWREQ then
    if !bitOf w 16 then none
    else
      let v := s.variant (bitsOf w 0 16)
      if s.needsPower v then some 0x0B05
      else refuse (decide (s.plan.variants.length ≤ bitsOf w 0 16) || !s.fits v || s.regionGoes v) 0x0D03
  else if k = Reg.WGT_CTL then
    refuse ((bitOf w 1 && s.standby != 3) || ((bitOf w 1 || bitOf w 2) && s.sec.saving)) 0x0D03
  else if k = Reg.TU_CTL then refuse (bitOf w 0 && !s.bit Reg.TU_STAT 2) 0x0D03
  else if k = Reg.TWN_CTL then
    refuse ((bitOf w 0 && s.twinState != 0 && s.twinState != 4) ||
      (bitOf w 2 && !(s.twinState == 3 && s.twinMode == 1 && s.isLive))) 0x0D03
  else if k = Reg.PWR_STATE then refuse (s.stateRefused (bitsOf w 2 2)) 0x0B05
  else if k = Reg.PWR_RREQ then refuse (s.regionRefused w) 0x0B05
  else none

/-- Why a staged register is refused: 1 range, 2 agreement, 3 state, with the fault. -/
def State.refusalOf (s : State) (k : Nat) : Option (Nat × Nat) :=
  if !rangeOk (k % 2 ^ 32) (s.effective k) then some (1, 0x0D03)
  else if !s.agrees k then some (2, 0x0D03)
  else (s.stateFault k).map fun f => (3, f)

/-- The first refusal of a group: register, reason and fault. -/
def State.groupRefusal (s : State) (g : Nat) : Option (Nat × Nat × Nat) :=
  (s.commit.shadow.filter fun e => groupOf e.1 == g).findSome? fun e =>
    (s.refusalOf e.1).map fun r => (e.1 % 2 ^ 32, r.1, r.2)

/-- The location of the commit unit, which reports with the management sequencer. -/
def commitLoc : BitVec 64 := blockLoc 13 0x38 0

/-- One group of a commit is judged (R588, R590, R591). An accepted swap is announced to the partner
(R486). -/
def State.judgeGroup (s : State) (g : Nat) : State :=
  match s.groupRefusal g with
  | some (a, reason, fault) =>
      let first := s.fld Reg.MGT_CSTAT 16 15 == 0
      let s := s.setBit Reg.MGT_CSTAT (16 + g) true
      let s := s.bump Reg.MGT_CCNT 16 16 1
      let s := if first then
          (s.setReg Reg.MGT_CREASON (BitVec.ofNat 32 (reason + g * 16))).setReg Reg.MGT_CADDR (BitVec.ofNat 32 a)
        else s
      if fault = 0x0B05 then s.raise fault .detected powerLoc (a % 0x1000000) 0
      else s.raise fault .detected commitLoc a (reason + g * 16)
  | none =>
      let s := (s.setBit Reg.MGT_CSTAT g true).bump Reg.MGT_CCNT 0 16 1
      let due := s.dueSlot
      let s := s.setReg Reg.MGT_CEPOCH (BitVec.ofNat 32 due)
      let mine := s.commit.shadow.filter fun e => groupOf e.1 == g
      let s := { s with commit :=
        { shadow := s.commit.shadow.drop fun k => groupOf k == g
          waiting := s.commit.waiting ++ mine.map fun e => ⟨due, e.1, e.2⟩ } }
      if mine.any fun e => e.1 == Reg.TWN_CTL && bitOf e.2.val 2 then s.notify .swap due else s

/-- COMMIT (R588 to R590): a write of MGT.COMMIT.GROUPS. -/
def State.doCommit (s : State) (mask : Nat) : State :=
  if mask % 2 ^ 15 = 0 then s
  else
    let s := s.zeroRegs [Reg.MGT_CSTAT, Reg.MGT_CREASON, Reg.MGT_CADDR]
    let s := (List.range 15).foldl (fun s g => if mask.testBit g then s.judgeGroup g else s) s
    s.announce 0xA4 (leBytes 2 (s.fld Reg.MGT_CSTAT 0 15) ++ [0, 0])

/-- DISCARD (R588, R599, R600). -/
def State.discard (s : State) (mask : Nat) : State :=
  { s with commit := { s.commit with
    shadow := s.commit.shadow.drop fun k => mask.testBit (groupOf k) && decide (groupOf k < 15) } }

/-! ## What an epoch tick applies (R68, R521, R537, R591) -/

/-- One accepted register takes effect. -/
def State.applyOne (s : State) (a : Accepted) : State :=
  let s := s.setReg a.key (overlay (s.reg a.key) a.staged)
  if a.key = Reg.PWR_STATE && bitsOf a.staged.mask 2 2 != 0 then
    { s with power := { s.power with request := some (s.fld Reg.PWR_STATE 2 2) } }
  else s

/-- Every commit that is due takes effect together; a state request drops a region request of the same tick. -/
def State.applyCommits (s : State) (n : Nat) : State :=
  let due := s.commit.waiting.filter fun a => a.due = n
  let s := { s with commit := { s.commit with waiting := s.commit.waiting.filter fun a => a.due != n } }
  let s := due.foldl (fun s a => s.applyOne a) s
  if s.power.request.isSome then s.setFld Reg.PWR_RREQ 4 2 0 else s

def execCommit (groups : Nat) (s : State) : Host.Outcome State Fault Refusal :=
  .next (s.managed fun s => s.doCommit groups)

def execDiscard (groups : Nat) (s : State) : Host.Outcome State Fault Refusal :=
  .next (s.managed fun s => s.discard groups)

end Sys2Proof.Machine
end

