-- ==== Sys2Proof/Machine/Faults.lean ====
section
/-! DEFINITION. The fault controller's commands and the slot ledger's close and extract (R462 to R468,
R471, R476). -/

namespace Sys2Proof.Machine

open Sys2Proof

/-- POP (R471, R477): removes the oldest record. -/
def State.popRecord (s : State) : State :=
  { s with faults := { s.faults with queue := s.faults.queue.drop 1 } }

/-! ## The ledger's close and extract (R464) -/

/-- Whether one extract entry goes before another: ascending region, buffer number, then lag. -/
def LedgerEntry.le (a b : LedgerEntry) : Bool :=
  decide (a.region < b.region) || (a.region == b.region &&
    (decide (a.buf < b.buf) || (a.buf == b.buf && decide (a.lag ≤ b.lag))))

/-- Inserts an entry in order. -/
def insertEntry (e : LedgerEntry) : List LedgerEntry → List LedgerEntry
  | [] => [e]
  | x :: xs => if e.le x then e :: x :: xs else x :: insertEntry e xs

/-- The entries of a slot's set in one ledger cell. -/
def cellEntry (k : Nat) (x : LedgerCell) : LedgerEntry :=
  ⟨k / 4096 % 14, k % 4096, x.void, x.suspect, 0, x.cause⟩

/-- The close of the running slot's ledger, at the slot tick before TCK.SLOTNUM increments (R464,
R478): its entries and the late ones in extract order. -/
def State.closeLedger (s : State) : State :=
  let set_ := s.slot % 4
  let own := (s.ledger.cells.filter fun e => e.1 / (14 * 4096) == set_ && (e.2.void || e.2.suspect)).map
    fun e => cellEntry e.1 e.2
  let all_ := (own ++ s.ledger.late).foldr insertEntry []
  let voids := (own.filter (·.void)).length
  let suspects := (own.filter fun e => e.suspect && !e.void).length
  let s := { s with ledger := { s.ledger with
    late := [], closed := all_, closedSlot := s.slot, extracted := false } }
  (s.setReg Reg.LGR_LAST (BitVec.ofNat 32 s.slot)).setReg Reg.LGR_LCNT
    (BitVec.ofNat 32 (min voids 0xFFFF + min suspects 0xFFFF * 2 ^ 16))

/-- The oldest set becomes the set of the new slot, cleared (R304, R463). -/
def State.clearOldest (s : State) : State :=
  let set_ := (s.slot + 1) % 4
  { s with ledger := { s.ledger with
    cells := s.ledger.cells.filter fun e => e.1 / (14 * 4096) != set_ } }

/-- The ledger tag of a buffer from the image (R464). -/
def State.ledgerTag (s : State) (r b : Nat) : Nat :=
  (((s.variant s.active).plans.findSome? fun p =>
    (p.bufs.find? fun x => x.region = r && x.buf = b).map (·.tag)).getD 0)

/-- The eight bytes of an extract entry (R464). -/
def State.entryBytes (s : State) (e : LedgerEntry) : List Byte :=
  leBytes 4 (e.buf % 4096 + e.region % 16 * 2 ^ 12 + (if e.void then 2 ^ 16 else 0)
      + (if e.suspect && !e.void then 2 ^ 17 else 0) + min e.lag 16383 * 2 ^ 18) ++
    leBytes 4 (s.ledgerTag e.region e.buf % 2 ^ 16 + e.cause % 2 ^ 16 * 2 ^ 16)

/-- The bytes of the extract of the last closed ledger (R464). -/
def State.extractBytes (s : State) : List Byte :=
  let es := s.ledger.closed
  leBytes 4 s.ledger.closedSlot ++
    leBytes 4 (min es.length 255 + (if 255 < es.length then 2 ^ 16 else 0)) ++
    List.replicate 8 0 ++ (es.take 255).flatMap fun e => s.entryBytes e

/-- LEDGER_EXTRACT (R464, R478): the extract lands in its buffer granule by granule with fresh H-Cs and
signals completion; one whose region does not answer is lost. -/
def State.writeExtract (s : State) : State :=
  if s.ledger.extracted || !s.clock.running then s
  else
    let s := { s with ledger := { s.ledger with extracted := true } }
    let r := s.fld Reg.LGR_XBUF 25 3
    let a := s.fld Reg.LGR_XBUF 0 25
    let s := s.bumpIf (255 < s.ledger.closed.length) Reg.LGR_XOVF 0 16 1
    if !s.served r then s.bump Reg.LGR_XOVF 16 16 1
    else
      let bs := s.extractBytes
      let n := (bs.length + 255) / 256
      let k := padKey r a
      let s := s.renewWords ((List.range (256 * n)).map fun i => Place.pad r (a + i))
      let s := { s with mem := { s.mem with
        pad := SMap.writeList 0 s.mem.pad k (bs ++ List.replicate (256 * n - bs.length) 0) } }
      let s := (List.range n).foldl (fun s g => s.remark (0, k / 256 + g)) s
      s.complete none r (s.fld Reg.LGR_XNUM 0 12)

/-! ## Lockstep and the rotating self-test (R467, R476) -/

/-- The lockstep pairs of R467. -/
def lockstepClass : Nat → Nat
  | 0 => 0x38
  | 1 => 0x39
  | 2 => 0x3B
  | 3 => 0x3C
  | 4 => 0x3D
  | _ => 0x3E

/-- LOCKSTEP_MISMATCH (R467) in block 0 sequencer, 1 I3C target, 2 security unit, 3 fault controller,
4 power sequencer or 5 time unit. `action` is whether a management action falls in that cycle: the next
management command of the queue is that action and is discarded. The sequencer repeats its program step at the next
epoch tick. -/
def State.lockstep (s : State) (block : Nat) (action : Bool) : State :=
  let loc := blockLoc 13 (lockstepClass block) 0
  if block = 3 || 5 ≤ block then s.raise 0x020A .fatal loc 0 0
  else
    let s := s.raise 0x020A .detected loc 0 0
    { s with faults := { s.faults with discard := s.faults.discard || action
                                       repeatStep := true } }

/-- ROTATING_SELF_TEST (R476): `done` is whether a rotation completes, `fail` the location of a failing
element, and `checker` the region of a failing checker. -/
def State.selfTest (s : State) (done : Bool) (fail : Option Nat) (checker : Option Nat) : State :=
  let s := s.bumpIf done Reg.FLT_STEST 0 16 1
  match fail with
  | none => s
  | some l =>
      let s := s.bump Reg.FLT_STEST 16 16 1
      let s := s.raise 0x0901 .detected (BitVec.ofNat 64 l) 0 0
      match checker with
      | some r => if r < 13 then s.fenceFault r 0x0901 else s
      | none => s

def execPop (s : State) : Host.Outcome State Fault Refusal :=
  .next (s.managed fun s => s.popRecord)

def execLedgerExtract (s : State) : Host.Outcome State Fault Refusal :=
  .next s.writeExtract

def execLockstepMismatch (block : Nat) (action : Bool) (s : State) :
    Host.Outcome State Fault Refusal :=
  .next (s.lockstep block action)

def execRotatingSelfTest (done : Bool) (fail checker : Option Nat) (s : State) :
    Host.Outcome State Fault Refusal :=
  .next (s.selfTest done fail checker)

end Sys2Proof.Machine
end

