-- ==== Sys2Proof/Machine/Hbm.lean ====
section
/-! DEFINITION. The HBM controllers (R285 to R293, R297) and the scrubber (R264). -/

namespace Sys2Proof.Machine

open Sys2Proof

/-- The window table that a stack's controller runs (R287, R288). -/
def State.hbmTable (s : State) (stack : Nat) : List HbmWindow :=
  ((if s.exact && (s.variant s.active).hasExact then s.curPlan.hbmExact else s.curPlan.hbm).filter
    fun e => e.1 = stack).map (·.2)

/-- Whether an entry claims a stripe slot for a stripe (R287). -/
def HbmWindow.claims (w : HbmWindow) (sslot : Nat) : Bool :=
  decide (w.start ≤ sslot) && decide ((sslot - w.start) % (w.period + 1) = 0)
    && decide ((sslot - w.start) / (w.period + 1) < w.count)

/-- A data entry: read, write or elastic. -/
def HbmWindow.isData (w : HbmWindow) : Bool := w.type == 1 || w.type == 2 || w.type == 4

/-- Whether an entry serves a requester in a direction (R287, R288): 0 to 7 a sprue, 8 the spine stop. An elastic entry
serves elastic streams, the others those of the data plane; a requester without a Ladle is served by either. -/
def HbmWindow.serves (w : HbmWindow) (req : Nat) (write : Bool) (stream : Option Stream) : Bool :=
  (w.type == 4 && (w.req == 0x3F || w.req == req) && (stream.all fun t => t.ctx.isSome)) ||
    (w.type == (if write then 2 else 1) && w.req == req && (stream.all fun t => t.ctx.isNone))

/-- The requester code of a region. -/
def reqOf (region : Nat) : Nat := min region 8

/-- The number of a stripe slot counted from slot 0. -/
def State.absSlot (s : State) (sslot : Nat) : Nat := s.slot * (s.slotLen / 4) + sslot

/-- The bank of a stripe (R285). -/
def stripeBank (n : Nat) : Nat := n / 2 % 16

/-- Whether a bank may take a stripe at an absolute stripe slot (R290 rule 5). -/
def State.bankFree (s : State) (stack bank t : Nat) : Bool :=
  let k := stack * 16 + bank
  let a := SMap.read 0 s.hbm.lastStripe k
  let b := SMap.read 0 s.hbm.lastRefresh k
  (a = 0 || decide (a - 1 + 12 ≤ t)) && (b = 0 || decide (b - 1 + 40 ≤ t))

/-- "Window table parity" (R292), reported once, at the first stripe slot of the entry. -/
def State.tableParity (s : State) (stack : Nat) : State :=
  (s.bump Reg.MEM_TBLERR 0 16 1).raise 0x0107 .detected (blockLoc 11 0x28 stack) 0 0

/-- Whether a data entry's stripe slot is taken by the refresh that an entry of failed parity missed
(R292). -/
def stolenByRefresh (ws : List HbmWindow) (e : HbmWindow) (sslot : Nat) : Bool :=
  decide (sslot < e.start + 3) && ws.any fun x =>
    x.type == 3 && !x.parity && decide (x.start < e.start) &&
      ws.all fun y => !(y.isData && y.parity && decide (x.start < y.start) && decide (y.start < e.start))

/-- ECC errors of an HBM stripe (R286): pseudo-channel and whether uncorrectable; the first
uncorrectable address is latched. -/
def State.hbmEcc (s : State) (n : Nat) (es : List (Nat × Bool)) : State :=
  es.foldl (fun s e =>
    let a := n * 2048 + e.1 % 32 * 64
    let idx := n % 2 * 32 + e.1 % 32
    if e.2 then
      let s := s.bump Reg.MEM_ECC 16 16 1
      let s := if s.bit Reg.MEM_ECCADDRHI 31 then s
        else (s.setReg Reg.MEM_ECCADDR (BitVec.ofNat 32 a)).setReg Reg.MEM_ECCADDRHI
          (BitVec.ofNat 32 (a / 2 ^ 32 % 16 + 2 ^ 31))
      s.eccRecord true 11 0x2A idx (blockLoc 11 0x2A idx) a (a / 2 ^ 32)
    else
      let s := s.bump Reg.MEM_ECC 0 16 1
      s.eccRecord false 11 0x2A idx (blockLoc 11 0x2A idx) a (a / 2 ^ 32)) s

/-- The 64-byte units of stripe `n` that met an uncorrectable error (R286): the manual does not say which bits it
turns, so the unit's data and its 8 bits of the granule's H-C are free values (DESIGN CHOICE 19, safe). -/
def State.loseUnits (s : State) (n : Nat) (es : List (Nat × Bool)) : State :=
  es.foldl (fun s e =>
    if e.2 then
      let u := n * 32 + e.1 % 32
      let (vs, s) := s.drawFor true 65
      let h := putBits (s.hallmark (1, u / 4)) (8 * (u % 4)) 8 ((vs.getD 64 0).toNat % 256)
      { s with mem := { s.mem with
          hbm := SMap.writeList 0 s.mem.hbm (u * 64) ((vs.take 64).map fun (x : BitVec 64) => x.setWidth 8) } }.setHallmark (1, u / 4) h
    else s) s

/-- A stream whose buffer is void from here on. -/
def State.voidStream (s : State) (r l : Nat) (t : Stream) (cause : Nat) : State :=
  let s := s.voidBuf t.ctx r t.buf cause
  s.setActive r l (some { t with void := true, cause := if t.void then t.cause else cause })

/-- A stripe that moves nothing or late is a timing breach (R278, R293). -/
def State.stripeBreach (s : State) (r l : Nat) (t : Stream) (sslot late : Nat) : State :=
  s.breach t.ctx (ladleLoc r l) t.w0 (4 * sslot) (4 * late)

/-- Counts a stripe that moved nothing (R278, R293, R297). -/
def State.countLate (s : State) (ctx : Option Nat) : State :=
  match ctx with
  | none => s.bump Reg.MEM_LATE 0 16 1
  | some _ => s.bump Reg.MEM_LATE 16 16 1

/-- The byte offset in a stream's data of its read stripe `i`, when a data block holds it. -/
def stripeOffset : List Block → Nat → Option Nat
  | [], _ => none
  | b :: bs, i =>
      let n := (stripesOf [b]).length
      if i < n then (if b.kind = 0 then some (2048 * i) else none)
      else (stripeOffset bs (i - n)).map fun o => o + (if b.kind = 0 then b.size else 0)

/-- Marks a read stripe of a stream as past; one that moved nothing reads as zeros. -/
def Stream.passRead (t : Stream) (i : Nat) (moved : Bool) : Stream :=
  { t with moved := t.moved ++ [i]
           zeros := if moved then t.zeros else match stripeOffset t.blocks i with
             | some o => t.zeros ++ [(o, 2048)]
             | none => t.zeros }

/-- A COPY whose last read stripe is past moves its data. -/
def State.afterRead (s : State) (r l : Nat) : State :=
  match (s.ladle r l).active with
  | none => s
  | some t =>
      if t.isCopy && !t.finished && decide (t.readStripes.length ≤ t.moved.length) then s.copyNow r l
      else s

/-- The 2,048 bytes that a write stripe has waiting, if all of them have been handed over. -/
def Stream.stripeData (t : Stream) (n : Nat) : Option (List Byte) :=
  let bs := (List.range 2048).map fun j =>
    (t.staged.reverse.find? fun e => e.1 = n * 2048 + j).map (·.2)
  if bs.all Option.isSome then some (bs.filterMap id) else none

/-- An HBM write stripe lands (R276, R286): its bytes, and the hallmarks of its eight granules. -/
def State.landStripe (s : State) (t : Stream) (n : Nat) (bs : List Byte) : State :=
  let s := { s with mem := { s.mem with hbm := SMap.writeList 0 s.mem.hbm (n * 2048) bs } }
  (List.range 8).foldl (fun s g =>
    let k := n * 8 + g
    match t.halls.find? fun e => e.1 = k with
    | some e => s.setHallmark (1, k) e.2
    | none => if bitOf t.w3 31 && t.hallOk && !t.carries then s.remark (1, k) else s) s

/-- Moves one stripe of a stream, by its index, at an absolute stripe slot. -/
def State.moveStripe (s : State) (stack r l idx t_ : Nat) (write : Bool) (ecc : List (Nat × Bool)) :
    State :=
  match (s.ladle r l).active with
  | none => s
  | some t =>
      let n := (if write then t.writeStripes else t.readStripes).getD idx 0
      let s := { s with hbm := { s.hbm with
        lastStripe := SMap.write 0 s.hbm.lastStripe (stack * 16 + stripeBank n) (t_ + 1) } }
      let s := s.hbmEcc n ecc
      let bad := ecc.any (·.2)
      let s := if bad then s.voidStream r l t 0x0102 else s
      let t := (s.ladle r l).active.getD t
      if write then
        let s := s.bump Reg.MEM_WRSTR 0 32 1
        let s := (s.landStripe t n ((t.stripeData n).getD [])).loseUnits n ecc
        s.setActive r l (some { t with wmoved := t.wmoved ++ [idx], doneAt := s.clock.cc + 60 })
      else
        let s := s.bump Reg.MEM_RDSTR 0 32 1
        ((s.loseUnits n ecc).setActive r l (some (t.passRead idx true))).afterRead r l

/-- A stripe that moves nothing: a breach, its buffer void (R278). -/
def State.missStripe (s : State) (r l idx sslot : Nat) (write : Bool) : State :=
  match (s.ladle r l).active with
  | none => s
  | some t =>
      let s := (s.stripeBreach r l t sslot 0).countLate t.ctx
      let s := s.voidStream r l t 0x0301
      let t := (s.ladle r l).active.getD t
      if write then s.setActive r l (some { t with wmoved := t.wmoved ++ [idx] })
      else (s.setActive r l (some (t.passRead idx false))).afterRead r l

/-- A stripe that an idle entry or a missed refresh keeps from moving: its buffer is void (R292). -/
def State.skipStripe (s : State) (r l idx cause : Nat) (write : Bool) : State :=
  match (s.ladle r l).active with
  | none => s
  | some t =>
      let s := s.voidStream r l t cause
      let t := (s.ladle r l).active.getD t
      if write then s.setActive r l (some { t with wmoved := t.wmoved ++ [idx] })
      else (s.setActive r l (some (t.passRead idx false))).afterRead r l

/-- The next stripe of a stream on a stack. -/
def Stream.nextStripe (t : Stream) (stack : Nat) (write : Bool) : Option Nat :=
  let ns := if write then t.writeStripes else t.readStripes
  let gone := if write then t.wmoved else t.moved
  (List.range ns.length).find? fun i => ns.getD i 0 % 2 = stack && !gone.contains i

/-- A stripe that MEM does not answer, with its buffer void. -/
def State.absentVoid (s : State) (r l : Nat) (t : Stream) (idx : Nat) (write : Bool) : State :=
  let s := s.voidStream r l t 0x030A
  let t := (s.ladle r l).active.getD t
  if write then s.setActive r l (some { t with wmoved := t.wmoved ++ [idx] })
  else (s.setActive r l (some (t.passRead idx false))).afterRead r l

/-- A stripe that is asked of MEM while it is fenced (R46, R58, R279): a read gives zeros, a write is dropped, and its
buffer is void. -/
def State.absentStripe (s : State) (r l : Nat) (idx : Option Nat) (write : Bool) : State :=
  match (s.ladle r l).active, idx with
  | some t, some i => ((s.bumpIf write Reg.SPN_ABSCNT 0 32 1).ladleErr r l 24 1).absentVoid r l t i write
  | _, _ => s

/-- One stripe slot of a stack for a requester (R278, R287 to R293). Ladle numbers from 6 name the
requesters without a Ladle, whose stripes are only counted. -/
def State.hbmStripe (s : State) (stack sslot region ladle : Nat) (write : Bool)
    (ecc : List (Nat × Bool)) : State :=
  let ws := s.hbmTable stack
  let stream := if ladle < 6 && region < 8 then (s.ladle region ladle).active else none
  match ws.find? fun w => w.isData && w.claims sslot && w.serves (reqOf region) write stream with
  | none => s
  | some w =>
      let idx := stream.bind fun t => t.nextStripe stack write
      if !s.served 11 then s.absentStripe region ladle idx write
      else if !s.engineLive 11 || !s.bit Reg.MEM_CFG stack then s
      else
        let s := s.reach (4 * sslot)
        let s := if w.parity || sslot != w.start then s else s.tableParity stack
        match stream, idx with
        | some t, some i =>
            let n := (if write then t.writeStripes else t.readStripes).getD i 0
            if !w.parity then s.skipStripe region ladle i 0x0107 write
            else if stolenByRefresh ws w sslot then s.skipStripe region ladle i 0x0107 write
            else if s.lostLock (13 + stack) then s.skipStripe region ladle i 0x0B06 write
            else if decide (4 * sslot < t.start + 24) || (write && (t.stripeData n).isNone) then
              s.missStripe region ladle i sslot write
            else if !s.bankFree stack (stripeBank n) (s.absSlot sslot) then
              let s := s.stripeBreach region ladle t sslot 0
              let s := if t.ctx.isNone || s.exact then s.voidStream region ladle t 0x0301 else s
              { s with hbm := { s.hbm with
                  waiting := SMap.write none s.hbm.waiting stack
                    (some ⟨region, ladle, i, w.start + (w.count - 1) * (w.period + 1) + 1, write⟩) } }
            else s.moveStripe stack region ladle i (s.absSlot sslot) write ecc
        | _, _ =>
            if (ladle < 6 && region < 8) || !w.parity || stolenByRefresh ws w sslot then s
            else (s.hbmEcc stack ecc).bump (if write then Reg.MEM_WRSTR else Reg.MEM_RDSTR) 0 32 1

/-- The stripe that waits for its bank takes a free stripe slot before its entry ends, or does not move
(R293). -/
def State.delayedStripe (s : State) (stack sslot : Nat) : State :=
  match SMap.read none s.hbm.waiting stack with
  | none => s
  | some d =>
      let s := { s with hbm := { s.hbm with waiting := SMap.write none s.hbm.waiting stack none } }
      match (s.ladle d.region d.ladle).active with
      | none => s
      | some t =>
          let n := (if d.write then t.writeStripes else t.readStripes).getD d.stripe 0
          if decide (sslot < d.until_) && s.bankFree stack (stripeBank n) (s.absSlot sslot) then
            (s.reach (4 * sslot)).moveStripe stack d.region d.ladle d.stripe (s.absSlot sslot) d.write []
          else
            let s := (s.countLate t.ctx).voidStream d.region d.ladle t 0x0301
            let t := (s.ladle d.region d.ladle).active.getD t
            if d.write then
              s.setActive d.region d.ladle (some { t with wmoved := t.wmoved ++ [d.stripe] })
            else
              (s.setActive d.region d.ladle (some (t.passRead d.stripe false))).afterRead d.region d.ladle

/-- A refresh entry (R287, R292, R297): the gap since the bank's last refresh, in stripe slots. -/
def State.refreshEntry (s : State) (stack sslot : Nat) : State :=
  match (s.hbmTable stack).find? fun w => w.type = 3 && w.start = sslot with
  | none => s
  | some w =>
      if !s.engineLive 11 || !s.bit Reg.MEM_CFG stack then s
      else
        let s := s.reach (4 * sslot)
        if !w.parity then s.tableParity stack
        else
          let k := stack * 16 + w.bank
          let t := s.absSlot sslot
          let last := SMap.read 0 s.hbm.lastRefresh k
          let gap := t + 1 - last
          let s := if last = 0 || gap ≤ s.fld Reg.MEM_REFGAP 0 10 then s
            else s.setFld Reg.MEM_REFGAP 0 10 (min gap 1023)
          { s with hbm := { s.hbm with lastRefresh := SMap.write 0 s.hbm.lastRefresh k (t + 1) } }

/-- A stack's temperature readout; `rating` is the rated maximum of the stacks (R291, R630). -/
def State.hbmTemperature (s : State) (stack temp rating : Nat) : State :=
  let s := s.setFld Reg.MEM_STAT (8 * (stack % 2)) 8 (min temp 255)
  let hot := decide (rating < s.fld Reg.MEM_STAT 0 8) || decide (rating < s.fld Reg.MEM_STAT 8 8)
  let s := s.setBit Reg.MEM_STAT 16 hot
  s.raiseIf (decide (rating < temp)) 0x0108 .detected (blockLoc 11 0x28 (stack % 2)) 0 0

/-- Completed scrub passes of a region's 48 banks. -/
def State.scrubPasses (s : State) (r : Nat) : Nat :=
  ((List.range 48).map fun b => SMap.read 0 s.hbm.scrubbed (r * 48 + b) / 8192).foldl min (2 ^ 40)

/-- The scrubber reads the next line of a bank in a cycle that the crossbar table leaves empty on its port, and waits in any
other (R27, R264): `found` are new errors in
its eight words, 1 plus the bit or 255. -/
def State.scrub (s : State) (r bank : Nat) (found : List (Nat × Nat)) : State :=
  if !s.served r || 48 ≤ bank || 8 ≤ r || !s.portEmpty r bank then s
  else
    let k := r * 48 + bank
    let n := SMap.read 0 s.hbm.scrubbed k
    let before := s.scrubPasses r
    let line := r * 2 ^ 22 + bank * 65536 + n % 8192 * 8
    let s := s.markWords (found.map fun e => (line + e.1 % 8, e.2))
    let s := (List.range 8).foldl (fun s i =>
      let e := SMap.read 0 s.mem.padEcc (line + i)
      if e = 0 then s
      else
        let s := s.padEcc (line + i) e
        if e = 255 then s
        else { s with mem := { s.mem with padEcc := SMap.write 0 s.mem.padEcc (line + i) 0 } }) s
    let s := { s with hbm := { s.hbm with scrubbed := SMap.write 0 s.hbm.scrubbed k (n + 1) } }
    s.bump (Reg.SPD_SCRUB r) 0 16 (s.scrubPasses r - before)

def execHbmStripe (stack sslot region ladle : Nat) (write : Bool) (ecc : List (Nat × Bool))
    (s : State) : Host.Outcome State Fault Refusal :=
  .next (s.hbmStripe (stack % 2) sslot region ladle write ecc)

def execDelayedStripe (stack sslot : Nat) (s : State) : Host.Outcome State Fault Refusal :=
  .next (s.delayedStripe (stack % 2) sslot)

def execRefreshEntry (stack sslot : Nat) (s : State) : Host.Outcome State Fault Refusal :=
  .next (s.refreshEntry (stack % 2) sslot)

def execHbmOverTemperature (stack temp : Nat) (s : State) : Host.Outcome State Fault Refusal :=
  .next (s.hbmTemperature stack temp 95)

def execScrub (region bank : Nat) (found : List (Nat × Nat)) (s : State) :
    Host.Outcome State Fault Refusal :=
  .next (s.scrub region bank found)

end Sys2Proof.Machine
end

