-- ==== Sys2Proof/Machine/Timing.lean ====
section
/-! DEFINITION. Planned completions: the cycles that the completion rule of each engine's chapter gives a command, with its
largest counts (R72, R314, R516), and those of a Ladle's stream (R277). -/

namespace Sys2Proof.Machine

open Sys2Proof

/-- Rows that stream at a period, counted to the completion of the last (R152). -/
def rowsCycles (rows period : Nat) : Nat := if rows = 0 then 0 else (rows - 1) * period + 196 + period

/-- The row period that a stationary operand's own fields give (R152). -/
def Cmd.rowPeriod (c : Cmd) : Nat :=
  let d := (Fmt.get (bitsOf c.w.w2 8 4)).digits + (if c.flag 3 then 1 else 0)
  if c.flag 1 then 2 * d else d

/-- From issue to completion of an Anvil or Slicer command; `p` is the row period of the tile that it streams through
(R152, R154, R176). -/
def Cmd.arrayCycles (c : Cmd) (p : Nat) : Nat :=
  let rows := bitsOf c.w.w3 0 16
  match c.opcode with
  | 0x10 => 128
  | 0x11 => max 1 (rowsCycles rows p)
  | 0x12 => 128 + rowsCycles rows c.rowPeriod
  | 0x13 => if rows = 0 then 1 else 16 * rows + 5
  | 0x14 => if rows = 0 then 1 else (rows - 1) * bitsOf c.w.w3 25 5 + 13
  | 0x20 =>
      let b := bitsOf c.w.w2 8 5
      let k := bitsOf c.w.w2 16 16
      1 + if b * k = 0 then 0 else Config.vloadCycles b k (Fmt.get (bitsOf c.w.w2 4 4)).bits
  | 0x21 =>
      let n := bitsOf c.w.w2 0 16 * bitsOf c.w.w2 16 14
      if n * bitsOf c.w.w3 8 5 = 0 then 1 else (n * (Fmt.get (bitsOf c.w.w3 0 4)).bits + 999) / 1000 + 40
  | _ => (bitsOf c.w.w2 8 5 * bitsOf c.w.w2 16 14 + 3) / 4 + 12

/-- From issue to completion of a Swage or Crucible command; `n` counts the entries of the tensor that a FLUSH writes
(R202, R209, R215, R216). -/
def Cmd.gradientCycles (c : Cmd) (n : Nat) : Nat :=
  match c.opcode with
  | 0x60 =>
      let m := bitsOf c.w.w2 16 8 * bitsOf c.w.w2 24 8
      if m = 0 then 1 else 2 * ((m * (Fmt.get (bitsOf c.w.w2 12 4)).bits + 511) / 512 + 2)
  | 0x70 => (bitsOf c.w.w3 0 13 * bitsOf c.w.w3 16 13 + 7) / 8 + 2
  | 0x71 =>
      let rows := bitsOf c.w.w4 0 13
      let cols := bitsOf c.w.w4 16 13
      if rows * cols = 0 then 1
      else (if bitOf c.w.w2 16 then 0 else (rows + 13) / 14 + (cols + 13) / 14) + (rows * cols + 3) / 4 + 7
  | _ => (if bitOf c.w.w2 8 then (n + 7) / 8 else (n + 3) / 4) + 10

/-- From issue to completion of a Planisher command (R238). -/
def Cmd.planisherCycles (c : Cmd) : Nat :=
  let each := if c.flag 0 then 8 else 1
  match c.opcode with
  | 0x32 =>
      let rows := bitsOf c.w.w2 20 7
      if rows * bitsOf c.w.w3 12 7 = 0 then 1 else each * rows + 12
  | 0x33 => if bitsOf c.w.w2 11 7 = 0 then 1 else each * bitsOf c.w.w2 11 7 + 18
  | _ => if bitsOf c.w.w2 11 7 = 0 then 1 else bitsOf c.w.w2 11 7 * rowCycles (Fmt.get (bitsOf c.w.w2 4 4)) + 10

/-- From issue to completion of a Tinker command (R246). -/
def Cmd.tinkerCycles (c : Cmd) : Nat :=
  let n := c.count
  let size := bitsOf c.w.w3 0 12
  if c.opcode = 0x49 then (bitsOf c.w.w3 16 12 * size + 63) / 64 + 8
  else if n = 0 then 1
  else match c.opcode with
  | 0x40 => 8 * n + 6
  | 0x41 => (n + 15) / 16 + 6
  | 0x42 => ceilLog2 n * (ceilLog2 n + 1) / 2 * ((n + 7) / 8) + 10
  | 0x43 => (n + 7) / 8 + 80
  | 0x44 => (max ((n * bitsOf c.w.w3 0 6 + 7) / 8) (4 * n) + 63) / 64 + 6
  | 0x45 => (n + 31) / 32 + 8
  | 0x46 => (n + 63) / 64 + 40
  | 0x47 => 4
  | _ => (n * size + 63) / 64 + 8

/-- From issue to completion of a transform engine command (R356 to R358, R365). -/
def Cmd.transformCycles (c : Cmd) : Nat :=
  let log := bitsOf c.w.w2 0 4
  let base := (log + 1) * (2 ^ log / 16 + 24) + 16
  match c.opcode with
  | 0x80 => base
  | 0x81 => base + (bitsOf c.w.w3 16 12 + 7) / 8
  | 0x82 => (bitsOf c.w.w4 0 16 * (8 * bitsOf c.w.w3 16 8) + 7) / 8 + 40
  | 0x83 => if bitsOf c.w.w4 0 16 = 0 then 1 else
      (bitsOf c.w.w4 0 16 + 15) / 16 + deliveredAt 0 (hopsFrom (bitsOf c.w.w2 25 3) 8)
  | _ => if bitsOf c.w.w2 16 8 = 0 then 1 else 4 * bitsOf c.w.w2 16 8 + 8

/-- From issue to completion of a NET command with its largest counts (R424): a C-plane record fills a message of its own,
a datagram the largest frame. -/
def Cmd.netCycles (c : Cmd) : Nat :=
  let prbs := bitsOf c.w.w3 9 9
  let count := bitsOf c.w.w2 4 16
  match c.opcode with
  | 0xA0 => if prbs = 0 then 1 else (24 * prbs * (Fmt.get (bitsOf c.w.w3 18 4)).bits / 8 + 63) / 64 + 8 +
      deliveredAt 0 (hopsFrom 9 (bitsOf c.w.w4 25 3))
  | 0xA1 => if prbs = 0 then 1 else 40 + (8 * (49 * prbs + 34) + 124) / 125
  | 0xA2 => if count = 0 then 1 else 40 + (8 * (50 * count) + 124) / 125
  | 0xA3 => if count = 0 then 1 else 40 + (16 * (9216 * count) + 124) / 125
  | _ => bitsOf c.w.w5 0 16 + 8 + deliveredAt 0 (hopsFrom 9 (bitsOf c.w.w4 25 3))

/-- From issue to completion of a command of any engine but a Ladle and the Switu link: `p` as for `arrayCycles`, `n` as for
`gradientCycles`. -/
def Cmd.cycles (c : Cmd) (p n : Nat) : Nat :=
  match c.cls with
  | 1 => c.arrayCycles p
  | 2 => c.arrayCycles p
  | 3 => c.planisherCycles
  | 4 => c.tinkerCycles
  | 6 => c.gradientCycles n
  | 7 => c.gradientCycles n
  | 8 => c.transformCycles
  | 9 => bitsOf c.w.w6 0 20
  | 10 => c.netCycles
  | _ => 1

/-- Inserts a number in ascending order. -/
def insertNat (x : Nat) : List Nat → List Nat
  | [] => [x]
  | y :: ys => if x ≤ y then x :: y :: ys else y :: insertNat x ys

/-- The stripe slots of an HBM window (R287). -/
def HbmWindow.slots (w : HbmWindow) : List Nat := (List.range w.count).map fun i => w.start + i * (w.period + 1)

/-- The stripe slots of a stack's table that a requester can use in a direction, in order; those of elastic entries too
where `elastic` says so (R287, R288). -/
def stripeSlots (ws : List (Nat × HbmWindow)) (stack req : Nat) (write elastic : Bool) : List Nat :=
  ((ws.filter fun w => w.1 == stack && ((w.2.type == (if write then 2 else 1) && w.2.req == req) ||
    (elastic && w.2.type == 4 && (w.2.req == req || w.2.req == 0x3F)))).flatMap fun w => w.2.slots).foldr insertNat []

/-- Gives each stripe (its command's issue cycle and its number) the first stripe slot that is left for it, in order. -/
def placeStripes : List Nat → List (Nat × Nat) → List (Nat × Nat)
  | _, [] => []
  | slots, (t, n) :: rest =>
      match slots.dropWhile fun x => decide (4 * x < t) with
      | [] => placeStripes [] rest
      | x :: xs => (n, x) :: placeStripes xs rest

/-- The lines that the units of a block lie in, counted as the main path merges them (R271). -/
def blockLines (b : Block) : Nat :=
  if b.str0 = 2 ^ b.usz then b.cnt1 * b.cnt2 * b.cnt3 * ((b.cnt0 * 2 ^ b.usz + 63) / 64)
  else b.cnt0 * b.cnt1 * b.cnt2 * b.cnt3

/-- When a stream of data blocks that issues at `t` can complete at the earliest (R277): after its local accesses, one in
each cycle, or after the stripe slot of its last stripe. -/
def streamEnd (last : Option Nat) (bs : List Block) (write : Bool) (t : Nat) : Nat :=
  let data := bs.filter fun b => b.kind = 0
  let lines := ((data.filter fun b => b.space != 1).map blockLines).sum
  if (data.map Block.size).sum = 0 then t + 1
  else match last with
    | some x => max (t + lines + 3) (4 * x) + if write then 60 else 191
    | none => t + lines + 3 + if write then 2 else 4

/-- The cycle in which granule `i` of the Switu window table leaves (R490). -/
def Plan.granuleCycle (p : Plan) (i : Nat) : Option Nat := (p.granuleSlots.drop i).head?.map fun e => 64 * e.1 + e.2

end Sys2Proof.Machine
end

