-- ==== Sys2Proof/Machine/Tables.lean ====
section
/-! DEFINITION. The image loader's checks of a plan's tables: the chip spine, the crossbar, the HBM windows, elastic windows
and leave entries. -/

namespace Sys2Proof.Machine

open Sys2Proof

/-- Whether consecutive numbers of a list rise by at least `n`. -/
def spaced (n : Nat) : List Nat → Bool
  | a :: b :: xs => decide (a + n ≤ b) && spaced n (b :: xs)
  | _ => true

/-- Whether consecutive numbers of a list lie at most `n` apart. -/
def gapsWithin (n : Nat) : List Nat → Bool
  | a :: b :: xs => decide (b ≤ a + n) && gapsWithin n (b :: xs)
  | _ => true

/-! ## Ticks (R45, R61, R65) -/

/-- The values of TCK.SLOTLEN.LEN (R61). -/
def lenOk (len : Nat) : Bool := [200000, 400000, 800000, 1600000].contains len

/-- The values of SPN.FRAME.LEN (R45). -/
def frameLenOk (len frame : Nat) : Bool := decide (200 ≤ frame) && decide (frame ≤ 1000) && len % frame == 0

/-- The symbol offsets of a slot (R65). -/
def offsetsOk (len count : Nat) (offs : List Nat) : Bool :=
  (count == 12 || count == 14) && offs.head? == some 0 && spaced 1 offs && offs.all fun o => decide (o < len)

/-! ## The chip spine (R39 to R44) -/

/-- The entries of a table that are not idle. -/
def SpineTable.active (x : SpineTable) : List (Nat × SpineEntry) :=
  x.entries.filterMap fun (e : Nat × BitVec 16) =>
    let y := SpineEntry.ofWord e.2
    if y.type = .idle then none else some (e.1, y)

/-- The hops that the flits of a plan's tables occupy. -/
def Plan.hops (p : Plan) : List (Nat × Nat × Nat) :=
  p.spine.flatMap fun x => x.active.flatMap fun e => occupied x.stop x.dir e.1 e.2.hops

/-- The tables that the loader accepts (R42): no hop is taken twice in a cycle, none at a frame end or later, and no entry
has HOPS 0. -/
def Plan.spineOk (p : Plan) (frame : Nat) : Bool :=
  (p.spine.all fun x => x.active.all fun e => e.2.hops != 0) &&
    (p.hops.all fun h => decide (h.2.2 < frame)) && decide p.hops.Nodup

/-- Every stop has a control entry of reach 7 in each direction (R44). -/
def Plan.controlOk (p : Plan) : Bool :=
  (List.range 14).all fun stop => [0, 1].all fun dir =>
    p.spine.any fun x => x.stop == stop && x.dir == dir &&
      x.active.any fun e => e.2.type == .control && e.2.hops == 7

/-! ## The crossbar (R22, R264) -/

/-- One requester for each port and cycle, and 1,024 empty cycles on every bank port. -/
def Plan.portsOk (p : Plan) (len : Nat) : Bool :=
  xbarOk p.xbar && (p.xbar.all fun e => e.cycles.all fun c => decide (c < len)) &&
    (List.range 8).all fun r => (List.range 48).all fun b => decide (1024 ≤ p.emptyCycles r b len)

/-! ## HBM windows (R72, R287, R290, R291, R334) -/

/-- The entries of one stack. -/
def stackOf (ws : List (Nat × HbmWindow)) (stack : Nat) : List HbmWindow := (ws.filter fun w => w.1 == stack).map (·.2)

/-- The refreshes of a bank, in order. -/
def refreshes (ws : List HbmWindow) (bank : Nat) : List Nat :=
  ((ws.filter fun w => w.type == 3 && w.bank == bank).map (·.start)).foldr insertNat []

/-- The stripe slots of data in order, with the direction where the entry gives one: an elastic stripe takes the direction
of what is before it (DESIGN CHOICE, log entry 117). -/
def dataSlots (ws : List HbmWindow) : List (Nat × Option Bool) :=
  let xs := (ws.filter HbmWindow.isData).flatMap fun w => w.slots.map fun x => (x, if w.type = 4 then none else some (w.type == 2))
  xs.foldr (fun x ys => ys.takeWhile (fun y => decide (y.1 < x.1)) ++ x :: ys.dropWhile fun y => decide (y.1 < x.1)) []

/-- What each data stripe costs with the idle slots of a change of direction before it (R290 rule 4): 1 from read to write,
2 from write to read. -/
def turnCosts : Option Bool → List (Nat × Option Bool) → List (Nat × Nat)
  | _, [] => []
  | d, (x, e) :: xs =>
      let turn := match d, e with
        | some false, some true => 1
        | some true, some false => 2
        | _, _ => 0
      (x, 1 + turn) :: turnCosts (if e.isSome then e else d) xs

/-- Whether the costs in every 800 consecutive stripe slots stay within a limit; the table repeats after `n` slots. -/
def spanOk (n limit : Nat) (xs : List (Nat × Nat)) : Bool :=
  let twice := xs ++ xs.map fun x => (x.1 + n, x.2)
  xs.all fun x => decide ((((twice.filter fun y => decide (x.1 ≤ y.1) && decide (y.1 < x.1 + 800)).map (·.2)).sum) ≤ limit)

/-- Rules 1 to 4 of R290 for one stack; `n` is the number of stripe slots of a slot. -/
def stackOk (ws : List HbmWindow) (n : Nat) : Bool :=
  let claims := (ws.flatMap fun w => w.slots).foldr insertNat []
  let data := dataSlots ws
  let costs := turnCosts (data.getLast?.bind (·.2)) data
  let fresh := (ws.filter fun w => w.type == 3).map fun w => (w.start, 3)
  (ws.all fun w => (w.isData || (w.type == 3 && w.count == 3 && w.period == 0)) && decide (1 ≤ w.count)) &&
    spaced 1 claims && (claims.all fun x => decide (x + 8 < n)) &&
    ((List.range 16).all fun b =>
      let rs := refreshes ws b
      match rs.head? with
      | some x => gapsWithin 800 (rs ++ [x + n])
      | none => false) &&
    spanOk n 708 (data.map fun x => (x.1, 1)) && spanOk n 800 (costs ++ fresh)

/-- Rule 6 of R290, the limit of R25 (R334): a sprue carries at most one read stripe and one write stripe in 16 cycles,
over both stacks, those of Slicer sweeps and of ingest together. -/
def sprueOk (ws : List (Nat × HbmWindow)) (req : Nat) : Bool :=
  [false, true].all fun write =>
    spaced 4 ((stripeSlots ws 0 req write true ++ stripeSlots ws 1 req write true).foldr insertNat [])

/-- Rules 1 to 4 and 6 of R290 for one table. -/
def windowsOk (ws : List (Nat × HbmWindow)) (len : Nat) : Bool :=
  (ws.all fun w => decide (w.1 < 2)) && stackOk (stackOf ws 0) (len / 4) && stackOk (stackOf ws 1) (len / 4) &&
    (List.range 8).all fun r => sprueOk ws r

/-- Rule 5 of R290 for the stripes of static address that have their slots: 12 stripe slots between two of one bank, and none
in the 40 after its refresh begins. -/
def banksOk (ws : List (Nat × HbmWindow)) (n : Nat) (xs : List (Nat × Nat)) : Bool :=
  (List.range 2).all fun stack => (List.range 16).all fun bank =>
    let mine := ((xs.filter fun x => x.1 % 2 == stack && stripeBank x.1 == bank).map (·.2)).foldr insertNat []
    let rs := refreshes (stackOf ws stack) bank
    spaced 12 (mine ++ (mine.head?.map (· + n)).toList) &&
      mine.all fun x => rs.all fun f => !(decide (f ≤ x) && decide (x < f + 40)) && decide (f + 40 ≤ x + n)

/-- Rule 2 of R290 from the last refresh of a bank under one table to the first under the next (R291). -/
def refreshGapOk (us vs : List (Nat × HbmWindow)) (n : Nat) : Bool :=
  (List.range 2).all fun stack => (List.range 16).all fun b =>
    match (refreshes (stackOf us stack) b).getLast?, (refreshes (stackOf vs stack) b).head? with
    | some x, some y => decide (n + y ≤ x + 800)
    | _, _ => false

/-! ## Elastic windows and leave (R312, R313, R515 to R517) -/

/-- The regions that hold elastic window tables (R312). -/
def elsRegions : List Nat := crs ++ [10, 12]

/-- An engine's data-plane work: its region, its bit of ENGINES, and its cycles from issue to completion. -/
structure Work where
  region : Nat
  engines : Nat
  start : Nat
  stop : Nat
  deriving DecidableEq, Repr

/-- A window as R313 allows it: no data-plane work of its engines up to the end of its tail, long enough, early enough, and
apart in time from the windows that share an engine. -/
def windowOk (len npmax : Nat) (work : List Work) (all_ : List (Nat × ElsWindow)) (w : Nat × ElsWindow) : Bool :=
  (work.all fun x => x.region != w.1 || x.engines &&& w.2.engines == 0 ||
    !(decide (x.start ≤ w.2.stop + 255) && decide (w.2.start < x.stop))) &&
    decide (npmax + 64 ≤ w.2.stop - w.2.start) && decide (w.2.start ≤ w.2.stop) && decide (w.2.stop + 256 ≤ len - 32) &&
    ((all_.filter fun v => v.1 == w.1 && v.2 != w.2).all fun v => v.2.engines &&& w.2.engines == 0 ||
      decide (v.2.stop ≤ w.2.start) || decide (w.2.stop ≤ v.2.start)) &&
    (all_.filter fun v => v == w).length == 1

/-- The window tables of a plan (R312, R313). -/
def Plan.elasticOk (p : Plan) (len npmax : Nat) (work : List Work) : Bool :=
  (elsRegions.all fun r => decide ((p.windows.filter fun w => w.1 == r).length ≤ 256)) &&
    p.windows.all fun w => elsRegions.contains w.1 && windowOk len npmax work p.windows w

/-- Whether a leave entry is open at a cycle (R515, R516). -/
def leaveOpen (e : BitVec 64) (t : Nat) : Bool := decide (leaveStart e ≤ t) && decide (t < leaveEnd e)

/-- The sum of R516 at a cycle: the base ceilings and the amounts of the open entries. -/
def leaveSum (base : Nat) (es : List (BitVec 64)) (t : Nat) : Nat :=
  base + ((es.filter fun e => leaveOpen e t).map leaveAmount).sum

/-- The largest sum of a slot: it is met where an entry opens. -/
def leavePeak (base : Nat) (es : List (BitVec 64)) : Nat :=
  (es.map fun e => leaveSum base es (leaveStart e)).foldl max base

/-- The entries that take the place of the elastic budgets under EXACT (R516). -/
def Plan.exactLeave (p : Plan) : List (BitVec 64) := (p.leave.filter fun e => !leaveEB e) ++ p.eleave

/-- An elastic window lies under one budget entry of its region from START to END + 255 (R516). -/
def budgetOk (es : List (BitVec 64)) (w : Nat × ElsWindow) : Bool :=
  es.any fun e => leaveEB e && (domainsOf w.1).contains (leaveDomain e) &&
    decide (leaveStart e ≤ w.2.start) && decide (w.2.stop + 256 ≤ leaveEnd e)

/-- The leave tables of a plan (R515, R516): the form of the entries, the budgets of its windows, and the cap. -/
def Plan.leaveOk (p : Plan) (len base cap : Nat) : Bool :=
  ((p.leave ++ p.eleave).all fun e => !oddOnes 64 e.toNat && decide (leaveEnd e ≤ len - 32) && e.toNat / 2 ^ 60 % 8 == 0) &&
    p.windows.all (budgetOk p.leave) && decide (leavePeak base p.leave ≤ cap) && decide (leavePeak base p.exactLeave ≤ cap)

end Sys2Proof.Machine
end

