-- ==== Sys2Proof/Machine/Lists.lean ====
section
/-! DEFINITION. The image loader's checks of command lists: what each command may be where it stands, the tiles, rows and
Ladles that a list works on, its static block lists, and its planned completions (R72, R142 to R175, R194, R206, R208, R240,
R266 to R274, R299 to R302, R314, R474, R514). -/

namespace Sys2Proof.Machine

open Sys2Proof

/-- What the loader reads of an image: the decoded contents, the header's GRADE, MODE, IDENT, coverage level and MATCH
variant, the register values of the TYPE 4 sections, the scratchpad sections (region, address, bytes), and the management
program store. -/
structure Image where
  content : ImageContent := {}
  grade : Nat := 0
  mode : Nat := 0
  ident : Nat := 0
  cover : Nat := 0
  mvar : Nat := 0
  pairs : List (Nat × Word) := []
  pads : List (Nat × Nat × List Byte) := []
  store : List Byte := []
  deriving DecidableEq, Repr

/-- The value that the image gives a register: of a record, or of a register value section (R14). -/
def Image.reg (m : Image) (k : Nat) : Option Word :=
  ((m.content.regs.reverse ++ m.pairs.reverse).find? fun e => e.1 == k).map (·.2)

/-- A field of a register value, 0 without one. -/
def Image.fld (m : Image) (k lo n : Nat) : Nat := bitsOf ((m.reg k).getD 0) lo n

/-- TCK.SLOTLEN.LEN. -/
def Image.slotLen (m : Image) : Nat := m.fld Reg.TCK_SLOTLEN 0 21

/-- The bytes that the image puts into scratchpad at an address, where one section holds them all: what is static (R274). -/
def Image.padBytes (m : Image) (r a n : Nat) : Option (List Byte) :=
  (m.pads.find? fun p => p.1 == r && decide (p.2.1 ≤ a) && decide (a + n ≤ p.2.1 + p.2.2.length)).map fun p =>
    (p.2.2.drop (a - p.2.1)).take n

/-- A static block list (R270). -/
def Image.blocks (m : Image) (r a n : Nat) : Option (List Block) :=
  (m.padBytes r a (32 * n)).map fun bs => (List.range n).map fun i => Block.ofBytes ((bs.drop (32 * i)).take 32)

/-- The static lists of an ARM: its blocks and a COPY's destination blocks. -/
def Image.armBlocks (m : Image) (c : Cmd) : Option (List Block × List Block) :=
  match m.blocks c.region (32 * bitsOf c.w.w2 0 20) (bitsOf c.w.w2 20 8) with
  | none => none
  | some bs =>
      if bitsOf c.w.w4 16 6 = 0x3F then
        (m.blocks c.region (32 * bitsOf c.w.w6 0 20) (bitsOf c.w.w6 20 8)).map fun ds => (bs, ds)
      else some (bs, [])

/-! ## One command (R95, R146 to R151, R299, R300, R474, R514) -/

/-- Whether the loader accepts a command by the rules that read it alone; an opcode that its class does not list is
refused. -/
def Cmd.known (c : Cmd) : Bool :=
  match c.opcode with
  | 0x10 => c.wfLoad | 0x11 => c.wfStream | 0x12 => c.wfLoadstream | 0x13 => c.wfBias | 0x14 => c.wfDrain
  | 0x20 => c.wfVload | 0x21 => c.wfSweep | 0x22 => c.wfSout
  | 0x30 => c.wfTload | 0x31 => c.wfTstore | 0x32 => c.wfEwise | 0x33 => c.wfReduce
  | 0x40 => c.wfDesc | 0x41 => c.wfLookup | 0x42 => c.wfSort | 0x43 => c.wfSelect | 0x44 => c.wfPack
  | 0x45 => c.wfCrc | 0x46 => c.wfScramble | 0x47 => c.wfReenc | 0x48 => c.wfBatch | 0x49 => c.wfFill
  | 0x50 => c.wfArm
  | 0x60 => c.wfTranspose
  | 0x70 => c.wfOpen | 0x71 => c.wfAccum | 0x72 => c.wfFlush
  | 0x80 => c.wfFft | 0x81 => c.wfIfft | 0x82 => c.wfFir | 0x83 => c.wfFetch | 0x84 => c.wfSteer
  | 0x90 => c.wfLdec | 0x91 => c.wfLenc | 0x92 => c.wfPdec | 0x93 => c.wfPenc | 0x94 => c.wfTbseg
  | 0x95 => c.wfTbchk
  | 0xA0 => c.wfUprx | 0xA1 => c.wfUptx | 0xA2 => c.wfCptx | 0xA3 => c.wfL2tx | 0xA4 => c.wfL2rx
  | 0xB0 => c.wfSend | 0xB1 => c.wfRecv
  | _ => false

/-- An array command: one that takes the array slot (R146). -/
def Cmd.isArray (c : Cmd) : Bool := c.cls == 1 && [0x10, 0x11, 0x12, 0x13].contains c.opcode

/-- LEAVE of a heavy command, and 0 for a light one (R514). -/
def Cmd.leave (c : Cmd) : Nat :=
  if c.cls = 9 then bitsOf c.w.w2 4 12
  else if c.cls = 5 || [0x11, 0x12, 0x21].contains c.opcode then bitsOf c.w.w5 0 12 else 0

/-- The rules of one command that ask more than its words: the coverage that the image promises (R151, R474), and LEAVE of
an ARM, which is heavy when its list holds an HBM block (R514). -/
def Image.commandOk (m : Image) (c : Cmd) : Bool :=
  c.known && (!((c.cls == 1 || c.cls == 2) && (m.content.chkReq || m.cover == 3)) || c.flag 4) &&
    (!(c.cls == 5 && decide (2 ≤ m.cover)) || (bitOf c.w.w3 30 && bitOf c.w.w3 31)) &&
    (c.cls != 5 || match m.armBlocks c with
      | some (bs, ds) => ((bs ++ ds).any fun b => b.space == 1) == decide (0 < c.leave)
      | none => true)

/-! ## Queues (R301, R302) -/

/-- Whether two commands stand in one queue. -/
def Cmd.sameQueue (a b : Cmd) : Bool := a.cls == b.cls && a.region == b.region && a.unit == b.unit

/-- Whether the issue cycles of each engine's data-plane list rise strictly. -/
def issuesRise : List Cmd → Bool
  | [] => true
  | c :: cs => ((cs.filter c.sameQueue).all fun d => decide (c.issue < d.issue)) && issuesRise cs

/-- The data-plane commands of a plan as R301 allows them. -/
def Plan.issuesOk (p : Plan) (len : Nat) : Bool :=
  issuesRise p.lists && p.lists.all fun c => !c.elastic && decide (c.issue < len)

/-- Bytes of a region's plan store (R302). -/
def storeSize (r : Nat) : Nat := if r < 8 then 3 * 2 ^ 20 else 2 ^ 20

/-- Whether the lists of every region fit its plan store (R302): 32 bytes a command, 2 a dependency entry. -/
def ImageContent.storesOk (c : ImageContent) : Bool :=
  let all_ := (c.variants.flatMap fun v => v.plans.flatMap (·.lists)) ++ c.ctxs.flatMap fun e => e.2.list
  (List.range 13).all fun r =>
    decide (((all_.filter fun x => x.region == r).map fun x => 32 + 2 * x.deps.length).sum ≤ storeSize r)

/-- A context's list (R189, R299, R318, R320): elastic commands of its home and its engines, numbered in order. -/
def CtxImage.listOk (x : CtxImage) (k : Nat) : Bool :=
  (List.range x.list.length).all fun i =>
    let c := x.list.getD i {}
    c.elastic && c.ctx == k % 64 && c.region == x.home && c.ord == i % 256

/-! ## Tiles and rows (R142, R143, R148, R150, R151, R157, R169, R175, R240) -/

/-- What the loader follows of an Anvil through a list: the loaded tile's format, digits, K rows and packing, and for each
accumulator row its class and the KBLK of the last wide-class command (R157). -/
structure Sim where
  tile : Option (Nat × Nat × Nat × Bool) := none
  rows : List (Nat × Nat × Nat) := []
  ok : Bool := true
  deriving DecidableEq, Repr

/-- The accumulator rows that a command touches (R155). -/
def Cmd.accRows (c : Cmd) : List Nat :=
  (List.range (min 512 (bitsOf c.w.w3 0 16))).map fun j => (bitsOf c.w.w3 16 9 + j) % 512

/-- The tile that a load leaves (R141, R145). -/
def Cmd.loadsTile (c : Cmd) : Nat × Nat × Nat × Bool :=
  (bitsOf c.w.w2 8 4, (Fmt.get (bitsOf c.w.w2 8 4)).digits + (if c.flag 3 then 1 else 0), bitsOf c.w.w2 16 8, c.flag 1)

/-- Whether a wide-class stream's tile may hold fewer than 128 K rows (R157): only as the highest block of its reduction,
so no later command of the list accumulates into its rows before they are drained. -/
def highestBlock (c : Cmd) : List Cmd → Bool
  | [] => true
  | d :: ds =>
      let meet := c.accRows.any fun r => d.accRows.contains r
      if meet && (d.opcode == 0x14 || d.opcode == 0x13 || !d.flag 0) then true
      else if meet && (d.opcode == 0x11 || d.opcode == 0x12) then false
      else highestBlock c ds

/-- The KBLK rule of R157 on each row that a wide-class command writes. -/
def Sim.kblkOk (x : Sim) (c : Cmd) : Bool :=
  let k := bitsOf c.w.w3 25 7
  (!c.flag 0 && k == 0) || c.accRows.all fun r =>
    match x.rows.find? fun e => e.1 == r with
    | some (_, _, b) => c.flag 0 && k == (b + 1) % 128
    | none => false

/-- A streaming command against the tile that it finds (R142, R143, R148, R157). -/
def Sim.stream (x : Sim) (c : Cmd) (rest : List Cmd) : Sim :=
  match x.tile with
  | none => x
  | some (sf, d, k, _) =>
      let tf := bitsOf c.w.w2 12 4
      let wide := prodClass sf == 2
      let ok := pairOk sf d tf && (!wide || (x.kblkOk c && (decide (128 ≤ k) || highestBlock c rest)))
      let keep := x.rows.filter fun e => !c.accRows.contains e.1
      { x with
        ok := x.ok && ok
        rows := keep ++ c.accRows.map fun r => (r, prodClass sf, if wide then bitsOf c.w.w3 25 7 else 0) }

/-- One command of an Anvil's list. -/
def Sim.step (x : Sim) (c : Cmd) (rest : List Cmd) : Sim :=
  match c.opcode with
  | 0x10 => { x with tile := some c.loadsTile }
  | 0x11 => x.stream c rest
  | 0x12 => ({ x with tile := some c.loadsTile }).stream c rest
  | 0x13 =>
      let keep := x.rows.filter fun e => !c.accRows.contains e.1
      { x with rows := keep ++ c.accRows.map fun r => (r, bitsOf c.w.w2 4 2, 127) }
  | _ => x

/-- A whole list, after the tile that it finds. -/
def Sim.run (x : Sim) : List Cmd → Sim
  | [] => x
  | c :: cs => (x.step c cs).run cs

/-- The class of an array command's rows: of the tile that the list has loaded by then, or of its own fields. -/
def classesOf (tile : Option Nat) : List Cmd → List (Cmd × Option Nat)
  | [] => []
  | c :: cs =>
      let t := if c.opcode = 0x10 || c.opcode = 0x12 then some (prodClass (bitsOf c.w.w2 8 4)) else tile
      (c, if c.opcode = 0x13 then some (bitsOf c.w.w2 4 2) else if c.opcode = 0x14 then none else t) :: classesOf t cs

/-- CLS of each BIAS (R150): the class of the next array command that writes its rows. Where none does, the DRAIN that reads
them has no class of its own, and CLS stands. -/
def biasesOk : List (Cmd × Option Nat) → Bool
  | [] => true
  | (c, k) :: cs =>
      (c.opcode != 0x13 ||
        match (cs.filter fun d => d.1.isArray && d.1.opcode != 0x10).find? fun d => c.accRows.any fun r => d.1.accRows.contains r with
        | some (_, some q) => k == some q
        | _ => true) && biasesOk cs

/-- The commands of one Anvil, or of one region's Slicer. -/
def ofEngine (cs : List Cmd) (cls region unit : Nat) : List Cmd :=
  cs.filter fun c => c.cls == cls && c.region == region && c.unit == unit

/-- The tile that a plan leaves loaded on an Anvil (R148). -/
def Plan.leavesTile (p : Plan) (r a : Nat) : Option (Nat × Nat × Nat × Bool) :=
  let cs := ofEngine p.lists 1 r a
  let t := (Sim.run {} cs).tile
  let last := ((cs.filter fun c => c.opcode == 0x10 || c.opcode == 0x12).getLast?.map Cmd.issue).getD 0
  if p.windows.any fun w => w.1 == r && w.2.engines.testBit a && decide (last < w.2.stop) then none else t

/-- The streams before the first load of a list, against every tile that may stand loaded (R148). -/
def firstStreamsOk (cs : List Cmd) (tiles : List (Nat × Nat × Nat × Bool)) : Bool :=
  ((cs.filter Cmd.isArray).takeWhile fun c => c.opcode != 0x10 && c.opcode != 0x12).all fun c =>
    c.opcode != 0x11 || tiles.all fun t => pairOk t.1 t.2.1 (bitsOf c.w.w2 12 4)

/-- The first array command after an elastic window that can use the Anvil loads (R169). -/
def afterWindowsOk (p : Plan) (r a : Nat) (cs : List Cmd) : Bool :=
  p.windows.all fun w => w.1 != r || !w.2.engines.testBit a ||
    match (cs.filter Cmd.isArray).find? fun c => decide (w.2.stop ≤ c.issue) with
    | some c => c.opcode == 0x10 || c.opcode == 0x12
    | none => true

/-- Whether the rows and tile registers that a command touches belong to its plane (R151, R169, R240). -/
def Image.planeOk (m : Image) (c : Cmd) : Bool :=
  if c.cls = 1 then
    let k := Reg.ANV_EROWS c.region c.unit
    let mine (r : Nat) : Bool := decide ((r + 512 - m.fld k 0 9) % 512 < m.fld k 16 10)
    c.opcode == 0x10 || c.accRows.all fun r => mine r == c.elastic
  else if c.cls = 3 then
    let k := Reg.PLN_CTL c.region c.unit
    let mine (t : Nat) : Bool := decide (m.fld k 0 3 ≤ t) && decide (t < m.fld k 0 3 + m.fld k 4 4)
    let tiles := match c.opcode with
      | 0x32 => bitsOf c.w.w2 6 3 :: c.ewiseReads
      | 0x33 => bitsOf c.w.w2 7 3 :: c.reduceReads
      | _ => [bitsOf c.w.w2 8 3]
    tiles.all fun t => mine t == c.elastic
  else true

/-- The vectors that a SWEEP meets (R175): the class of the last VLOAD before it in the list. -/
def sweepsOk (fmt : Option Nat) : List Cmd → Bool
  | [] => true
  | c :: cs =>
      if c.opcode = 0x20 then sweepsOk (some (bitsOf c.w.w2 4 4)) cs
      else (c.opcode != 0x21 || match fmt with
        | some f => prodClass f == prodClass (bitsOf c.w.w3 0 4)
        | none => true) && sweepsOk fmt cs

/-- One list's Anvils and Slicer; `tiles` gives the tiles that may stand loaded as it begins. -/
def arrayListOk (cs : List Cmd) (tiles : Nat → Nat → List (Nat × Nat × Nat × Bool)) : Bool :=
  crs.all fun r => sweepsOk none (ofEngine cs 2 r 0) && (List.range 4).all fun a =>
    let xs := ofEngine cs 1 r a
    (Sim.run {} xs).ok && biasesOk (classesOf none xs) && firstStreamsOk xs (tiles r a)

/-! ## Gradient work (R194, R206, R208) -/

/-- The Anvil commands of gradient jobs (R194): E4M3 or INT8 against E5M2, CHK set, CPLX clear. -/
def Cmd.gradientOk (c : Cmd) : Bool :=
  !(c.cls == 1 && c.elastic && c.kind == 0) || (c.flag 4 && !c.flag 1 &&
    (!(c.opcode == 0x10 || c.opcode == 0x12) || [1, 5].contains (bitsOf c.w.w2 8 4)) &&
    (!(c.opcode == 0x11 || c.opcode == 0x12) || bitsOf c.w.w2 12 4 == 6))

/-- The OPENs of a region's Crucible. -/
def opensOf (cs : List Cmd) (r : Nat) : List Cmd := cs.filter fun c => c.cls == 7 && c.region == r && c.opcode == 0x70

/-- Entry ranges of different tensor numbers do not overlap (R206). -/
def tensorsOk (cs : List Cmd) : Bool :=
  crs.all fun r => (opensOf cs r).all fun c => (opensOf cs r).all fun d =>
    bitsOf c.w.w2 0 4 == bitsOf d.w.w2 0 4 ||
      apart (bitsOf c.w.w2 4 18) (bitsOf c.w.w3 0 13 * bitsOf c.w.w3 16 13)
        (bitsOf d.w.w2 4 18) (bitsOf d.w.w3 0 13 * bitsOf d.w.w3 16 13)

/-- ACCUMs stay within their tensor as its OPENs state it (R208). -/
def accumsOk (cs : List Cmd) : Bool :=
  (cs.filter fun c => c.cls == 7 && c.opcode == 0x71).all fun c =>
    ((opensOf cs c.region).filter fun d => bitsOf d.w.w2 0 4 == bitsOf c.w.w2 0 4).all fun d =>
      decide (bitsOf c.w.w3 0 13 + bitsOf c.w.w4 0 13 ≤ bitsOf d.w.w3 0 13) &&
        decide (bitsOf c.w.w3 16 13 + bitsOf c.w.w4 16 13 ≤ bitsOf d.w.w3 16 13)

/-- Entries of the tensor that a FLUSH writes, by its OPENs. -/
def flushEntries (cs : List Cmd) (c : Cmd) : Nat :=
  (((opensOf cs c.region).filter fun d => bitsOf d.w.w2 0 4 == bitsOf c.w.w2 0 4).map fun d =>
    bitsOf d.w.w3 0 13 * bitsOf d.w.w3 16 13).foldl max 0

/-! ## Ladles (R266, R269, R271 to R274, R289) -/

/-- The Ladles that a command names, each with the client code and direction that its stream must have (R269). -/
def Cmd.ladles (c : Cmd) : List (Nat × Nat × Bool) :=
  let a := 4 * c.unit
  let p := 0x10 + 2 * c.unit
  let t := 0x14 + 2 * c.unit
  let i := bitsOf c.w.w2 0 4
  let o := bitsOf c.w.w2 4 4
  match c.opcode with
  | 0x10 => [(i, a, false)]
  | 0x11 => [(o, a + 1, false)]
  | 0x12 => [(i, a, false), (o, a + 1, false)]
  | 0x13 => [(i, a + 2, false)]
  | 0x14 => [(i, a + 3, true)]
  | 0x20 => [(i, 0x22, false)]
  | 0x22 => [(i, 0x23, true)]
  | 0x30 => [(i, p, false)]
  | 0x31 => [(i, p + 1, true)]
  | 0x40 | 0x41 | 0x42 | 0x43 | 0x44 | 0x45 | 0x46 | 0x49 => [(i, t, false), (o, t + 1, true)]
  | 0x48 => [(i, t, false)]
  | 0x60 => [(i, 0x1C, false), (o, 0x1D, true)]
  | 0x71 => (o, 0x1E, false) :: if bitOf c.w.w2 16 then [] else
      [(bitsOf c.w.w2 8 4, 0x1F, false), (bitsOf c.w.w2 12 4, 0x20, false)]
  | 0x72 => [(o, 0x21, true)]
  | _ => []

/-- Whether one of the two last ARMs of the named Ladle, the active stream and its shadow, serves a command (R269, R281). -/
def ladlesOk : List Cmd → List Cmd → Bool
  | _, [] => true
  | before, c :: cs =>
      (c.ladles.all fun l =>
        let arms := (before.filter fun d => d.cls == 5 && d.region == c.region && d.unit == l.1).take 2
        arms.any fun d => bitsOf d.w.w4 16 6 == l.2.1 && bitOf d.w.w3 9 == l.2.2) && ladlesOk (c :: before) cs

/-- A descriptor by itself (R271, R273, R274): whole units, HBM in whole stripes, inside its space. -/
def Block.ok (b : Block) : Bool :=
  let u : Int := 2 ^ b.usz
  let strides := [b.str0, b.str1, b.str2, b.str3]
  let counts := [b.cnt0, b.cnt1, b.cnt2, b.cnt3]
  let reach (pick : Int → Int) : Int :=
    b.addr + (((strides.zip counts).map fun e => pick (e.1 * ((e.2 : Int) - 1))).sum)
  let size : Int := if b.space = 1 then 0xC00000000 else 0x1800000
  decide (b.usz ≤ 6) && b.space != 3 && (b.addr : Int) % u == 0 && (strides.all fun s => s % u == 0) &&
    (b.space != 1 || (b.addr % 2048 == 0 && b.usz == 6 && b.str0 == 64 && b.cnt0 % 32 == 0 &&
      ([b.str1, b.str2, b.str3].all fun s => s % 2048 == 0))) &&
    (b.size == 0 || (decide (0 ≤ reach (min 0)) && decide (reach (max 0) + u ≤ size)))

/-- Clients whose streams have flag words and scale blocks beside them (R120, R132): those that convert. -/
def sideClient (k : Nat) : Bool := !([2, 6, 10, 14].contains k) && !(decide (0x14 ≤ k) && decide (k ≤ 0x1B))

/-- The side streams of a list (R272): exponents with a block format and only with one, in room enough; flag words and scale
blocks only where the client has them. -/
def sidesOk (c : Cmd) (bs : List Block) : Bool :=
  let f := Fmt.get (bitsOf c.w.w3 0 4)
  let of_ (k : Nat) : List Block := bs.filter fun b => b.kind == k
  let exps := ((of_ 0).map fun b => b.runs * b.runBlocks f.bits).sum
  (if f.isBfp then decide (exps ≤ ((of_ 1).map Block.size).sum) else (of_ 1).isEmpty) &&
    (sideClient (bitsOf c.w.w4 16 6) || ((of_ 2).isEmpty && (of_ 3).isEmpty))

/-- A static list by the rules of R271 to R274. -/
def Image.armOk (m : Image) (c : Cmd) : Bool :=
  c.cls != 5 || match m.armBlocks c with
    | some (bs, ds) => (bs ++ ds).all Block.ok && sidesOk c bs && (ds.isEmpty || sidesOk c ds)
    | none => true

/-- The stripes that a data-plane command of a region moves, with its issue cycle: an ARM's HBM blocks, a SWEEP's weights
(R289). -/
def Image.stripes (m : Image) (c : Cmd) (write : Bool) : List (Nat × Nat) :=
  let ns := if c.cls = 5 then match m.armBlocks c with
      | some (bs, ds) =>
          let copy := bitsOf c.w.w4 16 6 == 0x3F
          if write then (if copy then stripesOf ds else if bitOf c.w.w3 9 then stripesOf bs else [])
          else if bitOf c.w.w3 9 && !copy then [] else stripesOf bs
      | none => []
    else if c.cls = 2 && c.opcode = 0x21 && !write then
      let bytes := (bitsOf c.w.w2 0 16 * bitsOf c.w.w2 16 14 * (Fmt.get (bitsOf c.w.w3 0 4)).bits + 7) / 8
      (List.range ((bytes + 2047) / 2048)).map fun j => bitsOf c.w.w4 0 30 * 64 / 2048 + j
    else []
  ns.map fun n => (c.issue, n)

/-- Every stripe of static address with its stripe slot (R287, R290). -/
def Image.placed (m : Image) (p : Plan) : List (Nat × Nat) :=
  crs.flatMap fun r => [0, 1].flatMap fun stack => [false, true].flatMap fun write =>
    placeStripes (stripeSlots p.hbm stack r write false)
      ((p.lists.filter fun c => c.region == r).flatMap fun c => (m.stripes c write).filter fun x => x.2 % 2 == stack)

/-! ## Completions (R72, R277, R314, R516) -/

/-- The planned completion of a data-plane command (R72). -/
def Image.endOf (m : Image) (p : Plan) (placed : List (Nat × Nat)) (c : Cmd) : Nat :=
  if c.cls = 5 then
    match m.armBlocks c with
    | some (bs, ds) =>
        let last (write : Bool) : Option Nat :=
          ((placed.filter fun x => (m.stripes c write).any fun y => y.2 == x.1).map (·.2)).foldr
            (fun x a => some (max x (a.getD 0))) none
        let copy := bitsOf c.w.w4 16 6 == 0x3F
        max (streamEnd (last (bitOf c.w.w3 9 && !copy)) bs (bitOf c.w.w3 9 && !copy) c.issue)
          (if copy then streamEnd (last true) ds true (c.issue + 4) else 0)
    | none => c.issue + 1
  else if c.cls = 11 then
    if c.opcode = 0xB0 then
      let before := ((p.lists.takeWhile fun d => d != c).filter fun d => d.cls == 11 && d.opcode == 0xB0).map fun d => bitsOf d.w.w4 0 16
      let n := bitsOf c.w.w4 0 16
      if n = 0 then c.issue + 1 else ((p.granuleCycle (before.sum + n - 1)).getD c.issue) + 1
    else if bitsOf c.w.w4 0 16 = 0 then c.issue + 1
    else c.issue + bitsOf c.w.w4 0 16 + 8 + 2 * hopsTo (if bitOf c.w.w2 28 then 11 else bitsOf c.w.w2 25 3) + 3
  else
    let xs := ofEngine (p.lists.takeWhile fun d => d != c) c.cls c.region c.unit
    let period := match (Sim.run {} xs).tile with
      | some (_, d, _, cplx) => if cplx then 2 * d else d
      | none => 1
    c.issue + c.cycles period (flushEntries p.lists c)

/-- An engine's bit of ENGINES (R312). -/
def Cmd.engines (c : Cmd) : Nat :=
  match c.cls with
  | 1 => 2 ^ c.unit
  | 2 => 2 ^ 18
  | 3 => 2 ^ (4 + c.unit)
  | 4 => 2 ^ (6 + c.unit)
  | 5 => 2 ^ (10 + c.unit)
  | 6 => 2 ^ 16
  | 7 => 2 ^ 17
  | 9 => 2 ^ c.unit
  | _ => 1

/-- The data-plane work of a plan (R313). -/
def Image.work (m : Image) (p : Plan) : List Work :=
  let placed := m.placed p
  p.lists.map fun c => ⟨c.region, c.engines, c.issue, m.endOf p placed c⟩

/-- Nothing planned completes in the last 32 cycles of the slot (R72): commands, HBM windows and Switu windows. What a spine
entry would deliver there is idle (R39). -/
def Image.lastCyclesOk (m : Image) (p : Plan) : Bool :=
  let end_ := m.slotLen - 32
  ((m.work p).all fun w => decide (w.stop ≤ end_)) &&
    (p.hbm ++ p.hbmExact).all (fun w => w.2.slots.all fun x =>
      decide (4 * x + (if w.2.type = 1 then 191 else if w.2.type = 2 then 60 else 4) ≤ end_)) &&
    p.granuleSlots.all fun e => decide (64 * e.1 + e.2 + 1 ≤ end_)

/-- The commands that ELS.NPMAX.CC bounds (R146, R207, R226, R246, R314, R400, R489). -/
def Cmd.nonPreemptible (c : Cmd) : Bool := [1, 3, 4, 7, 9, 11].contains c.cls

/-- The durations of a context's non-pre-emptible commands (R314); a SEND takes the next granule slots, of which a
superframe holds 63. -/
def durationsOk (cs : List Cmd) (npmax : Nat) : Bool :=
  (List.range cs.length).all fun i =>
    let c := cs.getD i {}
    let xs := ofEngine (cs.take i) c.cls c.region c.unit
    let period := match (Sim.run {} xs).tile with
      | some (_, d, _, cplx) => if cplx then 2 * d else d
      | none => 1
    let n := bitsOf c.w.w4 0 16
    let dur := if c.cls = 11 then (if c.opcode = 0xB0 then (n / 63 + 2) * 64 else n + 8 + 2 * 7 + 3)
      else c.cycles period (flushEntries cs c)
    !c.nonPreemptible || decide (dur ≤ npmax)

/-- The leave entries of a plan cover its heavy commands (R514, R516). -/
def Image.coveredOk (m : Image) (p : Plan) : Bool :=
  let placed := m.placed p
  p.lists.all fun c => c.leave == 0 || match p.leave[c.leave - 1]? with
    | some e => decide (leaveStart e ≤ c.issue) && decide (m.endOf p placed c ≤ leaveEnd e) &&
        (domainsOf c.region).contains (leaveDomain e) && !leaveEB e
    | none => false

/-- The budget of an elastic window holds the largest AMOUNT of a command that can run on its engines (R517). -/
def ImageContent.budgetsOk (c : ImageContent) (p : Plan) : Bool :=
  p.windows.all fun w =>
    let budget := ((p.leave.filter fun e => leaveEB e && (domainsOf w.1).contains (leaveDomain e) &&
      decide (leaveStart e ≤ w.2.start) && decide (w.2.stop + 256 ≤ leaveEnd e)).map leaveAmount).sum
    c.ctxs.all fun x => x.2.home != w.1 || x.2.list.all fun d => d.leave == 0 || w.2.engines &&& d.engines == 0 ||
      decide (leaveAmount (c.amounts.getD (d.leave - 1) 0) ≤ budget)

end Sys2Proof.Machine
end

