-- ==== Sys2Proof/Machine/Net.lean ====
section
/-! DEFINITION. NET (R417 to R433): the Ethernet ports, the U-plane and C-plane commands, the reception
windows, and the L2 message interface. -/

namespace Sys2Proof.Machine

open Sys2Proof

/-- The location of a port. -/
def portUnit (p : Nat) : Unit_ := if p < 8 then ⟨9, 0x18, p⟩ else ⟨9, 0x19, 0⟩

/-- An event at NET, where NET is powered and not fenced. -/
def State.inNet (s : State) (f : State → State) : State := if s.served 9 then f s else s

/-- The state with a non-planned frame queued at a port (R419). -/
def State.enqueue (s : State) (p : Nat) (x : Sent) : State :=
  { s with net := { s.net with
    egress := SMap.write [] s.net.egress p (SMap.read [] s.net.egress p ++ [x]) } }

/-- The state with what a port has last sent; the shadow of a pair sends nothing (R494). -/
def State.putSent (s : State) (p : Nat) (xs : List Sent) : State :=
  if s.isShadow && xs.any (fun x => match x with
    | .ptp _ _ _ => false
    | .esmc _ _ => false
    | _ => true) then s
  else { s with net := { s.net with sent := SMap.write [] s.net.sent p xs } }

/-- The fronthaul ports in NET.PTPFWD.MASK. -/
def State.ptpPorts (s : State) : List Nat := (List.range 8).filter fun p => s.bit Reg.NET_PTPFWD p

/-! ## Frames (R417 to R419, R428, R441, R442) -/

/-- Bytes of the packet buffer in use (log entry 30). -/
def State.netUsed (s : State) : Nat :=
  (s.net.sections.map fun x => 49 * x.sec.prbs.length).sum +
    (s.net.msgs.map fun m => 8 + m.body.length).sum

/-- Whether a port takes a frame by its destination and EtherType (R417, R418). -/
def State.takesFrame (s : State) (p : Nat) (f : EthFrame) : Bool :=
  let n := s.plan.net
  let l2 := p = 8
  if f.dst = n.macs.getD p 0 then
    if l2 then [0x0800, 0x86DD, 0x0806].contains f.etype else f.etype == 0xAEFE
  else if f.dst = 0xFFFFFFFFFFFF then l2 && f.etype == 0x0806
  else if f.dst = n.ptpAddr then f.etype == 0x88F7
  else if f.dst = 0x0180C2000002 then f.etype == 0x8809 && f.slowSub == 0x0A
  else l2 && f.etype == 0x86DD && f.neighbour &&
    n.ipv6.any fun a => f.dst = 0x3333FF000000 + a % 2 ^ 24

/-- A received frame (R418, R428, R432). -/
def State.ethernetFrame (s : State) (p : Nat) (f : EthFrame) : State :=
  s.inNet fun s =>
    if s.isShadow && (f.udp.isSome || f.etype == 0xAEFE) then s
    else if !f.fcs || s.lostLock (15 + p) || decide (f.len < 64) || decide (9216 < f.len) || decide (1 < f.tags) || !s.takesFrame p f then
      s.bump (winKey p Reg.NET_PCNT) 0 16 1
    else if 2 ^ 24 < s.netUsed + f.len then s.bump (winKey p Reg.NET_PCNT) 16 16 1
    else match f.udp with
      | none => s
      | some (good, seq) =>
          if p != 8 then s
          else if !good then s.bump Reg.NET_L2CNT0 0 8 1
          else
            let gap := match s.net.peerSeq with
              | some e => e != seq
              | none => false
            let s := s.bumpIf gap Reg.NET_L2CNT1 16 16 1
            { s with net := { s.net with peerSeq := some ((seq + 1) % 2 ^ 32) } }

/-- An ARP request for the device's own address (R428). -/
def State.arpRequest (s : State) (mac ip target : Nat) : State :=
  s.inNet fun s => if target = s.plan.net.ipv4 then s.enqueue 8 (.arpReply mac ip target) else s

/-- A neighbour solicitation for one of the device's own addresses (R428). -/
def State.neighbourSolicitation (s : State) (mac ip target : Nat) : State :=
  s.inNet fun s =>
    if s.plan.net.ipv6.contains target then s.enqueue 8 (.neighbour mac ip target) else s

/-- A port loses its link (R448). -/
def State.ethernetLinkDown (s : State) (p : Nat) : State :=
  s.inNet fun s => s.setBit (winKey p Reg.NET_PSTAT) 0 false

/-- An ESMC PDU on the L2 port (R442). -/
def State.esmcPdu (s : State) (p ql : Nat) : State :=
  s.inNet fun s => if p = 8 then s.setFld Reg.NET_SYNCE 8 4 ql else s

/-- No ESMC PDU for 5 s (R442). -/
def State.esmcTimeout (s : State) : State := s.inNet fun s => s.setFld Reg.NET_SYNCE 8 4 0xF

/-- ESMC PDUs with QLTX on the fronthaul ports in the mask (R442). -/
def State.sendEsmc (s : State) (event : Bool) : State :=
  s.inNet fun s =>
    s.ptpPorts.foldl (fun s p => s.enqueue p (.esmc event (s.fld Reg.NET_SYNCE 12 4))) s

/-! ## Reception windows (R425, R426) -/

/-- The number of a slot within 1,024 frames, `d` slots from the present one (R64). -/
def State.airIndex (s : State) (d : Int) : Nat :=
  let n : Int := 10 * s.spe
  ((s.fld Reg.TCK_FRAME 16 10 * n + s.fld Reg.TCK_FRAME 0 7 + d) % (1024 * n)).toNat

/-- The air slot that a section's header names, as far as its 8-bit frameId tells (R425). -/
def State.sectionIndex (s : State) (x : USection) : Nat :=
  (x.frame % 256 * 10 + x.subframe) * s.spe + x.slotId

/-- Whether a section is of the air slot `d` slots from the present one. -/
def State.isAirslot (s : State) (x : USection) (d : Int) : Bool :=
  s.sectionIndex x == s.airIndex d % (256 * (10 * s.spe))

/-- The slot plan of the next slot (R307). -/
def State.nextPlan (s : State) : Plan :=
  let v := s.variant s.active
  v.plans.getD (v.pattern.getD ((s.fld Reg.TCK_FRAME 0 7 + 1) % v.pattern.length) 0) {}

/-- The windows that a section matches, as first and last cycle of the present slot's count. -/
def State.windowsFor (s : State) (x : USection) : List (Int × Int) :=
  let one (ws : List UplaneWindow) (d : Int) : List (Int × Int) :=
    (ws.filter fun w => w.eaxc = x.eaxc && w.sym = x.sym && s.isAirslot x (d - w.slag)).map fun w =>
      ((w.issue : Int) + d * s.slotLen - w.opens, (w.issue : Int) + d * s.slotLen)
  one s.curPlan.uprx 0 ++ one s.nextPlan.uprx 1

/-- A received U-plane section (R420, R421, R425). -/
def State.uPlaneSection (s : State) (t : Nat) (x : USection) : State :=
  s.inNet fun s =>
    let s := s.reach t
    if s.isShadow || s.plan.net.eaxc.any (fun e => e.id == x.eaxc && s.lostLock (15 + e.port)) then s
    else if x.rev != 1 || x.concat || x.msgType != 0 || !x.eBit || x.payVer != 1 || decide (3 < x.filter) || x.symInc
        || decide (273 < x.prbs.length) then
      s.bump Reg.NET_FHCNT2 16 16 1
    else if !(s.plan.net.eaxc.any fun e => e.id = x.eaxc) then s.bump Reg.NET_FHCNT2 0 16 1
    else
      let ws := s.windowsFor x
      if ws.isEmpty then s.bump Reg.NET_FHCNT2 0 16 1
      else if ws.any fun w => decide (w.1 ≤ t) && decide (t ≤ w.2) then
        { s with net := { s.net with sections := s.net.sections ++ [⟨s.slot, x⟩] } }
      else if ws.any fun w => decide (t < w.1) then s.bump Reg.NET_FHCNT0 0 16 1
      else s.bump Reg.NET_FHCNT0 16 16 1

/-- A row of the eAxC table. -/
def State.eaxcRow (s : State) (id : Nat) : Option Eaxc := s.plan.net.eaxc.find? fun e => e.id = id

/-- Issues a NET command on the queue of its port. -/
def State.issueNet (s : State) (c : Cmd) : Issue × State :=
  s.issue c (portUnit c.unit).loc (s.unitFree 10 9 c.unit) 0

/-- The taken sections of an UPRX, in the order in which they landed. -/
def State.takenFor (s : State) (c : Cmd) : List USection :=
  let d : Int := -(bitsOf c.w.w2 20 2 : Int)
  (s.net.sections.filter fun x =>
    x.sec.eaxc = bitsOf c.w.w2 0 16 && x.sec.sym = bitsOf c.w.w2 16 4 && s.isAirslot x.sec d).map (·.sec)

/-- Whether a section covers a PRB. -/
def USection.covers (x : USection) (p : Nat) : Bool :=
  decide (x.prb0 ≤ p) && decide (p < x.prb0 + x.prbs.length)

/-- The values of a PRB that the first of the sections covering it holds (R421). -/
def prbValues (scl : Int) (bfp : Bool) (xs : List USection) (p : Nat) : Option (List FVal) :=
  (xs.find? fun x => x.covers p).map fun x =>
    let (e, ms) := x.prbs.getD (p - x.prb0) (0, [])
    (List.range 24).map fun i => FVal.ofInt (ms.getD i 0) (scl + (if bfp then (e : Int) else 0))

/-- Element codes of values in a NET converter's format (R422). -/
def netConvert (f : Fmt) (vs : List FVal) : List Nat × FlagWord :=
  if f.isBfp then
    let es := (chunks 16 (vs.length / 16 + 1) vs).map fun b => encodeBfp f.bits false .nearestEven b
    (es.flatMap (·.2.1), es.foldl (fun a e => a ||| e.2.2) 0)
  else
    let es := vs.map fun v => f.encode none false .nearestEven 0 v
    (es.map (·.1), es.foldl (fun a e => a ||| e.2) 0)

/-- A region's buffer and NET's own copy of its bits (R303). -/
def netOuts (r buf : Nat) : List (Nat × Nat) := [(9, buf), (r, buf)]

/-- The SECDED errors that a command's reads of the packet buffer met (R51, R53, R418): a word's number counts through the
four quarters. -/
def State.packetErrors (s : State) (c : Cmd) (t : Nat) : Bool × State :=
  (c.ecc.any eccBad, c.ecc.foldl (fun s e =>
    s.eccLater (eccBad e) c.region 0x1B (e.1 / 524288)
      (cellLoc c.region 0x1B (e.1 / 524288) (e.1 % 524288) (eccBit e)) e.1 t) s)

/-- UPRX (R424, R426, R461): H-C hallmarks are made unless a word of the packet buffer was lost or the shadow converter
differed. -/
def State.uprx (s : State) (c : Cmd) : State :=
  let (i, s) := s.issueNet c
  if !i.go then s
  else
    let n := bitsOf c.w.w3 9 9
    let r := bitsOf c.w.w4 25 3
    let outs := netOuts r (bitsOf c.w.w6 0 12)
    let row := (s.eaxcRow (bitsOf c.w.w2 0 16)).getD ⟨0, 0, 0, false, 16, 0⟩
    let f := Fmt.get (bitsOf c.w.w3 18 4)
    let xs := s.takenFor c
    let ps := (List.range n).map fun k => bitsOf c.w.w3 0 9 + k
    let vals := ps.map fun p => prbValues row.scl row.bfp xs p
    let miss := (vals.filter Option.isNone).length
    let dup := ((List.range xs.length).filter fun k =>
      ps.any fun p => (xs.getD k ⟨1, false, 0, true, 1, 0, false, 0, 0, 0, 0, 0, 0, []⟩).covers p &&
        (xs.take k).any fun y => y.covers p).length
    let (codes, flags) := netConvert f (vals.flatMap fun v => v.getD (List.replicate 24 .zero))
    let bs := packCodes f.bits codes
    let finish := if n = 0 then i.t + 1 else deliveredAt (i.t + (bs.length + 63) / 64 + 8) (hopsFrom 9 r)
    let s := s.bump Reg.NET_FHCNT1 0 16 miss
    let s := s.bump Reg.NET_FHCNT1 16 16 dup
    let (unc, s) := s.packetErrors c i.t
    let s := s.shadowFault 9 (portUnit c.unit).cls (portUnit c.unit).index c.shadow i.t
    let ok := !unc && c.shadow.isNone
    let s := if n = 0 then s else s.writePad r (bitsOf c.w.w4 0 25) bs ok
    let s := if n = 0 then s else
      (s.laters finish 9 [.flags Reg.NET_STAT flags]).countFlags 9 finish [flags]
    let s := if n = 0 then s else s.putBeside r (bitsOf c.w.w6 0 12) ⟨[flags], []⟩
    let s := if i.void || !ok || decide (0 < miss) then
      s.voidOuts none outs (if i.void then i.cause else if unc then 0x0102 else if ok then 0 else 0x0206) else s
    let s := outs.foldl (fun s o => s.signalAt none o.1 o.2 finish) s
    s.track c i 0 finish outs

/-! ## Transmission (R422, R424, R427, R458) -/

/-- A value as a wire mantissa of `w` bits at exponent `x`, within the symmetric range (R422). -/
def wireMantissa (w : Nat) (x : Int) (v : FVal) : Int × FlagWord :=
  let top : Int := 2 ^ (w - 1) - 1
  match v.scale (-x) with
  | .nan _ _ => (0, Flag.inv)
  | .inf n => (if n then -top else top, Flag.ovf)
  | .fin n m e =>
      let r := (roundMag .nearestEven n m e 0).1
      if top < r then (if n then -top else top, Flag.ovf) else (if n then -(r : Int) else r, 0)

/-- One PRB compressed: its exponent, its mantissas and its flags (R422). -/
def compressPrb (row : Eaxc) (vs : List FVal) : (Nat × List Int) × FlagWord :=
  let at_ (x : Nat) := vs.map fun v => wireMantissa row.width (row.scl + x) v
  let x := if row.bfp then
    ((List.range 16).find? fun x => (at_ x).all fun e => !hasFlag e.2 Flag.ovf).getD 15 else 0
  let es := at_ x
  ((x, es.map (·.1)), es.foldl (fun a e => a ||| e.2) 0)

/-- The source buffer of a NET command is void in the present slot's ledger (R458). -/
def State.voidSource (s : State) (c : Cmd) : State := s.voidBuf none c.region c.wbuf 0x0201

/-- UPTX (R422, R424, R458): PRBs of a failed granule, or of a void input, go out as zeros. -/
def State.uptx (s : State) (c : Cmd) : State :=
  let (i, s) := s.issueNet c
  if !i.go then s
  else
    let n := bitsOf c.w.w3 9 9
    let r := bitsOf c.w.w4 25 3
    let a := bitsOf c.w.w4 0 25
    let row := (s.eaxcRow (bitsOf c.w.w2 0 16)).getD ⟨0, 0, 0, false, 16, 0⟩
    let f := Fmt.get (bitsOf c.w.w3 18 4)
    let size := 24 * f.bits / 8
    let good := (List.range n).map fun k => !i.void && s.padOk r (a + k * size) size
    let (k, s) := s.readPad (portUnit c.unit) r a (n * size)
    let s := if k.bad = 0 then s else s.voidSource c
    let codes := (unpackCodes f.bits (24 * n) k.bytes).toArray
    let (es, s) := if f.isBfp then s.draw ((24 * n + 15) / 16) else ([], s)
    let val (j : Nat) : FVal :=
      let v := f.decode none (codes.getD j 0)
      if f.isBfp then v.scale (((es.getD (j / 16) 0).toNat % 256 : Nat) - 127) else v
    let prbs := (List.range n).map fun p =>
      compressPrb row ((List.range 24).map fun j => if good.getD p false then val (24 * p + j) else .zero)
    let s := s.shadowFault 9 (portUnit c.unit).cls (portUnit c.unit).index c.shadow i.t
    let air := s.airIndex (bitsOf c.w.w2 20 2)
    let spe := s.spe
    let s := s.orFlags Reg.NET_STAT (prbs.foldl (fun g p => g ||| p.2) 0)
    let s := if n = 0 then s else s.putSent c.unit [.uplane row.id (air / (10 * spe) % 256)
      (air / spe % 10) (air % spe) (bitsOf c.w.w2 16 4) (bitsOf c.w.w3 0 9) (prbs.map (·.1))]
    let body := n * (if row.bfp then 1 + 3 * row.width else 48)
    let finish := if n = 0 then i.t + 1 else i.t + 40 + (8 * (body + 34) + 124) / 125
    s.track c i 0 finish []

/-- Whether two section records share a message (R427). -/
def sameMessage (a b : List Word) : Bool :=
  (a.getD 0 0) &&& 0xFFFFFF == (b.getD 0 0) &&& 0xFFFFFF

/-- Records gathered into messages of at most `k`, in order (R427). -/
def gather (cap : Nat) : List (List Word) → List (List (List Word))
  | [] => []
  | r :: rs =>
      match gather cap rs with
      | [] => [[r]]
      | g :: gs =>
          if sameMessage r (g.headD []) && decide (g.length < cap) then (r :: g) :: gs else [r] :: g :: gs

/-- CPTX (R424, R427, R458): records of a failed granule go out as zeros. -/
def State.cptx (s : State) (c : Cmd) : State :=
  let (i, s) := s.issueNet c
  if !i.go then s
  else
    let n := bitsOf c.w.w2 4 16
    let r := bitsOf c.w.w4 25 3
    let a := bitsOf c.w.w4 0 25
    let good := (List.range n).map fun k => !i.void && s.padOk r (a + 32 * k) 32
    let (k, s) := s.readPad (portUnit c.unit) r a (32 * n)
    let s := if k.bad = 0 then s else s.voidSource c
    let recs := (List.range n).map fun j => (bytesOf k.bytes j, good.getD j false)
    let usable (w : List Word) : Bool :=
      (bitsOf (w.getD 0 0) 17 3 == 1 || bitsOf (w.getD 0 0) 17 3 == 3)
        && (s.eaxcRow (bitsOf (w.getD 0 0) 0 16)).isSome
    let skipped := (recs.filter fun e => e.2 && !usable e.1).length
    let kept := recs.filterMap fun e =>
      if !e.2 then some (List.replicate 8 0) else if usable e.1 then some e.1 else none
    let s := s.bump Reg.NET_FHCNT2 16 16 skipped
    let spe := s.spe
    let msgs := (gather 764 kept).map fun g =>
      let w0 := (g.headD []).getD 0 0
      let d : Int := ((g.headD []).getD 3 0 - s.reg Reg.TCK_SLOTNUM).toInt
      let air := s.airIndex d
      Sent.cplane (bitsOf w0 0 16) (bitsOf w0 16 1) (bitsOf w0 17 3) (bitsOf w0 20 4)
        (air / (10 * spe) % 256) (air / spe % 10) (air % spe) g
    let s := if n = 0 then s else s.putSent c.unit msgs
    let bytes := (msgs.length * 38) + 12 * kept.length
    let finish := if n = 0 then i.t + 1 else i.t + 40 + (8 * bytes + 124) / 125
    s.track c i 0 finish []
where
  bytesOf (bs : List Byte) (j : Nat) : List Word :=
    (List.range 8).map fun q => BitVec.ofNat 32 (leNat ((bs.drop (32 * j + 4 * q)).take 4))

/-! ## The L2 port (R428 to R433) -/

/-- The bytes of a region's scratchpad, unchecked. -/
def State.padBytes (s : State) (r a n : Nat) : List Byte := (s.padPlaces r a n).map s.byteAt

/-- The addresses and lengths of `n` messages that follow one another (R429). -/
def State.msgSpans (s : State) (r : Nat) : Nat → Nat → List (Nat × Nat)
  | _, 0 => []
  | a, n + 1 =>
      let len := max 8 (beNat (s.padBytes r (a + 2) 2))
      (a, len) :: s.msgSpans r (a + len) n

/-- The fixed fields of an outbound message's body (R430). -/
def fixedBytes (type : Nat) : Nat := if type = 0x10 then 24 else 0

/-- Each 32-bit word in network byte order (R429, R564). -/
def networkOrder : List Byte → List Byte
  | a :: b :: c :: d :: rest => d :: c :: b :: a :: networkOrder rest
  | rest => rest

/-- A staged message in wire order: the message set's fields are big-endian as they stand, and the words of the device
structure that a GRANT, a LEDGER or a FAULT carries are little-endian in scratchpad (R10, R429; DEDUCED, log entry 121). -/
def wireOrder (bs : List Byte) : List Byte :=
  if [0x11, 0x12, 0x13].contains (beNat (bs.take 2)) then bs.take 8 ++ networkOrder (bs.drop 8) else bs

/-- A message as it leaves: withheld when a granule of it failed or its input is void (R429, R458). -/
def outMessage (ok : Bool) (bs : List Byte) : List Byte :=
  if ok then bs
  else
    let n := 8 + fixedBytes (beNat (bs.take 2))
    let b := bs.take n
    b.take 2 ++ beBytes 2 b.length ++ (b.drop 4).take 1 ++
      ((b.drop 5).take 1).map (· ||| 2) ++ b.drop 6

/-- The downlink allocations of a GRANT message (R409, R430, R433). -/
def grantRecs (bs : List Byte) : List GrantRec :=
  let w (o : Nat) : Nat := beNat ((bs.drop (8 + o)).take 4)
  if beNat (bs.take 2) != 0x11 || !(w 8).testBit 3 then []
  else (List.range 64).filterMap fun j =>
    let w0 := w (32 + 32 * j)
    if w0 % 65536 = 0xFFFF then none
    else some ⟨w 4, w 8 % 8, w0 / 65536 % 1024, w0 / 2 ^ 26 % 16, (w (32 + 32 * j + 12) % 2 ^ 21 + 7) / 8⟩

/-- One staged datagram at an address: what leaves, and the bytes it takes. -/
def State.datagramAt (s : State) (c : Cmd) (void : Bool) (r a : Nat) : Nat × State :=
  let spans := s.msgSpans r (a + 16) (beNat (s.padBytes r (a + 2) 2))
  let size := 16 + (spans.map (·.2)).sum
  let msgs := spans.map fun e => (wireOrder (s.padBytes r e.1 e.2), s.padOk r e.1 e.2 && !void)
  let (k, s) := s.readPad (portUnit 8) r a size
  let s := if k.bad = 0 then s else s.voidSource c
  let x := Sent.datagram s.net.seq s.slot (msgs.map fun m => outMessage m.2 m.1)
  let s := s.putSent 8 (SMap.read [] s.net.sent 8 ++ [x])
  (size, { s with net := { s.net with
    seq := (s.net.seq + 1) % 2 ^ 32
    grants := s.net.grants ++ msgs.flatMap fun m => if m.2 then grantRecs m.1 else [] } })

/-- `n` staged datagrams, one after the other. -/
def State.datagrams (s : State) (c : Cmd) (void : Bool) (r a : Nat) : Nat → Nat × State
  | 0 => (0, s)
  | n + 1 =>
      let (k, s) := s.datagramAt c void r a
      let (m, s) := s.datagrams c void r (a + k) n
      (k + m, s)

/-- L2TX (R424, R431, R458). -/
def State.l2tx (s : State) (c : Cmd) : State :=
  let (i, s) := s.issueNet c
  if !i.go then s
  else
    let n := bitsOf c.w.w2 4 16
    let s := s.putSent 8 []
    let (size, s) := s.datagrams c i.void (bitsOf c.w.w4 25 3) (bitsOf c.w.w4 0 25) n
    let finish := if n = 0 then i.t + 1 else i.t + 40 + (16 * size + 124) / 125
    s.track c i 0 finish []

/-- AIRSLOT of a message's body. -/
def L2Msg.airslot (m : L2Msg) : Nat := beNat (m.body.take 4)

/-- Whether a message has the length of its type (R429, R430). -/
def L2Msg.wellSized (m : L2Msg) : Bool :=
  let n := m.body.length
  m.len = 8 + n && n % 4 == 0 && (match m.type with
    | 1 => decide (4 ≤ n) && (n - 4) % 16 == 0
    | 2 => n % 16 == 0
    | 3 => decide (16 ≤ n)
    | _ => true)

/-- An inbound BSR, QOS or DLDATA message (R430, R432): it waits for its L2RX, unless that has closed. -/
def State.l2Message (s : State) (m : L2Msg) : State :=
  s.inNet fun s =>
    if s.isShadow then s
    else if !m.wellSized then s.bump Reg.NET_L2CNT0 8 8 1
    else
      let last := SMap.read 0 s.net.closed m.type
      let late := m.type != 2 && decide (0 < last) &&
        decide (((BitVec.ofNat 32 m.airslot : Word) - BitVec.ofNat 32 (last - 1)).toInt ≤ 0)
      if late then s.bump Reg.NET_L2CNT0 16 16 1
      else { s with net := { s.net with msgs := s.net.msgs ++ [m] } }

/-- The bytes of a message. -/
def L2Msg.bytes (m : L2Msg) : List Byte :=
  beBytes 2 m.type ++ beBytes 2 m.len ++ [BitVec.ofNat 8 m.cell, BitVec.ofNat 8 m.flags, 0, 0] ++ m.body

/-- How far fragments reach from 0 without a gap. -/
def reachOf (fs : List (Nat × Nat)) : Nat → Nat → Nat
  | 0, r => r
  | n + 1, r => reachOf fs n (fs.foldl (fun m f => if f.1 ≤ r then max m (f.1 + f.2) else m) r)

/-- Whether the DLDATA of an allocation is complete (R433). -/
def GrantRec.complete (g : GrantRec) (ms : List L2Msg) : Bool :=
  let fs := (ms.filter fun m => m.type = 3 && m.cell = g.cell && m.airslot = g.airslot
    && beNat ((m.body.drop 4).take 2) = g.ue && (beNat ((m.body.drop 6).take 1)) = g.harq).map fun m =>
      (beNat ((m.body.drop 12).take 4), m.body.length - 16)
  decide (g.bytes ≤ reachOf fs fs.length 0)

/-- The messages that fit `rows` rows, in order, and how many do not. -/
def fitRows : Nat → List L2Msg → List L2Msg × Nat
  | _, [] => ([], 0)
  | rows, m :: ms =>
      let k := (m.bytes.length + 63) / 64
      if k ≤ rows then
        let (a, b) := fitRows (rows - k) ms
        (m :: a, b)
      else
        let (a, b) := fitRows rows ms
        (a, b + 1)

/-- Bytes padded with zeros to whole rows of 64. -/
def padRow (bs : List Byte) : List Byte := bs ++ List.replicate ((64 - bs.length % 64) % 64) 0

/-- L2RX (R424, R432, R433). -/
def State.l2rx (s : State) (c : Cmd) : State :=
  let (i, s) := s.issueNet c
  if !i.go then s
  else
    let types := bitsOf c.w.w2 0 16
    let air := (s.slot + bitsOf c.w.w2 16 2) % 2 ^ 32
    let r := bitsOf c.w.w4 25 3
    let rows := bitsOf c.w.w5 0 16
    let outs := netOuts r (bitsOf c.w.w6 0 12)
    let mine (m : L2Msg) : Bool := types.testBit m.type && (m.type == 2 || m.airslot == air)
    let ms := s.net.msgs.filter mine
    let (fit, full) := fitRows (rows - 1) ms
    let bs := if rows = 0 then [] else
      (fit.flatMap fun m => padRow m.bytes) ++ padRow (leBytes 4 fit.length)
    let due := if types.testBit 3 then s.net.grants.filter fun g => g.airslot = air else []
    let bad := due.filter fun g => !g.complete ms
    let closed := (List.range 16).foldl (fun k t =>
      if types.testBit t && t != 2 then SMap.write 0 k t (air + 1) else k) s.net.closed
    let s := { s with net := { s.net with
      msgs := s.net.msgs.filter fun m => !mine m, closed := closed
      grants := if types.testBit 3 then s.net.grants.filter fun g => g.airslot != air else s.net.grants } }
    let s := s.bump Reg.NET_L2CNT1 0 8 full
    let s := s.bump Reg.NET_L2CNT1 8 8 bad.length
    let s := bad.foldl (fun s g =>
      match s.plan.net.tbBufs.find? fun e => e.1 = g.cell * 65536 + g.ue * 16 + g.harq with
      | some e => s.voidEntry 0 e.2.1 e.2.2 0
      | none => s) s
    let finish := deliveredAt (i.t + (bs.length + 63) / 64 + 8) (hopsFrom 9 r)
    let (unc, s) := s.packetErrors c i.t
    let s := if bs.isEmpty then s else s.writePad r (bitsOf c.w.w4 0 25) bs (!unc)
    let s := if i.void || unc then s.voidOuts none outs (if i.void then i.cause else 0x0102) else s
    let s := outs.foldl (fun s o => s.signalAt none o.1 o.2 finish) s
    s.track c i 0 finish outs

/-- The oldest record that is owed to the L2 port becomes a FAULT message (R431, R473). -/
def State.faultMessage (s : State) : State :=
  s.inNet fun s =>
    match s.faults.copies with
    | [] => s
    | r :: rest =>
        let body := r.words.flatMap fun w => beBytes 4 w.toNat
        let msg := beBytes 2 0x13 ++ beBytes 2 40 ++ [0, 1, 0, 0] ++ body
        { (s.enqueue 8 (.datagram 0 0 [msg])) with faults := { s.faults with copies := rest } }

def execUprx (c : Cmd) (s : State) : Host.Outcome State Fault Refusal :=
  admitted (Instr.uprx c).wf (s.uprx c)

def execUptx (c : Cmd) (s : State) : Host.Outcome State Fault Refusal :=
  admitted (Instr.uptx c).wf (s.uptx c)

def execCptx (c : Cmd) (s : State) : Host.Outcome State Fault Refusal :=
  admitted (Instr.cptx c).wf (s.cptx c)

def execL2tx (c : Cmd) (s : State) : Host.Outcome State Fault Refusal :=
  admitted (Instr.l2tx c).wf (s.l2tx c)

def execL2rx (c : Cmd) (s : State) : Host.Outcome State Fault Refusal :=
  admitted (Instr.l2rx c).wf (s.l2rx c)

def execUPlaneSection (cycle : Nat) (sec : USection) (s : State) : Host.Outcome State Fault Refusal :=
  .next (s.uPlaneSection cycle sec)

def execEthernetFrame (port : Nat) (f : EthFrame) (s : State) : Host.Outcome State Fault Refusal :=
  .next (s.ethernetFrame port f)

def execArpRequest (mac ip target : Nat) (s : State) : Host.Outcome State Fault Refusal :=
  .next (s.arpRequest mac ip target)

def execNeighbourSolicitation (mac ip target : Nat) (s : State) : Host.Outcome State Fault Refusal :=
  .next (s.neighbourSolicitation mac ip target)

def execBsr (m : L2Msg) (s : State) : Host.Outcome State Fault Refusal := .next (s.l2Message { m with type := 1 })

def execQos (m : L2Msg) (s : State) : Host.Outcome State Fault Refusal := .next (s.l2Message { m with type := 2 })

def execDldata (m : L2Msg) (s : State) : Host.Outcome State Fault Refusal :=
  .next (s.l2Message { m with type := 3 })

def execFault (s : State) : Host.Outcome State Fault Refusal := .next s.faultMessage

def execEsmcPdu (port ql : Nat) (s : State) : Host.Outcome State Fault Refusal := .next (s.esmcPdu port ql)

def execEsmcTimeout (s : State) : Host.Outcome State Fault Refusal := .next s.esmcTimeout

def execInformationPdu (s : State) : Host.Outcome State Fault Refusal := .next (s.sendEsmc false)

def execEthernetLinkDown (port : Nat) (s : State) : Host.Outcome State Fault Refusal :=
  .next (s.ethernetLinkDown port)

end Sys2Proof.Machine
end

