-- ==== Sys2Proof/Machine/Transform.lean ====
section
/-! DEFINITION. Transform engines (R350 to R357, R374): FFT, IFFT, FIR, FETCH and STEER, their memories and
the sample rings. -/

namespace Sys2Proof.Machine

open Sys2Proof

/-! ## Samples, rings and memories (R338, R347, R348, R350) -/

/-- A complex pair of signed parts. -/
abbrev Pair := Int × Int

/-- The pair of a sample word, real part in the low half (R339). -/
def pairOf (w : Word) : Pair := (sbitsOf w 0 16, sbitsOf w 16 16)

/-- The sample word of a pair. -/
def wordOf (p : Pair) : Word := BitVec.ofNat 32 (wrapBits 16 p.1 + wrapBits 16 p.2 * 2 ^ 16)

/-- Samples of a slot at every numerology of R358. -/
def slotSamples : Nat := 61440

/-- `ceil(j × TCK.SLOTLEN.LEN ÷ S)` (R348). -/
def State.sampleCycle (s : State) (j : Nat) : Nat :=
  (j * s.slotLen + slotSamples - 1) / slotSamples

/-- The key of a sample of a memory: engine, memory 0 X or 1 Y, address. -/
def teKey (t m a : Nat) : Nat := t * 2 ^ 17 + m % 2 * 2 ^ 16 + a % 2 ^ 16

/-- A sample of a memory. -/
def State.teRead (s : State) (k : Nat) : Word := SMap.read 0 s.mem.te k

/-- The state with a sample of a memory written. -/
def State.teWrite (s : State) (k : Nat) (w : Word) : State :=
  { s with mem := { s.mem with te := SMap.write 0 s.mem.te k w } }

/-- The 256 bytes of a granule of a memory. -/
def State.teBytes (s : State) (g : Nat) : List Byte :=
  (List.range 64).flatMap fun i => leBytes 4 (s.teRead (g * 64 + i)).toNat

/-- Whether a granule's H-C checks. -/
def State.teOk (s : State) (g : Nat) : Bool := SMap.read 0 s.mem.teHall g == hc (s.teBytes g)

/-- The state with a fresh H-C of a granule. -/
def State.teMark (s : State) (g : Nat) : State :=
  { s with mem := { s.mem with teHall := SMap.write 0 s.mem.teHall g (hc (s.teBytes g)) } }

/-- The state with the void bit of a granule, as the code of its cause or 0. -/
def State.teSetVoid (s : State) (g cause : Nat) : State :=
  { s with mem := { s.mem with teVoid := SMap.write 0 s.mem.teVoid g cause } }

/-- Writes samples at keys. -/
def State.teWriteAll (s : State) : List (Nat × Word) → State
  | [] => s
  | e :: es => (s.teWrite e.1 e.2).teWriteAll es

/-- A receive or transmit row of the channel table (R338). -/
def State.rxChan (s : State) (c : Nat) : RadioChan :=
  (((s.variant s.active).rx.find? fun e => e.1 = c).map (·.2)).getD {}
def State.txChan (s : State) (c : Nat) : RadioChan :=
  (((s.variant s.active).tx.find? fun e => e.1 = c).map (·.2)).getD {}

/-- The timing offset of a channel's NCO (R347). -/
def State.toff (s : State) (ch : RadioChan) : Int :=
  match ch.nco with
  | some n => s.sfld (Reg.NCO_TOFF n) 0 16
  | none => 0

/-- The fixed latency of a JESD link under a configuration, which no rule gives (R344; log entry 130). -/
def jesdLatency (tx : Bool) (n : Nat) (reg : Nat → Word) : BitVec 16 :=
  Config.jesdLatency tx n (if tx then [reg (Reg.JTX_CFG0 n), reg (Reg.JTX_CFG1 n), reg (Reg.JTX_CFG2 n)]
    else [reg (Reg.JRX_CFG0 n), reg (Reg.JRX_CFG1 n), reg (Reg.JRX_CFG2 n)])

/-- The ring address of sample `j` of slot `n` (R347). -/
def State.ringAddr (s : State) (ch : RadioChan) (n j : Nat) : Nat :=
  ch.ring + ((((n * slotSamples + j : Nat) : Int) + s.toff ch) % (ch.rlen : Int)).toNat

/-- What a transform engine's source gave: its samples, whether every H-C checked, and the first cause of a
void. -/
structure Source where
  vals : List Pair
  ok : Bool
  cause : Nat
  deriving DecidableEq, Repr

/-- Reads samples at keys of an engine's memories, with the H-C and void bit of every granule they touch
(R352, R455). -/
def State.teTake (s : State) (t : Nat) (ks : List Nat) : Source × State :=
  let gs := dedupRuns (ks.map (· / 64))
  let bad := gs.filter fun g => !s.teOk g
  let voids := gs.filterMap fun g =>
    let c := SMap.read 0 s.mem.teVoid g
    if c = 0 then none else some c
  let vals := ks.map fun k => pairOf (s.teRead k)
  let s := bad.foldl (fun s g => s.blockRaise 8 0x10 t 0x0201 (blockLoc 8 0x10 t)
    (SMap.read 0 s.mem.teHall g).toNat (hc (s.teBytes g)).toNat) s
  (⟨vals, bad.isEmpty, if !bad.isEmpty then 0x0201 else voids.headD 0⟩, s)

/-! ## Arithmetic (R352 to R354) -/

/-- An integer divided by 2^k, rounded convergently (R113). -/
def rne (v : Int) (k : Nat) : Int :=
  let n := (roundMag .nearestEven (decide (v < 0)) v.natAbs 0 k).1
  if v < 0 then -(n : Int) else n

/-- π/2 with 160 fraction bits. -/
def halfPi : Nat := 2295721403524109460692402599871655564227077512209

/-- A Taylor series in fixed point with 160 fraction bits: `n` more terms from `term`, whose number is `k`. -/
def taylor (x2 : Nat) : Nat → Nat → Nat → Int → Int
  | 0, _, _, acc => acc
  | n + 1, k, term, acc =>
      let next := term * x2 / 2 ^ 160 / ((k + 1) * (k + 2))
      taylor x2 n (k + 2) next (acc + (if k / 2 % 2 = 0 then (term : Int) else -(term : Int)))

/-- Cosine and sine of (π/2) × r ÷ n for r < n, as convergent roundings to 16 fraction bits; the exact
value is never halfway between two of them except at r = 0, where it is exact. -/
def quarterCosSin (r n : Nat) : Int × Int :=
  if r = 0 then (65536, 0)
  else
    let x := halfPi * r / n
    let x2 := x * x / 2 ^ 160
    (rne (taylor x2 40 0 (2 ^ 160) 0) 144, rne (taylor x2 40 1 x 0) 144)

/-- Cosine and sine of 2π k ÷ n, with 16 fraction bits (R353, R364). -/
def cosSin (k n : Nat) : Int × Int :=
  let q := 4 * (k % n) / n
  let (c, d) := quarterCosSin (4 * (k % n) % n) n
  match q with
  | 0 => (c, d)
  | 1 => (-d, c)
  | 2 => (-c, -d)
  | _ => (d, -c)

/-- One butterfly (R353): a ± w·b exactly, shifted by `s` and rounded once. -/
def butterfly (s : Nat) (w a b : Pair) : Pair × Pair :=
  let re := w.1 * b.1 - w.2 * b.2
  let im := w.1 * b.2 + w.2 * b.1
  let up (x : Int) := x * 65536
  ((rne (up a.1 + re) (16 + s), rne (up a.2 + im) (16 + s)),
    (rne (up a.1 - re) (16 + s), rne (up a.2 - im) (16 + s)))

/-- The pass shift of a largest part magnitude (R354). -/
def passShift (m : Nat) : Nat := if m < 8192 then 0 else if m < 16384 then 1 else 2

/-- The largest part magnitude (R354). -/
def largest (xs : List Pair) : Nat := xs.foldl (fun m p => max m (max p.1.natAbs p.2.natAbs)) 0

/-- The twiddles of a pass that combines points `h` apart; conjugate for an inverse transform (R353). -/
def twiddles (inv : Bool) (h : Nat) : List Pair :=
  (List.range h).map fun j =>
    let (c, d) := cosSin j (2 * h)
    (c, if inv then d else -d)

/-- Combines neighbouring blocks of a pass. -/
def passPairs (s : Nat) (ws : List Pair) : List (List Pair) → List (List Pair)
  | a :: b :: rest =>
      let cs := (ws.zip (a.zip b)).map fun e => butterfly s e.1 e.2.1 e.2.2
      (cs.map (·.1) ++ cs.map (·.2)) :: passPairs s ws rest
  | _ => []

/-- The passes (R352): the points after the last, those after the one before, and BE. -/
def passes (inv : Bool) : Nat → Nat → List (List Pair) → Nat → List Pair × List Pair × Nat
  | 0, _, bs, be => (bs.flatten, bs.flatten, be)
  | 1, h, bs, be =>
      let s := passShift (largest bs.flatten)
      ((passPairs s (twiddles inv h) bs).flatten, bs.flatten, be + s)
  | n + 2, h, bs, be =>
      let s := passShift (largest bs.flatten)
      passes inv (n + 1) (2 * h) (passPairs s (twiddles inv h) bs) (be + s)

/-- The entries at even and odd positions. -/
def evens {α : Type} : List α → List α
  | x :: _ :: xs => x :: evens xs
  | [x] => [x]
  | [] => []
def odds {α : Type} : List α → List α
  | _ :: y :: xs => y :: odds xs
  | _ => []

/-- Bit-reversed order (R352). -/
def bitReverse {α : Type} : Nat → List α → List α
  | 0, xs => xs
  | n + 1, xs => bitReverse n (evens xs) ++ bitReverse n (odds xs)

/-- A whole transform of 2^n points. -/
def transform (inv : Bool) (n : Nat) (xs : List Pair) : List Pair × List Pair × Nat :=
  passes inv n 1 ((bitReverse n xs).map fun x => [x]) 0

/-! ## Commands -/

/-- The location of a transform engine. -/
def teLoc (t : Nat) : BitVec 64 := blockLoc 8 0x10 t

/-- Issues a transform engine command. -/
def State.issueTe (s : State) (c : Cmd) : Issue × State :=
  s.issue c (teLoc c.unit) (s.unitFree 8 8 c.unit) 0

/-- The busy cycles of a command, counted as they pass (R374). -/
def State.teBusy (s : State) (t finish cycles : Nat) : State := s.later (finish - 1) 8 (.count (Reg.TE_ACT t) 0 32 cycles)

/-- The keys of a command's source of `n` samples (R351). -/
def State.sourceKeys (s : State) (c : Cmd) (n : Nat) : List Nat :=
  let src := bitsOf c.w.w2 12 16
  if bitOf c.w.w2 4 then
    let ch := s.rxChan (bitsOf c.w.w2 5 6)
    let slot := s.slotBack (bitsOf c.w.w2 28 2)
    (List.range n).map fun i => teKey c.unit 0 (s.ringAddr ch slot (src + i))
  else (List.range n).map fun i => teKey c.unit (bitsOf c.w.w2 11 1) (src + i)

/-- The symbol of a slot that contains sample `j` (R65, R355). -/
def State.symbolOf (s : State) (j : Nat) : Nat :=
  let cc := s.sampleCycle j
  ((List.range (s.fld Reg.TCK_SYMS 0 4)).filter fun k =>
    decide (s.fld (Reg.TCK_SYMOFF k) 0 21 ≤ cc)).length - 1

/-- A gain loop. -/
def State.loop (s : State) (l : Nat) : GainLoop := SMap.read {} s.radio.loops l

/-- The trailer of an FFT (R355). A plain source has no sample index: its gain record and symbol are free
values (log entry 20). -/
def State.trailer (s : State) (c : Cmd) (be : Nat) : List Byte × State :=
  let ch := bitsOf c.w.w2 5 6
  if bitOf c.w.w2 4 then
    let slot := s.slotBack (bitsOf c.w.w2 28 2)
    let k := s.symbolOf (bitsOf c.w.w2 12 16)
    let rec_ := SMap.read 0 (s.loop ch).recs (slot % 4 * 16 + k)
    (leBytes 4 ((rec_ - 1) % 512) ++ leBytes 4 be ++ leBytes 4 slot ++ leBytes 4 (k % 16 + ch * 16)
      ++ List.replicate 16 0, s)
  else
    let (vs, s) := s.draw 1
    let f := vs.getD 0 0
    (leBytes 4 (f.toNat % 512) ++ leBytes 4 be ++ leBytes 4 s.slot
      ++ leBytes 4 (f.toNat / 512 % 16 + ch * 16) ++ List.replicate 16 0, s)

/-- The output stage (R132, R355): complex values to OFMT, entry `i` on channel `(i div 12) mod count`; the bytes, the flags
and the scale blocks. -/
def State.stageOut (s : State) (c : Cmd) (vs : List (FVal × FVal)) (t finish : Nat) :
    List Byte × Beside × State :=
  let f := Fmt.get (bitsOf c.w.w5 16 4)
  let (cs, s) := s.openChans 8 c.unit (bitsOf c.w.w5 0 8)
    (min (bitsOf c.w.w5 8 8 + 1) ((vs.length + 11) / 12)) f t
  let es := ((List.range vs.length).zip vs).flatMap fun e => [(e.1 / 12, e.2.1), (e.1 / 12, e.2.2)]
  let k := cs.convert f es
  let s := s.closeChans cs es finish
  (packCodes f.bits k.codes, ⟨[k.flags], (makeScale (s.stepNumber none) f.code (bitsOf c.w.w5 0 8)
    (cs.entries f)).flatMap ScaleBlock.bytes⟩, s)

/-- A command that writes nothing completes in the next cycle (R357). -/
def State.teNothing (s : State) (c : Cmd) (i : Issue) (region buf : Nat) : State :=
  let s := if i.void then s.voidBuf none region buf i.cause else s
  let s := s.signalAt none region buf (i.t + 1)
  s.track c i 0 (i.t + 1) [(region, buf)]

/-- The flags and the end of a command of a transform engine (R120, R121, R355, R356): what its output's flag word and
TE.STAT take at its completion, its void buffer, and its DONE, which an output in another region has when its last flit has
crossed the spine (R41, R357). -/
def State.teEnd (s : State) (c : Cmd) (i : Issue) (r buf : Nat) (beside : Beside) (be : Option Nat) (cause finish : Nat) :
    State :=
  let s := s.laters finish 8 (beside.flags.map fun f => .flags (Reg.TE_STAT c.unit) f)
  let s := match be with
    | some e => s.later finish 8 (.put (Reg.TE_STAT c.unit) 17 5 e)
    | none => s
  let s := (s.countFlags 8 finish beside.flags).putBeside r buf beside
  let s := if cause = 0 then s else s.voidBuf none r buf cause
  let s := (s.signalAt none r buf (if r = 8 then finish else deliveredAt finish (hopsFrom 8 r))).teBusy c.unit finish
    (finish - i.t)
  s.track c i 0 finish [(r, buf)]

/-- What the checks of a command of a transform engine found (R356, R461): the first cause of a void output, or 0. -/
def State.teChecks (s : State) (c : Cmd) (i : Issue) (src : Source) (finish : Nat) : Nat × State :=
  let (unc, s) := s.eccCells c 0x10 c.unit i.t
  let s := s.shadowFault 8 0x10 c.unit c.shadow finish
  (if i.void then i.cause else if src.cause != 0 then src.cause
    else if unc then 0x0102 else if c.shadow.isSome then 0x0206 else 0, s)

/-- Writes an output to its region (R355 to R357): fresh hallmarks only when every check passed, and a void
buffer otherwise. -/
def State.teDeliver (s : State) (c : Cmd) (i : Issue) (src : Source) (bs : List Byte) (beside : Beside) (be : Option Nat)
    (finish : Nat) : State :=
  let r := bitsOf c.w.w6 25 3
  let ok := src.cause = 0 && !(c.ecc.any eccBad) && c.shadow.isNone
  let (cause, s) := s.teChecks c i src finish
  let s := s.writePad r (bitsOf c.w.w6 0 25) bs ok
  s.teEnd c i r (bitsOf c.w.w7 0 12) beside be cause finish

/-- FFT (R352 to R357). -/
def State.fft (s : State) (c : Cmd) : State :=
  let (i, s) := s.issueTe c
  if !i.go then s
  else
    let n := bitsOf c.w.w2 0 4
    let nbin := bitsOf c.w.w4 16 14
    if nbin = 0 then s.teNothing c i (bitsOf c.w.w6 25 3) (bitsOf c.w.w7 0 12)
    else
      let finish := i.t + (n + 1) * (2 ^ n / 16 + 24) + 16
      let (src, s) := s.teTake c.unit (s.sourceKeys c (2 ^ n))
      let (res, prev, be) := transform false n src.vals
      let wrk := bitsOf c.w.w3 0 16
      let (a, b) := if n % 2 = 1 then (res, prev) else (prev, res)
      let area (base : Nat) (xs : List Pair) :=
        ((List.range xs.length).zip xs).map fun e => (teKey c.unit 1 (base + e.1), wordOf e.2)
      let s := s.teWriteAll (area wrk a)
      let s := s.teWriteAll (area (wrk + 2 ^ n) b)
      let arr := res.toArray
      let first := bitsOf c.w.w4 0 13
      let vs := (List.range nbin).map fun k =>
        let p := arr.getD ((first + k) % 2 ^ n) (0, 0)
        (FVal.ofInt p.1 ((be : Int) - 15), FVal.ofInt p.2 ((be : Int) - 15))
      let (bs, beside, s) := s.stageOut c vs i.t finish
      let (tr, s) := s.trailer c be
      let pad := (32 - (bitsOf c.w.w6 0 25 + bs.length) % 32) % 32
      s.teDeliver c i src (bs ++ List.replicate pad 0 ++ tr) beside (some be) finish

/-- The exact sum of a complex dot product, with 30 fraction bits. -/
def dotPairs (xs cs : List Pair) : Int × Int :=
  (xs.zip cs).foldl (fun a e =>
    (a.1 + e.1.1 * e.2.1 - e.1.2 * e.2.2, a.2 + e.1.1 * e.2.2 + e.1.2 * e.2.1)) (0, 0)

/-- FIR (R351, R355 to R357): output `k` is the sum over tap `i` of coefficient `i` times sample
`k × 2^DECLOG + i` (log entry 21). -/
def State.fir (s : State) (c : Cmd) : State :=
  let (i, s) := s.issueTe c
  if !i.go then s
  else
    let nout := bitsOf c.w.w4 0 16
    if nout = 0 then s.teNothing c i (bitsOf c.w.w6 25 3) (bitsOf c.w.w7 0 12)
    else
      let taps := 8 * bitsOf c.w.w3 16 8
      let d := 2 ^ bitsOf c.w.w3 24 2
      let finish := i.t + (nout * taps + 7) / 8 + 40
      let (src, s) := s.teTake c.unit (s.sourceKeys c ((nout - 1) * d + taps))
      let (co, s) := s.teTake c.unit
        ((List.range taps).map fun k => teKey c.unit 1 (bitsOf c.w.w3 0 16 + k))
      let vs := (List.range nout).map fun k =>
        let y := dotPairs ((src.vals.drop (k * d)).take taps) co.vals
        (FVal.ofInt y.1 (-30), FVal.ofInt y.2 (-30))
      let (bs, beside, s) := s.stageOut c vs i.t finish
      let both : Source := ⟨[], src.ok && co.ok, if src.cause != 0 then src.cause else co.cause⟩
      s.teDeliver c i both bs beside none finish

/-- A rounded IFFT part (R355): round(y × 2^k), saturated to 16 bits, and whether it saturated. -/
def satPart (y k : Int) : Int × Bool :=
  let v := if 0 ≤ k then y * 2 ^ k.toNat else rne y (-k).toNat
  if 32767 < v then (32767, true) else if v < -32768 then (-32768, true) else (v, false)

/-- Puts samples into a channel's transmit ring from sample `j` of slot `n` (R347, R352): each granule it
touches takes a fresh H-C, or is void. -/
def State.ringWrite (s : State) (t : Nat) (ch : RadioChan) (n j : Nat) (xs : List Pair) (cause : Nat) :
    State :=
  let ks := (List.range xs.length).map fun i => teKey t 0 (s.ringAddr ch n (j + i))
  let s := s.teWriteAll (ks.zip (xs.map wordOf))
  (dedupRuns (ks.map (· / 64))).foldl (fun s g =>
    if cause = 0 then (s.teMark g).teSetVoid g 0 else s.teSetVoid g cause) s

/-- IFFT (R352 to R357). -/
def State.ifft (s : State) (c : Cmd) : State :=
  let (i, s) := s.issueTe c
  if !i.go then s
  else
    let n := bitsOf c.w.w2 0 4
    let nbin := bitsOf c.w.w4 16 14
    let cp := bitsOf c.w.w3 16 12
    let buf := bitsOf c.w.w7 0 12
    if nbin = 0 then s.teNothing c i 8 buf
    else
      let finish := i.t + (n + 1) * (2 ^ n / 16 + 24) + (cp + 7) / 8 + 16
      let (src, s) := s.teTake c.unit (s.sourceKeys c nbin)
      let first := bitsOf c.w.w4 0 13
      let bins := src.vals.toArray
      let xs := (List.range (2 ^ n)).map fun p =>
        let k := (p + 2 ^ n - first % 2 ^ n) % 2 ^ n
        if k < nbin then bins.getD k (0, 0) else (0, 0)
      let (res, prev, be) := transform true n xs
      let wrk := bitsOf c.w.w3 0 16
      let (a, b) := if n % 2 = 1 then (res, prev) else (prev, res)
      let area (base : Nat) (xs : List Pair) :=
        ((List.range xs.length).zip xs).map fun e => (teKey c.unit 1 (base + e.1), wordOf e.2)
      let s := s.teWriteAll (area wrk a)
      let s := s.teWriteAll (area (wrk + 2 ^ n) b)
      let k : Int := (be : Int) - (bitsOf c.w.w5 20 5 : Nat)
      let ys := res.map fun p => (satPart p.1 k, satPart p.2 k)
      let sat := ys.any fun y => y.1.2 || y.2.2
      let out := ys.map fun y => (y.1.1, y.2.1)
      let symbol := out.drop (2 ^ n - cp) ++ out
      let (cause, s) := s.teChecks c i src finish
      let chan := bitsOf c.w.w2 5 6
      let ch := s.txChan chan
      let slot := (s.slot + bitsOf c.w.w6 16 2) % 2 ^ 32
      let s := s.ringWrite c.unit ch slot (bitsOf c.w.w6 0 16) symbol cause
      let span : TxSpan := ⟨slot * slotSamples + bitsOf c.w.w6 0 16, symbol.length, s.slot, finish, buf,
        cause != 0⟩
      let s := { s with radio := { s.radio with
        spans := SMap.write [] s.radio.spans chan
          ((span :: SMap.read [] s.radio.spans chan).take 64) } }
      s.teEnd c i 8 buf ⟨[flagIf sat Flag.ovf], []⟩ (some be) cause finish

/-- FETCH (R351, R357): samples from scratchpad into X or Y, in spine entries that follow on its issue without a gap (R41;
DEDUCED, log entry 123); a granule of an input that failed is void. -/
def State.fetch (s : State) (c : Cmd) : State :=
  let (i, s) := s.issueTe c
  if !i.go then s
  else
    let n := bitsOf c.w.w4 0 16
    let finish := if n = 0 then i.t + 1 else deliveredAt (i.t + (n + 15) / 16) (hopsFrom (bitsOf c.w.w2 25 3) 8)
    let (k, s) := s.readPad ⟨8, 0x10, c.unit⟩ (bitsOf c.w.w2 25 3) (bitsOf c.w.w2 0 25) (4 * n)
    let ks := (List.range n).map fun j => teKey c.unit (bitsOf c.w.w3 16 1) (bitsOf c.w.w3 0 16 + j)
    let ws := (chunks 4 n k.bytes).map fun b => BitVec.ofNat 32 (leNat b)
    let s := s.teWriteAll (ks.zip ws)
    let cause := if i.void then i.cause else k.cause
    let s := (dedupRuns (ks.map (· / 64))).foldl (fun s g =>
      if cause = 0 then (s.teMark g).teSetVoid g 0 else s.teSetVoid g cause) s
    let s := if n = 0 then s else s.teBusy c.unit finish (finish - i.t)
    s.track c i 0 finish []

def execFft (c : Cmd) (s : State) : Host.Outcome State Fault Refusal :=
  admitted (Instr.fft c).wf (s.fft c)

def execIfft (c : Cmd) (s : State) : Host.Outcome State Fault Refusal :=
  admitted (Instr.ifft c).wf (s.ifft c)

def execFir (c : Cmd) (s : State) : Host.Outcome State Fault Refusal :=
  admitted (Instr.fir c).wf (s.fir c)

def execFetch (c : Cmd) (s : State) : Host.Outcome State Fault Refusal :=
  admitted (Instr.fetch c).wf (s.fetch c)

end Sys2Proof.Machine
end

