-- ==== Sys2Proof/Machine/Loader.lean ====
section
/-! DEFINITION. The image loader's checks of a whole image (reason 8 of R553), and which section and item the first failure
names. -/

namespace Sys2Proof.Machine

open Sys2Proof

/-! ## Register values (R14) -/

/-- The instances of a register along its dimensions. -/
def instances : List (Nat × Nat) → List Nat
  | [] => [0]
  | d :: ds => (List.range d.2).flatMap fun i => (instances ds).map fun o => i * d.1 + o

/-- The keys under which a register holds values: one for each instance, or one for each selection. -/
def RegDef.keys (d : RegDef) : List Nat :=
  match d.sel with
  | .none => (instances d.dims).map (d.base + ·)
  | .agcLoop => (List.range 64).map fun i => winKey i d.base
  | .netPort => (List.range 9).map fun i => winKey i d.base
  | .elsRegion | .elsRegionClass => (crs ++ [10, 12]).map fun i => winKey i d.base
  | .ofsCell => (List.range 8).map fun i => winKey i d.base
  | .pwrRegion => (List.range 14).map fun i => winKey i d.base
  | _ => []

/-- The keys to which the image must give a value (R14); a QZ-924 image gives none to what its part lacks. -/
def requiredKeys (grade : Nat) : List Nat :=
  (regTable.filter fun d => d.imageMask != 0).flatMap fun d => d.keys.filter fun k =>
    !(grade == 1 && decide (0x10000000 ≤ k) && decide (k < 0x18000000) &&
      (k % 0x1000000 / 0x1000 == 0x18 || k % 0x1000000 / 0x1000 == 0x13))

/-- No field marked "image" is without a value (R14); TCK.SYMOFF12 and TCK.SYMOFF13 read 0 where a slot has 12 symbols. -/
def Image.valuesOk (m : Image) : Bool :=
  (requiredKeys m.grade).all fun k => (m.reg k).isSome ||
    (m.fld Reg.TCK_SYMS 0 4 == 12 && (k == Reg.TCK_SYMOFF 12 || k == Reg.TCK_SYMOFF 13))

/-- The values that the rules of the loader limit: R45, R61, R65, R82, R497. -/
def Image.ticksOk (m : Image) : Bool :=
  let len := m.slotLen
  let count := m.fld Reg.TCK_SYMS 0 4
  lenOk len && frameLenOk len (m.fld Reg.SPN_FRAME 0 10) &&
    offsetsOk len count ((List.range count).map fun k => m.fld (Reg.TCK_SYMOFF k) 0 21)

/-- EXACT against the mode and the variants (R82). -/
def Image.exactOk (m : Image) : Bool :=
  if m.fld Reg.DET_MODE 0 1 = 1 then m.content.variants.all fun v => v.hasExact && v.hasLeave else m.mode != 1

/-! ## Radio (R340, R341, R347, R349) -/

/-- The links of one direction: their lanes do not meet, and each carries its channels. -/
def Image.linksOk (m : Image) (cfg0 cfg1 : Nat → Nat) (chans : List (Nat × RadioChan)) : Bool :=
  let lanes (n : Nat) : Word := (m.reg (cfg0 n)).getD 0
  (List.range 8).all fun n =>
    ((List.range n).all fun k => lanes n &&& lanes k == 0) &&
      decide ((chans.filter fun c => c.2.link == n).length * 61440 * 1600000000 * 32 * 66 ≤
        ((List.range 24).filter fun i => bitOf (lanes n) i).length * m.fld (cfg1 n) 12 12 * 10000000 * 64 * m.slotLen)

/-- The rings of one engine are apart, whole granules and inside X (R347). -/
def ringsOk : List RadioChan → Bool
  | [] => true
  | c :: cs => c.rlen % 64 == 0 && decide (0 < c.rlen) && decide (c.ring + c.rlen ≤ 65536) &&
      (cs.all fun d => d.engine != c.engine || apart c.ring c.rlen d.ring d.rlen) && ringsOk cs

/-- The ring positions that the router passes in a span of cycles, of this slot's samples and the last slot's (R347, R348);
`lat` is added to the cycle of a sample. -/
def routerAt (len : Nat) (c : RadioChan) (lat : Int) (t e : Nat) : List Nat :=
  (List.range 61440).flatMap fun j =>
    let at_ : Int := ((j * len + 61439) / 61440 : Nat) + lat
    let hit (x : Int) : Bool := decide ((t : Int) ≤ x) && decide (x ≤ e)
    (if hit at_ then [(61440 + j) % c.rlen] else []) ++ (if hit (at_ - len) then [j % c.rlen] else [])

/-- An engine command keeps clear of the router (R349): it reads no receive position that the router writes meanwhile, and
writes no transmit position that the router reads. -/
def Image.routerOk (m : Image) (v : Variant) (c : Cmd) (e : Nat) : Bool :=
  if c.cls != 8 then true
  else
    let chan := bitsOf c.w.w2 5 6
    let first (lag : Int) (j : Nat) (k rlen : Nat) : Nat := ((61440 * (1 + lag) + j + k) % (rlen : Int)).toNat
    if (c.opcode = 0x80 || c.opcode = 0x82) && bitOf c.w.w2 4 then
      match v.rx.find? fun x => x.1 == chan with
      | some (_, x) =>
          let n := if c.opcode = 0x80 then 2 ^ bitsOf c.w.w2 0 4
            else bitsOf c.w.w4 0 16 * 2 ^ bitsOf c.w.w3 24 2 + 8 * bitsOf c.w.w3 16 8
          let live := routerAt m.slotLen x (jesdLatency false x.link fun k => (m.reg k).getD 0).toNat c.issue e
          (List.range n).all fun k => !live.contains (first (-(bitsOf c.w.w2 28 2 : Int)) (bitsOf c.w.w2 12 16) k x.rlen)
      | none => true
    else if c.opcode = 0x81 then
      match v.tx.find? fun x => x.1 == chan with
      | some (_, x) =>
          let live := routerAt m.slotLen x (-((jesdLatency true x.link fun k => (m.reg k).getD 0).toNat : Int)) c.issue e
          (List.range (2 ^ bitsOf c.w.w2 0 4 + bitsOf c.w.w3 16 12)).all fun k =>
            !live.contains (first (bitsOf c.w.w6 16 2) (bitsOf c.w.w6 0 16) k x.rlen)
      | none => true
    else true

/-- The RADIO channel tables of a variant. -/
def Image.radioOk (m : Image) (v : Variant) : Bool :=
  decide (v.rx.length ≤ 64) && decide (v.tx.length ≤ 64) && ringsOk ((v.rx ++ v.tx).map (·.2)) &&
    m.linksOk Reg.JRX_CFG0 Reg.JRX_CFG1 v.rx && m.linksOk Reg.JTX_CFG0 Reg.JTX_CFG1 v.tx &&
    v.plans.all fun p => (m.work p).length == p.lists.length && ((p.lists.zip (m.work p)).all fun x => m.routerOk v x.1 x.2.stop)

/-! ## Scratchpad (R266, R452) -/

/-- What a byte is for; one that the image does not list belongs to the data plane (DESIGN CHOICE, log entry 118). -/
def ImageContent.useOf (c : ImageContent) (r a : Nat) : PadUse × Bool :=
  match c.uses.find? fun u => u.region == r && decide (u.addr ≤ a) && decide (a < u.addr + u.size) with
  | some u => (u.use, u.kept)
  | none => (.data, false)

/-- A run of bytes that a stream reads or writes, with the cycle of its planned access. -/
structure PadAccess where
  region : Nat
  addr : Nat
  size : Nat
  cycle : Nat
  write : Bool
  deriving DecidableEq, Repr

/-- The scratchpad accesses of a list of blocks whose first access falls at a cycle: one unit after the other, as many in a
cycle as lie in one line (R271, R277). -/
def blockAccesses (r : Nat) (bs : List Block) (t : Nat) (write : Bool) : List PadAccess :=
  (bs.foldl (fun (x : List PadAccess × Nat) b =>
    if b.space = 1 then x
    else
      let u : Nat := 2 ^ b.usz
      let n := b.cnt0 * b.cnt1 * b.cnt2 * b.cnt3
      let per : Nat := if b.str0 = (u : Int) then max 1 (64 / u) else 1
      (x.1 ++ (List.range n).map (fun (i : Nat) => (
        ⟨if b.space = 2 then b.region else r, (b.byteAddr (i * u)).toNat, u, x.2 + i / per, write⟩ : PadAccess)),
        x.2 + blockLines b))
    ([], t)).1

/-- The scratchpad accesses of an ARM with static lists. -/
def Image.accesses (m : Image) (c : Cmd) : List PadAccess :=
  match if c.cls = 5 then m.armBlocks c else none with
  | some (bs, ds) =>
      let copy := bitsOf c.w.w4 16 6 == 0x3F
      blockAccesses c.region bs (c.issue + 4) (bitOf c.w.w3 9 && !copy) ++ blockAccesses c.region ds (c.issue + 9) true
  | none => []

/-- The scratchpad addresses at which a command without a Ladle writes: FFT, FIR, CODE, UPRX, L2RX, RECV. -/
def Cmd.writesAt (c : Cmd) : Option (Nat × Nat) :=
  match c.opcode with
  | 0x80 | 0x82 => some (bitsOf c.w.w6 25 3, bitsOf c.w.w6 0 25)
  | 0x90 | 0x91 | 0x92 | 0x93 | 0x94 | 0x95 => some (bitsOf c.w.w5 25 3, bitsOf c.w.w5 0 25)
  | 0xA0 | 0xA4 => some (bitsOf c.w.w4 25 3, bitsOf c.w.w4 0 25)
  | 0xB1 => if bitOf c.w.w2 28 then none else some (bitsOf c.w.w2 25 3, bitsOf c.w.w2 0 25)
  | _ => none

/-- Whether a byte lies in the area that a command without a Ladle fills: to the end of the area that its address is in. -/
def ImageContent.fills (x : ImageContent) (c : Cmd) (r a : Nat) : Bool :=
  match c.writesAt with
  | some (q, b) => q == r && decide (b ≤ a) && match x.uses.find? fun u => u.region == q && decide (u.addr ≤ b) && decide (b < u.addr + u.size) with
    | some u => decide (a < u.addr + u.size)
    | none => true
  | none => false

/-- Items 1 and 2 of R266. -/
def Image.usesOk (m : Image) (c : Cmd) : Bool :=
  (m.accesses c).all fun x => (List.range x.size).all fun i =>
    let u := (m.content.useOf x.region (x.addr + i)).1
    if c.elastic then !x.write || u == .elastic else u != .elastic

/-- Whether two accesses meet on a byte in one cycle, one of them a write (R266 item 3). -/
def PadAccess.collides (a b : PadAccess) : Bool :=
  a.region == b.region && (a.write || b.write) && a.cycle == b.cycle && decide (a.addr < b.addr + b.size) &&
    decide (b.addr < a.addr + a.size)

/-- Item 3 of R266: no two commands of a plan collide. -/
def Image.collisionsOk (m : Image) : List Cmd → Bool
  | [] => true
  | c :: cs => (cs.all fun d => (m.accesses c).all fun a => !(m.accesses d).any a.collides) && m.collisionsOk cs

/-- Item 4 of R266: every byte that the data plane reads is retained or loaded, or written by another plan of the variant,
or earlier in the slot. -/
def Image.readsOk (m : Image) (v : Variant) (i : Nat) (p : Plan) : Bool :=
  let others := (List.range v.plans.length).flatMap fun k => if k = i then [] else (v.plans.getD k {}).lists
  let writes (cs : List Cmd) : List PadAccess := cs.flatMap fun c => (m.accesses c).filter PadAccess.write
  let far := writes others
  let near := writes p.lists
  p.lists.all fun c => (m.accesses c).all fun x => x.write || (List.range x.size).all fun k =>
    let a := x.addr + k
    let covers (y : PadAccess) : Bool := y.region == x.region && decide (y.addr ≤ a) && decide (a < y.addr + y.size)
    (m.content.useOf x.region a).2 || (m.padBytes x.region a 1).isSome || far.any covers ||
      (near.any fun y => covers y && decide (y.cycle < x.cycle)) ||
      (others.any fun d => m.content.fills d x.region a) ||
      (p.lists.any fun d => m.content.fills d x.region a && decide (d.issue < x.cycle))

/-- Buffers of a plan share no granule (R452). -/
def granulesApart : List PlanBuf → Bool
  | [] => true
  | b :: bs => (bs.all fun d => d.memRegion != b.memRegion ||
      apart (b.addr / 256) (max 1 b.granules) (d.addr / 256) (max 1 d.granules)) && granulesApart bs

/-! ## Twin (R82, R89, R490, R491, R497) -/

/-- SENDs whose windows begin early enough (R490). -/
def sendsOk (p : Plan) : Bool :=
  let sends := p.lists.filter fun c => c.cls == 11 && c.opcode == 0xB0
  (List.range sends.length).all fun i =>
    let c := sends.getD i {}
    let before := ((sends.take i).map fun d => bitsOf d.w.w4 0 16).sum
    bitsOf c.w.w4 0 16 == 0 || match p.granuleCycle before with
      | some t => decide (c.issue + 64 ≤ t)
      | none => true

/-- The cycle after which the partner's granules of a tag have all left (R491). -/
def Plan.sentBy (q : Plan) (tag : Nat) : Option Nat :=
  let sends := q.lists.filter fun c => c.cls == 11 && c.opcode == 0xB0
  ((List.range sends.length).find? fun i => bitsOf (sends.getD i {}).w.w5 0 12 == tag).bind fun i =>
    q.granuleCycle ((((sends.take (i + 1)).map fun d => bitsOf d.w.w4 0 16).sum) - 1)

/-- RECVs wait for their partner's window and the latency, and the staging memory of 16,384 granules holds what has left and
is not taken (R491). -/
def recvsOk (p q : Plan) (latmax : Nat) : Bool :=
  let recvs := p.lists.filter fun c => c.cls == 11 && c.opcode == 0xB1
  let left := q.granuleSlots.map fun e => 64 * e.1 + e.2
  (recvs.all fun c => match q.sentBy (bitsOf c.w.w6 0 12) with
    | some t => decide (t + latmax ≤ c.issue)
    | none => true) &&
  left.all fun t => decide ((left.filter fun x => decide (x ≤ t)).length ≤ 16384 +
    ((recvs.filter fun c => decide (c.issue + bitsOf c.w.w4 0 16 ≤ t)).map fun c => bitsOf c.w.w4 0 16).sum)

/-- The pairs of a twin image (R89, R491): under MATCH the partition records of the reference variant, and the receptions
against the partner's plans. -/
def Image.pairsOk (m : Image) : Bool :=
  let vs := m.content.variants
  let ref := (vs.getD m.mvar {}).partition_
  vs.all fun v => match v.pair with
    | none => true
    | some q =>
        (m.ident != 1 || (v.partition_ == ref && (vs.getD q.peerVariant {}).partition_ == ref)) &&
        (List.range v.pattern.length).all fun i =>
          let w := vs.getD q.peerVariant {}
          recvsOk (v.plans.getD (v.pattern.getD i 0) {}) (w.plans.getD (w.pattern.getD (i % max 1 w.pattern.length) 0) {})
            (m.fld Reg.TWN_CFG 16 12)

/-! ## The ledger extract and the management programs (R464, R596) -/

/-- The control entries and the bank-port cycles that can carry nine granules to the extract buffer by cycle 16,384, and the
L2TX that sends it (R464). -/
def Image.extractOk (m : Image) (p : Plan) : Bool :=
  let r := m.fld Reg.LGR_XBUF 25 3
  let a := m.fld Reg.LGR_XBUF 0 25
  let frame := max 1 (m.fld Reg.SPN_FRAME 0 10)
  let reach := [0, 1].flatMap fun dir =>
    let h := hopsBetween 0 (regionStop r) dir
    (p.spine.filter fun x => x.stop == 0 && x.dir == dir).flatMap fun x =>
      x.active.flatMap fun e => if e.2.type = .control && decide (h ≤ e.2.hops) then
        (List.range (16384 / frame + 1)).filterMap fun k =>
          let t := deliveredAt (k * frame + e.1) h
          if t ≤ 16384 then some t else none
      else []
  let lines := (p.xbar.filter fun e => e.region == r && e.who == .spine).flatMap fun e =>
    e.cycles.filter fun c => decide (c ≤ 16384)
  let sends := p.lists.filter fun c => c.cls == 10 && c.opcode == 0xA3 &&
    (c.wbuf == m.fld Reg.LGR_XNUM 0 12 || c.deps.any fun d => d % 4096 == m.fld Reg.LGR_XNUM 0 12)
  decide (9 ≤ reach.length) && decide (36 ≤ lines.length) && decide (a + 2304 ≤ 0x1800000) && !sends.isEmpty &&
    sends.all fun c => decide (16384 ≤ c.issue)

/-- The steps of all programs, from the program table (R594). -/
def programSteps (store : List Byte) : Nat :=
  ((List.range 16).map fun i =>
    let w : Word := BitVec.ofNat 32 (leNat ((store.drop (8 * i)).take 4))
    if bitsOf w 0 2 = 0 then 0 else bitsOf w 16 8).sum

/-- The time of an epoch's telemetry and programs (R596). -/
def Image.programsOk (m : Image) : Bool :=
  decide ((m.fld Reg.MGT_TLMCFG 0 9 + programSteps m.store) * (2 * (m.fld Reg.SPN_FRAME 0 10 + 20)) ≤ 1500000)

/-! ## A whole image (R306, R553) -/

/-- The base ceilings of the domains that a variant powers (R516). -/
def ImageContent.baseOf (c : ImageContent) (v : Variant) : Nat :=
  ((c.ceilings.filter fun e => decide (21 ≤ e.1) ||
    (List.range 13).any fun r => v.regions.testBit r && (domainsOf r).contains e.1).map (·.2)).sum

/-- The largest sum of R516 over a variant's plans: what PWR.CAP.PEAK shows of it. -/
def ImageContent.peakOf (c : ImageContent) (v : Variant) : Nat :=
  (v.plans.map fun p => max (leavePeak (c.baseOf v) p.leave) (leavePeak (c.baseOf v) p.eleave)).foldl max 0

/-- The tables of one plan. -/
def Image.tablesOk (m : Image) (v : Variant) (p : Plan) : Bool :=
  let len := m.slotLen
  p.spineOk (m.fld Reg.SPN_FRAME 0 10) && p.controlOk && p.portsOk len && windowsOk p.hbm len &&
    (p.hbmExact.isEmpty || windowsOk p.hbmExact len) && banksOk p.hbm (len / 4) (m.placed p) &&
    p.elasticOk len (m.fld Reg.ELS_NPMAX 0 20) (m.work p) &&
    p.leaveOk len (m.content.baseOf v) (m.fld Reg.PWR_CAP 0 13) && m.coveredOk p && m.content.budgetsOk p &&
    m.lastCyclesOk p && granulesApart p.bufs && sendsOk p && m.extractOk p

/-- The data-plane lists of one plan; `tiles` gives what may stand loaded as it begins. -/
def Image.listsOk (m : Image) (p : Plan) (tiles : Nat → Nat → List (Nat × Nat × Nat × Bool)) : Bool :=
  (p.lists.all fun c => m.commandOk c && m.planeOk c && m.armOk c && m.usesOk c) && p.issuesOk m.slotLen &&
    arrayListOk p.lists tiles && ladlesOk [] p.lists && m.collisionsOk p.lists &&
    crs.all fun r => (List.range 4).all fun a => afterWindowsOk p r a (ofEngine p.lists 1 r a)

/-- The tiles that may stand loaded as a pattern entry of a variant begins (R148): from the entry before it, and from every
plan of the variants from which a switch can come. -/
def Image.tilesBefore (m : Image) (v i r a : Nat) : List (Nat × Nat × Nat × Bool) :=
  let vs := m.content.variants
  let x := vs.getD v {}
  let n := max 1 x.pattern.length
  let own := ((List.range n).filter fun k => x.pattern.getD ((k + 1) % n) 0 == i).filterMap fun k =>
    (x.plans.getD (x.pattern.getD k 0) {}).leavesTile r a
  own ++ (List.range vs.length).flatMap fun k => if k = v then [] else
    (vs.getD k {}).plans.filterMap fun p => p.leavesTile r a

/-- The refresh gaps from slot to slot of a variant and at a switch (R290 rule 2, R291). -/
def Image.refreshOk (m : Image) : Bool :=
  let vs := m.content.variants
  let n := m.slotLen / 4
  vs.all fun u => ((List.range u.pattern.length).all fun i =>
      refreshGapOk (u.plans.getD (u.pattern.getD i 0) {}).hbm
        (u.plans.getD (u.pattern.getD ((i + 1) % max 1 u.pattern.length) 0) {}).hbm n) &&
    vs.all fun v => u == v || u.plans.all fun p => v.plans.all fun q => refreshGapOk p.hbm q.hbm n

/-- The pattern table of a variant (R307). -/
def Image.patternOk (m : Image) (v : Variant) : Bool :=
  let frame := 16000000 / max 1 m.slotLen
  decide (1 ≤ v.pattern.length) && decide (v.pattern.length ≤ 80) && frame % v.pattern.length == 0 &&
    decide (v.plans.length ≤ 64) && v.pattern.all fun i => decide (i < v.plans.length)

/-- Whether one context's list is accepted. -/
def Image.contextOk (m : Image) (e : Nat × CtxImage) : Bool :=
  let cs := e.2.list
  e.2.listOk e.1 && (cs.all fun c => m.commandOk c && m.planeOk c && m.armOk c && m.usesOk c && c.gradientOk) &&
    arrayListOk cs (fun _ _ => []) && ladlesOk [] cs && accumsOk cs && durationsOk cs (m.fld Reg.ELS_NPMAX 0 20)

/-- The image as the loader writes it: with the peak that the proof of each variant gives (R516). -/
def ImageContent.proved (c : ImageContent) : ImageContent :=
  { c with variants := c.variants.map fun (v : Variant) => { v with peak := c.peakOf v } }

/-- The position of a failing element, with the type of the section that holds it. -/
def firstBad (type : Nat) (oks : List Bool) : List (Nat × Nat) :=
  match (List.range oks.length).find? fun i => !oks.getD i true with
  | some i => [(type, i)]
  | none => []

/-- The failures of an image, each as the type of its section and its item (R553): register values; variants, plan by plan,
and contexts, of the plan store; the loader record; the management program store. Which item a failure names is the model's
choice (DESIGN CHOICE, log entry 25). -/
def Image.failures (m : Image) : List (Nat × Nat) :=
  let c := m.content
  let vs := c.variants
  firstBad 4 [m.valuesOk, m.ticksOk, m.exactOk, decide (m.fld Reg.TWN_CFG 16 12 ≤ 2048)] ++
  firstBad 1 ((List.range vs.length).flatMap fun v =>
    let x := vs.getD v {}
    [m.patternOk x && m.radioOk x] ++ (List.range x.plans.length).map fun i =>
      let p := x.plans.getD i {}
      m.tablesOk x p && m.listsOk p (m.tilesBefore v i) && m.readsOk x i p) ++
  firstBad 1 (c.ctxs.map m.contextOk) ++
  firstBad 1 [c.storesOk, tensorsOk (c.ctxs.flatMap fun e => e.2.list), m.refreshOk, m.pairsOk] ++
  firstBad 7 (c.weights.tensors.map fun t => [1, 5].contains t.fmt) ++
  firstBad 8 [m.programsOk]

end Sys2Proof.Machine
end

