-- ==== Sys2Proof/Machine/Radio.lean ====
section
/-! DEFINITION. RADIO beside the transform engines (R338 to R349, R361 to R375): JESD204C links, samples,
gain loops, NCOs and the steering port. -/

namespace Sys2Proof.Machine

open Sys2Proof

/-- A control or data event at RADIO, while its gates are open (R46). -/
def State.onRadio (s : State) (f : State → State) : State := if s.served 8 then f s else s

/-- The present cycle, counted from the data-plane start. -/
def State.absCycle (s : State) (cc : Nat) : Nat := s.slot * s.slotLen + cc

/-- The absolute cycle of the symbol tick `k` of the running slot; `k` may run into later slots (R65). -/
def State.symbolCycle (s : State) (k : Nat) : Nat :=
  let n := max 1 (s.fld Reg.TCK_SYMS 0 4)
  (s.slot + k / n) * s.slotLen + s.fld (Reg.TCK_SYMOFF (k % n)) 0 21

/-- The number, in the running slot, of the first symbol tick at or after an absolute cycle, among this
slot and the next. -/
def State.symbolAfter (s : State) (t : Nat) : Nat :=
  let n := max 1 (s.fld Reg.TCK_SYMS 0 4)
  ((List.range (2 * n)).find? fun k => decide (t ≤ s.symbolCycle k)).getD (2 * n)

/-! ## The steering port (R366 to R369) -/

/-- A lane. -/
def State.lane (s : State) (l : Nat) : SteerLane := SMap.read {} s.radio.lanes l

/-- The state with a lane replaced. -/
def State.setLane (s : State) (l : Nat) (x : SteerLane) : State :=
  { s with radio := { s.radio with lanes := SMap.write {} s.radio.lanes l x } }

/-- The location of a steering lane (R51). -/
def laneLoc (l : Nat) : BitVec 64 := cellLoc 8 0x15 0 l 0xFF

/-- The state with a gain loop replaced. -/
def State.setLoop (s : State) (l : Nat) (x : GainLoop) : State :=
  { s with radio := { s.radio with loops := SMap.write {} s.radio.loops l x } }

/-- Queues a word (R362, R365, R366, R369): `true` when the lane holds it. Apply times round up to a
multiple of 4 cc. -/
def State.queueWord (s : State) (w : SteerWord) : Bool × State :=
  let l := w.dest / 16
  let w := { w with time := (w.time + 3) / 4 * 4 }
  if !s.bit Reg.STP_CFG l then (false, s)
  else
    let x := s.lane l
    if 64 ≤ x.queue.length then
      (false, (s.bump Reg.STP_ERR 16 16 1).raise 0x0604 .detected (laneLoc l) 0 0)
    else
      let s := s.setLane l { x with queue := x.queue ++ [w] }
      let depth := x.queue.length + 1
      (true, if s.fld Reg.STP_STAT 0 8 < depth then s.setFld Reg.STP_STAT 0 8 depth else s)

/-- The 84 bits of a frame above its CRC (R367), as a number. -/
def frameHead (type dest time data seq : Nat) : Nat :=
  type % 16 * 2 ^ 80 + dest % 64 * 2 ^ 74 + time % 2 ^ 22 * 2 ^ 52 + data % 2 ^ 32 * 2 ^ 20
    + seq % 256 * 2 ^ 12

/-- A frame with its CRC-16 over bits [99:16] in sending order (R367). -/
def steerFrame (type dest time data seq : Nat) : BitVec 100 :=
  let h := frameHead type dest time data seq
  let bits := (List.range 84).map fun i => h.testBit (83 - i)
  BitVec.ofNat 100 (h * 2 ^ 16 + crcBits 16 0x1021 0xFFFF bits)

/-- Whether one queued word goes before another (R368): the earlier apply time, then gain words, then the
lower destination. -/
def SteerWord.goesBefore (a b : SteerWord) : Bool :=
  decide (a.time < b.time) || (decide (a.time = b.time) &&
    ((a.type == 1 && b.type != 1) || ((a.type == 1) == (b.type == 1) && decide (a.dest < b.dest))))

/-- The word that goes first. -/
def firstWord : List SteerWord → Option SteerWord
  | [] => none
  | w :: ws => match firstWord ws with
    | none => some w
    | some v => if v.goesBefore w then some v else some w

/-- Takes a gain word out of its loop's list of words that wait for their apply time. -/
def State.dropGainWord (s : State) (w : SteerWord) : State :=
  if w.type = 1 then
    let x := s.loop w.dest
    s.setLoop w.dest { x with words := x.words.filter fun e => e.1 != w.time }
  else s

/-- One lane in one frame (R366 to R369); `fin` is the absolute cycle of the frame's end. -/
def State.laneFrame (s : State) (k fin l : Nat) : State :=
  let x := s.lane l
  if !s.bit Reg.STP_CFG l then s.setLane l { x with last := none }
  else if k = 0 then s.setLane l { x with last := some (steerFrame 0xE 0x3F 0 s.slot x.seq) }
  else if k % 100 = 0 then s.setLane l { x with last := some (steerFrame 0xF 0x3F 0 (0xA55A0000 + k) x.seq) }
  else
    let late := x.queue.filter fun w => decide (w.time < fin + 64)
    let s := late.foldl (fun s w =>
      ((s.bump Reg.STP_ERR 0 16 1).raise 0x0605 .masked (laneLoc l) 0 0).dropGainWord w) s
    let rest := x.queue.filter fun w => !decide (w.time < fin + 64)
    match firstWord (rest.filter fun w => decide ((w.time - fin) / 4 ≤ 4194303)) with
    | none => s.setLane l { x with queue := rest, last := some (steerFrame 0 0x3F 0 0 x.seq) }
    | some w =>
        let total := s.radio.sent + 1
        let s := s.setLane l { queue := rest.erase w, seq := (x.seq + 1) % 256
                               last := some (steerFrame w.type w.dest ((w.time - fin) / 4) w.data.toNat x.seq) }
        let s := { s with radio := { s.radio with sent := total % 256 } }
        s.bumpIf (total = 256) Reg.STP_STAT 16 16 1

/-- The frames that looped steering lanes check (R605, R606, R615). -/
def State.checkLooped (s : State) : State :=
  let n := ((List.range 4).filter fun l => s.bit Reg.STP_LPBK (8 + l)).length
  let k := s.test.steered + n
  let s := { s with test := { s.test with steered := k % 256 } }
  s.bump Reg.STP_LPCNT 0 16 (k / 256)

/-- STEERING_FRAME (R366, R368): frame `k` of the slot, on every lane. -/
def State.steeringFrame (s : State) (k : Nat) : State :=
  if !s.clock.running || s.slotLen / 400 ≤ k then s
  else
    let s := s.reach (400 * k)
    let s := s.checkLooped
    (List.range 4).foldl (fun s l => s.laneFrame k (s.absCycle (400 * k + 400)) l) s

/-! ## NCOs (R364, R365) -/

/-- Adds to NCO.DELTA, saturating (R365, R373). -/
def State.addDelta (s : State) (n : Nat) (v : Int) : State :=
  let d := (s.reg (Reg.NCO_DELTA n)).toInt + v
  s.setReg (Reg.NCO_DELTA n) (BitVec.ofInt 32 (max (-(2 ^ 31)) (min (2 ^ 31 - 1) d)))

/-- Adds to NCO.TOFF, within ±2,048 (R365, R373). -/
def State.addToff (s : State) (n : Nat) (v : Int) : State :=
  s.setFld (Reg.NCO_TOFF n) 0 16 (wrapBits 16 (max (-2048) (min 2048 (s.sfld (Reg.NCO_TOFF n) 0 16 + v))))

/-- Applies the steps of an NCO that are due by an absolute cycle, of kind 1 or 2. -/
def State.settleSteps (s : State) (n kind t : Nat) : State :=
  let due (x : NcoStep) : Bool := x.target == n && x.kind == kind && decide (x.time ≤ t)
  let mine := s.radio.steps.filter due
  let s := { s with radio := { s.radio with steps := s.radio.steps.filter fun x => !due x } }
  mine.foldl (fun s x => if kind = 1 then s.addDelta n x.value else s.addToff n x.value) s

/-- One STEER record (R365) from its four words. -/
def State.steerRecord (s : State) (w0 w1 w2 : Word) : State :=
  let kind := bitsOf w0 0 4
  let target := bitsOf w0 4 6
  let value := w1.toInt
  let at_ := s.absCycle (bitsOf w2 0 21 + (if bitOf w2 21 then s.slotLen else 0))
  let now := s.absCycle s.clock.cc
  let refuse (s : State) := s.bump Reg.STP_STAT 8 8 1
  match kind with
  | 1 =>
      if 16 ≤ target then refuse s
      else if at_ ≤ now then s.addDelta target value
      else { s with radio := { s.radio with steps := s.radio.steps ++ [⟨1, target, value, at_⟩] } }
  | 2 =>
      if 16 ≤ target || 16 < value.natAbs then refuse s
      else if at_ ≤ now then s.addToff target value
      else { s with radio := { s.radio with
        steps := s.radio.steps ++ [⟨2, target, value, s.symbolCycle (s.symbolAfter at_)⟩] } }
  | 3 => (s.queueWord ⟨2, target, at_, w1⟩).2
  | 4 => (s.queueWord ⟨3, target, at_, w1⟩).2
  | _ => refuse s

/-- STEER (R351, R357, R365): its records in order; the records of a granule that fails are not acted on. -/
def State.steer (s : State) (c : Cmd) : State :=
  let (i, s) := s.issueTe c
  if !i.go then s
  else
    let n := bitsOf c.w.w2 16 8
    let a := bitsOf c.w.w2 0 16
    let finish := if n = 0 then i.t + 1 else i.t + 4 * n + 8
    let (src, s) := s.teTake c.unit ((List.range (4 * n)).map fun k => teKey c.unit 0 (a + k))
    let s := (List.range n).foldl (fun s k =>
      let w (j : Nat) := s.teRead (teKey c.unit 0 (a + 4 * k + j))
      if src.cause = 0 then s.steerRecord (w 0) (w 1) (w 2) else s) s
    let s := if n = 0 then s else s.teBusy c.unit finish (finish - i.t)
    s.track c i 0 finish []

/-- An NCO's phase at an absolute sample number, advanced by FREQ per sample (R364). -/
def State.ncoPhase (s : State) (n a : Nat) : Word × State :=
  let x := SMap.read {} s.radio.ncos n
  let freq : Int := (s.reg (Reg.NCO_BASE n)).toInt + (s.reg (Reg.NCO_DELTA n)).toInt
  let p := x.phase + BitVec.ofInt 32 (freq * ((a : Int) - x.at_))
  (p, { s with radio := { s.radio with ncos := SMap.write {} s.radio.ncos n ⟨p, a⟩ } })

/-- A part of a product, rounded once (R364); one outside 16 bits has no stated value and is free. -/
def State.mixPart (s : State) (v : Int) : Int × State :=
  let r := rne v 16
  if -32768 ≤ r ∧ r ≤ 32767 then (r, s)
  else
    let (vs, s) := s.draw 1
    (signBits 16 (vs.getD 0 0).toNat, s)

/-- A sample through the NCO of its channel (R364): by e^−jφ on receive, e^+jφ on transmit. -/
def State.mix (s : State) (ch : RadioChan) (slot j : Nat) (p : Pair) (rx : Bool) : Pair × State :=
  match ch.nco with
  | none => (p, s)
  | some n =>
      let s := s.settleSteps n 1 (slot * s.slotLen + s.sampleCycle j)
      let (ph, s) := s.ncoPhase n (slot * slotSamples + j)
      if !s.bit (Reg.NCO_CTL n) 0 then (p, s)
      else
        let (c, d) := cosSin ph.toNat (2 ^ 32)
        let d := if rx then -d else d
        let (re, s) := s.mixPart (p.1 * c - p.2 * d)
        let (im, s) := s.mixPart (p.1 * d + p.2 * c)
        ((re, im), s)

/-! ## Links and samples (R339 to R348) -/

/-- A link's state register. -/
def linkStat (tx : Bool) (n : Nat) : Nat := if tx then Reg.JTX_STAT n else Reg.JRX_STAT n
def linkErr (tx : Bool) (n : Nat) : Nat := if tx then Reg.JTX_ERR n else Reg.JRX_ERR n

/-- A link enters its data state, and its latency stands (R344). -/
def State.enterData (s : State) (tx : Bool) (n : Nat) : State :=
  (s.setFld (linkStat tx n) 0 3 4).setFld (linkStat tx n) 16 16 (jesdLatency tx n s.reg).toNat

/-- The location of a link: its logical lane 0 (R51, R341). -/
def State.linkLoc (s : State) (tx : Bool) (n : Nat) : BitVec 64 :=
  let lanes := s.fld (if tx then Reg.JTX_CFG0 n else Reg.JRX_CFG0 n) 0 24
  blockLoc 8 (if tx then 0x12 else 0x11) (((List.range 24).find? fun i => lanes.testBit i).getD 0)

/-- The converter's code of a sample part, left-justified in 16 bits (R339). -/
def State.justify (s : State) (link code : Nat) : Int :=
  let n := match s.fld (Reg.JRX_CFG1 link) 6 2 with
    | 0 => 12
    | 1 => 14
    | _ => 16
  signBits 16 (code % 2 ^ n * 2 ^ (16 - n))

/-- A sample enters the power detector (R361). -/
def State.detect (s : State) (c : Nat) (p : Pair) : State :=
  let x := s.loop c
  s.setLoop c { x with sum := x.sum + p.1.natAbs ^ 2 + p.2.natAbs ^ 2, count := x.count + 1 }

/-- The slot and number of a sample that a link numbers `j` in slot `slot`, with JRX.CFG2.OFS or JTX.CFG2.OFS (R344). -/
def State.renumber (s : State) (tx : Bool) (link slot j : Nat) : Nat × Nat :=
  let n : Int := ((slot * slotSamples + j : Nat) : Int) + s.sfld (if tx then Reg.JTX_CFG2 link else Reg.JRX_CFG2 link) 16 16
  (((n / slotSamples) % 2 ^ 32).toNat, (n % slotSamples).toNat)

/-- RECEIVE_SAMPLE (R339, R345 to R348): sample `j` of slot `slot` of receive channel `c` as its link's
deframer counts it, before the offset of R344. A link that is not in its data state gives zeros, marked void; a channel that
the variant's table does not name has no path. -/
def State.receiveSample (s : State) (c slot j re im : Nat) : State :=
  if !s.clock.running || !((s.variant s.active).rx.any fun e => e.1 == c) then s
  else
    let ch := s.rxChan c
    let (slot, j) := s.renumber false ch.link slot j
    let lat := s.fld (Reg.JRX_STAT ch.link) 16 16
    let s := if slot = s.slot then s.reach (s.sampleCycle j + lat) else s
    let up := s.fld (Reg.JRX_STAT ch.link) 0 3 = 4
    let p : Pair := if up then (s.justify ch.link re, s.justify ch.link im) else (0, 0)
    let (p, s) := s.mix ch slot j p true
    let p := if up then p else (0, 0)
    let s := s.detect c p
    let a := s.ringAddr ch slot j
    let k := teKey ch.engine 0 a
    let s := s.teWrite k (wordOf p)
    let g := k / 64
    let s := if a % 64 = 0 then s.teSetVoid g 0 else s
    let s := if up then s else s.teSetVoid g 0x0603
    let s := if s.lostLock 24 then s.teSetVoid g 0x0B06 else s
    if a % 64 = 63 then s.teMark g else s

/-- Whether every sample of the granule of ring address `a`, sample number `n`, has been written by an IFFT
that has completed by the present cycle (R345). -/
def State.granuleDone (s : State) (c a n : Nat) : Bool :=
  let spans := SMap.read [] s.radio.spans c
  (List.range 64).all fun o =>
    let m := n + o - a % 64
    spans.any fun x => decide (x.first ≤ m) && decide (m < x.first + x.count)
      && (x.slot != s.slot || decide (x.finish ≤ s.clock.cc))

/-- TRANSMIT_SAMPLE (R344 to R346, R348, R458, R466, R494): the router reads sample `j` of slot `slot`, as its link counts it,
of transmit channel `c` for its link; `buf` is the symbol buffer that the plan gives it. -/
def State.transmitSample (s : State) (c slot j buf : Nat) : State :=
  let ch := s.txChan c
  let send (s : State) (p : Pair) : State :=
    { s with radio := { s.radio with out := SMap.write 0 s.radio.out c (wordOf (if s.isShadow then (0, 0) else p)) } }
  if !((s.variant s.active).tx.any fun e => e.1 == c) then s
  else if !s.clock.running || s.fatalIdle || s.fld (Reg.JTX_STAT ch.link) 0 3 != 4 then send s (0, 0)
  else
    let (slot, j) := s.renumber true ch.link slot j
    let lat := s.fld (Reg.JTX_STAT ch.link) 16 16
    let t := s.sampleCycle j - lat
    let s := if slot = s.slot then s.reach t else s
    let a := s.ringAddr ch slot j
    let k := teKey ch.engine 0 a
    let n := slot * slotSamples + j
    let first := a % 64 == 0
    if !s.granuleDone c a n then
      let s := if first then
        ((s.bump Reg.RAD_CNT 16 16 1).breach none (teLoc ch.engine) 0 t 0).voidBuf none 8 buf 0x0301
        else s
      send s (0, 0)
    else if SMap.read 0 s.mem.teVoid (k / 64) != 0 || !s.teOk (k / 64) then
      let s := if first then
        (s.blockRaise 8 0x10 ch.engine 0x0201 (teLoc ch.engine)
          (SMap.read 0 s.mem.teHall (k / 64)).toNat (hc (s.teBytes (k / 64))).toNat).voidBuf none 8 buf
            0x0201
        else s
      send s (0, 0)
    else
      let (p, s) := s.mix ch slot j (pairOf (s.teRead k)) false
      send s p

/-- Marks the ring granules that hold `n` samples from sample `j` of a slot void, on every receive channel
of a link. -/
def State.voidSamples (s : State) (link slot j n cause : Nat) : State :=
  (s.variant s.active).rx.foldl (fun s e =>
    if e.2.link = link then
      (dedupRuns ((List.range n).map fun i => teKey e.2.engine 0 (s.ringAddr e.2 slot (j + i)) / 64)).foldl
        (fun s g => s.teSetVoid g cause) s
    else s) s

/-- JESD_LINK_CRC (R345): a CRC-12 mismatch over a multiblock of `n` samples per channel. -/
def State.linkCrc (s : State) (link slot j n : Nat) : State :=
  let s := s.voidSamples link slot j n 0x0602
  (s.bump (Reg.JRX_ERR link) 0 8 1).raiseIf (!s.looped (.jesd link)) 0x0602 .detected
    (s.linkLoc false link) 0 0

/-- JESD_LINK_DOWN (R345): sync header lock lost, or an elastic buffer overrun or underrun. -/
def State.linkDown (s : State) (tx : Bool) (link : Nat) (elastic : Bool) : State :=
  let s := s.setFld (linkStat tx link) 0 3 0
  let s := s.bump (linkErr tx link) (if elastic then 16 else 8) 8 1
  s.raiseIf (!s.looped (.jesd link)) 0x0603 .detected (s.linkLoc tx link) 0 0

/-- RELOCK (R345): the link is aligned to the established LEMC; its data state begins at the next symbol
tick. -/
def State.relock (s : State) (tx : Bool) (link : Nat) : State :=
  if s.fld (linkStat tx link) 0 3 = 4 || !s.bit Reg.RAD_SYSREF 1 then s
  else (s.setFld (linkStat tx link) 0 3 3).bump (linkErr tx link) 24 8 1

/-- SYSREF_EDGE (R342, R343): `off` is whether it lies more than one device-clock period from an LEMC
boundary, and `t` the instant of the edge. The first edge that the device has asked for aligns LEMC, and the
links that are ready enter their data state. -/
def State.sysrefEdge (s : State) (off : Bool) (t : Nat) : State :=
  let s := s.wrapAdd Reg.RAD_SYSREF 8 8 1
  if !s.bit Reg.RAD_SYSREF 1 then
    if s.pins.sysrefReq then
      let s := s.setBit Reg.RAD_SYSREF 1 true
      let s := { s with
        pins := { s.pins with sysrefReq := false }
        start := { s.start with lemcAt := some t }
        clock := { s.clock with tu := if s.started then s.clock.tu else max s.clock.tu t } }
      (List.range 16).foldl (fun s i =>
        let r := linkStat (decide (8 ≤ i)) (i % 8)
        if s.fld r 0 3 = 3 then s.enterData (decide (8 ≤ i)) (i % 8) else if s.fld r 0 3 = 2 then s.setFld r 0 3 3 else s) s
    else s
  else if s.clock.running && s.bit Reg.RAD_SYSREF 0 && off then
    (s.bump Reg.RAD_SYSREF 16 8 1).raise 0x0601 .detected (regionLoc 8) 0 0
  else s

/-! ## Gain loops (R361 to R363) -/

/-- Whether a loop is in manual mode (R363). -/
def State.manual (s : State) (l : Nat) : Bool := s.bit (winKey l Reg.AGC_CFG) 28

/-- The attenuation in force (R361, R363). -/
def State.attOf (s : State) (l : Nat) : Nat :=
  if s.manual l then s.fld (winKey l Reg.AGC_MAN) 0 8 else (s.loop l).att

/-- The quarter-decibel steps below full scale of a window's mean power (R361). -/
def powerSteps (sum w : Nat) : Nat :=
  let full := 2 ^ (30 + w)
  let reaches (k : Nat) : Bool := decide (sum ^ 40 * 10 ^ k ≤ full ^ 40)
  let k := ((List.range 256).filter reaches).length - 1
  if sum = 0 || 255 ≤ k then 255
  else if sum ^ 40 * 10 ^ k = full ^ 40 then k
  else if Config.powerDown sum w then k else k + 1

/-- Withdraws the queued words of a loop whose apply time is later than a cycle (R363). -/
def State.withdraw (s : State) (l t : Nat) : State :=
  let x := s.lane (l / 16)
  let hit (w : SteerWord) : Bool := w.type == 1 && w.dest == l && decide (t < w.time)
  let gone := x.queue.filter hit
  let s := s.setLane (l / 16) { x with queue := x.queue.filter fun w => !hit w }
  let s := gone.foldl (fun s w => s.dropGainWord w) s
  s.bump (winKey l Reg.AGC_CNT) 24 8 gone.length

/-- Starts or lengthens a freeze (R363). -/
def State.freeze (s : State) (l t until_ : Nat) : State :=
  let s := s.withdraw l t
  let x := s.loop l
  s.setLoop l { x with frozen := true, frozenUntil := max x.frozenUntil until_ }

/-- Queues a loop's new attenuation (R362, R367), with whether the loop freezes as it applies; a newer decision replaces a
word that is still queued. -/
def State.queueGain (s : State) (l att time : Nat) (frozen : Bool) : State :=
  let x := s.lane (l / 16)
  let hit (w : SteerWord) : Bool := w.type == 1 && w.dest == l
  let old := x.queue.filter hit
  let s := s.setLane (l / 16) { x with queue := x.queue.filter fun w => !hit w }
  let s := old.foldl (fun s w => s.dropGainWord w) s
  let time := (time + 3) / 4 * 4
  let (ok, s) := s.queueWord ⟨1, l, time, BitVec.ofNat 32 (att + if frozen then 256 else 0)⟩
  if !ok then s
  else
    let s := s.bump (winKey l Reg.AGC_CNT) 0 16 1
    let x := s.loop l
    s.setLoop l { x with words := x.words ++ [(time, att)] }

/-- GAIN_WINDOW (R361 to R363): the end of a window of 2^W samples of loop `l`. -/
def State.gainWindow (s : State) (l : Nat) : State :=
  let r := winKey l Reg.AGC_CFG
  let w := s.fld r 8 4
  let x := s.loop l
  if x.count < 2 ^ w then s
  else
    let p := powerSteps x.sum w
    let rose := x.seen && s.bit r 29 && decide (p + 4 * s.fld r 20 4 ≤ x.lastP)
    let s := s.setLoop l { x with sum := 0, count := 0, lastP := p, seen := true }
    let s := s.setFld (winKey l Reg.AGC_STAT) 16 8 p
    if x.frozen || s.manual l then s
    else
      let e : Int := (s.fld r 0 8 : Int) - p
      let hyst : Int := s.fld r 12 4
      let att : Nat :=
        if hyst < e then min 255 (x.att + e.toNat)
        else if e < -hyst then x.att - min (s.fld r 16 4) (-e).toNat
        else x.att
      let k := s.symbolAfter (s.absCycle (s.clock.cc + 4 * s.fld Reg.STP_CFG 4 14))
      let time := s.symbolCycle k
      let s := if att = x.att then s else s.queueGain l att time rose
      if !rose then s
      else
        let s := s.bump (winKey l Reg.AGC_CNT) 16 8 1
        let x := s.loop l
        s.setLoop l { x with det := some (time, s.symbolCycle (k + s.fld r 24 4)) }

/-- GAIN_WORD_APPLY (R362): the words of a loop whose apply time has passed take effect. -/
def State.applyGain (s : State) (l t : Nat) : State :=
  let x := s.loop l
  let due := x.words.filter fun e => decide (e.1 ≤ t)
  let att := due.foldl (fun _ e => e.2) x.att
  let s := s.setLoop l { x with att := att, words := x.words.filter fun e => !decide (e.1 ≤ t) }
  s.setFld (winKey l Reg.AGC_STAT) 0 8 (s.attOf l)

/-- FREEZE_END (R363): the loop starts a fresh window. -/
def State.freezeEnd (s : State) (l t : Nat) : State :=
  let x := s.loop l
  if x.frozen && decide (x.frozenUntil ≤ t) then
    s.setLoop l { x with frozen := false, sum := 0, count := 0 }
  else s

/-- What a symbol tick does to a gain loop (R362, R363): words that are due, a freeze that a detection set,
a freeze of the plan, manual mode, and the symbol's gain record. -/
def State.loopSymbol (s : State) (l k : Nat) : State :=
  let t := s.symbolCycle k
  let s := s.applyGain l t
  let s := match (s.loop l).det with
    | some d => if d.1 ≤ t then
        let x := s.loop l
        (s.setLoop l { x with det := none }).freeze l t d.2
      else s
    | none => s
  let s := (s.curPlan.freezes.filter fun f => f.loop = l && f.symbol = k).foldl
    (fun s f => s.freeze l t (s.symbolCycle (k + f.length))) s
  let s := if s.manual l then
      let x := s.loop l
      (s.withdraw l t).setLoop l { x with att := s.attOf l, words := [], sum := 0, count := 0 }
    else s
  let x := s.loop l
  let rec_ := s.attOf l + (if x.frozen || s.manual l then 256 else 0) + 1
  let s := s.setLoop l { x with recs := SMap.write 0 x.recs (s.slot % 4 * 16 + k) rec_ }
  s.setFld (winKey l Reg.AGC_STAT) 0 8 (s.attOf l)

/-- SYMBOL_TICK (R65, R66, R345, R362 to R365): symbol tick `k` at RADIO. -/
def State.symbolTick (s : State) (k : Nat) : State :=
  if !s.clock.running || s.fld Reg.TCK_SYMS 0 4 ≤ k then s
  else
    let s := s.reach (s.fld (Reg.TCK_SYMOFF k) 0 21)
    s.onRadio fun s =>
      let s := (List.range 16).foldl (fun s n => s.settleSteps n 2 (s.symbolCycle k)) s
      let s := (List.range 64).foldl (fun s l => s.loopSymbol l k) s
      (List.range 16).foldl (fun s i =>
        let r := linkStat (decide (8 ≤ i)) (i % 8)
        if s.fld r 0 3 = 3 then s.enterData (decide (8 ≤ i)) (i % 8) else s) s

/-- NCO_CLEAR (R373): a committed CLRD sets DELTA and TOFF to 0. -/
def State.ncoClear (s : State) (n : Nat) : State :=
  if s.bit (Reg.NCO_CTL n) 1 then
    (s.zeroRegs [Reg.NCO_DELTA n, Reg.NCO_TOFF n]).setBit (Reg.NCO_CTL n) 1 false
  else s

def execSteer (c : Cmd) (s : State) : Host.Outcome State Fault Refusal :=
  admitted (Instr.steer c).wf (s.steer c)

def execSteeringFrame (frame : Nat) (s : State) : Host.Outcome State Fault Refusal :=
  .next (s.onRadio fun s => s.steeringFrame frame)

def execNcoDeltaUpdate (nco cycle : Nat) (s : State) : Host.Outcome State Fault Refusal :=
  .next (s.onRadio fun s => (s.reach cycle).settleSteps nco 1 (s.absCycle (max cycle s.clock.cc)))

def execNcoToffUpdate (nco cycle : Nat) (s : State) : Host.Outcome State Fault Refusal :=
  .next (s.onRadio fun s => (s.reach cycle).settleSteps nco 2 (s.absCycle (max cycle s.clock.cc)))

def execReceiveSample (chan slot sample re im : Nat) (s : State) : Host.Outcome State Fault Refusal :=
  .next (s.onRadio fun s => s.receiveSample chan slot sample re im)

def execTransmitSample (chan slot sample buf : Nat) (s : State) : Host.Outcome State Fault Refusal :=
  .next (s.onRadio fun s => s.transmitSample chan slot sample buf)

def execJesdLinkCrc (link slot sample count : Nat) (s : State) : Host.Outcome State Fault Refusal :=
  .next (s.onRadio fun s => s.linkCrc (link % 8) slot sample count)

def execJesdLinkDown (tx : Bool) (link : Nat) (elastic : Bool) (s : State) :
    Host.Outcome State Fault Refusal :=
  .next (s.onRadio fun s => s.linkDown tx (link % 8) elastic)

def execRelock (tx : Bool) (link : Nat) (s : State) : Host.Outcome State Fault Refusal :=
  .next (s.onRadio fun s => s.relock tx (link % 8))

def execSysrefEdge (off : Bool) (t : Nat) (s : State) : Host.Outcome State Fault Refusal :=
  .next (s.onRadio fun s => s.sysrefEdge off t)

def execGainWindow (loop : Nat) (s : State) : Host.Outcome State Fault Refusal :=
  .next (s.onRadio fun s => s.gainWindow loop)

def execGainWordApply (loop cycle : Nat) (s : State) : Host.Outcome State Fault Refusal :=
  .next (s.onRadio fun s => (s.reach cycle).applyGain loop (s.absCycle (max cycle s.clock.cc)))

def execFreezeEnd (loop cycle : Nat) (s : State) : Host.Outcome State Fault Refusal :=
  .next (s.onRadio fun s => (s.reach cycle).freezeEnd loop (s.absCycle (max cycle s.clock.cc)))

def execSymbolTick (symbol : Nat) (s : State) : Host.Outcome State Fault Refusal :=
  .next (s.symbolTick symbol)

def execNcoClear (nco : Nat) (s : State) : Host.Outcome State Fault Refusal :=
  .next (s.onRadio fun s => s.ncoClear (nco % 16))

end Sys2Proof.Machine
end

