-- ==== Sys2Proof/Machine/TimeUnit.lean ====
section
/-! DEFINITION. PTP and the time unit (R434 to R447): the transparent clock, the slave, time steps, triggers
and captures, and the frames that leave in free egress time (R419). -/

namespace Sys2Proof.Machine

open Sys2Proof

/-- A nanosecond in units of 2^-16 ns. -/
def nsTime : Nat := 2 ^ 16

/-- The state with the slave replaced. -/
def State.setSlave (s : State) (x : Slave) : State := { s with time := { s.time with slave := x } }

/-- TU.STAT.STATE: 0 FREERUN, 1 ACQUIRING, 2 LOCKED, 3 HOLDOVER (R438). -/
def State.tuState (s : State) : Nat := s.fld Reg.TU_STAT 0 2

/-- The state with TU.STAT.STATE replaced. -/
def State.setTuState (s : State) (v : Nat) : State := s.setFld Reg.TU_STAT 0 2 v

/-- Whether a step is pending (R439). -/
def State.stepPending (s : State) : Bool := s.bit Reg.TU_STAT 2

/-- An offset in whole nanoseconds, as a saturating register word; whether a part of a nanosecond rounds up is
a free value (log entry 33). -/
def State.nsWord (s : State) (o : Int) : Word × State :=
  let (f, s) := s.fresh
  let lo := o / nsTime
  let v := if o % nsTime = 0 then lo else if f.getLsbD 0 then lo + 1 else lo
  (BitVec.ofInt 32 (max (-(2 ^ 31)) (min (2 ^ 31 - 1) v)), s)

/-! ## The slave (R434, R438 to R440) -/

/-- The profile's comparison of two masters (log entry 31). -/
def MasterSet.better (a b : MasterSet) : Bool :=
  let key (x : MasterSet) : List Nat :=
    [x.cls, x.accuracy, x.variance, x.priority2] ++
      (if x.cls ≤ 127 then [x.steps, x.gm] else [x.gm, x.steps]) ++ [x.parent]
  decide (key a < key b)

/-- The best of the masters heard. -/
def bestMaster : List MasterSet → Option MasterSet
  | [] => none
  | x :: xs =>
      match bestMaster xs with
      | none => some x
      | some y => some (if y.better x then y else x)

/-- The median of four offsets. -/
def median4 (xs : List Int) : Int :=
  let hi := xs.foldl max (xs.headD 0)
  let lo := xs.foldl min (xs.headD 0)
  (xs.sum - hi - lo) / 2

/-- The pending offset and TU.PEND (R439). -/
def State.setPend (s : State) (o : Int) : State :=
  let (w, s) := s.nsWord o
  (s.setReg Reg.TU_PEND w).setSlave { s.time.slave with pend := o }

/-- No step is pending any more. -/
def State.clearPend (s : State) : State :=
  ((s.setReg Reg.TU_PEND 0).setBit Reg.TU_STAT 2 false).setSlave { s.time.slave with pend := 0 }

/-- An offset that the slave has measured (R438, R439). -/
def State.offsetMeasured (s : State) (o : Int) : State :=
  let (w, s) := s.nsWord o
  let s := s.setReg Reg.TU_OFS w
  let x := s.time.slave
  match x.judging with
  | some xs =>
      if xs.length < 3 then s.setSlave { x with judging := some (xs ++ [o]) }
      else
        let m := median4 (xs ++ [o])
        let s := s.setSlave { x with judging := none, good := 0 }
        if s.fld Reg.TU_STEP 0 24 * nsTime < m.natAbs then
          let s := ((s.setTuState 3).setBit Reg.TU_STAT 2 true).setPend m
          s.raise 0x0801 .detected (blockLoc 13 0x3E 0) (s.reg Reg.TU_PEND).toNat 0
        else s.clearPend.setTuState 1
  | none =>
      if s.stepPending then s.setPend o
      else
        let (f, s) := s.fresh
        let st := s.tuState
        let good := if o.natAbs ≤ 100 * nsTime then x.good + 1 else 0
        let s := if st = 3 then s else s.setSlave { x with freq := f, good := good }
        if st = 1 && decide (16 ≤ good) then s.setTuState 2 else s

/-- A received Announce feeds the selection of the master (R434, R438, R439). -/
def State.announceHeard (s : State) (d : MasterSet) : State :=
  let x := s.time.slave
  let heard := d :: x.heard.filter fun y => y.parent != d.parent
  let s := s.setSlave { x with heard := heard }
  match bestMaster heard with
  | none => s
  | some b =>
      match x.master with
      | none => (s.setSlave { s.time.slave with master := some b, good := 0 }).setTuState 1
      | some m =>
          if m.gm = b.gm && m.parent = b.parent then s.setSlave { s.time.slave with master := some b }
          else s.setSlave { s.time.slave with master := some b, judging := some [], good := 0 }

/-- Whether a message comes from the selected master. -/
def State.fromMaster (s : State) (m : PtpMsg) : Bool :=
  match s.time.slave.master with
  | some x => x.parent == m.src
  | none => false

/-- The slave's part of a Sync: t1 and t2 of the exchange, and a Delay_Req of its own (R438). -/
def State.slaveSync (s : State) (m : PtpMsg) (ingress : Nat) : State :=
  if !s.fromMaster m then s
  else
    let x := s.time.slave
    let s := if s.tuState = 3 && !s.stepPending && x.judging.isNone then s.setTuState 1 else s
    let seq := (x.reqSeq + 1) % 2 ^ 16
    let t1 : Option Int := if m.twoStep then none else some (m.stamp + m.corr)
    let wait := if m.twoStep then some (m.seq, m.corr) else none
    let s := s.setSlave { x with missed := 0, t1 := t1, t2 := ingress, wait := wait, reqSeq := seq, t3 := none }
    let own := s.plan.net.macs.getD 8 0
    s.enqueue 8 (.ptp ⟨.delayReq, s.plan.net.domain, false, seq, own, 0, false, 0, 0⟩ 0 true)

/-- The slave's part of a Follow_Up. -/
def State.slaveFollowUp (s : State) (m : PtpMsg) : State :=
  let x := s.time.slave
  match x.wait with
  | some (seq, corr) =>
      if s.fromMaster m && m.seq == seq then
        s.setSlave { x with t1 := some (m.stamp + m.corr + corr), wait := none }
      else s
  | none => s

/-- The slave's part of a Delay_Resp: the fourth stamp of an exchange (R438). -/
def State.slaveResponse (s : State) (m : PtpMsg) : State :=
  let x := s.time.slave
  if !(s.fromMaster m && m.seq == x.reqSeq && m.reqSrc == s.plan.net.macs.getD 8 0) then s
  else match x.t1, x.t3 with
    | some t1, some t3 =>
        let t4 : Int := m.stamp - m.corr
        (s.setSlave { x with t3 := none }).offsetMeasured (((x.t2 - t1) - (t4 - t3)) / 2)
    | _, _ => s

/-! ## Forwarding (R435 to R437) -/

/-- NET.PTPLAT.IN or EG of a port, in 2^-16 ns. -/
def State.ptpLat (s : State) (p lo : Nat) : Nat := s.fld (winKey p Reg.NET_PTPLAT) lo 16 * 2 ^ 14

/-- The ports to which a message that arrives on a port goes (R435); none where it is dropped. -/
def State.forwardTo (s : State) (p : Nat) : List Nat :=
  if p = 8 then s.ptpPorts else if s.ptpPorts.contains p then [8] else []

/-- A PTP message at a port: dropped and counted with an unsupported option, forwarded otherwise; the slave
takes what arrives on the L2 port. -/
def State.ptpArrival (s : State) (p : Nat) (m : PtpMsg) (stamp : Nat) (slave : Nat → State → State) :
    State :=
  s.inNet fun s =>
    if m.badOpt || m.domain != s.plan.net.domain then s.bump Reg.NET_PTPCNT 0 16 1
    else
      let ingress := stamp - s.ptpLat p 0
      let s := if p = 8 then slave ingress s else s
      (s.forwardTo p).foldl (fun s q => s.enqueue q (.ptp m ingress false)) s

/-- A two-step Sync whose Follow_Up has not come is forgotten and counted (R437). -/
def State.followUpTimeout (s : State) (seq src : Nat) : State :=
  s.inNet fun s =>
    if s.net.left.any fun x => x.seq == seq && x.src == src then
      { (s.bump Reg.NET_PTPCNT 16 16 1) with net := { s.net with
        left := s.net.left.filter fun x => !(x.seq == seq && x.src == src) } }
    else s

/-- A Sync that did not come (R438). -/
def State.syncMissed (s : State) : State :=
  let x := s.time.slave
  let n := x.missed + 1
  let s := s.setSlave { x with missed := n }
  if 16 ≤ n && s.tuState = 2 then s.setTuState 3 else s

/-- A frame as it leaves, with its residence time or its SEQ filled in (R431, R437). -/
def State.leave (s : State) (p egress : Nat) (x : Sent) : Sent × State :=
  match x with
  | .ptp m ingress own =>
      let res : Int := egress - ingress
      if own then (x, s.setSlave { s.time.slave with t3 := some egress })
      else match m.kind with
        | .sync =>
            if m.twoStep then
              (x, { s with net := { s.net with left := s.net.left ++ [⟨m.seq, m.src, p, res⟩] } })
            else (.ptp { m with corr := m.corr + res } ingress own, s)
        | .delayReq => (.ptp { m with corr := m.corr + res } ingress own, s)
        | .followUp =>
            match s.net.left.find? fun y => y.seq == m.seq && y.src == m.src && y.port == p with
            | some y => (.ptp { m with corr := m.corr + y.residence } ingress own,
                { s with net := { s.net with left := s.net.left.filter fun z => z != y } })
            | none => (x, s)
        | _ => (x, s)
  | .datagram _ _ ms =>
      (.datagram s.net.seq s.slot ms, { s with net := { s.net with seq := (s.net.seq + 1) % 2 ^ 32 } })
  | _ => (x, s)

/-- Whether the next planned frame of a port lies at least one reserve ahead of a cycle (R419). -/
def State.gapOpen (s : State) (p t : Nat) : Bool :=
  let here := s.curPlan.netTx.filterMap fun e => if e.1 = p && decide (t ≤ e.2) then some e.2 else none
  let next := s.nextPlan.netTx.filterMap fun e => if e.1 = p then some (s.slotLen + e.2) else none
  let reserve := if p = 8 then 738 else 369
  !s.clock.running || (here ++ next).all fun c => decide (reserve * 8 ≤ (c - t) * 5)

/-- The oldest non-planned frame of a port leaves, where the plan leaves it time (R419). -/
def State.nonPlanned (s : State) (p t stamp : Nat) : State :=
  s.inNet fun s =>
    let s := s.reach t
    match SMap.read [] s.net.egress p with
    | [] => s
    | x :: rest =>
        if !s.gapOpen p t then s
        else
          let s := { s with net := { s.net with egress := SMap.write [] s.net.egress p rest } }
          let (y, s) := s.leave p (stamp + s.ptpLat p 16) x
          s.putSent p [y]

/-! ## Triggers and captures (R444 to R447) -/

/-- The time of a trigger; the seconds above 32 bits are the present ones. -/
def State.trigTime (s : State) (n : Nat) : Nat :=
  let sec := secOf s.now / 2 ^ 32 * 2 ^ 32 + (s.reg (Reg.TU_TRGS n)).toNat
  (sec * 1000000000 + s.fld (Reg.TU_TRGN n) 0 30) * nsTime

/-- NL of an instant (R444). -/
def linear (t : Nat) : Word := BitVec.ofNat 32 (t / nsTime)

/-- Whether the present instant has reached `T` (R444). -/
def State.reached (s : State) (t : Nat) : Bool := decide (0 ≤ (linear s.now - linear t).toInt)

/-- A trigger fires (R445). -/
def State.fire (s : State) (n : Nat) (late : Bool) : State :=
  let t := s.trigTime n
  let width := s.fld (Reg.TU_TRGC n) 0 16
  let s := if width = 0 then s else { s with time := { s.time with
    outs := SMap.write 0 s.time.outs n (s.now + width * 10 * nsTime + 1) } }
  let s := s.wrapAdd (Reg.TU_TRGC n) 24 8 1
  let s := if late then s.setBit (Reg.TU_TRGC n) 16 true else s
  let period := (s.reg (Reg.TU_TRGP n)).toNat
  if period = 0 then s.setBit (Reg.TU_TRGN n) 31 false
  else
    let t := t / nsTime + period
    (s.setReg (Reg.TU_TRGS n) (BitVec.ofNat 32 (t / 1000000000))).setFld (Reg.TU_TRGN n) 0 30
      (t % 1000000000)

/-- A write of TU.TRGnN (R445). -/
def State.triggerArm (s : State) (n : Nat) (value : Word) : State :=
  let s := s.setReg (Reg.TU_TRGN n) (value &&& 0xBFFFFFFF)
  if !bitOf value 31 then s
  else
    let t := s.trigTime n
    let d : Int := (s.now : Int) - t
    if 2 * 1000000000 * nsTime ≤ d.natAbs then
      (s.setBit (Reg.TU_TRGC n) 17 true).setBit (Reg.TU_TRGN n) 31 false
    else if 0 < d then s.fire n true
    else s

/-- A trigger whose time has come (R444, R445). -/
def State.triggerFire (s : State) (n t : Nat) : State :=
  let s := s.reach t
  if s.bit (Reg.TU_TRGN n) 31 && s.reached (s.trigTime n) then s.fire n false else s

/-- An edge of a capture's source (R447): 0 TU_INn, 1 SYSREF, 2 slot tick, 3 Sync ingress on the L2 port. -/
def State.capture (s : State) (n source stamp : Nat) : State :=
  if s.fld Reg.TU_CAPSRC (4 * n) 2 != source then s
  else if s.bit (Reg.TU_CAPN n) 31 then s.bump (Reg.TU_CAPF n) 24 8 1
  else
    let s := s.setReg (Reg.TU_CAPS n) (BitVec.ofNat 32 (secOf stamp))
    let s := s.setReg (Reg.TU_CAPN n) (BitVec.ofNat 32 (nsOf stamp + 2 ^ 31))
    s.setFld (Reg.TU_CAPF n) 0 16 (stamp % nsTime)

/-- A read of TU.SECHI (R443). -/
def State.timeRead (s : State) : State :=
  let t := s.now
  let s := s.setReg Reg.TU_SECHI (BitVec.ofNat 32 (secOf t / 2 ^ 32 % 2 ^ 16))
  let s := s.setReg Reg.TU_SECLO (BitVec.ofNat 32 (secOf t))
  let s := s.setReg Reg.TU_NS (BitVec.ofNat 32 (nsOf t))
  s.setReg Reg.TU_SUBNS (BitVec.ofNat 32 (t % nsTime))

/-- A phase brought to the nearest slot boundary (R62, R440). -/
def State.phaseOf (s : State) (e : Int) : Int :=
  let d : Int := s.slotLen * ccTime
  if d = 0 then 0 else (e + d / 2) % d - d / 2

/-- A committed TU.CTL.ACCEPT (R439, R440, R446). -/
def State.timeStep (s : State) : State :=
  if !s.bit Reg.TU_CTL 0 then s
  else
    let s := s.setBit Reg.TU_CTL 0 false
    if !s.stepPending then s
    else
      let o := s.time.slave.pend
      let was := s.now
      let s := s.clearPend
      let s := { s with clock := { s.clock with tu := ((s.clock.tu : Int) - o).toNat } }
      let s := { s with time := { s.time with slew := s.phaseOf (s.time.slew - o) } }
      let s := s.setBit Reg.TU_STAT 3 (s.time.slew != 0)
      let s := (s.setSlave { s.time.slave with good := 0, judging := none }).setTuState 1
      (List.range 4).foldl (fun s n =>
        let t := s.trigTime n
        if s.bit (Reg.TU_TRGN n) 31 && decide (was < t) && decide (t ≤ s.now) then s.fire n true else s) s

/-- A committed TU.CTL.FREE (R438). -/
def State.enterFreerun (s : State) : State :=
  if !s.bit Reg.TU_CTL 1 then s
  else
    let s := s.setBit Reg.TU_CTL 1 false
    let s := s.setSlave { s.time.slave with heard := [], master := none, good := 0, judging := none }
    s.clearPend.setTuState 0

def execNonPlannedFrame (port cycle stamp : Nat) (s : State) : Host.Outcome State Fault Refusal :=
  .next (s.nonPlanned port cycle stamp)

def execAnnounce (port : Nat) (m : PtpMsg) (d : MasterSet) (s : State) : Host.Outcome State Fault Refusal :=
  .next (s.ptpArrival port { m with kind := .announce } 0 fun _ s => s.announceHeard d)

def execSync (port : Nat) (m : PtpMsg) (stamp : Nat) (s : State) : Host.Outcome State Fault Refusal :=
  .next (s.ptpArrival port { m with kind := .sync } stamp fun t s => s.slaveSync m t)

def execDelayReq (port : Nat) (m : PtpMsg) (stamp : Nat) (s : State) : Host.Outcome State Fault Refusal :=
  .next (s.ptpArrival port { m with kind := .delayReq } stamp fun _ s => s)

def execFollowUp (port : Nat) (m : PtpMsg) (s : State) : Host.Outcome State Fault Refusal :=
  .next (s.ptpArrival port { m with kind := .followUp } 0 fun _ s => s.slaveFollowUp m)

def execFollowUpTimeout (seq src : Nat) (s : State) : Host.Outcome State Fault Refusal :=
  .next (s.followUpTimeout seq src)

def execSyncMissed (s : State) : Host.Outcome State Fault Refusal := .next s.syncMissed

def execTriggerArm (n : Nat) (value : Word) (s : State) : Host.Outcome State Fault Refusal :=
  .next (s.managed fun s => if n < 4 then s.triggerArm n value else s)

def execTriggerFire (n cycle : Nat) (s : State) : Host.Outcome State Fault Refusal :=
  .next (if n < 4 then s.triggerFire n cycle else s)

def execCapture (n source stamp : Nat) (s : State) : Host.Outcome State Fault Refusal :=
  .next (if n < 4 then s.capture n source stamp else s)

def execTimeRead (s : State) : Host.Outcome State Fault Refusal := .next s.timeRead

def execTimeStepAccept (s : State) : Host.Outcome State Fault Refusal := .next (s.managed State.timeStep)

def execEnterFreerun (s : State) : Host.Outcome State Fault Refusal := .next (s.managed State.enterFreerun)

end Sys2Proof.Machine
end

