-- ==== Sys2Proof/Machine/Start.lean ====
section
/-! DEFINITION. The start sequence, the flash and the image (R538 to R561, R569). -/

namespace Sys2Proof.Machine

open Sys2Proof

/-! ## Flash (R546 to R549) -/

/-- Bytes of the flash; what nothing has programmed reads as erased, 0xFF. -/
def State.flashBytes (s : State) (a n : Nat) : List Byte := SMap.readList 0xFF s.mem.flash a n

/-- The state with bytes of the flash replaced. -/
def State.setFlash (s : State) (a : Nat) (bs : List Byte) : State :=
  { s with mem := { s.mem with flash := SMap.writeList 0xFF s.mem.flash a bs } }

/-- A little-endian field of a byte string. -/
def fieldOf (bs : List Byte) (o n : Nat) : Nat := leNat ((bs.drop o).take n)

/-- Whether two areas share a byte. -/
def areasMeet (a n b m : Nat) : Bool := decide (0 < n) && decide (0 < m) && decide (a < b + m) && decide (b < a + n)

/-- A boot record copy (R548): its fields and its place. -/
structure BootRecord where
  copy : Nat := 0
  seq : Nat := 0
  pref : Nat := 0
  loadw : Bool := false
  slot0 : Nat := 0
  slot1 : Nat := 0
  slotSize : Nat := 0
  wbase : Nat := 0
  wsize : Nat := 0
  deriving DecidableEq, Repr

/-- Base of an image slot. -/
def BootRecord.slot (b : BootRecord) (k : Nat) : Nat := if k = 0 then b.slot0 else b.slot1

/-- The boot record of 64 bytes. -/
def BootRecord.ofBytes (copy : Nat) (bs : List Byte) : BootRecord :=
  ⟨copy, fieldOf bs 4 4, fieldOf bs 8 1 % 2, fieldOf bs 9 1 == 1, fieldOf bs 12 4, fieldOf bs 16 4,
    fieldOf bs 20 4, fieldOf bs 24 4, fieldOf bs 28 4⟩

/-- Bytes 0 to 63 of a boot record (R548). -/
def BootRecord.bytes (b : BootRecord) : List Byte :=
  let body := leBytes 4 0x42545243 ++ leBytes 4 b.seq ++ leBytes 1 b.pref ++
    leBytes 1 (if b.loadw then 1 else 0) ++ leBytes 2 0 ++ leBytes 4 b.slot0 ++ leBytes 4 b.slot1 ++
    leBytes 4 b.slotSize ++ leBytes 4 b.wbase ++ leBytes 4 b.wsize ++ List.replicate 28 0
  body ++ leBytes 4 (crc32c body)

/-- Whether a copy is valid (R549). -/
def State.bootValid (s : State) (copy : Nat) : Bool :=
  let bs := s.flashBytes (copy * 0x1000) 64
  let b := BootRecord.ofBytes copy bs
  let areas := [(b.slot0, b.slotSize), (b.slot1, b.slotSize), (b.wbase, b.wsize)]
  let apart (i j : Nat) : Bool :=
    let x := areas.getD i (0, 0)
    let y := areas.getD j (0, 0)
    !areasMeet x.1 x.2 y.1 y.2
  fieldOf bs 0 4 == 0x42545243 && fieldOf bs 60 4 == crc32c (bs.take 60) &&
    apart 0 1 && apart 0 2 && apart 1 2 &&
    areas.all fun x => !areasMeet x.1 x.2 0x2000 0xE000 && decide (x.1 + x.2 ≤ s.start.input.flashSize)

/-- The boot record in use (R549). -/
def State.bootRecord (s : State) : Option BootRecord :=
  let b0 := BootRecord.ofBytes 0 (s.flashBytes 0 64)
  let b1 := BootRecord.ofBytes 1 (s.flashBytes 0x1000 64)
  match s.bootValid 0, s.bootValid 1 with
  | true, true =>
      some (if ((BitVec.ofNat 32 b1.seq : Word) - BitVec.ofNat 32 b0.seq).toInt > 0 then b1 else b0)
  | true, false => some b0
  | false, true => some b1
  | false, false => none

/-- Rewrites the copy that is not in use with SEQ one higher (R549): the other copy than the one in use. -/
def State.writeBoot (s : State) (b : BootRecord) : State :=
  s.setFlash ((1 - b.copy) * 0x1000) ({ b with seq := (b.seq + 1) % 2 ^ 32 }).bytes

/-! ## The image (R551 to R557) -/

/-- The header of an image (R551). -/
structure Header where
  bytes : List Byte
  deriving DecidableEq, Repr

def Header.length (h : Header) : Nat := fieldOf h.bytes 8 4
def Header.version (h : Header) : Nat := fieldOf h.bytes 12 4
def Header.sections (h : Header) : Nat := fieldOf h.bytes 16 2
def Header.grade (h : Header) : Nat := fieldOf h.bytes 18 1
def Header.cover (h : Header) : Nat := fieldOf h.bytes 19 1
def Header.mode (h : Header) : Nat := fieldOf h.bytes 20 1
def Header.ident (h : Header) : Nat := fieldOf h.bytes 21 1
def Header.mvar (h : Header) : Nat := fieldOf h.bytes 22 2
def Header.manv (h : Header) : Nat := fieldOf h.bytes 24 1
def Header.signer (h : Header) : Nat := fieldOf h.bytes 25 1
def Header.tlock (h : Header) : Nat := fieldOf h.bytes 28 4
def Header.hswait (h : Header) : Nat := fieldOf h.bytes 32 4
def Header.endofs (h : Header) : Nat := fieldOf h.bytes 36 4
def Header.sigofs (h : Header) : Nat := fieldOf h.bytes 40 4

def State.header (s : State) (base : Nat) : Header := ⟨s.flashBytes base 64⟩

/-- An entry of the section table (R552). -/
structure Section where
  type : Nat
  region : Nat
  dest : Nat
  size : Nat
  offset : Nat
  digest : Nat
  deriving DecidableEq, Repr

def State.sectionAt (s : State) (base i : Nat) : Section :=
  let e := s.flashBytes (base + 64 + 96 * i) 96
  ⟨fieldOf e 0 4, fieldOf e 4 1, fieldOf e 8 8, fieldOf e 16 4, fieldOf e 20 4, fieldOf e 32 64⟩

def State.sectionsOf (s : State) (base : Nat) : List Section :=
  (List.range (s.header base).sections).map fun i => s.sectionAt base i

/-- The bytes of the memory that a section's type and region name, where its destination is an address in one
(R245, R261, R285, R302, R552). -/
def destSize (type region : Nat) : Option Nat :=
  match type with
  | 1 => some (if region < 8 then 0x300000 else if region < 13 then 0x100000 else 0)
  | 2 => some (if region < 8 then 0x1800000 else 0)
  | 3 => some 0xC00000000
  | 5 => some (if region < 8 then 0x40000 else 0)
  | 8 => some (if region = 13 then 0x40000 else 0)
  | _ => none

/-- Whether two sections overlap in the image or at their destinations. -/
def Section.clash (a b : Section) : Bool :=
  areasMeet a.offset a.size b.offset b.size ||
    (a.type == b.type && (a.type == 3 || a.region == b.region) && (destSize a.type a.region).isSome &&
      areasMeet a.dest a.size b.dest b.size)

/-- Whether some pair of a list clashes. -/
def anyClash : List Section → Bool
  | [] => false
  | a :: as => as.any a.clash || anyClash as

/-- Reason 7 (R553). -/
def badStructure (length : Nat) (xs : List Section) : Bool :=
  xs.any (fun x => decide (length < x.offset + x.size) || x.type == 0 || decide (8 < x.type) ||
    match destSize x.type x.region with
    | some n => decide (n < x.dest + x.size)
    | none => false) ||
  anyClash xs ||
  decide (0xC000000 < (xs.map fun x => if x.type = 2 || x.type = 3 then x.size else 0).sum)

/-- Reason 2 (R553). -/
def Header.bad (h : Header) (slotSize : Nat) : Bool :=
  fieldOf h.bytes 0 4 != 0x45485244 || fieldOf h.bytes 4 4 != 0x00010000 || decide (slotSize < h.length) ||
  fieldOf h.bytes 26 2 != 0 || fieldOf h.bytes 44 20 != 0 || (h.grade == 2 && h.ident == 1)

/-- The image digest D (R554). -/
def State.digestOfImage (s : State) (base : Nat) : BitVec 512 :=
  Config.sha3 (s.flashBytes base (64 + 96 * (s.header base).sections))

/-- The failure of the checks of step 6, as reason and section (R553, R554). -/
def State.verifyImage (s : State) (base : Nat) : Option (Nat × Nat) :=
  let h := s.header base
  let vendor := s.flashBytes (base + h.sigofs) 2592
  let sig := s.flashBytes (base + h.sigofs + 2592) 4627
  let e := s.flashBytes (base + h.endofs) 7228
  let operator := (e.drop 8).take 2592
  let signed := h.signer == 1
  let xs := s.sectionsOf base
  if Config.sha3 vendor != Config.vendorKeyDigest then some (3, 0)
  else if signed && !Config.mldsaVerify vendor (Config.sha3 (e.take 2600)) ((e.drop 2600).take 4627) then
    some (4, 0)
  else if signed && decide (h.version < fieldOf e 4 4) then some (9, 0)
  else if !Config.mldsaVerify (if signed then operator else vendor) (s.digestOfImage base) sig then some (5, 0)
  else if badStructure h.length xs then some (7, 0)
  else
    ((List.range xs.length).find? fun i =>
      let x := xs.getD i ⟨0, 0, 0, 0, 0, 0⟩
      (Config.sha3 (s.flashBytes (base + x.offset) x.size)).toNat != x.digest).map fun i => (6, i)

/-- The failure of the checks of steps 5 and 6 on an image slot. -/
def State.slotFault (s : State) (b : BootRecord) (k : Nat) : Option (Nat × Nat) :=
  if (s.header (b.slot k)).bad b.slotSize then some (2, 0) else s.verifyImage (b.slot k)

/-! ## Steps -/

/-- The location of the NVM loader and of the security unit. -/
def nvmLoc : BitVec 64 := blockLoc 13 0x3A 0
def secLoc : BitVec 64 := blockLoc 13 0x3B 0

/-- A step has completed (R571). -/
def State.stepDone (s : State) (k : Nat) : State :=
  let us := s.start.input.times.getD (k - 1) s.start.us
  let s := { s with start := { s.start with us := max s.start.us us } }
  (s.setFld Reg.STA_STEP 0 4 k).setReg (Reg.STA_TSTEP (k - 1)) (BitVec.ofNat 32 s.start.us)

/-- The µs that have passed since the start began. -/
def State.atUs (s : State) (us : Nat) : State := { s with start := { s.start with us := max s.start.us us } }

/-- Whether a step's limit passes before it completes. -/
def State.stalled (s : State) (k : Nat) : Bool := s.start.input.stall == some k

/-- A brown-out is recorded when the start has ended (R524, R534, R628). -/
def State.recordBrownOut (s : State) : State :=
  if s.start.brownOut then
    let s := { s with start := { s.start with brownOut := false } }
    s.raise 0x0B08 .detected powerLoc 0 0
  else s

/-- Management-only operation (R545). -/
def State.mgmtOnly (s : State) : State := (s.setBit Reg.STA_STEP 4 true).recordBrownOut

def State.isMgmtOnly (s : State) : Bool := s.bit Reg.STA_STEP 4

/-- Both slots have failed, or no boot record is valid (R549, R550, R570). -/
def State.refuseImage (s : State) : State :=
  let why (k : Nat) : Nat := ((s.start.failed.find? fun e => e.1 = k).map (·.2)).getD 0
  (s.raise 0x0C01 .fatal nvmLoc (why 0 % 16 + why 1 % 16 * 16) 0).mgmtOnly

/-- An image slot has failed (R550, R571). -/
def State.failSlot (s : State) (k reason sect item : Nat) : State :=
  let s := if reason = 0 then s else s.setReg Reg.STA_REFUSE
    (BitVec.ofNat 32 (reason % 16 + sect % 1024 * 16 + min item 65535 * 65536))
  let first := s.start.failed.isEmpty
  let s := { s with start := { s.start with failed := s.start.failed ++ [(k, reason)] } }
  s.raiseIf first 0x0C02 .detected nvmLoc reason k

/-! ### Step 7 (R558, R559) -/

def Finding.region (f : Finding) : Nat := f.loc.toNat / 2 ^ 58 % 16
def Finding.cls (f : Finding) : Nat := f.loc.toNat / 2 ^ 52 % 64
def Finding.index (f : Finding) : Nat := f.loc.toNat / 2 ^ 46 % 64

/-- Enters one finding in the repair map (R558). -/
def State.enterFinding (s : State) (f : Finding) : State :=
  let n := s.start.repair.length
  let entry (x : Finding) : State := { s with start := { s.start with repair := s.start.repair ++ [x] } }
  let fence (s : State) : State := if f.region < 13 then s.setBit Reg.SPN_GATE f.region true else s
  if n < 255 then
    let s := entry f
    let s := if f.kind = 4 then fence s else s
    s.raiseIf (decide (3 ≤ f.kind)) 0x0C04 .detected f.loc f.kind 0
  else
    let s := if n = 255 then entry ⟨regionLoc f.region, 4, 0⟩ else s
    (fence s).raise 0x0C04 .detected f.loc 4 0

/-- Whether no finding of kind 3 or 4 names a unit. -/
def State.unitPasses (s : State) (r cls i : Nat) : Bool :=
  !(s.start.input.findings.any fun f =>
    decide (3 ≤ f.kind) && f.region == r && f.cls == cls && f.index == i)

/-- A mask from a test of each bit. -/
def maskOf (n : Nat) (p : Nat → Bool) : Nat :=
  (List.range n).foldl (fun m i => if p i then m + 2 ^ i else m) 0

/-- The three lowest-numbered passing Anvils of each region (R559). -/
def threeLowest (pass : Nat → Bool) : Nat :=
  maskOf 32 fun i => pass i && decide (((List.range (i % 4)).filter fun a => pass (i / 4 * 4 + a)).length < 3)

/-- The Anvil that the grade QZ-924 disables in each region stands in the repair map also where it passes (R2): with the
kind of a unit that is disabled, and without its fault (DESIGN CHOICE, log entry 115). -/
def State.leaveOut (s : State) : State :=
  (List.range 8).foldl (fun s r =>
    if (List.range 4).all fun a => s.unitPasses r 1 a then
      if s.start.repair.length < 255 then
        let s := { s with start := { s.start with repair := s.start.repair ++ [(⟨blockLoc r 0x01 3, 3, 0⟩ : Finding)] } }
        s.setReg Reg.STA_REPAIR (s.reg Reg.STA_REPAIR + 0x10001)
      else s
    else s) s

/-- Step 7: self-test results, repair and grade (R558, R559, R616). -/
def State.selfTestStep (s : State) (g : Nat) : State :=
  let x := s.start.input
  let s := { s with start := { s.start with repair := [] } }
  let s := x.findings.foldl (fun s f => s.enterFinding f) s
  let anv (i : Nat) : Bool := s.unitPasses (i / 4) 1 (i % 4)
  let slc (n : Nat) : Bool := s.unitPasses n 7 0
  let s := s.setReg Reg.STA_MBIST (BitVec.ofNat 32 (x.mems % 65536 + x.failed % 65536 * 65536))
  let units := (x.findings.filter fun f => 3 ≤ f.kind).length
  let s := s.setReg Reg.STA_REPAIR (BitVec.ofNat 32 (s.start.repair.length + min units 255 * 65536))
  let s := s.setReg Reg.STA_LBPLN (BitVec.ofNat 32
    (maskOf 16 (fun i => s.unitPasses (i / 2) 2 (i % 2)) + maskOf 8 slc * 65536))
  let s := s.setReg Reg.STA_LBANV (BitVec.ofNat 32 (maskOf 32 anv))
  let s := { s with mem := { s.mem with
    pad := [], padHall := [], padEcc := [], te := [], teHall := [], teVoid := [] } }
  let c := if s.bit Reg.SEC_ID 1 && !s.bit Reg.SEC_ID 2 then 0 else 1
  let all_ := (List.range 32).all anv && (List.range 8).all slc
  let three := (List.range 8).all fun n => decide (3 ≤ ((List.range 4).filter fun a => anv (4 * n + a)).length)
  if (g == 0 || g == 2) && c == 0 && all_ then
    ((s.setReg Reg.ARC_GRADE 0x100).setReg Reg.ARC_ANVMAP 0xFFFFFFFF).setFld Reg.ARC_ID 16 16 0x0940
  else if (g == 1 || g == 2) && three then
    let s := (s.setReg Reg.ARC_GRADE 1).setReg Reg.ARC_ANVMAP (BitVec.ofNat 32 (threeLowest anv))
    s.leaveOut.setFld Reg.ARC_ID 16 16 0x0924
  else
    s.raise 0x0C05 .fatal chipLoc ((List.range 32).filter anv).length 0

/-! ### Steps 8 and 9 (R540, R552, R557) -/

/-- The image that the loader judges: the header, the bytes of its sections and the contents of those that have no layout
in the manual (R551, R552). -/
def State.imageAt (s : State) (base : Nat) (c : ImageContent) : Image :=
  let h := s.header base
  let of (t : Nat) : List Section := (s.sectionsOf base).filter fun x => x.type == t
  let bytes (x : Section) : List Byte := s.flashBytes (base + x.offset) x.size
  { content := c, grade := h.grade, mode := h.mode, ident := h.ident, cover := h.cover, mvar := h.mvar
    pairs := (of 4).flatMap fun x => (List.range (x.size / 8)).map fun i =>
      (fieldOf (bytes x) (8 * i) 4, BitVec.ofNat 32 (fieldOf (bytes x) (8 * i + 4) 4))
    pads := (of 2).map fun x => (x.region, x.dest, bytes x)
    store := (of 8).flatMap bytes }

/-- The first failure of step 8, as reason, section and item (R553): in the order of the sections, reason 6 before
reason 8; an element of a section that the table lacks counts to section 0. -/
def State.loadFault (s : State) (base : Nat) (c : ImageContent) : Option (Nat × Nat × Nat) :=
  let xs := s.sectionsOf base
  let place (e : Nat × Nat) : Nat × Nat := (((List.range xs.length).find? fun i =>
    (xs[i]?.map fun x => x.type) == some e.1).getD 0, e.2)
  let fails := c.refused.toList ++ (s.imageAt base c).failures.map place
  let first := fails.foldl (fun (a : Option (Nat × Nat)) e => match a with
    | some x => if e.1 < x.1 then some e else some x
    | none => some e) none
  match c.reread, first with
  | some i, some r => if i ≤ r.1 then some (6, i, 0) else some (8, r.1, r.2)
  | some i, none => some (6, i, 0)
  | none, some r => some (8, r.1, r.2)
  | none, none => none

/-- Loads the bytes of one section (R552, R557); of a register value the fields that the image supplies are written (R14).
TYPE 1, 5, 6 and 7 come decoded in the image's contents. -/
def State.loadSection (s : State) (base : Nat) (x : Section) : State :=
  let bs := s.flashBytes (base + x.offset) x.size
  match x.type with
  | 2 =>
      let k := padKey x.region x.dest
      let s := { s with mem := { s.mem with pad := SMap.writeList 0 s.mem.pad k bs } }
      (List.range ((k + x.size + 255) / 256 - k / 256)).foldl (fun s g => s.remark (0, k / 256 + g)) s
  | 4 =>
      (List.range (x.size / 8)).foldl (fun s i =>
        let k := fieldOf bs (8 * i) 4
        let v : Word := BitVec.ofNat 32 (fieldOf bs (8 * i + 4) 4)
        let m : Word := match findReg k with
          | some d => d.imageMask
          | none => 0
        let w := (s.reg k &&& ~~~m) ||| (v &&& m)
        { (s.setReg k w) with plan := { s.plan with regs0 := SMap.write 0 s.plan.regs0 k w } }) s
  | 8 =>
      { s with
        mem := { s.mem with store := SMap.writeList 0 s.mem.store x.dest bs }
        seq := { s.seq with store := x.dest } }
  | _ => s

/-- The number of enabled Anvils. -/
def State.anvilCount (s : State) : Nat := ((List.range 8).map s.enabledAnvils).sum

/-- Selects the plan variant (R86). -/
def State.selectVariant (s : State) : State :=
  let take (s : State) (v : Nat) : State :=
    (s.setFld Reg.SPL_SWREQ 0 16 v).setVariant v
  let no (s : State) : State := s.raise 0x0305 .fatal chipLoc 0 0
  if s.fld Reg.DET_MODE 1 2 = 1 then
    let v := s.fld Reg.DET_MATCHREC 16 16
    if s.fld Reg.DET_MATCHREC 0 1 = s.fld Reg.ARC_GRADE 0 1 && s.fld Reg.DET_MATCHREC 8 8 = s.anvilCount &&
        decide (v < s.plan.variants.length) && s.fits (s.variant v) then take s v
    else no s
  else match s.firstFit with
    | some v => take s v
    | none => no s

/-- What the header, the straps and the decoded sections give (R54, R86, R93, R481, R508, R571). -/
def State.applyImage (s : State) (k base : Nat) (c : ImageContent) : State :=
  let h := s.header base
  let contexts : List (Nat × Ctx) := c.ctxs.map fun (e : Nat × CtxImage) => (e.1, { image := e.2 })
  let s := { s with
    plan := { s.plan with
      variants := c.variants, coldAt := none, amounts := c.amounts, weights := c.weights, net := c.net
      rings := c.rings
      regs0 := SMap.writeAll 0 s.plan.regs0 c.regs
      chans0 := SMap.writeAll {} [] c.chans }
    regs := SMap.writeAll 0 s.regs c.regs
    chans := SMap.writeAll {} [] c.chans
    els := { ctxs := SMap.writeAll {} [] contexts }
    tinkers := SMap.writeAll {} [] c.tinkers
    start := { s.start with tlock := h.tlock, hswait := h.hswait } }
  let s := (s.setFld Reg.TWN_CFG 0 2 h.mode).setFld Reg.TWN_CFG 2 1 (s.fld Reg.STA_STRAP 0 1)
  let s := s.setBit Reg.TWN_STAT 5 s.pins.twinPeer
  let s := s.setFld Reg.DET_MODE 1 2 h.ident
  let s := s.setReg Reg.DET_MATCHREC (if h.ident = 1 then
      BitVec.ofNat 32 (h.grade % 2 + h.manv * 256 + h.mvar * 65536)
    else BitVec.ofNat 32 (h.mvar * 65536))
  let d := s.digestOfImage base
  let s := (List.range 16).foldl (fun s i =>
    s.setReg (Reg.STA_DIG i) (BitVec.ofNat 32 (d.toNat / 2 ^ (32 * i)))) s
  let s := s.setReg Reg.STA_IMGVER (BitVec.ofNat 32 h.version)
  let keyid := if h.signer = 1 then fieldOf (s.flashBytes (base + h.endofs) 2) 0 2 else 0xFFFF
  let s := s.setReg Reg.STA_IMG (BitVec.ofNat 32 (k % 2 + (if s.start.failed.isEmpty then 0 else 2)
    + h.signer % 2 * 4 + keyid * 65536))
  let s := s.setFld Reg.FLT_COV 0 2 h.cover
  let s := (List.range 32).foldl (fun s i =>
    s.setFld (Reg.ANV_CTL (i / 4) (i % 4)) 28 1 (if c.chkReq || h.cover == 3 then 1 else 0)) s
  (s.setReg Reg.SPL_VARCNT (BitVec.ofNat 32 (c.variants.length % 65536))).setReg Reg.SPL_PATTERN 0

/-- The register set that Keep has saved replaces the image's values when its digest is that of the image
(R525, R569). -/
def State.restoreSaved (s : State) : State :=
  match s.power.saved with
  | none => s
  | some (regs, t, freq, d) =>
      let s := { s with power := { s.power with saved := none } }
      if d = s.imageDigest then
        let s := { s with
          regs := SMap.writeAll 0 s.regs regs
          clock := { s.clock with tu := max s.clock.tu t }
          time := { s.time with slave := { s.time.slave with freq := freq } } }
        s.setBit Reg.STA_IMG 4 true
      else s.raise 0x0C0B .masked nvmLoc 0 0

/-- The saved weight record (R568): a 256-byte header, the payload and the signature. -/
def weightHeader (gen len : Nat) (d digest : BitVec 512) : List Byte :=
  let h := leBytes 4 0x57534156 ++ leBytes 4 gen ++ leBytes 4 len ++ leBytes 64 d.toNat ++
    leBytes 64 digest.toNat
  h ++ List.replicate (256 - h.length) 0

/-- The saved weight set, or the code of why it is ignored (R569, R570). -/
def State.savedWeights (s : State) (b : BootRecord) : Nat × List Byte :=
  let h := s.flashBytes b.wbase 256
  let n := fieldOf h 8 4
  let payload := s.flashBytes (b.wbase + 256) n
  let sig := s.flashBytes (b.wbase + 256 + n) 4627
  let why :=
    if !s.bit Reg.SEC_ID 0 then 4
    else if !Config.mldsaVerify Config.identityKey (Config.sha3 h) sig then 1
    else if fieldOf h 12 64 != s.imageDigest.toNat then 2
    else if (Config.sha3 payload).toNat != fieldOf h 76 64 then 3
    else 0
  (why, payload)

/-- Applies the saved weight set when the boot record asks for it and the mode is SOLO (R569). -/
def State.applyWeights (s : State) (b : BootRecord) : State :=
  if !b.loadw || s.fld Reg.TWN_CFG 0 2 != 0 then s
  else
    let (why, payload) := s.savedWeights b
    if why != 0 then s.raise 0x0C0A .masked nvmLoc why 0
    else
      let gen := fieldOf (s.flashBytes b.wbase 256) 4 4
      let s := s.hbmPut (ofCopy s.plan.weights.copies s.activeCopy) payload
      (s.setFld Reg.WGT_STATE 16 16 gen).setBit Reg.STA_IMG 3 true

/-- The links that step 10 trains (R541). -/
def State.enabledLinks (s : State) (c : ImageContent) : List LinkId :=
  ((List.range 9).filter fun p => c.ports.testBit p && !s.bit (winKey p Reg.NET_PSTAT) 0).map .ether ++
  ((List.range 8).filter fun n => s.reg (Reg.JRX_CFG0 n) != 0).map .jrx ++
  ((List.range 8).filter fun n => s.reg (Reg.JTX_CFG0 n) != 0).map .jtx ++
  (if c.switu && !s.linkUp then [.switu] else [])

/-- Whether any JESD link is enabled (R544). -/
def State.anyJesd (s : State) : Bool :=
  (List.range 8).any fun n => s.reg (Reg.JRX_CFG0 n) != 0 || s.reg (Reg.JTX_CFG0 n) != 0

/-! ### Steps 10 to 13 (R541 to R544) -/

/-- A device without a partner serves alone (R480, R543). -/
def State.runAlone (s : State) : State :=
  let s := (s.setTwinState 0).setLive true
  match (s.variant s.active).pair with
  | some q => s.setVariant (if s.twinMode = 2 then q.loss else q.live)
  | none => s

/-- Steps 10 to 12 complete as far as their conditions hold: every enabled link is up or was reported, the time
unit is LOCKED, and the handshake is over. -/
def State.advance (s : State) (locked : Bool) : State :=
  let at_ (s : State) (k : Nat) : Bool := s.fld Reg.STA_STEP 0 4 == k && !s.isMgmtOnly && !s.start.held
  let s := if at_ s 9 && s.start.links.isEmpty then s.stepDone 10 else s
  let s := if at_ s 10 && locked then
      let s := s.stepDone 11
      if s.twinMode = 0 then s
      else if !s.pins.twinPeer then s.runAlone
      else { (s.setTwinState 1) with twin := { s.twin with before := 5, step := 0 } }
    else s
  if at_ s 11 && (s.twinState == 0 || (s.twinState == 1 && decide (4 ≤ s.twin.step))) then
    let s := s.stepDone 12
    if s.anyJesd then { s with pins := { s.pins with sysrefReq := true } } else s
  else s

/-- The content of an image slot. -/
def StartInput.image (x : StartInput) (k : Nat) : ImageContent := if k = 0 then x.image0 else x.image1

/-- Steps 7 to 10 on an image slot whose steps 5 and 6 have passed; `none` where step 8 refuses the image. -/
def State.loadSlot (s : State) (b : BootRecord) (k : Nat) : State × Bool :=
  let base := b.slot k
  let c := s.start.input.image k
  let s := { s with start := { s.start with slot := k, base := base } }
  if s.stalled 7 && !s.start.tested then (s, true)
  else
    let s := if s.start.tested then s.setFld Reg.STA_STEP 0 4 7 else
      let s := s.selfTestStep (s.header base).grade
      let s := { s with start := { s.start with tested := true } }
      if s.isMgmtOnly then s else s.stepDone 7
    if s.isMgmtOnly || s.stalled 8 then (s, true)
    else
      match s.loadFault base c with
      | some (reason, sect, item) => (s.failSlot k reason sect item, false)
      | none =>
          let xs := s.sectionsOf base
          let s := { s with commit := {}, plan := { s.plan with regs0 := [] } }
          let s := xs.foldl (fun s x => s.loadSection base x) s
          let s := (s.applyImage k base c.proved).restoreSaved.selectVariant
          if s.isMgmtOnly then (s, true)
          else
            let s := s.stepDone 8
            if s.stalled 9 then (s, true)
            else
              let s := (xs.filter fun x => x.type = 3).foldl (fun s x =>
                s.hbmPut x.dest (s.flashBytes (base + x.offset) x.size)) s
              let s := (s.applyWeights b).stepDone 9
              let s := { s with start := { s.start with links := s.enabledLinks c } }
              (s.advance (s.tuState == 2), true)

/-- Tries an image slot, and then the other (R550). -/
def State.trySlot (s : State) (b : BootRecord) (k : Nat) : Nat → State
  | 0 => s.refuseImage
  | n + 1 =>
      let s := s.setFld Reg.STA_STEP 0 4 4
      let s := { s with pins := { s.pins with xspiResets := s.pins.xspiResets + 1 } }
      let s := { s with start := { s.start with slot := k } }
      if s.stalled 5 then s
      else if (s.header (b.slot k)).bad b.slotSize then (s.failSlot k 2 0 0).trySlot b (1 - k) n
      else
        let s := s.stepDone 5
        if s.stalled 6 then s
        else match s.slotFault b k with
          | some (reason, sect) => (s.failSlot k reason sect 0).trySlot b (1 - k) n
          | none =>
              let (s, ok) := (s.stepDone 6).loadSlot b k
              if ok then s else s.trySlot b (1 - k) n

/-- Steps 5 to 13 (R549, R550). -/
def State.bootFrom (s : State) : State :=
  match s.bootRecord with
  | none =>
      let s := s.setReg Reg.STA_REFUSE 1
      ({ s with start := { s.start with failed := [(0, 1), (1, 1)] } }).refuseImage
  | some b => s.trySlot b b.pref 2

/-- What the board has put into the flash since the last start. -/
def State.boardFlash (s : State) : State :=
  s.start.input.flash.foldl (fun s e => s.setFlash e.1 e.2) s

/-- Step 3 (R560, R561): the identity and its faults; FAULT_N is released unless a fatal fault stands
(R623). -/
def State.identityStep (s : State) : State :=
  let x := s.start.input
  let puf := x.seedOk && x.keyOk
  let s := s.setReg Reg.SEC_ID (BitVec.ofNat 32 ((if puf then 1 else 0) + (if x.chainOk then 2 else 0)
    + x.cgrade % 2 * 4))
  let serial := if x.chainOk then x.serial else 0
  let s := (s.setReg Reg.SEC_SERLO (BitVec.ofNat 32 serial)).setReg Reg.SEC_SERHI
    (BitVec.ofNat 32 (serial / 2 ^ 32))
  let s := s.raiseIf (!x.seedOk) 0x0C06 .detected secLoc 1 0
  let s := s.raiseIf (x.seedOk && !x.keyOk) 0x0C06 .detected secLoc 2 0
  let s := s.raiseIf (!x.chainOk) 0x0C06 .detected secLoc 3 0
  { s with pins := { s.pins with faultN := !s.bit Reg.FLT_FATAL 31 } }

/-- Step 4 and what follows it: a scan instruction that controls the balls holds the start here (R614), and in
RECOVERY steps 5 to 13 are skipped (R545). -/
def State.afterStraps (s : State) : State :=
  if s.pins.scan.isSome || s.pins.highZ then { s with start := { s.start with held := true } }
  else
    let s := { s with start := { s.start with held := false } }
    if s.bit Reg.STA_STRAP 4 then s.mgmtOnly else s.bootFrom

/-- Step 4 (R571, R599). -/
def State.strapStep (s : State) : State :=
  let w := s.start.input.straps
  let s := s.setReg Reg.STA_STRAP (BitVec.ofNat 32 (w % 32))
  s.setFld Reg.MGT_I3C 8 7 (0x30 + w / 2 % 8)

/-- The device with all its logic reset: the flash, the queue, the counts of free values, the scan chain and the
level of TWIN_PEER lie outside it. -/
def State.hardReset (s : State) : State :=
  { State.reset with
    pending := s.pending, free := s.free, drawn := s.drawn
    mem := { State.reset.mem with flash := s.mem.flash }
    test := { State.reset.test with tap := s.test.tap, boundary := s.test.boundary, dr := s.test.dr }
    pins := { State.reset.pins with
      twinPeer := s.pins.twinPeer, scan := s.pins.scan, highZ := s.pins.highZ } }

/-- Steps 1 to 13, from a reset device; `bor` is whether a brown-out has led to it (R538, R535). -/
def State.powerOn (s : State) (x : StartInput) (bor : Bool) : State :=
  let s := { s.hardReset with start := { input := x, brownOut := bor } }
  let s := { s.boardFlash with pins := { s.pins with pwrEn := true, twinPeer := x.twinPeer } }
  let s := s.setReg Reg.PWR_RSTCAUSE (if bor then 2 else 1)
  if s.stalled 1 then s
  else
    let s := (s.setReg Reg.PWR_DOM 0x3FFFFFFF).stepDone 1
    if s.stalled 2 then s
    else
      let s := s.stepDone 2
      if s.stalled 3 then s
      else (s.identityStep.stepDone 3).strapStep.stepDone 4 |>.afterStraps

/-- Steps 5 to 13 after a wake from Keep (R529, R538): with the straps of the last power-on. -/
def State.wakeStart (s : State) (x : StartInput) (us : Nat) : State :=
  let s := { s with start := { s.start with
    input := { x with straps := s.start.input.straps }, us := 0, failed := [], links := [], reported := []
    lemcAt := none, tested := false } }
  let s := s.boardFlash
  let s := s.setBit Reg.PWR_RSTCAUSE 2 true
  let s := (s.setReg Reg.PWR_DOM 0x3FFFFFFF).setPowerState 0
  let s := s.setReg Reg.PWR_WTIME (BitVec.ofNat 32 (us % 65536))
  let s := (s.setFld Reg.STA_STEP 0 5 4).setReg Reg.SPN_GATE 0
  let s := (List.range 13).foldl (fun s k => s.setReg (Reg.STA_TSTEP k) 0) s
  let s := (s.setReg Reg.WGT_STATE 0).setFld Reg.ARC_ID 16 16 0x0940
  { s with
    taps := [], due := [], spine := {}, running := [], signals := [], ledger := {}, twin := {}
    clock := { s.clock with running := false, cc := 0 } }.bootFrom

/-- START_STEP_TIMEOUT (R538, R550): the step that is under way passes its limit; `stack` is the HBM stack whose
training has failed. -/
def State.stepTimeout (s : State) (stack : Nat) : State :=
  let k := s.fld Reg.STA_STEP 0 4 + 1
  let s := { s with start := { s.start with input := { s.start.input with stall := none } } }
  if s.isMgmtOnly || s.start.held then s
  else if k ≤ 3 then { s with pins := { s.pins with faultN := false } }
  else if k = 5 || k = 6 then
    match s.bootRecord with
    | none => s
    | some b =>
        let s := s.failSlot s.start.slot 0 0 0
        s.trySlot b (1 - s.start.slot) (2 - s.start.failed.length)
  else if k = 7 || k = 8 || k = 13 then
    let s := { s with pins := { s.pins with sysrefReq := false } }
    (s.raise 0x0C03 .fatal chipLoc k 0).mgmtOnly
  else if k = 9 then (s.raise 0x0C07 .fatal (blockLoc 11 0x28 stack) stack 0).mgmtOnly
  else s

/-- The location of a link in a record: an Ethernet port, the lowest lane of a JESD link, the Switu link
layer. -/
def State.linkPlace (s : State) : LinkId → BitVec 64
  | .ether p => (portUnit p).loc
  | .jrx n => s.linkLoc false n
  | .jtx n => s.linkLoc true n
  | .jesd n => s.linkLoc false n
  | .switu => linkLayer.loc
  | .steer _ => blockLoc 8 0x15 0
  | .hbm i => blockLoc 11 0x29 i

/-- LINK_NOT_TRAINED (R541): step 10's limit passes. -/
def State.linksNotTrained (s : State) (us : Nat) : State :=
  if s.fld Reg.STA_STEP 0 4 != 9 || s.isMgmtOnly then s
  else
    let s := s.atUs us
    let ls := s.start.links
    let s := ls.foldl (fun s l =>
      let loop := match l with
        | .jrx n => .jesd n
        | .jtx n => .jesd n
        | l => l
      s.raiseIf (!s.looped loop) 0x0C08 .detected (s.linkPlace l) 0 0) s
    ({ s with start := { s.start with links := [], reported := ls } }).advance (s.tuState == 2)

/-- TIME_LOCK_TIMEOUT (R542): the wait of the header ends unlocked; a wait of 0 does not end. -/
def State.timeLockTimeout (s : State) (us : Nat) : State :=
  if s.fld Reg.STA_STEP 0 4 != 10 || s.isMgmtOnly || s.start.tlock == 0 || s.tuState == 2 then s
  else
    let s := s.atUs us
    let st := s.tuState
    let s := s.raise 0x0C09 .detected (blockLoc 13 0x3E 0) st 0
    s.advance true

/-- HANDSHAKE_WAIT_EXPIRY (R543): no HELLO has come, and no partner runs already. -/
def State.handshakeExpired (s : State) (us : Nat) : State :=
  if s.fld Reg.STA_STEP 0 4 != 11 || s.isMgmtOnly || s.twinState != 1 || decide (4 ≤ s.twin.step) ||
      s.twin.marker.any (fun m => m.slot != 0xFFFFFFFF) then s
  else (s.atUs us).runAlone.advance false

/-- A JESD link in its aligned or data state is up for step 10. -/
def State.jesdUp (s : State) (us : Nat) : State :=
  let up : LinkId → Bool
    | .jrx n => decide (3 ≤ s.fld (linkStat false n) 0 3)
    | .jtx n => decide (3 ≤ s.fld (linkStat true n) 0 3)
    | _ => false
  let s := s.atUs us
  ({ s with start := { s.start with links := s.start.links.filter fun l => !up l } }).advance (s.tuState == 2)

/-- LINK_UP (R448, R541, R602 to R605): an interface comes up, and the loop-back that is in force on it carries
data; `errs` are the bit errors of an HBM PHY's training loop. -/
def State.interfaceUp (s : State) (l : LinkId) (us errs : Nat) : State :=
  let loop := s.looped l
  let s := match l with
    | .ether p => s.inNet fun s =>
        let s := (s.setBit (winKey p Reg.NET_PSTAT) 0 true).setBit (winKey p Reg.NET_PSTAT) 1 true
        if loop then s.setBit (winKey p Reg.NET_LPBK) 8 true else s
    | .jrx n => if s.served 8 && decide (s.fld (linkStat false n) 0 3 < 3) then
        s.setFld (linkStat false n) 0 3 3 else s
    | .jtx n => if s.served 8 && decide (s.fld (linkStat true n) 0 3 < 3) then
        s.setFld (linkStat true n) 0 3 3 else s
    | .jesd n => if loop && s.served 8 then s.setBit Reg.RAD_LPBK (16 + n) true else s
    | .switu => if s.served 12 then
        let s := s.setBit Reg.TWN_STAT 4 true
        if loop then s.setBit Reg.TWN_LPBK 8 true else s
      else s
    | .steer i => if loop && s.served 8 then s.setBit Reg.STP_LPBK (8 + i) true else s
    | .hbm i => if loop && s.served 11 then
        ((s.setBit Reg.MEM_LPBK (8 + i) true).bump Reg.MEM_LPRES 0 16 1).bump Reg.MEM_LPRES 16 16 errs
      else s
  let s := { s with start := { s.start with links := s.start.links.filter fun x => x != l } }
  s.jesdUp us

/-- READY_SIGNAL (R33, R527, R529, R532): the next step of the wake, or of a region's power-up, is ready. A region that was
fenced before Doze stays fenced. `x` is what
the start meets that follows a wake from Keep. -/
def State.readySignal (s : State) (region : Option Nat) (us : Nat) (x : StartInput) : State :=
  match region with
  | some r =>
      match s.power.rising.find? fun e => e.1 = r with
      | none => s
      | some (_, k) =>
          let rest := s.power.rising.filter fun e => e.1 != r
          let s := if k = 0 then s.setDomains r true else s
          let s := if k = 2 then s.clearRegion r fun _ => false else s
          if k + 1 < 4 then { s with power := { s.power with rising := rest ++ [(r, k + 1)] } }
          else { s with power := { s.power with rising := rest, resets := s.power.resets ++ [r] } }
  | none =>
      match s.power.wake with
      | none => s
      | some (back, k) =>
          let s := if back = 2 && k = 0 then s.power.asleep.foldl (fun s e => s.setDomains e.1 true) s else s
          if k + 1 < 4 then { s with power := { s.power with wake := some (back, k + 1) } }
          else
            let s := { s with power := { s.power with wake := none } }
            if back = 3 then s.wakeStart x us
            else
              let s := (s.setPowerState 0).setReg Reg.PWR_WTIME (BitVec.ofNat 32 (us % 65536))
              let s := { s with
                power := { s.power with
                  resume := true, asleep := []
                  resets := s.power.resets ++ s.power.asleep.filterMap fun (e : Nat × Bool) => if e.2 then some e.1 else none }
                start := { s.start with
                  links := s.enabledLinks (s.start.input.image s.start.slot), reported := [], lemcAt := none } }
              if s.anyJesd then { s with pins := { s.pins with sysrefReq := true } } else s

/-- BROWN_OUT (R524, R628). -/
def State.brownOut (s : State) (x : StartInput) : State := s.powerOn x true

/-- SUPPLY_RESET (R628): the device is reset, and starts when the supply next rises. -/
def State.supplyReset (s : State) : State := s.hardReset

def execPowerOn (x : StartInput) (s : State) : Host.Outcome State Fault Refusal := .next (s.powerOn x false)

def execBrownOut (x : StartInput) (s : State) : Host.Outcome State Fault Refusal := .next (s.brownOut x)

def execSupplyReset (s : State) : Host.Outcome State Fault Refusal := .next s.supplyReset

def execStartStepTimeout (stack : Nat) (s : State) : Host.Outcome State Fault Refusal :=
  .next (s.stepTimeout stack)

def execLinkNotTrained (us : Nat) (s : State) : Host.Outcome State Fault Refusal := .next (s.linksNotTrained us)

def execLinkUp (link : LinkId) (us errs : Nat) (s : State) : Host.Outcome State Fault Refusal :=
  .next (s.interfaceUp link us errs)

def execTimeLockTimeout (us : Nat) (s : State) : Host.Outcome State Fault Refusal :=
  .next (s.timeLockTimeout us)

def execHandshakeWaitExpiry (us : Nat) (s : State) : Host.Outcome State Fault Refusal :=
  .next (s.handshakeExpired us)

/-- DELAY_RESP (R438, R542): the exchange that it completes may complete step 11. -/
def execDelayResp (port : Nat) (m : PtpMsg) (us : Nat) (s : State) : Host.Outcome State Fault Refusal :=
  let s := s.ptpArrival port { m with kind := .delayResp } 0 fun _ s => s.slaveResponse m
  .next ((s.atUs us).advance (s.tuState == 2))

/-- HELLO (R503, R543): the pairing that it completes may complete step 12. -/
def execHello (h : Hello) (us : Nat) (s : State) : Host.Outcome State Fault Refusal :=
  let s := s.hello h
  .next ((s.atUs us).advance (s.tuState == 2))

def execReadySignal (region : Option Nat) (us : Nat) (x : StartInput) (s : State) :
    Host.Outcome State Fault Refusal := .next (s.readySignal region us x)

end Sys2Proof.Machine
end

