-- ==== Sys2Proof/Machine/Security.lean ====
section
/-! DEFINITION. NVM commands, saved weight sets and attestation (R562 to R574). -/

namespace Sys2Proof.Machine

open Sys2Proof

/-! ## NVM commands (R549, R566 to R568, R573) -/

/-- NVM.STAT.RESULT and REASON. -/
def State.nvmResult (s : State) (result reason : Nat) : State :=
  (s.setFld Reg.NVM_STAT 8 4 result).setFld Reg.NVM_STAT 12 4 reason

/-- The smallest uniform erase sector (R546). -/
def State.sectorSize (s : State) : Nat := if s.start.input.sector64 then 0x10000 else 0x1000

/-- Whether an image runs: a start has loaded one (R571). -/
def State.imageRuns (s : State) : Bool := decide (8 ≤ s.fld Reg.STA_STEP 0 4)

/-- Whether an area of the flash may not be erased or programmed (R567). -/
def State.protectedArea (s : State) (a n : Nat) : Bool :=
  areasMeet a n 0 0x10000 ||
  match s.bootRecord with
  | none => false
  | some b =>
      areasMeet a n b.wbase b.wsize ||
      (s.imageRuns && !s.bit Reg.STA_STRAP 4 && areasMeet a n (b.slot s.start.slot) b.slotSize)

/-- A slot that an area touches is no longer verified (R567, R573). -/
def State.unverify (s : State) (a n : Nat) : State :=
  match s.bootRecord with
  | none => s
  | some b => (List.range 2).foldl (fun s k =>
      if areasMeet a n (b.slot k) b.slotSize then s.setBit Reg.NVM_STAT (16 + k) false else s) s

/-- A command that is accepted runs until its NVM_COMMAND_DONE. -/
def State.nvmRun (s : State) (job : NvmJob) : State :=
  { ((s.nvmResult 0 0).setBit Reg.NVM_STAT 0 true) with sec := { s.sec with job := some job } }

/-- A command while one is running is refused (R567). -/
def State.nvmIdle (s : State) (f : State → State) : State :=
  if s.bit Reg.NVM_STAT 0 then s.nvmResult 1 0 else f s

/-- ERASE (R566, R567) of the sector at NVM.ADDR. -/
def State.nvmErase (s : State) : State :=
  s.nvmIdle fun s =>
    let a := (s.reg Reg.NVM_ADDR).toNat
    let n := s.sectorSize
    if s.protectedArea a n then s.nvmResult 2 0
    else if a % n != 0 then s.nvmResult 3 0
    else (s.unverify a n).nvmRun ⟨1, 0, a, []⟩

/-- PROGRAM (R566, R567) of the page at NVM.ADDR. -/
def State.nvmProgram (s : State) : State :=
  s.nvmIdle fun s =>
    let a := (s.reg Reg.NVM_ADDR).toNat
    if s.protectedArea a 256 then s.nvmResult 2 0
    else if a % 256 != 0 then s.nvmResult 3 0
    else
      let s := (s.unverify a 256).nvmRun ⟨2, 0, a, s.sec.page⟩
      { (s.setFld Reg.NVM_STAT 1 7 0) with sec := { s.sec with page := [] } }

/-- VERIFY (R566) of a slot. -/
def State.nvmVerify (s : State) (slot : Nat) : State := s.nvmIdle fun s => s.nvmRun ⟨3, slot % 2, 0, []⟩

/-- ACTIVATE (R566, R567) of a slot that has passed VERIFY. -/
def State.nvmActivate (s : State) (slot : Nat) : State :=
  s.nvmIdle fun s =>
    if s.bit Reg.NVM_STAT (16 + slot % 2) then s.nvmRun ⟨4, slot % 2, 0, []⟩ else s.nvmResult 6 0

/-- SAVEW (R568): it waits for the next epoch tick. -/
def State.nvmSave (s : State) : State :=
  s.nvmIdle fun s =>
    let room := (s.bootRecord.map (·.wsize)).getD 0
    if room < s.plan.weights.len || s.bootRecord.isNone then s.nvmResult 3 0 else s.nvmRun ⟨5, 0, 0, []⟩

/-- DROPW (R568). -/
def State.nvmDrop (s : State) : State := s.nvmIdle fun s => s.nvmRun ⟨6, 0, 0, []⟩

/-- The epoch tick from which SAVEW reads the active set and promotion is suspended (R568). -/
def State.startSave (s : State) : State :=
  match s.sec.job with
  | some j => if j.cmd = 5 then { s with sec := { s.sec with saving := true } } else s
  | none => s

/-- Free bytes, for a part of the flash that a failed command has left in no stated condition. -/
def State.freeBytes (s : State) (n : Nat) : List Byte × State :=
  let (vs, s) := s.drawFor true n
  (vs.map (·.setWidth 8), s)

/-- The flash area that a command writes. -/
def State.nvmArea (s : State) (j : NvmJob) : Nat × Nat :=
  let b := s.bootRecord.getD {}
  match j.cmd with
  | 1 => (j.addr, s.sectorSize)
  | 2 => (j.addr, 256)
  | 5 => (b.wbase, min b.wsize (256 + s.plan.weights.len + 4627))
  | 3 => (0, 0)
  | _ => ((1 - b.copy) * 0x1000, 64)

/-- The granules of the active copy that the NVM loader reads, whose H-C fails (R568). -/
def State.badWeightGranules (s : State) : List Nat :=
  let w := s.plan.weights
  let a := ofCopy w.copies s.activeCopy
  (List.range ((a + w.len + 255) / 256 - a / 256)).filter fun g => !s.hallOk (1, a / 256 + g)

/-- The saved record of the active weight set (R568), and the boot record with LOADW set. -/
def State.writeWeights (s : State) (b : BootRecord) : State :=
  let w := s.plan.weights
  let payload := SMap.readList 0 s.mem.hbm (ofCopy w.copies s.activeCopy) w.len
  let s := s.badWeightGranules.foldl (fun s g =>
    let k := ofCopy w.copies s.activeCopy / 256 + g
    s.raise 0x0201 .detected nvmLoc (s.hallmark (1, k)).toNat (hc (s.granuleBytes (1, k))).toNat) s
  let h := weightHeader (s.fld Reg.WGT_STATE 16 16) w.len s.imageDigest (Config.sha3 payload)
  let s := s.setFlash b.wbase (h ++ payload ++ Config.mldsaSign (Config.sha3 h))
  s.writeBoot { b with loadw := true }

/-- What a command that meets no flash error does, with its RESULT and REASON. -/
def State.nvmEffect (s : State) (j : NvmJob) : State :=
  match j.cmd with
  | 1 => (s.setFlash j.addr (List.replicate s.sectorSize 0xFF)).nvmResult 0 0
  | 2 =>
      let bs := (j.words.flatMap fun w => leBytes 4 w.toNat) ++ List.replicate (256 - 4 * j.words.length) 0xFF
      (s.setFlash j.addr bs).nvmResult 0 0
  | 3 =>
      match s.bootRecord with
      | none => (s.setBit Reg.NVM_STAT (16 + j.slot) false).nvmResult 5 1
      | some b => match s.slotFault b j.slot with
        | some f => (s.setBit Reg.NVM_STAT (16 + j.slot) false).nvmResult 5 f.1
        | none => (s.setBit Reg.NVM_STAT (16 + j.slot) true).nvmResult 0 0
  | 4 => ((s.bootRecord.map fun b => s.writeBoot { b with pref := j.slot }).getD s).nvmResult 0 0
  | 5 => ((s.bootRecord.map fun b => s.writeWeights b).getD s).nvmResult 0 0
  | _ => ((s.bootRecord.map fun b => s.writeBoot { b with loadw := false }).getD s).nvmResult 0 0

/-- NVM_COMMAND_DONE (R567, R573, R585). SAVEW completes only after its epoch tick. -/
def State.nvmDone (s : State) (error : Bool) : State :=
  match s.sec.job with
  | none => s
  | some j =>
      if j.cmd = 5 && !s.sec.saving then s
      else
        let s := if error then
            let (a, n) := s.nvmArea j
            let (bs, s) := s.freeBytes n
            let s := s.setFlash a bs
            let s := (s.bump Reg.NVM_STAT 24 8 1).nvmResult 4 0
            s.raise 0x0C0C .detected nvmLoc a 0
          else s.nvmEffect j
        let s := { (s.setBit Reg.NVM_STAT 0 false) with sec := { s.sec with job := none, saving := false } }
        s.announce 0xA3 (leBytes 2 (s.fld Reg.NVM_STAT 0 16) ++ [0, 0])

/-- PAGE_BUFFER_WRITE (R567, R573). -/
def State.pageWrite (s : State) (w : Word) : State :=
  if 64 ≤ s.sec.page.length then s
  else
    let p := s.sec.page ++ [w]
    { (s.setFld Reg.NVM_STAT 1 7 p.length) with sec := { s.sec with page := p } }

/-- A write of NVM.CMD (R573). -/
def State.nvmCommand (s : State) (cmd slot : Nat) : State :=
  match cmd with
  | 1 => s.nvmErase
  | 2 => s.nvmProgram
  | 3 => s.nvmVerify slot
  | 4 => s.nvmActivate slot
  | 5 => s.nvmSave
  | 6 => s.nvmDrop
  | _ => s

/-! ## Attestation (R562 to R565, R572) -/

/-- The location of a repair entry in the form of R56. -/
def State.formOf (s : State) (l : BitVec 64) : BitVec 64 := if s.bit Reg.ARC_LOCFORM 0 then sevenLoc l else l

/-- The 16 bytes of a repair entry (R563). -/
def State.repairBytes (s : State) (f : Finding) : List Byte :=
  leBytes 8 (s.formOf f.loc).toNat ++ leBytes 1 f.kind ++ leBytes 1 f.spare ++
    leBytes 1 (s.fld Reg.ARC_LOCFORM 0 1) ++ List.replicate 5 0

/-- The bytes of a report up to its signature (R563). -/
def State.reportBody (s : State) (nonce : List Byte) (map : Bool) : List Byte :=
  let es := if map then s.start.repair else []
  let n := es.length
  let t := s.now
  let flags := (if s.bit Reg.SEC_ID 1 then 1 else 0) + s.fld Reg.STA_IMG 1 1 * 2 + s.fld Reg.STA_IMG 3 1 * 4
    + (if s.clock.running then 8 else 0)
  leBytes 2 1 ++ leBytes 2 0 ++ leBytes 4 (148 + 16 * n + 4628) ++
    leBytes 4 (s.reg Reg.SEC_SERLO).toNat ++ leBytes 4 (s.reg Reg.SEC_SERHI).toNat ++
    (nonce ++ List.replicate 32 0).take 32 ++ leBytes 64 s.imageDigest.toNat ++
    leBytes 4 (s.reg Reg.STA_IMGVER).toNat ++ leBytes 2 (s.fld Reg.STA_IMG 16 16) ++
    leBytes 1 (s.fld Reg.ARC_GRADE 0 1) ++ leBytes 1 flags ++ leBytes 8 (secOf t % 2 ^ 48) ++
    leBytes 4 (nsOf t) ++ leBytes 2 (t % 2 ^ 16) ++ leBytes 1 s.tuState ++ leBytes 1 0 ++
    leBytes 4 s.slotShown ++ leBytes 4 (s.fld Reg.WGT_STATE 16 16) ++ leBytes 2 n ++ leBytes 2 0 ++
    es.flatMap s.repairBytes

/-- ATTREP (R430, R431, R564): one message, the last of its block. -/
def State.sendReport (s : State) (bs : List Byte) : State :=
  let msg := beBytes 2 0x14 ++ beBytes 2 (8 + bs.length) ++ [0, 1, 0, 0] ++ networkOrder bs
  s.inNet fun s => s.enqueue 8 (.datagram 0 0 [msg])

/-- A report that is ready for I3C. -/
def State.showReport (s : State) (status : Nat) (bs : List Byte) : State :=
  let s := (s.setBit Reg.SEC_ATTSTAT 1 true).setFld Reg.SEC_ATTSTAT 2 2 status
  let s := s.setFld Reg.SEC_ATTSTAT 16 16 bs.length
  let s := { s with sec := { s.sec with report := bs, taken := 0 } }
  s.announce 0xA2 (leBytes 2 bs.length ++ [0, 0])

/-- A report of STATUS 1 or 2 (R565). -/
def State.shortReport (s : State) (l2 : Bool) (status : Nat) : State :=
  let bs := leBytes 2 1 ++ leBytes 2 status ++ leBytes 4 8
  let s := if status = 1 then s.bump Reg.SEC_CNT 16 8 1 else s.bump Reg.SEC_CNT 24 8 1
  if l2 then s.sendReport bs else s.showReport status bs

/-- A request for a report (R562, R565). -/
def State.requestReport (s : State) (l2 : Bool) (nonce : List Byte) (map : Bool) : State :=
  if s.fld Reg.STA_STEP 0 4 < 3 || !s.bit Reg.SEC_ID 0 then s.shortReport l2 2
  else if s.sec.forming.isSome then s.shortReport l2 1
  else
    let body := s.reportBody nonce map
    { (s.setBit Reg.SEC_ATTSTAT 0 true) with sec := { s.sec with forming := some ⟨l2, body⟩ } }

/-- ATTREQ (R430, R562). -/
def State.attReq (s : State) (m : L2Msg) : State :=
  s.inNet fun s =>
    if s.isShadow then s
    else if m.len != 44 || m.body.length != 36 then s.bump Reg.NET_L2CNT0 8 8 1
    else s.requestReport true (m.body.take 32) (beNat (m.body.drop 32) % 2 == 1)

/-- The nonce that stands in SEC.NONCE0 to SEC.NONCE7. -/
def State.nonceBytes (s : State) : List Byte :=
  (List.range 8).flatMap fun k => leBytes 4 (s.reg (Reg.SEC_NONCE k)).toNat

/-- GO (R562, R572, R574). -/
def State.attGo (s : State) (map : Bool) : State :=
  let s := { (s.setBit Reg.SEC_ATTSTAT 1 false) with sec := { s.sec with report := [], taken := 0 } }
  s.requestReport false s.nonceBytes map

/-- REPORT_READY (R562, R564): the report is signed and returned. -/
def State.reportReady (s : State) : State :=
  match s.sec.forming with
  | none => s
  | some r =>
      let bs := r.body ++ Config.mldsaSign (Config.sha3 r.body) ++ [0]
      let s := { (s.setBit Reg.SEC_ATTSTAT 0 false) with sec := { s.sec with forming := none } }
      let s := s.bump Reg.SEC_CNT 0 16 1
      if r.l2 then s.sendReport bs else s.showReport 0 bs

/-- ATTDATA_READ (R572): SEC.ATTDATA shows the word that the read returns. -/
def State.attRead (s : State) : State :=
  let w := BitVec.ofNat 32 (leNat ((s.sec.report.drop (4 * s.sec.taken)).take 4))
  { (s.setReg Reg.SEC_ATTDATA w) with sec := { s.sec with taken := s.sec.taken + 1 } }

def execErase (s : State) : Host.Outcome State Fault Refusal := .next (s.managed State.nvmErase)

def execProgram (s : State) : Host.Outcome State Fault Refusal := .next (s.managed State.nvmProgram)

def execVerify (slot : Nat) (s : State) : Host.Outcome State Fault Refusal :=
  .next (s.managed fun s => s.nvmVerify slot)

def execActivate (slot : Nat) (s : State) : Host.Outcome State Fault Refusal :=
  .next (s.managed fun s => s.nvmActivate slot)

def execSavew (s : State) : Host.Outcome State Fault Refusal := .next (s.managed State.nvmSave)

def execDropw (s : State) : Host.Outcome State Fault Refusal := .next (s.managed State.nvmDrop)

def execPageBufferWrite (value : Word) (s : State) : Host.Outcome State Fault Refusal :=
  .next (s.managed fun s => s.pageWrite value)

def execNvmCommandDone (error : Bool) (s : State) : Host.Outcome State Fault Refusal := .next (s.nvmDone error)

def execAttreq (m : L2Msg) (s : State) : Host.Outcome State Fault Refusal := .next (s.attReq m)

def execGo (map : Bool) (s : State) : Host.Outcome State Fault Refusal := .next (s.managed fun s => s.attGo map)

def execReportReady (s : State) : Host.Outcome State Fault Refusal := .next s.reportReady

def execAttdataRead (s : State) : Host.Outcome State Fault Refusal := .next (s.managed State.attRead)

end Sys2Proof.Machine
end

