-- ==== Sys2Proof/Machine/Control.lean ====
section
/-! DEFINITION. Accesses of the control space: which register an address names, what a read returns, and what
a write does (R13 to R16, R44, R46, R49, R531, R575 to R577, R582). -/

namespace Sys2Proof.Machine

open Sys2Proof

/-- STATUS of an access (R582). -/
abbrev Status : Type := Nat

def Status.ok : Status := 0x00
def Status.absent : Status := 0x03
def Status.unassigned : Status := 0x04
def Status.align : Status := 0x05
def Status.refused : Status := 0x06

/-! ## Which register an address names (R576) -/

/-- The region whose stop a control address reaches (R576); the chip base and MGMT are always there. -/
def regionOfAddr (a : Nat) : Option Nat :=
  if 0x10000000 ≤ a && a < 0x1D000000 then some ((a - 0x10000000) / 0x1000000) else none

/-- Whether a QZ-924 leaves an address unassigned: the Slicer's block and the fourth Anvil's (R180, R181). -/
def State.gradeLacks (s : State) (a : Nat) : Bool :=
  match regionOfAddr a with
  | some r => decide (r < 8) &&
      ((a % 0x1000000 / 0x1000 == 0x18 && !s.bit Reg.ARC_GRADE 8) ||
        (a % 0x1000000 / 0x1000 == 0x13 && s.bit Reg.ARC_GRADE 0))
  | none => false

/-- The register key that an address shows through its selector; none where the selection names nothing
(R137, R336, R372, R448, R535, R615). -/
def State.keyOf (s : State) (d : RegDef) (a : Nat) : Option Nat :=
  let pick (n limit : Nat) : Option Nat := if n ≤ limit then some (winKey n a) else none
  match d.sel with
  | .none => some a
  | .fmtChannel => s.selChan.map fun k => winKey k a
  | .agcLoop => pick (s.fld Reg.AGC_SEL 0 6) 63
  | .netPort => pick (s.fld Reg.NET_PORTSEL 0 4) 8
  | .elsRegion | .elsRegionClass =>
      let r := s.fld Reg.ELS_SEL 0 4
      if r < 8 || r == 10 || r == 12 then some (winKey r a) else none
  | .elsClient => pick (s.fld Reg.ELS_SEL 8 6) 63
  | .elsContext => pick (s.fld Reg.ELS_SEL 16 6) 63
  | .ofsCell => pick (s.fld Reg.OFS_SEL 0 3) 7
  | .pwrRegion => pick (s.fld Reg.PWR_SEL 0 4) 13
  | .radLane => pick (s.fld Reg.RAD_PRBS 0 5) 23
  | .twnLane => pick (s.fld Reg.TWN_PRBS 0 5) 31

/-! ## What a read shows (R49) -/

/-- A word of bits: a value at its lowest bit. -/
def packBits (xs : List (Nat × Nat × Nat)) : Word :=
  BitVec.ofNat 32 ((xs.map fun x => x.2.2 % 2 ^ x.2.1 * 2 ^ x.1).sum)

/-- A Boolean as a bit. -/
def bitNat (b : Bool) : Nat := if b then 1 else 0

/-- The selected context as ELS.CTX shows it (R336). -/
def State.showCtx (s : State) (c : Nat) : Word :=
  let x := s.ctx c
  let st := match x.state with
    | .idle => 0
    | .runnable => 1
    | .blocked => 2
    | .running => 3
  packBits [(0, 4, x.image.home), (4, 2, st), (6, 1, bitNat x.resident), (7, 6, x.queue.length),
    (13, 6, x.image.client), (19, 3, x.slot)]

/-- A channel as FMT.CHSTAT and FMT.CHMAX show it, before the pushes of the present cycle (R137). With EMPTY set EW reads
0, which the manual does not state (DESIGN CHOICE, log entry 103). -/
def State.showChan (s : State) (k : Nat) (max_ : Bool) : Word :=
  let c := (s.settleTaps (s.clock.cc - 1)).chan k
  if max_ then match c.window (s.chanW k) with
    | some e => packBits [(0, 12, wrapBits 12 e)]
    | none => packBits [(31, 1, 1)]
  else packBits [(0, 12, wrapBits 12 c.shift), (12, 1, bitNat c.held), (13, 1, bitNat c.fresh),
    (14, 1, bitNat c.flr), (16, 4, (c.hist.filter (·.isSome)).length)]

/-- Whether a command of a class runs on a unit. -/
def State.unitBusy (s : State) (cls region unit : Nat) : Bool :=
  s.running.any fun e => e.cls == cls && e.region == region && e.unit == unit && decide (s.clock.cc < e.finish)

/-- Whether a command of a class runs on one port of a unit. -/
def State.portBusy (s : State) (cls region unit port : Nat) : Bool :=
  s.running.any fun e => e.cls == cls && e.region == region && e.unit == unit && e.port == port &&
    decide (s.clock.cc < e.finish)

/-- An Anvil's registers that show its tile and its slots (R180). -/
def State.showAnvil (s : State) (r a o : Nat) (w : Word) : Word :=
  let x := s.anvil r a
  if o = 0 then
    let t := x.tile.getD {}
    w ||| packBits [(0, 4, t.digits), (4, 4, t.fmt), (8, 8, t.krows), (16, 7, t.ncols), (23, 1, bitNat t.cplx),
      (24, 1, bitNat x.tile.isSome), (25, 2, s.physAnvil r a)]
  else if o = 4 then
    w ||| packBits [(16, 1, bitNat (s.portBusy 1 r a 0)), (17, 1, bitNat (s.portBusy 1 r a 1))]
  else w

/-- A tensor record of a Crucible (R221). -/
def State.showTensor (s : State) (r o : Nat) (w : Word) : Word :=
  let x : Crucible := SMap.read {} s.crucibles r
  let t : Tensor := SMap.read {} x.tensors (s.fld (Reg.CRU_TSEL r) 0 4)
  match o with
  | 0x00 => w ||| packBits [(16, 1, bitNat (s.unitBusy 7 r 0))]
  | 0x08 => packBits [(0, 18, t.base), (31, 1, bitNat t.isOpen)]
  | 0x0C => packBits [(0, 13, t.rows), (16, 13, t.cols)]
  | 0x10 => packBits [(0, 12, wrapBits 12 t.g), (16, 6, t.owner)]
  | 0x14 => packBits [(0, 16, t.flags.toNat), (16, 1, bitNat t.void), (17, 15, t.rho)]
  | 0x18 => packBits [(0, 32, t.count)]
  | 0x24 => packBits [(0, 16, t.rho)]
  | _ => w

/-- Where the accesses that a stream has issued by a cycle end (R277, R283): those of a local read stream run
ahead of its client; of any other, what its client has taken or given counts. -/
def State.issuedBy (s : State) (r : Nat) (t : Stream) (cc : Nat) : List Nat :=
  if t.writes || t.isCopy then []
  else
    let ends := s.streamAccesses r t (blocksSize (t.ofKind 0))
    let ahead (e : Nat) : Bool := if t.pre then decide (e ≤ t.posData + 16384) else decide (e ≤ t.posData + 256)
    let gone := (ends.filter fun e => decide (e ≤ t.posData)).length
    let n := min (cc + 1 - (t.start + 4)) (if t.pre then ends.length else gone + 4)
    (ends.take (max gone n)).filter ahead

/-- The block of the next access of a stream, by its place in the list. -/
def State.currentBlock (s : State) (r : Nat) (t : Stream) : Nat :=
  let o := max t.posData ((s.issuedBy r t s.clock.cc).getLast?.getD 0)
  let size (i : Nat) : Nat := blocksSize ((t.blocks.take (i + 1)).filter fun b => b.kind = 0)
  ((List.range t.blocks.length).find? fun i => decide (o < size i)).getD (t.blocks.length - 1)

/-- LDL.STAT.DRAIN: the accesses issued whose data have not come (R283). -/
def State.drainCount (s : State) (r : Nat) (t : Stream) : Nat :=
  (s.issuedBy r t s.clock.cc).length - (s.issuedBy r t (s.clock.cc - 4)).length

/-- A Ladle's registers that show its stream (R295). -/
def State.showLadle (s : State) (r l o : Nat) (w : Word) : Word :=
  let x := s.ladle r l
  let t : Stream := x.active.getD {}
  let i := if x.active.isSome then s.currentBlock r t else 0
  let b : Block := t.blocks.getD i {}
  match o with
  | 0x00 => packBits [(0, 1, bitNat x.active.isSome), (1, 1, bitNat x.shadow.isSome), (2, 1, bitNat t.stopping),
      (8, 8, i), (16, 10, s.drainCount r t)]
  | 0x04 => t.w2
  | 0x08 => t.w3
  | 0x0C => t.w4
  | 0x10 => t.w5
  | 0x14 => t.w6
  | 0x20 => BitVec.ofNat 32 b.addr
  | 0x24 => packBits [(0, 4, b.addr / 2 ^ 32), (4, 2, b.space), (6, 3, b.region), (9, 2, b.kind), (11, 3, b.usz)]
  | 0x28 => packBits [(0, 16, b.cnt0), (16, 16, b.cnt1)]
  | 0x2C => packBits [(0, 16, b.cnt2), (16, 16, b.cnt3)]
  | 0x30 => BitVec.ofInt 32 b.str0
  | 0x34 => BitVec.ofInt 32 b.str1
  | 0x38 => BitVec.ofInt 32 b.str2
  | 0x3C => BitVec.ofInt 32 b.str3
  | 0x48 => BitVec.ofNat 32 (min (x.bytes / 1024) 0xFFFFFFFF)
  | _ => w

/-- A register of a compute region. -/
def State.showCompute (s : State) (r o : Nat) (w : Word) : Word :=
  let blk := o / 0x1000
  let i := o % 0x1000
  if 0x10 ≤ blk && blk < 0x14 then s.showAnvil r (blk - 0x10) i w
  else if blk = 0x14 || blk = 0x15 then
    if i = 4 then
      let x : Planisher := SMap.read {} s.planishers (r * 2 + (blk - 0x14))
      let busy (arith : Bool) : Bool := x.flight.any fun f => f.arith == arith && decide (s.clock.cc < f.free)
      w ||| packBits [(16, 1, bitNat (busy false)), (17, 1, bitNat (busy true))]
    else w
  else if blk = 0x18 then
    if i = 0 then w ||| packBits [(16, 1, bitNat (s.unitBusy 2 r 0))]
    else w
  else if blk = 0x19 then
    if i = 0 then
      let x : Swage := SMap.read {} s.swages r
      w ||| packBits [(16, 1, bitNat (decide (s.clock.cc < x.fillFree))),
        (17, 1, bitNat (decide (s.clock.cc < x.emitFree)))]
    else w
  else if blk = 0x1A then s.showTensor r i w
  else if blk = 0x1C then
    if i % 0x400 = 0 then
      let x : Tinker := SMap.read {} s.tinkers (r * 4 + i / 0x400)
      packBits [(0, 1, bitNat (s.unitBusy 4 r (i / 0x400))), (8, 7, x.batch.length)]
    else w
  else if blk = 0x1D then s.showLadle r (i / 0x100) (i % 0x100) w
  else w

/-- The groups for which a list of keys holds one. -/
def groupsOf (ks : List Nat) : Nat :=
  ((List.range 15).map fun g => if ks.any fun k => groupOf k == g then 2 ^ g else 0).sum

/-- A register of MGMT or of the chip base whose value lies elsewhere in the state. -/
def State.showManaged (s : State) (a : Nat) (w : Word) : Word :=
  if a = Reg.FMT_STAGED then w ||| packBits [(0, 7, s.stagedChans.length)]
  else if a = Reg.MGT_PEND then
    packBits [(0, 15, groupsOf ((s.commit.shadow.filter fun e => e.2.mask != 0).map (·.1))),
      (16, 15, groupsOf (s.commit.waiting.map (·.key)))]
  else if a = Reg.MGT_IBI then w ||| packBits [(0, 11, (s.faults.queue.filter (·.owed)).length)]
  else if a = Reg.MGT_TLMDATA then s.seq.complete.getD (s.fld Reg.MGT_TLMSEL 0 8) 0
  else if a = Reg.FLT_QSTAT then
    packBits [(0, 11, s.faults.queue.length), (16, 11, maskedCount s.faults.queue)]
  else if Reg.FLT_REC 0 ≤ a && a ≤ Reg.FLT_REC 7 then
    match s.faults.queue with
    | [] => 0
    | r :: _ => r.words.getD ((a - Reg.FLT_REC 0) / 4) 0
  else if a = Reg.LGR_QRES then
    let x := s.cell (s.fld Reg.LGR_QSEL 16 2) (s.fld Reg.LGR_QSEL 0 4) (s.fld Reg.LGR_QSEL 4 12)
    packBits [(0, 1, bitNat x.complete), (1, 1, bitNat x.void), (2, 1, bitNat x.suspect)]
  else if a = Reg.CLK_RUN0 then packBits ((List.range 32).map fun i => (i, 1, bitNat (s.clockRuns i)))
  else if a = Reg.CLK_RUN1 then packBits ((List.range 8).map fun i => (i, 1, bitNat (s.clockRuns (32 + i))))
  else if Reg.STA_RMDATA 0 ≤ a && a ≤ Reg.STA_RMDATA 3 then
    match s.start.repair[s.fld Reg.STA_RMSEL 0 8]? with
    | some f => BitVec.ofNat 32 (leNat (((s.repairBytes f).drop (a - Reg.STA_RMDATA 0)).take 4))
    | none => 0
  else w

/-- What a read of a register shows, from its stored word and its selected instance. -/
def State.shown (s : State) (d : RegDef) (a key : Nat) : Word :=
  let w := s.reg key
  let sel := key / 2 ^ 32 - 1
  match d.sel with
  | .none =>
      match regionOfAddr a with
      | some r =>
          if r < 8 then s.showCompute r (a % 0x1000000) w
          else if a = Reg.CDC_RQ then w ||| packBits [(0, 5, s.code.queue.length)]
          else if a = Reg.TWN_VAR then
            if s.twinState = 0 || s.twinState = 4 then (w &&& 0xFFFF) ||| packBits [(16, 16, s.active)] else w
          else if 0x18003000 ≤ a && a < 0x18003100 && a % 0x10 = 0 then
            w ||| packBits [(16, 1, bitNat (s.unitBusy 8 8 ((a - 0x18003000) / 0x10)))]
          else w
      | none =>
          if (a = Reg.TCK_SYMOFF 12 || a = Reg.TCK_SYMOFF 13) && s.fld Reg.TCK_SYMS 0 4 = 12 then 0
          else s.showManaged a w
  | .fmtChannel =>
      if a = Reg.FMT_CHSTAT then s.showChan sel false
      else if a = Reg.FMT_CHMAX then s.showChan sel true else w
  | .agcLoop =>
      if a = Reg.AGC_STAT then
        let x : GainLoop := SMap.read {} s.radio.loops sel
        (w &&& 0xFF00FF) ||| packBits [(8, 1, bitNat x.frozen), (9, 1, bitNat !x.words.isEmpty)]
      else w
  | .elsRegionClass => BitVec.ofInt 32 (s.deficit sel (s.fld Reg.ELS_SEL 4 4))
  | .elsContext => s.showCtx sel
  | .pwrRegion =>
      if a = Reg.PWR_GOV then
        packBits [(0, 13, s.budget sel s.clock.cc),
          (16, 13, ((s.heldGrants sel s.clock.cc).map (·.amount)).sum)]
      else w
  | .radLane => if a = Reg.RAD_PRBS then w ||| (s.reg a &&& 0x1F) else w
  | .twnLane => if a = Reg.TWN_PRBS then w ||| (s.reg a &&& 0x1F) else w
  | _ => w

/-! ## Accesses -/

/-- The longest leg of a control-space access (R44, R58); `seen` is what the hardware took before a plan ran. -/
def State.measureLeg (s : State) (a seen : Nat) : State :=
  let leg := s.controlLeg ((regionOfAddr a).getD 13) seen
  s.setFld Reg.SPN_CTLMAX 0 16 (max (s.fld Reg.SPN_CTLMAX 0 16) (min leg 0xFFFF))

/-- Whether an access finds its region fenced or powered down, or, in Keep, lies outside MGMT (R531, R583). -/
def State.isAbsent (s : State) (a : Nat) : Bool :=
  (s.powerState == 3 && decide (a < 0x1F000000)) || (match regionOfAddr a with
    | some r => !s.served r
    | none => false)

/-- The outcome of an address before its register acts (R577). -/
def State.access (s : State) (m a : Nat) : Status × Option RegDef × State :=
  let s := s.catchUp
  if a % 4 != 0 then (Status.align, none, s.unassigned m a)
  else match (if s.gradeLacks a then none else findReg a) with
    | none => (Status.unassigned, none, s.unassigned m a)
    | some d =>
        if s.isAbsent a then (Status.absent, none, s.bump Reg.SPN_ABSCNT 0 32 1)
        else (Status.ok, some d, s)

/-- A read of the control space (R13, R577): status, word and state. TU.SECHI copies the time (R443) and
SEC.ATTDATA moves to the next word (R572). -/
def State.ctlRead (s : State) (m a : Nat) : Status × Word × State :=
  match s.access m a with
  | (st, none, s) => (st, 0, s)
  | (st, some d, s) =>
      let s := if a = Reg.TU_SECHI then s.timeRead else if a = Reg.SEC_ATTDATA then s.attRead else s
      match s.keyOf d a with
      | none => (st, 0, s)
      | some k => (st, s.shown d a k &&& d.maskOf fun x => x != .wo, s)

/-- A function on the state when a bit of a written word is 1. -/
def whenBit (w : Word) (i : Nat) (f : State → State) (s : State) : State := if bitOf w i then f s else s

/-- The clear bits of a compute region's registers. -/
def State.clearCompute (s : State) (r o : Nat) (w : Word) : State :=
  let blk := o / 0x1000
  let i := o % 0x1000
  if 0x10 ≤ blk && blk < 0x14 && i = 0x24 then
    whenBit w 1 (fun s => s.anvClrCnt r (blk - 0x10)) (whenBit w 0 (fun s => s.anvClrLatch r (blk - 0x10)) s)
  else if (blk = 0x14 || blk = 0x15) && i = 0x28 then
    whenBit w 1 (fun s => s.plnClrCnt r (blk - 0x14)) (whenBit w 0 (fun s => s.plnClrLatch r (blk - 0x14)) s)
  else if blk = 0x18 && i = 0x14 then
    whenBit w 1 (fun s => s.slcClrCnt r) (whenBit w 0 (fun s => s.slcClrLatch r) s)
  else if blk = 0x19 && i = 0x10 then whenBit w 0 (fun s => s.swgClr r) s
  else if blk = 0x1A && i = 0x20 then whenBit w 0 (fun s => s.cruClr r) s
  else if blk = 0x1C && i % 0x400 = 0x18 then whenBit w 0 (fun s => s.tnkClr r (i / 0x400)) s
  else if blk = 0x1D && i % 0x100 = 0x4C then whenBit w 0 (fun s => s.ldlClr r (i / 0x100)) s
  else if blk = 0x1E && i = 0x18 then whenBit w 0 (fun s => s.spdClr r) s
  else s

/-- What a write does beside the fields that it replaces, clears or stages. -/
def State.writeEffect (s : State) (a : Nat) (w : Word) : State :=
  if a = Reg.MGT_COMMIT then s.doCommit (bitsOf w 0 15)
  else if a = Reg.MGT_DISCARD then s.discard (bitsOf w 0 15)
  else if a = Reg.SEC_ATTCTL then whenBit w 0 (fun s => s.attGo (bitOf w 1)) s
  else if a = Reg.NVM_DATA then s.pageWrite w
  else if a = Reg.NVM_CMD then s.nvmCommand (bitsOf w 0 4) (bitsOf w 4 1)
  else if a = Reg.PWR_WAKE then whenBit w 8 State.wakeNow s
  else if a = Reg.FLT_POP then whenBit w 0 State.popRecord s
  else if a = Reg.SPN_CNTCLR then whenBit w 0 State.spnCntclr s
  else if a = Reg.DET_CLR then whenBit w 0 State.detClr s
  else if a = Reg.FMT_CLR then whenBit w 0 State.fmtClr s
  else if a = Reg.GRD_CLR then whenBit w 0 State.grdClr s
  else if a = Reg.ELS_CLR then whenBit w 0 State.elsClr s
  else if a = Reg.WGT_CLR then whenBit w 0 State.wgtClr s
  else if a = Reg.SCH_CLR then whenBit w 0 State.schClr s
  else if a = Reg.RAD_CLR then whenBit w 0 State.radClr s
  else if a = Reg.RAD_PRBS then whenBit w 16 State.radPrbsClr s
  else if a = Reg.NET_CLR then whenBit w 0 State.netClr s
  else if a = Reg.NET_PRBS then whenBit w 16 State.netPrbsClr s
  else if a = Reg.CDC_CLR then whenBit w 0 State.cdcClr s
  else if a = Reg.MEM_CLR then whenBit w 0 State.memClr s
  else if a = Reg.TWN_CLR then whenBit w 0 State.twnClr s
  else if a = Reg.TWN_PRBS then whenBit w 16 State.twnPrbsClr s
  else if a = Reg.MGT_CLR then whenBit w 0 State.mgtClr s
  else if a = Reg.FLT_CLR then whenBit w 0 State.fltClr s
  else if a = Reg.LGR_CLR then whenBit w 0 State.lgrClr s
  else if a = Reg.PWR_CLR then whenBit w 0 State.pwrClr s
  else if a = Reg.CLK_CLR then whenBit w 0 State.clkClr s
  else if a = Reg.SEC_CLR then whenBit w 0 State.secClr s
  else match regionOfAddr a with
    | some r => if r < 8 then s.clearCompute r (a % 0x1000000) w else s
    | none => s

/-- The RW and W1C fields of a register after a write (R13). -/
def RegDef.written (d : RegDef) (old w : Word) : Word :=
  let rw := d.maskOf fun x => x == .rw
  let w1c := d.maskOf fun x => x == .w1c
  (old &&& ~~~rw &&& ~~~(w1c &&& w)) ||| (rw &&& w)

/-- The RW and W1C fields of a register take a written word: a trigger's TU.TRGnN checks its time (R445), a
capture's VALID takes LOST with it (R448), and the lane of a PRBS register stands beside the lanes (R615). -/
def State.writeFields (s : State) (d : RegDef) (a : Nat) (w : Word) : State :=
  if Reg.TU_TRGN 0 ≤ a && a ≤ Reg.TU_TRGN 3 && a % 0x10 = 4 then s.triggerArm ((a - Reg.TU_TRGN 0) / 0x10) w
  else
    let key := if a = Reg.RAD_PRBS || a = Reg.TWN_PRBS then a else (s.keyOf d a).getD a
    if s.keyOf d a = none && key = a && d.sel != .none && d.sel != .radLane && d.sel != .twnLane then s
    else
      let s := s.setReg key (d.written (s.reg key) w)
      if Reg.TU_CAPN 0 ≤ a && a ≤ Reg.TU_CAPN 3 && a % 0x10 = 4 && bitOf w 31 then
        s.setFld (a + 4) 24 8 0
      else s

/-- The staged fields of a register take a written word into their shadow (R13, R135, R587). -/
def State.writeStaged (s : State) (d : RegDef) (a : Nat) (w : Word) : Status × State :=
  let mask := d.maskOf fun x => x == .rws
  if mask = 0 then (Status.ok, s)
  else if a = Reg.FMT_CHCFG || a = Reg.FMT_CHZP then
    let full := match s.selChan with
      | some k => !s.stagedChans.contains k && decide (64 ≤ s.stagedChans.length)
      | none => false
    (if full then Status.refused else Status.ok, s.stageChannel (a == Reg.FMT_CHZP) w.toNat)
  else match s.keyOf d a with
    | none => (Status.ok, s)
    | some k => (Status.ok, s.stage k mask w)

/-- A write of the control space (R13, R577). -/
def State.ctlWrite (s : State) (m a : Nat) (w : Word) : Status × State :=
  match s.access m a with
  | (st, none, s) => (st, s)
  | (_, some d, s) =>
      let s := s.writeFields d a w
      let (st, s) := s.writeStaged d a w
      (st, s.writeEffect a w)

/-- REGISTER_WRITE (R13): a write to a register by the board's controller, with the cycles of its
leg. -/
def execRegisterWrite (addr : Nat) (value : Word) (leg : Nat) (s : State) : Host.Outcome State Fault Refusal :=
  .next (s.managed fun s => ((s.measureLeg addr leg).ctlWrite 0x39 addr value).2)

end Sys2Proof.Machine
end

