-- ==== Sys2Proof/Machine/I3c.lean ====
section
/-! DEFINITION. The I3C target: common command codes, the register framing, echo, and in-band interrupts (R578
to R586, R607). -/

namespace Sys2Proof.Machine

open Sys2Proof

/-- The location of the I3C target (R51). -/
def i3cLoc : BitVec 64 := blockLoc 13 0x39 0

/-- Whether a dynamic address is assigned. -/
def State.addressed (s : State) : Bool := s.bit Reg.MGT_I3C 7

/-- The state with what the target returns for a common command code. -/
def State.answer (s : State) (bs : List Byte) : State := { s with i3c := { s.i3c with reply := bs } }

/-! ## Common command codes (R579) -/

/-- Assigns a dynamic address; there has then been no request since it was set (R582). -/
def State.setDa (s : State) (da : Nat) : State :=
  let s := (s.setFld Reg.MGT_I3C 0 7 da).setBit Reg.MGT_I3C 7 true
  { s with i3c := { s.i3c with response := [] } }

/-- The provisioned ID, most significant byte first (R578). -/
def State.provisionedId (s : State) : List Byte :=
  beBytes 6 (0x05A3 * 2 ^ 33 + 0x0940 * 2 ^ 16 + s.fld Reg.STA_STRAP 1 3 * 2 ^ 13 + s.fld Reg.STA_STRAP 0 1 * 2 ^ 12)

/-- ENEC and DISEC: bit 0 of the event byte. -/
def State.setEvents (s : State) (ev : Nat) (on : Bool) : State :=
  if ev.testBit 0 then s.setBit Reg.MGT_I3C 15 on else s

/-- RSTDAA. -/
def State.resetDa (s : State) : State :=
  ((s.setFld Reg.MGT_I3C 0 7 0).setBit Reg.MGT_I3C 7 false).setBit Reg.MGT_I3C 15 false

/-- ENTDAA: a target without a dynamic address takes part. -/
def State.entDaa (s : State) (da : Nat) : State :=
  if s.addressed then s else (s.setDa da).answer (s.provisionedId ++ [0x06, 0x00])

/-- SETAASA and SETDASA act on a target without a dynamic address. -/
def State.setFromStatic (s : State) (da : Nat) : State := if s.addressed then s else s.setDa da

/-- SETNEWDA. -/
def State.setNewDa (s : State) (da : Nat) : State := if s.addressed then s.setDa da else s

/-- The records whose announcement is still owed. -/
def State.unannounced (s : State) : Nat := (s.faults.queue.filter (·.owed)).length

/-- GETSTATUS: two bytes, the upper first; the protocol error bit is cleared by it. -/
def State.getStatus (s : State) : State :=
  let v := min 15 s.unannounced + bitNat s.i3c.err * 2 ^ 5 + s.fld Reg.STA_STEP 0 4 * 2 ^ 8 +
    bitNat s.isMgmtOnly * 2 ^ 12 + bitNat (s.bit Reg.FLT_FATAL 31) * 2 ^ 13
  let s := s.answer (beBytes 2 v)
  { s with i3c := { s.i3c with err := false } }

/-! ## Register framing (R580 to R584, R607) -/

/-- Bytes with their CRC-8. -/
def withCrc (bs : List Byte) : List Byte := bs ++ [BitVec.ofNat 8 (crc8 bs)]

/-- The response to the last request. -/
def State.respond (s : State) (st : Status) (ws : List Word) : State :=
  let data : List Byte := ws.flatMap fun w => leBytes 4 w.toNat
  let bs : List Byte := [BitVec.ofNat 8 st, BitVec.ofNat 8 ws.length] ++ data
  { s with i3c := { s.i3c with response := withCrc bs } }

/-- CRCERR and FORMAT. -/
def State.frameError (s : State) (st : Status) : State :=
  let s := (s.respond st []).bump Reg.MGT_ACC 16 16 1
  let s := { s with i3c := { s.i3c with err := true } }
  s.raise 0x0D02 .masked i3cLoc st 0

/-- The first outcome other than OK (R582). -/
def firstStatus (a b : Status) : Status := if a = Status.ok then b else a

/-- The words of a request's data. -/
def dataWords (bs : List Byte) (n : Nat) : List Word :=
  (List.range n).map fun i => BitVec.ofNat 32 (leNat ((bs.drop (4 * i)).take 4))

/-- The words of a WRITE, in ascending address order. -/
def State.writeWords (s : State) (a : Nat) (st : Status) : List Word → Status × State
  | [] => (st, s)
  | w :: ws =>
      let (x, s) := s.ctlWrite 0x39 a w
      s.writeWords ((a + 4) % 2 ^ 32) (firstStatus st x) ws

/-- The words of a READ, in ascending address order. -/
def State.readWords (s : State) (a : Nat) (st : Status) : Nat → Status × List Word × State
  | 0 => (st, [], s)
  | n + 1 =>
      let (x, w, s) := s.ctlRead 0x39 a
      let (y, ws, s) := s.readWords ((a + 4) % 2 ^ 32) (firstStatus st x) n
      (y, w :: ws, s)

/-- Whether a frame's OP, COUNT and length agree (R582). -/
def frameOk (bs : List Byte) : Bool :=
  let op := (bs.getD 0 0).toNat
  let n := (bs.getD 1 0).toNat
  decide (0 < n) && decide (n ≤ 64) &&
    ((op == 1 && bs.length == 7 + 4 * n) || (op == 2 && bs.length == 7))

/-- A request frame of the right form is performed. -/
def State.perform (s : State) (bs : List Byte) : State :=
  let n := (bs.getD 1 0).toNat
  let a := leNat ((bs.drop 2).take 4)
  let write := bs.getD 0 0 == 1
  let ws := if write then dataWords (bs.drop 6) n else List.replicate n 0
  let echo := s.fld Reg.MGT_I3CTEST 0 8
  if echo != 0 then (s.setFld Reg.MGT_I3CTEST 0 8 (echo - 1)).respond Status.ok ws
  else if write then
    let (st, s) := s.writeWords a Status.ok ws
    s.respond st []
  else
    let (st, ws, s) := s.readWords a Status.ok n
    s.respond st ws

/-- A request frame arrives (R580 to R584): in HDR-DDR its pad byte is ignored. -/
def State.frameArrives (s : State) (frame : List Byte) (leg : Nat) : State :=
  if !s.addressed then s
  else
    let bs := if s.bit Reg.MGT_I3C 16 && frame.length % 2 == 0 then frame.dropLast else frame
    if bs.isEmpty then s.frameError 0x02
    else if bs.getLast? != some (BitVec.ofNat 8 (crc8 bs.dropLast)) then s.frameError 0x01
    else if !frameOk bs then s.frameError 0x02
    else (s.measureLeg (leNat ((bs.drop 2).take 4)) leg).perform bs

/-- A private read (R581 to R584): `pending` is whether the access has not completed. -/
def State.responseRead (s : State) (pending : Bool) : State :=
  if !s.addressed then s
  else
    let bs := if s.i3c.response.isEmpty then withCrc [0xFF, 0x00]
      else if pending then withCrc [0xFE, 0x00] else s.i3c.response
    s.answer (if s.bit Reg.MGT_I3C 16 && bs.length % 2 == 1 then bs ++ [0] else bs)

/-! ## In-band interrupts (R585, R586) -/

/-- Whether two records differ at most in REPEAT. -/
def Record.same (a b : Record) : Bool := decide ({ a with rep := b.rep } = b)

/-- Whether a record is in the queue and still unannounced. -/
def State.stillOwed (s : State) (r : Record) : Bool := s.faults.queue.any fun x => x.owed && x.same r

/-- The next announcement: a NACKed one that is still owed, a fatal record, a record, an event. -/
def State.nextAnnouncement (s : State) : Option Announcement :=
  let fresh : Option Announcement :=
    match s.faults.queue.find? fun r => r.owed && r.cls == .fatal with
    | some r => some (.record r)
    | none => match s.faults.queue.find? (·.owed) with
      | some r => some (.record r)
      | none => s.i3c.events.head?.map fun e => .event e.1 e.2
  match s.i3c.out with
  | some (.record r) => if s.stillOwed r then some (.record r) else fresh
  | some (.event k _) => match s.i3c.events.find? fun e => e.1 == k with
    | some e => some (.event e.1 e.2)
    | none => fresh
  | none => fresh

/-- The five bytes of an in-band interrupt (R585). -/
def State.ibiBytes (s : State) : Announcement → List Byte
  | .record r => [0xA1] ++ leBytes 2 r.code ++
      [BitVec.ofNat 8 r.cls.code, BitVec.ofNat 8 s.faults.queue.length]
  | .event k p => BitVec.ofNat 8 k :: p

/-- The queue with the first owed record that matches announced. -/
def markSent (r : Record) : List Record → List Record
  | [] => []
  | x :: xs => if x.owed && x.same r then { x with owed := false } :: xs else x :: markSent r xs

/-- IBI (R586): the controller accepts it or not. -/
def State.ibi (s : State) (ack : Bool) : State :=
  if !s.addressed || !s.bit Reg.MGT_I3C 15 then s
  else match s.nextAnnouncement with
    | none => s
    | some x =>
        let s := s.answer (s.ibiBytes x)
        if !ack then
          { (s.bump Reg.MGT_IBI 16 8 1) with i3c := { s.i3c with out := some x } }
        else
          let s := (s.wrapAdd Reg.MGT_IBI 24 8 1)
          let s := { s with i3c := { s.i3c with out := none } }
          match x with
          | .record r => { s with faults := { s.faults with queue := markSent r s.faults.queue } }
          | .event k _ => { s with i3c := { s.i3c with events := s.i3c.events.filter fun e => e.1 != k } }

def execWrite (frame : List Byte) (leg : Nat) (s : State) : Host.Outcome State Fault Refusal :=
  .next (s.managed fun s => s.frameArrives frame leg)

def execRead (frame : List Byte) (leg : Nat) (s : State) : Host.Outcome State Fault Refusal :=
  .next (s.managed fun s => s.frameArrives frame leg)

def execResponseRead (pending : Bool) (s : State) : Host.Outcome State Fault Refusal :=
  .next (s.managed fun s => s.responseRead pending)

def execEcho (count : Nat) (s : State) : Host.Outcome State Fault Refusal :=
  .next (s.managed fun s => s.setFld Reg.MGT_I3CTEST 0 8 count)

def execEnec (ev : Nat) (s : State) : Host.Outcome State Fault Refusal :=
  .next (s.managed fun s => s.setEvents ev true)

def execDisec (ev : Nat) (s : State) : Host.Outcome State Fault Refusal :=
  .next (s.managed fun s => s.setEvents ev false)

/-- ENTAS0 to ENTAS3: accepted, no effect (R579). -/
def execEntas (k : Nat) (s : State) : Host.Outcome State Fault Refusal := .next (s.managed fun s => if k < 4 then s else s)

def execRstdaa (s : State) : Host.Outcome State Fault Refusal := .next (s.managed State.resetDa)

def execEntdaa (da : Nat) (s : State) : Host.Outcome State Fault Refusal := .next (s.managed fun s => s.entDaa da)

def execEnthdr0 (s : State) : Host.Outcome State Fault Refusal :=
  .next (s.managed fun s => s.setBit Reg.MGT_I3C 16 true)

def execHdrExit (s : State) : Host.Outcome State Fault Refusal :=
  .next (s.managed fun s => s.setBit Reg.MGT_I3C 16 false)

def execSetaasa (s : State) : Host.Outcome State Fault Refusal :=
  .next (s.managed fun s => s.setFromStatic (s.fld Reg.MGT_I3C 8 7))

def execSetdasa (da : Nat) (s : State) : Host.Outcome State Fault Refusal :=
  .next (s.managed fun s => s.setFromStatic da)

def execSetnewda (da : Nat) (s : State) : Host.Outcome State Fault Refusal :=
  .next (s.managed fun s => s.setNewDa da)

def execGetmwl (s : State) : Host.Outcome State Fault Refusal := .next (s.managed fun s => s.answer (beBytes 2 263))

def execGetmrl (s : State) : Host.Outcome State Fault Refusal :=
  .next (s.managed fun s => s.answer (beBytes 2 263 ++ [5]))

def execGetpid (s : State) : Host.Outcome State Fault Refusal :=
  .next (s.managed fun s => s.answer s.provisionedId)

def execGetbcr (s : State) : Host.Outcome State Fault Refusal := .next (s.managed fun s => s.answer [0x06])

def execGetdcr (s : State) : Host.Outcome State Fault Refusal := .next (s.managed fun s => s.answer [0x00])

def execGetstatus (s : State) : Host.Outcome State Fault Refusal := .next (s.managed State.getStatus)

def execGetmxds (s : State) : Host.Outcome State Fault Refusal := .next (s.managed fun s => s.answer [0x00, 0x00])

def execGetcaps (s : State) : Host.Outcome State Fault Refusal := .next (s.managed fun s => s.answer [0x01, 0x00])

def execIbi (ack : Bool) (s : State) : Host.Outcome State Fault Refusal := .next (s.managed fun s => s.ibi ack)

end Sys2Proof.Machine
end

