-- ==== Sys2Proof/Machine/Sequencer.lean ====
section
/-! DEFINITION. The management sequencer: its steps, its programs, and the telemetry snapshot (R593 to
R597). -/

namespace Sys2Proof.Machine

open Sys2Proof

/-- The location of the management sequencer (R51). -/
def seqLoc : BitVec 64 := blockLoc 13 0x38 0

/-- A word of the program store (R593). -/
def State.storeWord (s : State) (o : Nat) : Word :=
  BitVec.ofNat 32 (leNat (SMap.readList 0 s.mem.store (s.seq.store + o) 4))

/-- A step of the program store. -/
def State.storeStep (s : State) (i : Nat) : SeqStep :=
  let o := 0x480 + 16 * i
  ⟨s.storeWord o, s.storeWord (o + 4), s.storeWord (o + 8), s.storeWord (o + 12)⟩

/-- FIRST and COUNT of a program (R594). -/
def State.programFirst (s : State) (p : Nat) : Nat := bitsOf (s.storeWord (8 * p)) 6 10
def State.programCount (s : State) (p : Nat) : Nat := bitsOf (s.storeWord (8 * p)) 16 8

/-! ## Steps (R595) -/

/-- SLOT of a step, and its value slot. -/
def SeqStep.slot (x : SeqStep) : Nat := bitsOf x.w0 6 4
def State.valueSlot (s : State) (i : Nat) : Word := s.seq.slots.getD i 0

/-- The state with a value slot replaced; all sixteen are there. -/
def State.setSlot (s : State) (i : Nat) (w : Word) : State :=
  let ws := (List.range 16).map fun j => if j = i then w else s.valueSlot j
  { s with seq := { s.seq with slots := ws } }

/-- The value slots and P cleared, as a program starts. -/
def State.clearSlots (s : State) : State := { s with seq := { s.seq with slots := [], p := false } }

/-- CMP of a TEST. -/
def compares (cmp : Nat) (a b : Word) : Bool :=
  match cmp with
  | 0 => decide (b.toNat < a.toNat)
  | 1 => decide (a.toNat < b.toNat)
  | 2 => a == b
  | _ => a != b

/-- READ. -/
def State.stepRead (s : State) (x : SeqStep) : State :=
  let (_, w, s) := s.ctlRead 0x38 x.w1.toNat
  s.setSlot x.slot w

/-- WRITE. -/
def State.stepWrite (s : State) (x : SeqStep) : State :=
  (s.ctlWrite 0x38 x.w1.toNat (if bitOf x.w0 5 then s.valueSlot x.slot else x.w2)).2

/-- RMW. -/
def State.stepRmw (s : State) (x : SeqStep) : State :=
  let (_, w, s) := s.ctlRead 0x38 x.w1.toNat
  (s.ctlWrite 0x38 x.w1.toNat ((w &&& ~~~x.w3) ||| (x.w2 &&& x.w3))).2

/-- DELTA. -/
def State.stepDelta (s : State) (x : SeqStep) : State :=
  let (_, w, s) := s.ctlRead 0x38 x.w1.toNat
  s.setSlot x.slot (w - s.valueSlot x.slot)

/-- TEST. -/
def State.stepTest (s : State) (x : SeqStep) : State :=
  { s with seq := { s.seq with p := compares (bitsOf x.w0 10 2) (s.valueSlot x.slot &&& x.w3) x.w2 } }

/-- RECORD; the class codes are those of R469, and 0b11 names none. -/
def State.stepRecord (s : State) (p i : Nat) (x : SeqStep) : State :=
  let d0 := (s.valueSlot x.slot).toNat
  let d1 := p % 16 + i % 1024 * 16
  match bitsOf x.w0 12 2 with
  | 0 => s.raise 0x0D05 .masked seqLoc d0 d1
  | 1 => s.raise 0x0D05 .detected seqLoc d0 d1
  | 2 => s.raise 0x0D05 .fatal seqLoc d0 d1
  | _ => s

/-- COMMIT. -/
def State.stepCommit (s : State) (x : SeqStep) : State := (s.ctlWrite 0x38 Reg.MGT_COMMIT x.w2).2

/-- A step with its OP set. -/
def SeqStep.as_ (x : SeqStep) (op : Nat) : SeqStep := { x with w0 := putBits x.w0 0 4 op }

/-- What a step does when its predicate lets it run. -/
def State.stepAct (s : State) (p i : Nat) (x : SeqStep) : State :=
  match x.op with
  | 1 => s.stepRead x
  | 2 => s.stepWrite x
  | 3 => s.stepRmw x
  | 4 => s.stepDelta x
  | 5 => s.stepTest x
  | 6 => s.stepRecord p i x
  | 7 => s.stepCommit x
  | _ => s

/-- One step of a program: the first of its program clears the value slots and P. -/
def State.runStep (s : State) (p i : Nat) (x : SeqStep) : State :=
  let s := { s with seq := { s.seq with prog := p } }
  let s := (s.setFld Reg.MGT_SEQSTAT 0 4 p).setFld Reg.MGT_SEQSTAT 8 8 (i - s.programFirst p)
  let s := if i = s.programFirst p then s.clearSlots else s
  if bitOf x.w0 4 && !s.seq.p then s else s.stepAct p i x

/-- A step as a command; a lockstep mismatch discards it and repeats it at the next epoch tick (R467). -/
def State.seqStep (s : State) (p i : Nat) (x : SeqStep) : State :=
  if s.faults.discard || s.faults.repeatStep then
    let s := { s with faults := { s.faults with discard := false, repeatStep := false } }
    { s with seq := { s.seq with deferred := s.seq.deferred ++ [(p, i, x)] } }
  else s.runStep p i x

/-! ## The epoch program (R593, R594, R596, R597) -/

/-- Whether a program runs at this epoch tick. -/
def State.triggers (s : State) (p : Nat) : Bool :=
  let w0 := s.storeWord (8 * p)
  let w1 := s.storeWord (8 * p + 4)
  let lo := bitsOf w1 0 16
  let hi := bitsOf w1 16 16
  let epoch := (s.reg Reg.MGT_EPOCH).toNat
  s.bit Reg.MGT_SEQ p && (s.powerState != 3 || bitOf w0 2) &&
    match bitsOf w0 0 2 with
    | 1 => lo != 0 && epoch % lo == hi
    | 2 => s.faults.codes.any fun c => c &&& hi == lo &&& hi
    | 3 => epoch == 0 && s.slot == 0
    | _ => false

/-- The steps of a program. -/
def State.programSteps (s : State) (p : Nat) : List (Nat × Nat × SeqStep) :=
  (List.range (s.programCount p)).map fun j => (p, s.programFirst p + j, s.storeStep (s.programFirst p + j))

/-- The reads of the telemetry list, in list order. -/
def State.readAll (s : State) : List Nat → List Word × State
  | [] => ([], s)
  | a :: as_ =>
      let (_, w, s) := s.ctlRead 0x38 a
      let (ws, s) := s.readAll as_
      (w :: ws, s)

/-- The addresses of the telemetry list (R597). -/
def State.readAddrs (s : State) : List Nat :=
  (List.range (min 256 (s.fld Reg.MGT_TLMCFG 0 9))).map fun i => (s.storeWord (0x80 + 4 * i)).toNat

/-- The register that a step accesses, if it accesses one (R595). -/
def SeqStep.addr (x : SeqStep) : List Nat :=
  match x.op with
  | 1 | 2 | 3 | 4 => [x.w1.toNat]
  | 7 => [Reg.MGT_COMMIT]
  | _ => []

/-- The telemetry snapshot: the standby half is filled and the halves swap (R597). -/
def State.snapshot (s : State) : State :=
  let (ws, s) := s.readAll s.readAddrs
  let s := { s with seq := { s.seq with complete := ws, standby := s.seq.complete } }
  s.setReg Reg.MGT_TLMEPOCH (s.reg Reg.MGT_EPOCH)

/-- EPOCH_PROGRAM (R593): the snapshot, the steps that the last epoch tick left, and the programs that trigger;
`run` is how many steps run before the next epoch tick or a lockstep repeat, and `leg` the cycles of the
longest leg. -/
def State.epochProgram (s : State) (run leg : Nat) : State :=
  if !s.started || s.clock.running && s.slot % max 1 s.spe != 0 then s
  else
    let s := if s.clock.running then s.reach 64 else s
    let s := { s with faults := { s.faults with discard := false, repeatStep := false } }
    let s := (s.readAddrs.foldl (fun s a => s.measureLeg a leg) s).snapshot
    let late := s.seq.deferred
    let s := if late.isEmpty then s
      else (s.bump Reg.MGT_SEQSTAT 16 16 1).raise 0x0D04 .detected seqLoc late.length 0
    let steps := late ++ (((List.range 16).filter s.triggers).flatMap s.programSteps)
    let s := { s with faults := { s.faults with codes := [] } }
    let s := (steps.take run).foldl (fun s e =>
      ((e.2.2.addr.foldl (fun s a => s.measureLeg a leg) s).runStep e.1 e.2.1 e.2.2)) s
    let s := { s with seq := { s.seq with deferred := steps.drop run } }
    s.setBit Reg.MGT_SEQSTAT 4 (!(steps.drop run).isEmpty)

def execEpochProgram (run leg : Nat) (s : State) : Host.Outcome State Fault Refusal := .next (s.epochProgram run leg)

def execSeqRead (prog idx : Nat) (x : SeqStep) (s : State) : Host.Outcome State Fault Refusal :=
  .next (s.seqStep prog idx (x.as_ 1))

def execSeqWrite (prog idx : Nat) (x : SeqStep) (s : State) : Host.Outcome State Fault Refusal :=
  .next (s.seqStep prog idx (x.as_ 2))

def execRmw (prog idx : Nat) (x : SeqStep) (s : State) : Host.Outcome State Fault Refusal :=
  .next (s.seqStep prog idx (x.as_ 3))

def execDelta (prog idx : Nat) (x : SeqStep) (s : State) : Host.Outcome State Fault Refusal :=
  .next (s.seqStep prog idx (x.as_ 4))

def execTest (prog idx : Nat) (x : SeqStep) (s : State) : Host.Outcome State Fault Refusal :=
  .next (s.seqStep prog idx (x.as_ 5))

def execRecord (prog idx : Nat) (x : SeqStep) (s : State) : Host.Outcome State Fault Refusal :=
  .next (s.seqStep prog idx (x.as_ 6))

def execSeqCommit (prog idx : Nat) (x : SeqStep) (s : State) : Host.Outcome State Fault Refusal :=
  .next (s.seqStep prog idx (x.as_ 7))

end Sys2Proof.Machine
end

