-- ==== Sys2Proof/Machine/Test.lean ====
section
/-! DEFINITION. Loop-backs, pseudo-random patterns, and the test access port (R601 to R615). -/

namespace Sys2Proof.Machine

open Sys2Proof

/-! ## When a setting is in force (R601 to R605) -/

/-- The interfaces that a loop-back setting names. -/
def loopIds : List LinkId :=
  (List.range 9).map .ether ++ (List.range 8).map .jesd ++ [.switu] ++ (List.range 4).map .steer ++
    (List.range 2).map .hbm

/-- Every lane with a PRBS setting (R608, R615). -/
def prbsIds : List PrbsLane :=
  (List.range 9).flatMap (fun p => [.ether p 0, .ether p 1]) ++ (List.range 24).map .jesd ++
    (List.range 32).map .switu

/-- The number of lanes of a JESD link. -/
def laneCount (w : Word) : Nat := ((List.range 24).filter fun i => bitOf w i).length

/-- Whether a JESD link has the parameters that a depth needs (R604, R605). -/
def State.jesdDepthOk (s : State) (n depth : Nat) : Bool :=
  let rx := s.reg (Reg.JRX_CFG0 n)
  let tx := s.reg (Reg.JTX_CFG0 n)
  let both := rx != 0 && tx != 0
  match depth with
  | 1 => both && laneCount rx == laneCount tx &&
      s.fld (Reg.JRX_CFG1 n) 0 11 == s.fld (Reg.JTX_CFG1 n) 0 11
  | 2 => both
  | 3 => true
  | _ => false

/-- Whether a committed setting asks for a loop-back. -/
def State.loopWanted (s : State) : LinkId → Bool
  | .ether p => s.fld (winKey p Reg.NET_LPBK) 0 3 != 0
  | .jesd n => s.bit Reg.RAD_LPBK n && s.jesdDepthOk n (s.fld Reg.RAD_LPBK 8 2)
  | .switu => s.fld Reg.TWN_LPBK 0 3 != 0
  | .steer i => s.fld Reg.STP_LPBK 0 2 != 0 && s.bit Reg.STP_LPBK (4 + i)
  | .hbm i => s.bit Reg.MEM_LPBK i
  | _ => false

/-- Whether a committed setting asks for a generator or checker. -/
def State.prbsWanted (s : State) : PrbsLane → Bool
  | .ether p _ => s.fld (winKey p Reg.NET_PRBS) 0 3 != 0 || s.fld (winKey p Reg.NET_PRBS) 4 3 != 0
  | .jesd l => s.fld (winKey l Reg.RAD_PRBS) 5 6 != 0
  | .switu l => s.fld (winKey l Reg.TWN_PRBS) 5 6 != 0

/-- The JESD links that a lane belongs to. -/
def State.linksOfLane (s : State) (l : Nat) : List Nat :=
  (List.range 8).filter fun n => bitOf (s.reg (Reg.JRX_CFG0 n)) l || bitOf (s.reg (Reg.JTX_CFG0 n)) l

/-- Whether the active variant's channel table names a JESD link. -/
def State.jesdUsed (s : State) (n : Nat) : Bool :=
  let v := s.variant s.active
  s.clock.running && ((v.rx.any fun e => e.2.link == n) || (v.tx.any fun e => e.2.link == n))

/-- Whether an interface is in use (R601). -/
def State.inUse (s : State) : LinkId → Bool
  | .ether p =>
      let v := s.variant s.active
      s.clock.running && (p == 8 || (s.plan.net.eaxc.any fun e => e.port == p) ||
        (v.plans.any fun q => q.netTx.any fun e => e.1 == p))
  | .jrx n => s.jesdUsed n
  | .jtx n => s.jesdUsed n
  | .jesd n => s.jesdUsed n
  | .switu => [1, 2, 3].contains s.twinState
  | .steer i => s.clock.running && s.bit Reg.STP_CFG i
  | .hbm _ => s.clock.running && s.powerState != 2

/-- Whether the interface of a lane is in use. -/
def State.laneInUse (s : State) : PrbsLane → Bool
  | .ether p _ => s.inUse (.ether p)
  | .jesd l => (s.linksOfLane l).any fun n => s.jesdUsed n
  | .switu _ => s.inUse .switu

/-- An interface retrains: its link is down, and its loop carries no data, until it is up (R602, R603). -/
def State.retrain (s : State) : LinkId → State
  | .ether p => ((s.setFld (winKey p Reg.NET_PSTAT) 0 2 0).setBit (winKey p Reg.NET_LPBK) 8 false)
  | .jesd n => ((s.setFld (linkStat false n) 0 3 0).setFld (linkStat true n) 0 3 0).setBit Reg.RAD_LPBK (16 + n) false
  | .jrx n => s.setFld (linkStat false n) 0 3 0
  | .jtx n => s.setFld (linkStat true n) 0 3 0
  | .switu => (s.setBit Reg.TWN_STAT 4 false).setBit Reg.TWN_LPBK 8 false
  | .steer i => s.setBit Reg.STP_LPBK (8 + i) false
  | .hbm i => s.setBit Reg.MEM_LPBK (8 + i) false

/-- The state with the LOCK bit of a lane set or cleared. -/
def State.setLock (s : State) (l : PrbsLane) (b : Bool) : State :=
  match l with
  | .ether p i => s.setBit (winKey p Reg.NET_PRBS) (8 + i) b
  | .jesd i => s.setBit (winKey i Reg.RAD_PRBS) 11 b
  | .switu i => s.setBit (winKey i Reg.TWN_PRBS) 11 b

/-- The interface of a lane retrains, and its checker is no longer locked. -/
def State.retrainLane (s : State) (l : PrbsLane) : State :=
  let s := s.setLock l false
  match l with
  | .ether p _ => s.retrain (.ether p)
  | .jesd i => (s.linksOfLane i).foldl (fun s n => s.retrain (.jesd n)) s
  | .switu _ => s.retrain .switu

/-- The settings in force become those given; every interface whose setting changes retrains. -/
def State.setTests (s : State) (loops : List LinkId) (lanes : List PrbsLane) : State :=
  let oldLoops := s.test.loops
  let oldLanes := s.test.prbs
  let s := { s with test := { s.test with loops := loops, prbs := lanes } }
  let s := (loopIds.filter fun l => oldLoops.contains l != loops.contains l).foldl (fun s l => s.retrain l) s
  (prbsIds.filter fun l => oldLanes.contains l != lanes.contains l).foldl (fun s l => s.retrainLane l) s

/-- LOOPBACK_ACTIVATE (R601 to R603): at an epoch tick each committed setting of an interface out of use comes
into force, and each released one ends. -/
def State.activateTests (s : State) : State :=
  s.setTests (loopIds.filter fun l => s.loopWanted l && !s.inUse l)
    (prbsIds.filter fun l => s.prbsWanted l && !s.laneInUse l)

/-- The settings of interfaces that a switch brings into use become inactive (R602). -/
def State.endTests (s : State) : State :=
  s.setTests (s.test.loops.filter fun l => !s.inUse l) (s.test.prbs.filter fun l => !s.laneInUse l)

/-! ## PRBS checkers (R608, R609) -/

/-- Whether a lane's checker is active. -/
def State.checking (s : State) (l : PrbsLane) : Bool :=
  s.test.prbs.contains l && (match l with
    | .ether p _ => s.fld (winKey p Reg.NET_PRBS) 4 3 != 0
    | .jesd i => s.fld (winKey i Reg.RAD_PRBS) 8 3 != 0
    | .switu i => s.fld (winKey i Reg.TWN_PRBS) 8 3 != 0)

/-- Whether a lane's checker is locked. -/
def State.locked (s : State) : PrbsLane → Bool
  | .ether p i => s.bit (winKey p Reg.NET_PRBS) (8 + i)
  | .jesd i => s.bit (winKey i Reg.RAD_PRBS) 11
  | .switu i => s.bit (winKey i Reg.TWN_PRBS) 11

/-- Whether the region of a lane answers. -/
def State.laneServed (s : State) : PrbsLane → Bool
  | .ether _ _ => s.served 9
  | .jesd _ => s.served 8
  | .switu _ => s.served 12

/-- Errors and compared units of 2^30 bits that a locked checker has counted. A port counts the units of its
lowest locked lane. -/
def State.countPrbs (s : State) (l : PrbsLane) (errors units : Nat) : State :=
  match l with
  | .ether p i =>
      let s := s.bump (winKey p (if i = 0 then Reg.NET_PRBSERR0 else Reg.NET_PRBSERR1)) 0 32 errors
      if i = 0 || !s.locked (.ether p 0) then s.bump (winKey p Reg.NET_PRBSBITS) 0 32 units else s
  | .jesd i => s.bump (winKey i Reg.RAD_PRBSERR) 0 32 errors
  | .switu i => s.bump (winKey i Reg.TWN_PRBSERR) 0 32 errors

/-- PRBS_LOCK: a checker locks, or is locked, and counts. -/
def State.prbsLock (s : State) (l : PrbsLane) (errors units : Nat) : State :=
  if s.checking l && s.laneServed l then (s.setLock l true).countPrbs l errors units else s

/-- PRBS_LOSS_OF_LOCK: what was counted up to the loss, and the checker seeds itself again. -/
def State.prbsLoss (s : State) (l : PrbsLane) (errors units : Nat) : State :=
  if s.locked l && s.laneServed l then (s.countPrbs l errors units).setLock l false else s

/-! ## The test access port (R612 to R614) -/

/-- IDCODE of stepping B0 (R613). -/
def idcode : Nat := 0xB0940B47

/-- Whether an instruction that controls the balls takes effect (R614). -/
def State.scanAllowed (s : State) : Bool := s.isMgmtOnly || decide (s.fld Reg.STA_STEP 0 4 < 5)

/-- The state with an instruction in force: its opcode, what it drives, and what it shifts out. -/
def State.setTap (s : State) (op : Nat) (scan : Option Nat) (highZ : Bool) (dr : Nat) : State :=
  { s with test := { s.test with tap := op, dr := dr }, pins := { s.pins with scan := scan, highZ := highZ } }

/-- BYPASS. -/
def State.bypass (s : State) : State := s.setTap 0xFF none false 0

/-- The instructions that drive the balls from the boundary register: it captures the balls, takes `data`, and
drives them. -/
def State.drive (s : State) (op sampled data : Nat) : State :=
  if s.scanAllowed then
    let s := { s with test := { s.test with boundary := data } }
    s.setTap op (some data) false sampled
  else s.bypass

/-- SAMPLE/PRELOAD: the balls are sampled, and the boundary register takes `data`. -/
def State.samplePreload (s : State) (sampled data : Nat) : State :=
  let s := { s with test := { s.test with boundary := data } }
  s.setTap 2 none false sampled

/-- TEST_LOGIC_RESET: a start that an instruction has held goes on (R614). -/
def State.testLogicReset (s : State) : State :=
  let s := s.setTap 1 none false idcode
  if s.start.held then s.afterStraps else s

def execLoopbackActivate (s : State) : Host.Outcome State Fault Refusal := .next s.activateTests

def execPrbsLock (lane : PrbsLane) (errors units : Nat) (s : State) : Host.Outcome State Fault Refusal :=
  .next (s.prbsLock lane errors units)

def execPrbsLossOfLock (lane : PrbsLane) (errors units : Nat) (s : State) : Host.Outcome State Fault Refusal :=
  .next (s.prbsLoss lane errors units)

def execExtest (sampled data : Nat) (s : State) : Host.Outcome State Fault Refusal := .next (s.drive 0x00 sampled data)

def execIdcode (s : State) : Host.Outcome State Fault Refusal := .next (s.setTap 0x01 none false idcode)

def execSamplePreload (sampled data : Nat) (s : State) : Host.Outcome State Fault Refusal :=
  .next (s.samplePreload sampled data)

def execHighz (s : State) : Host.Outcome State Fault Refusal :=
  .next (if s.scanAllowed then s.setTap 0x05 none true 0 else s.bypass)

def execClamp (s : State) : Host.Outcome State Fault Refusal :=
  .next (if s.scanAllowed then s.setTap 0x06 (some s.test.boundary) false 0 else s.bypass)

def execExtestPulse (sampled data : Nat) (s : State) : Host.Outcome State Fault Refusal :=
  .next (s.drive 0x09 sampled data)

def execExtestTrain (sampled data : Nat) (s : State) : Host.Outcome State Fault Refusal :=
  .next (s.drive 0x0A sampled data)

def execBypass (s : State) : Host.Outcome State Fault Refusal := .next s.bypass

def execTestLogicReset (s : State) : Host.Outcome State Fault Refusal := .next s.testLogicReset

end Sys2Proof.Machine
end

