-- ==== Sys2Proof/Machine/Tick.lean ====
section
/-! DEFINITION. Slot ticks and epoch ticks: what ends with a slot, plan switches, what an epoch tick applies,
the start of the data plane and of a join (R60 to R75, R185, R307 to R323, R503, R529, R544). -/

namespace Sys2Proof.Machine

open Sys2Proof

/-- A table with a function applied to every value, in canonical form. -/
def SMap.adjust {α : Type} [DecidableEq α] (d : α) (f : α → α) (m : SMap α) : SMap α :=
  (m.map fun (e : Nat × α) => (e.1, f e.2)).filter fun e => e.2 != d

/-! ## The end of a slot (R74, R165, R240) -/

/-- A data-plane command that the slot tick stops (R74, R93): the breach falls in cycle 0 of the new slot. -/
def State.overrun (s : State) (e : Running) : State :=
  let s := s.raise 0x0302 .detected (s.runningLoc e) e.w0.toNat (e.planned % 2 ^ 21)
  (s.countBreach e.region 0).voidOuts none e.outs 0x0302

/-- A data-plane stream that the slot tick stops. -/
def State.overrunStream (s : State) (r l : Nat) (t : Stream) : State :=
  let s := s.raise 0x0302 .detected (ladleLoc r l) t.w0.toNat (t.planned % 2 ^ 21)
  (s.countBreach r 0).voidBuf none r t.buf 0x0302

/-- A Ladle at the slot tick: a stream that is done signals, one of the data plane that is not is stopped. -/
def State.endLadle (s : State) (r l : Nat) : State :=
  let s := match (s.ladle r l).active with
    | none => s
    | some t =>
        if t.isDone && !t.stopping && decide (t.doneAt ≤ s.slotLen) then s.endStream r l
        else if t.ctx.isSome then s
        else (s.overrunStream r l t).setActive r l none
  match (s.ladle r l).shadow with
  | none => s
  | some t =>
      if t.ctx.isSome then s
      else
        let s := s.overrunStream r l t
        s.setLadle r l { s.ladle r l with shadow := none }

/-- Every engine is idle at the slot tick: rows that are due land, and no slot is taken any more. -/
def State.idleEngines (s : State) : State :=
  let len := s.slotLen
  { s with
    running := [], signals := [], taps := [], due := s.due.filter fun e => decide (e.at_ = 0)
    anvils := SMap.adjust {} (fun (a : Anvil) =>
      { a.settle len with flight := [], drain := none, arrayFree := 0, drainFree := 0 }) s.anvils
    slicers := SMap.adjust {} (fun (x : Slicer) => { x with free := 0 }) s.slicers
    swages := SMap.adjust {} (fun (x : Swage) => { x with bufs := [], fillFree := 0, emitFree := 0 }) s.swages
    crucibles := SMap.adjust {} (fun (x : Crucible) => { x with free := 0 }) s.crucibles
    planishers := SMap.adjust {} (fun (x : Planisher) => { x with flight := [] }) s.planishers
    tinkers := SMap.adjust {} (fun (x : Tinker) => { x with free := 0 }) s.tinkers }

/-- What the cycle counts of a context mean in the new slot (R326): nothing issued is running, and a blocked
one has been blocked for a slot longer. -/
def Ctx.nextSlot (len : Nat) (x : Ctx) : Ctx :=
  { x with
    lastDone := 0, sliceEnd := 0, due := none, member := none
    state := if x.state = .running then .runnable else x.state
    blockedSince := if x.state = .blocked then x.blockedSince - len else 0 }

/-- The elastic plane at the slot tick: memberships end and are charged, no swap is under way, and the grants
of completed commands are released (R315, R324, R517). -/
def State.endElastic (s : State) : State :=
  let len := s.slotLen
  let s := (List.range 13).foldl (fun s r =>
    (s.homed r).foldl (fun s k => s.endMember r k false) s) s
  { s with els := { s.els with
    ctxs := SMap.adjust {} (Ctx.nextSlot len) s.els.ctxs
    swaps := []
    grants := SMap.adjust [] (fun (gs : List Grant) => gs.filter fun g => g.finish.isNone) s.els.grants
    waits := SMap.adjust [] (fun (ws : List LeaveReq) => ws.map fun w => { w with since := w.since - len })
      s.els.waits } }

/-- What a slot leaves behind: the DRAINs under way, late completions, overruns and stripes that still wait are settled, its digest
is formed and its ledger closes (R74, R293, R464, R496). -/
def State.endSlot (s : State) : State :=
  let len := s.slotLen
  let s := ((s.drainsTo len).reach len).settleSignals len
  let s := s.anvils.foldl (fun s e => match e.2.drain with
    | some d => s.stopDrain e.1 d
    | none => s) s
  let s := (s.delayedStripe 0 (2 ^ 21)).delayedStripe 1 (2 ^ 21)
  let s := { s with clock := { s.clock with inTick := true } }
  let late := s.running.filter fun e => e.ctx.isNone && decide (len < e.finish)
  let s := late.foldl (fun s e => s.overrun e) s
  let s := (List.range 8).foldl (fun s r => (List.range 6).foldl (fun s l => s.endLadle r l) s) s
  let s := (s.settleSignals (len + 1)).settleTaps len
  s.idleEngines.endElastic

/-! ## Jobs (R80, R185, R186, R316, R318, R396) -/

/-- The kept-set and Taster ring positions that the new slot `n` rewrites: their jobs of earlier slots are
aborted. -/
def State.abortOverrun (s : State) (n : Nat) : State :=
  let depth := s.fld Reg.GRD_KEEP 0 4
  if depth = 0 then s
  else
    let stale (j : Job) : Bool := j.step != n && j.step % depth == n % depth
    let kept (j : Job) : Bool := j.kind == 0 && stale j
    let k := ((List.range 64).map fun c => ((s.ctx c).queue.filter kept).length).sum
    let s := s.abortWhere (fun _ => true) kept
    let s := s.bump Reg.GRD_JOBS 0 16 k
    s.abortWhere (fun _ => true) fun j => j.kind == 2 && stale j

/-- A record of a job ring (R316). -/
def State.jobAt (s : State) (r a : Nat) : Job :=
  let w (i : Nat) : Nat := leNat (SMap.readList 0 s.mem.pad (padKey r (a + 4 * i)) 4)
  { ctx := w 0 % 64, kind := w 0 / 2 ^ 6 % 4, client := w 0 / 2 ^ 8 % 64, cell := w 0 / 2 ^ 14 % 8
    step := w 1, airslot := w 2, alloc := w 3 % 2 ^ 16
    param := (List.range 4).map fun i => BitVec.ofNat 32 (w (4 + i)) }

/-- The write count of a region's job ring. -/
def State.ringCount (s : State) (r a : Nat) : Nat := leNat (SMap.readList 0 s.mem.pad (padKey r a) 4)

/-- The records written since the last slot tick, oldest first; a ring holds 256. -/
def State.newJobs (s : State) (r a : Nat) : List Job :=
  let count := s.ringCount r a
  let n := min 256 ((count + 2 ^ 32 - SMap.read 0 s.els.ringSeen r) % 2 ^ 32)
  (List.range n).map fun i => s.jobAt r (a + 64 + 32 * ((count + 2 ^ 32 - n + i) % 256))

/-- Whether one job goes before another in the order of R80. -/
def Job.before (a b : Job) : Bool :=
  decide (a.cell < b.cell) || (a.cell == b.cell &&
    (decide (a.airslot < b.airslot) || (a.airslot == b.airslot && decide (a.alloc < b.alloc))))

/-- Inserts a job after those that it does not go before. -/
def insertJob (j : Job) : List Job → List Job
  | [] => [j]
  | x :: xs => if j.before x then j :: x :: xs else x :: insertJob j xs

/-- The jobs of one kind in the order of R80. -/
def sortJobs (js : List Job) : List Job := js.foldl (fun acc j => insertJob j acc) []

/-- A job that is dropped: submitted, and aborted for its client. -/
def State.dropJob (s : State) (j : Job) : State :=
  ((s.countJob j.client 0 1).countJob j.client 2 1).dropTaster [j]

/-- A job record is taken in (R186, R318). -/
def State.submit (s : State) (j : Job) : State :=
  let x := s.ctx j.ctx
  if x.image.client != j.client || x.image.list.isEmpty || decide (32 ≤ x.queue.length) then s.dropJob j
  else
    let s := (s.countJob j.client 0 1).onHandIn j fun h => { h with open_ := h.open_ + 1 }
    if j.kind = 0 && s.keptVoid j then s
    else s.onCtx j.ctx fun x => { x with queue := x.queue ++ [j] }

/-- The jobs of one kind, under EXACT those that have a position in the new slot's plan (R80). -/
def State.submitKind (s : State) (r kind : Nat) (js : List Job) : State :=
  let js := js.filter fun j => j.kind = kind
  if s.exact then
    let js := sortJobs js
    let n := ((s.curPlan.positions.find? fun e => e.1 = r * 4 + kind).map (·.2)).getD 0
    let placed := (js.take n).zip (List.range n)
    (js.drop n).foldl (fun s j => s.dropJob j) (placed.foldl (fun s e => s.submit { e.1 with pos := some e.2 }) s)
  else js.foldl (fun s j => s.submit j) s

/-- The records of one region's ring are taken in; each kept set that a void buffer rules out counts once. -/
def State.takeRing (s : State) (r a : Nat) : State :=
  if !s.served r then s
  else
    let js := s.newJobs r a
    let s := (js.filter fun j => j.kind = 0 && s.keptVoid j).foldl (fun s j => s.countVoidIn j.step) s
    let s := { s with els := { s.els with
      ringSeen := SMap.write 0 s.els.ringSeen r (s.ringCount r a) } }
    if s.exact then (List.range 4).foldl (fun s k => s.submitKind r k js) s
    else js.foldl (fun s j => s.submit j) s

/-- The region schedulers' intake at a slot tick. -/
def State.takeJobs (s : State) : State := s.plan.rings.foldl (fun s e => s.takeRing e.1 e.2) s

/-! ## The frame (R64) -/

/-- The number of the slot boundary nearest to an instant. -/
def State.boundaryOf (s : State) (t : Nat) : Int :=
  let d : Int := s.slotLen * ccTime
  if d = 0 then 0 else ((t : Int) - (s.reg Reg.TCK_ALIGN).toNat * nsTime + d / 2) / d

/-- TCK.FRAME.SLOT at an instant. -/
def State.frameIndex (s : State) (t : Nat) : Nat := (s.boundaryOf t % s.frameSlots).toNat

/-- TCK.FRAME at an instant. -/
def State.setFrame (s : State) (t : Nat) : State :=
  s.setReg Reg.TCK_FRAME (BitVec.ofNat 32
    (s.frameIndex t % 2 ^ 7 + (s.boundaryOf t / s.frameSlots % 1024).toNat * 2 ^ 16))

/-! ## Step 1: plan switches (R34, R71, R308, R309, R501) -/

/-- Whether the loss of the partner switches the plan at the tick of slot `n` (R499). -/
def State.lossDue (s : State) (n : Nat) : Bool :=
  match s.twin.loss with
  | some (row, k, cc) =>
      let d := (n + 2 ^ 32 - k) % 2 ^ 32
      decide (1 ≤ d) && decide (256 ≤ d * s.slotLen - cc) &&
        (if s.twinMode = 1 then !s.isLive && row != 2 else s.isLive || row != 2)
  | none => false

/-- Whether a committed SWAP acts at the tick of slot `n`. -/
def State.swapDue (s : State) (n : Nat) : Bool :=
  s.twinMode == 1 && (s.twin.swapAt == some n || s.bit Reg.TWN_CTL 2 ||
    s.commit.waiting.any fun a => a.key == Reg.TWN_CTL && a.due == n && bitOf a.staged.val 2)

/-- Whether the twin link requests a switch for the tick of slot `n` (R499, R503, R506). -/
def State.twinSwitchDue (s : State) (n : Nat) : Bool :=
  (s.twinState == 3 && (s.lossDue n || s.swapDue n || s.twin.peerLeaveAt == some n)) ||
    (s.twinState == 1 && s.twin.transferAt == some n) || (s.twinState == 2 && s.twin.joinAt == some n)

/-- Whether an accepted commit is a switch request for the tick of slot `n`. -/
def Accepted.requests (n : Nat) (a : Accepted) : Bool := a.key == Reg.SPL_SWREQ && a.due == n

/-- SPL.SWREQ as the commits that are due at the tick of slot `n` leave it. -/
def State.requested (s : State) (n : Nat) : Word :=
  (s.commit.waiting.filter fun a => a.requests n).foldl (fun w a => overlay w a.staged) (s.reg Reg.SPL_SWREQ)

/-- The request has been judged: REQ reads 0 from this tick on. -/
def State.endRequest (s : State) (n : Nat) : State :=
  let judged (a : Accepted) : Accepted :=
    if a.requests n then { a with staged := { a.staged with mask := a.staged.mask &&& ~~~0x10000 } } else a
  { s with commit := { s.commit with waiting := s.commit.waiting.map judged } }

/-- "plan switch superseded" (R71). -/
def State.superseded (s : State) (v n : Nat) : State := s.raise 0x0303 .detected chipLoc v n

/-- Step 1 at the tick of slot `n`, whose frame index is `f` (R68, R307): what follows acts on the lists and tables of the
plan that runs in the new slot. -/
def State.switchStep (s : State) (n f : Nat) : State :=
  let byTwin := s.twinSwitchDue n
  let fault := if s.faults.switchTo.isSome && !byTwin && !s.fits (s.variant s.active) then s.firstFit else none
  let s := { s with faults := { s.faults with switchTo := none } }
  let w := s.requested n
  let v := bitsOf w 0 16
  let asked := bitOf w 16
  let s := s.endRequest n
  let s := s.setBit Reg.SPL_SWREQ 16 false
  if !s.clock.running || s.fatalIdle then s
  else
    let s := match fault with
      | some x =>
          let s := (s.install x 2 n f).endTests
          if asked then s.superseded v n else s
      | none =>
          if !asked then s
          else if byTwin || !s.fits (s.variant v) || decide (s.plan.variants.length ≤ v) then s.superseded v n
          else (s.install v 1 n f).endTests
    s.showPlan f

/-! ## Steps 2 and 3: what an epoch tick does -/

/-- The elastic jobs that EXACT aborts as it becomes 1: those that no entry of the plan's elastic sequence
names (R83, R331). -/
def State.exactBegins (s : State) : State :=
  let named (k : Nat) : Bool := s.curPlan.eseq.any fun e =>
    !e.2.getLsbD 35 && e.2.toNat / 2 ^ 21 % 64 == k && e.1 == (s.ctx k).image.home
  (List.range 64).foldl (fun s k => if named k then s else s.abortJobs k fun _ => true) s

/-- The automatic promotion of a PASSED standby (R387, R388). -/
def State.autoPromote (s : State) : State :=
  if s.standby = 3 && (s.bit Reg.WGT_CTL 0 || s.train.reverted) && !s.promotionHeld && !s.bit Reg.WGT_CTL 2 then
    s.promote
  else s

/-- PWR.MEAS at the end of an epoch (R519). -/
def State.measurePower (s : State) (mean : Nat) : State :=
  let m := min mean 8191
  let s := s.setFld Reg.PWR_MEAS 0 13 m
  let s := s.setFld Reg.PWR_MEAS 16 13 (max m (s.fld Reg.PWR_MEAS 16 13))
  s.raiseIf (decide (s.fld Reg.PWR_CAP 0 13 < m)) 0x0B01 .detected powerLoc m 0

/-- The last estimates of the cells (R415). -/
def State.setEstimates (s : State) (es : List (Nat × Word × Word)) : State :=
  es.foldl (fun s e =>
    (s.setReg (winKey e.1 Reg.OFS_FEST) e.2.1).setReg (winKey e.1 Reg.OFS_TEST) e.2.2) s

/-- Step 2 of the epoch tick of slot `n` (R68, R83, R442). -/
def State.commitStep (s : State) (n : Nat) : State :=
  let exact := s.exact
  let ql := s.fld Reg.NET_SYNCE 12 4
  let s := s.applyCommits n
  let s := if s.exact && !exact then s.exactBegins else s
  if s.fld Reg.NET_SYNCE 12 4 = ql then s else s.sendEsmc true

/-- Step 3 of an epoch tick (R68, R387, R532, R568), and what else an epoch tick does. -/
def State.promoteStep (s : State) (x : TickInput) : State :=
  let s := s.autoPromote.startSave
  let s := if s.clock.running then s.tasterEpoch else s
  let s := s.openGates
  let s := s.setReg Reg.MGT_EPOCH (s.reg Reg.MGT_EPOCH + 1)
  s.measurePower x.mean

/-! ## Step 4: the new slot -/

/-- The deficits' gains at a slot tick (R323). -/
def State.gainDeficits (s : State) : State :=
  let q := s.fld Reg.ELS_CFG 0 16
  (List.range 13).foldl (fun s r =>
    let waiting := (s.homed r).filter fun k => !(s.ctx k).queue.isEmpty
    (List.range 16).foldl (fun s cl =>
      if waiting.any fun k => s.shareClass (s.ctx k).image.client == cl then
        let g : Int := q * s.weightOf cl
        s.setDeficit r cl (min (4 * g) (s.deficit r cl + g))
      else s.setDeficit r cl 0) s) s

/-- The leave entries of the running plan that fail parity (R516). -/
def State.checkLeave (s : State) : State :=
  let p := s.curPlan
  let es := if s.exact then p.leave ++ p.eleave else p.leave
  (List.range es.length).foldl (fun s i =>
    s.raiseIf (oddOnes 64 (es.getD i 0).toNat) 0x0B07 .detected powerLoc (i + 1) 0) s

/-- What the new slot cannot produce, and its suspect exits (R32, R34, R59, R466, R498): the buffers of a region that is
fenced or was fenced in the slot before, and those of spine entries that have failed parity. -/
def State.voidNewSlot (s : State) : State :=
  let last := s.faults.voidNext
  let s := { s with faults := { s.faults with voidNext := [] } }
  if s.fatalIdle then
    (List.range 13).foldl (fun s r => s.voidRegion r (s.fld Reg.FLT_FATAL 0 16)) s
  else
    let s := (List.range 13).foldl (fun s r =>
      if s.fenced r || last.contains r then s.voidRegion r 0x030A else s) s
    let s := s.voidIdleEntries
    if s.bit Reg.TWN_STAT 6 then s.suspectSlot else s

/-- The token steps of the air slot that begins take the hand-ins of AIRSLOT + SCH.CFG.HANDIN, and discard those that are not
complete (R411). The step of an air slot counts to the slot interval of that number (DESIGN CHOICE, log entry 120). -/
def State.takeHandIns (s : State) (n : Nat) : State :=
  let due (h : HandIn) : Bool := (h.airslot + s.fld Reg.SCH_CFG 0 16) % 2 ^ 32 == n % 2 ^ 32
  let late := (s.els.handIns.filter fun h => due h && (h.lost || h.open_ != 0)).length
  let s := s.bump Reg.SCH_CNT 0 8 late
  { s with els := { s.els with handIns := s.els.handIns.filter fun h => !due h } }

/-- Step 4 (R63, R64, R68, R425, R485): the slot number, the time scale, the frame and what belongs to a slot. -/
def State.lastSteps (s : State) (x : TickInput) : State :=
  let n := (s.slot + 1) % 2 ^ 32
  let t := s.nextTu
  let d := s.slewStep
  let s := if s.clock.running then s.clearOldest else s
  let s := s.setReg Reg.TCK_SLOTNUM (BitVec.ofNat 32 n)
  let s := { s with
    clock := { s.clock with cc := 0, tu := t, epochDone := false, inTick := false }
    time := { s.time with slew := s.time.slew + d }
    faults := { s.faults with reports := [] }
    net := { s.net with
      sections := s.net.sections.filter fun e => decide ((n + 2 ^ 32 - e.landed) % 2 ^ 32 ≤ 1) }
    twin := { s.twin with staging := [], windows := 0, left := [] } }
  let s := s.setBit Reg.TU_STAT 3 (s.time.slew != 0)
  let ppb := max (-10000) (min 10000 x.ppb)
  let s := (s.setFrame t).setReg Reg.TCK_PHERR (BitVec.ofNat 32
    ((x.ps % 2 ^ 16).toNat + (ppb % 2 ^ 16).toNat * 2 ^ 16))
  let s := s.setEstimates x.estimates
  let s := s.tripOff
  if !s.clock.running then s
  else (((s.showPlan (s.fld Reg.TCK_FRAME 0 7)).gainDeficits.checkLeave.voidNewSlot).takeHandIns n).depart

/-! ## The ticks -/

/-- The work of the ending slot and step 1, for the tick that begins slot `n`. -/
def State.firstSteps (s : State) (n : Nat) : State :=
  let s := s.endSlot
  let s := if s.clock.running then (s.abortOverrun n).formDigest.closeLedger else s
  s.switchStep n (s.frameIndex s.nextTu)

/-- The region schedulers' intake, after the new slot's plan and committed values have come into force (R68, R80, R185,
R316). -/
def State.intake (s : State) (n : Nat) : State :=
  if s.clock.running then s.takeJobs.abortOverrun n else s

/-- Steps 1 to 3 at the tick that begins slot `n` (R68): steps 2 and 3 at an epoch tick only. -/
def State.tickSteps (s : State) (n : Nat) (x : TickInput) (epoch : Bool) : State :=
  let s := s.firstSteps n
  let s := if epoch then s.commitStep n else s
  let s := s.intake n
  if epoch then s.promoteStep x else s

/-- Whether the tick that begins slot `n` carries an epoch tick (R67). -/
def State.isEpoch (s : State) (n : Nat) : Bool := n % max 1 s.spe == 0

/-- SLOT_TICK (R68): steps 1 to 4, but for what an EPOCH_TICK at this tick has done. -/
def State.slotTick (s : State) (x : TickInput) : State :=
  if !s.started then s
  else
    let n := (s.slot + 1) % 2 ^ 32
    let s := if s.clock.epochDone then s
      else
        s.tickSteps n x (s.isEpoch n)
    s.lastSteps x

/-- EPOCH_TICK (R67, R68): steps 1 to 3 at a slot tick that carries an epoch tick; before the data plane has
started, an epoch boundary in management-only operation applies what waits (R545). -/
def State.epochTick (s : State) (x : TickInput) : State :=
  if !s.started then if s.isMgmtOnly then s.applyCommits 0 else s
  else
    let n := (s.slot + 1) % 2 ^ 32
    if !s.isEpoch n || s.clock.epochDone then s
    else
      let s := s.tickSteps n x true
      { s with clock := { s.clock with epochDone := true } }

/-- TICK_MISMATCH (R468) in a list of regions. -/
def State.tickMismatch (s : State) (rs : List Nat) : State :=
  let rs := (List.range 13).filter fun r => rs.contains r
  let c : FaultClass := if rs.length < 2 then .detected else .fatal
  let s := rs.foldl (fun s r => s.raise 0x0306 c (regionLoc r) 0 0) s
  rs.foldl (fun s r => s.fenceFault r 0x0306) s

/-- PLAN_SWITCH_REQUEST (R309): SPL.SWREQ is staged with REQ set, and its group is committed. -/
def State.switchRequest (s : State) (v : Nat) : State :=
  (s.stage Reg.SPL_SWREQ 0x1FFFF (BitVec.ofNat 32 (v % 2 ^ 16 + 2 ^ 16))).doCommit 1

/-! ## The start of the data plane (R529, R543, R544) -/

/-- The first epoch boundary of the time scale at or after an instant. -/
def State.epochBoundary (s : State) (t : Nat) : Nat :=
  let ms := 1000000 * nsTime
  let a := (s.reg Reg.TCK_ALIGN).toNat * nsTime
  a % ms + (t + ms - 1 - a % ms) / ms * ms

/-- Whether every enabled JESD link is in state 4 or was reported (R544). -/
def State.jesdReady (s : State) : Bool :=
  (List.range 8).all fun n =>
    (s.reg (Reg.JRX_CFG0 n) == 0 || s.fld (linkStat false n) 0 3 == 4 || s.start.reported.contains (.jrx n)) &&
    (s.reg (Reg.JTX_CFG0 n) == 0 || s.fld (linkStat true n) 0 3 == 4 || s.start.reported.contains (.jtx n))

/-- The data plane starts with slot `n` at an instant (R63, R544). -/
def State.startPlane (s : State) (n t us : Nat) : State :=
  let s := s.atUs us
  let s := s.setReg Reg.TCK_SLOTNUM (BitVec.ofNat 32 n)
  let s := { s with
    clock := { s.clock with running := true, cc := 0, tu := t, epochDone := false, inTick := false }
    pins := { s.pins with twinOk := !s.fatalIdle } }
  let s := (s.stepDone 13).recordBrownOut
  let s := (s.applyCommits 0).setFrame t
  let s := s.showPlan (s.fld Reg.TCK_FRAME 0 7)
  let s := s.setReg Reg.MGT_EPOCH 0
  let s := s.tasterEpoch.gainDeficits
  s.voidNewSlot.endTests

/-- The restart after Doze (R310, R529): at an epoch tick, with the variant that ran before, cold. -/
def State.resumePlane (s : State) : State :=
  let v := s.active
  let n := s.slot
  let s := { s with
    power := { s.power with resume := false }
    plan := { s.plan with coldAt := some n }
    clock := { s.clock with running := true }
    pins := { s.pins with twinOk := !s.fatalIdle } }
  let s := (s.setReg Reg.SPL_SWLAST (BitVec.ofNat 32 n)).setReg Reg.SPL_SWCAUSE (BitVec.ofNat 32 (v % 2 ^ 16 + 2 ^ 18))
  let s := s.raise 0x0304 .detected chipLoc (v % 2 ^ 16 + v % 2 ^ 16 * 2 ^ 16) n
  ((s.showPlan (s.fld Reg.TCK_FRAME 0 7)).voidNewSlot).endTests

/-- DATA_PLANE_START (R529, R544). -/
def State.dataPlaneStart (s : State) (us : Nat) : State :=
  let ready := !s.anyJesd || (s.start.lemcAt.isSome && s.jesdReady)
  if s.clock.running || s.isMgmtOnly || !ready then s
  else if s.power.resume then
    if s.powerState = 0 && s.start.links.isEmpty && s.isEpoch s.slot && s.clock.cc == 0 then s.resumePlane else s
  else if s.fld Reg.STA_STEP 0 4 != 12 || s.twinState == 1 || s.twinState == 2 then s
  else
    let after := if s.anyJesd then max s.now (s.start.lemcAt.getD 0 + 1000000 * nsTime) else s.now
    s.startPlane 0 (s.epochBoundary after) us

/-- JOIN (R503, R543): the newcomer starts with slot `j`, or both of a pair start together. -/
def State.joinTick (s : State) (x : Transferred) (us : Nat) : State :=
  if s.clock.running then s.join x
  else match s.twin.joinAt with
    | none => s
    | some j =>
        let s := s.join x
        s.startPlane j (s.epochBoundary s.now) us

def execSlotTick (x : TickInput) (s : State) : Host.Outcome State Fault Refusal := .next (s.slotTick x)

def execEpochTick (x : TickInput) (s : State) : Host.Outcome State Fault Refusal := .next (s.epochTick x)

def execTickMismatch (regions : List Nat) (s : State) : Host.Outcome State Fault Refusal :=
  .next (s.tickMismatch regions)

def execPlanSwitchRequest (variant : Nat) (s : State) : Host.Outcome State Fault Refusal :=
  .next (s.managed fun s => s.switchRequest variant)

def execDataPlaneStart (us : Nat) (s : State) : Host.Outcome State Fault Refusal := .next (s.dataPlaneStart us)

def execJoin (x : Transferred) (us : Nat) (s : State) : Host.Outcome State Fault Refusal :=
  .next (s.joinTick x us)

end Sys2Proof.Machine
end

