-- ==== Sys2Proof/Machine/Dispatch.lean ====
section
/-! DEFINITION. The dispatch: one arm per command. -/

namespace Sys2Proof.Machine

open Sys2Proof

def exec (i : Instr) (s : State) : Host.Outcome State Fault Refusal :=
  match i with
  | .slotTick x => Sys2Proof.Machine.execSlotTick x s
  | .epochTick x => Sys2Proof.Machine.execEpochTick x s
  | .symbolTick symbol => Sys2Proof.Machine.execSymbolTick symbol s
  | .epochProgram run leg => Sys2Proof.Machine.execEpochProgram run leg s
  | .tickMismatch regions => Sys2Proof.Machine.execTickMismatch regions s
  | .load c => Sys2Proof.Machine.execLoad c s
  | .stream c => Sys2Proof.Machine.execStream c s
  | .loadstream c => Sys2Proof.Machine.execLoadstream c s
  | .bias c => Sys2Proof.Machine.execBias c s
  | .drain c => Sys2Proof.Machine.execDrain c s
  | .vload c => Sys2Proof.Machine.execVload c s
  | .sweep c => Sys2Proof.Machine.execSweep c s
  | .sout c => Sys2Proof.Machine.execSout c s
  | .transpose c => Sys2Proof.Machine.execTranspose c s
  | .transposeEmit region buf => Sys2Proof.Machine.execTransposeEmit region buf s
  | .openTensor c => Sys2Proof.Machine.execOpen c s
  | .accum c => Sys2Proof.Machine.execAccum c s
  | .flush c => Sys2Proof.Machine.execFlush c s
  | .tload c => Sys2Proof.Machine.execTload c s
  | .tstore c => Sys2Proof.Machine.execTstore c s
  | .ewise c => Sys2Proof.Machine.execEwise c s
  | .reduce c => Sys2Proof.Machine.execReduce c s
  | .desc c => Sys2Proof.Machine.execDesc c s
  | .lookup c => Sys2Proof.Machine.execLookup c s
  | .sort c => Sys2Proof.Machine.execSort c s
  | .select c => Sys2Proof.Machine.execSelect c s
  | .pack c => Sys2Proof.Machine.execPack c s
  | .crc c => Sys2Proof.Machine.execCrc c s
  | .scramble c => Sys2Proof.Machine.execScramble c s
  | .reenc c => Sys2Proof.Machine.execReenc c s
  | .batch c => Sys2Proof.Machine.execBatch c s
  | .fill c => Sys2Proof.Machine.execFill c s
  | .arm c bank spine => Sys2Proof.Machine.execArm c bank spine s
  | .shadowBecomesActive region ladle => Sys2Proof.Machine.execShadowBecomesActive region ladle s
  | .streamDone region ladle => Sys2Proof.Machine.execStreamDone region ladle s
  | .absent region ladle offset n discarded => Sys2Proof.Machine.execAbsent region ladle offset n discarded s
  | .ladleRelease region ladle => Sys2Proof.Machine.execLadleRelease region ladle s
  | .hbmStripe stack sslot region ladle write ecc => Sys2Proof.Machine.execHbmStripe stack sslot region ladle write ecc s
  | .delayedStripe stack sslot => Sys2Proof.Machine.execDelayedStripe stack sslot s
  | .refreshEntry stack sslot => Sys2Proof.Machine.execRefreshEntry stack sslot s
  | .hbmOverTemperature stack temp => Sys2Proof.Machine.execHbmOverTemperature stack temp s
  | .scrub region bank found => Sys2Proof.Machine.execScrub region bank found s
  | .fft c => Sys2Proof.Machine.execFft c s
  | .ifft c => Sys2Proof.Machine.execIfft c s
  | .fir c => Sys2Proof.Machine.execFir c s
  | .fetch c => Sys2Proof.Machine.execFetch c s
  | .steer c => Sys2Proof.Machine.execSteer c s
  | .ncoDeltaUpdate nco cycle => Sys2Proof.Machine.execNcoDeltaUpdate nco cycle s
  | .ncoToffUpdate nco cycle => Sys2Proof.Machine.execNcoToffUpdate nco cycle s
  | .steeringFrame frame => Sys2Proof.Machine.execSteeringFrame frame s
  | .receiveSample chan slot sample re im => Sys2Proof.Machine.execReceiveSample chan slot sample re im s
  | .transmitSample chan slot sample buf => Sys2Proof.Machine.execTransmitSample chan slot sample buf s
  | .jesdLinkCrc link slot sample count => Sys2Proof.Machine.execJesdLinkCrc link slot sample count s
  | .jesdLinkDown tx link elastic => Sys2Proof.Machine.execJesdLinkDown tx link elastic s
  | .relock tx link => Sys2Proof.Machine.execRelock tx link s
  | .sysrefEdge off t => Sys2Proof.Machine.execSysrefEdge off t s
  | .gainWindow loop => Sys2Proof.Machine.execGainWindow loop s
  | .gainWordApply loop cycle => Sys2Proof.Machine.execGainWordApply loop cycle s
  | .freezeEnd loop cycle => Sys2Proof.Machine.execFreezeEnd loop cycle s
  | .ldec c => Sys2Proof.Machine.execLdec c s
  | .lenc c => Sys2Proof.Machine.execLenc c s
  | .pdec c => Sys2Proof.Machine.execPdec c s
  | .penc c => Sys2Proof.Machine.execPenc c s
  | .tbseg c => Sys2Proof.Machine.execTbseg c s
  | .tbchk c => Sys2Proof.Machine.execTbchk c s
  | .reEncoding unit cycle => Sys2Proof.Machine.execReEncoding unit cycle s
  | .uprx c => Sys2Proof.Machine.execUprx c s
  | .uptx c => Sys2Proof.Machine.execUptx c s
  | .cptx c => Sys2Proof.Machine.execCptx c s
  | .l2tx c => Sys2Proof.Machine.execL2tx c s
  | .l2rx c => Sys2Proof.Machine.execL2rx c s
  | .uPlaneSection cycle sec => Sys2Proof.Machine.execUPlaneSection cycle sec s
  | .ethernetFrame port f => Sys2Proof.Machine.execEthernetFrame port f s
  | .nonPlannedFrame port cycle stamp => Sys2Proof.Machine.execNonPlannedFrame port cycle stamp s
  | .arpRequest mac ip target => Sys2Proof.Machine.execArpRequest mac ip target s
  | .neighbourSolicitation mac ip target => Sys2Proof.Machine.execNeighbourSolicitation mac ip target s
  | .bsr m => Sys2Proof.Machine.execBsr m s
  | .qos m => Sys2Proof.Machine.execQos m s
  | .dldata m => Sys2Proof.Machine.execDldata m s
  | .attreq m => Sys2Proof.Machine.execAttreq m s
  | .fault => Sys2Proof.Machine.execFault s
  | .announce port m d => Sys2Proof.Machine.execAnnounce port m d s
  | .sync port m stamp => Sys2Proof.Machine.execSync port m stamp s
  | .delayReq port m stamp => Sys2Proof.Machine.execDelayReq port m stamp s
  | .followUp port m => Sys2Proof.Machine.execFollowUp port m s
  | .followUpTimeout seq src => Sys2Proof.Machine.execFollowUpTimeout seq src s
  | .syncMissed => Sys2Proof.Machine.execSyncMissed s
  | .esmcPdu port ql => Sys2Proof.Machine.execEsmcPdu port ql s
  | .esmcTimeout => Sys2Proof.Machine.execEsmcTimeout s
  | .informationPdu => Sys2Proof.Machine.execInformationPdu s
  | .triggerArm n value => Sys2Proof.Machine.execTriggerArm n value s
  | .triggerFire n cycle => Sys2Proof.Machine.execTriggerFire n cycle s
  | .capture n source stamp => Sys2Proof.Machine.execCapture n source stamp s
  | .timeRead => Sys2Proof.Machine.execTimeRead s
  | .timeStepAccept => Sys2Proof.Machine.execTimeStepAccept s
  | .enterFreerun => Sys2Proof.Machine.execEnterFreerun s
  | .superframe cycle m gs => Sys2Proof.Machine.execSuperframe cycle m gs s
  | .swituLinkDown lanes => Sys2Proof.Machine.execSwituLinkDown lanes s
  | .send c => Sys2Proof.Machine.execSend c s
  | .recv c => Sys2Proof.Machine.execRecv c s
  | .hello h us => Sys2Proof.Machine.execHello h us s
  | .digest d => Sys2Proof.Machine.execDigest d s
  | .digestSend => Sys2Proof.Machine.execDigestSend s
  | .digestCompare => Sys2Proof.Machine.execDigestCompare s
  | .roleSwap => Sys2Proof.Machine.execRoleSwap s
  | .swapNotice slot => Sys2Proof.Machine.execSwapNotice slot s
  | .transferNotice slot => Sys2Proof.Machine.execTransferNotice slot s
  | .joinNotice slot => Sys2Proof.Machine.execJoinNotice slot s
  | .detachNotice slot => Sys2Proof.Machine.execDetachNotice slot s
  | .abortNotice => Sys2Proof.Machine.execAbortNotice s
  | .transferStart => Sys2Proof.Machine.execTransferStart s
  | .bulkCopyComplete => Sys2Proof.Machine.execBulkCopyComplete s
  | .join x us => Sys2Proof.Machine.execJoin x us s
  | .attachAborted => Sys2Proof.Machine.execAttachAborted s
  | .twinPeerFall marker => Sys2Proof.Machine.execTwinPeerFall marker s
  | .takeover => Sys2Proof.Machine.execTakeover s
  | .attach => Sys2Proof.Machine.execAttach s
  | .detach => Sys2Proof.Machine.execDetach s
  | .swapRoles => Sys2Proof.Machine.execSwapRoles s
  | .planSwitchRequest variant => Sys2Proof.Machine.execPlanSwitchRequest variant s
  | .promote => Sys2Proof.Machine.execPromote s
  | .revert => Sys2Proof.Machine.execRevert s
  | .revertCopyComplete => Sys2Proof.Machine.execRevertCopyComplete s
  | .seedingJobComplete => Sys2Proof.Machine.execSeedingJobComplete s
  | .trainingStep => Sys2Proof.Machine.execTrainingStep s
  | .tasterDecision n eAct eCand eCls voids => Sys2Proof.Machine.execTasterDecision n eAct eCand eCls voids s
  | .historyReset region unit chan => Sys2Proof.Machine.execHistoryReset region unit chan s
  | .channelUpdateStage zp value => Sys2Proof.Machine.execChannelUpdateStage zp value s
  | .ncoClear nco => Sys2Proof.Machine.execNcoClear nco s
  | .commit groups => Sys2Proof.Machine.execCommit groups s
  | .discard groups => Sys2Proof.Machine.execDiscard groups s
  | .registerWrite addr value leg => Sys2Proof.Machine.execRegisterWrite addr value leg s
  | .elasticWindowStart region start => Sys2Proof.Machine.execElasticWindowStart region start s
  | .schedulerDecision region cycle => Sys2Proof.Machine.execSchedulerDecision region cycle s
  | .sliceEnd region context => Sys2Proof.Machine.execSliceEnd region context s
  | .swap region cycle cycles => Sys2Proof.Machine.execSwap region cycle cycles s
  | .swapComplete region => Sys2Proof.Machine.execSwapComplete region s
  | .elasticWindowCut region cycle => Sys2Proof.Machine.execElasticWindowCut region cycle s
  | .elasticSequenceEntry region index cycles => Sys2Proof.Machine.execElasticSequenceEntry region index cycles s
  | .leaveGrant region cycle => Sys2Proof.Machine.execLeaveGrant region cycle s
  | .overTemperature sensor temp => Sys2Proof.Machine.execOverTemperature sensor temp s
  | .thermalTrip sensor temp => Sys2Proof.Machine.execThermalTrip sensor temp s
  | .pllLossOfLock domain => Sys2Proof.Machine.execPllLossOfLock domain s
  | .lockstepMismatch block action => Sys2Proof.Machine.execLockstepMismatch block action s
  | .rotatingSelfTest done fail checker => Sys2Proof.Machine.execRotatingSelfTest done fail checker s
  | .ledgerExtract => Sys2Proof.Machine.execLedgerExtract s
  | .runRequest => Sys2Proof.Machine.execRunRequest s
  | .trimRequest => Sys2Proof.Machine.execTrimRequest s
  | .doze => Sys2Proof.Machine.execDoze s
  | .keep => Sys2Proof.Machine.execKeep s
  | .regionReset => Sys2Proof.Machine.execRegionReset s
  | .regionPowerDown => Sys2Proof.Machine.execRegionPowerDown s
  | .regionPowerUp => Sys2Proof.Machine.execRegionPowerUp s
  | .wakeN => Sys2Proof.Machine.execWakeN s
  | .wakeNow => Sys2Proof.Machine.execWakeNow s
  | .wakeTimeout region => Sys2Proof.Machine.execWakeTimeout region s
  | .brownOut x => Sys2Proof.Machine.execBrownOut x s
  | .supplyReset => Sys2Proof.Machine.execSupplyReset s
  | .powerOn x => Sys2Proof.Machine.execPowerOn x s
  | .startStepTimeout stack => Sys2Proof.Machine.execStartStepTimeout stack s
  | .linkNotTrained us => Sys2Proof.Machine.execLinkNotTrained us s
  | .timeLockTimeout us => Sys2Proof.Machine.execTimeLockTimeout us s
  | .handshakeWaitExpiry us => Sys2Proof.Machine.execHandshakeWaitExpiry us s
  | .dataPlaneStart us => Sys2Proof.Machine.execDataPlaneStart us s
  | .erase => Sys2Proof.Machine.execErase s
  | .program => Sys2Proof.Machine.execProgram s
  | .verify slot => Sys2Proof.Machine.execVerify slot s
  | .activate slot => Sys2Proof.Machine.execActivate slot s
  | .savew => Sys2Proof.Machine.execSavew s
  | .dropw => Sys2Proof.Machine.execDropw s
  | .pageBufferWrite value => Sys2Proof.Machine.execPageBufferWrite value s
  | .nvmCommandDone error => Sys2Proof.Machine.execNvmCommandDone error s
  | .go map => Sys2Proof.Machine.execGo map s
  | .reportReady => Sys2Proof.Machine.execReportReady s
  | .attdataRead => Sys2Proof.Machine.execAttdataRead s
  | .pop => Sys2Proof.Machine.execPop s
  | .echo count => Sys2Proof.Machine.execEcho count s
  | .write frame leg => Sys2Proof.Machine.execWrite frame leg s
  | .read frame leg => Sys2Proof.Machine.execRead frame leg s
  | .responseRead pending => Sys2Proof.Machine.execResponseRead pending s
  | .enec ev => Sys2Proof.Machine.execEnec ev s
  | .disec ev => Sys2Proof.Machine.execDisec ev s
  | .entas k => Sys2Proof.Machine.execEntas k s
  | .rstdaa => Sys2Proof.Machine.execRstdaa s
  | .entdaa da => Sys2Proof.Machine.execEntdaa da s
  | .enthdr0 => Sys2Proof.Machine.execEnthdr0 s
  | .hdrExit => Sys2Proof.Machine.execHdrExit s
  | .setaasa => Sys2Proof.Machine.execSetaasa s
  | .setdasa da => Sys2Proof.Machine.execSetdasa da s
  | .setnewda da => Sys2Proof.Machine.execSetnewda da s
  | .getmwl => Sys2Proof.Machine.execGetmwl s
  | .getmrl => Sys2Proof.Machine.execGetmrl s
  | .getpid => Sys2Proof.Machine.execGetpid s
  | .getbcr => Sys2Proof.Machine.execGetbcr s
  | .getdcr => Sys2Proof.Machine.execGetdcr s
  | .getstatus => Sys2Proof.Machine.execGetstatus s
  | .getmxds => Sys2Proof.Machine.execGetmxds s
  | .getcaps => Sys2Proof.Machine.execGetcaps s
  | .ibi ack => Sys2Proof.Machine.execIbi ack s
  | .seqRead prog idx x => Sys2Proof.Machine.execSeqRead prog idx x s
  | .seqWrite prog idx x => Sys2Proof.Machine.execSeqWrite prog idx x s
  | .rmw prog idx x => Sys2Proof.Machine.execRmw prog idx x s
  | .delta prog idx x => Sys2Proof.Machine.execDelta prog idx x s
  | .test prog idx x => Sys2Proof.Machine.execTest prog idx x s
  | .record prog idx x => Sys2Proof.Machine.execRecord prog idx x s
  | .seqCommit prog idx x => Sys2Proof.Machine.execSeqCommit prog idx x s
  | .loopbackActivate => Sys2Proof.Machine.execLoopbackActivate s
  | .prbsLock lane errors units => Sys2Proof.Machine.execPrbsLock lane errors units s
  | .prbsLossOfLock lane errors units => Sys2Proof.Machine.execPrbsLossOfLock lane errors units s
  | .extest sampled data => Sys2Proof.Machine.execExtest sampled data s
  | .idcode => Sys2Proof.Machine.execIdcode s
  | .samplePreload sampled data => Sys2Proof.Machine.execSamplePreload sampled data s
  | .highz => Sys2Proof.Machine.execHighz s
  | .clamp => Sys2Proof.Machine.execClamp s
  | .extestPulse sampled data => Sys2Proof.Machine.execExtestPulse sampled data s
  | .extestTrain sampled data => Sys2Proof.Machine.execExtestTrain sampled data s
  | .bypass => Sys2Proof.Machine.execBypass s
  | .testLogicReset => Sys2Proof.Machine.execTestLogicReset s
  | .anvClrLatch region unit => Sys2Proof.Machine.execAnvClrLatch region unit s
  | .anvClrCnt region unit => Sys2Proof.Machine.execAnvClrCnt region unit s
  | .slcClrLatch region => Sys2Proof.Machine.execSlcClrLatch region s
  | .slcClrCnt region => Sys2Proof.Machine.execSlcClrCnt region s
  | .swgClr region => Sys2Proof.Machine.execSwgClr region s
  | .cruClr region => Sys2Proof.Machine.execCruClr region s
  | .plnClrLatch region unit => Sys2Proof.Machine.execPlnClrLatch region unit s
  | .plnClrCnt region unit => Sys2Proof.Machine.execPlnClrCnt region unit s
  | .tnkClr region unit => Sys2Proof.Machine.execTnkClr region unit s
  | .ldlClr region unit => Sys2Proof.Machine.execLdlClr region unit s
  | .spdClr region => Sys2Proof.Machine.execSpdClr region s
  | .delayResp port m us => Sys2Proof.Machine.execDelayResp port m us s
  | .pllRelock domain => Sys2Proof.Machine.execPllRelock domain s
  | .readySignal region us x => Sys2Proof.Machine.execReadySignal region us x s
  | .linkUp link us errs => Sys2Proof.Machine.execLinkUp link us errs s
  | .ethernetLinkDown port => Sys2Proof.Machine.execEthernetLinkDown port s
  | .temperatureFallenBelowLimit sensor temp => Sys2Proof.Machine.execTemperatureFallenBelowLimit sensor temp s
  | .guardReached region context cycle => Sys2Proof.Machine.execGuardReached region context cycle s
  | .spnCntclr => Sys2Proof.Machine.execSpnCntclr s
  | .detClr => Sys2Proof.Machine.execDetClr s
  | .fmtClr => Sys2Proof.Machine.execFmtClr s
  | .grdClr => Sys2Proof.Machine.execGrdClr s
  | .memClr => Sys2Proof.Machine.execMemClr s
  | .elsClr => Sys2Proof.Machine.execElsClr s
  | .radClr => Sys2Proof.Machine.execRadClr s
  | .cdcClr => Sys2Proof.Machine.execCdcClr s
  | .wgtClr => Sys2Proof.Machine.execWgtClr s
  | .schClr => Sys2Proof.Machine.execSchClr s
  | .netClr => Sys2Proof.Machine.execNetClr s
  | .fltClr => Sys2Proof.Machine.execFltClr s
  | .lgrClr => Sys2Proof.Machine.execLgrClr s
  | .twnClr => Sys2Proof.Machine.execTwnClr s
  | .pwrClr => Sys2Proof.Machine.execPwrClr s
  | .clkClr => Sys2Proof.Machine.execClkClr s
  | .secClr => Sys2Proof.Machine.execSecClr s
  | .mgtClr => Sys2Proof.Machine.execMgtClr s
  | .netPrbsClr => Sys2Proof.Machine.execNetPrbsClr s
  | .radPrbsClr => Sys2Proof.Machine.execRadPrbsClr s
  | .twnPrbsClr => Sys2Proof.Machine.execTwnPrbsClr s

end Sys2Proof.Machine
end

