-- ==== Sys2Proof/Safety.lean ====
section
/-! DEFINITION. What the statements call a state in canonical form, a state that works, and a safe queue. -/

namespace Sys2Proof

/-- The commands of the engines, which a plan or the list of a context holds (R299). -/
def Instr.isEngine (i : Instr) : Bool :=
  match i with
  | .load _ | .stream _ | .loadstream _ | .bias _ | .drain _ | .vload _ | .sweep _ | .sout _ | .transpose _
  | .openTensor _ | .accum _ | .flush _ | .tload _ | .tstore _ | .ewise _ | .reduce _ | .desc _ | .lookup _
  | .sort _ | .select _ | .pack _ | .crc _ | .scramble _ | .reenc _ | .batch _ | .fill _ | .arm _ _ _
  | .fft _ | .ifft _ | .fir _ | .fetch _ | .steer _ | .ldec _ | .lenc _ | .pdec _ | .penc _ | .tbseg _
  | .tbchk _ | .reEncoding _ _ | .uprx _ | .uptx _ | .cptx _ | .l2tx _ | .l2rx _ | .send _ | .recv _ => true
  | _ => false

namespace Machine

open Sys2Proof

/-- Every memory is in its canonical form: keys strictly rising, no entry equal to what an unlisted address
reads as. -/
def Memories.wf (m : Memories) : Bool :=
  SMap.wf 0 m.pad && SMap.wf 0 m.padHall && SMap.wf 0 m.padEcc && SMap.wf 0 m.hbm && SMap.wf 0 m.hbmHall
    && SMap.wf 0 m.te && SMap.wf {} m.beside && SMap.wf 0 m.teHall && SMap.wf 0 m.teVoid && SMap.wf 0xFF m.flash
    && SMap.wf 0 m.store

/-- The registers and the memories are in canonical form. -/
def State.canonical (s : State) : Bool := SMap.wf 0 s.regs && s.mem.wf

/-- A register key whose register has a staged field (access code RWS, R13). -/
def stagedKey (k : Nat) : Bool :=
  (findReg (k % 2 ^ 32)).any fun d => d.fields.any fun f => f.acc == .rws

/-- Only staged registers are staged or wait for their epoch tick (R587). -/
def State.stagedOnly (s : State) : Bool :=
  (s.commit.shadow.all fun e => stagedKey e.1) && s.commit.waiting.all fun a => stagedKey a.key

/-- The state in which step `i` of program `p` acts (R594, R595). -/
def State.atStep (s : State) (p i : Nat) : State :=
  let s := { s with seq := { s.seq with prog := p } }
  let s := (s.setFld Reg.MGT_SEQSTAT 0 4 p).setFld Reg.MGT_SEQSTAT 8 8 (i - s.programFirst p)
  if i = s.programFirst p then s.clearSlots else s

/-- Each clear command of a region and unit, the region that must answer, and the registers that it sets to 0. -/
def clearTable (s : State) (r u : Nat) : List (Instr × Option Nat × List Nat) :=
  [(.spnCntclr, none, [Reg.SPN_ABSCNT, Reg.SPN_DISCNT, Reg.SPN_CTLMAX]),
   (.detClr, none, [Reg.DET_BREACH, Reg.DET_BRSLOT, Reg.DET_BRCC]),
   (.fmtClr, none, [Reg.FMT_SKEW, Reg.FMT_SKEWSLOT, Reg.FMT_SKEWLOC, Reg.FMT_FLAGCNT]),
   (.anvClrLatch r u, some r, [Reg.ANV_ZISLOT r u, Reg.ANV_ZIPOS r u]),
   (.anvClrCnt r u, some r, [Reg.ANV_FRZ r u, Reg.ANV_CHK r u, Reg.ANV_CHKSLOT r u, Reg.ANV_ACT r u]),
   (.slcClrLatch r, some r, [Reg.SLC_ZISLOT r, Reg.SLC_ZIPOS r]),
   (.slcClrCnt r, some r, [Reg.SLC_FRZ r, Reg.SLC_BYTES r]),
   (.grdClr, none, [Reg.GRD_JOBS, Reg.GRD_STALE]),
   (.swgClr r, some r, [Reg.SWG_CHK r, Reg.SWG_CHKSLOT r, Reg.SWG_BYTES r]),
   (.cruClr r, some r, [Reg.CRU_SAT r])] ++
  [(.plnClrLatch r u, some r, [Reg.PLN_ZISLOT r u, Reg.PLN_ZIPOS r u]),
   (.plnClrCnt r u, some r, [Reg.PLN_WIT r u, Reg.PLN_WITSLOT r u, Reg.PLN_ACT r u, Reg.PLN_STRICT r u]),
   (.tnkClr r u, some r, [Reg.TNK_SELF r u, Reg.TNK_SELFSLOT r u, Reg.TNK_LKMISS r u, Reg.TNK_BATCH r u,
      Reg.TNK_REENC r u]),
   (.ldlClr r u, some r, [Reg.LDL_ERR r u, Reg.LDL_ERRSLOT r u, Reg.LDL_BYTES r u]),
   (.spdClr r, some r, [Reg.SPD_SCRUB r, Reg.SPD_ECC r, Reg.SPD_ECCLOC r, Reg.SPD_COLL r]),
   (.memClr, some 11, [Reg.MEM_REFGAP, Reg.MEM_ECC, Reg.MEM_ECCADDR, Reg.MEM_ECCADDRHI, Reg.MEM_RDSTR,
      Reg.MEM_WRSTR, Reg.MEM_LATE, Reg.MEM_TBLERR]),
   (.elsClr, none, (List.range 64).flatMap (fun c =>
      [winKey c Reg.ELS_JOBSUB, winKey c Reg.ELS_JOBDONE, winKey c Reg.ELS_JOBABRT]) ++
      (List.range 14).flatMap (fun q => [winKey q Reg.ELS_SWAPS, winKey q Reg.ELS_CUTS, winKey q Reg.ELS_OVR])),
   (.radClr, some 8, [Reg.RAD_CNT, Reg.STP_ERR, Reg.STP_STAT] ++
      (List.range 8).flatMap (fun n => [Reg.JRX_ERR n, Reg.JTX_ERR n]) ++
      (List.range 64).map (fun l => winKey l Reg.AGC_CNT) ++ (List.range 16).map Reg.TE_ACT)] ++
  [(.cdcClr, some 10, [Reg.CDC_CB, Reg.CDC_CBFAIL, Reg.CDC_TBPASS, Reg.CDC_TBFAIL, Reg.CDC_REFUSE]),
   (.wgtClr, none, [Reg.WGT_CNT, Reg.WGT_SAT]),
   (.schClr, none, [Reg.SCH_CNT]),
   (.netClr, some 9, [Reg.NET_FHCNT0, Reg.NET_FHCNT1, Reg.NET_FHCNT2, Reg.NET_L2CNT0, Reg.NET_L2CNT1,
      Reg.NET_PTPCNT] ++ (List.range 9).map (fun p => winKey p Reg.NET_PCNT)),
   (.fltClr, none, [Reg.FLT_LOST, Reg.FLT_CNTD, Reg.FLT_CNTM, Reg.FLT_STEST]),
   (.lgrClr, none, [Reg.LGR_TOTAL, Reg.LGR_XOVF]),
   (.twnClr, some 12, [Reg.TWN_CNT, Reg.TWN_LNK]),
   (.pwrClr, none, (List.range 14).map fun q => winKey q Reg.PWR_WAIT),
   (.clkClr, none, [Reg.CLK_LOL]),
   (.secClr, none, [Reg.SEC_CNT]),
   (.mgtClr, none, [Reg.MGT_CCNT, Reg.MGT_ACC]),
   (.netPrbsClr, some 9,
      let p := s.fld Reg.NET_PORTSEL 0 4
      [winKey p Reg.NET_PRBSERR0, winKey p Reg.NET_PRBSERR1, winKey p Reg.NET_PRBSBITS]),
   (.radPrbsClr, some 8, [winKey (s.fld Reg.RAD_PRBS 0 5) Reg.RAD_PRBSERR]),
   (.twnPrbsClr, some 12, [winKey (s.fld Reg.TWN_PRBS 0 5) Reg.TWN_PRBSERR])]

/-- Whether the part's grade has the unit that a clear names (R15, R180, R181). -/
def State.clearFits (s : State) (i : Instr) : Bool :=
  match i with
  | .anvClrLatch _ u | .anvClrCnt _ u => !(u == 3 && s.bit Reg.ARC_GRADE 0)
  | .slcClrLatch _ | .slcClrCnt _ => s.bit Reg.ARC_GRADE 8
  | _ => true

/-- The registers of which a clear sets some fields to 0 and leaves the others. -/
def clearedFields : List Nat :=
  [Reg.CDC_RQ, Reg.RAD_SYSREF, Reg.MGT_IBI, Reg.MGT_SEQSTAT, Reg.PWR_MEAS] ++
    (List.range 9).map fun p => winKey p Reg.NET_PSTAT

/-- Every waiting command is one that can be given at all. -/
def State.safeQueue (s : State) : Bool := s.pending.all Instr.wf

/-- The newest command under way is `c`, in slot `port` of its engine. -/
def State.runs (t : State) (c : Cmd) (port : Nat) : Bool :=
  match t.running with
  | [] => false
  | e :: _ => e.cls == c.cls && e.region == c.region && e.unit == c.unit && e.port == port
      && e.w0 == c.w.w0 && e.planned == c.issue

/-- The end of the newest command under way. -/
def State.newestEnd (t : State) : Option Nat := t.running.head?.map (·.finish)

end Machine

end Sys2Proof
end

