-- ==== Sys2Proof/Certificates/Slice0/Obligations.lean ====
section
/-! DEFINITION. The statements for the provers. Each docstring says what its statement claims; OBLIGATIONS.json
names the rules. -/

section

open Sys2Proof Sys2Proof.Machine

/-- With command c at the front of the queue, a step is exec of c on the state whose queue is the rest; on an
empty queue a step answers the same state. -/
def Obligations.StepTakesTheFrontCommand : Prop :=
  ∀ s : State,
    (s.pending = [] → step s = .next s) ∧
    ∀ c rest, s.pending = c :: rest → step s = exec c { s with pending := rest }

/-- Right after reset: ARC.ID, RAD.TRATE, NET.SYNCE, MEM.CFG and AGC.STAT.PWR hold the values the rules give; the
balls that the device drives are low, nothing is powered, no command waits, and the data plane does not run.
That every other register reads 0 is the model's choice (assumption log entry 5). Every memory and the
registers of the reset state are in canonical form, and no commit waits. -/
def Obligations.ResetStateAndForms : Prop :=
  (State.reset.reg Reg.ARC_ID = 0x0940B000 ∧ State.reset.reg Reg.RAD_TRATE = 3250 ∧
    State.reset.fld Reg.MEM_CFG 0 16 = 0x1803 ∧ State.reset.fld Reg.NET_SYNCE 8 4 = 0xF ∧
    (∀ l < 64, State.reset.reg (winKey l Reg.AGC_STAT) = 0xFF0000) ∧ State.reset.clock.running = false ∧
    State.reset.pins.faultN = false ∧ State.reset.pins.pwrEn = false ∧ State.reset.pins.twinOk = false ∧
    (∀ r < 13, State.reset.served r = false) ∧ State.reset.pending = []) ∧
    (State.reset.canonical = true ∧ State.reset.stagedOnly = true)

/-- For every engine command: if the rules of the image loader that read the command alone refuse it, exec answers
the refusal loaderRefuses, and otherwise it answers a next state. Every command that is no engine command
answers a next state in every state. -/
def Obligations.EveryCommandIsAnswered : Prop :=
  (∀ (i : Instr) (s : State), i.isEngine = true →
    (i.wf = false → exec i s = .refused .loaderRefuses) ∧ (i.wf = true → ∃ t, exec i s = .next t)) ∧
    (∀ (i : Instr) (s : State), i.isEngine = false → ∃ t, exec i s = .next t)

/-- A well-formed LOAD that issues is under way in the array slot of its Anvil, and the Anvil holds a tile with
the command's rows, columns and format that belongs to the context the command ran for. If no data of its
stationary operand is late, the array is taken for 128 cycles. A well-formed BIAS that issues is under way in
the array slot, and the newest row writes of its Anvil are M writes of 64 raw entries to the rows ROW, ROW +
1, … modulo 512 in the class that CLS names; none of them accumulates. Unless a fault of the command's data
fences the region, the tile of the array is the one that stood there as the command issued. -/
def Obligations.AnvilTilesAndBiasRows : Prop :=
  (∀ (s : State) (c : Cmd), c.wfLoad = true →
    let s0 := s.drainsTo (s.comesAt c)
    let free := (s0.anvil c.region c.unit).arrayFree
    let x := s0.issue c (s.anvilLoc c) free (2 ^ c.unit)
    s0.goes c free (2 ^ c.unit) = true →
    ∃ t tile, exec (.load c) s = .next t ∧ t.runs c 0 = true ∧
      (t.anvil c.region c.unit).tile = some tile ∧ tile.krows = bitsOf c.w.w2 16 8 ∧
      tile.ncols = bitsOf c.w.w2 24 7 ∧ tile.fmt = (Fmt.get (bitsOf c.w.w2 8 4)).code ∧
      tile.ctx = x.1.ctx ∧
      (x.2.loadFreezes c x.1.t = [] → (t.anvil c.region c.unit).arrayFree = x.1.t + 128)) ∧
    (∀ (s : State) (c : Cmd), c.wfBias = true →
    let s0 := s.drainsTo (s.comesAt c)
    let free := (s0.anvil c.region c.unit).arrayFree
    let x := s0.issue c (s.anvilLoc c) free (2 ^ c.unit)
    s0.goes c free (2 ^ c.unit) = true →
    ∃ t old new, exec (.bias c) s = .next t ∧ t.runs c 0 = true ∧
      (t.anvil c.region c.unit).flight = old ++ new ∧
      new.map (·.seq) = (List.range (s.rowsOf c)).map (fun j => (bitsOf c.w.w3 16 9 + j) % 512) ∧
      (∀ w ∈ new, w.acc = false ∧ w.cls = biasClass (bitsOf c.w.w2 4 2) ∧ w.raw.map List.length = some 64) ∧
      (t.fenced c.region = false → (t.anvil c.region c.unit).tile = (x.2.anvil c.region c.unit).tile))

/-- A well-formed STREAM or LOADSTREAM that is granted its leave and issues is under way in the array slot, and
the newest row writes of its Anvil are M writes to the accumulator rows ROW, ROW + 1, … modulo 512, each of
which adds to its row exactly where the command's ACC flag is set; a LOADSTREAM also leaves its tile in the
array. -/
def Obligations.AnvilStreamLaunchesItsRows : Prop :=
  ∀ (s : State) (c : Cmd),
    let g := (s.drainsTo (s.comesAt c)).takeLeave c (2 ^ c.unit) c.anvilLeave
    let rows := (List.range (s.rowsOf c)).map fun j => (bitsOf c.w.w3 16 9 + j) % 512
    g.1 = true → g.2.goes c (g.2.anvil c.region c.unit).arrayFree (2 ^ c.unit) = true →
    (c.wfStream = true → ∃ t old new, exec (.stream c) s = .next t ∧ t.runs c 0 = true ∧
      (t.anvil c.region c.unit).flight = old ++ new ∧ new.map (·.seq) = rows ∧
      ∀ w ∈ new, w.acc = c.flag 0) ∧
    (c.wfLoadstream = true → ∃ t old new tile, exec (.loadstream c) s = .next t ∧ t.runs c 0 = true ∧
      (t.anvil c.region c.unit).flight = old ++ new ∧ new.map (·.seq) = rows ∧
      (∀ w ∈ new, w.acc = c.flag 0) ∧ (t.anvil c.region c.unit).tile = some tile ∧
      tile.krows = bitsOf c.w.w2 16 8 ∧ tile.ncols = bitsOf c.w.w2 24 7)

/-- A well-formed DRAIN that issues is under way in the drain slot of its Anvil, the drain slot is taken until the
command ends, and the array slot's tile is unchanged; with M = 0 it ends in the cycle after its issue, and
otherwise a drain of M rows stands at its first row. -/
def Obligations.AnvilDrainTakesTheDrainSlot : Prop :=
  ∀ (s : State) (c : Cmd), c.wfDrain = true →
    let s0 := s.drainsTo (s.comesAt c)
    let free := (s0.anvil c.region c.unit).drainFree
    let x := s0.issue c (s.anvilLoc c) free (2 ^ c.unit)
    s0.goes c free (2 ^ c.unit) = true →
    ∃ t, exec (.drain c) s = .next t ∧ t.runs c 1 = true ∧
      t.newestEnd = some (t.anvil c.region c.unit).drainFree ∧
      (t.anvil c.region c.unit).tile = (x.2.anvil c.region c.unit).tile ∧
      (s.rowsOf c = 0 → t.newestEnd = some (x.1.t + 1)) ∧
      (s.rowsOf c ≠ 0 → ∃ d, (t.anvil c.region c.unit).drain = some d ∧ d.cmd = c ∧ d.at_ = x.1.t ∧
        d.rows = s.rowsOf c ∧ d.next = 0)

/-- Each well-formed Slicer command that issues (a SWEEP once its leave is granted) is under way, and the Slicer
is taken until it ends. A VLOAD leaves the format of its vectors and, unless it is empty, its B vectors; a
SWEEP leaves the weight of its products and its CHK flag; a SOUT leaves the result entries as they were. -/
def Obligations.SlicerCommandsTakeTheSlicer : Prop :=
  ∀ (s : State) (c : Cmd),
    (c.wfVload = true →
      s.goes c (s.slicer c.region).free slicerBit = true →
      ∃ t, exec (.vload c) s = .next t ∧ t.runs c 0 = true ∧
        t.newestEnd = some (t.slicer c.region).free ∧
        (t.slicer c.region).fmt = (Fmt.get (bitsOf c.w.w2 4 4)).code ∧
        (bitsOf c.w.w2 8 5 * bitsOf c.w.w2 16 16 ≠ 0 →
          (t.slicer c.region).vecs.length = bitsOf c.w.w2 8 5)) ∧
    (c.wfSweep = true →
      let g := s.takeLeave c slicerBit (bitsOf c.w.w5 0 12)
      let x := g.2.issue c (slicerLoc c) (g.2.slicer c.region).free slicerBit
      g.1 = true → g.2.goes c (g.2.slicer c.region).free slicerBit = true →
      ∃ t, exec (.sweep c) s = .next t ∧ t.runs c 0 = true ∧
        t.newestEnd = some (t.slicer c.region).free ∧ (t.slicer c.region).chkOn = c.flag 4 ∧
        (t.slicer c.region).weight =
          (Fmt.get (bitsOf c.w.w3 0 4)).weight + (Fmt.get (x.2.slicer c.region).fmt).weight) ∧
    (c.wfSout = true →
      let x := s.issue c (slicerLoc c) (s.slicer c.region).free slicerBit
      s.goes c (s.slicer c.region).free slicerBit = true →
      ∃ t, exec (.sout c) s = .next t ∧ t.runs c 0 = true ∧
        t.newestEnd = some (t.slicer c.region).free ∧
        (t.slicer c.region).entries = (x.2.slicer c.region).entries)

/-- A well-formed TRANSPOSE that issues is under way; unless it is empty, the buffer that it names then holds a
filled block of its rows, columns, format and sink. TRANSPOSE_EMIT of a buffer that holds a filled block, in a
region whose engines run, leaves the buffer empty and counts the block's bytes; of another buffer it changes
nothing. -/
def Obligations.SwageFillsAndEmitsBlocks : Prop :=
  ∀ (s : State) (c : Cmd),
    (c.wfTranspose = true →
      s.goes c (max (s.swage c.region).fillFree
        (SMap.read {} (s.swage c.region).bufs (bitsOf c.w.w2 8 2)).emitEnd) (2 ^ 16) = true →
      ∃ t, exec (.transpose c) s = .next t ∧ t.runs c 0 = true ∧
        (bitsOf c.w.w2 16 8 * bitsOf c.w.w2 24 8 ≠ 0 →
          let b := SMap.read {} (t.swage c.region).bufs (bitsOf c.w.w2 8 2)
          b.filled = true ∧ b.rows = bitsOf c.w.w2 16 8 ∧ b.cols = bitsOf c.w.w2 24 8 ∧
            b.fmt = (Fmt.get (bitsOf c.w.w2 12 4)).code ∧ b.sink = bitsOf c.w.w2 4 4)) ∧
    ∀ region buf,
      let b := SMap.read {} (s.swage region).bufs buf
      (s.engineLive region = true → b.filled = true →
        ∃ t, exec (.transposeEmit region buf) s = .next t ∧
          (SMap.read {} (t.swage region).bufs buf).filled = false ∧
          (t.swage region).bytes = (s.swage region).bytes
            + packedBytes (Fmt.get b.fmt).bits (transposed b.rows b.cols b.codes).length) ∧
      (b.filled = false → exec (.transposeEmit region buf) s = .next s)

/-- A well-formed OPEN that issues, of a tensor that no other context holds open, leaves the tensor open with the
command's base, rows, columns and G, owned by the command's context, and every one of its entries 0. An ACCUM
of at least one element, without an addressing upset, on a tensor that its context holds open counts one more
product. A FLUSH of such a tensor leaves the entries as they were and the tensor open unless its CLOSE bit is
set. Each is under way in the Crucible. -/
def Obligations.CrucibleTensorsOpenGatherAndFlush : Prop :=
  ∀ (s : State) (c : Cmd),
    let x := s.issue c (crucibleLoc c.region) (s.crucible c.region).free (2 ^ 17)
    let n := bitsOf c.w.w2 0 4
    let y := (x.2.crucible c.region).tensor n
    s.goes c (s.crucible c.region).free (2 ^ 17) = true →
    (c.wfOpen = true → (y.isOpen = false ∨ x.1.ctx = some y.owner) →
      ∃ t, exec (.openTensor c) s = .next t ∧ t.runs c 0 = true ∧
        ((t.crucible c.region).tensor n).isOpen = true ∧
        ((t.crucible c.region).tensor n).base = bitsOf c.w.w2 4 18 ∧
        ((t.crucible c.region).tensor n).rows = bitsOf c.w.w3 0 13 ∧
        ((t.crucible c.region).tensor n).cols = bitsOf c.w.w3 16 13 ∧
        ((t.crucible c.region).tensor n).g = sbitsOf c.w.w4 0 12 ∧
        ((t.crucible c.region).tensor n).owner = c.ctx ∧
        ∀ k, bitsOf c.w.w2 4 18 ≤ k → k < bitsOf c.w.w2 4 18 + bitsOf c.w.w3 0 13 * bitsOf c.w.w3 16 13 →
          SMap.read 0 (t.crucible c.region).entries k = 0) ∧
    (c.wfAccum = true → y.usable x.1.ctx = true → bitsOf c.w.w4 0 13 * bitsOf c.w.w4 16 13 ≠ 0 →
      c.slip = none →
      ∃ t, exec (.accum c) s = .next t ∧ t.runs c 0 = true ∧
        ((t.crucible c.region).tensor n).count = min (y.count + 1) (2 ^ 32 - 1) ∧
        ((t.crucible c.region).tensor n).isOpen = true) ∧
    (c.wfFlush = true → y.usable x.1.ctx = true →
      ∃ t, exec (.flush c) s = .next t ∧ t.runs c 0 = true ∧
        ((t.crucible c.region).tensor n).isOpen = !bitOf c.w.w2 9 ∧
        (t.crucible c.region).entries = (x.2.crucible c.region).entries)

/-- An OPEN, ACCUM or FLUSH that issues and that its context may not perform on the tensor it names completes in
the cycle after its issue and leaves every tensor and every entry of the Crucible as it was. -/
def Obligations.CrucibleRefusesAForeignTensor : Prop :=
  ∀ (s : State) (c : Cmd),
    let x := s.issue c (crucibleLoc c.region) (s.crucible c.region).free (2 ^ 17)
    let y := (x.2.crucible c.region).tensor (bitsOf c.w.w2 0 4)
    let same := fun (o : Host.Outcome State Fault Refusal) => ∃ t, o = .next t ∧ t.runs c 0 = true ∧
      t.newestEnd = some (x.1.t + 1) ∧ (t.crucible c.region).tensors = (x.2.crucible c.region).tensors ∧
      (t.crucible c.region).entries = (x.2.crucible c.region).entries
    s.goes c (s.crucible c.region).free (2 ^ 17) = true →
    (c.wfOpen = true → y.isOpen = true → x.1.ctx ≠ some y.owner → same (exec (.openTensor c) s)) ∧
    (c.wfAccum = true → y.usable x.1.ctx = false → same (exec (.accum c) s)) ∧
    (c.wfFlush = true → y.usable x.1.ctx = false → same (exec (.flush c) s))

/-- Each well-formed Planisher command that issues is under way, TLOAD and TSTORE in the load/store slot and EWISE
and REDUCE in the arithmetic slot. A TLOAD of at least one row leaves the tag of its tile as its INT flag
says, an EWISE on at least one element the tag that its operation gives, a REDUCE of some rows the tag of its
source, and a TSTORE, as it issues, leaves every element of every tile as it was. An EWISE of some elements
and a REDUCE of some rows move the witness by 1 cycle a row, 8 if they are strict. -/
def Obligations.PlanisherCommandsRunInTheirSlots : Prop :=
  ∀ (s : State) (c : Cmd),
    let p := s.planisher c.region c.unit
    let goes := fun arith reads writes => s.goes c (p.freeFor arith reads writes) (planBit c)
    (c.wfTload = true → goes false [] [bitsOf c.w.w2 8 3] = true →
      ∃ t, exec (.tload c) s = .next t ∧ t.runs c 0 = true ∧
        (bitsOf c.w.w2 11 7 ≠ 0 → (t.planisher c.region c.unit).int (bitsOf c.w.w2 8 3) = c.flag 3)) ∧
    (c.wfTstore = true → goes false [bitsOf c.w.w2 8 3] [] = true →
      ∃ t, exec (.tstore c) s = .next t ∧ t.runs c 0 = true ∧
        (t.planisher c.region c.unit).elems = p.elems) ∧
    (c.wfEwise = true → goes true c.ewiseReads [bitsOf c.w.w2 6 3] = true →
      ∃ t, exec (.ewise c) s = .next t ∧ t.runs c 1 = true ∧
        (bitsOf c.w.w2 20 7 * bitsOf c.w.w3 12 7 ≠ 0 →
          (t.planisher c.region c.unit).int (bitsOf c.w.w2 6 3)
            = opGivesInt (bitsOf c.w.w2 0 6) (p.int (bitsOf c.w.w2 9 3)) ∧
          (t.planisher c.region c.unit).witness
            = p.witness + (if c.flag 0 then 8 else 1) * bitsOf c.w.w2 20 7)) ∧
    (c.wfReduce = true → goes true c.reduceReads [bitsOf c.w.w2 7 3] = true →
      ∃ t, exec (.reduce c) s = .next t ∧ t.runs c 1 = true ∧
        (bitsOf c.w.w2 11 7 ≠ 0 →
          (t.planisher c.region c.unit).int (bitsOf c.w.w2 7 3) = p.int (bitsOf c.w.w2 4 3) ∧
          (t.planisher c.region c.unit).witness
            = p.witness + (if c.flag 0 then 8 else 1) * bitsOf c.w.w2 11 7))

/-- Each well-formed command of a Tinker (DESC, LOOKUP, SORT, SELECT, PACK, CRC, SCRAMBLE, REENC, BATCH, FILL)
that issues is under way and its Tinker is taken until it ends. -/
def Obligations.TinkerCommandsTakeTheTinker : Prop :=
  ∀ (s : State) (c : Cmd) (i : Instr),
    i ∈ [Instr.desc c, .lookup c, .sort c, .select c, .pack c, .crc c, .scramble c, .reenc c, .batch c,
      .fill c] → i.wf = true →
    s.goes c (s.tinker c.region c.unit).free (tinkerBit c) = true →
    ∃ t, exec i s = .next t ∧ t.runs c 0 = true ∧ t.newestEnd = some (t.tinker c.region c.unit).free

/-- The records that SORT writes are a rearrangement of the COUNT records that it reads, and no record stands
before one whose key goes before its own: keys rise, or fall where the command asks for descending order. -/
def Obligations.SortPutsRecordsInKeyOrder : Prop :=
  ∀ (c : Cmd) (bs : List Byte),
    (sortRecs c bs).Perm (chunks (bitsOf c.w.w3 0 6 + 1) c.count bs) ∧
    (sortRecs c bs).Pairwise fun a b =>
      if bitOf c.w.w3 15 then recordKey c b ≤ recordKey c a else recordKey c a ≤ recordKey c b

/-- A well-formed ARM that is granted its leave and issues, on a Ladle with no active stream and no re-arm, leaves
an active stream with the command's words, planned cycle and context, unless a bank collision that the command
meets fences the region. STREAM_DONE of a stream that is done and not cancelled leaves the Ladle without an
active stream. SHADOW_BECOMES_ACTIVE on a Ladle without an active stream makes the re-arm active and empties
the shadow. ABSENT voids the active stream and marks the bytes as zeros. LADLE_RELEASE of a cancelled stream
leaves the Ladle without an active stream. -/
def Obligations.LadleStreamsStartEndAndFollow : Prop :=
  (∀ (s : State) (c : Cmd) (bank : Option (Nat × Requester)) (spine : Option SpineFault), c.wfArm = true →
    let leave := bitsOf c.w.w5 0 12
    let g := if leave = 0 then (true, s) else s.takeLeave c (2 ^ (10 + c.unit)) leave
    let x := g.2.issue c (ladleLoc c.region c.unit) 0 (2 ^ (10 + c.unit))
    (s.ladle c.region c.unit).active = none →
    (x.2.ladle c.region c.unit).active = none → (x.2.ladle c.region c.unit).shadow = none →
    g.1 = true → g.2.goes c 0 (2 ^ (10 + c.unit)) = true →
    ∃ t, exec (.arm c bank spine) s = .next t ∧
      (bank = none ∨ t.fenced c.region = false →
        (t.ladle c.region c.unit).shadow = none ∧
        ∃ a, (t.ladle c.region c.unit).active = some a ∧ a.w0 = c.w.w0 ∧ a.w4 = c.w.w4 ∧
          a.planned = c.issue ∧ a.ctx = x.1.ctx)) ∧
    (∀ (s : State) (r l : Nat) (a : Stream),
    let d := s.drainsTo s.clock.cc
    ((d.ladle r l).active = some a → a.isDone = true → a.stopping = false →
      ∃ t, exec (.streamDone r l) s = .next t ∧ (t.ladle r l).active = none) ∧
    (((d.endStream r l).ladle r l).active = none → ((d.endStream r l).ladle r l).shadow = some a →
      ∃ t b, exec (.shadowBecomesActive r l) s = .next t ∧ (t.ladle r l).active = some b ∧
        b.w0 = a.w0 ∧ (t.ladle r l).shadow = none) ∧
    ((s.ladle r l).active = some a → ∀ offset n discarded,
      ∃ t b, exec (.absent r l offset n discarded) s = .next t ∧ (t.ladle r l).active = some b ∧
        b.void = true ∧ b.zeros = a.zeros ++ [(offset, n)]) ∧
    ((s.ladle r l).active = some a → a.stopping = true →
      ∃ t, exec (.ladleRelease r l) s = .next t ∧ (t.ladle r l).active = none))

/-- A stripe slot that a data entry with good parity gives to a requester without a Ladle, outside a stolen
refresh and without ECC errors, counts one stripe of its direction, stopping at 2^32 - 1. Given to a Ladle
whose stream has its next write stripe waiting whole, 24 cycles or more after its start, with the bank free,
it puts those 2,048 bytes into the memory and marks the stripe as moved. After DELAYED_STRIPE no stripe waits
at the stack. A refresh entry with good parity records the refresh of its bank. A temperature readout is shown
in MEM.STAT, at most 255, and one within 95 degrees makes no record. A scrub of a line, in a cycle that leaves
the bank's port empty, counts the line and leaves no single error in it. -/
def Obligations.HbmEventsCountAndClear : Prop :=
  ∀ s : State,
    (∀ stack sslot region ladle write w,
      (s.hbmTable (stack % 2)).find? (fun w => w.isData && w.claims sslot && w.serves (reqOf region) write none) = some w →
      s.engineLive 11 = true → s.bit Reg.MEM_CFG (stack % 2) = true → w.parity = true →
      stolenByRefresh (s.hbmTable (stack % 2)) w sslot = false → (6 ≤ ladle ∨ 8 ≤ region) →
      ∃ t, exec (.hbmStripe stack sslot region ladle write []) s = .next t ∧
        let k := if write then Reg.MEM_WRSTR else Reg.MEM_RDSTR
        t.fld k 0 32 = min ((s.reach (4 * sslot)).fld k 0 32 + 1) (2 ^ 32 - 1)) ∧
    (∀ stack sslot region ladle w a i bs, region < 8 → ladle < 6 →
      let k := stack % 2
      let s1 := s.reach (4 * sslot)
      let n := a.writeStripes.getD i 0
      (s.ladle region ladle).active = some a → (s1.ladle region ladle).active = some a →
      (s.hbmTable k).find?
        (fun w => w.isData && w.claims sslot && w.serves (reqOf region) true (some a)) = some w →
      s.engineLive 11 = true → s.bit Reg.MEM_CFG k = true → w.parity = true →
      stolenByRefresh (s.hbmTable k) w sslot = false → s1.lostLock (13 + k) = false →
      a.nextStripe k true = some i → a.start + 24 ≤ 4 * sslot → a.stripeData n = some bs →
      s1.bankFree k (stripeBank n) (s1.absSlot sslot) = true →
      ∃ t b, exec (.hbmStripe stack sslot region ladle true []) s = .next t ∧
        (∀ j, j < 2048 → SMap.read 0 t.mem.hbm (n * 2048 + j) = bs.getD j 0) ∧
        (t.ladle region ladle).active = some b ∧ b.wmoved = a.wmoved ++ [i]) ∧
    (∀ stack sslot, ∃ t, exec (.delayedStripe stack sslot) s = .next t ∧
      SMap.read none t.hbm.waiting (stack % 2) = none) ∧
    (∀ stack sslot w, (s.hbmTable (stack % 2)).find? (fun w => w.type = 3 && w.start = sslot) = some w →
      s.engineLive 11 = true → s.bit Reg.MEM_CFG (stack % 2) = true → w.parity = true →
      ∃ t, exec (.refreshEntry stack sslot) s = .next t ∧
        SMap.read 0 t.hbm.lastRefresh (stack % 2 * 16 + w.bank) = (s.reach (4 * sslot)).absSlot sslot + 1) ∧
    (∀ stack temp, ∃ t, exec (.hbmOverTemperature stack temp) s = .next t ∧
      t.fld Reg.MEM_STAT (8 * (stack % 2)) 8 = min temp 255 ∧
      (temp ≤ 95 → t = { s with regs := t.regs })) ∧
    (∀ region bank found, region < 8 → bank < 48 → s.served region = true →
      s.portEmpty region bank = true →
      ∃ t, exec (.scrub region bank found) s = .next t ∧
        let k := region * 48 + bank
        let n := SMap.read 0 s.hbm.scrubbed k
        SMap.read 0 t.hbm.scrubbed k = n + 1 ∧
        ∀ i, i < 8 → SMap.read 0 t.mem.padEcc (region * 2 ^ 22 + bank * 65536 + n % 8192 * 8 + i) = 0 ∨
          SMap.read 0 t.mem.padEcc (region * 2 ^ 22 + bank * 65536 + n % 8192 * 8 + i) = 255)

/-- Each well-formed command of a transform engine that issues is under way. An FFT or IFFT of 2^n points with
bins ends (n + 1)(2^n / 16 + 24) + 16 cycles after its issue, an IFFT the cycles of its prefix later; the
points of the transform lie in its work area, an FFT's output has one flag word, an IFFT's symbol heads the
channel's spans. A FIR ends after ceil(outputs x taps / 8) + 40 cycles with one flag word. The N samples that
a FETCH reads lie in the engine's memory; it ends as the flit of cycle ceil(N / 16) is delivered. DONE of a
named buffer waits for that end, and for the spine where the output lies in another region. With nothing to do
each ends in the cycle after its issue. -/
def Obligations.TransformEnginesTakeTheirTime : Prop :=
  ∀ (s : State) (c : Cmd),
    let x := s.issueTe c
    let n := bitsOf c.w.w2 0 4
    let body := (n + 1) * (2 ^ n / 16 + 24)
    let nbin := bitsOf c.w.w4 16 14
    let area := bitsOf c.w.w3 0 16 + (if n % 2 = 1 then 0 else 2 ^ n)
    let r := bitsOf c.w.w6 25 3
    let buf := bitsOf c.w.w7 0 12
    let done := fun (t : State) (r at_ : Nat) =>
      buf ≠ 0xFFF → ⟨if r = 8 then at_ else deliveredAt at_ (hopsFrom 8 r), r, buf, none⟩ ∈ t.signals
    s.goes c (s.unitFree 8 8 c.unit) 0 = true →
    (c.wfFft = true →
      let e := x.1.t + body + 16
      let vals := (x.2.teTake c.unit (x.2.sourceKeys c (2 ^ n))).1.vals
      ∃ t, exec (.fft c) s = .next t ∧ t.runs c 0 = true ∧
        t.newestEnd = some (if nbin = 0 then x.1.t + 1 else e) ∧
        (nbin ≠ 0 → done t r e ∧ (SMap.read {} t.mem.beside (r * 4096 + buf)).flags.length = 1 ∧
          ∀ k, k < 2 ^ n →
            t.teRead (teKey c.unit 1 (area + k)) = wordOf ((transform false n vals).1.getD k (0, 0)))) ∧
    (c.wfIfft = true →
      let e := x.1.t + body + (bitsOf c.w.w3 16 12 + 7) / 8 + 16
      let bins := (x.2.teTake c.unit (x.2.sourceKeys c nbin)).1.vals
      let xs := (List.range (2 ^ n)).map fun p =>
        let k := (p + 2 ^ n - bitsOf c.w.w4 0 13 % 2 ^ n) % 2 ^ n
        if k < nbin then bins.getD k (0, 0) else (0, 0)
      ∃ t, exec (.ifft c) s = .next t ∧ t.runs c 0 = true ∧
        t.newestEnd = some (if nbin = 0 then x.1.t + 1 else e) ∧
        (nbin ≠ 0 → done t 8 e ∧
          (∀ k, k < 2 ^ n →
            t.teRead (teKey c.unit 1 (area + k)) = wordOf ((transform true n xs).1.getD k (0, 0))) ∧
          ∃ y ys, SMap.read [] t.radio.spans (bitsOf c.w.w2 5 6) = y :: ys ∧ y.finish = e ∧ y.buf = buf ∧
            y.count = bitsOf c.w.w3 16 12 + 2 ^ n)) ∧
    (c.wfFir = true →
      let e := x.1.t + (bitsOf c.w.w4 0 16 * (8 * bitsOf c.w.w3 16 8) + 7) / 8 + 40
      ∃ t, exec (.fir c) s = .next t ∧ t.runs c 0 = true ∧
        t.newestEnd = some (if bitsOf c.w.w4 0 16 = 0 then x.1.t + 1 else e) ∧
        (bitsOf c.w.w4 0 16 ≠ 0 →
          done t r e ∧ (SMap.read {} t.mem.beside (r * 4096 + buf)).flags.length = 1)) ∧
    (c.wfFetch = true →
      let m := bitsOf c.w.w4 0 16
      let bs := (x.2.readPad ⟨8, 0x10, c.unit⟩ (bitsOf c.w.w2 25 3) (bitsOf c.w.w2 0 25) (4 * m)).1.bytes
      ∃ t, exec (.fetch c) s = .next t ∧ t.runs c 0 = true ∧
        t.newestEnd = some (if m = 0 then x.1.t + 1
          else deliveredAt (x.1.t + (m + 15) / 16) (hopsFrom (bitsOf c.w.w2 25 3) 8)) ∧
        ∀ j, j < m → t.teRead (teKey c.unit (bitsOf c.w.w3 16 1) (bitsOf c.w.w3 0 16 + j))
          = BitVec.ofNat 32 (leNat ((bs.drop (4 * j)).take 4)))

/-- While RADIO answers and the data plane runs, a sample of a receive channel whose link is in its data state as
the sample comes is justified, mixed and stored at its ring address; one of a link that is not is stored as
zero and its granule is void. Of a transmit channel, while the link is in its data state, a sample whose
granule is complete, not void and passes its hallmark leaves mixed, or as zero from a shadow twin; one whose
granule is not complete leaves as zero, and its granule's first counts in RAD.CNT. While the link is not in
its data state a zero leaves and nothing else happens. Samples are numbered with the link's offset. -/
def Obligations.RadioSamplesPassTheNco : Prop :=
  ∀ (s : State) (c slot j : Nat), s.served 8 = true → s.clock.running = true →
    ((s.variant s.active).rx.any (fun e => e.1 == c) = true → ∀ re im,
      let ch := s.rxChan c
      let n := s.renumber false ch.link slot j
      let s1 := if n.1 = s.slot then s.reach (s.sampleCycle n.2 + s.fld (Reg.JRX_STAT ch.link) 16 16) else s
      let m := s1.mix ch n.1 n.2 (s1.justify ch.link re, s1.justify ch.link im) true
      let z := s1.mix ch n.1 n.2 (0, 0) true
      (s1.fld (Reg.JRX_STAT ch.link) 0 3 = 4 →
        ∃ t, exec (.receiveSample c slot j re im) s = .next t ∧
          t.teRead (teKey ch.engine 0 (m.2.ringAddr ch n.1 n.2)) = wordOf m.1) ∧
      (s1.fld (Reg.JRX_STAT ch.link) 0 3 ≠ 4 →
        ∃ t, exec (.receiveSample c slot j re im) s = .next t ∧
          t.teRead (teKey ch.engine 0 (z.2.ringAddr ch n.1 n.2)) = 0 ∧
          SMap.read 0 t.mem.teVoid (teKey ch.engine 0 (z.2.ringAddr ch n.1 n.2) / 64) ≠ 0)) ∧
    ((s.variant s.active).tx.any (fun e => e.1 == c) = true → ∀ buf,
      let ch := s.txChan c
      let n := s.renumber true ch.link slot j
      let s1 := if n.1 = s.slot then s.reach (s.sampleCycle n.2 - s.fld (Reg.JTX_STAT ch.link) 16 16) else s
      let a := s1.ringAddr ch n.1 n.2
      let k := teKey ch.engine 0 a
      let m := s1.mix ch n.1 n.2 (pairOf (s1.teRead k)) false
      (s.fatalIdle = false → s.fld (Reg.JTX_STAT ch.link) 0 3 = 4 →
        (s1.granuleDone c a (n.1 * slotSamples + n.2) = true → SMap.read 0 s1.mem.teVoid (k / 64) = 0 →
          s1.teOk (k / 64) = true →
          ∃ t, exec (.transmitSample c slot j buf) s = .next t ∧
            SMap.read 0 t.radio.out c = wordOf (if m.2.isShadow then (0, 0) else m.1)) ∧
        (s1.granuleDone c a (n.1 * slotSamples + n.2) = false →
          ∃ t, exec (.transmitSample c slot j buf) s = .next t ∧ SMap.read 0 t.radio.out c = 0 ∧
            (a % 64 = 0 → t.fld Reg.RAD_CNT 16 16 = min (s1.fld Reg.RAD_CNT 16 16 + 1) 65535))) ∧
      (s.fld (Reg.JTX_STAT ch.link) 0 3 ≠ 4 →
        ∃ t, exec (.transmitSample c slot j buf) s = .next t ∧ SMap.read 0 t.radio.out c = 0 ∧
          t = { s with radio := t.radio }))

/-- While RADIO answers, for each link 0 to 7: a CRC mismatch counts once in JRX.ERR, stopping at 255; a link that
goes down shows state 0; a link that is not in its data state relocks to state 3 once LEMC is established; the
first SYSREF edge that the device has asked for establishes LEMC, ends the request and takes a link in state 3
to its data state 4. While the data plane runs and RADIO answers as the tick comes, a symbol tick of the slot
takes every JESD link in state 3 to state 4 and leaves a link in state 4 there; the memories, the plan and the
command queue are unchanged. -/
def Obligations.LinkEventsAndSymbolTicks : Prop :=
  (∀ (s : State) (n : Nat), n < 8 → s.served 8 = true →
    (∀ slot j k, ∃ t, exec (.jesdLinkCrc n slot j k) s = .next t ∧
      t.fld (Reg.JRX_ERR n) 0 8 = min (s.fld (Reg.JRX_ERR n) 0 8 + 1) 255) ∧
    (∀ tx elastic, ∃ t, exec (.jesdLinkDown tx n elastic) s = .next t ∧ t.fld (linkStat tx n) 0 3 = 0) ∧
    (∀ tx, s.fld (linkStat tx n) 0 3 ≠ 4 → s.bit Reg.RAD_SYSREF 1 = true →
      ∃ t, exec (.relock tx n) s = .next t ∧ t.fld (linkStat tx n) 0 3 = 3 ∧ t = { s with regs := t.regs }) ∧
    (∀ off at_, s.bit Reg.RAD_SYSREF 1 = false → s.pins.sysrefReq = true →
      ∃ t, exec (.sysrefEdge off at_) s = .next t ∧ t.bit Reg.RAD_SYSREF 1 = true ∧
        t.pins.sysrefReq = false ∧ t.start.lemcAt = some at_ ∧
        ∀ tx, s.fld (linkStat tx n) 0 3 = 3 → t.fld (linkStat tx n) 0 3 = 4)) ∧
    (∀ (s : State) (k : Nat), s.clock.running = true → k < s.fld Reg.TCK_SYMS 0 4 →
    let s1 := s.reach (s.fld (Reg.TCK_SYMOFF k) 0 21)
    s1.served 8 = true →
    ∃ t, exec (.symbolTick k) s = .next t ∧
      (∀ tx n, n < 8 → (s1.fld (linkStat tx n) 0 3 = 3 ∨ s1.fld (linkStat tx n) 0 3 = 4) →
        t.fld (linkStat tx n) 0 3 = 4) ∧
      t.mem = s1.mem ∧ t.plan = s1.plan ∧ t.pending = s1.pending)

/-- While RADIO answers: at the end of a full window of 2^W samples the loop starts a new window and keeps the
power of the one that ended; GAIN_WORD_APPLY leaves no word whose apply time has passed and takes the last of
them as the attenuation; FREEZE_END of a freeze that is over leaves the loop unfrozen with an empty window. -/
def Obligations.GainLoopsWindowAndApply : Prop :=
  ∀ (s : State) (l : Nat), s.served 8 = true →
    (2 ^ s.fld (winKey l Reg.AGC_CFG) 8 4 ≤ (s.loop l).count →
      ∃ t, exec (.gainWindow l) s = .next t ∧ (t.loop l).count = 0 ∧ (t.loop l).sum = 0 ∧
        (t.loop l).lastP = powerSteps (s.loop l).sum (s.fld (winKey l Reg.AGC_CFG) 8 4)) ∧
    (∀ cycle,
      let now := s.absCycle (max cycle s.clock.cc)
      let s1 := s.reach cycle
      let x := s1.loop l
      (∃ t, exec (.gainWordApply l cycle) s = .next t ∧
        (t.loop l).words = x.words.filter (fun e => !decide (e.1 ≤ now)) ∧
        (t.loop l).att = (((x.words.filter fun e => decide (e.1 ≤ now)).getLast?.map (·.2)).getD x.att) ∧
        t.mem = s1.mem) ∧
      (x.frozen = true → x.frozenUntil ≤ now →
        ∃ t, exec (.freezeEnd l cycle) s = .next t ∧ (t.loop l).frozen = false ∧ (t.loop l).count = 0 ∧
          (t.loop l).sum = 0 ∧ t.regs = s1.regs))

/-- While the data plane runs and RADIO answers, steering frame k of the slot leaves a frame on every enabled lane
and none on a disabled one. A well-formed STEER that issues ends 4N + 8 cycles later, in the next cycle with N
= 0. -/
def Obligations.SteeringLanesSendAFrameEach : Prop :=
  ∀ s : State,
    (∀ k, s.clock.running = true → s.served 8 = true → k < s.slotLen / 400 →
      ∃ t, exec (.steeringFrame k) s = .next t ∧
        ∀ l, l < 4 → (t.lane l).last.isSome = (s.reach (400 * k)).bit Reg.STP_CFG l) ∧
    ∀ c : Cmd, c.wfSteer = true → s.goes c (s.unitFree 8 8 c.unit) 0 = true →
      ∃ t, exec (.steer c) s = .next t ∧ t.runs c 0 = true ∧
        t.newestEnd = some (if bitsOf c.w.w2 16 8 = 0 then (s.issueTe c).1.t + 1
          else (s.issueTe c).1.t + 4 * bitsOf c.w.w2 16 8 + 8)

/-- While RADIO answers: NCO_DELTA_UPDATE leaves no DELTA step of the NCO that is due by its cycle, and
NCO_TOFF_UPDATE no TOFF step; every other step stays. With no step due the registers are unchanged; one DELTA
step that is due adds its value, saturating. A committed CLRD of NCO 0 to 15 sets DELTA and TOFF to 0 and
clears itself. -/
def Obligations.NcoStepsAndClears : Prop :=
  ∀ (s : State) (n cycle : Nat), s.served 8 = true →
    let now := s.absCycle (max cycle s.clock.cc)
    let s1 := s.reach cycle
    let due := fun (kind : Nat) (x : NcoStep) => x.target == n && x.kind == kind && decide (x.time ≤ now)
    (∃ t, exec (.ncoDeltaUpdate n cycle) s = .next t ∧
      t.radio.steps = s1.radio.steps.filter (fun x => !due 1 x) ∧
      (s1.radio.steps.filter (due 1) = [] → t.regs = s1.regs) ∧
      ∀ x, s1.radio.steps.filter (due 1) = [x] → (t.reg (Reg.NCO_DELTA n)).toInt =
        max (-(2 ^ 31)) (min (2 ^ 31 - 1) ((s1.reg (Reg.NCO_DELTA n)).toInt + x.value))) ∧
    (∃ t, exec (.ncoToffUpdate n cycle) s = .next t ∧
      t.radio.steps = s1.radio.steps.filter (fun x => !due 2 x) ∧
      (s1.radio.steps.filter (due 2) = [] → t.regs = s1.regs) ∧
      ∀ x, s1.radio.steps.filter (due 2) = [x] → t.sfld (Reg.NCO_TOFF n) 0 16 =
        max (-2048) (min 2048 (s1.sfld (Reg.NCO_TOFF n) 0 16 + x.value))) ∧
    (n < 16 → s.bit (Reg.NCO_CTL n) 1 = true →
      ∃ t, exec (.ncoClear n) s = .next t ∧ t.reg (Reg.NCO_DELTA n) = 0 ∧ t.reg (Reg.NCO_TOFF n) = 0 ∧
        t.bit (Reg.NCO_CTL n) 1 = false)

/-- Each well-formed CODE command that is granted its leave, where it takes leave, and issues is under way in its
unit. It ends DUR cycles after its issue, also where its record is refused; one whose record names no block
ends in the next cycle. A named output buffer is done with that end. Where CODE's engines run as the cycle
comes, a window is open for the encoder and the encoder is free, RE_ENCODING takes the oldest request out of
the queue, leaves no other request in it that did not wait there, and the encoder runs it for its context;
with an empty queue only the time passes. -/
def Obligations.CodeCommandsAndRequestsRun : Prop :=
  (∀ (s : State) (c : Cmd) (i : Instr) (heavy : Bool),
    (i, heavy) ∈ [(Instr.ldec c, true), (.lenc c, true), (.pdec c, false), (.penc c, false), (.tbseg c, false),
      (.tbchk c, false)] → i.wf = true →
    let g := if heavy then s.takeLeave c (2 ^ c.unit) c.codeLeave else (true, s)
    let x := g.2.issue c (codeUnit c).loc (g.2.unitFree 9 10 c.unit) (2 ^ c.unit)
    let s1 := match x.1.ctx with
      | some k => x.2.clearBuf k c.codeBuf
      | none => x.2
    let r := CodeRec.ofWords (s1.readRecord (codeUnit c) c.w.w3).1
    let e := if r.kind == kindOf c.opcode && r.empty then x.1.t + 1 else x.1.t + c.codeDur
    g.1 = true → g.2.goes c (g.2.unitFree 9 10 c.unit) (2 ^ c.unit) = true →
    ∃ t, exec i s = .next t ∧ t.runs c 0 = true ∧ t.newestEnd = some e ∧
      (c.codeBuf ≠ 0xFFF → ⟨e, 10, c.codeBuf, x.1.ctx⟩ ∈ t.signals)) ∧
    (∀ (s : State) (unit cycle : Nat), unit < 8 →
    let s1 := s.reach cycle
    (∀ q rest, s1.code.queue = q :: rest → s1.engineLive 10 = true →
      (s1.openWindow 10 cycle (2 ^ (16 + unit))).isSome = true → s1.unitFree 9 10 (16 + unit) ≤ cycle →
      ∃ t e, exec (.reEncoding unit cycle) s = .next t ∧ t.code.queue.Sublist rest ∧
        t.running.head? = some e ∧ e.cls = 9 ∧ e.region = 10 ∧ e.unit = 16 + unit ∧ e.ctx = some q.ctx) ∧
    (s1.code.queue = [] → exec (.reEncoding unit cycle) s = .next s1))

/-- Each well-formed NET command that issues is under way on its port; an UPRX or UPTX of no PRB, a CPTX of no
record and an L2TX of no datagram end in the next cycle. An UPRX writes one flag word with its tile, counts
the PRBs that no section covers and has its buffers void where there is one. From a device that is no shadow,
an UPTX of N PRBs leaves one U-plane frame of N PRBs from its start PRB and ends when it is sent, a CPTX
messages of at most 764 sections, an L2TX N datagrams; an L2TX moves SEQ on by N. An L2RX takes the waiting
messages of its types and air slot, no other, and closes those types. UPRX and L2RX signal their buffers at
NET and at the region that they write. -/
def Obligations.NetCommandsRunOnTheirPorts : Prop :=
  ∀ (s : State) (c : Cmd),
    let x := s.issueNet c
    let r := bitsOf c.w.w4 25 3
    let buf := bitsOf c.w.w6 0 12
    let n := bitsOf c.w.w3 9 9
    let m := bitsOf c.w.w2 4 16
    let both := fun (t : State) => buf ≠ 0xFFF →
      ∃ e, t.newestEnd = some e ∧ ⟨e, 9, buf, none⟩ ∈ t.signals ∧ ⟨e, r, buf, none⟩ ∈ t.signals
    s.goes c (s.unitFree 10 9 c.unit) 0 = true →
    (c.wfUprx = true → ∃ t, exec (.uprx c) s = .next t ∧ t.runs c 0 = true ∧ both t ∧
      (n = 0 → t.newestEnd = some (x.1.t + 1)) ∧
      (n ≠ 0 →
        let miss := ((List.range n).filter fun k =>
          (x.2.takenFor c).all fun y => !y.covers (bitsOf c.w.w3 0 9 + k)).length
        (SMap.read {} t.mem.beside (r * 4096 + buf)).flags.length = 1 ∧
        t.fld Reg.NET_FHCNT1 0 16 = min (x.2.fld Reg.NET_FHCNT1 0 16 + miss) 65535 ∧
        (miss ≠ 0 → buf ≠ 0xFFF → (t.cell 0 9 buf).void = true ∧ (t.cell 0 r buf).void = true))) ∧
    (c.wfUptx = true → ∃ t, exec (.uptx c) s = .next t ∧ t.runs c 0 = true ∧
      let row := (x.2.eaxcRow (bitsOf c.w.w2 0 16)).getD ⟨0, 0, 0, false, 16, 0⟩
      t.newestEnd = some (if n = 0 then x.1.t + 1
        else x.1.t + 40 + (8 * (n * (if row.bfp then 1 + 3 * row.width else 48) + 34) + 124) / 125) ∧
      (n ≠ 0 → x.2.isShadow = false → ∃ id f sf sl prbs,
        SMap.read [] t.net.sent c.unit
          = [Sent.uplane id f sf sl (bitsOf c.w.w2 16 4) (bitsOf c.w.w3 0 9) prbs] ∧
        prbs.length = n)) ∧
    (c.wfCptx = true → ∃ t e, exec (.cptx c) s = .next t ∧ t.runs c 0 = true ∧ t.newestEnd = some e ∧
      (m = 0 → e = x.1.t + 1) ∧
      (m ≠ 0 → x.1.t + 40 ≤ e ∧ (x.2.isShadow = false →
        ∀ y ∈ SMap.read [] t.net.sent c.unit, ∃ id dir st sym f sf sl recs,
          y = Sent.cplane id dir st sym f sf sl recs ∧ recs.length ≤ 764))) ∧
    (c.wfL2tx = true → ∃ t e, exec (.l2tx c) s = .next t ∧ t.runs c 0 = true ∧ t.newestEnd = some e ∧
      (m = 0 → e = x.1.t + 1 ∧ t.net.seq = x.2.net.seq) ∧
      (m ≠ 0 → x.1.t + 40 ≤ e ∧ t.net.seq = (x.2.net.seq + m) % 2 ^ 32 ∧
        (x.2.isShadow = false → (SMap.read [] t.net.sent 8).length = m))) ∧
    (c.wfL2rx = true → ∃ t, exec (.l2rx c) s = .next t ∧ t.runs c 0 = true ∧ both t ∧
      let types := bitsOf c.w.w2 0 16
      let air := (x.2.slot + bitsOf c.w.w2 16 2) % 2 ^ 32
      t.net.msgs = x.2.net.msgs.filter (fun y =>
        !(types.testBit y.type && (y.type == 2 || y.airslot == air))) ∧
      ∀ k, k < 16 → k ≠ 2 → types.testBit k = true → SMap.read 0 t.net.closed k = air + 1)

/-- While NET answers: a frame with a wrong FCS at a device that is no shadow is counted as an error of its port,
stopping at 65535; a good datagram that the L2 port takes sets the SEQ expected next; an ARP request or a
neighbour solicitation for one of the device's addresses queues one reply at the L2 port; a link loss clears
the port's link bit; an ESMC PDU on the L2 port is the received quality level and a timeout makes it 0xF; an
information PDU queues one PDU with the transmitted level at each fronthaul port of the mask; FAULT sends the
oldest record that is owed. -/
def Obligations.FramesAreCountedQueuedAndTaken : Prop :=
  ∀ s : State, s.served 9 = true →
    (∀ p f, s.isShadow = false → f.fcs = false → ∃ t, exec (.ethernetFrame p f) s = .next t ∧
      t.fld (winKey p Reg.NET_PCNT) 0 16 = min (s.fld (winKey p Reg.NET_PCNT) 0 16 + 1) 65535 ∧
      t = { s with regs := t.regs }) ∧
    (∀ f seq, s.isShadow = false → f.fcs = true → s.lostLock 23 = false → 64 ≤ f.len → f.len ≤ 9216 →
      f.tags ≤ 1 → s.takesFrame 8 f = true → s.netUsed + f.len ≤ 2 ^ 24 → f.udp = some (true, seq) →
      ∃ t, exec (.ethernetFrame 8 f) s = .next t ∧ t.net.peerSeq = some ((seq + 1) % 2 ^ 32)) ∧
    (∀ mac ip, ∃ t, exec (.arpRequest mac ip s.plan.net.ipv4) s = .next t ∧
      SMap.read [] t.net.egress 8 = SMap.read [] s.net.egress 8 ++ [.arpReply mac ip s.plan.net.ipv4]) ∧
    (∀ mac ip target, s.plan.net.ipv6.contains target = true →
      ∃ t, exec (.neighbourSolicitation mac ip target) s = .next t ∧
        SMap.read [] t.net.egress 8 = SMap.read [] s.net.egress 8 ++ [.neighbour mac ip target]) ∧
    (∀ p, ∃ t, exec (.ethernetLinkDown p) s = .next t ∧ t.bit (winKey p Reg.NET_PSTAT) 0 = false) ∧
    (∀ ql, ∃ t, exec (.esmcPdu 8 ql) s = .next t ∧ t.fld Reg.NET_SYNCE 8 4 = ql % 16) ∧
    (∃ t, exec .esmcTimeout s = .next t ∧ t.fld Reg.NET_SYNCE 8 4 = 15) ∧
    (∃ t, exec .informationPdu s = .next t ∧ ∀ p, p < 8 → s.bit Reg.NET_PTPFWD p = true →
      SMap.read [] t.net.egress p = SMap.read [] s.net.egress p ++ [.esmc false (s.fld Reg.NET_SYNCE 12 4)]) ∧
    (∀ r rest, s.faults.copies = r :: rest → ∃ t, exec .fault s = .next t ∧ t.faults.copies = rest ∧
      (SMap.read [] t.net.egress 8).length = (SMap.read [] s.net.egress 8).length + 1)

/-- While NET answers, at a device that is no shadow: a BSR, QOS or DLDATA message of the length of its type whose
reader has not closed joins the waiting messages, one of a wrong length is counted and dropped, and one for
the air slot that its reader closed last is counted as late and dropped; a U-plane section with a legal header
and a known eAxC that lands inside a reception window joins the sections with the slot in which it landed. -/
def Obligations.MessagesAndSectionsWaitForTheirReaders : Prop :=
  ∀ s : State, s.served 9 = true → s.isShadow = false →
    (∀ (m : L2Msg) (n : Nat) (i : L2Msg → Instr),
      (n, i) ∈ [(1, Instr.bsr), (2, Instr.qos), (3, Instr.dldata)] →
      let m' : L2Msg := { m with type := n }
      (m'.wellSized = true → (n = 2 ∨ SMap.read 0 s.net.closed n = 0) →
        ∃ t, exec (i m) s = .next t ∧ t.net.msgs = s.net.msgs ++ [m'] ∧ t.mem = s.mem) ∧
      (m'.wellSized = false →
        ∃ t, exec (i m) s = .next t ∧ t = { s with regs := t.regs } ∧
          t.fld Reg.NET_L2CNT0 8 8 = min (s.fld Reg.NET_L2CNT0 8 8 + 1) 255) ∧
      (m'.wellSized = true → n ≠ 2 → SMap.read 0 s.net.closed n = m'.airslot + 1 →
        ∃ t, exec (i m) s = .next t ∧ t = { s with regs := t.regs } ∧
          t.fld Reg.NET_L2CNT0 16 16 = min (s.fld Reg.NET_L2CNT0 16 16 + 1) 65535)) ∧
    ∀ cycle x,
      let s1 := s.reach cycle
      let ws := s1.windowsFor x
      s1.isShadow = false →
      s1.plan.net.eaxc.any (fun e => e.id == x.eaxc && s1.lostLock (15 + e.port)) = false →
      x.rev = 1 → x.concat = false → x.msgType = 0 → x.eBit = true → x.payVer = 1 → x.filter ≤ 3 →
      x.symInc = false → x.prbs.length ≤ 273 → s1.plan.net.eaxc.any (fun e => e.id = x.eaxc) = true →
      ws.any (fun w => decide (w.1 ≤ (cycle : Int)) && decide ((cycle : Int) ≤ w.2)) = true →
      ∃ t, exec (.uPlaneSection cycle x) s = .next t ∧ t.net.sections = s1.net.sections ++ [⟨s1.slot, x⟩]

/-- For triggers 0 to 3: TRIGGER_ARM, where no lockstep mismatch discards it, stores the word without bit 30, and
arms a trigger whose time is ahead by less than 2 s with no other effect. TRIGGER_FIRE of an armed trigger
whose time has come counts one firing modulo 256, raises its output where it has a width, and disarms it
unless it is periodic. -/
def Obligations.TriggersArmAndFire : Prop :=
  ∀ (s : State) (n : Nat), n < 4 →
    (∀ value, s.faults.discard = false →
      let s1 := s.setReg (Reg.TU_TRGN n) (value &&& 0xBFFFFFFF)
      (bitOf value 31 = false ∨ (s.now ≤ s1.trigTime n ∧ s1.trigTime n < s.now + 2000000000 * nsTime)) →
      exec (.triggerArm n value) s = .next s1 ∧ s1.reg (Reg.TU_TRGN n) = value &&& 0xBFFFFFFF) ∧
    ∀ cycle,
      let s1 := s.reach cycle
      s1.bit (Reg.TU_TRGN n) 31 = true → s1.reached (s1.trigTime n) = true →
      ∃ t, exec (.triggerFire n cycle) s = .next t ∧
        t.fld (Reg.TU_TRGC n) 24 8 = (s1.fld (Reg.TU_TRGC n) 24 8 + 1) % 256 ∧
        (s1.reg (Reg.TU_TRGP n) = 0 → t.bit (Reg.TU_TRGN n) 31 = false) ∧
        (s1.fld (Reg.TU_TRGC n) 0 16 ≠ 0 → SMap.read 0 t.time.outs n ≠ 0) ∧ t.mem = s1.mem ∧ t.net = s1.net

/-- For captures 0 to 3: an edge of the selected source latches seconds, nanoseconds with the valid bit, and the
fraction, where the capture is empty; where it is not, the edge is only counted, stopping at 255. A read of
the time latches its four words. Neither changes anything but registers. Where no lockstep mismatch discards
it: a committed ACCEPT with a step pending clears itself and the pending step, moves the time scale by the
pending offset and leaves the state ACQUIRING; a committed FREE clears itself, forgets the master and leaves
the state FREERUN. A missed Sync is counted, and the sixteenth in a row takes LOCKED to HOLDOVER. -/
def Obligations.TimeIsLatchedAndStepped : Prop :=
  (∀ s : State,
    (∀ n source stamp, n < 4 → s.fld Reg.TU_CAPSRC (4 * n) 2 = source →
      ∃ t, exec (.capture n source stamp) s = .next t ∧ t = { s with regs := t.regs } ∧
        (s.bit (Reg.TU_CAPN n) 31 = true →
          t.fld (Reg.TU_CAPF n) 24 8 = min (s.fld (Reg.TU_CAPF n) 24 8 + 1) 255 ∧
          t.reg (Reg.TU_CAPN n) = s.reg (Reg.TU_CAPN n)) ∧
        (s.bit (Reg.TU_CAPN n) 31 = false →
          t.reg (Reg.TU_CAPS n) = BitVec.ofNat 32 (secOf stamp) ∧
          t.reg (Reg.TU_CAPN n) = BitVec.ofNat 32 (nsOf stamp + 2 ^ 31) ∧
          t.fld (Reg.TU_CAPF n) 0 16 = stamp % nsTime)) ∧
    (∃ t, exec .timeRead s = .next t ∧ t = { s with regs := t.regs } ∧
      t.reg Reg.TU_SECHI = BitVec.ofNat 32 (secOf s.now / 2 ^ 32 % 2 ^ 16) ∧
      t.reg Reg.TU_SECLO = BitVec.ofNat 32 (secOf s.now) ∧ t.reg Reg.TU_NS = BitVec.ofNat 32 (nsOf s.now) ∧
      t.reg Reg.TU_SUBNS = BitVec.ofNat 32 (s.now % nsTime))) ∧
    (∀ s : State,
    (s.faults.discard = false → s.bit Reg.TU_CTL 0 = true → s.bit Reg.TU_STAT 2 = true →
      ∃ t, exec .timeStepAccept s = .next t ∧ t.bit Reg.TU_CTL 0 = false ∧ t.bit Reg.TU_STAT 2 = false ∧
        t.clock.tu = ((s.clock.tu : Int) - s.time.slave.pend).toNat ∧ t.tuState = 1) ∧
    (s.faults.discard = false → s.bit Reg.TU_CTL 1 = true →
      ∃ t, exec .enterFreerun s = .next t ∧ t.bit Reg.TU_CTL 1 = false ∧ t.time.slave.master = none ∧
        t.tuState = 0 ∧ t.clock = s.clock) ∧
    ∃ t, exec .syncMissed s = .next t ∧ t.time.slave.missed = s.time.slave.missed + 1 ∧
      t.tuState = (if 16 ≤ s.time.slave.missed + 1 ∧ s.tuState = 2 then 3 else s.tuState) ∧ t.net = s.net)

/-- While NET answers: an Announce, Sync, Delay_Req, Follow_Up or Delay_Resp of the domain without an unsupported
option is queued, from a fronthaul port of the mask at the L2 port, and from the L2 port at every fronthaul
port of the mask, with its ingress time; any other is counted and dropped. The forgotten half of a two-step
Sync is counted and removed. The oldest non-planned frame of a port leaves where the plan leaves it time. -/
def Obligations.PtpMessagesAreForwarded : Prop :=
  ∀ s : State, s.served 9 = true →
    (∀ (p stamp us : Nat) (m : PtpMsg) (d : MasterSet) (i : Instr) (k : PtpKind) (a : Nat),
      (i, k, a) ∈ [(Instr.announce p m d, PtpKind.announce, 0), (.sync p m stamp, .sync, stamp),
        (.delayReq p m stamp, .delayReq, stamp), (.followUp p m, .followUp, 0),
        (.delayResp p m us, .delayResp, 0)] →
      (m.badOpt = false → m.domain = s.plan.net.domain → ∃ t, exec i s = .next t ∧
        ∀ q, (p = 8 ∧ q ∈ s.ptpPorts) ∨ (p ∈ s.ptpPorts ∧ q = 8) →
          SMap.read [] t.net.egress q
            = SMap.read [] s.net.egress q ++ [.ptp { m with kind := k } (a - s.ptpLat p 0) false]) ∧
      (k ≠ .delayResp → (m.badOpt = true ∨ m.domain ≠ s.plan.net.domain) → ∃ t, exec i s = .next t ∧
        t = { s with regs := t.regs } ∧ t.fld Reg.NET_PTPCNT 0 16 = min (s.fld Reg.NET_PTPCNT 0 16 + 1) 65535)) ∧
    (∀ seq src, s.net.left.any (fun x => x.seq == seq && x.src == src) = true →
      ∃ t, exec (.followUpTimeout seq src) s = .next t ∧
        t.net.left = s.net.left.filter (fun x => !(x.seq == seq && x.src == src)) ∧
        t.fld Reg.NET_PTPCNT 16 16 = min (s.fld Reg.NET_PTPCNT 16 16 + 1) 65535) ∧
    ∀ p cycle stamp x rest,
      let s1 := s.reach cycle
      SMap.read [] s1.net.egress p = x :: rest → s1.gapOpen p cycle = true → s1.isShadow = false →
      ∃ t y, exec (.nonPlannedFrame p cycle stamp) s = .next t ∧ SMap.read [] t.net.egress p = rest ∧
        SMap.read [] t.net.sent p = [y]

/-- Where no lockstep mismatch discards it and promotion is not suspended, a committed REQ without REVERT makes a
PASSED standby active: the other copy runs, the standby is EMPTY, the generation and the count of promotions
rise, REQ reads 0. A committed REVERT leaves the standby REVERTING with REQ and REVERT 0, and the same set
active. The copy of the base set ends REVERTING in PASSED, a seeding job takes EMPTY to TRAINING; each fills
the bytes of the standby and no other byte of HBM. -/
def Obligations.WeightSetsChangeState : Prop :=
  ∀ s : State,
    let fill (src : Nat) := SMap.writeList 0 s.mem.hbm (ofCopy s.plan.weights.copies (1 - s.activeCopy))
      (SMap.readList 0 s.mem.hbm src s.plan.weights.len)
    (s.faults.discard = false → s.bit Reg.WGT_CTL 1 = true → s.bit Reg.WGT_CTL 2 = false →
      s.promotionHeld = false → s.standby = 3 → ∃ t, exec .promote s = .next t ∧
        t.activeCopy = 1 - s.activeCopy ∧ t.standby = 0 ∧ t.bit Reg.WGT_CTL 1 = false ∧
        t.fld Reg.WGT_STATE 16 16
          = (if s.train.reverted = true then 0 else (s.fld Reg.WGT_STATE 16 16 + 1) % 2 ^ 16) ∧
        t.fld Reg.WGT_CNT 0 16 = min (s.fld Reg.WGT_CNT 0 16 + 1) 65535 ∧ t.mem = s.mem) ∧
    (s.faults.discard = false → s.bit Reg.WGT_CTL 2 = true → ∃ t, exec .revert s = .next t ∧
        t.standby = 4 ∧ t.activeCopy = s.activeCopy ∧ t.bit Reg.WGT_CTL 1 = false ∧
        t.bit Reg.WGT_CTL 2 = false ∧ t.train.gathered = 0 ∧ t.train.updates = 0 ∧ t.mem = s.mem) ∧
    (s.standby = 4 → ∃ t, exec .revertCopyComplete s = .next t ∧ t.standby = 3 ∧ t.train.reverted = true ∧
        t.mem.hbm = fill s.plan.weights.base ∧ t.mem.pad = s.mem.pad ∧ t.activeCopy = s.activeCopy) ∧
    (s.standby = 0 → ∃ t, exec .seedingJobComplete s = .next t ∧ t.standby = 1 ∧ t.train.updates = 0 ∧
        t.mem.hbm = fill (ofCopy s.plan.weights.copies s.activeCopy) ∧ t.mem.pad = s.mem.pad ∧
        t.activeCopy = s.activeCopy)

/-- Once the gathered kept sets reach WGT.TRAIN, a training step starts the count again, counts one update where
the standby is TRAINING and sets were gathered, and closes every tensor of the weight plan; elastic contexts,
jobs and pending requests stay as they are. Where a period awaits its decision: the counts stand in TST.N,
TST.EACT, TST.ECAND and TST.ECLS and the decision is no longer due. A revert follows where the active set errs
below the classical receiver by more than the margin over enough samples, AUTOREV is set and no revert is
under way; otherwise a CANDIDATE of a whole period is PASSED or EMPTY by the rule, and any other standby
stays. -/
def Obligations.TrainingAndTasterDecide : Prop :=
  (∀ s : State, s.fld Reg.WGT_TRAIN 0 16 ≤ s.train.gathered →
    ∃ t, exec .trainingStep s = .next t ∧ t.train.gathered = 0 ∧
      t.train.updates = (if s.standby = 1 ∧ s.train.gathered ≠ 0 then s.train.updates + 1 else s.train.updates) ∧
      (∀ w ∈ s.plan.weights.tensors, ((t.crucible w.region).tensor w.tensor).isOpen = false) ∧
      (s.standby ≠ 1 → t.mem = s.mem ∧ t.regs = s.regs) ∧ t.els = s.els ∧ t.pending = s.pending) ∧
    (∀ (s : State) (n a c k v : Nat) (whole : Bool), s.train.due = some whole →
    let margin := s.fld Reg.TST_LIM 0 16
    let enough := s.fld Reg.TST_LIM 16 16 ≤ n
    let back := k + margin < a ∧ enough ∧ s.bit Reg.WGT_CTL 0 = true ∧ s.standby ≠ 4
    let judged := ¬ back ∧ whole = true ∧ s.standby = 2
    let good := enough ∧ c ≤ a ∧ c ≤ k + margin
    ∃ t, exec (.tasterDecision n a c k v) s = .next t ∧ t.train.due = none ∧
      t.reg Reg.TST_N = BitVec.ofNat 32 n ∧ t.reg Reg.TST_EACT = BitVec.ofNat 32 a ∧
      t.reg Reg.TST_ECAND = BitVec.ofNat 32 c ∧ t.reg Reg.TST_ECLS = BitVec.ofNat 32 k ∧
      (back → t.standby = 4) ∧ (judged → good → t.standby = 3) ∧
      (judged → ¬ good → t.standby = 0 ∧ t.fld Reg.WGT_CNT 16 16 = min (s.fld Reg.WGT_CNT 16 16 + 1) 65535) ∧
      (¬ back → ¬ judged → t.standby = s.standby) ∧ t.activeCopy = s.activeCopy ∧ t.mem = s.mem)

/-- Where no lockstep mismatch discards it: a committed RESET of a channel that R123 lists clears its bit, empties
the history and makes the channel fresh, and leaves every other channel. A write of FMT.CHCFG or FMT.CHZP
stages the word's fields for the selected channel and changes nothing else while fewer than 64 channels are
staged; a further channel only sets OVF. -/
def Obligations.ChannelUpdatesAreStaged : Prop :=
  ∀ s : State, s.faults.discard = false →
    (∀ region unit chan, unit < convUnits region →
      let k := chanKey region unit chan
      s.bit (winKey k Reg.FMT_CHCFG) 4 = true → ∃ t, exec (.historyReset region unit chan) s = .next t ∧
        t = { s with regs := t.regs, chans := t.chans } ∧ t.bit (winKey k Reg.FMT_CHCFG) 4 = false ∧
        (t.chan k).hist = [] ∧ (t.chan k).fresh = true ∧ ∀ j, j ≠ k → t.chan j = s.chan j) ∧
    ∀ (zp : Bool) (value k : Nat), s.selChan = some k →
      let key := winKey k (if zp then Reg.FMT_CHZP else Reg.FMT_CHCFG)
      let full := s.stagedChans.contains k = false ∧ 64 ≤ s.stagedChans.length
      (¬ full → ∃ t, exec (.channelUpdateStage zp value) s = .next t ∧
        t = { s with commit := t.commit } ∧ t.commit.waiting = s.commit.waiting ∧
        (SMap.read {} t.commit.shadow key).val = BitVec.ofNat 32 value &&& (if zp then 0x1FFFF else 0xFFF1F)) ∧
      (full → ∃ t, exec (.channelUpdateStage zp value) s = .next t ∧ t.bit Reg.FMT_STAGED 8 = true ∧
        t = { s with regs := t.regs })

/-- A well-formed SEND of N granules that issues, or that a newcomer takes before its data plane runs, takes,
while the link is up, the next N granule slots of the window table, its granules leave in them in order, and
it is under way. A well-formed RECV of N granules that issues removes its granules from the receive staging
and is under way; it ends N + 8 + 2 hops + 3 cycles after its issue, or one cycle after it for no granule. -/
def Obligations.SwituTransfersLeaveAndLand : Prop :=
  ∀ (s : State) (c : Cmd),
    let x := s.issueSwitu c
    let n := bitsOf c.w.w4 0 16
    (s.twinState = 2 ∧ s.clock.running = false ∧ s.fatalIdle = false) ∨
      s.goes c (s.unitFree 11 12 0) 1 = true →
    (c.wfSend = true → n ≠ 0 → x.2.linkUp = true →
      let slots := (x.2.curPlan.granuleSlots.drop x.2.twin.windows).take n
      ∃ t out, exec (.send c) s = .next t ∧ t.runs c 0 = true ∧ t.twin.windows = x.2.twin.windows + n ∧
        t.twin.left = x.2.twin.left ++ out ∧ out.map (fun e => (e.1, e.2.1)) = slots ∧
        ∀ e ∈ out, e.2.2.pbuf = bitsOf c.w.w5 0 12) ∧
    (c.wfRecv = true →
      let r := if bitOf c.w.w2 28 then 11 else bitsOf c.w.w2 25 3
      ∃ t, exec (.recv c) s = .next t ∧ t.runs c 0 = true ∧
        t.newestEnd = some (if n = 0 then x.1.t + 1 else x.1.t + n + 8 + 2 * hopsTo r + 3) ∧
        t.twin.staging = x.2.twin.staging.filter (fun e =>
          !(e.1 == x.2.slot && e.2.pbuf == bitsOf c.w.w6 0 12 && decide (e.2.index < n))))

/-- A superframe on a link that is up leaves its marker, the latency that its echo gives within 12 bits, and its
granules in the receive staging, which holds at most 16,384. A link that goes down is counted. The loss of the
partner of a PAIRED twin that awaits no other loss is held with its row, slot and cycle; TWIN_PEER itself is
low after its fall. -/
def Obligations.TwinLinkEventsAreHeld : Prop :=
  ∀ s : State,
    (∀ (cycle : Nat) (m : Marker) (gs : List Granule), s.served 12 = true → s.linkUp = true →
      let s1 := s.reach cycle
      s1.twin.staging.length ≤ 16384 →
      let d : Int := (((s1.slot : Int) - m.echo.1) * s1.slotLen + cycle - 64 * m.echo.2) / 2
      ∃ t, exec (.superframe cycle m gs) s = .next t ∧ t.twin.marker = some m ∧
        t.fld Reg.TWN_LAT 0 12 = (max 0 (min 4095 d)).toNat ∧
        t.twin.staging.length = min 16384 (s1.twin.staging.length + min 63 gs.length) ∧
        (m.fatal = false → t.twin.loss = s1.twin.loss) ∧ t.mem = s1.mem) ∧
    (∀ lanes, s.linkUp = true → ∃ t, exec (.swituLinkDown lanes) s = .next t ∧ t.linkUp = false ∧
      t.fld Reg.TWN_LNK 16 8 = min (s.fld Reg.TWN_LNK 16 8 + 1) 255 ∧
      (s.twinState = 3 → s.twin.loss = none →
        t.twin.loss = some (if s.pins.twinPeer = true then 2 else 1, s.slot, s.clock.cc)) ∧ t.mem = s.mem) ∧
    (∃ t, exec (.twinPeerFall false) s = .next t ∧ t.pins.twinPeer = false ∧ t.bit Reg.TWN_STAT 5 = false ∧
      (s.twinState = 3 → s.twin.loss = none → t.twin.loss = some (0, s.slot, s.clock.cc))) ∧
    (s.twinState = 3 → s.twin.loss = none → ∃ t, exec (.twinPeerFall true) s = .next t ∧
      t = { s with twin := t.twin } ∧ t.twin.loss = some (0, s.slot, s.clock.cc))

/-- In a PAIRED MIRROR pair with the link up, a twin's digest stands in TWN.DIGLO and TWN.DIGHI once it is sent
and the partner's in TWN.PDIGLO and TWN.PDIGHI once it arrives. The comparison of two digests of the slot
before: equal ones show the slot in TWN.DSLOT, clear DIVERGED and change only registers; unequal ones are
counted, and a live twin with a local fault that its partner does not have asks for a swap in the next slot. A
missing digest is counted. -/
def Obligations.SlotDigestsAreExchanged : Prop :=
  ∀ s : State, s.twinState = 3 → s.twinMode = 1 →
    (∀ d, s.linkUp = true → s.twin.own = some d → ∃ t, exec .digestSend s = .next t ∧
      t = { s with regs := t.regs } ∧ t.reg Reg.TWN_DIGLO = d.value.setWidth 32 ∧
      t.reg Reg.TWN_DIGHI = (d.value >>> 32).setWidth 32) ∧
    (∀ d, s.linkUp = true → ∃ t, exec (.digest d) s = .next t ∧ t.twin.peer = some d ∧
      t.reg Reg.TWN_PDIGLO = d.value.setWidth 32 ∧ t.reg Reg.TWN_PDIGHI = (d.value >>> 32).setWidth 32 ∧
      t.mem = s.mem) ∧
    (∀ a b, s.twin.own = some a → s.twin.peer = some b → a.slot = s.slotBack 1 → b.slot = s.slotBack 1 →
      ∃ t, exec .digestCompare s = .next t ∧ t.reg Reg.TWN_DSLOT = BitVec.ofNat 32 (s.slotBack 1) ∧
        (a.value = b.value → t.bit Reg.TWN_STAT 6 = false ∧ t = { s with regs := t.regs }) ∧
        (a.value ≠ b.value → t.fld Reg.TWN_CNT 0 16 = min (s.fld Reg.TWN_CNT 0 16 + 1) 65535 ∧
          (a.isLocal = true → b.isLocal = false → s.isLive = true →
            t.twin.swapAt = some ((s.slot + 1) % 2 ^ 32)) ∧
          (a.isLocal = false → b.isLocal = false → t.bit Reg.TWN_STAT 6 = true))) ∧
    (s.twin.own = none ∨ s.twin.peer = none → ∃ t, exec .digestCompare s = .next t ∧
      t.fld Reg.TWN_LNK 24 8 = min (s.fld Reg.TWN_LNK 24 8 + 1) 255)

/-- A SWAP notice to a PAIRED twin of a MIRROR pair, a DETACH notice to a PAIRED twin, and TRANSFER and JOIN
notices to a newcomer name the tick at which they act and change nothing else; a DETACH notice during an
attach ends it, and an ABORT notice with PWR.STATE.TRIM 0 returns the twin to the state before the attach, or
to IDLE where its data plane does not run. Where PWR.STATE.TRIM is 0: in a PAIRED MIRROR pair with no partner
loss waiting, a swap at its slot, and a committed SWAP of the live twin without DETACH, exchange the roles. A
committed DETACH of a PAIRED twin names the next epoch tick in a DETACH notice, and one during an attach ends
it. A running PAIRED twin whose partner was lost at least 256 cycles before in an earlier slot is DETACHED,
holds no loss or swap any more, and clears DIVERGED. -/
def Obligations.NoticesAndRoles : Prop :=
  (∀ (s : State) (n : Nat),
    (s.twinState = 3 → s.twinMode = 1 →
      exec (.swapNotice n) s = .next { s with twin := { s.twin with swapAt := some n } }) ∧
    (s.twinState = 1 → s.clock.running = false →
      exec (.transferNotice n) s = .next { s with twin := { s.twin with transferAt := some n, step := 5 } }) ∧
    (s.twinState = 1 ∨ s.twinState = 2 → s.clock.running = false →
      exec (.joinNotice n) s = .next { s with twin := { s.twin with joinAt := some n, step := 7 } }) ∧
    (s.twinState = 3 →
      exec (.detachNotice n) s = .next { s with twin := { s.twin with peerLeaveAt := some n } }) ∧
    (s.twinState = 1 ∨ s.twinState = 2 →
      exec (.detachNotice n) s = .next { s with twin := { s.twin with abort := true } }) ∧
    (s.twinState = 1 ∨ s.twinState = 2 → s.bit Reg.PWR_STATE 4 = false →
      ∃ t, exec .abortNotice s = .next t ∧ t.twin.abort = false ∧ t.twin.step = 0 ∧ t.twin.hold = false ∧
        t.twin.joinAt = none ∧ t.twin.transferAt = none ∧
        t.twinState = if s.clock.running = true then s.twin.before % 8 else 5)) ∧
    (∀ s : State, s.bit Reg.PWR_STATE 4 = false →
    (s.twinState = 3 → s.twinMode = 1 → s.twin.loss = none →
      (s.twin.swapAt = some s.slot → ∃ t, exec .roleSwap s = .next t ∧ t.isLive = !s.isLive ∧
        t.twin.swapAt = none ∧ t.twinState = 3) ∧
      (s.faults.discard = false → s.bit Reg.TWN_CTL 2 = true → s.bit Reg.TWN_CTL 1 = false → s.isLive = true →
        ∃ t, exec .swapRoles s = .next t ∧ t.isLive = false ∧ t.bit Reg.TWN_CTL 2 = false ∧ t.twinState = 3)) ∧
    (s.faults.discard = false → s.bit Reg.TWN_CTL 1 = true →
      ∃ t, exec .detach s = .next t ∧ t.bit Reg.TWN_CTL 1 = false ∧ t.bit Reg.TWN_CTL 2 = false ∧
        (s.twinState = 3 → t.twin.leaveAt = some (s.epochAfter 1) ∧
          t.twin.notices = s.twin.notices ++ [(.detach, s.epochAfter 1)]) ∧
        (s.twinState = 1 ∨ s.twinState = 2 → t.twin.abort = true) ∧ t.mem = s.mem) ∧
    ∀ row n cc, s.clock.running = true → s.twinState = 3 → s.twin.loss = some (row, n, cc) →
      1 ≤ (s.slot + 2 ^ 32 - n) % 2 ^ 32 →
      256 ≤ (s.slot + 2 ^ 32 - n) % 2 ^ 32 * s.slotLen - cc →
      ∃ t, exec .takeover s = .next t ∧ t.twinState = 4 ∧ t.twin.loss = none ∧ t.twin.swapAt = none ∧
        t.bit Reg.TWN_STAT 6 = false)

/-- Where no lockstep mismatch discards it, PWR.STATE.TRIM is 0 and commits name staged registers: a committed
ATTACH takes a SOLO or DETACHED twin to HANDSHAKE and its bit reads 0. An accepted HELLO chooses the first
variant pair that fits both devices; a running twin then names its transfer tick, the first epoch tick 64
slots on. At that tick the running twin is in TRANSFER with promotion suspended. The end of the bulk copy
names the join tick, and at it the twins are PAIRED; a newcomer's data plane runs from it. An attach that is
to be aborted ends with an ABORT notice. -/
def Obligations.AttachRunsItsSteps : Prop :=
  ∀ s : State,
    (s.faults.discard = false → s.bit Reg.TWN_CTL 0 = true → s.twinState = 0 ∨ s.twinState = 4 →
      ∃ t, exec .attach s = .next t ∧ t.twinState = 1 ∧ t.bit Reg.TWN_CTL 0 = false ∧
        t.twin.before = s.twinState ∧ t.twin.step = 1 ∧ t.mem = s.mem) ∧
    (∀ h us, s.twinState = 1 → s.linkUp = true → s.helloFault h s.imageDigest = 0 →
      ∃ t, exec (.hello h us) s = .next t ∧ t.twin.halves = s.fittingPair h.anvmap ∧
        (s.clock.running = true → t.twin.transferAt = some (s.epochAfter 64) ∧
          t.twin.notices = s.twin.notices ++ [(.transfer, s.epochAfter 64)])) ∧
    (∀ e, s.twin.transferAt = some e → s.twinState = 1 → s.clock.running = true → e = s.slot →
      s.bit Reg.PWR_STATE 4 = false → ∃ t, exec .transferStart s = .next t ∧ t.twinState = 2 ∧ t.twin.hold = true ∧ t.twin.step = 6 ∧
        t.standby = 0) ∧
    (∀ e, s.twin.transferAt = some e → s.twinState = 1 → s.clock.running = false →
      ∃ t, exec .transferStart s = .next t ∧ t.twinState = 2 ∧ t.twin.set = [] ∧ t.clock = s.clock) ∧
    (s.twinState = 2 → s.clock.running = true → s.twin.joinAt = none →
      exec .bulkCopyComplete s = .next { s with twin := { s.twin with
        joinAt := some (s.epochAfter (2 * s.spe)), step := 7
        notices := s.twin.notices ++ [(.join, s.epochAfter (2 * s.spe))] } }) ∧
    (∀ x us j, s.twin.joinAt = some j → (s.clock.running = true → j = s.slot) →
      s.bit Reg.PWR_STATE 4 = false → s.stagedOnly = true → ∃ t, exec (.join x us) s = .next t ∧ t.twinState = 3 ∧ t.reg Reg.TWN_JOIN = BitVec.ofNat 32 j ∧
        t.twin.joinAt = none ∧ t.twin.hold = false ∧ t.clock.running = true ∧
        (s.clock.running = false → t.slot = j % 2 ^ 32)) ∧
    (s.twin.abort = true → s.twinState = 1 ∨ s.twinState = 2 → s.bit Reg.PWR_STATE 4 = false →
      ∃ t, exec .attachAborted s = .next t ∧ t.twin.abort = false ∧ t.twin.step = 0 ∧
        t.twin.notices = s.twin.notices ++ [(.abort, s.slot)] ∧
        t.twinState = if s.clock.running = true then s.twin.before % 8 else 5)

/-- On a started device whose commits name staged registers: a slot tick leaves the next slot number modulo 2^32,
slot cycle 0, no report and no granule of the ended slot, and no command under way unless an epoch tick came
before it. An epoch tick at the end of a slot that carries one leaves no commit that is due, counts the epoch,
shows the mean power within 13 bits, and lets a staged word take effect. In management-only operation an epoch
boundary leaves no commit due at slot 0. A tick mismatch fences each region that it names. -/
def Obligations.TicksBeginSlotsAndEpochs : Prop :=
  ∀ s : State,
    (∀ x, s.started = true → s.stagedOnly = true → ∃ t, exec (.slotTick x) s = .next t ∧
      t.slot = (s.slot + 1) % 2 ^ 32 ∧ t.clock.cc = 0 ∧ t.clock.epochDone = false ∧ t.clock.inTick = false ∧
      t.faults.reports = [] ∧ t.twin.staging = [] ∧ t.twin.left = [] ∧
      (s.clock.epochDone = false → t.running = [] ∧ t.signals = [])) ∧
    (∀ x, let n := (s.slot + 1) % 2 ^ 32
      s.started = true → s.stagedOnly = true → s.clock.epochDone = false → s.isEpoch n = true →
      ∃ t, exec (.epochTick x) s = .next t ∧ t.clock.epochDone = true ∧ t.slot = s.slot ∧
        t.reg Reg.MGT_EPOCH = s.reg Reg.MGT_EPOCH + 1 ∧ t.fld Reg.PWR_MEAS 0 13 = min x.mean 8191 ∧
        (∀ a ∈ t.commit.waiting, a.due ≠ n) ∧
        ∀ v, s.commit.waiting = [⟨n, Reg.WGT_ETA, v⟩] → t.reg Reg.WGT_ETA = overlay (s.reg Reg.WGT_ETA) v) ∧
    (∀ x, s.started = false → s.isMgmtOnly = true → ∃ t, exec (.epochTick x) s = .next t ∧
      (∀ a ∈ t.commit.waiting, a.due ≠ 0) ∧ t.clock = s.clock ∧ t.mem = s.mem) ∧
    ∀ rs, ∃ t, exec (.tickMismatch rs) s = .next t ∧ (∀ r ∈ rs, r < 13 → t.fenced r = true) ∧
      t.clock = s.clock

/-- While a region's engines answer: the start of a window leaves no data-plane tile in its Anvils; after a
decision every member of the region's running set runs. Where EXACT is 0, a slice end adds the overrun of a
member to ELS.OVR, and a guard takes the member out of the running set and charges its class the engine cycles
that it held, down to the least 32-bit number. -/
def Obligations.ElasticMembersJoinAndLeave : Prop :=
  ∀ (s : State) (r : Nat),
    (∀ start, s.engineLive r = true → r < 8 →
      (s.curPlan.windows.any fun w => w.1 == r && w.2.start == start && w.2.parity) = true →
      ∃ t, exec (.elasticWindowStart r start) s = .next t ∧
        ∀ w ∈ s.curPlan.windows, w.1 = r → w.2.start = start → w.2.parity = true →
          ∀ a < 4, w.2.engines.testBit a = true → ∀ x, (t.anvil r a).tile = some x → x.ctx.isSome = true) ∧
    (∀ cycle,
      let s1 := s.reach cycle
      s1.exact = false → s1.engineLive r = true →
      ∃ t, exec (.schedulerDecision r cycle) s = .next t ∧
        ∀ k ∈ s1.homed r, (t.ctx k).member.isSome = true → (t.ctx k).state = .running) ∧
    (∀ k, s.exact = false → (s.ctx k).member.isSome = true → (s.ctx k).image.home = r →
      let s1 := s.reach (s.ctx k).sliceEnd
      (s1.ctx k).member.isSome = true →
      ∃ t, exec (.sliceEnd r k) s = .next t ∧
        t.fld (winKey r Reg.ELS_OVR) 0 32
          = min (s1.fld (winKey r Reg.ELS_OVR) 0 32 + ((s1.ctx k).lastDone - (s1.ctx k).sliceEnd)) (2 ^ 32 - 1)) ∧
    ∀ k start cycle, s.exact = false → (s.ctx k).member.isSome = true → (s.ctx k).image.home = r →
      (s.openWindow r (cycle + 1) (s.ctx k).image.mask).isNone = true →
      let s1 := s.reach cycle
      let x := s1.ctx k
      let cl := s1.shareClass x.image.client
      x.member = some start →
      ∃ t, exec (.guardReached r k cycle) s = .next t ∧ (t.ctx k).member = none ∧
        (t.ctx k).queue = x.queue ∧ t.regs = s1.regs ∧
        t.deficit r cl = max (-(2 ^ 31)) (s1.deficit r cl
          - ((engineCount x.image.mask * (x.lastDone - start) : Nat) : Int))

/-- A swap that a region's scheduler may make, with fewer than eight contexts resident, starts to bring in the
best context that is runnable out of residence. A swap that completes makes its context resident, the evicted
one not, and is counted. After a window's end no elastic command of its engines runs past it, and no swap.
Under EXACT an entry of the elastic sequence whose parity holds starts its swap where none is under way, or
names the cycle and the position of its context's command. -/
def Obligations.SwapsAndCutsChangeResidency : Prop :=
  ∀ (s : State) (r : Nat),
    (∀ cycle cycles, s.exact = false → s.engineLive r = true → s.swapping r = none →
      s.inWindow r cycle = true →
      let s1 := (((s.settleSignals cycle).homed r).foldl (fun s k => s.refreshCtx r cycle k)
        (s.settleSignals cycle))
      ∀ into, s1.bestOf r ((s1.homed r).filter fun k =>
          !(s1.ctx k).resident && (s1.ctx k).state == .runnable) = some into → (s1.residents r).length < 8 →
        ∃ t w, exec (.swap r cycle cycles) s = .next t ∧ t.swapping r = some w ∧ w.out = none ∧
          w.into = into ∧ w.start = cycle ∧ cycle + cycles ≤ w.finish) ∧
    (∀ w, s.swapping r = some w → ∃ t, exec (.swapComplete r) s = .next t ∧ t.swapping r = none ∧
      (t.ctx w.into).resident = true ∧ (∀ o, w.out = some o → o ≠ w.into → (t.ctx o).resident = false) ∧
      t.fld (winKey r Reg.ELS_SWAPS) 0 16
        = min ((s.reach w.finish).fld (winKey r Reg.ELS_SWAPS) 0 16 + 1) 65535) ∧
    (∀ cycle, s.engineLive r = true →
      (s.curPlan.windows.any fun w => w.1 == r && w.2.stop == cycle && w.2.parity) = true →
      ∃ t, exec (.elasticWindowCut r cycle) s = .next t ∧
        (∀ w ∈ s.curPlan.windows, w.1 = r → w.2.stop = cycle → w.2.parity = true → ∀ e ∈ t.running,
          e.region = r → e.ctx.isSome = true → w.2.engines.testBit e.engine = true → e.finish ≤ cycle) ∧
        ∀ w, t.swapping r = some w → w.finish ≤ cycle) ∧
    ∀ index cycles e, s.exact = true → s.engineLive r = true →
      ((s.curPlan.eseq.filter fun e => e.1 = r).map (·.2))[index]? = some e → oddOnes 64 e.toNat = false →
      let k := e.toNat / 2 ^ 21 % 64
      let c := e.toNat % 2 ^ 21
      let s1 := s.reach c
      (e.getLsbD 35 = true → s1.swapping r = none → ∃ t w, exec (.elasticSequenceEntry r index cycles) s = .next t ∧
        t.swapping r = some w ∧ w.into = k ∧ w.start = c) ∧
      (e.getLsbD 35 = false → ∃ t, exec (.elasticSequenceEntry r index cycles) s = .next t ∧
        (t.ctx k).due = some (e.toNat / 2 ^ 27 % 256, c) ∧ (t.ctx k).duePos = e.toNat / 2 ^ 39 % 4 ∧
        (t.ctx k).queue = (s1.ctx k).queue ∧ t.regs = s1.regs)

/-- Where EXACT is 0 and the governor may grant: a single waiting request that fits the budget is granted and its
context runs on, and one that still waits at the front does not fit. A temperature event shows sensor and
junction in PWR.TEMP, with WARN from the limit until it has fallen below it; a trip is fatal and holds the
domains for the next slot tick. The loss of lock of clock domains 0 to 12 is fatal, of another leaves it
without lock until it relocks, and is counted. -/
def Obligations.LeaveTemperatureAndLocksAreKept : Prop :=
  ∀ s : State,
    (∀ r cycle, s.exact = false → s.hot = false → s.engineLive r = true →
      let T := max cycle s.clock.cc
      let s1 := s.reach cycle
      ∃ t, exec (.leaveGrant r cycle) s = .next t ∧
        (∀ w rest, SMap.read [] t.els.waits r = w :: rest →
          t.budget r T < ((t.heldGrants r T).map (·.amount)).sum + w.amount) ∧
        ∀ w, SMap.read [] s1.els.waits r = [w] → (s1.ctx w.ctx).cause = .leave →
          ((s1.heldGrants r T).map (·.amount)).sum + w.amount ≤ s1.budget r T →
          SMap.read [] t.els.waits r = [] ∧ (t.ctx w.ctx).cause = .none ∧ (t.ctx w.ctx).state = .runnable) ∧
    (∀ sensor temp, sensor < 16 → temp < 256 →
      (∃ t, exec (.overTemperature sensor temp) s = .next t ∧ t = { s with regs := t.regs, faults := t.faults } ∧
        t.reg Reg.PWR_TEMP = BitVec.ofNat 32 (temp + sensor * 2 ^ 8 + 2 ^ 16)) ∧
      (∃ t, exec (.thermalTrip sensor temp) s = .next t ∧ t.power.tripped = true ∧ t.bit Reg.FLT_FATAL 31 = true ∧
        t.pins.faultN = false ∧ t.pins.twinOk = false ∧ t.mem = s.mem) ∧
      ∃ t, exec (.temperatureFallenBelowLimit sensor temp) s = .next t ∧
        t.reg Reg.PWR_TEMP = BitVec.ofNat 32 (temp + sensor * 2 ^ 8)) ∧
    ∀ d, d < 64 →
      (∃ t, exec (.pllLossOfLock d) s = .next t ∧
        t.fld Reg.CLK_LOL 8 8 = min (s.fld Reg.CLK_LOL 8 8 + 1) 255 ∧ t.bit Reg.CLK_LOL 31 = true ∧
        (s.bit Reg.CLK_LOL 31 = false → t.fld Reg.CLK_LOL 0 6 = d) ∧
        (d ≤ 12 → t.bit Reg.FLT_FATAL 31 = true ∧ t.pins.faultN = false) ∧
        (12 < d → t.lostLock d = true ∧ t.pins = s.pins)) ∧
      ∃ t, exec (.pllRelock d) s = .next t ∧ t = { s with power := t.power } ∧ t.lostLock d = false ∧
        ∀ e, e ≠ d → t.lostLock e = s.lostLock e

/-- Where no lockstep mismatch discards it: RUN leaves Trim at once where no region is off, else brings the
regions back, and wakes from Doze; TRIM leaves Run for Trim; DOZE stops the data plane and leaves no region
but NET and MGMT answering; KEEP leaves only the always-on domains, an empty HBM, the time unit in HOLDOVER
and PWR_EN low. A region reset closes the gate until the next epoch tick, a power-down leaves the region off,
a power-up begins its wake. An enabled wake source in Keep begins a wake with PWR_EN high; a wake that times
out ends. For a region that powers up: each ready step but the last moves it on, the first powers its domains,
and the last leaves its gates to the next epoch tick. For a wake: each ready step but the last moves it on;
the last of a wake from Doze leaves the device in Run with the wake time shown, the gates of those regions
that answered before Doze to the next epoch tick, and the restart of the data plane to come. -/
def Obligations.PowerStatesAndWakes : Prop :=
  (∀ s : State,
    (s.faults.discard = false →
      (s.power.request = some 0 → s.powerState = 1 → s.power.trimmed = [] →
        ∃ t, exec .runRequest s = .next t ∧ t.powerState = 0 ∧ t.power.request = none ∧ t.mem = s.mem) ∧
      (s.power.request = some 0 → s.powerState = 1 → s.power.trimmed ≠ [] →
        ∃ t, exec .runRequest s = .next t ∧ t.power.toRun = true ∧ t.regs = s.regs ∧
          t.power.rising = s.power.rising ++ s.power.trimmed.map (fun r => (r, 0))) ∧
      (s.power.request = some 0 → s.powerState = 2 →
        ∃ t, exec .runRequest s = .next t ∧ t.power.wake = some (2, 0) ∧ t.regs = s.regs) ∧
      (s.power.request = some 1 → s.powerState = 0 →
        ∃ t, exec .trimRequest s = .next t ∧ t.powerState = 1 ∧ t.power.request = none) ∧
      (s.power.request = some 2 → s.powerState < 2 →
        ∃ t, exec .doze s = .next t ∧ t.powerState = 2 ∧ t.clock.running = false ∧ t.pins.twinOk = false ∧
          t.running = [] ∧ ∀ r < 13, r ≠ 9 → t.served r = false) ∧
      (s.power.request = some 3 → s.powerState = 2 → s.power.wakeHeld = false →
        ∃ t, exec .keep s = .next t ∧ t.powerState = 3 ∧ t.pins.pwrEn = false ∧
          t.reg Reg.PWR_DOM = 0x1C000000 ∧ t.mem.hbm = [] ∧ t.fld Reg.TU_STAT 0 2 = 3 ∧
          ∀ r < 13, t.served r = false) ∧
      (s.fld Reg.PWR_RREQ 4 2 = 1 → ∃ t, exec .regionReset s = .next t ∧ t.fld Reg.PWR_RREQ 4 2 = 0 ∧
        t.fenced (s.fld Reg.PWR_RREQ 0 4) = true ∧ s.fld Reg.PWR_RREQ 0 4 ∈ t.power.resets) ∧
      (s.fld Reg.PWR_RREQ 4 2 = 2 → s.fld Reg.PWR_RREQ 0 4 < 13 → ∃ t, exec .regionPowerDown s = .next t ∧
        t.fld Reg.PWR_RREQ 4 2 = 0 ∧ t.served (s.fld Reg.PWR_RREQ 0 4) = false) ∧
      (s.fld Reg.PWR_RREQ 4 2 = 3 → ∃ t, exec .regionPowerUp s = .next t ∧ t.fld Reg.PWR_RREQ 4 2 = 0 ∧
        (s.fld Reg.PWR_RREQ 0 4, 0) ∈ t.power.rising ∧ t.mem = s.mem) ∧
      (s.powerState = 3 → s.bit Reg.PWR_WAKE 2 = true → s.power.wake = none →
        ∃ t, exec .wakeNow s = .next t ∧ t = { s with power := t.power, pins := t.pins } ∧
          t.power.wake = some (3, 0) ∧ t.pins.pwrEn = true)) ∧
    (s.powerState = 3 → s.bit Reg.PWR_WAKE 0 = true → s.power.wake = none →
      ∃ t, exec .wakeN s = .next t ∧ t = { s with power := t.power, pins := t.pins } ∧
        t.power.wake = some (3, 0) ∧ t.pins.pwrEn = true) ∧
    (∀ back k, s.power.wake = some (back, k) → ∃ t, exec (.wakeTimeout none) s = .next t ∧ t.power.wake = none ∧
      (back = 3 → t.pins.pwrEn = false)) ∧
    ∀ r k, s.power.rising = [(r, k)] → ∃ t, exec (.wakeTimeout (some r)) s = .next t ∧ t.power.rising = []) ∧
    (∀ (s : State) (us : Nat) (x : StartInput),
    (∀ r k, r < 13 → s.power.rising = [(r, k)] → ∃ t, exec (.readySignal (some r) us x) s = .next t ∧
      (k < 3 → t.power.rising = [(r, k + 1)]) ∧ (k = 0 → t.powered r = true) ∧
      (3 ≤ k → t.power.rising = [] ∧ t.power.resets = s.power.resets ++ [r]) ∧ t.clock = s.clock) ∧
    (∀ back k, s.power.wake = some (back, k) → k < 3 → ∃ t, exec (.readySignal none us x) s = .next t ∧
      t.power.wake = some (back, k + 1) ∧ t.clock = s.clock) ∧
    (s.power.wake = some (2, 3) → ∃ t, exec (.readySignal none us x) s = .next t ∧ t.powerState = 0 ∧
      t.power.wake = none ∧ t.power.resume = true ∧ t.power.asleep = [] ∧ t.power.resets = s.power.resets ++
        s.power.asleep.filterMap (fun e : Nat × Bool => if e.2 then some e.1 else none) ∧
      t.reg Reg.PWR_WTIME = BitVec.ofNat 32 (us % 65536) ∧ t.mem = s.mem))

/-- Where no lockstep mismatch discards it, POP removes the oldest record and nothing else. A mismatch in the
fault controller or the time unit is fatal; in the sequencer, the I3C target, the security unit or the power
sequencer it is a detected fault that discards the management action of that cycle, and the sequencer's step
is repeated. A rotation and a failing element are each counted up to 65,535. While the data plane runs, the
extract of a ledger that was closed is formed once, and its buffer completes where its region answers. -/
def Obligations.FaultControllerCommandsAct : Prop :=
  ∀ s : State,
    (s.faults.discard = false → exec .pop s = .next { s with faults := { s.faults with
      queue := s.faults.queue.drop 1 } }) ∧
    (∀ block action, block = 3 ∨ block = 5 → ∃ t, exec (.lockstepMismatch block action) s = .next t ∧
      t.bit Reg.FLT_FATAL 31 = true ∧ t.pins.faultN = false ∧ t.faults.discard = s.faults.discard) ∧
    (∀ block action, block < 5 → block ≠ 3 → ∃ t, exec (.lockstepMismatch block action) s = .next t ∧
      t = { s with regs := t.regs, faults := t.faults } ∧ t.faults.discard = (s.faults.discard || action) ∧
      t.faults.repeatStep = true ∧
      t.fld Reg.FLT_CNTD 0 32 = min (s.fld Reg.FLT_CNTD 0 32 + 1) (2 ^ 32 - 1)) ∧
    (∀ done checker l,
      (∃ t, exec (.rotatingSelfTest done none checker) s = .next t ∧ t = { s with regs := t.regs } ∧
        t.fld Reg.FLT_STEST 0 16 = min (s.fld Reg.FLT_STEST 0 16 + if done = true then 1 else 0) 65535) ∧
      ∃ t, exec (.rotatingSelfTest done (some l) checker) s = .next t ∧
        t.fld Reg.FLT_STEST 16 16 = min (s.fld Reg.FLT_STEST 16 16 + 1) 65535 ∧
        (∀ r, checker = some r → r < 13 → t.fenced r = true) ∧ t.clock = s.clock) ∧
    (s.clock.running = true → s.ledger.extracted = false → ∃ t, exec .ledgerExtract s = .next t ∧
      t.ledger.extracted = true ∧
      (s.served (s.fld Reg.LGR_XBUF 25 3) = true → s.fld Reg.LGR_XNUM 0 12 ≠ 0xFFF →
        (t.cell 0 (s.fld Reg.LGR_XBUF 25 3) (s.fld Reg.LGR_XNUM 0 12)).complete = true) ∧
      (s.served (s.fld Reg.LGR_XBUF 25 3) = false → t.mem = s.mem))

/-- Where no lockstep mismatch discards it: a commit of one group that nothing refuses is shown as accepted with
its epoch tick, its staged registers wait for that tick and are staged no more; one that is refused shows
REFUSED, the reason and the register, and stays staged. A plan switch request is the commit of group 0 after
SPL.SWREQ is staged with REQ. DISCARD drops what is staged in its groups and nothing else. -/
def Obligations.CommitsAreJudgedByGroup : Prop :=
  ∀ s : State, s.faults.discard = false →
    (∀ g, g < 15 →
      let s0 := s.zeroRegs [Reg.MGT_CSTAT, Reg.MGT_CREASON, Reg.MGT_CADDR]
      let mine := s.commit.shadow.filter fun e => groupOf e.1 == g
      (s0.groupRefusal g = none → ∃ t, exec (.commit (2 ^ g)) s = .next t ∧ t.bit Reg.MGT_CSTAT g = true ∧
        t.reg Reg.MGT_CEPOCH = BitVec.ofNat 32 s.dueSlot ∧
        t.commit.waiting = s.commit.waiting ++ mine.map (fun e => ⟨s.dueSlot, e.1, e.2⟩) ∧
        t.commit.shadow = s.commit.shadow.filter (fun e => !(groupOf e.1 == g)) ∧ t.mem = s.mem) ∧
      (∀ a reason fault, s0.groupRefusal g = some (a, reason, fault) →
        ∃ t, exec (.commit (2 ^ g)) s = .next t ∧ t.bit Reg.MGT_CSTAT (16 + g) = true ∧
        t.reg Reg.MGT_CREASON = BitVec.ofNat 32 (reason + g * 16) ∧ t.reg Reg.MGT_CADDR = BitVec.ofNat 32 a ∧
        t.commit = s.commit ∧ t.mem = s.mem)) ∧
    (∀ v, let s1 := s.stage Reg.SPL_SWREQ 0x1FFFF (BitVec.ofNat 32 (v % 2 ^ 16 + 2 ^ 16))
      exec (.planSwitchRequest v) s = exec (.commit 1) s1 ∧
      ((s1.zeroRegs [Reg.MGT_CSTAT, Reg.MGT_CREASON, Reg.MGT_CADDR]).groupRefusal 0 = none →
        ∃ t, exec (.planSwitchRequest v) s = .next t ∧ t.bit Reg.MGT_CSTAT 0 = true ∧
          t.isStaged Reg.SPL_SWREQ = false ∧ t.commit.waiting.any (fun a => a.key == Reg.SPL_SWREQ) = true)) ∧
    ∀ mask, mask < 2 ^ 15 → ∃ t, exec (.discard mask) s = .next t ∧ t = { s with commit := t.commit } ∧
      t.commit.waiting = s.commit.waiting ∧
      t.commit.shadow = s.commit.shadow.filter (fun e => !mask.testBit (groupOf e.1))

/-- Where no lockstep mismatch discards it, once what was due before it has happened: a write of a readable and
writable register of the time unit, the ledger or the NVM engine replaces its fields; a write of a staged
register of the elastic plane or the weights only stages the word; a write of a read-only register of the
architecture block changes no register; a write whose address is no multiple of 4 is counted and changes no
memory. -/
def Obligations.RegisterWritesFollowTheirCodes : Prop :=
  ∀ (s : State) (w : Word) (leg a : Nat), s.faults.discard = false →
    let s1 := (s.measureLeg a leg).catchUp
    (s1.powerState ≠ 3 →
      (a ∈ [Reg.TU_CAPSRC, Reg.LGR_QSEL, Reg.NVM_ADDR] → ∀ d, findReg a = some d →
        ∃ t, exec (.registerWrite a w leg) s = .next t ∧ t = { s1 with regs := t.regs } ∧
          t.reg a = d.written (s1.reg a) w ∧ ∀ k, k ≠ a → t.reg k = s1.reg k) ∧
      (a ∈ [Reg.ELS_CFG, Reg.WGT_ETA, Reg.WGT_CLIP, Reg.WGT_TRAIN] → ∀ d, findReg a = some d →
        ∃ t, exec (.registerWrite a w leg) s = .next t ∧ t = { s1 with regs := t.regs, commit := t.commit } ∧
          t.effective a &&& d.maskOf (fun x => x == .rws) = w &&& d.maskOf (fun x => x == .rws) ∧
          t.commit.waiting = s1.commit.waiting ∧ ∀ k, t.reg k = s1.reg k) ∧
      (a ∈ [Reg.ARC_ID, Reg.ARC_GRADE, Reg.ARC_ANVMAP] →
        ∃ t, exec (.registerWrite a w leg) s = .next t ∧ t = { s1 with regs := t.regs } ∧
          ∀ k, t.reg k = s1.reg k)) ∧
    (a % 4 ≠ 0 → ∃ t, exec (.registerWrite a w leg) s = .next t ∧ t.mem = s1.mem ∧
      t.commit = s1.commit ∧ t.fld Reg.MGT_ACC 0 16 = min (s1.fld Reg.MGT_ACC 0 16 + 1) 65535)

/-- A supply reset, a power-on and a brown-out begin from the reset registers with flash, queue and free values
kept; the cause of the last two is 1 and 2. A start that hangs in step 1 shows no step and FAULT_N low; one in
RECOVERY that meets no limit ends in management-only operation at step 4. A time-out in step 7, 8 or 13 is
fatal and leaves management-only operation, one in steps 1 to 3 leaves FAULT_N low. Steps 10 to 12 go on when
their waits end. The data plane starts in step 13 with slot 0 where step 12 is done and its links are ready. -/
def Obligations.TheStartRunsAndEnds : Prop :=
  ∀ s : State,
    (∃ t, exec .supplyReset s = .next t ∧ t.regs = State.reset.regs ∧ t.mem.flash = s.mem.flash ∧
      t.mem.pad = [] ∧ t.pending = s.pending ∧ t.faults = {} ∧ t.clock = {} ∧ t.pins.faultN = false) ∧
    (∀ (x : StartInput) (i : Instr) (c : Word), (i, c) ∈ [(Instr.powerOn x, (1 : Word)), (.brownOut x, 2)] →
      (x.stall = some 1 → ∃ t, exec i s = .next t ∧ t.fld Reg.STA_STEP 0 5 = 0 ∧ t.pins.faultN = false ∧
        t.pins.pwrEn = true ∧ t.reg Reg.PWR_RSTCAUSE = c ∧ t.reg Reg.ARC_ID = 0x0940B000) ∧
      (x.stall = none → x.straps.testBit 4 = true → s.pins.scan = none → s.pins.highZ = false →
        ∃ t, exec i s = .next t ∧ t.fld Reg.STA_STEP 0 4 = 4 ∧ t.isMgmtOnly = true ∧ t.pins.faultN = true ∧
          t.reg Reg.PWR_RSTCAUSE = c ∧ t.clock.running = false ∧ t.pending = s.pending)) ∧
    (s.isMgmtOnly = false → s.start.held = false →
      (∀ stack, s.fld Reg.STA_STEP 0 4 ∈ [6, 7, 12] → ∃ t, exec (.startStepTimeout stack) s = .next t ∧
        t.isMgmtOnly = true ∧ t.bit Reg.FLT_FATAL 31 = true ∧ t.pins.faultN = false ∧
        t.pins.sysrefReq = false) ∧
      (∀ stack, s.fld Reg.STA_STEP 0 4 < 3 → ∃ t, exec (.startStepTimeout stack) s = .next t ∧
        t.pins.faultN = false ∧ t.regs = s.regs) ∧
      (∀ us, s.fld Reg.STA_STEP 0 4 = 9 → ∃ t, exec (.linkNotTrained us) s = .next t ∧
        t.start.links = [] ∧ t.start.reported = s.start.links ∧ 10 ≤ t.fld Reg.STA_STEP 0 4) ∧
      (∀ us, s.fld Reg.STA_STEP 0 4 = 10 → s.start.tlock ≠ 0 → s.tuState ≠ 2 →
        ∃ t, exec (.timeLockTimeout us) s = .next t ∧ 11 ≤ t.fld Reg.STA_STEP 0 4 ∧ t.tuState = s.tuState) ∧
      (∀ us, s.fld Reg.STA_STEP 0 4 = 11 → s.twinState = 1 → s.twin.step < 4 →
        s.twin.marker.any (fun m => m.slot != 0xFFFFFFFF) = false →
        ∃ t, exec (.handshakeWaitExpiry us) s = .next t ∧ t.twinState = 0 ∧ t.isLive = true ∧
          t.fld Reg.STA_STEP 0 4 = 12)) ∧
    ∀ us, s.clock.running = false → s.isMgmtOnly = false → s.power.resume = false → s.stagedOnly = true →
      s.anyJesd = false ∨ (s.start.lemcAt.isSome = true ∧ s.jesdReady = true) →
      s.fld Reg.STA_STEP 0 4 = 12 → s.twinState ≠ 1 → s.twinState ≠ 2 →
      ∃ t, exec (.dataPlaneStart us) s = .next t ∧ t.clock.running = true ∧ t.slot = 0 ∧ t.clock.cc = 0 ∧
        t.fld Reg.STA_STEP 0 4 = 13 ∧ t.reg Reg.MGT_EPOCH = 0

/-- Where no lockstep mismatch discards it and none runs, each NVM command whose conditions hold runs: ERASE and
PROGRAM of an aligned area that is not protected, VERIFY, ACTIVATE of a verified slot, SAVEW that fits, DROPW.
While one runs each is refused with result 1. A done ERASE or PROGRAM without error leaves its sector erased
or its page written; every done command ends, and one that meets an error is counted. A word enters the page
buffer while it holds fewer than 64. -/
def Obligations.NvmCommandsRunAndEnd : Prop :=
  ∀ s : State,
    (s.faults.discard = false → s.bit Reg.NVM_STAT 0 = false →
      let a := (s.reg Reg.NVM_ADDR).toNat
      let runs (i : Instr) (j : NvmJob) :=
        ∃ t, exec i s = .next t ∧ t.sec.job = some j ∧ t.bit Reg.NVM_STAT 0 = true ∧ t.mem = s.mem
      (s.protectedArea a s.sectorSize = false → a % s.sectorSize = 0 → runs .erase ⟨1, 0, a, []⟩) ∧
      (s.protectedArea a 256 = false → a % 256 = 0 → runs .program ⟨2, 0, a, s.sec.page⟩) ∧
      (∀ slot, runs (.verify slot) ⟨3, slot % 2, 0, []⟩ ∧
        (s.bit Reg.NVM_STAT (16 + slot % 2) = true → runs (.activate slot) ⟨4, slot % 2, 0, []⟩)) ∧
      (∀ b, s.bootRecord = some b → s.plan.weights.len ≤ b.wsize → runs .savew ⟨5, 0, 0, []⟩) ∧
      runs .dropw ⟨6, 0, 0, []⟩) ∧
    (s.faults.discard = false → s.bit Reg.NVM_STAT 0 = true → ∀ slot,
      ∀ i ∈ [Instr.erase, .program, .verify slot, .activate slot, .savew, .dropw],
        ∃ t, exec i s = .next t ∧ t.fld Reg.NVM_STAT 8 4 = 1 ∧ t = { s with regs := t.regs }) ∧
    (∀ w, s.faults.discard = false → s.sec.page.length < 64 → ∃ t, exec (.pageBufferWrite w) s = .next t ∧
      t.sec.page = s.sec.page ++ [w] ∧ t.fld Reg.NVM_STAT 1 7 = s.sec.page.length + 1 ∧ t.mem = s.mem) ∧
    ∀ j, s.sec.job = some j → (j.cmd = 5 → s.sec.saving = true) →
      (∃ t, exec (.nvmCommandDone true) s = .next t ∧ t.sec.job = none ∧ t.bit Reg.NVM_STAT 0 = false ∧
        t.fld Reg.NVM_STAT 8 4 = 4 ∧ t.fld Reg.NVM_STAT 24 8 = min (s.fld Reg.NVM_STAT 24 8 + 1) 255) ∧
      ∃ t, exec (.nvmCommandDone false) s = .next t ∧ t.sec.job = none ∧ t.bit Reg.NVM_STAT 0 = false ∧
        (j.cmd = 1 → t.flashBytes j.addr s.sectorSize = List.replicate s.sectorSize 0xFF) ∧
        (j.cmd = 2 → j.words.length ≤ 64 → t.flashBytes j.addr 256
          = (j.words.flatMap fun w => leBytes 4 w.toNat) ++ List.replicate (256 - 4 * j.words.length) 0xFF)

/-- Where the identity stands and no report is forming: a well-formed ATTREQ outside a shadow twin, and GO where
no lockstep mismatch discards it, form a report over their nonce. A report that is ready carries the signature
over its body; it is counted, and one for I3C can be read word by word from SEC.ATTDATA. A request while one
forms is counted as busy. -/
def Obligations.ReportsFormAndAreRead : Prop :=
  ∀ s : State,
    (3 ≤ s.fld Reg.STA_STEP 0 4 → s.bit Reg.SEC_ID 0 = true → s.sec.forming = none →
      (∀ m, s.served 9 = true → s.isShadow = false → m.len = 44 → m.body.length = 36 →
        ∃ t, exec (.attreq m) s = .next t ∧ t.bit Reg.SEC_ATTSTAT 0 = true ∧ t.mem = s.mem ∧
          t.sec.forming = some ⟨true, s.reportBody (m.body.take 32) (beNat (m.body.drop 32) % 2 == 1)⟩) ∧
      (∀ map, s.faults.discard = false → ∃ t, exec (.go map) s = .next t ∧ t.bit Reg.SEC_ATTSTAT 0 = true ∧
        t.bit Reg.SEC_ATTSTAT 1 = false ∧ t.sec.report = [] ∧
        t.sec.forming = some ⟨false, s.reportBody s.nonceBytes map⟩)) ∧
    (∀ map, 3 ≤ s.fld Reg.STA_STEP 0 4 → s.bit Reg.SEC_ID 0 = true → s.sec.forming.isSome = true →
      s.faults.discard = false → ∃ t, exec (.go map) s = .next t ∧ t.sec.forming = s.sec.forming ∧
        t.fld Reg.SEC_CNT 16 8 = min (s.fld Reg.SEC_CNT 16 8 + 1) 255 ∧ t.fld Reg.SEC_ATTSTAT 2 2 = 1) ∧
    (∀ r, s.sec.forming = some r → ∃ t, exec .reportReady s = .next t ∧ t.sec.forming = none ∧
      t.bit Reg.SEC_ATTSTAT 0 = false ∧ t.fld Reg.SEC_CNT 0 16 = min (s.fld Reg.SEC_CNT 0 16 + 1) 65535 ∧
      (r.l2 = false → t.bit Reg.SEC_ATTSTAT 1 = true ∧ t.sec.taken = 0 ∧
        t.sec.report = r.body ++ Config.mldsaSign (Config.sha3 r.body) ++ [0])) ∧
    (s.faults.discard = false → ∃ t, exec .attdataRead s = .next t ∧ t.sec.taken = s.sec.taken + 1 ∧
      t.reg Reg.SEC_ATTDATA = BitVec.ofNat 32 (leNat ((s.sec.report.drop (4 * s.sec.taken)).take 4)) ∧
      t.sec.report = s.sec.report ∧ t.mem = s.mem)

/-- Where no lockstep mismatch discards it: ENEC and DISEC of event bit 0 set and clear ENINT; ENTAS0 to ENTAS3
have no effect; RSTDAA takes the address away; ENTDAA, SETAASA and SETDASA give a target without an address
one, ENTDAA after its 64 bits; SETNEWDA changes it; ENTHDR0 and the HDR exit set and clear HDR; each GET code
returns its bytes and changes nothing else but that GETSTATUS clears the protocol error. -/
def Obligations.CommonCommandCodesAct : Prop :=
  ∀ s : State, s.faults.discard = false →
    (∀ ev, ev.testBit 0 = true →
      (∃ t, exec (.enec ev) s = .next t ∧ t = { s with regs := t.regs } ∧ t.bit Reg.MGT_I3C 15 = true) ∧
      ∃ t, exec (.disec ev) s = .next t ∧ t = { s with regs := t.regs } ∧ t.bit Reg.MGT_I3C 15 = false) ∧
    (∀ k, exec (.entas k) s = .next s) ∧
    (∃ t, exec .rstdaa s = .next t ∧ t = { s with regs := t.regs } ∧ t.addressed = false ∧
      t.fld Reg.MGT_I3C 0 7 = 0 ∧ t.bit Reg.MGT_I3C 15 = false) ∧
    (∀ da, da < 128 →
      (s.addressed = false →
        (∃ t, exec (.entdaa da) s = .next t ∧ t.addressed = true ∧ t.fld Reg.MGT_I3C 0 7 = da ∧
          t.i3c.reply = s.provisionedId ++ [0x06, 0x00]) ∧
        (∃ t, exec .setaasa s = .next t ∧ t.addressed = true ∧
          t.fld Reg.MGT_I3C 0 7 = s.fld Reg.MGT_I3C 8 7) ∧
        ∃ t, exec (.setdasa da) s = .next t ∧ t.addressed = true ∧ t.fld Reg.MGT_I3C 0 7 = da) ∧
      (s.addressed = true → ∃ t, exec (.setnewda da) s = .next t ∧ t.addressed = true ∧
        t.fld Reg.MGT_I3C 0 7 = da ∧ t.i3c.response = [])) ∧
    (∃ t, exec .enthdr0 s = .next t ∧ t = { s with regs := t.regs } ∧ t.bit Reg.MGT_I3C 16 = true) ∧
    (∃ t, exec .hdrExit s = .next t ∧ t = { s with regs := t.regs } ∧ t.bit Reg.MGT_I3C 16 = false) ∧
    (∀ (i : Instr) (bs : List Byte), (i, bs) ∈ [(Instr.getmwl, [1, 7]), (.getmrl, [1, 7, 5]),
        (.getpid, s.provisionedId), (.getbcr, [0x06]), (.getdcr, [0x00]), (.getmxds, [0x00, 0x00]),
        (.getcaps, [0x01, 0x00])] → exec i s = .next { s with i3c := { s.i3c with reply := bs } }) ∧
    ∃ t, exec .getstatus s = .next t ∧ t = { s with i3c := t.i3c } ∧ t.i3c.reply.length = 2 ∧
      t.i3c.err = false ∧ t.i3c.response = s.i3c.response

/-- Where no lockstep mismatch discards it, for a target with an address: a READ frame of one word returns the
status and the word of the access, a WRITE frame of one word performs it and returns its status, each with its
CRC-8; a frame whose CRC fails is counted and answered with CRCERR. A private read returns the last response.
An echo count is set. An in-band interrupt that is sent and accepted for a record announces that record once. -/
def Obligations.FramesAreAnsweredOverI3c : Prop :=
  ∀ s : State, s.faults.discard = false →
    (∀ count, ∃ t, exec (.echo count) s = .next t ∧ t = { s with regs := t.regs } ∧
      t.fld Reg.MGT_I3CTEST 0 8 = count % 256) ∧
    (s.addressed = true → s.fld Reg.MGT_I3CTEST 0 8 = 0 → ∀ a leg, a < 2 ^ 32 →
      let s1 := s.measureLeg a leg
      (let r := s1.ctlRead 0x39 a
        ∃ t, exec (.read (withCrc ([2, 1] ++ leBytes 4 a)) leg) s = .next t ∧
          t = { r.2.2 with i3c := t.i3c } ∧
          t.i3c.response = withCrc ([BitVec.ofNat 8 r.1, 1] ++ leBytes 4 r.2.1.toNat)) ∧
      (∀ w : Word, let r := s1.ctlWrite 0x39 a w
        ∃ t, exec (.write (withCrc ([1, 1] ++ leBytes 4 a ++ leBytes 4 w.toNat)) leg) s = .next t ∧
          t = { r.2 with i3c := t.i3c } ∧ t.i3c.response = withCrc [BitVec.ofNat 8 r.1, 0]) ∧
      ∀ bs crc, bs ≠ [] → s.bit Reg.MGT_I3C 16 = false → crc ≠ BitVec.ofNat 8 (crc8 bs) →
        ∃ t, exec (.write (bs ++ [crc]) leg) s = .next t ∧ t.i3c.err = true ∧
          t.i3c.response = withCrc [0x01, 0x00] ∧
          t.fld Reg.MGT_ACC 16 16 = min (s.fld Reg.MGT_ACC 16 16 + 1) 65535 ∧ t.mem = s.mem) ∧
    (s.addressed = true → s.bit Reg.MGT_I3C 16 = false → s.i3c.response ≠ [] →
      exec (.responseRead false) s = .next { s with i3c := { s.i3c with reply := s.i3c.response } }) ∧
    (s.addressed = true → s.bit Reg.MGT_I3C 15 = true → ∀ x, s.nextAnnouncement = some x →
      (∃ t, exec (.ibi false) s = .next t ∧ t.i3c.out = some x ∧ t.i3c.reply = s.ibiBytes x ∧
        t.fld Reg.MGT_IBI 16 8 = min (s.fld Reg.MGT_IBI 16 8 + 1) 255 ∧ t.faults = s.faults) ∧
      ∃ t, exec (.ibi true) s = .next t ∧ t.i3c.out = none ∧ t.i3c.reply = s.ibiBytes x ∧
        t.fld Reg.MGT_IBI 24 8 = (s.fld Reg.MGT_IBI 24 8 + 1) % 256 ∧
        ∀ r, x = .record r → t.faults.queue = markSent r s.faults.queue)

/-- Where no lockstep mismatch holds the sequencer and the predicate lets the step run: READ and DELTA fill a
value slot, WRITE and RMW write a register, TEST sets P, RECORD raises 0x0D05 in the class that it names,
COMMIT commits its groups. A step of a predicate that does not hold does nothing more. A step that a mismatch
discards waits for the next epoch program. An epoch program of a started device, at the epoch tick's slot and
from cycle 64 where the data plane runs, completes a telemetry snapshot of the configured length and keeps the
last one. -/
def Obligations.SequencerStepsAct : Prop :=
  ∀ (s : State) (p i : Nat) (x : SeqStep),
    let s1 := s.atStep p i
    let a := x.w1.toNat
    (s.faults.discard = false → s.faults.repeatStep = false →
      (bitOf x.w0 4 = false ∨ s1.seq.p = true →
        (∃ t, exec (.seqRead p i x) s = .next t ∧ t.valueSlot x.slot = (s1.ctlRead 0x38 a).2.1) ∧
        (∃ t, exec (.delta p i x) s = .next t ∧
          t.valueSlot x.slot = (s1.ctlRead 0x38 a).2.1 - (s1.ctlRead 0x38 a).2.2.valueSlot x.slot) ∧
        exec (.seqWrite p i x) s
          = .next (s1.ctlWrite 0x38 a (if bitOf x.w0 5 then s1.valueSlot x.slot else x.w2)).2 ∧
        (let r := s1.ctlRead 0x38 a;
          exec (.rmw p i x) s = .next (r.2.2.ctlWrite 0x38 a ((r.2.1 &&& ~~~x.w3) ||| (x.w2 &&& x.w3))).2) ∧
        (∃ t, exec (.test p i x) s = .next t ∧ t = { s1 with seq := t.seq } ∧
          t.seq.p = compares (bitsOf x.w0 10 2) (s1.valueSlot x.slot &&& x.w3) x.w2) ∧
        (∃ t, exec (.record p i x) s = .next t ∧ t.mem = s.mem ∧
          (bitsOf x.w0 12 2 = 0 → t.fld Reg.FLT_CNTM 0 32 = min (s.fld Reg.FLT_CNTM 0 32 + 1) (2 ^ 32 - 1)) ∧
          (bitsOf x.w0 12 2 = 1 → t.fld Reg.FLT_CNTD 0 32 = min (s.fld Reg.FLT_CNTD 0 32 + 1) (2 ^ 32 - 1)) ∧
          (bitsOf x.w0 12 2 = 2 → t.bit Reg.FLT_FATAL 31 = true) ∧ (bitsOf x.w0 12 2 = 3 → t = s1)) ∧
        exec (.seqCommit p i x) s = .next (s1.ctlWrite 0x38 Reg.MGT_COMMIT x.w2).2) ∧
      (bitOf x.w0 4 = true → s1.seq.p = false → ∀ f ∈ [Instr.seqRead, .seqWrite, .rmw, .delta, .test, .record,
        .seqCommit], exec (f p i x) s = .next s1)) ∧
    (s.faults.discard = true ∨ s.faults.repeatStep = true → ∃ t, exec (.seqRead p i x) s = .next t ∧
      t.seq.deferred = s.seq.deferred ++ [(p, i, x.as_ 1)] ∧ t.faults.discard = false ∧
      t.faults.repeatStep = false ∧ t.regs = s.regs) ∧
    ∀ run leg, s.started = true → (s.clock.running = true → s.slot % max 1 s.spe = 0) →
      let s2 := if s.clock.running then s.reach 64 else s
      ∃ t, exec (.epochProgram run leg) s = .next t ∧
      t.seq.standby = s2.seq.complete ∧ t.seq.complete.length = min 256 (s2.fld Reg.MGT_TLMCFG 0 9)

/-- An activation leaves in force exactly the committed loop-backs and patterns of interfaces out of use. A
checker that is active in a region that answers locks and counts errors up to 2^32 - 1, and a locked one loses
its lock. EXTEST, EXTEST_PULSE, EXTEST_TRAIN, HIGHZ and CLAMP act in management-only operation and before step
5, and are BYPASS at any other time; SAMPLE/PRELOAD, IDCODE and BYPASS leave the balls to the device; a test
logic reset selects IDCODE. -/
def Obligations.TestModesTakeForce : Prop :=
  ∀ s : State,
    (∃ t, exec .loopbackActivate s = .next t ∧
      t.test.loops = loopIds.filter (fun l => s.loopWanted l && !s.inUse l) ∧
      t.test.prbs = prbsIds.filter (fun l => s.prbsWanted l && !s.laneInUse l) ∧
      t = { s with regs := t.regs, test := t.test }) ∧
    (∀ l e u, (l ∈ prbsIds → s.checking l = true → s.laneServed l = true → ∃ t, exec (.prbsLock l e u) s = .next t ∧
        t = { s with regs := t.regs } ∧ t.locked l = true ∧
        ∀ n, l = .jesd n → t.fld (winKey n Reg.RAD_PRBSERR) 0 32
          = min (s.fld (winKey n Reg.RAD_PRBSERR) 0 32 + e) (2 ^ 32 - 1)) ∧
      (s.locked l = true → s.laneServed l = true → ∃ t, exec (.prbsLossOfLock l e u) s = .next t ∧
        t = { s with regs := t.regs } ∧ t.locked l = false)) ∧
    (∀ sampled data (i : Instr) (op : Nat),
      (i, op) ∈ [(Instr.extest sampled data, 0x00), (.extestPulse sampled data, 0x09),
        (.extestTrain sampled data, 0x0A)] →
      (s.scanAllowed = true → ∃ t, exec i s = .next t ∧ t = { s with test := t.test, pins := t.pins } ∧
        t.test.tap = op ∧ t.test.boundary = data ∧ t.test.dr = sampled ∧ t.pins.scan = some data ∧
        t.pins.highZ = false) ∧
      (s.scanAllowed = false → exec i s = exec .bypass s)) ∧
    (s.scanAllowed = true →
      (∃ t, exec .highz s = .next t ∧ t.pins.highZ = true ∧ t.pins.scan = none ∧ t.test.tap = 5 ∧
        t.regs = s.regs) ∧
      ∃ t, exec .clamp s = .next t ∧ t.pins.scan = some s.test.boundary ∧ t.test.tap = 6 ∧ t.regs = s.regs) ∧
    (∀ sampled data, ∃ t, exec (.samplePreload sampled data) s = .next t ∧ t.test.boundary = data ∧
      t.test.dr = sampled ∧ t.test.tap = 2 ∧ t.pins.scan = none ∧ t.pins.highZ = false) ∧
    (∃ t, exec .idcode s = .next t ∧ t.test.dr = 0xB0940B47 ∧ t.test.tap = 1 ∧ t.pins.scan = none) ∧
    (∃ t, exec .bypass s = .next t ∧ t.test.tap = 0xFF ∧ t.pins.scan = none ∧ t.pins.highZ = false ∧
      t.regs = s.regs) ∧
    (s.start.held = false → exec .testLogicReset s = exec .idcode s ∧
      ∃ t, exec .testLogicReset s = .next t ∧ t.test.tap = 1 ∧ t.pins.scan = none ∧ t.pins.highZ = false)

/-- Where no lockstep mismatch discards it and the region of the clear answers, each clear command leaves 0 in
every register that it names, every register that it does not name as it was once what was due had happened,
and memory, queues and contexts untouched. A clear of a unit that the part's grade lacks is counted as
unassigned. Where no lockstep mismatch discards it and its region answers: CDC_CLR clears the two counters of
CDC.RQ, RAD_CLR the SYSREF counter, MGT_CLR the announcement and overrun counters, NET_CLR the frame counter
of each port's status, and PWR_CLR the largest mean power; the fields below them in the same registers stay. -/
def Obligations.ClearsSetFieldsToZero : Prop :=
  (∀ (s : State) (r u : Nat), s.faults.discard = false →
    ∀ (i : Instr) (at_ : Option Nat) (ks : List Nat), (i, at_, ks) ∈ clearTable s.catchUp r u →
      let s0 := if at_.isSome then s.catchUp else s
      (s.clearFits i = true → (∀ q, at_ = some q → s.served q = true) →
        ∃ t, exec i s = .next t ∧ (∀ k ∈ ks, t.reg k = 0) ∧
        (∀ k, k ∉ ks → k ∉ clearedFields → t.reg k = s0.reg k) ∧
        t = { s0 with regs := t.regs, ladles := t.ladles, slicers := t.slicers, swages := t.swages
                      radio := t.radio }) ∧
      (s.clearFits i = false → ∃ t, exec i s = .next t ∧ t.mem = s.mem ∧
        t.fld Reg.MGT_ACC 0 16 = min (s.fld Reg.MGT_ACC 0 16 + 1) 65535)) ∧
    (∀ s : State, s.faults.discard = false →
    let s1 := s.catchUp
    (s.served 10 = true → ∃ t, exec .cdcClr s = .next t ∧ t.fld Reg.CDC_RQ 8 8 = 0 ∧ t.fld Reg.CDC_RQ 16 8 = 0 ∧
      t.fld Reg.CDC_RQ 0 8 = s1.fld Reg.CDC_RQ 0 8 ∧ t.reg Reg.CDC_CB = 0) ∧
    (s.served 8 = true → ∃ t, exec .radClr s = .next t ∧ t.fld Reg.RAD_SYSREF 16 8 = 0 ∧
      t.fld Reg.RAD_SYSREF 0 16 = s1.fld Reg.RAD_SYSREF 0 16 ∧ t.reg Reg.RAD_CNT = 0) ∧
    (∃ t, exec .mgtClr s = .next t ∧ t.fld Reg.MGT_IBI 16 8 = 0 ∧ t.fld Reg.MGT_IBI 24 8 = s.fld Reg.MGT_IBI 24 8 ∧
      t.fld Reg.MGT_SEQSTAT 16 16 = 0 ∧ t.fld Reg.MGT_SEQSTAT 0 16 = s.fld Reg.MGT_SEQSTAT 0 16 ∧
      t.reg Reg.MGT_CCNT = 0 ∧ t.reg Reg.MGT_ACC = 0) ∧
    (s.served 9 = true → ∃ t, exec .netClr s = .next t ∧ ∀ p < 9, t.fld (winKey p Reg.NET_PSTAT) 16 16 = 0 ∧
      t.fld (winKey p Reg.NET_PSTAT) 0 16 = s1.fld (winKey p Reg.NET_PSTAT) 0 16 ∧ t.reg (winKey p Reg.NET_PCNT) = 0) ∧
    ∃ t, exec .pwrClr s = .next t ∧ t.fld Reg.PWR_MEAS 16 13 = 0 ∧
      t.fld Reg.PWR_MEAS 0 13 = s.fld Reg.PWR_MEAS 0 13)

/-- In SOLO and DETACHED, a read of TWN.VAR in a region that answers shows the active variant in LOSS, and a fall
of TWIN_PEER, a FATAL marker, a link loss, a takeover, a role swap and a SWAP notice leave the active variant
as it is. -/
def Obligations.AloneTheLossVariantIsTheRunningOne : Prop :=
  ∀ s : State, s.twinState = 0 ∨ s.twinState = 4 →
    (let s1 := s.catchUp;
      s1.served 12 = true → s1.powerState ≠ 3 → s1.twinState = s.twinState →
      bitsOf (s.ctlRead 0x39 Reg.TWN_VAR).2.1 16 16 = s1.active) ∧
    ∀ (byMarker : Bool) (lanes cycle n : Nat) (m : Marker) (gs : List Granule),
      ∀ i ∈ [Instr.twinPeerFall byMarker, .superframe cycle m gs, .swituLinkDown lanes, .takeover, .roleSwap,
        .swapNotice n], ∃ t, exec i s = .next t ∧ t.active = s.active ∧ t.curPlan = s.curPlan

/-- While NET answers, a message of the domain without an unsupported option: from the L2 port it is queued at
every fronthaul port of NET.PTPFWD.MASK, an Announce is heard by the slave, and a Sync of the selected master
leaves its ingress time; from a fronthaul port of the mask it is queued at the L2 port and at no other port,
and the slave does not change; from another fronthaul port it changes nothing. -/
def Obligations.PtpMessagesGoWhereTheRuleSays : Prop :=
  ∀ s : State, s.served 9 = true → ∀ (p stamp : Nat) (m : PtpMsg) (d : MasterSet),
    m.badOpt = false → m.domain = s.plan.net.domain → ∀ (i : Instr) (k : PtpKind) (a : Nat),
    (i, k, a) ∈ [(Instr.announce p m d, PtpKind.announce, 0), (.sync p m stamp, .sync, stamp),
      (.delayReq p m stamp, .delayReq, stamp), (.followUp p m, .followUp, 0)] →
    let x : Sent := .ptp { m with kind := k } (a - s.ptpLat p 0) false
    (p = 8 → ∃ t, exec i s = .next t ∧
      (∀ q < 8, s.bit Reg.NET_PTPFWD q = true →
        SMap.read [] t.net.egress q = SMap.read [] s.net.egress q ++ [x]) ∧
      (k = .announce → d ∈ t.time.slave.heard) ∧
      (k = .sync → s.fromMaster m = true → t.time.slave.t2 = ((stamp - s.ptpLat 8 0 : Nat) : Int))) ∧
    (p < 8 → s.bit Reg.NET_PTPFWD p = true → ∃ t, exec i s = .next t ∧
      SMap.read [] t.net.egress 8 = SMap.read [] s.net.egress 8 ++ [x] ∧
      (∀ q, q ≠ 8 → SMap.read [] t.net.egress q = SMap.read [] s.net.egress q) ∧ t.time = s.time) ∧
    (p < 8 → s.bit Reg.NET_PTPFWD p = false → exec i s = .next s)

/-- After IDCODE, and after a test logic reset that holds no start, the data register is a 32-bit word with
version 0xB, part 0x0940 in either grade, the manufacturer code 0x5A3 and bit 0 set. -/
def Obligations.IdcodeNamesTheStepping : Prop :=
  ∀ (s : State) (i : Instr), i = .idcode ∨ (i = .testLogicReset ∧ s.start.held = false) →
    ∃ t, exec i s = .next t ∧ t.test.dr < 2 ^ 32 ∧ t.test.dr / 2 ^ 28 = 0xB ∧
      t.test.dr / 2 ^ 12 % 2 ^ 16 = 0x0940 ∧ t.test.dr / 2 % 2 ^ 11 = 0x5A3 ∧ t.test.dr % 2 = 1

/-- Where an engine command answers a next state, the queue, the plan, the commits, the start, the security,
sequencer and I3C state, the time unit, the power state, the test state, flash and plan store are those before
it. The tiles of Planishers, the batches of Tinkers, the buffers of Swages, the tensors of Crucibles, the
vectors of Slicers, the RADIO and NET state and the transform engines' memory change only by a command of that
unit. -/
def Obligations.EngineCommandsLeaveOtherUnitsAlone : Prop :=
  ∀ (i : Instr) (s t : State), i.isEngine = true → exec i s = .next t →
    (t.pending = s.pending ∧ t.plan = s.plan ∧ t.commit = s.commit ∧ t.start = s.start ∧ t.sec = s.sec ∧
      t.seq = s.seq ∧ t.i3c = s.i3c ∧ t.time = s.time ∧ t.power = s.power ∧ t.test = s.test ∧
      t.mem.flash = s.mem.flash ∧ t.mem.store = s.mem.store) ∧
    ((∀ c, i ∉ [Instr.tload c, .tstore c, .ewise c, .reduce c]) → t.planishers = s.planishers) ∧
    ((∀ c, i ∉ [Instr.desc c, .lookup c, .sort c, .select c, .pack c, .crc c, .scramble c, .reenc c, .batch c,
      .fill c]) → t.tinkers = s.tinkers) ∧
    ((∀ c, i ≠ .transpose c) → t.swages = s.swages) ∧
    ((∀ c, i ∉ [Instr.openTensor c, .accum c, .flush c]) → t.crucibles = s.crucibles) ∧
    ((∀ c, i ∉ [Instr.vload c, .sweep c, .sout c]) → t.slicers = s.slicers) ∧
    ((∀ c, i ∉ [Instr.fft c, .ifft c, .fir c, .fetch c, .steer c]) → t.radio = s.radio ∧ t.mem.te = s.mem.te) ∧
    ((∀ c, i ∉ [Instr.uprx c, .uptx c, .cptx c, .l2tx c, .l2rx c]) → t.net = s.net)

/-- If the registers and every memory of a state are in canonical form, so are those of every state that a step
answers: keys rise strictly and no entry equals what an unlisted address reads as. -/
def Obligations.StepKeepsCanonicalForm : Prop :=
  ∀ s t : State, s.canonical = true → step s = .next t → t.canonical = true

/-- If every register that is staged or waits for its epoch tick has a field with access code RWS, that is so in
every state that a step answers. -/
def Obligations.StepKeepsStagedRegisters : Prop :=
  ∀ s t : State, s.stagedOnly = true → step s = .next t → t.stagedOnly = true

/-- Whatever a command does, the commands that wait are the same after it; only a step takes one from the front. -/
def Obligations.CommandsLeaveTheQueue : Prop :=
  ∀ (i : Instr) (s t : State), exec i s = .next t → t.pending = s.pending

end
end

