-- ==== Sys2Proof/Laws/Issue.lean ====
section
/-! SUPPORT. When an engine command issues: the outcome of `State.issue` is the condition `State.goes`. -/

namespace Sys2Proof.Machine

open Sys2Proof

/-- A spine fault does not stop an issue. -/
theorem State.meetSpine_go (x : Issue × State) (c : Cmd) : (State.meetSpine x c).1.go = x.1.go := by
  unfold State.meetSpine
  split <;> [split; skip] <;> rfl

/-- Nor does an error of the plan store. -/
theorem State.meetStore_go (x : Issue × State) (c : Cmd) (loc : BitVec 64) :
    (State.meetStore x c loc).1.go = x.1.go := by
  unfold State.meetStore
  split
  · rfl
  · split
    · rfl
    · split <;> rfl

/-- A data-plane command issues that starts before the slot tick. -/
theorem State.issueData_go (s : State) (c : Cmd) (loc : BitVec 64) (free : Nat) :
    (s.issueData c loc free).1.go = (decide (max c.issue free < s.slotLen) || decide (free ≤ c.issue)) := by
  unfold State.issueData
  simp only
  split
  · rename_i h
    simp [Issue.none] at *
    omega
  · rename_i h
    simp at *
    omega

/-- An elastic command issues as `goesElastic` says. -/
theorem State.issueElastic_go (s : State) (c : Cmd) (loc : BitVec 64) (free engine : Nat) :
    (s.issueElastic c loc free engine).1.go = s.goesElastic c free engine := by
  unfold State.issueElastic State.goesElastic
  simp only
  generalize s.skipVoidJob c.ctx = s
  generalize hc : (if s.exact = true then { c with cyc := ((s.ctx c.ctx).due.getD (0, 0)).2 } else c) = c'
  have ho : c'.ord = c.ord := by rw [← hc]; split <;> rfl
  have hr : c'.region = c.region := by rw [← hc]; split <;> rfl
  have hk : c'.ctx = c.ctx := by rw [← hc]; split <;> rfl
  have hi : c'.inputs = c.inputs := by rw [← hc]; split <;> rfl
  clear hc
  generalize s.openWindow c'.region (max c'.issue free) engine = o
  generalize hx : s.ctx c.ctx = x
  have hn {α : Type} (l : List α) (p : α → Bool) : (l.filter fun i => !p i).isEmpty = l.all p := by
    induction l with
    | nil => rfl
    | cons a l ih => cases h : p a <;> simp_all
  simp only [hn]
  generalize (c.inputs.all fun i => s.inputDone c.region (some c.ctx) i) = m
  have pushGo (p : Prop) [Decidable p] (u v : Issue × State) :
      (if p then u else v).1.go = if p then u.1.go else v.1.go := by split <;> rfl
  simp only [pushGo, Issue.none]
  generalize x.fills = f
  generalize x.queue.isEmpty = q
  generalize x.member.isSome = mm
  generalize decide (x.sliceEnd ≤ max c'.issue free) = sl
  cases o <;> cases hd : x.due <;> cases s.exact <;> cases q <;> cases f <;> cases mm <;> cases sl <;> cases m <;> simp <;> grind

/-- A command issues exactly where `goes` holds. -/
theorem State.issue_goes (s : State) (c : Cmd) (loc : BitVec 64) (free engine : Nat) :
    (s.issue c loc free engine).1.go = s.goes c free engine := by
  unfold State.issue State.goes
  simp only
  split
  · simp_all [Issue.none]
    intros; simp_all
  · rename_i h
    simp only [Bool.or_eq_true, Bool.not_eq_true', not_or, Bool.not_eq_false] at h
    simp only [State.meetStore_go, State.meetSpine_go, h, Bool.true_and]
    split
    · exact State.issueElastic_go ..
    · exact State.issueData_go ..

end Sys2Proof.Machine
end

