-- ==== Sys2Proof/Laws/State.lean ====
section
/-! SUPPORT. What each single-field update leaves: one lemma for each other field of the state, true by
definition, so that no later proof unfolds a record update. -/

namespace Sys2Proof.Machine

open Sys2Proof

variable (s : State)


/-! ## The form of each update -/

theorem State.setReg_form (k : Nat) (w : Word) : s.setReg k w = { s with regs := (s.setReg k w).regs } := rfl
theorem State.setFld_form (k lo n v : Nat) :
    s.setFld k lo n v = { s with regs := (s.setFld k lo n v).regs } := rfl
theorem State.setBit_form (k i : Nat) (b : Bool) :
    s.setBit k i b = { s with regs := (s.setBit k i b).regs } := rfl
theorem State.bump_form (k lo n v : Nat) : s.bump k lo n v = { s with regs := (s.bump k lo n v).regs } := rfl
theorem State.wrapAdd_form (k lo n v : Nat) :
    s.wrapAdd k lo n v = { s with regs := (s.wrapAdd k lo n v).regs } := rfl
theorem State.orFlags_form (k : Nat) (f : FlagWord) :
    s.orFlags k f = { s with regs := (s.orFlags k f).regs } := rfl
theorem State.setCtx_form (c : Nat) (x : Ctx) : s.setCtx c x = { s with els := (s.setCtx c x).els } := rfl
theorem State.onCtx_form (c : Nat) (f : Ctx → Ctx) : s.onCtx c f = { s with els := (s.onCtx c f).els } := rfl
theorem State.setLadle_form (r l : Nat) (x : Ladle) :
    s.setLadle r l x = { s with ladles := (s.setLadle r l x).ladles } := rfl
theorem State.cancelStreams_form (c : Nat) :
    s.cancelStreams c = { s with ladles := (s.cancelStreams c).ladles } := rfl
theorem State.setCell_form (g r b : Nat) (x : LedgerCell) :
    s.setCell g r b x = { s with ledger := (s.setCell g r b x).ledger } := rfl
theorem State.announce_form (k : Nat) (p : List Byte) :
    s.announce k p = { s with i3c := (s.announce k p).i3c } := rfl
theorem State.countJob_form (c k n : Nat) :
    s.countJob c k n = { s with regs := (s.countJob c k n).regs } := rfl
theorem State.setDeficit_form (r c : Nat) (d : Int) :
    s.setDeficit r c d = { s with els := (s.setDeficit r c d).els } := rfl
theorem State.charge_form (r c n : Nat) : s.charge r c n = { s with els := (s.charge r c n).els } := rfl
theorem State.setSwap_form (r : Nat) (x : Option Swapping) :
    s.setSwap r x = { s with els := (s.setSwap r x).els } := rfl
theorem State.setGrants_form (r : Nat) (g : List Grant) :
    s.setGrants r g = { s with els := (s.setGrants r g).els } := rfl
theorem State.setWaits_form (r : Nat) (w : List LeaveReq) :
    s.setWaits r w = { s with els := (s.setWaits r w).els } := rfl
theorem State.notify_form (k : Notice) (n : Nat) :
    s.notify k n = { s with twin := (s.notify k n).twin } := rfl
theorem State.setTwinState_form (v : Nat) :
    s.setTwinState v = { s with regs := (s.setTwinState v).regs } := rfl
theorem State.setLive_form (b : Bool) : s.setLive b = { s with regs := (s.setLive b).regs } := rfl
theorem State.setStandby_form (v : Nat) : s.setStandby v = { s with regs := (s.setStandby v).regs } := rfl
theorem State.setPowerState_form (v : Nat) :
    s.setPowerState v = { s with regs := (s.setPowerState v).regs } := rfl
theorem State.setTuState_form (v : Nat) : s.setTuState v = { s with regs := (s.setTuState v).regs } := rfl
theorem State.setSlave_form (x : Slave) : s.setSlave x = { s with time := (s.setSlave x).time } := rfl
theorem State.enqueue_form (p : Nat) (x : Sent) : s.enqueue p x = { s with net := (s.enqueue p x).net } := rfl
theorem State.setFlash_form (a : Nat) (b : List Byte) :
    s.setFlash a b = { s with mem := (s.setFlash a b).mem } := rfl
theorem State.answer_form (b : List Byte) : s.answer b = { s with i3c := (s.answer b).i3c } := rfl
theorem State.respond_form (t : Status) (w : List Word) :
    s.respond t w = { s with i3c := (s.respond t w).i3c } := rfl
theorem State.stage_form (k : Nat) (m v : Word) :
    s.stage k m v = { s with commit := (s.stage k m v).commit } := rfl
theorem State.setCrucible_form (r : Nat) (x : Crucible) :
    s.setCrucible r x = { s with crucibles := (s.setCrucible r x).crucibles } := rfl
theorem State.setSlicer_form (r : Nat) (x : Slicer) :
    s.setSlicer r x = { s with slicers := (s.setSlicer r x).slicers } := rfl
theorem State.setSwage_form (r : Nat) (x : Swage) :
    s.setSwage r x = { s with swages := (s.setSwage r x).swages } := rfl
theorem State.setAnvil_form (r a : Nat) (x : Anvil) :
    s.setAnvil r a x = { s with anvils := (s.setAnvil r a x).anvils } := rfl
theorem State.setPlanisher_form (r p : Nat) (x : Planisher) :
    s.setPlanisher r p x = { s with planishers := (s.setPlanisher r p x).planishers } := rfl
theorem State.setTinker_form (r t : Nat) (x : Tinker) :
    s.setTinker r t x = { s with tinkers := (s.setTinker r t x).tinkers } := rfl
theorem State.setChan_form (k : Nat) (x : Channel) :
    s.setChan k x = { s with chans := (s.setChan k x).chans } := rfl
theorem State.nvmResult_form (a b : Nat) : s.nvmResult a b = { s with regs := (s.nvmResult a b).regs } := rfl
theorem State.popRecord_form : s.popRecord = { s with faults := (s.popRecord).faults } := rfl
theorem State.measureLeg_form (a l : Nat) :
    s.measureLeg a l = { s with regs := (s.measureLeg a l).regs } := rfl

/-! ## `setReg` -/

@[simp] theorem State.setReg_pending (k : Nat) (w : Word) : (s.setReg k w).pending = s.pending := rfl
@[simp] theorem State.setReg_clock (k : Nat) (w : Word) : (s.setReg k w).clock = s.clock := rfl
@[simp] theorem State.setReg_commit (k : Nat) (w : Word) : (s.setReg k w).commit = s.commit := rfl
@[simp] theorem State.setReg_chans (k : Nat) (w : Word) : (s.setReg k w).chans = s.chans := rfl
@[simp] theorem State.setReg_taps (k : Nat) (w : Word) : (s.setReg k w).taps = s.taps := rfl
@[simp] theorem State.setReg_due (k : Nat) (w : Word) : (s.setReg k w).due = s.due := rfl
@[simp] theorem State.setReg_spine (k : Nat) (w : Word) : (s.setReg k w).spine = s.spine := rfl
@[simp] theorem State.setReg_faults (k : Nat) (w : Word) : (s.setReg k w).faults = s.faults := rfl
@[simp] theorem State.setReg_ledger (k : Nat) (w : Word) : (s.setReg k w).ledger = s.ledger := rfl
@[simp] theorem State.setReg_mem (k : Nat) (w : Word) : (s.setReg k w).mem = s.mem := rfl
@[simp] theorem State.setReg_hbm (k : Nat) (w : Word) : (s.setReg k w).hbm = s.hbm := rfl
@[simp] theorem State.setReg_ladles (k : Nat) (w : Word) : (s.setReg k w).ladles = s.ladles := rfl
@[simp] theorem State.setReg_running (k : Nat) (w : Word) : (s.setReg k w).running = s.running := rfl
@[simp] theorem State.setReg_signals (k : Nat) (w : Word) : (s.setReg k w).signals = s.signals := rfl
@[simp] theorem State.setReg_anvils (k : Nat) (w : Word) : (s.setReg k w).anvils = s.anvils := rfl
@[simp] theorem State.setReg_slicers (k : Nat) (w : Word) : (s.setReg k w).slicers = s.slicers := rfl
@[simp] theorem State.setReg_swages (k : Nat) (w : Word) : (s.setReg k w).swages = s.swages := rfl
@[simp] theorem State.setReg_crucibles (k : Nat) (w : Word) : (s.setReg k w).crucibles = s.crucibles := rfl
@[simp] theorem State.setReg_planishers (k : Nat) (w : Word) : (s.setReg k w).planishers = s.planishers := rfl
@[simp] theorem State.setReg_tinkers (k : Nat) (w : Word) : (s.setReg k w).tinkers = s.tinkers := rfl
@[simp] theorem State.setReg_plan (k : Nat) (w : Word) : (s.setReg k w).plan = s.plan := rfl
@[simp] theorem State.setReg_els (k : Nat) (w : Word) : (s.setReg k w).els = s.els := rfl
@[simp] theorem State.setReg_radio (k : Nat) (w : Word) : (s.setReg k w).radio = s.radio := rfl
@[simp] theorem State.setReg_code (k : Nat) (w : Word) : (s.setReg k w).code = s.code := rfl
@[simp] theorem State.setReg_train (k : Nat) (w : Word) : (s.setReg k w).train = s.train := rfl
@[simp] theorem State.setReg_net (k : Nat) (w : Word) : (s.setReg k w).net = s.net := rfl
@[simp] theorem State.setReg_time (k : Nat) (w : Word) : (s.setReg k w).time = s.time := rfl
@[simp] theorem State.setReg_twin (k : Nat) (w : Word) : (s.setReg k w).twin = s.twin := rfl
@[simp] theorem State.setReg_power (k : Nat) (w : Word) : (s.setReg k w).power = s.power := rfl
@[simp] theorem State.setReg_start (k : Nat) (w : Word) : (s.setReg k w).start = s.start := rfl
@[simp] theorem State.setReg_sec (k : Nat) (w : Word) : (s.setReg k w).sec = s.sec := rfl
@[simp] theorem State.setReg_seq (k : Nat) (w : Word) : (s.setReg k w).seq = s.seq := rfl
@[simp] theorem State.setReg_i3c (k : Nat) (w : Word) : (s.setReg k w).i3c = s.i3c := rfl
@[simp] theorem State.setReg_test (k : Nat) (w : Word) : (s.setReg k w).test = s.test := rfl
@[simp] theorem State.setReg_pins (k : Nat) (w : Word) : (s.setReg k w).pins = s.pins := rfl
@[simp] theorem State.setReg_free (k : Nat) (w : Word) : (s.setReg k w).free = s.free := rfl
@[simp] theorem State.setReg_drawn (k : Nat) (w : Word) : (s.setReg k w).drawn = s.drawn := rfl

/-! ## `setFld` -/

@[simp] theorem State.setFld_pending (k lo n v : Nat) : (s.setFld k lo n v).pending = s.pending := rfl
@[simp] theorem State.setFld_clock (k lo n v : Nat) : (s.setFld k lo n v).clock = s.clock := rfl
@[simp] theorem State.setFld_commit (k lo n v : Nat) : (s.setFld k lo n v).commit = s.commit := rfl
@[simp] theorem State.setFld_chans (k lo n v : Nat) : (s.setFld k lo n v).chans = s.chans := rfl
@[simp] theorem State.setFld_taps (k lo n v : Nat) : (s.setFld k lo n v).taps = s.taps := rfl
@[simp] theorem State.setFld_due (k lo n v : Nat) : (s.setFld k lo n v).due = s.due := rfl
@[simp] theorem State.setFld_spine (k lo n v : Nat) : (s.setFld k lo n v).spine = s.spine := rfl
@[simp] theorem State.setFld_faults (k lo n v : Nat) : (s.setFld k lo n v).faults = s.faults := rfl
@[simp] theorem State.setFld_ledger (k lo n v : Nat) : (s.setFld k lo n v).ledger = s.ledger := rfl
@[simp] theorem State.setFld_mem (k lo n v : Nat) : (s.setFld k lo n v).mem = s.mem := rfl
@[simp] theorem State.setFld_hbm (k lo n v : Nat) : (s.setFld k lo n v).hbm = s.hbm := rfl
@[simp] theorem State.setFld_ladles (k lo n v : Nat) : (s.setFld k lo n v).ladles = s.ladles := rfl
@[simp] theorem State.setFld_running (k lo n v : Nat) : (s.setFld k lo n v).running = s.running := rfl
@[simp] theorem State.setFld_signals (k lo n v : Nat) : (s.setFld k lo n v).signals = s.signals := rfl
@[simp] theorem State.setFld_anvils (k lo n v : Nat) : (s.setFld k lo n v).anvils = s.anvils := rfl
@[simp] theorem State.setFld_slicers (k lo n v : Nat) : (s.setFld k lo n v).slicers = s.slicers := rfl
@[simp] theorem State.setFld_swages (k lo n v : Nat) : (s.setFld k lo n v).swages = s.swages := rfl
@[simp] theorem State.setFld_crucibles (k lo n v : Nat) : (s.setFld k lo n v).crucibles = s.crucibles := rfl
@[simp] theorem State.setFld_planishers (k lo n v : Nat) :
    (s.setFld k lo n v).planishers = s.planishers := rfl
@[simp] theorem State.setFld_tinkers (k lo n v : Nat) : (s.setFld k lo n v).tinkers = s.tinkers := rfl
@[simp] theorem State.setFld_plan (k lo n v : Nat) : (s.setFld k lo n v).plan = s.plan := rfl
@[simp] theorem State.setFld_els (k lo n v : Nat) : (s.setFld k lo n v).els = s.els := rfl
@[simp] theorem State.setFld_radio (k lo n v : Nat) : (s.setFld k lo n v).radio = s.radio := rfl
@[simp] theorem State.setFld_code (k lo n v : Nat) : (s.setFld k lo n v).code = s.code := rfl
@[simp] theorem State.setFld_train (k lo n v : Nat) : (s.setFld k lo n v).train = s.train := rfl
@[simp] theorem State.setFld_net (k lo n v : Nat) : (s.setFld k lo n v).net = s.net := rfl
@[simp] theorem State.setFld_time (k lo n v : Nat) : (s.setFld k lo n v).time = s.time := rfl
@[simp] theorem State.setFld_twin (k lo n v : Nat) : (s.setFld k lo n v).twin = s.twin := rfl
@[simp] theorem State.setFld_power (k lo n v : Nat) : (s.setFld k lo n v).power = s.power := rfl
@[simp] theorem State.setFld_start (k lo n v : Nat) : (s.setFld k lo n v).start = s.start := rfl
@[simp] theorem State.setFld_sec (k lo n v : Nat) : (s.setFld k lo n v).sec = s.sec := rfl
@[simp] theorem State.setFld_seq (k lo n v : Nat) : (s.setFld k lo n v).seq = s.seq := rfl
@[simp] theorem State.setFld_i3c (k lo n v : Nat) : (s.setFld k lo n v).i3c = s.i3c := rfl
@[simp] theorem State.setFld_test (k lo n v : Nat) : (s.setFld k lo n v).test = s.test := rfl
@[simp] theorem State.setFld_pins (k lo n v : Nat) : (s.setFld k lo n v).pins = s.pins := rfl
@[simp] theorem State.setFld_free (k lo n v : Nat) : (s.setFld k lo n v).free = s.free := rfl
@[simp] theorem State.setFld_drawn (k lo n v : Nat) : (s.setFld k lo n v).drawn = s.drawn := rfl

/-! ## `setBit` -/

@[simp] theorem State.setBit_pending (k i : Nat) (b : Bool) : (s.setBit k i b).pending = s.pending := rfl
@[simp] theorem State.setBit_clock (k i : Nat) (b : Bool) : (s.setBit k i b).clock = s.clock := rfl
@[simp] theorem State.setBit_commit (k i : Nat) (b : Bool) : (s.setBit k i b).commit = s.commit := rfl
@[simp] theorem State.setBit_chans (k i : Nat) (b : Bool) : (s.setBit k i b).chans = s.chans := rfl
@[simp] theorem State.setBit_taps (k i : Nat) (b : Bool) : (s.setBit k i b).taps = s.taps := rfl
@[simp] theorem State.setBit_due (k i : Nat) (b : Bool) : (s.setBit k i b).due = s.due := rfl
@[simp] theorem State.setBit_spine (k i : Nat) (b : Bool) : (s.setBit k i b).spine = s.spine := rfl
@[simp] theorem State.setBit_faults (k i : Nat) (b : Bool) : (s.setBit k i b).faults = s.faults := rfl
@[simp] theorem State.setBit_ledger (k i : Nat) (b : Bool) : (s.setBit k i b).ledger = s.ledger := rfl
@[simp] theorem State.setBit_mem (k i : Nat) (b : Bool) : (s.setBit k i b).mem = s.mem := rfl
@[simp] theorem State.setBit_hbm (k i : Nat) (b : Bool) : (s.setBit k i b).hbm = s.hbm := rfl
@[simp] theorem State.setBit_ladles (k i : Nat) (b : Bool) : (s.setBit k i b).ladles = s.ladles := rfl
@[simp] theorem State.setBit_running (k i : Nat) (b : Bool) : (s.setBit k i b).running = s.running := rfl
@[simp] theorem State.setBit_signals (k i : Nat) (b : Bool) : (s.setBit k i b).signals = s.signals := rfl
@[simp] theorem State.setBit_anvils (k i : Nat) (b : Bool) : (s.setBit k i b).anvils = s.anvils := rfl
@[simp] theorem State.setBit_slicers (k i : Nat) (b : Bool) : (s.setBit k i b).slicers = s.slicers := rfl
@[simp] theorem State.setBit_swages (k i : Nat) (b : Bool) : (s.setBit k i b).swages = s.swages := rfl
@[simp] theorem State.setBit_crucibles (k i : Nat) (b : Bool) :
    (s.setBit k i b).crucibles = s.crucibles := rfl
@[simp] theorem State.setBit_planishers (k i : Nat) (b : Bool) :
    (s.setBit k i b).planishers = s.planishers := rfl
@[simp] theorem State.setBit_tinkers (k i : Nat) (b : Bool) : (s.setBit k i b).tinkers = s.tinkers := rfl
@[simp] theorem State.setBit_plan (k i : Nat) (b : Bool) : (s.setBit k i b).plan = s.plan := rfl
@[simp] theorem State.setBit_els (k i : Nat) (b : Bool) : (s.setBit k i b).els = s.els := rfl
@[simp] theorem State.setBit_radio (k i : Nat) (b : Bool) : (s.setBit k i b).radio = s.radio := rfl
@[simp] theorem State.setBit_code (k i : Nat) (b : Bool) : (s.setBit k i b).code = s.code := rfl
@[simp] theorem State.setBit_train (k i : Nat) (b : Bool) : (s.setBit k i b).train = s.train := rfl
@[simp] theorem State.setBit_net (k i : Nat) (b : Bool) : (s.setBit k i b).net = s.net := rfl
@[simp] theorem State.setBit_time (k i : Nat) (b : Bool) : (s.setBit k i b).time = s.time := rfl
@[simp] theorem State.setBit_twin (k i : Nat) (b : Bool) : (s.setBit k i b).twin = s.twin := rfl
@[simp] theorem State.setBit_power (k i : Nat) (b : Bool) : (s.setBit k i b).power = s.power := rfl
@[simp] theorem State.setBit_start (k i : Nat) (b : Bool) : (s.setBit k i b).start = s.start := rfl
@[simp] theorem State.setBit_sec (k i : Nat) (b : Bool) : (s.setBit k i b).sec = s.sec := rfl
@[simp] theorem State.setBit_seq (k i : Nat) (b : Bool) : (s.setBit k i b).seq = s.seq := rfl
@[simp] theorem State.setBit_i3c (k i : Nat) (b : Bool) : (s.setBit k i b).i3c = s.i3c := rfl
@[simp] theorem State.setBit_test (k i : Nat) (b : Bool) : (s.setBit k i b).test = s.test := rfl
@[simp] theorem State.setBit_pins (k i : Nat) (b : Bool) : (s.setBit k i b).pins = s.pins := rfl
@[simp] theorem State.setBit_free (k i : Nat) (b : Bool) : (s.setBit k i b).free = s.free := rfl
@[simp] theorem State.setBit_drawn (k i : Nat) (b : Bool) : (s.setBit k i b).drawn = s.drawn := rfl

/-! ## `bump` -/

@[simp] theorem State.bump_pending (k lo n v : Nat) : (s.bump k lo n v).pending = s.pending := rfl
@[simp] theorem State.bump_clock (k lo n v : Nat) : (s.bump k lo n v).clock = s.clock := rfl
@[simp] theorem State.bump_commit (k lo n v : Nat) : (s.bump k lo n v).commit = s.commit := rfl
@[simp] theorem State.bump_chans (k lo n v : Nat) : (s.bump k lo n v).chans = s.chans := rfl
@[simp] theorem State.bump_taps (k lo n v : Nat) : (s.bump k lo n v).taps = s.taps := rfl
@[simp] theorem State.bump_due (k lo n v : Nat) : (s.bump k lo n v).due = s.due := rfl
@[simp] theorem State.bump_spine (k lo n v : Nat) : (s.bump k lo n v).spine = s.spine := rfl
@[simp] theorem State.bump_faults (k lo n v : Nat) : (s.bump k lo n v).faults = s.faults := rfl
@[simp] theorem State.bump_ledger (k lo n v : Nat) : (s.bump k lo n v).ledger = s.ledger := rfl
@[simp] theorem State.bump_mem (k lo n v : Nat) : (s.bump k lo n v).mem = s.mem := rfl
@[simp] theorem State.bump_hbm (k lo n v : Nat) : (s.bump k lo n v).hbm = s.hbm := rfl
@[simp] theorem State.bump_ladles (k lo n v : Nat) : (s.bump k lo n v).ladles = s.ladles := rfl
@[simp] theorem State.bump_running (k lo n v : Nat) : (s.bump k lo n v).running = s.running := rfl
@[simp] theorem State.bump_signals (k lo n v : Nat) : (s.bump k lo n v).signals = s.signals := rfl
@[simp] theorem State.bump_anvils (k lo n v : Nat) : (s.bump k lo n v).anvils = s.anvils := rfl
@[simp] theorem State.bump_slicers (k lo n v : Nat) : (s.bump k lo n v).slicers = s.slicers := rfl
@[simp] theorem State.bump_swages (k lo n v : Nat) : (s.bump k lo n v).swages = s.swages := rfl
@[simp] theorem State.bump_crucibles (k lo n v : Nat) : (s.bump k lo n v).crucibles = s.crucibles := rfl
@[simp] theorem State.bump_planishers (k lo n v : Nat) : (s.bump k lo n v).planishers = s.planishers := rfl
@[simp] theorem State.bump_tinkers (k lo n v : Nat) : (s.bump k lo n v).tinkers = s.tinkers := rfl
@[simp] theorem State.bump_plan (k lo n v : Nat) : (s.bump k lo n v).plan = s.plan := rfl
@[simp] theorem State.bump_els (k lo n v : Nat) : (s.bump k lo n v).els = s.els := rfl
@[simp] theorem State.bump_radio (k lo n v : Nat) : (s.bump k lo n v).radio = s.radio := rfl
@[simp] theorem State.bump_code (k lo n v : Nat) : (s.bump k lo n v).code = s.code := rfl
@[simp] theorem State.bump_train (k lo n v : Nat) : (s.bump k lo n v).train = s.train := rfl
@[simp] theorem State.bump_net (k lo n v : Nat) : (s.bump k lo n v).net = s.net := rfl
@[simp] theorem State.bump_time (k lo n v : Nat) : (s.bump k lo n v).time = s.time := rfl
@[simp] theorem State.bump_twin (k lo n v : Nat) : (s.bump k lo n v).twin = s.twin := rfl
@[simp] theorem State.bump_power (k lo n v : Nat) : (s.bump k lo n v).power = s.power := rfl
@[simp] theorem State.bump_start (k lo n v : Nat) : (s.bump k lo n v).start = s.start := rfl
@[simp] theorem State.bump_sec (k lo n v : Nat) : (s.bump k lo n v).sec = s.sec := rfl
@[simp] theorem State.bump_seq (k lo n v : Nat) : (s.bump k lo n v).seq = s.seq := rfl
@[simp] theorem State.bump_i3c (k lo n v : Nat) : (s.bump k lo n v).i3c = s.i3c := rfl
@[simp] theorem State.bump_test (k lo n v : Nat) : (s.bump k lo n v).test = s.test := rfl
@[simp] theorem State.bump_pins (k lo n v : Nat) : (s.bump k lo n v).pins = s.pins := rfl
@[simp] theorem State.bump_free (k lo n v : Nat) : (s.bump k lo n v).free = s.free := rfl
@[simp] theorem State.bump_drawn (k lo n v : Nat) : (s.bump k lo n v).drawn = s.drawn := rfl

/-! ## `wrapAdd` -/

@[simp] theorem State.wrapAdd_pending (k lo n v : Nat) : (s.wrapAdd k lo n v).pending = s.pending := rfl
@[simp] theorem State.wrapAdd_clock (k lo n v : Nat) : (s.wrapAdd k lo n v).clock = s.clock := rfl
@[simp] theorem State.wrapAdd_commit (k lo n v : Nat) : (s.wrapAdd k lo n v).commit = s.commit := rfl
@[simp] theorem State.wrapAdd_chans (k lo n v : Nat) : (s.wrapAdd k lo n v).chans = s.chans := rfl
@[simp] theorem State.wrapAdd_taps (k lo n v : Nat) : (s.wrapAdd k lo n v).taps = s.taps := rfl
@[simp] theorem State.wrapAdd_due (k lo n v : Nat) : (s.wrapAdd k lo n v).due = s.due := rfl
@[simp] theorem State.wrapAdd_spine (k lo n v : Nat) : (s.wrapAdd k lo n v).spine = s.spine := rfl
@[simp] theorem State.wrapAdd_faults (k lo n v : Nat) : (s.wrapAdd k lo n v).faults = s.faults := rfl
@[simp] theorem State.wrapAdd_ledger (k lo n v : Nat) : (s.wrapAdd k lo n v).ledger = s.ledger := rfl
@[simp] theorem State.wrapAdd_mem (k lo n v : Nat) : (s.wrapAdd k lo n v).mem = s.mem := rfl
@[simp] theorem State.wrapAdd_hbm (k lo n v : Nat) : (s.wrapAdd k lo n v).hbm = s.hbm := rfl
@[simp] theorem State.wrapAdd_ladles (k lo n v : Nat) : (s.wrapAdd k lo n v).ladles = s.ladles := rfl
@[simp] theorem State.wrapAdd_running (k lo n v : Nat) : (s.wrapAdd k lo n v).running = s.running := rfl
@[simp] theorem State.wrapAdd_signals (k lo n v : Nat) : (s.wrapAdd k lo n v).signals = s.signals := rfl
@[simp] theorem State.wrapAdd_anvils (k lo n v : Nat) : (s.wrapAdd k lo n v).anvils = s.anvils := rfl
@[simp] theorem State.wrapAdd_slicers (k lo n v : Nat) : (s.wrapAdd k lo n v).slicers = s.slicers := rfl
@[simp] theorem State.wrapAdd_swages (k lo n v : Nat) : (s.wrapAdd k lo n v).swages = s.swages := rfl
@[simp] theorem State.wrapAdd_crucibles (k lo n v : Nat) : (s.wrapAdd k lo n v).crucibles = s.crucibles := rfl
@[simp] theorem State.wrapAdd_planishers (k lo n v : Nat) :
    (s.wrapAdd k lo n v).planishers = s.planishers := rfl
@[simp] theorem State.wrapAdd_tinkers (k lo n v : Nat) : (s.wrapAdd k lo n v).tinkers = s.tinkers := rfl
@[simp] theorem State.wrapAdd_plan (k lo n v : Nat) : (s.wrapAdd k lo n v).plan = s.plan := rfl
@[simp] theorem State.wrapAdd_els (k lo n v : Nat) : (s.wrapAdd k lo n v).els = s.els := rfl
@[simp] theorem State.wrapAdd_radio (k lo n v : Nat) : (s.wrapAdd k lo n v).radio = s.radio := rfl
@[simp] theorem State.wrapAdd_code (k lo n v : Nat) : (s.wrapAdd k lo n v).code = s.code := rfl
@[simp] theorem State.wrapAdd_train (k lo n v : Nat) : (s.wrapAdd k lo n v).train = s.train := rfl
@[simp] theorem State.wrapAdd_net (k lo n v : Nat) : (s.wrapAdd k lo n v).net = s.net := rfl
@[simp] theorem State.wrapAdd_time (k lo n v : Nat) : (s.wrapAdd k lo n v).time = s.time := rfl
@[simp] theorem State.wrapAdd_twin (k lo n v : Nat) : (s.wrapAdd k lo n v).twin = s.twin := rfl
@[simp] theorem State.wrapAdd_power (k lo n v : Nat) : (s.wrapAdd k lo n v).power = s.power := rfl
@[simp] theorem State.wrapAdd_start (k lo n v : Nat) : (s.wrapAdd k lo n v).start = s.start := rfl
@[simp] theorem State.wrapAdd_sec (k lo n v : Nat) : (s.wrapAdd k lo n v).sec = s.sec := rfl
@[simp] theorem State.wrapAdd_seq (k lo n v : Nat) : (s.wrapAdd k lo n v).seq = s.seq := rfl
@[simp] theorem State.wrapAdd_i3c (k lo n v : Nat) : (s.wrapAdd k lo n v).i3c = s.i3c := rfl
@[simp] theorem State.wrapAdd_test (k lo n v : Nat) : (s.wrapAdd k lo n v).test = s.test := rfl
@[simp] theorem State.wrapAdd_pins (k lo n v : Nat) : (s.wrapAdd k lo n v).pins = s.pins := rfl
@[simp] theorem State.wrapAdd_free (k lo n v : Nat) : (s.wrapAdd k lo n v).free = s.free := rfl
@[simp] theorem State.wrapAdd_drawn (k lo n v : Nat) : (s.wrapAdd k lo n v).drawn = s.drawn := rfl

/-! ## `orFlags` -/

@[simp] theorem State.orFlags_pending (k : Nat) (f : FlagWord) : (s.orFlags k f).pending = s.pending := rfl
@[simp] theorem State.orFlags_clock (k : Nat) (f : FlagWord) : (s.orFlags k f).clock = s.clock := rfl
@[simp] theorem State.orFlags_commit (k : Nat) (f : FlagWord) : (s.orFlags k f).commit = s.commit := rfl
@[simp] theorem State.orFlags_chans (k : Nat) (f : FlagWord) : (s.orFlags k f).chans = s.chans := rfl
@[simp] theorem State.orFlags_taps (k : Nat) (f : FlagWord) : (s.orFlags k f).taps = s.taps := rfl
@[simp] theorem State.orFlags_due (k : Nat) (f : FlagWord) : (s.orFlags k f).due = s.due := rfl
@[simp] theorem State.orFlags_spine (k : Nat) (f : FlagWord) : (s.orFlags k f).spine = s.spine := rfl
@[simp] theorem State.orFlags_faults (k : Nat) (f : FlagWord) : (s.orFlags k f).faults = s.faults := rfl
@[simp] theorem State.orFlags_ledger (k : Nat) (f : FlagWord) : (s.orFlags k f).ledger = s.ledger := rfl
@[simp] theorem State.orFlags_mem (k : Nat) (f : FlagWord) : (s.orFlags k f).mem = s.mem := rfl
@[simp] theorem State.orFlags_hbm (k : Nat) (f : FlagWord) : (s.orFlags k f).hbm = s.hbm := rfl
@[simp] theorem State.orFlags_ladles (k : Nat) (f : FlagWord) : (s.orFlags k f).ladles = s.ladles := rfl
@[simp] theorem State.orFlags_running (k : Nat) (f : FlagWord) : (s.orFlags k f).running = s.running := rfl
@[simp] theorem State.orFlags_signals (k : Nat) (f : FlagWord) : (s.orFlags k f).signals = s.signals := rfl
@[simp] theorem State.orFlags_anvils (k : Nat) (f : FlagWord) : (s.orFlags k f).anvils = s.anvils := rfl
@[simp] theorem State.orFlags_slicers (k : Nat) (f : FlagWord) : (s.orFlags k f).slicers = s.slicers := rfl
@[simp] theorem State.orFlags_swages (k : Nat) (f : FlagWord) : (s.orFlags k f).swages = s.swages := rfl
@[simp] theorem State.orFlags_crucibles (k : Nat) (f : FlagWord) :
    (s.orFlags k f).crucibles = s.crucibles := rfl
@[simp] theorem State.orFlags_planishers (k : Nat) (f : FlagWord) :
    (s.orFlags k f).planishers = s.planishers := rfl
@[simp] theorem State.orFlags_tinkers (k : Nat) (f : FlagWord) : (s.orFlags k f).tinkers = s.tinkers := rfl
@[simp] theorem State.orFlags_plan (k : Nat) (f : FlagWord) : (s.orFlags k f).plan = s.plan := rfl
@[simp] theorem State.orFlags_els (k : Nat) (f : FlagWord) : (s.orFlags k f).els = s.els := rfl
@[simp] theorem State.orFlags_radio (k : Nat) (f : FlagWord) : (s.orFlags k f).radio = s.radio := rfl
@[simp] theorem State.orFlags_code (k : Nat) (f : FlagWord) : (s.orFlags k f).code = s.code := rfl
@[simp] theorem State.orFlags_train (k : Nat) (f : FlagWord) : (s.orFlags k f).train = s.train := rfl
@[simp] theorem State.orFlags_net (k : Nat) (f : FlagWord) : (s.orFlags k f).net = s.net := rfl
@[simp] theorem State.orFlags_time (k : Nat) (f : FlagWord) : (s.orFlags k f).time = s.time := rfl
@[simp] theorem State.orFlags_twin (k : Nat) (f : FlagWord) : (s.orFlags k f).twin = s.twin := rfl
@[simp] theorem State.orFlags_power (k : Nat) (f : FlagWord) : (s.orFlags k f).power = s.power := rfl
@[simp] theorem State.orFlags_start (k : Nat) (f : FlagWord) : (s.orFlags k f).start = s.start := rfl
@[simp] theorem State.orFlags_sec (k : Nat) (f : FlagWord) : (s.orFlags k f).sec = s.sec := rfl
@[simp] theorem State.orFlags_seq (k : Nat) (f : FlagWord) : (s.orFlags k f).seq = s.seq := rfl
@[simp] theorem State.orFlags_i3c (k : Nat) (f : FlagWord) : (s.orFlags k f).i3c = s.i3c := rfl
@[simp] theorem State.orFlags_test (k : Nat) (f : FlagWord) : (s.orFlags k f).test = s.test := rfl
@[simp] theorem State.orFlags_pins (k : Nat) (f : FlagWord) : (s.orFlags k f).pins = s.pins := rfl
@[simp] theorem State.orFlags_free (k : Nat) (f : FlagWord) : (s.orFlags k f).free = s.free := rfl
@[simp] theorem State.orFlags_drawn (k : Nat) (f : FlagWord) : (s.orFlags k f).drawn = s.drawn := rfl

/-! ## `setCtx` -/

@[simp] theorem State.setCtx_pending (c : Nat) (x : Ctx) : (s.setCtx c x).pending = s.pending := rfl
@[simp] theorem State.setCtx_regs (c : Nat) (x : Ctx) : (s.setCtx c x).regs = s.regs := rfl
@[simp] theorem State.setCtx_clock (c : Nat) (x : Ctx) : (s.setCtx c x).clock = s.clock := rfl
@[simp] theorem State.setCtx_commit (c : Nat) (x : Ctx) : (s.setCtx c x).commit = s.commit := rfl
@[simp] theorem State.setCtx_chans (c : Nat) (x : Ctx) : (s.setCtx c x).chans = s.chans := rfl
@[simp] theorem State.setCtx_taps (c : Nat) (x : Ctx) : (s.setCtx c x).taps = s.taps := rfl
@[simp] theorem State.setCtx_due (c : Nat) (x : Ctx) : (s.setCtx c x).due = s.due := rfl
@[simp] theorem State.setCtx_spine (c : Nat) (x : Ctx) : (s.setCtx c x).spine = s.spine := rfl
@[simp] theorem State.setCtx_faults (c : Nat) (x : Ctx) : (s.setCtx c x).faults = s.faults := rfl
@[simp] theorem State.setCtx_ledger (c : Nat) (x : Ctx) : (s.setCtx c x).ledger = s.ledger := rfl
@[simp] theorem State.setCtx_mem (c : Nat) (x : Ctx) : (s.setCtx c x).mem = s.mem := rfl
@[simp] theorem State.setCtx_hbm (c : Nat) (x : Ctx) : (s.setCtx c x).hbm = s.hbm := rfl
@[simp] theorem State.setCtx_ladles (c : Nat) (x : Ctx) : (s.setCtx c x).ladles = s.ladles := rfl
@[simp] theorem State.setCtx_running (c : Nat) (x : Ctx) : (s.setCtx c x).running = s.running := rfl
@[simp] theorem State.setCtx_signals (c : Nat) (x : Ctx) : (s.setCtx c x).signals = s.signals := rfl
@[simp] theorem State.setCtx_anvils (c : Nat) (x : Ctx) : (s.setCtx c x).anvils = s.anvils := rfl
@[simp] theorem State.setCtx_slicers (c : Nat) (x : Ctx) : (s.setCtx c x).slicers = s.slicers := rfl
@[simp] theorem State.setCtx_swages (c : Nat) (x : Ctx) : (s.setCtx c x).swages = s.swages := rfl
@[simp] theorem State.setCtx_crucibles (c : Nat) (x : Ctx) : (s.setCtx c x).crucibles = s.crucibles := rfl
@[simp] theorem State.setCtx_planishers (c : Nat) (x : Ctx) : (s.setCtx c x).planishers = s.planishers := rfl
@[simp] theorem State.setCtx_tinkers (c : Nat) (x : Ctx) : (s.setCtx c x).tinkers = s.tinkers := rfl
@[simp] theorem State.setCtx_plan (c : Nat) (x : Ctx) : (s.setCtx c x).plan = s.plan := rfl
@[simp] theorem State.setCtx_radio (c : Nat) (x : Ctx) : (s.setCtx c x).radio = s.radio := rfl
@[simp] theorem State.setCtx_code (c : Nat) (x : Ctx) : (s.setCtx c x).code = s.code := rfl
@[simp] theorem State.setCtx_train (c : Nat) (x : Ctx) : (s.setCtx c x).train = s.train := rfl
@[simp] theorem State.setCtx_net (c : Nat) (x : Ctx) : (s.setCtx c x).net = s.net := rfl
@[simp] theorem State.setCtx_time (c : Nat) (x : Ctx) : (s.setCtx c x).time = s.time := rfl
@[simp] theorem State.setCtx_twin (c : Nat) (x : Ctx) : (s.setCtx c x).twin = s.twin := rfl
@[simp] theorem State.setCtx_power (c : Nat) (x : Ctx) : (s.setCtx c x).power = s.power := rfl
@[simp] theorem State.setCtx_start (c : Nat) (x : Ctx) : (s.setCtx c x).start = s.start := rfl
@[simp] theorem State.setCtx_sec (c : Nat) (x : Ctx) : (s.setCtx c x).sec = s.sec := rfl
@[simp] theorem State.setCtx_seq (c : Nat) (x : Ctx) : (s.setCtx c x).seq = s.seq := rfl
@[simp] theorem State.setCtx_i3c (c : Nat) (x : Ctx) : (s.setCtx c x).i3c = s.i3c := rfl
@[simp] theorem State.setCtx_test (c : Nat) (x : Ctx) : (s.setCtx c x).test = s.test := rfl
@[simp] theorem State.setCtx_pins (c : Nat) (x : Ctx) : (s.setCtx c x).pins = s.pins := rfl
@[simp] theorem State.setCtx_free (c : Nat) (x : Ctx) : (s.setCtx c x).free = s.free := rfl
@[simp] theorem State.setCtx_drawn (c : Nat) (x : Ctx) : (s.setCtx c x).drawn = s.drawn := rfl

/-! ## `onCtx` -/

@[simp] theorem State.onCtx_pending (c : Nat) (f : Ctx → Ctx) : (s.onCtx c f).pending = s.pending := rfl
@[simp] theorem State.onCtx_regs (c : Nat) (f : Ctx → Ctx) : (s.onCtx c f).regs = s.regs := rfl
@[simp] theorem State.onCtx_clock (c : Nat) (f : Ctx → Ctx) : (s.onCtx c f).clock = s.clock := rfl
@[simp] theorem State.onCtx_commit (c : Nat) (f : Ctx → Ctx) : (s.onCtx c f).commit = s.commit := rfl
@[simp] theorem State.onCtx_chans (c : Nat) (f : Ctx → Ctx) : (s.onCtx c f).chans = s.chans := rfl
@[simp] theorem State.onCtx_taps (c : Nat) (f : Ctx → Ctx) : (s.onCtx c f).taps = s.taps := rfl
@[simp] theorem State.onCtx_due (c : Nat) (f : Ctx → Ctx) : (s.onCtx c f).due = s.due := rfl
@[simp] theorem State.onCtx_spine (c : Nat) (f : Ctx → Ctx) : (s.onCtx c f).spine = s.spine := rfl
@[simp] theorem State.onCtx_faults (c : Nat) (f : Ctx → Ctx) : (s.onCtx c f).faults = s.faults := rfl
@[simp] theorem State.onCtx_ledger (c : Nat) (f : Ctx → Ctx) : (s.onCtx c f).ledger = s.ledger := rfl
@[simp] theorem State.onCtx_mem (c : Nat) (f : Ctx → Ctx) : (s.onCtx c f).mem = s.mem := rfl
@[simp] theorem State.onCtx_hbm (c : Nat) (f : Ctx → Ctx) : (s.onCtx c f).hbm = s.hbm := rfl
@[simp] theorem State.onCtx_ladles (c : Nat) (f : Ctx → Ctx) : (s.onCtx c f).ladles = s.ladles := rfl
@[simp] theorem State.onCtx_running (c : Nat) (f : Ctx → Ctx) : (s.onCtx c f).running = s.running := rfl
@[simp] theorem State.onCtx_signals (c : Nat) (f : Ctx → Ctx) : (s.onCtx c f).signals = s.signals := rfl
@[simp] theorem State.onCtx_anvils (c : Nat) (f : Ctx → Ctx) : (s.onCtx c f).anvils = s.anvils := rfl
@[simp] theorem State.onCtx_slicers (c : Nat) (f : Ctx → Ctx) : (s.onCtx c f).slicers = s.slicers := rfl
@[simp] theorem State.onCtx_swages (c : Nat) (f : Ctx → Ctx) : (s.onCtx c f).swages = s.swages := rfl
@[simp] theorem State.onCtx_crucibles (c : Nat) (f : Ctx → Ctx) : (s.onCtx c f).crucibles = s.crucibles := rfl
@[simp] theorem State.onCtx_planishers (c : Nat) (f : Ctx → Ctx) :
    (s.onCtx c f).planishers = s.planishers := rfl
@[simp] theorem State.onCtx_tinkers (c : Nat) (f : Ctx → Ctx) : (s.onCtx c f).tinkers = s.tinkers := rfl
@[simp] theorem State.onCtx_plan (c : Nat) (f : Ctx → Ctx) : (s.onCtx c f).plan = s.plan := rfl
@[simp] theorem State.onCtx_radio (c : Nat) (f : Ctx → Ctx) : (s.onCtx c f).radio = s.radio := rfl
@[simp] theorem State.onCtx_code (c : Nat) (f : Ctx → Ctx) : (s.onCtx c f).code = s.code := rfl
@[simp] theorem State.onCtx_train (c : Nat) (f : Ctx → Ctx) : (s.onCtx c f).train = s.train := rfl
@[simp] theorem State.onCtx_net (c : Nat) (f : Ctx → Ctx) : (s.onCtx c f).net = s.net := rfl
@[simp] theorem State.onCtx_time (c : Nat) (f : Ctx → Ctx) : (s.onCtx c f).time = s.time := rfl
@[simp] theorem State.onCtx_twin (c : Nat) (f : Ctx → Ctx) : (s.onCtx c f).twin = s.twin := rfl
@[simp] theorem State.onCtx_power (c : Nat) (f : Ctx → Ctx) : (s.onCtx c f).power = s.power := rfl
@[simp] theorem State.onCtx_start (c : Nat) (f : Ctx → Ctx) : (s.onCtx c f).start = s.start := rfl
@[simp] theorem State.onCtx_sec (c : Nat) (f : Ctx → Ctx) : (s.onCtx c f).sec = s.sec := rfl
@[simp] theorem State.onCtx_seq (c : Nat) (f : Ctx → Ctx) : (s.onCtx c f).seq = s.seq := rfl
@[simp] theorem State.onCtx_i3c (c : Nat) (f : Ctx → Ctx) : (s.onCtx c f).i3c = s.i3c := rfl
@[simp] theorem State.onCtx_test (c : Nat) (f : Ctx → Ctx) : (s.onCtx c f).test = s.test := rfl
@[simp] theorem State.onCtx_pins (c : Nat) (f : Ctx → Ctx) : (s.onCtx c f).pins = s.pins := rfl
@[simp] theorem State.onCtx_free (c : Nat) (f : Ctx → Ctx) : (s.onCtx c f).free = s.free := rfl
@[simp] theorem State.onCtx_drawn (c : Nat) (f : Ctx → Ctx) : (s.onCtx c f).drawn = s.drawn := rfl

/-! ## `setLadle` -/

@[simp] theorem State.setLadle_pending (r l : Nat) (x : Ladle) : (s.setLadle r l x).pending = s.pending := rfl
@[simp] theorem State.setLadle_regs (r l : Nat) (x : Ladle) : (s.setLadle r l x).regs = s.regs := rfl
@[simp] theorem State.setLadle_clock (r l : Nat) (x : Ladle) : (s.setLadle r l x).clock = s.clock := rfl
@[simp] theorem State.setLadle_commit (r l : Nat) (x : Ladle) : (s.setLadle r l x).commit = s.commit := rfl
@[simp] theorem State.setLadle_chans (r l : Nat) (x : Ladle) : (s.setLadle r l x).chans = s.chans := rfl
@[simp] theorem State.setLadle_taps (r l : Nat) (x : Ladle) : (s.setLadle r l x).taps = s.taps := rfl
@[simp] theorem State.setLadle_due (r l : Nat) (x : Ladle) : (s.setLadle r l x).due = s.due := rfl
@[simp] theorem State.setLadle_spine (r l : Nat) (x : Ladle) : (s.setLadle r l x).spine = s.spine := rfl
@[simp] theorem State.setLadle_faults (r l : Nat) (x : Ladle) : (s.setLadle r l x).faults = s.faults := rfl
@[simp] theorem State.setLadle_ledger (r l : Nat) (x : Ladle) : (s.setLadle r l x).ledger = s.ledger := rfl
@[simp] theorem State.setLadle_mem (r l : Nat) (x : Ladle) : (s.setLadle r l x).mem = s.mem := rfl
@[simp] theorem State.setLadle_hbm (r l : Nat) (x : Ladle) : (s.setLadle r l x).hbm = s.hbm := rfl
@[simp] theorem State.setLadle_running (r l : Nat) (x : Ladle) : (s.setLadle r l x).running = s.running := rfl
@[simp] theorem State.setLadle_signals (r l : Nat) (x : Ladle) : (s.setLadle r l x).signals = s.signals := rfl
@[simp] theorem State.setLadle_anvils (r l : Nat) (x : Ladle) : (s.setLadle r l x).anvils = s.anvils := rfl
@[simp] theorem State.setLadle_slicers (r l : Nat) (x : Ladle) : (s.setLadle r l x).slicers = s.slicers := rfl
@[simp] theorem State.setLadle_swages (r l : Nat) (x : Ladle) : (s.setLadle r l x).swages = s.swages := rfl
@[simp] theorem State.setLadle_crucibles (r l : Nat) (x : Ladle) :
    (s.setLadle r l x).crucibles = s.crucibles := rfl
@[simp] theorem State.setLadle_planishers (r l : Nat) (x : Ladle) :
    (s.setLadle r l x).planishers = s.planishers := rfl
@[simp] theorem State.setLadle_tinkers (r l : Nat) (x : Ladle) : (s.setLadle r l x).tinkers = s.tinkers := rfl
@[simp] theorem State.setLadle_plan (r l : Nat) (x : Ladle) : (s.setLadle r l x).plan = s.plan := rfl
@[simp] theorem State.setLadle_els (r l : Nat) (x : Ladle) : (s.setLadle r l x).els = s.els := rfl
@[simp] theorem State.setLadle_radio (r l : Nat) (x : Ladle) : (s.setLadle r l x).radio = s.radio := rfl
@[simp] theorem State.setLadle_code (r l : Nat) (x : Ladle) : (s.setLadle r l x).code = s.code := rfl
@[simp] theorem State.setLadle_train (r l : Nat) (x : Ladle) : (s.setLadle r l x).train = s.train := rfl
@[simp] theorem State.setLadle_net (r l : Nat) (x : Ladle) : (s.setLadle r l x).net = s.net := rfl
@[simp] theorem State.setLadle_time (r l : Nat) (x : Ladle) : (s.setLadle r l x).time = s.time := rfl
@[simp] theorem State.setLadle_twin (r l : Nat) (x : Ladle) : (s.setLadle r l x).twin = s.twin := rfl
@[simp] theorem State.setLadle_power (r l : Nat) (x : Ladle) : (s.setLadle r l x).power = s.power := rfl
@[simp] theorem State.setLadle_start (r l : Nat) (x : Ladle) : (s.setLadle r l x).start = s.start := rfl
@[simp] theorem State.setLadle_sec (r l : Nat) (x : Ladle) : (s.setLadle r l x).sec = s.sec := rfl
@[simp] theorem State.setLadle_seq (r l : Nat) (x : Ladle) : (s.setLadle r l x).seq = s.seq := rfl
@[simp] theorem State.setLadle_i3c (r l : Nat) (x : Ladle) : (s.setLadle r l x).i3c = s.i3c := rfl
@[simp] theorem State.setLadle_test (r l : Nat) (x : Ladle) : (s.setLadle r l x).test = s.test := rfl
@[simp] theorem State.setLadle_pins (r l : Nat) (x : Ladle) : (s.setLadle r l x).pins = s.pins := rfl
@[simp] theorem State.setLadle_free (r l : Nat) (x : Ladle) : (s.setLadle r l x).free = s.free := rfl
@[simp] theorem State.setLadle_drawn (r l : Nat) (x : Ladle) : (s.setLadle r l x).drawn = s.drawn := rfl

/-! ## `cancelStreams` -/

@[simp] theorem State.cancelStreams_pending (c : Nat) : (s.cancelStreams c).pending = s.pending := rfl
@[simp] theorem State.cancelStreams_regs (c : Nat) : (s.cancelStreams c).regs = s.regs := rfl
@[simp] theorem State.cancelStreams_clock (c : Nat) : (s.cancelStreams c).clock = s.clock := rfl
@[simp] theorem State.cancelStreams_commit (c : Nat) : (s.cancelStreams c).commit = s.commit := rfl
@[simp] theorem State.cancelStreams_chans (c : Nat) : (s.cancelStreams c).chans = s.chans := rfl
@[simp] theorem State.cancelStreams_taps (c : Nat) : (s.cancelStreams c).taps = s.taps := rfl
@[simp] theorem State.cancelStreams_due (c : Nat) : (s.cancelStreams c).due = s.due := rfl
@[simp] theorem State.cancelStreams_spine (c : Nat) : (s.cancelStreams c).spine = s.spine := rfl
@[simp] theorem State.cancelStreams_faults (c : Nat) : (s.cancelStreams c).faults = s.faults := rfl
@[simp] theorem State.cancelStreams_ledger (c : Nat) : (s.cancelStreams c).ledger = s.ledger := rfl
@[simp] theorem State.cancelStreams_mem (c : Nat) : (s.cancelStreams c).mem = s.mem := rfl
@[simp] theorem State.cancelStreams_hbm (c : Nat) : (s.cancelStreams c).hbm = s.hbm := rfl
@[simp] theorem State.cancelStreams_running (c : Nat) : (s.cancelStreams c).running = s.running := rfl
@[simp] theorem State.cancelStreams_signals (c : Nat) : (s.cancelStreams c).signals = s.signals := rfl
@[simp] theorem State.cancelStreams_anvils (c : Nat) : (s.cancelStreams c).anvils = s.anvils := rfl
@[simp] theorem State.cancelStreams_slicers (c : Nat) : (s.cancelStreams c).slicers = s.slicers := rfl
@[simp] theorem State.cancelStreams_swages (c : Nat) : (s.cancelStreams c).swages = s.swages := rfl
@[simp] theorem State.cancelStreams_crucibles (c : Nat) : (s.cancelStreams c).crucibles = s.crucibles := rfl
@[simp] theorem State.cancelStreams_planishers (c : Nat) :
    (s.cancelStreams c).planishers = s.planishers := rfl
@[simp] theorem State.cancelStreams_tinkers (c : Nat) : (s.cancelStreams c).tinkers = s.tinkers := rfl
@[simp] theorem State.cancelStreams_plan (c : Nat) : (s.cancelStreams c).plan = s.plan := rfl
@[simp] theorem State.cancelStreams_els (c : Nat) : (s.cancelStreams c).els = s.els := rfl
@[simp] theorem State.cancelStreams_radio (c : Nat) : (s.cancelStreams c).radio = s.radio := rfl
@[simp] theorem State.cancelStreams_code (c : Nat) : (s.cancelStreams c).code = s.code := rfl
@[simp] theorem State.cancelStreams_train (c : Nat) : (s.cancelStreams c).train = s.train := rfl
@[simp] theorem State.cancelStreams_net (c : Nat) : (s.cancelStreams c).net = s.net := rfl
@[simp] theorem State.cancelStreams_time (c : Nat) : (s.cancelStreams c).time = s.time := rfl
@[simp] theorem State.cancelStreams_twin (c : Nat) : (s.cancelStreams c).twin = s.twin := rfl
@[simp] theorem State.cancelStreams_power (c : Nat) : (s.cancelStreams c).power = s.power := rfl
@[simp] theorem State.cancelStreams_start (c : Nat) : (s.cancelStreams c).start = s.start := rfl
@[simp] theorem State.cancelStreams_sec (c : Nat) : (s.cancelStreams c).sec = s.sec := rfl
@[simp] theorem State.cancelStreams_seq (c : Nat) : (s.cancelStreams c).seq = s.seq := rfl
@[simp] theorem State.cancelStreams_i3c (c : Nat) : (s.cancelStreams c).i3c = s.i3c := rfl
@[simp] theorem State.cancelStreams_test (c : Nat) : (s.cancelStreams c).test = s.test := rfl
@[simp] theorem State.cancelStreams_pins (c : Nat) : (s.cancelStreams c).pins = s.pins := rfl
@[simp] theorem State.cancelStreams_free (c : Nat) : (s.cancelStreams c).free = s.free := rfl
@[simp] theorem State.cancelStreams_drawn (c : Nat) : (s.cancelStreams c).drawn = s.drawn := rfl

/-! ## `setCell` -/

@[simp] theorem State.setCell_pending (g r b : Nat) (x : LedgerCell) :
    (s.setCell g r b x).pending = s.pending := rfl
@[simp] theorem State.setCell_regs (g r b : Nat) (x : LedgerCell) : (s.setCell g r b x).regs = s.regs := rfl
@[simp] theorem State.setCell_clock (g r b : Nat) (x : LedgerCell) :
    (s.setCell g r b x).clock = s.clock := rfl
@[simp] theorem State.setCell_commit (g r b : Nat) (x : LedgerCell) :
    (s.setCell g r b x).commit = s.commit := rfl
@[simp] theorem State.setCell_chans (g r b : Nat) (x : LedgerCell) :
    (s.setCell g r b x).chans = s.chans := rfl
@[simp] theorem State.setCell_taps (g r b : Nat) (x : LedgerCell) : (s.setCell g r b x).taps = s.taps := rfl
@[simp] theorem State.setCell_due (g r b : Nat) (x : LedgerCell) : (s.setCell g r b x).due = s.due := rfl
@[simp] theorem State.setCell_spine (g r b : Nat) (x : LedgerCell) :
    (s.setCell g r b x).spine = s.spine := rfl
@[simp] theorem State.setCell_faults (g r b : Nat) (x : LedgerCell) :
    (s.setCell g r b x).faults = s.faults := rfl
@[simp] theorem State.setCell_mem (g r b : Nat) (x : LedgerCell) : (s.setCell g r b x).mem = s.mem := rfl
@[simp] theorem State.setCell_hbm (g r b : Nat) (x : LedgerCell) : (s.setCell g r b x).hbm = s.hbm := rfl
@[simp] theorem State.setCell_ladles (g r b : Nat) (x : LedgerCell) :
    (s.setCell g r b x).ladles = s.ladles := rfl
@[simp] theorem State.setCell_running (g r b : Nat) (x : LedgerCell) :
    (s.setCell g r b x).running = s.running := rfl
@[simp] theorem State.setCell_signals (g r b : Nat) (x : LedgerCell) :
    (s.setCell g r b x).signals = s.signals := rfl
@[simp] theorem State.setCell_anvils (g r b : Nat) (x : LedgerCell) :
    (s.setCell g r b x).anvils = s.anvils := rfl
@[simp] theorem State.setCell_slicers (g r b : Nat) (x : LedgerCell) :
    (s.setCell g r b x).slicers = s.slicers := rfl
@[simp] theorem State.setCell_swages (g r b : Nat) (x : LedgerCell) :
    (s.setCell g r b x).swages = s.swages := rfl
@[simp] theorem State.setCell_crucibles (g r b : Nat) (x : LedgerCell) :
    (s.setCell g r b x).crucibles = s.crucibles := rfl
@[simp] theorem State.setCell_planishers (g r b : Nat) (x : LedgerCell) :
    (s.setCell g r b x).planishers = s.planishers := rfl
@[simp] theorem State.setCell_tinkers (g r b : Nat) (x : LedgerCell) :
    (s.setCell g r b x).tinkers = s.tinkers := rfl
@[simp] theorem State.setCell_plan (g r b : Nat) (x : LedgerCell) : (s.setCell g r b x).plan = s.plan := rfl
@[simp] theorem State.setCell_els (g r b : Nat) (x : LedgerCell) : (s.setCell g r b x).els = s.els := rfl
@[simp] theorem State.setCell_radio (g r b : Nat) (x : LedgerCell) :
    (s.setCell g r b x).radio = s.radio := rfl
@[simp] theorem State.setCell_code (g r b : Nat) (x : LedgerCell) : (s.setCell g r b x).code = s.code := rfl
@[simp] theorem State.setCell_train (g r b : Nat) (x : LedgerCell) :
    (s.setCell g r b x).train = s.train := rfl
@[simp] theorem State.setCell_net (g r b : Nat) (x : LedgerCell) : (s.setCell g r b x).net = s.net := rfl
@[simp] theorem State.setCell_time (g r b : Nat) (x : LedgerCell) : (s.setCell g r b x).time = s.time := rfl
@[simp] theorem State.setCell_twin (g r b : Nat) (x : LedgerCell) : (s.setCell g r b x).twin = s.twin := rfl
@[simp] theorem State.setCell_power (g r b : Nat) (x : LedgerCell) :
    (s.setCell g r b x).power = s.power := rfl
@[simp] theorem State.setCell_start (g r b : Nat) (x : LedgerCell) :
    (s.setCell g r b x).start = s.start := rfl
@[simp] theorem State.setCell_sec (g r b : Nat) (x : LedgerCell) : (s.setCell g r b x).sec = s.sec := rfl
@[simp] theorem State.setCell_seq (g r b : Nat) (x : LedgerCell) : (s.setCell g r b x).seq = s.seq := rfl
@[simp] theorem State.setCell_i3c (g r b : Nat) (x : LedgerCell) : (s.setCell g r b x).i3c = s.i3c := rfl
@[simp] theorem State.setCell_test (g r b : Nat) (x : LedgerCell) : (s.setCell g r b x).test = s.test := rfl
@[simp] theorem State.setCell_pins (g r b : Nat) (x : LedgerCell) : (s.setCell g r b x).pins = s.pins := rfl
@[simp] theorem State.setCell_free (g r b : Nat) (x : LedgerCell) : (s.setCell g r b x).free = s.free := rfl
@[simp] theorem State.setCell_drawn (g r b : Nat) (x : LedgerCell) :
    (s.setCell g r b x).drawn = s.drawn := rfl

/-! ## `announce` -/

@[simp] theorem State.announce_pending (k : Nat) (p : List Byte) : (s.announce k p).pending = s.pending := rfl
@[simp] theorem State.announce_regs (k : Nat) (p : List Byte) : (s.announce k p).regs = s.regs := rfl
@[simp] theorem State.announce_clock (k : Nat) (p : List Byte) : (s.announce k p).clock = s.clock := rfl
@[simp] theorem State.announce_commit (k : Nat) (p : List Byte) : (s.announce k p).commit = s.commit := rfl
@[simp] theorem State.announce_chans (k : Nat) (p : List Byte) : (s.announce k p).chans = s.chans := rfl
@[simp] theorem State.announce_taps (k : Nat) (p : List Byte) : (s.announce k p).taps = s.taps := rfl
@[simp] theorem State.announce_due (k : Nat) (p : List Byte) : (s.announce k p).due = s.due := rfl
@[simp] theorem State.announce_spine (k : Nat) (p : List Byte) : (s.announce k p).spine = s.spine := rfl
@[simp] theorem State.announce_faults (k : Nat) (p : List Byte) : (s.announce k p).faults = s.faults := rfl
@[simp] theorem State.announce_ledger (k : Nat) (p : List Byte) : (s.announce k p).ledger = s.ledger := rfl
@[simp] theorem State.announce_mem (k : Nat) (p : List Byte) : (s.announce k p).mem = s.mem := rfl
@[simp] theorem State.announce_hbm (k : Nat) (p : List Byte) : (s.announce k p).hbm = s.hbm := rfl
@[simp] theorem State.announce_ladles (k : Nat) (p : List Byte) : (s.announce k p).ladles = s.ladles := rfl
@[simp] theorem State.announce_running (k : Nat) (p : List Byte) : (s.announce k p).running = s.running := rfl
@[simp] theorem State.announce_signals (k : Nat) (p : List Byte) : (s.announce k p).signals = s.signals := rfl
@[simp] theorem State.announce_anvils (k : Nat) (p : List Byte) : (s.announce k p).anvils = s.anvils := rfl
@[simp] theorem State.announce_slicers (k : Nat) (p : List Byte) : (s.announce k p).slicers = s.slicers := rfl
@[simp] theorem State.announce_swages (k : Nat) (p : List Byte) : (s.announce k p).swages = s.swages := rfl
@[simp] theorem State.announce_crucibles (k : Nat) (p : List Byte) :
    (s.announce k p).crucibles = s.crucibles := rfl
@[simp] theorem State.announce_planishers (k : Nat) (p : List Byte) :
    (s.announce k p).planishers = s.planishers := rfl
@[simp] theorem State.announce_tinkers (k : Nat) (p : List Byte) : (s.announce k p).tinkers = s.tinkers := rfl
@[simp] theorem State.announce_plan (k : Nat) (p : List Byte) : (s.announce k p).plan = s.plan := rfl
@[simp] theorem State.announce_els (k : Nat) (p : List Byte) : (s.announce k p).els = s.els := rfl
@[simp] theorem State.announce_radio (k : Nat) (p : List Byte) : (s.announce k p).radio = s.radio := rfl
@[simp] theorem State.announce_code (k : Nat) (p : List Byte) : (s.announce k p).code = s.code := rfl
@[simp] theorem State.announce_train (k : Nat) (p : List Byte) : (s.announce k p).train = s.train := rfl
@[simp] theorem State.announce_net (k : Nat) (p : List Byte) : (s.announce k p).net = s.net := rfl
@[simp] theorem State.announce_time (k : Nat) (p : List Byte) : (s.announce k p).time = s.time := rfl
@[simp] theorem State.announce_twin (k : Nat) (p : List Byte) : (s.announce k p).twin = s.twin := rfl
@[simp] theorem State.announce_power (k : Nat) (p : List Byte) : (s.announce k p).power = s.power := rfl
@[simp] theorem State.announce_start (k : Nat) (p : List Byte) : (s.announce k p).start = s.start := rfl
@[simp] theorem State.announce_sec (k : Nat) (p : List Byte) : (s.announce k p).sec = s.sec := rfl
@[simp] theorem State.announce_seq (k : Nat) (p : List Byte) : (s.announce k p).seq = s.seq := rfl
@[simp] theorem State.announce_test (k : Nat) (p : List Byte) : (s.announce k p).test = s.test := rfl
@[simp] theorem State.announce_pins (k : Nat) (p : List Byte) : (s.announce k p).pins = s.pins := rfl
@[simp] theorem State.announce_free (k : Nat) (p : List Byte) : (s.announce k p).free = s.free := rfl
@[simp] theorem State.announce_drawn (k : Nat) (p : List Byte) : (s.announce k p).drawn = s.drawn := rfl

/-! ## `countJob` -/

@[simp] theorem State.countJob_pending (c k n : Nat) : (s.countJob c k n).pending = s.pending := rfl
@[simp] theorem State.countJob_clock (c k n : Nat) : (s.countJob c k n).clock = s.clock := rfl
@[simp] theorem State.countJob_commit (c k n : Nat) : (s.countJob c k n).commit = s.commit := rfl
@[simp] theorem State.countJob_chans (c k n : Nat) : (s.countJob c k n).chans = s.chans := rfl
@[simp] theorem State.countJob_taps (c k n : Nat) : (s.countJob c k n).taps = s.taps := rfl
@[simp] theorem State.countJob_due (c k n : Nat) : (s.countJob c k n).due = s.due := rfl
@[simp] theorem State.countJob_spine (c k n : Nat) : (s.countJob c k n).spine = s.spine := rfl
@[simp] theorem State.countJob_faults (c k n : Nat) : (s.countJob c k n).faults = s.faults := rfl
@[simp] theorem State.countJob_ledger (c k n : Nat) : (s.countJob c k n).ledger = s.ledger := rfl
@[simp] theorem State.countJob_mem (c k n : Nat) : (s.countJob c k n).mem = s.mem := rfl
@[simp] theorem State.countJob_hbm (c k n : Nat) : (s.countJob c k n).hbm = s.hbm := rfl
@[simp] theorem State.countJob_ladles (c k n : Nat) : (s.countJob c k n).ladles = s.ladles := rfl
@[simp] theorem State.countJob_running (c k n : Nat) : (s.countJob c k n).running = s.running := rfl
@[simp] theorem State.countJob_signals (c k n : Nat) : (s.countJob c k n).signals = s.signals := rfl
@[simp] theorem State.countJob_anvils (c k n : Nat) : (s.countJob c k n).anvils = s.anvils := rfl
@[simp] theorem State.countJob_slicers (c k n : Nat) : (s.countJob c k n).slicers = s.slicers := rfl
@[simp] theorem State.countJob_swages (c k n : Nat) : (s.countJob c k n).swages = s.swages := rfl
@[simp] theorem State.countJob_crucibles (c k n : Nat) : (s.countJob c k n).crucibles = s.crucibles := rfl
@[simp] theorem State.countJob_planishers (c k n : Nat) : (s.countJob c k n).planishers = s.planishers := rfl
@[simp] theorem State.countJob_tinkers (c k n : Nat) : (s.countJob c k n).tinkers = s.tinkers := rfl
@[simp] theorem State.countJob_plan (c k n : Nat) : (s.countJob c k n).plan = s.plan := rfl
@[simp] theorem State.countJob_els (c k n : Nat) : (s.countJob c k n).els = s.els := rfl
@[simp] theorem State.countJob_radio (c k n : Nat) : (s.countJob c k n).radio = s.radio := rfl
@[simp] theorem State.countJob_code (c k n : Nat) : (s.countJob c k n).code = s.code := rfl
@[simp] theorem State.countJob_train (c k n : Nat) : (s.countJob c k n).train = s.train := rfl
@[simp] theorem State.countJob_net (c k n : Nat) : (s.countJob c k n).net = s.net := rfl
@[simp] theorem State.countJob_time (c k n : Nat) : (s.countJob c k n).time = s.time := rfl
@[simp] theorem State.countJob_twin (c k n : Nat) : (s.countJob c k n).twin = s.twin := rfl
@[simp] theorem State.countJob_power (c k n : Nat) : (s.countJob c k n).power = s.power := rfl
@[simp] theorem State.countJob_start (c k n : Nat) : (s.countJob c k n).start = s.start := rfl
@[simp] theorem State.countJob_sec (c k n : Nat) : (s.countJob c k n).sec = s.sec := rfl
@[simp] theorem State.countJob_seq (c k n : Nat) : (s.countJob c k n).seq = s.seq := rfl
@[simp] theorem State.countJob_i3c (c k n : Nat) : (s.countJob c k n).i3c = s.i3c := rfl
@[simp] theorem State.countJob_test (c k n : Nat) : (s.countJob c k n).test = s.test := rfl
@[simp] theorem State.countJob_pins (c k n : Nat) : (s.countJob c k n).pins = s.pins := rfl
@[simp] theorem State.countJob_free (c k n : Nat) : (s.countJob c k n).free = s.free := rfl
@[simp] theorem State.countJob_drawn (c k n : Nat) : (s.countJob c k n).drawn = s.drawn := rfl

/-! ## `setDeficit` -/

@[simp] theorem State.setDeficit_pending (r c : Nat) (d : Int) :
    (s.setDeficit r c d).pending = s.pending := rfl
@[simp] theorem State.setDeficit_regs (r c : Nat) (d : Int) : (s.setDeficit r c d).regs = s.regs := rfl
@[simp] theorem State.setDeficit_clock (r c : Nat) (d : Int) : (s.setDeficit r c d).clock = s.clock := rfl
@[simp] theorem State.setDeficit_commit (r c : Nat) (d : Int) : (s.setDeficit r c d).commit = s.commit := rfl
@[simp] theorem State.setDeficit_chans (r c : Nat) (d : Int) : (s.setDeficit r c d).chans = s.chans := rfl
@[simp] theorem State.setDeficit_taps (r c : Nat) (d : Int) : (s.setDeficit r c d).taps = s.taps := rfl
@[simp] theorem State.setDeficit_due (r c : Nat) (d : Int) : (s.setDeficit r c d).due = s.due := rfl
@[simp] theorem State.setDeficit_spine (r c : Nat) (d : Int) : (s.setDeficit r c d).spine = s.spine := rfl
@[simp] theorem State.setDeficit_faults (r c : Nat) (d : Int) : (s.setDeficit r c d).faults = s.faults := rfl
@[simp] theorem State.setDeficit_ledger (r c : Nat) (d : Int) : (s.setDeficit r c d).ledger = s.ledger := rfl
@[simp] theorem State.setDeficit_mem (r c : Nat) (d : Int) : (s.setDeficit r c d).mem = s.mem := rfl
@[simp] theorem State.setDeficit_hbm (r c : Nat) (d : Int) : (s.setDeficit r c d).hbm = s.hbm := rfl
@[simp] theorem State.setDeficit_ladles (r c : Nat) (d : Int) : (s.setDeficit r c d).ladles = s.ladles := rfl
@[simp] theorem State.setDeficit_running (r c : Nat) (d : Int) :
    (s.setDeficit r c d).running = s.running := rfl
@[simp] theorem State.setDeficit_signals (r c : Nat) (d : Int) :
    (s.setDeficit r c d).signals = s.signals := rfl
@[simp] theorem State.setDeficit_anvils (r c : Nat) (d : Int) : (s.setDeficit r c d).anvils = s.anvils := rfl
@[simp] theorem State.setDeficit_slicers (r c : Nat) (d : Int) :
    (s.setDeficit r c d).slicers = s.slicers := rfl
@[simp] theorem State.setDeficit_swages (r c : Nat) (d : Int) : (s.setDeficit r c d).swages = s.swages := rfl
@[simp] theorem State.setDeficit_crucibles (r c : Nat) (d : Int) :
    (s.setDeficit r c d).crucibles = s.crucibles := rfl
@[simp] theorem State.setDeficit_planishers (r c : Nat) (d : Int) :
    (s.setDeficit r c d).planishers = s.planishers := rfl
@[simp] theorem State.setDeficit_tinkers (r c : Nat) (d : Int) :
    (s.setDeficit r c d).tinkers = s.tinkers := rfl
@[simp] theorem State.setDeficit_plan (r c : Nat) (d : Int) : (s.setDeficit r c d).plan = s.plan := rfl
@[simp] theorem State.setDeficit_radio (r c : Nat) (d : Int) : (s.setDeficit r c d).radio = s.radio := rfl
@[simp] theorem State.setDeficit_code (r c : Nat) (d : Int) : (s.setDeficit r c d).code = s.code := rfl
@[simp] theorem State.setDeficit_train (r c : Nat) (d : Int) : (s.setDeficit r c d).train = s.train := rfl
@[simp] theorem State.setDeficit_net (r c : Nat) (d : Int) : (s.setDeficit r c d).net = s.net := rfl
@[simp] theorem State.setDeficit_time (r c : Nat) (d : Int) : (s.setDeficit r c d).time = s.time := rfl
@[simp] theorem State.setDeficit_twin (r c : Nat) (d : Int) : (s.setDeficit r c d).twin = s.twin := rfl
@[simp] theorem State.setDeficit_power (r c : Nat) (d : Int) : (s.setDeficit r c d).power = s.power := rfl
@[simp] theorem State.setDeficit_start (r c : Nat) (d : Int) : (s.setDeficit r c d).start = s.start := rfl
@[simp] theorem State.setDeficit_sec (r c : Nat) (d : Int) : (s.setDeficit r c d).sec = s.sec := rfl
@[simp] theorem State.setDeficit_seq (r c : Nat) (d : Int) : (s.setDeficit r c d).seq = s.seq := rfl
@[simp] theorem State.setDeficit_i3c (r c : Nat) (d : Int) : (s.setDeficit r c d).i3c = s.i3c := rfl
@[simp] theorem State.setDeficit_test (r c : Nat) (d : Int) : (s.setDeficit r c d).test = s.test := rfl
@[simp] theorem State.setDeficit_pins (r c : Nat) (d : Int) : (s.setDeficit r c d).pins = s.pins := rfl
@[simp] theorem State.setDeficit_free (r c : Nat) (d : Int) : (s.setDeficit r c d).free = s.free := rfl
@[simp] theorem State.setDeficit_drawn (r c : Nat) (d : Int) : (s.setDeficit r c d).drawn = s.drawn := rfl

/-! ## `charge` -/

@[simp] theorem State.charge_pending (r c n : Nat) : (s.charge r c n).pending = s.pending := rfl
@[simp] theorem State.charge_regs (r c n : Nat) : (s.charge r c n).regs = s.regs := rfl
@[simp] theorem State.charge_clock (r c n : Nat) : (s.charge r c n).clock = s.clock := rfl
@[simp] theorem State.charge_commit (r c n : Nat) : (s.charge r c n).commit = s.commit := rfl
@[simp] theorem State.charge_chans (r c n : Nat) : (s.charge r c n).chans = s.chans := rfl
@[simp] theorem State.charge_taps (r c n : Nat) : (s.charge r c n).taps = s.taps := rfl
@[simp] theorem State.charge_due (r c n : Nat) : (s.charge r c n).due = s.due := rfl
@[simp] theorem State.charge_spine (r c n : Nat) : (s.charge r c n).spine = s.spine := rfl
@[simp] theorem State.charge_faults (r c n : Nat) : (s.charge r c n).faults = s.faults := rfl
@[simp] theorem State.charge_ledger (r c n : Nat) : (s.charge r c n).ledger = s.ledger := rfl
@[simp] theorem State.charge_mem (r c n : Nat) : (s.charge r c n).mem = s.mem := rfl
@[simp] theorem State.charge_hbm (r c n : Nat) : (s.charge r c n).hbm = s.hbm := rfl
@[simp] theorem State.charge_ladles (r c n : Nat) : (s.charge r c n).ladles = s.ladles := rfl
@[simp] theorem State.charge_running (r c n : Nat) : (s.charge r c n).running = s.running := rfl
@[simp] theorem State.charge_signals (r c n : Nat) : (s.charge r c n).signals = s.signals := rfl
@[simp] theorem State.charge_anvils (r c n : Nat) : (s.charge r c n).anvils = s.anvils := rfl
@[simp] theorem State.charge_slicers (r c n : Nat) : (s.charge r c n).slicers = s.slicers := rfl
@[simp] theorem State.charge_swages (r c n : Nat) : (s.charge r c n).swages = s.swages := rfl
@[simp] theorem State.charge_crucibles (r c n : Nat) : (s.charge r c n).crucibles = s.crucibles := rfl
@[simp] theorem State.charge_planishers (r c n : Nat) : (s.charge r c n).planishers = s.planishers := rfl
@[simp] theorem State.charge_tinkers (r c n : Nat) : (s.charge r c n).tinkers = s.tinkers := rfl
@[simp] theorem State.charge_plan (r c n : Nat) : (s.charge r c n).plan = s.plan := rfl
@[simp] theorem State.charge_radio (r c n : Nat) : (s.charge r c n).radio = s.radio := rfl
@[simp] theorem State.charge_code (r c n : Nat) : (s.charge r c n).code = s.code := rfl
@[simp] theorem State.charge_train (r c n : Nat) : (s.charge r c n).train = s.train := rfl
@[simp] theorem State.charge_net (r c n : Nat) : (s.charge r c n).net = s.net := rfl
@[simp] theorem State.charge_time (r c n : Nat) : (s.charge r c n).time = s.time := rfl
@[simp] theorem State.charge_twin (r c n : Nat) : (s.charge r c n).twin = s.twin := rfl
@[simp] theorem State.charge_power (r c n : Nat) : (s.charge r c n).power = s.power := rfl
@[simp] theorem State.charge_start (r c n : Nat) : (s.charge r c n).start = s.start := rfl
@[simp] theorem State.charge_sec (r c n : Nat) : (s.charge r c n).sec = s.sec := rfl
@[simp] theorem State.charge_seq (r c n : Nat) : (s.charge r c n).seq = s.seq := rfl
@[simp] theorem State.charge_i3c (r c n : Nat) : (s.charge r c n).i3c = s.i3c := rfl
@[simp] theorem State.charge_test (r c n : Nat) : (s.charge r c n).test = s.test := rfl
@[simp] theorem State.charge_pins (r c n : Nat) : (s.charge r c n).pins = s.pins := rfl
@[simp] theorem State.charge_free (r c n : Nat) : (s.charge r c n).free = s.free := rfl
@[simp] theorem State.charge_drawn (r c n : Nat) : (s.charge r c n).drawn = s.drawn := rfl

/-! ## `setSwap` -/

@[simp] theorem State.setSwap_pending (r : Nat) (x : Option Swapping) :
    (s.setSwap r x).pending = s.pending := rfl
@[simp] theorem State.setSwap_regs (r : Nat) (x : Option Swapping) : (s.setSwap r x).regs = s.regs := rfl
@[simp] theorem State.setSwap_clock (r : Nat) (x : Option Swapping) : (s.setSwap r x).clock = s.clock := rfl
@[simp] theorem State.setSwap_commit (r : Nat) (x : Option Swapping) :
    (s.setSwap r x).commit = s.commit := rfl
@[simp] theorem State.setSwap_chans (r : Nat) (x : Option Swapping) : (s.setSwap r x).chans = s.chans := rfl
@[simp] theorem State.setSwap_taps (r : Nat) (x : Option Swapping) : (s.setSwap r x).taps = s.taps := rfl
@[simp] theorem State.setSwap_due (r : Nat) (x : Option Swapping) : (s.setSwap r x).due = s.due := rfl
@[simp] theorem State.setSwap_spine (r : Nat) (x : Option Swapping) : (s.setSwap r x).spine = s.spine := rfl
@[simp] theorem State.setSwap_faults (r : Nat) (x : Option Swapping) :
    (s.setSwap r x).faults = s.faults := rfl
@[simp] theorem State.setSwap_ledger (r : Nat) (x : Option Swapping) :
    (s.setSwap r x).ledger = s.ledger := rfl
@[simp] theorem State.setSwap_mem (r : Nat) (x : Option Swapping) : (s.setSwap r x).mem = s.mem := rfl
@[simp] theorem State.setSwap_hbm (r : Nat) (x : Option Swapping) : (s.setSwap r x).hbm = s.hbm := rfl
@[simp] theorem State.setSwap_ladles (r : Nat) (x : Option Swapping) :
    (s.setSwap r x).ladles = s.ladles := rfl
@[simp] theorem State.setSwap_running (r : Nat) (x : Option Swapping) :
    (s.setSwap r x).running = s.running := rfl
@[simp] theorem State.setSwap_signals (r : Nat) (x : Option Swapping) :
    (s.setSwap r x).signals = s.signals := rfl
@[simp] theorem State.setSwap_anvils (r : Nat) (x : Option Swapping) :
    (s.setSwap r x).anvils = s.anvils := rfl
@[simp] theorem State.setSwap_slicers (r : Nat) (x : Option Swapping) :
    (s.setSwap r x).slicers = s.slicers := rfl
@[simp] theorem State.setSwap_swages (r : Nat) (x : Option Swapping) :
    (s.setSwap r x).swages = s.swages := rfl
@[simp] theorem State.setSwap_crucibles (r : Nat) (x : Option Swapping) :
    (s.setSwap r x).crucibles = s.crucibles := rfl
@[simp] theorem State.setSwap_planishers (r : Nat) (x : Option Swapping) :
    (s.setSwap r x).planishers = s.planishers := rfl
@[simp] theorem State.setSwap_tinkers (r : Nat) (x : Option Swapping) :
    (s.setSwap r x).tinkers = s.tinkers := rfl
@[simp] theorem State.setSwap_plan (r : Nat) (x : Option Swapping) : (s.setSwap r x).plan = s.plan := rfl
@[simp] theorem State.setSwap_radio (r : Nat) (x : Option Swapping) : (s.setSwap r x).radio = s.radio := rfl
@[simp] theorem State.setSwap_code (r : Nat) (x : Option Swapping) : (s.setSwap r x).code = s.code := rfl
@[simp] theorem State.setSwap_train (r : Nat) (x : Option Swapping) : (s.setSwap r x).train = s.train := rfl
@[simp] theorem State.setSwap_net (r : Nat) (x : Option Swapping) : (s.setSwap r x).net = s.net := rfl
@[simp] theorem State.setSwap_time (r : Nat) (x : Option Swapping) : (s.setSwap r x).time = s.time := rfl
@[simp] theorem State.setSwap_twin (r : Nat) (x : Option Swapping) : (s.setSwap r x).twin = s.twin := rfl
@[simp] theorem State.setSwap_power (r : Nat) (x : Option Swapping) : (s.setSwap r x).power = s.power := rfl
@[simp] theorem State.setSwap_start (r : Nat) (x : Option Swapping) : (s.setSwap r x).start = s.start := rfl
@[simp] theorem State.setSwap_sec (r : Nat) (x : Option Swapping) : (s.setSwap r x).sec = s.sec := rfl
@[simp] theorem State.setSwap_seq (r : Nat) (x : Option Swapping) : (s.setSwap r x).seq = s.seq := rfl
@[simp] theorem State.setSwap_i3c (r : Nat) (x : Option Swapping) : (s.setSwap r x).i3c = s.i3c := rfl
@[simp] theorem State.setSwap_test (r : Nat) (x : Option Swapping) : (s.setSwap r x).test = s.test := rfl
@[simp] theorem State.setSwap_pins (r : Nat) (x : Option Swapping) : (s.setSwap r x).pins = s.pins := rfl
@[simp] theorem State.setSwap_free (r : Nat) (x : Option Swapping) : (s.setSwap r x).free = s.free := rfl
@[simp] theorem State.setSwap_drawn (r : Nat) (x : Option Swapping) : (s.setSwap r x).drawn = s.drawn := rfl

/-! ## `setGrants` -/

@[simp] theorem State.setGrants_pending (r : Nat) (g : List Grant) :
    (s.setGrants r g).pending = s.pending := rfl
@[simp] theorem State.setGrants_regs (r : Nat) (g : List Grant) : (s.setGrants r g).regs = s.regs := rfl
@[simp] theorem State.setGrants_clock (r : Nat) (g : List Grant) : (s.setGrants r g).clock = s.clock := rfl
@[simp] theorem State.setGrants_commit (r : Nat) (g : List Grant) : (s.setGrants r g).commit = s.commit := rfl
@[simp] theorem State.setGrants_chans (r : Nat) (g : List Grant) : (s.setGrants r g).chans = s.chans := rfl
@[simp] theorem State.setGrants_taps (r : Nat) (g : List Grant) : (s.setGrants r g).taps = s.taps := rfl
@[simp] theorem State.setGrants_due (r : Nat) (g : List Grant) : (s.setGrants r g).due = s.due := rfl
@[simp] theorem State.setGrants_spine (r : Nat) (g : List Grant) : (s.setGrants r g).spine = s.spine := rfl
@[simp] theorem State.setGrants_faults (r : Nat) (g : List Grant) : (s.setGrants r g).faults = s.faults := rfl
@[simp] theorem State.setGrants_ledger (r : Nat) (g : List Grant) : (s.setGrants r g).ledger = s.ledger := rfl
@[simp] theorem State.setGrants_mem (r : Nat) (g : List Grant) : (s.setGrants r g).mem = s.mem := rfl
@[simp] theorem State.setGrants_hbm (r : Nat) (g : List Grant) : (s.setGrants r g).hbm = s.hbm := rfl
@[simp] theorem State.setGrants_ladles (r : Nat) (g : List Grant) : (s.setGrants r g).ladles = s.ladles := rfl
@[simp] theorem State.setGrants_running (r : Nat) (g : List Grant) :
    (s.setGrants r g).running = s.running := rfl
@[simp] theorem State.setGrants_signals (r : Nat) (g : List Grant) :
    (s.setGrants r g).signals = s.signals := rfl
@[simp] theorem State.setGrants_anvils (r : Nat) (g : List Grant) : (s.setGrants r g).anvils = s.anvils := rfl
@[simp] theorem State.setGrants_slicers (r : Nat) (g : List Grant) :
    (s.setGrants r g).slicers = s.slicers := rfl
@[simp] theorem State.setGrants_swages (r : Nat) (g : List Grant) : (s.setGrants r g).swages = s.swages := rfl
@[simp] theorem State.setGrants_crucibles (r : Nat) (g : List Grant) :
    (s.setGrants r g).crucibles = s.crucibles := rfl
@[simp] theorem State.setGrants_planishers (r : Nat) (g : List Grant) :
    (s.setGrants r g).planishers = s.planishers := rfl
@[simp] theorem State.setGrants_tinkers (r : Nat) (g : List Grant) :
    (s.setGrants r g).tinkers = s.tinkers := rfl
@[simp] theorem State.setGrants_plan (r : Nat) (g : List Grant) : (s.setGrants r g).plan = s.plan := rfl
@[simp] theorem State.setGrants_radio (r : Nat) (g : List Grant) : (s.setGrants r g).radio = s.radio := rfl
@[simp] theorem State.setGrants_code (r : Nat) (g : List Grant) : (s.setGrants r g).code = s.code := rfl
@[simp] theorem State.setGrants_train (r : Nat) (g : List Grant) : (s.setGrants r g).train = s.train := rfl
@[simp] theorem State.setGrants_net (r : Nat) (g : List Grant) : (s.setGrants r g).net = s.net := rfl
@[simp] theorem State.setGrants_time (r : Nat) (g : List Grant) : (s.setGrants r g).time = s.time := rfl
@[simp] theorem State.setGrants_twin (r : Nat) (g : List Grant) : (s.setGrants r g).twin = s.twin := rfl
@[simp] theorem State.setGrants_power (r : Nat) (g : List Grant) : (s.setGrants r g).power = s.power := rfl
@[simp] theorem State.setGrants_start (r : Nat) (g : List Grant) : (s.setGrants r g).start = s.start := rfl
@[simp] theorem State.setGrants_sec (r : Nat) (g : List Grant) : (s.setGrants r g).sec = s.sec := rfl
@[simp] theorem State.setGrants_seq (r : Nat) (g : List Grant) : (s.setGrants r g).seq = s.seq := rfl
@[simp] theorem State.setGrants_i3c (r : Nat) (g : List Grant) : (s.setGrants r g).i3c = s.i3c := rfl
@[simp] theorem State.setGrants_test (r : Nat) (g : List Grant) : (s.setGrants r g).test = s.test := rfl
@[simp] theorem State.setGrants_pins (r : Nat) (g : List Grant) : (s.setGrants r g).pins = s.pins := rfl
@[simp] theorem State.setGrants_free (r : Nat) (g : List Grant) : (s.setGrants r g).free = s.free := rfl
@[simp] theorem State.setGrants_drawn (r : Nat) (g : List Grant) : (s.setGrants r g).drawn = s.drawn := rfl

/-! ## `setWaits` -/

@[simp] theorem State.setWaits_pending (r : Nat) (w : List LeaveReq) :
    (s.setWaits r w).pending = s.pending := rfl
@[simp] theorem State.setWaits_regs (r : Nat) (w : List LeaveReq) : (s.setWaits r w).regs = s.regs := rfl
@[simp] theorem State.setWaits_clock (r : Nat) (w : List LeaveReq) : (s.setWaits r w).clock = s.clock := rfl
@[simp] theorem State.setWaits_commit (r : Nat) (w : List LeaveReq) :
    (s.setWaits r w).commit = s.commit := rfl
@[simp] theorem State.setWaits_chans (r : Nat) (w : List LeaveReq) : (s.setWaits r w).chans = s.chans := rfl
@[simp] theorem State.setWaits_taps (r : Nat) (w : List LeaveReq) : (s.setWaits r w).taps = s.taps := rfl
@[simp] theorem State.setWaits_due (r : Nat) (w : List LeaveReq) : (s.setWaits r w).due = s.due := rfl
@[simp] theorem State.setWaits_spine (r : Nat) (w : List LeaveReq) : (s.setWaits r w).spine = s.spine := rfl
@[simp] theorem State.setWaits_faults (r : Nat) (w : List LeaveReq) :
    (s.setWaits r w).faults = s.faults := rfl
@[simp] theorem State.setWaits_ledger (r : Nat) (w : List LeaveReq) :
    (s.setWaits r w).ledger = s.ledger := rfl
@[simp] theorem State.setWaits_mem (r : Nat) (w : List LeaveReq) : (s.setWaits r w).mem = s.mem := rfl
@[simp] theorem State.setWaits_hbm (r : Nat) (w : List LeaveReq) : (s.setWaits r w).hbm = s.hbm := rfl
@[simp] theorem State.setWaits_ladles (r : Nat) (w : List LeaveReq) :
    (s.setWaits r w).ladles = s.ladles := rfl
@[simp] theorem State.setWaits_running (r : Nat) (w : List LeaveReq) :
    (s.setWaits r w).running = s.running := rfl
@[simp] theorem State.setWaits_signals (r : Nat) (w : List LeaveReq) :
    (s.setWaits r w).signals = s.signals := rfl
@[simp] theorem State.setWaits_anvils (r : Nat) (w : List LeaveReq) :
    (s.setWaits r w).anvils = s.anvils := rfl
@[simp] theorem State.setWaits_slicers (r : Nat) (w : List LeaveReq) :
    (s.setWaits r w).slicers = s.slicers := rfl
@[simp] theorem State.setWaits_swages (r : Nat) (w : List LeaveReq) :
    (s.setWaits r w).swages = s.swages := rfl
@[simp] theorem State.setWaits_crucibles (r : Nat) (w : List LeaveReq) :
    (s.setWaits r w).crucibles = s.crucibles := rfl
@[simp] theorem State.setWaits_planishers (r : Nat) (w : List LeaveReq) :
    (s.setWaits r w).planishers = s.planishers := rfl
@[simp] theorem State.setWaits_tinkers (r : Nat) (w : List LeaveReq) :
    (s.setWaits r w).tinkers = s.tinkers := rfl
@[simp] theorem State.setWaits_plan (r : Nat) (w : List LeaveReq) : (s.setWaits r w).plan = s.plan := rfl
@[simp] theorem State.setWaits_radio (r : Nat) (w : List LeaveReq) : (s.setWaits r w).radio = s.radio := rfl
@[simp] theorem State.setWaits_code (r : Nat) (w : List LeaveReq) : (s.setWaits r w).code = s.code := rfl
@[simp] theorem State.setWaits_train (r : Nat) (w : List LeaveReq) : (s.setWaits r w).train = s.train := rfl
@[simp] theorem State.setWaits_net (r : Nat) (w : List LeaveReq) : (s.setWaits r w).net = s.net := rfl
@[simp] theorem State.setWaits_time (r : Nat) (w : List LeaveReq) : (s.setWaits r w).time = s.time := rfl
@[simp] theorem State.setWaits_twin (r : Nat) (w : List LeaveReq) : (s.setWaits r w).twin = s.twin := rfl
@[simp] theorem State.setWaits_power (r : Nat) (w : List LeaveReq) : (s.setWaits r w).power = s.power := rfl
@[simp] theorem State.setWaits_start (r : Nat) (w : List LeaveReq) : (s.setWaits r w).start = s.start := rfl
@[simp] theorem State.setWaits_sec (r : Nat) (w : List LeaveReq) : (s.setWaits r w).sec = s.sec := rfl
@[simp] theorem State.setWaits_seq (r : Nat) (w : List LeaveReq) : (s.setWaits r w).seq = s.seq := rfl
@[simp] theorem State.setWaits_i3c (r : Nat) (w : List LeaveReq) : (s.setWaits r w).i3c = s.i3c := rfl
@[simp] theorem State.setWaits_test (r : Nat) (w : List LeaveReq) : (s.setWaits r w).test = s.test := rfl
@[simp] theorem State.setWaits_pins (r : Nat) (w : List LeaveReq) : (s.setWaits r w).pins = s.pins := rfl
@[simp] theorem State.setWaits_free (r : Nat) (w : List LeaveReq) : (s.setWaits r w).free = s.free := rfl
@[simp] theorem State.setWaits_drawn (r : Nat) (w : List LeaveReq) : (s.setWaits r w).drawn = s.drawn := rfl

/-! ## `notify` -/

@[simp] theorem State.notify_pending (k : Notice) (n : Nat) : (s.notify k n).pending = s.pending := rfl
@[simp] theorem State.notify_regs (k : Notice) (n : Nat) : (s.notify k n).regs = s.regs := rfl
@[simp] theorem State.notify_clock (k : Notice) (n : Nat) : (s.notify k n).clock = s.clock := rfl
@[simp] theorem State.notify_commit (k : Notice) (n : Nat) : (s.notify k n).commit = s.commit := rfl
@[simp] theorem State.notify_chans (k : Notice) (n : Nat) : (s.notify k n).chans = s.chans := rfl
@[simp] theorem State.notify_taps (k : Notice) (n : Nat) : (s.notify k n).taps = s.taps := rfl
@[simp] theorem State.notify_due (k : Notice) (n : Nat) : (s.notify k n).due = s.due := rfl
@[simp] theorem State.notify_spine (k : Notice) (n : Nat) : (s.notify k n).spine = s.spine := rfl
@[simp] theorem State.notify_faults (k : Notice) (n : Nat) : (s.notify k n).faults = s.faults := rfl
@[simp] theorem State.notify_ledger (k : Notice) (n : Nat) : (s.notify k n).ledger = s.ledger := rfl
@[simp] theorem State.notify_mem (k : Notice) (n : Nat) : (s.notify k n).mem = s.mem := rfl
@[simp] theorem State.notify_hbm (k : Notice) (n : Nat) : (s.notify k n).hbm = s.hbm := rfl
@[simp] theorem State.notify_ladles (k : Notice) (n : Nat) : (s.notify k n).ladles = s.ladles := rfl
@[simp] theorem State.notify_running (k : Notice) (n : Nat) : (s.notify k n).running = s.running := rfl
@[simp] theorem State.notify_signals (k : Notice) (n : Nat) : (s.notify k n).signals = s.signals := rfl
@[simp] theorem State.notify_anvils (k : Notice) (n : Nat) : (s.notify k n).anvils = s.anvils := rfl
@[simp] theorem State.notify_slicers (k : Notice) (n : Nat) : (s.notify k n).slicers = s.slicers := rfl
@[simp] theorem State.notify_swages (k : Notice) (n : Nat) : (s.notify k n).swages = s.swages := rfl
@[simp] theorem State.notify_crucibles (k : Notice) (n : Nat) : (s.notify k n).crucibles = s.crucibles := rfl
@[simp] theorem State.notify_planishers (k : Notice) (n : Nat) :
    (s.notify k n).planishers = s.planishers := rfl
@[simp] theorem State.notify_tinkers (k : Notice) (n : Nat) : (s.notify k n).tinkers = s.tinkers := rfl
@[simp] theorem State.notify_plan (k : Notice) (n : Nat) : (s.notify k n).plan = s.plan := rfl
@[simp] theorem State.notify_els (k : Notice) (n : Nat) : (s.notify k n).els = s.els := rfl
@[simp] theorem State.notify_radio (k : Notice) (n : Nat) : (s.notify k n).radio = s.radio := rfl
@[simp] theorem State.notify_code (k : Notice) (n : Nat) : (s.notify k n).code = s.code := rfl
@[simp] theorem State.notify_train (k : Notice) (n : Nat) : (s.notify k n).train = s.train := rfl
@[simp] theorem State.notify_net (k : Notice) (n : Nat) : (s.notify k n).net = s.net := rfl
@[simp] theorem State.notify_time (k : Notice) (n : Nat) : (s.notify k n).time = s.time := rfl
@[simp] theorem State.notify_power (k : Notice) (n : Nat) : (s.notify k n).power = s.power := rfl
@[simp] theorem State.notify_start (k : Notice) (n : Nat) : (s.notify k n).start = s.start := rfl
@[simp] theorem State.notify_sec (k : Notice) (n : Nat) : (s.notify k n).sec = s.sec := rfl
@[simp] theorem State.notify_seq (k : Notice) (n : Nat) : (s.notify k n).seq = s.seq := rfl
@[simp] theorem State.notify_i3c (k : Notice) (n : Nat) : (s.notify k n).i3c = s.i3c := rfl
@[simp] theorem State.notify_test (k : Notice) (n : Nat) : (s.notify k n).test = s.test := rfl
@[simp] theorem State.notify_pins (k : Notice) (n : Nat) : (s.notify k n).pins = s.pins := rfl
@[simp] theorem State.notify_free (k : Notice) (n : Nat) : (s.notify k n).free = s.free := rfl
@[simp] theorem State.notify_drawn (k : Notice) (n : Nat) : (s.notify k n).drawn = s.drawn := rfl

/-! ## `setTwinState` -/

@[simp] theorem State.setTwinState_pending (v : Nat) : (s.setTwinState v).pending = s.pending := rfl
@[simp] theorem State.setTwinState_clock (v : Nat) : (s.setTwinState v).clock = s.clock := rfl
@[simp] theorem State.setTwinState_commit (v : Nat) : (s.setTwinState v).commit = s.commit := rfl
@[simp] theorem State.setTwinState_chans (v : Nat) : (s.setTwinState v).chans = s.chans := rfl
@[simp] theorem State.setTwinState_taps (v : Nat) : (s.setTwinState v).taps = s.taps := rfl
@[simp] theorem State.setTwinState_due (v : Nat) : (s.setTwinState v).due = s.due := rfl
@[simp] theorem State.setTwinState_spine (v : Nat) : (s.setTwinState v).spine = s.spine := rfl
@[simp] theorem State.setTwinState_faults (v : Nat) : (s.setTwinState v).faults = s.faults := rfl
@[simp] theorem State.setTwinState_ledger (v : Nat) : (s.setTwinState v).ledger = s.ledger := rfl
@[simp] theorem State.setTwinState_mem (v : Nat) : (s.setTwinState v).mem = s.mem := rfl
@[simp] theorem State.setTwinState_hbm (v : Nat) : (s.setTwinState v).hbm = s.hbm := rfl
@[simp] theorem State.setTwinState_ladles (v : Nat) : (s.setTwinState v).ladles = s.ladles := rfl
@[simp] theorem State.setTwinState_running (v : Nat) : (s.setTwinState v).running = s.running := rfl
@[simp] theorem State.setTwinState_signals (v : Nat) : (s.setTwinState v).signals = s.signals := rfl
@[simp] theorem State.setTwinState_anvils (v : Nat) : (s.setTwinState v).anvils = s.anvils := rfl
@[simp] theorem State.setTwinState_slicers (v : Nat) : (s.setTwinState v).slicers = s.slicers := rfl
@[simp] theorem State.setTwinState_swages (v : Nat) : (s.setTwinState v).swages = s.swages := rfl
@[simp] theorem State.setTwinState_crucibles (v : Nat) : (s.setTwinState v).crucibles = s.crucibles := rfl
@[simp] theorem State.setTwinState_planishers (v : Nat) : (s.setTwinState v).planishers = s.planishers := rfl
@[simp] theorem State.setTwinState_tinkers (v : Nat) : (s.setTwinState v).tinkers = s.tinkers := rfl
@[simp] theorem State.setTwinState_plan (v : Nat) : (s.setTwinState v).plan = s.plan := rfl
@[simp] theorem State.setTwinState_els (v : Nat) : (s.setTwinState v).els = s.els := rfl
@[simp] theorem State.setTwinState_radio (v : Nat) : (s.setTwinState v).radio = s.radio := rfl
@[simp] theorem State.setTwinState_code (v : Nat) : (s.setTwinState v).code = s.code := rfl
@[simp] theorem State.setTwinState_train (v : Nat) : (s.setTwinState v).train = s.train := rfl
@[simp] theorem State.setTwinState_net (v : Nat) : (s.setTwinState v).net = s.net := rfl
@[simp] theorem State.setTwinState_time (v : Nat) : (s.setTwinState v).time = s.time := rfl
@[simp] theorem State.setTwinState_twin (v : Nat) : (s.setTwinState v).twin = s.twin := rfl
@[simp] theorem State.setTwinState_power (v : Nat) : (s.setTwinState v).power = s.power := rfl
@[simp] theorem State.setTwinState_start (v : Nat) : (s.setTwinState v).start = s.start := rfl
@[simp] theorem State.setTwinState_sec (v : Nat) : (s.setTwinState v).sec = s.sec := rfl
@[simp] theorem State.setTwinState_seq (v : Nat) : (s.setTwinState v).seq = s.seq := rfl
@[simp] theorem State.setTwinState_i3c (v : Nat) : (s.setTwinState v).i3c = s.i3c := rfl
@[simp] theorem State.setTwinState_test (v : Nat) : (s.setTwinState v).test = s.test := rfl
@[simp] theorem State.setTwinState_pins (v : Nat) : (s.setTwinState v).pins = s.pins := rfl
@[simp] theorem State.setTwinState_free (v : Nat) : (s.setTwinState v).free = s.free := rfl
@[simp] theorem State.setTwinState_drawn (v : Nat) : (s.setTwinState v).drawn = s.drawn := rfl

/-! ## `setLive` -/

@[simp] theorem State.setLive_pending (b : Bool) : (s.setLive b).pending = s.pending := rfl
@[simp] theorem State.setLive_clock (b : Bool) : (s.setLive b).clock = s.clock := rfl
@[simp] theorem State.setLive_commit (b : Bool) : (s.setLive b).commit = s.commit := rfl
@[simp] theorem State.setLive_chans (b : Bool) : (s.setLive b).chans = s.chans := rfl
@[simp] theorem State.setLive_taps (b : Bool) : (s.setLive b).taps = s.taps := rfl
@[simp] theorem State.setLive_due (b : Bool) : (s.setLive b).due = s.due := rfl
@[simp] theorem State.setLive_spine (b : Bool) : (s.setLive b).spine = s.spine := rfl
@[simp] theorem State.setLive_faults (b : Bool) : (s.setLive b).faults = s.faults := rfl
@[simp] theorem State.setLive_ledger (b : Bool) : (s.setLive b).ledger = s.ledger := rfl
@[simp] theorem State.setLive_mem (b : Bool) : (s.setLive b).mem = s.mem := rfl
@[simp] theorem State.setLive_hbm (b : Bool) : (s.setLive b).hbm = s.hbm := rfl
@[simp] theorem State.setLive_ladles (b : Bool) : (s.setLive b).ladles = s.ladles := rfl
@[simp] theorem State.setLive_running (b : Bool) : (s.setLive b).running = s.running := rfl
@[simp] theorem State.setLive_signals (b : Bool) : (s.setLive b).signals = s.signals := rfl
@[simp] theorem State.setLive_anvils (b : Bool) : (s.setLive b).anvils = s.anvils := rfl
@[simp] theorem State.setLive_slicers (b : Bool) : (s.setLive b).slicers = s.slicers := rfl
@[simp] theorem State.setLive_swages (b : Bool) : (s.setLive b).swages = s.swages := rfl
@[simp] theorem State.setLive_crucibles (b : Bool) : (s.setLive b).crucibles = s.crucibles := rfl
@[simp] theorem State.setLive_planishers (b : Bool) : (s.setLive b).planishers = s.planishers := rfl
@[simp] theorem State.setLive_tinkers (b : Bool) : (s.setLive b).tinkers = s.tinkers := rfl
@[simp] theorem State.setLive_plan (b : Bool) : (s.setLive b).plan = s.plan := rfl
@[simp] theorem State.setLive_els (b : Bool) : (s.setLive b).els = s.els := rfl
@[simp] theorem State.setLive_radio (b : Bool) : (s.setLive b).radio = s.radio := rfl
@[simp] theorem State.setLive_code (b : Bool) : (s.setLive b).code = s.code := rfl
@[simp] theorem State.setLive_train (b : Bool) : (s.setLive b).train = s.train := rfl
@[simp] theorem State.setLive_net (b : Bool) : (s.setLive b).net = s.net := rfl
@[simp] theorem State.setLive_time (b : Bool) : (s.setLive b).time = s.time := rfl
@[simp] theorem State.setLive_twin (b : Bool) : (s.setLive b).twin = s.twin := rfl
@[simp] theorem State.setLive_power (b : Bool) : (s.setLive b).power = s.power := rfl
@[simp] theorem State.setLive_start (b : Bool) : (s.setLive b).start = s.start := rfl
@[simp] theorem State.setLive_sec (b : Bool) : (s.setLive b).sec = s.sec := rfl
@[simp] theorem State.setLive_seq (b : Bool) : (s.setLive b).seq = s.seq := rfl
@[simp] theorem State.setLive_i3c (b : Bool) : (s.setLive b).i3c = s.i3c := rfl
@[simp] theorem State.setLive_test (b : Bool) : (s.setLive b).test = s.test := rfl
@[simp] theorem State.setLive_pins (b : Bool) : (s.setLive b).pins = s.pins := rfl
@[simp] theorem State.setLive_free (b : Bool) : (s.setLive b).free = s.free := rfl
@[simp] theorem State.setLive_drawn (b : Bool) : (s.setLive b).drawn = s.drawn := rfl

/-! ## `setStandby` -/

@[simp] theorem State.setStandby_pending (v : Nat) : (s.setStandby v).pending = s.pending := rfl
@[simp] theorem State.setStandby_clock (v : Nat) : (s.setStandby v).clock = s.clock := rfl
@[simp] theorem State.setStandby_commit (v : Nat) : (s.setStandby v).commit = s.commit := rfl
@[simp] theorem State.setStandby_chans (v : Nat) : (s.setStandby v).chans = s.chans := rfl
@[simp] theorem State.setStandby_taps (v : Nat) : (s.setStandby v).taps = s.taps := rfl
@[simp] theorem State.setStandby_due (v : Nat) : (s.setStandby v).due = s.due := rfl
@[simp] theorem State.setStandby_spine (v : Nat) : (s.setStandby v).spine = s.spine := rfl
@[simp] theorem State.setStandby_faults (v : Nat) : (s.setStandby v).faults = s.faults := rfl
@[simp] theorem State.setStandby_ledger (v : Nat) : (s.setStandby v).ledger = s.ledger := rfl
@[simp] theorem State.setStandby_mem (v : Nat) : (s.setStandby v).mem = s.mem := rfl
@[simp] theorem State.setStandby_hbm (v : Nat) : (s.setStandby v).hbm = s.hbm := rfl
@[simp] theorem State.setStandby_ladles (v : Nat) : (s.setStandby v).ladles = s.ladles := rfl
@[simp] theorem State.setStandby_running (v : Nat) : (s.setStandby v).running = s.running := rfl
@[simp] theorem State.setStandby_signals (v : Nat) : (s.setStandby v).signals = s.signals := rfl
@[simp] theorem State.setStandby_anvils (v : Nat) : (s.setStandby v).anvils = s.anvils := rfl
@[simp] theorem State.setStandby_slicers (v : Nat) : (s.setStandby v).slicers = s.slicers := rfl
@[simp] theorem State.setStandby_swages (v : Nat) : (s.setStandby v).swages = s.swages := rfl
@[simp] theorem State.setStandby_crucibles (v : Nat) : (s.setStandby v).crucibles = s.crucibles := rfl
@[simp] theorem State.setStandby_planishers (v : Nat) : (s.setStandby v).planishers = s.planishers := rfl
@[simp] theorem State.setStandby_tinkers (v : Nat) : (s.setStandby v).tinkers = s.tinkers := rfl
@[simp] theorem State.setStandby_plan (v : Nat) : (s.setStandby v).plan = s.plan := rfl
@[simp] theorem State.setStandby_els (v : Nat) : (s.setStandby v).els = s.els := rfl
@[simp] theorem State.setStandby_radio (v : Nat) : (s.setStandby v).radio = s.radio := rfl
@[simp] theorem State.setStandby_code (v : Nat) : (s.setStandby v).code = s.code := rfl
@[simp] theorem State.setStandby_train (v : Nat) : (s.setStandby v).train = s.train := rfl
@[simp] theorem State.setStandby_net (v : Nat) : (s.setStandby v).net = s.net := rfl
@[simp] theorem State.setStandby_time (v : Nat) : (s.setStandby v).time = s.time := rfl
@[simp] theorem State.setStandby_twin (v : Nat) : (s.setStandby v).twin = s.twin := rfl
@[simp] theorem State.setStandby_power (v : Nat) : (s.setStandby v).power = s.power := rfl
@[simp] theorem State.setStandby_start (v : Nat) : (s.setStandby v).start = s.start := rfl
@[simp] theorem State.setStandby_sec (v : Nat) : (s.setStandby v).sec = s.sec := rfl
@[simp] theorem State.setStandby_seq (v : Nat) : (s.setStandby v).seq = s.seq := rfl
@[simp] theorem State.setStandby_i3c (v : Nat) : (s.setStandby v).i3c = s.i3c := rfl
@[simp] theorem State.setStandby_test (v : Nat) : (s.setStandby v).test = s.test := rfl
@[simp] theorem State.setStandby_pins (v : Nat) : (s.setStandby v).pins = s.pins := rfl
@[simp] theorem State.setStandby_free (v : Nat) : (s.setStandby v).free = s.free := rfl
@[simp] theorem State.setStandby_drawn (v : Nat) : (s.setStandby v).drawn = s.drawn := rfl

/-! ## `setPowerState` -/

@[simp] theorem State.setPowerState_pending (v : Nat) : (s.setPowerState v).pending = s.pending := rfl
@[simp] theorem State.setPowerState_clock (v : Nat) : (s.setPowerState v).clock = s.clock := rfl
@[simp] theorem State.setPowerState_commit (v : Nat) : (s.setPowerState v).commit = s.commit := rfl
@[simp] theorem State.setPowerState_chans (v : Nat) : (s.setPowerState v).chans = s.chans := rfl
@[simp] theorem State.setPowerState_taps (v : Nat) : (s.setPowerState v).taps = s.taps := rfl
@[simp] theorem State.setPowerState_due (v : Nat) : (s.setPowerState v).due = s.due := rfl
@[simp] theorem State.setPowerState_spine (v : Nat) : (s.setPowerState v).spine = s.spine := rfl
@[simp] theorem State.setPowerState_faults (v : Nat) : (s.setPowerState v).faults = s.faults := rfl
@[simp] theorem State.setPowerState_ledger (v : Nat) : (s.setPowerState v).ledger = s.ledger := rfl
@[simp] theorem State.setPowerState_mem (v : Nat) : (s.setPowerState v).mem = s.mem := rfl
@[simp] theorem State.setPowerState_hbm (v : Nat) : (s.setPowerState v).hbm = s.hbm := rfl
@[simp] theorem State.setPowerState_ladles (v : Nat) : (s.setPowerState v).ladles = s.ladles := rfl
@[simp] theorem State.setPowerState_running (v : Nat) : (s.setPowerState v).running = s.running := rfl
@[simp] theorem State.setPowerState_signals (v : Nat) : (s.setPowerState v).signals = s.signals := rfl
@[simp] theorem State.setPowerState_anvils (v : Nat) : (s.setPowerState v).anvils = s.anvils := rfl
@[simp] theorem State.setPowerState_slicers (v : Nat) : (s.setPowerState v).slicers = s.slicers := rfl
@[simp] theorem State.setPowerState_swages (v : Nat) : (s.setPowerState v).swages = s.swages := rfl
@[simp] theorem State.setPowerState_crucibles (v : Nat) : (s.setPowerState v).crucibles = s.crucibles := rfl
@[simp] theorem State.setPowerState_planishers (v : Nat) :
    (s.setPowerState v).planishers = s.planishers := rfl
@[simp] theorem State.setPowerState_tinkers (v : Nat) : (s.setPowerState v).tinkers = s.tinkers := rfl
@[simp] theorem State.setPowerState_plan (v : Nat) : (s.setPowerState v).plan = s.plan := rfl
@[simp] theorem State.setPowerState_els (v : Nat) : (s.setPowerState v).els = s.els := rfl
@[simp] theorem State.setPowerState_radio (v : Nat) : (s.setPowerState v).radio = s.radio := rfl
@[simp] theorem State.setPowerState_code (v : Nat) : (s.setPowerState v).code = s.code := rfl
@[simp] theorem State.setPowerState_train (v : Nat) : (s.setPowerState v).train = s.train := rfl
@[simp] theorem State.setPowerState_net (v : Nat) : (s.setPowerState v).net = s.net := rfl
@[simp] theorem State.setPowerState_time (v : Nat) : (s.setPowerState v).time = s.time := rfl
@[simp] theorem State.setPowerState_twin (v : Nat) : (s.setPowerState v).twin = s.twin := rfl
@[simp] theorem State.setPowerState_power (v : Nat) : (s.setPowerState v).power = s.power := rfl
@[simp] theorem State.setPowerState_start (v : Nat) : (s.setPowerState v).start = s.start := rfl
@[simp] theorem State.setPowerState_sec (v : Nat) : (s.setPowerState v).sec = s.sec := rfl
@[simp] theorem State.setPowerState_seq (v : Nat) : (s.setPowerState v).seq = s.seq := rfl
@[simp] theorem State.setPowerState_i3c (v : Nat) : (s.setPowerState v).i3c = s.i3c := rfl
@[simp] theorem State.setPowerState_test (v : Nat) : (s.setPowerState v).test = s.test := rfl
@[simp] theorem State.setPowerState_pins (v : Nat) : (s.setPowerState v).pins = s.pins := rfl
@[simp] theorem State.setPowerState_free (v : Nat) : (s.setPowerState v).free = s.free := rfl
@[simp] theorem State.setPowerState_drawn (v : Nat) : (s.setPowerState v).drawn = s.drawn := rfl

/-! ## `setTuState` -/

@[simp] theorem State.setTuState_pending (v : Nat) : (s.setTuState v).pending = s.pending := rfl
@[simp] theorem State.setTuState_clock (v : Nat) : (s.setTuState v).clock = s.clock := rfl
@[simp] theorem State.setTuState_commit (v : Nat) : (s.setTuState v).commit = s.commit := rfl
@[simp] theorem State.setTuState_chans (v : Nat) : (s.setTuState v).chans = s.chans := rfl
@[simp] theorem State.setTuState_taps (v : Nat) : (s.setTuState v).taps = s.taps := rfl
@[simp] theorem State.setTuState_due (v : Nat) : (s.setTuState v).due = s.due := rfl
@[simp] theorem State.setTuState_spine (v : Nat) : (s.setTuState v).spine = s.spine := rfl
@[simp] theorem State.setTuState_faults (v : Nat) : (s.setTuState v).faults = s.faults := rfl
@[simp] theorem State.setTuState_ledger (v : Nat) : (s.setTuState v).ledger = s.ledger := rfl
@[simp] theorem State.setTuState_mem (v : Nat) : (s.setTuState v).mem = s.mem := rfl
@[simp] theorem State.setTuState_hbm (v : Nat) : (s.setTuState v).hbm = s.hbm := rfl
@[simp] theorem State.setTuState_ladles (v : Nat) : (s.setTuState v).ladles = s.ladles := rfl
@[simp] theorem State.setTuState_running (v : Nat) : (s.setTuState v).running = s.running := rfl
@[simp] theorem State.setTuState_signals (v : Nat) : (s.setTuState v).signals = s.signals := rfl
@[simp] theorem State.setTuState_anvils (v : Nat) : (s.setTuState v).anvils = s.anvils := rfl
@[simp] theorem State.setTuState_slicers (v : Nat) : (s.setTuState v).slicers = s.slicers := rfl
@[simp] theorem State.setTuState_swages (v : Nat) : (s.setTuState v).swages = s.swages := rfl
@[simp] theorem State.setTuState_crucibles (v : Nat) : (s.setTuState v).crucibles = s.crucibles := rfl
@[simp] theorem State.setTuState_planishers (v : Nat) : (s.setTuState v).planishers = s.planishers := rfl
@[simp] theorem State.setTuState_tinkers (v : Nat) : (s.setTuState v).tinkers = s.tinkers := rfl
@[simp] theorem State.setTuState_plan (v : Nat) : (s.setTuState v).plan = s.plan := rfl
@[simp] theorem State.setTuState_els (v : Nat) : (s.setTuState v).els = s.els := rfl
@[simp] theorem State.setTuState_radio (v : Nat) : (s.setTuState v).radio = s.radio := rfl
@[simp] theorem State.setTuState_code (v : Nat) : (s.setTuState v).code = s.code := rfl
@[simp] theorem State.setTuState_train (v : Nat) : (s.setTuState v).train = s.train := rfl
@[simp] theorem State.setTuState_net (v : Nat) : (s.setTuState v).net = s.net := rfl
@[simp] theorem State.setTuState_time (v : Nat) : (s.setTuState v).time = s.time := rfl
@[simp] theorem State.setTuState_twin (v : Nat) : (s.setTuState v).twin = s.twin := rfl
@[simp] theorem State.setTuState_power (v : Nat) : (s.setTuState v).power = s.power := rfl
@[simp] theorem State.setTuState_start (v : Nat) : (s.setTuState v).start = s.start := rfl
@[simp] theorem State.setTuState_sec (v : Nat) : (s.setTuState v).sec = s.sec := rfl
@[simp] theorem State.setTuState_seq (v : Nat) : (s.setTuState v).seq = s.seq := rfl
@[simp] theorem State.setTuState_i3c (v : Nat) : (s.setTuState v).i3c = s.i3c := rfl
@[simp] theorem State.setTuState_test (v : Nat) : (s.setTuState v).test = s.test := rfl
@[simp] theorem State.setTuState_pins (v : Nat) : (s.setTuState v).pins = s.pins := rfl
@[simp] theorem State.setTuState_free (v : Nat) : (s.setTuState v).free = s.free := rfl
@[simp] theorem State.setTuState_drawn (v : Nat) : (s.setTuState v).drawn = s.drawn := rfl

/-! ## `setSlave` -/

@[simp] theorem State.setSlave_pending (x : Slave) : (s.setSlave x).pending = s.pending := rfl
@[simp] theorem State.setSlave_regs (x : Slave) : (s.setSlave x).regs = s.regs := rfl
@[simp] theorem State.setSlave_clock (x : Slave) : (s.setSlave x).clock = s.clock := rfl
@[simp] theorem State.setSlave_commit (x : Slave) : (s.setSlave x).commit = s.commit := rfl
@[simp] theorem State.setSlave_chans (x : Slave) : (s.setSlave x).chans = s.chans := rfl
@[simp] theorem State.setSlave_taps (x : Slave) : (s.setSlave x).taps = s.taps := rfl
@[simp] theorem State.setSlave_due (x : Slave) : (s.setSlave x).due = s.due := rfl
@[simp] theorem State.setSlave_spine (x : Slave) : (s.setSlave x).spine = s.spine := rfl
@[simp] theorem State.setSlave_faults (x : Slave) : (s.setSlave x).faults = s.faults := rfl
@[simp] theorem State.setSlave_ledger (x : Slave) : (s.setSlave x).ledger = s.ledger := rfl
@[simp] theorem State.setSlave_mem (x : Slave) : (s.setSlave x).mem = s.mem := rfl
@[simp] theorem State.setSlave_hbm (x : Slave) : (s.setSlave x).hbm = s.hbm := rfl
@[simp] theorem State.setSlave_ladles (x : Slave) : (s.setSlave x).ladles = s.ladles := rfl
@[simp] theorem State.setSlave_running (x : Slave) : (s.setSlave x).running = s.running := rfl
@[simp] theorem State.setSlave_signals (x : Slave) : (s.setSlave x).signals = s.signals := rfl
@[simp] theorem State.setSlave_anvils (x : Slave) : (s.setSlave x).anvils = s.anvils := rfl
@[simp] theorem State.setSlave_slicers (x : Slave) : (s.setSlave x).slicers = s.slicers := rfl
@[simp] theorem State.setSlave_swages (x : Slave) : (s.setSlave x).swages = s.swages := rfl
@[simp] theorem State.setSlave_crucibles (x : Slave) : (s.setSlave x).crucibles = s.crucibles := rfl
@[simp] theorem State.setSlave_planishers (x : Slave) : (s.setSlave x).planishers = s.planishers := rfl
@[simp] theorem State.setSlave_tinkers (x : Slave) : (s.setSlave x).tinkers = s.tinkers := rfl
@[simp] theorem State.setSlave_plan (x : Slave) : (s.setSlave x).plan = s.plan := rfl
@[simp] theorem State.setSlave_els (x : Slave) : (s.setSlave x).els = s.els := rfl
@[simp] theorem State.setSlave_radio (x : Slave) : (s.setSlave x).radio = s.radio := rfl
@[simp] theorem State.setSlave_code (x : Slave) : (s.setSlave x).code = s.code := rfl
@[simp] theorem State.setSlave_train (x : Slave) : (s.setSlave x).train = s.train := rfl
@[simp] theorem State.setSlave_net (x : Slave) : (s.setSlave x).net = s.net := rfl
@[simp] theorem State.setSlave_twin (x : Slave) : (s.setSlave x).twin = s.twin := rfl
@[simp] theorem State.setSlave_power (x : Slave) : (s.setSlave x).power = s.power := rfl
@[simp] theorem State.setSlave_start (x : Slave) : (s.setSlave x).start = s.start := rfl
@[simp] theorem State.setSlave_sec (x : Slave) : (s.setSlave x).sec = s.sec := rfl
@[simp] theorem State.setSlave_seq (x : Slave) : (s.setSlave x).seq = s.seq := rfl
@[simp] theorem State.setSlave_i3c (x : Slave) : (s.setSlave x).i3c = s.i3c := rfl
@[simp] theorem State.setSlave_test (x : Slave) : (s.setSlave x).test = s.test := rfl
@[simp] theorem State.setSlave_pins (x : Slave) : (s.setSlave x).pins = s.pins := rfl
@[simp] theorem State.setSlave_free (x : Slave) : (s.setSlave x).free = s.free := rfl
@[simp] theorem State.setSlave_drawn (x : Slave) : (s.setSlave x).drawn = s.drawn := rfl

/-! ## `enqueue` -/

@[simp] theorem State.enqueue_pending (p : Nat) (x : Sent) : (s.enqueue p x).pending = s.pending := rfl
@[simp] theorem State.enqueue_regs (p : Nat) (x : Sent) : (s.enqueue p x).regs = s.regs := rfl
@[simp] theorem State.enqueue_clock (p : Nat) (x : Sent) : (s.enqueue p x).clock = s.clock := rfl
@[simp] theorem State.enqueue_commit (p : Nat) (x : Sent) : (s.enqueue p x).commit = s.commit := rfl
@[simp] theorem State.enqueue_chans (p : Nat) (x : Sent) : (s.enqueue p x).chans = s.chans := rfl
@[simp] theorem State.enqueue_taps (p : Nat) (x : Sent) : (s.enqueue p x).taps = s.taps := rfl
@[simp] theorem State.enqueue_due (p : Nat) (x : Sent) : (s.enqueue p x).due = s.due := rfl
@[simp] theorem State.enqueue_spine (p : Nat) (x : Sent) : (s.enqueue p x).spine = s.spine := rfl
@[simp] theorem State.enqueue_faults (p : Nat) (x : Sent) : (s.enqueue p x).faults = s.faults := rfl
@[simp] theorem State.enqueue_ledger (p : Nat) (x : Sent) : (s.enqueue p x).ledger = s.ledger := rfl
@[simp] theorem State.enqueue_mem (p : Nat) (x : Sent) : (s.enqueue p x).mem = s.mem := rfl
@[simp] theorem State.enqueue_hbm (p : Nat) (x : Sent) : (s.enqueue p x).hbm = s.hbm := rfl
@[simp] theorem State.enqueue_ladles (p : Nat) (x : Sent) : (s.enqueue p x).ladles = s.ladles := rfl
@[simp] theorem State.enqueue_running (p : Nat) (x : Sent) : (s.enqueue p x).running = s.running := rfl
@[simp] theorem State.enqueue_signals (p : Nat) (x : Sent) : (s.enqueue p x).signals = s.signals := rfl
@[simp] theorem State.enqueue_anvils (p : Nat) (x : Sent) : (s.enqueue p x).anvils = s.anvils := rfl
@[simp] theorem State.enqueue_slicers (p : Nat) (x : Sent) : (s.enqueue p x).slicers = s.slicers := rfl
@[simp] theorem State.enqueue_swages (p : Nat) (x : Sent) : (s.enqueue p x).swages = s.swages := rfl
@[simp] theorem State.enqueue_crucibles (p : Nat) (x : Sent) : (s.enqueue p x).crucibles = s.crucibles := rfl
@[simp] theorem State.enqueue_planishers (p : Nat) (x : Sent) :
    (s.enqueue p x).planishers = s.planishers := rfl
@[simp] theorem State.enqueue_tinkers (p : Nat) (x : Sent) : (s.enqueue p x).tinkers = s.tinkers := rfl
@[simp] theorem State.enqueue_plan (p : Nat) (x : Sent) : (s.enqueue p x).plan = s.plan := rfl
@[simp] theorem State.enqueue_els (p : Nat) (x : Sent) : (s.enqueue p x).els = s.els := rfl
@[simp] theorem State.enqueue_radio (p : Nat) (x : Sent) : (s.enqueue p x).radio = s.radio := rfl
@[simp] theorem State.enqueue_code (p : Nat) (x : Sent) : (s.enqueue p x).code = s.code := rfl
@[simp] theorem State.enqueue_train (p : Nat) (x : Sent) : (s.enqueue p x).train = s.train := rfl
@[simp] theorem State.enqueue_time (p : Nat) (x : Sent) : (s.enqueue p x).time = s.time := rfl
@[simp] theorem State.enqueue_twin (p : Nat) (x : Sent) : (s.enqueue p x).twin = s.twin := rfl
@[simp] theorem State.enqueue_power (p : Nat) (x : Sent) : (s.enqueue p x).power = s.power := rfl
@[simp] theorem State.enqueue_start (p : Nat) (x : Sent) : (s.enqueue p x).start = s.start := rfl
@[simp] theorem State.enqueue_sec (p : Nat) (x : Sent) : (s.enqueue p x).sec = s.sec := rfl
@[simp] theorem State.enqueue_seq (p : Nat) (x : Sent) : (s.enqueue p x).seq = s.seq := rfl
@[simp] theorem State.enqueue_i3c (p : Nat) (x : Sent) : (s.enqueue p x).i3c = s.i3c := rfl
@[simp] theorem State.enqueue_test (p : Nat) (x : Sent) : (s.enqueue p x).test = s.test := rfl
@[simp] theorem State.enqueue_pins (p : Nat) (x : Sent) : (s.enqueue p x).pins = s.pins := rfl
@[simp] theorem State.enqueue_free (p : Nat) (x : Sent) : (s.enqueue p x).free = s.free := rfl
@[simp] theorem State.enqueue_drawn (p : Nat) (x : Sent) : (s.enqueue p x).drawn = s.drawn := rfl

/-! ## `setFlash` -/

@[simp] theorem State.setFlash_pending (a : Nat) (b : List Byte) : (s.setFlash a b).pending = s.pending := rfl
@[simp] theorem State.setFlash_regs (a : Nat) (b : List Byte) : (s.setFlash a b).regs = s.regs := rfl
@[simp] theorem State.setFlash_clock (a : Nat) (b : List Byte) : (s.setFlash a b).clock = s.clock := rfl
@[simp] theorem State.setFlash_commit (a : Nat) (b : List Byte) : (s.setFlash a b).commit = s.commit := rfl
@[simp] theorem State.setFlash_chans (a : Nat) (b : List Byte) : (s.setFlash a b).chans = s.chans := rfl
@[simp] theorem State.setFlash_taps (a : Nat) (b : List Byte) : (s.setFlash a b).taps = s.taps := rfl
@[simp] theorem State.setFlash_due (a : Nat) (b : List Byte) : (s.setFlash a b).due = s.due := rfl
@[simp] theorem State.setFlash_spine (a : Nat) (b : List Byte) : (s.setFlash a b).spine = s.spine := rfl
@[simp] theorem State.setFlash_faults (a : Nat) (b : List Byte) : (s.setFlash a b).faults = s.faults := rfl
@[simp] theorem State.setFlash_ledger (a : Nat) (b : List Byte) : (s.setFlash a b).ledger = s.ledger := rfl
@[simp] theorem State.setFlash_hbm (a : Nat) (b : List Byte) : (s.setFlash a b).hbm = s.hbm := rfl
@[simp] theorem State.setFlash_ladles (a : Nat) (b : List Byte) : (s.setFlash a b).ladles = s.ladles := rfl
@[simp] theorem State.setFlash_running (a : Nat) (b : List Byte) : (s.setFlash a b).running = s.running := rfl
@[simp] theorem State.setFlash_signals (a : Nat) (b : List Byte) : (s.setFlash a b).signals = s.signals := rfl
@[simp] theorem State.setFlash_anvils (a : Nat) (b : List Byte) : (s.setFlash a b).anvils = s.anvils := rfl
@[simp] theorem State.setFlash_slicers (a : Nat) (b : List Byte) : (s.setFlash a b).slicers = s.slicers := rfl
@[simp] theorem State.setFlash_swages (a : Nat) (b : List Byte) : (s.setFlash a b).swages = s.swages := rfl
@[simp] theorem State.setFlash_crucibles (a : Nat) (b : List Byte) :
    (s.setFlash a b).crucibles = s.crucibles := rfl
@[simp] theorem State.setFlash_planishers (a : Nat) (b : List Byte) :
    (s.setFlash a b).planishers = s.planishers := rfl
@[simp] theorem State.setFlash_tinkers (a : Nat) (b : List Byte) : (s.setFlash a b).tinkers = s.tinkers := rfl
@[simp] theorem State.setFlash_plan (a : Nat) (b : List Byte) : (s.setFlash a b).plan = s.plan := rfl
@[simp] theorem State.setFlash_els (a : Nat) (b : List Byte) : (s.setFlash a b).els = s.els := rfl
@[simp] theorem State.setFlash_radio (a : Nat) (b : List Byte) : (s.setFlash a b).radio = s.radio := rfl
@[simp] theorem State.setFlash_code (a : Nat) (b : List Byte) : (s.setFlash a b).code = s.code := rfl
@[simp] theorem State.setFlash_train (a : Nat) (b : List Byte) : (s.setFlash a b).train = s.train := rfl
@[simp] theorem State.setFlash_net (a : Nat) (b : List Byte) : (s.setFlash a b).net = s.net := rfl
@[simp] theorem State.setFlash_time (a : Nat) (b : List Byte) : (s.setFlash a b).time = s.time := rfl
@[simp] theorem State.setFlash_twin (a : Nat) (b : List Byte) : (s.setFlash a b).twin = s.twin := rfl
@[simp] theorem State.setFlash_power (a : Nat) (b : List Byte) : (s.setFlash a b).power = s.power := rfl
@[simp] theorem State.setFlash_start (a : Nat) (b : List Byte) : (s.setFlash a b).start = s.start := rfl
@[simp] theorem State.setFlash_sec (a : Nat) (b : List Byte) : (s.setFlash a b).sec = s.sec := rfl
@[simp] theorem State.setFlash_seq (a : Nat) (b : List Byte) : (s.setFlash a b).seq = s.seq := rfl
@[simp] theorem State.setFlash_i3c (a : Nat) (b : List Byte) : (s.setFlash a b).i3c = s.i3c := rfl
@[simp] theorem State.setFlash_test (a : Nat) (b : List Byte) : (s.setFlash a b).test = s.test := rfl
@[simp] theorem State.setFlash_pins (a : Nat) (b : List Byte) : (s.setFlash a b).pins = s.pins := rfl
@[simp] theorem State.setFlash_free (a : Nat) (b : List Byte) : (s.setFlash a b).free = s.free := rfl
@[simp] theorem State.setFlash_drawn (a : Nat) (b : List Byte) : (s.setFlash a b).drawn = s.drawn := rfl

/-! ## `answer` -/

@[simp] theorem State.answer_pending (b : List Byte) : (s.answer b).pending = s.pending := rfl
@[simp] theorem State.answer_regs (b : List Byte) : (s.answer b).regs = s.regs := rfl
@[simp] theorem State.answer_clock (b : List Byte) : (s.answer b).clock = s.clock := rfl
@[simp] theorem State.answer_commit (b : List Byte) : (s.answer b).commit = s.commit := rfl
@[simp] theorem State.answer_chans (b : List Byte) : (s.answer b).chans = s.chans := rfl
@[simp] theorem State.answer_taps (b : List Byte) : (s.answer b).taps = s.taps := rfl
@[simp] theorem State.answer_due (b : List Byte) : (s.answer b).due = s.due := rfl
@[simp] theorem State.answer_spine (b : List Byte) : (s.answer b).spine = s.spine := rfl
@[simp] theorem State.answer_faults (b : List Byte) : (s.answer b).faults = s.faults := rfl
@[simp] theorem State.answer_ledger (b : List Byte) : (s.answer b).ledger = s.ledger := rfl
@[simp] theorem State.answer_mem (b : List Byte) : (s.answer b).mem = s.mem := rfl
@[simp] theorem State.answer_hbm (b : List Byte) : (s.answer b).hbm = s.hbm := rfl
@[simp] theorem State.answer_ladles (b : List Byte) : (s.answer b).ladles = s.ladles := rfl
@[simp] theorem State.answer_running (b : List Byte) : (s.answer b).running = s.running := rfl
@[simp] theorem State.answer_signals (b : List Byte) : (s.answer b).signals = s.signals := rfl
@[simp] theorem State.answer_anvils (b : List Byte) : (s.answer b).anvils = s.anvils := rfl
@[simp] theorem State.answer_slicers (b : List Byte) : (s.answer b).slicers = s.slicers := rfl
@[simp] theorem State.answer_swages (b : List Byte) : (s.answer b).swages = s.swages := rfl
@[simp] theorem State.answer_crucibles (b : List Byte) : (s.answer b).crucibles = s.crucibles := rfl
@[simp] theorem State.answer_planishers (b : List Byte) : (s.answer b).planishers = s.planishers := rfl
@[simp] theorem State.answer_tinkers (b : List Byte) : (s.answer b).tinkers = s.tinkers := rfl
@[simp] theorem State.answer_plan (b : List Byte) : (s.answer b).plan = s.plan := rfl
@[simp] theorem State.answer_els (b : List Byte) : (s.answer b).els = s.els := rfl
@[simp] theorem State.answer_radio (b : List Byte) : (s.answer b).radio = s.radio := rfl
@[simp] theorem State.answer_code (b : List Byte) : (s.answer b).code = s.code := rfl
@[simp] theorem State.answer_train (b : List Byte) : (s.answer b).train = s.train := rfl
@[simp] theorem State.answer_net (b : List Byte) : (s.answer b).net = s.net := rfl
@[simp] theorem State.answer_time (b : List Byte) : (s.answer b).time = s.time := rfl
@[simp] theorem State.answer_twin (b : List Byte) : (s.answer b).twin = s.twin := rfl
@[simp] theorem State.answer_power (b : List Byte) : (s.answer b).power = s.power := rfl
@[simp] theorem State.answer_start (b : List Byte) : (s.answer b).start = s.start := rfl
@[simp] theorem State.answer_sec (b : List Byte) : (s.answer b).sec = s.sec := rfl
@[simp] theorem State.answer_seq (b : List Byte) : (s.answer b).seq = s.seq := rfl
@[simp] theorem State.answer_test (b : List Byte) : (s.answer b).test = s.test := rfl
@[simp] theorem State.answer_pins (b : List Byte) : (s.answer b).pins = s.pins := rfl
@[simp] theorem State.answer_free (b : List Byte) : (s.answer b).free = s.free := rfl
@[simp] theorem State.answer_drawn (b : List Byte) : (s.answer b).drawn = s.drawn := rfl

/-! ## `respond` -/

@[simp] theorem State.respond_pending (t : Status) (w : List Word) :
    (s.respond t w).pending = s.pending := rfl
@[simp] theorem State.respond_regs (t : Status) (w : List Word) : (s.respond t w).regs = s.regs := rfl
@[simp] theorem State.respond_clock (t : Status) (w : List Word) : (s.respond t w).clock = s.clock := rfl
@[simp] theorem State.respond_commit (t : Status) (w : List Word) : (s.respond t w).commit = s.commit := rfl
@[simp] theorem State.respond_chans (t : Status) (w : List Word) : (s.respond t w).chans = s.chans := rfl
@[simp] theorem State.respond_taps (t : Status) (w : List Word) : (s.respond t w).taps = s.taps := rfl
@[simp] theorem State.respond_due (t : Status) (w : List Word) : (s.respond t w).due = s.due := rfl
@[simp] theorem State.respond_spine (t : Status) (w : List Word) : (s.respond t w).spine = s.spine := rfl
@[simp] theorem State.respond_faults (t : Status) (w : List Word) : (s.respond t w).faults = s.faults := rfl
@[simp] theorem State.respond_ledger (t : Status) (w : List Word) : (s.respond t w).ledger = s.ledger := rfl
@[simp] theorem State.respond_mem (t : Status) (w : List Word) : (s.respond t w).mem = s.mem := rfl
@[simp] theorem State.respond_hbm (t : Status) (w : List Word) : (s.respond t w).hbm = s.hbm := rfl
@[simp] theorem State.respond_ladles (t : Status) (w : List Word) : (s.respond t w).ladles = s.ladles := rfl
@[simp] theorem State.respond_running (t : Status) (w : List Word) :
    (s.respond t w).running = s.running := rfl
@[simp] theorem State.respond_signals (t : Status) (w : List Word) :
    (s.respond t w).signals = s.signals := rfl
@[simp] theorem State.respond_anvils (t : Status) (w : List Word) : (s.respond t w).anvils = s.anvils := rfl
@[simp] theorem State.respond_slicers (t : Status) (w : List Word) :
    (s.respond t w).slicers = s.slicers := rfl
@[simp] theorem State.respond_swages (t : Status) (w : List Word) : (s.respond t w).swages = s.swages := rfl
@[simp] theorem State.respond_crucibles (t : Status) (w : List Word) :
    (s.respond t w).crucibles = s.crucibles := rfl
@[simp] theorem State.respond_planishers (t : Status) (w : List Word) :
    (s.respond t w).planishers = s.planishers := rfl
@[simp] theorem State.respond_tinkers (t : Status) (w : List Word) :
    (s.respond t w).tinkers = s.tinkers := rfl
@[simp] theorem State.respond_plan (t : Status) (w : List Word) : (s.respond t w).plan = s.plan := rfl
@[simp] theorem State.respond_els (t : Status) (w : List Word) : (s.respond t w).els = s.els := rfl
@[simp] theorem State.respond_radio (t : Status) (w : List Word) : (s.respond t w).radio = s.radio := rfl
@[simp] theorem State.respond_code (t : Status) (w : List Word) : (s.respond t w).code = s.code := rfl
@[simp] theorem State.respond_train (t : Status) (w : List Word) : (s.respond t w).train = s.train := rfl
@[simp] theorem State.respond_net (t : Status) (w : List Word) : (s.respond t w).net = s.net := rfl
@[simp] theorem State.respond_time (t : Status) (w : List Word) : (s.respond t w).time = s.time := rfl
@[simp] theorem State.respond_twin (t : Status) (w : List Word) : (s.respond t w).twin = s.twin := rfl
@[simp] theorem State.respond_power (t : Status) (w : List Word) : (s.respond t w).power = s.power := rfl
@[simp] theorem State.respond_start (t : Status) (w : List Word) : (s.respond t w).start = s.start := rfl
@[simp] theorem State.respond_sec (t : Status) (w : List Word) : (s.respond t w).sec = s.sec := rfl
@[simp] theorem State.respond_seq (t : Status) (w : List Word) : (s.respond t w).seq = s.seq := rfl
@[simp] theorem State.respond_test (t : Status) (w : List Word) : (s.respond t w).test = s.test := rfl
@[simp] theorem State.respond_pins (t : Status) (w : List Word) : (s.respond t w).pins = s.pins := rfl
@[simp] theorem State.respond_free (t : Status) (w : List Word) : (s.respond t w).free = s.free := rfl
@[simp] theorem State.respond_drawn (t : Status) (w : List Word) : (s.respond t w).drawn = s.drawn := rfl

/-! ## `stage` -/

@[simp] theorem State.stage_pending (k : Nat) (m v : Word) : (s.stage k m v).pending = s.pending := rfl
@[simp] theorem State.stage_regs (k : Nat) (m v : Word) : (s.stage k m v).regs = s.regs := rfl
@[simp] theorem State.stage_clock (k : Nat) (m v : Word) : (s.stage k m v).clock = s.clock := rfl
@[simp] theorem State.stage_chans (k : Nat) (m v : Word) : (s.stage k m v).chans = s.chans := rfl
@[simp] theorem State.stage_taps (k : Nat) (m v : Word) : (s.stage k m v).taps = s.taps := rfl
@[simp] theorem State.stage_due (k : Nat) (m v : Word) : (s.stage k m v).due = s.due := rfl
@[simp] theorem State.stage_spine (k : Nat) (m v : Word) : (s.stage k m v).spine = s.spine := rfl
@[simp] theorem State.stage_faults (k : Nat) (m v : Word) : (s.stage k m v).faults = s.faults := rfl
@[simp] theorem State.stage_ledger (k : Nat) (m v : Word) : (s.stage k m v).ledger = s.ledger := rfl
@[simp] theorem State.stage_mem (k : Nat) (m v : Word) : (s.stage k m v).mem = s.mem := rfl
@[simp] theorem State.stage_hbm (k : Nat) (m v : Word) : (s.stage k m v).hbm = s.hbm := rfl
@[simp] theorem State.stage_ladles (k : Nat) (m v : Word) : (s.stage k m v).ladles = s.ladles := rfl
@[simp] theorem State.stage_running (k : Nat) (m v : Word) : (s.stage k m v).running = s.running := rfl
@[simp] theorem State.stage_signals (k : Nat) (m v : Word) : (s.stage k m v).signals = s.signals := rfl
@[simp] theorem State.stage_anvils (k : Nat) (m v : Word) : (s.stage k m v).anvils = s.anvils := rfl
@[simp] theorem State.stage_slicers (k : Nat) (m v : Word) : (s.stage k m v).slicers = s.slicers := rfl
@[simp] theorem State.stage_swages (k : Nat) (m v : Word) : (s.stage k m v).swages = s.swages := rfl
@[simp] theorem State.stage_crucibles (k : Nat) (m v : Word) : (s.stage k m v).crucibles = s.crucibles := rfl
@[simp] theorem State.stage_planishers (k : Nat) (m v : Word) :
    (s.stage k m v).planishers = s.planishers := rfl
@[simp] theorem State.stage_tinkers (k : Nat) (m v : Word) : (s.stage k m v).tinkers = s.tinkers := rfl
@[simp] theorem State.stage_plan (k : Nat) (m v : Word) : (s.stage k m v).plan = s.plan := rfl
@[simp] theorem State.stage_els (k : Nat) (m v : Word) : (s.stage k m v).els = s.els := rfl
@[simp] theorem State.stage_radio (k : Nat) (m v : Word) : (s.stage k m v).radio = s.radio := rfl
@[simp] theorem State.stage_code (k : Nat) (m v : Word) : (s.stage k m v).code = s.code := rfl
@[simp] theorem State.stage_train (k : Nat) (m v : Word) : (s.stage k m v).train = s.train := rfl
@[simp] theorem State.stage_net (k : Nat) (m v : Word) : (s.stage k m v).net = s.net := rfl
@[simp] theorem State.stage_time (k : Nat) (m v : Word) : (s.stage k m v).time = s.time := rfl
@[simp] theorem State.stage_twin (k : Nat) (m v : Word) : (s.stage k m v).twin = s.twin := rfl
@[simp] theorem State.stage_power (k : Nat) (m v : Word) : (s.stage k m v).power = s.power := rfl
@[simp] theorem State.stage_start (k : Nat) (m v : Word) : (s.stage k m v).start = s.start := rfl
@[simp] theorem State.stage_sec (k : Nat) (m v : Word) : (s.stage k m v).sec = s.sec := rfl
@[simp] theorem State.stage_seq (k : Nat) (m v : Word) : (s.stage k m v).seq = s.seq := rfl
@[simp] theorem State.stage_i3c (k : Nat) (m v : Word) : (s.stage k m v).i3c = s.i3c := rfl
@[simp] theorem State.stage_test (k : Nat) (m v : Word) : (s.stage k m v).test = s.test := rfl
@[simp] theorem State.stage_pins (k : Nat) (m v : Word) : (s.stage k m v).pins = s.pins := rfl
@[simp] theorem State.stage_free (k : Nat) (m v : Word) : (s.stage k m v).free = s.free := rfl
@[simp] theorem State.stage_drawn (k : Nat) (m v : Word) : (s.stage k m v).drawn = s.drawn := rfl

/-! ## `setCrucible` -/

@[simp] theorem State.setCrucible_pending (r : Nat) (x : Crucible) :
    (s.setCrucible r x).pending = s.pending := rfl
@[simp] theorem State.setCrucible_regs (r : Nat) (x : Crucible) : (s.setCrucible r x).regs = s.regs := rfl
@[simp] theorem State.setCrucible_clock (r : Nat) (x : Crucible) : (s.setCrucible r x).clock = s.clock := rfl
@[simp] theorem State.setCrucible_commit (r : Nat) (x : Crucible) :
    (s.setCrucible r x).commit = s.commit := rfl
@[simp] theorem State.setCrucible_chans (r : Nat) (x : Crucible) : (s.setCrucible r x).chans = s.chans := rfl
@[simp] theorem State.setCrucible_taps (r : Nat) (x : Crucible) : (s.setCrucible r x).taps = s.taps := rfl
@[simp] theorem State.setCrucible_due (r : Nat) (x : Crucible) : (s.setCrucible r x).due = s.due := rfl
@[simp] theorem State.setCrucible_spine (r : Nat) (x : Crucible) : (s.setCrucible r x).spine = s.spine := rfl
@[simp] theorem State.setCrucible_faults (r : Nat) (x : Crucible) :
    (s.setCrucible r x).faults = s.faults := rfl
@[simp] theorem State.setCrucible_ledger (r : Nat) (x : Crucible) :
    (s.setCrucible r x).ledger = s.ledger := rfl
@[simp] theorem State.setCrucible_mem (r : Nat) (x : Crucible) : (s.setCrucible r x).mem = s.mem := rfl
@[simp] theorem State.setCrucible_hbm (r : Nat) (x : Crucible) : (s.setCrucible r x).hbm = s.hbm := rfl
@[simp] theorem State.setCrucible_ladles (r : Nat) (x : Crucible) :
    (s.setCrucible r x).ladles = s.ladles := rfl
@[simp] theorem State.setCrucible_running (r : Nat) (x : Crucible) :
    (s.setCrucible r x).running = s.running := rfl
@[simp] theorem State.setCrucible_signals (r : Nat) (x : Crucible) :
    (s.setCrucible r x).signals = s.signals := rfl
@[simp] theorem State.setCrucible_anvils (r : Nat) (x : Crucible) :
    (s.setCrucible r x).anvils = s.anvils := rfl
@[simp] theorem State.setCrucible_slicers (r : Nat) (x : Crucible) :
    (s.setCrucible r x).slicers = s.slicers := rfl
@[simp] theorem State.setCrucible_swages (r : Nat) (x : Crucible) :
    (s.setCrucible r x).swages = s.swages := rfl
@[simp] theorem State.setCrucible_planishers (r : Nat) (x : Crucible) :
    (s.setCrucible r x).planishers = s.planishers := rfl
@[simp] theorem State.setCrucible_tinkers (r : Nat) (x : Crucible) :
    (s.setCrucible r x).tinkers = s.tinkers := rfl
@[simp] theorem State.setCrucible_plan (r : Nat) (x : Crucible) : (s.setCrucible r x).plan = s.plan := rfl
@[simp] theorem State.setCrucible_els (r : Nat) (x : Crucible) : (s.setCrucible r x).els = s.els := rfl
@[simp] theorem State.setCrucible_radio (r : Nat) (x : Crucible) : (s.setCrucible r x).radio = s.radio := rfl
@[simp] theorem State.setCrucible_code (r : Nat) (x : Crucible) : (s.setCrucible r x).code = s.code := rfl
@[simp] theorem State.setCrucible_train (r : Nat) (x : Crucible) : (s.setCrucible r x).train = s.train := rfl
@[simp] theorem State.setCrucible_net (r : Nat) (x : Crucible) : (s.setCrucible r x).net = s.net := rfl
@[simp] theorem State.setCrucible_time (r : Nat) (x : Crucible) : (s.setCrucible r x).time = s.time := rfl
@[simp] theorem State.setCrucible_twin (r : Nat) (x : Crucible) : (s.setCrucible r x).twin = s.twin := rfl
@[simp] theorem State.setCrucible_power (r : Nat) (x : Crucible) : (s.setCrucible r x).power = s.power := rfl
@[simp] theorem State.setCrucible_start (r : Nat) (x : Crucible) : (s.setCrucible r x).start = s.start := rfl
@[simp] theorem State.setCrucible_sec (r : Nat) (x : Crucible) : (s.setCrucible r x).sec = s.sec := rfl
@[simp] theorem State.setCrucible_seq (r : Nat) (x : Crucible) : (s.setCrucible r x).seq = s.seq := rfl
@[simp] theorem State.setCrucible_i3c (r : Nat) (x : Crucible) : (s.setCrucible r x).i3c = s.i3c := rfl
@[simp] theorem State.setCrucible_test (r : Nat) (x : Crucible) : (s.setCrucible r x).test = s.test := rfl
@[simp] theorem State.setCrucible_pins (r : Nat) (x : Crucible) : (s.setCrucible r x).pins = s.pins := rfl
@[simp] theorem State.setCrucible_free (r : Nat) (x : Crucible) : (s.setCrucible r x).free = s.free := rfl
@[simp] theorem State.setCrucible_drawn (r : Nat) (x : Crucible) : (s.setCrucible r x).drawn = s.drawn := rfl

/-! ## `setSlicer` -/

@[simp] theorem State.setSlicer_pending (r : Nat) (x : Slicer) : (s.setSlicer r x).pending = s.pending := rfl
@[simp] theorem State.setSlicer_regs (r : Nat) (x : Slicer) : (s.setSlicer r x).regs = s.regs := rfl
@[simp] theorem State.setSlicer_clock (r : Nat) (x : Slicer) : (s.setSlicer r x).clock = s.clock := rfl
@[simp] theorem State.setSlicer_commit (r : Nat) (x : Slicer) : (s.setSlicer r x).commit = s.commit := rfl
@[simp] theorem State.setSlicer_chans (r : Nat) (x : Slicer) : (s.setSlicer r x).chans = s.chans := rfl
@[simp] theorem State.setSlicer_taps (r : Nat) (x : Slicer) : (s.setSlicer r x).taps = s.taps := rfl
@[simp] theorem State.setSlicer_due (r : Nat) (x : Slicer) : (s.setSlicer r x).due = s.due := rfl
@[simp] theorem State.setSlicer_spine (r : Nat) (x : Slicer) : (s.setSlicer r x).spine = s.spine := rfl
@[simp] theorem State.setSlicer_faults (r : Nat) (x : Slicer) : (s.setSlicer r x).faults = s.faults := rfl
@[simp] theorem State.setSlicer_ledger (r : Nat) (x : Slicer) : (s.setSlicer r x).ledger = s.ledger := rfl
@[simp] theorem State.setSlicer_mem (r : Nat) (x : Slicer) : (s.setSlicer r x).mem = s.mem := rfl
@[simp] theorem State.setSlicer_hbm (r : Nat) (x : Slicer) : (s.setSlicer r x).hbm = s.hbm := rfl
@[simp] theorem State.setSlicer_ladles (r : Nat) (x : Slicer) : (s.setSlicer r x).ladles = s.ladles := rfl
@[simp] theorem State.setSlicer_running (r : Nat) (x : Slicer) : (s.setSlicer r x).running = s.running := rfl
@[simp] theorem State.setSlicer_signals (r : Nat) (x : Slicer) : (s.setSlicer r x).signals = s.signals := rfl
@[simp] theorem State.setSlicer_anvils (r : Nat) (x : Slicer) : (s.setSlicer r x).anvils = s.anvils := rfl
@[simp] theorem State.setSlicer_swages (r : Nat) (x : Slicer) : (s.setSlicer r x).swages = s.swages := rfl
@[simp] theorem State.setSlicer_crucibles (r : Nat) (x : Slicer) :
    (s.setSlicer r x).crucibles = s.crucibles := rfl
@[simp] theorem State.setSlicer_planishers (r : Nat) (x : Slicer) :
    (s.setSlicer r x).planishers = s.planishers := rfl
@[simp] theorem State.setSlicer_tinkers (r : Nat) (x : Slicer) : (s.setSlicer r x).tinkers = s.tinkers := rfl
@[simp] theorem State.setSlicer_plan (r : Nat) (x : Slicer) : (s.setSlicer r x).plan = s.plan := rfl
@[simp] theorem State.setSlicer_els (r : Nat) (x : Slicer) : (s.setSlicer r x).els = s.els := rfl
@[simp] theorem State.setSlicer_radio (r : Nat) (x : Slicer) : (s.setSlicer r x).radio = s.radio := rfl
@[simp] theorem State.setSlicer_code (r : Nat) (x : Slicer) : (s.setSlicer r x).code = s.code := rfl
@[simp] theorem State.setSlicer_train (r : Nat) (x : Slicer) : (s.setSlicer r x).train = s.train := rfl
@[simp] theorem State.setSlicer_net (r : Nat) (x : Slicer) : (s.setSlicer r x).net = s.net := rfl
@[simp] theorem State.setSlicer_time (r : Nat) (x : Slicer) : (s.setSlicer r x).time = s.time := rfl
@[simp] theorem State.setSlicer_twin (r : Nat) (x : Slicer) : (s.setSlicer r x).twin = s.twin := rfl
@[simp] theorem State.setSlicer_power (r : Nat) (x : Slicer) : (s.setSlicer r x).power = s.power := rfl
@[simp] theorem State.setSlicer_start (r : Nat) (x : Slicer) : (s.setSlicer r x).start = s.start := rfl
@[simp] theorem State.setSlicer_sec (r : Nat) (x : Slicer) : (s.setSlicer r x).sec = s.sec := rfl
@[simp] theorem State.setSlicer_seq (r : Nat) (x : Slicer) : (s.setSlicer r x).seq = s.seq := rfl
@[simp] theorem State.setSlicer_i3c (r : Nat) (x : Slicer) : (s.setSlicer r x).i3c = s.i3c := rfl
@[simp] theorem State.setSlicer_test (r : Nat) (x : Slicer) : (s.setSlicer r x).test = s.test := rfl
@[simp] theorem State.setSlicer_pins (r : Nat) (x : Slicer) : (s.setSlicer r x).pins = s.pins := rfl
@[simp] theorem State.setSlicer_free (r : Nat) (x : Slicer) : (s.setSlicer r x).free = s.free := rfl
@[simp] theorem State.setSlicer_drawn (r : Nat) (x : Slicer) : (s.setSlicer r x).drawn = s.drawn := rfl

/-! ## `setSwage` -/

@[simp] theorem State.setSwage_pending (r : Nat) (x : Swage) : (s.setSwage r x).pending = s.pending := rfl
@[simp] theorem State.setSwage_regs (r : Nat) (x : Swage) : (s.setSwage r x).regs = s.regs := rfl
@[simp] theorem State.setSwage_clock (r : Nat) (x : Swage) : (s.setSwage r x).clock = s.clock := rfl
@[simp] theorem State.setSwage_commit (r : Nat) (x : Swage) : (s.setSwage r x).commit = s.commit := rfl
@[simp] theorem State.setSwage_chans (r : Nat) (x : Swage) : (s.setSwage r x).chans = s.chans := rfl
@[simp] theorem State.setSwage_taps (r : Nat) (x : Swage) : (s.setSwage r x).taps = s.taps := rfl
@[simp] theorem State.setSwage_due (r : Nat) (x : Swage) : (s.setSwage r x).due = s.due := rfl
@[simp] theorem State.setSwage_spine (r : Nat) (x : Swage) : (s.setSwage r x).spine = s.spine := rfl
@[simp] theorem State.setSwage_faults (r : Nat) (x : Swage) : (s.setSwage r x).faults = s.faults := rfl
@[simp] theorem State.setSwage_ledger (r : Nat) (x : Swage) : (s.setSwage r x).ledger = s.ledger := rfl
@[simp] theorem State.setSwage_mem (r : Nat) (x : Swage) : (s.setSwage r x).mem = s.mem := rfl
@[simp] theorem State.setSwage_hbm (r : Nat) (x : Swage) : (s.setSwage r x).hbm = s.hbm := rfl
@[simp] theorem State.setSwage_ladles (r : Nat) (x : Swage) : (s.setSwage r x).ladles = s.ladles := rfl
@[simp] theorem State.setSwage_running (r : Nat) (x : Swage) : (s.setSwage r x).running = s.running := rfl
@[simp] theorem State.setSwage_signals (r : Nat) (x : Swage) : (s.setSwage r x).signals = s.signals := rfl
@[simp] theorem State.setSwage_anvils (r : Nat) (x : Swage) : (s.setSwage r x).anvils = s.anvils := rfl
@[simp] theorem State.setSwage_slicers (r : Nat) (x : Swage) : (s.setSwage r x).slicers = s.slicers := rfl
@[simp] theorem State.setSwage_crucibles (r : Nat) (x : Swage) :
    (s.setSwage r x).crucibles = s.crucibles := rfl
@[simp] theorem State.setSwage_planishers (r : Nat) (x : Swage) :
    (s.setSwage r x).planishers = s.planishers := rfl
@[simp] theorem State.setSwage_tinkers (r : Nat) (x : Swage) : (s.setSwage r x).tinkers = s.tinkers := rfl
@[simp] theorem State.setSwage_plan (r : Nat) (x : Swage) : (s.setSwage r x).plan = s.plan := rfl
@[simp] theorem State.setSwage_els (r : Nat) (x : Swage) : (s.setSwage r x).els = s.els := rfl
@[simp] theorem State.setSwage_radio (r : Nat) (x : Swage) : (s.setSwage r x).radio = s.radio := rfl
@[simp] theorem State.setSwage_code (r : Nat) (x : Swage) : (s.setSwage r x).code = s.code := rfl
@[simp] theorem State.setSwage_train (r : Nat) (x : Swage) : (s.setSwage r x).train = s.train := rfl
@[simp] theorem State.setSwage_net (r : Nat) (x : Swage) : (s.setSwage r x).net = s.net := rfl
@[simp] theorem State.setSwage_time (r : Nat) (x : Swage) : (s.setSwage r x).time = s.time := rfl
@[simp] theorem State.setSwage_twin (r : Nat) (x : Swage) : (s.setSwage r x).twin = s.twin := rfl
@[simp] theorem State.setSwage_power (r : Nat) (x : Swage) : (s.setSwage r x).power = s.power := rfl
@[simp] theorem State.setSwage_start (r : Nat) (x : Swage) : (s.setSwage r x).start = s.start := rfl
@[simp] theorem State.setSwage_sec (r : Nat) (x : Swage) : (s.setSwage r x).sec = s.sec := rfl
@[simp] theorem State.setSwage_seq (r : Nat) (x : Swage) : (s.setSwage r x).seq = s.seq := rfl
@[simp] theorem State.setSwage_i3c (r : Nat) (x : Swage) : (s.setSwage r x).i3c = s.i3c := rfl
@[simp] theorem State.setSwage_test (r : Nat) (x : Swage) : (s.setSwage r x).test = s.test := rfl
@[simp] theorem State.setSwage_pins (r : Nat) (x : Swage) : (s.setSwage r x).pins = s.pins := rfl
@[simp] theorem State.setSwage_free (r : Nat) (x : Swage) : (s.setSwage r x).free = s.free := rfl
@[simp] theorem State.setSwage_drawn (r : Nat) (x : Swage) : (s.setSwage r x).drawn = s.drawn := rfl

/-! ## `setAnvil` -/

@[simp] theorem State.setAnvil_pending (r a : Nat) (x : Anvil) : (s.setAnvil r a x).pending = s.pending := rfl
@[simp] theorem State.setAnvil_regs (r a : Nat) (x : Anvil) : (s.setAnvil r a x).regs = s.regs := rfl
@[simp] theorem State.setAnvil_clock (r a : Nat) (x : Anvil) : (s.setAnvil r a x).clock = s.clock := rfl
@[simp] theorem State.setAnvil_commit (r a : Nat) (x : Anvil) : (s.setAnvil r a x).commit = s.commit := rfl
@[simp] theorem State.setAnvil_chans (r a : Nat) (x : Anvil) : (s.setAnvil r a x).chans = s.chans := rfl
@[simp] theorem State.setAnvil_taps (r a : Nat) (x : Anvil) : (s.setAnvil r a x).taps = s.taps := rfl
@[simp] theorem State.setAnvil_due (r a : Nat) (x : Anvil) : (s.setAnvil r a x).due = s.due := rfl
@[simp] theorem State.setAnvil_spine (r a : Nat) (x : Anvil) : (s.setAnvil r a x).spine = s.spine := rfl
@[simp] theorem State.setAnvil_faults (r a : Nat) (x : Anvil) : (s.setAnvil r a x).faults = s.faults := rfl
@[simp] theorem State.setAnvil_ledger (r a : Nat) (x : Anvil) : (s.setAnvil r a x).ledger = s.ledger := rfl
@[simp] theorem State.setAnvil_mem (r a : Nat) (x : Anvil) : (s.setAnvil r a x).mem = s.mem := rfl
@[simp] theorem State.setAnvil_hbm (r a : Nat) (x : Anvil) : (s.setAnvil r a x).hbm = s.hbm := rfl
@[simp] theorem State.setAnvil_ladles (r a : Nat) (x : Anvil) : (s.setAnvil r a x).ladles = s.ladles := rfl
@[simp] theorem State.setAnvil_running (r a : Nat) (x : Anvil) : (s.setAnvil r a x).running = s.running := rfl
@[simp] theorem State.setAnvil_signals (r a : Nat) (x : Anvil) : (s.setAnvil r a x).signals = s.signals := rfl
@[simp] theorem State.setAnvil_slicers (r a : Nat) (x : Anvil) : (s.setAnvil r a x).slicers = s.slicers := rfl
@[simp] theorem State.setAnvil_swages (r a : Nat) (x : Anvil) : (s.setAnvil r a x).swages = s.swages := rfl
@[simp] theorem State.setAnvil_crucibles (r a : Nat) (x : Anvil) :
    (s.setAnvil r a x).crucibles = s.crucibles := rfl
@[simp] theorem State.setAnvil_planishers (r a : Nat) (x : Anvil) :
    (s.setAnvil r a x).planishers = s.planishers := rfl
@[simp] theorem State.setAnvil_tinkers (r a : Nat) (x : Anvil) : (s.setAnvil r a x).tinkers = s.tinkers := rfl
@[simp] theorem State.setAnvil_plan (r a : Nat) (x : Anvil) : (s.setAnvil r a x).plan = s.plan := rfl
@[simp] theorem State.setAnvil_els (r a : Nat) (x : Anvil) : (s.setAnvil r a x).els = s.els := rfl
@[simp] theorem State.setAnvil_radio (r a : Nat) (x : Anvil) : (s.setAnvil r a x).radio = s.radio := rfl
@[simp] theorem State.setAnvil_code (r a : Nat) (x : Anvil) : (s.setAnvil r a x).code = s.code := rfl
@[simp] theorem State.setAnvil_train (r a : Nat) (x : Anvil) : (s.setAnvil r a x).train = s.train := rfl
@[simp] theorem State.setAnvil_net (r a : Nat) (x : Anvil) : (s.setAnvil r a x).net = s.net := rfl
@[simp] theorem State.setAnvil_time (r a : Nat) (x : Anvil) : (s.setAnvil r a x).time = s.time := rfl
@[simp] theorem State.setAnvil_twin (r a : Nat) (x : Anvil) : (s.setAnvil r a x).twin = s.twin := rfl
@[simp] theorem State.setAnvil_power (r a : Nat) (x : Anvil) : (s.setAnvil r a x).power = s.power := rfl
@[simp] theorem State.setAnvil_start (r a : Nat) (x : Anvil) : (s.setAnvil r a x).start = s.start := rfl
@[simp] theorem State.setAnvil_sec (r a : Nat) (x : Anvil) : (s.setAnvil r a x).sec = s.sec := rfl
@[simp] theorem State.setAnvil_seq (r a : Nat) (x : Anvil) : (s.setAnvil r a x).seq = s.seq := rfl
@[simp] theorem State.setAnvil_i3c (r a : Nat) (x : Anvil) : (s.setAnvil r a x).i3c = s.i3c := rfl
@[simp] theorem State.setAnvil_test (r a : Nat) (x : Anvil) : (s.setAnvil r a x).test = s.test := rfl
@[simp] theorem State.setAnvil_pins (r a : Nat) (x : Anvil) : (s.setAnvil r a x).pins = s.pins := rfl
@[simp] theorem State.setAnvil_free (r a : Nat) (x : Anvil) : (s.setAnvil r a x).free = s.free := rfl
@[simp] theorem State.setAnvil_drawn (r a : Nat) (x : Anvil) : (s.setAnvil r a x).drawn = s.drawn := rfl

/-! ## `setPlanisher` -/

@[simp] theorem State.setPlanisher_pending (r p : Nat) (x : Planisher) :
    (s.setPlanisher r p x).pending = s.pending := rfl
@[simp] theorem State.setPlanisher_regs (r p : Nat) (x : Planisher) :
    (s.setPlanisher r p x).regs = s.regs := rfl
@[simp] theorem State.setPlanisher_clock (r p : Nat) (x : Planisher) :
    (s.setPlanisher r p x).clock = s.clock := rfl
@[simp] theorem State.setPlanisher_commit (r p : Nat) (x : Planisher) :
    (s.setPlanisher r p x).commit = s.commit := rfl
@[simp] theorem State.setPlanisher_chans (r p : Nat) (x : Planisher) :
    (s.setPlanisher r p x).chans = s.chans := rfl
@[simp] theorem State.setPlanisher_taps (r p : Nat) (x : Planisher) :
    (s.setPlanisher r p x).taps = s.taps := rfl
@[simp] theorem State.setPlanisher_due (r p : Nat) (x : Planisher) : (s.setPlanisher r p x).due = s.due := rfl
@[simp] theorem State.setPlanisher_spine (r p : Nat) (x : Planisher) :
    (s.setPlanisher r p x).spine = s.spine := rfl
@[simp] theorem State.setPlanisher_faults (r p : Nat) (x : Planisher) :
    (s.setPlanisher r p x).faults = s.faults := rfl
@[simp] theorem State.setPlanisher_ledger (r p : Nat) (x : Planisher) :
    (s.setPlanisher r p x).ledger = s.ledger := rfl
@[simp] theorem State.setPlanisher_mem (r p : Nat) (x : Planisher) : (s.setPlanisher r p x).mem = s.mem := rfl
@[simp] theorem State.setPlanisher_hbm (r p : Nat) (x : Planisher) : (s.setPlanisher r p x).hbm = s.hbm := rfl
@[simp] theorem State.setPlanisher_ladles (r p : Nat) (x : Planisher) :
    (s.setPlanisher r p x).ladles = s.ladles := rfl
@[simp] theorem State.setPlanisher_running (r p : Nat) (x : Planisher) :
    (s.setPlanisher r p x).running = s.running := rfl
@[simp] theorem State.setPlanisher_signals (r p : Nat) (x : Planisher) :
    (s.setPlanisher r p x).signals = s.signals := rfl
@[simp] theorem State.setPlanisher_anvils (r p : Nat) (x : Planisher) :
    (s.setPlanisher r p x).anvils = s.anvils := rfl
@[simp] theorem State.setPlanisher_slicers (r p : Nat) (x : Planisher) :
    (s.setPlanisher r p x).slicers = s.slicers := rfl
@[simp] theorem State.setPlanisher_swages (r p : Nat) (x : Planisher) :
    (s.setPlanisher r p x).swages = s.swages := rfl
@[simp] theorem State.setPlanisher_crucibles (r p : Nat) (x : Planisher) :
    (s.setPlanisher r p x).crucibles = s.crucibles := rfl
@[simp] theorem State.setPlanisher_tinkers (r p : Nat) (x : Planisher) :
    (s.setPlanisher r p x).tinkers = s.tinkers := rfl
@[simp] theorem State.setPlanisher_plan (r p : Nat) (x : Planisher) :
    (s.setPlanisher r p x).plan = s.plan := rfl
@[simp] theorem State.setPlanisher_els (r p : Nat) (x : Planisher) : (s.setPlanisher r p x).els = s.els := rfl
@[simp] theorem State.setPlanisher_radio (r p : Nat) (x : Planisher) :
    (s.setPlanisher r p x).radio = s.radio := rfl
@[simp] theorem State.setPlanisher_code (r p : Nat) (x : Planisher) :
    (s.setPlanisher r p x).code = s.code := rfl
@[simp] theorem State.setPlanisher_train (r p : Nat) (x : Planisher) :
    (s.setPlanisher r p x).train = s.train := rfl
@[simp] theorem State.setPlanisher_net (r p : Nat) (x : Planisher) : (s.setPlanisher r p x).net = s.net := rfl
@[simp] theorem State.setPlanisher_time (r p : Nat) (x : Planisher) :
    (s.setPlanisher r p x).time = s.time := rfl
@[simp] theorem State.setPlanisher_twin (r p : Nat) (x : Planisher) :
    (s.setPlanisher r p x).twin = s.twin := rfl
@[simp] theorem State.setPlanisher_power (r p : Nat) (x : Planisher) :
    (s.setPlanisher r p x).power = s.power := rfl
@[simp] theorem State.setPlanisher_start (r p : Nat) (x : Planisher) :
    (s.setPlanisher r p x).start = s.start := rfl
@[simp] theorem State.setPlanisher_sec (r p : Nat) (x : Planisher) : (s.setPlanisher r p x).sec = s.sec := rfl
@[simp] theorem State.setPlanisher_seq (r p : Nat) (x : Planisher) : (s.setPlanisher r p x).seq = s.seq := rfl
@[simp] theorem State.setPlanisher_i3c (r p : Nat) (x : Planisher) : (s.setPlanisher r p x).i3c = s.i3c := rfl
@[simp] theorem State.setPlanisher_test (r p : Nat) (x : Planisher) :
    (s.setPlanisher r p x).test = s.test := rfl
@[simp] theorem State.setPlanisher_pins (r p : Nat) (x : Planisher) :
    (s.setPlanisher r p x).pins = s.pins := rfl
@[simp] theorem State.setPlanisher_free (r p : Nat) (x : Planisher) :
    (s.setPlanisher r p x).free = s.free := rfl
@[simp] theorem State.setPlanisher_drawn (r p : Nat) (x : Planisher) :
    (s.setPlanisher r p x).drawn = s.drawn := rfl

/-! ## `setTinker` -/

@[simp] theorem State.setTinker_pending (r t : Nat) (x : Tinker) :
    (s.setTinker r t x).pending = s.pending := rfl
@[simp] theorem State.setTinker_regs (r t : Nat) (x : Tinker) : (s.setTinker r t x).regs = s.regs := rfl
@[simp] theorem State.setTinker_clock (r t : Nat) (x : Tinker) : (s.setTinker r t x).clock = s.clock := rfl
@[simp] theorem State.setTinker_commit (r t : Nat) (x : Tinker) : (s.setTinker r t x).commit = s.commit := rfl
@[simp] theorem State.setTinker_chans (r t : Nat) (x : Tinker) : (s.setTinker r t x).chans = s.chans := rfl
@[simp] theorem State.setTinker_taps (r t : Nat) (x : Tinker) : (s.setTinker r t x).taps = s.taps := rfl
@[simp] theorem State.setTinker_due (r t : Nat) (x : Tinker) : (s.setTinker r t x).due = s.due := rfl
@[simp] theorem State.setTinker_spine (r t : Nat) (x : Tinker) : (s.setTinker r t x).spine = s.spine := rfl
@[simp] theorem State.setTinker_faults (r t : Nat) (x : Tinker) : (s.setTinker r t x).faults = s.faults := rfl
@[simp] theorem State.setTinker_ledger (r t : Nat) (x : Tinker) : (s.setTinker r t x).ledger = s.ledger := rfl
@[simp] theorem State.setTinker_mem (r t : Nat) (x : Tinker) : (s.setTinker r t x).mem = s.mem := rfl
@[simp] theorem State.setTinker_hbm (r t : Nat) (x : Tinker) : (s.setTinker r t x).hbm = s.hbm := rfl
@[simp] theorem State.setTinker_ladles (r t : Nat) (x : Tinker) : (s.setTinker r t x).ladles = s.ladles := rfl
@[simp] theorem State.setTinker_running (r t : Nat) (x : Tinker) :
    (s.setTinker r t x).running = s.running := rfl
@[simp] theorem State.setTinker_signals (r t : Nat) (x : Tinker) :
    (s.setTinker r t x).signals = s.signals := rfl
@[simp] theorem State.setTinker_anvils (r t : Nat) (x : Tinker) : (s.setTinker r t x).anvils = s.anvils := rfl
@[simp] theorem State.setTinker_slicers (r t : Nat) (x : Tinker) :
    (s.setTinker r t x).slicers = s.slicers := rfl
@[simp] theorem State.setTinker_swages (r t : Nat) (x : Tinker) : (s.setTinker r t x).swages = s.swages := rfl
@[simp] theorem State.setTinker_crucibles (r t : Nat) (x : Tinker) :
    (s.setTinker r t x).crucibles = s.crucibles := rfl
@[simp] theorem State.setTinker_planishers (r t : Nat) (x : Tinker) :
    (s.setTinker r t x).planishers = s.planishers := rfl
@[simp] theorem State.setTinker_plan (r t : Nat) (x : Tinker) : (s.setTinker r t x).plan = s.plan := rfl
@[simp] theorem State.setTinker_els (r t : Nat) (x : Tinker) : (s.setTinker r t x).els = s.els := rfl
@[simp] theorem State.setTinker_radio (r t : Nat) (x : Tinker) : (s.setTinker r t x).radio = s.radio := rfl
@[simp] theorem State.setTinker_code (r t : Nat) (x : Tinker) : (s.setTinker r t x).code = s.code := rfl
@[simp] theorem State.setTinker_train (r t : Nat) (x : Tinker) : (s.setTinker r t x).train = s.train := rfl
@[simp] theorem State.setTinker_net (r t : Nat) (x : Tinker) : (s.setTinker r t x).net = s.net := rfl
@[simp] theorem State.setTinker_time (r t : Nat) (x : Tinker) : (s.setTinker r t x).time = s.time := rfl
@[simp] theorem State.setTinker_twin (r t : Nat) (x : Tinker) : (s.setTinker r t x).twin = s.twin := rfl
@[simp] theorem State.setTinker_power (r t : Nat) (x : Tinker) : (s.setTinker r t x).power = s.power := rfl
@[simp] theorem State.setTinker_start (r t : Nat) (x : Tinker) : (s.setTinker r t x).start = s.start := rfl
@[simp] theorem State.setTinker_sec (r t : Nat) (x : Tinker) : (s.setTinker r t x).sec = s.sec := rfl
@[simp] theorem State.setTinker_seq (r t : Nat) (x : Tinker) : (s.setTinker r t x).seq = s.seq := rfl
@[simp] theorem State.setTinker_i3c (r t : Nat) (x : Tinker) : (s.setTinker r t x).i3c = s.i3c := rfl
@[simp] theorem State.setTinker_test (r t : Nat) (x : Tinker) : (s.setTinker r t x).test = s.test := rfl
@[simp] theorem State.setTinker_pins (r t : Nat) (x : Tinker) : (s.setTinker r t x).pins = s.pins := rfl
@[simp] theorem State.setTinker_free (r t : Nat) (x : Tinker) : (s.setTinker r t x).free = s.free := rfl
@[simp] theorem State.setTinker_drawn (r t : Nat) (x : Tinker) : (s.setTinker r t x).drawn = s.drawn := rfl

/-! ## `setChan` -/

@[simp] theorem State.setChan_pending (k : Nat) (x : Channel) : (s.setChan k x).pending = s.pending := rfl
@[simp] theorem State.setChan_regs (k : Nat) (x : Channel) : (s.setChan k x).regs = s.regs := rfl
@[simp] theorem State.setChan_clock (k : Nat) (x : Channel) : (s.setChan k x).clock = s.clock := rfl
@[simp] theorem State.setChan_commit (k : Nat) (x : Channel) : (s.setChan k x).commit = s.commit := rfl
@[simp] theorem State.setChan_taps (k : Nat) (x : Channel) : (s.setChan k x).taps = s.taps := rfl
@[simp] theorem State.setChan_due (k : Nat) (x : Channel) : (s.setChan k x).due = s.due := rfl
@[simp] theorem State.setChan_spine (k : Nat) (x : Channel) : (s.setChan k x).spine = s.spine := rfl
@[simp] theorem State.setChan_faults (k : Nat) (x : Channel) : (s.setChan k x).faults = s.faults := rfl
@[simp] theorem State.setChan_ledger (k : Nat) (x : Channel) : (s.setChan k x).ledger = s.ledger := rfl
@[simp] theorem State.setChan_mem (k : Nat) (x : Channel) : (s.setChan k x).mem = s.mem := rfl
@[simp] theorem State.setChan_hbm (k : Nat) (x : Channel) : (s.setChan k x).hbm = s.hbm := rfl
@[simp] theorem State.setChan_ladles (k : Nat) (x : Channel) : (s.setChan k x).ladles = s.ladles := rfl
@[simp] theorem State.setChan_running (k : Nat) (x : Channel) : (s.setChan k x).running = s.running := rfl
@[simp] theorem State.setChan_signals (k : Nat) (x : Channel) : (s.setChan k x).signals = s.signals := rfl
@[simp] theorem State.setChan_anvils (k : Nat) (x : Channel) : (s.setChan k x).anvils = s.anvils := rfl
@[simp] theorem State.setChan_slicers (k : Nat) (x : Channel) : (s.setChan k x).slicers = s.slicers := rfl
@[simp] theorem State.setChan_swages (k : Nat) (x : Channel) : (s.setChan k x).swages = s.swages := rfl
@[simp] theorem State.setChan_crucibles (k : Nat) (x : Channel) :
    (s.setChan k x).crucibles = s.crucibles := rfl
@[simp] theorem State.setChan_planishers (k : Nat) (x : Channel) :
    (s.setChan k x).planishers = s.planishers := rfl
@[simp] theorem State.setChan_tinkers (k : Nat) (x : Channel) : (s.setChan k x).tinkers = s.tinkers := rfl
@[simp] theorem State.setChan_plan (k : Nat) (x : Channel) : (s.setChan k x).plan = s.plan := rfl
@[simp] theorem State.setChan_els (k : Nat) (x : Channel) : (s.setChan k x).els = s.els := rfl
@[simp] theorem State.setChan_radio (k : Nat) (x : Channel) : (s.setChan k x).radio = s.radio := rfl
@[simp] theorem State.setChan_code (k : Nat) (x : Channel) : (s.setChan k x).code = s.code := rfl
@[simp] theorem State.setChan_train (k : Nat) (x : Channel) : (s.setChan k x).train = s.train := rfl
@[simp] theorem State.setChan_net (k : Nat) (x : Channel) : (s.setChan k x).net = s.net := rfl
@[simp] theorem State.setChan_time (k : Nat) (x : Channel) : (s.setChan k x).time = s.time := rfl
@[simp] theorem State.setChan_twin (k : Nat) (x : Channel) : (s.setChan k x).twin = s.twin := rfl
@[simp] theorem State.setChan_power (k : Nat) (x : Channel) : (s.setChan k x).power = s.power := rfl
@[simp] theorem State.setChan_start (k : Nat) (x : Channel) : (s.setChan k x).start = s.start := rfl
@[simp] theorem State.setChan_sec (k : Nat) (x : Channel) : (s.setChan k x).sec = s.sec := rfl
@[simp] theorem State.setChan_seq (k : Nat) (x : Channel) : (s.setChan k x).seq = s.seq := rfl
@[simp] theorem State.setChan_i3c (k : Nat) (x : Channel) : (s.setChan k x).i3c = s.i3c := rfl
@[simp] theorem State.setChan_test (k : Nat) (x : Channel) : (s.setChan k x).test = s.test := rfl
@[simp] theorem State.setChan_pins (k : Nat) (x : Channel) : (s.setChan k x).pins = s.pins := rfl
@[simp] theorem State.setChan_free (k : Nat) (x : Channel) : (s.setChan k x).free = s.free := rfl
@[simp] theorem State.setChan_drawn (k : Nat) (x : Channel) : (s.setChan k x).drawn = s.drawn := rfl

/-! ## `nvmResult` -/

@[simp] theorem State.nvmResult_pending (a b : Nat) : (s.nvmResult a b).pending = s.pending := rfl
@[simp] theorem State.nvmResult_clock (a b : Nat) : (s.nvmResult a b).clock = s.clock := rfl
@[simp] theorem State.nvmResult_commit (a b : Nat) : (s.nvmResult a b).commit = s.commit := rfl
@[simp] theorem State.nvmResult_chans (a b : Nat) : (s.nvmResult a b).chans = s.chans := rfl
@[simp] theorem State.nvmResult_taps (a b : Nat) : (s.nvmResult a b).taps = s.taps := rfl
@[simp] theorem State.nvmResult_due (a b : Nat) : (s.nvmResult a b).due = s.due := rfl
@[simp] theorem State.nvmResult_spine (a b : Nat) : (s.nvmResult a b).spine = s.spine := rfl
@[simp] theorem State.nvmResult_faults (a b : Nat) : (s.nvmResult a b).faults = s.faults := rfl
@[simp] theorem State.nvmResult_ledger (a b : Nat) : (s.nvmResult a b).ledger = s.ledger := rfl
@[simp] theorem State.nvmResult_mem (a b : Nat) : (s.nvmResult a b).mem = s.mem := rfl
@[simp] theorem State.nvmResult_hbm (a b : Nat) : (s.nvmResult a b).hbm = s.hbm := rfl
@[simp] theorem State.nvmResult_ladles (a b : Nat) : (s.nvmResult a b).ladles = s.ladles := rfl
@[simp] theorem State.nvmResult_running (a b : Nat) : (s.nvmResult a b).running = s.running := rfl
@[simp] theorem State.nvmResult_signals (a b : Nat) : (s.nvmResult a b).signals = s.signals := rfl
@[simp] theorem State.nvmResult_anvils (a b : Nat) : (s.nvmResult a b).anvils = s.anvils := rfl
@[simp] theorem State.nvmResult_slicers (a b : Nat) : (s.nvmResult a b).slicers = s.slicers := rfl
@[simp] theorem State.nvmResult_swages (a b : Nat) : (s.nvmResult a b).swages = s.swages := rfl
@[simp] theorem State.nvmResult_crucibles (a b : Nat) : (s.nvmResult a b).crucibles = s.crucibles := rfl
@[simp] theorem State.nvmResult_planishers (a b : Nat) : (s.nvmResult a b).planishers = s.planishers := rfl
@[simp] theorem State.nvmResult_tinkers (a b : Nat) : (s.nvmResult a b).tinkers = s.tinkers := rfl
@[simp] theorem State.nvmResult_plan (a b : Nat) : (s.nvmResult a b).plan = s.plan := rfl
@[simp] theorem State.nvmResult_els (a b : Nat) : (s.nvmResult a b).els = s.els := rfl
@[simp] theorem State.nvmResult_radio (a b : Nat) : (s.nvmResult a b).radio = s.radio := rfl
@[simp] theorem State.nvmResult_code (a b : Nat) : (s.nvmResult a b).code = s.code := rfl
@[simp] theorem State.nvmResult_train (a b : Nat) : (s.nvmResult a b).train = s.train := rfl
@[simp] theorem State.nvmResult_net (a b : Nat) : (s.nvmResult a b).net = s.net := rfl
@[simp] theorem State.nvmResult_time (a b : Nat) : (s.nvmResult a b).time = s.time := rfl
@[simp] theorem State.nvmResult_twin (a b : Nat) : (s.nvmResult a b).twin = s.twin := rfl
@[simp] theorem State.nvmResult_power (a b : Nat) : (s.nvmResult a b).power = s.power := rfl
@[simp] theorem State.nvmResult_start (a b : Nat) : (s.nvmResult a b).start = s.start := rfl
@[simp] theorem State.nvmResult_sec (a b : Nat) : (s.nvmResult a b).sec = s.sec := rfl
@[simp] theorem State.nvmResult_seq (a b : Nat) : (s.nvmResult a b).seq = s.seq := rfl
@[simp] theorem State.nvmResult_i3c (a b : Nat) : (s.nvmResult a b).i3c = s.i3c := rfl
@[simp] theorem State.nvmResult_test (a b : Nat) : (s.nvmResult a b).test = s.test := rfl
@[simp] theorem State.nvmResult_pins (a b : Nat) : (s.nvmResult a b).pins = s.pins := rfl
@[simp] theorem State.nvmResult_free (a b : Nat) : (s.nvmResult a b).free = s.free := rfl
@[simp] theorem State.nvmResult_drawn (a b : Nat) : (s.nvmResult a b).drawn = s.drawn := rfl

/-! ## `popRecord` -/

@[simp] theorem State.popRecord_pending : (s.popRecord).pending = s.pending := rfl
@[simp] theorem State.popRecord_regs : (s.popRecord).regs = s.regs := rfl
@[simp] theorem State.popRecord_clock : (s.popRecord).clock = s.clock := rfl
@[simp] theorem State.popRecord_commit : (s.popRecord).commit = s.commit := rfl
@[simp] theorem State.popRecord_chans : (s.popRecord).chans = s.chans := rfl
@[simp] theorem State.popRecord_taps : (s.popRecord).taps = s.taps := rfl
@[simp] theorem State.popRecord_due : (s.popRecord).due = s.due := rfl
@[simp] theorem State.popRecord_spine : (s.popRecord).spine = s.spine := rfl
@[simp] theorem State.popRecord_ledger : (s.popRecord).ledger = s.ledger := rfl
@[simp] theorem State.popRecord_mem : (s.popRecord).mem = s.mem := rfl
@[simp] theorem State.popRecord_hbm : (s.popRecord).hbm = s.hbm := rfl
@[simp] theorem State.popRecord_ladles : (s.popRecord).ladles = s.ladles := rfl
@[simp] theorem State.popRecord_running : (s.popRecord).running = s.running := rfl
@[simp] theorem State.popRecord_signals : (s.popRecord).signals = s.signals := rfl
@[simp] theorem State.popRecord_anvils : (s.popRecord).anvils = s.anvils := rfl
@[simp] theorem State.popRecord_slicers : (s.popRecord).slicers = s.slicers := rfl
@[simp] theorem State.popRecord_swages : (s.popRecord).swages = s.swages := rfl
@[simp] theorem State.popRecord_crucibles : (s.popRecord).crucibles = s.crucibles := rfl
@[simp] theorem State.popRecord_planishers : (s.popRecord).planishers = s.planishers := rfl
@[simp] theorem State.popRecord_tinkers : (s.popRecord).tinkers = s.tinkers := rfl
@[simp] theorem State.popRecord_plan : (s.popRecord).plan = s.plan := rfl
@[simp] theorem State.popRecord_els : (s.popRecord).els = s.els := rfl
@[simp] theorem State.popRecord_radio : (s.popRecord).radio = s.radio := rfl
@[simp] theorem State.popRecord_code : (s.popRecord).code = s.code := rfl
@[simp] theorem State.popRecord_train : (s.popRecord).train = s.train := rfl
@[simp] theorem State.popRecord_net : (s.popRecord).net = s.net := rfl
@[simp] theorem State.popRecord_time : (s.popRecord).time = s.time := rfl
@[simp] theorem State.popRecord_twin : (s.popRecord).twin = s.twin := rfl
@[simp] theorem State.popRecord_power : (s.popRecord).power = s.power := rfl
@[simp] theorem State.popRecord_start : (s.popRecord).start = s.start := rfl
@[simp] theorem State.popRecord_sec : (s.popRecord).sec = s.sec := rfl
@[simp] theorem State.popRecord_seq : (s.popRecord).seq = s.seq := rfl
@[simp] theorem State.popRecord_i3c : (s.popRecord).i3c = s.i3c := rfl
@[simp] theorem State.popRecord_test : (s.popRecord).test = s.test := rfl
@[simp] theorem State.popRecord_pins : (s.popRecord).pins = s.pins := rfl
@[simp] theorem State.popRecord_free : (s.popRecord).free = s.free := rfl
@[simp] theorem State.popRecord_drawn : (s.popRecord).drawn = s.drawn := rfl

/-! ## `measureLeg` -/

@[simp] theorem State.measureLeg_pending (a l : Nat) : (s.measureLeg a l).pending = s.pending := rfl
@[simp] theorem State.measureLeg_clock (a l : Nat) : (s.measureLeg a l).clock = s.clock := rfl
@[simp] theorem State.measureLeg_commit (a l : Nat) : (s.measureLeg a l).commit = s.commit := rfl
@[simp] theorem State.measureLeg_chans (a l : Nat) : (s.measureLeg a l).chans = s.chans := rfl
@[simp] theorem State.measureLeg_taps (a l : Nat) : (s.measureLeg a l).taps = s.taps := rfl
@[simp] theorem State.measureLeg_due (a l : Nat) : (s.measureLeg a l).due = s.due := rfl
@[simp] theorem State.measureLeg_spine (a l : Nat) : (s.measureLeg a l).spine = s.spine := rfl
@[simp] theorem State.measureLeg_faults (a l : Nat) : (s.measureLeg a l).faults = s.faults := rfl
@[simp] theorem State.measureLeg_ledger (a l : Nat) : (s.measureLeg a l).ledger = s.ledger := rfl
@[simp] theorem State.measureLeg_mem (a l : Nat) : (s.measureLeg a l).mem = s.mem := rfl
@[simp] theorem State.measureLeg_hbm (a l : Nat) : (s.measureLeg a l).hbm = s.hbm := rfl
@[simp] theorem State.measureLeg_ladles (a l : Nat) : (s.measureLeg a l).ladles = s.ladles := rfl
@[simp] theorem State.measureLeg_running (a l : Nat) : (s.measureLeg a l).running = s.running := rfl
@[simp] theorem State.measureLeg_signals (a l : Nat) : (s.measureLeg a l).signals = s.signals := rfl
@[simp] theorem State.measureLeg_anvils (a l : Nat) : (s.measureLeg a l).anvils = s.anvils := rfl
@[simp] theorem State.measureLeg_slicers (a l : Nat) : (s.measureLeg a l).slicers = s.slicers := rfl
@[simp] theorem State.measureLeg_swages (a l : Nat) : (s.measureLeg a l).swages = s.swages := rfl
@[simp] theorem State.measureLeg_crucibles (a l : Nat) : (s.measureLeg a l).crucibles = s.crucibles := rfl
@[simp] theorem State.measureLeg_planishers (a l : Nat) : (s.measureLeg a l).planishers = s.planishers := rfl
@[simp] theorem State.measureLeg_tinkers (a l : Nat) : (s.measureLeg a l).tinkers = s.tinkers := rfl
@[simp] theorem State.measureLeg_plan (a l : Nat) : (s.measureLeg a l).plan = s.plan := rfl
@[simp] theorem State.measureLeg_els (a l : Nat) : (s.measureLeg a l).els = s.els := rfl
@[simp] theorem State.measureLeg_radio (a l : Nat) : (s.measureLeg a l).radio = s.radio := rfl
@[simp] theorem State.measureLeg_code (a l : Nat) : (s.measureLeg a l).code = s.code := rfl
@[simp] theorem State.measureLeg_train (a l : Nat) : (s.measureLeg a l).train = s.train := rfl
@[simp] theorem State.measureLeg_net (a l : Nat) : (s.measureLeg a l).net = s.net := rfl
@[simp] theorem State.measureLeg_time (a l : Nat) : (s.measureLeg a l).time = s.time := rfl
@[simp] theorem State.measureLeg_twin (a l : Nat) : (s.measureLeg a l).twin = s.twin := rfl
@[simp] theorem State.measureLeg_power (a l : Nat) : (s.measureLeg a l).power = s.power := rfl
@[simp] theorem State.measureLeg_start (a l : Nat) : (s.measureLeg a l).start = s.start := rfl
@[simp] theorem State.measureLeg_sec (a l : Nat) : (s.measureLeg a l).sec = s.sec := rfl
@[simp] theorem State.measureLeg_seq (a l : Nat) : (s.measureLeg a l).seq = s.seq := rfl
@[simp] theorem State.measureLeg_i3c (a l : Nat) : (s.measureLeg a l).i3c = s.i3c := rfl
@[simp] theorem State.measureLeg_test (a l : Nat) : (s.measureLeg a l).test = s.test := rfl
@[simp] theorem State.measureLeg_pins (a l : Nat) : (s.measureLeg a l).pins = s.pins := rfl
@[simp] theorem State.measureLeg_free (a l : Nat) : (s.measureLeg a l).free = s.free := rfl
@[simp] theorem State.measureLeg_drawn (a l : Nat) : (s.measureLeg a l).drawn = s.drawn := rfl

end Sys2Proof.Machine
end

