-- ==== Sys2Proof/Laws/Store.lean ====
section
/-! SUPPORT. The laws of the sparse table: what a read gives after a write and after a deletion, and that every
operation keeps the canonical form. -/

namespace Sys2Proof

variable {α : Type} {d : α}

/-! ## Reads after writes -/

theorem SMap.read_insert {k j : Nat} {v : α} {m : SMap α} :
    SMap.read d (SMap.insert m k v) j = if j = k then v else SMap.read d m j := by
  induction m with
  | nil => simp [SMap.insert, SMap.read]
  | cons e m ih => grind [SMap.insert, SMap.read]

theorem SMap.read_filter {p : Nat → Bool} {k : Nat} {m : SMap α} :
    SMap.read d (m.filter fun e => p e.1) k = if p k then SMap.read d m k else d := by
  induction m with
  | nil => simp [SMap.read]
  | cons e m ih => grind [SMap.read]

/-- A read after a write: the value written at its key, and what stood there at every other key. -/
theorem SMap.read_write [DecidableEq α] {k j : Nat} {v : α} {m : SMap α} :
    SMap.read d (SMap.write d m k v) j = if j = k then v else SMap.read d m j := by
  unfold SMap.write
  split
  · rw [SMap.read_filter (p := fun x => x != k)]
    by_cases h : j = k <;> simp_all
  · exact SMap.read_insert

@[simp] theorem SMap.read_write_same [DecidableEq α] {k : Nat} {v : α} {m : SMap α} :
    SMap.read d (SMap.write d m k v) k = v := by simp [SMap.read_write]

theorem SMap.read_write_other [DecidableEq α] {k j : Nat} {v : α} {m : SMap α} (h : j ≠ k) :
    SMap.read d (SMap.write d m k v) j = SMap.read d m j := by simp [SMap.read_write, h]

/-- A read after a deletion of keys. -/
theorem SMap.read_drop {p : Nat → Bool} {k : Nat} {m : SMap α} :
    SMap.read d (SMap.drop m p) k = if p k then d else SMap.read d m k := by
  unfold SMap.drop
  rw [SMap.read_filter (p := fun x => !p x)]
  by_cases h : p k <;> simp [h]

@[simp] theorem SMap.read_nil {k : Nat} : SMap.read d [] k = d := rfl

/-- A read of a key outside the keys of a list of writes. -/
theorem SMap.read_writeAll_other [DecidableEq α] {es : List (Nat × α)} {j : Nat} {m : SMap α}
    (h : ∀ e ∈ es, e.1 ≠ j) : SMap.read d (SMap.writeAll d m es) j = SMap.read d m j := by
  induction es generalizing m with
  | nil => rfl
  | cons e es ih =>
    rw [SMap.writeAll, ih fun x hx => h x (List.mem_cons_of_mem _ hx), SMap.read_write_other]
    exact fun he => h e List.mem_cons_self he.symm

/-- A read after writes at consecutive keys: the new value inside the range, the old one outside. -/
theorem SMap.read_writeList [DecidableEq α] {vs : List α} {k j : Nat} {m : SMap α} :
    SMap.read d (SMap.writeList d m k vs) j =
      if k ≤ j ∧ j < k + vs.length then vs.getD (j - k) d else SMap.read d m j := by
  induction vs generalizing m k with
  | nil => simp [SMap.writeList]
  | cons v vs ih =>
    rw [SMap.writeList, ih, SMap.read_write]
    by_cases h1 : j = k
    · subst h1; simp
    · by_cases h2 : k ≤ j ∧ j < k + (v :: vs).length
      · have : j - k = (j - (k + 1)) + 1 := by omega
        rw [if_pos (by simp only [List.length_cons] at h2; omega), if_pos h2, this, List.getD_cons_succ]
      · rw [if_neg (by simp only [List.length_cons] at h2; omega), if_neg h1, if_neg h2]

/-! ## The canonical form -/

variable [DecidableEq α]

theorem SMap.wfFrom_mono {lo lo' : Nat} {m : SMap α} (h : lo' ≤ lo) (hm : SMap.wfFrom d lo m = true) :
    SMap.wfFrom d lo' m = true := by
  cases m with
  | nil => rfl
  | cons e m =>
    simp only [SMap.wfFrom, Bool.and_eq_true, decide_eq_true_eq] at hm ⊢
    exact ⟨⟨by omega, hm.1.2⟩, hm.2⟩

theorem SMap.insert_wfFrom {lo k : Nat} {v : α} {m : SMap α} (hk : lo ≤ k) (hv : v ≠ d)
    (hm : SMap.wfFrom d lo m = true) : SMap.wfFrom d lo (SMap.insert m k v) = true := by
  induction m generalizing lo with
  | nil => simp [SMap.insert, SMap.wfFrom, hv, hk]
  | cons e m ih =>
    obtain ⟨k', v'⟩ := e
    simp only [SMap.wfFrom, Bool.and_eq_true, decide_eq_true_eq] at hm
    unfold SMap.insert
    split
    · simp [SMap.wfFrom, hv, hk, hm]; omega
    · split
      · subst_vars; simp [SMap.wfFrom, hv, hk, hm]
      · simp [SMap.wfFrom, hm, ih (lo := k' + 1) (by omega) hm.2]

theorem SMap.filter_wfFrom {lo : Nat} {m : SMap α} (p : Nat × α → Bool) (hm : SMap.wfFrom d lo m = true) :
    SMap.wfFrom d lo (m.filter p) = true := by
  induction m generalizing lo with
  | nil => rfl
  | cons e m ih =>
    obtain ⟨k, v⟩ := e
    simp only [SMap.wfFrom, Bool.and_eq_true, decide_eq_true_eq] at hm
    by_cases hp : p (k, v) = true
    · simp [List.filter, hp, SMap.wfFrom, hm.1, ih hm.2]
    · simp only [List.filter, hp]
      exact SMap.wfFrom_mono (by omega) (ih hm.2)

/-- A write keeps the canonical form. -/
@[simp] theorem SMap.write_wf {k : Nat} {v : α} {m : SMap α} (hm : SMap.wf d m = true) :
    SMap.wf d (SMap.write d m k v) = true := by
  unfold SMap.write
  split
  · exact SMap.filter_wfFrom _ hm
  · exact SMap.insert_wfFrom (Nat.zero_le _) (by assumption) hm

@[simp] theorem SMap.nil_wf : SMap.wf d ([] : SMap α) = true := rfl

/-- Writes at consecutive keys keep the canonical form. -/
@[simp] theorem SMap.writeList_wf {k : Nat} {vs : List α} {m : SMap α} (hm : SMap.wf d m = true) :
    SMap.wf d (SMap.writeList d m k vs) = true := by
  induction vs generalizing m k with
  | nil => exact hm
  | cons v vs ih => exact ih (SMap.write_wf hm)

/-- A list of writes keeps the canonical form. -/
@[simp] theorem SMap.writeAll_wf {es : List (Nat × α)} {m : SMap α} (hm : SMap.wf d m = true) :
    SMap.wf d (SMap.writeAll d m es) = true := by
  induction es generalizing m with
  | nil => exact hm
  | cons e es ih => exact ih (SMap.write_wf hm)

/-- Dropping keys keeps the canonical form. -/
@[simp] theorem SMap.drop_wf {m : SMap α} {p : Nat → Bool} (hm : SMap.wf d m = true) :
    SMap.wf d (SMap.drop m p) = true := SMap.filter_wfFrom _ hm

/-- Writes of a fold, in any order, keep the canonical form. -/
theorem SMap.foldl_wf {β : Type} {es : List β} {f : SMap α → β → SMap α} {m : SMap α}
    (hf : ∀ m e, SMap.wf d m = true → SMap.wf d (f m e) = true) (hm : SMap.wf d m = true) :
    SMap.wf d (es.foldl f m) = true := by
  induction es generalizing m with
  | nil => exact hm
  | cons e es ih => exact ih (hf m e hm)

end Sys2Proof
end

