-- ==== Sys2Proof/Laws/Registers.lean ====
section
/-! SUPPORT. What a register, a field and a bit read after a write of a register, a field or a bit. -/

namespace Sys2Proof.Machine

open Sys2Proof

/-! ## Fields of a word -/

theorem bitsOf_lt (w : Word) (lo n : Nat) : bitsOf w lo n < 2 ^ n := Nat.mod_lt _ (Nat.two_pow_pos n)

/-- The word with a field replaced, as a number. -/
theorem putBits_toNat {w : Word} {lo n v : Nat} (h : lo + n ≤ 32) :
    (putBits w lo n v).toNat = w.toNat % 2 ^ lo + v % 2 ^ n * 2 ^ lo + w.toNat / 2 ^ (lo + n) * 2 ^ (lo + n) := by
  have hw := w.isLt
  have e1 : w.toNat = w.toNat % 2 ^ lo + bitsOf w lo n * 2 ^ lo + w.toNat / 2 ^ (lo + n) * 2 ^ (lo + n) := by
    have a := Nat.div_add_mod w.toNat (2 ^ lo)
    have b := Nat.div_add_mod (w.toNat / 2 ^ lo) (2 ^ n)
    have c : w.toNat / 2 ^ (lo + n) = w.toNat / 2 ^ lo / 2 ^ n := by rw [Nat.pow_add, Nat.div_div_eq_div_mul]
    rw [c]
    unfold bitsOf
    rw [Nat.pow_add]
    conv_lhs => rw [← a, ← b]
    ring
  have e2 : w.toNat - bitsOf w lo n * 2 ^ lo = w.toNat % 2 ^ lo + w.toNat / 2 ^ (lo + n) * 2 ^ (lo + n) := by
    omega
  have hv : v % 2 ^ n < 2 ^ n := Nat.mod_lt _ (Nat.two_pow_pos n)
  have hq : w.toNat / 2 ^ (lo + n) < 2 ^ (32 - (lo + n)) := by
    rw [Nat.div_lt_iff_lt_mul (Nat.two_pow_pos _), ← Nat.pow_add]
    have : 32 - (lo + n) + (lo + n) = 32 := by omega
    rw [this]; exact hw
  have hm : w.toNat % 2 ^ lo < 2 ^ lo := Nat.mod_lt _ (Nat.two_pow_pos lo)
  have h1 : w.toNat % 2 ^ lo + v % 2 ^ n * 2 ^ lo < 2 ^ (lo + n) := by
    rw [Nat.pow_add]; nlinarith [Nat.two_pow_pos lo]
  have h2 : (w.toNat / 2 ^ (lo + n) + 1) * 2 ^ (lo + n) ≤ 2 ^ 32 := by
    calc _ ≤ 2 ^ (32 - (lo + n)) * 2 ^ (lo + n) := Nat.mul_le_mul_right _ hq
      _ = 2 ^ 32 := by rw [← Nat.pow_add]; congr 1; omega
  unfold putBits
  rw [BitVec.toNat_ofNat, e2, Nat.mod_eq_of_lt]
  · omega
  · have := Nat.add_mul (w.toNat / 2 ^ (lo + n)) 1 (2 ^ (lo + n))
    omega

/-- The replaced field reads as what was put there. -/
theorem bitsOf_putBits {w : Word} {lo n v : Nat} (h : lo + n ≤ 32) :
    bitsOf (putBits w lo n v) lo n = v % 2 ^ n := by
  have hm : w.toNat % 2 ^ lo < 2 ^ lo := Nat.mod_lt _ (Nat.two_pow_pos lo)
  unfold bitsOf
  rw [putBits_toNat h]
  have : w.toNat % 2 ^ lo + v % 2 ^ n * 2 ^ lo + w.toNat / 2 ^ (lo + n) * 2 ^ (lo + n)
      = w.toNat % 2 ^ lo + (v % 2 ^ n + w.toNat / 2 ^ (lo + n) * 2 ^ n) * 2 ^ lo := by
    rw [Nat.pow_add]; ring
  rw [this, Nat.add_mul_div_right _ _ (Nat.two_pow_pos lo), Nat.div_eq_of_lt hm, Nat.zero_add,
    Nat.add_mul_mod_self_right, Nat.mod_mod]

/-- A bit of the word with a field replaced. -/
theorem putBits_getLsbD {w : Word} {lo n v i : Nat} (h : lo + n ≤ 32) :
    (putBits w lo n v).getLsbD i = if lo ≤ i ∧ i < lo + n then v.testBit (i - lo) else w.getLsbD i := by
  have hm : w.toNat % 2 ^ lo < 2 ^ lo := Nat.mod_lt _ (Nat.two_pow_pos lo)
  have hv : v % 2 ^ n < 2 ^ n := Nat.mod_lt _ (Nat.two_pow_pos n)
  have e : (putBits w lo n v).toNat
      = 2 ^ (lo + n) * (w.toNat / 2 ^ (lo + n)) + (2 ^ lo * (v % 2 ^ n) + w.toNat % 2 ^ lo) := by
    rw [putBits_toNat h]; ring
  have h1 : 2 ^ lo * (v % 2 ^ n) + w.toNat % 2 ^ lo < 2 ^ (lo + n) := by
    rw [Nat.pow_add]; nlinarith [Nat.two_pow_pos lo]
  rw [BitVec.getLsbD, BitVec.getLsbD, e, Nat.testBit_two_pow_mul_add _ h1]
  by_cases a : i < lo + n
  · rw [if_pos a, Nat.testBit_two_pow_mul_add _ hm]
    by_cases b : i < lo
    · rw [if_pos b, if_neg (by omega), Nat.testBit_mod_two_pow]
      simp [b]
    · rw [if_neg b, if_pos ⟨by omega, a⟩, Nat.testBit_mod_two_pow]
      simp [show i - lo < n by omega]
  · rw [if_neg a, if_neg (by omega), Nat.testBit_div_two_pow]
    congr 1; omega

theorem bitsOf_eq_of_bits {w x : Word} {lo n : Nat} (h : ∀ i, lo ≤ i → i < lo + n → w.getLsbD i = x.getLsbD i) :
    bitsOf w lo n = bitsOf x lo n := by
  unfold bitsOf
  apply Nat.eq_of_testBit_eq
  intro i
  rw [Nat.testBit_mod_two_pow, Nat.testBit_mod_two_pow, Nat.testBit_div_two_pow, Nat.testBit_div_two_pow]
  by_cases a : i < n
  · simp only [a, decide_true, Bool.true_and]
    exact h _ (by omega) (by omega)
  · simp [a]

/-- A field apart from the replaced one is as it was. -/
theorem bitsOf_putBits_apart {w : Word} {lo n v a b : Nat} (h : lo + n ≤ 32) (hd : a + b ≤ lo ∨ lo + n ≤ a) :
    bitsOf (putBits w lo n v) a b = bitsOf w a b := by
  apply bitsOf_eq_of_bits
  intro i h1 h2
  rw [putBits_getLsbD h, if_neg (by omega)]

/-- A bit of the word with a field replaced. -/
theorem bitOf_putBits {w : Word} {lo n v i : Nat} (h : lo + n ≤ 32) :
    bitOf (putBits w lo n v) i = if lo ≤ i ∧ i < lo + n then v.testBit (i - lo) else bitOf w i :=
  putBits_getLsbD h

/-! ## Registers -/

variable (s : State)

theorem State.reg_setReg (k : Nat) (w : Word) (j : Nat) :
    (s.setReg k w).reg j = if j = k then w else s.reg j := SMap.read_write

@[simp] theorem State.reg_setReg_same (k : Nat) (w : Word) : (s.setReg k w).reg k = w := by
  simp [State.reg_setReg]

theorem State.reg_setFld (k lo n v j : Nat) :
    (s.setFld k lo n v).reg j = if j = k then putBits (s.reg k) lo n v else s.reg j := State.reg_setReg ..

theorem State.reg_setBit (k i : Nat) (b : Bool) (j : Nat) :
    (s.setBit k i b).reg j = if j = k then putBits (s.reg k) i 1 (if b then 1 else 0) else s.reg j :=
  State.reg_setReg ..

theorem State.reg_bump (k lo n v j : Nat) :
    (s.bump k lo n v).reg j
      = if j = k then putBits (s.reg k) lo n (min (s.fld k lo n + v) (2 ^ n - 1)) else s.reg j :=
  State.reg_setReg ..

theorem State.reg_wrapAdd (k lo n v j : Nat) :
    (s.wrapAdd k lo n v).reg j
      = if j = k then putBits (s.reg k) lo n ((s.fld k lo n + v) % 2 ^ n) else s.reg j := State.reg_setReg ..

/-! ## Fields -/

theorem State.fld_setReg (k : Nat) (w : Word) (j lo n : Nat) :
    (s.setReg k w).fld j lo n = if j = k then bitsOf w lo n else s.fld j lo n := by
  unfold State.fld; rw [State.reg_setReg]; split <;> rfl

theorem State.bit_setReg (k : Nat) (w : Word) (j i : Nat) :
    (s.setReg k w).bit j i = if j = k then bitOf w i else s.bit j i := by
  unfold State.bit; rw [State.reg_setReg]; split <;> rfl

/-- A field after a write of a field: the value where it is the field, the old value where it is apart. -/
theorem State.fld_setFld (k lo n v j a b : Nat) (h : lo + n ≤ 32)
    (hd : j ≠ k ∨ a + b ≤ lo ∨ lo + n ≤ a ∨ (a = lo ∧ b = n)) :
    (s.setFld k lo n v).fld j a b = if j = k ∧ a = lo ∧ b = n then v % 2 ^ n else s.fld j a b := by
  unfold State.fld; rw [State.reg_setFld]
  by_cases e : j = k
  · subst e
    rw [if_pos rfl]
    by_cases f : a = lo ∧ b = n
    · obtain ⟨rfl, rfl⟩ := f
      rw [if_pos ⟨rfl, rfl, rfl⟩, bitsOf_putBits h]
    · rw [if_neg (by tauto), bitsOf_putBits_apart h (by tauto)]
  · rw [if_neg e, if_neg (by tauto)]

theorem State.fld_setBit (k i : Nat) (c : Bool) (j a b : Nat) (h : i < 32)
    (hd : j ≠ k ∨ a + b ≤ i ∨ i + 1 ≤ a) : (s.setBit k i c).fld j a b = s.fld j a b := by
  unfold State.setBit
  rw [State.fld_setFld _ _ _ _ _ _ _ _ (by omega) (by tauto), if_neg (by omega)]

theorem State.bit_setFld (k lo n v j i : Nat) (h : lo + n ≤ 32) :
    (s.setFld k lo n v).bit j i
      = if j = k ∧ lo ≤ i ∧ i < lo + n then v.testBit (i - lo) else s.bit j i := by
  unfold State.bit; rw [State.reg_setFld]
  by_cases e : j = k
  · subst e; rw [if_pos rfl, bitOf_putBits h]; simp
  · rw [if_neg e, if_neg (by tauto)]

theorem State.bit_setBit (k i : Nat) (b : Bool) (j m : Nat) (h : i < 32) :
    (s.setBit k i b).bit j m = if j = k ∧ m = i then b else s.bit j m := by
  unfold State.setBit
  rw [State.bit_setFld _ _ _ _ _ _ _ (by omega)]
  by_cases e : j = k ∧ m = i
  · obtain ⟨rfl, rfl⟩ := e
    cases b <;> simp
  · rw [if_neg e, if_neg (by omega)]

theorem State.fld_lt (k lo n : Nat) : s.fld k lo n < 2 ^ n := bitsOf_lt ..

/-- A counter after a count: the sum, at most the largest value of the field. -/
theorem State.fld_bump (k lo n v j a b : Nat) (h : lo + n ≤ 32)
    (hd : j ≠ k ∨ a + b ≤ lo ∨ lo + n ≤ a ∨ (a = lo ∧ b = n)) :
    (s.bump k lo n v).fld j a b
      = if j = k ∧ a = lo ∧ b = n then min (s.fld k lo n + v) (2 ^ n - 1) else s.fld j a b := by
  unfold State.bump
  rw [State.fld_setFld _ _ _ _ _ _ _ _ h hd]
  have : min (s.fld k lo n + v) (2 ^ n - 1) % 2 ^ n = min (s.fld k lo n + v) (2 ^ n - 1) := by
    have := Nat.two_pow_pos n
    exact Nat.mod_eq_of_lt (by omega)
  rw [this]

theorem State.bit_bump (k lo n v j i : Nat) (h : lo + n ≤ 32) (hd : j ≠ k ∨ i < lo ∨ lo + n ≤ i) :
    (s.bump k lo n v).bit j i = s.bit j i := by
  unfold State.bump
  rw [State.bit_setFld _ _ _ _ _ _ _ h, if_neg (by omega)]

theorem State.fld_wrapAdd (k lo n v j a b : Nat) (h : lo + n ≤ 32)
    (hd : j ≠ k ∨ a + b ≤ lo ∨ lo + n ≤ a ∨ (a = lo ∧ b = n)) :
    (s.wrapAdd k lo n v).fld j a b
      = if j = k ∧ a = lo ∧ b = n then (s.fld k lo n + v) % 2 ^ n else s.fld j a b := by
  unfold State.wrapAdd
  rw [State.fld_setFld _ _ _ _ _ _ _ _ h hd, Nat.mod_mod]

/-- A list of registers set to 0. -/
theorem State.reg_zeroRegs (ks : List Nat) (j : Nat) :
    (s.zeroRegs ks).reg j = if j ∈ ks then 0 else s.reg j := by
  induction ks generalizing s with
  | nil => simp [State.zeroRegs]
  | cons k ks ih =>
    rw [State.zeroRegs, ih, State.reg_setReg]
    by_cases h : j ∈ ks <;> by_cases e : j = k <;> simp [h, e]

/-- Setting registers to 0 changes nothing but registers. -/
theorem State.zeroRegs_form (ks : List Nat) : s.zeroRegs ks = { s with regs := (s.zeroRegs ks).regs } := by
  induction ks generalizing s with
  | nil => rfl
  | cons k ks ih => rw [State.zeroRegs, ih]; rfl

/-- A windowed register has a key of its own. -/
theorem winKey_ne {i a k : Nat} (h : k < 2 ^ 32) : winKey i a ≠ k := by
  unfold winKey
  have := Nat.le_mul_of_pos_left (2 ^ 32) (Nat.succ_pos i)
  omega

theorem winKey_inj {i j a b : Nat} (ha : a < 2 ^ 32) (hb : b < 2 ^ 32) :
    winKey i a = winKey j b ↔ i = j ∧ a = b := by
  unfold winKey
  constructor
  · intro h; constructor <;> omega
  · rintro ⟨rfl, rfl⟩; rfl

end Sys2Proof.Machine
end

