-- ==== Sys2Proof/Laws/Ops.lean ====
section
/-! SUPPORT. What the shared operations can do: for each, the fields of the state that it may change, and for
those that report faults the registers that they leave. -/

namespace Sys2Proof.Machine

open Sys2Proof

/-- Two states are equal when each field is. -/
theorem State.ext_of {s t : State}
    (h_pending : s.pending = t.pending)
    (h_regs : s.regs = t.regs)
    (h_clock : s.clock = t.clock)
    (h_commit : s.commit = t.commit)
    (h_chans : s.chans = t.chans)
    (h_taps : s.taps = t.taps)
    (h_due : s.due = t.due)
    (h_spine : s.spine = t.spine)
    (h_faults : s.faults = t.faults)
    (h_ledger : s.ledger = t.ledger)
    (h_mem : s.mem = t.mem)
    (h_hbm : s.hbm = t.hbm)
    (h_ladles : s.ladles = t.ladles)
    (h_running : s.running = t.running)
    (h_signals : s.signals = t.signals)
    (h_anvils : s.anvils = t.anvils)
    (h_slicers : s.slicers = t.slicers)
    (h_swages : s.swages = t.swages)
    (h_crucibles : s.crucibles = t.crucibles)
    (h_planishers : s.planishers = t.planishers)
    (h_tinkers : s.tinkers = t.tinkers)
    (h_plan : s.plan = t.plan)
    (h_els : s.els = t.els)
    (h_radio : s.radio = t.radio)
    (h_code : s.code = t.code)
    (h_train : s.train = t.train)
    (h_net : s.net = t.net)
    (h_time : s.time = t.time)
    (h_twin : s.twin = t.twin)
    (h_power : s.power = t.power)
    (h_start : s.start = t.start)
    (h_sec : s.sec = t.sec)
    (h_seq : s.seq = t.seq)
    (h_i3c : s.i3c = t.i3c)
    (h_test : s.test = t.test)
    (h_pins : s.pins = t.pins)
    (h_free : s.free = t.free)
    (h_drawn : s.drawn = t.drawn) : s = t := by
  cases s; cases t; simp_all only

variable (s : State)

/-- `goFatal` with the word that it writes left open. -/
def State.goFatalWord (w : Word) : State :=
  (fun s : State => if s.bit Reg.FLT_FATAL 31 then s
    else { (s.setReg Reg.FLT_FATAL w) with faults := { s.faults with fatalSlot := some s.curSlot } })
  ((fun s : State => if s.started then s else s.setBit Reg.STA_STEP 4 true)
    { s with pins := { s.pins with faultN := false, twinOk := false } })

theorem goFatal_word (c : Nat) : ∃ w, s.goFatal c = s.goFatalWord w := ⟨_, rfl⟩


/-- A fold keeps what each of its steps keeps. -/
theorem foldl_keeps {α β γ : Type} (g : α → γ) {f : α → β → α} (h : ∀ a b, g (f a b) = g a) :
    ∀ (l : List β) (a : α), g (l.foldl f a) = g a
  | [], _ => rfl
  | b :: l, a => (foldl_keeps g h l (f a b)).trans (h a b)

/-- A fold from the right keeps what each of its steps keeps. -/
theorem foldr_keeps {α β γ : Type} (g : α → γ) {f : β → α → α} (h : ∀ a b, g (f b a) = g a) :
    ∀ (l : List β) (a : α), g (l.foldr f a) = g a
  | [], _ => rfl
  | b :: l, a => (h _ b).trans (foldr_keeps g h l a)

/-- A state that agrees with `s` but in `regs`, `faults`. -/
theorem State.only_regs_faults {s t : State}
    (h_pending : t.pending = s.pending)
    (h_clock : t.clock = s.clock)
    (h_commit : t.commit = s.commit)
    (h_chans : t.chans = s.chans)
    (h_taps : t.taps = s.taps)
    (h_due : t.due = s.due)
    (h_spine : t.spine = s.spine)
    (h_ledger : t.ledger = s.ledger)
    (h_mem : t.mem = s.mem)
    (h_hbm : t.hbm = s.hbm)
    (h_ladles : t.ladles = s.ladles)
    (h_running : t.running = s.running)
    (h_signals : t.signals = s.signals)
    (h_anvils : t.anvils = s.anvils)
    (h_slicers : t.slicers = s.slicers)
    (h_swages : t.swages = s.swages)
    (h_crucibles : t.crucibles = s.crucibles)
    (h_planishers : t.planishers = s.planishers)
    (h_tinkers : t.tinkers = s.tinkers)
    (h_plan : t.plan = s.plan)
    (h_els : t.els = s.els)
    (h_radio : t.radio = s.radio)
    (h_code : t.code = s.code)
    (h_train : t.train = s.train)
    (h_net : t.net = s.net)
    (h_time : t.time = s.time)
    (h_twin : t.twin = s.twin)
    (h_power : t.power = s.power)
    (h_start : t.start = s.start)
    (h_sec : t.sec = s.sec)
    (h_seq : t.seq = s.seq)
    (h_i3c : t.i3c = s.i3c)
    (h_test : t.test = s.test)
    (h_pins : t.pins = s.pins)
    (h_free : t.free = s.free)
    (h_drawn : t.drawn = s.drawn) :
    t = { s with regs := t.regs, faults := t.faults } := by
  cases s; cases t; simp_all only

/-- Queueing a record changes the queue and the counts of lost records. -/
theorem State.queueRecord_form (r : Record) :
    s.queueRecord r = { s with
      regs := (s.queueRecord r).regs, faults := (s.queueRecord r).faults } := by
  apply State.only_regs_faults
  all_goals
    unfold State.queueRecord; try dsimp only
    repeat' split
    all_goals simp

@[simp] theorem State.queueRecord_pending (r : Record) :
    (s.queueRecord r).pending = s.pending := by rw [State.queueRecord_form]
@[simp] theorem State.queueRecord_clock (r : Record) :
    (s.queueRecord r).clock = s.clock := by rw [State.queueRecord_form]
@[simp] theorem State.queueRecord_commit (r : Record) :
    (s.queueRecord r).commit = s.commit := by rw [State.queueRecord_form]
@[simp] theorem State.queueRecord_chans (r : Record) :
    (s.queueRecord r).chans = s.chans := by rw [State.queueRecord_form]
@[simp] theorem State.queueRecord_taps (r : Record) :
    (s.queueRecord r).taps = s.taps := by rw [State.queueRecord_form]
@[simp] theorem State.queueRecord_due (r : Record) :
    (s.queueRecord r).due = s.due := by rw [State.queueRecord_form]
@[simp] theorem State.queueRecord_spine (r : Record) :
    (s.queueRecord r).spine = s.spine := by rw [State.queueRecord_form]
@[simp] theorem State.queueRecord_ledger (r : Record) :
    (s.queueRecord r).ledger = s.ledger := by rw [State.queueRecord_form]
@[simp] theorem State.queueRecord_mem (r : Record) :
    (s.queueRecord r).mem = s.mem := by rw [State.queueRecord_form]
@[simp] theorem State.queueRecord_hbm (r : Record) :
    (s.queueRecord r).hbm = s.hbm := by rw [State.queueRecord_form]
@[simp] theorem State.queueRecord_ladles (r : Record) :
    (s.queueRecord r).ladles = s.ladles := by rw [State.queueRecord_form]
@[simp] theorem State.queueRecord_running (r : Record) :
    (s.queueRecord r).running = s.running := by rw [State.queueRecord_form]
@[simp] theorem State.queueRecord_signals (r : Record) :
    (s.queueRecord r).signals = s.signals := by rw [State.queueRecord_form]
@[simp] theorem State.queueRecord_anvils (r : Record) :
    (s.queueRecord r).anvils = s.anvils := by rw [State.queueRecord_form]
@[simp] theorem State.queueRecord_slicers (r : Record) :
    (s.queueRecord r).slicers = s.slicers := by rw [State.queueRecord_form]
@[simp] theorem State.queueRecord_swages (r : Record) :
    (s.queueRecord r).swages = s.swages := by rw [State.queueRecord_form]
@[simp] theorem State.queueRecord_crucibles (r : Record) :
    (s.queueRecord r).crucibles = s.crucibles := by rw [State.queueRecord_form]
@[simp] theorem State.queueRecord_planishers (r : Record) :
    (s.queueRecord r).planishers = s.planishers := by rw [State.queueRecord_form]
@[simp] theorem State.queueRecord_tinkers (r : Record) :
    (s.queueRecord r).tinkers = s.tinkers := by rw [State.queueRecord_form]
@[simp] theorem State.queueRecord_plan (r : Record) :
    (s.queueRecord r).plan = s.plan := by rw [State.queueRecord_form]
@[simp] theorem State.queueRecord_els (r : Record) :
    (s.queueRecord r).els = s.els := by rw [State.queueRecord_form]
@[simp] theorem State.queueRecord_radio (r : Record) :
    (s.queueRecord r).radio = s.radio := by rw [State.queueRecord_form]
@[simp] theorem State.queueRecord_code (r : Record) :
    (s.queueRecord r).code = s.code := by rw [State.queueRecord_form]
@[simp] theorem State.queueRecord_train (r : Record) :
    (s.queueRecord r).train = s.train := by rw [State.queueRecord_form]
@[simp] theorem State.queueRecord_net (r : Record) :
    (s.queueRecord r).net = s.net := by rw [State.queueRecord_form]
@[simp] theorem State.queueRecord_time (r : Record) :
    (s.queueRecord r).time = s.time := by rw [State.queueRecord_form]
@[simp] theorem State.queueRecord_twin (r : Record) :
    (s.queueRecord r).twin = s.twin := by rw [State.queueRecord_form]
@[simp] theorem State.queueRecord_power (r : Record) :
    (s.queueRecord r).power = s.power := by rw [State.queueRecord_form]
@[simp] theorem State.queueRecord_start (r : Record) :
    (s.queueRecord r).start = s.start := by rw [State.queueRecord_form]
@[simp] theorem State.queueRecord_sec (r : Record) :
    (s.queueRecord r).sec = s.sec := by rw [State.queueRecord_form]
@[simp] theorem State.queueRecord_seq (r : Record) :
    (s.queueRecord r).seq = s.seq := by rw [State.queueRecord_form]
@[simp] theorem State.queueRecord_i3c (r : Record) :
    (s.queueRecord r).i3c = s.i3c := by rw [State.queueRecord_form]
@[simp] theorem State.queueRecord_test (r : Record) :
    (s.queueRecord r).test = s.test := by rw [State.queueRecord_form]
@[simp] theorem State.queueRecord_pins (r : Record) :
    (s.queueRecord r).pins = s.pins := by rw [State.queueRecord_form]
@[simp] theorem State.queueRecord_free (r : Record) :
    (s.queueRecord r).free = s.free := by rw [State.queueRecord_form]
@[simp] theorem State.queueRecord_drawn (r : Record) :
    (s.queueRecord r).drawn = s.drawn := by rw [State.queueRecord_form]

/-- A state that agrees with `s` but in `regs`, `faults`, `pins`. -/
theorem State.only_regs_faults_pins {s t : State}
    (h_pending : t.pending = s.pending)
    (h_clock : t.clock = s.clock)
    (h_commit : t.commit = s.commit)
    (h_chans : t.chans = s.chans)
    (h_taps : t.taps = s.taps)
    (h_due : t.due = s.due)
    (h_spine : t.spine = s.spine)
    (h_ledger : t.ledger = s.ledger)
    (h_mem : t.mem = s.mem)
    (h_hbm : t.hbm = s.hbm)
    (h_ladles : t.ladles = s.ladles)
    (h_running : t.running = s.running)
    (h_signals : t.signals = s.signals)
    (h_anvils : t.anvils = s.anvils)
    (h_slicers : t.slicers = s.slicers)
    (h_swages : t.swages = s.swages)
    (h_crucibles : t.crucibles = s.crucibles)
    (h_planishers : t.planishers = s.planishers)
    (h_tinkers : t.tinkers = s.tinkers)
    (h_plan : t.plan = s.plan)
    (h_els : t.els = s.els)
    (h_radio : t.radio = s.radio)
    (h_code : t.code = s.code)
    (h_train : t.train = s.train)
    (h_net : t.net = s.net)
    (h_time : t.time = s.time)
    (h_twin : t.twin = s.twin)
    (h_power : t.power = s.power)
    (h_start : t.start = s.start)
    (h_sec : t.sec = s.sec)
    (h_seq : t.seq = s.seq)
    (h_i3c : t.i3c = s.i3c)
    (h_test : t.test = s.test)
    (h_free : t.free = s.free)
    (h_drawn : t.drawn = s.drawn) :
    t = { s with regs := t.regs, faults := t.faults, pins := t.pins } := by
  cases s; cases t; simp_all only

/-- A fatal fault changes its register, the start's status, and FAULT_N and TWIN_OK. -/
theorem State.goFatal_form (c : Nat) :
    s.goFatal c = { s with
      regs := (s.goFatal c).regs, faults := (s.goFatal c).faults, pins := (s.goFatal c).pins } := by
  apply State.only_regs_faults_pins
  all_goals
    obtain ⟨w, h⟩ := goFatal_word s c
    rw [h]
    unfold State.goFatalWord
    beta_reduce
    repeat' split
    all_goals simp

@[simp] theorem State.goFatal_pending (c : Nat) :
    (s.goFatal c).pending = s.pending := by rw [State.goFatal_form]
@[simp] theorem State.goFatal_clock (c : Nat) :
    (s.goFatal c).clock = s.clock := by rw [State.goFatal_form]
@[simp] theorem State.goFatal_commit (c : Nat) :
    (s.goFatal c).commit = s.commit := by rw [State.goFatal_form]
@[simp] theorem State.goFatal_chans (c : Nat) :
    (s.goFatal c).chans = s.chans := by rw [State.goFatal_form]
@[simp] theorem State.goFatal_taps (c : Nat) :
    (s.goFatal c).taps = s.taps := by rw [State.goFatal_form]
@[simp] theorem State.goFatal_due (c : Nat) :
    (s.goFatal c).due = s.due := by rw [State.goFatal_form]
@[simp] theorem State.goFatal_spine (c : Nat) :
    (s.goFatal c).spine = s.spine := by rw [State.goFatal_form]
@[simp] theorem State.goFatal_ledger (c : Nat) :
    (s.goFatal c).ledger = s.ledger := by rw [State.goFatal_form]
@[simp] theorem State.goFatal_mem (c : Nat) :
    (s.goFatal c).mem = s.mem := by rw [State.goFatal_form]
@[simp] theorem State.goFatal_hbm (c : Nat) :
    (s.goFatal c).hbm = s.hbm := by rw [State.goFatal_form]
@[simp] theorem State.goFatal_ladles (c : Nat) :
    (s.goFatal c).ladles = s.ladles := by rw [State.goFatal_form]
@[simp] theorem State.goFatal_running (c : Nat) :
    (s.goFatal c).running = s.running := by rw [State.goFatal_form]
@[simp] theorem State.goFatal_signals (c : Nat) :
    (s.goFatal c).signals = s.signals := by rw [State.goFatal_form]
@[simp] theorem State.goFatal_anvils (c : Nat) :
    (s.goFatal c).anvils = s.anvils := by rw [State.goFatal_form]
@[simp] theorem State.goFatal_slicers (c : Nat) :
    (s.goFatal c).slicers = s.slicers := by rw [State.goFatal_form]
@[simp] theorem State.goFatal_swages (c : Nat) :
    (s.goFatal c).swages = s.swages := by rw [State.goFatal_form]
@[simp] theorem State.goFatal_crucibles (c : Nat) :
    (s.goFatal c).crucibles = s.crucibles := by rw [State.goFatal_form]
@[simp] theorem State.goFatal_planishers (c : Nat) :
    (s.goFatal c).planishers = s.planishers := by rw [State.goFatal_form]
@[simp] theorem State.goFatal_tinkers (c : Nat) :
    (s.goFatal c).tinkers = s.tinkers := by rw [State.goFatal_form]
@[simp] theorem State.goFatal_plan (c : Nat) :
    (s.goFatal c).plan = s.plan := by rw [State.goFatal_form]
@[simp] theorem State.goFatal_els (c : Nat) :
    (s.goFatal c).els = s.els := by rw [State.goFatal_form]
@[simp] theorem State.goFatal_radio (c : Nat) :
    (s.goFatal c).radio = s.radio := by rw [State.goFatal_form]
@[simp] theorem State.goFatal_code (c : Nat) :
    (s.goFatal c).code = s.code := by rw [State.goFatal_form]
@[simp] theorem State.goFatal_train (c : Nat) :
    (s.goFatal c).train = s.train := by rw [State.goFatal_form]
@[simp] theorem State.goFatal_net (c : Nat) :
    (s.goFatal c).net = s.net := by rw [State.goFatal_form]
@[simp] theorem State.goFatal_time (c : Nat) :
    (s.goFatal c).time = s.time := by rw [State.goFatal_form]
@[simp] theorem State.goFatal_twin (c : Nat) :
    (s.goFatal c).twin = s.twin := by rw [State.goFatal_form]
@[simp] theorem State.goFatal_power (c : Nat) :
    (s.goFatal c).power = s.power := by rw [State.goFatal_form]
@[simp] theorem State.goFatal_start (c : Nat) :
    (s.goFatal c).start = s.start := by rw [State.goFatal_form]
@[simp] theorem State.goFatal_sec (c : Nat) :
    (s.goFatal c).sec = s.sec := by rw [State.goFatal_form]
@[simp] theorem State.goFatal_seq (c : Nat) :
    (s.goFatal c).seq = s.seq := by rw [State.goFatal_form]
@[simp] theorem State.goFatal_i3c (c : Nat) :
    (s.goFatal c).i3c = s.i3c := by rw [State.goFatal_form]
@[simp] theorem State.goFatal_test (c : Nat) :
    (s.goFatal c).test = s.test := by rw [State.goFatal_form]
@[simp] theorem State.goFatal_free (c : Nat) :
    (s.goFatal c).free = s.free := by rw [State.goFatal_form]
@[simp] theorem State.goFatal_drawn (c : Nat) :
    (s.goFatal c).drawn = s.drawn := by rw [State.goFatal_form]

/-- A fault changes the fault controller, its registers and, when fatal, balls. -/
theorem State.raise_form (code : Nat) (c : FaultClass) (loc : BitVec 64) (d0 d1 : Nat) :
    s.raise code c loc d0 d1 = { s with
      regs := (s.raise code c loc d0 d1).regs, faults := (s.raise code c loc d0 d1).faults, pins := (s.raise code c loc d0 d1).pins } := by
  apply State.only_regs_faults_pins
  all_goals
    unfold State.raise; try dsimp only
    repeat' split
    all_goals simp

@[simp] theorem State.raise_pending (code : Nat) (c : FaultClass) (loc : BitVec 64) (d0 d1 : Nat) :
    (s.raise code c loc d0 d1).pending = s.pending := by rw [State.raise_form]
@[simp] theorem State.raise_clock (code : Nat) (c : FaultClass) (loc : BitVec 64) (d0 d1 : Nat) :
    (s.raise code c loc d0 d1).clock = s.clock := by rw [State.raise_form]
@[simp] theorem State.raise_commit (code : Nat) (c : FaultClass) (loc : BitVec 64) (d0 d1 : Nat) :
    (s.raise code c loc d0 d1).commit = s.commit := by rw [State.raise_form]
@[simp] theorem State.raise_chans (code : Nat) (c : FaultClass) (loc : BitVec 64) (d0 d1 : Nat) :
    (s.raise code c loc d0 d1).chans = s.chans := by rw [State.raise_form]
@[simp] theorem State.raise_taps (code : Nat) (c : FaultClass) (loc : BitVec 64) (d0 d1 : Nat) :
    (s.raise code c loc d0 d1).taps = s.taps := by rw [State.raise_form]
@[simp] theorem State.raise_due (code : Nat) (c : FaultClass) (loc : BitVec 64) (d0 d1 : Nat) :
    (s.raise code c loc d0 d1).due = s.due := by rw [State.raise_form]
@[simp] theorem State.raise_spine (code : Nat) (c : FaultClass) (loc : BitVec 64) (d0 d1 : Nat) :
    (s.raise code c loc d0 d1).spine = s.spine := by rw [State.raise_form]
@[simp] theorem State.raise_ledger (code : Nat) (c : FaultClass) (loc : BitVec 64) (d0 d1 : Nat) :
    (s.raise code c loc d0 d1).ledger = s.ledger := by rw [State.raise_form]
@[simp] theorem State.raise_mem (code : Nat) (c : FaultClass) (loc : BitVec 64) (d0 d1 : Nat) :
    (s.raise code c loc d0 d1).mem = s.mem := by rw [State.raise_form]
@[simp] theorem State.raise_hbm (code : Nat) (c : FaultClass) (loc : BitVec 64) (d0 d1 : Nat) :
    (s.raise code c loc d0 d1).hbm = s.hbm := by rw [State.raise_form]
@[simp] theorem State.raise_ladles (code : Nat) (c : FaultClass) (loc : BitVec 64) (d0 d1 : Nat) :
    (s.raise code c loc d0 d1).ladles = s.ladles := by rw [State.raise_form]
@[simp] theorem State.raise_running (code : Nat) (c : FaultClass) (loc : BitVec 64) (d0 d1 : Nat) :
    (s.raise code c loc d0 d1).running = s.running := by rw [State.raise_form]
@[simp] theorem State.raise_signals (code : Nat) (c : FaultClass) (loc : BitVec 64) (d0 d1 : Nat) :
    (s.raise code c loc d0 d1).signals = s.signals := by rw [State.raise_form]
@[simp] theorem State.raise_anvils (code : Nat) (c : FaultClass) (loc : BitVec 64) (d0 d1 : Nat) :
    (s.raise code c loc d0 d1).anvils = s.anvils := by rw [State.raise_form]
@[simp] theorem State.raise_slicers (code : Nat) (c : FaultClass) (loc : BitVec 64) (d0 d1 : Nat) :
    (s.raise code c loc d0 d1).slicers = s.slicers := by rw [State.raise_form]
@[simp] theorem State.raise_swages (code : Nat) (c : FaultClass) (loc : BitVec 64) (d0 d1 : Nat) :
    (s.raise code c loc d0 d1).swages = s.swages := by rw [State.raise_form]
@[simp] theorem State.raise_crucibles (code : Nat) (c : FaultClass) (loc : BitVec 64) (d0 d1 : Nat) :
    (s.raise code c loc d0 d1).crucibles = s.crucibles := by rw [State.raise_form]
@[simp] theorem State.raise_planishers (code : Nat) (c : FaultClass) (loc : BitVec 64) (d0 d1 : Nat) :
    (s.raise code c loc d0 d1).planishers = s.planishers := by rw [State.raise_form]
@[simp] theorem State.raise_tinkers (code : Nat) (c : FaultClass) (loc : BitVec 64) (d0 d1 : Nat) :
    (s.raise code c loc d0 d1).tinkers = s.tinkers := by rw [State.raise_form]
@[simp] theorem State.raise_plan (code : Nat) (c : FaultClass) (loc : BitVec 64) (d0 d1 : Nat) :
    (s.raise code c loc d0 d1).plan = s.plan := by rw [State.raise_form]
@[simp] theorem State.raise_els (code : Nat) (c : FaultClass) (loc : BitVec 64) (d0 d1 : Nat) :
    (s.raise code c loc d0 d1).els = s.els := by rw [State.raise_form]
@[simp] theorem State.raise_radio (code : Nat) (c : FaultClass) (loc : BitVec 64) (d0 d1 : Nat) :
    (s.raise code c loc d0 d1).radio = s.radio := by rw [State.raise_form]
@[simp] theorem State.raise_code (code : Nat) (c : FaultClass) (loc : BitVec 64) (d0 d1 : Nat) :
    (s.raise code c loc d0 d1).code = s.code := by rw [State.raise_form]
@[simp] theorem State.raise_train (code : Nat) (c : FaultClass) (loc : BitVec 64) (d0 d1 : Nat) :
    (s.raise code c loc d0 d1).train = s.train := by rw [State.raise_form]
@[simp] theorem State.raise_net (code : Nat) (c : FaultClass) (loc : BitVec 64) (d0 d1 : Nat) :
    (s.raise code c loc d0 d1).net = s.net := by rw [State.raise_form]
@[simp] theorem State.raise_time (code : Nat) (c : FaultClass) (loc : BitVec 64) (d0 d1 : Nat) :
    (s.raise code c loc d0 d1).time = s.time := by rw [State.raise_form]
@[simp] theorem State.raise_twin (code : Nat) (c : FaultClass) (loc : BitVec 64) (d0 d1 : Nat) :
    (s.raise code c loc d0 d1).twin = s.twin := by rw [State.raise_form]
@[simp] theorem State.raise_power (code : Nat) (c : FaultClass) (loc : BitVec 64) (d0 d1 : Nat) :
    (s.raise code c loc d0 d1).power = s.power := by rw [State.raise_form]
@[simp] theorem State.raise_start (code : Nat) (c : FaultClass) (loc : BitVec 64) (d0 d1 : Nat) :
    (s.raise code c loc d0 d1).start = s.start := by rw [State.raise_form]
@[simp] theorem State.raise_sec (code : Nat) (c : FaultClass) (loc : BitVec 64) (d0 d1 : Nat) :
    (s.raise code c loc d0 d1).sec = s.sec := by rw [State.raise_form]
@[simp] theorem State.raise_seq (code : Nat) (c : FaultClass) (loc : BitVec 64) (d0 d1 : Nat) :
    (s.raise code c loc d0 d1).seq = s.seq := by rw [State.raise_form]
@[simp] theorem State.raise_i3c (code : Nat) (c : FaultClass) (loc : BitVec 64) (d0 d1 : Nat) :
    (s.raise code c loc d0 d1).i3c = s.i3c := by rw [State.raise_form]
@[simp] theorem State.raise_test (code : Nat) (c : FaultClass) (loc : BitVec 64) (d0 d1 : Nat) :
    (s.raise code c loc d0 d1).test = s.test := by rw [State.raise_form]
@[simp] theorem State.raise_free (code : Nat) (c : FaultClass) (loc : BitVec 64) (d0 d1 : Nat) :
    (s.raise code c loc d0 d1).free = s.free := by rw [State.raise_form]
@[simp] theorem State.raise_drawn (code : Nat) (c : FaultClass) (loc : BitVec 64) (d0 d1 : Nat) :
    (s.raise code c loc d0 d1).drawn = s.drawn := by rw [State.raise_form]

/-- A conditional fault changes what a fault changes. -/
theorem State.raiseIf_form (b : Bool) (code : Nat) (c : FaultClass) (loc : BitVec 64) (d0 d1 : Nat) :
    s.raiseIf b code c loc d0 d1 = { s with
      regs := (s.raiseIf b code c loc d0 d1).regs, faults := (s.raiseIf b code c loc d0 d1).faults, pins := (s.raiseIf b code c loc d0 d1).pins } := by
  apply State.only_regs_faults_pins
  all_goals
    unfold State.raiseIf; try dsimp only
    repeat' split
    all_goals simp

@[simp] theorem State.raiseIf_pending (b : Bool) (code : Nat) (c : FaultClass) (loc : BitVec 64) (d0 d1 : Nat) :
    (s.raiseIf b code c loc d0 d1).pending = s.pending := by rw [State.raiseIf_form]
@[simp] theorem State.raiseIf_clock (b : Bool) (code : Nat) (c : FaultClass) (loc : BitVec 64) (d0 d1 : Nat) :
    (s.raiseIf b code c loc d0 d1).clock = s.clock := by rw [State.raiseIf_form]
@[simp] theorem State.raiseIf_commit (b : Bool) (code : Nat) (c : FaultClass) (loc : BitVec 64) (d0 d1 : Nat) :
    (s.raiseIf b code c loc d0 d1).commit = s.commit := by rw [State.raiseIf_form]
@[simp] theorem State.raiseIf_chans (b : Bool) (code : Nat) (c : FaultClass) (loc : BitVec 64) (d0 d1 : Nat) :
    (s.raiseIf b code c loc d0 d1).chans = s.chans := by rw [State.raiseIf_form]
@[simp] theorem State.raiseIf_taps (b : Bool) (code : Nat) (c : FaultClass) (loc : BitVec 64) (d0 d1 : Nat) :
    (s.raiseIf b code c loc d0 d1).taps = s.taps := by rw [State.raiseIf_form]
@[simp] theorem State.raiseIf_due (b : Bool) (code : Nat) (c : FaultClass) (loc : BitVec 64) (d0 d1 : Nat) :
    (s.raiseIf b code c loc d0 d1).due = s.due := by rw [State.raiseIf_form]
@[simp] theorem State.raiseIf_spine (b : Bool) (code : Nat) (c : FaultClass) (loc : BitVec 64) (d0 d1 : Nat) :
    (s.raiseIf b code c loc d0 d1).spine = s.spine := by rw [State.raiseIf_form]
@[simp] theorem State.raiseIf_ledger (b : Bool) (code : Nat) (c : FaultClass) (loc : BitVec 64) (d0 d1 : Nat) :
    (s.raiseIf b code c loc d0 d1).ledger = s.ledger := by rw [State.raiseIf_form]
@[simp] theorem State.raiseIf_mem (b : Bool) (code : Nat) (c : FaultClass) (loc : BitVec 64) (d0 d1 : Nat) :
    (s.raiseIf b code c loc d0 d1).mem = s.mem := by rw [State.raiseIf_form]
@[simp] theorem State.raiseIf_hbm (b : Bool) (code : Nat) (c : FaultClass) (loc : BitVec 64) (d0 d1 : Nat) :
    (s.raiseIf b code c loc d0 d1).hbm = s.hbm := by rw [State.raiseIf_form]
@[simp] theorem State.raiseIf_ladles (b : Bool) (code : Nat) (c : FaultClass) (loc : BitVec 64) (d0 d1 : Nat) :
    (s.raiseIf b code c loc d0 d1).ladles = s.ladles := by rw [State.raiseIf_form]
@[simp] theorem State.raiseIf_running (b : Bool) (code : Nat) (c : FaultClass) (loc : BitVec 64) (d0 d1 : Nat) :
    (s.raiseIf b code c loc d0 d1).running = s.running := by rw [State.raiseIf_form]
@[simp] theorem State.raiseIf_signals (b : Bool) (code : Nat) (c : FaultClass) (loc : BitVec 64) (d0 d1 : Nat) :
    (s.raiseIf b code c loc d0 d1).signals = s.signals := by rw [State.raiseIf_form]
@[simp] theorem State.raiseIf_anvils (b : Bool) (code : Nat) (c : FaultClass) (loc : BitVec 64) (d0 d1 : Nat) :
    (s.raiseIf b code c loc d0 d1).anvils = s.anvils := by rw [State.raiseIf_form]
@[simp] theorem State.raiseIf_slicers (b : Bool) (code : Nat) (c : FaultClass) (loc : BitVec 64) (d0 d1 : Nat) :
    (s.raiseIf b code c loc d0 d1).slicers = s.slicers := by rw [State.raiseIf_form]
@[simp] theorem State.raiseIf_swages (b : Bool) (code : Nat) (c : FaultClass) (loc : BitVec 64) (d0 d1 : Nat) :
    (s.raiseIf b code c loc d0 d1).swages = s.swages := by rw [State.raiseIf_form]
@[simp] theorem State.raiseIf_crucibles (b : Bool) (code : Nat) (c : FaultClass) (loc : BitVec 64) (d0 d1 : Nat) :
    (s.raiseIf b code c loc d0 d1).crucibles = s.crucibles := by rw [State.raiseIf_form]
@[simp] theorem State.raiseIf_planishers (b : Bool) (code : Nat) (c : FaultClass) (loc : BitVec 64) (d0 d1 : Nat) :
    (s.raiseIf b code c loc d0 d1).planishers = s.planishers := by rw [State.raiseIf_form]
@[simp] theorem State.raiseIf_tinkers (b : Bool) (code : Nat) (c : FaultClass) (loc : BitVec 64) (d0 d1 : Nat) :
    (s.raiseIf b code c loc d0 d1).tinkers = s.tinkers := by rw [State.raiseIf_form]
@[simp] theorem State.raiseIf_plan (b : Bool) (code : Nat) (c : FaultClass) (loc : BitVec 64) (d0 d1 : Nat) :
    (s.raiseIf b code c loc d0 d1).plan = s.plan := by rw [State.raiseIf_form]
@[simp] theorem State.raiseIf_els (b : Bool) (code : Nat) (c : FaultClass) (loc : BitVec 64) (d0 d1 : Nat) :
    (s.raiseIf b code c loc d0 d1).els = s.els := by rw [State.raiseIf_form]
@[simp] theorem State.raiseIf_radio (b : Bool) (code : Nat) (c : FaultClass) (loc : BitVec 64) (d0 d1 : Nat) :
    (s.raiseIf b code c loc d0 d1).radio = s.radio := by rw [State.raiseIf_form]
@[simp] theorem State.raiseIf_code (b : Bool) (code : Nat) (c : FaultClass) (loc : BitVec 64) (d0 d1 : Nat) :
    (s.raiseIf b code c loc d0 d1).code = s.code := by rw [State.raiseIf_form]
@[simp] theorem State.raiseIf_train (b : Bool) (code : Nat) (c : FaultClass) (loc : BitVec 64) (d0 d1 : Nat) :
    (s.raiseIf b code c loc d0 d1).train = s.train := by rw [State.raiseIf_form]
@[simp] theorem State.raiseIf_net (b : Bool) (code : Nat) (c : FaultClass) (loc : BitVec 64) (d0 d1 : Nat) :
    (s.raiseIf b code c loc d0 d1).net = s.net := by rw [State.raiseIf_form]
@[simp] theorem State.raiseIf_time (b : Bool) (code : Nat) (c : FaultClass) (loc : BitVec 64) (d0 d1 : Nat) :
    (s.raiseIf b code c loc d0 d1).time = s.time := by rw [State.raiseIf_form]
@[simp] theorem State.raiseIf_twin (b : Bool) (code : Nat) (c : FaultClass) (loc : BitVec 64) (d0 d1 : Nat) :
    (s.raiseIf b code c loc d0 d1).twin = s.twin := by rw [State.raiseIf_form]
@[simp] theorem State.raiseIf_power (b : Bool) (code : Nat) (c : FaultClass) (loc : BitVec 64) (d0 d1 : Nat) :
    (s.raiseIf b code c loc d0 d1).power = s.power := by rw [State.raiseIf_form]
@[simp] theorem State.raiseIf_start (b : Bool) (code : Nat) (c : FaultClass) (loc : BitVec 64) (d0 d1 : Nat) :
    (s.raiseIf b code c loc d0 d1).start = s.start := by rw [State.raiseIf_form]
@[simp] theorem State.raiseIf_sec (b : Bool) (code : Nat) (c : FaultClass) (loc : BitVec 64) (d0 d1 : Nat) :
    (s.raiseIf b code c loc d0 d1).sec = s.sec := by rw [State.raiseIf_form]
@[simp] theorem State.raiseIf_seq (b : Bool) (code : Nat) (c : FaultClass) (loc : BitVec 64) (d0 d1 : Nat) :
    (s.raiseIf b code c loc d0 d1).seq = s.seq := by rw [State.raiseIf_form]
@[simp] theorem State.raiseIf_i3c (b : Bool) (code : Nat) (c : FaultClass) (loc : BitVec 64) (d0 d1 : Nat) :
    (s.raiseIf b code c loc d0 d1).i3c = s.i3c := by rw [State.raiseIf_form]
@[simp] theorem State.raiseIf_test (b : Bool) (code : Nat) (c : FaultClass) (loc : BitVec 64) (d0 d1 : Nat) :
    (s.raiseIf b code c loc d0 d1).test = s.test := by rw [State.raiseIf_form]
@[simp] theorem State.raiseIf_free (b : Bool) (code : Nat) (c : FaultClass) (loc : BitVec 64) (d0 d1 : Nat) :
    (s.raiseIf b code c loc d0 d1).free = s.free := by rw [State.raiseIf_form]
@[simp] theorem State.raiseIf_drawn (b : Bool) (code : Nat) (c : FaultClass) (loc : BitVec 64) (d0 d1 : Nat) :
    (s.raiseIf b code c loc d0 d1).drawn = s.drawn := by rw [State.raiseIf_form]

/-- A state that agrees with `s` but in `regs`. -/
theorem State.only_regs {s t : State}
    (h_pending : t.pending = s.pending)
    (h_clock : t.clock = s.clock)
    (h_commit : t.commit = s.commit)
    (h_chans : t.chans = s.chans)
    (h_taps : t.taps = s.taps)
    (h_due : t.due = s.due)
    (h_spine : t.spine = s.spine)
    (h_faults : t.faults = s.faults)
    (h_ledger : t.ledger = s.ledger)
    (h_mem : t.mem = s.mem)
    (h_hbm : t.hbm = s.hbm)
    (h_ladles : t.ladles = s.ladles)
    (h_running : t.running = s.running)
    (h_signals : t.signals = s.signals)
    (h_anvils : t.anvils = s.anvils)
    (h_slicers : t.slicers = s.slicers)
    (h_swages : t.swages = s.swages)
    (h_crucibles : t.crucibles = s.crucibles)
    (h_planishers : t.planishers = s.planishers)
    (h_tinkers : t.tinkers = s.tinkers)
    (h_plan : t.plan = s.plan)
    (h_els : t.els = s.els)
    (h_radio : t.radio = s.radio)
    (h_code : t.code = s.code)
    (h_train : t.train = s.train)
    (h_net : t.net = s.net)
    (h_time : t.time = s.time)
    (h_twin : t.twin = s.twin)
    (h_power : t.power = s.power)
    (h_start : t.start = s.start)
    (h_sec : t.sec = s.sec)
    (h_seq : t.seq = s.seq)
    (h_i3c : t.i3c = s.i3c)
    (h_test : t.test = s.test)
    (h_pins : t.pins = s.pins)
    (h_free : t.free = s.free)
    (h_drawn : t.drawn = s.drawn) :
    t = { s with regs := t.regs } := by
  cases s; cases t; simp_all only

/-- A conditional count changes registers. -/
theorem State.bumpIf_form (b : Bool) (k lo n v : Nat) :
    s.bumpIf b k lo n v = { s with
      regs := (s.bumpIf b k lo n v).regs } := by
  apply State.only_regs
  all_goals
    unfold State.bumpIf; try dsimp only
    repeat' split
    all_goals simp

@[simp] theorem State.bumpIf_pending (b : Bool) (k lo n v : Nat) :
    (s.bumpIf b k lo n v).pending = s.pending := by rw [State.bumpIf_form]
@[simp] theorem State.bumpIf_clock (b : Bool) (k lo n v : Nat) :
    (s.bumpIf b k lo n v).clock = s.clock := by rw [State.bumpIf_form]
@[simp] theorem State.bumpIf_commit (b : Bool) (k lo n v : Nat) :
    (s.bumpIf b k lo n v).commit = s.commit := by rw [State.bumpIf_form]
@[simp] theorem State.bumpIf_chans (b : Bool) (k lo n v : Nat) :
    (s.bumpIf b k lo n v).chans = s.chans := by rw [State.bumpIf_form]
@[simp] theorem State.bumpIf_taps (b : Bool) (k lo n v : Nat) :
    (s.bumpIf b k lo n v).taps = s.taps := by rw [State.bumpIf_form]
@[simp] theorem State.bumpIf_due (b : Bool) (k lo n v : Nat) :
    (s.bumpIf b k lo n v).due = s.due := by rw [State.bumpIf_form]
@[simp] theorem State.bumpIf_spine (b : Bool) (k lo n v : Nat) :
    (s.bumpIf b k lo n v).spine = s.spine := by rw [State.bumpIf_form]
@[simp] theorem State.bumpIf_faults (b : Bool) (k lo n v : Nat) :
    (s.bumpIf b k lo n v).faults = s.faults := by rw [State.bumpIf_form]
@[simp] theorem State.bumpIf_ledger (b : Bool) (k lo n v : Nat) :
    (s.bumpIf b k lo n v).ledger = s.ledger := by rw [State.bumpIf_form]
@[simp] theorem State.bumpIf_mem (b : Bool) (k lo n v : Nat) :
    (s.bumpIf b k lo n v).mem = s.mem := by rw [State.bumpIf_form]
@[simp] theorem State.bumpIf_hbm (b : Bool) (k lo n v : Nat) :
    (s.bumpIf b k lo n v).hbm = s.hbm := by rw [State.bumpIf_form]
@[simp] theorem State.bumpIf_ladles (b : Bool) (k lo n v : Nat) :
    (s.bumpIf b k lo n v).ladles = s.ladles := by rw [State.bumpIf_form]
@[simp] theorem State.bumpIf_running (b : Bool) (k lo n v : Nat) :
    (s.bumpIf b k lo n v).running = s.running := by rw [State.bumpIf_form]
@[simp] theorem State.bumpIf_signals (b : Bool) (k lo n v : Nat) :
    (s.bumpIf b k lo n v).signals = s.signals := by rw [State.bumpIf_form]
@[simp] theorem State.bumpIf_anvils (b : Bool) (k lo n v : Nat) :
    (s.bumpIf b k lo n v).anvils = s.anvils := by rw [State.bumpIf_form]
@[simp] theorem State.bumpIf_slicers (b : Bool) (k lo n v : Nat) :
    (s.bumpIf b k lo n v).slicers = s.slicers := by rw [State.bumpIf_form]
@[simp] theorem State.bumpIf_swages (b : Bool) (k lo n v : Nat) :
    (s.bumpIf b k lo n v).swages = s.swages := by rw [State.bumpIf_form]
@[simp] theorem State.bumpIf_crucibles (b : Bool) (k lo n v : Nat) :
    (s.bumpIf b k lo n v).crucibles = s.crucibles := by rw [State.bumpIf_form]
@[simp] theorem State.bumpIf_planishers (b : Bool) (k lo n v : Nat) :
    (s.bumpIf b k lo n v).planishers = s.planishers := by rw [State.bumpIf_form]
@[simp] theorem State.bumpIf_tinkers (b : Bool) (k lo n v : Nat) :
    (s.bumpIf b k lo n v).tinkers = s.tinkers := by rw [State.bumpIf_form]
@[simp] theorem State.bumpIf_plan (b : Bool) (k lo n v : Nat) :
    (s.bumpIf b k lo n v).plan = s.plan := by rw [State.bumpIf_form]
@[simp] theorem State.bumpIf_els (b : Bool) (k lo n v : Nat) :
    (s.bumpIf b k lo n v).els = s.els := by rw [State.bumpIf_form]
@[simp] theorem State.bumpIf_radio (b : Bool) (k lo n v : Nat) :
    (s.bumpIf b k lo n v).radio = s.radio := by rw [State.bumpIf_form]
@[simp] theorem State.bumpIf_code (b : Bool) (k lo n v : Nat) :
    (s.bumpIf b k lo n v).code = s.code := by rw [State.bumpIf_form]
@[simp] theorem State.bumpIf_train (b : Bool) (k lo n v : Nat) :
    (s.bumpIf b k lo n v).train = s.train := by rw [State.bumpIf_form]
@[simp] theorem State.bumpIf_net (b : Bool) (k lo n v : Nat) :
    (s.bumpIf b k lo n v).net = s.net := by rw [State.bumpIf_form]
@[simp] theorem State.bumpIf_time (b : Bool) (k lo n v : Nat) :
    (s.bumpIf b k lo n v).time = s.time := by rw [State.bumpIf_form]
@[simp] theorem State.bumpIf_twin (b : Bool) (k lo n v : Nat) :
    (s.bumpIf b k lo n v).twin = s.twin := by rw [State.bumpIf_form]
@[simp] theorem State.bumpIf_power (b : Bool) (k lo n v : Nat) :
    (s.bumpIf b k lo n v).power = s.power := by rw [State.bumpIf_form]
@[simp] theorem State.bumpIf_start (b : Bool) (k lo n v : Nat) :
    (s.bumpIf b k lo n v).start = s.start := by rw [State.bumpIf_form]
@[simp] theorem State.bumpIf_sec (b : Bool) (k lo n v : Nat) :
    (s.bumpIf b k lo n v).sec = s.sec := by rw [State.bumpIf_form]
@[simp] theorem State.bumpIf_seq (b : Bool) (k lo n v : Nat) :
    (s.bumpIf b k lo n v).seq = s.seq := by rw [State.bumpIf_form]
@[simp] theorem State.bumpIf_i3c (b : Bool) (k lo n v : Nat) :
    (s.bumpIf b k lo n v).i3c = s.i3c := by rw [State.bumpIf_form]
@[simp] theorem State.bumpIf_test (b : Bool) (k lo n v : Nat) :
    (s.bumpIf b k lo n v).test = s.test := by rw [State.bumpIf_form]
@[simp] theorem State.bumpIf_pins (b : Bool) (k lo n v : Nat) :
    (s.bumpIf b k lo n v).pins = s.pins := by rw [State.bumpIf_form]
@[simp] theorem State.bumpIf_free (b : Bool) (k lo n v : Nat) :
    (s.bumpIf b k lo n v).free = s.free := by rw [State.bumpIf_form]
@[simp] theorem State.bumpIf_drawn (b : Bool) (k lo n v : Nat) :
    (s.bumpIf b k lo n v).drawn = s.drawn := by rw [State.bumpIf_form]

/-- A state that agrees with `s` but in `ladles`, `running`, `signals`, `code`. -/
theorem State.only_ladles_running_signals_code {s t : State}
    (h_pending : t.pending = s.pending)
    (h_regs : t.regs = s.regs)
    (h_clock : t.clock = s.clock)
    (h_commit : t.commit = s.commit)
    (h_chans : t.chans = s.chans)
    (h_taps : t.taps = s.taps)
    (h_due : t.due = s.due)
    (h_spine : t.spine = s.spine)
    (h_faults : t.faults = s.faults)
    (h_ledger : t.ledger = s.ledger)
    (h_mem : t.mem = s.mem)
    (h_hbm : t.hbm = s.hbm)
    (h_anvils : t.anvils = s.anvils)
    (h_slicers : t.slicers = s.slicers)
    (h_swages : t.swages = s.swages)
    (h_crucibles : t.crucibles = s.crucibles)
    (h_planishers : t.planishers = s.planishers)
    (h_tinkers : t.tinkers = s.tinkers)
    (h_plan : t.plan = s.plan)
    (h_els : t.els = s.els)
    (h_radio : t.radio = s.radio)
    (h_train : t.train = s.train)
    (h_net : t.net = s.net)
    (h_time : t.time = s.time)
    (h_twin : t.twin = s.twin)
    (h_power : t.power = s.power)
    (h_start : t.start = s.start)
    (h_sec : t.sec = s.sec)
    (h_seq : t.seq = s.seq)
    (h_i3c : t.i3c = s.i3c)
    (h_test : t.test = s.test)
    (h_pins : t.pins = s.pins)
    (h_free : t.free = s.free)
    (h_drawn : t.drawn = s.drawn) :
    t = { s with ladles := t.ladles, running := t.running, signals := t.signals, code := t.code } := by
  cases s; cases t; simp_all only

/-- Withdrawing a context changes streams, commands, signals and requests. -/
theorem State.withdrawCtx_form (c : Nat) :
    s.withdrawCtx c = { s with
      ladles := (s.withdrawCtx c).ladles, running := (s.withdrawCtx c).running, signals := (s.withdrawCtx c).signals, code := (s.withdrawCtx c).code } := by
  apply State.only_ladles_running_signals_code
  all_goals
    rfl

@[simp] theorem State.withdrawCtx_pending (c : Nat) :
    (s.withdrawCtx c).pending = s.pending := by rw [State.withdrawCtx_form]
@[simp] theorem State.withdrawCtx_regs (c : Nat) :
    (s.withdrawCtx c).regs = s.regs := by rw [State.withdrawCtx_form]
@[simp] theorem State.withdrawCtx_clock (c : Nat) :
    (s.withdrawCtx c).clock = s.clock := by rw [State.withdrawCtx_form]
@[simp] theorem State.withdrawCtx_commit (c : Nat) :
    (s.withdrawCtx c).commit = s.commit := by rw [State.withdrawCtx_form]
@[simp] theorem State.withdrawCtx_chans (c : Nat) :
    (s.withdrawCtx c).chans = s.chans := by rw [State.withdrawCtx_form]
@[simp] theorem State.withdrawCtx_taps (c : Nat) :
    (s.withdrawCtx c).taps = s.taps := by rw [State.withdrawCtx_form]
@[simp] theorem State.withdrawCtx_due (c : Nat) :
    (s.withdrawCtx c).due = s.due := by rw [State.withdrawCtx_form]
@[simp] theorem State.withdrawCtx_spine (c : Nat) :
    (s.withdrawCtx c).spine = s.spine := by rw [State.withdrawCtx_form]
@[simp] theorem State.withdrawCtx_faults (c : Nat) :
    (s.withdrawCtx c).faults = s.faults := by rw [State.withdrawCtx_form]
@[simp] theorem State.withdrawCtx_ledger (c : Nat) :
    (s.withdrawCtx c).ledger = s.ledger := by rw [State.withdrawCtx_form]
@[simp] theorem State.withdrawCtx_mem (c : Nat) :
    (s.withdrawCtx c).mem = s.mem := by rw [State.withdrawCtx_form]
@[simp] theorem State.withdrawCtx_hbm (c : Nat) :
    (s.withdrawCtx c).hbm = s.hbm := by rw [State.withdrawCtx_form]
@[simp] theorem State.withdrawCtx_anvils (c : Nat) :
    (s.withdrawCtx c).anvils = s.anvils := by rw [State.withdrawCtx_form]
@[simp] theorem State.withdrawCtx_slicers (c : Nat) :
    (s.withdrawCtx c).slicers = s.slicers := by rw [State.withdrawCtx_form]
@[simp] theorem State.withdrawCtx_swages (c : Nat) :
    (s.withdrawCtx c).swages = s.swages := by rw [State.withdrawCtx_form]
@[simp] theorem State.withdrawCtx_crucibles (c : Nat) :
    (s.withdrawCtx c).crucibles = s.crucibles := by rw [State.withdrawCtx_form]
@[simp] theorem State.withdrawCtx_planishers (c : Nat) :
    (s.withdrawCtx c).planishers = s.planishers := by rw [State.withdrawCtx_form]
@[simp] theorem State.withdrawCtx_tinkers (c : Nat) :
    (s.withdrawCtx c).tinkers = s.tinkers := by rw [State.withdrawCtx_form]
@[simp] theorem State.withdrawCtx_plan (c : Nat) :
    (s.withdrawCtx c).plan = s.plan := by rw [State.withdrawCtx_form]
@[simp] theorem State.withdrawCtx_els (c : Nat) :
    (s.withdrawCtx c).els = s.els := by rw [State.withdrawCtx_form]
@[simp] theorem State.withdrawCtx_radio (c : Nat) :
    (s.withdrawCtx c).radio = s.radio := by rw [State.withdrawCtx_form]
@[simp] theorem State.withdrawCtx_train (c : Nat) :
    (s.withdrawCtx c).train = s.train := by rw [State.withdrawCtx_form]
@[simp] theorem State.withdrawCtx_net (c : Nat) :
    (s.withdrawCtx c).net = s.net := by rw [State.withdrawCtx_form]
@[simp] theorem State.withdrawCtx_time (c : Nat) :
    (s.withdrawCtx c).time = s.time := by rw [State.withdrawCtx_form]
@[simp] theorem State.withdrawCtx_twin (c : Nat) :
    (s.withdrawCtx c).twin = s.twin := by rw [State.withdrawCtx_form]
@[simp] theorem State.withdrawCtx_power (c : Nat) :
    (s.withdrawCtx c).power = s.power := by rw [State.withdrawCtx_form]
@[simp] theorem State.withdrawCtx_start (c : Nat) :
    (s.withdrawCtx c).start = s.start := by rw [State.withdrawCtx_form]
@[simp] theorem State.withdrawCtx_sec (c : Nat) :
    (s.withdrawCtx c).sec = s.sec := by rw [State.withdrawCtx_form]
@[simp] theorem State.withdrawCtx_seq (c : Nat) :
    (s.withdrawCtx c).seq = s.seq := by rw [State.withdrawCtx_form]
@[simp] theorem State.withdrawCtx_i3c (c : Nat) :
    (s.withdrawCtx c).i3c = s.i3c := by rw [State.withdrawCtx_form]
@[simp] theorem State.withdrawCtx_test (c : Nat) :
    (s.withdrawCtx c).test = s.test := by rw [State.withdrawCtx_form]
@[simp] theorem State.withdrawCtx_pins (c : Nat) :
    (s.withdrawCtx c).pins = s.pins := by rw [State.withdrawCtx_form]
@[simp] theorem State.withdrawCtx_free (c : Nat) :
    (s.withdrawCtx c).free = s.free := by rw [State.withdrawCtx_form]
@[simp] theorem State.withdrawCtx_drawn (c : Nat) :
    (s.withdrawCtx c).drawn = s.drawn := by rw [State.withdrawCtx_form]

/-- A state that agrees with `s` but in `els`. -/
theorem State.only_els {s t : State}
    (h_pending : t.pending = s.pending)
    (h_regs : t.regs = s.regs)
    (h_clock : t.clock = s.clock)
    (h_commit : t.commit = s.commit)
    (h_chans : t.chans = s.chans)
    (h_taps : t.taps = s.taps)
    (h_due : t.due = s.due)
    (h_spine : t.spine = s.spine)
    (h_faults : t.faults = s.faults)
    (h_ledger : t.ledger = s.ledger)
    (h_mem : t.mem = s.mem)
    (h_hbm : t.hbm = s.hbm)
    (h_ladles : t.ladles = s.ladles)
    (h_running : t.running = s.running)
    (h_signals : t.signals = s.signals)
    (h_anvils : t.anvils = s.anvils)
    (h_slicers : t.slicers = s.slicers)
    (h_swages : t.swages = s.swages)
    (h_crucibles : t.crucibles = s.crucibles)
    (h_planishers : t.planishers = s.planishers)
    (h_tinkers : t.tinkers = s.tinkers)
    (h_plan : t.plan = s.plan)
    (h_radio : t.radio = s.radio)
    (h_code : t.code = s.code)
    (h_train : t.train = s.train)
    (h_net : t.net = s.net)
    (h_time : t.time = s.time)
    (h_twin : t.twin = s.twin)
    (h_power : t.power = s.power)
    (h_start : t.start = s.start)
    (h_sec : t.sec = s.sec)
    (h_seq : t.seq = s.seq)
    (h_i3c : t.i3c = s.i3c)
    (h_test : t.test = s.test)
    (h_pins : t.pins = s.pins)
    (h_free : t.free = s.free)
    (h_drawn : t.drawn = s.drawn) :
    t = { s with els := t.els } := by
  cases s; cases t; simp_all only

/-- A hand-in record stands among the elastic state. -/
theorem State.onHandIn_form (j : Job) (f : HandIn → HandIn) :
    s.onHandIn j f = { s with
      els := (s.onHandIn j f).els } := by
  apply State.only_els
  all_goals
    unfold State.onHandIn; try dsimp only
    repeat' split
    all_goals simp

@[simp] theorem State.onHandIn_pending (j : Job) (f : HandIn → HandIn) :
    (s.onHandIn j f).pending = s.pending := by rw [State.onHandIn_form]
@[simp] theorem State.onHandIn_regs (j : Job) (f : HandIn → HandIn) :
    (s.onHandIn j f).regs = s.regs := by rw [State.onHandIn_form]
@[simp] theorem State.onHandIn_clock (j : Job) (f : HandIn → HandIn) :
    (s.onHandIn j f).clock = s.clock := by rw [State.onHandIn_form]
@[simp] theorem State.onHandIn_commit (j : Job) (f : HandIn → HandIn) :
    (s.onHandIn j f).commit = s.commit := by rw [State.onHandIn_form]
@[simp] theorem State.onHandIn_chans (j : Job) (f : HandIn → HandIn) :
    (s.onHandIn j f).chans = s.chans := by rw [State.onHandIn_form]
@[simp] theorem State.onHandIn_taps (j : Job) (f : HandIn → HandIn) :
    (s.onHandIn j f).taps = s.taps := by rw [State.onHandIn_form]
@[simp] theorem State.onHandIn_due (j : Job) (f : HandIn → HandIn) :
    (s.onHandIn j f).due = s.due := by rw [State.onHandIn_form]
@[simp] theorem State.onHandIn_spine (j : Job) (f : HandIn → HandIn) :
    (s.onHandIn j f).spine = s.spine := by rw [State.onHandIn_form]
@[simp] theorem State.onHandIn_faults (j : Job) (f : HandIn → HandIn) :
    (s.onHandIn j f).faults = s.faults := by rw [State.onHandIn_form]
@[simp] theorem State.onHandIn_ledger (j : Job) (f : HandIn → HandIn) :
    (s.onHandIn j f).ledger = s.ledger := by rw [State.onHandIn_form]
@[simp] theorem State.onHandIn_mem (j : Job) (f : HandIn → HandIn) :
    (s.onHandIn j f).mem = s.mem := by rw [State.onHandIn_form]
@[simp] theorem State.onHandIn_hbm (j : Job) (f : HandIn → HandIn) :
    (s.onHandIn j f).hbm = s.hbm := by rw [State.onHandIn_form]
@[simp] theorem State.onHandIn_ladles (j : Job) (f : HandIn → HandIn) :
    (s.onHandIn j f).ladles = s.ladles := by rw [State.onHandIn_form]
@[simp] theorem State.onHandIn_running (j : Job) (f : HandIn → HandIn) :
    (s.onHandIn j f).running = s.running := by rw [State.onHandIn_form]
@[simp] theorem State.onHandIn_signals (j : Job) (f : HandIn → HandIn) :
    (s.onHandIn j f).signals = s.signals := by rw [State.onHandIn_form]
@[simp] theorem State.onHandIn_anvils (j : Job) (f : HandIn → HandIn) :
    (s.onHandIn j f).anvils = s.anvils := by rw [State.onHandIn_form]
@[simp] theorem State.onHandIn_slicers (j : Job) (f : HandIn → HandIn) :
    (s.onHandIn j f).slicers = s.slicers := by rw [State.onHandIn_form]
@[simp] theorem State.onHandIn_swages (j : Job) (f : HandIn → HandIn) :
    (s.onHandIn j f).swages = s.swages := by rw [State.onHandIn_form]
@[simp] theorem State.onHandIn_crucibles (j : Job) (f : HandIn → HandIn) :
    (s.onHandIn j f).crucibles = s.crucibles := by rw [State.onHandIn_form]
@[simp] theorem State.onHandIn_planishers (j : Job) (f : HandIn → HandIn) :
    (s.onHandIn j f).planishers = s.planishers := by rw [State.onHandIn_form]
@[simp] theorem State.onHandIn_tinkers (j : Job) (f : HandIn → HandIn) :
    (s.onHandIn j f).tinkers = s.tinkers := by rw [State.onHandIn_form]
@[simp] theorem State.onHandIn_plan (j : Job) (f : HandIn → HandIn) :
    (s.onHandIn j f).plan = s.plan := by rw [State.onHandIn_form]
@[simp] theorem State.onHandIn_radio (j : Job) (f : HandIn → HandIn) :
    (s.onHandIn j f).radio = s.radio := by rw [State.onHandIn_form]
@[simp] theorem State.onHandIn_code (j : Job) (f : HandIn → HandIn) :
    (s.onHandIn j f).code = s.code := by rw [State.onHandIn_form]
@[simp] theorem State.onHandIn_train (j : Job) (f : HandIn → HandIn) :
    (s.onHandIn j f).train = s.train := by rw [State.onHandIn_form]
@[simp] theorem State.onHandIn_net (j : Job) (f : HandIn → HandIn) :
    (s.onHandIn j f).net = s.net := by rw [State.onHandIn_form]
@[simp] theorem State.onHandIn_time (j : Job) (f : HandIn → HandIn) :
    (s.onHandIn j f).time = s.time := by rw [State.onHandIn_form]
@[simp] theorem State.onHandIn_twin (j : Job) (f : HandIn → HandIn) :
    (s.onHandIn j f).twin = s.twin := by rw [State.onHandIn_form]
@[simp] theorem State.onHandIn_power (j : Job) (f : HandIn → HandIn) :
    (s.onHandIn j f).power = s.power := by rw [State.onHandIn_form]
@[simp] theorem State.onHandIn_start (j : Job) (f : HandIn → HandIn) :
    (s.onHandIn j f).start = s.start := by rw [State.onHandIn_form]
@[simp] theorem State.onHandIn_sec (j : Job) (f : HandIn → HandIn) :
    (s.onHandIn j f).sec = s.sec := by rw [State.onHandIn_form]
@[simp] theorem State.onHandIn_seq (j : Job) (f : HandIn → HandIn) :
    (s.onHandIn j f).seq = s.seq := by rw [State.onHandIn_form]
@[simp] theorem State.onHandIn_i3c (j : Job) (f : HandIn → HandIn) :
    (s.onHandIn j f).i3c = s.i3c := by rw [State.onHandIn_form]
@[simp] theorem State.onHandIn_test (j : Job) (f : HandIn → HandIn) :
    (s.onHandIn j f).test = s.test := by rw [State.onHandIn_form]
@[simp] theorem State.onHandIn_pins (j : Job) (f : HandIn → HandIn) :
    (s.onHandIn j f).pins = s.pins := by rw [State.onHandIn_form]
@[simp] theorem State.onHandIn_free (j : Job) (f : HandIn → HandIn) :
    (s.onHandIn j f).free = s.free := by rw [State.onHandIn_form]
@[simp] theorem State.onHandIn_drawn (j : Job) (f : HandIn → HandIn) :
    (s.onHandIn j f).drawn = s.drawn := by rw [State.onHandIn_form]

/-- A state that agrees with `s` but in `regs`, `els`. -/
theorem State.only_regs_els {s t : State}
    (h_pending : t.pending = s.pending)
    (h_clock : t.clock = s.clock)
    (h_commit : t.commit = s.commit)
    (h_chans : t.chans = s.chans)
    (h_taps : t.taps = s.taps)
    (h_due : t.due = s.due)
    (h_spine : t.spine = s.spine)
    (h_faults : t.faults = s.faults)
    (h_ledger : t.ledger = s.ledger)
    (h_mem : t.mem = s.mem)
    (h_hbm : t.hbm = s.hbm)
    (h_ladles : t.ladles = s.ladles)
    (h_running : t.running = s.running)
    (h_signals : t.signals = s.signals)
    (h_anvils : t.anvils = s.anvils)
    (h_slicers : t.slicers = s.slicers)
    (h_swages : t.swages = s.swages)
    (h_crucibles : t.crucibles = s.crucibles)
    (h_planishers : t.planishers = s.planishers)
    (h_tinkers : t.tinkers = s.tinkers)
    (h_plan : t.plan = s.plan)
    (h_radio : t.radio = s.radio)
    (h_code : t.code = s.code)
    (h_train : t.train = s.train)
    (h_net : t.net = s.net)
    (h_time : t.time = s.time)
    (h_twin : t.twin = s.twin)
    (h_power : t.power = s.power)
    (h_start : t.start = s.start)
    (h_sec : t.sec = s.sec)
    (h_seq : t.seq = s.seq)
    (h_i3c : t.i3c = s.i3c)
    (h_test : t.test = s.test)
    (h_pins : t.pins = s.pins)
    (h_free : t.free = s.free)
    (h_drawn : t.drawn = s.drawn) :
    t = { s with regs := t.regs, els := t.els } := by
  cases s; cases t; simp_all only

/-- Dropping jobs changes the Taster's count and the hand-in records. -/
theorem State.dropTaster_form (js : List Job) :
    s.dropTaster js = { s with
      regs := (s.dropTaster js).regs, els := (s.dropTaster js).els } := by
  apply State.only_regs_els
  all_goals
    unfold State.dropTaster
    simp only []
    refine (foldl_keeps _ (fun a b => by simp) js _).trans ?_
    simp

@[simp] theorem State.dropTaster_pending (js : List Job) :
    (s.dropTaster js).pending = s.pending := by rw [State.dropTaster_form]
@[simp] theorem State.dropTaster_clock (js : List Job) :
    (s.dropTaster js).clock = s.clock := by rw [State.dropTaster_form]
@[simp] theorem State.dropTaster_commit (js : List Job) :
    (s.dropTaster js).commit = s.commit := by rw [State.dropTaster_form]
@[simp] theorem State.dropTaster_chans (js : List Job) :
    (s.dropTaster js).chans = s.chans := by rw [State.dropTaster_form]
@[simp] theorem State.dropTaster_taps (js : List Job) :
    (s.dropTaster js).taps = s.taps := by rw [State.dropTaster_form]
@[simp] theorem State.dropTaster_due (js : List Job) :
    (s.dropTaster js).due = s.due := by rw [State.dropTaster_form]
@[simp] theorem State.dropTaster_spine (js : List Job) :
    (s.dropTaster js).spine = s.spine := by rw [State.dropTaster_form]
@[simp] theorem State.dropTaster_faults (js : List Job) :
    (s.dropTaster js).faults = s.faults := by rw [State.dropTaster_form]
@[simp] theorem State.dropTaster_ledger (js : List Job) :
    (s.dropTaster js).ledger = s.ledger := by rw [State.dropTaster_form]
@[simp] theorem State.dropTaster_mem (js : List Job) :
    (s.dropTaster js).mem = s.mem := by rw [State.dropTaster_form]
@[simp] theorem State.dropTaster_hbm (js : List Job) :
    (s.dropTaster js).hbm = s.hbm := by rw [State.dropTaster_form]
@[simp] theorem State.dropTaster_ladles (js : List Job) :
    (s.dropTaster js).ladles = s.ladles := by rw [State.dropTaster_form]
@[simp] theorem State.dropTaster_running (js : List Job) :
    (s.dropTaster js).running = s.running := by rw [State.dropTaster_form]
@[simp] theorem State.dropTaster_signals (js : List Job) :
    (s.dropTaster js).signals = s.signals := by rw [State.dropTaster_form]
@[simp] theorem State.dropTaster_anvils (js : List Job) :
    (s.dropTaster js).anvils = s.anvils := by rw [State.dropTaster_form]
@[simp] theorem State.dropTaster_slicers (js : List Job) :
    (s.dropTaster js).slicers = s.slicers := by rw [State.dropTaster_form]
@[simp] theorem State.dropTaster_swages (js : List Job) :
    (s.dropTaster js).swages = s.swages := by rw [State.dropTaster_form]
@[simp] theorem State.dropTaster_crucibles (js : List Job) :
    (s.dropTaster js).crucibles = s.crucibles := by rw [State.dropTaster_form]
@[simp] theorem State.dropTaster_planishers (js : List Job) :
    (s.dropTaster js).planishers = s.planishers := by rw [State.dropTaster_form]
@[simp] theorem State.dropTaster_tinkers (js : List Job) :
    (s.dropTaster js).tinkers = s.tinkers := by rw [State.dropTaster_form]
@[simp] theorem State.dropTaster_plan (js : List Job) :
    (s.dropTaster js).plan = s.plan := by rw [State.dropTaster_form]
@[simp] theorem State.dropTaster_radio (js : List Job) :
    (s.dropTaster js).radio = s.radio := by rw [State.dropTaster_form]
@[simp] theorem State.dropTaster_code (js : List Job) :
    (s.dropTaster js).code = s.code := by rw [State.dropTaster_form]
@[simp] theorem State.dropTaster_train (js : List Job) :
    (s.dropTaster js).train = s.train := by rw [State.dropTaster_form]
@[simp] theorem State.dropTaster_net (js : List Job) :
    (s.dropTaster js).net = s.net := by rw [State.dropTaster_form]
@[simp] theorem State.dropTaster_time (js : List Job) :
    (s.dropTaster js).time = s.time := by rw [State.dropTaster_form]
@[simp] theorem State.dropTaster_twin (js : List Job) :
    (s.dropTaster js).twin = s.twin := by rw [State.dropTaster_form]
@[simp] theorem State.dropTaster_power (js : List Job) :
    (s.dropTaster js).power = s.power := by rw [State.dropTaster_form]
@[simp] theorem State.dropTaster_start (js : List Job) :
    (s.dropTaster js).start = s.start := by rw [State.dropTaster_form]
@[simp] theorem State.dropTaster_sec (js : List Job) :
    (s.dropTaster js).sec = s.sec := by rw [State.dropTaster_form]
@[simp] theorem State.dropTaster_seq (js : List Job) :
    (s.dropTaster js).seq = s.seq := by rw [State.dropTaster_form]
@[simp] theorem State.dropTaster_i3c (js : List Job) :
    (s.dropTaster js).i3c = s.i3c := by rw [State.dropTaster_form]
@[simp] theorem State.dropTaster_test (js : List Job) :
    (s.dropTaster js).test = s.test := by rw [State.dropTaster_form]
@[simp] theorem State.dropTaster_pins (js : List Job) :
    (s.dropTaster js).pins = s.pins := by rw [State.dropTaster_form]
@[simp] theorem State.dropTaster_free (js : List Job) :
    (s.dropTaster js).free = s.free := by rw [State.dropTaster_form]
@[simp] theorem State.dropTaster_drawn (js : List Job) :
    (s.dropTaster js).drawn = s.drawn := by rw [State.dropTaster_form]

/-- A state that agrees with `s` but in `regs`, `els`, `ladles`, `running`, `signals`, `code`. -/
theorem State.only_regs_els_ladles_running_signals_code {s t : State}
    (h_pending : t.pending = s.pending)
    (h_clock : t.clock = s.clock)
    (h_commit : t.commit = s.commit)
    (h_chans : t.chans = s.chans)
    (h_taps : t.taps = s.taps)
    (h_due : t.due = s.due)
    (h_spine : t.spine = s.spine)
    (h_faults : t.faults = s.faults)
    (h_ledger : t.ledger = s.ledger)
    (h_mem : t.mem = s.mem)
    (h_hbm : t.hbm = s.hbm)
    (h_anvils : t.anvils = s.anvils)
    (h_slicers : t.slicers = s.slicers)
    (h_swages : t.swages = s.swages)
    (h_crucibles : t.crucibles = s.crucibles)
    (h_planishers : t.planishers = s.planishers)
    (h_tinkers : t.tinkers = s.tinkers)
    (h_plan : t.plan = s.plan)
    (h_radio : t.radio = s.radio)
    (h_train : t.train = s.train)
    (h_net : t.net = s.net)
    (h_time : t.time = s.time)
    (h_twin : t.twin = s.twin)
    (h_power : t.power = s.power)
    (h_start : t.start = s.start)
    (h_sec : t.sec = s.sec)
    (h_seq : t.seq = s.seq)
    (h_i3c : t.i3c = s.i3c)
    (h_test : t.test = s.test)
    (h_pins : t.pins = s.pins)
    (h_free : t.free = s.free)
    (h_drawn : t.drawn = s.drawn) :
    t = { s with regs := t.regs, els := t.els, ladles := t.ladles, running := t.running, signals := t.signals, code := t.code } := by
  cases s; cases t; simp_all only

/-- Aborting a job changes its context, its count, and what it has under way. -/
theorem State.abortJob_form (c : Nat) :
    s.abortJob c = { s with
      regs := (s.abortJob c).regs, els := (s.abortJob c).els, ladles := (s.abortJob c).ladles, running := (s.abortJob c).running, signals := (s.abortJob c).signals, code := (s.abortJob c).code } := by
  apply State.only_regs_els_ladles_running_signals_code
  all_goals
    unfold State.abortJob; try dsimp only
    repeat' split
    all_goals simp

@[simp] theorem State.abortJob_pending (c : Nat) :
    (s.abortJob c).pending = s.pending := by rw [State.abortJob_form]
@[simp] theorem State.abortJob_clock (c : Nat) :
    (s.abortJob c).clock = s.clock := by rw [State.abortJob_form]
@[simp] theorem State.abortJob_commit (c : Nat) :
    (s.abortJob c).commit = s.commit := by rw [State.abortJob_form]
@[simp] theorem State.abortJob_chans (c : Nat) :
    (s.abortJob c).chans = s.chans := by rw [State.abortJob_form]
@[simp] theorem State.abortJob_taps (c : Nat) :
    (s.abortJob c).taps = s.taps := by rw [State.abortJob_form]
@[simp] theorem State.abortJob_due (c : Nat) :
    (s.abortJob c).due = s.due := by rw [State.abortJob_form]
@[simp] theorem State.abortJob_spine (c : Nat) :
    (s.abortJob c).spine = s.spine := by rw [State.abortJob_form]
@[simp] theorem State.abortJob_faults (c : Nat) :
    (s.abortJob c).faults = s.faults := by rw [State.abortJob_form]
@[simp] theorem State.abortJob_ledger (c : Nat) :
    (s.abortJob c).ledger = s.ledger := by rw [State.abortJob_form]
@[simp] theorem State.abortJob_mem (c : Nat) :
    (s.abortJob c).mem = s.mem := by rw [State.abortJob_form]
@[simp] theorem State.abortJob_hbm (c : Nat) :
    (s.abortJob c).hbm = s.hbm := by rw [State.abortJob_form]
@[simp] theorem State.abortJob_anvils (c : Nat) :
    (s.abortJob c).anvils = s.anvils := by rw [State.abortJob_form]
@[simp] theorem State.abortJob_slicers (c : Nat) :
    (s.abortJob c).slicers = s.slicers := by rw [State.abortJob_form]
@[simp] theorem State.abortJob_swages (c : Nat) :
    (s.abortJob c).swages = s.swages := by rw [State.abortJob_form]
@[simp] theorem State.abortJob_crucibles (c : Nat) :
    (s.abortJob c).crucibles = s.crucibles := by rw [State.abortJob_form]
@[simp] theorem State.abortJob_planishers (c : Nat) :
    (s.abortJob c).planishers = s.planishers := by rw [State.abortJob_form]
@[simp] theorem State.abortJob_tinkers (c : Nat) :
    (s.abortJob c).tinkers = s.tinkers := by rw [State.abortJob_form]
@[simp] theorem State.abortJob_plan (c : Nat) :
    (s.abortJob c).plan = s.plan := by rw [State.abortJob_form]
@[simp] theorem State.abortJob_radio (c : Nat) :
    (s.abortJob c).radio = s.radio := by rw [State.abortJob_form]
@[simp] theorem State.abortJob_train (c : Nat) :
    (s.abortJob c).train = s.train := by rw [State.abortJob_form]
@[simp] theorem State.abortJob_net (c : Nat) :
    (s.abortJob c).net = s.net := by rw [State.abortJob_form]
@[simp] theorem State.abortJob_time (c : Nat) :
    (s.abortJob c).time = s.time := by rw [State.abortJob_form]
@[simp] theorem State.abortJob_twin (c : Nat) :
    (s.abortJob c).twin = s.twin := by rw [State.abortJob_form]
@[simp] theorem State.abortJob_power (c : Nat) :
    (s.abortJob c).power = s.power := by rw [State.abortJob_form]
@[simp] theorem State.abortJob_start (c : Nat) :
    (s.abortJob c).start = s.start := by rw [State.abortJob_form]
@[simp] theorem State.abortJob_sec (c : Nat) :
    (s.abortJob c).sec = s.sec := by rw [State.abortJob_form]
@[simp] theorem State.abortJob_seq (c : Nat) :
    (s.abortJob c).seq = s.seq := by rw [State.abortJob_form]
@[simp] theorem State.abortJob_i3c (c : Nat) :
    (s.abortJob c).i3c = s.i3c := by rw [State.abortJob_form]
@[simp] theorem State.abortJob_test (c : Nat) :
    (s.abortJob c).test = s.test := by rw [State.abortJob_form]
@[simp] theorem State.abortJob_pins (c : Nat) :
    (s.abortJob c).pins = s.pins := by rw [State.abortJob_form]
@[simp] theorem State.abortJob_free (c : Nat) :
    (s.abortJob c).free = s.free := by rw [State.abortJob_form]
@[simp] theorem State.abortJob_drawn (c : Nat) :
    (s.abortJob c).drawn = s.drawn := by rw [State.abortJob_form]

/-- Aborting jobs of a context changes what aborting one changes. -/
theorem State.abortJobs_form (c : Nat) (p : Job → Bool) :
    s.abortJobs c p = { s with
      regs := (s.abortJobs c p).regs, els := (s.abortJobs c p).els, ladles := (s.abortJobs c p).ladles, running := (s.abortJobs c p).running, signals := (s.abortJobs c p).signals, code := (s.abortJobs c p).code } := by
  apply State.only_regs_els_ladles_running_signals_code
  all_goals
    unfold State.abortJobs; try dsimp only
    repeat' split
    all_goals simp

@[simp] theorem State.abortJobs_pending (c : Nat) (p : Job → Bool) :
    (s.abortJobs c p).pending = s.pending := by rw [State.abortJobs_form]
@[simp] theorem State.abortJobs_clock (c : Nat) (p : Job → Bool) :
    (s.abortJobs c p).clock = s.clock := by rw [State.abortJobs_form]
@[simp] theorem State.abortJobs_commit (c : Nat) (p : Job → Bool) :
    (s.abortJobs c p).commit = s.commit := by rw [State.abortJobs_form]
@[simp] theorem State.abortJobs_chans (c : Nat) (p : Job → Bool) :
    (s.abortJobs c p).chans = s.chans := by rw [State.abortJobs_form]
@[simp] theorem State.abortJobs_taps (c : Nat) (p : Job → Bool) :
    (s.abortJobs c p).taps = s.taps := by rw [State.abortJobs_form]
@[simp] theorem State.abortJobs_due (c : Nat) (p : Job → Bool) :
    (s.abortJobs c p).due = s.due := by rw [State.abortJobs_form]
@[simp] theorem State.abortJobs_spine (c : Nat) (p : Job → Bool) :
    (s.abortJobs c p).spine = s.spine := by rw [State.abortJobs_form]
@[simp] theorem State.abortJobs_faults (c : Nat) (p : Job → Bool) :
    (s.abortJobs c p).faults = s.faults := by rw [State.abortJobs_form]
@[simp] theorem State.abortJobs_ledger (c : Nat) (p : Job → Bool) :
    (s.abortJobs c p).ledger = s.ledger := by rw [State.abortJobs_form]
@[simp] theorem State.abortJobs_mem (c : Nat) (p : Job → Bool) :
    (s.abortJobs c p).mem = s.mem := by rw [State.abortJobs_form]
@[simp] theorem State.abortJobs_hbm (c : Nat) (p : Job → Bool) :
    (s.abortJobs c p).hbm = s.hbm := by rw [State.abortJobs_form]
@[simp] theorem State.abortJobs_anvils (c : Nat) (p : Job → Bool) :
    (s.abortJobs c p).anvils = s.anvils := by rw [State.abortJobs_form]
@[simp] theorem State.abortJobs_slicers (c : Nat) (p : Job → Bool) :
    (s.abortJobs c p).slicers = s.slicers := by rw [State.abortJobs_form]
@[simp] theorem State.abortJobs_swages (c : Nat) (p : Job → Bool) :
    (s.abortJobs c p).swages = s.swages := by rw [State.abortJobs_form]
@[simp] theorem State.abortJobs_crucibles (c : Nat) (p : Job → Bool) :
    (s.abortJobs c p).crucibles = s.crucibles := by rw [State.abortJobs_form]
@[simp] theorem State.abortJobs_planishers (c : Nat) (p : Job → Bool) :
    (s.abortJobs c p).planishers = s.planishers := by rw [State.abortJobs_form]
@[simp] theorem State.abortJobs_tinkers (c : Nat) (p : Job → Bool) :
    (s.abortJobs c p).tinkers = s.tinkers := by rw [State.abortJobs_form]
@[simp] theorem State.abortJobs_plan (c : Nat) (p : Job → Bool) :
    (s.abortJobs c p).plan = s.plan := by rw [State.abortJobs_form]
@[simp] theorem State.abortJobs_radio (c : Nat) (p : Job → Bool) :
    (s.abortJobs c p).radio = s.radio := by rw [State.abortJobs_form]
@[simp] theorem State.abortJobs_train (c : Nat) (p : Job → Bool) :
    (s.abortJobs c p).train = s.train := by rw [State.abortJobs_form]
@[simp] theorem State.abortJobs_net (c : Nat) (p : Job → Bool) :
    (s.abortJobs c p).net = s.net := by rw [State.abortJobs_form]
@[simp] theorem State.abortJobs_time (c : Nat) (p : Job → Bool) :
    (s.abortJobs c p).time = s.time := by rw [State.abortJobs_form]
@[simp] theorem State.abortJobs_twin (c : Nat) (p : Job → Bool) :
    (s.abortJobs c p).twin = s.twin := by rw [State.abortJobs_form]
@[simp] theorem State.abortJobs_power (c : Nat) (p : Job → Bool) :
    (s.abortJobs c p).power = s.power := by rw [State.abortJobs_form]
@[simp] theorem State.abortJobs_start (c : Nat) (p : Job → Bool) :
    (s.abortJobs c p).start = s.start := by rw [State.abortJobs_form]
@[simp] theorem State.abortJobs_sec (c : Nat) (p : Job → Bool) :
    (s.abortJobs c p).sec = s.sec := by rw [State.abortJobs_form]
@[simp] theorem State.abortJobs_seq (c : Nat) (p : Job → Bool) :
    (s.abortJobs c p).seq = s.seq := by rw [State.abortJobs_form]
@[simp] theorem State.abortJobs_i3c (c : Nat) (p : Job → Bool) :
    (s.abortJobs c p).i3c = s.i3c := by rw [State.abortJobs_form]
@[simp] theorem State.abortJobs_test (c : Nat) (p : Job → Bool) :
    (s.abortJobs c p).test = s.test := by rw [State.abortJobs_form]
@[simp] theorem State.abortJobs_pins (c : Nat) (p : Job → Bool) :
    (s.abortJobs c p).pins = s.pins := by rw [State.abortJobs_form]
@[simp] theorem State.abortJobs_free (c : Nat) (p : Job → Bool) :
    (s.abortJobs c p).free = s.free := by rw [State.abortJobs_form]
@[simp] theorem State.abortJobs_drawn (c : Nat) (p : Job → Bool) :
    (s.abortJobs c p).drawn = s.drawn := by rw [State.abortJobs_form]

/-- A state that agrees with `s` but in `regs`, `ledger`. -/
theorem State.only_regs_ledger {s t : State}
    (h_pending : t.pending = s.pending)
    (h_clock : t.clock = s.clock)
    (h_commit : t.commit = s.commit)
    (h_chans : t.chans = s.chans)
    (h_taps : t.taps = s.taps)
    (h_due : t.due = s.due)
    (h_spine : t.spine = s.spine)
    (h_faults : t.faults = s.faults)
    (h_mem : t.mem = s.mem)
    (h_hbm : t.hbm = s.hbm)
    (h_ladles : t.ladles = s.ladles)
    (h_running : t.running = s.running)
    (h_signals : t.signals = s.signals)
    (h_anvils : t.anvils = s.anvils)
    (h_slicers : t.slicers = s.slicers)
    (h_swages : t.swages = s.swages)
    (h_crucibles : t.crucibles = s.crucibles)
    (h_planishers : t.planishers = s.planishers)
    (h_tinkers : t.tinkers = s.tinkers)
    (h_plan : t.plan = s.plan)
    (h_els : t.els = s.els)
    (h_radio : t.radio = s.radio)
    (h_code : t.code = s.code)
    (h_train : t.train = s.train)
    (h_net : t.net = s.net)
    (h_time : t.time = s.time)
    (h_twin : t.twin = s.twin)
    (h_power : t.power = s.power)
    (h_start : t.start = s.start)
    (h_sec : t.sec = s.sec)
    (h_seq : t.seq = s.seq)
    (h_i3c : t.i3c = s.i3c)
    (h_test : t.test = s.test)
    (h_pins : t.pins = s.pins)
    (h_free : t.free = s.free)
    (h_drawn : t.drawn = s.drawn) :
    t = { s with regs := t.regs, ledger := t.ledger } := by
  cases s; cases t; simp_all only

/-- A VOID entry changes the ledger and its count. -/
theorem State.voidEntry_form (g r b c : Nat) :
    s.voidEntry g r b c = { s with
      regs := (s.voidEntry g r b c).regs, ledger := (s.voidEntry g r b c).ledger } := by
  apply State.only_regs_ledger
  all_goals
    unfold State.voidEntry; try dsimp only
    repeat' split
    all_goals simp

@[simp] theorem State.voidEntry_pending (g r b c : Nat) :
    (s.voidEntry g r b c).pending = s.pending := by rw [State.voidEntry_form]
@[simp] theorem State.voidEntry_clock (g r b c : Nat) :
    (s.voidEntry g r b c).clock = s.clock := by rw [State.voidEntry_form]
@[simp] theorem State.voidEntry_commit (g r b c : Nat) :
    (s.voidEntry g r b c).commit = s.commit := by rw [State.voidEntry_form]
@[simp] theorem State.voidEntry_chans (g r b c : Nat) :
    (s.voidEntry g r b c).chans = s.chans := by rw [State.voidEntry_form]
@[simp] theorem State.voidEntry_taps (g r b c : Nat) :
    (s.voidEntry g r b c).taps = s.taps := by rw [State.voidEntry_form]
@[simp] theorem State.voidEntry_due (g r b c : Nat) :
    (s.voidEntry g r b c).due = s.due := by rw [State.voidEntry_form]
@[simp] theorem State.voidEntry_spine (g r b c : Nat) :
    (s.voidEntry g r b c).spine = s.spine := by rw [State.voidEntry_form]
@[simp] theorem State.voidEntry_faults (g r b c : Nat) :
    (s.voidEntry g r b c).faults = s.faults := by rw [State.voidEntry_form]
@[simp] theorem State.voidEntry_mem (g r b c : Nat) :
    (s.voidEntry g r b c).mem = s.mem := by rw [State.voidEntry_form]
@[simp] theorem State.voidEntry_hbm (g r b c : Nat) :
    (s.voidEntry g r b c).hbm = s.hbm := by rw [State.voidEntry_form]
@[simp] theorem State.voidEntry_ladles (g r b c : Nat) :
    (s.voidEntry g r b c).ladles = s.ladles := by rw [State.voidEntry_form]
@[simp] theorem State.voidEntry_running (g r b c : Nat) :
    (s.voidEntry g r b c).running = s.running := by rw [State.voidEntry_form]
@[simp] theorem State.voidEntry_signals (g r b c : Nat) :
    (s.voidEntry g r b c).signals = s.signals := by rw [State.voidEntry_form]
@[simp] theorem State.voidEntry_anvils (g r b c : Nat) :
    (s.voidEntry g r b c).anvils = s.anvils := by rw [State.voidEntry_form]
@[simp] theorem State.voidEntry_slicers (g r b c : Nat) :
    (s.voidEntry g r b c).slicers = s.slicers := by rw [State.voidEntry_form]
@[simp] theorem State.voidEntry_swages (g r b c : Nat) :
    (s.voidEntry g r b c).swages = s.swages := by rw [State.voidEntry_form]
@[simp] theorem State.voidEntry_crucibles (g r b c : Nat) :
    (s.voidEntry g r b c).crucibles = s.crucibles := by rw [State.voidEntry_form]
@[simp] theorem State.voidEntry_planishers (g r b c : Nat) :
    (s.voidEntry g r b c).planishers = s.planishers := by rw [State.voidEntry_form]
@[simp] theorem State.voidEntry_tinkers (g r b c : Nat) :
    (s.voidEntry g r b c).tinkers = s.tinkers := by rw [State.voidEntry_form]
@[simp] theorem State.voidEntry_plan (g r b c : Nat) :
    (s.voidEntry g r b c).plan = s.plan := by rw [State.voidEntry_form]
@[simp] theorem State.voidEntry_els (g r b c : Nat) :
    (s.voidEntry g r b c).els = s.els := by rw [State.voidEntry_form]
@[simp] theorem State.voidEntry_radio (g r b c : Nat) :
    (s.voidEntry g r b c).radio = s.radio := by rw [State.voidEntry_form]
@[simp] theorem State.voidEntry_code (g r b c : Nat) :
    (s.voidEntry g r b c).code = s.code := by rw [State.voidEntry_form]
@[simp] theorem State.voidEntry_train (g r b c : Nat) :
    (s.voidEntry g r b c).train = s.train := by rw [State.voidEntry_form]
@[simp] theorem State.voidEntry_net (g r b c : Nat) :
    (s.voidEntry g r b c).net = s.net := by rw [State.voidEntry_form]
@[simp] theorem State.voidEntry_time (g r b c : Nat) :
    (s.voidEntry g r b c).time = s.time := by rw [State.voidEntry_form]
@[simp] theorem State.voidEntry_twin (g r b c : Nat) :
    (s.voidEntry g r b c).twin = s.twin := by rw [State.voidEntry_form]
@[simp] theorem State.voidEntry_power (g r b c : Nat) :
    (s.voidEntry g r b c).power = s.power := by rw [State.voidEntry_form]
@[simp] theorem State.voidEntry_start (g r b c : Nat) :
    (s.voidEntry g r b c).start = s.start := by rw [State.voidEntry_form]
@[simp] theorem State.voidEntry_sec (g r b c : Nat) :
    (s.voidEntry g r b c).sec = s.sec := by rw [State.voidEntry_form]
@[simp] theorem State.voidEntry_seq (g r b c : Nat) :
    (s.voidEntry g r b c).seq = s.seq := by rw [State.voidEntry_form]
@[simp] theorem State.voidEntry_i3c (g r b c : Nat) :
    (s.voidEntry g r b c).i3c = s.i3c := by rw [State.voidEntry_form]
@[simp] theorem State.voidEntry_test (g r b c : Nat) :
    (s.voidEntry g r b c).test = s.test := by rw [State.voidEntry_form]
@[simp] theorem State.voidEntry_pins (g r b c : Nat) :
    (s.voidEntry g r b c).pins = s.pins := by rw [State.voidEntry_form]
@[simp] theorem State.voidEntry_free (g r b c : Nat) :
    (s.voidEntry g r b c).free = s.free := by rw [State.voidEntry_form]
@[simp] theorem State.voidEntry_drawn (g r b c : Nat) :
    (s.voidEntry g r b c).drawn = s.drawn := by rw [State.voidEntry_form]

/-- A state that agrees with `s` but in `ledger`. -/
theorem State.only_ledger {s t : State}
    (h_pending : t.pending = s.pending)
    (h_regs : t.regs = s.regs)
    (h_clock : t.clock = s.clock)
    (h_commit : t.commit = s.commit)
    (h_chans : t.chans = s.chans)
    (h_taps : t.taps = s.taps)
    (h_due : t.due = s.due)
    (h_spine : t.spine = s.spine)
    (h_faults : t.faults = s.faults)
    (h_mem : t.mem = s.mem)
    (h_hbm : t.hbm = s.hbm)
    (h_ladles : t.ladles = s.ladles)
    (h_running : t.running = s.running)
    (h_signals : t.signals = s.signals)
    (h_anvils : t.anvils = s.anvils)
    (h_slicers : t.slicers = s.slicers)
    (h_swages : t.swages = s.swages)
    (h_crucibles : t.crucibles = s.crucibles)
    (h_planishers : t.planishers = s.planishers)
    (h_tinkers : t.tinkers = s.tinkers)
    (h_plan : t.plan = s.plan)
    (h_els : t.els = s.els)
    (h_radio : t.radio = s.radio)
    (h_code : t.code = s.code)
    (h_train : t.train = s.train)
    (h_net : t.net = s.net)
    (h_time : t.time = s.time)
    (h_twin : t.twin = s.twin)
    (h_power : t.power = s.power)
    (h_start : t.start = s.start)
    (h_sec : t.sec = s.sec)
    (h_seq : t.seq = s.seq)
    (h_i3c : t.i3c = s.i3c)
    (h_test : t.test = s.test)
    (h_pins : t.pins = s.pins)
    (h_free : t.free = s.free)
    (h_drawn : t.drawn = s.drawn) :
    t = { s with ledger := t.ledger } := by
  cases s; cases t; simp_all only

/-- A SUSPECT entry changes the ledger. -/
theorem State.suspectEntry_form (g r b c : Nat) :
    s.suspectEntry g r b c = { s with
      ledger := (s.suspectEntry g r b c).ledger } := by
  apply State.only_ledger
  all_goals
    unfold State.suspectEntry; try dsimp only
    repeat' split
    all_goals simp

@[simp] theorem State.suspectEntry_pending (g r b c : Nat) :
    (s.suspectEntry g r b c).pending = s.pending := by rw [State.suspectEntry_form]
@[simp] theorem State.suspectEntry_regs (g r b c : Nat) :
    (s.suspectEntry g r b c).regs = s.regs := by rw [State.suspectEntry_form]
@[simp] theorem State.suspectEntry_clock (g r b c : Nat) :
    (s.suspectEntry g r b c).clock = s.clock := by rw [State.suspectEntry_form]
@[simp] theorem State.suspectEntry_commit (g r b c : Nat) :
    (s.suspectEntry g r b c).commit = s.commit := by rw [State.suspectEntry_form]
@[simp] theorem State.suspectEntry_chans (g r b c : Nat) :
    (s.suspectEntry g r b c).chans = s.chans := by rw [State.suspectEntry_form]
@[simp] theorem State.suspectEntry_taps (g r b c : Nat) :
    (s.suspectEntry g r b c).taps = s.taps := by rw [State.suspectEntry_form]
@[simp] theorem State.suspectEntry_due (g r b c : Nat) :
    (s.suspectEntry g r b c).due = s.due := by rw [State.suspectEntry_form]
@[simp] theorem State.suspectEntry_spine (g r b c : Nat) :
    (s.suspectEntry g r b c).spine = s.spine := by rw [State.suspectEntry_form]
@[simp] theorem State.suspectEntry_faults (g r b c : Nat) :
    (s.suspectEntry g r b c).faults = s.faults := by rw [State.suspectEntry_form]
@[simp] theorem State.suspectEntry_mem (g r b c : Nat) :
    (s.suspectEntry g r b c).mem = s.mem := by rw [State.suspectEntry_form]
@[simp] theorem State.suspectEntry_hbm (g r b c : Nat) :
    (s.suspectEntry g r b c).hbm = s.hbm := by rw [State.suspectEntry_form]
@[simp] theorem State.suspectEntry_ladles (g r b c : Nat) :
    (s.suspectEntry g r b c).ladles = s.ladles := by rw [State.suspectEntry_form]
@[simp] theorem State.suspectEntry_running (g r b c : Nat) :
    (s.suspectEntry g r b c).running = s.running := by rw [State.suspectEntry_form]
@[simp] theorem State.suspectEntry_signals (g r b c : Nat) :
    (s.suspectEntry g r b c).signals = s.signals := by rw [State.suspectEntry_form]
@[simp] theorem State.suspectEntry_anvils (g r b c : Nat) :
    (s.suspectEntry g r b c).anvils = s.anvils := by rw [State.suspectEntry_form]
@[simp] theorem State.suspectEntry_slicers (g r b c : Nat) :
    (s.suspectEntry g r b c).slicers = s.slicers := by rw [State.suspectEntry_form]
@[simp] theorem State.suspectEntry_swages (g r b c : Nat) :
    (s.suspectEntry g r b c).swages = s.swages := by rw [State.suspectEntry_form]
@[simp] theorem State.suspectEntry_crucibles (g r b c : Nat) :
    (s.suspectEntry g r b c).crucibles = s.crucibles := by rw [State.suspectEntry_form]
@[simp] theorem State.suspectEntry_planishers (g r b c : Nat) :
    (s.suspectEntry g r b c).planishers = s.planishers := by rw [State.suspectEntry_form]
@[simp] theorem State.suspectEntry_tinkers (g r b c : Nat) :
    (s.suspectEntry g r b c).tinkers = s.tinkers := by rw [State.suspectEntry_form]
@[simp] theorem State.suspectEntry_plan (g r b c : Nat) :
    (s.suspectEntry g r b c).plan = s.plan := by rw [State.suspectEntry_form]
@[simp] theorem State.suspectEntry_els (g r b c : Nat) :
    (s.suspectEntry g r b c).els = s.els := by rw [State.suspectEntry_form]
@[simp] theorem State.suspectEntry_radio (g r b c : Nat) :
    (s.suspectEntry g r b c).radio = s.radio := by rw [State.suspectEntry_form]
@[simp] theorem State.suspectEntry_code (g r b c : Nat) :
    (s.suspectEntry g r b c).code = s.code := by rw [State.suspectEntry_form]
@[simp] theorem State.suspectEntry_train (g r b c : Nat) :
    (s.suspectEntry g r b c).train = s.train := by rw [State.suspectEntry_form]
@[simp] theorem State.suspectEntry_net (g r b c : Nat) :
    (s.suspectEntry g r b c).net = s.net := by rw [State.suspectEntry_form]
@[simp] theorem State.suspectEntry_time (g r b c : Nat) :
    (s.suspectEntry g r b c).time = s.time := by rw [State.suspectEntry_form]
@[simp] theorem State.suspectEntry_twin (g r b c : Nat) :
    (s.suspectEntry g r b c).twin = s.twin := by rw [State.suspectEntry_form]
@[simp] theorem State.suspectEntry_power (g r b c : Nat) :
    (s.suspectEntry g r b c).power = s.power := by rw [State.suspectEntry_form]
@[simp] theorem State.suspectEntry_start (g r b c : Nat) :
    (s.suspectEntry g r b c).start = s.start := by rw [State.suspectEntry_form]
@[simp] theorem State.suspectEntry_sec (g r b c : Nat) :
    (s.suspectEntry g r b c).sec = s.sec := by rw [State.suspectEntry_form]
@[simp] theorem State.suspectEntry_seq (g r b c : Nat) :
    (s.suspectEntry g r b c).seq = s.seq := by rw [State.suspectEntry_form]
@[simp] theorem State.suspectEntry_i3c (g r b c : Nat) :
    (s.suspectEntry g r b c).i3c = s.i3c := by rw [State.suspectEntry_form]
@[simp] theorem State.suspectEntry_test (g r b c : Nat) :
    (s.suspectEntry g r b c).test = s.test := by rw [State.suspectEntry_form]
@[simp] theorem State.suspectEntry_pins (g r b c : Nat) :
    (s.suspectEntry g r b c).pins = s.pins := by rw [State.suspectEntry_form]
@[simp] theorem State.suspectEntry_free (g r b c : Nat) :
    (s.suspectEntry g r b c).free = s.free := by rw [State.suspectEntry_form]
@[simp] theorem State.suspectEntry_drawn (g r b c : Nat) :
    (s.suspectEntry g r b c).drawn = s.drawn := by rw [State.suspectEntry_form]

/-- A state that agrees with `s` but in `regs`, `ledger`, `els`. -/
theorem State.only_regs_ledger_els {s t : State}
    (h_pending : t.pending = s.pending)
    (h_clock : t.clock = s.clock)
    (h_commit : t.commit = s.commit)
    (h_chans : t.chans = s.chans)
    (h_taps : t.taps = s.taps)
    (h_due : t.due = s.due)
    (h_spine : t.spine = s.spine)
    (h_faults : t.faults = s.faults)
    (h_mem : t.mem = s.mem)
    (h_hbm : t.hbm = s.hbm)
    (h_ladles : t.ladles = s.ladles)
    (h_running : t.running = s.running)
    (h_signals : t.signals = s.signals)
    (h_anvils : t.anvils = s.anvils)
    (h_slicers : t.slicers = s.slicers)
    (h_swages : t.swages = s.swages)
    (h_crucibles : t.crucibles = s.crucibles)
    (h_planishers : t.planishers = s.planishers)
    (h_tinkers : t.tinkers = s.tinkers)
    (h_plan : t.plan = s.plan)
    (h_radio : t.radio = s.radio)
    (h_code : t.code = s.code)
    (h_train : t.train = s.train)
    (h_net : t.net = s.net)
    (h_time : t.time = s.time)
    (h_twin : t.twin = s.twin)
    (h_power : t.power = s.power)
    (h_start : t.start = s.start)
    (h_sec : t.sec = s.sec)
    (h_seq : t.seq = s.seq)
    (h_i3c : t.i3c = s.i3c)
    (h_test : t.test = s.test)
    (h_pins : t.pins = s.pins)
    (h_free : t.free = s.free)
    (h_drawn : t.drawn = s.drawn) :
    t = { s with regs := t.regs, ledger := t.ledger, els := t.els } := by
  cases s; cases t; simp_all only

/-- A void output changes the ledger or the state of its context. -/
theorem State.voidBuf_form (x : Option Nat) (r b c : Nat) :
    s.voidBuf x r b c = { s with
      regs := (s.voidBuf x r b c).regs, ledger := (s.voidBuf x r b c).ledger, els := (s.voidBuf x r b c).els } := by
  apply State.only_regs_ledger_els
  all_goals
    unfold State.voidBuf; try dsimp only
    repeat' split
    all_goals simp

@[simp] theorem State.voidBuf_pending (x : Option Nat) (r b c : Nat) :
    (s.voidBuf x r b c).pending = s.pending := by rw [State.voidBuf_form]
@[simp] theorem State.voidBuf_clock (x : Option Nat) (r b c : Nat) :
    (s.voidBuf x r b c).clock = s.clock := by rw [State.voidBuf_form]
@[simp] theorem State.voidBuf_commit (x : Option Nat) (r b c : Nat) :
    (s.voidBuf x r b c).commit = s.commit := by rw [State.voidBuf_form]
@[simp] theorem State.voidBuf_chans (x : Option Nat) (r b c : Nat) :
    (s.voidBuf x r b c).chans = s.chans := by rw [State.voidBuf_form]
@[simp] theorem State.voidBuf_taps (x : Option Nat) (r b c : Nat) :
    (s.voidBuf x r b c).taps = s.taps := by rw [State.voidBuf_form]
@[simp] theorem State.voidBuf_due (x : Option Nat) (r b c : Nat) :
    (s.voidBuf x r b c).due = s.due := by rw [State.voidBuf_form]
@[simp] theorem State.voidBuf_spine (x : Option Nat) (r b c : Nat) :
    (s.voidBuf x r b c).spine = s.spine := by rw [State.voidBuf_form]
@[simp] theorem State.voidBuf_faults (x : Option Nat) (r b c : Nat) :
    (s.voidBuf x r b c).faults = s.faults := by rw [State.voidBuf_form]
@[simp] theorem State.voidBuf_mem (x : Option Nat) (r b c : Nat) :
    (s.voidBuf x r b c).mem = s.mem := by rw [State.voidBuf_form]
@[simp] theorem State.voidBuf_hbm (x : Option Nat) (r b c : Nat) :
    (s.voidBuf x r b c).hbm = s.hbm := by rw [State.voidBuf_form]
@[simp] theorem State.voidBuf_ladles (x : Option Nat) (r b c : Nat) :
    (s.voidBuf x r b c).ladles = s.ladles := by rw [State.voidBuf_form]
@[simp] theorem State.voidBuf_running (x : Option Nat) (r b c : Nat) :
    (s.voidBuf x r b c).running = s.running := by rw [State.voidBuf_form]
@[simp] theorem State.voidBuf_signals (x : Option Nat) (r b c : Nat) :
    (s.voidBuf x r b c).signals = s.signals := by rw [State.voidBuf_form]
@[simp] theorem State.voidBuf_anvils (x : Option Nat) (r b c : Nat) :
    (s.voidBuf x r b c).anvils = s.anvils := by rw [State.voidBuf_form]
@[simp] theorem State.voidBuf_slicers (x : Option Nat) (r b c : Nat) :
    (s.voidBuf x r b c).slicers = s.slicers := by rw [State.voidBuf_form]
@[simp] theorem State.voidBuf_swages (x : Option Nat) (r b c : Nat) :
    (s.voidBuf x r b c).swages = s.swages := by rw [State.voidBuf_form]
@[simp] theorem State.voidBuf_crucibles (x : Option Nat) (r b c : Nat) :
    (s.voidBuf x r b c).crucibles = s.crucibles := by rw [State.voidBuf_form]
@[simp] theorem State.voidBuf_planishers (x : Option Nat) (r b c : Nat) :
    (s.voidBuf x r b c).planishers = s.planishers := by rw [State.voidBuf_form]
@[simp] theorem State.voidBuf_tinkers (x : Option Nat) (r b c : Nat) :
    (s.voidBuf x r b c).tinkers = s.tinkers := by rw [State.voidBuf_form]
@[simp] theorem State.voidBuf_plan (x : Option Nat) (r b c : Nat) :
    (s.voidBuf x r b c).plan = s.plan := by rw [State.voidBuf_form]
@[simp] theorem State.voidBuf_radio (x : Option Nat) (r b c : Nat) :
    (s.voidBuf x r b c).radio = s.radio := by rw [State.voidBuf_form]
@[simp] theorem State.voidBuf_code (x : Option Nat) (r b c : Nat) :
    (s.voidBuf x r b c).code = s.code := by rw [State.voidBuf_form]
@[simp] theorem State.voidBuf_train (x : Option Nat) (r b c : Nat) :
    (s.voidBuf x r b c).train = s.train := by rw [State.voidBuf_form]
@[simp] theorem State.voidBuf_net (x : Option Nat) (r b c : Nat) :
    (s.voidBuf x r b c).net = s.net := by rw [State.voidBuf_form]
@[simp] theorem State.voidBuf_time (x : Option Nat) (r b c : Nat) :
    (s.voidBuf x r b c).time = s.time := by rw [State.voidBuf_form]
@[simp] theorem State.voidBuf_twin (x : Option Nat) (r b c : Nat) :
    (s.voidBuf x r b c).twin = s.twin := by rw [State.voidBuf_form]
@[simp] theorem State.voidBuf_power (x : Option Nat) (r b c : Nat) :
    (s.voidBuf x r b c).power = s.power := by rw [State.voidBuf_form]
@[simp] theorem State.voidBuf_start (x : Option Nat) (r b c : Nat) :
    (s.voidBuf x r b c).start = s.start := by rw [State.voidBuf_form]
@[simp] theorem State.voidBuf_sec (x : Option Nat) (r b c : Nat) :
    (s.voidBuf x r b c).sec = s.sec := by rw [State.voidBuf_form]
@[simp] theorem State.voidBuf_seq (x : Option Nat) (r b c : Nat) :
    (s.voidBuf x r b c).seq = s.seq := by rw [State.voidBuf_form]
@[simp] theorem State.voidBuf_i3c (x : Option Nat) (r b c : Nat) :
    (s.voidBuf x r b c).i3c = s.i3c := by rw [State.voidBuf_form]
@[simp] theorem State.voidBuf_test (x : Option Nat) (r b c : Nat) :
    (s.voidBuf x r b c).test = s.test := by rw [State.voidBuf_form]
@[simp] theorem State.voidBuf_pins (x : Option Nat) (r b c : Nat) :
    (s.voidBuf x r b c).pins = s.pins := by rw [State.voidBuf_form]
@[simp] theorem State.voidBuf_free (x : Option Nat) (r b c : Nat) :
    (s.voidBuf x r b c).free = s.free := by rw [State.voidBuf_form]
@[simp] theorem State.voidBuf_drawn (x : Option Nat) (r b c : Nat) :
    (s.voidBuf x r b c).drawn = s.drawn := by rw [State.voidBuf_form]

/-- A state that agrees with `s` but in `ledger`, `els`. -/
theorem State.only_ledger_els {s t : State}
    (h_pending : t.pending = s.pending)
    (h_regs : t.regs = s.regs)
    (h_clock : t.clock = s.clock)
    (h_commit : t.commit = s.commit)
    (h_chans : t.chans = s.chans)
    (h_taps : t.taps = s.taps)
    (h_due : t.due = s.due)
    (h_spine : t.spine = s.spine)
    (h_faults : t.faults = s.faults)
    (h_mem : t.mem = s.mem)
    (h_hbm : t.hbm = s.hbm)
    (h_ladles : t.ladles = s.ladles)
    (h_running : t.running = s.running)
    (h_signals : t.signals = s.signals)
    (h_anvils : t.anvils = s.anvils)
    (h_slicers : t.slicers = s.slicers)
    (h_swages : t.swages = s.swages)
    (h_crucibles : t.crucibles = s.crucibles)
    (h_planishers : t.planishers = s.planishers)
    (h_tinkers : t.tinkers = s.tinkers)
    (h_plan : t.plan = s.plan)
    (h_radio : t.radio = s.radio)
    (h_code : t.code = s.code)
    (h_train : t.train = s.train)
    (h_net : t.net = s.net)
    (h_time : t.time = s.time)
    (h_twin : t.twin = s.twin)
    (h_power : t.power = s.power)
    (h_start : t.start = s.start)
    (h_sec : t.sec = s.sec)
    (h_seq : t.seq = s.seq)
    (h_i3c : t.i3c = s.i3c)
    (h_test : t.test = s.test)
    (h_pins : t.pins = s.pins)
    (h_free : t.free = s.free)
    (h_drawn : t.drawn = s.drawn) :
    t = { s with ledger := t.ledger, els := t.els } := by
  cases s; cases t; simp_all only

/-- A completion changes the ledger or the state of its context. -/
theorem State.complete_form (x : Option Nat) (r b : Nat) :
    s.complete x r b = { s with
      ledger := (s.complete x r b).ledger, els := (s.complete x r b).els } := by
  apply State.only_ledger_els
  all_goals
    unfold State.complete; try dsimp only
    repeat' split
    all_goals simp

@[simp] theorem State.complete_pending (x : Option Nat) (r b : Nat) :
    (s.complete x r b).pending = s.pending := by rw [State.complete_form]
@[simp] theorem State.complete_regs (x : Option Nat) (r b : Nat) :
    (s.complete x r b).regs = s.regs := by rw [State.complete_form]
@[simp] theorem State.complete_clock (x : Option Nat) (r b : Nat) :
    (s.complete x r b).clock = s.clock := by rw [State.complete_form]
@[simp] theorem State.complete_commit (x : Option Nat) (r b : Nat) :
    (s.complete x r b).commit = s.commit := by rw [State.complete_form]
@[simp] theorem State.complete_chans (x : Option Nat) (r b : Nat) :
    (s.complete x r b).chans = s.chans := by rw [State.complete_form]
@[simp] theorem State.complete_taps (x : Option Nat) (r b : Nat) :
    (s.complete x r b).taps = s.taps := by rw [State.complete_form]
@[simp] theorem State.complete_due (x : Option Nat) (r b : Nat) :
    (s.complete x r b).due = s.due := by rw [State.complete_form]
@[simp] theorem State.complete_spine (x : Option Nat) (r b : Nat) :
    (s.complete x r b).spine = s.spine := by rw [State.complete_form]
@[simp] theorem State.complete_faults (x : Option Nat) (r b : Nat) :
    (s.complete x r b).faults = s.faults := by rw [State.complete_form]
@[simp] theorem State.complete_mem (x : Option Nat) (r b : Nat) :
    (s.complete x r b).mem = s.mem := by rw [State.complete_form]
@[simp] theorem State.complete_hbm (x : Option Nat) (r b : Nat) :
    (s.complete x r b).hbm = s.hbm := by rw [State.complete_form]
@[simp] theorem State.complete_ladles (x : Option Nat) (r b : Nat) :
    (s.complete x r b).ladles = s.ladles := by rw [State.complete_form]
@[simp] theorem State.complete_running (x : Option Nat) (r b : Nat) :
    (s.complete x r b).running = s.running := by rw [State.complete_form]
@[simp] theorem State.complete_signals (x : Option Nat) (r b : Nat) :
    (s.complete x r b).signals = s.signals := by rw [State.complete_form]
@[simp] theorem State.complete_anvils (x : Option Nat) (r b : Nat) :
    (s.complete x r b).anvils = s.anvils := by rw [State.complete_form]
@[simp] theorem State.complete_slicers (x : Option Nat) (r b : Nat) :
    (s.complete x r b).slicers = s.slicers := by rw [State.complete_form]
@[simp] theorem State.complete_swages (x : Option Nat) (r b : Nat) :
    (s.complete x r b).swages = s.swages := by rw [State.complete_form]
@[simp] theorem State.complete_crucibles (x : Option Nat) (r b : Nat) :
    (s.complete x r b).crucibles = s.crucibles := by rw [State.complete_form]
@[simp] theorem State.complete_planishers (x : Option Nat) (r b : Nat) :
    (s.complete x r b).planishers = s.planishers := by rw [State.complete_form]
@[simp] theorem State.complete_tinkers (x : Option Nat) (r b : Nat) :
    (s.complete x r b).tinkers = s.tinkers := by rw [State.complete_form]
@[simp] theorem State.complete_plan (x : Option Nat) (r b : Nat) :
    (s.complete x r b).plan = s.plan := by rw [State.complete_form]
@[simp] theorem State.complete_radio (x : Option Nat) (r b : Nat) :
    (s.complete x r b).radio = s.radio := by rw [State.complete_form]
@[simp] theorem State.complete_code (x : Option Nat) (r b : Nat) :
    (s.complete x r b).code = s.code := by rw [State.complete_form]
@[simp] theorem State.complete_train (x : Option Nat) (r b : Nat) :
    (s.complete x r b).train = s.train := by rw [State.complete_form]
@[simp] theorem State.complete_net (x : Option Nat) (r b : Nat) :
    (s.complete x r b).net = s.net := by rw [State.complete_form]
@[simp] theorem State.complete_time (x : Option Nat) (r b : Nat) :
    (s.complete x r b).time = s.time := by rw [State.complete_form]
@[simp] theorem State.complete_twin (x : Option Nat) (r b : Nat) :
    (s.complete x r b).twin = s.twin := by rw [State.complete_form]
@[simp] theorem State.complete_power (x : Option Nat) (r b : Nat) :
    (s.complete x r b).power = s.power := by rw [State.complete_form]
@[simp] theorem State.complete_start (x : Option Nat) (r b : Nat) :
    (s.complete x r b).start = s.start := by rw [State.complete_form]
@[simp] theorem State.complete_sec (x : Option Nat) (r b : Nat) :
    (s.complete x r b).sec = s.sec := by rw [State.complete_form]
@[simp] theorem State.complete_seq (x : Option Nat) (r b : Nat) :
    (s.complete x r b).seq = s.seq := by rw [State.complete_form]
@[simp] theorem State.complete_i3c (x : Option Nat) (r b : Nat) :
    (s.complete x r b).i3c = s.i3c := by rw [State.complete_form]
@[simp] theorem State.complete_test (x : Option Nat) (r b : Nat) :
    (s.complete x r b).test = s.test := by rw [State.complete_form]
@[simp] theorem State.complete_pins (x : Option Nat) (r b : Nat) :
    (s.complete x r b).pins = s.pins := by rw [State.complete_form]
@[simp] theorem State.complete_free (x : Option Nat) (r b : Nat) :
    (s.complete x r b).free = s.free := by rw [State.complete_form]
@[simp] theorem State.complete_drawn (x : Option Nat) (r b : Nat) :
    (s.complete x r b).drawn = s.drawn := by rw [State.complete_form]

/-- A producer that issues changes the state of its context. -/
theorem State.clearBuf_form (c b : Nat) :
    s.clearBuf c b = { s with
      els := (s.clearBuf c b).els } := by
  apply State.only_els
  all_goals
    rfl

@[simp] theorem State.clearBuf_pending (c b : Nat) :
    (s.clearBuf c b).pending = s.pending := by rw [State.clearBuf_form]
@[simp] theorem State.clearBuf_regs (c b : Nat) :
    (s.clearBuf c b).regs = s.regs := by rw [State.clearBuf_form]
@[simp] theorem State.clearBuf_clock (c b : Nat) :
    (s.clearBuf c b).clock = s.clock := by rw [State.clearBuf_form]
@[simp] theorem State.clearBuf_commit (c b : Nat) :
    (s.clearBuf c b).commit = s.commit := by rw [State.clearBuf_form]
@[simp] theorem State.clearBuf_chans (c b : Nat) :
    (s.clearBuf c b).chans = s.chans := by rw [State.clearBuf_form]
@[simp] theorem State.clearBuf_taps (c b : Nat) :
    (s.clearBuf c b).taps = s.taps := by rw [State.clearBuf_form]
@[simp] theorem State.clearBuf_due (c b : Nat) :
    (s.clearBuf c b).due = s.due := by rw [State.clearBuf_form]
@[simp] theorem State.clearBuf_spine (c b : Nat) :
    (s.clearBuf c b).spine = s.spine := by rw [State.clearBuf_form]
@[simp] theorem State.clearBuf_faults (c b : Nat) :
    (s.clearBuf c b).faults = s.faults := by rw [State.clearBuf_form]
@[simp] theorem State.clearBuf_ledger (c b : Nat) :
    (s.clearBuf c b).ledger = s.ledger := by rw [State.clearBuf_form]
@[simp] theorem State.clearBuf_mem (c b : Nat) :
    (s.clearBuf c b).mem = s.mem := by rw [State.clearBuf_form]
@[simp] theorem State.clearBuf_hbm (c b : Nat) :
    (s.clearBuf c b).hbm = s.hbm := by rw [State.clearBuf_form]
@[simp] theorem State.clearBuf_ladles (c b : Nat) :
    (s.clearBuf c b).ladles = s.ladles := by rw [State.clearBuf_form]
@[simp] theorem State.clearBuf_running (c b : Nat) :
    (s.clearBuf c b).running = s.running := by rw [State.clearBuf_form]
@[simp] theorem State.clearBuf_signals (c b : Nat) :
    (s.clearBuf c b).signals = s.signals := by rw [State.clearBuf_form]
@[simp] theorem State.clearBuf_anvils (c b : Nat) :
    (s.clearBuf c b).anvils = s.anvils := by rw [State.clearBuf_form]
@[simp] theorem State.clearBuf_slicers (c b : Nat) :
    (s.clearBuf c b).slicers = s.slicers := by rw [State.clearBuf_form]
@[simp] theorem State.clearBuf_swages (c b : Nat) :
    (s.clearBuf c b).swages = s.swages := by rw [State.clearBuf_form]
@[simp] theorem State.clearBuf_crucibles (c b : Nat) :
    (s.clearBuf c b).crucibles = s.crucibles := by rw [State.clearBuf_form]
@[simp] theorem State.clearBuf_planishers (c b : Nat) :
    (s.clearBuf c b).planishers = s.planishers := by rw [State.clearBuf_form]
@[simp] theorem State.clearBuf_tinkers (c b : Nat) :
    (s.clearBuf c b).tinkers = s.tinkers := by rw [State.clearBuf_form]
@[simp] theorem State.clearBuf_plan (c b : Nat) :
    (s.clearBuf c b).plan = s.plan := by rw [State.clearBuf_form]
@[simp] theorem State.clearBuf_radio (c b : Nat) :
    (s.clearBuf c b).radio = s.radio := by rw [State.clearBuf_form]
@[simp] theorem State.clearBuf_code (c b : Nat) :
    (s.clearBuf c b).code = s.code := by rw [State.clearBuf_form]
@[simp] theorem State.clearBuf_train (c b : Nat) :
    (s.clearBuf c b).train = s.train := by rw [State.clearBuf_form]
@[simp] theorem State.clearBuf_net (c b : Nat) :
    (s.clearBuf c b).net = s.net := by rw [State.clearBuf_form]
@[simp] theorem State.clearBuf_time (c b : Nat) :
    (s.clearBuf c b).time = s.time := by rw [State.clearBuf_form]
@[simp] theorem State.clearBuf_twin (c b : Nat) :
    (s.clearBuf c b).twin = s.twin := by rw [State.clearBuf_form]
@[simp] theorem State.clearBuf_power (c b : Nat) :
    (s.clearBuf c b).power = s.power := by rw [State.clearBuf_form]
@[simp] theorem State.clearBuf_start (c b : Nat) :
    (s.clearBuf c b).start = s.start := by rw [State.clearBuf_form]
@[simp] theorem State.clearBuf_sec (c b : Nat) :
    (s.clearBuf c b).sec = s.sec := by rw [State.clearBuf_form]
@[simp] theorem State.clearBuf_seq (c b : Nat) :
    (s.clearBuf c b).seq = s.seq := by rw [State.clearBuf_form]
@[simp] theorem State.clearBuf_i3c (c b : Nat) :
    (s.clearBuf c b).i3c = s.i3c := by rw [State.clearBuf_form]
@[simp] theorem State.clearBuf_test (c b : Nat) :
    (s.clearBuf c b).test = s.test := by rw [State.clearBuf_form]
@[simp] theorem State.clearBuf_pins (c b : Nat) :
    (s.clearBuf c b).pins = s.pins := by rw [State.clearBuf_form]
@[simp] theorem State.clearBuf_free (c b : Nat) :
    (s.clearBuf c b).free = s.free := by rw [State.clearBuf_form]
@[simp] theorem State.clearBuf_drawn (c b : Nat) :
    (s.clearBuf c b).drawn = s.drawn := by rw [State.clearBuf_form]

/-- A state that agrees with `s` but in `regs`, `due`. -/
theorem State.only_regs_due {s t : State}
    (h_pending : t.pending = s.pending)
    (h_clock : t.clock = s.clock)
    (h_commit : t.commit = s.commit)
    (h_chans : t.chans = s.chans)
    (h_taps : t.taps = s.taps)
    (h_spine : t.spine = s.spine)
    (h_faults : t.faults = s.faults)
    (h_ledger : t.ledger = s.ledger)
    (h_mem : t.mem = s.mem)
    (h_hbm : t.hbm = s.hbm)
    (h_ladles : t.ladles = s.ladles)
    (h_running : t.running = s.running)
    (h_signals : t.signals = s.signals)
    (h_anvils : t.anvils = s.anvils)
    (h_slicers : t.slicers = s.slicers)
    (h_swages : t.swages = s.swages)
    (h_crucibles : t.crucibles = s.crucibles)
    (h_planishers : t.planishers = s.planishers)
    (h_tinkers : t.tinkers = s.tinkers)
    (h_plan : t.plan = s.plan)
    (h_els : t.els = s.els)
    (h_radio : t.radio = s.radio)
    (h_code : t.code = s.code)
    (h_train : t.train = s.train)
    (h_net : t.net = s.net)
    (h_time : t.time = s.time)
    (h_twin : t.twin = s.twin)
    (h_power : t.power = s.power)
    (h_start : t.start = s.start)
    (h_sec : t.sec = s.sec)
    (h_seq : t.seq = s.seq)
    (h_i3c : t.i3c = s.i3c)
    (h_test : t.test = s.test)
    (h_pins : t.pins = s.pins)
    (h_free : t.free = s.free)
    (h_drawn : t.drawn = s.drawn) :
    t = { s with regs := t.regs, due := t.due } := by
  cases s; cases t; simp_all only

/-- A count in a cycle changes registers, at once or when its cycle is over. -/
theorem State.laterCount_form (t r k lo n v : Nat) :
    s.later t r (.count k lo n v) = { s with
      regs := (s.later t r (.count k lo n v)).regs, due := (s.later t r (.count k lo n v)).due } := by
  apply State.only_regs_due
  all_goals
    unfold State.later State.apply
    split
    all_goals simp

@[simp] theorem State.laterCount_pending (t r k lo n v : Nat) :
    (s.later t r (.count k lo n v)).pending = s.pending := by rw [State.laterCount_form]
@[simp] theorem State.laterCount_clock (t r k lo n v : Nat) :
    (s.later t r (.count k lo n v)).clock = s.clock := by rw [State.laterCount_form]
@[simp] theorem State.laterCount_commit (t r k lo n v : Nat) :
    (s.later t r (.count k lo n v)).commit = s.commit := by rw [State.laterCount_form]
@[simp] theorem State.laterCount_chans (t r k lo n v : Nat) :
    (s.later t r (.count k lo n v)).chans = s.chans := by rw [State.laterCount_form]
@[simp] theorem State.laterCount_taps (t r k lo n v : Nat) :
    (s.later t r (.count k lo n v)).taps = s.taps := by rw [State.laterCount_form]
@[simp] theorem State.laterCount_spine (t r k lo n v : Nat) :
    (s.later t r (.count k lo n v)).spine = s.spine := by rw [State.laterCount_form]
@[simp] theorem State.laterCount_faults (t r k lo n v : Nat) :
    (s.later t r (.count k lo n v)).faults = s.faults := by rw [State.laterCount_form]
@[simp] theorem State.laterCount_ledger (t r k lo n v : Nat) :
    (s.later t r (.count k lo n v)).ledger = s.ledger := by rw [State.laterCount_form]
@[simp] theorem State.laterCount_mem (t r k lo n v : Nat) :
    (s.later t r (.count k lo n v)).mem = s.mem := by rw [State.laterCount_form]
@[simp] theorem State.laterCount_hbm (t r k lo n v : Nat) :
    (s.later t r (.count k lo n v)).hbm = s.hbm := by rw [State.laterCount_form]
@[simp] theorem State.laterCount_ladles (t r k lo n v : Nat) :
    (s.later t r (.count k lo n v)).ladles = s.ladles := by rw [State.laterCount_form]
@[simp] theorem State.laterCount_running (t r k lo n v : Nat) :
    (s.later t r (.count k lo n v)).running = s.running := by rw [State.laterCount_form]
@[simp] theorem State.laterCount_signals (t r k lo n v : Nat) :
    (s.later t r (.count k lo n v)).signals = s.signals := by rw [State.laterCount_form]
@[simp] theorem State.laterCount_anvils (t r k lo n v : Nat) :
    (s.later t r (.count k lo n v)).anvils = s.anvils := by rw [State.laterCount_form]
@[simp] theorem State.laterCount_slicers (t r k lo n v : Nat) :
    (s.later t r (.count k lo n v)).slicers = s.slicers := by rw [State.laterCount_form]
@[simp] theorem State.laterCount_swages (t r k lo n v : Nat) :
    (s.later t r (.count k lo n v)).swages = s.swages := by rw [State.laterCount_form]
@[simp] theorem State.laterCount_crucibles (t r k lo n v : Nat) :
    (s.later t r (.count k lo n v)).crucibles = s.crucibles := by rw [State.laterCount_form]
@[simp] theorem State.laterCount_planishers (t r k lo n v : Nat) :
    (s.later t r (.count k lo n v)).planishers = s.planishers := by rw [State.laterCount_form]
@[simp] theorem State.laterCount_tinkers (t r k lo n v : Nat) :
    (s.later t r (.count k lo n v)).tinkers = s.tinkers := by rw [State.laterCount_form]
@[simp] theorem State.laterCount_plan (t r k lo n v : Nat) :
    (s.later t r (.count k lo n v)).plan = s.plan := by rw [State.laterCount_form]
@[simp] theorem State.laterCount_els (t r k lo n v : Nat) :
    (s.later t r (.count k lo n v)).els = s.els := by rw [State.laterCount_form]
@[simp] theorem State.laterCount_radio (t r k lo n v : Nat) :
    (s.later t r (.count k lo n v)).radio = s.radio := by rw [State.laterCount_form]
@[simp] theorem State.laterCount_code (t r k lo n v : Nat) :
    (s.later t r (.count k lo n v)).code = s.code := by rw [State.laterCount_form]
@[simp] theorem State.laterCount_train (t r k lo n v : Nat) :
    (s.later t r (.count k lo n v)).train = s.train := by rw [State.laterCount_form]
@[simp] theorem State.laterCount_net (t r k lo n v : Nat) :
    (s.later t r (.count k lo n v)).net = s.net := by rw [State.laterCount_form]
@[simp] theorem State.laterCount_time (t r k lo n v : Nat) :
    (s.later t r (.count k lo n v)).time = s.time := by rw [State.laterCount_form]
@[simp] theorem State.laterCount_twin (t r k lo n v : Nat) :
    (s.later t r (.count k lo n v)).twin = s.twin := by rw [State.laterCount_form]
@[simp] theorem State.laterCount_power (t r k lo n v : Nat) :
    (s.later t r (.count k lo n v)).power = s.power := by rw [State.laterCount_form]
@[simp] theorem State.laterCount_start (t r k lo n v : Nat) :
    (s.later t r (.count k lo n v)).start = s.start := by rw [State.laterCount_form]
@[simp] theorem State.laterCount_sec (t r k lo n v : Nat) :
    (s.later t r (.count k lo n v)).sec = s.sec := by rw [State.laterCount_form]
@[simp] theorem State.laterCount_seq (t r k lo n v : Nat) :
    (s.later t r (.count k lo n v)).seq = s.seq := by rw [State.laterCount_form]
@[simp] theorem State.laterCount_i3c (t r k lo n v : Nat) :
    (s.later t r (.count k lo n v)).i3c = s.i3c := by rw [State.laterCount_form]
@[simp] theorem State.laterCount_test (t r k lo n v : Nat) :
    (s.later t r (.count k lo n v)).test = s.test := by rw [State.laterCount_form]
@[simp] theorem State.laterCount_pins (t r k lo n v : Nat) :
    (s.later t r (.count k lo n v)).pins = s.pins := by rw [State.laterCount_form]
@[simp] theorem State.laterCount_free (t r k lo n v : Nat) :
    (s.later t r (.count k lo n v)).free = s.free := by rw [State.laterCount_form]
@[simp] theorem State.laterCount_drawn (t r k lo n v : Nat) :
    (s.later t r (.count k lo n v)).drawn = s.drawn := by rw [State.laterCount_form]

/-- A latch in a cycle changes registers, at once or when its cycle is over. -/
theorem State.laterLatch_form (t r k i : Nat) (vs : List (Nat × Word)) :
    s.later t r (.latch k i vs) = { s with
      regs := (s.later t r (.latch k i vs)).regs, due := (s.later t r (.latch k i vs)).due } := by
  apply State.only_regs_due
  all_goals
    unfold State.later State.apply
    split
    · dsimp only
      split
      · rfl
      · exact (foldl_keeps _ (fun a b => by simp) vs _)
    · rfl

@[simp] theorem State.laterLatch_pending (t r k i : Nat) (vs : List (Nat × Word)) :
    (s.later t r (.latch k i vs)).pending = s.pending := by rw [State.laterLatch_form]
@[simp] theorem State.laterLatch_clock (t r k i : Nat) (vs : List (Nat × Word)) :
    (s.later t r (.latch k i vs)).clock = s.clock := by rw [State.laterLatch_form]
@[simp] theorem State.laterLatch_commit (t r k i : Nat) (vs : List (Nat × Word)) :
    (s.later t r (.latch k i vs)).commit = s.commit := by rw [State.laterLatch_form]
@[simp] theorem State.laterLatch_chans (t r k i : Nat) (vs : List (Nat × Word)) :
    (s.later t r (.latch k i vs)).chans = s.chans := by rw [State.laterLatch_form]
@[simp] theorem State.laterLatch_taps (t r k i : Nat) (vs : List (Nat × Word)) :
    (s.later t r (.latch k i vs)).taps = s.taps := by rw [State.laterLatch_form]
@[simp] theorem State.laterLatch_spine (t r k i : Nat) (vs : List (Nat × Word)) :
    (s.later t r (.latch k i vs)).spine = s.spine := by rw [State.laterLatch_form]
@[simp] theorem State.laterLatch_faults (t r k i : Nat) (vs : List (Nat × Word)) :
    (s.later t r (.latch k i vs)).faults = s.faults := by rw [State.laterLatch_form]
@[simp] theorem State.laterLatch_ledger (t r k i : Nat) (vs : List (Nat × Word)) :
    (s.later t r (.latch k i vs)).ledger = s.ledger := by rw [State.laterLatch_form]
@[simp] theorem State.laterLatch_mem (t r k i : Nat) (vs : List (Nat × Word)) :
    (s.later t r (.latch k i vs)).mem = s.mem := by rw [State.laterLatch_form]
@[simp] theorem State.laterLatch_hbm (t r k i : Nat) (vs : List (Nat × Word)) :
    (s.later t r (.latch k i vs)).hbm = s.hbm := by rw [State.laterLatch_form]
@[simp] theorem State.laterLatch_ladles (t r k i : Nat) (vs : List (Nat × Word)) :
    (s.later t r (.latch k i vs)).ladles = s.ladles := by rw [State.laterLatch_form]
@[simp] theorem State.laterLatch_running (t r k i : Nat) (vs : List (Nat × Word)) :
    (s.later t r (.latch k i vs)).running = s.running := by rw [State.laterLatch_form]
@[simp] theorem State.laterLatch_signals (t r k i : Nat) (vs : List (Nat × Word)) :
    (s.later t r (.latch k i vs)).signals = s.signals := by rw [State.laterLatch_form]
@[simp] theorem State.laterLatch_anvils (t r k i : Nat) (vs : List (Nat × Word)) :
    (s.later t r (.latch k i vs)).anvils = s.anvils := by rw [State.laterLatch_form]
@[simp] theorem State.laterLatch_slicers (t r k i : Nat) (vs : List (Nat × Word)) :
    (s.later t r (.latch k i vs)).slicers = s.slicers := by rw [State.laterLatch_form]
@[simp] theorem State.laterLatch_swages (t r k i : Nat) (vs : List (Nat × Word)) :
    (s.later t r (.latch k i vs)).swages = s.swages := by rw [State.laterLatch_form]
@[simp] theorem State.laterLatch_crucibles (t r k i : Nat) (vs : List (Nat × Word)) :
    (s.later t r (.latch k i vs)).crucibles = s.crucibles := by rw [State.laterLatch_form]
@[simp] theorem State.laterLatch_planishers (t r k i : Nat) (vs : List (Nat × Word)) :
    (s.later t r (.latch k i vs)).planishers = s.planishers := by rw [State.laterLatch_form]
@[simp] theorem State.laterLatch_tinkers (t r k i : Nat) (vs : List (Nat × Word)) :
    (s.later t r (.latch k i vs)).tinkers = s.tinkers := by rw [State.laterLatch_form]
@[simp] theorem State.laterLatch_plan (t r k i : Nat) (vs : List (Nat × Word)) :
    (s.later t r (.latch k i vs)).plan = s.plan := by rw [State.laterLatch_form]
@[simp] theorem State.laterLatch_els (t r k i : Nat) (vs : List (Nat × Word)) :
    (s.later t r (.latch k i vs)).els = s.els := by rw [State.laterLatch_form]
@[simp] theorem State.laterLatch_radio (t r k i : Nat) (vs : List (Nat × Word)) :
    (s.later t r (.latch k i vs)).radio = s.radio := by rw [State.laterLatch_form]
@[simp] theorem State.laterLatch_code (t r k i : Nat) (vs : List (Nat × Word)) :
    (s.later t r (.latch k i vs)).code = s.code := by rw [State.laterLatch_form]
@[simp] theorem State.laterLatch_train (t r k i : Nat) (vs : List (Nat × Word)) :
    (s.later t r (.latch k i vs)).train = s.train := by rw [State.laterLatch_form]
@[simp] theorem State.laterLatch_net (t r k i : Nat) (vs : List (Nat × Word)) :
    (s.later t r (.latch k i vs)).net = s.net := by rw [State.laterLatch_form]
@[simp] theorem State.laterLatch_time (t r k i : Nat) (vs : List (Nat × Word)) :
    (s.later t r (.latch k i vs)).time = s.time := by rw [State.laterLatch_form]
@[simp] theorem State.laterLatch_twin (t r k i : Nat) (vs : List (Nat × Word)) :
    (s.later t r (.latch k i vs)).twin = s.twin := by rw [State.laterLatch_form]
@[simp] theorem State.laterLatch_power (t r k i : Nat) (vs : List (Nat × Word)) :
    (s.later t r (.latch k i vs)).power = s.power := by rw [State.laterLatch_form]
@[simp] theorem State.laterLatch_start (t r k i : Nat) (vs : List (Nat × Word)) :
    (s.later t r (.latch k i vs)).start = s.start := by rw [State.laterLatch_form]
@[simp] theorem State.laterLatch_sec (t r k i : Nat) (vs : List (Nat × Word)) :
    (s.later t r (.latch k i vs)).sec = s.sec := by rw [State.laterLatch_form]
@[simp] theorem State.laterLatch_seq (t r k i : Nat) (vs : List (Nat × Word)) :
    (s.later t r (.latch k i vs)).seq = s.seq := by rw [State.laterLatch_form]
@[simp] theorem State.laterLatch_i3c (t r k i : Nat) (vs : List (Nat × Word)) :
    (s.later t r (.latch k i vs)).i3c = s.i3c := by rw [State.laterLatch_form]
@[simp] theorem State.laterLatch_test (t r k i : Nat) (vs : List (Nat × Word)) :
    (s.later t r (.latch k i vs)).test = s.test := by rw [State.laterLatch_form]
@[simp] theorem State.laterLatch_pins (t r k i : Nat) (vs : List (Nat × Word)) :
    (s.later t r (.latch k i vs)).pins = s.pins := by rw [State.laterLatch_form]
@[simp] theorem State.laterLatch_free (t r k i : Nat) (vs : List (Nat × Word)) :
    (s.later t r (.latch k i vs)).free = s.free := by rw [State.laterLatch_form]
@[simp] theorem State.laterLatch_drawn (t r k i : Nat) (vs : List (Nat × Word)) :
    (s.later t r (.latch k i vs)).drawn = s.drawn := by rw [State.laterLatch_form]

/-- A state that agrees with `s` but in `regs`, `faults`, `pins`, `due`. -/
theorem State.only_regs_faults_pins_due {s t : State}
    (h_pending : t.pending = s.pending)
    (h_clock : t.clock = s.clock)
    (h_commit : t.commit = s.commit)
    (h_chans : t.chans = s.chans)
    (h_taps : t.taps = s.taps)
    (h_spine : t.spine = s.spine)
    (h_ledger : t.ledger = s.ledger)
    (h_mem : t.mem = s.mem)
    (h_hbm : t.hbm = s.hbm)
    (h_ladles : t.ladles = s.ladles)
    (h_running : t.running = s.running)
    (h_signals : t.signals = s.signals)
    (h_anvils : t.anvils = s.anvils)
    (h_slicers : t.slicers = s.slicers)
    (h_swages : t.swages = s.swages)
    (h_crucibles : t.crucibles = s.crucibles)
    (h_planishers : t.planishers = s.planishers)
    (h_tinkers : t.tinkers = s.tinkers)
    (h_plan : t.plan = s.plan)
    (h_els : t.els = s.els)
    (h_radio : t.radio = s.radio)
    (h_code : t.code = s.code)
    (h_train : t.train = s.train)
    (h_net : t.net = s.net)
    (h_time : t.time = s.time)
    (h_twin : t.twin = s.twin)
    (h_power : t.power = s.power)
    (h_start : t.start = s.start)
    (h_sec : t.sec = s.sec)
    (h_seq : t.seq = s.seq)
    (h_i3c : t.i3c = s.i3c)
    (h_test : t.test = s.test)
    (h_free : t.free = s.free)
    (h_drawn : t.drawn = s.drawn) :
    t = { s with regs := t.regs, faults := t.faults, pins := t.pins, due := t.due } := by
  cases s; cases t; simp_all only

/-- A record in a cycle changes what a fault changes, at once or when its cycle is over. -/
theorem State.laterRecord_form (t r code : Nat) (c : FaultClass) (loc : BitVec 64) (d0 d1 : Nat) :
    s.later t r (.record code c loc d0 d1) = { s with
      regs := (s.later t r (.record code c loc d0 d1)).regs, faults := (s.later t r (.record code c loc d0 d1)).faults, pins := (s.later t r (.record code c loc d0 d1)).pins, due := (s.later t r (.record code c loc d0 d1)).due } := by
  apply State.only_regs_faults_pins_due
  all_goals
    unfold State.later State.apply
    split
    all_goals simp

@[simp] theorem State.laterRecord_pending (t r code : Nat) (c : FaultClass) (loc : BitVec 64) (d0 d1 : Nat) :
    (s.later t r (.record code c loc d0 d1)).pending = s.pending := by rw [State.laterRecord_form]
@[simp] theorem State.laterRecord_clock (t r code : Nat) (c : FaultClass) (loc : BitVec 64) (d0 d1 : Nat) :
    (s.later t r (.record code c loc d0 d1)).clock = s.clock := by rw [State.laterRecord_form]
@[simp] theorem State.laterRecord_commit (t r code : Nat) (c : FaultClass) (loc : BitVec 64) (d0 d1 : Nat) :
    (s.later t r (.record code c loc d0 d1)).commit = s.commit := by rw [State.laterRecord_form]
@[simp] theorem State.laterRecord_chans (t r code : Nat) (c : FaultClass) (loc : BitVec 64) (d0 d1 : Nat) :
    (s.later t r (.record code c loc d0 d1)).chans = s.chans := by rw [State.laterRecord_form]
@[simp] theorem State.laterRecord_taps (t r code : Nat) (c : FaultClass) (loc : BitVec 64) (d0 d1 : Nat) :
    (s.later t r (.record code c loc d0 d1)).taps = s.taps := by rw [State.laterRecord_form]
@[simp] theorem State.laterRecord_spine (t r code : Nat) (c : FaultClass) (loc : BitVec 64) (d0 d1 : Nat) :
    (s.later t r (.record code c loc d0 d1)).spine = s.spine := by rw [State.laterRecord_form]
@[simp] theorem State.laterRecord_ledger (t r code : Nat) (c : FaultClass) (loc : BitVec 64) (d0 d1 : Nat) :
    (s.later t r (.record code c loc d0 d1)).ledger = s.ledger := by rw [State.laterRecord_form]
@[simp] theorem State.laterRecord_mem (t r code : Nat) (c : FaultClass) (loc : BitVec 64) (d0 d1 : Nat) :
    (s.later t r (.record code c loc d0 d1)).mem = s.mem := by rw [State.laterRecord_form]
@[simp] theorem State.laterRecord_hbm (t r code : Nat) (c : FaultClass) (loc : BitVec 64) (d0 d1 : Nat) :
    (s.later t r (.record code c loc d0 d1)).hbm = s.hbm := by rw [State.laterRecord_form]
@[simp] theorem State.laterRecord_ladles (t r code : Nat) (c : FaultClass) (loc : BitVec 64) (d0 d1 : Nat) :
    (s.later t r (.record code c loc d0 d1)).ladles = s.ladles := by rw [State.laterRecord_form]
@[simp] theorem State.laterRecord_running (t r code : Nat) (c : FaultClass) (loc : BitVec 64) (d0 d1 : Nat) :
    (s.later t r (.record code c loc d0 d1)).running = s.running := by rw [State.laterRecord_form]
@[simp] theorem State.laterRecord_signals (t r code : Nat) (c : FaultClass) (loc : BitVec 64) (d0 d1 : Nat) :
    (s.later t r (.record code c loc d0 d1)).signals = s.signals := by rw [State.laterRecord_form]
@[simp] theorem State.laterRecord_anvils (t r code : Nat) (c : FaultClass) (loc : BitVec 64) (d0 d1 : Nat) :
    (s.later t r (.record code c loc d0 d1)).anvils = s.anvils := by rw [State.laterRecord_form]
@[simp] theorem State.laterRecord_slicers (t r code : Nat) (c : FaultClass) (loc : BitVec 64) (d0 d1 : Nat) :
    (s.later t r (.record code c loc d0 d1)).slicers = s.slicers := by rw [State.laterRecord_form]
@[simp] theorem State.laterRecord_swages (t r code : Nat) (c : FaultClass) (loc : BitVec 64) (d0 d1 : Nat) :
    (s.later t r (.record code c loc d0 d1)).swages = s.swages := by rw [State.laterRecord_form]
@[simp] theorem State.laterRecord_crucibles (t r code : Nat) (c : FaultClass) (loc : BitVec 64) (d0 d1 : Nat) :
    (s.later t r (.record code c loc d0 d1)).crucibles = s.crucibles := by rw [State.laterRecord_form]
@[simp] theorem State.laterRecord_planishers (t r code : Nat) (c : FaultClass) (loc : BitVec 64) (d0 d1 : Nat) :
    (s.later t r (.record code c loc d0 d1)).planishers = s.planishers := by rw [State.laterRecord_form]
@[simp] theorem State.laterRecord_tinkers (t r code : Nat) (c : FaultClass) (loc : BitVec 64) (d0 d1 : Nat) :
    (s.later t r (.record code c loc d0 d1)).tinkers = s.tinkers := by rw [State.laterRecord_form]
@[simp] theorem State.laterRecord_plan (t r code : Nat) (c : FaultClass) (loc : BitVec 64) (d0 d1 : Nat) :
    (s.later t r (.record code c loc d0 d1)).plan = s.plan := by rw [State.laterRecord_form]
@[simp] theorem State.laterRecord_els (t r code : Nat) (c : FaultClass) (loc : BitVec 64) (d0 d1 : Nat) :
    (s.later t r (.record code c loc d0 d1)).els = s.els := by rw [State.laterRecord_form]
@[simp] theorem State.laterRecord_radio (t r code : Nat) (c : FaultClass) (loc : BitVec 64) (d0 d1 : Nat) :
    (s.later t r (.record code c loc d0 d1)).radio = s.radio := by rw [State.laterRecord_form]
@[simp] theorem State.laterRecord_code (t r code : Nat) (c : FaultClass) (loc : BitVec 64) (d0 d1 : Nat) :
    (s.later t r (.record code c loc d0 d1)).code = s.code := by rw [State.laterRecord_form]
@[simp] theorem State.laterRecord_train (t r code : Nat) (c : FaultClass) (loc : BitVec 64) (d0 d1 : Nat) :
    (s.later t r (.record code c loc d0 d1)).train = s.train := by rw [State.laterRecord_form]
@[simp] theorem State.laterRecord_net (t r code : Nat) (c : FaultClass) (loc : BitVec 64) (d0 d1 : Nat) :
    (s.later t r (.record code c loc d0 d1)).net = s.net := by rw [State.laterRecord_form]
@[simp] theorem State.laterRecord_time (t r code : Nat) (c : FaultClass) (loc : BitVec 64) (d0 d1 : Nat) :
    (s.later t r (.record code c loc d0 d1)).time = s.time := by rw [State.laterRecord_form]
@[simp] theorem State.laterRecord_twin (t r code : Nat) (c : FaultClass) (loc : BitVec 64) (d0 d1 : Nat) :
    (s.later t r (.record code c loc d0 d1)).twin = s.twin := by rw [State.laterRecord_form]
@[simp] theorem State.laterRecord_power (t r code : Nat) (c : FaultClass) (loc : BitVec 64) (d0 d1 : Nat) :
    (s.later t r (.record code c loc d0 d1)).power = s.power := by rw [State.laterRecord_form]
@[simp] theorem State.laterRecord_start (t r code : Nat) (c : FaultClass) (loc : BitVec 64) (d0 d1 : Nat) :
    (s.later t r (.record code c loc d0 d1)).start = s.start := by rw [State.laterRecord_form]
@[simp] theorem State.laterRecord_sec (t r code : Nat) (c : FaultClass) (loc : BitVec 64) (d0 d1 : Nat) :
    (s.later t r (.record code c loc d0 d1)).sec = s.sec := by rw [State.laterRecord_form]
@[simp] theorem State.laterRecord_seq (t r code : Nat) (c : FaultClass) (loc : BitVec 64) (d0 d1 : Nat) :
    (s.later t r (.record code c loc d0 d1)).seq = s.seq := by rw [State.laterRecord_form]
@[simp] theorem State.laterRecord_i3c (t r code : Nat) (c : FaultClass) (loc : BitVec 64) (d0 d1 : Nat) :
    (s.later t r (.record code c loc d0 d1)).i3c = s.i3c := by rw [State.laterRecord_form]
@[simp] theorem State.laterRecord_test (t r code : Nat) (c : FaultClass) (loc : BitVec 64) (d0 d1 : Nat) :
    (s.later t r (.record code c loc d0 d1)).test = s.test := by rw [State.laterRecord_form]
@[simp] theorem State.laterRecord_free (t r code : Nat) (c : FaultClass) (loc : BitVec 64) (d0 d1 : Nat) :
    (s.later t r (.record code c loc d0 d1)).free = s.free := by rw [State.laterRecord_form]
@[simp] theorem State.laterRecord_drawn (t r code : Nat) (c : FaultClass) (loc : BitVec 64) (d0 d1 : Nat) :
    (s.later t r (.record code c loc d0 d1)).drawn = s.drawn := by rw [State.laterRecord_form]

/-- A timing breach of the data plane counts in registers, in its cycle. -/
theorem State.countBreach_form (r t : Nat) :
    s.countBreach r t = { s with
      regs := (s.countBreach r t).regs, due := (s.countBreach r t).due } := by
  apply State.only_regs_due
  all_goals
    unfold State.countBreach State.laters
    simp only [List.foldl]
    simp

@[simp] theorem State.countBreach_pending (r t : Nat) :
    (s.countBreach r t).pending = s.pending := by rw [State.countBreach_form]
@[simp] theorem State.countBreach_clock (r t : Nat) :
    (s.countBreach r t).clock = s.clock := by rw [State.countBreach_form]
@[simp] theorem State.countBreach_commit (r t : Nat) :
    (s.countBreach r t).commit = s.commit := by rw [State.countBreach_form]
@[simp] theorem State.countBreach_chans (r t : Nat) :
    (s.countBreach r t).chans = s.chans := by rw [State.countBreach_form]
@[simp] theorem State.countBreach_taps (r t : Nat) :
    (s.countBreach r t).taps = s.taps := by rw [State.countBreach_form]
@[simp] theorem State.countBreach_spine (r t : Nat) :
    (s.countBreach r t).spine = s.spine := by rw [State.countBreach_form]
@[simp] theorem State.countBreach_faults (r t : Nat) :
    (s.countBreach r t).faults = s.faults := by rw [State.countBreach_form]
@[simp] theorem State.countBreach_ledger (r t : Nat) :
    (s.countBreach r t).ledger = s.ledger := by rw [State.countBreach_form]
@[simp] theorem State.countBreach_mem (r t : Nat) :
    (s.countBreach r t).mem = s.mem := by rw [State.countBreach_form]
@[simp] theorem State.countBreach_hbm (r t : Nat) :
    (s.countBreach r t).hbm = s.hbm := by rw [State.countBreach_form]
@[simp] theorem State.countBreach_ladles (r t : Nat) :
    (s.countBreach r t).ladles = s.ladles := by rw [State.countBreach_form]
@[simp] theorem State.countBreach_running (r t : Nat) :
    (s.countBreach r t).running = s.running := by rw [State.countBreach_form]
@[simp] theorem State.countBreach_signals (r t : Nat) :
    (s.countBreach r t).signals = s.signals := by rw [State.countBreach_form]
@[simp] theorem State.countBreach_anvils (r t : Nat) :
    (s.countBreach r t).anvils = s.anvils := by rw [State.countBreach_form]
@[simp] theorem State.countBreach_slicers (r t : Nat) :
    (s.countBreach r t).slicers = s.slicers := by rw [State.countBreach_form]
@[simp] theorem State.countBreach_swages (r t : Nat) :
    (s.countBreach r t).swages = s.swages := by rw [State.countBreach_form]
@[simp] theorem State.countBreach_crucibles (r t : Nat) :
    (s.countBreach r t).crucibles = s.crucibles := by rw [State.countBreach_form]
@[simp] theorem State.countBreach_planishers (r t : Nat) :
    (s.countBreach r t).planishers = s.planishers := by rw [State.countBreach_form]
@[simp] theorem State.countBreach_tinkers (r t : Nat) :
    (s.countBreach r t).tinkers = s.tinkers := by rw [State.countBreach_form]
@[simp] theorem State.countBreach_plan (r t : Nat) :
    (s.countBreach r t).plan = s.plan := by rw [State.countBreach_form]
@[simp] theorem State.countBreach_els (r t : Nat) :
    (s.countBreach r t).els = s.els := by rw [State.countBreach_form]
@[simp] theorem State.countBreach_radio (r t : Nat) :
    (s.countBreach r t).radio = s.radio := by rw [State.countBreach_form]
@[simp] theorem State.countBreach_code (r t : Nat) :
    (s.countBreach r t).code = s.code := by rw [State.countBreach_form]
@[simp] theorem State.countBreach_train (r t : Nat) :
    (s.countBreach r t).train = s.train := by rw [State.countBreach_form]
@[simp] theorem State.countBreach_net (r t : Nat) :
    (s.countBreach r t).net = s.net := by rw [State.countBreach_form]
@[simp] theorem State.countBreach_time (r t : Nat) :
    (s.countBreach r t).time = s.time := by rw [State.countBreach_form]
@[simp] theorem State.countBreach_twin (r t : Nat) :
    (s.countBreach r t).twin = s.twin := by rw [State.countBreach_form]
@[simp] theorem State.countBreach_power (r t : Nat) :
    (s.countBreach r t).power = s.power := by rw [State.countBreach_form]
@[simp] theorem State.countBreach_start (r t : Nat) :
    (s.countBreach r t).start = s.start := by rw [State.countBreach_form]
@[simp] theorem State.countBreach_sec (r t : Nat) :
    (s.countBreach r t).sec = s.sec := by rw [State.countBreach_form]
@[simp] theorem State.countBreach_seq (r t : Nat) :
    (s.countBreach r t).seq = s.seq := by rw [State.countBreach_form]
@[simp] theorem State.countBreach_i3c (r t : Nat) :
    (s.countBreach r t).i3c = s.i3c := by rw [State.countBreach_form]
@[simp] theorem State.countBreach_test (r t : Nat) :
    (s.countBreach r t).test = s.test := by rw [State.countBreach_form]
@[simp] theorem State.countBreach_pins (r t : Nat) :
    (s.countBreach r t).pins = s.pins := by rw [State.countBreach_form]
@[simp] theorem State.countBreach_free (r t : Nat) :
    (s.countBreach r t).free = s.free := by rw [State.countBreach_form]
@[simp] theorem State.countBreach_drawn (r t : Nat) :
    (s.countBreach r t).drawn = s.drawn := by rw [State.countBreach_form]

/-- A timing breach changes what a fault changes. -/
theorem State.breachAt_form (x : Option Nat) (l : BitVec 64) (w : Word) (p t n : Nat) :
    s.breachAt x l w p t n = { s with
      regs := (s.breachAt x l w p t n).regs, faults := (s.breachAt x l w p t n).faults, pins := (s.breachAt x l w p t n).pins, due := (s.breachAt x l w p t n).due } := by
  apply State.only_regs_faults_pins_due
  all_goals
    unfold State.breachAt; try dsimp only
    repeat' split
    all_goals simp [State.laters]

@[simp] theorem State.breachAt_pending (x : Option Nat) (l : BitVec 64) (w : Word) (p t n : Nat) :
    (s.breachAt x l w p t n).pending = s.pending := by rw [State.breachAt_form]
@[simp] theorem State.breachAt_clock (x : Option Nat) (l : BitVec 64) (w : Word) (p t n : Nat) :
    (s.breachAt x l w p t n).clock = s.clock := by rw [State.breachAt_form]
@[simp] theorem State.breachAt_commit (x : Option Nat) (l : BitVec 64) (w : Word) (p t n : Nat) :
    (s.breachAt x l w p t n).commit = s.commit := by rw [State.breachAt_form]
@[simp] theorem State.breachAt_chans (x : Option Nat) (l : BitVec 64) (w : Word) (p t n : Nat) :
    (s.breachAt x l w p t n).chans = s.chans := by rw [State.breachAt_form]
@[simp] theorem State.breachAt_taps (x : Option Nat) (l : BitVec 64) (w : Word) (p t n : Nat) :
    (s.breachAt x l w p t n).taps = s.taps := by rw [State.breachAt_form]
@[simp] theorem State.breachAt_spine (x : Option Nat) (l : BitVec 64) (w : Word) (p t n : Nat) :
    (s.breachAt x l w p t n).spine = s.spine := by rw [State.breachAt_form]
@[simp] theorem State.breachAt_ledger (x : Option Nat) (l : BitVec 64) (w : Word) (p t n : Nat) :
    (s.breachAt x l w p t n).ledger = s.ledger := by rw [State.breachAt_form]
@[simp] theorem State.breachAt_mem (x : Option Nat) (l : BitVec 64) (w : Word) (p t n : Nat) :
    (s.breachAt x l w p t n).mem = s.mem := by rw [State.breachAt_form]
@[simp] theorem State.breachAt_hbm (x : Option Nat) (l : BitVec 64) (w : Word) (p t n : Nat) :
    (s.breachAt x l w p t n).hbm = s.hbm := by rw [State.breachAt_form]
@[simp] theorem State.breachAt_ladles (x : Option Nat) (l : BitVec 64) (w : Word) (p t n : Nat) :
    (s.breachAt x l w p t n).ladles = s.ladles := by rw [State.breachAt_form]
@[simp] theorem State.breachAt_running (x : Option Nat) (l : BitVec 64) (w : Word) (p t n : Nat) :
    (s.breachAt x l w p t n).running = s.running := by rw [State.breachAt_form]
@[simp] theorem State.breachAt_signals (x : Option Nat) (l : BitVec 64) (w : Word) (p t n : Nat) :
    (s.breachAt x l w p t n).signals = s.signals := by rw [State.breachAt_form]
@[simp] theorem State.breachAt_anvils (x : Option Nat) (l : BitVec 64) (w : Word) (p t n : Nat) :
    (s.breachAt x l w p t n).anvils = s.anvils := by rw [State.breachAt_form]
@[simp] theorem State.breachAt_slicers (x : Option Nat) (l : BitVec 64) (w : Word) (p t n : Nat) :
    (s.breachAt x l w p t n).slicers = s.slicers := by rw [State.breachAt_form]
@[simp] theorem State.breachAt_swages (x : Option Nat) (l : BitVec 64) (w : Word) (p t n : Nat) :
    (s.breachAt x l w p t n).swages = s.swages := by rw [State.breachAt_form]
@[simp] theorem State.breachAt_crucibles (x : Option Nat) (l : BitVec 64) (w : Word) (p t n : Nat) :
    (s.breachAt x l w p t n).crucibles = s.crucibles := by rw [State.breachAt_form]
@[simp] theorem State.breachAt_planishers (x : Option Nat) (l : BitVec 64) (w : Word) (p t n : Nat) :
    (s.breachAt x l w p t n).planishers = s.planishers := by rw [State.breachAt_form]
@[simp] theorem State.breachAt_tinkers (x : Option Nat) (l : BitVec 64) (w : Word) (p t n : Nat) :
    (s.breachAt x l w p t n).tinkers = s.tinkers := by rw [State.breachAt_form]
@[simp] theorem State.breachAt_plan (x : Option Nat) (l : BitVec 64) (w : Word) (p t n : Nat) :
    (s.breachAt x l w p t n).plan = s.plan := by rw [State.breachAt_form]
@[simp] theorem State.breachAt_els (x : Option Nat) (l : BitVec 64) (w : Word) (p t n : Nat) :
    (s.breachAt x l w p t n).els = s.els := by rw [State.breachAt_form]
@[simp] theorem State.breachAt_radio (x : Option Nat) (l : BitVec 64) (w : Word) (p t n : Nat) :
    (s.breachAt x l w p t n).radio = s.radio := by rw [State.breachAt_form]
@[simp] theorem State.breachAt_code (x : Option Nat) (l : BitVec 64) (w : Word) (p t n : Nat) :
    (s.breachAt x l w p t n).code = s.code := by rw [State.breachAt_form]
@[simp] theorem State.breachAt_train (x : Option Nat) (l : BitVec 64) (w : Word) (p t n : Nat) :
    (s.breachAt x l w p t n).train = s.train := by rw [State.breachAt_form]
@[simp] theorem State.breachAt_net (x : Option Nat) (l : BitVec 64) (w : Word) (p t n : Nat) :
    (s.breachAt x l w p t n).net = s.net := by rw [State.breachAt_form]
@[simp] theorem State.breachAt_time (x : Option Nat) (l : BitVec 64) (w : Word) (p t n : Nat) :
    (s.breachAt x l w p t n).time = s.time := by rw [State.breachAt_form]
@[simp] theorem State.breachAt_twin (x : Option Nat) (l : BitVec 64) (w : Word) (p t n : Nat) :
    (s.breachAt x l w p t n).twin = s.twin := by rw [State.breachAt_form]
@[simp] theorem State.breachAt_power (x : Option Nat) (l : BitVec 64) (w : Word) (p t n : Nat) :
    (s.breachAt x l w p t n).power = s.power := by rw [State.breachAt_form]
@[simp] theorem State.breachAt_start (x : Option Nat) (l : BitVec 64) (w : Word) (p t n : Nat) :
    (s.breachAt x l w p t n).start = s.start := by rw [State.breachAt_form]
@[simp] theorem State.breachAt_sec (x : Option Nat) (l : BitVec 64) (w : Word) (p t n : Nat) :
    (s.breachAt x l w p t n).sec = s.sec := by rw [State.breachAt_form]
@[simp] theorem State.breachAt_seq (x : Option Nat) (l : BitVec 64) (w : Word) (p t n : Nat) :
    (s.breachAt x l w p t n).seq = s.seq := by rw [State.breachAt_form]
@[simp] theorem State.breachAt_i3c (x : Option Nat) (l : BitVec 64) (w : Word) (p t n : Nat) :
    (s.breachAt x l w p t n).i3c = s.i3c := by rw [State.breachAt_form]
@[simp] theorem State.breachAt_test (x : Option Nat) (l : BitVec 64) (w : Word) (p t n : Nat) :
    (s.breachAt x l w p t n).test = s.test := by rw [State.breachAt_form]
@[simp] theorem State.breachAt_free (x : Option Nat) (l : BitVec 64) (w : Word) (p t n : Nat) :
    (s.breachAt x l w p t n).free = s.free := by rw [State.breachAt_form]
@[simp] theorem State.breachAt_drawn (x : Option Nat) (l : BitVec 64) (w : Word) (p t n : Nat) :
    (s.breachAt x l w p t n).drawn = s.drawn := by rw [State.breachAt_form]

/-- Voiding a region's buffers changes the ledger and its count. -/
theorem State.voidRegion_form (r c : Nat) :
    s.voidRegion r c = { s with
      regs := (s.voidRegion r c).regs, ledger := (s.voidRegion r c).ledger } := by
  apply State.only_regs_ledger
  all_goals
    exact foldl_keeps _ (fun a b => by simp) _ _

@[simp] theorem State.voidRegion_pending (r c : Nat) :
    (s.voidRegion r c).pending = s.pending := by rw [State.voidRegion_form]
@[simp] theorem State.voidRegion_clock (r c : Nat) :
    (s.voidRegion r c).clock = s.clock := by rw [State.voidRegion_form]
@[simp] theorem State.voidRegion_commit (r c : Nat) :
    (s.voidRegion r c).commit = s.commit := by rw [State.voidRegion_form]
@[simp] theorem State.voidRegion_chans (r c : Nat) :
    (s.voidRegion r c).chans = s.chans := by rw [State.voidRegion_form]
@[simp] theorem State.voidRegion_taps (r c : Nat) :
    (s.voidRegion r c).taps = s.taps := by rw [State.voidRegion_form]
@[simp] theorem State.voidRegion_due (r c : Nat) :
    (s.voidRegion r c).due = s.due := by rw [State.voidRegion_form]
@[simp] theorem State.voidRegion_spine (r c : Nat) :
    (s.voidRegion r c).spine = s.spine := by rw [State.voidRegion_form]
@[simp] theorem State.voidRegion_faults (r c : Nat) :
    (s.voidRegion r c).faults = s.faults := by rw [State.voidRegion_form]
@[simp] theorem State.voidRegion_mem (r c : Nat) :
    (s.voidRegion r c).mem = s.mem := by rw [State.voidRegion_form]
@[simp] theorem State.voidRegion_hbm (r c : Nat) :
    (s.voidRegion r c).hbm = s.hbm := by rw [State.voidRegion_form]
@[simp] theorem State.voidRegion_ladles (r c : Nat) :
    (s.voidRegion r c).ladles = s.ladles := by rw [State.voidRegion_form]
@[simp] theorem State.voidRegion_running (r c : Nat) :
    (s.voidRegion r c).running = s.running := by rw [State.voidRegion_form]
@[simp] theorem State.voidRegion_signals (r c : Nat) :
    (s.voidRegion r c).signals = s.signals := by rw [State.voidRegion_form]
@[simp] theorem State.voidRegion_anvils (r c : Nat) :
    (s.voidRegion r c).anvils = s.anvils := by rw [State.voidRegion_form]
@[simp] theorem State.voidRegion_slicers (r c : Nat) :
    (s.voidRegion r c).slicers = s.slicers := by rw [State.voidRegion_form]
@[simp] theorem State.voidRegion_swages (r c : Nat) :
    (s.voidRegion r c).swages = s.swages := by rw [State.voidRegion_form]
@[simp] theorem State.voidRegion_crucibles (r c : Nat) :
    (s.voidRegion r c).crucibles = s.crucibles := by rw [State.voidRegion_form]
@[simp] theorem State.voidRegion_planishers (r c : Nat) :
    (s.voidRegion r c).planishers = s.planishers := by rw [State.voidRegion_form]
@[simp] theorem State.voidRegion_tinkers (r c : Nat) :
    (s.voidRegion r c).tinkers = s.tinkers := by rw [State.voidRegion_form]
@[simp] theorem State.voidRegion_plan (r c : Nat) :
    (s.voidRegion r c).plan = s.plan := by rw [State.voidRegion_form]
@[simp] theorem State.voidRegion_els (r c : Nat) :
    (s.voidRegion r c).els = s.els := by rw [State.voidRegion_form]
@[simp] theorem State.voidRegion_radio (r c : Nat) :
    (s.voidRegion r c).radio = s.radio := by rw [State.voidRegion_form]
@[simp] theorem State.voidRegion_code (r c : Nat) :
    (s.voidRegion r c).code = s.code := by rw [State.voidRegion_form]
@[simp] theorem State.voidRegion_train (r c : Nat) :
    (s.voidRegion r c).train = s.train := by rw [State.voidRegion_form]
@[simp] theorem State.voidRegion_net (r c : Nat) :
    (s.voidRegion r c).net = s.net := by rw [State.voidRegion_form]
@[simp] theorem State.voidRegion_time (r c : Nat) :
    (s.voidRegion r c).time = s.time := by rw [State.voidRegion_form]
@[simp] theorem State.voidRegion_twin (r c : Nat) :
    (s.voidRegion r c).twin = s.twin := by rw [State.voidRegion_form]
@[simp] theorem State.voidRegion_power (r c : Nat) :
    (s.voidRegion r c).power = s.power := by rw [State.voidRegion_form]
@[simp] theorem State.voidRegion_start (r c : Nat) :
    (s.voidRegion r c).start = s.start := by rw [State.voidRegion_form]
@[simp] theorem State.voidRegion_sec (r c : Nat) :
    (s.voidRegion r c).sec = s.sec := by rw [State.voidRegion_form]
@[simp] theorem State.voidRegion_seq (r c : Nat) :
    (s.voidRegion r c).seq = s.seq := by rw [State.voidRegion_form]
@[simp] theorem State.voidRegion_i3c (r c : Nat) :
    (s.voidRegion r c).i3c = s.i3c := by rw [State.voidRegion_form]
@[simp] theorem State.voidRegion_test (r c : Nat) :
    (s.voidRegion r c).test = s.test := by rw [State.voidRegion_form]
@[simp] theorem State.voidRegion_pins (r c : Nat) :
    (s.voidRegion r c).pins = s.pins := by rw [State.voidRegion_form]
@[simp] theorem State.voidRegion_free (r c : Nat) :
    (s.voidRegion r c).free = s.free := by rw [State.voidRegion_form]
@[simp] theorem State.voidRegion_drawn (r c : Nat) :
    (s.voidRegion r c).drawn = s.drawn := by rw [State.voidRegion_form]

/-- Aborting jobs of contexts changes what aborting one changes. -/
theorem State.abortWhere_form (q : Ctx → Bool) (p : Job → Bool) :
    s.abortWhere q p = { s with
      regs := (s.abortWhere q p).regs, els := (s.abortWhere q p).els, ladles := (s.abortWhere q p).ladles, running := (s.abortWhere q p).running, signals := (s.abortWhere q p).signals, code := (s.abortWhere q p).code } := by
  apply State.only_regs_els_ladles_running_signals_code
  all_goals
    refine foldl_keeps _ (fun a b => ?_) _ _
    split <;> simp

@[simp] theorem State.abortWhere_pending (q : Ctx → Bool) (p : Job → Bool) :
    (s.abortWhere q p).pending = s.pending := by rw [State.abortWhere_form]
@[simp] theorem State.abortWhere_clock (q : Ctx → Bool) (p : Job → Bool) :
    (s.abortWhere q p).clock = s.clock := by rw [State.abortWhere_form]
@[simp] theorem State.abortWhere_commit (q : Ctx → Bool) (p : Job → Bool) :
    (s.abortWhere q p).commit = s.commit := by rw [State.abortWhere_form]
@[simp] theorem State.abortWhere_chans (q : Ctx → Bool) (p : Job → Bool) :
    (s.abortWhere q p).chans = s.chans := by rw [State.abortWhere_form]
@[simp] theorem State.abortWhere_taps (q : Ctx → Bool) (p : Job → Bool) :
    (s.abortWhere q p).taps = s.taps := by rw [State.abortWhere_form]
@[simp] theorem State.abortWhere_due (q : Ctx → Bool) (p : Job → Bool) :
    (s.abortWhere q p).due = s.due := by rw [State.abortWhere_form]
@[simp] theorem State.abortWhere_spine (q : Ctx → Bool) (p : Job → Bool) :
    (s.abortWhere q p).spine = s.spine := by rw [State.abortWhere_form]
@[simp] theorem State.abortWhere_faults (q : Ctx → Bool) (p : Job → Bool) :
    (s.abortWhere q p).faults = s.faults := by rw [State.abortWhere_form]
@[simp] theorem State.abortWhere_ledger (q : Ctx → Bool) (p : Job → Bool) :
    (s.abortWhere q p).ledger = s.ledger := by rw [State.abortWhere_form]
@[simp] theorem State.abortWhere_mem (q : Ctx → Bool) (p : Job → Bool) :
    (s.abortWhere q p).mem = s.mem := by rw [State.abortWhere_form]
@[simp] theorem State.abortWhere_hbm (q : Ctx → Bool) (p : Job → Bool) :
    (s.abortWhere q p).hbm = s.hbm := by rw [State.abortWhere_form]
@[simp] theorem State.abortWhere_anvils (q : Ctx → Bool) (p : Job → Bool) :
    (s.abortWhere q p).anvils = s.anvils := by rw [State.abortWhere_form]
@[simp] theorem State.abortWhere_slicers (q : Ctx → Bool) (p : Job → Bool) :
    (s.abortWhere q p).slicers = s.slicers := by rw [State.abortWhere_form]
@[simp] theorem State.abortWhere_swages (q : Ctx → Bool) (p : Job → Bool) :
    (s.abortWhere q p).swages = s.swages := by rw [State.abortWhere_form]
@[simp] theorem State.abortWhere_crucibles (q : Ctx → Bool) (p : Job → Bool) :
    (s.abortWhere q p).crucibles = s.crucibles := by rw [State.abortWhere_form]
@[simp] theorem State.abortWhere_planishers (q : Ctx → Bool) (p : Job → Bool) :
    (s.abortWhere q p).planishers = s.planishers := by rw [State.abortWhere_form]
@[simp] theorem State.abortWhere_tinkers (q : Ctx → Bool) (p : Job → Bool) :
    (s.abortWhere q p).tinkers = s.tinkers := by rw [State.abortWhere_form]
@[simp] theorem State.abortWhere_plan (q : Ctx → Bool) (p : Job → Bool) :
    (s.abortWhere q p).plan = s.plan := by rw [State.abortWhere_form]
@[simp] theorem State.abortWhere_radio (q : Ctx → Bool) (p : Job → Bool) :
    (s.abortWhere q p).radio = s.radio := by rw [State.abortWhere_form]
@[simp] theorem State.abortWhere_train (q : Ctx → Bool) (p : Job → Bool) :
    (s.abortWhere q p).train = s.train := by rw [State.abortWhere_form]
@[simp] theorem State.abortWhere_net (q : Ctx → Bool) (p : Job → Bool) :
    (s.abortWhere q p).net = s.net := by rw [State.abortWhere_form]
@[simp] theorem State.abortWhere_time (q : Ctx → Bool) (p : Job → Bool) :
    (s.abortWhere q p).time = s.time := by rw [State.abortWhere_form]
@[simp] theorem State.abortWhere_twin (q : Ctx → Bool) (p : Job → Bool) :
    (s.abortWhere q p).twin = s.twin := by rw [State.abortWhere_form]
@[simp] theorem State.abortWhere_power (q : Ctx → Bool) (p : Job → Bool) :
    (s.abortWhere q p).power = s.power := by rw [State.abortWhere_form]
@[simp] theorem State.abortWhere_start (q : Ctx → Bool) (p : Job → Bool) :
    (s.abortWhere q p).start = s.start := by rw [State.abortWhere_form]
@[simp] theorem State.abortWhere_sec (q : Ctx → Bool) (p : Job → Bool) :
    (s.abortWhere q p).sec = s.sec := by rw [State.abortWhere_form]
@[simp] theorem State.abortWhere_seq (q : Ctx → Bool) (p : Job → Bool) :
    (s.abortWhere q p).seq = s.seq := by rw [State.abortWhere_form]
@[simp] theorem State.abortWhere_i3c (q : Ctx → Bool) (p : Job → Bool) :
    (s.abortWhere q p).i3c = s.i3c := by rw [State.abortWhere_form]
@[simp] theorem State.abortWhere_test (q : Ctx → Bool) (p : Job → Bool) :
    (s.abortWhere q p).test = s.test := by rw [State.abortWhere_form]
@[simp] theorem State.abortWhere_pins (q : Ctx → Bool) (p : Job → Bool) :
    (s.abortWhere q p).pins = s.pins := by rw [State.abortWhere_form]
@[simp] theorem State.abortWhere_free (q : Ctx → Bool) (p : Job → Bool) :
    (s.abortWhere q p).free = s.free := by rw [State.abortWhere_form]
@[simp] theorem State.abortWhere_drawn (q : Ctx → Bool) (p : Job → Bool) :
    (s.abortWhere q p).drawn = s.drawn := by rw [State.abortWhere_form]

/-- A state that agrees with `s` but in `regs`, `els`, `ladles`, `running`, `signals`, `code`, `ledger`, `due`, `anvils`. -/
theorem State.only_regs_els_ladles_running_signals_code_ledger_due_anvils {s t : State}
    (h_pending : t.pending = s.pending)
    (h_clock : t.clock = s.clock)
    (h_commit : t.commit = s.commit)
    (h_chans : t.chans = s.chans)
    (h_taps : t.taps = s.taps)
    (h_spine : t.spine = s.spine)
    (h_faults : t.faults = s.faults)
    (h_mem : t.mem = s.mem)
    (h_hbm : t.hbm = s.hbm)
    (h_slicers : t.slicers = s.slicers)
    (h_swages : t.swages = s.swages)
    (h_crucibles : t.crucibles = s.crucibles)
    (h_planishers : t.planishers = s.planishers)
    (h_tinkers : t.tinkers = s.tinkers)
    (h_plan : t.plan = s.plan)
    (h_radio : t.radio = s.radio)
    (h_train : t.train = s.train)
    (h_net : t.net = s.net)
    (h_time : t.time = s.time)
    (h_twin : t.twin = s.twin)
    (h_power : t.power = s.power)
    (h_start : t.start = s.start)
    (h_sec : t.sec = s.sec)
    (h_seq : t.seq = s.seq)
    (h_i3c : t.i3c = s.i3c)
    (h_test : t.test = s.test)
    (h_pins : t.pins = s.pins)
    (h_free : t.free = s.free)
    (h_drawn : t.drawn = s.drawn) :
    t = { s with regs := t.regs, els := t.els, ladles := t.ladles, running := t.running, signals := t.signals, code := t.code, ledger := t.ledger, due := t.due, anvils := t.anvils } := by
  cases s; cases t; simp_all only

/-- Closing a gate changes the region's streams, commands, tiles and buffers and its contexts' jobs. -/
theorem State.closeGate_form (r c : Nat) :
    s.closeGate r c = { s with
      regs := (s.closeGate r c).regs, els := (s.closeGate r c).els, ladles := (s.closeGate r c).ladles, running := (s.closeGate r c).running, signals := (s.closeGate r c).signals, code := (s.closeGate r c).code, ledger := (s.closeGate r c).ledger, due := (s.closeGate r c).due, anvils := (s.closeGate r c).anvils } := by
  apply State.only_regs_els_ladles_running_signals_code_ledger_due_anvils
  all_goals
    unfold State.closeGate; dsimp only; simp

@[simp] theorem State.closeGate_pending (r c : Nat) :
    (s.closeGate r c).pending = s.pending := by rw [State.closeGate_form]
@[simp] theorem State.closeGate_clock (r c : Nat) :
    (s.closeGate r c).clock = s.clock := by rw [State.closeGate_form]
@[simp] theorem State.closeGate_commit (r c : Nat) :
    (s.closeGate r c).commit = s.commit := by rw [State.closeGate_form]
@[simp] theorem State.closeGate_chans (r c : Nat) :
    (s.closeGate r c).chans = s.chans := by rw [State.closeGate_form]
@[simp] theorem State.closeGate_taps (r c : Nat) :
    (s.closeGate r c).taps = s.taps := by rw [State.closeGate_form]
@[simp] theorem State.closeGate_spine (r c : Nat) :
    (s.closeGate r c).spine = s.spine := by rw [State.closeGate_form]
@[simp] theorem State.closeGate_faults (r c : Nat) :
    (s.closeGate r c).faults = s.faults := by rw [State.closeGate_form]
@[simp] theorem State.closeGate_mem (r c : Nat) :
    (s.closeGate r c).mem = s.mem := by rw [State.closeGate_form]
@[simp] theorem State.closeGate_hbm (r c : Nat) :
    (s.closeGate r c).hbm = s.hbm := by rw [State.closeGate_form]
@[simp] theorem State.closeGate_slicers (r c : Nat) :
    (s.closeGate r c).slicers = s.slicers := by rw [State.closeGate_form]
@[simp] theorem State.closeGate_swages (r c : Nat) :
    (s.closeGate r c).swages = s.swages := by rw [State.closeGate_form]
@[simp] theorem State.closeGate_crucibles (r c : Nat) :
    (s.closeGate r c).crucibles = s.crucibles := by rw [State.closeGate_form]
@[simp] theorem State.closeGate_planishers (r c : Nat) :
    (s.closeGate r c).planishers = s.planishers := by rw [State.closeGate_form]
@[simp] theorem State.closeGate_tinkers (r c : Nat) :
    (s.closeGate r c).tinkers = s.tinkers := by rw [State.closeGate_form]
@[simp] theorem State.closeGate_plan (r c : Nat) :
    (s.closeGate r c).plan = s.plan := by rw [State.closeGate_form]
@[simp] theorem State.closeGate_radio (r c : Nat) :
    (s.closeGate r c).radio = s.radio := by rw [State.closeGate_form]
@[simp] theorem State.closeGate_train (r c : Nat) :
    (s.closeGate r c).train = s.train := by rw [State.closeGate_form]
@[simp] theorem State.closeGate_net (r c : Nat) :
    (s.closeGate r c).net = s.net := by rw [State.closeGate_form]
@[simp] theorem State.closeGate_time (r c : Nat) :
    (s.closeGate r c).time = s.time := by rw [State.closeGate_form]
@[simp] theorem State.closeGate_twin (r c : Nat) :
    (s.closeGate r c).twin = s.twin := by rw [State.closeGate_form]
@[simp] theorem State.closeGate_power (r c : Nat) :
    (s.closeGate r c).power = s.power := by rw [State.closeGate_form]
@[simp] theorem State.closeGate_start (r c : Nat) :
    (s.closeGate r c).start = s.start := by rw [State.closeGate_form]
@[simp] theorem State.closeGate_sec (r c : Nat) :
    (s.closeGate r c).sec = s.sec := by rw [State.closeGate_form]
@[simp] theorem State.closeGate_seq (r c : Nat) :
    (s.closeGate r c).seq = s.seq := by rw [State.closeGate_form]
@[simp] theorem State.closeGate_i3c (r c : Nat) :
    (s.closeGate r c).i3c = s.i3c := by rw [State.closeGate_form]
@[simp] theorem State.closeGate_test (r c : Nat) :
    (s.closeGate r c).test = s.test := by rw [State.closeGate_form]
@[simp] theorem State.closeGate_pins (r c : Nat) :
    (s.closeGate r c).pins = s.pins := by rw [State.closeGate_form]
@[simp] theorem State.closeGate_free (r c : Nat) :
    (s.closeGate r c).free = s.free := by rw [State.closeGate_form]
@[simp] theorem State.closeGate_drawn (r c : Nat) :
    (s.closeGate r c).drawn = s.drawn := by rw [State.closeGate_form]

/-- A state that agrees with `s` but in `regs`, `els`, `ladles`, `running`, `signals`, `code`, `ledger`, `due`, `anvils`, `faults`, `pins`. -/
theorem State.only_regs_els_ladles_running_signals_code_ledger_due_anvils_faults_pins {s t : State}
    (h_pending : t.pending = s.pending)
    (h_clock : t.clock = s.clock)
    (h_commit : t.commit = s.commit)
    (h_chans : t.chans = s.chans)
    (h_taps : t.taps = s.taps)
    (h_spine : t.spine = s.spine)
    (h_mem : t.mem = s.mem)
    (h_hbm : t.hbm = s.hbm)
    (h_slicers : t.slicers = s.slicers)
    (h_swages : t.swages = s.swages)
    (h_crucibles : t.crucibles = s.crucibles)
    (h_planishers : t.planishers = s.planishers)
    (h_tinkers : t.tinkers = s.tinkers)
    (h_plan : t.plan = s.plan)
    (h_radio : t.radio = s.radio)
    (h_train : t.train = s.train)
    (h_net : t.net = s.net)
    (h_time : t.time = s.time)
    (h_twin : t.twin = s.twin)
    (h_power : t.power = s.power)
    (h_start : t.start = s.start)
    (h_sec : t.sec = s.sec)
    (h_seq : t.seq = s.seq)
    (h_i3c : t.i3c = s.i3c)
    (h_test : t.test = s.test)
    (h_free : t.free = s.free)
    (h_drawn : t.drawn = s.drawn) :
    t = { s with regs := t.regs, els := t.els, ladles := t.ladles, running := t.running, signals := t.signals, code := t.code, ledger := t.ledger, due := t.due, anvils := t.anvils, faults := t.faults, pins := t.pins } := by
  cases s; cases t; simp_all only

/-- A fence changes what closing the gate and a fault change. -/
theorem State.fenceFault_form (r c : Nat) :
    s.fenceFault r c = { s with
      regs := (s.fenceFault r c).regs, els := (s.fenceFault r c).els, ladles := (s.fenceFault r c).ladles, running := (s.fenceFault r c).running, signals := (s.fenceFault r c).signals, code := (s.fenceFault r c).code, ledger := (s.fenceFault r c).ledger, due := (s.fenceFault r c).due, anvils := (s.fenceFault r c).anvils, faults := (s.fenceFault r c).faults, pins := (s.fenceFault r c).pins } := by
  apply State.only_regs_els_ladles_running_signals_code_ledger_due_anvils_faults_pins
  all_goals
    unfold State.fenceFault; try dsimp only
    repeat' split
    all_goals simp

@[simp] theorem State.fenceFault_pending (r c : Nat) :
    (s.fenceFault r c).pending = s.pending := by rw [State.fenceFault_form]
@[simp] theorem State.fenceFault_clock (r c : Nat) :
    (s.fenceFault r c).clock = s.clock := by rw [State.fenceFault_form]
@[simp] theorem State.fenceFault_commit (r c : Nat) :
    (s.fenceFault r c).commit = s.commit := by rw [State.fenceFault_form]
@[simp] theorem State.fenceFault_chans (r c : Nat) :
    (s.fenceFault r c).chans = s.chans := by rw [State.fenceFault_form]
@[simp] theorem State.fenceFault_taps (r c : Nat) :
    (s.fenceFault r c).taps = s.taps := by rw [State.fenceFault_form]
@[simp] theorem State.fenceFault_spine (r c : Nat) :
    (s.fenceFault r c).spine = s.spine := by rw [State.fenceFault_form]
@[simp] theorem State.fenceFault_mem (r c : Nat) :
    (s.fenceFault r c).mem = s.mem := by rw [State.fenceFault_form]
@[simp] theorem State.fenceFault_hbm (r c : Nat) :
    (s.fenceFault r c).hbm = s.hbm := by rw [State.fenceFault_form]
@[simp] theorem State.fenceFault_slicers (r c : Nat) :
    (s.fenceFault r c).slicers = s.slicers := by rw [State.fenceFault_form]
@[simp] theorem State.fenceFault_swages (r c : Nat) :
    (s.fenceFault r c).swages = s.swages := by rw [State.fenceFault_form]
@[simp] theorem State.fenceFault_crucibles (r c : Nat) :
    (s.fenceFault r c).crucibles = s.crucibles := by rw [State.fenceFault_form]
@[simp] theorem State.fenceFault_planishers (r c : Nat) :
    (s.fenceFault r c).planishers = s.planishers := by rw [State.fenceFault_form]
@[simp] theorem State.fenceFault_tinkers (r c : Nat) :
    (s.fenceFault r c).tinkers = s.tinkers := by rw [State.fenceFault_form]
@[simp] theorem State.fenceFault_plan (r c : Nat) :
    (s.fenceFault r c).plan = s.plan := by rw [State.fenceFault_form]
@[simp] theorem State.fenceFault_radio (r c : Nat) :
    (s.fenceFault r c).radio = s.radio := by rw [State.fenceFault_form]
@[simp] theorem State.fenceFault_train (r c : Nat) :
    (s.fenceFault r c).train = s.train := by rw [State.fenceFault_form]
@[simp] theorem State.fenceFault_net (r c : Nat) :
    (s.fenceFault r c).net = s.net := by rw [State.fenceFault_form]
@[simp] theorem State.fenceFault_time (r c : Nat) :
    (s.fenceFault r c).time = s.time := by rw [State.fenceFault_form]
@[simp] theorem State.fenceFault_twin (r c : Nat) :
    (s.fenceFault r c).twin = s.twin := by rw [State.fenceFault_form]
@[simp] theorem State.fenceFault_power (r c : Nat) :
    (s.fenceFault r c).power = s.power := by rw [State.fenceFault_form]
@[simp] theorem State.fenceFault_start (r c : Nat) :
    (s.fenceFault r c).start = s.start := by rw [State.fenceFault_form]
@[simp] theorem State.fenceFault_sec (r c : Nat) :
    (s.fenceFault r c).sec = s.sec := by rw [State.fenceFault_form]
@[simp] theorem State.fenceFault_seq (r c : Nat) :
    (s.fenceFault r c).seq = s.seq := by rw [State.fenceFault_form]
@[simp] theorem State.fenceFault_i3c (r c : Nat) :
    (s.fenceFault r c).i3c = s.i3c := by rw [State.fenceFault_form]
@[simp] theorem State.fenceFault_test (r c : Nat) :
    (s.fenceFault r c).test = s.test := by rw [State.fenceFault_form]
@[simp] theorem State.fenceFault_free (r c : Nat) :
    (s.fenceFault r c).free = s.free := by rw [State.fenceFault_form]
@[simp] theorem State.fenceFault_drawn (r c : Nat) :
    (s.fenceFault r c).drawn = s.drawn := by rw [State.fenceFault_form]

/-- A block's fault changes what a fence changes. -/
theorem State.blockFault_form (r k i c : Nat) :
    s.blockFault r k i c = { s with
      regs := (s.blockFault r k i c).regs, els := (s.blockFault r k i c).els, ladles := (s.blockFault r k i c).ladles, running := (s.blockFault r k i c).running, signals := (s.blockFault r k i c).signals, code := (s.blockFault r k i c).code, ledger := (s.blockFault r k i c).ledger, due := (s.blockFault r k i c).due, anvils := (s.blockFault r k i c).anvils, faults := (s.blockFault r k i c).faults, pins := (s.blockFault r k i c).pins } := by
  apply State.only_regs_els_ladles_running_signals_code_ledger_due_anvils_faults_pins
  all_goals
    unfold State.blockFault; try dsimp only
    repeat' split
    all_goals simp

@[simp] theorem State.blockFault_pending (r k i c : Nat) :
    (s.blockFault r k i c).pending = s.pending := by rw [State.blockFault_form]
@[simp] theorem State.blockFault_clock (r k i c : Nat) :
    (s.blockFault r k i c).clock = s.clock := by rw [State.blockFault_form]
@[simp] theorem State.blockFault_commit (r k i c : Nat) :
    (s.blockFault r k i c).commit = s.commit := by rw [State.blockFault_form]
@[simp] theorem State.blockFault_chans (r k i c : Nat) :
    (s.blockFault r k i c).chans = s.chans := by rw [State.blockFault_form]
@[simp] theorem State.blockFault_taps (r k i c : Nat) :
    (s.blockFault r k i c).taps = s.taps := by rw [State.blockFault_form]
@[simp] theorem State.blockFault_spine (r k i c : Nat) :
    (s.blockFault r k i c).spine = s.spine := by rw [State.blockFault_form]
@[simp] theorem State.blockFault_mem (r k i c : Nat) :
    (s.blockFault r k i c).mem = s.mem := by rw [State.blockFault_form]
@[simp] theorem State.blockFault_hbm (r k i c : Nat) :
    (s.blockFault r k i c).hbm = s.hbm := by rw [State.blockFault_form]
@[simp] theorem State.blockFault_slicers (r k i c : Nat) :
    (s.blockFault r k i c).slicers = s.slicers := by rw [State.blockFault_form]
@[simp] theorem State.blockFault_swages (r k i c : Nat) :
    (s.blockFault r k i c).swages = s.swages := by rw [State.blockFault_form]
@[simp] theorem State.blockFault_crucibles (r k i c : Nat) :
    (s.blockFault r k i c).crucibles = s.crucibles := by rw [State.blockFault_form]
@[simp] theorem State.blockFault_planishers (r k i c : Nat) :
    (s.blockFault r k i c).planishers = s.planishers := by rw [State.blockFault_form]
@[simp] theorem State.blockFault_tinkers (r k i c : Nat) :
    (s.blockFault r k i c).tinkers = s.tinkers := by rw [State.blockFault_form]
@[simp] theorem State.blockFault_plan (r k i c : Nat) :
    (s.blockFault r k i c).plan = s.plan := by rw [State.blockFault_form]
@[simp] theorem State.blockFault_radio (r k i c : Nat) :
    (s.blockFault r k i c).radio = s.radio := by rw [State.blockFault_form]
@[simp] theorem State.blockFault_train (r k i c : Nat) :
    (s.blockFault r k i c).train = s.train := by rw [State.blockFault_form]
@[simp] theorem State.blockFault_net (r k i c : Nat) :
    (s.blockFault r k i c).net = s.net := by rw [State.blockFault_form]
@[simp] theorem State.blockFault_time (r k i c : Nat) :
    (s.blockFault r k i c).time = s.time := by rw [State.blockFault_form]
@[simp] theorem State.blockFault_twin (r k i c : Nat) :
    (s.blockFault r k i c).twin = s.twin := by rw [State.blockFault_form]
@[simp] theorem State.blockFault_power (r k i c : Nat) :
    (s.blockFault r k i c).power = s.power := by rw [State.blockFault_form]
@[simp] theorem State.blockFault_start (r k i c : Nat) :
    (s.blockFault r k i c).start = s.start := by rw [State.blockFault_form]
@[simp] theorem State.blockFault_sec (r k i c : Nat) :
    (s.blockFault r k i c).sec = s.sec := by rw [State.blockFault_form]
@[simp] theorem State.blockFault_seq (r k i c : Nat) :
    (s.blockFault r k i c).seq = s.seq := by rw [State.blockFault_form]
@[simp] theorem State.blockFault_i3c (r k i c : Nat) :
    (s.blockFault r k i c).i3c = s.i3c := by rw [State.blockFault_form]
@[simp] theorem State.blockFault_test (r k i c : Nat) :
    (s.blockFault r k i c).test = s.test := by rw [State.blockFault_form]
@[simp] theorem State.blockFault_free (r k i c : Nat) :
    (s.blockFault r k i c).free = s.free := by rw [State.blockFault_form]
@[simp] theorem State.blockFault_drawn (r k i c : Nat) :
    (s.blockFault r k i c).drawn = s.drawn := by rw [State.blockFault_form]

/-- A report changes what a fault changes. -/
theorem State.report_keeps {γ : Type} (g : State → γ) (h : ∀ (s : State) (f : FaultUnit) (w : SMap Word) (p : Pins),
    g { s with regs := w, faults := f, pins := p } = g s) (r k i : Nat) : g (s.report r k i).1 = g s := by
  have e : ∀ t : State, t = { s with regs := t.regs, faults := t.faults, pins := t.pins } → g t = g s := fun t ht => by
    rw [ht, h]
  apply e
  apply State.only_regs_faults_pins
  all_goals
    unfold State.report; try dsimp only
    repeat' split
    all_goals simp

@[simp] theorem State.report_pending (r k i : Nat) :
    (s.report r k i).1.pending = s.pending := s.report_keeps (·.pending) (fun _ _ _ _ => rfl) r k i
@[simp] theorem State.report_clock (r k i : Nat) :
    (s.report r k i).1.clock = s.clock := s.report_keeps (·.clock) (fun _ _ _ _ => rfl) r k i
@[simp] theorem State.report_commit (r k i : Nat) :
    (s.report r k i).1.commit = s.commit := s.report_keeps (·.commit) (fun _ _ _ _ => rfl) r k i
@[simp] theorem State.report_chans (r k i : Nat) :
    (s.report r k i).1.chans = s.chans := s.report_keeps (·.chans) (fun _ _ _ _ => rfl) r k i
@[simp] theorem State.report_taps (r k i : Nat) :
    (s.report r k i).1.taps = s.taps := s.report_keeps (·.taps) (fun _ _ _ _ => rfl) r k i
@[simp] theorem State.report_due (r k i : Nat) :
    (s.report r k i).1.due = s.due := s.report_keeps (·.due) (fun _ _ _ _ => rfl) r k i
@[simp] theorem State.report_spine (r k i : Nat) :
    (s.report r k i).1.spine = s.spine := s.report_keeps (·.spine) (fun _ _ _ _ => rfl) r k i
@[simp] theorem State.report_ledger (r k i : Nat) :
    (s.report r k i).1.ledger = s.ledger := s.report_keeps (·.ledger) (fun _ _ _ _ => rfl) r k i
@[simp] theorem State.report_mem (r k i : Nat) :
    (s.report r k i).1.mem = s.mem := s.report_keeps (·.mem) (fun _ _ _ _ => rfl) r k i
@[simp] theorem State.report_hbm (r k i : Nat) :
    (s.report r k i).1.hbm = s.hbm := s.report_keeps (·.hbm) (fun _ _ _ _ => rfl) r k i
@[simp] theorem State.report_ladles (r k i : Nat) :
    (s.report r k i).1.ladles = s.ladles := s.report_keeps (·.ladles) (fun _ _ _ _ => rfl) r k i
@[simp] theorem State.report_running (r k i : Nat) :
    (s.report r k i).1.running = s.running := s.report_keeps (·.running) (fun _ _ _ _ => rfl) r k i
@[simp] theorem State.report_signals (r k i : Nat) :
    (s.report r k i).1.signals = s.signals := s.report_keeps (·.signals) (fun _ _ _ _ => rfl) r k i
@[simp] theorem State.report_anvils (r k i : Nat) :
    (s.report r k i).1.anvils = s.anvils := s.report_keeps (·.anvils) (fun _ _ _ _ => rfl) r k i
@[simp] theorem State.report_slicers (r k i : Nat) :
    (s.report r k i).1.slicers = s.slicers := s.report_keeps (·.slicers) (fun _ _ _ _ => rfl) r k i
@[simp] theorem State.report_swages (r k i : Nat) :
    (s.report r k i).1.swages = s.swages := s.report_keeps (·.swages) (fun _ _ _ _ => rfl) r k i
@[simp] theorem State.report_crucibles (r k i : Nat) :
    (s.report r k i).1.crucibles = s.crucibles := s.report_keeps (·.crucibles) (fun _ _ _ _ => rfl) r k i
@[simp] theorem State.report_planishers (r k i : Nat) :
    (s.report r k i).1.planishers = s.planishers := s.report_keeps (·.planishers) (fun _ _ _ _ => rfl) r k i
@[simp] theorem State.report_tinkers (r k i : Nat) :
    (s.report r k i).1.tinkers = s.tinkers := s.report_keeps (·.tinkers) (fun _ _ _ _ => rfl) r k i
@[simp] theorem State.report_plan (r k i : Nat) :
    (s.report r k i).1.plan = s.plan := s.report_keeps (·.plan) (fun _ _ _ _ => rfl) r k i
@[simp] theorem State.report_els (r k i : Nat) :
    (s.report r k i).1.els = s.els := s.report_keeps (·.els) (fun _ _ _ _ => rfl) r k i
@[simp] theorem State.report_radio (r k i : Nat) :
    (s.report r k i).1.radio = s.radio := s.report_keeps (·.radio) (fun _ _ _ _ => rfl) r k i
@[simp] theorem State.report_code (r k i : Nat) :
    (s.report r k i).1.code = s.code := s.report_keeps (·.code) (fun _ _ _ _ => rfl) r k i
@[simp] theorem State.report_train (r k i : Nat) :
    (s.report r k i).1.train = s.train := s.report_keeps (·.train) (fun _ _ _ _ => rfl) r k i
@[simp] theorem State.report_net (r k i : Nat) :
    (s.report r k i).1.net = s.net := s.report_keeps (·.net) (fun _ _ _ _ => rfl) r k i
@[simp] theorem State.report_time (r k i : Nat) :
    (s.report r k i).1.time = s.time := s.report_keeps (·.time) (fun _ _ _ _ => rfl) r k i
@[simp] theorem State.report_twin (r k i : Nat) :
    (s.report r k i).1.twin = s.twin := s.report_keeps (·.twin) (fun _ _ _ _ => rfl) r k i
@[simp] theorem State.report_power (r k i : Nat) :
    (s.report r k i).1.power = s.power := s.report_keeps (·.power) (fun _ _ _ _ => rfl) r k i
@[simp] theorem State.report_start (r k i : Nat) :
    (s.report r k i).1.start = s.start := s.report_keeps (·.start) (fun _ _ _ _ => rfl) r k i
@[simp] theorem State.report_sec (r k i : Nat) :
    (s.report r k i).1.sec = s.sec := s.report_keeps (·.sec) (fun _ _ _ _ => rfl) r k i
@[simp] theorem State.report_seq (r k i : Nat) :
    (s.report r k i).1.seq = s.seq := s.report_keeps (·.seq) (fun _ _ _ _ => rfl) r k i
@[simp] theorem State.report_i3c (r k i : Nat) :
    (s.report r k i).1.i3c = s.i3c := s.report_keeps (·.i3c) (fun _ _ _ _ => rfl) r k i
@[simp] theorem State.report_test (r k i : Nat) :
    (s.report r k i).1.test = s.test := s.report_keeps (·.test) (fun _ _ _ _ => rfl) r k i
@[simp] theorem State.report_free (r k i : Nat) :
    (s.report r k i).1.free = s.free := s.report_keeps (·.free) (fun _ _ _ _ => rfl) r k i
@[simp] theorem State.report_drawn (r k i : Nat) :
    (s.report r k i).1.drawn = s.drawn := s.report_keeps (·.drawn) (fun _ _ _ _ => rfl) r k i

/-- A fault of a block changes what a fence changes. -/
theorem State.blockRaise_form (r k i c : Nat) (l : BitVec 64) (d0 d1 : Nat) :
    s.blockRaise r k i c l d0 d1 = { s with
      regs := (s.blockRaise r k i c l d0 d1).regs, els := (s.blockRaise r k i c l d0 d1).els, ladles := (s.blockRaise r k i c l d0 d1).ladles, running := (s.blockRaise r k i c l d0 d1).running, signals := (s.blockRaise r k i c l d0 d1).signals, code := (s.blockRaise r k i c l d0 d1).code, ledger := (s.blockRaise r k i c l d0 d1).ledger, due := (s.blockRaise r k i c l d0 d1).due, anvils := (s.blockRaise r k i c l d0 d1).anvils, faults := (s.blockRaise r k i c l d0 d1).faults, pins := (s.blockRaise r k i c l d0 d1).pins } := by
  apply State.only_regs_els_ladles_running_signals_code_ledger_due_anvils_faults_pins
  all_goals
    unfold State.blockRaise
    split <;> rename_i h <;> (have e := (congrArg Prod.fst h).symm; dsimp only at e; subst e; simp)

@[simp] theorem State.blockRaise_pending (r k i c : Nat) (l : BitVec 64) (d0 d1 : Nat) :
    (s.blockRaise r k i c l d0 d1).pending = s.pending := by rw [State.blockRaise_form]
@[simp] theorem State.blockRaise_clock (r k i c : Nat) (l : BitVec 64) (d0 d1 : Nat) :
    (s.blockRaise r k i c l d0 d1).clock = s.clock := by rw [State.blockRaise_form]
@[simp] theorem State.blockRaise_commit (r k i c : Nat) (l : BitVec 64) (d0 d1 : Nat) :
    (s.blockRaise r k i c l d0 d1).commit = s.commit := by rw [State.blockRaise_form]
@[simp] theorem State.blockRaise_chans (r k i c : Nat) (l : BitVec 64) (d0 d1 : Nat) :
    (s.blockRaise r k i c l d0 d1).chans = s.chans := by rw [State.blockRaise_form]
@[simp] theorem State.blockRaise_taps (r k i c : Nat) (l : BitVec 64) (d0 d1 : Nat) :
    (s.blockRaise r k i c l d0 d1).taps = s.taps := by rw [State.blockRaise_form]
@[simp] theorem State.blockRaise_spine (r k i c : Nat) (l : BitVec 64) (d0 d1 : Nat) :
    (s.blockRaise r k i c l d0 d1).spine = s.spine := by rw [State.blockRaise_form]
@[simp] theorem State.blockRaise_mem (r k i c : Nat) (l : BitVec 64) (d0 d1 : Nat) :
    (s.blockRaise r k i c l d0 d1).mem = s.mem := by rw [State.blockRaise_form]
@[simp] theorem State.blockRaise_hbm (r k i c : Nat) (l : BitVec 64) (d0 d1 : Nat) :
    (s.blockRaise r k i c l d0 d1).hbm = s.hbm := by rw [State.blockRaise_form]
@[simp] theorem State.blockRaise_slicers (r k i c : Nat) (l : BitVec 64) (d0 d1 : Nat) :
    (s.blockRaise r k i c l d0 d1).slicers = s.slicers := by rw [State.blockRaise_form]
@[simp] theorem State.blockRaise_swages (r k i c : Nat) (l : BitVec 64) (d0 d1 : Nat) :
    (s.blockRaise r k i c l d0 d1).swages = s.swages := by rw [State.blockRaise_form]
@[simp] theorem State.blockRaise_crucibles (r k i c : Nat) (l : BitVec 64) (d0 d1 : Nat) :
    (s.blockRaise r k i c l d0 d1).crucibles = s.crucibles := by rw [State.blockRaise_form]
@[simp] theorem State.blockRaise_planishers (r k i c : Nat) (l : BitVec 64) (d0 d1 : Nat) :
    (s.blockRaise r k i c l d0 d1).planishers = s.planishers := by rw [State.blockRaise_form]
@[simp] theorem State.blockRaise_tinkers (r k i c : Nat) (l : BitVec 64) (d0 d1 : Nat) :
    (s.blockRaise r k i c l d0 d1).tinkers = s.tinkers := by rw [State.blockRaise_form]
@[simp] theorem State.blockRaise_plan (r k i c : Nat) (l : BitVec 64) (d0 d1 : Nat) :
    (s.blockRaise r k i c l d0 d1).plan = s.plan := by rw [State.blockRaise_form]
@[simp] theorem State.blockRaise_radio (r k i c : Nat) (l : BitVec 64) (d0 d1 : Nat) :
    (s.blockRaise r k i c l d0 d1).radio = s.radio := by rw [State.blockRaise_form]
@[simp] theorem State.blockRaise_train (r k i c : Nat) (l : BitVec 64) (d0 d1 : Nat) :
    (s.blockRaise r k i c l d0 d1).train = s.train := by rw [State.blockRaise_form]
@[simp] theorem State.blockRaise_net (r k i c : Nat) (l : BitVec 64) (d0 d1 : Nat) :
    (s.blockRaise r k i c l d0 d1).net = s.net := by rw [State.blockRaise_form]
@[simp] theorem State.blockRaise_time (r k i c : Nat) (l : BitVec 64) (d0 d1 : Nat) :
    (s.blockRaise r k i c l d0 d1).time = s.time := by rw [State.blockRaise_form]
@[simp] theorem State.blockRaise_twin (r k i c : Nat) (l : BitVec 64) (d0 d1 : Nat) :
    (s.blockRaise r k i c l d0 d1).twin = s.twin := by rw [State.blockRaise_form]
@[simp] theorem State.blockRaise_power (r k i c : Nat) (l : BitVec 64) (d0 d1 : Nat) :
    (s.blockRaise r k i c l d0 d1).power = s.power := by rw [State.blockRaise_form]
@[simp] theorem State.blockRaise_start (r k i c : Nat) (l : BitVec 64) (d0 d1 : Nat) :
    (s.blockRaise r k i c l d0 d1).start = s.start := by rw [State.blockRaise_form]
@[simp] theorem State.blockRaise_sec (r k i c : Nat) (l : BitVec 64) (d0 d1 : Nat) :
    (s.blockRaise r k i c l d0 d1).sec = s.sec := by rw [State.blockRaise_form]
@[simp] theorem State.blockRaise_seq (r k i c : Nat) (l : BitVec 64) (d0 d1 : Nat) :
    (s.blockRaise r k i c l d0 d1).seq = s.seq := by rw [State.blockRaise_form]
@[simp] theorem State.blockRaise_i3c (r k i c : Nat) (l : BitVec 64) (d0 d1 : Nat) :
    (s.blockRaise r k i c l d0 d1).i3c = s.i3c := by rw [State.blockRaise_form]
@[simp] theorem State.blockRaise_test (r k i c : Nat) (l : BitVec 64) (d0 d1 : Nat) :
    (s.blockRaise r k i c l d0 d1).test = s.test := by rw [State.blockRaise_form]
@[simp] theorem State.blockRaise_free (r k i c : Nat) (l : BitVec 64) (d0 d1 : Nat) :
    (s.blockRaise r k i c l d0 d1).free = s.free := by rw [State.blockRaise_form]
@[simp] theorem State.blockRaise_drawn (r k i c : Nat) (l : BitVec 64) (d0 d1 : Nat) :
    (s.blockRaise r k i c l d0 d1).drawn = s.drawn := by rw [State.blockRaise_form]

/-- An effect that falls due changes what a fence changes. -/
theorem State.apply_form (r : Nat) (e : Effect) :
    s.apply r e = { s with
      regs := (s.apply r e).regs, els := (s.apply r e).els, ladles := (s.apply r e).ladles, running := (s.apply r e).running, signals := (s.apply r e).signals, code := (s.apply r e).code, ledger := (s.apply r e).ledger, due := (s.apply r e).due, anvils := (s.apply r e).anvils, faults := (s.apply r e).faults, pins := (s.apply r e).pins } := by
  apply State.only_regs_els_ladles_running_signals_code_ledger_due_anvils_faults_pins
  all_goals
    cases e
    case first => unfold State.apply; dsimp only; split <;> simp
    case latch =>
      unfold State.apply
      dsimp only
      split
      · rfl
      · exact foldl_keeps _ (fun a b => by simp) _ _
    all_goals simp [State.apply]

@[simp] theorem State.apply_pending (r : Nat) (e : Effect) :
    (s.apply r e).pending = s.pending := by rw [State.apply_form]
@[simp] theorem State.apply_clock (r : Nat) (e : Effect) :
    (s.apply r e).clock = s.clock := by rw [State.apply_form]
@[simp] theorem State.apply_commit (r : Nat) (e : Effect) :
    (s.apply r e).commit = s.commit := by rw [State.apply_form]
@[simp] theorem State.apply_chans (r : Nat) (e : Effect) :
    (s.apply r e).chans = s.chans := by rw [State.apply_form]
@[simp] theorem State.apply_taps (r : Nat) (e : Effect) :
    (s.apply r e).taps = s.taps := by rw [State.apply_form]
@[simp] theorem State.apply_spine (r : Nat) (e : Effect) :
    (s.apply r e).spine = s.spine := by rw [State.apply_form]
@[simp] theorem State.apply_mem (r : Nat) (e : Effect) :
    (s.apply r e).mem = s.mem := by rw [State.apply_form]
@[simp] theorem State.apply_hbm (r : Nat) (e : Effect) :
    (s.apply r e).hbm = s.hbm := by rw [State.apply_form]
@[simp] theorem State.apply_slicers (r : Nat) (e : Effect) :
    (s.apply r e).slicers = s.slicers := by rw [State.apply_form]
@[simp] theorem State.apply_swages (r : Nat) (e : Effect) :
    (s.apply r e).swages = s.swages := by rw [State.apply_form]
@[simp] theorem State.apply_crucibles (r : Nat) (e : Effect) :
    (s.apply r e).crucibles = s.crucibles := by rw [State.apply_form]
@[simp] theorem State.apply_planishers (r : Nat) (e : Effect) :
    (s.apply r e).planishers = s.planishers := by rw [State.apply_form]
@[simp] theorem State.apply_tinkers (r : Nat) (e : Effect) :
    (s.apply r e).tinkers = s.tinkers := by rw [State.apply_form]
@[simp] theorem State.apply_plan (r : Nat) (e : Effect) :
    (s.apply r e).plan = s.plan := by rw [State.apply_form]
@[simp] theorem State.apply_radio (r : Nat) (e : Effect) :
    (s.apply r e).radio = s.radio := by rw [State.apply_form]
@[simp] theorem State.apply_train (r : Nat) (e : Effect) :
    (s.apply r e).train = s.train := by rw [State.apply_form]
@[simp] theorem State.apply_net (r : Nat) (e : Effect) :
    (s.apply r e).net = s.net := by rw [State.apply_form]
@[simp] theorem State.apply_time (r : Nat) (e : Effect) :
    (s.apply r e).time = s.time := by rw [State.apply_form]
@[simp] theorem State.apply_twin (r : Nat) (e : Effect) :
    (s.apply r e).twin = s.twin := by rw [State.apply_form]
@[simp] theorem State.apply_power (r : Nat) (e : Effect) :
    (s.apply r e).power = s.power := by rw [State.apply_form]
@[simp] theorem State.apply_start (r : Nat) (e : Effect) :
    (s.apply r e).start = s.start := by rw [State.apply_form]
@[simp] theorem State.apply_sec (r : Nat) (e : Effect) :
    (s.apply r e).sec = s.sec := by rw [State.apply_form]
@[simp] theorem State.apply_seq (r : Nat) (e : Effect) :
    (s.apply r e).seq = s.seq := by rw [State.apply_form]
@[simp] theorem State.apply_i3c (r : Nat) (e : Effect) :
    (s.apply r e).i3c = s.i3c := by rw [State.apply_form]
@[simp] theorem State.apply_test (r : Nat) (e : Effect) :
    (s.apply r e).test = s.test := by rw [State.apply_form]
@[simp] theorem State.apply_free (r : Nat) (e : Effect) :
    (s.apply r e).free = s.free := by rw [State.apply_form]
@[simp] theorem State.apply_drawn (r : Nat) (e : Effect) :
    (s.apply r e).drawn = s.drawn := by rw [State.apply_form]

/-- An effect changes what a fence changes, at once or when its cycle is over. -/
theorem State.later_form (t r : Nat) (e : Effect) :
    s.later t r e = { s with
      regs := (s.later t r e).regs, els := (s.later t r e).els, ladles := (s.later t r e).ladles, running := (s.later t r e).running, signals := (s.later t r e).signals, code := (s.later t r e).code, ledger := (s.later t r e).ledger, due := (s.later t r e).due, anvils := (s.later t r e).anvils, faults := (s.later t r e).faults, pins := (s.later t r e).pins } := by
  apply State.only_regs_els_ladles_running_signals_code_ledger_due_anvils_faults_pins
  all_goals
    unfold State.later
    split <;> simp

@[simp] theorem State.later_pending (t r : Nat) (e : Effect) :
    (s.later t r e).pending = s.pending := by rw [State.later_form]
@[simp] theorem State.later_clock (t r : Nat) (e : Effect) :
    (s.later t r e).clock = s.clock := by rw [State.later_form]
@[simp] theorem State.later_commit (t r : Nat) (e : Effect) :
    (s.later t r e).commit = s.commit := by rw [State.later_form]
@[simp] theorem State.later_chans (t r : Nat) (e : Effect) :
    (s.later t r e).chans = s.chans := by rw [State.later_form]
@[simp] theorem State.later_taps (t r : Nat) (e : Effect) :
    (s.later t r e).taps = s.taps := by rw [State.later_form]
@[simp] theorem State.later_spine (t r : Nat) (e : Effect) :
    (s.later t r e).spine = s.spine := by rw [State.later_form]
@[simp] theorem State.later_mem (t r : Nat) (e : Effect) :
    (s.later t r e).mem = s.mem := by rw [State.later_form]
@[simp] theorem State.later_hbm (t r : Nat) (e : Effect) :
    (s.later t r e).hbm = s.hbm := by rw [State.later_form]
@[simp] theorem State.later_slicers (t r : Nat) (e : Effect) :
    (s.later t r e).slicers = s.slicers := by rw [State.later_form]
@[simp] theorem State.later_swages (t r : Nat) (e : Effect) :
    (s.later t r e).swages = s.swages := by rw [State.later_form]
@[simp] theorem State.later_crucibles (t r : Nat) (e : Effect) :
    (s.later t r e).crucibles = s.crucibles := by rw [State.later_form]
@[simp] theorem State.later_planishers (t r : Nat) (e : Effect) :
    (s.later t r e).planishers = s.planishers := by rw [State.later_form]
@[simp] theorem State.later_tinkers (t r : Nat) (e : Effect) :
    (s.later t r e).tinkers = s.tinkers := by rw [State.later_form]
@[simp] theorem State.later_plan (t r : Nat) (e : Effect) :
    (s.later t r e).plan = s.plan := by rw [State.later_form]
@[simp] theorem State.later_radio (t r : Nat) (e : Effect) :
    (s.later t r e).radio = s.radio := by rw [State.later_form]
@[simp] theorem State.later_train (t r : Nat) (e : Effect) :
    (s.later t r e).train = s.train := by rw [State.later_form]
@[simp] theorem State.later_net (t r : Nat) (e : Effect) :
    (s.later t r e).net = s.net := by rw [State.later_form]
@[simp] theorem State.later_time (t r : Nat) (e : Effect) :
    (s.later t r e).time = s.time := by rw [State.later_form]
@[simp] theorem State.later_twin (t r : Nat) (e : Effect) :
    (s.later t r e).twin = s.twin := by rw [State.later_form]
@[simp] theorem State.later_power (t r : Nat) (e : Effect) :
    (s.later t r e).power = s.power := by rw [State.later_form]
@[simp] theorem State.later_start (t r : Nat) (e : Effect) :
    (s.later t r e).start = s.start := by rw [State.later_form]
@[simp] theorem State.later_sec (t r : Nat) (e : Effect) :
    (s.later t r e).sec = s.sec := by rw [State.later_form]
@[simp] theorem State.later_seq (t r : Nat) (e : Effect) :
    (s.later t r e).seq = s.seq := by rw [State.later_form]
@[simp] theorem State.later_i3c (t r : Nat) (e : Effect) :
    (s.later t r e).i3c = s.i3c := by rw [State.later_form]
@[simp] theorem State.later_test (t r : Nat) (e : Effect) :
    (s.later t r e).test = s.test := by rw [State.later_form]
@[simp] theorem State.later_free (t r : Nat) (e : Effect) :
    (s.later t r e).free = s.free := by rw [State.later_form]
@[simp] theorem State.later_drawn (t r : Nat) (e : Effect) :
    (s.later t r e).drawn = s.drawn := by rw [State.later_form]

/-- Effects change what one changes. -/
theorem State.laters_form (t r : Nat) (es : List Effect) :
    s.laters t r es = { s with
      regs := (s.laters t r es).regs, els := (s.laters t r es).els, ladles := (s.laters t r es).ladles, running := (s.laters t r es).running, signals := (s.laters t r es).signals, code := (s.laters t r es).code, ledger := (s.laters t r es).ledger, due := (s.laters t r es).due, anvils := (s.laters t r es).anvils, faults := (s.laters t r es).faults, pins := (s.laters t r es).pins } := by
  apply State.only_regs_els_ladles_running_signals_code_ledger_due_anvils_faults_pins
  all_goals
    exact foldl_keeps _ (fun a b => by simp) _ _

@[simp] theorem State.laters_pending (t r : Nat) (es : List Effect) :
    (s.laters t r es).pending = s.pending := by rw [State.laters_form]
@[simp] theorem State.laters_clock (t r : Nat) (es : List Effect) :
    (s.laters t r es).clock = s.clock := by rw [State.laters_form]
@[simp] theorem State.laters_commit (t r : Nat) (es : List Effect) :
    (s.laters t r es).commit = s.commit := by rw [State.laters_form]
@[simp] theorem State.laters_chans (t r : Nat) (es : List Effect) :
    (s.laters t r es).chans = s.chans := by rw [State.laters_form]
@[simp] theorem State.laters_taps (t r : Nat) (es : List Effect) :
    (s.laters t r es).taps = s.taps := by rw [State.laters_form]
@[simp] theorem State.laters_spine (t r : Nat) (es : List Effect) :
    (s.laters t r es).spine = s.spine := by rw [State.laters_form]
@[simp] theorem State.laters_mem (t r : Nat) (es : List Effect) :
    (s.laters t r es).mem = s.mem := by rw [State.laters_form]
@[simp] theorem State.laters_hbm (t r : Nat) (es : List Effect) :
    (s.laters t r es).hbm = s.hbm := by rw [State.laters_form]
@[simp] theorem State.laters_slicers (t r : Nat) (es : List Effect) :
    (s.laters t r es).slicers = s.slicers := by rw [State.laters_form]
@[simp] theorem State.laters_swages (t r : Nat) (es : List Effect) :
    (s.laters t r es).swages = s.swages := by rw [State.laters_form]
@[simp] theorem State.laters_crucibles (t r : Nat) (es : List Effect) :
    (s.laters t r es).crucibles = s.crucibles := by rw [State.laters_form]
@[simp] theorem State.laters_planishers (t r : Nat) (es : List Effect) :
    (s.laters t r es).planishers = s.planishers := by rw [State.laters_form]
@[simp] theorem State.laters_tinkers (t r : Nat) (es : List Effect) :
    (s.laters t r es).tinkers = s.tinkers := by rw [State.laters_form]
@[simp] theorem State.laters_plan (t r : Nat) (es : List Effect) :
    (s.laters t r es).plan = s.plan := by rw [State.laters_form]
@[simp] theorem State.laters_radio (t r : Nat) (es : List Effect) :
    (s.laters t r es).radio = s.radio := by rw [State.laters_form]
@[simp] theorem State.laters_train (t r : Nat) (es : List Effect) :
    (s.laters t r es).train = s.train := by rw [State.laters_form]
@[simp] theorem State.laters_net (t r : Nat) (es : List Effect) :
    (s.laters t r es).net = s.net := by rw [State.laters_form]
@[simp] theorem State.laters_time (t r : Nat) (es : List Effect) :
    (s.laters t r es).time = s.time := by rw [State.laters_form]
@[simp] theorem State.laters_twin (t r : Nat) (es : List Effect) :
    (s.laters t r es).twin = s.twin := by rw [State.laters_form]
@[simp] theorem State.laters_power (t r : Nat) (es : List Effect) :
    (s.laters t r es).power = s.power := by rw [State.laters_form]
@[simp] theorem State.laters_start (t r : Nat) (es : List Effect) :
    (s.laters t r es).start = s.start := by rw [State.laters_form]
@[simp] theorem State.laters_sec (t r : Nat) (es : List Effect) :
    (s.laters t r es).sec = s.sec := by rw [State.laters_form]
@[simp] theorem State.laters_seq (t r : Nat) (es : List Effect) :
    (s.laters t r es).seq = s.seq := by rw [State.laters_form]
@[simp] theorem State.laters_i3c (t r : Nat) (es : List Effect) :
    (s.laters t r es).i3c = s.i3c := by rw [State.laters_form]
@[simp] theorem State.laters_test (t r : Nat) (es : List Effect) :
    (s.laters t r es).test = s.test := by rw [State.laters_form]
@[simp] theorem State.laters_free (t r : Nat) (es : List Effect) :
    (s.laters t r es).free = s.free := by rw [State.laters_form]
@[simp] theorem State.laters_drawn (t r : Nat) (es : List Effect) :
    (s.laters t r es).drawn = s.drawn := by rw [State.laters_form]

/-- A state that agrees with `s` but in `regs`, `els`, `ladles`, `running`, `signals`, `code`, `ledger`, `due`, `anvils`, `faults`, `pins`, `clock`. -/
theorem State.only_regs_els_ladles_running_signals_code_ledger_due_anvils_faults_pins_clock {s t : State}
    (h_pending : t.pending = s.pending)
    (h_commit : t.commit = s.commit)
    (h_chans : t.chans = s.chans)
    (h_taps : t.taps = s.taps)
    (h_spine : t.spine = s.spine)
    (h_mem : t.mem = s.mem)
    (h_hbm : t.hbm = s.hbm)
    (h_slicers : t.slicers = s.slicers)
    (h_swages : t.swages = s.swages)
    (h_crucibles : t.crucibles = s.crucibles)
    (h_planishers : t.planishers = s.planishers)
    (h_tinkers : t.tinkers = s.tinkers)
    (h_plan : t.plan = s.plan)
    (h_radio : t.radio = s.radio)
    (h_train : t.train = s.train)
    (h_net : t.net = s.net)
    (h_time : t.time = s.time)
    (h_twin : t.twin = s.twin)
    (h_power : t.power = s.power)
    (h_start : t.start = s.start)
    (h_sec : t.sec = s.sec)
    (h_seq : t.seq = s.seq)
    (h_i3c : t.i3c = s.i3c)
    (h_test : t.test = s.test)
    (h_free : t.free = s.free)
    (h_drawn : t.drawn = s.drawn) :
    t = { s with regs := t.regs, els := t.els, ladles := t.ladles, running := t.running, signals := t.signals, code := t.code, ledger := t.ledger, due := t.due, anvils := t.anvils, faults := t.faults, pins := t.pins, clock := t.clock } := by
  cases s; cases t; simp_all only

/-- What falls due changes what an effect changes, in its cycle. -/
theorem State.settle_form (t : Nat) :
    s.settle t = { s with
      regs := (s.settle t).regs, els := (s.settle t).els, ladles := (s.settle t).ladles, running := (s.settle t).running, signals := (s.settle t).signals, code := (s.settle t).code, ledger := (s.settle t).ledger, due := (s.settle t).due, anvils := (s.settle t).anvils, faults := (s.settle t).faults, pins := (s.settle t).pins, clock := (s.settle t).clock } := by
  apply State.only_regs_els_ladles_running_signals_code_ledger_due_anvils_faults_pins_clock
  all_goals
    exact foldr_keeps _ (fun a b => by simp) _ _

@[simp] theorem State.settle_pending (t : Nat) :
    (s.settle t).pending = s.pending := by rw [State.settle_form]
@[simp] theorem State.settle_commit (t : Nat) :
    (s.settle t).commit = s.commit := by rw [State.settle_form]
@[simp] theorem State.settle_chans (t : Nat) :
    (s.settle t).chans = s.chans := by rw [State.settle_form]
@[simp] theorem State.settle_taps (t : Nat) :
    (s.settle t).taps = s.taps := by rw [State.settle_form]
@[simp] theorem State.settle_spine (t : Nat) :
    (s.settle t).spine = s.spine := by rw [State.settle_form]
@[simp] theorem State.settle_mem (t : Nat) :
    (s.settle t).mem = s.mem := by rw [State.settle_form]
@[simp] theorem State.settle_hbm (t : Nat) :
    (s.settle t).hbm = s.hbm := by rw [State.settle_form]
@[simp] theorem State.settle_slicers (t : Nat) :
    (s.settle t).slicers = s.slicers := by rw [State.settle_form]
@[simp] theorem State.settle_swages (t : Nat) :
    (s.settle t).swages = s.swages := by rw [State.settle_form]
@[simp] theorem State.settle_crucibles (t : Nat) :
    (s.settle t).crucibles = s.crucibles := by rw [State.settle_form]
@[simp] theorem State.settle_planishers (t : Nat) :
    (s.settle t).planishers = s.planishers := by rw [State.settle_form]
@[simp] theorem State.settle_tinkers (t : Nat) :
    (s.settle t).tinkers = s.tinkers := by rw [State.settle_form]
@[simp] theorem State.settle_plan (t : Nat) :
    (s.settle t).plan = s.plan := by rw [State.settle_form]
@[simp] theorem State.settle_radio (t : Nat) :
    (s.settle t).radio = s.radio := by rw [State.settle_form]
@[simp] theorem State.settle_train (t : Nat) :
    (s.settle t).train = s.train := by rw [State.settle_form]
@[simp] theorem State.settle_net (t : Nat) :
    (s.settle t).net = s.net := by rw [State.settle_form]
@[simp] theorem State.settle_time (t : Nat) :
    (s.settle t).time = s.time := by rw [State.settle_form]
@[simp] theorem State.settle_twin (t : Nat) :
    (s.settle t).twin = s.twin := by rw [State.settle_form]
@[simp] theorem State.settle_power (t : Nat) :
    (s.settle t).power = s.power := by rw [State.settle_form]
@[simp] theorem State.settle_start (t : Nat) :
    (s.settle t).start = s.start := by rw [State.settle_form]
@[simp] theorem State.settle_sec (t : Nat) :
    (s.settle t).sec = s.sec := by rw [State.settle_form]
@[simp] theorem State.settle_seq (t : Nat) :
    (s.settle t).seq = s.seq := by rw [State.settle_form]
@[simp] theorem State.settle_i3c (t : Nat) :
    (s.settle t).i3c = s.i3c := by rw [State.settle_form]
@[simp] theorem State.settle_test (t : Nat) :
    (s.settle t).test = s.test := by rw [State.settle_form]
@[simp] theorem State.settle_free (t : Nat) :
    (s.settle t).free = s.free := by rw [State.settle_form]
@[simp] theorem State.settle_drawn (t : Nat) :
    (s.settle t).drawn = s.drawn := by rw [State.settle_form]

/-- Reaching a cycle changes what is due by then, and the cycle. -/
theorem State.reach_form (t : Nat) :
    s.reach t = { s with
      regs := (s.reach t).regs, els := (s.reach t).els, ladles := (s.reach t).ladles, running := (s.reach t).running, signals := (s.reach t).signals, code := (s.reach t).code, ledger := (s.reach t).ledger, due := (s.reach t).due, anvils := (s.reach t).anvils, faults := (s.reach t).faults, pins := (s.reach t).pins, clock := (s.reach t).clock } := by
  apply State.only_regs_els_ladles_running_signals_code_ledger_due_anvils_faults_pins_clock
  all_goals
    unfold State.reach; try dsimp only
    repeat' split
    all_goals simp

@[simp] theorem State.reach_pending (t : Nat) :
    (s.reach t).pending = s.pending := by rw [State.reach_form]
@[simp] theorem State.reach_commit (t : Nat) :
    (s.reach t).commit = s.commit := by rw [State.reach_form]
@[simp] theorem State.reach_chans (t : Nat) :
    (s.reach t).chans = s.chans := by rw [State.reach_form]
@[simp] theorem State.reach_taps (t : Nat) :
    (s.reach t).taps = s.taps := by rw [State.reach_form]
@[simp] theorem State.reach_spine (t : Nat) :
    (s.reach t).spine = s.spine := by rw [State.reach_form]
@[simp] theorem State.reach_mem (t : Nat) :
    (s.reach t).mem = s.mem := by rw [State.reach_form]
@[simp] theorem State.reach_hbm (t : Nat) :
    (s.reach t).hbm = s.hbm := by rw [State.reach_form]
@[simp] theorem State.reach_slicers (t : Nat) :
    (s.reach t).slicers = s.slicers := by rw [State.reach_form]
@[simp] theorem State.reach_swages (t : Nat) :
    (s.reach t).swages = s.swages := by rw [State.reach_form]
@[simp] theorem State.reach_crucibles (t : Nat) :
    (s.reach t).crucibles = s.crucibles := by rw [State.reach_form]
@[simp] theorem State.reach_planishers (t : Nat) :
    (s.reach t).planishers = s.planishers := by rw [State.reach_form]
@[simp] theorem State.reach_tinkers (t : Nat) :
    (s.reach t).tinkers = s.tinkers := by rw [State.reach_form]
@[simp] theorem State.reach_plan (t : Nat) :
    (s.reach t).plan = s.plan := by rw [State.reach_form]
@[simp] theorem State.reach_radio (t : Nat) :
    (s.reach t).radio = s.radio := by rw [State.reach_form]
@[simp] theorem State.reach_train (t : Nat) :
    (s.reach t).train = s.train := by rw [State.reach_form]
@[simp] theorem State.reach_net (t : Nat) :
    (s.reach t).net = s.net := by rw [State.reach_form]
@[simp] theorem State.reach_time (t : Nat) :
    (s.reach t).time = s.time := by rw [State.reach_form]
@[simp] theorem State.reach_twin (t : Nat) :
    (s.reach t).twin = s.twin := by rw [State.reach_form]
@[simp] theorem State.reach_power (t : Nat) :
    (s.reach t).power = s.power := by rw [State.reach_form]
@[simp] theorem State.reach_start (t : Nat) :
    (s.reach t).start = s.start := by rw [State.reach_form]
@[simp] theorem State.reach_sec (t : Nat) :
    (s.reach t).sec = s.sec := by rw [State.reach_form]
@[simp] theorem State.reach_seq (t : Nat) :
    (s.reach t).seq = s.seq := by rw [State.reach_form]
@[simp] theorem State.reach_i3c (t : Nat) :
    (s.reach t).i3c = s.i3c := by rw [State.reach_form]
@[simp] theorem State.reach_test (t : Nat) :
    (s.reach t).test = s.test := by rw [State.reach_form]
@[simp] theorem State.reach_free (t : Nat) :
    (s.reach t).free = s.free := by rw [State.reach_form]
@[simp] theorem State.reach_drawn (t : Nat) :
    (s.reach t).drawn = s.drawn := by rw [State.reach_form]

end Sys2Proof.Machine
end

