-- ==== Sys2Proof/Laws/Memory.lean ====
section
/-! SUPPORT. What reads of the sample memories give after writes and marks (R343, R458). -/

namespace Sys2Proof.Machine

open Sys2Proof

variable (s : State)

/-- A sample read after a write: the written word at its key, the old one elsewhere. -/
theorem State.teRead_teWrite (k j : Nat) (w : Word) :
    (s.teWrite k w).teRead j = if j = k then w else s.teRead j := by
  unfold State.teRead State.teWrite
  exact SMap.read_write

/-- The sample memories decide the bytes of a granule. -/
theorem State.teBytes_of {s t : State} (h : s.mem.te = t.mem.te) (g : Nat) : s.teBytes g = t.teBytes g := by
  unfold State.teBytes State.teRead
  rw [h]

/-- A mark writes the check of a granule and nothing else. -/
theorem State.teMark_form (g : Nat) : ∃ w, w = hc (s.teBytes g) ∧
    s.teMark g = { s with mem := { s.mem with teHall := SMap.write 0 s.mem.teHall g w } } := ⟨_, rfl, rfl⟩

/-- A granule whose check is that of its samples passes. -/
theorem State.teOk_of {s t : State} {g : Nat} (h : t.mem.te = s.mem.te)
    (hh : SMap.read 0 t.mem.teHall g = hc (s.teBytes g)) : t.teOk g = true := by
  unfold State.teOk
  rw [State.teBytes_of h, hh]
  generalize hc (s.teBytes g) = w
  simp

/-- A granule that has just been marked passes its check. -/
theorem State.teOk_teMark (g : Nat) : (s.teMark g).teOk g = true := by
  obtain ⟨w, hw, h⟩ := s.teMark_form g
  rw [h]
  exact State.teOk_of (s := s) rfl (by rw [← hw]; exact SMap.read_write_same)

/-- A fresh mark still passes at a later instant. -/
theorem State.teOk_reach_teMark (s : State) (g n : Nat) : ((s.teMark g).reach n).teOk g = true := by
  have h := s.teOk_teMark g
  unfold State.teOk State.teBytes State.teRead at h ⊢
  rwa [State.reach_mem]

end Sys2Proof.Machine
end

