-- ==== Sys2Proof/Tests/Slice0.lean ====
section
/-! SUPPORT. Tests: the loader refuses an ill-formed term for each of its checks, each statement's hypotheses are
met by a concrete state and operands, and some worked examples of the manual come out. -/

namespace Sys2Proof.Tests

set_option Elab.async false

open Sys2Proof Sys2Proof.Machine

/-- A command with its engine, its word 0 in parts, and words 2 to 7; it waits for no buffer. -/
def cmd (cls op region unit : Nat) (flags : Nat := 0) (w2 w3 w4 w5 w6 w7 : Word := 0) : Cmd :=
  { region := region, unit := unit
    w := { w0 := BitVec.ofNat 32 (op + cls * 2 ^ 8 + flags * 2 ^ 12), w1 := 0x01FFE000
           w2 := w2, w3 := w3, w4 := w4, w5 := w5, w6 := w6, w7 := w7 } }

/-- An elastic command of context 0 at cycle 1. -/
def ecmd (cls op region unit : Nat) (flags : Nat := 0) (w2 w3 w4 w5 w6 w7 : Word := 0) : Cmd :=
  let c := cmd cls op region unit flags w2 w3 w4 w5 w6 w7
  { c with cyc := 1, w := { c.w with w1 := 0x81FFE000 } }

/-- A device whose regions answer and whose data plane runs slots of 1,000,000 cycles, 4 to an epoch. -/
def live : State :=
  let s := State.reset.setReg Reg.PWR_DOM 0x1FFFFFFF
  let s := s.setReg Reg.STA_STEP 13
  let s := (s.setReg Reg.TCK_SLOTLEN 1000000).setReg Reg.TCK_SPE 4
  let s := (s.setReg Reg.ARC_ANVMAP 0xFFFFFFFF).setBit Reg.ARC_GRADE 8 true
  { s with clock := { s.clock with running := true } }

/-- `live` with an elastic window of every region and context 0 of region 0 running a job of three commands. -/
def elive : State :=
  let w := (List.range 13).map fun r => (r, (⟨0, 900000, 2 ^ 40 - 1, true⟩ : ElsWindow))
  let s := { live with plan := { live.plan with variants := [{ plans := [{ windows := w }] }] } }
  s.onCtx 0 fun _ => { image := { mask := 1, list := [{}, {}, {}] }, queue := [{}], resident := true
                       state := .running, member := some 0, sliceEnd := 900000 }

/-- A write stripe of zeros that waits whole in its Ladle. -/
def stripe : Stream :=
  { w3 := 0x200, blocks := [{ space := 1, usz := 11, cnt0 := 1, cnt1 := 1, cnt2 := 1, cnt3 := 1 }]
    staged := (List.range 2048).map fun j => (j, 0) }

/-- The state after a command, for the states that witnesses start from. -/
def after (i : Instr) (s : State) : State :=
  match exec i s with
  | .next t => t
  | _ => s

/-- Whether a command answers a next state with a property. -/
def nx (o : Host.Outcome State Fault Refusal) (p : State → Bool) : Bool :=
  match o with
  | .next t => p t
  | _ => false

/-! ## What the loader refuses (R299, R300 and the command sections) -/

/-- Ill-formed: what every engine command shares: class, opcode, engine, region, flags, reserved bits. -/
theorem test_ill_formed_common :
    ([.load (cmd 2 0x10 0 0),
      .load (cmd 1 0x11 0 0),
      .load (cmd 1 0x10 0 4),
      .load (cmd 1 0x10 8 0),
      .load (cmd 1 0x10 0 0 1),
      .load { cmd 1 0x10 0 0 with w := { (cmd 1 0x10 0 0).w with w1 := 0x0C000000 } },
      .load { cmd 1 0x10 0 0 with deps := [0x8001] },
      .openTensor (cmd 7 0x70 0 0 0 0 0x00010001),
      .fft { cmd 8 0x80 8 0 0 7 with w := { (cmd 8 0x80 8 0 0 7).w with w1 := 0x80000000 } }] : List Instr).all (fun i => !i.wf) = true := by decide +kernel

/-- Ill-formed: the Anvil's commands. -/
theorem test_ill_formed_anvil :
    ([.load (cmd 1 0x10 0 0 0 6),
      .load (cmd 1 0x10 0 0 0 0x00000C00),
      .load (cmd 1 0x10 0 0 0 0x00810000),
      .load (cmd 1 0x10 0 0 0 0x41000000),
      .stream (cmd 1 0x11 0 0 0 0 0 0xFFFF),
      .loadstream (cmd 1 0x12 0 0 0 0x9000),
      .bias (cmd 1 0x13 0 0 0 0x30),
      .drain (cmd 1 0x14 0 0),
      .drain (cmd 1 0x14 0 0 0 0 0x22000000)] : List Instr).all (fun i => !i.wf) = true := by decide +kernel

/-- Ill-formed: the Slicer's commands. -/
theorem test_ill_formed_slicer :
    ([.vload (cmd 2 0x20 0 0 0 0x1100),
      .sweep (cmd 2 0x21 0 0 0 0 0x1100),
      .sout (cmd 2 0x22 0 0 0 0x1100)] : List Instr).all (fun i => !i.wf) = true := by decide +kernel

/-- Ill-formed: the Swage's and the Crucible's commands. -/
theorem test_ill_formed_swage_crucible :
    ([.transpose (cmd 6 0x60 0 0 0 0x400),
      .transposeEmit 8 0,
      .openTensor (ecmd 7 0x70 0 0 0 0 0x00010000),
      .accum (ecmd 7 0x71 0 0 0 0 0 0x00001001),
      .flush (ecmd 7 0x72 0 0 0 0x60)] : List Instr).all (fun i => !i.wf) = true := by decide +kernel

/-- Ill-formed: the Planisher's commands. -/
theorem test_ill_formed_planisher :
    ([.tload (cmd 3 0x30 0 0 8 0x30),
      .tstore (cmd 3 0x31 0 0 0 0x20800),
      .ewise (cmd 3 0x32 0 0 0 0x1F),
      .reduce (cmd 3 0x33 0 0 0 6)] : List Instr).all (fun i => !i.wf) = true := by decide +kernel

/-- Ill-formed: the Tinker's commands. -/
theorem test_ill_formed_tinker :
    ([.desc (cmd 4 0x40 0 0 0 0 0x10000),
      .lookup (cmd 4 0x41 0 0 0 0 0x600),
      .sort (cmd 4 0x42 0 0 0 0 0x7003),
      .select (cmd 4 0x43 0 0 0 0 3 0),
      .pack (cmd 4 0x44 0 0 0 0 0),
      .crc (cmd 4 0x45 0 0 0 0 7),
      .scramble (cmd 4 0x46 0 0 0 0 0 0 1),
      .reenc (ecmd 4 0x47 0 0 0 0x200),
      .batch (cmd 4 0x48 0 0 0 0x4100),
      .fill (cmd 4 0x49 0 0 0 0 0x1000)] : List Instr).all (fun i => !i.wf) = true := by decide +kernel

/-- Ill-formed: the Ladle's ARM. -/
theorem test_ill_formed_ladle :
    ([.arm (cmd 5 0x50 0 0 0 0 0 0x00240000) none none,
      .arm (cmd 5 0x50 0 6) none none] : List Instr).all (fun i => !i.wf) = true := by decide +kernel

/-- Ill-formed: the transform engines' commands. -/
theorem test_ill_formed_radio :
    ([.fft (cmd 8 0x80 8 0 0 6),
      .ifft (cmd 8 0x81 8 0 0 7 0x08010000),
      .fir (cmd 8 0x82 8 0),
      .fetch (cmd 8 0x83 8 0 0 0x1800000 0 1),
      .steer (cmd 8 0x84 8 0 0 0x0001FFFF)] : List Instr).all (fun i => !i.wf) = true := by decide +kernel

/-- Ill-formed: CODE's commands. -/
theorem test_ill_formed_code :
    ([.ldec (cmd 9 0x90 10 0 0 0x10 0 0 0 31),
      .lenc (cmd 9 0x91 10 16 0 0 0 0 0 32),
      .pdec (cmd 9 0x92 10 24 0 0x10 0 0 0 32),
      .penc (cmd 9 0x93 10 24 0 4 0 0 0 32),
      .tbseg (cmd 9 0x94 10 29 0 0 0 0 0 32),
      .tbchk (cmd 9 0x95 9 28 0 0 0 0 0 32),
      .reEncoding 8 0] : List Instr).all (fun i => !i.wf) = true := by decide +kernel

/-- Ill-formed: NET's commands. -/
theorem test_ill_formed_net :
    ([.uprx (cmd 10 0xA0 9 8 0 0 0x1C0000),
      .uptx (cmd 10 0xA1 9 0 0 0xE0000 0x1C0000),
      .cptx (cmd 10 0xA2 9 0 0 1),
      .l2tx (cmd 10 0xA3 9 7),
      .l2rx (cmd 10 0xA4 9 8 1)] : List Instr).all (fun i => !i.wf) = true := by decide +kernel

/-- Ill-formed: SEND and RECV. -/
theorem test_ill_formed_switu :
    ([.send (cmd 11 0xB0 12 0 0 0 1),
      .recv (cmd 11 0xB1 12 1)] : List Instr).all (fun i => !i.wf) = true := by decide +kernel

/-! ## The hypotheses of each statement are met -/

theorem test_witness_StepTakesTheFrontCommand :
    ((decide (live.pending = [])) &&
    (let s : State := { live with pending := [.timeRead, .esmcTimeout] }
     decide (s.pending = .timeRead :: [.esmcTimeout]))) = true := by decide +kernel

theorem test_witness_EveryCommandIsAnswered :
    ((let i := Instr.drain (cmd 1 0x14 0 0)
     decide (i.isEngine = true ∧ i.wf = false)) &&
    (let i := Instr.drain (cmd 1 0x14 7 3 0 0 0x20000000)
     decide (i.isEngine = true ∧ i.wf = true)) &&
    (let i := Instr.timeRead
     decide (i.isEngine = false))) = true := by decide +kernel

theorem test_witness_AnvilTilesAndBiasRows :
    ((let c := cmd 1 0x10 7 3 0 0x407F0005
     decide (c.wfLoad = true ∧
       (live.drainsTo (live.comesAt c)).goes c ((live.drainsTo (live.comesAt c)).anvil c.region c.unit).arrayFree (2 ^ c.unit) = true)) &&
    (let c := cmd 1 0x10 0 0 0
     decide (c.wfLoad = true ∧
       (live.drainsTo (live.comesAt c)).goes c ((live.drainsTo (live.comesAt c)).anvil c.region c.unit).arrayFree (2 ^ c.unit) = true)) &&
    (let c := cmd 1 0x13 0 0 0 0x10 0x01FF0003
     decide (c.wfBias = true ∧
       (live.drainsTo (live.comesAt c)).goes c ((live.drainsTo (live.comesAt c)).anvil c.region c.unit).arrayFree (2 ^ c.unit) = true))) = true := by decide +kernel

theorem test_witness_AnvilStreamLaunchesItsRows :
    ((let c := cmd 1 0x11 0 0 1 0 0x01FF0003 0 1
     decide (((live.drainsTo (live.comesAt c)).takeLeave c (2 ^ c.unit) c.anvilLeave).1 = true ∧
       ((live.drainsTo (live.comesAt c)).takeLeave c (2 ^ c.unit) c.anvilLeave).2.goes c (((live.drainsTo (live.comesAt c)).takeLeave c (2 ^ c.unit) c.anvilLeave).2.anvil c.region c.unit).arrayFree (2 ^ c.unit) = true ∧
       c.wfStream = true)) &&
    (let c := cmd 1 0x12 0 0 0 0x02030000 2 0 1
     decide (((live.drainsTo (live.comesAt c)).takeLeave c (2 ^ c.unit) c.anvilLeave).1 = true ∧
       ((live.drainsTo (live.comesAt c)).takeLeave c (2 ^ c.unit) c.anvilLeave).2.goes c (((live.drainsTo (live.comesAt c)).takeLeave c (2 ^ c.unit) c.anvilLeave).2.anvil c.region c.unit).arrayFree (2 ^ c.unit) = true ∧
       c.wfLoadstream = true))) = true := by decide +kernel

theorem test_witness_AnvilDrainTakesTheDrainSlot :
    ((let c := cmd 1 0x14 0 0 0 0 0x20000000
     decide (c.wfDrain = true ∧
       (live.drainsTo (live.comesAt c)).goes c ((live.drainsTo (live.comesAt c)).anvil c.region c.unit).drainFree (2 ^ c.unit) = true)) &&
    (let c := cmd 1 0x14 0 0 0 0 0x20000002
     decide (c.wfDrain = true ∧
       (live.drainsTo (live.comesAt c)).goes c ((live.drainsTo (live.comesAt c)).anvil c.region c.unit).drainFree (2 ^ c.unit) = true))) = true := by decide +kernel

theorem test_witness_SlicerCommandsTakeTheSlicer :
    ((let c := cmd 2 0x20 7 0 0 0x00021000
     decide (c.wfVload = true ∧ live.goes c (live.slicer c.region).free slicerBit = true)) &&
    (let c := cmd 2 0x21 0 0 1 0x00020000 0x200 0 1
     decide (c.wfSweep = true ∧ (live.takeLeave c slicerBit (bitsOf c.w.w5 0 12)).1 = true ∧
       (live.takeLeave c slicerBit (bitsOf c.w.w5 0 12)).2.goes c ((live.takeLeave c slicerBit (bitsOf c.w.w5 0 12)).2.slicer c.region).free slicerBit = true)) &&
    (let c := cmd 2 0x22 0 0 0 0x00020200
     decide (c.wfSout = true ∧ live.goes c (live.slicer c.region).free slicerBit = true))) = true := by decide +kernel

theorem test_witness_SwageFillsAndEmitsBlocks :
    ((let c := cmd 6 0x60 0 0 0 0x02030010
     decide (c.wfTranspose = true ∧
       live.goes c (max (live.swage c.region).fillFree (SMap.read {} (live.swage c.region).bufs (bitsOf c.w.w2 8 2)).emitEnd) (2 ^ 16) = true)) &&
    (let s := after (.transpose (cmd 6 0x60 0 0 0 0x02030010)) live
     decide (s.engineLive 0 = true ∧ (SMap.read {} (s.swage 0).bufs 0).filled = true)) &&
    (decide ((SMap.read {} (live.swage 3).bufs 2).filled = false))) = true := by decide +kernel

theorem test_witness_CrucibleTensorsOpenGatherAndFlush :
    ((let o := ecmd 7 0x70 0 0 0 0x00000011 0x00020003 0x800
     decide (elive.goes o (elive.crucible o.region).free (2 ^ 17) = true ∧ o.wfOpen = true ∧
       ((elive.crucible o.region).tensor 1).isOpen = false)) &&
    (let o := ecmd 7 0x70 0 0 0 0x00000011 0x00020003 0x800
     let s := after (.openTensor o) elive
     let a := { ecmd 7 0x71 0 0 0 0x00000001 0x00010001 0x00010002 with cyc := 100000 }; let a := { a with w := { a.w with w0 := a.w.w0 ||| 0x01000000 } }
     let x := s.issue a (crucibleLoc a.region) (s.crucible a.region).free (2 ^ 17)
     decide (s.goes a (s.crucible a.region).free (2 ^ 17) = true ∧ a.wfAccum = true ∧
       ((s.crucible 0).tensor 1).usable x.1.ctx = true ∧ bitsOf a.w.w4 0 13 * bitsOf a.w.w4 16 13 ≠ 0 ∧
       a.slip = none)) &&
    (let o := ecmd 7 0x70 0 0 0 0x00000011 0x00020003 0x800
     let s := after (.openTensor o) elive
     let f := { ecmd 7 0x72 0 0 0 0x201 with cyc := 100000 }; let f := { f with w := { f.w with w0 := f.w.w0 ||| 0x01000000 } }
     let x := s.issue f (crucibleLoc f.region) (s.crucible f.region).free (2 ^ 17)
     decide (s.goes f (s.crucible f.region).free (2 ^ 17) = true ∧ f.wfFlush = true ∧
       ((s.crucible 0).tensor 1).usable x.1.ctx = true)) &&
    (let o := ecmd 7 0x70 0 0 0 0x00000011 0x00020003 0x800
     let s := after (.openTensor o) elive
     let f := { ecmd 7 0x72 0 0 0 0x001 with cyc := 100000 }; let f := { f with w := { f.w with w0 := f.w.w0 ||| 0x01000000 } }
     let x := s.issue f (crucibleLoc f.region) (s.crucible f.region).free (2 ^ 17)
     decide (s.goes f (s.crucible f.region).free (2 ^ 17) = true ∧ f.wfFlush = true ∧
       ((s.crucible 0).tensor 1).usable x.1.ctx = true))) = true := by decide +kernel

theorem test_witness_CrucibleRefusesAForeignTensor :
    ((let s := elive.setCrucible 0 { (elive.crucible 0) with tensors := SMap.write {} [] 0 { isOpen := true, owner := 1, rows := 1, cols := 1 } }
     let c := ecmd 7 0x70 0 0 0 0 0x00010001 0
     let x := s.issue c (crucibleLoc c.region) (s.crucible c.region).free (2 ^ 17)
     decide (s.goes c (s.crucible c.region).free (2 ^ 17) = true ∧ c.wfOpen = true ∧
       ((s.crucible 0).tensor 0).isOpen = true ∧ ((s.crucible 0).tensor 0).usable x.1.ctx = false ∧
       x.1.ctx ≠ some ((s.crucible 0).tensor 0).owner)) &&
    (let s := elive.setCrucible 0 { (elive.crucible 0) with tensors := SMap.write {} [] 0 { isOpen := true, owner := 1, rows := 1, cols := 1 } }
     let c := ecmd 7 0x71 0 0 0 0 0 0x00010001
     let x := s.issue c (crucibleLoc c.region) (s.crucible c.region).free (2 ^ 17)
     decide (s.goes c (s.crucible c.region).free (2 ^ 17) = true ∧ c.wfAccum = true ∧
       ((s.crucible 0).tensor 0).isOpen = true ∧ ((s.crucible 0).tensor 0).usable x.1.ctx = false ∧
       x.1.ctx ≠ some ((s.crucible 0).tensor 0).owner)) &&
    (let s := elive.setCrucible 0 { (elive.crucible 0) with tensors := SMap.write {} [] 0 { isOpen := true, owner := 1, rows := 1, cols := 1 } }
     let c := ecmd 7 0x72 0 0 0 0x10
     let x := s.issue c (crucibleLoc c.region) (s.crucible c.region).free (2 ^ 17)
     decide (s.goes c (s.crucible c.region).free (2 ^ 17) = true ∧ c.wfFlush = true ∧
       ((s.crucible 0).tensor 0).isOpen = true ∧ ((s.crucible 0).tensor 0).usable x.1.ctx = false ∧
       x.1.ctx ≠ some ((s.crucible 0).tensor 0).owner))) = true := by decide +kernel

theorem test_witness_PlanisherCommandsRunInTheirSlots :
    ((let c := cmd 3 0x30 7 1 8 0xF00 0
     decide (c.wfTload = true ∧
       live.goes c ((live.planisher c.region c.unit).freeFor false ([]) ([bitsOf c.w.w2 8 3])) (planBit c) = true)) &&
    (let c := cmd 3 0x31 0 0 0 0x800 0
     decide (c.wfTstore = true ∧
       live.goes c ((live.planisher c.region c.unit).freeFor false ([bitsOf c.w.w2 8 3]) ([])) (planBit c) = true)) &&
    (let c := cmd 3 0x32 0 1 1 0x00200040 0x00002000
     decide (c.wfEwise = true ∧
       live.goes c ((live.planisher c.region c.unit).freeFor true (c.ewiseReads) ([bitsOf c.w.w2 6 3])) (planBit c) = true)) &&
    (let c := cmd 3 0x32 0 0 2 0x00200061 0x00002000
     decide (c.wfEwise = true ∧
       live.goes c ((live.planisher c.region c.unit).freeFor true (c.ewiseReads) ([bitsOf c.w.w2 6 3])) (planBit c) = true)) &&
    (let c := cmd 3 0x33 0 0 0 0x00000900 0
     decide (c.wfReduce = true ∧
       live.goes c ((live.planisher c.region c.unit).freeFor true (c.reduceReads) ([bitsOf c.w.w2 7 3])) (planBit c) = true))) = true := by decide +kernel

theorem test_witness_TinkerCommandsTakeTheTinker :
    ((let c := cmd 4 0x40 0 3 0 0x100 0 0
     let s := live
     decide ((Instr.desc c).wf = true ∧ s.goes c (s.tinker c.region c.unit).free (tinkerBit c) = true)) &&
    (let c := cmd 4 0x41 0 3 0 0x100 0 0
     let s := live
     decide ((Instr.lookup c).wf = true ∧ s.goes c (s.tinker c.region c.unit).free (tinkerBit c) = true)) &&
    (let c := cmd 4 0x42 0 3 0 0x200 0 0
     let s := live
     decide ((Instr.sort c).wf = true ∧ s.goes c (s.tinker c.region c.unit).free (tinkerBit c) = true)) &&
    (let c := cmd 4 0x43 0 3 0 0x200 0 1
     let s := live
     decide ((Instr.select c).wf = true ∧ s.goes c (s.tinker c.region c.unit).free (tinkerBit c) = true)) &&
    (let c := cmd 4 0x44 0 3 0 0x100 1 0
     let s := live
     decide ((Instr.pack c).wf = true ∧ s.goes c (s.tinker c.region c.unit).free (tinkerBit c) = true)) &&
    (let c := cmd 4 0x45 0 3 0 0x4000 0 0
     let s := live
     decide ((Instr.crc c).wf = true ∧ s.goes c (s.tinker c.region c.unit).free (tinkerBit c) = true)) &&
    (let c := cmd 4 0x46 0 3 0 0x4000 1 1
     let s := live
     decide ((Instr.scramble c).wf = true ∧ s.goes c (s.tinker c.region c.unit).free (tinkerBit c) = true)) &&
    (let c := ecmd 4 0x47 0 3 0 0x100 0 0
     let s := elive
     decide ((Instr.reenc c).wf = true ∧ s.goes c (s.tinker c.region c.unit).free (tinkerBit c) = true)) &&
    (let c := cmd 4 0x48 0 0 0 0x100 0x1 0
     let s := live
     decide ((Instr.batch c).wf = true ∧ s.goes c (s.tinker c.region c.unit).free (tinkerBit c) = true)) &&
    (let c := cmd 4 0x49 0 0 0 0x100 0 0
     let s := live
     decide ((Instr.fill c).wf = true ∧ s.goes c (s.tinker c.region c.unit).free (tinkerBit c) = true))) = true := by decide +kernel

theorem test_witness_SortPutsRecordsInKeyOrder :
    ((let c := cmd 4 0x42 0 0 0 0x200 0x3 0
     decide (c.wfSort = true))) = true := by decide +kernel

theorem test_witness_LadleStreamsStartEndAndFollow :
    ((let c := cmd 5 0x50 7 5 0 0 0 0x003F0000
     decide (c.wfArm = true ∧ (live.ladle c.region c.unit).active = none ∧ (live.ladle c.region c.unit).shadow = none ∧
       (if bitsOf c.w.w5 0 12 = 0 then true else (live.takeLeave c (2 ^ (10 + c.unit)) (bitsOf c.w.w5 0 12)).1) = true ∧
       live.goes c 0 (2 ^ (10 + c.unit)) = true)) &&
    (let a : Stream := { finished := true }
     let s := live.setLadle 0 0 { active := some a, shadow := none }
     decide ((s.ladle 0 0).active = some a ∧ a.isDone = true ∧ a.stopping = false)) &&
    (let a : Stream := { w0 := 7 }
     let s := live.setLadle 0 0 { active := none, shadow := some a }
     decide ((s.ladle 0 0).active = none ∧ (s.ladle 0 0).shadow = some a)) &&
    (let a : Stream := { w0 := 7 }
     let s := live.setLadle 0 0 { active := some a, shadow := none }
     decide ((s.ladle 0 0).active = some a)) &&
    (let a : Stream := { stopping := true }
     let s := live.setLadle 0 0 { active := some a, shadow := none }
     decide ((s.ladle 0 0).active = some a ∧ a.stopping = true))) = true := by decide +kernel

theorem test_witness_HbmEventsCountAndClear :
    ((let w : HbmWindow := ⟨0, 8, 0, 1, reqOf 0, 0, true⟩
     let p : Plan := { hbm := [(0, w)] }
     let s : State := { (live.setBit Reg.MEM_CFG 0 true) with plan := { live.plan with variants := [{ plans := [p] }] } }
     decide ((s.hbmTable 0).find? (fun w : HbmWindow => w.isData && w.claims 7 && w.serves (reqOf 0) false none) = some w ∧
       s.engineLive 11 = true ∧ s.bit Reg.MEM_CFG 0 = true ∧ w.parity = true ∧
       stolenByRefresh (s.hbmTable 0) w 7 = false ∧ 6 ≤ 6)) &&
    (let a := stripe
     let w : HbmWindow := ⟨0, 8, 0, 2, reqOf 0, 0, true⟩
     let p : Plan := { hbm := [(0, w)] }
     let s : State := { (live.setBit Reg.MEM_CFG 0 true) with plan := { live.plan with variants := [{ plans := [p] }] }, ladles := SMap.write {} [] 0 { active := some a } }
     let s1 := s.reach (4 * 7)
     let n := a.writeStripes.getD 0 0
     decide (0 < 8 ∧ 0 < 6 ∧ (s.ladle 0 0).active = some a ∧ (s1.ladle 0 0).active = some a ∧
       (s.hbmTable 0).find? (fun w : HbmWindow => w.isData && w.claims 7 && w.serves (reqOf 0) true (some a)) = some w ∧
       s.engineLive 11 = true ∧ s.bit Reg.MEM_CFG 0 = true ∧ w.parity = true ∧
       stolenByRefresh (s.hbmTable 0) w 7 = false ∧ s1.lostLock 13 = false ∧ a.nextStripe 0 true = some 0 ∧
       a.start + 24 ≤ 4 * 7 ∧ s1.bankFree 0 (stripeBank n) (s1.absSlot 7) = true)) &&
    (let w : HbmWindow := ⟨5, 1, 1, 3, 0, 2, true⟩
     let p : Plan := { hbm := [(1, w)] }
     let s : State := { (live.setBit Reg.MEM_CFG 1 true) with plan := { live.plan with variants := [{ plans := [p] }] } }
     decide ((s.hbmTable 1).find? (fun w : HbmWindow => w.type = 3 && w.start = 5) = some w ∧ s.engineLive 11 = true ∧
       s.bit Reg.MEM_CFG 1 = true ∧ w.parity = true)) &&
    (decide (7 < 8 ∧ 47 < 48 ∧ live.served 7 = true ∧ live.portEmpty 7 47 = true))) = true := by decide +kernel

theorem test_witness_TransformEnginesTakeTheirTime :
    ((let s := (List.range 64).foldl (fun s k => (s.teWrite (teKey 15 0 k) (BitVec.ofNat 32 (k * 65537 + 12345 * k)))) live
     let c := cmd 8 0x80 8 15 0 0x00000007 0x2000 0x00400000 0 0x0A000000 5
     decide (s.goes c (s.unitFree 8 8 c.unit) 0 = true ∧ c.wfFft = true)) &&
    (let s := (List.range 64).foldl (fun s k => (s.teWrite (teKey 15 0 k) (BitVec.ofNat 32 (k * 65537 + 12345 * k)))) live
     let c := cmd 8 0x80 8 15 0 0x00000008 0x2000 0x00400000 0 0x0A000000 5
     decide (s.goes c (s.unitFree 8 8 c.unit) 0 = true ∧ c.wfFft = true)) &&
    (let s := live
     let c := cmd 8 0x80 8 15 0 0x0000000D 0 0 0 0 0
     decide (s.goes c (s.unitFree 8 8 c.unit) 0 = true ∧ c.wfFft = true)) &&
    (let s := (List.range 64).foldl (fun s k => (s.teWrite (teKey 15 0 k) (BitVec.ofNat 32 (k * 65537 + 12345 * k)))) live
     let c := cmd 8 0x81 8 15 0 0x00000007 0x00092000 0x00400000 0 0 7
     decide (s.goes c (s.unitFree 8 8 c.unit) 0 = true ∧ c.wfIfft = true)) &&
    (let s := (List.range 64).foldl (fun s k => (s.teWrite (teKey 15 0 k) (BitVec.ofNat 32 (k * 65537 + 12345 * k)))) live
     let c := cmd 8 0x82 8 15 0 0 0x00011000 3 0 0x02000000 9
     decide (s.goes c (s.unitFree 8 8 c.unit) 0 = true ∧ c.wfFir = true)) &&
    (let s := live
     let c := cmd 8 0x82 8 15 0 0 0x00011000 0 0 0 9
     decide (s.goes c (s.unitFree 8 8 c.unit) 0 = true ∧ c.wfFir = true)) &&
    (let s := { live with mem := { live.mem with pad := (List.range 80).foldl (fun m k => SMap.write 0 m k (BitVec.ofNat 8 (k * 7 + 3))) [] } }
     let c := cmd 8 0x83 8 15 0 0 0 17 0 0 0
     decide (s.goes c (s.unitFree 8 8 c.unit) 0 = true ∧ c.wfFetch = true)) &&
    (let s := live
     let c := cmd 8 0x83 8 15 0 0 0 0 0 0 0
     decide (s.goes c (s.unitFree 8 8 c.unit) 0 = true ∧ c.wfFetch = true))) = true := by decide +kernel

set_option maxRecDepth 100000 in
theorem test_witness_RadioSamplesPassTheNco :
    ((let s0 : State := { live with plan := { live.plan with variants := [{ rx := [(0, { nco := some 0 })], tx := [(0, { engine := 1, nco := some 15 })] }] } }
     let s := (s0.setFld (Reg.JRX_STAT 0) 0 3 4).setFld (Reg.JRX_STAT 0) 16 16 3
     let n := s.renumber false (s.rxChan 0).link 0 5
     let ch := s.rxChan 0
     let s1 := if n.1 = s.slot then s.reach (s.sampleCycle n.2 + s.fld (Reg.JRX_STAT ch.link) 16 16) else s
     decide (s.served 8 = true ∧ s.clock.running = true ∧ (s.variant s.active).rx.any (fun e => e.1 == 0) = true ∧
       s1.fld (Reg.JRX_STAT ch.link) 0 3 = 4)) &&
    (let s0 : State := { live with plan := { live.plan with variants := [{ rx := [(0, { nco := some 0 })], tx := [(0, { engine := 1, nco := some 15 })] }] } }
     let s := (s0.setFld (Reg.JRX_STAT 0) 0 3 3).teWrite 5 7
     let n := s.renumber false (s.rxChan 0).link 0 5
     let ch := s.rxChan 0
     let s1 := if n.1 = s.slot then s.reach (s.sampleCycle n.2 + s.fld (Reg.JRX_STAT ch.link) 16 16) else s
     decide (s.served 8 = true ∧ s.clock.running = true ∧ (s.variant s.active).rx.any (fun e => e.1 == 0) = true ∧
       s1.fld (Reg.JRX_STAT ch.link) 0 3 ≠ 4)) &&
    (let s0 : State := { live with plan := { live.plan with variants := [{ rx := [(0, { nco := some 0 })], tx := [(0, { engine := 1, nco := some 15 })] }] } }
     let s := s0.setFld (Reg.JTX_STAT 0) 0 3 4
     let n := s.renumber true (s.txChan 0).link 0 0
     let ch := s.txChan 0
     let s1 := if n.1 = s.slot then s.reach (s.sampleCycle n.2 - s.fld (Reg.JTX_STAT ch.link) 16 16) else s
     decide (s.served 8 = true ∧ s.clock.running = true ∧ (s.variant s.active).tx.any (fun e => e.1 == 0) = true ∧
       s.fatalIdle = false ∧ s.fld (Reg.JTX_STAT ch.link) 0 3 = 4 ∧
       s1.granuleDone 0 (s1.ringAddr ch n.1 n.2) (n.1 * slotSamples + n.2) = false)) &&
    (let s0 : State := { live with plan := { live.plan with variants := [{ rx := [(0, { nco := some 0 })], tx := [(0, { engine := 1, nco := some 15 })] }] } }
     let s := s0
     decide (s.served 8 = true ∧ s.clock.running = true ∧ (s.variant s.active).tx.any (fun e => e.1 == 0) = true ∧
       s.fld (Reg.JTX_STAT (s.txChan 0).link) 0 3 ≠ 4))) = true := by decide +kernel

theorem test_witness_LinkEventsAndSymbolTicks :
    ((let s := live.setFld (Reg.JRX_ERR 7) 0 8 255
     decide (7 < 8 ∧ s.served 8 = true)) &&
    (let s := live.setFld (linkStat true 7) 0 3 4
     decide (7 < 8 ∧ s.served 8 = true)) &&
    (let s := live.setFld (linkStat false 2) 0 3 4
     decide (7 < 8 ∧ s.served 8 = true)) &&
    (let s := (live.setFld (linkStat false 7) 0 3 3).setBit Reg.RAD_SYSREF 1 true
     decide (s.served 8 = true ∧ s.fld (linkStat false 7) 0 3 ≠ 4 ∧ s.bit Reg.RAD_SYSREF 1 = true)) &&
    (let s0 := live.setFld (linkStat true 7) 0 3 3
     let s : State := { s0 with pins := { s0.pins with sysrefReq := true } }
     decide (s.served 8 = true ∧ s.bit Reg.RAD_SYSREF 1 = false ∧ s.pins.sysrefReq = true)) &&
    (let s := ((live.setFld Reg.TCK_SYMS 0 4 14).setFld (linkStat true 7) 0 3 3).setFld (linkStat false 0) 0 3 4
     let s1 := s.reach (s.fld (Reg.TCK_SYMOFF 13) 0 21)
     decide (s.clock.running = true ∧ 13 < s.fld Reg.TCK_SYMS 0 4 ∧ s1.served 8 = true ∧
       s1.fld (linkStat true 7) 0 3 = 3 ∧ s1.fld (linkStat false 0) 0 3 = 4))) = true := by decide +kernel

theorem test_witness_GainLoopsWindowAndApply :
    ((let s : State := { live with radio := { live.radio with loops := SMap.write {} [] 63 { count := 16, sum := 100 } } }
     let s := s.setFld (winKey 63 Reg.AGC_CFG) 8 4 4
     decide (s.served 8 = true ∧ 2 ^ s.fld (winKey 63 Reg.AGC_CFG) 8 4 ≤ (s.loop 63).count)) &&
    (let s : State := { live with radio := { live.radio with loops := SMap.write {} [] 63 { words := [(50, 3), (60, 4), (70, 5)], att := 1 } } }
     decide (s.served 8 = true)) &&
    (let s : State := { live with radio := { live.radio with loops := SMap.write {} [] 63 { frozen := true, frozenUntil := 60, count := 3 } } }
     decide (s.served 8 = true ∧ ((s.reach 60).loop 63).frozen = true ∧
       ((s.reach 60).loop 63).frozenUntil ≤ s.absCycle (max 60 s.clock.cc)))) = true := by decide +kernel

theorem test_witness_SteeringLanesSendAFrameEach :
    ((let s := live.setReg Reg.STP_CFG 0b1010
     decide (s.clock.running = true ∧ s.served 8 = true ∧ 2499 < s.slotLen / 400)) &&
    (let c := cmd 8 0x84 8 15 0 0x000000000
     decide (c.wfSteer = true ∧ live.goes c (live.unitFree 8 8 c.unit) 0 = true)) &&
    (let c := cmd 8 0x84 8 15 0 0x000030000
     decide (c.wfSteer = true ∧ live.goes c (live.unitFree 8 8 c.unit) 0 = true))) = true := by decide +kernel

theorem test_witness_NcoStepsAndClears :
    ((let s : State := { (live.setReg (Reg.NCO_DELTA 3) 0x7FFFFFF0) with radio := { live.radio with steps := [⟨1, 3, 100, 40⟩, ⟨1, 3, 5, 60⟩, ⟨2, 3, 7, 40⟩] } }
     decide (s.served 8 = true ∧
       (s.reach 50).radio.steps.filter (fun x => x.target == 3 && x.kind == 1 && decide (x.time ≤ s.absCycle (max 50 s.clock.cc))) = [⟨1, 3, 100, 40⟩])) &&
    (decide (live.served 8 = true ∧
       (live.reach 50).radio.steps.filter (fun x => x.target == 3 && x.kind == 1 && decide (x.time ≤ live.absCycle (max 50 live.clock.cc))) = [])) &&
    (let s : State := { (live.setReg (Reg.NCO_DELTA 3) 0x7FFFFFF0) with radio := { live.radio with steps := [⟨1, 3, 100, 40⟩, ⟨1, 3, 5, 60⟩, ⟨2, 3, 7, 40⟩] } }
     decide (s.served 8 = true)) &&
    (let s := (live.setReg (Reg.NCO_DELTA 15) 5).setBit (Reg.NCO_CTL 15) 1 true
     decide (s.served 8 = true ∧ 15 < 16 ∧ s.bit (Reg.NCO_CTL 15) 1 = true))) = true := by decide +kernel

theorem test_witness_CodeCommandsAndRequestsRun :
    ((let c := cmd 9 0x90 10 15 0 0x0000001F 0 0 0 32
     let g := if true then live.takeLeave c (2 ^ c.unit) c.codeLeave else (true, live)
     decide ((Instr.ldec c).wf = true ∧ g.1 = true ∧ g.2.goes c (g.2.unitFree 9 10 c.unit) (2 ^ c.unit) = true)) &&
    (let c := cmd 9 0x91 10 16 0 0x10 0 0 0 32
     let g := if true then live.takeLeave c (2 ^ c.unit) c.codeLeave else (true, live)
     decide ((Instr.lenc c).wf = true ∧ g.1 = true ∧ g.2.goes c (g.2.unitFree 9 10 c.unit) (2 ^ c.unit) = true)) &&
    (let c := cmd 9 0x92 10 27 0 3 0 0 0 32
     let g := if false then live.takeLeave c (2 ^ c.unit) c.codeLeave else (true, live)
     decide ((Instr.pdec c).wf = true ∧ g.1 = true ∧ g.2.goes c (g.2.unitFree 9 10 c.unit) (2 ^ c.unit) = true)) &&
    (let c := cmd 9 0x93 10 24 0 0 0 0 0 32
     let g := if false then live.takeLeave c (2 ^ c.unit) c.codeLeave else (true, live)
     decide ((Instr.penc c).wf = true ∧ g.1 = true ∧ g.2.goes c (g.2.unitFree 9 10 c.unit) (2 ^ c.unit) = true)) &&
    (let c := cmd 9 0x94 10 35 0 7 0 0 0 32
     let g := if false then live.takeLeave c (2 ^ c.unit) c.codeLeave else (true, live)
     decide ((Instr.tbseg c).wf = true ∧ g.1 = true ∧ g.2.goes c (g.2.unitFree 9 10 c.unit) (2 ^ c.unit) = true)) &&
    (let c := cmd 9 0x95 10 28 0 0 0 0 0 32
     let g := if false then live.takeLeave c (2 ^ c.unit) c.codeLeave else (true, live)
     decide ((Instr.tbchk c).wf = true ∧ g.1 = true ∧ g.2.goes c (g.2.unitFree 9 10 c.unit) (2 ^ c.unit) = true)) &&
    (let q : CodeRequest := ⟨0, List.replicate 16 0⟩
     let s : State := { elive with code := { elive.code with queue := [q, q] } }
     decide (7 < 8 ∧ (s.reach 5).code.queue = [q, q] ∧ (s.reach 5).engineLive 10 = true ∧
       ((s.reach 5).openWindow 10 5 (2 ^ (16 + 7))).isSome = true ∧ (s.reach 5).unitFree 9 10 (16 + 7) ≤ 5)) &&
    (decide (7 < 8 ∧ (live.reach 5).code.queue = []))) = true := by decide +kernel

theorem test_witness_NetCommandsRunOnTheirPorts :
    ((let c := cmd 10 0xa0 9 7 0 0x000D0000 (0x220 ||| (7 <<< 18)) 0x06000000 0 0x00000009
     decide (live.goes c (live.unitFree 10 9 c.unit) 0 = true ∧ c.wfUprx = true)) &&
    (let c := cmd 10 0xa0 9 0 0 0 (7 <<< 18) 0 0 0xFFF
     decide (live.goes c (live.unitFree 10 9 c.unit) 0 = true ∧ c.wfUprx = true)) &&
    (let c := cmd 10 0xa1 9 7 0 0x000D0000 (0x403 ||| (7 <<< 18))
     decide (live.goes c (live.unitFree 10 9 c.unit) 0 = true ∧ c.wfUptx = true)) &&
    (let c := cmd 10 0xa1 9 0 0 0 (7 <<< 18)
     decide (live.goes c (live.unitFree 10 9 c.unit) 0 = true ∧ c.wfUptx = true)) &&
    (let c := cmd 10 0xa2 9 7 0 0x17
     decide (live.goes c (live.unitFree 10 9 c.unit) 0 = true ∧ c.wfCptx = true)) &&
    (let c := cmd 10 0xa2 9 0 0 0
     decide (live.goes c (live.unitFree 10 9 c.unit) 0 = true ∧ c.wfCptx = true)) &&
    (let c := cmd 10 0xa3 9 8 0 0x10
     decide (live.goes c (live.unitFree 10 9 c.unit) 0 = true ∧ c.wfL2tx = true)) &&
    (let c := cmd 10 0xa3 9 8 0 0
     decide (live.goes c (live.unitFree 10 9 c.unit) 0 = true ∧ c.wfL2tx = true)) &&
    (let c := cmd 10 0xA4 9 8 0 0x00000006 0 0x04000000 0 0x10
     let s : State := { live with net := { live.net with msgs := [⟨1, 12, 0, 0, [0, 0, 0, 0]⟩, ⟨2, 8, 0, 0, []⟩, ⟨3, 24, 0, 0, List.replicate 16 0⟩] } }
     decide (s.goes c (s.unitFree 10 9 c.unit) 0 = true ∧ c.wfL2rx = true))) = true := by decide +kernel

theorem test_witness_FramesAreCountedQueuedAndTaken :
    ((let f : EthFrame := { fcs := false, dst := 0, etype := 0x0800, tags := 0, len := 64, udp := some (true, 0xFFFFFFFF) }
     let s := live.setFld (winKey 8 Reg.NET_PCNT) 0 16 65535
     decide (s.served 9 = true ∧ s.isShadow = false ∧ f.fcs = false)) &&
    (let f : EthFrame := { fcs := true, dst := 0, etype := 0x0800, tags := 0, len := 64, udp := some (true, 0xFFFFFFFF) }
     decide (live.served 9 = true ∧ live.isShadow = false ∧ f.fcs = true ∧ live.lostLock 23 = false ∧ 64 ≤ f.len ∧
       f.len ≤ 9216 ∧ f.tags ≤ 1 ∧ live.takesFrame 8 f = true ∧ live.netUsed + f.len ≤ 2 ^ 24 ∧
       f.udp = some (true, 0xFFFFFFFF))) &&
    (let f : EthFrame := { fcs := true, dst := 0, etype := 0x0800, tags := 1, len := 9216, udp := some (true, 0xFFFFFFFF) }
     decide (live.served 9 = true ∧ live.isShadow = false ∧ f.fcs = true ∧ live.lostLock 23 = false ∧ 64 ≤ f.len ∧
       f.len ≤ 9216 ∧ f.tags ≤ 1 ∧ live.takesFrame 8 f = true ∧ live.netUsed + f.len ≤ 2 ^ 24 ∧
       f.udp = some (true, 0xFFFFFFFF))) &&
    (decide (live.served 9 = true)) &&
    (let s : State := { live with plan := { live.plan with net := { ipv6 := [77] } } }
     decide (s.served 9 = true ∧ s.plan.net.ipv6.contains 77 = true)) &&
    (let s := live.setBit (winKey 8 Reg.NET_PSTAT) 0 true
     decide (s.served 9 = true)) &&
    (let s := live.setFld Reg.NET_SYNCE 8 4 2
     decide (s.served 9 = true)) &&
    (let s := live.setBit Reg.NET_PTPFWD 7 true
     decide (s.served 9 = true ∧ s.bit Reg.NET_PTPFWD 7 = true)) &&
    (let r : Record := ⟨0, 0, 0, 0, 0x0D05, .masked, false, 0, 0, 0, 0, true⟩
     let s : State := { live with faults := { live.faults with copies := [r, r] } }
     decide (s.served 9 = true ∧ s.faults.copies = [r, r]))) = true := by decide +kernel

theorem test_witness_MessagesAndSectionsWaitForTheirReaders :
    ((let m : L2Msg := ⟨1, 28, 0, 0, List.replicate 20 0⟩
     decide (live.served 9 = true ∧ live.isShadow = false ∧ m.wellSized = true ∧
       (1 = 2 ∨ SMap.read 0 live.net.closed 1 = 0))) &&
    (let m : L2Msg := ⟨2, 8, 0, 0, List.replicate 0 0⟩
     decide (live.served 9 = true ∧ live.isShadow = false ∧ m.wellSized = true ∧
       (2 = 2 ∨ SMap.read 0 live.net.closed 2 = 0))) &&
    (let m : L2Msg := ⟨3, 24, 0, 0, List.replicate 16 0⟩
     decide (live.served 9 = true ∧ live.isShadow = false ∧ m.wellSized = true ∧
       (3 = 2 ∨ SMap.read 0 live.net.closed 3 = 0))) &&
    (let m : L2Msg := ⟨3, 20, 0, 0, List.replicate 12 0⟩
     decide (live.served 9 = true ∧ live.isShadow = false ∧ m.wellSized = false)) &&
    (let m : L2Msg := ⟨1, 12, 0, 0, List.replicate 12 0⟩
     let m := if m.wellSized then m else { m with body := List.replicate 4 0 }
     let s : State := { live with net := { live.net with closed := SMap.write 0 [] 1 (m.airslot + 1) } }
     decide (s.served 9 = true ∧ s.isShadow = false ∧ m.type = 1 ∧ m.wellSized = true ∧
       SMap.read 0 s.net.closed 1 = m.airslot + 1)) &&
    (let e : Eaxc := ⟨5, 7, 0, true, 9, 0⟩
     let s : State := { live with plan := { live.plan with net := { eaxc := [e] }, variants := [{ plans := [{ uprx := [⟨5, 13, 0, 5000, 4000⟩] }] }] } }
     let x : USection := { eaxc := 5, frame := 0, subframe := 0, slotId := 0, sym := 13, prb0 := 0, prbs := List.replicate 273 (0, []) , filter := 3 }
     let s1 := s.reach 5000
     let ws := s1.windowsFor x
     decide (s.served 9 = true ∧ s.isShadow = false ∧ s1.isShadow = false ∧
       s1.plan.net.eaxc.any (fun e => e.id == x.eaxc && s1.lostLock (15 + e.port)) = false ∧ x.rev = 1 ∧
       x.concat = false ∧ x.msgType = 0 ∧ x.eBit = true ∧ x.payVer = 1 ∧ x.filter ≤ 3 ∧ x.symInc = false ∧
       x.prbs.length ≤ 273 ∧ s1.plan.net.eaxc.any (fun e => e.id = x.eaxc) = true ∧
       ws.any (fun w => decide (w.1 ≤ (5000 : Int)) && decide ((5000 : Int) ≤ w.2)) = true))) = true := by decide +kernel

theorem test_witness_TriggersArmAndFire :
    ((let v : Word := 0x40000005
     decide (3 < 4 ∧ live.faults.discard = false ∧ bitOf v 31 = false)) &&
    (let v : Word := 0xC0000005
     let s1 := live.setReg (Reg.TU_TRGN 3) (v &&& 0xBFFFFFFF)
     decide (3 < 4 ∧ live.faults.discard = false ∧ bitOf v 31 = true ∧ live.now ≤ s1.trigTime 3 ∧
       s1.trigTime 3 < live.now + 2000000000 * nsTime)) &&
    (let s := (live.setReg (Reg.TU_TRGN 3) 0x80000000).setReg (Reg.TU_TRGC 3) 0xFF000001
     let s1 := s.reach 10
     decide (s1.bit (Reg.TU_TRGN 3) 31 = true ∧ s1.reached (s1.trigTime 3) = true ∧ s1.reg (Reg.TU_TRGP 3) = 0 ∧
       s1.fld (Reg.TU_TRGC 3) 0 16 ≠ 0)) &&
    (let s := (live.setReg (Reg.TU_TRGN 0) 0x80000000).setReg (Reg.TU_TRGP 0) 1000
     let s1 := s.reach 10
     decide (s1.bit (Reg.TU_TRGN 0) 31 = true ∧ s1.reached (s1.trigTime 0) = true))) = true := by decide +kernel

theorem test_witness_TimeIsLatchedAndStepped :
    ((let s := (live.setReg (Reg.TU_CAPN 3) 0x80000007).setFld (Reg.TU_CAPF 3) 24 8 255
     decide (3 < 4 ∧ s.fld Reg.TU_CAPSRC 12 2 = 0 ∧ s.bit (Reg.TU_CAPN 3) 31 = true)) &&
    (decide (3 < 4 ∧ live.fld Reg.TU_CAPSRC 12 2 = 0 ∧ live.bit (Reg.TU_CAPN 3) 31 = false)) &&
    (let s : State := { ((live.setBit Reg.TU_CTL 0 true).setBit Reg.TU_STAT 2 true) with time := { live.time with slave := { live.time.slave with pend := -5000000000 } } }
     decide (s.faults.discard = false ∧ s.bit Reg.TU_CTL 0 = true ∧ s.bit Reg.TU_STAT 2 = true)) &&
    (let s := live.setBit Reg.TU_CTL 1 true
     decide (s.faults.discard = false ∧ s.bit Reg.TU_CTL 1 = true)) &&
    (let s : State := { (live.setFld Reg.TU_STAT 0 2 2) with time := { live.time with slave := { live.time.slave with missed := 15 } } }
     decide (16 ≤ s.time.slave.missed + 1 ∧ s.tuState = 2))) = true := by decide +kernel

theorem test_witness_PtpMessagesAreForwarded :
    ((let m : PtpMsg := { kind := .sync, domain := 24, badOpt := false, seq := 1, src := 2, corr := 0, twoStep := false, stamp := 0 }
     let s : State := live.setBit Reg.NET_PTPFWD 7 true
     decide (s.served 9 = true ∧ m.badOpt = false ∧ m.domain = s.plan.net.domain ∧ (8 = 8 ∧
       7 ∈ s.ptpPorts ∨ 8 ∈ s.ptpPorts ∧ 7 = 8))) &&
    (let m : PtpMsg := { kind := .sync, domain := 24, badOpt := false, seq := 1, src := 2, corr := 0, twoStep := false, stamp := 0 }
     let s : State := live.setBit Reg.NET_PTPFWD 7 true
     decide (s.served 9 = true ∧ m.badOpt = false ∧ m.domain = s.plan.net.domain ∧ (7 = 8 ∧
       8 ∈ s.ptpPorts ∨ 7 ∈ s.ptpPorts ∧ 8 = 8))) &&
    (let m : PtpMsg := { kind := .sync, domain := 25, badOpt := false, seq := 1, src := 2, corr := 0, twoStep := false, stamp := 0 }
     let s : State := live.setBit Reg.NET_PTPFWD 7 true
     decide (s.served 9 = true ∧ (m.badOpt = true ∨ m.domain ≠ s.plan.net.domain))) &&
    (let s : State := { live with net := { live.net with left := [⟨1, 2, 3, 4⟩, ⟨1, 3, 3, 4⟩] } }
     decide (s.served 9 = true ∧ s.net.left.any (fun x => x.seq == 1 && x.src == 2) = true)) &&
    (let s : State := { live with net := { live.net with egress := SMap.write [] [] 8 [.arpReply 1 2 3, .esmc false 1] } }
     decide (s.served 9 = true ∧ SMap.read [] (s.reach 5).net.egress 8 = [.arpReply 1 2 3, .esmc false 1] ∧
       (s.reach 5).gapOpen 8 5 = true ∧ (s.reach 5).isShadow = false))) = true := by decide +kernel

theorem test_witness_WeightSetsChangeState :
    ((let s0 : State := { live with plan := { live.plan with weights := { copies := (0, 0x1000), base := 0x2000, len := 512 } }, mem := { live.mem with hbm := SMap.write 0 (SMap.write 0 [] 0x2001 7) 0x1FF 9 } }
     let s : State := { ((s0.setBit Reg.WGT_CTL 1 true).setStandby 3) with train := { s0.train with reverted := false } }
     decide (s.faults.discard = false ∧ s.bit Reg.WGT_CTL 1 = true ∧ s.bit Reg.WGT_CTL 2 = false ∧
       s.promotionHeld = false ∧ s.standby = 3)) &&
    (let s0 : State := { live with plan := { live.plan with weights := { copies := (0, 0x1000), base := 0x2000, len := 512 } }, mem := { live.mem with hbm := SMap.write 0 (SMap.write 0 [] 0x2001 7) 0x1FF 9 } }
     let s : State := { ((s0.setBit Reg.WGT_CTL 1 true).setStandby 3) with train := { s0.train with reverted := true } }
     decide (s.faults.discard = false ∧ s.bit Reg.WGT_CTL 1 = true ∧ s.bit Reg.WGT_CTL 2 = false ∧
       s.promotionHeld = false ∧ s.standby = 3)) &&
    (let s0 : State := { live with plan := { live.plan with weights := { copies := (0, 0x1000), base := 0x2000, len := 512 } }, mem := { live.mem with hbm := SMap.write 0 (SMap.write 0 [] 0x2001 7) 0x1FF 9 } }
     let s := (s0.setBit Reg.WGT_CTL 2 true).setStandby 0
     decide (s.faults.discard = false ∧ s.bit Reg.WGT_CTL 2 = true)) &&
    (let s0 : State := { live with plan := { live.plan with weights := { copies := (0, 0x1000), base := 0x2000, len := 512 } }, mem := { live.mem with hbm := SMap.write 0 (SMap.write 0 [] 0x2001 7) 0x1FF 9 } }
     let s := (s0.setBit Reg.WGT_CTL 2 true).setStandby 1
     decide (s.faults.discard = false ∧ s.bit Reg.WGT_CTL 2 = true)) &&
    (let s0 : State := { live with plan := { live.plan with weights := { copies := (0, 0x1000), base := 0x2000, len := 512 } }, mem := { live.mem with hbm := SMap.write 0 (SMap.write 0 [] 0x2001 7) 0x1FF 9 } }
     let s := (s0.setBit Reg.WGT_CTL 2 true).setStandby 2
     decide (s.faults.discard = false ∧ s.bit Reg.WGT_CTL 2 = true)) &&
    (let s0 : State := { live with plan := { live.plan with weights := { copies := (0, 0x1000), base := 0x2000, len := 512 } }, mem := { live.mem with hbm := SMap.write 0 (SMap.write 0 [] 0x2001 7) 0x1FF 9 } }
     let s := (s0.setBit Reg.WGT_CTL 2 true).setStandby 3
     decide (s.faults.discard = false ∧ s.bit Reg.WGT_CTL 2 = true)) &&
    (let s0 : State := { live with plan := { live.plan with weights := { copies := (0, 0x1000), base := 0x2000, len := 512 } }, mem := { live.mem with hbm := SMap.write 0 (SMap.write 0 [] 0x2001 7) 0x1FF 9 } }
     let s := (s0.setBit Reg.WGT_CTL 2 true).setStandby 4
     decide (s.faults.discard = false ∧ s.bit Reg.WGT_CTL 2 = true)) &&
    (let s0 : State := { live with plan := { live.plan with weights := { copies := (0, 0x1000), base := 0x2000, len := 512 } }, mem := { live.mem with hbm := SMap.write 0 (SMap.write 0 [] 0x2001 7) 0x1FF 9 } }
     let s := s0.setStandby 4
     decide (s.standby = 4)) &&
    (let s0 : State := { live with plan := { live.plan with weights := { copies := (0, 0x1000), base := 0x2000, len := 512 } }, mem := { live.mem with hbm := SMap.write 0 (SMap.write 0 [] 0x2001 7) 0x1FF 9 } }
     let s := s0
     decide (s.standby = 0))) = true := by decide +kernel

theorem test_witness_TrainingAndTasterDecide :
    ((let s0 := (elive.setFld Reg.WGT_TRAIN 0 16 2).setStandby 0
     let w : WeightTensor := { region := 0, tensor := 2, rows := 1, cols := 1, fmt := 1, wsh := 0, masters := (0, 64), forward := (128, 192), back := (256, 320) }
     let s1 : State := { s0 with train := { s0.train with gathered := 2 }, plan := { s0.plan with weights := { tensors := [w] } } }
     let s := s1.setCrucible 0 { (s1.crucible 0) with tensors := SMap.write {} [] 2 { isOpen := true, rows := 1, cols := 1 } }
     decide (s.fld Reg.WGT_TRAIN 0 16 ≤ s.train.gathered)) &&
    (let s0 := (elive.setFld Reg.WGT_TRAIN 0 16 2).setStandby 1
     let w : WeightTensor := { region := 0, tensor := 2, rows := 1, cols := 1, fmt := 1, wsh := 0, masters := (0, 64), forward := (128, 192), back := (256, 320) }
     let s1 : State := { s0 with train := { s0.train with gathered := 2 }, plan := { s0.plan with weights := { tensors := [w] } } }
     let s := s1.setCrucible 0 { (s1.crucible 0) with tensors := SMap.write {} [] 2 { isOpen := true, rows := 1, cols := 1 } }
     decide (s.fld Reg.WGT_TRAIN 0 16 ≤ s.train.gathered)) &&
    (let whole := true
     let s0 := ((live.setReg Reg.TST_LIM 0x00050001).setBit Reg.WGT_CTL 0 true).setStandby 2
     let s : State := { s0 with train := { s0.train with due := some whole } }
     decide (s.train.due = some whole)) &&
    (let whole := true
     let s0 := ((live.setReg Reg.TST_LIM 0x00050001).setBit Reg.WGT_CTL 0 false).setStandby 2
     let s : State := { s0 with train := { s0.train with due := some whole } }
     decide (s.train.due = some whole)) &&
    (let whole := false
     let s0 := ((live.setReg Reg.TST_LIM 0x00050001).setBit Reg.WGT_CTL 0 false).setStandby 2
     let s : State := { s0 with train := { s0.train with due := some whole } }
     decide (s.train.due = some whole)) &&
    (let whole := true
     let s0 := ((live.setReg Reg.TST_LIM 0x00050001).setBit Reg.WGT_CTL 0 true).setStandby 4
     let s : State := { s0 with train := { s0.train with due := some whole } }
     decide (s.train.due = some whole))) = true := by decide +kernel

theorem test_witness_ChannelUpdatesAreStaged :
    ((let k := chanKey 7 11 255
     let s0 := live.setBit (winKey k Reg.FMT_CHCFG) 4 true
     let s := (s0.setChan k { hist := [some 1], fresh := false }).setChan 5 { hist := [some 2] }
     decide (s.faults.discard = false ∧ 11 < convUnits 7 ∧ s.bit (winKey k Reg.FMT_CHCFG) 4 = true)) &&
    (let k := chanKey 8 15 0
     let s := live.setBit (winKey k Reg.FMT_CHCFG) 4 true
     decide (s.faults.discard = false ∧ 15 < convUnits 8 ∧ s.bit (winKey k Reg.FMT_CHCFG) 4 = true)) &&
    (let sh := fun (n : Nat) => (List.range n).map fun j => (winKey j Reg.FMT_CHCFG, (⟨1, 1⟩ : Staged))
     let s : State := { live with commit := { live.commit with shadow := sh 63 } }
     let s := s.setReg Reg.FMT_CHSEL 0x00C00000
     let k := chanKey 0 0 192
     decide (s.faults.discard = false ∧ s.selChan = some k ∧ ¬ (s.stagedChans.contains k = false ∧
       64 ≤ s.stagedChans.length))) &&
    (let sh := fun (n : Nat) => (List.range n).map fun j => (winKey j Reg.FMT_CHCFG, (⟨1, 1⟩ : Staged))
     let s : State := { live with commit := { live.commit with shadow := sh 64 } }
     let s := s.setReg Reg.FMT_CHSEL 0x00C00000
     let k := chanKey 0 0 192
     decide (s.faults.discard = false ∧ s.selChan = some k ∧ s.stagedChans.contains k = false ∧
       64 ≤ s.stagedChans.length))) = true := by decide +kernel

theorem test_witness_SwituTransfersLeaveAndLand :
    ((let s0 := (live.setTwinState 3).setBit Reg.TWN_STAT 4 true
     let s : State := { s0 with plan := { s0.plan with variants := [{ plans := [{ switu := [⟨2, 5, 3⟩, ⟨4, 0, 2⟩] }] }] } }
     let c := cmd 11 0xB0 12 0 0 0 0 4 0xFFF
     let x := s.issueSwitu c
     decide (((s.twinState = 2 ∧ s.clock.running = false ∧
       s.fatalIdle = false) ∨ s.goes c (s.unitFree 11 12 0) 1 = true) ∧ c.wfSend = true ∧ bitsOf c.w.w4 0 16 ≠ 0 ∧
       x.2.linkUp = true)) &&
    (let s0 := (live.setTwinState 3).setBit Reg.TWN_STAT 4 true
     let s : State := { s0 with plan := { s0.plan with variants := [{ plans := [{ switu := [⟨2, 5, 3⟩, ⟨4, 0, 2⟩] }] }] } }
     let c := cmd 11 0xB0 12 0 0 0 0 9 0xFFF
     let x := s.issueSwitu c
     decide (((s.twinState = 2 ∧ s.clock.running = false ∧
       s.fatalIdle = false) ∨ s.goes c (s.unitFree 11 12 0) 1 = true) ∧ c.wfSend = true ∧ bitsOf c.w.w4 0 16 ≠ 0 ∧
       x.2.linkUp = true)) &&
    (let s0 := (live.setTwinState 3).setBit Reg.TWN_STAT 4 true
     let s : State := { s0 with plan := { s0.plan with variants := [{ plans := [{ switu := [⟨2, 5, 3⟩, ⟨4, 0, 2⟩] }] }] } }
     let s : State := { s.setTwinState 2 with clock := { s.clock with running := false } }
     let c := cmd 11 0xB0 12 0 0 0 0 4 0xFFF
     let x := s.issueSwitu c
     decide ((s.twinState = 2 ∧ s.clock.running = false ∧ s.fatalIdle = false) ∧ c.wfSend = true ∧
       bitsOf c.w.w4 0 16 ≠ 0 ∧ x.2.linkUp = true)) &&
    (let s0 := (live.setTwinState 3).setBit Reg.TWN_STAT 4 true
     let s : State := { s0 with plan := { s0.plan with variants := [{ plans := [{ switu := [⟨2, 5, 3⟩, ⟨4, 0, 2⟩] }] }] } }
     let g : Nat → Nat → Granule := fun p i => { pbuf := p, index := i, void := false, bytes := List.replicate 256 0, hall := hc (List.replicate 256 0) }
     let s : State := { s with twin := { s.twin with staging := [(0, g 5 0), (0, g 5 1), (0, g 5 2), (0, g 6 0), (3, g 5 0)] } }
     let c := cmd 11 0xB1 12 0 0 0 0 0 0xFFF 5
     decide (((s.twinState = 2 ∧ s.clock.running = false ∧
       s.fatalIdle = false) ∨ s.goes c (s.unitFree 11 12 0) 1 = true) ∧ c.wfRecv = true)) &&
    (let s0 := (live.setTwinState 3).setBit Reg.TWN_STAT 4 true
     let s : State := { s0 with plan := { s0.plan with variants := [{ plans := [{ switu := [⟨2, 5, 3⟩, ⟨4, 0, 2⟩] }] }] } }
     let g : Nat → Nat → Granule := fun p i => { pbuf := p, index := i, void := false, bytes := List.replicate 256 0, hall := hc (List.replicate 256 0) }
     let s : State := { s with twin := { s.twin with staging := [(0, g 5 0), (0, g 5 1), (0, g 5 2), (0, g 6 0), (3, g 5 0)] } }
     let c := cmd 11 0xB1 12 0 0 0 0 2 0xFFF 5
     decide (((s.twinState = 2 ∧ s.clock.running = false ∧
       s.fatalIdle = false) ∨ s.goes c (s.unitFree 11 12 0) 1 = true) ∧ c.wfRecv = true))) = true := by decide +kernel

theorem test_witness_TwinLinkEventsAreHeld :
    ((let s0 := (live.setTwinState 3).setBit Reg.TWN_STAT 4 true
     let g : Nat → Nat → Granule := fun p i => { pbuf := p, index := i, void := false, bytes := List.replicate 256 0, hall := hc (List.replicate 256 0) }
     let m : Marker := ⟨0, 7, true, false, (0, 3)⟩
     let s : State := { s0 with twin := { s0.twin with staging := (List.range 16383).map fun i => (0, g 1 i) } }
     let s1 := s.reach 500
     decide (s.served 12 = true ∧ s.linkUp = true ∧ s1.twin.staging.length ≤ 16384 ∧ m.fatal = false)) &&
    (let s0 := (live.setTwinState 3).setBit Reg.TWN_STAT 4 true
     let m : Marker := ⟨0, 7, true, false, (9, 0)⟩
     let s := s0
     let s1 := s.reach 500
     decide (s.served 12 = true ∧ s.linkUp = true ∧ s1.twin.staging.length ≤ 16384 ∧ m.fatal = false)) &&
    (let s0 := (live.setTwinState 3).setBit Reg.TWN_STAT 4 true
     decide (s0.linkUp = true ∧ s0.twinState = 3 ∧ s0.twin.loss = none)) &&
    (let s0 := (live.setTwinState 3).setBit Reg.TWN_STAT 4 true
     decide (s0.twinState = 3 ∧ s0.twin.loss = none))) = true := by decide +kernel

theorem test_witness_SlotDigestsAreExchanged :
    ((let s0 := (live.setTwinState 3).setBit Reg.TWN_STAT 4 true
     let s1 := s0.setFld Reg.TWN_CFG 0 2 1
     let d : SlotDigest := ⟨0xFFFFFFFF, 0x123456789ABCDEF0, true⟩
     let s : State := { s1 with twin := { s1.twin with own := some d } }
     decide (s.twinState = 3 ∧ s.twinMode = 1 ∧ s.linkUp = true ∧ s.twin.own = some d)) &&
    (let s0 := (live.setTwinState 3).setBit Reg.TWN_STAT 4 true
     let s1 := s0.setFld Reg.TWN_CFG 0 2 1
     let s := s1
     decide (s.twinState = 3 ∧ s.twinMode = 1 ∧ s.linkUp = true)) &&
    (let s0 := (live.setTwinState 3).setBit Reg.TWN_STAT 4 true
     let s1 := s0.setFld Reg.TWN_CFG 0 2 1
     let d : SlotDigest := ⟨0xFFFFFFFF, 0x123456789ABCDEF0, true⟩
     let a : SlotDigest := d
     let b : SlotDigest := d
     let s2 := s1.setLive true
     let s : State := { s2 with twin := { s2.twin with own := some a, peer := some b } }
     decide (s.twinState = 3 ∧ s.twinMode = 1 ∧ s.twin.own = some a ∧ s.twin.peer = some b ∧ a.slot = s.slotBack 1 ∧
       b.slot = s.slotBack 1)) &&
    (let s0 := (live.setTwinState 3).setBit Reg.TWN_STAT 4 true
     let s1 := s0.setFld Reg.TWN_CFG 0 2 1
     let d : SlotDigest := ⟨0xFFFFFFFF, 0x123456789ABCDEF0, true⟩
     let a : SlotDigest := d
     let b : SlotDigest := ⟨0xFFFFFFFF, 1, false⟩
     let s2 := s1.setLive true
     let s : State := { s2 with twin := { s2.twin with own := some a, peer := some b } }
     decide (s.twinState = 3 ∧ s.twinMode = 1 ∧ s.twin.own = some a ∧ s.twin.peer = some b ∧ a.slot = s.slotBack 1 ∧
       b.slot = s.slotBack 1)) &&
    (let s0 := (live.setTwinState 3).setBit Reg.TWN_STAT 4 true
     let s1 := s0.setFld Reg.TWN_CFG 0 2 1
     let d : SlotDigest := ⟨0xFFFFFFFF, 0x123456789ABCDEF0, true⟩
     let a : SlotDigest := { d with isLocal := false }
     let b : SlotDigest := ⟨0xFFFFFFFF, 1, false⟩
     let s2 := s1.setLive true
     let s : State := { s2 with twin := { s2.twin with own := some a, peer := some b } }
     decide (s.twinState = 3 ∧ s.twinMode = 1 ∧ s.twin.own = some a ∧ s.twin.peer = some b ∧ a.slot = s.slotBack 1 ∧
       b.slot = s.slotBack 1)) &&
    (let s0 := (live.setTwinState 3).setBit Reg.TWN_STAT 4 true
     let s1 := s0.setFld Reg.TWN_CFG 0 2 1
     let s := s1
     decide (s.twinState = 3 ∧ s.twinMode = 1 ∧ (s.twin.own = none ∨ s.twin.peer = none)))) = true := by decide +kernel

theorem test_witness_NoticesAndRoles :
    ((let s0 := (live.setTwinState 3).setBit Reg.TWN_STAT 4 true
     let s1 := s0.setFld Reg.TWN_CFG 0 2 1
     let s := s1
     decide (s.twinState = 3 ∧ s.twinMode = 1)) &&
    (let s0 : State := { live with clock := { live.clock with running := false } }
     let s := s0.setTwinState 1
     decide (s.twinState = 1 ∧ s.clock.running = false)) &&
    (let s0 : State := { live with clock := { live.clock with running := false } }
     let s := s0.setTwinState 1
     decide ((s.twinState = 1 ∨ s.twinState = 2) ∧ s.clock.running = false)) &&
    (let s0 : State := { live with clock := { live.clock with running := false } }
     let s := s0.setTwinState 1
     decide ((s.twinState = 1 ∨ s.twinState = 2))) &&
    (let s0 : State := { live with clock := { live.clock with running := false } }
     let s := s0.setTwinState 1
     let s : State := { s with twin := { s.twin with step := 4, hold := true, joinAt := some 3, before := 4 } }
     decide ((s.twinState = 1 ∨ s.twinState = 2) ∧ s.bit Reg.PWR_STATE 4 = false)) &&
    (let s0 := live.setTwinState 1
     let s : State := { s0 with twin := { s0.twin with step := 4, hold := true, joinAt := some 3, before := 4 } }
     decide ((s.twinState = 1 ∨ s.twinState = 2) ∧ s.bit Reg.PWR_STATE 4 = false)) &&
    (let s0 : State := { live with clock := { live.clock with running := false } }
     let s := s0.setTwinState 2
     decide ((s.twinState = 1 ∨ s.twinState = 2) ∧ s.clock.running = false)) &&
    (let s0 : State := { live with clock := { live.clock with running := false } }
     let s := s0.setTwinState 2
     decide ((s.twinState = 1 ∨ s.twinState = 2))) &&
    (let s0 : State := { live with clock := { live.clock with running := false } }
     let s := s0.setTwinState 2
     let s : State := { s with twin := { s.twin with step := 4, hold := true, joinAt := some 3, before := 4 } }
     decide ((s.twinState = 1 ∨ s.twinState = 2) ∧ s.bit Reg.PWR_STATE 4 = false)) &&
    (let s0 := live.setTwinState 2
     let s : State := { s0 with twin := { s0.twin with step := 4, hold := true, joinAt := some 3, before := 4 } }
     decide ((s.twinState = 1 ∨ s.twinState = 2) ∧ s.bit Reg.PWR_STATE 4 = false)) &&
    (let s := live.setTwinState 3
     decide (s.twinState = 3)) &&
    (let s0 := (live.setTwinState 3).setBit Reg.TWN_STAT 4 true
     let s1 := s0.setFld Reg.TWN_CFG 0 2 1
     let s : State := { s1 with twin := { s1.twin with swapAt := some 0 } }
     decide (s.bit Reg.PWR_STATE 4 = false ∧ s.twinState = 3 ∧ s.twinMode = 1 ∧ s.twin.loss = none ∧
       s.twin.swapAt = some s.slot)) &&
    (let s0 := (live.setTwinState 3).setBit Reg.TWN_STAT 4 true
     let s1 := s0.setFld Reg.TWN_CFG 0 2 1
     let s := (s1.setBit Reg.TWN_CTL 2 true).setLive true
     decide (s.bit Reg.PWR_STATE 4 = false ∧ s.twinState = 3 ∧ s.twinMode = 1 ∧ s.twin.loss = none ∧
       s.faults.discard = false ∧ s.bit Reg.TWN_CTL 2 = true ∧ s.bit Reg.TWN_CTL 1 = false ∧ s.isLive = true)) &&
    (let s := (live.setBit Reg.TWN_CTL 1 true).setTwinState 1
     decide (s.bit Reg.PWR_STATE 4 = false ∧ s.faults.discard = false ∧ s.bit Reg.TWN_CTL 1 = true ∧ s.twinState = 1)) &&
    (let s := (live.setBit Reg.TWN_CTL 1 true).setTwinState 2
     decide (s.bit Reg.PWR_STATE 4 = false ∧ s.faults.discard = false ∧ s.bit Reg.TWN_CTL 1 = true ∧ s.twinState = 2)) &&
    (let s := (live.setBit Reg.TWN_CTL 1 true).setTwinState 3
     decide (s.bit Reg.PWR_STATE 4 = false ∧ s.faults.discard = false ∧ s.bit Reg.TWN_CTL 1 = true ∧ s.twinState = 3)) &&
    (let s0 := (live.setTwinState 3).setBit Reg.TWN_STAT 4 true
     let s1 := (s0.setReg Reg.TCK_SLOTNUM 1).setFld Reg.TWN_CFG 0 2 1
     let s : State := { s1 with twin := { s1.twin with loss := some (0, 0, 999744), swapAt := some 3 } }
     decide (s.bit Reg.PWR_STATE 4 = false ∧ s.clock.running = true ∧ s.twinState = 3 ∧
       s.twin.loss = some (0, 0, 999744) ∧ 1 ≤ (s.slot + 2 ^ 32 - 0) % 2 ^ 32 ∧
       256 ≤ (s.slot + 2 ^ 32 - 0) % 2 ^ 32 * s.slotLen - 999744))) = true := by decide +kernel

theorem test_witness_AttachRunsItsSteps :
    ((let s := (live.setBit Reg.TWN_CTL 0 true).setTwinState 0
     decide (s.faults.discard = false ∧ s.bit Reg.TWN_CTL 0 = true ∧ (s.twinState = 0 ∨ s.twinState = 4))) &&
    (let s := (live.setBit Reg.TWN_CTL 0 true).setTwinState 4
     decide (s.faults.discard = false ∧ s.bit Reg.TWN_CTL 0 = true ∧ (s.twinState = 0 ∨ s.twinState = 4))) &&
    (let p : PairInfo := ⟨1, 0, 0, 0, 0, 0⟩
     let s0 := (live.setTwinState 1).setBit Reg.TWN_STAT 4 true
     let s1 : State := { s0 with plan := { s0.plan with variants := [{ pair := some p }] } }
     let s : State := { s1 with twin := { s1.twin with aligned := true } }
     let h : Hello := ⟨0, 0, 0, 0xFFFFFFFF, 1⟩
     decide (s.twinState = 1 ∧ s.linkUp = true ∧ s.helloFault h s.imageDigest = 0 ∧ s.clock.running = true)) &&
    (let s0 := live.setTwinState 1
     let s : State := { s0 with twin := { s0.twin with transferAt := some 0 } }
     decide (s.twin.transferAt = some 0 ∧ s.twinState = 1 ∧ s.clock.running = true ∧ 0 = s.slot ∧
       s.bit Reg.PWR_STATE 4 = false)) &&
    (let s0 : State := { live with clock := { live.clock with running := false } }
     let s1 := s0.setTwinState 1
     let s : State := { s1 with twin := { s1.twin with transferAt := some 9, set := [(1, 2)] } }
     decide (s.twin.transferAt = some 9 ∧ s.twinState = 1 ∧ s.clock.running = false)) &&
    (let s := live.setTwinState 2
     decide (s.twinState = 2 ∧ s.clock.running = true ∧ s.twin.joinAt = none)) &&
    (let s0 := live.setTwinState 2
     let s : State := { s0 with twin := { s0.twin with joinAt := some 0, hold := true } }
     decide (s.twin.joinAt = some 0 ∧ s.clock.running = true ∧ 0 = s.slot ∧ s.bit Reg.PWR_STATE 4 = false ∧
       s.stagedOnly = true)) &&
    (let s0 : State := { live with clock := { live.clock with running := false } }
     let s1 := s0.setTwinState 2
     let s : State := { s1 with twin := { s1.twin with joinAt := some 0xFFFFFFFC, hold := true } }
     decide (s.twin.joinAt = some 0xFFFFFFFC ∧ s.clock.running = false ∧ s.bit Reg.PWR_STATE 4 = false ∧
       s.stagedOnly = true)) &&
    (let s0 := live
     let s1 := s0.setTwinState 1
     let s : State := { s1 with twin := { s1.twin with abort := true, before := 4, step := 3 } }
     decide (s.twin.abort = true ∧ (s.twinState = 1 ∨ s.twinState = 2) ∧ s.bit Reg.PWR_STATE 4 = false)) &&
    (let s0 : State := { live with clock := { live.clock with running := false } }
     let s1 := s0.setTwinState 2
     let s : State := { s1 with twin := { s1.twin with abort := true, before := 4, step := 3 } }
     decide (s.twin.abort = true ∧ (s.twinState = 1 ∨ s.twinState = 2) ∧ s.bit Reg.PWR_STATE 4 = false))) = true := by decide +kernel

theorem test_witness_TicksBeginSlotsAndEpochs :
    ((let s : State := { (elive.setReg Reg.TCK_SLOTNUM 0xFFFFFFFF) with faults := { live.faults with reports := [(1, 2)] }, signals := [⟨3, 0, 1, none⟩], running := [⟨1, 0, 0, 0, 0, 0, 2000000, [(0, 5)], none⟩] }
     decide (s.started = true ∧ s.stagedOnly = true ∧ s.clock.epochDone = false)) &&
    (let s : State := { (live.setReg Reg.TCK_SLOTNUM 3) with commit := { live.commit with waiting := [⟨4, Reg.WGT_ETA, ⟨0xF0, 0x55⟩⟩] } }
     let n := (s.slot + 1) % 2 ^ 32
     decide (s.started = true ∧ s.stagedOnly = true ∧ s.clock.epochDone = false ∧ s.isEpoch n = true ∧
       s.commit.waiting = [⟨n, Reg.WGT_ETA, ⟨0xF0, 0x55⟩⟩])) &&
    (let s0 := (live.setReg Reg.STA_STEP 0x14)
     let s : State := { s0 with clock := { s0.clock with running := false }, commit := { s0.commit with waiting := [⟨0, Reg.WGT_ETA, ⟨0xF0, 0x55⟩⟩] } }
     decide (s.started = false ∧ s.isMgmtOnly = true)) &&
    (decide (0 < 13 ∧ 12 < 13))) = true := by decide +kernel

theorem test_witness_ElasticMembersJoinAndLeave :
    ((let mk : List Nat → State := fun _ => { live with plan := { live.plan with variants := [{ plans := [{ windows := [(7, (⟨100, 5000, 0x7FFFFFF, true⟩ : ElsWindow))], eseq := [(7, 0x800600064), (7, 0x8000000008200064), (7, 0x8400064)] }] }] } }
     let s := (mk []).setAnvil 7 3 { tile := some {} }
     decide (s.engineLive 7 = true ∧ 7 < 8 ∧
       (s.curPlan.windows.any fun w => w.1 == 7 && w.2.start == 100 && w.2.parity) = true)) &&
    (let mk : List Nat → State := fun _ => { live with plan := { live.plan with variants := [{ plans := [{ windows := [(7, (⟨100, 5000, 0x7FFFFFF, true⟩ : ElsWindow))], eseq := [(7, 0x800600064), (7, 0x8000000008200064), (7, 0x8400064)] }] }] } }
     let s := ((mk []).onCtx 5 fun _ => { image := { home := 7, mask := 1, list := [ecmd 1 0x10 7 0] }, queue := [{}], resident := true, state := .runnable }).onCtx 6 fun _ => { image := { home := 7, mask := 2, list := [ecmd 1 0x10 7 1] }, queue := [{}], resident := true, state := .runnable, member := some 0 }
     decide ((s.reach 200).exact = false ∧ (s.reach 200).engineLive 7 = true)) &&
    (let mk : List Nat → State := fun _ => { live with plan := { live.plan with variants := [{ plans := [{ windows := [(7, (⟨100, 5000, 0x7FFFFFF, true⟩ : ElsWindow))], eseq := [(7, 0x800600064), (7, 0x8000000008200064), (7, 0x8400064)] }] }] } }
     let s := (mk []).onCtx 63 fun _ => { image := { home := 7, list := [{}] }, queue := [{}], member := some 100, state := .running, lastDone := 900, sliceEnd := 800 }
     let s1 := s.reach (s.ctx 63).sliceEnd
     decide (s.exact = false ∧ (s.ctx 63).member.isSome = true ∧ (s.ctx 63).image.home = 7 ∧
       (s1.ctx 63).member.isSome = true)) &&
    (let mk : List Nat → State := fun _ => { live with plan := { live.plan with variants := [{ plans := [{ windows := [(7, (⟨100, 5000, 0x7FFFFFF, true⟩ : ElsWindow))], eseq := [(7, 0x800600064), (7, 0x8000000008200064), (7, 0x8400064)] }] }] } }
     let s := (mk []).onCtx 63 fun _ => { image := { home := 7, list := [{}], mask := 3 }, queue := [{}], member := some 100, state := .running, lastDone := 900, sliceEnd := 800 }
     let s1 := s.reach 5000
     decide (s.exact = false ∧ (s.ctx 63).member.isSome = true ∧ (s.ctx 63).image.home = 7 ∧
       (s.openWindow 7 (5000 + 1) (s.ctx 63).image.mask).isNone = true ∧ (s1.ctx 63).member = some 100))) = true := by decide +kernel

theorem test_witness_SwapsAndCutsChangeResidency :
    ((let mk : List Nat → State := fun _ => { live with plan := { live.plan with variants := [{ plans := [{ windows := [(7, (⟨100, 5000, 0x7FFFFFF, true⟩ : ElsWindow))], eseq := [(7, 0x800600064), (7, 0x8000000008200064), (7, 0x8400064)] }] }] } }
     let s := (mk []).onCtx 5 fun _ => { image := { home := 7, mask := 1, list := [ecmd 1 0x10 7 0] }, queue := [{}], state := .runnable }
     let s1 := (((s.settleSignals 200).homed 7).foldl (fun s k => s.refreshCtx 7 200 k) (s.settleSignals 200))
     decide (s.exact = false ∧ s.engineLive 7 = true ∧ s.swapping 7 = none ∧ s.inWindow 7 200 = true ∧
       s1.bestOf 7 ((s1.homed 7).filter fun k => !(s1.ctx k).resident && (s1.ctx k).state == .runnable) = some 5 ∧
       (s1.residents 7).length < 8)) &&
    (let w : Swapping := ⟨some 3, 5, 100, 150⟩
     let s : State := { (live.onCtx 3 fun _ => { resident := true }) with els := { (live.onCtx 3 fun _ => { resident := true }).els with swaps := SMap.write none [] 7 (some w) } }
     decide (s.swapping 7 = some w)) &&
    (let mk : List Nat → State := fun _ => { live with plan := { live.plan with variants := [{ plans := [{ windows := [(7, (⟨100, 5000, 0x7FFFFFF, true⟩ : ElsWindow))], eseq := [(7, 0x800600064), (7, 0x8000000008200064), (7, 0x8400064)] }] }] } }
     let e : Running := ⟨1, 7, 2, 0, 0, 200, 6000, [(7, 1)], some 5⟩
     let s0 := mk []
     let s : State := { s0 with running := [e], els := { s0.els with swaps := SMap.write none [] 7 (some ⟨none, 5, 100, 7000⟩) } }
     decide (s.engineLive 7 = true ∧ (s.curPlan.windows.any fun w => w.1 == 7 && w.2.stop == 5000 && w.2.parity) = true)) &&
    (let mk : List Nat → State := fun _ => { live with plan := { live.plan with variants := [{ plans := [{ windows := [(7, (⟨100, 5000, 0x7FFFFFF, true⟩ : ElsWindow))], eseq := [(7, 0x800600064), (7, 0x8000000008200064), (7, 0x8400064)] }] }] } }
     let s := ((mk []).setBit Reg.DET_MODE 0 true).onCtx 3 fun _ => { image := { home := 7, list := [{}] }, queue := [{}] }
     let e : BitVec 64 := 0x800600064
     let s1 := s.reach (e.toNat % 2 ^ 21)
     decide (s.exact = true ∧ s.engineLive 7 = true ∧
       ((s.curPlan.eseq.filter fun e => e.1 = 7).map (·.2))[0]? = some e ∧ oddOnes 64 e.toNat = false ∧
       e.getLsbD 35 = true ∧ s1.swapping 7 = none)) &&
    (let mk : List Nat → State := fun _ => { live with plan := { live.plan with variants := [{ plans := [{ windows := [(7, (⟨100, 5000, 0x7FFFFFF, true⟩ : ElsWindow))], eseq := [(7, 0x800600064), (7, 0x8000000008200064), (7, 0x8400064)] }] }] } }
     let s := ((mk []).setBit Reg.DET_MODE 0 true).onCtx 1 fun _ => { image := { home := 7, list := [{}] }, queue := [{}] }
     let e : BitVec 64 := 0x8000000008200064
     decide (s.exact = true ∧ s.engineLive 7 = true ∧
       ((s.curPlan.eseq.filter fun e => e.1 = 7).map (·.2))[1]? = some e ∧ oddOnes 64 e.toNat = false ∧
       e.getLsbD 35 = false))) = true := by decide +kernel

theorem test_witness_LeaveTemperatureAndLocksAreKept :
    ((let mkw : List LeaveReq → State := fun ws => { (live.onCtx 5 fun _ => { image := { home := 7, list := [{}] }, queue := [{}], state := .blocked, cause := .leave }) with els := { (live.onCtx 5 fun _ => { image := { home := 7, list := [{}] }, queue := [{}], state := .blocked, cause := .leave }).els with waits := SMap.write [] [] 7 ws } }
     let w : LeaveReq := ⟨5, 1, 0, 0⟩
     let s := mkw [w]
     let T := max 50 s.clock.cc
     let s1 := s.reach 50
     decide (s.exact = false ∧ s.hot = false ∧ s.engineLive 7 = true ∧ SMap.read [] s1.els.waits 7 = [w] ∧
       (s1.ctx w.ctx).cause = .leave ∧ ((s1.heldGrants 7 T).map (·.amount)).sum + w.amount ≤ s1.budget 7 T)) &&
    (let mkw : List LeaveReq → State := fun ws => { (live.onCtx 5 fun _ => { image := { home := 7, list := [{}] }, queue := [{}], state := .blocked, cause := .leave }) with els := { (live.onCtx 5 fun _ => { image := { home := 7, list := [{}] }, queue := [{}], state := .blocked, cause := .leave }).els with waits := SMap.write [] [] 7 ws } }
     let s := mkw [⟨5, 1, 3, 0⟩, ⟨6, 1, 0, 0⟩]
     decide (s.exact = false ∧ s.hot = false ∧ s.engineLive 7 = true)) &&
    (decide (15 < 16 ∧ 255 < 256)) &&
    (decide (0 < 64 ∧ live.bit Reg.CLK_LOL 31 = false)) &&
    (decide (12 < 64 ∧ live.bit Reg.CLK_LOL 31 = false)) &&
    (decide (13 < 64 ∧ live.bit Reg.CLK_LOL 31 = false)) &&
    (decide (63 < 64 ∧ live.bit Reg.CLK_LOL 31 = false))) = true := by decide +kernel

theorem test_witness_PowerStatesAndWakes :
    ((let s : State := let s0 := live.setFld Reg.PWR_STATE 0 2 1; { s0 with power := { s0.power with request := some 0 } }
     decide (s.faults.discard = false ∧ s.power.request = some 0 ∧ s.powerState = 1 ∧ s.power.trimmed = [])) &&
    (let s : State := let s0 := live.setFld Reg.PWR_STATE 0 2 1; { s0 with power := { s0.power with request := some 0, trimmed := [3, 5] } }
     decide (s.faults.discard = false ∧ s.power.request = some 0 ∧ s.powerState = 1 ∧ s.power.trimmed ≠ [])) &&
    (let s : State := let s0 := live.setFld Reg.PWR_STATE 0 2 2; { s0 with power := { s0.power with request := some 0 } }
     decide (s.faults.discard = false ∧ s.power.request = some 0 ∧ s.powerState = 2)) &&
    (let s : State := let s0 := live.setFld Reg.PWR_STATE 0 2 0; { s0 with power := { s0.power with request := some 1 } }
     decide (s.faults.discard = false ∧ s.power.request = some 1 ∧ s.powerState = 0)) &&
    (let s : State := let s0 := live.setFld Reg.PWR_STATE 0 2 0; { s0 with power := { s0.power with request := some 2 } }
     decide (s.faults.discard = false ∧ s.power.request = some 2 ∧ s.powerState < 2)) &&
    (let s : State := let s0 := live.setFld Reg.PWR_STATE 0 2 1; { s0 with power := { s0.power with request := some 2 } }
     decide (s.faults.discard = false ∧ s.power.request = some 2 ∧ s.powerState < 2)) &&
    (let s : State := let s0 := live.setFld Reg.PWR_STATE 0 2 2; { s0 with power := { s0.power with request := some 3 } }
     decide (s.faults.discard = false ∧ s.power.request = some 3 ∧ s.powerState = 2 ∧ s.power.wakeHeld = false)) &&
    (let s := live.setReg Reg.PWR_RREQ 16
     decide (s.faults.discard = false ∧ s.fld Reg.PWR_RREQ 4 2 = 1)) &&
    (let s := live.setReg Reg.PWR_RREQ 32
     decide (s.faults.discard = false ∧ s.fld Reg.PWR_RREQ 4 2 = 2 ∧ s.fld Reg.PWR_RREQ 0 4 < 13)) &&
    (let s := live.setReg Reg.PWR_RREQ 48
     decide (s.faults.discard = false ∧ s.fld Reg.PWR_RREQ 4 2 = 3)) &&
    (let s := live.setReg Reg.PWR_RREQ 28
     decide (s.faults.discard = false ∧ s.fld Reg.PWR_RREQ 4 2 = 1)) &&
    (let s := live.setReg Reg.PWR_RREQ 44
     decide (s.faults.discard = false ∧ s.fld Reg.PWR_RREQ 4 2 = 2 ∧ s.fld Reg.PWR_RREQ 0 4 < 13)) &&
    (let s := live.setReg Reg.PWR_RREQ 60
     decide (s.faults.discard = false ∧ s.fld Reg.PWR_RREQ 4 2 = 3)) &&
    (let s := live.setReg Reg.PWR_RREQ 31
     decide (s.faults.discard = false ∧ s.fld Reg.PWR_RREQ 4 2 = 1)) &&
    (let s := (live.setFld Reg.PWR_STATE 0 2 3).setBit Reg.PWR_WAKE 2 true
     decide (s.faults.discard = false ∧ s.powerState = 3 ∧ s.bit Reg.PWR_WAKE 2 = true ∧ s.power.wake = none)) &&
    (let s := (live.setFld Reg.PWR_STATE 0 2 3).setBit Reg.PWR_WAKE 0 true
     decide (s.powerState = 3 ∧ s.bit Reg.PWR_WAKE 0 = true ∧ s.power.wake = none)) &&
    (let s : State := { live with power := { live.power with wake := some (2, 2) } }
     decide (s.power.wake = some (2, 2))) &&
    (let s : State := { live with power := { live.power with wake := some (3, 2) } }
     decide (s.power.wake = some (3, 2))) &&
    (let s : State := { live with power := { live.power with rising := [(5, 3)] } }
     decide (s.power.rising = [(5, 3)])) &&
    (let s : State := { (live.setReg Reg.PWR_DOM 0) with power := { live.power with rising := [(12, 0)] } }
     decide (12 < 13 ∧ s.power.rising = [(12, 0)])) &&
    (let s : State := { (live.setReg Reg.PWR_DOM 0) with power := { live.power with rising := [(0, 0)] } }
     decide (0 < 13 ∧ s.power.rising = [(0, 0)])) &&
    (let s : State := { (live.setReg Reg.PWR_DOM 0) with power := { live.power with rising := [(3, 2)] } }
     decide (3 < 13 ∧ s.power.rising = [(3, 2)])) &&
    (let s : State := { (live.setReg Reg.PWR_DOM 0) with power := { live.power with rising := [(12, 3)] } }
     decide (12 < 13 ∧ s.power.rising = [(12, 3)])) &&
    (let s : State := { live with power := { live.power with wake := some (2, 0) } }
     decide (s.power.wake = some (2, 0) ∧ 0 < 3)) &&
    (let s : State := { live with power := { live.power with wake := some (3, 2) } }
     decide (s.power.wake = some (3, 2) ∧ 2 < 3)) &&
    (let s : State := { live with power := { live.power with wake := some (3, 0) } }
     decide (s.power.wake = some (3, 0) ∧ 0 < 3)) &&
    (let s : State := { (live.setFld Reg.PWR_STATE 0 2 2) with power := { live.power with wake := some (2, 3), asleep := [(3, true), (4, false)] } }
     decide (s.power.wake = some (2, 3)))) = true := by decide +kernel

theorem test_witness_FaultControllerCommandsAct :
    ((let r : Record := ⟨0, 0, 0, 0, 0x0D05, .masked, false, 0, 0, 0, 0, true⟩
     let s : State := { live with faults := { live.faults with queue := [r, { r with code := 1 }] } }
     decide (s.faults.discard = false)) &&
    (decide (3 = 3 ∨ 3 = 5)) &&
    (decide (5 = 3 ∨ 5 = 5)) &&
    (decide (0 < 5 ∧ 0 ≠ 3)) &&
    (decide (1 < 5 ∧ 1 ≠ 3)) &&
    (decide (2 < 5 ∧ 2 ≠ 3)) &&
    (decide (4 < 5 ∧ 4 ≠ 3)) &&
    (decide (12 < 13)) &&
    (let s0 : State := { (live.setReg Reg.LGR_XBUF 0x0E000000) with ledger := { live.ledger with extracted := false, closed := [⟨1, 2, true, false, 0, 3⟩] } }
     let s := s0.setReg Reg.LGR_XNUM 0
     decide (s.clock.running = true ∧ s.ledger.extracted = false ∧ s.served (s.fld Reg.LGR_XBUF 25 3) = true ∧
       s.fld Reg.LGR_XNUM 0 12 ≠ 0xFFF)) &&
    (let s0 : State := { (live.setReg Reg.LGR_XBUF 0x0E000000) with ledger := { live.ledger with extracted := false, closed := [⟨1, 2, true, false, 0, 3⟩] } }
     let s := s0.setReg Reg.LGR_XNUM 0x123
     decide (s.clock.running = true ∧ s.ledger.extracted = false ∧ s.served (s.fld Reg.LGR_XBUF 25 3) = true ∧
       s.fld Reg.LGR_XNUM 0 12 ≠ 0xFFF)) &&
    (let s0 : State := { (live.setReg Reg.LGR_XBUF 0x0E000000) with ledger := { live.ledger with extracted := false, closed := [⟨1, 2, true, false, 0, 3⟩] } }
     let s := s0.setBit Reg.SPN_GATE 7 true
     decide (s.clock.running = true ∧ s.ledger.extracted = false ∧ s.served (s.fld Reg.LGR_XBUF 25 3) = false))) = true := by decide +kernel

theorem test_witness_CommitsAreJudgedByGroup :
    ((let s := (live.stage Reg.FLT_CFG 0xF 3).stage Reg.WGT_ETA 0xFFFFFFFF 5
     let s0 := s.zeroRegs [Reg.MGT_CSTAT, Reg.MGT_CREASON, Reg.MGT_CADDR]
     let mine : List (Nat × Staged) := s.commit.shadow.filter fun e => groupOf e.1 == 0
     decide (s.faults.discard = false ∧ 0 < 15 ∧ s0.groupRefusal 0 = none ∧ mine ≠ [])) &&
    (let s := (live.stage Reg.FLT_CFG 0xF 3).stage Reg.WGT_ETA 0xFFFFFFFF 5
     let s0 := s.zeroRegs [Reg.MGT_CSTAT, Reg.MGT_CREASON, Reg.MGT_CADDR]
     let mine : List (Nat × Staged) := s.commit.shadow.filter fun e => groupOf e.1 == 14
     decide (s.faults.discard = false ∧ 14 < 15 ∧ s0.groupRefusal 14 = none ∧ mine ≠ [])) &&
    (let s := live.stage Reg.WGT_CTL 2 2
     let s0 := s.zeroRegs [Reg.MGT_CSTAT, Reg.MGT_CREASON, Reg.MGT_CADDR]
     decide (s.faults.discard = false ∧ s0.groupRefusal 0 = some (Reg.WGT_CTL, 3, 0x0D03))) &&
    (let s := (live.setReg Reg.PWR_WAKE 1).stage Reg.PWR_STATE 0xC 0xC
     let s0 := s.zeroRegs [Reg.MGT_CSTAT, Reg.MGT_CREASON, Reg.MGT_CADDR]
     decide (s.faults.discard = false ∧ s0.groupRefusal 14 = some (Reg.PWR_STATE, 3, 0x0B05))) &&
    (let s : State := { live with plan := { live.plan with variants := [{}, {}] } }
     let s1 := s.stage Reg.SPL_SWREQ 0x1FFFF (BitVec.ofNat 32 (1 % 2 ^ 16 + 2 ^ 16))
     decide (s.faults.discard = false ∧
       (s1.zeroRegs [Reg.MGT_CSTAT, Reg.MGT_CREASON, Reg.MGT_CADDR]).groupRefusal 0 = none)) &&
    (let s := (live.stage Reg.FLT_CFG 0xF 3).stage Reg.WGT_ETA 0xFFFFFFFF 5
     decide (s.faults.discard = false ∧ 0x4000 < 2 ^ 15))) = true := by decide +kernel

theorem test_witness_RegisterWritesFollowTheirCodes :
    ((let s : State := live
     let s1 := (s.measureLeg Reg.TU_CAPSRC 70000).catchUp
     decide (s.faults.discard = false ∧ s1.powerState ≠ 3 ∧ (findReg Reg.TU_CAPSRC).isSome = true)) &&
    (let s : State := live
     let s1 := (s.measureLeg Reg.LGR_QSEL 70000).catchUp
     decide (s.faults.discard = false ∧ s1.powerState ≠ 3 ∧ (findReg Reg.LGR_QSEL).isSome = true)) &&
    (let s : State := live
     let s1 := (s.measureLeg Reg.NVM_ADDR 70000).catchUp
     decide (s.faults.discard = false ∧ s1.powerState ≠ 3 ∧ (findReg Reg.NVM_ADDR).isSome = true)) &&
    (let s : State := live
     let s1 := (s.measureLeg Reg.ELS_CFG 7).catchUp
     decide (s.faults.discard = false ∧ s1.powerState ≠ 3 ∧ (findReg Reg.ELS_CFG).isSome = true)) &&
    (let s : State := live
     let s1 := (s.measureLeg Reg.WGT_ETA 7).catchUp
     decide (s.faults.discard = false ∧ s1.powerState ≠ 3 ∧ (findReg Reg.WGT_ETA).isSome = true)) &&
    (let s : State := live
     let s1 := (s.measureLeg Reg.WGT_CLIP 7).catchUp
     decide (s.faults.discard = false ∧ s1.powerState ≠ 3 ∧ (findReg Reg.WGT_CLIP).isSome = true)) &&
    (let s : State := live
     let s1 := (s.measureLeg Reg.WGT_TRAIN 7).catchUp
     decide (s.faults.discard = false ∧ s1.powerState ≠ 3 ∧ (findReg Reg.WGT_TRAIN).isSome = true)) &&
    (let s : State := live
     let s1 := (s.measureLeg Reg.ARC_ID 7).catchUp
     decide (s.faults.discard = false ∧ s1.powerState ≠ 3)) &&
    (let s : State := live
     let s1 := (s.measureLeg Reg.ARC_GRADE 7).catchUp
     decide (s.faults.discard = false ∧ s1.powerState ≠ 3)) &&
    (let s : State := live
     let s1 := (s.measureLeg Reg.ARC_ANVMAP 7).catchUp
     decide (s.faults.discard = false ∧ s1.powerState ≠ 3)) &&
    (let s : State := live.setFld Reg.MGT_ACC 0 16 65535
     decide (s.faults.discard = false ∧ 0x1F000003 % 4 ≠ 0))) = true := by decide +kernel

theorem test_witness_TheStartRunsAndEnds :
    ((let x : StartInput := { stall := some 1 }
     decide (x.stall = some 1)) &&
    (let x : StartInput := { straps := 0x10 }
     decide (x.stall = none ∧ x.straps.testBit 4 = true ∧ live.pins.scan = none ∧ live.pins.highZ = false)) &&
    (let x : StartInput := { seedOk := false, straps := 0x10 }
     decide (x.stall = none ∧ x.straps.testBit 4 = true ∧ live.pins.scan = none ∧ live.pins.highZ = false)) &&
    (let x : StartInput := { keyOk := false, cgrade := 3, straps := 0x10 }
     decide (x.stall = none ∧ x.straps.testBit 4 = true ∧ live.pins.scan = none ∧ live.pins.highZ = false)) &&
    (let s : State := { (live.setReg Reg.STA_STEP 6) with clock := { live.clock with running := false } }
     decide (s.isMgmtOnly = false ∧ s.start.held = false ∧ s.fld Reg.STA_STEP 0 4 ∈ [6, 7, 12])) &&
    (let s : State := { (live.setReg Reg.STA_STEP 7) with clock := { live.clock with running := false } }
     decide (s.isMgmtOnly = false ∧ s.start.held = false ∧ s.fld Reg.STA_STEP 0 4 ∈ [6, 7, 12])) &&
    (let s : State := { (live.setReg Reg.STA_STEP 12) with clock := { live.clock with running := false } }
     decide (s.isMgmtOnly = false ∧ s.start.held = false ∧ s.fld Reg.STA_STEP 0 4 ∈ [6, 7, 12])) &&
    (let s : State := { (live.setReg Reg.STA_STEP 0) with clock := { live.clock with running := false } }
     decide (s.isMgmtOnly = false ∧ s.start.held = false ∧ s.fld Reg.STA_STEP 0 4 < 3)) &&
    (let s : State := { (live.setReg Reg.STA_STEP 2) with clock := { live.clock with running := false } }
     decide (s.isMgmtOnly = false ∧ s.start.held = false ∧ s.fld Reg.STA_STEP 0 4 < 3)) &&
    (let s : State := { (live.setReg Reg.STA_STEP 9) with clock := { live.clock with running := false } }
     let s : State := { s with start := { s.start with links := [.ether 8, .switu] } }
     decide (s.isMgmtOnly = false ∧ s.start.held = false ∧ s.fld Reg.STA_STEP 0 4 = 9)) &&
    (let s : State := { (live.setReg Reg.STA_STEP 10) with clock := { live.clock with running := false } }
     let s : State := { s with start := { s.start with tlock := 4 } }
     decide (s.isMgmtOnly = false ∧ s.start.held = false ∧ s.fld Reg.STA_STEP 0 4 = 10 ∧ s.start.tlock ≠ 0 ∧
       s.tuState ≠ 2)) &&
    (let s : State := { (live.setReg Reg.STA_STEP 11) with clock := { live.clock with running := false } }
     let s := s.setTwinState 1
     decide (s.isMgmtOnly = false ∧ s.start.held = false ∧ s.fld Reg.STA_STEP 0 4 = 11 ∧ s.twinState = 1 ∧
       s.twin.step < 4 ∧ s.twin.marker.any (fun m => m.slot != 0xFFFFFFFF) = false)) &&
    (let s : State := { (live.setReg Reg.STA_STEP 12) with clock := { live.clock with running := false } }
     decide (s.clock.running = false ∧ s.isMgmtOnly = false ∧ s.power.resume = false ∧ s.stagedOnly = true ∧
       (s.anyJesd = false ∨ (s.start.lemcAt.isSome = true ∧ s.jesdReady = true)) ∧ s.fld Reg.STA_STEP 0 4 = 12 ∧
       s.twinState ≠ 1 ∧ s.twinState ≠ 2)) &&
    (let s : State := { (live.setReg Reg.STA_STEP 12) with clock := { live.clock with running := false } }
     let s0 := (s.setReg (Reg.JRX_CFG0 0) 1).setFld (linkStat false 0) 0 3 4
     let s : State := { s0 with start := { s0.start with lemcAt := some 3 } }
     decide (s.clock.running = false ∧ s.isMgmtOnly = false ∧ s.power.resume = false ∧ s.stagedOnly = true ∧
       (s.anyJesd = false ∨ (s.start.lemcAt.isSome = true ∧ s.jesdReady = true)) ∧ s.fld Reg.STA_STEP 0 4 = 12 ∧
       s.twinState ≠ 1 ∧ s.twinState ≠ 2))) = true := by decide +kernel

theorem test_witness_NvmCommandsRunAndEnd :
    ((let s0 := live.setReg Reg.NVM_ADDR 0x20000
     let s := s0.setBit Reg.NVM_STAT 17 true
     decide (s.faults.discard = false ∧ s.bit Reg.NVM_STAT 0 = false ∧ s.protectedArea 0x20000 s.sectorSize = false ∧
       0x20000 % s.sectorSize = 0)) &&
    (let s0 := live.setReg Reg.NVM_ADDR 0x20000
     let s := s0.setBit Reg.NVM_STAT 17 true
     decide (s.faults.discard = false ∧ s.bit Reg.NVM_STAT 0 = false ∧ s.protectedArea 0x20000 256 = false ∧
       0x20000 % 256 = 0)) &&
    (let s0 := live.setReg Reg.NVM_ADDR 0x20000
     let s := s0.setBit Reg.NVM_STAT 17 true
     decide (s.faults.discard = false ∧ s.bit Reg.NVM_STAT 0 = false ∧ true)) &&
    (let s0 := live.setReg Reg.NVM_ADDR 0x20000
     let s := s0.setBit Reg.NVM_STAT 17 true
     decide (s.faults.discard = false ∧ s.bit Reg.NVM_STAT 0 = false ∧ s.bit Reg.NVM_STAT (16 + 1) = true)) &&
    (let s0 := live.setReg Reg.NVM_ADDR 0x20000
     let s := s0.setBit Reg.NVM_STAT 0 true
     decide (s.faults.discard = false ∧ s.bit Reg.NVM_STAT 0 = true)) &&
    (let s : State := { live with sec := { live.sec with page := List.replicate 63 1 } }
     decide (s.faults.discard = false ∧ s.sec.page.length < 64)) &&
    (let j : NvmJob := ⟨1, 0, 131072, []⟩
     let s : State := { (live.setBit Reg.NVM_STAT 0 true) with sec := { live.sec with job := some j, saving := true } }
     decide (s.sec.job = some j ∧ (j.cmd = 5 → s.sec.saving = true))) &&
    (let j : NvmJob := ⟨2, 0, 131328, [1, 0x12345678]⟩
     let s : State := { (live.setBit Reg.NVM_STAT 0 true) with sec := { live.sec with job := some j, saving := true } }
     decide (s.sec.job = some j ∧ (j.cmd = 5 → s.sec.saving = true))) &&
    (let j : NvmJob := ⟨3, 0, 0, []⟩
     let s : State := { (live.setBit Reg.NVM_STAT 0 true) with sec := { live.sec with job := some j, saving := true } }
     decide (s.sec.job = some j ∧ (j.cmd = 5 → s.sec.saving = true))) &&
    (let j : NvmJob := ⟨4, 0, 0, []⟩
     let s : State := { (live.setBit Reg.NVM_STAT 0 true) with sec := { live.sec with job := some j, saving := true } }
     decide (s.sec.job = some j ∧ (j.cmd = 5 → s.sec.saving = true))) &&
    (let j : NvmJob := ⟨5, 0, 0, []⟩
     let s : State := { (live.setBit Reg.NVM_STAT 0 true) with sec := { live.sec with job := some j, saving := true } }
     decide (s.sec.job = some j ∧ (j.cmd = 5 → s.sec.saving = true))) &&
    (let j : NvmJob := ⟨6, 0, 0, []⟩
     let s : State := { (live.setBit Reg.NVM_STAT 0 true) with sec := { live.sec with job := some j, saving := true } }
     decide (s.sec.job = some j ∧ (j.cmd = 5 → s.sec.saving = true)))) = true := by decide +kernel

theorem test_witness_ReportsFormAndAreRead :
    ((let s0 : State := live.setBit Reg.SEC_ID 0 true
     let m : L2Msg := ⟨4, 44, 0, 0, List.replicate 35 7 ++ [1]⟩
     decide (3 ≤ s0.fld Reg.STA_STEP 0 4 ∧ s0.bit Reg.SEC_ID 0 = true ∧ s0.sec.forming = none ∧ s0.served 9 = true ∧
       s0.isShadow = false ∧ m.len = 44 ∧ m.body.length = 36)) &&
    (let s0 : State := live.setBit Reg.SEC_ID 0 true
     decide (3 ≤ s0.fld Reg.STA_STEP 0 4 ∧ s0.bit Reg.SEC_ID 0 = true ∧ s0.sec.forming = none ∧
       s0.faults.discard = false)) &&
    (let s0 : State := live.setBit Reg.SEC_ID 0 true
     let r : Report := ⟨true, [1, 2, 3]⟩
     let s : State := { s0 with sec := { s0.sec with forming := some r } }
     decide (3 ≤ s.fld Reg.STA_STEP 0 4 ∧ s.bit Reg.SEC_ID 0 = true ∧ s.sec.forming.isSome = true ∧
       s.faults.discard = false)) &&
    (let s0 : State := live.setBit Reg.SEC_ID 0 true
     let r : Report := ⟨true, [1, 2, 3]⟩
     let s : State := { s0 with sec := { s0.sec with forming := some r } }
     decide (s.sec.forming = some r)) &&
    (let s0 : State := live.setBit Reg.SEC_ID 0 true
     let r : Report := ⟨false, [1, 2, 3]⟩
     let s : State := { s0 with sec := { s0.sec with forming := some r } }
     decide (s.sec.forming = some r)) &&
    (let s : State := { live with sec := { live.sec with report := [1, 2, 3, 4, 5, 6], taken := 1 } }
     decide (s.faults.discard = false))) = true := by decide +kernel

theorem test_witness_CommonCommandCodesAct :
    ((decide (live.faults.discard = false ∧ (255 : Nat).testBit 0 = true)) &&
    (decide (live.faults.discard = false)) &&
    (let s := live.setFld Reg.MGT_I3C 8 7 0x45
     decide (s.faults.discard = false ∧ s.addressed = false ∧ 127 < 128)) &&
    (let s := after (.entdaa 48) (live.setFld Reg.MGT_I3C 8 7 0x45)
     decide (s.faults.discard = false ∧ s.addressed = true ∧ 0 < 128))) = true := by decide +kernel

theorem test_witness_FramesAreAnsweredOverI3c :
    ((decide (live.faults.discard = false)) &&
    (let s := after (.entdaa 48) (live.setFld Reg.MGT_I3C 8 7 0x45)
     let a := 0
     decide (s.faults.discard = false ∧ s.addressed = true ∧ s.fld Reg.MGT_I3CTEST 0 8 = 0 ∧ a < 2 ^ 32)) &&
    (let s := after (.entdaa 48) (live.setFld Reg.MGT_I3C 8 7 0x45)
     let a := Reg.WGT_ETA
     decide (s.faults.discard = false ∧ s.addressed = true ∧ s.fld Reg.MGT_I3CTEST 0 8 = 0 ∧ a < 2 ^ 32)) &&
    (let s := after (.entdaa 48) (live.setFld Reg.MGT_I3C 8 7 0x45)
     let a := 0xFFFFFFFF
     decide (s.faults.discard = false ∧ s.addressed = true ∧ s.fld Reg.MGT_I3CTEST 0 8 = 0 ∧ a < 2 ^ 32)) &&
    (let s := after (.entdaa 48) (live.setFld Reg.MGT_I3C 8 7 0x45)
     let a := Reg.FLT_POP
     decide (s.faults.discard = false ∧ s.addressed = true ∧ s.fld Reg.MGT_I3CTEST 0 8 = 0 ∧ a < 2 ^ 32)) &&
    (let s := after (.entdaa 48) (live.setFld Reg.MGT_I3C 8 7 0x45)
     let a := Reg.MGT_COMMIT
     decide (s.faults.discard = false ∧ s.addressed = true ∧ s.fld Reg.MGT_I3CTEST 0 8 = 0 ∧ a < 2 ^ 32)) &&
    (let s := after (.entdaa 48) (live.setFld Reg.MGT_I3C 8 7 0x45)
     let a := Reg.MGT_I3CTEST
     decide (s.faults.discard = false ∧ s.addressed = true ∧ s.fld Reg.MGT_I3CTEST 0 8 = 0 ∧ a < 2 ^ 32)) &&
    (let s := after (.entdaa 48) (live.setFld Reg.MGT_I3C 8 7 0x45)
     let crc : Byte := BitVec.ofNat 8 (crc8 [7]) + 1
     decide (s.faults.discard = false ∧ s.addressed = true ∧ s.fld Reg.MGT_I3CTEST 0 8 = 0 ∧ ([7] : List Byte) ≠ [] ∧
       s.bit Reg.MGT_I3C 16 = false ∧ crc ≠ BitVec.ofNat 8 (crc8 [7]))) &&
    (let s := after (.entdaa 48) (live.setFld Reg.MGT_I3C 8 7 0x45)
     let s : State := { s with i3c := { s.i3c with response := [1, 2] } }
     decide (s.faults.discard = false ∧ s.addressed = true ∧ s.bit Reg.MGT_I3C 16 = false ∧ s.i3c.response ≠ [])) &&
    (let s := after (.entdaa 48) (live.setFld Reg.MGT_I3C 8 7 0x45)
     let r : Record := ⟨0, 0, 0, 0, 0x0D05, .fatal, false, 0, 0, 0, 0, true⟩
     let s0 := s.setBit Reg.MGT_I3C 15 true
     let x : Announcement := .record r
     let s : State := { s0 with faults := { s0.faults with queue := [r] }, i3c := { s0.i3c with events := [(0xA4, [1, 2])] } }
     decide (s.faults.discard = false ∧ s.addressed = true ∧ s.bit Reg.MGT_I3C 15 = true ∧ s.nextAnnouncement = some x)) &&
    (let s := after (.entdaa 48) (live.setFld Reg.MGT_I3C 8 7 0x45)
     let s0 := s.setBit Reg.MGT_I3C 15 true
     let x : Announcement := .event 0xA4 [1, 2]
     let s : State := { s0 with faults := { s0.faults with queue := [] }, i3c := { s0.i3c with events := [(0xA4, [1, 2])] } }
     decide (s.faults.discard = false ∧ s.addressed = true ∧ s.bit Reg.MGT_I3C 15 = true ∧ s.nextAnnouncement = some x))) = true := by decide +kernel

theorem test_witness_SequencerStepsAct :
    ((let s := live.setReg Reg.NVM_ADDR 0x00123400
     let x : SeqStep := { w0 := BitVec.ofNat 32 (0x10000 + 1), w1 := BitVec.ofNat 32 Reg.NVM_ADDR, w2 := 0x0, w3 := 0xFF00 }
     let s1 := s.atStep 15 3
     decide (s.faults.discard = false ∧ s.faults.repeatStep = false ∧ (bitOf x.w0 4 = false ∨ s1.seq.p = true))) &&
    (let s := live.setReg Reg.NVM_ADDR 0x00123400
     let x : SeqStep := { w0 := BitVec.ofNat 32 (4), w1 := BitVec.ofNat 32 Reg.NVM_ADDR, w2 := 0x0, w3 := 0xFF00 }
     let s1 := s.atStep 15 3
     decide (s.faults.discard = false ∧ s.faults.repeatStep = false ∧ (bitOf x.w0 4 = false ∨ s1.seq.p = true))) &&
    (let s := live.setReg Reg.NVM_ADDR 0x00123400
     let x : SeqStep := { w0 := BitVec.ofNat 32 (2), w1 := BitVec.ofNat 32 Reg.NVM_ADDR, w2 := 0x500, w3 := 0xFF00 }
     let s1 := s.atStep 15 3
     decide (s.faults.discard = false ∧ s.faults.repeatStep = false ∧ (bitOf x.w0 4 = false ∨ s1.seq.p = true))) &&
    (let s := live.setReg Reg.NVM_ADDR 0x00123400
     let x : SeqStep := { w0 := BitVec.ofNat 32 (0x22), w1 := BitVec.ofNat 32 Reg.NVM_ADDR, w2 := 0x500, w3 := 0xFF00 }
     let s1 := s.atStep 15 3
     decide (s.faults.discard = false ∧ s.faults.repeatStep = false ∧ (bitOf x.w0 4 = false ∨ s1.seq.p = true))) &&
    (let s := live.setReg Reg.NVM_ADDR 0x00123400
     let x : SeqStep := { w0 := BitVec.ofNat 32 (3), w1 := BitVec.ofNat 32 Reg.NVM_ADDR, w2 := 0x5500, w3 := 0xFF00 }
     let s1 := s.atStep 15 3
     decide (s.faults.discard = false ∧ s.faults.repeatStep = false ∧ (bitOf x.w0 4 = false ∨ s1.seq.p = true))) &&
    (let s := live.setReg Reg.NVM_ADDR 0x00123400
     let x : SeqStep := { w0 := BitVec.ofNat 32 (5 + 0xC00), w1 := BitVec.ofNat 32 Reg.NVM_ADDR, w2 := 0x5500, w3 := 0xFF00 }
     let s1 := s.atStep 15 3
     decide (s.faults.discard = false ∧ s.faults.repeatStep = false ∧ (bitOf x.w0 4 = false ∨ s1.seq.p = true))) &&
    (let s := live.setReg Reg.NVM_ADDR 0x00123400
     let x : SeqStep := { w0 := BitVec.ofNat 32 (7), w1 := BitVec.ofNat 32 Reg.NVM_ADDR, w2 := 0x0, w3 := 0xFF00 }
     let s1 := s.atStep 15 3
     decide (s.faults.discard = false ∧ s.faults.repeatStep = false ∧ (bitOf x.w0 4 = false ∨ s1.seq.p = true))) &&
    (let s := live.setReg Reg.NVM_ADDR 0x00123400
     let x : SeqStep := { w0 := BitVec.ofNat 32 (6 + 0x0), w1 := BitVec.ofNat 32 Reg.NVM_ADDR, w2 := 0x0, w3 := 0xFF00 }
     let s1 := s.atStep 15 3
     decide (s.faults.discard = false ∧ s.faults.repeatStep = false ∧ (bitOf x.w0 4 = false ∨ s1.seq.p = true))) &&
    (let s := live.setReg Reg.NVM_ADDR 0x00123400
     let x : SeqStep := { w0 := BitVec.ofNat 32 (6 + 0x1000), w1 := BitVec.ofNat 32 Reg.NVM_ADDR, w2 := 0x0, w3 := 0xFF00 }
     let s1 := s.atStep 15 3
     decide (s.faults.discard = false ∧ s.faults.repeatStep = false ∧ (bitOf x.w0 4 = false ∨ s1.seq.p = true))) &&
    (let s := live.setReg Reg.NVM_ADDR 0x00123400
     let x : SeqStep := { w0 := BitVec.ofNat 32 (6 + 0x2000), w1 := BitVec.ofNat 32 Reg.NVM_ADDR, w2 := 0x0, w3 := 0xFF00 }
     let s1 := s.atStep 15 3
     decide (s.faults.discard = false ∧ s.faults.repeatStep = false ∧ (bitOf x.w0 4 = false ∨ s1.seq.p = true))) &&
    (let s := live.setReg Reg.NVM_ADDR 0x00123400
     let x : SeqStep := { w0 := BitVec.ofNat 32 (6 + 0x3000), w1 := BitVec.ofNat 32 Reg.NVM_ADDR, w2 := 0x0, w3 := 0xFF00 }
     let s1 := s.atStep 15 3
     decide (s.faults.discard = false ∧ s.faults.repeatStep = false ∧ (bitOf x.w0 4 = false ∨ s1.seq.p = true))) &&
    (let s := live.setReg Reg.NVM_ADDR 0x00123400
     let x : SeqStep := { w0 := BitVec.ofNat 32 (0x12), w1 := BitVec.ofNat 32 Reg.NVM_ADDR, w2 := 0x0, w3 := 0xFF00 }
     let s1 := s.atStep 15 3
     decide (s.faults.discard = false ∧ s.faults.repeatStep = false ∧ bitOf x.w0 4 = true ∧ s1.seq.p = false)) &&
    (let s : State := { live with faults := { live.faults with discard := true, repeatStep := false } }
     decide (s.faults.discard = true ∨ s.faults.repeatStep = true)) &&
    (let s : State := { live with faults := { live.faults with discard := false, repeatStep := true } }
     decide (s.faults.discard = true ∨ s.faults.repeatStep = true)) &&
    (let s0 := live.setReg Reg.MGT_TLMCFG 0
     let s : State := { s0 with seq := { s0.seq with complete := [1, 2] } }
     decide (s.started = true ∧ (s.clock.running = true → s.slot % max 1 s.spe = 0))) &&
    (let s0 := live.setReg Reg.MGT_TLMCFG 256
     let s : State := { s0 with seq := { s0.seq with complete := [1, 2] } }
     decide (s.started = true ∧ (s.clock.running = true → s.slot % max 1 s.spe = 0))) &&
    (let s0 := live.setReg Reg.MGT_TLMCFG 511
     let s : State := { s0 with seq := { s0.seq with complete := [1, 2] } }
     decide (s.started = true ∧ (s.clock.running = true → s.slot % max 1 s.spe = 0)))) = true := by decide +kernel

theorem test_witness_TestModesTakeForce :
    ((let s0 := live.setFld (winKey 23 Reg.RAD_PRBS) 8 3 6
     let s : State := { s0 with test := { s0.test with prbs := [.jesd 23] } }
     decide (PrbsLane.jesd 23 ∈ prbsIds ∧ s.checking (.jesd 23) = true ∧ s.laneServed (.jesd 23) = true)) &&
    (let s := live.setBit (winKey 8 Reg.NET_PRBS) 11 true
     decide (s.locked (.ether 8 3) = true ∧ s.laneServed (.ether 8 3) = true)) &&
    (let s := live.setReg Reg.STA_STEP 0x1d
     decide (s.scanAllowed = true)) &&
    (let s := live.setReg Reg.STA_STEP 0x4
     decide (s.scanAllowed = true)) &&
    (let s := live.setReg Reg.STA_STEP 5
     decide (s.scanAllowed = false)) &&
    (let s := live
     decide (s.start.held = false))) = true := by decide +kernel

theorem test_witness_ClearsSetFieldsToZero :
    ((let busy : State → Nat → State := fun s k => s.setReg k 0xFFFFFFFF
     let s := ((clearTable live 0 0).flatMap (fun e => e.2.2)).foldl busy live
     let s := clearedFields.foldl busy s
     let s := (s.setReg Reg.ARC_ANVMAP 0xFFFFFFFF).setBit Reg.ARC_GRADE 8 true
     decide (s.faults.discard = false ∧ ∀ e ∈ clearTable s.catchUp 0 0, s.clearFits e.1 = true ∧
       ∀ q ∈ e.2.1, s.served q = true)) &&
    (let busy : State → Nat → State := fun s k => s.setReg k 0xFFFFFFFF
     let s := ((clearTable live 7 3).flatMap (fun e => e.2.2)).foldl busy live
     let s := clearedFields.foldl busy s
     let s := (s.setReg Reg.ARC_ANVMAP 0xFFFFFFFF).setBit Reg.ARC_GRADE 8 true
     decide (s.faults.discard = false ∧ ∀ e ∈ clearTable s.catchUp 7 3, s.clearFits e.1 = true ∧
       ∀ q ∈ e.2.1, s.served q = true)) &&
    (let s := (live.setReg Reg.ARC_ANVMAP 0x77777777).setBit Reg.ARC_GRADE 8 false
     decide (s.faults.discard = false ∧ (clearTable s.catchUp 7 3).any (fun e => !s.clearFits e.1) = true)) &&
    (let busy : State → Nat → State := fun s k => s.setReg k 0xFFFFFFFF
     let s := clearedFields.foldl busy live
     decide (s.faults.discard = false ∧ s.served 10 = true ∧ s.served 8 = true ∧ s.served 9 = true))) = true := by decide +kernel

theorem test_witness_AloneTheLossVariantIsTheRunningOne :
    ((let s := ((live.setTwinState 0).setFld Reg.SPL_SWREQ 0 16 3).setBit Reg.TWN_STAT 4 true
     decide ((s.twinState = 0 ∨ s.twinState = 4) ∧ s.catchUp.served 12 = true ∧ s.catchUp.powerState ≠ 3 ∧
       s.catchUp.twinState = s.twinState)) &&
    (let s := ((live.setTwinState 4).setFld Reg.SPL_SWREQ 0 16 3).setBit Reg.TWN_STAT 4 true
     decide ((s.twinState = 0 ∨ s.twinState = 4) ∧ s.catchUp.served 12 = true ∧ s.catchUp.powerState ≠ 3 ∧
       s.catchUp.twinState = s.twinState))) = true := by decide +kernel

theorem test_witness_PtpMessagesGoWhereTheRuleSays :
    ((let m : PtpMsg := { kind := .sync, domain := 24, badOpt := false, seq := 1, src := 2, corr := 0, twoStep := false, stamp := 0 }
     let s : State := { (live.setBit Reg.NET_PTPFWD 7 true) with time := { live.time with slave := { live.time.slave with master := some ⟨0, 0, 0, 0, 0, 0, 2⟩ } } }
     decide (s.served 9 = true ∧ m.badOpt = false ∧ m.domain = s.plan.net.domain ∧ 7 < 8 ∧
       s.bit Reg.NET_PTPFWD 7 = true ∧ s.bit Reg.NET_PTPFWD 6 = false ∧ s.fromMaster m = true))) = true := by decide +kernel

theorem test_witness_IdcodeNamesTheStepping :
    ((decide (live.start.held = false))) = true := by decide +kernel

theorem test_witness_EngineCommandsLeaveOtherUnitsAlone :
    ((let s : State := live
     let i := Instr.load (cmd 1 0x10 7 3 0 0x407F0005)
     decide (i.isEngine = true ∧ nx (exec i s) (fun _ => true) = true)) &&
    (let s : State := { live with drawn := 3, ladles := SMap.write {} [] 1 { active := some { w3 := 0x200, blocks := [{ usz := 6, cnt0 := 8, cnt1 := 1, cnt2 := 1, cnt3 := 1 }] } } }
     let i := Instr.load (cmd 1 0x10 7 3 0 0x407F0005)
     decide (i.isEngine = true ∧ nx (exec i s) (fun _ => true) = true)) &&
    (let s : State := live
     let i := Instr.stream (cmd 1 0x11 0 0 1 0 0x01FF0003 0 1)
     decide (i.isEngine = true ∧ nx (exec i s) (fun _ => true) = true)) &&
    (let s : State := { live with drawn := 3, ladles := SMap.write {} [] 1 { active := some { w3 := 0x200, blocks := [{ usz := 6, cnt0 := 8, cnt1 := 1, cnt2 := 1, cnt3 := 1 }] } } }
     let i := Instr.stream (cmd 1 0x11 0 0 1 0 0x01FF0003 0 1)
     decide (i.isEngine = true ∧ nx (exec i s) (fun _ => true) = true)) &&
    (let s : State := live
     let i := Instr.drain (cmd 1 0x14 0 0 0 0 0x20000002)
     decide (i.isEngine = true ∧ nx (exec i s) (fun _ => true) = true)) &&
    (let s : State := { live with drawn := 3, ladles := SMap.write {} [] 1 { active := some { w3 := 0x200, blocks := [{ usz := 6, cnt0 := 8, cnt1 := 1, cnt2 := 1, cnt3 := 1 }] } } }
     let i := Instr.drain (cmd 1 0x14 0 0 0 0 0x20000002)
     decide (i.isEngine = true ∧ nx (exec i s) (fun _ => true) = true)) &&
    (let s : State := live
     let i := Instr.vload (cmd 2 0x20 7 0 0 0x00021000)
     decide (i.isEngine = true ∧ nx (exec i s) (fun _ => true) = true)) &&
    (let s : State := live
     let i := Instr.transpose (cmd 6 0x60 0 0 0 0x02030010)
     decide (i.isEngine = true ∧ nx (exec i s) (fun _ => true) = true)) &&
    (let s : State := { live with drawn := 3, ladles := SMap.write {} [] 1 { active := some { w3 := 0x200, blocks := [{ usz := 6, cnt0 := 8, cnt1 := 1, cnt2 := 1, cnt3 := 1 }] } } }
     let i := Instr.transpose (cmd 6 0x60 0 0 0 0x02030010)
     decide (i.isEngine = true ∧ nx (exec i s) (fun _ => true) = true)) &&
    (let s : State := live
     let i := Instr.ewise (cmd 3 0x32 0 1 1 0x00200040 0x00002000)
     decide (i.isEngine = true ∧ nx (exec i s) (fun _ => true) = true)) &&
    (let s : State := live
     let i := Instr.sort (cmd 4 0x42 0 3 0 0x200 0 0)
     decide (i.isEngine = true ∧ nx (exec i s) (fun _ => true) = true)) &&
    (let s : State := { live with drawn := 3, ladles := SMap.write {} [] 1 { active := some { w3 := 0x200, blocks := [{ usz := 6, cnt0 := 8, cnt1 := 1, cnt2 := 1, cnt3 := 1 }] } } }
     let i := Instr.sort (cmd 4 0x42 0 3 0 0x200 0 0)
     decide (i.isEngine = true ∧ nx (exec i s) (fun _ => true) = true)) &&
    (let s : State := live
     let i := Instr.fir (cmd 8 0x82 8 15 0 0 0x00011000 3 0 0x02000000 9)
     decide (i.isEngine = true ∧ nx (exec i s) (fun _ => true) = true)) &&
    (let s : State := { live with drawn := 3, ladles := SMap.write {} [] 1 { active := some { w3 := 0x200, blocks := [{ usz := 6, cnt0 := 8, cnt1 := 1, cnt2 := 1, cnt3 := 1 }] } } }
     let i := Instr.fir (cmd 8 0x82 8 15 0 0 0x00011000 3 0 0x02000000 9)
     decide (i.isEngine = true ∧ nx (exec i s) (fun _ => true) = true)) &&
    (let s : State := live
     let i := Instr.penc (cmd 9 0x93 10 24 0 0 0 0 0 32)
     decide (i.isEngine = true ∧ nx (exec i s) (fun _ => true) = true)) &&
    (let s : State := { live with drawn := 3, ladles := SMap.write {} [] 1 { active := some { w3 := 0x200, blocks := [{ usz := 6, cnt0 := 8, cnt1 := 1, cnt2 := 1, cnt3 := 1 }] } } }
     let i := Instr.penc (cmd 9 0x93 10 24 0 0 0 0 0 32)
     decide (i.isEngine = true ∧ nx (exec i s) (fun _ => true) = true)) &&
    (let s : State := live
     let i := Instr.uprx (cmd 10 0xA0 9 7 0 0x000D0000 (0x220 ||| (7 <<< 18)) 0x06000000 0 0x00000009)
     decide (i.isEngine = true ∧ nx (exec i s) (fun _ => true) = true)) &&
    (let s : State := { live with drawn := 3, ladles := SMap.write {} [] 1 { active := some { w3 := 0x200, blocks := [{ usz := 6, cnt0 := 8, cnt1 := 1, cnt2 := 1, cnt3 := 1 }] } } }
     let i := Instr.uprx (cmd 10 0xA0 9 7 0 0x000D0000 (0x220 ||| (7 <<< 18)) 0x06000000 0 0x00000009)
     decide (i.isEngine = true ∧ nx (exec i s) (fun _ => true) = true)) &&
    (let s : State := live
     let i := Instr.l2tx (cmd 10 0xA3 9 8 0 0x10)
     decide (i.isEngine = true ∧ nx (exec i s) (fun _ => true) = true)) &&
    (let s : State := { live with drawn := 3, ladles := SMap.write {} [] 1 { active := some { w3 := 0x200, blocks := [{ usz := 6, cnt0 := 8, cnt1 := 1, cnt2 := 1, cnt3 := 1 }] } } }
     let i := Instr.l2tx (cmd 10 0xA3 9 8 0 0x10)
     decide (i.isEngine = true ∧ nx (exec i s) (fun _ => true) = true))) = true := by decide +kernel

theorem test_witness_StepKeepsCanonicalForm :
    ((let s : State := { live with pending := [.timeRead] }
     decide (s.canonical = true ∧ nx (step s) (fun _ => true) = true))) = true := by decide +kernel

theorem test_witness_StepKeepsStagedRegisters :
    ((let s : State := { (live.stage Reg.WGT_ETA 0xFF 3) with pending := [.timeRead] }
     decide (s.stagedOnly = true ∧ nx (step s) (fun _ => true) = true))) = true := by decide +kernel

theorem test_witness_CommandsLeaveTheQueue :
    ((let s : State := { live with pending := [.esmcTimeout] }
     decide (nx (exec .timeRead s) (fun t => decide (t.pending = [.esmcTimeout])) = true))) = true := by decide +kernel

/-- A device with a transmit channel whose link is in its data state and whose first granule is complete. -/
def ready : State :=
  let s : State := { live with plan := { live.plan with variants := [{ tx := [(0, { engine := 1 })] }] } }
  let s := (s.setFld (Reg.JTX_STAT 0) 0 3 4).teWrite (2 ^ 17) 5
  { s with radio := { s.radio with spans := SMap.write [] [] 0 [⟨0, 64, 1, 0, 3, false⟩] } }

/-- The same with the granule's check written. -/
def transmits : State := ready.teMark 2048

/-- Where its link's offset puts sample 0 of slot 0. -/
def place : Nat × Nat := transmits.renumber true (transmits.txChan 0).link 0 0

/-- The cycle that sample is read. -/
def readCycle : Nat :=
  transmits.sampleCycle place.2 - transmits.fld (Reg.JTX_STAT (transmits.txChan 0).link) 16 16

theorem test_witness_RadioSamplesPassTheNco_transmit :
    transmits.served 8 = true ∧ transmits.clock.running = true ∧ transmits.fatalIdle = false ∧
      (transmits.variant transmits.active).tx.any (fun e => e.1 == 0) = true ∧
      place.1 = transmits.slot ∧ transmits.fld (Reg.JTX_STAT (transmits.txChan 0).link) 0 3 = 4 ∧
    (let s1 := transmits.reach readCycle
     let a := s1.ringAddr (transmits.txChan 0) place.1 place.2
     s1.granuleDone 0 a (place.1 * slotSamples + place.2) = true ∧
       teKey (transmits.txChan 0).engine 0 a / 64 = 2048 ∧ SMap.read 0 s1.mem.teVoid 2048 = 0) := by
  decide +kernel

theorem test_witness_RadioSamplesPassTheNco_checked : (transmits.reach readCycle).teOk 2048 = true :=
  State.teOk_reach_teMark ready 2048 readCycle

theorem test_witness_HbmEventsCountAndClear_stripe : (stripe.stripeData 0).isSome = true := by
  have h : ((List.range 2048).map fun j => (stripe.staged.reverse.find? fun e =>
      e.1 = 0 * 2048 + j).map (·.2)).all Option.isSome = true := by
    simp only [List.all_map, List.all_eq_true, List.mem_range, Function.comp]
    intro j hj
    rw [Option.isSome_map, List.find?_isSome]
    exact ⟨(j, 0), by simp [stripe, hj], by simp⟩
  unfold Stream.stripeData
  rw [if_pos h]
  rfl

/-! ## Worked examples of the manual -/

/-- R51, the worked example of a scrub read: bank 29 of CR5, word 0x3A41, bit 17. -/
theorem test_example_scrub_location :
    cellLoc 5 0x08 29 0x3A41 17 = 0x148740E904440000 := by decide +kernel

/-- R55, R168, the worked example of a column check: accumulator row 5 of Anvil 1 of CR4. -/
theorem test_example_row_check_location :
    cellLoc 4 0x01 1 0x40140 0xFF = 0x1010500503FC0000 := by decide +kernel

/-- R152, the worked example of an elastic slice: a LOADSTREAM of M = 32 at 128,000 completes at 128,356. -/
theorem test_example_loadstream_time :
    (let c : Cmd := { cmd 1 0x12 0 0 0 0 32 0 1 with w := { (cmd 1 0x12 0 0 0 0 32 0 1).w with w1 := 0x01FFE000 ||| 500 } }
    nx (exec (.loadstream c) live) fun t => t.newestEnd == some 128356) = true := by decide +kernel

/-- R357, the worked example of an FFT: N = 4,096 issued at 115,500 completes at 119,156. -/
theorem test_example_fft_time :
    (let c := cmd 8 0x80 8 1 0 12 0 (BitVec.ofNat 32 (3276 * 2 ^ 16 + 2458)) (BitVec.ofNat 32 (11 * 2 ^ 16))
    let c : Cmd := { c with w := { c.w with w0 := c.w.w0 + 0x2C000000, w1 := 0x01FFE000 ||| 451 } }
    nx (exec (.fft c) live) fun t => decide (c.issue = 115500) && t.newestEnd == some 119156) = true := by decide +kernel

/-- R577, R580, the worked example of a read: TCK.SLOTNUM holds 1,000. -/
theorem test_example_i3c_read :
    (let s := after (.entdaa 0x33) (live.setReg Reg.TCK_SLOTNUM 1000)
    nx (exec (.read [0x02, 0x01, 0x08, 0x04, 0x00, 0x1F, 0x76] 520) s) fun t =>
      t.i3c.response == [0x00, 0x01, 0xE8, 0x03, 0x00, 0x00, 0x0B]) = true := by decide +kernel

/-- R436, R437, the worked example of a Sync: 1,437.50 ns of residence are added to 20 ns. -/
theorem test_example_ptp_residence :
    (let m : PtpMsg := ⟨.sync, 24, false, 1, 2, 0x140000, false, 0, 0⟩
    let s := (live.setReg (winKey 8 Reg.NET_PTPLAT) 721).setReg (winKey 3 Reg.NET_PTPLAT) (950 * 2 ^ 16)
    let s := (s.setBit Reg.NET_PTPFWD 3 true).setReg Reg.TCK_SLOTLEN 100
    let s := after (.sync 8 m (412000280 * 65536 + 16384)) s
    nx (exec (.nonPlannedFrame 3 0 (412001300 * 65536)) s) fun t =>
      (SMap.read [] t.net.sent 3).any fun x =>
        match x with
        | .ptp y _ _ => y.corr == 0x05B18000
        | _ => false) = true := by decide +kernel

/-- R595, the worked example of a program: READ, TEST greater than 95, RECORD under the predicate. -/
theorem test_example_sequencer_record :
    (let s := live.setReg Reg.PWR_TEMP 96
    let s := after (.seqRead 2 0 { w0 := 1, w1 := BitVec.ofNat 32 Reg.PWR_TEMP }) s
    let s := after (.test 2 1 { w0 := 0x05, w2 := 95, w3 := 0xFF }) s
    nx (exec (.record 2 2 { w0 := 0x1016 }) s) fun t =>
      t.faults.queue.any fun r => r.code == 0x0D05 && r.cls == .detected && r.d0 == 96) = true := by decide +kernel

end Sys2Proof.Tests
end

section
/-! SUPPORT. What waits in a state: the commands of the queue and the commit unit. Most functions of the model leave
both alone, which is said here once for each, in the order of the model's files. The rules are given to `simp` with
`↓`, so that it meets a whole call before it looks into the state that the call is made on. -/

namespace Sys2Proof.Machine

open Sys2Proof

/-- What waits in a state: the commands of the queue, and what the commit unit has staged and accepted. -/
def State.waits (s : State) : List Instr × CommitUnit := (s.pending, s.commit)

theorem State.waits_of {s t : State} (hp : t.pending = s.pending) (hc : t.commit = s.commit) :
    t.waits = s.waits :=
  Prod.ext hp hc

theorem State.waits_snd {α : Type} {p : α × State} {a : α} {t : State} {w : List Instr × CommitUnit}
    (e : p = (a, t)) (h : p.2.waits = w) : t.waits = w := by
  rwa [e] at h

section
variable (s : State)

theorem State.waits_ite (c : Prop) [Decidable c] (a b : State) :
    (if c then a else b).waits = if c then a.waits else b.waits := apply_ite _ ..

theorem State.waits_ite_of {c : Prop} [Decidable c] {a b : State} {w : List Instr × CommitUnit} (ha : a.waits = w)
    (hb : b.waits = w) : (if c then a else b).waits = w := by
  split
  exacts [ha, hb]

theorem snd_ite {α β : Type} (c : Prop) [Decidable c] (a b : α × β) :
    (if c then a else b).2 = if c then a.2 else b.2 := apply_ite _ ..

/-- What waits in a state that is written out, as an update of other fields leaves it. -/
theorem State.waits_mk {p : List Instr} {k : CommitUnit}
    {x1 x2 x4 x5 x6 x7 x8 x9 x10 x11 x12 x13 x14 x15 x16 x17 x18 x19 x20 x21 x22 x23 x24 x25 x26 x27 x28 x29
     x30 x31 x32 x33 x34 x35 x36 x37} :
    (State.mk p x1 x2 k x4 x5 x6 x7 x8 x9 x10 x11 x12 x13 x14 x15 x16 x17 x18 x19 x20 x21 x22 x23 x24 x25 x26
      x27 x28 x29 x30 x31 x32 x33 x34 x35 x36 x37).waits = (p, k) := by
  rw [State.waits]

theorem State.waits_eta : (s.pending, s.commit) = s.waits := by
  rw [State.waits]

theorem State.foldl_waits {β : Type} {f : State → β → State} (h : ∀ s b, (f s b).waits = s.waits)
    (l : List β) : (l.foldl f s).waits = s.waits := foldl_keeps State.waits h l s

theorem State.foldr_waits {β : Type} {f : β → State → State} (h : ∀ s b, (f b s).waits = s.waits)
    (l : List β) : (l.foldr f s).waits = s.waits := foldr_keeps State.waits h l s

theorem State.setTwinState_waits (v : Nat) : (s.setTwinState v).waits = s.waits :=
  State.waits_of (s.setTwinState_pending ..) (s.setTwinState_commit ..)

theorem State.setLive_waits (b : Bool) : (s.setLive b).waits = s.waits :=
  State.waits_of (s.setLive_pending ..) (s.setLive_commit ..)

/-! ### Machine/Ops -/

theorem State.setReg_waits (k : Nat) (w : Word) : (s.setReg k w).waits = s.waits :=
  State.waits_of (s.setReg_pending ..) (s.setReg_commit ..)

theorem State.setFld_waits (k lo n v : Nat) : (s.setFld k lo n v).waits = s.waits :=
  State.waits_of (s.setFld_pending ..) (s.setFld_commit ..)

theorem State.setBit_waits (k i : Nat) (b : Bool) : (s.setBit k i b).waits = s.waits :=
  State.waits_of (s.setBit_pending ..) (s.setBit_commit ..)

theorem State.bump_waits (k lo n by_ : Nat) : (s.bump k lo n by_).waits = s.waits :=
  State.waits_of (s.bump_pending ..) (s.bump_commit ..)

theorem State.wrapAdd_waits (k lo n by_ : Nat) : (s.wrapAdd k lo n by_).waits = s.waits :=
  State.waits_of (s.wrapAdd_pending ..) (s.wrapAdd_commit ..)

theorem State.bumpIf_waits (b : Bool) (k lo n by_ : Nat) : (s.bumpIf b k lo n by_).waits = s.waits :=
  State.waits_of (s.bumpIf_pending ..) (s.bumpIf_commit ..)

theorem State.orFlags_waits (k : Nat) (f : FlagWord) : (s.orFlags k f).waits = s.waits :=
  State.waits_of (s.orFlags_pending ..) (s.orFlags_commit ..)

theorem State.zeroRegs_waits (x : List Nat) : (s.zeroRegs x).waits = s.waits := by
  rw [s.zeroRegs_form x, State.waits_mk, State.waits_eta]

theorem State.raise_waits (code : Nat) (cls : FaultClass) (loc : BitVec 64) (d0 d1 : Nat) :
    (s.raise code cls loc d0 d1).waits = s.waits :=
  State.waits_of (s.raise_pending ..) (s.raise_commit ..)

theorem State.raiseIf_waits (b : Bool) (code : Nat) (cls : FaultClass) (loc : BitVec 64) (d0 d1 : Nat) :
    (s.raiseIf b code cls loc d0 d1).waits = s.waits :=
  State.waits_of (s.raiseIf_pending ..) (s.raiseIf_commit ..)

theorem State.onCtx_waits (c : Nat) (f : Ctx → Ctx) : (s.onCtx c f).waits = s.waits :=
  State.waits_of (s.onCtx_pending ..) (s.onCtx_commit ..)

theorem State.countJob_waits (client which n : Nat) : (s.countJob client which n).waits = s.waits :=
  State.waits_of (s.countJob_pending ..) (s.countJob_commit ..)

theorem State.setLadle_waits (r l : Nat) (x : Ladle) : (s.setLadle r l x).waits = s.waits :=
  State.waits_of (s.setLadle_pending ..) (s.setLadle_commit ..)

theorem State.onHandIn_waits (j : Job) (f : HandIn → HandIn) : (s.onHandIn j f).waits = s.waits :=
  State.waits_of (s.onHandIn_pending ..) (s.onHandIn_commit ..)

theorem State.dropTaster_waits (js : List Job) : (s.dropTaster js).waits = s.waits :=
  State.waits_of (s.dropTaster_pending ..) (s.dropTaster_commit ..)

theorem State.abortJob_waits (c : Nat) : (s.abortJob c).waits = s.waits :=
  State.waits_of (s.abortJob_pending ..) (s.abortJob_commit ..)

theorem State.abortJobs_waits (c : Nat) (p : Job → Bool) : (s.abortJobs c p).waits = s.waits :=
  State.waits_of (s.abortJobs_pending ..) (s.abortJobs_commit ..)

theorem State.abortWhere_waits (q : Ctx → Bool) (p : Job → Bool) : (s.abortWhere q p).waits = s.waits :=
  State.waits_of (s.abortWhere_pending ..) (s.abortWhere_commit ..)

theorem State.voidEntry_waits (lag region buf cause : Nat) :
    (s.voidEntry lag region buf cause).waits = s.waits :=
  State.waits_of (s.voidEntry_pending ..) (s.voidEntry_commit ..)

theorem State.suspectEntry_waits (lag region buf cause : Nat) :
    (s.suspectEntry lag region buf cause).waits = s.waits :=
  State.waits_of (s.suspectEntry_pending ..) (s.suspectEntry_commit ..)

theorem State.voidBuf_waits (ctx : Option Nat) (region buf cause : Nat) :
    (s.voidBuf ctx region buf cause).waits = s.waits :=
  State.waits_of (s.voidBuf_pending ..) (s.voidBuf_commit ..)

theorem State.voidOuts_waits (ctx : Option Nat) (outs : List (Nat × Nat)) (cause : Nat) :
    (s.voidOuts ctx outs cause).waits = s.waits := by
  unfold State.voidOuts
  simp only [↓State.voidBuf_waits, ↓State.foldl_waits, implies_true]

theorem State.complete_waits (ctx : Option Nat) (region buf : Nat) :
    (s.complete ctx region buf).waits = s.waits :=
  State.waits_of (s.complete_pending ..) (s.complete_commit ..)

theorem State.clearBuf_waits (c buf : Nat) : (s.clearBuf c buf).waits = s.waits :=
  State.waits_of (s.clearBuf_pending ..) (s.clearBuf_commit ..)

theorem State.voidRegion_waits (r cause : Nat) : (s.voidRegion r cause).waits = s.waits :=
  State.waits_of (s.voidRegion_pending ..) (s.voidRegion_commit ..)

theorem State.closeGate_waits (r cause : Nat) : (s.closeGate r cause).waits = s.waits :=
  State.waits_of (s.closeGate_pending ..) (s.closeGate_commit ..)

theorem State.fenceFault_waits (r cause : Nat) : (s.fenceFault r cause).waits = s.waits :=
  State.waits_of (s.fenceFault_pending ..) (s.fenceFault_commit ..)

theorem State.blockRaise_waits (r cls idx code : Nat) (loc : BitVec 64) (d0 d1 : Nat) :
    (s.blockRaise r cls idx code loc d0 d1).waits = s.waits :=
  State.waits_of (s.blockRaise_pending ..) (s.blockRaise_commit ..)

theorem State.bankCollision_waits (r bank : Nat) : (s.bankCollision r bank).waits = s.waits := by
  unfold State.bankCollision
  simp only [↓State.bump_waits, ↓State.raise_waits, ↓State.fenceFault_waits, ↓State.waits_ite, ↓ite_self,
    ↓State.waits_mk, ↓State.waits_eta]

theorem State.later_waits (t region : Nat) (e : Effect) : (s.later t region e).waits = s.waits :=
  State.waits_of (s.later_pending ..) (s.later_commit ..)

theorem State.laters_waits (t region : Nat) (es : List Effect) : (s.laters t region es).waits = s.waits :=
  State.waits_of (s.laters_pending ..) (s.laters_commit ..)

theorem State.reach_waits (t : Nat) : (s.reach t).waits = s.waits :=
  State.waits_of (s.reach_pending ..) (s.reach_commit ..)

theorem State.countBreach_waits (r t : Nat) : (s.countBreach r t).waits = s.waits :=
  State.waits_of (s.countBreach_pending ..) (s.countBreach_commit ..)

theorem State.breachAt_waits (ctx : Option Nat) (loc : BitVec 64) (w0 : Word) (planned cycle late : Nat) :
    (s.breachAt ctx loc w0 planned cycle late).waits = s.waits :=
  State.waits_of (s.breachAt_pending ..) (s.breachAt_commit ..)

theorem State.breach_waits (ctx : Option Nat) (loc : BitVec 64) (w0 : Word) (planned late : Nat) :
    (s.breach ctx loc w0 planned late).waits = s.waits := by
  unfold State.breach
  simp only [↓State.breachAt_waits]

theorem State.moreBreaches_waits (ctx : Option Nat) (loc : BitVec 64) (t n : Nat) :
    (s.moreBreaches ctx loc t n).waits = s.waits := by
  unfold State.moreBreaches
  simp only [↓State.laters_waits, ↓State.later_waits, ↓State.waits_ite, ↓ite_self]

theorem State.breachRun_waits (ctx : Option Nat) (loc : BitVec 64) (w0 : Word) (planned cycle late n : Nat) :
    (s.breachRun ctx loc w0 planned cycle late n).waits = s.waits := by
  unfold State.breachRun
  simp only [↓State.breachAt_waits, ↓State.moreBreaches_waits, ↓State.foldl_waits, implies_true,
    ↓State.waits_ite, ↓ite_self]

theorem State.fresh_waits : s.fresh.2.waits = s.waits := by
  unfold State.fresh
  simp only [↓State.waits_mk, ↓State.waits_eta]

theorem State.draw_waits (n : Nat) : (s.draw n).2.waits = s.waits := by
  unfold State.draw
  simp only [↓State.waits_mk, ↓State.waits_eta]

theorem State.drawFor_waits (elastic : Bool) (n : Nat) : (s.drawFor elastic n).2.waits = s.waits := by
  unfold State.drawFor
  simp only [↓State.draw_waits, ↓State.waits_ite, ↓ite_self, ↓snd_ite, ↓State.waits_mk,
    ↓State.waits_eta]

theorem State.eccRecord_waits (unc : Bool) (r cls idx : Nat) (loc : BitVec 64) (addr hi : Nat) :
    (s.eccRecord unc r cls idx loc addr hi).waits = s.waits := by
  unfold State.eccRecord
  simp only [↓State.fresh_waits, ↓State.blockRaise_waits, ↓State.raise_waits, ↓State.waits_ite, ↓ite_self]

theorem State.eccLater_waits (unc : Bool) (r cls idx : Nat) (loc : BitVec 64) (addr t : Nat) :
    (s.eccLater unc r cls idx loc addr t).waits = s.waits := by
  unfold State.eccLater
  simp only [↓State.fresh_waits, ↓State.later_waits, ↓State.waits_ite, ↓ite_self]

theorem State.spineFault_waits (ctx : Option Nat) (f : SpineFault) :
    (s.spineFault ctx f).waits = s.waits := by
  unfold State.spineFault
  split <;> simp only [↓State.voidOuts_waits, ↓State.raise_waits, ↓State.setBit_waits, ↓State.eccRecord_waits,
    ↓State.waits_mk, ↓State.waits_eta]

theorem State.voidIdleEntries_waits : s.voidIdleEntries.waits = s.waits := by
  unfold State.voidIdleEntries
  simp only [↓State.voidOuts_waits, ↓State.foldl_waits, implies_true]

theorem State.loadTables_waits : s.loadTables.waits = s.waits := by
  unfold State.loadTables
  simp only [↓State.waits_mk, ↓State.waits_eta]

theorem State.wakeSource_waits (src : Nat) : (s.wakeSource src).waits = s.waits := by
  unfold State.wakeSource
  simp only [↓State.waits_ite, ↓ite_self, ↓State.waits_mk, ↓State.waits_eta]

theorem State.announce_waits (kind : Nat) (payload : List Byte) : (s.announce kind payload).waits = s.waits :=
  State.waits_of (s.announce_pending ..) (s.announce_commit ..)

theorem State.managed_waits {f : State → State} (h : (f s).waits = s.waits) :
    (s.managed f).waits = s.waits := by
  unfold State.managed
  split
  exacts [rfl, h]

/-! ### Machine/Operands -/

theorem State.neverStarts_waits (c : Cmd) (t : Nat) : (s.neverStarts c t).waits = s.waits := by
  unfold State.neverStarts
  simp only [↓State.waits_mk, ↓State.waits_eta]

theorem State.issueData_waits (c : Cmd) (loc : BitVec 64) (free : Nat) :
    (s.issueData c loc free).2.waits = s.waits := by
  unfold State.issueData
  simp only [↓State.neverStarts_waits, ↓State.reach_waits, ↓State.breach_waits, ↓State.waits_ite, ↓ite_self,
    ↓snd_ite]

theorem State.countVoidIn_waits (step : Nat) : (s.countVoidIn step).waits = s.waits := by
  unfold State.countVoidIn
  simp only [↓State.bump_waits, ↓State.waits_ite, ↓ite_self, ↓State.waits_mk, ↓State.waits_eta]

theorem State.skipVoidJob_waits (c : Nat) : (s.skipVoidJob c).waits = s.waits := by
  unfold State.skipVoidJob
  extract_lets
  split <;> simp only [↓State.onCtx_waits, ↓State.countVoidIn_waits, ↓State.waits_ite, ↓ite_self]

theorem State.zeroRun_waits (c : Cmd) (t : Nat) : (s.zeroRun c t).waits = s.waits := by
  unfold State.zeroRun
  simp only [↓State.complete_waits, ↓State.reach_waits, ↓State.onCtx_waits, ↓State.foldl_waits, implies_true]

theorem State.issueElastic_waits (c : Cmd) (loc : BitVec 64) (free engine : Nat) :
    (s.issueElastic c loc free engine).2.waits = s.waits := by
  unfold State.issueElastic
  simp only [↓State.skipVoidJob_waits, ↓State.zeroRun_waits, ↓State.reach_waits, ↓State.bump_waits,
    ↓State.raise_waits, ↓State.abortJob_waits, ↓State.onCtx_waits, ↓State.breach_waits, ↓State.waits_ite,
    ↓ite_self, ↓snd_ite]

theorem State.settleSignals_waits (t : Nat) : (s.settleSignals t).waits = s.waits := by
  unfold State.settleSignals
  simp only [↓State.complete_waits, ↓State.foldr_waits, implies_true, ↓State.waits_mk, ↓State.waits_eta]

theorem State.signalAt_waits (ctx : Option Nat) (region buf due : Nat) :
    (s.signalAt ctx region buf due).waits = s.waits := by
  unfold State.signalAt
  simp only [↓State.waits_ite, ↓ite_self, ↓State.waits_mk, ↓State.waits_eta]

theorem State.meetSpine_waits (x : Issue × State) (c : Cmd) : (State.meetSpine x c).2.waits = x.2.waits := by
  unfold State.meetSpine
  split <;> simp only [↓State.spineFault_waits, ↓State.waits_ite, ↓ite_self, ↓snd_ite]

theorem State.track_waits (c : Cmd) (i : Issue) (port finish : Nat) (outs : List (Nat × Nat)) :
    (s.track c i port finish outs).waits = s.waits := by
  unfold State.track
  split <;> simp only [↓State.onCtx_waits, ↓State.countJob_waits, ↓State.onHandIn_waits, ↓State.waits_ite,
    ↓ite_self, ↓State.waits_mk, ↓State.waits_eta]

theorem State.setByte_waits (p : Place) (b : Byte) : (s.setByte p b).waits = s.waits := by
  unfold State.setByte
  split <;> simp only [↓State.waits_mk, ↓State.waits_eta]

theorem State.setHallmark_waits (g : Nat × Nat) (h : Word) : (s.setHallmark g h).waits = s.waits := by
  unfold State.setHallmark
  simp only [↓State.waits_ite, ↓ite_self, ↓State.waits_mk, ↓State.waits_eta]

theorem State.remark_waits (g : Nat × Nat) : (s.remark g).waits = s.waits := by
  unfold State.remark
  simp only [↓State.setHallmark_waits]

theorem State.ladleErr_waits (r l lo n : Nat) : (s.ladleErr r l lo n).waits = s.waits := by
  unfold State.ladleErr
  simp only [↓State.setReg_waits, ↓State.bump_waits, ↓State.waits_ite, ↓ite_self]

theorem State.padEcc_waits (w e : Nat) : (s.padEcc w e).waits = s.waits := by
  unfold State.padEcc
  simp only [↓State.bump_waits, ↓State.setReg_waits, ↓State.eccRecord_waits, ↓State.waits_ite, ↓ite_self]

theorem State.markWords_waits (es : List (Nat × Nat)) : (s.markWords es).waits = s.waits := by
  unfold State.markWords
  simp only [↓State.drawFor_waits, ↓State.foldl_waits, implies_true, ↓State.waits_ite, ↓ite_self,
    ↓State.waits_mk, ↓State.waits_eta]

theorem State.setActive_waits (r l : Nat) (t : Option Stream) : (s.setActive r l t).waits = s.waits := by
  unfold State.setActive
  simp only [↓State.setLadle_waits]

theorem State.onStream_waits (p : Port) (f : Stream → Stream) : (s.onStream p f).waits = s.waits := by
  unfold State.onStream
  split <;> simp only [↓State.setActive_waits]

theorem State.onStreamW_waits (p : Port) (f : Stream → Stream) : (s.onStreamW p f).waits = s.waits := by
  unfold State.onStreamW
  split <;> simp only [↓State.setActive_waits]

theorem State.hallFaults_waits (r l : Nat) (gs : List (Nat × Nat)) :
    (s.hallFaults r l gs).waits = s.waits := by
  unfold State.hallFaults
  simp only [↓State.blockRaise_waits, ↓State.ladleErr_waits, ↓State.foldl_waits, implies_true]

theorem State.rangeFaults_waits (r l : Nat) (t : Stream) (n : Nat) :
    (s.rangeFaults r l t n).waits = s.waits := by
  unfold State.rangeFaults
  simp only [↓State.ladleErr_waits, ↓State.raise_waits, ↓State.foldl_waits, implies_true]

theorem State.take_waits (p : Port) (kind n : Nat) : (s.take p kind n).2.waits = s.waits := by
  unfold State.take
  split <;> simp only [↓State.bumpIf_waits, ↓State.hallFaults_waits, ↓State.rangeFaults_waits,
    ↓State.ladleErr_waits, ↓State.bump_waits, ↓State.padEcc_waits, ↓State.voidBuf_waits,
    ↓State.setLadle_waits, ↓State.foldl_waits, implies_true, ↓State.waits_ite, ↓ite_self, ↓snd_ite]

theorem State.renewWords_waits (ps : List Place) : (s.renewWords ps).waits = s.waits := by
  unfold State.renewWords
  simp only [↓State.padEcc_waits, ↓State.foldl_waits, implies_true, ↓State.waits_ite, ↓ite_self,
    ↓State.waits_mk, ↓State.waits_eta]

theorem State.putBytes_waits (l : List (Place × Byte)) : (s.putBytes l).waits = s.waits := by
  induction l generalizing s with
  | nil => rfl
  | cons e l ih => exact (ih _).trans (s.setByte_waits ..)

theorem State.give_waits (p : Port) (kind : Nat) (bs : List Byte) : (s.give p kind bs).waits = s.waits := by
  unfold State.give
  split <;> simp only [↓State.renewWords_waits, ↓State.putBytes_waits, ↓State.rangeFaults_waits,
    ↓State.bump_waits, ↓State.hallFaults_waits, ↓State.voidBuf_waits, ↓State.setLadle_waits, ↓State.waits_ite,
    ↓ite_self]

theorem State.fillGranule_waits (keys : List Nat) (g : Nat × Nat) :
    (s.fillGranule keys g).waits = s.waits := by
  unfold State.fillGranule
  simp only [↓State.foldl_waits, implies_true, ↓State.waits_ite, ↓ite_self, ↓State.waits_mk, ↓State.waits_eta]

theorem State.takeScale_waits (p : Port) : (s.takeScale p).2.2.waits = s.waits := by
  unfold State.takeScale
  simp only [↓State.take_waits, ↓State.waits_ite, ↓ite_self, ↓snd_ite]

theorem State.scaleSkew_waits (ctx : Option Nat) (region unit : Nat) (loc : BitVec 64) (t : Nat) :
    (s.scaleSkew ctx region unit loc t).waits = s.waits := by
  unfold State.scaleSkew
  simp only [↓State.laters_waits]

theorem State.setChan_waits (k : Nat) (c : Channel) : (s.setChan k c).waits = s.waits :=
  State.waits_of (s.setChan_pending ..) (s.setChan_commit ..)

theorem State.settleTaps_waits (t : Nat) : (s.settleTaps t).waits = s.waits := by
  unfold State.settleTaps
  simp only [↓State.setChan_waits, ↓State.foldl_waits, implies_true, ↓State.waits_mk, ↓State.waits_eta]

theorem State.openChans_waits (region unit base count : Nat) (f : Fmt) (t : Nat) :
    (s.openChans region unit base count f t).2.waits = s.waits := by
  unfold State.openChans
  simp only [↓State.settleTaps_waits, ↓State.setChan_waits, ↓State.foldl_waits, implies_true]

theorem State.closeChans_waits (cs : ChanSet) (vs : List (Nat × FVal)) (due : Nat) :
    (s.closeChans cs vs due).waits = s.waits := by
  unfold State.closeChans
  simp only [↓State.foldl_waits, implies_true, ↓State.waits_mk, ↓State.waits_eta]

theorem State.closeStage_waits (g : Stage) (due : Nat) : (s.closeStage g due).waits = s.waits := by
  unfold State.closeStage
  simp only [↓State.foldl_waits, implies_true, ↓State.waits_mk, ↓State.waits_eta]

theorem State.countFlags_waits (region due : Nat) (fs : List FlagWord) :
    (s.countFlags region due fs).waits = s.waits := by
  unfold State.countFlags
  simp only [↓State.laters_waits]

theorem State.shadowFault_waits (r cls idx : Nat) (p : Option Nat) (t : Nat) :
    (s.shadowFault r cls idx p t).waits = s.waits := by
  unfold State.shadowFault
  split <;> simp only [↓State.later_waits]

theorem State.eccCells_waits (c : Cmd) (cls idx t : Nat) : (s.eccCells c cls idx t).2.waits = s.waits := by
  unfold State.eccCells
  simp only [↓State.eccLater_waits, ↓State.foldl_waits, implies_true]

theorem State.eccReads_waits (c : Cmd) (cls idx t : Nat) : (s.eccReads c cls idx t).2.waits = s.waits := by
  unfold State.eccReads
  simp only [↓State.eccLater_waits, ↓State.foldl_waits, implies_true]

theorem State.spoil_waits (r l : Nat) (p : Option Nat) : (s.spoil r l p).waits = s.waits := by
  unfold State.spoil
  split
  · rfl
  extract_lets +onlyGivenNames s1
  have h1 : s1.waits = s.waits := s.shadowFault_waits ..
  split <;> simp only [↓State.voidBuf_waits, ↓State.setLadle_waits, h1]

theorem State.stageTags_waits (r l : Nat) (tags : List Nat) : (s.stageTags r l tags).waits = s.waits := by
  unfold State.stageTags
  split <;> simp only [↓State.voidBuf_waits, ↓State.scaleSkew_waits, ↓State.setActive_waits, ↓State.waits_ite,
    ↓ite_self]

theorem State.takeElems_waits (p : Port) (n ne : Nat) (f : Fmt) (zp : Nat → Option Nat) :
    (s.takeElems p n ne f zp).2.waits = s.waits := by
  unfold State.takeElems
  split <;> simp only [↓State.take_waits, ↓State.takeScale_waits, ↓State.onStream_waits,
    ↓State.stageTags_waits, ↓State.spoil_waits, ↓State.waits_ite, ↓ite_self, ↓snd_ite]

theorem State.giveStaged_waits (p : Port) (vals : List (Nat → FVal)) :
    (s.giveStaged p vals).waits = s.waits := by
  unfold State.giveStaged
  split <;> simp only [↓State.setActive_waits, ↓State.give_waits, ↓State.spoil_waits, ↓State.waits_ite,
    ↓ite_self]

theorem State.giveElems_waits (p : Port) (f : Fmt) (codes : List Nat) (exps : List Nat) (exOf : Nat → Nat)
    (scale : List ScaleBlock) :
    (s.giveElems p f codes exps exOf scale).waits = s.waits := by
  unfold State.giveElems
  split <;> simp only [↓State.stageTags_waits, ↓State.giveStaged_waits, ↓State.give_waits, ↓State.waits_ite,
    ↓ite_self]

theorem State.giveFlags_waits (p : Port) (due : Nat) (flags : List FlagWord) :
    (s.giveFlags p due flags).waits = s.waits := by
  unfold State.giveFlags
  simp only [↓State.onStreamW_waits, ↓State.countFlags_waits, ↓State.give_waits]

theorem State.stageScale_waits (p : Port) : (s.stageScale p).waits = s.waits := by
  unfold State.stageScale
  split
  · rfl
  split <;> simp only [↓State.give_waits, ↓State.waits_ite, ↓ite_self]

theorem State.endWrite_waits (p : Port) (at_ : Nat) (ok void : Bool) (cause : Nat) :
    (s.endWrite p at_ ok void cause).waits = s.waits := by
  unfold State.endWrite
  extract_lets +onlyGivenNames s1 r l
  have h1 : s1.waits = s.waits := s.stageScale_waits p
  split <;> simp only [↓State.voidBuf_waits, ↓State.voidEntry_waits, ↓State.setLadle_waits,
    ↓State.remark_waits, ↓State.fillGranule_waits, ↓State.foldl_waits, implies_true, ↓State.waits_ite,
    ↓ite_self, h1]

theorem State.setGrants_waits (r : Nat) (gs : List Grant) : (s.setGrants r gs).waits = s.waits :=
  State.waits_of (s.setGrants_pending ..) (s.setGrants_commit ..)

theorem State.setWaits_waits (r : Nat) (ws : List LeaveReq) : (s.setWaits r ws).waits = s.waits :=
  State.waits_of (s.setWaits_pending ..) (s.setWaits_commit ..)

theorem State.takeLeave_waits (c : Cmd) (engine leave : Nat) :
    (s.takeLeave c engine leave).2.waits = s.waits := by
  unfold State.takeLeave
  simp only [↓State.setGrants_waits, ↓State.setWaits_waits, ↓State.onCtx_waits, ↓State.waits_ite, ↓ite_self,
    ↓snd_ite]

theorem State.useLeave_waits (c : Cmd) (finish : Nat) : (s.useLeave c finish).waits = s.waits := by
  unfold State.useLeave
  simp only [↓State.setGrants_waits, ↓State.waits_ite, ↓ite_self]

theorem State.waitBreach_waits (i : Issue) (c : Cmd) (loc : BitVec 64) (cycles : Nat) :
    (s.waitBreach i c loc cycles).waits = s.waits := by
  unfold State.waitBreach
  simp only [↓State.breach_waits, ↓State.waits_ite, ↓ite_self]

theorem State.freezeBreaches_waits (i : Issue) (c : Cmd) (loc : BitVec 64) (fs : Freezes) :
    (s.freezeBreaches i c loc fs).waits = s.waits := by
  exact foldl_keeps (fun x : Nat × State => x.2.waits) (fun x f => x.2.breachRun_waits ..) fs (0, s)

theorem State.takenBy_waits (p : Port) (fs : Freezes) (cycle : Nat) (gap : Nat) :
    (s.takenBy p fs cycle gap).waits = s.waits := by
  unfold State.takenBy
  split <;> simp only [↓State.setActive_waits, ↓State.waits_ite, ↓ite_self]

/-! ### Machine/Array -/

theorem State.setAnvil_waits (r a : Nat) (x : Anvil) : (s.setAnvil r a x).waits = s.waits :=
  State.waits_of (s.setAnvil_pending ..) (s.setAnvil_commit ..)

theorem State.countFreeze_waits (r a lo : Nat) (fs : Freezes) :
    (s.countFreeze r a lo fs).waits = s.waits := by
  unfold State.countFreeze
  simp only [↓State.later_waits, ↓State.foldl_waits, implies_true]

theorem State.freezeAnvil_waits (i : Issue) (c : Cmd) (loc : BitVec 64) (fs : Freezes) :
    (s.freezeAnvil i c loc fs).waits = s.waits := by
  unfold State.freezeAnvil
  split
  · rfl
  extract_lets +onlyGivenNames s1 v a s2 here s3 s4
  have h3 : s3.waits = s.waits := by
    simp only [s3, s2, s1, ↓State.freezeBreaches_waits, ↓State.setAnvil_waits, ↓State.voidOuts_waits,
      ↓State.foldl_waits, implies_true, ↓State.waits_ite, ↓ite_self]
  have h4 : s4.waits = s.waits := by
    unfold s4; split <;> simp only [↓State.onCtx_waits, h3]
  simp only [↓State.waits_mk, ↓State.waits_eta, h4]

theorem State.drainChecks_waits (c : Cmd) (at_ m : Nat) (bad skip : Bool) (want found seq : Nat) :
    (s.drainChecks c at_ m bad skip want found seq).waits = s.waits := by
  unfold State.drainChecks
  simp only [↓State.laters_waits, ↓State.later_waits, ↓State.waits_ite, ↓ite_self]

theorem State.drainRow_waits (d : Drain) (at_ : Nat) : (s.drainRow d at_).waits = s.waits := by
  unfold State.drainRow
  simp only [↓State.setAnvil_waits, ↓State.countFreeze_waits, ↓State.freezeAnvil_waits,
    ↓State.drainChecks_waits, ↓State.eccLater_waits, ↓State.foldl_waits, implies_true, ↓State.waits_ite,
    ↓ite_self]

theorem State.drainOut_waits (d : Drain) (n : Nat) (scale : List ScaleBlock) :
    (s.drainOut d n scale).2.waits = s.waits := by
  unfold State.drainOut
  simp only [↓State.give_waits, ↓State.giveElems_waits, ↓State.waits_ite, ↓ite_self, ↓snd_ite]

theorem State.endDrain_waits (d : Drain) : (s.endDrain d).waits = s.waits := by
  unfold State.endDrain
  simp only [↓State.scaleSkew_waits, ↓State.shadowFault_waits, ↓State.drainOut_waits, ↓State.closeChans_waits,
    ↓State.giveFlags_waits, ↓State.later_waits, ↓State.endWrite_waits, ↓State.setAnvil_waits,
    ↓State.waits_ite, ↓ite_self]

theorem State.drainTo_waits (r a t : Nat) (x : Nat) : (s.drainTo r a t x).waits = s.waits := by
  induction x generalizing s with
  | zero => rfl
  | succ n ih =>
    unfold State.drainTo
    split
    · rfl
    · simp only [↓State.drainRow_waits, ↓State.endDrain_waits, ↓ih, ↓State.waits_ite, ↓ite_self]

theorem State.drainsTo_waits (t : Nat) : (s.drainsTo t).waits = s.waits := by
  refine s.foldl_waits (fun s e => ?_) s.anvils
  split <;> simp only [↓State.drainTo_waits]

theorem State.stopDrain_waits (k : Nat) (d : Drain) : (s.stopDrain k d).waits = s.waits := by
  unfold State.stopDrain
  simp only [↓State.drainOut_waits, ↓State.setAnvil_waits]

/-! ### Machine/Issue -/

theorem State.closeDone_waits (r l t : Nat) : (s.closeDone r l t).waits = s.waits := by
  unfold State.closeDone
  split
  · rfl
  split <;> simp only [↓State.setActive_waits, ↓State.closeStage_waits, ↓State.waits_ite, ↓ite_self]

theorem State.catchUp_waits : s.catchUp.waits = s.waits := by
  unfold State.catchUp
  simp only [↓State.closeDone_waits, ↓State.drainsTo_waits, ↓State.foldl_waits, implies_true]

theorem State.meetStore_waits (x : Issue × State) (c : Cmd) (loc : BitVec 64) :
    (State.meetStore x c loc).2.waits = x.2.waits := by
  unfold State.meetStore
  split <;> simp only [↓State.eccLater_waits, ↓State.later_waits, ↓State.waits_ite, ↓ite_self, ↓snd_ite]

theorem State.issue_waits (c : Cmd) (loc : BitVec 64) (free engine : Nat) :
    (s.issue c loc free engine).2.waits = s.waits := by
  unfold State.issue
  simp only [↓State.settleSignals_waits, ↓State.drainsTo_waits, ↓State.issueElastic_waits,
    ↓State.issueData_waits, ↓State.meetStore_waits, ↓State.meetSpine_waits, ↓State.waits_ite, ↓ite_self,
    ↓snd_ite]

/-! ### Machine/Anvil -/

theorem State.readTile_waits (c : Cmd) (i : Issue) : (s.readTile c i).2.2.waits = s.waits := by
  unfold State.readTile
  simp only [↓State.takeElems_waits]

theorem State.streamRows_waits (c : Cmd) (i : Issue) (t : Tile) (m enter : Nat) (extraVoid : Bool)
    (cause : Nat) :
    (s.streamRows c i t m enter extraVoid cause).2.waits = s.waits := by
  unfold State.streamRows
  simp only [↓State.takeElems_waits, ↓State.eccLater_waits, ↓State.foldl_waits, implies_true,
    ↓State.waits_ite, ↓ite_self, ↓snd_ite]

theorem State.latchZero_waits (c : Cmd) (fs : Freezes) (zeros : List (Nat × Nat × Nat)) :
    (s.latchZero c fs zeros).waits = s.waits := by
  unfold State.latchZero
  simp only [↓State.laters_waits, ↓State.foldl_waits, implies_true]

theorem State.countRows_waits (c : Cmd) (fs : Freezes) (m d enter : Nat) :
    (s.countRows c fs m d enter).waits = s.waits := by
  unfold State.countRows
  simp only [↓State.later_waits, ↓State.foldl_waits, implies_true]

theorem State.anvilLoad_waits (c : Cmd) : (s.anvilLoad c).waits = s.waits := by
  unfold State.anvilLoad
  simp only [↓State.drainsTo_waits, ↓State.issue_waits, ↓State.readTile_waits, ↓State.takenBy_waits,
    ↓State.countFreeze_waits, ↓State.freezeAnvil_waits, ↓State.setAnvil_waits, ↓State.track_waits,
    ↓State.waits_ite, ↓ite_self]

theorem State.anvilStream_waits (c : Cmd) : (s.anvilStream c).waits = s.waits := by
  unfold State.anvilStream
  simp only [↓State.drainsTo_waits, ↓State.takeLeave_waits, ↓State.issue_waits, ↓State.blockRaise_waits,
    ↓State.streamRows_waits, ↓State.latchZero_waits, ↓State.takenBy_waits, ↓State.countFreeze_waits,
    ↓State.freezeAnvil_waits, ↓State.setAnvil_waits, ↓State.countRows_waits, ↓State.useLeave_waits,
    ↓State.track_waits, ↓State.waits_ite, ↓ite_self]

theorem State.anvilLoadStream_waits (c : Cmd) : (s.anvilLoadStream c).waits = s.waits := by
  unfold State.anvilLoadStream
  simp only [↓State.drainsTo_waits, ↓State.takeLeave_waits, ↓State.issue_waits, ↓State.readTile_waits,
    ↓State.streamRows_waits, ↓State.latchZero_waits, ↓State.takenBy_waits, ↓State.countFreeze_waits,
    ↓State.freezeAnvil_waits, ↓State.setAnvil_waits, ↓State.countRows_waits, ↓State.useLeave_waits,
    ↓State.track_waits, ↓State.waits_ite, ↓ite_self]

theorem State.anvilBias_waits (c : Cmd) : (s.anvilBias c).waits = s.waits := by
  unfold State.anvilBias
  simp only [↓State.drainsTo_waits, ↓State.issue_waits, ↓State.take_waits, ↓State.takenBy_waits,
    ↓State.countFreeze_waits, ↓State.freezeAnvil_waits, ↓State.setAnvil_waits, ↓State.track_waits,
    ↓State.waits_ite, ↓ite_self]

theorem State.anvilDrain_waits (c : Cmd) : (s.anvilDrain c).waits = s.waits := by
  unfold State.anvilDrain
  simp only [↓State.drainsTo_waits, ↓State.issue_waits, ↓State.voidOuts_waits, ↓State.setAnvil_waits,
    ↓State.track_waits, ↓State.openChans_waits, ↓State.countFreeze_waits, ↓State.freezeAnvil_waits,
    ↓State.waits_ite, ↓ite_self, ↓snd_ite]

/-! ### Machine/Clear -/

theorem State.atRegion_waits (r : Nat) {f : State → State} (h : ∀ s : State, (f s).waits = s.waits) :
    (s.atRegion r f).waits = s.waits := by
  unfold State.atRegion
  split
  exacts [(h _).trans s.catchUp_waits, s.bump_waits ..]

theorem State.unassigned_waits (m a : Nat) : (s.unassigned m a).waits = s.waits := by
  unfold State.unassigned
  simp only [↓State.raise_waits, ↓State.bump_waits]

theorem State.whereFitted_waits (b : Bool) (a : Nat) {f : State → State} (h : (f s).waits = s.waits) :
    (s.whereFitted b a f).waits = s.waits := by
  unfold State.whereFitted
  split
  exacts [h, s.unassigned_waits ..]

theorem State.spnCntclr_waits : s.spnCntclr.waits = s.waits := by
  unfold State.spnCntclr
  simp only [↓State.zeroRegs_waits]

theorem State.detClr_waits : s.detClr.waits = s.waits := by
  unfold State.detClr
  simp only [↓State.zeroRegs_waits]

theorem State.fmtClr_waits : s.fmtClr.waits = s.waits := by
  unfold State.fmtClr
  simp only [↓State.zeroRegs_waits]

theorem State.anvClrLatch_waits (region unit : Nat) : (s.anvClrLatch region unit).waits = s.waits := by
  unfold State.anvClrLatch
  simp only [↓State.atRegion_waits, ↓State.zeroRegs_waits, implies_true]

theorem State.anvClrCnt_waits (region unit : Nat) : (s.anvClrCnt region unit).waits = s.waits := by
  unfold State.anvClrCnt
  simp only [↓State.atRegion_waits, ↓State.zeroRegs_waits, implies_true]

theorem State.slcClrLatch_waits (region : Nat) : (s.slcClrLatch region).waits = s.waits := by
  unfold State.slcClrLatch
  simp only [↓State.atRegion_waits, ↓State.zeroRegs_waits, implies_true]

theorem State.slcClrCnt_waits (region : Nat) : (s.slcClrCnt region).waits = s.waits := by
  unfold State.slcClrCnt
  simp only [↓State.atRegion_waits, ↓State.zeroRegs_waits, implies_true, ↓State.waits_mk, ↓State.waits_eta]

theorem State.grdClr_waits : s.grdClr.waits = s.waits := by
  unfold State.grdClr
  simp only [↓State.zeroRegs_waits]

theorem State.swgClr_waits (region : Nat) : (s.swgClr region).waits = s.waits := by
  unfold State.swgClr
  simp only [↓State.atRegion_waits, ↓State.zeroRegs_waits, implies_true, ↓State.waits_mk, ↓State.waits_eta]

theorem State.cruClr_waits (region : Nat) : (s.cruClr region).waits = s.waits := by
  unfold State.cruClr
  simp only [↓State.atRegion_waits, ↓State.zeroRegs_waits, implies_true]

theorem State.plnClrLatch_waits (region unit : Nat) : (s.plnClrLatch region unit).waits = s.waits := by
  unfold State.plnClrLatch
  simp only [↓State.atRegion_waits, ↓State.zeroRegs_waits, implies_true]

theorem State.plnClrCnt_waits (region unit : Nat) : (s.plnClrCnt region unit).waits = s.waits := by
  unfold State.plnClrCnt
  simp only [↓State.atRegion_waits, ↓State.zeroRegs_waits, implies_true]

theorem State.tnkClr_waits (region unit : Nat) : (s.tnkClr region unit).waits = s.waits := by
  unfold State.tnkClr
  simp only [↓State.atRegion_waits, ↓State.zeroRegs_waits, implies_true]

theorem State.ldlClr_waits (region unit : Nat) : (s.ldlClr region unit).waits = s.waits := by
  unfold State.ldlClr
  simp only [↓State.atRegion_waits, ↓State.setLadle_waits, ↓State.zeroRegs_waits, implies_true]

theorem State.spdClr_waits (region : Nat) : (s.spdClr region).waits = s.waits := by
  unfold State.spdClr
  simp only [↓State.atRegion_waits, ↓State.zeroRegs_waits, implies_true]

theorem State.memClr_waits : s.memClr.waits = s.waits := by
  unfold State.memClr
  simp only [↓State.atRegion_waits, ↓State.zeroRegs_waits, implies_true]

theorem State.elsClr_waits : s.elsClr.waits = s.waits := by
  unfold State.elsClr
  simp only [↓State.zeroRegs_waits]

theorem State.radClr_waits : s.radClr.waits = s.waits := by
  unfold State.radClr
  simp only [↓State.atRegion_waits, ↓State.setFld_waits, ↓State.zeroRegs_waits, ↓State.setReg_waits,
    implies_true, ↓State.waits_mk, ↓State.waits_eta]

theorem State.cdcClr_waits : s.cdcClr.waits = s.waits := by
  unfold State.cdcClr
  simp only [↓State.atRegion_waits, ↓State.zeroRegs_waits, ↓State.setFld_waits, implies_true]

theorem State.wgtClr_waits : s.wgtClr.waits = s.waits := by
  unfold State.wgtClr
  simp only [↓State.zeroRegs_waits]

theorem State.schClr_waits : s.schClr.waits = s.waits := by
  unfold State.schClr
  simp only [↓State.zeroRegs_waits]

theorem State.netClr_waits : s.netClr.waits = s.waits := by
  unfold State.netClr
  simp only [↓State.atRegion_waits, ↓State.zeroRegs_waits, ↓State.setFld_waits, ↓State.setReg_waits,
    ↓State.foldl_waits, implies_true]

theorem State.fltClr_waits : s.fltClr.waits = s.waits := by
  unfold State.fltClr
  simp only [↓State.zeroRegs_waits]

theorem State.lgrClr_waits : s.lgrClr.waits = s.waits := by
  unfold State.lgrClr
  simp only [↓State.zeroRegs_waits]

theorem State.twnClr_waits : s.twnClr.waits = s.waits := by
  unfold State.twnClr
  simp only [↓State.atRegion_waits, ↓State.zeroRegs_waits, implies_true]

theorem State.pwrClr_waits : s.pwrClr.waits = s.waits := by
  unfold State.pwrClr
  simp only [↓State.setFld_waits, ↓State.zeroRegs_waits]

theorem State.clkClr_waits : s.clkClr.waits = s.waits := by
  unfold State.clkClr
  simp only [↓State.zeroRegs_waits]

theorem State.secClr_waits : s.secClr.waits = s.waits := by
  unfold State.secClr
  simp only [↓State.zeroRegs_waits]

theorem State.mgtClr_waits : s.mgtClr.waits = s.waits := by
  unfold State.mgtClr
  simp only [↓State.zeroRegs_waits, ↓State.setFld_waits]

theorem State.netPrbsClr_waits : s.netPrbsClr.waits = s.waits := by
  unfold State.netPrbsClr
  simp only [↓State.atRegion_waits, ↓State.zeroRegs_waits, implies_true]

theorem State.radPrbsClr_waits : s.radPrbsClr.waits = s.waits := by
  unfold State.radPrbsClr
  simp only [↓State.atRegion_waits, ↓State.setReg_waits, implies_true]

theorem State.twnPrbsClr_waits : s.twnPrbsClr.waits = s.waits := by
  unfold State.twnPrbsClr
  simp only [↓State.atRegion_waits, ↓State.setReg_waits, implies_true]

/-! ### Machine/Crossbar -/

theorem State.retry_waits (r : Nat) (x : Requester) : (s.retry r x).waits = s.waits := by
  unfold State.retry
  split
  · split <;> simp only [↓State.setActive_waits]
  · split <;> simp only [↓State.waits_mk, ↓State.waits_eta]
  · rfl

theorem State.portClash_waits (r bank : Nat) (a b : Requester) :
    (s.portClash r bank a b).waits = s.waits := by
  unfold State.portClash
  simp only [↓State.retry_waits, ↓State.bankCollision_waits]

/-! ### Machine/Ladle -/

theorem State.copyWhole_waits (r l : Nat) (t : Stream) : (s.copyWhole r l t).waits = s.waits := by
  unfold State.copyWhole
  simp only [↓State.hallFaults_waits, ↓State.rangeFaults_waits, ↓State.ladleErr_waits, ↓State.bump_waits,
    ↓State.padEcc_waits, ↓State.renewWords_waits, ↓State.putBytes_waits, ↓State.setHallmark_waits,
    ↓State.voidBuf_waits, ↓State.setLadle_waits, ↓State.foldl_waits, implies_true, ↓State.waits_ite,
    ↓ite_self]

theorem State.copyStaged_waits (r l : Nat) (t : Stream) : (s.copyStaged r l t).waits = s.waits := by
  unfold State.copyStaged
  simp only [↓State.setActive_waits, ↓State.takeElems_waits, ↓State.take_waits, ↓State.giveElems_waits,
    ↓State.give_waits, ↓State.countFlags_waits, ↓State.endWrite_waits, ↓State.setLadle_waits,
    ↓State.waits_ite, ↓ite_self, ↓snd_ite]

theorem State.copyNow_waits (r l : Nat) : (s.copyNow r l).waits = s.waits := by
  unfold State.copyNow
  split <;> simp only [↓State.copyWhole_waits, ↓State.copyStaged_waits, ↓State.waits_ite, ↓ite_self]

theorem State.beginStream_waits (r l : Nat) (t : Stream) (at_ : Nat) :
    (s.beginStream r l t at_).waits = s.waits := by
  unfold State.beginStream
  simp only [↓State.setActive_waits, ↓State.copyNow_waits, ↓State.waits_ite, ↓ite_self]

theorem State.endStream_waits (r l : Nat) : (s.endStream r l).waits = s.waits := by
  unfold State.endStream
  split <;> simp only [↓State.closeDone_waits, ↓State.setActive_waits, ↓State.signalAt_waits,
    ↓State.foldl_waits, implies_true, ↓State.waits_ite, ↓ite_self]

theorem State.promoteShadow_waits (r l at_ : Nat) : (s.promoteShadow r l at_).waits = s.waits := by
  unfold State.promoteShadow
  extract_lets
  split <;> simp only [↓State.beginStream_waits, ↓State.setLadle_waits]

theorem State.plantErrors_waits (r : Nat) (es : List (Nat × Nat)) : (s.plantErrors r es).waits = s.waits := by
  unfold State.plantErrors
  simp only [↓State.markWords_waits]

theorem State.openStage_waits (c : Cmd) (t : Nat) : (s.openStage c t).2.waits = s.waits := by
  unfold State.openStage
  simp only [↓State.openChans_waits, ↓State.closeDone_waits, ↓State.waits_ite, ↓ite_self, ↓snd_ite]

theorem State.waits_arm (c : Cmd) (bank : Option (Nat × Requester)) (spine : Option SpineFault) :
    (s.arm c bank spine).waits = s.waits := by
  unfold State.arm
  extract_lets +onlyGivenNames r l loc stopping
  split
  · exact s.onCtx_waits ..
  extract_lets +onlyGivenNames leave
  split
  next ok s1 e1 =>
  have h1 : s1.waits = s.waits := State.waits_snd e1 (by
    simp only [↓snd_ite, ↓State.waits_ite, ↓State.takeLeave_waits, ↓ite_self])
  split
  · exact h1
  split
  next i s2 e2 =>
  have h2 : s2.waits = s.waits := State.waits_snd e2 ((s1.issue_waits ..).trans h1)
  split
  · exact h2
  extract_lets +onlyGivenNames s3 s4
  have h4 : s4.waits = s.waits := by
    unfold s4; split <;> simp only [s3, ↓State.spineFault_waits, ↓State.plantErrors_waits, h2]
  extract_lets +onlyGivenNames buf s5
  have h5 : s5.waits = s.waits := by
    unfold s5; split <;> simp only [↓State.clearBuf_waits, ↓State.waits_ite, ↓ite_self, h4]
  cases bank <;> simp only [↓State.useLeave_waits, ↓State.track_waits, ↓State.voidBuf_waits,
    ↓State.padEcc_waits, ↓State.openStage_waits, ↓State.promoteShadow_waits, ↓State.endStream_waits,
    ↓State.beginStream_waits, ↓State.setLadle_waits, ↓State.ladleErr_waits, ↓State.raise_waits,
    ↓State.portClash_waits, ↓State.foldl_waits, implies_true, ↓State.waits_ite, ↓ite_self, h5]

theorem State.releaseLadle_waits (r l : Nat) : (s.releaseLadle r l).waits = s.waits := by
  unfold State.releaseLadle
  split <;> simp only [↓State.setActive_waits, ↓State.onCtx_waits, ↓State.foldl_waits, implies_true,
    ↓State.waits_ite, ↓ite_self]

theorem State.absentReply_waits (r l offset n discarded : Nat) :
    (s.absentReply r l offset n discarded).waits = s.waits := by
  unfold State.absentReply
  extract_lets +onlyGivenNames s1
  have h1 : s1.waits = s.waits := s.bump_waits ..
  split <;> simp only [↓State.bump_waits, ↓State.ladleErr_waits, ↓State.voidBuf_waits, ↓State.setActive_waits,
    h1]

/-! ### Machine/Elastic -/

theorem State.setDeficit_waits (r cl : Nat) (d : Int) : (s.setDeficit r cl d).waits = s.waits :=
  State.waits_of (s.setDeficit_pending ..) (s.setDeficit_commit ..)

theorem State.charge_waits (r cl n : Nat) : (s.charge r cl n).waits = s.waits :=
  State.waits_of (s.charge_pending ..) (s.charge_commit ..)

theorem State.refreshCtx_waits (r t k : Nat) : (s.refreshCtx r t k).waits = s.waits := by
  unfold State.refreshCtx
  extract_lets +onlyGivenNames x
  split
  · exact s.onCtx_waits ..
  extract_lets +onlyGivenNames ready
  split <;> simp only [↓State.onCtx_waits, ↓State.waits_ite, ↓ite_self]

theorem State.endMember_waits (r k : Nat) (slice : Bool) : (s.endMember r k slice).waits = s.waits := by
  unfold State.endMember
  extract_lets
  split <;> simp only [↓State.charge_waits, ↓State.onCtx_waits, ↓State.bump_waits, ↓State.waits_ite,
    ↓ite_self, ↓State.waits_mk, ↓State.waits_eta]

theorem State.beginMember_waits (r t k : Nat) : (s.beginMember r t k).waits = s.waits := by
  unfold State.beginMember
  simp only [↓State.onCtx_waits, ↓State.waits_mk, ↓State.waits_eta]

theorem State.fillSet_waits (r t : Nat) (x : Nat) : (s.fillSet r t x).waits = s.waits := by
  induction x generalizing s with
  | zero => rfl
  | succ n ih =>
    unfold State.fillSet
    split <;> simp only [↓State.beginMember_waits, ↓ih]

theorem State.decision_waits (r t : Nat) : (s.decision r t).waits = s.waits := by
  unfold State.decision
  simp only [↓State.settleSignals_waits, ↓State.refreshCtx_waits, ↓State.endMember_waits,
    ↓State.fillSet_waits, ↓State.foldl_waits, implies_true, ↓State.waits_ite, ↓ite_self]

theorem State.dropTiles_waits (r mask : Nat) : (s.dropTiles r mask).waits = s.waits := by
  unfold State.dropTiles
  simp only [↓State.waits_ite, ↓ite_self, ↓State.waits_mk, ↓State.waits_eta]

theorem State.windowStart_waits (r start : Nat) : (s.windowStart r start).waits = s.waits := by
  unfold State.windowStart
  simp only [↓State.reach_waits, ↓State.decision_waits, ↓State.dropTiles_waits, ↓State.waits_ite, ↓ite_self]

theorem State.sliceEnded_waits (r k : Nat) : (s.sliceEnded r k).waits = s.waits := by
  unfold State.sliceEnded
  simp only [↓State.reach_waits, ↓State.decision_waits, ↓State.endMember_waits, ↓State.waits_ite, ↓ite_self]

theorem State.guardReached_waits (r k t : Nat) : (s.guardReached r k t).waits = s.waits := by
  unfold State.guardReached
  simp only [↓State.endMember_waits, ↓State.reach_waits, ↓State.waits_ite, ↓ite_self]

theorem State.moveHalls_waits (r : Nat) (i : CtxImage) (out : Bool) :
    (s.moveHalls r i out).waits = s.waits := by
  unfold State.moveHalls
  simp only [↓State.setHallmark_waits, ↓State.foldl_waits, implies_true, ↓State.waits_ite, ↓ite_self]

theorem State.saveCtx_waits (r k : Nat) : (s.saveCtx r k).waits = s.waits := by
  unfold State.saveCtx
  simp only [↓State.drawFor_waits, ↓State.onCtx_waits, ↓State.moveHalls_waits, ↓State.waits_mk,
    ↓State.waits_eta]

theorem State.loadRow_waits (r a row : Nat) (keep : AccRow) (bs : List Byte) :
    (s.loadRow r a row keep bs).waits = s.waits := by
  unfold State.loadRow
  simp only [↓State.waits_mk, ↓State.waits_eta]

theorem State.loadTile_waits (r p tile : Nat) (keep : List PlnRow) (bs : List Byte) :
    (s.loadTile r p tile keep bs).waits = s.waits := by
  unfold State.loadTile
  simp only [↓State.waits_mk, ↓State.waits_eta]

theorem State.restoreCtx_waits (r k slot : Nat) : (s.restoreCtx r k slot).waits = s.waits := by
  unfold State.restoreCtx
  simp only [↓State.loadRow_waits, ↓State.loadTile_waits, ↓State.onCtx_waits, ↓State.moveHalls_waits,
    ↓State.foldl_waits, implies_true, ↓State.waits_mk, ↓State.waits_eta]

theorem State.setSwap_waits (r : Nat) (x : Option Swapping) : (s.setSwap r x).waits = s.waits :=
  State.waits_of (s.setSwap_pending ..) (s.setSwap_commit ..)

theorem State.startSwap_waits (r t cycles : Nat) (out : Option Nat) (into : Nat) :
    (s.startSwap r t cycles out into).waits = s.waits := by
  unfold State.startSwap
  simp only [↓State.setSwap_waits]

theorem State.trySwap_waits (r t cycles : Nat) : (s.trySwap r t cycles).waits = s.waits := by
  unfold State.trySwap
  split
  · rfl
  extract_lets +onlyGivenNames s1 s2 waiting
  have h2 : s2.waits = s.waits := by
    simp only [s2, s1, ↓State.foldl_waits, implies_true, ↓State.refreshCtx_waits, ↓State.settleSignals_waits]
  split
  · exact h2
  extract_lets +onlyGivenNames rs
  split
  · simp only [↓State.startSwap_waits, ↓State.reach_waits, h2]
  split
  · split <;> simp only [↓State.startSwap_waits, ↓State.reach_waits, h2]
  · exact h2

theorem State.swapComplete_waits (r : Nat) : (s.swapComplete r).waits = s.waits := by
  unfold State.swapComplete
  split
  · rfl
  extract_lets +onlyGivenNames s1 slot s2
  have h2 : s2.waits = s.waits := by
    unfold s2; split <;> simp only [s1, ↓State.saveCtx_waits, ↓State.reach_waits]
  simp only [↓State.restoreCtx_waits, ↓State.setSwap_waits, ↓State.charge_waits, ↓State.bump_waits,
    ↓State.bumpIf_waits, ↓State.decision_waits, h2]

theorem State.cutCommand_waits (e : Running) : (s.cutCommand e).waits = s.waits := by
  unfold State.cutCommand
  simp only [↓State.bump_waits, ↓State.raise_waits, ↓State.voidOuts_waits]

theorem State.cutStream_waits (r l : Nat) : (s.cutStream r l).waits = s.waits := by
  unfold State.cutStream
  split <;> simp only [↓State.bump_waits, ↓State.raise_waits, ↓State.voidBuf_waits, ↓State.setLadle_waits,
    ↓State.waits_ite, ↓ite_self]

theorem State.windowCut_waits (r t : Nat) : (s.windowCut r t).waits = s.waits := by
  unfold State.windowCut
  extract_lets +onlyGivenNames ws
  split
  · rfl
  extract_lets +onlyGivenNames s1 mask hit late s2 s3 s4 s5
  have h5 : s5.waits = s.waits := by
    simp only [s5, s4, s3, s2, s1, ↓State.reach_waits, ↓State.cutCommand_waits, ↓State.cutStream_waits,
      ↓State.endMember_waits, ↓State.onCtx_waits, ↓State.foldl_waits, implies_true, ↓State.waits_ite,
      ↓ite_self, ↓State.waits_mk, ↓State.waits_eta]
  split <;> simp only [↓State.bump_waits, ↓State.raise_waits, ↓State.setSwap_waits, ↓State.waits_ite,
    ↓ite_self, h5]

theorem State.sequenceEntry_waits (r index cycles : Nat) :
    (s.sequenceEntry r index cycles).waits = s.waits := by
  unfold State.sequenceEntry
  extract_lets
  split <;> simp only [↓State.reach_waits, ↓State.raise_waits, ↓State.startSwap_waits, ↓State.onCtx_waits,
    ↓State.waits_ite, ↓ite_self]

/-! ### Machine/Tinker -/

theorem State.setTinker_waits (r t : Nat) (x : Tinker) : (s.setTinker r t x).waits = s.waits :=
  State.waits_of (s.setTinker_pending ..) (s.setTinker_commit ..)

theorem State.tinkerCheck_waits (c : Cmd) (t : Nat) : (s.tinkerCheck c t).waits = s.waits := by
  unfold State.tinkerCheck
  split <;> simp only [↓State.laters_waits]

theorem State.tinkerRun_waits (c : Cmd) (always : Bool) (need dur : Nat)
    {effect : Nat → State → List Byte → List Byte × State} (h : ∀ n s b, (effect n s b).2.waits = s.waits) :
    (s.tinkerRun c always need dur effect).waits = s.waits := by
  unfold State.tinkerRun
  simp only [↓State.issue_waits, ↓State.voidOuts_waits, ↓State.setTinker_waits, ↓State.track_waits,
    ↓State.take_waits, ↓State.later_waits, ↓State.tinkerCheck_waits, ↓State.eccReads_waits,
    ↓State.waitBreach_waits, ↓State.give_waits, ↓State.endWrite_waits, ↓State.waits_ite, ↓ite_self,
    ↓snd_ite, ↓h]

theorem State.tinkerDesc_waits (c : Cmd) : (s.tinkerDesc c).waits = s.waits := by
  unfold State.tinkerDesc
  simp only [↓State.tinkerRun_waits, implies_true]

theorem State.tinkerLookup_waits (c : Cmd) : (s.tinkerLookup c).waits = s.waits := by
  unfold State.tinkerLookup
  simp only [↓State.tinkerRun_waits, ↓State.later_waits, implies_true]

theorem State.tinkerSort_waits (c : Cmd) : (s.tinkerSort c).waits = s.waits := by
  unfold State.tinkerSort
  simp only [↓State.tinkerRun_waits, implies_true]

theorem State.tinkerSelect_waits (c : Cmd) : (s.tinkerSelect c).waits = s.waits := by
  unfold State.tinkerSelect
  simp only [↓State.tinkerRun_waits, implies_true]

theorem State.tinkerPack_waits (c : Cmd) : (s.tinkerPack c).waits = s.waits := by
  unfold State.tinkerPack
  simp only [↓State.tinkerRun_waits, implies_true, ↓ite_self, ↓snd_ite]

theorem State.tinkerCrc_waits (c : Cmd) : (s.tinkerCrc c).waits = s.waits := by
  unfold State.tinkerCrc
  simp only [↓State.tinkerRun_waits, implies_true]

theorem State.tinkerScramble_waits (c : Cmd) : (s.tinkerScramble c).waits = s.waits := by
  unfold State.tinkerScramble
  simp only [↓State.tinkerRun_waits, implies_true]

theorem State.seekBlock_waits (p : Port) (k : Nat) : (s.seekBlock p k).waits = s.waits := by
  unfold State.seekBlock
  split <;> simp only [↓State.setLadle_waits, ↓State.waits_ite, ↓ite_self]

theorem State.closeBatch_waits (c : Cmd) : (s.closeBatch c).waits = s.waits := by
  unfold State.closeBatch
  simp only [↓State.seekBlock_waits, ↓State.give_waits, ↓State.setTinker_waits]

theorem State.appendBatch_waits (c : Cmd) (at_ : Nat) (v : List Byte) :
    (s.appendBatch c at_ v).waits = s.waits := by
  unfold State.appendBatch
  simp only [↓State.setTinker_waits, ↓State.closeBatch_waits, ↓State.later_waits, ↓State.waits_ite, ↓ite_self]

theorem State.tinkerBatch_waits (c : Cmd) : (s.tinkerBatch c).waits = s.waits := by
  unfold State.tinkerBatch
  simp only [↓State.tinkerRun_waits, ↓State.appendBatch_waits, ↓State.closeBatch_waits, ↓State.later_waits,
    ↓State.foldl_waits, implies_true, ↓State.waits_ite, ↓ite_self]

theorem State.tinkerFill_waits (c : Cmd) : (s.tinkerFill c).waits = s.waits := by
  unfold State.tinkerFill
  simp only [↓State.tinkerRun_waits, ↓State.later_waits, ↓State.drawFor_waits, ↓State.bumpIf_waits,
    implies_true, ↓State.waits_ite, ↓ite_self]

/-! ### Machine/Transfer -/

theorem State.readPad_waits (u : Unit_) (r a n : Nat) : (s.readPad u r a n).2.waits = s.waits := by
  unfold State.readPad
  simp only [↓State.blockRaise_waits, ↓State.bump_waits, ↓State.padEcc_waits, ↓State.foldl_waits,
    implies_true]

theorem State.writePad_waits (r a : Nat) (bs : List Byte) (ok : Bool) :
    (s.writePad r a bs ok).waits = s.waits := by
  unfold State.writePad
  simp only [↓State.bump_waits, ↓State.renewWords_waits, ↓State.putBytes_waits, ↓State.remark_waits,
    ↓State.fillGranule_waits, ↓State.foldl_waits, implies_true, ↓State.waits_ite, ↓ite_self]

theorem State.putBeside_waits (r buf : Nat) (x : Beside) : (s.putBeside r buf x).waits = s.waits := by
  unfold State.putBeside
  simp only [↓State.waits_mk, ↓State.waits_eta]

/-! ### Machine/Code -/

theorem State.freshBits_waits (elastic : Bool) (n : Nat) : (s.freshBits elastic n).2.waits = s.waits := by
  unfold State.freshBits
  simp only [↓State.drawFor_waits]

theorem State.readRecord_waits (u : Unit_) (w : Word) : (s.readRecord u w).2.2.waits = s.waits := by
  unfold State.readRecord
  simp only [↓State.readPad_waits]

theorem State.softWrite_waits (r : CodeRec) (i : Nat) (xs : List Int) :
    (s.softWrite r i xs).waits = s.waits := by
  unfold State.softWrite
  simp only [↓State.remark_waits, ↓State.foldl_waits, implies_true, ↓State.waits_mk, ↓State.waits_eta]

theorem State.codeEnd_waits (c : Cmd) (i : Issue) (finish : Nat) (void : Bool) (cause : Nat) :
    (s.codeEnd c i finish void cause).waits = s.waits := by
  unfold State.codeEnd
  simp only [↓State.voidOuts_waits, ↓State.signalAt_waits, ↓State.track_waits, ↓State.foldl_waits,
    implies_true, ↓State.waits_ite, ↓ite_self]

theorem State.codeRun_waits (c : Cmd) (heavy : Bool)
    {effect : State → Issue → CodeRec → Bool → Option (List Byte) × Option Nat × State}
    (h : ∀ s i r v, (effect s i r v).2.2.waits = s.waits) :
    (s.codeRun c heavy effect).waits = s.waits := by
  unfold State.codeRun
  extract_lets +onlyGivenNames u
  split
  next ok s1 e1 =>
  have h1 : s1.waits = s.waits := State.waits_snd e1 (by
    simp only [↓snd_ite, ↓State.waits_ite, ↓State.takeLeave_waits, ↓ite_self])
  split
  · exact h1
  split
  next i s2 e2 =>
  have h2 : s2.waits = s.waits := State.waits_snd e2 ((s1.issue_waits ..).trans h1)
  split
  · exact h2
  extract_lets +onlyGivenNames vin s3
  have h3 : s3.waits = s.waits := by
    unfold s3; split <;> simp only [↓State.clearBuf_waits, h2]
  clear_value s3
  split
  next ws k s4 e4 =>
  have h4 : s4.waits = s.waits := by
    have h := s3.readRecord_waits u c.w.w3
    rw [e4] at h
    exact h.trans h3
  extract_lets +onlyGivenNames r finish s5 matched
  have h5 : s5.waits = s.waits := by
    simp only [s5, ↓State.waits_ite, ↓State.useLeave_waits, ↓ite_self, h4]
  clear_value s5
  split
  · exact (s5.codeEnd_waits ..).trans h5
  split
  · simp only [↓State.codeEnd_waits, ↓State.blockRaise_waits, ↓State.later_waits, h5]
  split
  next out bad s6 e6 =>
  have h6 : s6.waits = s.waits := by
    have h := h s5 i r vin
    rw [e6] at h
    exact h.trans h5
  cases out <;> simp only [↓State.codeEnd_waits, ↓State.writePad_waits, ↓State.eccReads_waits, h6]

theorem State.codeInput_waits (c : Cmd) (n : Nat) : (s.codeInput c n).2.waits = s.waits := by
  unfold State.codeInput
  simp only [↓State.readPad_waits]

theorem State.ldec_waits (c : Cmd) : (s.ldec c).waits = s.waits := by
  unfold State.ldec
  simp only [↓State.codeRun_waits, ↓State.codeInput_waits, ↓State.later_waits, ↓State.bump_waits,
    ↓State.softWrite_waits, ↓State.laters_waits, ↓State.foldl_waits, implies_true, ↓State.waits_ite,
    ↓ite_self, ↓snd_ite, ↓State.waits_mk, ↓State.waits_eta]

theorem State.lenc_waits (c : Cmd) : (s.lenc c).waits = s.waits := by
  unfold State.lenc
  simp only [↓State.codeRun_waits, ↓State.codeInput_waits, implies_true]

theorem State.pdec_waits (c : Cmd) : (s.pdec c).waits = s.waits := by
  unfold State.pdec
  simp only [↓State.codeRun_waits, ↓State.codeInput_waits, implies_true]

theorem State.penc_waits (c : Cmd) : (s.penc c).waits = s.waits := by
  unfold State.penc
  simp only [↓State.codeRun_waits, ↓State.codeInput_waits, implies_true]

theorem State.tbseg_waits (c : Cmd) : (s.tbseg c).waits = s.waits := by
  unfold State.tbseg
  simp only [↓State.codeRun_waits, ↓State.codeInput_waits, ↓State.freshBits_waits, implies_true]

theorem State.tbchk_waits (c : Cmd) : (s.tbchk c).waits = s.waits := by
  unfold State.tbchk
  simp only [↓State.codeRun_waits, ↓State.codeInput_waits, ↓State.later_waits, ↓State.freshBits_waits,
    implies_true]

theorem State.request_waits (c : Cmd) (ws : List Word) (bad : Bool) :
    (s.request c ws bad).waits = s.waits := by
  unfold State.request
  simp only [↓State.bump_waits, ↓State.voidBuf_waits, ↓State.waits_ite, ↓ite_self, ↓State.waits_mk,
    ↓State.waits_eta]

theorem State.tinkerReenc_waits (c : Cmd) : (s.tinkerReenc c).waits = s.waits := by
  unfold State.tinkerReenc
  simp only [↓State.tinkerRun_waits, ↓State.readPad_waits, ↓State.request_waits, implies_true]

theorem State.reEncoding_waits (unit cycle : Nat) : (s.reEncoding unit cycle).waits = s.waits := by
  unfold State.reEncoding
  extract_lets +onlyGivenNames s1
  have h1 : s1.waits = s.waits := s.reach_waits ..
  split <;> simp only [↓State.clearBuf_waits, ↓State.readPad_waits, ↓State.freshBits_waits,
    ↓State.writePad_waits, ↓State.voidBuf_waits, ↓State.signalAt_waits, ↓State.waits_ite, ↓ite_self,
    ↓snd_ite, ↓State.waits_mk, ↓State.waits_eta, h1]

/-! ### Machine/Switch -/

theorem State.imageRegion_waits (r : Nat) : (s.imageRegion r).waits = s.waits := by
  unfold State.imageRegion
  simp only [↓State.waits_mk, ↓State.waits_eta]

theorem State.setDomains_waits (r : Nat) (on : Bool) : (s.setDomains r on).waits = s.waits := by
  unfold State.setDomains
  simp only [↓State.setBit_waits, ↓State.foldl_waits, implies_true, ↓State.waits_ite, ↓ite_self]

theorem State.showPeriod_waits : s.showPeriod.waits = s.waits := by
  unfold State.showPeriod
  simp only [↓State.setFld_waits]

theorem State.showPlan_waits (f : Nat) : (s.showPlan f).waits = s.waits := by
  unfold State.showPlan
  simp only [↓State.setFld_waits, ↓State.showPeriod_waits]

theorem State.setVariant_waits (v : Nat) : (s.setVariant v).waits = s.waits := by
  unfold State.setVariant
  extract_lets +onlyGivenNames p s1
  have h1 : s1.waits = s.waits := by
    simp only [s1, ↓State.showPeriod_waits, ↓State.setFld_waits]
  split <;> simp only [↓State.setFld_waits, h1]

/-! ### Machine/Slicer -/

theorem State.setSlicer_waits (r : Nat) (x : Slicer) : (s.setSlicer r x).waits = s.waits :=
  State.waits_of (s.setSlicer_pending ..) (s.setSlicer_commit ..)

theorem State.slicerFreeze_waits (i : Issue) (c : Cmd) (fs : Freezes) :
    (s.slicerFreeze i c fs).waits = s.waits := by
  unfold State.slicerFreeze
  simp only [↓State.later_waits, ↓State.freezeBreaches_waits, ↓State.foldl_waits, implies_true]

theorem State.slicerVload_waits (c : Cmd) : (s.slicerVload c).waits = s.waits := by
  unfold State.slicerVload
  simp only [↓State.issue_waits, ↓State.setSlicer_waits, ↓State.track_waits, ↓State.takeElems_waits,
    ↓State.slicerFreeze_waits, ↓State.waits_ite, ↓ite_self]

theorem State.slicerZero_waits (r t : Nat) (z : Option (Nat × Nat × Nat)) :
    (s.slicerZero r t z).waits = s.waits := by
  cases z with
  | none => rfl
  | some z => exact s.laters_waits ..

theorem State.freeExps_waits (elastic : Bool) (f : Fmt) (count : Nat) :
    (s.freeExps elastic f count).2.waits = s.waits := by
  unfold State.freeExps
  simp only [↓State.drawFor_waits, ↓State.waits_ite, ↓ite_self, ↓snd_ite]

theorem State.slicerSweep_waits (c : Cmd) : (s.slicerSweep c).waits = s.waits := by
  unfold State.slicerSweep
  simp only [↓State.takeLeave_waits, ↓State.issue_waits, ↓State.bump_waits, ↓State.blockRaise_waits,
    ↓State.freeExps_waits, ↓State.slicerFreeze_waits, ↓State.slicerZero_waits, ↓State.eccReads_waits,
    ↓State.setReg_waits, ↓State.setSlicer_waits, ↓State.useLeave_waits, ↓State.track_waits,
    ↓State.foldl_waits, implies_true, ↓State.waits_ite, ↓ite_self]

theorem State.giveRaw_waits (p : Port) (es : List (BitVec 128)) (value : BitVec 128 → FVal) :
    (s.giveRaw p es value).waits = s.waits := by
  unfold State.giveRaw
  split <;> simp only [↓State.giveStaged_waits, ↓State.give_waits, ↓State.waits_ite, ↓ite_self]

theorem State.slicerSout_waits (c : Cmd) : (s.slicerSout c).waits = s.waits := by
  unfold State.slicerSout
  simp only [↓State.issue_waits, ↓State.voidOuts_waits, ↓State.setSlicer_waits, ↓State.track_waits,
    ↓State.laters_waits, ↓State.later_waits, ↓State.eccReads_waits, ↓State.slicerFreeze_waits,
    ↓State.giveRaw_waits, ↓State.giveFlags_waits, ↓State.endWrite_waits, ↓State.foldl_waits, implies_true,
    ↓State.waits_ite, ↓ite_self]

/-! ### Machine/Gradient -/

theorem State.setSwage_waits (r : Nat) (x : Swage) : (s.setSwage r x).waits = s.waits :=
  State.waits_of (s.setSwage_pending ..) (s.setSwage_commit ..)

theorem State.swageEmit_waits (r buf : Nat) : (s.swageEmit r buf).waits = s.waits := by
  unfold State.swageEmit
  simp only [↓State.reach_waits, ↓State.laters_waits, ↓State.eccLater_waits, ↓State.setReg_waits,
    ↓State.giveElems_waits, ↓State.giveFlags_waits, ↓State.later_waits, ↓State.endWrite_waits,
    ↓State.setSwage_waits, ↓State.foldl_waits, implies_true, ↓State.waits_ite, ↓ite_self]

theorem State.takeTiles_waits (p : Port) (n : Nat) : (s.takeTiles p n).2.2.waits = s.waits := by
  unfold State.takeTiles
  split <;> simp only [↓State.onStream_waits, ↓State.take_waits]

theorem State.swageTranspose_waits (c : Cmd) : (s.swageTranspose c).waits = s.waits := by
  unfold State.swageTranspose
  simp only [↓State.issue_waits, ↓State.swageEmit_waits, ↓State.voidOuts_waits, ↓State.track_waits,
    ↓State.takeTiles_waits, ↓State.take_waits, ↓State.takenBy_waits, ↓State.later_waits,
    ↓State.waitBreach_waits, ↓State.setSwage_waits, ↓State.waits_ite, ↓ite_self]

theorem State.setCrucible_waits (r : Nat) (x : Crucible) : (s.setCrucible r x).waits = s.waits :=
  State.waits_of (s.setCrucible_pending ..) (s.setCrucible_commit ..)

theorem State.crucibleErrors_waits (c : Cmd) (t : Nat) : (s.crucibleErrors c t).2.waits = s.waits := by
  unfold State.crucibleErrors
  simp only [↓State.eccCells_waits]

theorem State.crucibleRefuse_waits (c : Cmd) (i : Issue) (outs : List (Nat × Nat)) :
    (s.crucibleRefuse c i outs).waits = s.waits := by
  unfold State.crucibleRefuse
  simp only [↓State.blockRaise_waits, ↓State.voidOuts_waits, ↓State.setCrucible_waits, ↓State.track_waits]

theorem State.crucibleOpen_waits (c : Cmd) : (s.crucibleOpen c).waits = s.waits := by
  unfold State.crucibleOpen
  simp only [↓State.issue_waits, ↓State.crucibleRefuse_waits, ↓State.track_waits, ↓State.setCrucible_waits,
    ↓State.waits_ite, ↓ite_self]

theorem State.takeBlocks_waits (p : Port) : (s.takeBlocks p).2.2.waits = s.waits := by
  unfold State.takeBlocks
  simp only [↓State.take_waits]

theorem State.padShifts_waits (n : Nat) (xs : List Int) : (s.padShifts n xs).2.waits = s.waits := by
  unfold State.padShifts
  simp only [↓State.drawFor_waits]

theorem State.crucibleAccum_waits (c : Cmd) : (s.crucibleAccum c).waits = s.waits := by
  unfold State.crucibleAccum
  simp only [↓State.issue_waits, ↓State.crucibleRefuse_waits, ↓State.setCrucible_waits, ↓State.track_waits,
    ↓State.takeBlocks_waits, ↓State.scaleSkew_waits, ↓State.breach_waits, ↓State.padShifts_waits,
    ↓State.take_waits, ↓State.takenBy_waits, ↓State.waitBreach_waits, ↓State.crucibleErrors_waits,
    ↓State.laters_waits, ↓State.later_waits, ↓State.waits_ite, ↓ite_self, ↓snd_ite]

theorem State.crucibleFlush_waits (c : Cmd) : (s.crucibleFlush c).waits = s.waits := by
  unfold State.crucibleFlush
  simp only [↓State.issue_waits, ↓State.crucibleRefuse_waits, ↓State.later_waits, ↓State.crucibleErrors_waits,
    ↓State.waitBreach_waits, ↓State.giveElems_waits, ↓State.giveRaw_waits, ↓State.giveFlags_waits,
    ↓State.endWrite_waits, ↓State.setCrucible_waits, ↓State.track_waits, ↓State.waits_ite, ↓ite_self]

/-! ### Machine/Planisher -/

theorem State.setPlanisher_waits (r p : Nat) (x : Planisher) : (s.setPlanisher r p x).waits = s.waits :=
  State.waits_of (s.setPlanisher_pending ..) (s.setPlanisher_commit ..)

theorem State.planIssue_waits (c : Cmd) (arith : Bool) (reads writes : List Nat) :
    (s.planIssue c arith reads writes).2.waits = s.waits := by
  unfold State.planIssue
  simp only [↓State.issue_waits]

theorem State.witness_waits (c : Cmd) (t : Nat) : (s.witness c t).2.waits = s.waits := by
  unfold State.witness
  split <;> simp only [↓State.laters_waits]

theorem State.planZero_waits (c : Cmd) (tile t : Nat) (z : Option (Nat × Nat)) :
    (s.planZero c tile t z).waits = s.waits := by
  cases z with
  | none => rfl
  | some z => exact s.later_waits ..

theorem State.planFlags_waits (c : Cmd) (t : Nat) (fs : List (Nat × FlagWord)) :
    (s.planFlags c t fs).waits = s.waits := by
  unfold State.planFlags
  simp only [↓State.laters_waits]

theorem State.planCycles_waits (c : Cmd) (strict : Bool) (t n : Nat) :
    (s.planCycles c strict t n).waits = s.waits := by
  unfold State.planCycles
  simp only [↓State.laters_waits, ↓State.later_waits, ↓State.waits_ite, ↓ite_self]

theorem State.planTload_waits (c : Cmd) : (s.planTload c).waits = s.waits := by
  unfold State.planTload
  simp only [↓State.planIssue_waits, ↓State.track_waits, ↓State.takeElems_waits, ↓State.takenBy_waits,
    ↓State.scaleSkew_waits, ↓State.shadowFault_waits, ↓State.freezeBreaches_waits, ↓State.setPlanisher_waits,
    ↓State.planFlags_waits, ↓State.later_waits, ↓State.waits_ite, ↓ite_self]

theorem State.planTstore_waits (c : Cmd) : (s.planTstore c).waits = s.waits := by
  unfold State.planTstore
  simp only [↓State.planIssue_waits, ↓State.voidOuts_waits, ↓State.track_waits, ↓State.openChans_waits,
    ↓State.freezeBreaches_waits, ↓State.shadowFault_waits, ↓State.eccReads_waits, ↓State.giveElems_waits,
    ↓State.closeChans_waits, ↓State.giveFlags_waits, ↓State.planFlags_waits, ↓State.later_waits,
    ↓State.endWrite_waits, ↓State.setPlanisher_waits, ↓State.waits_ite, ↓ite_self, ↓snd_ite]

theorem State.planEwise_waits (c : Cmd) : (s.planEwise c).waits = s.waits := by
  unfold State.planEwise
  simp only [↓State.planIssue_waits, ↓State.track_waits, ↓State.witness_waits, ↓State.eccReads_waits,
    ↓State.setPlanisher_waits, ↓State.planFlags_waits, ↓State.planZero_waits, ↓State.planCycles_waits,
    ↓State.waits_ite, ↓ite_self]

theorem State.planReduce_waits (c : Cmd) : (s.planReduce c).waits = s.waits := by
  unfold State.planReduce
  simp only [↓State.planIssue_waits, ↓State.track_waits, ↓State.setPlanisher_waits, ↓State.witness_waits,
    ↓State.eccReads_waits, ↓State.planFlags_waits, ↓State.planZero_waits, ↓State.planCycles_waits,
    ↓State.waits_ite, ↓ite_self]

/-! ### Machine/Weights -/

theorem State.setStandby_waits (v : Nat) : (s.setStandby v).waits = s.waits :=
  State.waits_of (s.setStandby_pending ..) (s.setStandby_commit ..)

theorem State.hbmPut_waits (a : Nat) (bs : List Byte) : (s.hbmPut a bs).waits = s.waits := by
  unfold State.hbmPut
  simp only [↓State.remark_waits, ↓State.foldl_waits, implies_true, ↓State.waits_mk, ↓State.waits_eta]

theorem State.fillStandby_waits (src : Nat) : (s.fillStandby src).waits = s.waits := by
  unfold State.fillStandby
  simp only [↓State.hbmPut_waits]

theorem State.abortStale_waits : s.abortStale.waits = s.waits := by
  unfold State.abortStale
  simp only [↓State.bump_waits, ↓State.abortWhere_waits]

theorem State.closeTensors_waits : s.closeTensors.waits = s.waits := by
  unfold State.closeTensors
  simp only [↓State.setCrucible_waits, ↓State.foldl_waits, implies_true]

theorem State.abortTraining_waits : s.abortTraining.waits = s.waits := by
  unfold State.abortTraining
  simp only [↓State.closeTensors_waits, ↓State.waits_mk, ↓State.waits_eta]

theorem State.promote_waits : s.promote.waits = s.waits := by
  unfold State.promote
  simp only [↓State.setReg_waits, ↓State.abortTraining_waits, ↓State.abortStale_waits, ↓State.bump_waits,
    ↓State.waits_ite, ↓ite_self]

theorem State.revert_waits : s.revert.waits = s.waits := by
  unfold State.revert
  simp only [↓State.abortWhere_waits, ↓State.abortTraining_waits, ↓State.setStandby_waits]

theorem State.promoteRow_waits : s.promoteRow.waits = s.waits := by
  unfold State.promoteRow
  simp only [↓State.setBit_waits, ↓State.promote_waits, ↓State.waits_ite, ↓ite_self]

theorem State.revertRow_waits : s.revertRow.waits = s.waits := by
  unfold State.revertRow
  simp only [↓State.revert_waits, ↓State.setBit_waits, ↓State.waits_ite, ↓ite_self]

theorem State.revertCopied_waits : s.revertCopied.waits = s.waits := by
  unfold State.revertCopied
  simp only [↓State.setStandby_waits, ↓State.fillStandby_waits, ↓State.waits_ite, ↓ite_self, ↓State.waits_mk,
    ↓State.waits_eta]

theorem State.seeded_waits : s.seeded.waits = s.waits := by
  unfold State.seeded
  simp only [↓State.setStandby_waits, ↓State.fillStandby_waits, ↓State.waits_ite, ↓ite_self, ↓State.waits_mk,
    ↓State.waits_eta]

theorem State.updateTensor_waits (n : Nat) (t : WeightTensor) : (s.updateTensor n t).waits = s.waits := by
  unfold State.updateTensor
  simp only [↓State.hbmPut_waits, ↓State.bump_waits, ↓State.waits_ite, ↓ite_self]

theorem State.trainingStep_waits : s.trainingStep.waits = s.waits := by
  unfold State.trainingStep
  simp only [↓State.updateTensor_waits, ↓State.closeTensors_waits, ↓State.foldl_waits, implies_true,
    ↓State.waits_ite, ↓ite_self, ↓State.waits_mk, ↓State.waits_eta]

theorem State.tasterEpoch_waits : s.tasterEpoch.waits = s.waits := by
  unfold State.tasterEpoch
  simp only [↓State.setStandby_waits, ↓State.waits_ite, ↓ite_self, ↓State.waits_mk, ↓State.waits_eta]

theorem State.tasterDecision_waits (n eAct eCand eCls voids : Nat) :
    (s.tasterDecision n eAct eCand eCls voids).waits = s.waits := by
  unfold State.tasterDecision
  split <;> simp only [↓State.setReg_waits, ↓State.bump_waits, ↓State.raiseIf_waits, ↓State.revert_waits,
    ↓State.setStandby_waits, ↓State.waits_ite, ↓ite_self, ↓State.waits_mk, ↓State.waits_eta]

theorem State.historyReset_waits (region unit chan : Nat) :
    (s.historyReset region unit chan).waits = s.waits := by
  unfold State.historyReset
  simp only [↓State.setBit_waits, ↓State.setChan_waits, ↓State.waits_ite, ↓ite_self]

/-! ### Machine/Twin -/

theorem State.notify_waits (k : Notice) (slot : Nat) : (s.notify k slot).waits = s.waits :=
  State.waits_of (s.notify_pending ..) (s.notify_commit ..)

theorem State.stopPlane_waits : s.stopPlane.waits = s.waits := by
  unfold State.stopPlane
  simp only [↓State.waits_mk, ↓State.waits_eta]

theorem State.issueSwitu_waits (c : Cmd) : (s.issueSwitu c).2.waits = s.waits := by
  unfold State.issueSwitu
  simp only [↓State.issue_waits, ↓State.waits_ite, ↓ite_self, ↓snd_ite]

theorem State.send_waits (c : Cmd) : (s.send c).waits = s.waits := by
  unfold State.send
  simp only [↓State.issueSwitu_waits, ↓State.track_waits, ↓State.bump_waits, ↓State.eccReads_waits,
    ↓State.blockRaise_waits, ↓State.voidBuf_waits, ↓State.breachAt_waits, ↓State.foldl_waits, implies_true,
    ↓State.waits_ite, ↓ite_self, ↓State.waits_mk, ↓State.waits_eta]

theorem State.putGranule_waits (g : Nat × Nat) (bs : List Byte) (h : Word) :
    (s.putGranule g bs h).waits = s.waits := by
  unfold State.putGranule
  simp only [↓State.setHallmark_waits, ↓State.waits_ite, ↓ite_self, ↓State.waits_mk, ↓State.waits_eta]

theorem State.recv_waits (c : Cmd) : (s.recv c).waits = s.waits := by
  unfold State.recv
  split
  next i s1 e1 =>
  have h1 : s1.waits = s.waits := State.waits_snd e1 (s.issueSwitu_waits c)
  split
  · exact h1
  extract_lets +onlyGivenNames n r buf outs finish gs joining tag missing bad void _ s2 s3 s4 s5
  have h4 : s4.waits = s.waits := by
    simp only [s4, s3, s2, ↓State.raise_waits, ↓State.bump_waits, ↓State.blockRaise_waits, ↓State.foldl_waits,
      implies_true, ↓State.waits_ite, ↓ite_self, ↓State.waits_mk, ↓State.waits_eta, h1]
  have h5 : s5.waits = s.waits := by
    refine (State.foldl_waits _ (fun s e => ?_) _).trans h4
    extract_lets +onlyGivenNames p
    split
    · split <;> exact s.putGranule_waits ..
    · rfl
  simp only [↓State.bump_waits, ↓State.voidOuts_waits, ↓State.signalAt_waits, ↓State.track_waits,
    ↓State.foldl_waits, implies_true, ↓State.waits_ite, ↓ite_self, ↓State.waits_mk, ↓State.waits_eta, h5]

theorem State.partnerLost_waits (row : Nat) : (s.partnerLost row).waits = s.waits := by
  unfold State.partnerLost
  split
  · split <;> simp only [↓State.waits_ite, ↓ite_self, ↓State.waits_mk, ↓State.waits_eta]
  · simp only [↓State.waits_ite, ↓ite_self, ↓State.waits_mk, ↓State.waits_eta]

theorem State.superframe_waits (t : Nat) (m : Marker) (gs : List Granule) :
    (s.superframe t m gs).waits = s.waits := by
  unfold State.superframe
  simp only [↓State.reach_waits, ↓State.setFld_waits, ↓State.partnerLost_waits, ↓State.waits_ite, ↓ite_self,
    ↓State.waits_mk, ↓State.waits_eta]

theorem State.switDown_waits (lanes : Nat) : (s.switDown lanes).waits = s.waits := by
  unfold State.switDown
  simp only [↓State.setBit_waits, ↓State.bump_waits, ↓State.raiseIf_waits, ↓State.partnerLost_waits,
    ↓State.waits_ite, ↓ite_self]

theorem State.twinPeerFall_waits (byMarker : Bool) : (s.twinPeerFall byMarker).waits = s.waits := by
  unfold State.twinPeerFall
  simp only [↓State.setBit_waits, ↓State.partnerLost_waits, ↓State.waits_ite, ↓ite_self, ↓State.waits_mk,
    ↓State.waits_eta]

theorem State.formDigest_waits : s.formDigest.waits = s.waits := by
  unfold State.formDigest
  simp only [↓State.waits_ite, ↓ite_self, ↓State.waits_mk, ↓State.waits_eta]

theorem State.digestSend_waits : s.digestSend.waits = s.waits := by
  unfold State.digestSend
  split <;> simp only [↓State.setReg_waits, ↓State.waits_ite, ↓ite_self]

theorem State.digestArrived_waits (d : SlotDigest) : (s.digestArrived d).waits = s.waits := by
  unfold State.digestArrived
  simp only [↓State.setReg_waits, ↓State.waits_ite, ↓ite_self, ↓State.waits_mk, ↓State.waits_eta]

theorem State.suspectSlot_waits : s.suspectSlot.waits = s.waits := by
  unfold State.suspectSlot
  simp only [↓State.suspectEntry_waits, ↓State.foldl_waits, implies_true]

theorem State.digestCompare_waits : s.digestCompare.waits = s.waits := by
  unfold State.digestCompare
  split
  · rfl
  extract_lets +onlyGivenNames n
  split <;> simp only [↓State.setReg_waits, ↓State.setBit_waits, ↓State.bump_waits, ↓State.raise_waits,
    ↓State.suspectSlot_waits, ↓State.waits_ite, ↓ite_self, ↓State.waits_mk, ↓State.waits_eta]

theorem State.hello_waits (h : Hello) : (s.hello h).waits = s.waits := by
  unfold State.hello
  simp only [↓State.raise_waits, ↓State.setTwinState_waits, ↓State.setBit_waits, ↓State.notify_waits,
    ↓State.setLive_waits, ↓State.waits_ite, ↓ite_self, ↓State.waits_mk, ↓State.waits_eta]

theorem State.transferNotice_waits (e : Nat) : (s.transferNotice e).waits = s.waits := by
  unfold State.transferNotice
  simp only [↓State.waits_ite, ↓ite_self, ↓State.waits_mk, ↓State.waits_eta]

theorem State.bulkComplete_waits : s.bulkComplete.waits = s.waits := by
  unfold State.bulkComplete
  simp only [↓State.notify_waits, ↓State.waits_ite, ↓ite_self, ↓State.waits_mk, ↓State.waits_eta]

theorem State.joinNotice_waits (j : Nat) : (s.joinNotice j).waits = s.waits := by
  unfold State.joinNotice
  simp only [↓State.waits_ite, ↓ite_self, ↓State.waits_mk, ↓State.waits_eta]

theorem State.takeTransferred_waits (x : Transferred) : (s.takeTransferred x).waits = s.waits := by
  unfold State.takeTransferred
  simp only [↓State.waits_mk, ↓State.waits_eta]

theorem State.swapNotice_waits (n : Nat) : (s.swapNotice n).waits = s.waits := by
  unfold State.swapNotice
  simp only [↓State.waits_ite, ↓ite_self, ↓State.waits_mk, ↓State.waits_eta]

theorem State.detachNotice_waits (n : Nat) : (s.detachNotice n).waits = s.waits := by
  unfold State.detachNotice
  simp only [↓State.waits_ite, ↓ite_self, ↓State.waits_mk, ↓State.waits_eta]

theorem State.attach_waits : s.attach.waits = s.waits := by
  unfold State.attach
  simp only [↓State.setBit_waits, ↓State.setTwinState_waits, ↓State.waits_ite, ↓ite_self, ↓State.waits_mk,
    ↓State.waits_eta]

theorem State.detach_waits : s.detach.waits = s.waits := by
  unfold State.detach
  simp only [↓State.setBit_waits, ↓State.notify_waits, ↓State.waits_ite, ↓ite_self, ↓State.waits_mk,
    ↓State.waits_eta]

theorem State.depart_waits : s.depart.waits = s.waits := by
  unfold State.depart
  split <;> simp only [↓State.stopPlane_waits, ↓State.setTwinState_waits, ↓State.waits_ite, ↓ite_self,
    ↓State.waits_mk, ↓State.waits_eta]

/-! ### Machine/Power -/

theorem State.setPowerState_waits (v : Nat) : (s.setPowerState v).waits = s.waits :=
  State.waits_of (s.setPowerState_pending ..) (s.setPowerState_commit ..)

theorem State.takeRequest_waits (k : Nat) {f : State → State} (h : ∀ s : State, (f s).waits = s.waits) :
    (s.takeRequest k f).waits = s.waits := by
  unfold State.takeRequest
  split
  exacts [h _, rfl]

theorem State.grantWaiting_waits (r t : Nat) (x : List LeaveReq) :
    (s.grantWaiting r t x).waits = s.waits := by
  induction x generalizing s with
  | nil => exact s.setWaits_waits ..
  | cons w ws ih =>
    unfold State.grantWaiting
    simp only [↓State.setGrants_waits, ↓State.setWaits_waits, ↓State.bump_waits, ↓State.onCtx_waits,
      ↓State.waits_ite, ↓ite_self, ↓ih]

theorem State.leaveGrant_waits (r t : Nat) : (s.leaveGrant r t).waits = s.waits := by
  unfold State.leaveGrant
  simp only [↓State.reach_waits, ↓State.grantWaiting_waits, ↓State.waits_ite, ↓ite_self]

theorem State.setTemp_waits (sensor temp : Nat) (warn : Bool) :
    (s.setTemp sensor temp warn).waits = s.waits := by
  unfold State.setTemp
  simp only [↓State.setReg_waits]

theorem State.overTemp_waits (sensor temp : Nat) : (s.overTemp sensor temp).waits = s.waits := by
  unfold State.overTemp
  simp only [↓State.raise_waits, ↓State.setTemp_waits]

theorem State.thermalTrip_waits (sensor temp : Nat) : (s.thermalTrip sensor temp).waits = s.waits := by
  unfold State.thermalTrip
  simp only [↓State.setTemp_waits, ↓State.raise_waits, ↓State.waits_mk, ↓State.waits_eta]

theorem State.tempFallen_waits (sensor temp : Nat) : (s.tempFallen sensor temp).waits = s.waits := by
  unfold State.tempFallen
  simp only [↓State.setTemp_waits, ↓State.leaveGrant_waits, ↓State.foldl_waits, implies_true]

theorem State.pllLost_waits (d : Nat) : (s.pllLost d).waits = s.waits := by
  unfold State.pllLost
  simp only [↓State.setBit_waits, ↓State.setFld_waits, ↓State.bump_waits, ↓State.raise_waits,
    ↓State.waits_ite, ↓ite_self, ↓State.waits_mk, ↓State.waits_eta]

theorem State.pllRelock_waits (d : Nat) : (s.pllRelock d).waits = s.waits := by
  unfold State.pllRelock
  simp only [↓State.waits_mk, ↓State.waits_eta]

theorem State.takeRegion_waits (k : Nat) {f : Nat → State → State}
    (h : ∀ r (s : State), (f r s).waits = s.waits) :
    (s.takeRegion k f).waits = s.waits := by
  unfold State.takeRegion
  split
  exacts [(h _ _).trans (s.setFld_waits ..), rfl]

theorem State.regionUp_waits : s.regionUp.waits = s.waits := by
  unfold State.regionUp
  simp only [↓State.takeRegion_waits, implies_true, ↓State.waits_mk, ↓State.waits_eta]

theorem State.openGates_waits : s.openGates.waits = s.waits := by
  unfold State.openGates
  simp only [↓State.setBit_waits, ↓State.setPowerState_waits, ↓State.foldl_waits, implies_true,
    ↓State.waits_ite, ↓ite_self, ↓State.waits_mk, ↓State.waits_eta]

theorem State.runRequest_waits : s.runRequest.waits = s.waits := by
  unfold State.runRequest
  simp only [↓State.takeRequest_waits, ↓State.setPowerState_waits, implies_true, ↓State.waits_ite, ↓ite_self,
    ↓State.waits_mk, ↓State.waits_eta]

theorem State.wakeN_waits : s.wakeN.waits = s.waits := by
  unfold State.wakeN
  simp only [↓State.wakeSource_waits, ↓State.waits_ite, ↓ite_self, ↓State.waits_mk, ↓State.waits_eta]

theorem State.wakeNow_waits : s.wakeNow.waits = s.waits := by
  unfold State.wakeNow
  simp only [↓State.wakeSource_waits]

theorem State.wakeTimeout_waits (region : Option Nat) : (s.wakeTimeout region).waits = s.waits := by
  unfold State.wakeTimeout
  split
  · split <;> simp only [↓State.raise_waits, ↓State.setDomains_waits, ↓State.waits_mk, ↓State.waits_eta]
  · split <;> simp only [↓State.raise_waits, ↓State.setDomains_waits, ↓State.foldl_waits, implies_true,
      ↓State.waits_ite, ↓ite_self, ↓State.waits_mk, ↓State.waits_eta]

/-! ### Machine/Commit -/

theorem State.applyOne_waits (a : Accepted) : (s.applyOne a).waits = s.waits := by
  unfold State.applyOne
  simp only [↓State.setReg_waits, ↓State.waits_ite, ↓ite_self, ↓State.waits_mk, ↓State.waits_eta]

/-! ### Machine/Faults -/

theorem State.popRecord_waits : s.popRecord.waits = s.waits :=
  State.waits_of (s.popRecord_pending ..) (s.popRecord_commit ..)

theorem State.closeLedger_waits : s.closeLedger.waits = s.waits := by
  unfold State.closeLedger
  simp only [↓State.setReg_waits, ↓State.waits_mk, ↓State.waits_eta]

theorem State.clearOldest_waits : s.clearOldest.waits = s.waits := by
  unfold State.clearOldest
  simp only [↓State.waits_mk, ↓State.waits_eta]

theorem State.writeExtract_waits : s.writeExtract.waits = s.waits := by
  unfold State.writeExtract
  simp only [↓State.bumpIf_waits, ↓State.bump_waits, ↓State.renewWords_waits, ↓State.remark_waits,
    ↓State.complete_waits, ↓State.foldl_waits, implies_true, ↓State.waits_ite, ↓ite_self, ↓State.waits_mk,
    ↓State.waits_eta]

theorem State.lockstep_waits (block : Nat) (action : Bool) : (s.lockstep block action).waits = s.waits := by
  unfold State.lockstep
  simp only [↓State.raise_waits, ↓State.waits_ite, ↓ite_self, ↓State.waits_mk, ↓State.waits_eta]

theorem State.selfTest_waits (done : Bool) (fail : Option Nat) (checker : Option Nat) :
    (s.selfTest done fail checker).waits = s.waits := by
  unfold State.selfTest
  extract_lets +onlyGivenNames s1
  have h1 : s1.waits = s.waits := s.bumpIf_waits ..
  split
  · exact h1
  extract_lets +onlyGivenNames s2 s3
  have h3 : s3.waits = s.waits := by
    simp only [s3, s2, ↓State.raise_waits, ↓State.bump_waits, h1]
  split <;> simp only [↓State.waits_ite, ↓State.fenceFault_waits, ↓ite_self, h3]

/-! ### Machine/Hbm -/

theorem State.tableParity_waits (stack : Nat) : (s.tableParity stack).waits = s.waits := by
  unfold State.tableParity
  simp only [↓State.raise_waits, ↓State.bump_waits]

theorem State.hbmEcc_waits (n : Nat) (es : List (Nat × Bool)) : (s.hbmEcc n es).waits = s.waits := by
  unfold State.hbmEcc
  simp only [↓State.bump_waits, ↓State.setReg_waits, ↓State.eccRecord_waits, ↓State.foldl_waits, implies_true,
    ↓State.waits_ite, ↓ite_self]

theorem State.loseUnits_waits (n : Nat) (es : List (Nat × Bool)) : (s.loseUnits n es).waits = s.waits := by
  unfold State.loseUnits
  simp only [↓State.drawFor_waits, ↓State.setHallmark_waits, ↓State.foldl_waits, implies_true,
    ↓State.waits_ite, ↓ite_self, ↓State.waits_mk, ↓State.waits_eta]

theorem State.voidStream_waits (r l : Nat) (t : Stream) (cause : Nat) :
    (s.voidStream r l t cause).waits = s.waits := by
  unfold State.voidStream
  simp only [↓State.voidBuf_waits, ↓State.setActive_waits]

theorem State.stripeBreach_waits (r l : Nat) (t : Stream) (sslot late : Nat) :
    (s.stripeBreach r l t sslot late).waits = s.waits := by
  unfold State.stripeBreach
  simp only [↓State.breach_waits]

theorem State.countLate_waits (ctx : Option Nat) : (s.countLate ctx).waits = s.waits := by
  unfold State.countLate
  split <;> simp only [↓State.bump_waits]

theorem State.afterRead_waits (r l : Nat) : (s.afterRead r l).waits = s.waits := by
  unfold State.afterRead
  split <;> simp only [↓State.copyNow_waits, ↓State.waits_ite, ↓ite_self]

theorem State.landStripe_waits (t : Stream) (n : Nat) (bs : List Byte) :
    (s.landStripe t n bs).waits = s.waits := by
  unfold State.landStripe
  refine (State.foldl_waits _ (fun s g => ?_) _).trans ?_
  · extract_lets +onlyGivenNames k
    split <;> simp only [↓State.setHallmark_waits, ↓State.remark_waits, ↓State.waits_ite, ↓ite_self]
  · rw [State.waits_mk, State.waits_eta]

theorem State.moveStripe_waits (stack r l idx t_ : Nat) (write : Bool) (ecc : List (Nat × Bool)) :
    (s.moveStripe stack r l idx t_ write ecc).waits = s.waits := by
  unfold State.moveStripe
  split <;> simp only [↓State.hbmEcc_waits, ↓State.voidStream_waits, ↓State.bump_waits,
    ↓State.loseUnits_waits, ↓State.landStripe_waits, ↓State.setActive_waits, ↓State.afterRead_waits,
    ↓State.waits_ite, ↓ite_self, ↓State.waits_mk, ↓State.waits_eta]

theorem State.missStripe_waits (r l idx sslot : Nat) (write : Bool) :
    (s.missStripe r l idx sslot write).waits = s.waits := by
  unfold State.missStripe
  split <;> simp only [↓State.countLate_waits, ↓State.stripeBreach_waits, ↓State.voidStream_waits,
    ↓State.setActive_waits, ↓State.afterRead_waits, ↓State.waits_ite, ↓ite_self]

theorem State.skipStripe_waits (r l idx cause : Nat) (write : Bool) :
    (s.skipStripe r l idx cause write).waits = s.waits := by
  unfold State.skipStripe
  split <;> simp only [↓State.voidStream_waits, ↓State.setActive_waits, ↓State.afterRead_waits,
    ↓State.waits_ite, ↓ite_self]

theorem State.absentVoid_waits (r l : Nat) (t : Stream) (idx : Nat) (write : Bool) :
    (s.absentVoid r l t idx write).waits = s.waits := by
  unfold State.absentVoid
  simp only [↓State.voidStream_waits, ↓State.setActive_waits, ↓State.afterRead_waits, ↓State.waits_ite,
    ↓ite_self]

theorem State.absentStripe_waits (r l : Nat) (idx : Option Nat) (write : Bool) :
    (s.absentStripe r l idx write).waits = s.waits := by
  unfold State.absentStripe
  split <;> simp only [↓State.absentVoid_waits, ↓State.ladleErr_waits, ↓State.bumpIf_waits]

theorem State.hbmStripe_waits (stack sslot region ladle : Nat) (write : Bool) (ecc : List (Nat × Bool)) :
    (s.hbmStripe stack sslot region ladle write ecc).waits = s.waits := by
  unfold State.hbmStripe
  extract_lets +onlyGivenNames ws stream
  split
  · rfl
  extract_lets +onlyGivenNames idx
  split
  · exact s.absentStripe_waits ..
  split
  · rfl
  extract_lets +onlyGivenNames s1 s2
  have h2 : s2.waits = s.waits := by
    simp only [s2, s1, ↓State.waits_ite, ↓State.tableParity_waits, ↓State.reach_waits, ↓ite_self]
  clear_value stream idx
  split <;> simp only [↓State.skipStripe_waits, ↓State.missStripe_waits, ↓State.stripeBreach_waits,
    ↓State.voidStream_waits, ↓State.moveStripe_waits, ↓State.bump_waits, ↓State.hbmEcc_waits,
    ↓State.waits_ite, ↓ite_self, ↓State.waits_mk, ↓State.waits_eta, h2]

theorem State.delayedStripe_waits (stack sslot : Nat) : (s.delayedStripe stack sslot).waits = s.waits := by
  unfold State.delayedStripe
  split
  · rfl
  extract_lets +onlyGivenNames _ s1
  have h1 : s1.waits = s.waits := by
    simp only [s1, ↓State.waits_mk, ↓State.waits_eta]
  split <;> simp only [↓State.moveStripe_waits, ↓State.reach_waits, ↓State.voidStream_waits,
    ↓State.countLate_waits, ↓State.setActive_waits, ↓State.afterRead_waits, ↓State.waits_ite, ↓ite_self, h1]

theorem State.refreshEntry_waits (stack sslot : Nat) : (s.refreshEntry stack sslot).waits = s.waits := by
  unfold State.refreshEntry
  split <;> simp only [↓State.reach_waits, ↓State.tableParity_waits, ↓State.setFld_waits, ↓State.waits_ite,
    ↓ite_self, ↓State.waits_mk, ↓State.waits_eta]

theorem State.hbmTemperature_waits (stack temp rating : Nat) :
    (s.hbmTemperature stack temp rating).waits = s.waits := by
  unfold State.hbmTemperature
  simp only [↓State.setFld_waits, ↓State.setBit_waits, ↓State.raiseIf_waits]

theorem State.scrub_waits (r bank : Nat) (found : List (Nat × Nat)) :
    (s.scrub r bank found).waits = s.waits := by
  unfold State.scrub
  simp only [↓State.markWords_waits, ↓State.padEcc_waits, ↓State.bump_waits, ↓State.foldl_waits, implies_true,
    ↓State.waits_ite, ↓ite_self, ↓State.waits_mk, ↓State.waits_eta]

/-! ### Machine/Net -/

theorem State.inNet_waits {f : State → State} (h : (f s).waits = s.waits) : (s.inNet f).waits = s.waits := by
  unfold State.inNet
  split
  exacts [h, rfl]

theorem State.enqueue_waits (p : Nat) (x : Sent) : (s.enqueue p x).waits = s.waits :=
  State.waits_of (s.enqueue_pending ..) (s.enqueue_commit ..)

theorem State.putSent_waits (p : Nat) (xs : List Sent) : (s.putSent p xs).waits = s.waits := by
  unfold State.putSent
  simp only [↓State.waits_ite, ↓ite_self, ↓State.waits_mk, ↓State.waits_eta]

theorem State.ethernetFrame_waits (p : Nat) (f : EthFrame) : (s.ethernetFrame p f).waits = s.waits := by
  unfold State.ethernetFrame
  split <;> simp only [↓State.inNet_waits, ↓State.bump_waits, ↓State.bumpIf_waits, ↓State.waits_ite,
    ↓ite_self, ↓State.waits_mk, ↓State.waits_eta]

theorem State.arpRequest_waits (mac ip target : Nat) : (s.arpRequest mac ip target).waits = s.waits := by
  unfold State.arpRequest
  simp only [↓State.inNet_waits, ↓State.enqueue_waits, ↓State.waits_ite, ↓ite_self]

theorem State.neighbourSolicitation_waits (mac ip target : Nat) :
    (s.neighbourSolicitation mac ip target).waits = s.waits := by
  unfold State.neighbourSolicitation
  simp only [↓State.inNet_waits, ↓State.enqueue_waits, ↓State.waits_ite, ↓ite_self]

theorem State.ethernetLinkDown_waits (p : Nat) : (s.ethernetLinkDown p).waits = s.waits := by
  unfold State.ethernetLinkDown
  simp only [↓State.inNet_waits, ↓State.setBit_waits]

theorem State.esmcPdu_waits (p ql : Nat) : (s.esmcPdu p ql).waits = s.waits := by
  unfold State.esmcPdu
  simp only [↓State.inNet_waits, ↓State.setFld_waits, ↓State.waits_ite, ↓ite_self]

theorem State.esmcTimeout_waits : s.esmcTimeout.waits = s.waits := by
  unfold State.esmcTimeout
  simp only [↓State.inNet_waits, ↓State.setFld_waits]

theorem State.sendEsmc_waits (event : Bool) : (s.sendEsmc event).waits = s.waits := by
  unfold State.sendEsmc
  simp only [↓State.inNet_waits, ↓State.enqueue_waits, ↓State.foldl_waits, implies_true]

theorem State.uPlaneSection_waits (t : Nat) (x : USection) : (s.uPlaneSection t x).waits = s.waits := by
  unfold State.uPlaneSection
  simp only [↓State.inNet_waits, ↓State.reach_waits, ↓State.bump_waits, ↓State.waits_ite, ↓ite_self,
    ↓State.waits_mk, ↓State.waits_eta]

theorem State.issueNet_waits (c : Cmd) : (s.issueNet c).2.waits = s.waits := by
  unfold State.issueNet
  simp only [↓State.issue_waits]

theorem State.packetErrors_waits (c : Cmd) (t : Nat) : (s.packetErrors c t).2.waits = s.waits := by
  unfold State.packetErrors
  simp only [↓State.eccLater_waits, ↓State.foldl_waits, implies_true]

theorem State.uprx_waits (c : Cmd) : (s.uprx c).waits = s.waits := by
  unfold State.uprx
  simp only [↓State.issueNet_waits, ↓State.bump_waits, ↓State.packetErrors_waits, ↓State.shadowFault_waits,
    ↓State.writePad_waits, ↓State.countFlags_waits, ↓State.laters_waits, ↓State.putBeside_waits,
    ↓State.voidOuts_waits, ↓State.signalAt_waits, ↓State.track_waits, ↓State.foldl_waits, implies_true,
    ↓State.waits_ite, ↓ite_self]

theorem State.voidSource_waits (c : Cmd) : (s.voidSource c).waits = s.waits := by
  unfold State.voidSource
  simp only [↓State.voidBuf_waits]

theorem State.uptx_waits (c : Cmd) : (s.uptx c).waits = s.waits := by
  unfold State.uptx
  simp only [↓State.issueNet_waits, ↓State.readPad_waits, ↓State.voidSource_waits, ↓State.draw_waits,
    ↓State.shadowFault_waits, ↓State.orFlags_waits, ↓State.putSent_waits, ↓State.track_waits,
    ↓State.waits_ite, ↓ite_self, ↓snd_ite]

theorem State.cptx_waits (c : Cmd) : (s.cptx c).waits = s.waits := by
  unfold State.cptx
  simp only [↓State.issueNet_waits, ↓State.readPad_waits, ↓State.voidSource_waits, ↓State.bump_waits,
    ↓State.putSent_waits, ↓State.track_waits, ↓State.waits_ite, ↓ite_self]

theorem State.datagramAt_waits (c : Cmd) (void : Bool) (r a : Nat) :
    (s.datagramAt c void r a).2.waits = s.waits := by
  unfold State.datagramAt
  simp only [↓State.readPad_waits, ↓State.voidSource_waits, ↓State.putSent_waits, ↓State.waits_ite, ↓ite_self,
    ↓State.waits_mk, ↓State.waits_eta]

theorem State.datagrams_waits (c : Cmd) (void : Bool) (r a : Nat) (x : Nat) :
    (s.datagrams c void r a x).2.waits = s.waits := by
  induction x generalizing s a with
  | zero => rfl
  | succ n ih =>
    unfold State.datagrams
    simp only [↓State.datagramAt_waits, ↓ih]

theorem State.l2tx_waits (c : Cmd) : (s.l2tx c).waits = s.waits := by
  unfold State.l2tx
  simp only [↓State.issueNet_waits, ↓State.putSent_waits, ↓State.datagrams_waits, ↓State.track_waits,
    ↓State.waits_ite, ↓ite_self]

theorem State.l2Message_waits (m : L2Msg) : (s.l2Message m).waits = s.waits := by
  unfold State.l2Message
  simp only [↓State.inNet_waits, ↓State.bump_waits, ↓State.waits_ite, ↓ite_self, ↓State.waits_mk,
    ↓State.waits_eta]

theorem State.l2rx_waits (c : Cmd) : (s.l2rx c).waits = s.waits := by
  unfold State.l2rx
  split
  next i s1 e1 =>
  have h1 : s1.waits = s.waits := State.waits_snd e1 (s.issueNet_waits c)
  split
  · exact h1
  extract_lets +onlyGivenNames types air r rows outs mine ms
  split
  extract_lets +onlyGivenNames bs due bad closed _ s2 s3 s4 s5
  have h4 : s4.waits = s.waits := by
    simp only [s4, s3, s2, ↓State.bump_waits, ↓State.waits_mk, ↓State.waits_eta, h1]
  have h5 : s5.waits = s.waits := by
    refine (State.foldl_waits _ (fun s g => ?_) _).trans h4
    split <;> simp only [↓State.voidEntry_waits]
  simp only [↓State.packetErrors_waits, ↓State.writePad_waits, ↓State.voidOuts_waits, ↓State.signalAt_waits,
    ↓State.track_waits, ↓State.foldl_waits, implies_true, ↓State.waits_ite, ↓ite_self, h5]

theorem State.faultMessage_waits : s.faultMessage.waits = s.waits := by
  unfold State.faultMessage
  refine s.inNet_waits ?_
  split <;> simp only [↓State.enqueue_waits, ↓State.waits_mk, ↓State.waits_eta]

/-! ### Machine/Transform -/

theorem State.teWrite_waits (k : Nat) (w : Word) : (s.teWrite k w).waits = s.waits := by
  unfold State.teWrite
  simp only [↓State.waits_mk, ↓State.waits_eta]

theorem State.teMark_waits (g : Nat) : (s.teMark g).waits = s.waits := by
  unfold State.teMark
  simp only [↓State.waits_mk, ↓State.waits_eta]

theorem State.teSetVoid_waits (g cause : Nat) : (s.teSetVoid g cause).waits = s.waits := by
  unfold State.teSetVoid
  simp only [↓State.waits_mk, ↓State.waits_eta]

theorem State.teWriteAll_waits (l : List (Nat × Word)) : (s.teWriteAll l).waits = s.waits := by
  induction l generalizing s with
  | nil => rfl
  | cons e l ih => exact (ih _).trans (s.teWrite_waits ..)

theorem State.teTake_waits (t : Nat) (ks : List Nat) : (s.teTake t ks).2.waits = s.waits := by
  unfold State.teTake
  simp only [↓State.blockRaise_waits, ↓State.foldl_waits, implies_true]

theorem State.issueTe_waits (c : Cmd) : (s.issueTe c).2.waits = s.waits := by
  unfold State.issueTe
  simp only [↓State.issue_waits]

theorem State.teBusy_waits (t finish cycles : Nat) : (s.teBusy t finish cycles).waits = s.waits := by
  unfold State.teBusy
  simp only [↓State.later_waits]

theorem State.trailer_waits (c : Cmd) (be : Nat) : (s.trailer c be).2.waits = s.waits := by
  unfold State.trailer
  simp only [↓State.draw_waits, ↓State.waits_ite, ↓ite_self, ↓snd_ite]

theorem State.stageOut_waits (c : Cmd) (vs : List (FVal × FVal)) (t finish : Nat) :
    (s.stageOut c vs t finish).2.2.waits = s.waits := by
  unfold State.stageOut
  simp only [↓State.openChans_waits, ↓State.closeChans_waits]

theorem State.teNothing_waits (c : Cmd) (i : Issue) (region buf : Nat) :
    (s.teNothing c i region buf).waits = s.waits := by
  unfold State.teNothing
  simp only [↓State.voidBuf_waits, ↓State.signalAt_waits, ↓State.track_waits, ↓State.waits_ite, ↓ite_self]

theorem State.teEnd_waits (c : Cmd) (i : Issue) (r buf : Nat) (beside : Beside) (be : Option Nat)
    (cause finish : Nat) :
    (s.teEnd c i r buf beside be cause finish).waits = s.waits := by
  unfold State.teEnd
  split <;> simp only [↓State.laters_waits, ↓State.later_waits, ↓State.putBeside_waits,
    ↓State.countFlags_waits, ↓State.voidBuf_waits, ↓State.teBusy_waits, ↓State.signalAt_waits,
    ↓State.track_waits, ↓State.waits_ite, ↓ite_self]

theorem State.teChecks_waits (c : Cmd) (i : Issue) (src : Source) (finish : Nat) :
    (s.teChecks c i src finish).2.waits = s.waits := by
  unfold State.teChecks
  simp only [↓State.eccCells_waits, ↓State.shadowFault_waits]

theorem State.teDeliver_waits (c : Cmd) (i : Issue) (src : Source) (bs : List Byte) (beside : Beside)
    (be : Option Nat) (finish : Nat) :
    (s.teDeliver c i src bs beside be finish).waits = s.waits := by
  unfold State.teDeliver
  simp only [↓State.teChecks_waits, ↓State.writePad_waits, ↓State.teEnd_waits]

theorem State.fft_waits (c : Cmd) : (s.fft c).waits = s.waits := by
  unfold State.fft
  simp only [↓State.issueTe_waits, ↓State.teNothing_waits, ↓State.teTake_waits, ↓State.teWriteAll_waits,
    ↓State.stageOut_waits, ↓State.trailer_waits, ↓State.teDeliver_waits, ↓State.waits_ite, ↓ite_self]

theorem State.fir_waits (c : Cmd) : (s.fir c).waits = s.waits := by
  unfold State.fir
  simp only [↓State.issueTe_waits, ↓State.teNothing_waits, ↓State.teTake_waits, ↓State.stageOut_waits,
    ↓State.teDeliver_waits, ↓State.waits_ite, ↓ite_self]

theorem State.ringWrite_waits (t : Nat) (ch : RadioChan) (n j : Nat) (xs : List Pair) (cause : Nat) :
    (s.ringWrite t ch n j xs cause).waits = s.waits := by
  unfold State.ringWrite
  simp only [↓State.teWriteAll_waits, ↓State.teSetVoid_waits, ↓State.teMark_waits, ↓State.foldl_waits,
    implies_true, ↓State.waits_ite, ↓ite_self]

theorem State.ifft_waits (c : Cmd) : (s.ifft c).waits = s.waits := by
  unfold State.ifft
  simp only [↓State.issueTe_waits, ↓State.teNothing_waits, ↓State.teTake_waits, ↓State.teWriteAll_waits,
    ↓State.teChecks_waits, ↓State.ringWrite_waits, ↓State.teEnd_waits, ↓State.waits_ite, ↓ite_self,
    ↓State.waits_mk, ↓State.waits_eta]

theorem State.fetch_waits (c : Cmd) : (s.fetch c).waits = s.waits := by
  unfold State.fetch
  simp only [↓State.issueTe_waits, ↓State.readPad_waits, ↓State.teWriteAll_waits, ↓State.teSetVoid_waits,
    ↓State.teMark_waits, ↓State.teBusy_waits, ↓State.track_waits, ↓State.foldl_waits, implies_true,
    ↓State.waits_ite, ↓ite_self]

/-! ### Machine/Radio -/

theorem State.onRadio_waits {f : State → State} (h : (f s).waits = s.waits) :
    (s.onRadio f).waits = s.waits := by
  unfold State.onRadio
  split
  exacts [h, rfl]

theorem State.setLane_waits (l : Nat) (x : SteerLane) : (s.setLane l x).waits = s.waits := by
  unfold State.setLane
  simp only [↓State.waits_mk, ↓State.waits_eta]

theorem State.setLoop_waits (l : Nat) (x : GainLoop) : (s.setLoop l x).waits = s.waits := by
  unfold State.setLoop
  simp only [↓State.waits_mk, ↓State.waits_eta]

theorem State.queueWord_waits (w : SteerWord) : (s.queueWord w).2.waits = s.waits := by
  unfold State.queueWord
  simp only [↓State.raise_waits, ↓State.bump_waits, ↓State.setLane_waits, ↓State.setFld_waits,
    ↓State.waits_ite, ↓ite_self, ↓snd_ite]

theorem State.dropGainWord_waits (w : SteerWord) : (s.dropGainWord w).waits = s.waits := by
  unfold State.dropGainWord
  simp only [↓State.setLoop_waits, ↓State.waits_ite, ↓ite_self]

theorem State.laneFrame_waits (k fin l : Nat) : (s.laneFrame k fin l).waits = s.waits := by
  unfold State.laneFrame
  extract_lets +onlyGivenNames x
  split
  · exact s.setLane_waits ..
  split
  · exact s.setLane_waits ..
  split
  · exact s.setLane_waits ..
  extract_lets +onlyGivenNames late s1 rest
  have h1 : s1.waits = s.waits := by
    simp only [s1, ↓State.dropGainWord_waits, ↓State.raise_waits, ↓State.bump_waits, ↓State.foldl_waits,
      implies_true]
  split <;> simp only [↓State.setLane_waits, ↓State.bumpIf_waits, ↓State.waits_mk, ↓State.waits_eta, h1]

theorem State.checkLooped_waits : s.checkLooped.waits = s.waits := by
  unfold State.checkLooped
  simp only [↓State.bump_waits, ↓State.waits_mk, ↓State.waits_eta]

theorem State.steeringFrame_waits (k : Nat) : (s.steeringFrame k).waits = s.waits := by
  unfold State.steeringFrame
  simp only [↓State.reach_waits, ↓State.checkLooped_waits, ↓State.laneFrame_waits, ↓State.foldl_waits,
    implies_true, ↓State.waits_ite, ↓ite_self]

theorem State.addDelta_waits (n : Nat) (v : Int) : (s.addDelta n v).waits = s.waits := by
  unfold State.addDelta
  simp only [↓State.setReg_waits]

theorem State.addToff_waits (n : Nat) (v : Int) : (s.addToff n v).waits = s.waits := by
  unfold State.addToff
  simp only [↓State.setFld_waits]

theorem State.settleSteps_waits (n kind t : Nat) : (s.settleSteps n kind t).waits = s.waits := by
  unfold State.settleSteps
  simp only [↓State.addDelta_waits, ↓State.addToff_waits, ↓State.foldl_waits, implies_true, ↓State.waits_ite,
    ↓ite_self, ↓State.waits_mk, ↓State.waits_eta]

theorem State.steerRecord_waits (w0 w1 w2 : Word) : (s.steerRecord w0 w1 w2).waits = s.waits := by
  unfold State.steerRecord
  extract_lets +onlyGivenNames kind target value cycle now refuse
  clear_value kind
  split <;> simp only [refuse, ↓State.bump_waits, ↓State.addDelta_waits, ↓State.addToff_waits,
    ↓State.queueWord_waits, ↓State.waits_ite, ↓ite_self, ↓State.waits_mk, ↓State.waits_eta]

theorem State.steer_waits (c : Cmd) : (s.steer c).waits = s.waits := by
  unfold State.steer
  simp only [↓State.issueTe_waits, ↓State.teTake_waits, ↓State.steerRecord_waits, ↓State.teBusy_waits,
    ↓State.track_waits, ↓State.foldl_waits, implies_true, ↓State.waits_ite, ↓ite_self]

theorem State.ncoPhase_waits (n a : Nat) : (s.ncoPhase n a).2.waits = s.waits := by
  unfold State.ncoPhase
  simp only [↓State.waits_mk, ↓State.waits_eta]

theorem State.mixPart_waits (v : Int) : (s.mixPart v).2.waits = s.waits := by
  unfold State.mixPart
  simp only [↓State.draw_waits, ↓State.waits_ite, ↓ite_self, ↓snd_ite]

theorem State.mix_waits (ch : RadioChan) (slot j : Nat) (p : Pair) (rx : Bool) :
    (s.mix ch slot j p rx).2.waits = s.waits := by
  unfold State.mix
  split <;> simp only [↓State.settleSteps_waits, ↓State.ncoPhase_waits, ↓State.mixPart_waits,
    ↓State.waits_ite, ↓ite_self, ↓snd_ite]

theorem State.enterData_waits (tx : Bool) (n : Nat) : (s.enterData tx n).waits = s.waits := by
  unfold State.enterData
  simp only [↓State.setFld_waits]

theorem State.detect_waits (c : Nat) (p : Pair) : (s.detect c p).waits = s.waits := by
  unfold State.detect
  simp only [↓State.setLoop_waits]

theorem State.receiveSample_waits (c slot j re im : Nat) :
    (s.receiveSample c slot j re im).waits = s.waits := by
  unfold State.receiveSample
  simp only [↓State.reach_waits, ↓State.mix_waits, ↓State.detect_waits, ↓State.teWrite_waits,
    ↓State.teSetVoid_waits, ↓State.teMark_waits, ↓State.waits_ite, ↓ite_self]

theorem State.transmitSample_waits (c slot j buf : Nat) :
    (s.transmitSample c slot j buf).waits = s.waits := by
  unfold State.transmitSample
  simp only [↓State.reach_waits, ↓State.voidBuf_waits, ↓State.breach_waits, ↓State.bump_waits,
    ↓State.blockRaise_waits, ↓State.mix_waits, ↓State.waits_ite, ↓ite_self, ↓State.waits_mk, ↓State.waits_eta]

theorem State.voidSamples_waits (link slot j n cause : Nat) :
    (s.voidSamples link slot j n cause).waits = s.waits := by
  unfold State.voidSamples
  simp only [↓State.teSetVoid_waits, ↓State.foldl_waits, implies_true, ↓State.waits_ite, ↓ite_self]

theorem State.linkCrc_waits (link slot j n : Nat) : (s.linkCrc link slot j n).waits = s.waits := by
  unfold State.linkCrc
  simp only [↓State.voidSamples_waits, ↓State.raiseIf_waits, ↓State.bump_waits]

theorem State.linkDown_waits (tx : Bool) (link : Nat) (elastic : Bool) :
    (s.linkDown tx link elastic).waits = s.waits := by
  unfold State.linkDown
  simp only [↓State.setFld_waits, ↓State.bump_waits, ↓State.raiseIf_waits]

theorem State.relock_waits (tx : Bool) (link : Nat) : (s.relock tx link).waits = s.waits := by
  unfold State.relock
  simp only [↓State.bump_waits, ↓State.setFld_waits, ↓State.waits_ite, ↓ite_self]

theorem State.sysrefEdge_waits (off : Bool) (t : Nat) : (s.sysrefEdge off t).waits = s.waits := by
  unfold State.sysrefEdge
  simp only [↓State.wrapAdd_waits, ↓State.setBit_waits, ↓State.enterData_waits, ↓State.setFld_waits,
    ↓State.raise_waits, ↓State.bump_waits, ↓State.foldl_waits, implies_true, ↓State.waits_ite, ↓ite_self,
    ↓State.waits_mk, ↓State.waits_eta]

theorem State.withdraw_waits (l t : Nat) : (s.withdraw l t).waits = s.waits := by
  unfold State.withdraw
  simp only [↓State.setLane_waits, ↓State.dropGainWord_waits, ↓State.bump_waits, ↓State.foldl_waits,
    implies_true]

theorem State.freeze_waits (l t until_ : Nat) : (s.freeze l t until_).waits = s.waits := by
  unfold State.freeze
  simp only [↓State.withdraw_waits, ↓State.setLoop_waits]

theorem State.queueGain_waits (l att time : Nat) (frozen : Bool) :
    (s.queueGain l att time frozen).waits = s.waits := by
  unfold State.queueGain
  simp only [↓State.setLane_waits, ↓State.dropGainWord_waits, ↓State.queueWord_waits, ↓State.bump_waits,
    ↓State.setLoop_waits, ↓State.foldl_waits, implies_true, ↓State.waits_ite, ↓ite_self]

theorem State.gainWindow_waits (l : Nat) : (s.gainWindow l).waits = s.waits := by
  unfold State.gainWindow
  simp only [↓State.setLoop_waits, ↓State.setFld_waits, ↓State.queueGain_waits, ↓State.bump_waits,
    ↓State.waits_ite, ↓ite_self]

theorem State.applyGain_waits (l t : Nat) : (s.applyGain l t).waits = s.waits := by
  unfold State.applyGain
  simp only [↓State.setLoop_waits, ↓State.setFld_waits]

theorem State.freezeEnd_waits (l t : Nat) : (s.freezeEnd l t).waits = s.waits := by
  unfold State.freezeEnd
  simp only [↓State.setLoop_waits, ↓State.waits_ite, ↓ite_self]

theorem State.loopSymbol_waits (l k : Nat) : (s.loopSymbol l k).waits = s.waits := by
  unfold State.loopSymbol
  extract_lets +onlyGivenNames t s1 _ s2
  have h1 : s1.waits = s.waits := s.applyGain_waits ..
  have h2 : s2.waits = s.waits := by
    unfold s2; split <;> simp only [↓State.freeze_waits, ↓State.setLoop_waits, ↓State.waits_ite, ↓ite_self,
      h1]
  simp only [↓State.freeze_waits, ↓State.setLoop_waits, ↓State.withdraw_waits, ↓State.setFld_waits,
    ↓State.foldl_waits, implies_true, ↓State.waits_ite, ↓ite_self, h2]

theorem State.symbolTick_waits (k : Nat) : (s.symbolTick k).waits = s.waits := by
  unfold State.symbolTick
  simp only [↓State.reach_waits, ↓State.onRadio_waits, ↓State.settleSteps_waits, ↓State.loopSymbol_waits,
    ↓State.enterData_waits, ↓State.foldl_waits, implies_true, ↓State.waits_ite, ↓ite_self]

theorem State.ncoClear_waits (n : Nat) : (s.ncoClear n).waits = s.waits := by
  unfold State.ncoClear
  simp only [↓State.setBit_waits, ↓State.zeroRegs_waits, ↓State.waits_ite, ↓ite_self]

/-! ### Machine/TimeUnit -/

theorem State.setSlave_waits (x : Slave) : (s.setSlave x).waits = s.waits :=
  State.waits_of (s.setSlave_pending ..) (s.setSlave_commit ..)

theorem State.setTuState_waits (v : Nat) : (s.setTuState v).waits = s.waits :=
  State.waits_of (s.setTuState_pending ..) (s.setTuState_commit ..)

theorem State.nsWord_waits (o : Int) : (s.nsWord o).2.waits = s.waits := by
  unfold State.nsWord
  simp only [↓State.fresh_waits]

theorem State.setPend_waits (o : Int) : (s.setPend o).waits = s.waits := by
  unfold State.setPend
  simp only [↓State.nsWord_waits, ↓State.setSlave_waits, ↓State.setReg_waits]

theorem State.clearPend_waits : s.clearPend.waits = s.waits := by
  unfold State.clearPend
  simp only [↓State.setSlave_waits, ↓State.setBit_waits, ↓State.setReg_waits]

theorem State.offsetMeasured_waits (o : Int) : (s.offsetMeasured o).waits = s.waits := by
  unfold State.offsetMeasured
  split
  next w s1 e1 =>
  have h1 : s1.waits = s.waits := State.waits_snd e1 (s.nsWord_waits o)
  extract_lets +onlyGivenNames s2 x
  have h2 : s2.waits = s.waits := (s1.setReg_waits ..).trans h1
  split <;> simp only [↓State.setSlave_waits, ↓State.setPend_waits, ↓State.setBit_waits,
    ↓State.setTuState_waits, ↓State.raise_waits, ↓State.clearPend_waits, ↓State.fresh_waits, ↓State.waits_ite,
    ↓ite_self, h2]

theorem State.announceHeard_waits (d : MasterSet) : (s.announceHeard d).waits = s.waits := by
  unfold State.announceHeard
  extract_lets +onlyGivenNames x heard s1
  have h1 : s1.waits = s.waits := s.setSlave_waits ..
  split
  · exact h1
  split <;> simp only [↓State.setSlave_waits, ↓State.setTuState_waits, ↓State.waits_ite, ↓ite_self, h1]

theorem State.slaveSync_waits (m : PtpMsg) (ingress : Nat) : (s.slaveSync m ingress).waits = s.waits := by
  unfold State.slaveSync
  simp only [↓State.setTuState_waits, ↓State.setSlave_waits, ↓State.enqueue_waits, ↓State.waits_ite,
    ↓ite_self]

theorem State.slaveFollowUp_waits (m : PtpMsg) : (s.slaveFollowUp m).waits = s.waits := by
  unfold State.slaveFollowUp
  extract_lets
  split <;> simp only [↓State.setSlave_waits, ↓State.waits_ite, ↓ite_self]

theorem State.slaveResponse_waits (m : PtpMsg) : (s.slaveResponse m).waits = s.waits := by
  unfold State.slaveResponse
  extract_lets +onlyGivenNames x
  split
  · rfl
  split <;> simp only [↓State.offsetMeasured_waits, ↓State.setSlave_waits]

theorem State.ptpArrival_waits (p : Nat) (m : PtpMsg) (stamp : Nat) {f : Nat → State → State}
    (h : ∀ n (s : State), (f n s).waits = s.waits) :
    (s.ptpArrival p m stamp f).waits = s.waits := by
  unfold State.ptpArrival
  simp only [↓State.inNet_waits, ↓State.foldl_waits, ↓State.enqueue_waits, ↓State.bump_waits, ↓h,
    ↓State.waits_ite, ↓ite_self, implies_true]

theorem State.followUpTimeout_waits (seq src : Nat) : (s.followUpTimeout seq src).waits = s.waits := by
  unfold State.followUpTimeout
  simp only [↓State.inNet_waits, ↓State.bump_waits, ↓State.waits_ite, ↓ite_self, ↓State.waits_mk,
    ↓State.waits_eta]

theorem State.syncMissed_waits : s.syncMissed.waits = s.waits := by
  unfold State.syncMissed
  simp only [↓State.setSlave_waits, ↓State.setTuState_waits, ↓State.waits_ite, ↓ite_self]

theorem State.leave_waits (p egress : Nat) (x : Sent) : (s.leave p egress x).2.waits = s.waits := by
  unfold State.leave
  split
  · extract_lets +onlyGivenNames res
    split
    · exact s.setSlave_waits ..
    split
    · simp only [↓State.waits_ite, ↓ite_self, ↓snd_ite, ↓State.waits_mk, ↓State.waits_eta]
    · rfl
    · split <;> simp only [↓State.waits_mk, ↓State.waits_eta]
    · rfl
  · simp only [↓State.waits_mk, ↓State.waits_eta]
  · rfl

theorem State.nonPlanned_waits (p t stamp : Nat) : (s.nonPlanned p t stamp).waits = s.waits := by
  unfold State.nonPlanned
  refine s.inNet_waits ?_
  extract_lets +onlyGivenNames s1
  have h1 : s1.waits = s.waits := s.reach_waits t
  split <;> simp only [↓State.leave_waits, ↓State.putSent_waits, ↓State.waits_ite, ↓ite_self, ↓State.waits_mk,
    ↓State.waits_eta, h1]

theorem State.fire_waits (n : Nat) (late : Bool) : (s.fire n late).waits = s.waits := by
  unfold State.fire
  simp only [↓State.wrapAdd_waits, ↓State.setBit_waits, ↓State.setFld_waits, ↓State.setReg_waits,
    ↓State.waits_ite, ↓ite_self, ↓State.waits_mk, ↓State.waits_eta]

theorem State.triggerArm_waits (n : Nat) (value : Word) : (s.triggerArm n value).waits = s.waits := by
  unfold State.triggerArm
  simp only [↓State.setReg_waits, ↓State.setBit_waits, ↓State.fire_waits, ↓State.waits_ite, ↓ite_self]

theorem State.triggerFire_waits (n t : Nat) : (s.triggerFire n t).waits = s.waits := by
  unfold State.triggerFire
  simp only [↓State.reach_waits, ↓State.fire_waits, ↓State.waits_ite, ↓ite_self]

theorem State.capture_waits (n source stamp : Nat) : (s.capture n source stamp).waits = s.waits := by
  unfold State.capture
  simp only [↓State.bump_waits, ↓State.setReg_waits, ↓State.setFld_waits, ↓State.waits_ite, ↓ite_self]

theorem State.timeRead_waits : s.timeRead.waits = s.waits := by
  unfold State.timeRead
  simp only [↓State.setReg_waits]

theorem State.timeStep_waits : s.timeStep.waits = s.waits := by
  unfold State.timeStep
  simp only [↓State.setBit_waits, ↓State.clearPend_waits, ↓State.setTuState_waits, ↓State.setSlave_waits,
    ↓State.fire_waits, ↓State.foldl_waits, implies_true, ↓State.waits_ite, ↓ite_self, ↓State.waits_mk,
    ↓State.waits_eta]

theorem State.enterFreerun_waits : s.enterFreerun.waits = s.waits := by
  unfold State.enterFreerun
  simp only [↓State.setBit_waits, ↓State.setSlave_waits, ↓State.setTuState_waits, ↓State.clearPend_waits,
    ↓State.waits_ite, ↓ite_self]

/-! ### Machine/Start -/

theorem State.setFlash_waits (a : Nat) (bs : List Byte) : (s.setFlash a bs).waits = s.waits :=
  State.waits_of (s.setFlash_pending ..) (s.setFlash_commit ..)

theorem State.writeBoot_waits (b : BootRecord) : (s.writeBoot b).waits = s.waits := by
  unfold State.writeBoot
  simp only [↓State.setFlash_waits]

theorem State.stepDone_waits (k : Nat) : (s.stepDone k).waits = s.waits := by
  unfold State.stepDone
  simp only [↓State.setReg_waits, ↓State.setFld_waits, ↓State.waits_mk, ↓State.waits_eta]

theorem State.atUs_waits (us : Nat) : (s.atUs us).waits = s.waits := by
  unfold State.atUs
  simp only [↓State.waits_mk, ↓State.waits_eta]

theorem State.recordBrownOut_waits : s.recordBrownOut.waits = s.waits := by
  unfold State.recordBrownOut
  simp only [↓State.raise_waits, ↓State.waits_ite, ↓ite_self, ↓State.waits_mk, ↓State.waits_eta]

theorem State.mgmtOnly_waits : s.mgmtOnly.waits = s.waits := by
  unfold State.mgmtOnly
  simp only [↓State.recordBrownOut_waits, ↓State.setBit_waits]

theorem State.refuseImage_waits : s.refuseImage.waits = s.waits := by
  unfold State.refuseImage
  simp only [↓State.mgmtOnly_waits, ↓State.raise_waits]

theorem State.failSlot_waits (k reason sect item : Nat) :
    (s.failSlot k reason sect item).waits = s.waits := by
  unfold State.failSlot
  simp only [↓State.setReg_waits, ↓State.raiseIf_waits, ↓State.waits_ite, ↓ite_self, ↓State.waits_mk,
    ↓State.waits_eta]

theorem State.enterFinding_waits (f : Finding) : (s.enterFinding f).waits = s.waits := by
  unfold State.enterFinding
  simp only [↓State.setBit_waits, ↓State.raiseIf_waits, ↓State.raise_waits, ↓State.waits_ite, ↓ite_self,
    ↓State.waits_mk, ↓State.waits_eta]

theorem State.leaveOut_waits : s.leaveOut.waits = s.waits := by
  unfold State.leaveOut
  simp only [↓State.setReg_waits, ↓State.foldl_waits, implies_true, ↓State.waits_ite, ↓ite_self,
    ↓State.waits_mk, ↓State.waits_eta]

theorem State.selfTestStep_waits (g : Nat) : (s.selfTestStep g).waits = s.waits := by
  unfold State.selfTestStep
  simp only [↓State.enterFinding_waits, ↓State.setReg_waits, ↓State.setFld_waits, ↓State.leaveOut_waits,
    ↓State.raise_waits, ↓State.foldl_waits, implies_true, ↓State.waits_ite, ↓ite_self, ↓State.waits_mk,
    ↓State.waits_eta]

theorem State.loadSection_waits (base : Nat) (x : Section) : (s.loadSection base x).waits = s.waits := by
  unfold State.loadSection
  split <;> simp only [↓State.remark_waits, ↓State.setReg_waits, ↓State.foldl_waits, implies_true,
    ↓State.waits_mk, ↓State.waits_eta]

theorem State.selectVariant_waits : s.selectVariant.waits = s.waits := by
  unfold State.selectVariant
  extract_lets +onlyGivenNames take no
  split
  · simp only [take, no, ↓State.setVariant_waits, ↓State.setFld_waits, ↓State.raise_waits, ↓State.waits_ite,
      ↓ite_self]
  · split <;> simp only [take, no, ↓State.setVariant_waits, ↓State.setFld_waits, ↓State.raise_waits]

theorem State.applyImage_waits (k base : Nat) (c : ImageContent) :
    (s.applyImage k base c).waits = s.waits := by
  unfold State.applyImage
  simp only [↓State.setFld_waits, ↓State.setBit_waits, ↓State.setReg_waits, ↓State.foldl_waits, implies_true,
    ↓State.waits_mk, ↓State.waits_eta]

theorem State.restoreSaved_waits : s.restoreSaved.waits = s.waits := by
  unfold State.restoreSaved
  split <;> simp only [↓State.setBit_waits, ↓State.raise_waits, ↓State.waits_ite, ↓ite_self, ↓State.waits_mk,
    ↓State.waits_eta]

theorem State.applyWeights_waits (b : BootRecord) : (s.applyWeights b).waits = s.waits := by
  unfold State.applyWeights
  simp only [↓State.raise_waits, ↓State.hbmPut_waits, ↓State.setBit_waits, ↓State.setFld_waits,
    ↓State.waits_ite, ↓ite_self]

theorem State.runAlone_waits : s.runAlone.waits = s.waits := by
  unfold State.runAlone
  extract_lets +onlyGivenNames s1
  have h1 : s1.waits = s.waits := by
    simp only [s1, ↓State.setLive_waits, ↓State.setTwinState_waits]
  split <;> simp only [↓State.setVariant_waits, h1]

theorem State.advance_waits (locked : Bool) : (s.advance locked).waits = s.waits := by
  unfold State.advance
  simp only [↓State.stepDone_waits, ↓State.runAlone_waits, ↓State.setTwinState_waits, ↓State.waits_ite,
    ↓ite_self, ↓State.waits_mk, ↓State.waits_eta]

theorem State.boardFlash_waits : s.boardFlash.waits = s.waits := by
  unfold State.boardFlash
  simp only [↓State.setFlash_waits, ↓State.foldl_waits, implies_true]

theorem State.identityStep_waits : s.identityStep.waits = s.waits := by
  unfold State.identityStep
  simp only [↓State.setReg_waits, ↓State.raiseIf_waits, ↓State.waits_mk, ↓State.waits_eta]

theorem State.strapStep_waits : s.strapStep.waits = s.waits := by
  unfold State.strapStep
  simp only [↓State.setReg_waits, ↓State.setFld_waits]

theorem State.linksNotTrained_waits (us : Nat) : (s.linksNotTrained us).waits = s.waits := by
  unfold State.linksNotTrained
  simp only [↓State.atUs_waits, ↓State.raiseIf_waits, ↓State.advance_waits, ↓State.foldl_waits, implies_true,
    ↓State.waits_ite, ↓ite_self, ↓State.waits_mk, ↓State.waits_eta]

theorem State.timeLockTimeout_waits (us : Nat) : (s.timeLockTimeout us).waits = s.waits := by
  unfold State.timeLockTimeout
  simp only [↓State.atUs_waits, ↓State.raise_waits, ↓State.advance_waits, ↓State.waits_ite, ↓ite_self]

theorem State.handshakeExpired_waits (us : Nat) : (s.handshakeExpired us).waits = s.waits := by
  unfold State.handshakeExpired
  simp only [↓State.advance_waits, ↓State.runAlone_waits, ↓State.atUs_waits, ↓State.waits_ite, ↓ite_self]

theorem State.jesdUp_waits (us : Nat) : (s.jesdUp us).waits = s.waits := by
  unfold State.jesdUp
  simp only [↓State.atUs_waits, ↓State.advance_waits, ↓State.waits_mk, ↓State.waits_eta]

theorem State.interfaceUp_waits (l : LinkId) (us errs : Nat) : (s.interfaceUp l us errs).waits = s.waits := by
  unfold State.interfaceUp
  split <;> simp only [↓State.inNet_waits, ↓State.setBit_waits, ↓State.setFld_waits, ↓State.bump_waits,
    ↓State.jesdUp_waits, ↓State.waits_ite, ↓ite_self, ↓State.waits_mk, ↓State.waits_eta]

/-! ### Machine/Security -/

theorem State.nvmResult_waits (result reason : Nat) : (s.nvmResult result reason).waits = s.waits :=
  State.waits_of (s.nvmResult_pending ..) (s.nvmResult_commit ..)

theorem State.unverify_waits (a n : Nat) : (s.unverify a n).waits = s.waits := by
  unfold State.unverify
  split <;> simp only [↓State.setBit_waits, ↓State.foldl_waits, implies_true, ↓State.waits_ite, ↓ite_self]

theorem State.nvmRun_waits (job : NvmJob) : (s.nvmRun job).waits = s.waits := by
  unfold State.nvmRun
  simp only [↓State.setBit_waits, ↓State.nvmResult_waits, ↓State.waits_mk, ↓State.waits_eta]

theorem State.nvmIdle_waits {f : State → State} (h : (f s).waits = s.waits) :
    (s.nvmIdle f).waits = s.waits := by
  unfold State.nvmIdle
  split
  exacts [s.nvmResult_waits .., h]

theorem State.nvmErase_waits : s.nvmErase.waits = s.waits := by
  unfold State.nvmErase
  simp only [↓State.nvmIdle_waits, ↓State.nvmResult_waits, ↓State.nvmRun_waits, ↓State.unverify_waits,
    ↓State.waits_ite, ↓ite_self]

theorem State.nvmProgram_waits : s.nvmProgram.waits = s.waits := by
  unfold State.nvmProgram
  simp only [↓State.nvmIdle_waits, ↓State.nvmResult_waits, ↓State.nvmRun_waits, ↓State.unverify_waits,
    ↓State.setFld_waits, ↓State.waits_ite, ↓ite_self, ↓State.waits_mk, ↓State.waits_eta]

theorem State.nvmVerify_waits (slot : Nat) : (s.nvmVerify slot).waits = s.waits := by
  unfold State.nvmVerify
  simp only [↓State.nvmIdle_waits, ↓State.nvmRun_waits]

theorem State.nvmActivate_waits (slot : Nat) : (s.nvmActivate slot).waits = s.waits := by
  unfold State.nvmActivate
  simp only [↓State.nvmIdle_waits, ↓State.nvmRun_waits, ↓State.nvmResult_waits, ↓State.waits_ite, ↓ite_self]

theorem State.nvmSave_waits : s.nvmSave.waits = s.waits := by
  unfold State.nvmSave
  simp only [↓State.nvmIdle_waits, ↓State.nvmResult_waits, ↓State.nvmRun_waits, ↓State.waits_ite, ↓ite_self]

theorem State.nvmDrop_waits : s.nvmDrop.waits = s.waits := by
  unfold State.nvmDrop
  simp only [↓State.nvmIdle_waits, ↓State.nvmRun_waits]

theorem State.startSave_waits : s.startSave.waits = s.waits := by
  unfold State.startSave
  split <;> simp only [↓State.waits_ite, ↓ite_self, ↓State.waits_mk, ↓State.waits_eta]

theorem State.freeBytes_waits (n : Nat) : (s.freeBytes n).2.waits = s.waits := by
  unfold State.freeBytes
  simp only [↓State.drawFor_waits]

theorem State.writeWeights_waits (b : BootRecord) : (s.writeWeights b).waits = s.waits := by
  unfold State.writeWeights
  simp only [↓State.raise_waits, ↓State.setFlash_waits, ↓State.writeBoot_waits, ↓State.foldl_waits,
    implies_true]

theorem State.nvmEffect_waits (j : NvmJob) : (s.nvmEffect j).waits = s.waits := by
  unfold State.nvmEffect
  have hmap {b : Option BootRecord} {f : BootRecord → State} (hf : ∀ b, (f b).waits = s.waits) :
      ((b.map f).getD s).waits = s.waits := by
    cases b with
    | none => rfl
    | some b => exact hf b
  split
  · simp only [↓State.nvmResult_waits, ↓State.setFlash_waits]
  · simp only [↓State.nvmResult_waits, ↓State.setFlash_waits]
  · split
    · simp only [↓State.nvmResult_waits, ↓State.setBit_waits]
    · split <;> simp only [↓State.nvmResult_waits, ↓State.setBit_waits]
  · simp only [↓State.nvmResult_waits, ↓State.writeBoot_waits, hmap, implies_true]
  · simp only [↓State.nvmResult_waits, ↓State.writeWeights_waits, hmap, implies_true]
  · simp only [↓State.nvmResult_waits, ↓State.writeBoot_waits, hmap, implies_true]

theorem State.nvmDone_waits (error : Bool) : (s.nvmDone error).waits = s.waits := by
  unfold State.nvmDone
  split <;> simp only [↓State.freeBytes_waits, ↓State.setFlash_waits, ↓State.nvmResult_waits,
    ↓State.bump_waits, ↓State.raise_waits, ↓State.nvmEffect_waits, ↓State.setBit_waits, ↓State.announce_waits,
    ↓State.waits_ite, ↓ite_self, ↓State.waits_mk, ↓State.waits_eta]

theorem State.pageWrite_waits (w : Word) : (s.pageWrite w).waits = s.waits := by
  unfold State.pageWrite
  simp only [↓State.setFld_waits, ↓State.waits_ite, ↓ite_self, ↓State.waits_mk, ↓State.waits_eta]

theorem State.nvmCommand_waits (cmd slot : Nat) : (s.nvmCommand cmd slot).waits = s.waits := by
  unfold State.nvmCommand
  split <;> simp only [↓State.nvmErase_waits, ↓State.nvmProgram_waits, ↓State.nvmVerify_waits,
    ↓State.nvmActivate_waits, ↓State.nvmSave_waits, ↓State.nvmDrop_waits]

theorem State.sendReport_waits (bs : List Byte) : (s.sendReport bs).waits = s.waits := by
  unfold State.sendReport
  simp only [↓State.inNet_waits, ↓State.enqueue_waits]

theorem State.showReport_waits (status : Nat) (bs : List Byte) :
    (s.showReport status bs).waits = s.waits := by
  unfold State.showReport
  simp only [↓State.setFld_waits, ↓State.setBit_waits, ↓State.announce_waits, ↓State.waits_mk,
    ↓State.waits_eta]

theorem State.shortReport_waits (l2 : Bool) (status : Nat) : (s.shortReport l2 status).waits = s.waits := by
  unfold State.shortReport
  simp only [↓State.bump_waits, ↓State.sendReport_waits, ↓State.showReport_waits, ↓State.waits_ite, ↓ite_self]

theorem State.requestReport_waits (l2 : Bool) (nonce : List Byte) (map : Bool) :
    (s.requestReport l2 nonce map).waits = s.waits := by
  unfold State.requestReport
  simp only [↓State.shortReport_waits, ↓State.setBit_waits, ↓State.waits_ite, ↓ite_self, ↓State.waits_mk,
    ↓State.waits_eta]

theorem State.attReq_waits (m : L2Msg) : (s.attReq m).waits = s.waits := by
  unfold State.attReq
  simp only [↓State.inNet_waits, ↓State.bump_waits, ↓State.requestReport_waits, ↓State.waits_ite, ↓ite_self]

theorem State.attGo_waits (map : Bool) : (s.attGo map).waits = s.waits := by
  unfold State.attGo
  simp only [↓State.setBit_waits, ↓State.requestReport_waits, ↓State.waits_mk, ↓State.waits_eta]

theorem State.reportReady_waits : s.reportReady.waits = s.waits := by
  unfold State.reportReady
  split <;> simp only [↓State.setBit_waits, ↓State.bump_waits, ↓State.sendReport_waits,
    ↓State.showReport_waits, ↓State.waits_ite, ↓ite_self, ↓State.waits_mk, ↓State.waits_eta]

theorem State.attRead_waits : s.attRead.waits = s.waits := by
  unfold State.attRead
  simp only [↓State.setReg_waits, ↓State.waits_mk, ↓State.waits_eta]

/-! ### Machine/Control -/

theorem State.measureLeg_waits (a seen : Nat) : (s.measureLeg a seen).waits = s.waits :=
  State.waits_of (s.measureLeg_pending ..) (s.measureLeg_commit ..)

theorem State.access_waits (m a : Nat) : (s.access m a).2.2.waits = s.waits := by
  unfold State.access
  extract_lets +onlyGivenNames s1
  have h1 : s1.waits = s.waits := s.catchUp_waits
  split
  · exact (s1.unassigned_waits ..).trans h1
  split
  · exact (s1.unassigned_waits ..).trans h1
  · simp only [↓State.bump_waits, ↓State.waits_ite, ↓ite_self, ↓snd_ite, h1]

theorem State.ctlRead_waits (m a : Nat) : (s.ctlRead m a).2.2.waits = s.waits := by
  have h := s.access_waits m a
  unfold State.ctlRead
  split
  next st t e => rw [e] at h; exact h
  next st d t e =>
  rw [e] at h
  extract_lets +onlyGivenNames s1
  have h1 : s1.waits = s.waits := by
    simp only [s1, ↓State.timeRead_waits, ↓State.attRead_waits, ↓State.waits_ite, ↓ite_self, h]
  split <;> exact h1

theorem whenBit_waits (w : Word) (i : Nat) {f : State → State} (h : (f s).waits = s.waits) :
    (whenBit w i f s).waits = s.waits := by
  unfold whenBit
  split
  exacts [h, rfl]

theorem State.clearCompute_waits (r o : Nat) (w : Word) : (s.clearCompute r o w).waits = s.waits := by
  unfold State.clearCompute
  simp only [↓whenBit_waits, ↓State.anvClrCnt_waits, ↓State.anvClrLatch_waits, ↓State.plnClrCnt_waits,
    ↓State.plnClrLatch_waits, ↓State.slcClrCnt_waits, ↓State.slcClrLatch_waits, ↓State.swgClr_waits,
    ↓State.cruClr_waits, ↓State.tnkClr_waits, ↓State.ldlClr_waits, ↓State.spdClr_waits, ↓State.waits_ite,
    ↓ite_self]

theorem State.writeFields_waits (d : RegDef) (a : Nat) (w : Word) :
    (s.writeFields d a w).waits = s.waits := by
  unfold State.writeFields
  simp only [↓State.triggerArm_waits, ↓State.setReg_waits, ↓State.setFld_waits, ↓State.waits_ite, ↓ite_self]

/-! ### Machine/I3c -/

theorem State.answer_waits (bs : List Byte) : (s.answer bs).waits = s.waits :=
  State.waits_of (s.answer_pending ..) (s.answer_commit ..)

theorem State.setDa_waits (da : Nat) : (s.setDa da).waits = s.waits := by
  unfold State.setDa
  simp only [↓State.setBit_waits, ↓State.setFld_waits, ↓State.waits_mk, ↓State.waits_eta]

theorem State.setEvents_waits (ev : Nat) (on : Bool) : (s.setEvents ev on).waits = s.waits := by
  unfold State.setEvents
  simp only [↓State.setBit_waits, ↓State.waits_ite, ↓ite_self]

theorem State.resetDa_waits : s.resetDa.waits = s.waits := by
  unfold State.resetDa
  simp only [↓State.setBit_waits, ↓State.setFld_waits]

theorem State.entDaa_waits (da : Nat) : (s.entDaa da).waits = s.waits := by
  unfold State.entDaa
  simp only [↓State.answer_waits, ↓State.setDa_waits, ↓State.waits_ite, ↓ite_self]

theorem State.setFromStatic_waits (da : Nat) : (s.setFromStatic da).waits = s.waits := by
  unfold State.setFromStatic
  simp only [↓State.setDa_waits, ↓State.waits_ite, ↓ite_self]

theorem State.setNewDa_waits (da : Nat) : (s.setNewDa da).waits = s.waits := by
  unfold State.setNewDa
  simp only [↓State.setDa_waits, ↓State.waits_ite, ↓ite_self]

theorem State.getStatus_waits : s.getStatus.waits = s.waits := by
  unfold State.getStatus
  simp only [↓State.answer_waits, ↓State.waits_mk, ↓State.waits_eta]

theorem State.respond_waits (st : Status) (ws : List Word) : (s.respond st ws).waits = s.waits :=
  State.waits_of (s.respond_pending ..) (s.respond_commit ..)

theorem State.frameError_waits (st : Status) : (s.frameError st).waits = s.waits := by
  unfold State.frameError
  simp only [↓State.bump_waits, ↓State.respond_waits, ↓State.raise_waits, ↓State.waits_mk, ↓State.waits_eta]

theorem State.readWords_waits (a : Nat) (st : Status) (x : Nat) :
    (s.readWords a st x).2.2.waits = s.waits := by
  induction x generalizing s a st with
  | zero => rfl
  | succ n ih =>
    unfold State.readWords
    simp only [↓State.ctlRead_waits, ↓ih]

theorem State.responseRead_waits (pending : Bool) : (s.responseRead pending).waits = s.waits := by
  unfold State.responseRead
  simp only [↓State.answer_waits, ↓State.waits_ite, ↓ite_self]

theorem State.ibi_waits (ack : Bool) : (s.ibi ack).waits = s.waits := by
  unfold State.ibi
  split
  · rfl
  split
  · rfl
  next x _ =>
  extract_lets +onlyGivenNames s1
  have h1 : s1.waits = s.waits := s.answer_waits _
  clear_value s1
  split
  · simp only [↓State.bump_waits, ↓State.waits_mk, ↓State.waits_eta, h1]
  extract_lets +onlyGivenNames s2 _ s3
  have h3 : s3.waits = s.waits := by
    simp only [s3, s2, ↓State.waits_mk, ↓State.waits_eta, ↓State.wrapAdd_waits, h1]
  split <;> simp only [↓State.waits_mk, ↓State.waits_eta, h3]

/-! ### Machine/Sequencer -/

theorem State.setSlot_waits (i : Nat) (w : Word) : (s.setSlot i w).waits = s.waits := by
  unfold State.setSlot
  simp only [↓State.waits_mk, ↓State.waits_eta]

theorem State.clearSlots_waits : s.clearSlots.waits = s.waits := by
  unfold State.clearSlots
  simp only [↓State.waits_mk, ↓State.waits_eta]

theorem State.stepRead_waits (x : SeqStep) : (s.stepRead x).waits = s.waits := by
  unfold State.stepRead
  simp only [↓State.ctlRead_waits, ↓State.setSlot_waits]

theorem State.stepDelta_waits (x : SeqStep) : (s.stepDelta x).waits = s.waits := by
  unfold State.stepDelta
  simp only [↓State.ctlRead_waits, ↓State.setSlot_waits]

theorem State.stepTest_waits (x : SeqStep) : (s.stepTest x).waits = s.waits := by
  unfold State.stepTest
  simp only [↓State.waits_mk, ↓State.waits_eta]

theorem State.stepRecord_waits (p i : Nat) (x : SeqStep) : (s.stepRecord p i x).waits = s.waits := by
  unfold State.stepRecord
  split <;> simp only [↓State.raise_waits]

theorem State.readAll_waits (x : List Nat) : (s.readAll x).2.waits = s.waits := by
  induction x generalizing s with
  | nil => rfl
  | cons a as ih =>
    unfold State.readAll
    simp only [↓State.ctlRead_waits, ↓ih]

theorem State.snapshot_waits : s.snapshot.waits = s.waits := by
  unfold State.snapshot
  simp only [↓State.readAll_waits, ↓State.setReg_waits, ↓State.waits_mk, ↓State.waits_eta]

/-! ### Machine/Test -/

theorem State.retrain_waits (x : LinkId) : (s.retrain x).waits = s.waits := by
  unfold State.retrain
  split <;> simp only [↓State.setBit_waits, ↓State.setFld_waits]

theorem State.setLock_waits (l : PrbsLane) (b : Bool) : (s.setLock l b).waits = s.waits := by
  unfold State.setLock
  split <;> simp only [↓State.setBit_waits]

theorem State.retrainLane_waits (l : PrbsLane) : (s.retrainLane l).waits = s.waits := by
  unfold State.retrainLane
  split <;> simp only [↓State.setLock_waits, ↓State.retrain_waits, ↓State.foldl_waits, implies_true]

theorem State.setTests_waits (loops : List LinkId) (lanes : List PrbsLane) :
    (s.setTests loops lanes).waits = s.waits := by
  unfold State.setTests
  simp only [↓State.retrain_waits, ↓State.retrainLane_waits, ↓State.foldl_waits, implies_true,
    ↓State.waits_mk, ↓State.waits_eta]

theorem State.activateTests_waits : s.activateTests.waits = s.waits := by
  unfold State.activateTests
  simp only [↓State.setTests_waits]

theorem State.endTests_waits : s.endTests.waits = s.waits := by
  unfold State.endTests
  simp only [↓State.setTests_waits]

theorem State.countPrbs_waits (l : PrbsLane) (errors units : Nat) :
    (s.countPrbs l errors units).waits = s.waits := by
  unfold State.countPrbs
  split <;> simp only [↓State.bump_waits, ↓State.waits_ite, ↓ite_self]

theorem State.prbsLock_waits (l : PrbsLane) (errors units : Nat) :
    (s.prbsLock l errors units).waits = s.waits := by
  unfold State.prbsLock
  simp only [↓State.countPrbs_waits, ↓State.setLock_waits, ↓State.waits_ite, ↓ite_self]

theorem State.prbsLoss_waits (l : PrbsLane) (errors units : Nat) :
    (s.prbsLoss l errors units).waits = s.waits := by
  unfold State.prbsLoss
  simp only [↓State.setLock_waits, ↓State.countPrbs_waits, ↓State.waits_ite, ↓ite_self]

theorem State.setTap_waits (op : Nat) (scan : Option Nat) (highZ : Bool) (dr : Nat) :
    (s.setTap op scan highZ dr).waits = s.waits := by
  unfold State.setTap
  simp only [↓State.waits_mk, ↓State.waits_eta]

theorem State.bypass_waits : s.bypass.waits = s.waits := by
  unfold State.bypass
  simp only [↓State.setTap_waits]

theorem State.drive_waits (op sampled data : Nat) : (s.drive op sampled data).waits = s.waits := by
  unfold State.drive
  simp only [↓State.setTap_waits, ↓State.bypass_waits, ↓State.waits_ite, ↓ite_self, ↓State.waits_mk,
    ↓State.waits_eta]

theorem State.samplePreload_waits (sampled data : Nat) : (s.samplePreload sampled data).waits = s.waits := by
  unfold State.samplePreload
  simp only [↓State.setTap_waits, ↓State.waits_mk, ↓State.waits_eta]

/-! ### Machine/Tick -/

theorem State.overrun_waits (e : Running) : (s.overrun e).waits = s.waits := by
  unfold State.overrun
  simp only [↓State.raise_waits, ↓State.voidOuts_waits, ↓State.countBreach_waits]

theorem State.overrunStream_waits (r l : Nat) (t : Stream) : (s.overrunStream r l t).waits = s.waits := by
  unfold State.overrunStream
  simp only [↓State.raise_waits, ↓State.voidBuf_waits, ↓State.countBreach_waits]

theorem State.endLadle_waits (r l : Nat) : (s.endLadle r l).waits = s.waits := by
  unfold State.endLadle
  extract_lets +onlyGivenNames s1
  have h1 : s1.waits = s.waits := by
    unfold s1; split <;> simp only [↓State.endStream_waits, ↓State.setActive_waits,
      ↓State.overrunStream_waits, ↓State.waits_ite, ↓ite_self]
  split <;> simp only [↓State.overrunStream_waits, ↓State.setLadle_waits, ↓State.waits_ite, ↓ite_self, h1]

theorem State.idleEngines_waits : s.idleEngines.waits = s.waits := by
  unfold State.idleEngines
  simp only [↓State.waits_mk, ↓State.waits_eta]

theorem State.endElastic_waits : s.endElastic.waits = s.waits := by
  unfold State.endElastic
  simp only [↓State.endMember_waits, ↓State.foldl_waits, implies_true, ↓State.waits_mk, ↓State.waits_eta]

theorem State.endSlot_waits : s.endSlot.waits = s.waits := by
  unfold State.endSlot
  extract_lets +onlyGivenNames len s1 s2 s3 _ s4 late s5
  have h1 : s1.waits = s.waits := by
    simp only [s1, ↓State.settleSignals_waits, ↓State.reach_waits, ↓State.drainsTo_waits]
  have h2 : s2.waits = s.waits := by
    refine (State.foldl_waits _ (fun s e => ?_) _).trans h1
    split <;> simp only [↓State.stopDrain_waits]
  simp only [s5, s4, s3, ↓State.settleSignals_waits, ↓State.delayedStripe_waits, ↓State.overrun_waits,
    ↓State.endLadle_waits, ↓State.settleTaps_waits, ↓State.endElastic_waits, ↓State.idleEngines_waits,
    ↓State.foldl_waits, implies_true, ↓State.waits_mk, ↓State.waits_eta, h2]

theorem State.abortOverrun_waits (n : Nat) : (s.abortOverrun n).waits = s.waits := by
  unfold State.abortOverrun
  simp only [↓State.abortWhere_waits, ↓State.bump_waits, ↓State.waits_ite, ↓ite_self]

theorem State.dropJob_waits (j : Job) : (s.dropJob j).waits = s.waits := by
  unfold State.dropJob
  simp only [↓State.dropTaster_waits, ↓State.countJob_waits]

theorem State.submit_waits (j : Job) : (s.submit j).waits = s.waits := by
  unfold State.submit
  simp only [↓State.dropJob_waits, ↓State.onHandIn_waits, ↓State.countJob_waits, ↓State.onCtx_waits,
    ↓State.waits_ite, ↓ite_self]

theorem State.submitKind_waits (r kind : Nat) (js : List Job) : (s.submitKind r kind js).waits = s.waits := by
  unfold State.submitKind
  simp only [↓State.dropJob_waits, ↓State.submit_waits, ↓State.foldl_waits, implies_true, ↓State.waits_ite,
    ↓ite_self]

theorem State.takeRing_waits (r a : Nat) : (s.takeRing r a).waits = s.waits := by
  unfold State.takeRing
  simp only [↓State.countVoidIn_waits, ↓State.submitKind_waits, ↓State.submit_waits, ↓State.foldl_waits,
    implies_true, ↓State.waits_ite, ↓ite_self, ↓State.waits_mk, ↓State.waits_eta]

theorem State.takeJobs_waits : s.takeJobs.waits = s.waits := by
  unfold State.takeJobs
  simp only [↓State.takeRing_waits, ↓State.foldl_waits, implies_true]

theorem State.setFrame_waits (t : Nat) : (s.setFrame t).waits = s.waits := by
  unfold State.setFrame
  simp only [↓State.setReg_waits]

theorem State.superseded_waits (v n : Nat) : (s.superseded v n).waits = s.waits := by
  unfold State.superseded
  simp only [↓State.raise_waits]

theorem State.exactBegins_waits : s.exactBegins.waits = s.waits := by
  unfold State.exactBegins
  simp only [↓State.abortJobs_waits, ↓State.foldl_waits, implies_true, ↓State.waits_ite, ↓ite_self]

theorem State.autoPromote_waits : s.autoPromote.waits = s.waits := by
  unfold State.autoPromote
  simp only [↓State.promote_waits, ↓State.waits_ite, ↓ite_self]

theorem State.measurePower_waits (mean : Nat) : (s.measurePower mean).waits = s.waits := by
  unfold State.measurePower
  simp only [↓State.setFld_waits, ↓State.raiseIf_waits]

theorem State.setEstimates_waits (es : List (Nat × Word × Word)) : (s.setEstimates es).waits = s.waits := by
  unfold State.setEstimates
  simp only [↓State.setReg_waits, ↓State.foldl_waits, implies_true]

theorem State.promoteStep_waits (x : TickInput) : (s.promoteStep x).waits = s.waits := by
  unfold State.promoteStep
  simp only [↓State.startSave_waits, ↓State.autoPromote_waits, ↓State.tasterEpoch_waits,
    ↓State.openGates_waits, ↓State.setReg_waits, ↓State.measurePower_waits, ↓State.waits_ite, ↓ite_self]

theorem State.gainDeficits_waits : s.gainDeficits.waits = s.waits := by
  unfold State.gainDeficits
  simp only [↓State.setDeficit_waits, ↓State.foldl_waits, implies_true, ↓State.waits_ite, ↓ite_self]

theorem State.checkLeave_waits : s.checkLeave.waits = s.waits := by
  unfold State.checkLeave
  simp only [↓State.raiseIf_waits, ↓State.foldl_waits, implies_true]

theorem State.voidNewSlot_waits : s.voidNewSlot.waits = s.waits := by
  unfold State.voidNewSlot
  simp only [↓State.voidRegion_waits, ↓State.voidIdleEntries_waits, ↓State.suspectSlot_waits,
    ↓State.foldl_waits, implies_true, ↓State.waits_ite, ↓ite_self, ↓State.waits_mk, ↓State.waits_eta]

theorem State.takeHandIns_waits (n : Nat) : (s.takeHandIns n).waits = s.waits := by
  unfold State.takeHandIns
  simp only [↓State.bump_waits, ↓State.waits_mk, ↓State.waits_eta]

theorem State.intake_waits (n : Nat) : (s.intake n).waits = s.waits := by
  unfold State.intake
  simp only [↓State.abortOverrun_waits, ↓State.takeJobs_waits, ↓State.waits_ite, ↓ite_self]

theorem State.tickMismatch_waits (rs : List Nat) : (s.tickMismatch rs).waits = s.waits := by
  unfold State.tickMismatch
  simp only [↓State.raise_waits, ↓State.fenceFault_waits, ↓State.foldl_waits, implies_true]

theorem State.resumePlane_waits : s.resumePlane.waits = s.waits := by
  unfold State.resumePlane
  simp only [↓State.setReg_waits, ↓State.raise_waits, ↓State.endTests_waits, ↓State.voidNewSlot_waits,
    ↓State.showPlan_waits, ↓State.waits_mk, ↓State.waits_eta]

end

end Sys2Proof.Machine
end

section
/-! SUPPORT. What waits after a function of the model that changes the commit unit: only registers with a staged field,
if it was so before (R13, R587, R591). -/

namespace Sys2Proof

theorem SMap.forall_mem_write {α : Type} [DecidableEq α] {p : Nat → Prop} {d : α} {m : SMap α} {k : Nat} {v : α}
    (hm : ∀ e ∈ m, p e.1) (hk : p k) : ∀ e ∈ SMap.write d m k v, p e.1 := by
  have hi : ∀ m : SMap α, (∀ e ∈ m, p e.1) → ∀ e ∈ SMap.insert m k v, p e.1 := by
    intro m
    induction m with
    | nil => intro _; simpa [SMap.insert] using hk
    | cons e m ih =>
      intro hm
      have ⟨he, hm⟩ := List.forall_mem_cons.mp hm
      unfold SMap.insert
      split
      · exact List.forall_mem_cons.mpr ⟨hk, List.forall_mem_cons.mpr ⟨he, hm⟩⟩
      · split
        · exact List.forall_mem_cons.mpr ⟨hk, hm⟩
        · exact List.forall_mem_cons.mpr ⟨he, ih hm⟩
  unfold SMap.write
  split
  · exact fun e he => hm e (List.mem_of_mem_filter he)
  · exact hi m hm

end Sys2Proof

namespace Sys2Proof.Machine

open Sys2Proof

/-- Only staged registers are staged or wait for their epoch tick (R587): `State.stagedOnly` of a commit unit. -/
def CommitUnit.stagedOnly (c : CommitUnit) : Bool :=
  (c.shadow.all fun e => stagedKey e.1) && c.waiting.all fun a => stagedKey a.key

/-- What waits later, `p`, follows what waited before, `q`: no command has left the queue or come to it, and only
staged registers wait in the commit unit if it was so before. -/
def Follows (q p : List Instr × CommitUnit) : Prop :=
  p.1 = q.1 ∧ (q.2.stagedOnly = true → p.2.stagedOnly = true)

theorem CommitUnit.stagedOnly_iff (c : CommitUnit) : c.stagedOnly = true ↔
    (∀ e ∈ c.shadow, stagedKey e.1 = true) ∧ ∀ a ∈ c.waiting, stagedKey a.key = true := by
  simp only [CommitUnit.stagedOnly, Bool.and_eq_true, List.all_eq_true]

theorem CommitUnit.stagedOnly_empty : ({} : CommitUnit).stagedOnly = true := rfl

section
variable (s : State) {q : List Instr × CommitUnit}

theorem State.follows_self : Follows s.waits s.waits := ⟨rfl, id⟩

theorem Follows.of_eq {p p' : List Instr × CommitUnit} (h : Follows q p) (e : p' = p) : Follows q p' := e ▸ h

/-- A state whose commit unit has become `c` follows what came before if `c` keeps to staged registers where the
present one does. -/
theorem Follows.commit {p : List Instr} {k c : CommitUnit} (h : Follows q (p, k))
    (hc : k.stagedOnly = true → c.stagedOnly = true) : Follows q (p, c) :=
  ⟨h.1, fun hq => hc (h.2 hq)⟩

theorem State.follows_foldl {β : Type} {f : State → β → State}
    (hf : ∀ (s : State) b, Follows q s.waits → Follows q (f s b).waits) (l : List β) (h : Follows q s.waits) :
    Follows q (l.foldl f s).waits := by
  induction l generalizing s with
  | nil => exact h
  | cons b l ih => exact ih _ (hf s b h)

theorem follows_ite {c : Prop} [Decidable c] {a b : State} (ha : c → Follows q a.waits) (hb : ¬c → Follows q b.waits) :
    Follows q (if c then a else b).waits := by
  split
  · exact ha ‹_›
  · exact hb ‹_›

theorem State.managed_follows {f : State → State} (h : Follows q s.waits)
    (hf : Follows q s.waits → Follows q (f s).waits) :
    Follows q (s.managed f).waits := by
  unfold State.managed
  split
  exacts [h, hf h]

theorem State.takeRequest_follows (k : Nat) {f : State → State} (h : Follows q s.waits)
    (hf : ∀ s : State, Follows q s.waits → Follows q (f s).waits) : Follows q (s.takeRequest k f).waits := by
  unfold State.takeRequest
  split
  exacts [hf _ h, h]

theorem State.takeRegion_follows (k : Nat) {f : Nat → State → State} (h : Follows q s.waits)
    (hf : ∀ r (s : State), Follows q s.waits → Follows q (f r s).waits) : Follows q (s.takeRegion k f).waits := by
  unfold State.takeRegion
  split
  · exact hf _ _ (h.of_eq (s.setFld_waits ..))
  · exact h

/-! ## The commit unit -/

/-- Staging one more register with a staged field keeps the commit unit to staged registers. -/
theorem CommitUnit.stagedOnly_write {c : CommitUnit} {k : Nat} (x : Staged) (hk : stagedKey k = true)
    (h : c.stagedOnly = true) : CommitUnit.stagedOnly { c with shadow := SMap.write {} c.shadow k x } = true := by
  rw [CommitUnit.stagedOnly_iff] at h ⊢
  exact ⟨SMap.forall_mem_write (p := fun k => stagedKey k = true) h.1 hk, h.2⟩

theorem State.stage_follows (k : Nat) (mask val : Word) (hk : stagedKey k = true) (h : Follows q s.waits) :
    Follows q (s.stage k mask val).waits :=
  h.commit (CommitUnit.stagedOnly_write _ hk)

theorem State.dropStaged_follows (r : Nat) (h : Follows q s.waits) : Follows q (s.dropStaged r).waits := by
  refine h.commit fun hc => ?_
  rw [CommitUnit.stagedOnly_iff] at hc ⊢
  exact ⟨fun e he => hc.1 e (List.mem_of_mem_filter he), fun a ha => hc.2 a (List.mem_of_mem_filter ha)⟩

theorem State.discard_follows (mask : Nat) (h : Follows q s.waits) : Follows q (s.discard mask).waits := by
  refine h.commit fun hc => ?_
  rw [CommitUnit.stagedOnly_iff] at hc ⊢
  exact ⟨fun e he => hc.1 e (List.mem_of_mem_filter he), hc.2⟩

/-- A channel's staged register has a staged field (R135). -/
theorem stagedKey_channel (k : Nat) (zp : Bool) :
    stagedKey (winKey k (if zp then Reg.FMT_CHZP else Reg.FMT_CHCFG)) = true := by
  have hmod (a : Nat) (ha : a < 2 ^ 32) : winKey k a % 2 ^ 32 = a := by
    unfold winKey
    omega
  cases zp
  · rw [stagedKey, hmod _ (by decide)]
    decide
  · rw [stagedKey, hmod _ (by decide)]
    decide

theorem State.stageChannel_follows (zp : Bool) (value : Nat) (h : Follows q s.waits) :
    Follows q (s.stageChannel zp value).waits := by
  unfold State.stageChannel
  split
  · exact h
  next k _ =>
    extract_lets
    refine follows_ite (fun _ => ?_) fun _ => ?_
    · rwa [State.setBit_waits]
    · exact h.commit (CommitUnit.stagedOnly_write _ (stagedKey_channel k zp))

/-- A group that a commit accepts moves from the staged registers to those that wait. -/
theorem CommitUnit.stagedOnly_accept {c : CommitUnit} (g due : Nat) (h : c.stagedOnly = true) :
    CommitUnit.stagedOnly
      { shadow := c.shadow.drop fun k => groupOf k == g
        waiting := c.waiting ++ (c.shadow.filter fun e => groupOf e.1 == g).map fun e => ⟨due, e.1, e.2⟩ } = true := by
  rw [CommitUnit.stagedOnly_iff] at h ⊢
  refine ⟨fun e he => h.1 e (List.mem_of_mem_filter he), List.forall_mem_append.mpr ⟨h.2, ?_⟩⟩
  intro a ha
  obtain ⟨e, he, rfl⟩ := List.mem_map.mp ha
  exact h.1 e (List.mem_of_mem_filter he)

theorem State.judgeGroup_follows (g : Nat) (h : Follows q s.waits) : Follows q (s.judgeGroup g).waits := by
  unfold State.judgeGroup
  split
  next =>
    simpa only [↓State.setBit_waits, ↓State.bump_waits, ↓State.setReg_waits, ↓State.raise_waits,
      ↓State.waits_ite, ↓ite_self]
  next =>
    extract_lets s1 due s2 mine s3
    have h2 : s2.waits = s.waits := by simp only [s2, s1, ↓State.setBit_waits, ↓State.bump_waits,
      ↓State.setReg_waits]
    have h3 : Follows q s3.waits := (h2 ▸ h : Follows q s2.waits).commit (CommitUnit.stagedOnly_accept g due)
    refine follows_ite (fun _ => ?_) fun _ => h3
    rwa [State.notify_waits]

theorem State.doCommit_follows (mask : Nat) (h : Follows q s.waits) : Follows q (s.doCommit mask).waits := by
  unfold State.doCommit
  refine follows_ite (fun _ => h) fun _ => ?_
  rw [State.announce_waits]
  refine State.follows_foldl _ (fun s g h => ?_) _ (h.of_eq (s.zeroRegs_waits _))
  exact follows_ite (fun _ => s.judgeGroup_follows g h) fun _ => h

theorem State.applyCommits_follows (n : Nat) (h : Follows q s.waits) : Follows q (s.applyCommits n).waits := by
  unfold State.applyCommits
  extract_lets _ _ s1 s2
  have h1 : Follows q s1.waits := h.commit fun hc => by
    rw [CommitUnit.stagedOnly_iff] at hc ⊢
    exact ⟨hc.1, fun a ha => hc.2 a (List.mem_of_mem_filter ha)⟩
  simpa only [↓s2, ↓State.applyOne_waits, ↓State.foldl_waits, implies_true, ↓State.setFld_waits,
    ↓State.waits_ite, ↓ite_self]

theorem State.endRequest_follows (n : Nat) (h : Follows q s.waits) : Follows q (s.endRequest n).waits := by
  refine h.commit fun hc => ?_
  rw [CommitUnit.stagedOnly_iff] at hc ⊢
  refine ⟨hc.1, fun a ha => ?_⟩
  obtain ⟨b, hb, rfl⟩ := List.mem_map.mp ha
  rw [apply_ite Accepted.key]
  exact (ite_self _).symm ▸ hc.2 b hb

theorem stagedKey_switchRequest : stagedKey Reg.SPL_SWREQ = true := by decide

theorem State.switchRequest_follows (v : Nat) (h : Follows q s.waits) : Follows q (s.switchRequest v).waits :=
  State.doCommit_follows _ _ (s.stage_follows _ _ _ stagedKey_switchRequest h)

/-! ## Regions and power -/

theorem State.clearRegion_follows (r : Nat) (keep : Nat → Bool) (h : Follows q s.waits) :
    Follows q (s.clearRegion r keep).waits := by
  unfold State.clearRegion
  rw [State.imageRegion_waits]
  refine State.dropStaged_follows _ r ?_
  simpa only [↓State.waits_mk, ↓State.waits_eta, ↓State.waits_ite, ↓ite_self]

theorem State.regionOff_follows (r : Nat) (h : Follows q s.waits) : Follows q (s.regionOff r).waits := by
  unfold State.regionOff
  rw [State.setDomains_waits]
  exact State.clearRegion_follows _ r _ (h.of_eq (s.closeGate_waits ..))

theorem State.trimUnused_follows (h : Follows q s.waits) : Follows q s.trimUnused.waits := by
  refine s.follows_foldl (fun s r h => ?_) _ h
  exact follows_ite (fun _ => h) fun _ => s.regionOff_follows r h

theorem State.install_follows (v cause n f : Nat) (h : Follows q s.waits) :
    Follows q (s.install v cause n f).waits := by
  unfold State.install
  extract_lets u new cold s1 s2 s3 s4 s5 s6 sr _ s7 s8 s9
  have h4 : s4.waits = s.waits := by
    simp only [s1, s2, s3, s4, ↓State.loadTables_waits, ↓State.setFld_waits, ↓State.setReg_waits,
      ↓State.bump_waits, ↓State.waits_ite, ↓ite_self]
  have h6 : s6.waits = s.waits := by
    simp only [s6, s5]
    split <;> simp only [↓State.setFld_waits, h4]
  have h8 : Follows q s8.waits := by
    simpa only [s7, s8, sr, ↓State.abortWhere_waits, ↓State.waits_mk, ↓State.raise_waits, ↓State.waits_eta,
      ↓State.waits_ite, ↓ite_self, h6]
  refine follows_ite (fun _ => ?_) fun _ => h8
  have h9 : Follows q s9.waits := State.trimUnused_follows _ h8
  refine follows_ite (fun _ => h9) fun _ => ?_
  rwa [State.setFld_waits]

theorem State.installNow_follows (v : Nat) (h : Follows q s.waits) : Follows q (s.installNow v).waits := by
  unfold State.installNow
  rw [State.showPlan_waits]
  exact s.install_follows _ _ _ _ h

/-- Every region is switched off, one after the other. -/
theorem State.allOff_follows (h : Follows q s.waits) :
    Follows q ((List.range 13).foldl (fun s r => s.regionOff r) s).waits :=
  s.follows_foldl (fun s r h => s.regionOff_follows r h) _ h

theorem State.tripOff_follows (h : Follows q s.waits) : Follows q s.tripOff.waits := by
  unfold State.tripOff
  refine follows_ite (fun _ => h) fun _ => ?_
  simp only [↓State.setBit_waits, ↓State.foldl_waits, implies_true]
  refine State.allOff_follows _ ?_
  simpa only [↓State.waits_mk, ↓State.waits_eta]

theorem State.regionReset_follows (h : Follows q s.waits) : Follows q s.regionReset.waits := by
  unfold State.regionReset
  refine s.takeRegion_follows 1 h fun r s h => ?_
  simp only [↓State.waits_mk, ↓State.waits_eta]
  exact State.clearRegion_follows _ r _ (h.of_eq (s.closeGate_waits ..))

theorem State.regionDown_follows (h : Follows q s.waits) : Follows q s.regionDown.waits := by
  unfold State.regionDown
  exact s.takeRegion_follows 2 h fun r s h => s.regionOff_follows r h

theorem State.trimRequest_follows (h : Follows q s.waits) : Follows q s.trimRequest.waits := by
  unfold State.trimRequest
  refine s.takeRequest_follows 1 h fun s h => follows_ite (fun _ => ?_) fun _ => h
  rw [State.setPowerState_waits]
  exact s.trimUnused_follows h

/-- The regions that Doze switches off, one after the other. -/
theorem State.dozeOff_follows (h : Follows q s.waits) (l : List Nat) :
    Follows q (l.foldl (fun s r =>
      ((s.closeGate r 0x030A).clearRegion r (s.retained r)).setDomains r false) s).waits := by
  refine s.follows_foldl (fun s r h => ?_) _ h
  rw [State.setDomains_waits]
  exact State.clearRegion_follows _ r _ (h.of_eq (s.closeGate_waits ..))

theorem State.doze_follows (h : Follows q s.waits) : Follows q s.doze.waits := by
  unfold State.doze
  refine s.takeRequest_follows 2 h fun s h => follows_ite (fun _ => h) fun _ => ?_
  simp only [↓State.waits_mk, ↓State.waits_eta, ↓State.setPowerState_waits]
  refine State.dozeOff_follows _ ?_ _
  simpa only [↓State.waits_mk, ↓State.stopPlane_waits, ↓State.voidRegion_waits, ↓State.abortWhere_waits,
    ↓State.foldl_waits, implies_true, ↓State.waits_eta] using h

theorem State.keep_follows (h : Follows q s.waits) : Follows q s.keep.waits := by
  unfold State.keep
  refine s.takeRequest_follows 3 h fun s h => follows_ite (fun _ => h) fun _ => ?_
  extract_lets +onlyGivenNames now regs _ s1 s2 _ s3 s4 s5 _ s6
  have h1 : Follows q s1.waits := by
    simpa only [s1, ↓State.waits_mk, ↓State.waits_eta] using h
  have h2 : Follows q s2.waits := State.allOff_follows _ h1
  have h5 : s5.waits = s2.waits := by
    simp only [s3, s4, s5, ↓State.setFld_waits, ↓State.setPowerState_waits, ↓State.setReg_waits,
      ↓State.waits_mk, ↓State.waits_eta]
  clear_value s5
  have h6 : Follows q s6.waits := by
    simpa only [s6, ↓State.waits_mk, ↓State.waits_eta, h5] using h2
  clear_value s6
  refine follows_ite (fun _ => ?_) fun _ => h6
  simpa only [↓State.wakeSource_waits, ↓State.waits_mk, ↓State.waits_eta] using h6

/-! ## The pair of devices -/

theorem State.exchangeRoles_follows (h : Follows q s.waits) : Follows q s.exchangeRoles.waits := by
  unfold State.exchangeRoles
  refine State.installNow_follows _ _ ?_
  simpa only [↓State.setLive_waits, ↓State.waits_mk, ↓State.waits_eta] using h

theorem State.roleSwap_follows (h : Follows q s.waits) : Follows q s.roleSwap.waits := by
  unfold State.roleSwap
  split
  · exact follows_ite (fun _ => s.exchangeRoles_follows h) fun _ => h
  · exact h

theorem State.takeOver_follows (v : Nat) (h : Follows q s.waits) : Follows q (s.takeOver v).waits := by
  unfold State.takeOver
  simp only [↓State.raise_waits, ↓State.bump_waits]
  exact State.installNow_follows _ v (h.of_eq (s.setLive_waits true))

theorem State.actOnLoss_follows (row : Nat) (h : Follows q s.waits) : Follows q (s.actOnLoss row).waits := by
  unfold State.actOnLoss
  extract_lets +onlyGivenNames live loss s1 _ s2
  have h2 : Follows q s2.waits := by
    simpa only [s2, s1, ↓State.setTwinState_waits, ↓State.setBit_waits, ↓State.waits_mk, ↓State.waits_eta]
      using h
  have hstop : Follows q s2.stopPlane.waits := h2.of_eq s2.stopPlane_waits
  split
  · split
    · exact h2
    · split
      · exact hstop
      · exact s2.takeOver_follows _ h2
  · split
    · exact hstop
    · exact s2.takeOver_follows _ h2

theorem State.takeover_follows (h : Follows q s.waits) : Follows q s.takeover.waits := by
  unfold State.takeover
  refine follows_ite (fun _ => h) fun _ => ?_
  split
  · refine follows_ite (fun _ => ?_) fun _ => h
    rw [State.raise_waits]
    exact s.actOnLoss_follows _ h
  · split
    · exact follows_ite (fun _ => s.actOnLoss_follows _ h) fun _ => h
    · exact h

theorem State.swapRoles_follows (h : Follows q s.waits) : Follows q s.swapRoles.waits := by
  unfold State.swapRoles
  have h1 := h.of_eq (s.setBit_waits Reg.TWN_CTL 2 false)
  exact follows_ite (fun _ => h) fun _ => follows_ite (fun _ => h1) fun _ => State.exchangeRoles_follows _ h1

theorem State.transferStart_follows (h : Follows q s.waits) : Follows q s.transferStart.waits := by
  unfold State.transferStart
  split
  · exact h
  · refine follows_ite (fun _ => h) fun _ => follows_ite (fun _ => ?_) fun _ => ?_
    · refine follows_ite (fun _ => h) fun _ => ?_
      extract_lets +onlyGivenNames s1 s2 _ _ s3
      have h3 : Follows q s3.waits := by
        simpa only [s1, s2, s3, ↓State.setTwinState_waits, ↓State.abortWhere_waits, ↓State.setStandby_waits,
          ↓State.waits_mk, ↓State.waits_eta] using h
      clear_value s3
      split
      · exact s3.installNow_follows _ h3
      · exact h3
    · extract_lets +onlyGivenNames s1
      have h1 : s1.waits = s.waits := by
        simp only [s1]
        split <;> simp only [↓State.setReg_waits]
      simpa only [↓State.setTwinState_waits, ↓State.waits_mk, ↓State.waits_eta, h1] using h

theorem State.join_follows (x : Transferred) (h : Follows q s.waits) : Follows q (s.join x).waits := by
  unfold State.join
  split
  · exact h
  · refine follows_ite (fun _ => h) fun _ => ?_
    extract_lets +onlyGivenNames sa sb _ _ s1 s2 _ s3
    have h1 : Follows q s1.waits := by
      simpa only [sa, sb, s1, ↓State.takeTransferred_waits, ↓State.setReg_waits, ↓State.waits_mk,
        ↓State.waits_eta, ↓State.waits_ite, ↓ite_self] using h
    clear_value s1
    have h3 : Follows q s3.waits := by
      simpa only [s2, s3, ↓State.setTwinState_waits, ↓State.setReg_waits, ↓State.waits_mk, ↓State.waits_eta]
        using h1
    clear_value s3
    refine follows_ite (fun _ => h3.of_eq (s3.setVariant_waits _)) fun _ => ?_
    exact follows_ite (fun _ => h3) fun _ => s3.installNow_follows _ h3

theorem State.endAttach_follows (h : Follows q s.waits) : Follows q s.endAttach.waits := by
  unfold State.endAttach
  extract_lets +onlyGivenNames s1 back running was _ s2 s3
  have h2 : Follows q s2.waits := by
    simpa only [s1, s2, ↓State.raise_waits, ↓State.waits_mk, ↓State.waits_eta] using h
  have h3 : Follows q s3.waits := h2.of_eq (s2.setTwinState_waits _)
  refine follows_ite (fun _ => ?_) fun _ => h2.of_eq (s2.setTwinState_waits _)
  exact follows_ite (fun _ => s3.installNow_follows _ h3) fun _ => h3

theorem State.abortNotice_follows (h : Follows q s.waits) : Follows q s.abortNotice.waits :=
  follows_ite (fun _ => s.endAttach_follows h) fun _ => h

theorem State.attachAborted_follows (h : Follows q s.waits) : Follows q s.attachAborted.waits := by
  unfold State.attachAborted
  refine follows_ite (fun _ => ?_) fun _ => h
  rw [State.notify_waits]
  exact s.endAttach_follows h

/-! ## Reset and start -/

theorem State.hardReset_follows (h : Follows q s.waits) : Follows q s.hardReset.waits := by
  simp only [State.hardReset, ↓State.waits_mk]
  exact h.commit fun _ => CommitUnit.stagedOnly_empty

theorem State.loadSlot_follows (b : BootRecord) (k : Nat) (h : Follows q s.waits) :
    Follows q (s.loadSlot b k).1.waits := by
  unfold State.loadSlot
  extract_lets +onlyGivenNames base c _ s1 sa _ sb s2
  have h1 : Follows q s1.waits := by
    simpa only [s1, ↓State.waits_mk, ↓State.waits_eta] using h
  clear_value s1
  split
  · exact h1
  have h2 : Follows q s2.waits := by
    simpa only [sa, sb, s2, ↓State.selfTestStep_waits, ↓State.stepDone_waits, ↓State.setFld_waits,
      ↓State.waits_mk, ↓State.waits_eta, ↓State.waits_ite, ↓ite_self] using h1
  clear_value s2
  split
  · exact h2
  split
  · exact h2.of_eq (s2.failSlot_waits ..)
  next =>
    extract_lets +onlyGivenNames xs _ s3 s4 s5 s6 s7 s8 _ s9
    have h3 : Follows q s3.waits := h2.commit fun _ => CommitUnit.stagedOnly_empty
    clear_value s3
    have h5 : Follows q s5.waits := by
      simpa only [s4, s5, ↓State.loadSection_waits, ↓State.foldl_waits, implies_true, ↓State.applyImage_waits,
        ↓State.restoreSaved_waits, ↓State.selectVariant_waits] using h3
    clear_value s5
    have h6 : Follows q s6.waits := h5.of_eq (s5.stepDone_waits _)
    clear_value s6
    split
    · exact h5
    · split
      · exact h6
      · simpa only [s7, s8, s9, ↓State.hbmPut_waits, ↓State.foldl_waits, implies_true,
          ↓State.applyWeights_waits, ↓State.stepDone_waits, ↓State.advance_waits, ↓State.waits_mk,
          ↓State.waits_eta] using h6

theorem State.trySlot_follows (b : BootRecord) (k n : Nat) (h : Follows q s.waits) :
    Follows q (s.trySlot b k n).waits := by
  induction n generalizing s k with
  | zero => exact h.of_eq s.refuseImage_waits
  | succ n ih =>
    unfold State.trySlot
    extract_lets +onlyGivenNames s1 _ s2 _ s3 s4
    have h3 : Follows q s3.waits := by
      simpa only [s1, s2, s3, ↓State.setFld_waits, ↓State.waits_mk, ↓State.waits_eta] using h
    clear_value s3
    have h4 : Follows q s4.waits := h3.of_eq (s3.stepDone_waits _)
    clear_value s4
    refine follows_ite (fun _ => h3) fun _ => follows_ite (fun _ => ?_) fun _ => follows_ite (fun _ => h4) fun _ => ?_
    · exact ih _ _ (h3.of_eq (s3.failSlot_waits ..))
    · split
      · exact ih _ _ (h4.of_eq (s4.failSlot_waits ..))
      · have h5 := State.loadSlot_follows _ b k (h4.of_eq (s4.stepDone_waits 6))
        exact follows_ite (fun _ => h5) fun _ => ih _ _ h5

theorem State.bootFrom_follows (h : Follows q s.waits) : Follows q s.bootFrom.waits := by
  unfold State.bootFrom
  split
  · simpa only [↓State.refuseImage_waits, ↓State.setReg_waits, ↓State.waits_mk, ↓State.waits_eta] using h
  · exact s.trySlot_follows _ _ _ h

theorem State.afterStraps_follows (h : Follows q s.waits) : Follows q s.afterStraps.waits := by
  unfold State.afterStraps
  extract_lets +onlyGivenNames _ s1
  have h1 : Follows q s1.waits := by simpa only [s1, ↓State.waits_mk, ↓State.waits_eta] using h
  refine follows_ite (fun _ => ?_) fun _ => follows_ite (fun _ => ?_) fun _ => ?_
  · simpa only [↓State.waits_mk, ↓State.waits_eta] using h
  · exact h1.of_eq s1.mgmtOnly_waits
  · exact s1.bootFrom_follows h1

theorem State.powerOn_follows (x : StartInput) (bor : Bool) (h : Follows q s.waits) :
    Follows q (s.powerOn x bor).waits := by
  unfold State.powerOn
  extract_lets +onlyGivenNames s0 s1 sb _ s2 s3 s4 s5
  have h3 : Follows q s3.waits := by
    simpa only [s0, s1, sb, s2, s3, ↓State.setReg_waits, ↓State.boardFlash_waits, ↓State.waits_mk,
      ↓State.waits_eta]
      using s.hardReset_follows h
  clear_value s3
  have h4 : Follows q s4.waits := by
    simpa only [s4, ↓State.stepDone_waits, ↓State.setReg_waits] using h3
  have h5 : Follows q s5.waits := h4.of_eq (s4.stepDone_waits 2)
  refine follows_ite (fun _ => h3) fun _ => follows_ite (fun _ => h4) fun _ => follows_ite (fun _ => h5) fun _ => ?_
  refine State.afterStraps_follows _ ?_
  simpa only [↓State.stepDone_waits, ↓State.strapStep_waits, ↓State.identityStep_waits] using h5

theorem State.wakeStart_follows (x : StartInput) (us : Nat) (h : Follows q s.waits) :
    Follows q (s.wakeStart x us).waits := by
  unfold State.wakeStart
  refine State.bootFrom_follows _ ?_
  simpa only [↓State.setFld_waits, ↓State.setReg_waits, ↓State.setBit_waits, ↓State.setPowerState_waits,
    ↓State.boardFlash_waits, ↓State.foldl_waits, implies_true, ↓State.waits_mk, ↓State.waits_eta] using h

theorem State.stepTimeout_follows (stack : Nat) (h : Follows q s.waits) :
    Follows q (s.stepTimeout stack).waits := by
  unfold State.stepTimeout
  extract_lets +onlyGivenNames k _ _ s1
  have h1 : Follows q s1.waits := by simpa only [s1, ↓State.waits_mk, ↓State.waits_eta] using h
  clear_value s1
  refine follows_ite (fun _ => h1) fun _ => follows_ite (fun _ => ?_) fun _ => follows_ite (fun _ => ?_) fun _ =>
    follows_ite (fun _ => ?_) fun _ => follows_ite (fun _ => ?_) fun _ => h1
  · simpa only [↓State.waits_mk, ↓State.waits_eta] using h1
  · split
    · exact h1
    · exact State.trySlot_follows _ _ _ _ (h1.of_eq (s1.failSlot_waits ..))
  · simpa only [↓State.mgmtOnly_waits, ↓State.raise_waits, ↓State.waits_mk, ↓State.waits_eta] using h1
  · simpa only [↓State.mgmtOnly_waits, ↓State.raise_waits] using h1

theorem State.readySignal_follows (region : Option Nat) (us : Nat) (x : StartInput) (h : Follows q s.waits) :
    Follows q (s.readySignal region us x).waits := by
  unfold State.readySignal
  split
  next r =>
    split
    · exact h
    · extract_lets +onlyGivenNames rest s1 s2
      have h1 : Follows q s1.waits := by
        simpa only [s1, ↓State.setDomains_waits, ↓State.waits_ite, ↓ite_self] using h
      have h2 : Follows q s2.waits := follows_ite (fun _ => s1.clearRegion_follows r _ h1) fun _ => h1
      clear_value s2
      simpa only [↓State.waits_mk, ↓State.waits_eta, ↓State.waits_ite, ↓ite_self] using h2
  · split
    · exact h
    next back k _ =>
      extract_lets +onlyGivenNames s1
      have h1 : Follows q s1.waits := by
        simpa only [s1, ↓State.setDomains_waits, ↓State.foldl_waits, implies_true, ↓State.waits_ite,
          ↓ite_self] using h
      clear_value s1
      extract_lets +onlyGivenNames _ s2
      have h2 : Follows q s2.waits := by simpa only [s2, ↓State.waits_mk, ↓State.waits_eta] using h1
      refine follows_ite (fun _ => ?_) fun _ => follows_ite (fun _ => s2.wakeStart_follows x us h2) fun _ => ?_
      · simpa only [↓State.waits_mk, ↓State.waits_eta] using h1
      · clear_value s2
        simpa only [↓State.setReg_waits, ↓State.setPowerState_waits, ↓State.waits_mk, ↓State.waits_eta,
          ↓State.waits_ite, ↓ite_self] using h2

/-! ## The control space -/

theorem State.writeEffect_follows (a : Nat) (w : Word) (h : Follows q s.waits) :
    Follows q (s.writeEffect a w).waits := by
  unfold State.writeEffect
  refine follows_ite (fun _ => s.doCommit_follows _ h) fun _ => follows_ite (fun _ => s.discard_follows _ h) fun _ => ?_
  refine h.of_eq ?_
  cases regionOfAddr a <;> simp only [↓State.pageWrite_waits, ↓State.nvmCommand_waits, ↓whenBit_waits,
    ↓State.attGo_waits, ↓State.wakeNow_waits, ↓State.popRecord_waits, ↓State.spnCntclr_waits,
    ↓State.detClr_waits, ↓State.fmtClr_waits, ↓State.grdClr_waits, ↓State.elsClr_waits, ↓State.wgtClr_waits,
    ↓State.schClr_waits, ↓State.radClr_waits, ↓State.radPrbsClr_waits, ↓State.netClr_waits,
    ↓State.netPrbsClr_waits, ↓State.cdcClr_waits, ↓State.memClr_waits, ↓State.twnClr_waits,
    ↓State.twnPrbsClr_waits, ↓State.mgtClr_waits, ↓State.fltClr_waits, ↓State.lgrClr_waits,
    ↓State.pwrClr_waits, ↓State.clkClr_waits, ↓State.secClr_waits, ↓State.clearCompute_waits,
    ↓State.waits_ite, ↓ite_self]

/-- How far a register reaches past its base address, all its places counted. -/
def RegDef.extent (d : RegDef) : Nat := (d.dims.head?.map fun x => x.1 * x.2).getD 1

theorem RegDef.lt_of_covers {d : RegDef} {a : Nat} (h : d.covers a = true) (hd : ∀ x ∈ d.dims, x.1 ≠ 0) :
    a < d.base + d.extent := by
  unfold RegDef.covers at h
  unfold RegDef.extent
  obtain ⟨hb, hi⟩ := Bool.and_eq_true_iff.mp h
  have hb := of_decide_eq_true hb
  cases hds : d.dims with
  | nil =>
    rw [hds, instanceAt, beq_iff_eq] at hi
    simp only [List.head?_nil, Option.map_none, Option.getD_none]
    omega
  | cons x ds =>
    rw [hds, instanceAt, Bool.and_eq_true, decide_eq_true_iff] at hi
    have hlt := (Nat.div_lt_iff_lt_mul (Nat.pos_of_ne_zero (hd x (hds ▸ List.mem_cons_self)))).mp hi.1
    simp only [List.head?_cons, Option.map_some, Option.getD_some]
    rw [Nat.mul_comm] at hlt
    omega

/-- Every register of the table lies below 2 ^ 32. -/
theorem regTable_lt : ∀ d ∈ regTable, (∀ x ∈ d.dims, x.1 ≠ 0) ∧ d.base + d.extent ≤ 2 ^ 32 := by
  decide +kernel

theorem findReg_lt {a : Nat} {d : RegDef} (h : findReg a = some d) : a < 2 ^ 32 := by
  unfold findReg at h
  have ⟨hd, hle⟩ := regTable_lt d (List.mem_of_find?_eq_some h)
  have := d.lt_of_covers (List.find?_some (p := fun d : RegDef => d.covers a) h) hd
  omega

theorem winKey_mod (i a : Nat) : winKey i a % 2 ^ 32 = a % 2 ^ 32 := by
  unfold winKey
  omega

theorem State.keyOf_mod {d : RegDef} {a k : Nat} (h : s.keyOf d a = some k) : k % 2 ^ 32 = a % 2 ^ 32 := by
  have hpick (n m : Nat) (h : (if n ≤ m then some (winKey n a) else none) = some k) : k % 2 ^ 32 = a % 2 ^ 32 := by
    obtain ⟨-, h⟩ := Option.ite_none_right_eq_some.mp h
    exact Option.some.inj h ▸ winKey_mod n a
  unfold State.keyOf at h
  cases hs : d.sel <;> rw [hs] at h
  case none => exact Option.some.inj h ▸ rfl
  case fmtChannel =>
    obtain ⟨i, -, rfl⟩ := Option.map_eq_some_iff.mp h
    exact winKey_mod i a
  case elsRegion | elsRegionClass =>
    obtain ⟨-, h⟩ := Option.ite_none_right_eq_some.mp h
    exact Option.some.inj h ▸ winKey_mod _ a
  all_goals exact hpick _ _ h

theorem RegDef.any_of_maskOf_ne_zero {d : RegDef} {p : Access → Bool} (h : d.maskOf p ≠ 0) :
    (d.fields.any fun f => p f.acc) = true := by
  by_contra hn
  refine h ?_
  have : ∀ f ∈ d.fields, (if p f.acc then (2 ^ f.width - 1) * 2 ^ f.lo else 0) = 0 := by
    intro f hf
    rw [if_neg]
    exact fun hp => hn (List.any_eq_true.mpr ⟨f, hf, hp⟩)
  unfold RegDef.maskOf
  rw [List.map_congr_left this, List.map_const', List.sum_replicate, smul_zero]
  rfl

/-- A register of the table that has a staged field shows a staged key (R13, R587). -/
theorem State.stagedKey_keyOf {d : RegDef} {a k : Nat} (hd : findReg a = some d)
    (hm : (d.maskOf fun x => x == .rws) ≠ 0) (hk : s.keyOf d a = some k) : stagedKey k = true := by
  rw [stagedKey, s.keyOf_mod hk, Nat.mod_eq_of_lt (findReg_lt hd), hd]
  exact d.any_of_maskOf_ne_zero hm

theorem State.writeStaged_follows {d : RegDef} {a : Nat} (w : Word) (hd : findReg a = some d)
    (h : Follows q s.waits) : Follows q (s.writeStaged d a w).2.waits := by
  unfold State.writeStaged
  extract_lets mask
  split
  · exact h
  next hm =>
    split
    · exact s.stageChannel_follows _ _ h
    · split
      · exact h
      next k hk => exact s.stage_follows k mask w (s.stagedKey_keyOf hd hm hk) h

/-- The register that an access finds is the one of the table at its address. -/
theorem State.findReg_of_access {m a : Nat} {d : RegDef} (h : (s.access m a).2.1 = some d) :
    findReg a = some d := by
  unfold State.access at h
  extract_lets s1 at h
  split at h
  · cases h
  · split at h
    · cases h
    next d' hd =>
      have h' : d' = d := by
        split at h
        · cases h
        · exact Option.some.inj h
      split at hd
      · cases hd
      · exact h' ▸ hd

theorem State.ctlWrite_follows (m a : Nat) (w : Word) (h : Follows q s.waits) :
    Follows q (s.ctlWrite m a w).2.waits := by
  have ha := h.of_eq (s.access_waits m a)
  unfold State.ctlWrite
  split
  next e =>
    rw [e] at ha
    exact ha
  next d t e =>
    have hd : findReg a = some d := s.findReg_of_access (m := m) (by rw [e])
    rw [e] at ha
    exact State.writeEffect_follows _ a w (State.writeStaged_follows _ w hd (ha.of_eq (t.writeFields_waits d a w)))

theorem State.writeWords_follows (a : Nat) (st : Status) (ws : List Word) (h : Follows q s.waits) :
    Follows q (s.writeWords a st ws).2.waits := by
  induction ws generalizing s a st with
  | nil => exact h
  | cons w ws ih => exact ih _ _ _ (s.ctlWrite_follows _ a w h)

theorem State.perform_follows (bs : List Byte) (h : Follows q s.waits) : Follows q (s.perform bs).waits := by
  unfold State.perform
  extract_lets n a write ws echo
  refine follows_ite (fun _ => ?_) fun _ => follows_ite (fun _ => ?_) fun _ => ?_
  · simpa only [↓State.respond_waits, ↓State.setFld_waits] using h
  · exact (s.writeWords_follows a Status.ok ws h).of_eq (State.respond_waits ..)
  · simpa only [↓State.respond_waits, ↓State.readWords_waits] using h

theorem State.frameArrives_follows (frame : List Byte) (leg : Nat) (h : Follows q s.waits) :
    Follows q (s.frameArrives frame leg).waits := by
  unfold State.frameArrives
  refine follows_ite (fun _ => h) fun _ => follows_ite (fun _ => ?_) fun _ => follows_ite (fun _ => ?_) fun _ =>
    follows_ite (fun _ => ?_) fun _ => ?_
  · exact h.of_eq (s.frameError_waits _)
  · exact h.of_eq (s.frameError_waits _)
  · exact h.of_eq (s.frameError_waits _)
  · exact State.perform_follows _ _ (h.of_eq (s.measureLeg_waits ..))

/-! ## The sequencer -/

theorem State.stepRmw_follows (x : SeqStep) (h : Follows q s.waits) : Follows q (s.stepRmw x).waits :=
  State.ctlWrite_follows _ _ _ _ (h.of_eq (s.ctlRead_waits ..))

theorem State.stepAct_follows (p i : Nat) (x : SeqStep) (h : Follows q s.waits) :
    Follows q (s.stepAct p i x).waits := by
  unfold State.stepAct
  split
  · exact h.of_eq (s.stepRead_waits x)
  · exact s.ctlWrite_follows _ _ _ h
  · exact s.stepRmw_follows x h
  · exact h.of_eq (s.stepDelta_waits x)
  · exact h.of_eq (s.stepTest_waits x)
  · exact h.of_eq (s.stepRecord_waits p i x)
  · exact s.ctlWrite_follows _ _ _ h
  · exact h

theorem State.runStep_follows (p i : Nat) (x : SeqStep) (h : Follows q s.waits) :
    Follows q (s.runStep p i x).waits := by
  unfold State.runStep
  extract_lets +onlyGivenNames _ s1 s2 s3
  have h3 : Follows q s3.waits := by
    simpa only [s1, s2, s3, ↓State.setFld_waits, ↓State.clearSlots_waits, ↓State.waits_mk, ↓State.waits_eta,
      ↓State.waits_ite, ↓ite_self] using h
  exact follows_ite (fun _ => h3) fun _ => s3.stepAct_follows p i x h3

theorem State.seqStep_follows (p i : Nat) (x : SeqStep) (h : Follows q s.waits) :
    Follows q (s.seqStep p i x).waits := by
  unfold State.seqStep
  refine follows_ite (fun _ => ?_) fun _ => s.runStep_follows p i x h
  simpa only [↓State.waits_mk, ↓State.waits_eta] using h

theorem State.epochProgram_follows (run leg : Nat) (h : Follows q s.waits) :
    Follows q (s.epochProgram run leg).waits := by
  unfold State.epochProgram
  refine follows_ite (fun _ => h) fun _ => ?_
  simp only [↓State.setBit_waits, ↓State.waits_mk, ↓State.waits_eta]
  refine State.follows_foldl _ (fun s e h => ?_) _ ?_
  · refine State.runStep_follows _ _ _ _ ?_
    cases e.2.2.addr <;> simpa only [↓State.measureLeg_waits, ↓State.foldl_waits, implies_true] using h
  · simpa only [↓State.raise_waits, ↓State.bump_waits, ↓State.snapshot_waits, ↓State.measureLeg_waits,
      ↓State.foldl_waits, implies_true, ↓State.reach_waits, ↓State.waits_mk, ↓State.waits_eta,
      ↓State.waits_ite, ↓ite_self] using h

theorem State.testLogicReset_follows (h : Follows q s.waits) : Follows q s.testLogicReset.waits := by
  have h1 := h.of_eq (s.setTap_waits 1 none false idcode)
  exact follows_ite (fun _ => State.afterStraps_follows _ h1) fun _ => h1

/-! ## The ticks -/

theorem State.switchStep_follows (n f : Nat) (h : Follows q s.waits) : Follows q (s.switchStep n f).waits := by
  unfold State.switchStep
  extract_lets +onlyGivenNames byTwin fault _ s1 w v asked s2 s3
  have h1 : Follows q s1.waits := by simpa only [s1, ↓State.waits_mk, ↓State.waits_eta] using h
  have h2 : Follows q s2.waits := s1.endRequest_follows n h1
  have h3 : Follows q s3.waits := h2.of_eq (s2.setBit_waits ..)
  clear_value s3 fault
  have hin (x c : Nat) : Follows q ((s3.install x c n f).endTests).waits :=
    (s3.install_follows x c n f h3).of_eq (State.endTests_waits _)
  refine follows_ite (fun _ => h3) fun _ => ?_
  refine Follows.of_eq ?_ (State.showPlan_waits ..)
  split
  next x =>
    exact follows_ite (fun _ => (hin x 2).of_eq (State.superseded_waits ..)) fun _ => hin x 2
  · refine follows_ite (fun _ => h3) fun _ => follows_ite (fun _ => ?_) fun _ => hin _ 1
    exact h3.of_eq (s3.superseded_waits ..)

theorem State.commitStep_follows (n : Nat) (h : Follows q s.waits) : Follows q (s.commitStep n).waits := by
  unfold State.commitStep
  simpa only [↓State.sendEsmc_waits, ↓State.exactBegins_waits, ↓State.waits_ite, ↓ite_self]
    using s.applyCommits_follows n h

theorem State.lastSteps_follows (x : TickInput) (h : Follows q s.waits) : Follows q (s.lastSteps x).waits := by
  unfold State.lastSteps
  extract_lets +onlyGivenNames n t d s1 s2 _ _ _ _ _ s3 s4 ppb s5 s6 s7
  have h3 : Follows q s3.waits := by
    simpa only [s1, s2, s3, ↓State.clearOldest_waits, ↓State.setReg_waits, ↓State.waits_mk, ↓State.waits_eta,
      ↓State.waits_ite, ↓ite_self] using h
  clear_value s3
  have h6 : Follows q s6.waits := by
    simpa only [s4, s5, s6, ↓State.setBit_waits, ↓State.setFrame_waits, ↓State.setReg_waits,
      ↓State.setEstimates_waits] using h3
  clear_value s6
  have h7 : Follows q s7.waits := s6.tripOff_follows h6
  refine follows_ite (fun _ => h7) fun _ => ?_
  simpa only [↓State.depart_waits, ↓State.takeHandIns_waits, ↓State.voidNewSlot_waits,
    ↓State.checkLeave_waits, ↓State.gainDeficits_waits, ↓State.showPlan_waits] using h7

theorem State.firstSteps_follows (n : Nat) (h : Follows q s.waits) : Follows q (s.firstSteps n).waits := by
  unfold State.firstSteps
  refine State.switchStep_follows _ _ _ ?_
  simpa only [↓State.closeLedger_waits, ↓State.formDigest_waits, ↓State.abortOverrun_waits,
    ↓State.endSlot_waits, ↓State.waits_ite, ↓ite_self] using h

theorem State.tickSteps_follows (n : Nat) (x : TickInput) (epoch : Bool) (h : Follows q s.waits) :
    Follows q (s.tickSteps n x epoch).waits := by
  unfold State.tickSteps
  extract_lets s1 s2 s3
  have h1 : Follows q s1.waits := s.firstSteps_follows n h
  have h2 : Follows q s2.waits := follows_ite (fun _ => s1.commitStep_follows n h1) fun _ => h1
  have h3 : Follows q s3.waits := h2.of_eq (s2.intake_waits n)
  exact follows_ite (fun _ => h3.of_eq (s3.promoteStep_waits x)) fun _ => h3

theorem State.slotTick_follows (x : TickInput) (h : Follows q s.waits) : Follows q (s.slotTick x).waits := by
  unfold State.slotTick
  refine follows_ite (fun _ => h) fun _ => State.lastSteps_follows _ x ?_
  exact follows_ite (fun _ => h) fun _ => s.tickSteps_follows _ x _ h

theorem State.epochTick_follows (x : TickInput) (h : Follows q s.waits) : Follows q (s.epochTick x).waits := by
  unfold State.epochTick
  refine follows_ite (fun _ => follows_ite (fun _ => s.applyCommits_follows 0 h) fun _ => h) fun _ =>
    follows_ite (fun _ => h) fun _ => ?_
  simpa only [↓State.waits_mk, ↓State.waits_eta] using s.tickSteps_follows _ x true h

theorem State.startPlane_follows (n t us : Nat) (h : Follows q s.waits) :
    Follows q (s.startPlane n t us).waits := by
  unfold State.startPlane
  extract_lets +onlyGivenNames s1 s2 _ _ s3 s4
  have h4 : Follows q s4.waits := by
    simpa only [s1, s2, s3, s4, ↓State.atUs_waits, ↓State.setReg_waits, ↓State.stepDone_waits,
      ↓State.recordBrownOut_waits, ↓State.waits_mk, ↓State.waits_eta] using h
  clear_value s4
  simpa only [↓State.endTests_waits, ↓State.voidNewSlot_waits, ↓State.gainDeficits_waits,
    ↓State.tasterEpoch_waits, ↓State.setReg_waits, ↓State.showPlan_waits, ↓State.setFrame_waits] using
    s4.applyCommits_follows 0 h4

theorem State.dataPlaneStart_follows (us : Nat) (h : Follows q s.waits) :
    Follows q (s.dataPlaneStart us).waits := by
  unfold State.dataPlaneStart
  refine follows_ite (fun _ => h) fun _ => follows_ite (fun _ => follows_ite (fun _ => ?_) fun _ => h) fun _ =>
    follows_ite (fun _ => h) fun _ => ?_
  · exact h.of_eq s.resumePlane_waits
  · exact s.startPlane_follows _ _ us h

theorem State.joinTick_follows (x : Transferred) (us : Nat) (h : Follows q s.waits) :
    Follows q (s.joinTick x us).waits := by
  unfold State.joinTick
  refine follows_ite (fun _ => s.join_follows x h) fun _ => ?_
  split
  · exact h
  · exact State.startPlane_follows _ _ _ us (s.join_follows x h)

end

end Sys2Proof.Machine
end

section
/-! PROOF of O58: every step keeps the commit unit to staged registers. -/

namespace Sys2Proof.Machine

open Sys2Proof

/-! ## Every command and every step -/

/-- What waits follows what waited before, in the state that an outcome answers. -/
def Answers (s : State) (o : Host.Outcome State Fault Refusal) : Prop :=
  ∀ t, o = .next t → Follows s.waits t.waits

section
variable {s t : State}

theorem Answers.next (h : Follows s.waits t.waits) : Answers s (.next t) :=
  fun _ e => Host.Outcome.next.inj e ▸ h

theorem Answers.still (h : t.waits = s.waits) : Answers s (.next t) :=
  .next (s.follows_self.of_eq h)

theorem Answers.admitted {ok : Bool} (h : t.waits = s.waits) : Answers s (admitted ok t) := by
  unfold Machine.admitted
  split
  · exact .still h
  · exact fun _ e => nomatch e

theorem Answers.managed {f : State → State} (h : Follows s.waits s.waits → Follows s.waits (f s).waits) :
    Answers s (.next (s.managed f)) := .next (s.managed_follows s.follows_self h)

theorem Answers.managedStill {f : State → State} (h : (f s).waits = s.waits) :
    Answers s (.next (s.managed f)) := .still (s.managed_waits h)

end

/-- Whatever a command does, what waits follows what waited before it. -/
theorem answers_exec (s : State) : ∀ i, Answers s (exec i s)
  | .slotTick .. => .next (s.slotTick_follows _ s.follows_self)
  | .epochTick .. => .next (s.epochTick_follows _ s.follows_self)
  | .symbolTick .. => .still (s.symbolTick_waits ..)
  | .epochProgram .. => .next (s.epochProgram_follows _ _ s.follows_self)
  | .tickMismatch .. => .still (s.tickMismatch_waits ..)
  | .load .. => .admitted (s.anvilLoad_waits ..)
  | .stream .. => .admitted (s.anvilStream_waits ..)
  | .loadstream .. => .admitted (s.anvilLoadStream_waits ..)
  | .bias .. => .admitted (s.anvilBias_waits ..)
  | .drain .. => .admitted (s.anvilDrain_waits ..)
  | .vload .. => .admitted (s.slicerVload_waits ..)
  | .sweep .. => .admitted (s.slicerSweep_waits ..)
  | .sout .. => .admitted (s.slicerSout_waits ..)
  | .transpose .. => .admitted (s.swageTranspose_waits ..)
  | .transposeEmit .. => .still (State.waits_ite_of (s.swageEmit_waits ..) rfl)
  | .openTensor .. => .admitted (s.crucibleOpen_waits ..)
  | .accum .. => .admitted (s.crucibleAccum_waits ..)
  | .flush .. => .admitted (s.crucibleFlush_waits ..)
  | .tload .. => .admitted (s.planTload_waits ..)
  | .tstore .. => .admitted (s.planTstore_waits ..)
  | .ewise .. => .admitted (s.planEwise_waits ..)
  | .reduce .. => .admitted (s.planReduce_waits ..)
  | .desc .. => .admitted (s.tinkerDesc_waits ..)
  | .lookup .. => .admitted (s.tinkerLookup_waits ..)
  | .sort .. => .admitted (s.tinkerSort_waits ..)
  | .select .. => .admitted (s.tinkerSelect_waits ..)
  | .pack .. => .admitted (s.tinkerPack_waits ..)
  | .crc .. => .admitted (s.tinkerCrc_waits ..)
  | .scramble .. => .admitted (s.tinkerScramble_waits ..)
  | .reenc .. => .admitted (s.tinkerReenc_waits ..)
  | .batch .. => .admitted (s.tinkerBatch_waits ..)
  | .fill .. => .admitted (s.tinkerFill_waits ..)
  | .arm .. => .admitted (s.waits_arm ..)
  | .shadowBecomesActive .. => .still (((State.promoteShadow_waits ..).trans (State.endStream_waits ..)).trans
      (s.drainsTo_waits ..))
  | .streamDone .. => .still ((State.endStream_waits ..).trans (s.drainsTo_waits ..))
  | .absent .. => .still (s.absentReply_waits ..)
  | .ladleRelease .. => .still (s.releaseLadle_waits ..)
  | .hbmStripe .. => .still (s.hbmStripe_waits ..)
  | .delayedStripe .. => .still (s.delayedStripe_waits ..)
  | .refreshEntry .. => .still (s.refreshEntry_waits ..)
  | .hbmOverTemperature .. => .still (s.hbmTemperature_waits ..)
  | .scrub .. => .still (s.scrub_waits ..)
  | .fft .. => .admitted (s.fft_waits ..)
  | .ifft .. => .admitted (s.ifft_waits ..)
  | .fir .. => .admitted (s.fir_waits ..)
  | .fetch .. => .admitted (s.fetch_waits ..)
  | .steer .. => .admitted (s.steer_waits ..)
  | .ncoDeltaUpdate .. => .still (s.onRadio_waits ((State.settleSteps_waits ..).trans (s.reach_waits ..)))
  | .ncoToffUpdate .. => .still (s.onRadio_waits ((State.settleSteps_waits ..).trans (s.reach_waits ..)))
  | .steeringFrame .. => .still (s.onRadio_waits (s.steeringFrame_waits ..))
  | .receiveSample .. => .still (s.onRadio_waits (s.receiveSample_waits ..))
  | .transmitSample .. => .still (s.onRadio_waits (s.transmitSample_waits ..))
  | .jesdLinkCrc .. => .still (s.onRadio_waits (s.linkCrc_waits ..))
  | .jesdLinkDown .. => .still (s.onRadio_waits (s.linkDown_waits ..))
  | .relock .. => .still (s.onRadio_waits (s.relock_waits ..))
  | .sysrefEdge .. => .still (s.onRadio_waits (s.sysrefEdge_waits ..))
  | .gainWindow .. => .still (s.onRadio_waits (s.gainWindow_waits ..))
  | .gainWordApply .. => .still (s.onRadio_waits ((State.applyGain_waits ..).trans (s.reach_waits ..)))
  | .freezeEnd .. => .still (s.onRadio_waits ((State.freezeEnd_waits ..).trans (s.reach_waits ..)))
  | .ldec .. => .admitted (s.ldec_waits ..)
  | .lenc .. => .admitted (s.lenc_waits ..)
  | .pdec .. => .admitted (s.pdec_waits ..)
  | .penc .. => .admitted (s.penc_waits ..)
  | .tbseg .. => .admitted (s.tbseg_waits ..)
  | .tbchk .. => .admitted (s.tbchk_waits ..)
  | .reEncoding .. => .admitted (s.reEncoding_waits ..)
  | .uprx .. => .admitted (s.uprx_waits ..)
  | .uptx .. => .admitted (s.uptx_waits ..)
  | .cptx .. => .admitted (s.cptx_waits ..)
  | .l2tx .. => .admitted (s.l2tx_waits ..)
  | .l2rx .. => .admitted (s.l2rx_waits ..)
  | .uPlaneSection .. => .still (s.uPlaneSection_waits ..)
  | .ethernetFrame .. => .still (s.ethernetFrame_waits ..)
  | .nonPlannedFrame .. => .still (s.nonPlanned_waits ..)
  | .arpRequest .. => .still (s.arpRequest_waits ..)
  | .neighbourSolicitation .. => .still (s.neighbourSolicitation_waits ..)
  | .bsr .. => .still (s.l2Message_waits ..)
  | .qos .. => .still (s.l2Message_waits ..)
  | .dldata .. => .still (s.l2Message_waits ..)
  | .attreq .. => .still (s.attReq_waits ..)
  | .fault => .still (s.faultMessage_waits ..)
  | .announce .. => .still (s.ptpArrival_waits _ _ _ fun _ s => s.announceHeard_waits ..)
  | .sync .. => .still (s.ptpArrival_waits _ _ _ fun _ s => s.slaveSync_waits ..)
  | .delayReq .. => .still (s.ptpArrival_waits _ _ _ fun _ _ => rfl)
  | .followUp .. => .still (s.ptpArrival_waits _ _ _ fun _ s => s.slaveFollowUp_waits ..)
  | .followUpTimeout .. => .still (s.followUpTimeout_waits ..)
  | .syncMissed => .still (s.syncMissed_waits ..)
  | .esmcPdu .. => .still (s.esmcPdu_waits ..)
  | .esmcTimeout => .still (s.esmcTimeout_waits ..)
  | .informationPdu => .still (s.sendEsmc_waits ..)
  | .triggerArm .. => .managedStill (State.waits_ite_of (s.triggerArm_waits ..) rfl)
  | .triggerFire .. => .still (State.waits_ite_of (s.triggerFire_waits ..) rfl)
  | .capture .. => .still (State.waits_ite_of (s.capture_waits ..) rfl)
  | .timeRead => .still (s.timeRead_waits ..)
  | .timeStepAccept => .managedStill (s.timeStep_waits ..)
  | .enterFreerun => .managedStill (s.enterFreerun_waits ..)
  | .superframe .. => .still (s.superframe_waits ..)
  | .swituLinkDown .. => .still (s.switDown_waits ..)
  | .send .. => .admitted (s.send_waits ..)
  | .recv .. => .admitted (s.recv_waits ..)
  | .hello .. => .still (((State.advance_waits ..).trans (State.atUs_waits ..)).trans (s.hello_waits ..))
  | .digest .. => .still (s.digestArrived_waits ..)
  | .digestSend => .still (s.digestSend_waits ..)
  | .digestCompare => .still (s.digestCompare_waits ..)
  | .roleSwap => .next (s.roleSwap_follows s.follows_self)
  | .swapNotice .. => .still (s.swapNotice_waits ..)
  | .transferNotice .. => .still (s.transferNotice_waits ..)
  | .joinNotice .. => .still (s.joinNotice_waits ..)
  | .detachNotice .. => .still (s.detachNotice_waits ..)
  | .abortNotice => .next (s.abortNotice_follows s.follows_self)
  | .transferStart => .next (s.transferStart_follows s.follows_self)
  | .bulkCopyComplete => .still (s.bulkComplete_waits ..)
  | .join .. => .next (s.joinTick_follows _ _ s.follows_self)
  | .attachAborted => .next (s.attachAborted_follows s.follows_self)
  | .twinPeerFall .. => .still (s.twinPeerFall_waits ..)
  | .takeover => .next (s.takeover_follows s.follows_self)
  | .attach => .managedStill (s.attach_waits ..)
  | .detach => .managedStill (s.detach_waits ..)
  | .swapRoles => .managed fun h => s.swapRoles_follows h
  | .planSwitchRequest .. => .managed fun h => s.switchRequest_follows _ h
  | .promote => .managedStill (s.promoteRow_waits ..)
  | .revert => .managedStill (s.revertRow_waits ..)
  | .revertCopyComplete => .still (s.revertCopied_waits ..)
  | .seedingJobComplete => .still (s.seeded_waits ..)
  | .trainingStep => .still (s.trainingStep_waits ..)
  | .tasterDecision .. => .still (s.tasterDecision_waits ..)
  | .historyReset .. => .managedStill (s.historyReset_waits ..)
  | .channelUpdateStage .. => .managed fun h => s.stageChannel_follows _ _ h
  | .ncoClear .. => .still (s.onRadio_waits (s.ncoClear_waits ..))
  | .commit .. => .managed fun h => s.doCommit_follows _ h
  | .discard .. => .managed fun h => s.discard_follows _ h
  | .registerWrite .. => .managed fun h => State.ctlWrite_follows _ _ _ _ (h.of_eq (s.measureLeg_waits ..))
  | .elasticWindowStart .. => .still (s.windowStart_waits ..)
  | .schedulerDecision .. => .still ((State.decision_waits ..).trans (s.reach_waits ..))
  | .sliceEnd .. => .still (s.sliceEnded_waits ..)
  | .swap .. => .still (s.trySwap_waits ..)
  | .swapComplete .. => .still (s.swapComplete_waits ..)
  | .elasticWindowCut .. => .still (s.windowCut_waits ..)
  | .elasticSequenceEntry .. => .still (s.sequenceEntry_waits ..)
  | .leaveGrant .. => .still (s.leaveGrant_waits ..)
  | .overTemperature .. => .still (s.overTemp_waits ..)
  | .thermalTrip .. => .still (s.thermalTrip_waits ..)
  | .pllLossOfLock .. => .still (s.pllLost_waits ..)
  | .lockstepMismatch .. => .still (s.lockstep_waits ..)
  | .rotatingSelfTest .. => .still (s.selfTest_waits ..)
  | .ledgerExtract => .still (s.writeExtract_waits ..)
  | .runRequest => .managedStill (s.runRequest_waits ..)
  | .trimRequest => .managed fun h => s.trimRequest_follows h
  | .doze => .managed fun h => s.doze_follows h
  | .keep => .managed fun h => s.keep_follows h
  | .regionReset => .managed fun h => s.regionReset_follows h
  | .regionPowerDown => .managed fun h => s.regionDown_follows h
  | .regionPowerUp => .managedStill (s.regionUp_waits ..)
  | .wakeN => .still (s.wakeN_waits ..)
  | .wakeNow => .managedStill (s.wakeNow_waits ..)
  | .wakeTimeout .. => .still (s.wakeTimeout_waits ..)
  | .brownOut .. => .next (s.powerOn_follows _ _ s.follows_self)
  | .supplyReset => .next (s.hardReset_follows s.follows_self)
  | .powerOn .. => .next (s.powerOn_follows _ _ s.follows_self)
  | .startStepTimeout .. => .next (s.stepTimeout_follows _ s.follows_self)
  | .linkNotTrained .. => .still (s.linksNotTrained_waits ..)
  | .timeLockTimeout .. => .still (s.timeLockTimeout_waits ..)
  | .handshakeWaitExpiry .. => .still (s.handshakeExpired_waits ..)
  | .dataPlaneStart .. => .next (s.dataPlaneStart_follows _ s.follows_self)
  | .erase => .managedStill (s.nvmErase_waits ..)
  | .program => .managedStill (s.nvmProgram_waits ..)
  | .verify .. => .managedStill (s.nvmVerify_waits ..)
  | .activate .. => .managedStill (s.nvmActivate_waits ..)
  | .savew => .managedStill (s.nvmSave_waits ..)
  | .dropw => .managedStill (s.nvmDrop_waits ..)
  | .pageBufferWrite .. => .managedStill (s.pageWrite_waits ..)
  | .nvmCommandDone .. => .still (s.nvmDone_waits ..)
  | .go .. => .managedStill (s.attGo_waits ..)
  | .reportReady => .still (s.reportReady_waits ..)
  | .attdataRead => .managedStill (s.attRead_waits ..)
  | .pop => .managedStill (s.popRecord_waits ..)
  | .echo .. => .managedStill (s.setFld_waits ..)
  | .write .. => .managed fun h => s.frameArrives_follows _ _ h
  | .read .. => .managed fun h => s.frameArrives_follows _ _ h
  | .responseRead .. => .managedStill (s.responseRead_waits ..)
  | .enec .. => .managedStill (s.setEvents_waits ..)
  | .disec .. => .managedStill (s.setEvents_waits ..)
  | .entas .. => .managedStill (State.waits_ite_of rfl rfl)
  | .rstdaa => .managedStill (s.resetDa_waits ..)
  | .entdaa .. => .managedStill (s.entDaa_waits ..)
  | .enthdr0 => .managedStill (s.setBit_waits ..)
  | .hdrExit => .managedStill (s.setBit_waits ..)
  | .setaasa => .managedStill (s.setFromStatic_waits ..)
  | .setdasa .. => .managedStill (s.setFromStatic_waits ..)
  | .setnewda .. => .managedStill (s.setNewDa_waits ..)
  | .getmwl => .managedStill (s.answer_waits ..)
  | .getmrl => .managedStill (s.answer_waits ..)
  | .getpid => .managedStill (s.answer_waits ..)
  | .getbcr => .managedStill (s.answer_waits ..)
  | .getdcr => .managedStill (s.answer_waits ..)
  | .getstatus => .managedStill (s.getStatus_waits ..)
  | .getmxds => .managedStill (s.answer_waits ..)
  | .getcaps => .managedStill (s.answer_waits ..)
  | .ibi .. => .managedStill (s.ibi_waits ..)
  | .seqRead .. => .next (s.seqStep_follows _ _ _ s.follows_self)
  | .seqWrite .. => .next (s.seqStep_follows _ _ _ s.follows_self)
  | .rmw .. => .next (s.seqStep_follows _ _ _ s.follows_self)
  | .delta .. => .next (s.seqStep_follows _ _ _ s.follows_self)
  | .test .. => .next (s.seqStep_follows _ _ _ s.follows_self)
  | .record .. => .next (s.seqStep_follows _ _ _ s.follows_self)
  | .seqCommit .. => .next (s.seqStep_follows _ _ _ s.follows_self)
  | .loopbackActivate => .still (s.activateTests_waits ..)
  | .prbsLock .. => .still (s.prbsLock_waits ..)
  | .prbsLossOfLock .. => .still (s.prbsLoss_waits ..)
  | .extest .. => .still (s.drive_waits ..)
  | .idcode => .still (s.setTap_waits ..)
  | .samplePreload .. => .still (s.samplePreload_waits ..)
  | .highz => .still (State.waits_ite_of (s.setTap_waits ..) s.bypass_waits)
  | .clamp => .still (State.waits_ite_of (s.setTap_waits ..) s.bypass_waits)
  | .extestPulse .. => .still (s.drive_waits ..)
  | .extestTrain .. => .still (s.drive_waits ..)
  | .bypass => .still (s.bypass_waits ..)
  | .testLogicReset => .next (s.testLogicReset_follows s.follows_self)
  | .anvClrLatch .. => .managedStill (s.whereFitted_waits _ _ (s.anvClrLatch_waits ..))
  | .anvClrCnt .. => .managedStill (s.whereFitted_waits _ _ (s.anvClrCnt_waits ..))
  | .slcClrLatch .. => .managedStill (s.whereFitted_waits _ _ (s.slcClrLatch_waits ..))
  | .slcClrCnt .. => .managedStill (s.whereFitted_waits _ _ (s.slcClrCnt_waits ..))
  | .swgClr .. => .managedStill (s.swgClr_waits ..)
  | .cruClr .. => .managedStill (s.cruClr_waits ..)
  | .plnClrLatch .. => .managedStill (s.plnClrLatch_waits ..)
  | .plnClrCnt .. => .managedStill (s.plnClrCnt_waits ..)
  | .tnkClr .. => .managedStill (s.tnkClr_waits ..)
  | .ldlClr .. => .managedStill (s.ldlClr_waits ..)
  | .spdClr .. => .managedStill (s.spdClr_waits ..)
  | .delayResp .. => .still (((State.advance_waits ..).trans (State.atUs_waits ..)).trans
      (s.ptpArrival_waits _ _ _ fun _ s => s.slaveResponse_waits ..))
  | .pllRelock .. => .still (s.pllRelock_waits ..)
  | .readySignal .. => .next (s.readySignal_follows _ _ _ s.follows_self)
  | .linkUp .. => .still (s.interfaceUp_waits ..)
  | .ethernetLinkDown .. => .still (s.ethernetLinkDown_waits ..)
  | .temperatureFallenBelowLimit .. => .still (s.tempFallen_waits ..)
  | .guardReached .. => .still (s.guardReached_waits ..)
  | .spnCntclr => .managedStill (s.spnCntclr_waits ..)
  | .detClr => .managedStill (s.detClr_waits ..)
  | .fmtClr => .managedStill (s.fmtClr_waits ..)
  | .grdClr => .managedStill (s.grdClr_waits ..)
  | .memClr => .managedStill (s.memClr_waits ..)
  | .elsClr => .managedStill (s.elsClr_waits ..)
  | .radClr => .managedStill (s.radClr_waits ..)
  | .cdcClr => .managedStill (s.cdcClr_waits ..)
  | .wgtClr => .managedStill (s.wgtClr_waits ..)
  | .schClr => .managedStill (s.schClr_waits ..)
  | .netClr => .managedStill (s.netClr_waits ..)
  | .fltClr => .managedStill (s.fltClr_waits ..)
  | .lgrClr => .managedStill (s.lgrClr_waits ..)
  | .twnClr => .managedStill (s.twnClr_waits ..)
  | .pwrClr => .managedStill (s.pwrClr_waits ..)
  | .clkClr => .managedStill (s.clkClr_waits ..)
  | .secClr => .managedStill (s.secClr_waits ..)
  | .mgtClr => .managedStill (s.mgtClr_waits ..)
  | .netPrbsClr => .managedStill (s.netPrbsClr_waits ..)
  | .radPrbsClr => .managedStill (s.radPrbsClr_waits ..)
  | .twnPrbsClr => .managedStill (s.twnPrbsClr_waits ..)

theorem State.stagedOnly_of_follows {s t : State} (h : Follows s.waits t.waits) (hs : s.stagedOnly = true) :
    t.stagedOnly = true := h.2 hs

/-- Settles O58: a step takes a command from the queue, and what waits after it follows what waited before
(`answers_exec`). -/
theorem stepKeepsStagedRegisters : Obligations.StepKeepsStagedRegisters := by
  unfold Obligations.StepKeepsStagedRegisters
  intro s t hs h
  unfold step at h
  split at h
  · exact Host.Outcome.next.inj h ▸ hs
  next c rest _ => exact State.stagedOnly_of_follows (answers_exec { s with pending := rest } c t h) hs

end Sys2Proof.Machine
end

section
/-! PROOF of O44: what a register write does, by the access codes of the register's fields (R13, R577, R587). -/

namespace Sys2Proof.Machine

open Sys2Proof

section
variable (s : State)

theorem State.managed_of_not_discard {f : State → State} (h : s.faults.discard = false) : s.managed f = f s := by
  unfold State.managed
  exact if_neg (ne_true_of_eq_false h)

/-! ## What an access finds -/

theorem State.access_unaligned (m : Nat) {a : Nat} (ha : a % 4 ≠ 0) :
    s.access m a = (Status.align, none, s.catchUp.unassigned m a) := by
  unfold State.access
  exact if_pos (bne_iff_ne.mpr ha)

theorem State.gradeLacks_of_no_region {a : Nat} (h : regionOfAddr a = none) : s.gradeLacks a = false := by
  unfold State.gradeLacks
  rw [h]

theorem State.isAbsent_of_no_region {a : Nat} (h : regionOfAddr a = none) (hp : s.powerState ≠ 3) :
    s.isAbsent a = false := by
  unfold State.isAbsent
  rw [h, beq_false_of_ne hp]
  rfl

theorem State.access_of_no_region (m : Nat) {a : Nat} {d : RegDef} (ha : a % 4 = 0) (hr : regionOfAddr a = none)
    (hp : s.catchUp.powerState ≠ 3) (hd : findReg a = some d) :
    s.access m a = (Status.ok, some d, s.catchUp) := by
  unfold State.access
  extract_lets s1
  rw [if_neg (by simp [ha]), s1.gradeLacks_of_no_region hr, if_neg Bool.false_ne_true, hd]
  exact if_neg (ne_true_of_eq_false (s1.isAbsent_of_no_region hr hp))

theorem State.ctlWrite_of_access {m a : Nat} {d : RegDef} {st : Status} {t : State} (w : Word)
    (h : s.access m a = (st, some d, t)) :
    (s.ctlWrite m a w).2 = ((t.writeFields d a w).writeStaged d a w).2.writeEffect a w := by
  unfold State.ctlWrite
  rw [h]

theorem State.ctlWrite_of_no_register {m a : Nat} {st : Status} {t : State} (w : Word)
    (h : s.access m a = (st, none, t)) : (s.ctlWrite m a w).2 = t := by
  unfold State.ctlWrite
  rw [h]

/-- A register that stands outside the regions and behind no selector, and whose write does nothing beside what the
access codes of its fields say. -/
structure PlainReg (a : Nat) (d : RegDef) : Prop where
  found : findReg a = some d
  aligned : a % 4 = 0
  noRegion : regionOfAddr a = none
  unselected : d.sel = .none
  noTrigger : ¬(Reg.TU_TRGN 0 ≤ a ∧ a ≤ Reg.TU_TRGN 3)
  noCapture : ¬(Reg.TU_CAPN 0 ≤ a ∧ a ≤ Reg.TU_CAPN 3)
  noChannel : ¬(a = Reg.FMT_CHCFG ∨ a = Reg.FMT_CHZP)
  noEffect : ∀ (s : State) w, s.writeEffect a w = s

theorem State.keyOf_unselected {d : RegDef} (a : Nat) (h : d.sel = .none) : s.keyOf d a = some a := by
  unfold State.keyOf
  rw [h]

variable {a : Nat} {d : RegDef}

theorem PlainReg.writeFields (h : PlainReg a d) (w : Word) :
    s.writeFields d a w = s.setReg a (d.written (s.reg a) w) := by
  unfold State.writeFields
  have htrg : ¬(Reg.TU_TRGN 0 ≤ a && a ≤ Reg.TU_TRGN 3 && a % 0x10 = 4) = true := by
    simp only [Bool.and_eq_true, decide_eq_true_eq]
    exact fun ht => h.noTrigger ht.1
  have hcap : ¬(Reg.TU_CAPN 0 ≤ a && a ≤ Reg.TU_CAPN 3 && a % 0x10 = 4 && bitOf w 31) = true := by
    simp only [Bool.and_eq_true, decide_eq_true_eq]
    exact fun ht => h.noCapture ht.1.1
  simp only [s.keyOf_unselected a h.unselected, Option.getD_some, ite_self, reduceCtorEq, decide_false,
    Bool.false_and, Bool.false_eq_true, if_false, htrg, hcap]

theorem PlainReg.writeStaged (h : PlainReg a d) (w : Word) :
    (s.writeStaged d a w).2 =
      if (d.maskOf fun x => x == .rws) = 0 then s else s.stage a (d.maskOf fun x => x == .rws) w := by
  unfold State.writeStaged
  extract_lets mask
  split
  · rfl
  · rw [if_neg (by simpa using h.noChannel), s.keyOf_unselected a h.unselected]

/-- A write of a plain register: its RW and W1C fields take the word, and its staged fields stage it. -/
theorem PlainReg.exec_registerWrite (h : PlainReg a d) (w : Word) (leg : Nat) (hdis : s.faults.discard = false)
    {s1 : State} (hs1 : (s.measureLeg a leg).catchUp = s1) (hp : s1.powerState ≠ 3) :
    exec (.registerWrite a w leg) s = .next
      (if (d.maskOf fun x => x == .rws) = 0 then s1.setReg a (d.written (s1.reg a) w)
       else (s1.setReg a (d.written (s1.reg a) w)).stage a (d.maskOf fun x => x == .rws) w) := by
  subst hs1
  show Host.Outcome.next (s.managed _) = _
  rw [s.managed_of_not_discard hdis,
    State.ctlWrite_of_access _ w (State.access_of_no_region _ _ h.aligned h.noRegion hp h.found), h.noEffect,
    h.writeFields, h.writeStaged]

end

/-- The readable and writable registers that the statement names. -/
def rwAddrs : List Nat := [Reg.TU_CAPSRC, Reg.LGR_QSEL, Reg.NVM_ADDR]

/-- The staged registers that the statement names. -/
def rwsAddrs : List Nat := [Reg.ELS_CFG, Reg.WGT_ETA, Reg.WGT_CLIP, Reg.WGT_TRAIN]

/-- The read-only registers that the statement names. -/
def roAddrs : List Nat := [Reg.ARC_ID, Reg.ARC_GRADE, Reg.ARC_ANVMAP]

/-- All of them, each a `PlainReg`. -/
def plainAddrs : List Nat := rwAddrs ++ rwsAddrs ++ roAddrs

theorem writeEffect_plain : ∀ a ∈ plainAddrs, ∀ (s : State) w, s.writeEffect a w = s := by
  unfold plainAddrs rwAddrs rwsAddrs roAddrs
  simp only [List.cons_append, List.nil_append, List.forall_mem_cons]
  exact ⟨fun _ _ => rfl, fun _ _ => rfl, fun _ _ => rfl, fun _ _ => rfl, fun _ _ => rfl, fun _ _ => rfl,
    fun _ _ => rfl, fun _ _ => rfl, fun _ _ => rfl, fun _ _ => rfl, fun _ h => nomatch h⟩

theorem plainAddrs_place : ∀ a ∈ plainAddrs, a % 4 = 0 ∧ regionOfAddr a = none ∧
    ¬(Reg.TU_TRGN 0 ≤ a ∧ a ≤ Reg.TU_TRGN 3) ∧ ¬(Reg.TU_CAPN 0 ≤ a ∧ a ≤ Reg.TU_CAPN 3) ∧
    ¬(a = Reg.FMT_CHCFG ∨ a = Reg.FMT_CHZP) := by decide

theorem roAddrs_found : ∀ a ∈ roAddrs, (findReg a).isSome = true := by decide +kernel

theorem findReg_all {l : List Nat} {p : RegDef → Bool} (h : (l.all fun a => (findReg a).all p) = true) {a : Nat}
    {d : RegDef} (ha : a ∈ l) (hd : findReg a = some d) : p d = true := by
  have := List.all_eq_true.mp h a ha
  rwa [hd] at this

theorem plainAddrs_unselected {a : Nat} {d : RegDef} (ha : a ∈ plainAddrs) (hd : findReg a = some d) :
    d.sel = .none := of_decide_eq_true (findReg_all (p := fun d => decide (d.sel = .none)) (by decide +kernel) ha hd)

theorem plainReg {a : Nat} {d : RegDef} (ha : a ∈ plainAddrs) (hd : findReg a = some d) : PlainReg a d :=
  have ⟨h4, hr, ht, hc, hch⟩ := plainAddrs_place a ha
  ⟨hd, h4, hr, plainAddrs_unselected ha hd, ht, hc, hch, writeEffect_plain a ha⟩

theorem maskOf_rws_zero {a : Nat} {d : RegDef} (ha : a ∈ rwAddrs ++ roAddrs) (hd : findReg a = some d) :
    (d.maskOf fun x => x == .rws) = 0 :=
  of_decide_eq_true (findReg_all (p := fun d => decide ((d.maskOf fun x => x == .rws) = 0)) (by decide +kernel) ha hd)

theorem maskOf_rws_ne_zero {a : Nat} {d : RegDef} (ha : a ∈ rwsAddrs) (hd : findReg a = some d) :
    (d.maskOf fun x => x == .rws) ≠ 0 :=
  of_decide_eq_true (findReg_all (p := fun d => decide ((d.maskOf fun x => x == .rws) ≠ 0)) (by decide +kernel) ha hd)

theorem maskOf_rw_zero {a : Nat} {d : RegDef} (ha : a ∈ rwsAddrs ++ roAddrs) (hd : findReg a = some d) :
    (d.maskOf fun x => x == .rw) = 0 ∧ (d.maskOf fun x => x == .w1c) = 0 :=
  of_decide_eq_true (findReg_all
    (p := fun d => decide ((d.maskOf fun x => x == .rw) = 0 ∧ (d.maskOf fun x => x == .w1c) = 0))
    (by decide +kernel) ha hd)

theorem RegDef.written_of_no_writable {d : RegDef} (h : (d.maskOf fun x => x == .rw) = 0)
    (h' : (d.maskOf fun x => x == .w1c) = 0) (old w : Word) : d.written old w = old := by
  unfold RegDef.written
  rw [h, h']
  simp only [BitVec.ofNat_eq_ofNat, BitVec.zero_and, BitVec.not_zero, BitVec.and_allOnes, BitVec.or_zero]

theorem overlay_overlay_and (r w v m n : Word) :
    overlay r ⟨n ||| m, overlay v ⟨m, w⟩⟩ &&& m = w &&& m := by
  unfold overlay
  ext i hi
  simp only [BitVec.getElem_and, BitVec.getElem_or, BitVec.getElem_not]
  cases m[i] <;> simp

/-- A register written and then staged: nothing changes but registers and the commit unit. -/
theorem State.stage_setReg_form (s : State) (a k : Nat) (v m w : Word) :
    (s.setReg a v).stage k m w =
      { s with regs := ((s.setReg a v).stage k m w).regs, commit := ((s.setReg a v).stage k m w).commit } := rfl

theorem State.effective_stage (s : State) (k : Nat) (m w : Word) :
    (s.stage k m w).effective k &&& m = w &&& m := by
  unfold State.effective State.stage
  rw [SMap.read_write_same]
  exact overlay_overlay_and ..

theorem State.reg_setReg_self (s : State) (a k : Nat) : (s.setReg a (s.reg a)).reg k = s.reg k := by
  rw [State.reg_setReg]
  split
  next h => rw [h]
  · rfl

/-- A fault record leaves every register alone but the count of records lost. -/
theorem State.reg_queueRecord (s : State) (r : Record) {k : Nat} (hk : k ≠ Reg.FLT_LOST) :
    (s.queueRecord r).reg k = s.reg k := by
  have hlost (lo n v : Nat) : (s.bump Reg.FLT_LOST lo n v).reg k = s.reg k := (s.reg_bump ..).trans (if_neg hk)
  unfold State.queueRecord
  extract_lets q
  split
  · rfl
  · split
    · exact hlost ..
    · split
      · split <;> exact hlost ..
      · rfl

/-- A masked fault changes two registers at most: its count and the count of records lost. -/
theorem State.reg_raise_masked (s : State) (code : Nat) (loc : BitVec 64) (d0 d1 : Nat) {k : Nat}
    (hk : k ≠ Reg.FLT_LOST) (hk' : k ≠ Reg.FLT_CNTM) : (s.raise code .masked loc d0 d1).reg k = s.reg k := by
  unfold State.raise
  exact ((State.reg_bump ..).trans (if_neg hk')).trans (s.reg_queueRecord _ hk)

theorem State.fld_unassigned (s : State) (m a : Nat) :
    (s.unassigned m a).fld Reg.MGT_ACC 0 16 = min (s.fld Reg.MGT_ACC 0 16 + 1) 65535 := by
  unfold State.unassigned State.fld
  rw [State.reg_raise_masked _ _ _ _ _ (by decide) (by decide)]
  exact (s.fld_bump _ _ _ _ _ _ _ (by decide) (by decide)).trans (if_pos ⟨rfl, rfl, rfl⟩)

/-- Settles O44: a write of a plain register is what its access codes make of the word, and an access of an unaligned
address is counted and reaches no register. -/
theorem registerWritesFollowTheirCodes : Obligations.RegisterWritesFollowTheirCodes := by
  unfold Obligations.RegisterWritesFollowTheirCodes
  intro s w leg a hdis
  extract_lets s1
  have hs1 : (s.measureLeg a leg).catchUp = s1 := rfl
  clear_value s1
  refine ⟨fun hp => ⟨fun ha d hd => ?_, fun ha d hd => ?_, fun ha => ?_⟩, fun ha => ?_⟩
  · have h := plainReg (List.mem_append_left _ (List.mem_append_left _ ha)) hd
    refine ⟨_, h.exec_registerWrite s w leg hdis hs1 hp, ?_⟩
    rw [if_pos (maskOf_rws_zero (List.mem_append_left _ ha) hd)]
    refine ⟨rfl, State.reg_setReg_same .., fun k hk => ?_⟩
    rw [State.reg_setReg, if_neg hk]
  · have h := plainReg (List.mem_append_left _ (List.mem_append_right _ ha)) hd
    have ⟨hrw, hw1c⟩ := maskOf_rw_zero (List.mem_append_left _ ha) hd
    refine ⟨_, h.exec_registerWrite s w leg hdis hs1 hp, ?_⟩
    rw [if_neg (maskOf_rws_ne_zero ha hd), d.written_of_no_writable hrw hw1c]
    exact ⟨State.stage_setReg_form .., State.effective_stage .., rfl, fun k => s1.reg_setReg_self a k⟩
  · obtain ⟨d, hd⟩ := Option.isSome_iff_exists.mp (roAddrs_found a ha)
    have h := plainReg (List.mem_append_right _ ha) hd
    have ⟨hrw, hw1c⟩ := maskOf_rw_zero (List.mem_append_right _ ha) hd
    refine ⟨_, h.exec_registerWrite s w leg hdis hs1 hp, ?_⟩
    rw [if_pos (maskOf_rws_zero (List.mem_append_right _ ha) hd), d.written_of_no_writable hrw hw1c]
    exact ⟨rfl, fun k => s1.reg_setReg_self a k⟩
  · refine ⟨s1.unassigned 0x39 a, ?_, State.raise_mem .., State.raise_commit .., s1.fld_unassigned ..⟩
    show Host.Outcome.next (s.managed _) = _
    rw [s.managed_of_not_discard hdis, State.ctlWrite_of_no_register _ w (State.access_unaligned _ _ ha), hs1]

end Sys2Proof.Machine
end

section
/-! PROOF of O1 and O2: the step of the queue, and the state after reset. -/

namespace Sys2Proof.Machine

open Sys2Proof

/-- Settles O1: a step is defined by the queue's front. -/
theorem stepTakesTheFrontCommand : Obligations.StepTakesTheFrontCommand := by
  unfold Obligations.StepTakesTheFrontCommand
  refine fun s => ⟨fun h => ?_, fun c rest h => ?_⟩
  all_goals
    unfold step
    rw [h]

theorem reset_reg : State.reset.reg Reg.ARC_ID = 0x0940B000 ∧ State.reset.reg Reg.RAD_TRATE = 3250 ∧
    State.reset.fld Reg.MEM_CFG 0 16 = 0x1803 ∧ State.reset.fld Reg.NET_SYNCE 8 4 = 0xF := by
  decide

theorem reset_gain : ∀ l < 64, State.reset.reg (winKey l Reg.AGC_STAT) = 0xFF0000 := by
  decide

theorem reset_served : ∀ r < 13, State.reset.served r = false := by
  decide

theorem reset_canonical : State.reset.canonical = true := by
  decide

/-- Settles O2: the reset state is one state, and each clause is read off it. -/
theorem resetStateAndForms : Obligations.ResetStateAndForms := by
  unfold Obligations.ResetStateAndForms
  obtain ⟨hid, hrate, hmem, hsynce⟩ := reset_reg
  exact ⟨⟨hid, hrate, hmem, hsynce, reset_gain, rfl, rfl, rfl, rfl, reset_served, rfl⟩, reset_canonical, rfl⟩

end Sys2Proof.Machine
end

section
/-! PROOF of O52: what a clear sets to 0 and what it leaves (the register sections of the chapters, R46, R531). -/

namespace Sys2Proof.Machine

open Sys2Proof

/-- `t` is `s` with the registers `ks` cleared: they read 0, every other register but those of which a clear takes
single fields reads as it did, and no more has changed than the byte and frame counts beside the registers. -/
structure Clears (s : State) (ks : List Nat) (t : State) : Prop where
  zero : ∀ k ∈ ks, t.reg k = 0
  others : ∀ k, k ∉ ks → k ∉ clearedFields → t.reg k = s.reg k
  form : t = { s with regs := t.regs, ladles := t.ladles, slicers := t.slicers, swages := t.swages
                      radio := t.radio }

section
variable {s t : State} {ks : List Nat}

theorem State.clears_nothing (s : State) : Clears s [] s where
  zero _ hk := nomatch hk
  others _ _ _ := rfl
  form := rfl

theorem Clears.zeroRegs (h : Clears s ks t) (js : List Nat) : Clears s (ks ++ js) (t.zeroRegs js) where
  zero k hk := by
    rw [t.reg_zeroRegs]
    split
    · rfl
    next hj => exact h.zero k ((List.mem_append.mp hk).resolve_right hj)
  others k hk hf := by
    rw [List.mem_append, not_or] at hk
    rw [t.reg_zeroRegs, if_neg hk.2]
    exact h.others k hk.1 hf
  form := by
    rw [t.zeroRegs_form, h.form]

theorem State.clears_zeroRegs (s : State) (ks : List Nat) : Clears s ks (s.zeroRegs ks) :=
  s.clears_nothing.zeroRegs ks

theorem Clears.setReg_zero (h : Clears s ks t) (k : Nat) : Clears s (ks ++ [k]) (t.setReg k 0) :=
  h.zeroRegs [k]

theorem putBits_zero (lo n : Nat) : putBits 0 lo n 0 = 0 := by
  simp [putBits, bitsOf]

theorem Clears.setFld (h : Clears s ks t) {k : Nat} (lo n : Nat) (hf : k ∈ clearedFields) :
    Clears s ks (t.setFld k lo n 0) where
  zero j hj := by
    rw [t.reg_setFld]
    split
    next e => rw [← e, h.zero j hj, putBits_zero]
    · exact h.zero j hj
  others j hj hjf := by
    rw [t.reg_setFld, if_neg (ne_of_mem_of_not_mem hf hjf).symm]
    exact h.others j hj hjf
  form := by
    rw [t.setFld_form, h.form]

/-- The counts beside the registers may change with a clear. -/
theorem Clears.counts (h : Clears s ks t) (l : SMap Ladle) (c : SMap Slicer) (g : SMap Swage) (d : Radio) :
    Clears s ks { t with ladles := l, slicers := c, swages := g, radio := d } where
  zero := h.zero
  others := h.others
  form := congrArg (fun u : State => { u with ladles := l, slicers := c, swages := g, radio := d }) h.form

theorem Clears.of_mem_iff (h : Clears s ks t) {js : List Nat} (e : ∀ k, k ∈ js ↔ k ∈ ks) : Clears s js t :=
  ⟨fun k hk => h.zero k ((e k).mp hk), fun k hk => h.others k fun hj => hk ((e k).mpr hj), h.form⟩

end

/-! ## NET_CLR: a counter and a field for each port (R448) -/

/-- What NET_CLR clears of one port. -/
def State.clearPort (s : State) (p : Nat) : State :=
  (s.setReg (winKey p Reg.NET_PCNT) 0).setFld (winKey p Reg.NET_PSTAT) 16 16 0

/-- What NET_CLR does in NET. -/
def State.netCleared (s : State) : State :=
  (List.range 9).foldl State.clearPort (s.zeroRegs [Reg.NET_FHCNT0, Reg.NET_FHCNT1, Reg.NET_FHCNT2, Reg.NET_L2CNT0,
    Reg.NET_L2CNT1, Reg.NET_PTPCNT])

theorem exec_netClr (s : State) :
    exec .netClr s = .next (s.managed fun s => s.atRegion 9 State.netCleared) := rfl

section
variable (s : State)

theorem State.fld_clearPort (p q a b : Nat) (hd : b = 16) (ha : a = 0 ∨ a = 16) :
    (s.clearPort q).fld (winKey p Reg.NET_PSTAT) a b
      = if p = q ∧ a = 16 then 0 else s.fld (winKey p Reg.NET_PSTAT) a b := by
  have hkey : winKey p Reg.NET_PSTAT ≠ winKey q Reg.NET_PCNT := fun e =>
    absurd ((winKey_inj (by decide) (by decide)).mp e).2 (by decide)
  have hport : winKey p Reg.NET_PSTAT = winKey q Reg.NET_PSTAT ↔ p = q :=
    (winKey_inj (by decide) (by decide)).trans (and_iff_left rfl)
  unfold State.clearPort
  rw [State.fld_setFld _ _ _ _ _ _ _ _ (by decide) (by omega), State.fld_setReg, if_neg hkey]
  simp only [hport, hd, and_true, Nat.zero_mod]

theorem Clears.clearPorts {s t : State} {ks : List Nat} (h : Clears s ks t) (ps : List Nat)
    (hp : ∀ p ∈ ps, winKey p Reg.NET_PSTAT ∈ clearedFields) :
    Clears s (ks ++ ps.map (winKey · Reg.NET_PCNT)) (ps.foldl State.clearPort t) := by
  induction ps generalizing ks t with
  | nil => exact h.of_mem_iff (by simp)
  | cons p ps ih =>
    have ⟨hf, hp⟩ := List.forall_mem_cons.mp hp
    have h1 : Clears s (ks ++ [winKey p Reg.NET_PCNT]) (t.clearPort p) := (h.setReg_zero _).setFld 16 16 hf
    exact (ih h1 hp).of_mem_iff (by simp)

theorem State.clears_netCleared : Clears s ([Reg.NET_FHCNT0, Reg.NET_FHCNT1, Reg.NET_FHCNT2, Reg.NET_L2CNT0,
    Reg.NET_L2CNT1, Reg.NET_PTPCNT] ++ (List.range 9).map (winKey · Reg.NET_PCNT)) s.netCleared :=
  (s.clears_zeroRegs _).clearPorts _ (by decide)

theorem State.fld_clearPorts_below (p : Nat) (ps : List Nat) :
    (ps.foldl State.clearPort s).fld (winKey p Reg.NET_PSTAT) 0 16 = s.fld (winKey p Reg.NET_PSTAT) 0 16 :=
  foldl_keeps (fun s : State => s.fld (winKey p Reg.NET_PSTAT) 0 16)
    (fun s q => (s.fld_clearPort p q 0 16 rfl (.inl rfl)).trans (if_neg (by omega))) ps s

theorem State.fld_clearPorts (p : Nat) (ps : List Nat)
    (h : p ∈ ps ∨ s.fld (winKey p Reg.NET_PSTAT) 16 16 = 0) :
    (ps.foldl State.clearPort s).fld (winKey p Reg.NET_PSTAT) 16 16 = 0 := by
  induction ps generalizing s with
  | nil => exact h.resolve_left (List.not_mem_nil)
  | cons q ps ih =>
    refine ih _ ?_
    rw [s.fld_clearPort p q 16 16 rfl (.inr rfl), List.mem_cons] at *
    grind

end

/-! ## RAD_CLR: the counters of RADIO and the frames sent to the steering port (R370, R375) -/

/-- The registers that RAD_CLR clears before STP.STAT. -/
def radKeys : List Nat :=
  [Reg.RAD_CNT, Reg.STP_ERR] ++ ((List.range 8).flatMap fun n => [Reg.JRX_ERR n, Reg.JTX_ERR n]) ++
    ((List.range 64).map fun l => winKey l Reg.AGC_CNT) ++ (List.range 16).map Reg.TE_ACT

/-- What RAD_CLR does in RADIO. -/
def State.radCleared (s : State) : State :=
  let s := (s.setFld Reg.RAD_SYSREF 16 8 0).zeroRegs radKeys
  { (s.setReg Reg.STP_STAT 0) with radio := { s.radio with sent := 0 } }

theorem exec_radClr (s : State) :
    exec .radClr s = .next (s.managed fun s => s.atRegion 8 State.radCleared) := rfl

theorem State.clears_radCleared (s : State) : Clears s (radKeys ++ [Reg.STP_STAT]) s.radCleared := by
  have h : Clears s radKeys ((s.setFld Reg.RAD_SYSREF 16 8 0).zeroRegs radKeys) :=
    (s.clears_nothing.setFld 16 8 (by decide)).zeroRegs radKeys
  unfold State.radCleared
  exact (h.setReg_zero Reg.STP_STAT).counts _ _ _ _

/-! ## CDC_CLR: five counters and two fields (R412) -/

/-- What CDC_CLR does in CODE. -/
def State.cdcCleared (s : State) : State :=
  ((s.zeroRegs [Reg.CDC_CB, Reg.CDC_CBFAIL, Reg.CDC_TBPASS, Reg.CDC_TBFAIL, Reg.CDC_REFUSE]).setFld
    Reg.CDC_RQ 8 8 0).setFld Reg.CDC_RQ 16 8 0

theorem exec_cdcClr (s : State) :
    exec .cdcClr s = .next (s.managed fun s => s.atRegion 10 State.cdcCleared) := rfl

theorem State.clears_cdcCleared (s : State) : Clears s
    [Reg.CDC_CB, Reg.CDC_CBFAIL, Reg.CDC_TBPASS, Reg.CDC_TBFAIL, Reg.CDC_REFUSE] s.cdcCleared :=
  ((s.clears_zeroRegs _).setFld 8 8 (by decide)).setFld 16 8 (by decide)

/-! ## The rows of the table -/

theorem State.clears_pwrClr (s : State) : Clears s ((List.range 14).map fun r => winKey r Reg.PWR_WAIT) s.pwrClr := by
  unfold State.pwrClr
  exact (s.clears_nothing.setFld 16 13 (by decide)).zeroRegs _

theorem State.clears_mgtClr (s : State) : Clears s [Reg.MGT_CCNT, Reg.MGT_ACC] s.mgtClr := by
  unfold State.mgtClr
  exact ((s.clears_zeroRegs _).setFld 16 8 (by decide)).setFld 16 16 (by decide)

/-- What the statement says of one row `(i, at_, ks)` of the table of clears in state `s`. -/
def State.ClearRow (s : State) (e : Instr × Option Nat × List Nat) : Prop :=
  (s.clearFits e.1 = true → (∀ q, e.2.1 = some q → s.served q = true) →
    ∃ t, exec e.1 s = .next t ∧ Clears (if e.2.1.isSome then s.catchUp else s) e.2.2 t) ∧
  (s.clearFits e.1 = false → ∃ t, exec e.1 s = .next t ∧ t.mem = s.mem ∧
    t.fld Reg.MGT_ACC 0 16 = min (s.fld Reg.MGT_ACC 0 16 + 1) 65535)

theorem State.atRegion_of_served (s : State) {r : Nat} (f : State → State) (h : s.served r = true) :
    s.atRegion r f = f s.catchUp := by
  unfold State.atRegion
  exact if_pos h

section
variable {s : State} {i : Instr} {ks : List Nat} {r : Nat} {f : State → State} (hd : s.faults.discard = false)
include hd

theorem exec_of_chip (hx : exec i s = .next (s.managed f)) : exec i s = .next (f s) := by
  rw [hx, s.managed_of_not_discard hd]

theorem exec_of_region (hx : exec i s = .next (s.managed fun s => s.atRegion r f)) (hr : s.served r = true) :
    exec i s = .next (f s.catchUp) := by
  rw [hx, s.managed_of_not_discard hd, s.atRegion_of_served f hr]

/-- A clear of registers that stand in no region. -/
theorem clearRow_chip (hx : exec i s = .next (s.managed f)) (hfit : s.clearFits i = true) (h : Clears s ks (f s)) :
    s.ClearRow (i, none, ks) :=
  ⟨fun _ _ => ⟨f s, exec_of_chip hd hx, h⟩, fun hn => absurd hfit (ne_true_of_eq_false hn)⟩

/-- A clear of registers of a region. -/
theorem clearRow_region (hx : exec i s = .next (s.managed fun s => s.atRegion r f)) (hfit : s.clearFits i = true)
    (h : Clears s.catchUp ks (f s.catchUp)) : s.ClearRow (i, some r, ks) :=
  ⟨fun _ hq => ⟨f s.catchUp, exec_of_region hd hx (hq r rfl), h⟩,
    fun hn => absurd hfit (ne_true_of_eq_false hn)⟩

/-- A clear of registers of a unit that the grade may lack (R15, R180, R181). -/
theorem clearRow_fitted {b : State → Bool} {a : Nat}
    (hx : exec i s = .next (s.managed fun s => s.whereFitted (b s) a fun s => s.atRegion r f))
    (hfit : s.clearFits i = b s) (h : Clears s.catchUp ks (f s.catchUp)) : s.ClearRow (i, some r, ks) := by
  have hx' := exec_of_chip hd hx
  unfold State.whereFitted at hx'
  refine ⟨fun hb hq => ⟨f s.catchUp, ?_, h⟩,
    fun hb => ⟨s.unassigned 0x39 a, ?_, State.raise_mem .., s.fld_unassigned ..⟩⟩
  · rw [hx', if_pos (hfit ▸ hb)]
    exact congrArg _ (s.atRegion_of_served f (hq r rfl))
  · rw [hx', if_neg (ne_true_of_eq_false (hfit ▸ hb))]

theorem clearRows (r u : Nat) : ∀ e ∈ clearTable s.catchUp r u, s.ClearRow e := by
  have zeros (s : State) (ks : List Nat) : Clears s ks (s.zeroRegs ks) := s.clears_zeroRegs ks
  simp only [clearTable, List.forall_mem_append, List.forall_mem_cons, List.not_mem_nil, false_imp_iff, implies_true,
    and_true, and_assoc]
  refine ⟨clearRow_chip hd rfl rfl (zeros ..), clearRow_chip hd rfl rfl (zeros ..),
    clearRow_chip hd rfl rfl (zeros ..), clearRow_fitted hd rfl rfl (zeros ..),
    clearRow_fitted hd rfl rfl (zeros ..), clearRow_fitted hd rfl rfl (zeros ..),
    clearRow_fitted hd rfl rfl ?slcCnt, clearRow_chip hd rfl rfl (zeros ..), clearRow_region hd rfl rfl ?swg,
    clearRow_region hd rfl rfl (zeros ..), clearRow_region hd rfl rfl (zeros ..),
    clearRow_region hd rfl rfl (zeros ..), clearRow_region hd rfl rfl (zeros ..), clearRow_region hd rfl rfl ?ldl,
    clearRow_region hd rfl rfl (zeros ..), clearRow_region hd rfl rfl (zeros ..),
    clearRow_chip hd rfl rfl ((zeros ..).zeroRegs _), clearRow_region hd (exec_radClr s) rfl ?rad,
    clearRow_region hd (exec_cdcClr s) rfl s.catchUp.clears_cdcCleared, clearRow_chip hd rfl rfl (zeros ..),
    clearRow_chip hd rfl rfl (zeros ..), clearRow_region hd (exec_netClr s) rfl s.catchUp.clears_netCleared,
    clearRow_chip hd rfl rfl (zeros ..), clearRow_chip hd rfl rfl (zeros ..), clearRow_region hd rfl rfl (zeros ..),
    clearRow_chip hd rfl rfl s.clears_pwrClr, clearRow_chip hd rfl rfl (zeros ..),
    clearRow_chip hd rfl rfl (zeros ..), clearRow_chip hd rfl rfl s.clears_mgtClr,
    clearRow_region hd rfl rfl (zeros ..), clearRow_region hd rfl rfl (zeros ..),
    clearRow_region hd rfl rfl (zeros ..)⟩
  case slcCnt => exact (zeros s.catchUp [Reg.SLC_FRZ r, Reg.SLC_BYTES r]).counts _ _ _ _
  case swg => exact (zeros s.catchUp [Reg.SWG_CHK r, Reg.SWG_CHKSLOT r, Reg.SWG_BYTES r]).counts _ _ _ _
  case ldl => exact (zeros s.catchUp [Reg.LDL_ERR r u, Reg.LDL_ERRSLOT r u, Reg.LDL_BYTES r u]).counts _ _ _ _
  case rad =>
    refine s.catchUp.clears_radCleared.of_mem_iff fun k => ?_
    simp only [radKeys, List.mem_append, List.mem_cons, List.not_mem_nil, or_false]
    tauto

end

/-! ## Fields -/

section
variable (s : State)

theorem State.fld_radio (d : Radio) (k lo n : Nat) : ({ s with radio := d } : State).fld k lo n = s.fld k lo n := rfl

theorem State.fld_zeroRegs {ks : List Nat} {k : Nat} (hk : k ∉ ks) (lo n : Nat) :
    (s.zeroRegs ks).fld k lo n = s.fld k lo n := by
  unfold State.fld
  rw [s.reg_zeroRegs, if_neg hk]

theorem State.fld_setFld_zero (k : Nat) {lo n : Nat} (h : lo + n ≤ 32) : (s.setFld k lo n 0).fld k lo n = 0 := by
  rw [s.fld_setFld k lo n 0 k lo n h (by omega), if_pos ⟨rfl, rfl, rfl⟩, Nat.zero_mod]

theorem State.fld_setFld_apart (v : Nat) {k lo n j a b : Nat} (h : lo + n ≤ 32) (hb : 0 < b)
    (hd : j ≠ k ∨ a + b ≤ lo ∨ lo + n ≤ a) :
    (s.setFld k lo n v).fld j a b = s.fld j a b := by
  rw [s.fld_setFld k lo n v j a b h (by omega), if_neg (by omega)]

end

/-! ## The obligation -/

section
variable (s : State)

theorem State.fld_cdcCleared : s.cdcCleared.fld Reg.CDC_RQ 8 8 = 0 ∧ s.cdcCleared.fld Reg.CDC_RQ 16 8 = 0 ∧
    s.cdcCleared.fld Reg.CDC_RQ 0 8 = s.fld Reg.CDC_RQ 0 8 := by
  unfold State.cdcCleared
  refine ⟨?_, State.fld_setFld_zero _ _ (by decide), ?_⟩
  · rw [State.fld_setFld_apart _ _ (by decide) (by decide) (by decide), State.fld_setFld_zero _ _ (by decide)]
  · rw [State.fld_setFld_apart _ _ (by decide) (by decide) (by decide),
      State.fld_setFld_apart _ _ (by decide) (by decide) (by decide), s.fld_zeroRegs (by decide)]

theorem State.fld_radCleared : s.radCleared.fld Reg.RAD_SYSREF 16 8 = 0 ∧
    s.radCleared.fld Reg.RAD_SYSREF 0 16 = s.fld Reg.RAD_SYSREF 0 16 := by
  have hz (lo n : Nat) : s.radCleared.fld Reg.RAD_SYSREF lo n
      = (s.setFld Reg.RAD_SYSREF 16 8 0).fld Reg.RAD_SYSREF lo n := by
    simp only [State.radCleared]
    rw [State.fld_radio, State.fld_setReg, if_neg (by decide), State.fld_zeroRegs _ (by decide)]
  rw [hz, hz]
  exact ⟨s.fld_setFld_zero _ (by decide), s.fld_setFld_apart _ (by decide) (by decide) (by decide)⟩

theorem State.fld_netCleared {p : Nat} (hp : p < 9) : s.netCleared.fld (winKey p Reg.NET_PSTAT) 16 16 = 0 ∧
    s.netCleared.fld (winKey p Reg.NET_PSTAT) 0 16 = s.fld (winKey p Reg.NET_PSTAT) 0 16 := by
  have hk : ∀ p < 9, winKey p Reg.NET_PSTAT ∉ [Reg.NET_FHCNT0, Reg.NET_FHCNT1, Reg.NET_FHCNT2, Reg.NET_L2CNT0,
    Reg.NET_L2CNT1, Reg.NET_PTPCNT] := by decide
  exact ⟨State.fld_clearPorts _ p _ (.inl (List.mem_range.mpr hp)),
    (State.fld_clearPorts_below ..).trans (s.fld_zeroRegs (hk p hp) ..)⟩

theorem State.fld_mgtClr : s.mgtClr.fld Reg.MGT_IBI 16 8 = 0 ∧
    s.mgtClr.fld Reg.MGT_IBI 24 8 = s.fld Reg.MGT_IBI 24 8 ∧ s.mgtClr.fld Reg.MGT_SEQSTAT 16 16 = 0 ∧
    s.mgtClr.fld Reg.MGT_SEQSTAT 0 16 = s.fld Reg.MGT_SEQSTAT 0 16 := by
  unfold State.mgtClr
  refine ⟨?_, ?_, State.fld_setFld_zero _ _ (by decide), ?_⟩
  · rw [State.fld_setFld_apart _ _ (by decide) (by decide) (by decide), State.fld_setFld_zero _ _ (by decide)]
  all_goals
    rw [State.fld_setFld_apart _ _ (by decide) (by decide) (by decide),
      State.fld_setFld_apart _ _ (by decide) (by decide) (by decide), s.fld_zeroRegs (by decide)]

theorem State.fld_pwrClr : s.pwrClr.fld Reg.PWR_MEAS 16 13 = 0 ∧
    s.pwrClr.fld Reg.PWR_MEAS 0 13 = s.fld Reg.PWR_MEAS 0 13 := by
  unfold State.pwrClr
  rw [State.fld_zeroRegs _ (by decide), State.fld_zeroRegs _ (by decide)]
  exact ⟨s.fld_setFld_zero _ (by decide), s.fld_setFld_apart _ (by decide) (by decide) (by decide)⟩

end

/-- Settles O52: each row of the table of clears does what `Clears` says (`clearRows`), and the clears of single
fields leave the rest of their registers. -/
theorem clearsSetFieldsToZero : Obligations.ClearsSetFieldsToZero := by
  unfold Obligations.ClearsSetFieldsToZero
  refine ⟨fun s r u hd i at_ ks hmem => ?_, fun s hd => ?_⟩
  · obtain ⟨hclear, hlacks⟩ := clearRows hd r u _ hmem
    refine ⟨fun hfit hq => ?_, hlacks⟩
    obtain ⟨t, ht, h⟩ := hclear hfit hq
    exact ⟨t, ht, h.zero, h.others, h.form⟩
  · refine ⟨fun hr => ?_, fun hr => ?_, ?_, fun hr => ?_, ?_⟩
    · have ⟨hrefused, hfull, hlow⟩ := s.catchUp.fld_cdcCleared
      exact ⟨_, exec_of_region hd (exec_cdcClr s) hr, hrefused, hfull, hlow,
        s.catchUp.clears_cdcCleared.zero _ (by decide)⟩
    · have ⟨hcount, hlow⟩ := s.catchUp.fld_radCleared
      exact ⟨_, exec_of_region hd (exec_radClr s) hr, hcount, hlow,
        s.catchUp.clears_radCleared.zero _ (by decide)⟩
    · have ⟨hibi, hibiLow, hseq, hseqLow⟩ := s.fld_mgtClr
      exact ⟨_, exec_of_chip hd rfl, hibi, hibiLow, hseq, hseqLow, s.clears_mgtClr.zero _ (by decide),
        s.clears_mgtClr.zero _ (by decide)⟩
    · refine ⟨_, exec_of_region hd (exec_netClr s) hr, fun p hp => ?_⟩
      have ⟨hcount, hlow⟩ := s.catchUp.fld_netCleared hp
      exact ⟨hcount, hlow, s.catchUp.clears_netCleared.zero _
        (List.mem_append_right _ (List.mem_map.mpr ⟨p, List.mem_range.mpr hp, rfl⟩))⟩
    · have ⟨hpeak, hlow⟩ := s.fld_pwrClr
      exact ⟨_, exec_of_chip hd rfl, hpeak, hlow⟩

end Sys2Proof.Machine
end

section
/-! SUPPORT. What an engine command leaves alone: the state with everything erased that engine commands share, and
with the unit of one class of commands erased as well. Each function of the model that an engine command calls leaves
it as it was, which is said here once for each, in the order of the model's files. The rules are given to `simp` with
`↓`, so that it meets a whole call before it looks into the state that the call is made on. -/

namespace Sys2Proof.Machine

open Sys2Proof

/-- The classes of engine commands that alone write a unit of the state, and `shared` for the others (R78, R299). -/
inductive Owner where
  | shared | planisher | tinker | swage | crucible | slicer | transform | net
  deriving DecidableEq

/-- The unit of class `u`, erased for the commands of class `o = u`. -/
def Owner.hide {α : Type} (u o : Owner) (empty x : α) : α := if o = u then empty else x

theorem Owner.eq_of_hide {α : Type} {u o : Owner} {empty x y : α} (h : u.hide o empty x = u.hide o empty y)
    (hu : o ≠ u) : x = y := by
  unfold Owner.hide at h
  rwa [if_neg hu, if_neg hu] at h

/-- The part of the state that no engine command of class `o` writes; all else is erased. -/
def State.besides (o : Owner) (s : State) : State where
  pending := s.pending
  commit := s.commit
  mem := { te := Owner.transform.hide o [] s.mem.te, flash := s.mem.flash, store := s.mem.store }
  slicers := Owner.slicer.hide o [] s.slicers
  swages := Owner.swage.hide o [] s.swages
  crucibles := Owner.crucible.hide o [] s.crucibles
  planishers := Owner.planisher.hide o [] s.planishers
  tinkers := Owner.tinker.hide o [] s.tinkers
  plan := s.plan
  radio := Owner.transform.hide o {} s.radio
  net := Owner.net.hide o {} s.net
  time := s.time
  power := s.power
  start := s.start
  sec := s.sec
  seq := s.seq
  i3c := s.i3c
  test := s.test

theorem State.besides_snd {o : Owner} {α : Type} {p : α × State} {a : α} {t b : State} (e : p = (a, t))
    (h : p.2.besides o = b) : t.besides o = b := by
  rwa [e] at h

section
variable (s : State) {o : Owner}

theorem State.besides_ite (c : Prop) [Decidable c] (a b : State) :
    (if c then a else b).besides o = if c then a.besides o else b.besides o := apply_ite _ ..

theorem State.foldl_besides {β : Type} {f : State → β → State} (h : ∀ s b, (f s b).besides o = s.besides o)
    (l : List β) : (l.foldl f s).besides o = s.besides o := foldl_keeps (State.besides o) h l s

theorem State.foldr_besides {β : Type} {f : β → State → State} (h : ∀ s b, (f b s).besides o = s.besides o)
    (l : List β) : (l.foldr f s).besides o = s.besides o := foldr_keeps (State.besides o) h l s

/-- An update of fields that engine commands share leaves the rest. -/
theorem State.besides_update {s : State} {o : Owner} {x1 x2 x3 x4 x5 x6 x7 x8 x9 x10 x11 x12 x13 x14 x15 x16 x17 x18
    x19 x20} :
    (State.mk s.pending x1 x2 s.commit x3 x4 x5 x6 x7 x8 s.mem x9 x10 x11 x12 x13 s.slicers s.swages s.crucibles
      s.planishers s.tinkers s.plan x14 s.radio x15 x16 s.net s.time x17 s.power s.start s.sec s.seq s.i3c s.test
      x18 x19 x20).besides o = s.besides o := (rfl)

/-- So does an update of the scratchpad, of HBM and of the marks beside memory. -/
theorem State.besides_memory {s : State} {o : Owner} {m1 m2 m3 m4 m5 m6 m7 m8 x1 x2 x3 x4 x5 x6 x7 x8 x9 x10 x11 x12
    x13 x14 x15 x16 x17 x18 x19 x20} :
    (State.mk s.pending x1 x2 s.commit x3 x4 x5 x6 x7 x8
      (Memories.mk m1 m2 m3 m4 m5 s.mem.te m6 m7 m8 s.mem.flash s.mem.store) x9 x10 x11 x12 x13 s.slicers s.swages
      s.crucibles s.planishers s.tinkers s.plan x14 s.radio x15 x16 s.net s.time x17 s.power s.start s.sec s.seq s.i3c
      s.test x18 x19 x20).besides o = s.besides o := (rfl)

/-- The commands of NET write its state besides. -/
theorem State.besides_net {s : State} {x1 x2 x3 x4 x5 x6 x7 x8 x9 x10 x11 x12 x13 x14 x15 x16 x17 x18 x19 x20 n} :
    (State.mk s.pending x1 x2 s.commit x3 x4 x5 x6 x7 x8 s.mem x9 x10 x11 x12 x13 s.slicers s.swages s.crucibles
      s.planishers s.tinkers s.plan x14 s.radio x15 x16 n s.time x17 s.power s.start s.sec s.seq s.i3c s.test
      x18 x19 x20).besides .net = s.besides .net := (rfl)

/-- The commands of the transform engines write the RADIO state besides. -/
theorem State.besides_radio {s : State} {x1 x2 x3 x4 x5 x6 x7 x8 x9 x10 x11 x12 x13 x14 x15 x16 x17 x18 x19 x20 n} :
    (State.mk s.pending x1 x2 s.commit x3 x4 x5 x6 x7 x8 s.mem x9 x10 x11 x12 x13 s.slicers s.swages s.crucibles
      s.planishers s.tinkers s.plan x14 n x15 x16 s.net s.time x17 s.power s.start s.sec s.seq s.i3c s.test
      x18 x19 x20).besides .transform = s.besides .transform := (rfl)

/-! ## Machine/Ops -/

theorem State.setReg_besides (k : Nat) (w : Word) : (s.setReg k w).besides o = s.besides o :=
  State.besides_update

theorem State.setFld_besides (k lo n v : Nat) : (s.setFld k lo n v).besides o = s.besides o :=
  State.besides_update

theorem State.setBit_besides (k i : Nat) (b : Bool) : (s.setBit k i b).besides o = s.besides o :=
  State.besides_update

theorem State.bump_besides (k lo n by_ : Nat) : (s.bump k lo n by_).besides o = s.besides o :=
  State.besides_update

theorem State.bumpIf_besides (b : Bool) (k lo n by_ : Nat) : (s.bumpIf b k lo n by_).besides o = s.besides o := by
  rw [State.bumpIf_form, State.besides_update]

theorem State.orFlags_besides (k : Nat) (f : FlagWord) : (s.orFlags k f).besides o = s.besides o :=
  State.besides_update

theorem State.raise_besides (code : Nat) (cls : FaultClass) (loc : BitVec 64) (d0 d1 : Nat) :
    (s.raise code cls loc d0 d1).besides o = s.besides o := by
  rw [State.raise_form, State.besides_update]

theorem State.onCtx_besides (c : Nat) (f : Ctx → Ctx) : (s.onCtx c f).besides o = s.besides o :=
  State.besides_update

theorem State.countJob_besides (client which n : Nat) : (s.countJob client which n).besides o = s.besides o :=
  State.besides_update

theorem State.setLadle_besides (r l : Nat) (x : Ladle) : (s.setLadle r l x).besides o = s.besides o :=
  State.besides_update

theorem State.onHandIn_besides (j : Job) (f : HandIn → HandIn) : (s.onHandIn j f).besides o = s.besides o := by
  rw [State.onHandIn_form, State.besides_update]

theorem State.dropTaster_besides (js : List Job) : (s.dropTaster js).besides o = s.besides o := by
  rw [State.dropTaster_form, State.besides_update]

theorem State.abortJob_besides (c : Nat) : (s.abortJob c).besides o = s.besides o := by
  rw [State.abortJob_form, State.besides_update]

theorem State.abortJobs_besides (c : Nat) (p : Job → Bool) : (s.abortJobs c p).besides o = s.besides o := by
  rw [State.abortJobs_form, State.besides_update]

theorem State.abortWhere_besides (q : Ctx → Bool) (p : Job → Bool) : (s.abortWhere q p).besides o = s.besides o := by
  rw [State.abortWhere_form, State.besides_update]

theorem State.voidEntry_besides (lag region buf cause : Nat) :
    (s.voidEntry lag region buf cause).besides o = s.besides o := by
  rw [State.voidEntry_form, State.besides_update]

theorem State.voidBuf_besides (ctx : Option Nat) (region buf cause : Nat) :
    (s.voidBuf ctx region buf cause).besides o = s.besides o := by
  rw [State.voidBuf_form, State.besides_update]

theorem State.voidOuts_besides (ctx : Option Nat) (outs : List (Nat × Nat)) (cause : Nat) :
    (s.voidOuts ctx outs cause).besides o = s.besides o := by
  unfold State.voidOuts
  simp only [↓State.voidBuf_besides, ↓State.foldl_besides, implies_true]

theorem State.complete_besides (ctx : Option Nat) (region buf : Nat) :
    (s.complete ctx region buf).besides o = s.besides o := by
  rw [State.complete_form, State.besides_update]

theorem State.clearBuf_besides (c buf : Nat) : (s.clearBuf c buf).besides o = s.besides o := by
  rw [State.clearBuf_form, State.besides_update]

theorem State.voidRegion_besides (r cause : Nat) : (s.voidRegion r cause).besides o = s.besides o := by
  rw [State.voidRegion_form, State.besides_update]

theorem State.closeGate_besides (r cause : Nat) : (s.closeGate r cause).besides o = s.besides o := by
  rw [State.closeGate_form, State.besides_update]

theorem State.fenceFault_besides (r cause : Nat) : (s.fenceFault r cause).besides o = s.besides o := by
  rw [State.fenceFault_form, State.besides_update]

theorem State.blockRaise_besides (r cls idx code : Nat) (loc : BitVec 64) (d0 d1 : Nat) :
    (s.blockRaise r cls idx code loc d0 d1).besides o = s.besides o := by
  rw [State.blockRaise_form, State.besides_update]

theorem State.bankCollision_besides (r bank : Nat) : (s.bankCollision r bank).besides o = s.besides o := by
  unfold State.bankCollision
  simp only [↓State.bump_besides, ↓State.raise_besides, ↓State.fenceFault_besides, ↓State.besides_ite, ↓ite_self,
    ↓State.besides_update]

theorem State.later_besides (t region : Nat) (e : Effect) : (s.later t region e).besides o = s.besides o := by
  rw [State.later_form, State.besides_update]

theorem State.laters_besides (t region : Nat) (es : List Effect) :
    (s.laters t region es).besides o = s.besides o := by
  rw [State.laters_form, State.besides_update]

theorem State.reach_besides (t : Nat) : (s.reach t).besides o = s.besides o := by
  rw [State.reach_form, State.besides_update]

theorem State.countBreach_besides (r t : Nat) : (s.countBreach r t).besides o = s.besides o := by
  rw [State.countBreach_form, State.besides_update]

theorem State.breachAt_besides (ctx : Option Nat) (loc : BitVec 64) (w0 : Word) (planned cycle late : Nat) :
    (s.breachAt ctx loc w0 planned cycle late).besides o = s.besides o := by
  rw [State.breachAt_form, State.besides_update]

theorem State.breach_besides (ctx : Option Nat) (loc : BitVec 64) (w0 : Word) (planned late : Nat) :
    (s.breach ctx loc w0 planned late).besides o = s.besides o := by
  unfold State.breach
  simp only [↓State.breachAt_besides]

theorem State.moreBreaches_besides (ctx : Option Nat) (loc : BitVec 64) (t n : Nat) :
    (s.moreBreaches ctx loc t n).besides o = s.besides o := by
  unfold State.moreBreaches
  simp only [↓State.laters_besides, ↓State.later_besides, ↓State.besides_ite, ↓ite_self]

theorem State.breachRun_besides (ctx : Option Nat) (loc : BitVec 64) (w0 : Word) (planned cycle late n : Nat) :
    (s.breachRun ctx loc w0 planned cycle late n).besides o = s.besides o := by
  unfold State.breachRun
  simp only [↓State.breachAt_besides, ↓State.moreBreaches_besides, ↓State.foldl_besides, implies_true,
    ↓State.besides_ite, ↓ite_self]

theorem State.fresh_besides : s.fresh.2.besides o = s.besides o := by
  unfold State.fresh
  simp only [↓State.besides_update]

theorem State.draw_besides (n : Nat) : (s.draw n).2.besides o = s.besides o := by
  unfold State.draw
  simp only [↓State.besides_update]

theorem State.drawFor_besides (elastic : Bool) (n : Nat) : (s.drawFor elastic n).2.besides o = s.besides o := by
  unfold State.drawFor
  simp only [↓State.draw_besides, ↓State.besides_ite, ↓ite_self, ↓snd_ite, ↓State.besides_update]

theorem State.eccRecord_besides (unc : Bool) (r cls idx : Nat) (loc : BitVec 64) (addr hi : Nat) :
    (s.eccRecord unc r cls idx loc addr hi).besides o = s.besides o := by
  unfold State.eccRecord
  simp only [↓State.fresh_besides, ↓State.blockRaise_besides, ↓State.raise_besides, ↓State.besides_ite, ↓ite_self]

theorem State.eccLater_besides (unc : Bool) (r cls idx : Nat) (loc : BitVec 64) (addr t : Nat) :
    (s.eccLater unc r cls idx loc addr t).besides o = s.besides o := by
  unfold State.eccLater
  simp only [↓State.fresh_besides, ↓State.later_besides, ↓State.besides_ite, ↓ite_self]

theorem State.spineFault_besides (ctx : Option Nat) (f : SpineFault) :
    (s.spineFault ctx f).besides o = s.besides o := by
  unfold State.spineFault
  split <;> simp only [↓State.voidOuts_besides, ↓State.raise_besides, ↓State.setBit_besides, ↓State.eccRecord_besides,
    ↓State.besides_update]

/-! ## Machine/Operands -/

theorem State.neverStarts_besides (c : Cmd) (t : Nat) : (s.neverStarts c t).besides o = s.besides o := by
  unfold State.neverStarts
  simp only [↓State.besides_update]

theorem State.issueData_besides (c : Cmd) (loc : BitVec 64) (free : Nat) :
    (s.issueData c loc free).2.besides o = s.besides o := by
  unfold State.issueData
  simp only [↓State.neverStarts_besides, ↓State.reach_besides, ↓State.breach_besides, ↓State.besides_ite, ↓ite_self,
    ↓snd_ite]

theorem State.countVoidIn_besides (step : Nat) : (s.countVoidIn step).besides o = s.besides o := by
  unfold State.countVoidIn
  simp only [↓State.bump_besides, ↓State.besides_ite, ↓ite_self, ↓State.besides_update]

theorem State.skipVoidJob_besides (c : Nat) : (s.skipVoidJob c).besides o = s.besides o := by
  unfold State.skipVoidJob
  extract_lets
  split <;> simp only [↓State.onCtx_besides, ↓State.countVoidIn_besides, ↓State.besides_ite, ↓ite_self]

theorem State.zeroRun_besides (c : Cmd) (t : Nat) : (s.zeroRun c t).besides o = s.besides o := by
  unfold State.zeroRun
  simp only [↓State.complete_besides, ↓State.reach_besides, ↓State.onCtx_besides, ↓State.foldl_besides, implies_true]

theorem State.issueElastic_besides (c : Cmd) (loc : BitVec 64) (free engine : Nat) :
    (s.issueElastic c loc free engine).2.besides o = s.besides o := by
  unfold State.issueElastic
  simp only [↓State.skipVoidJob_besides, ↓State.zeroRun_besides, ↓State.reach_besides, ↓State.bump_besides,
    ↓State.raise_besides, ↓State.abortJob_besides, ↓State.onCtx_besides, ↓State.breach_besides, ↓State.besides_ite,
    ↓ite_self, ↓snd_ite]

theorem State.settleSignals_besides (t : Nat) : (s.settleSignals t).besides o = s.besides o := by
  unfold State.settleSignals
  simp only [↓State.complete_besides, ↓State.foldr_besides, implies_true, ↓State.besides_update]

theorem State.signalAt_besides (ctx : Option Nat) (region buf due : Nat) :
    (s.signalAt ctx region buf due).besides o = s.besides o := by
  unfold State.signalAt
  simp only [↓State.besides_ite, ↓ite_self, ↓State.besides_update]

theorem State.meetSpine_besides (x : Issue × State) (c : Cmd) :
    (State.meetSpine x c).2.besides o = x.2.besides o := by
  unfold State.meetSpine
  split <;> simp only [↓State.spineFault_besides, ↓State.besides_ite, ↓ite_self, ↓snd_ite]

theorem State.track_besides (c : Cmd) (i : Issue) (port finish : Nat) (outs : List (Nat × Nat)) :
    (s.track c i port finish outs).besides o = s.besides o := by
  unfold State.track
  split <;> simp only [↓State.onCtx_besides, ↓State.countJob_besides, ↓State.onHandIn_besides, ↓State.besides_ite,
    ↓ite_self, ↓State.besides_update]

theorem State.setByte_besides (p : Place) (b : Byte) : (s.setByte p b).besides o = s.besides o := by
  unfold State.setByte
  split <;> simp only [↓State.besides_memory]

theorem State.setHallmark_besides (g : Nat × Nat) (h : Word) : (s.setHallmark g h).besides o = s.besides o := by
  unfold State.setHallmark
  simp only [↓State.besides_ite, ↓ite_self, ↓State.besides_memory]

theorem State.remark_besides (g : Nat × Nat) : (s.remark g).besides o = s.besides o := by
  unfold State.remark
  simp only [↓State.setHallmark_besides]

theorem State.ladleErr_besides (r l lo n : Nat) : (s.ladleErr r l lo n).besides o = s.besides o := by
  unfold State.ladleErr
  simp only [↓State.setReg_besides, ↓State.bump_besides, ↓State.besides_ite, ↓ite_self]

theorem State.padEcc_besides (w e : Nat) : (s.padEcc w e).besides o = s.besides o := by
  unfold State.padEcc
  simp only [↓State.bump_besides, ↓State.setReg_besides, ↓State.eccRecord_besides, ↓State.besides_ite, ↓ite_self]

theorem State.markWords_besides (es : List (Nat × Nat)) : (s.markWords es).besides o = s.besides o := by
  unfold State.markWords
  simp only [↓State.drawFor_besides, ↓State.foldl_besides, implies_true, ↓State.besides_ite, ↓ite_self,
    ↓State.besides_memory]

theorem State.setActive_besides (r l : Nat) (t : Option Stream) : (s.setActive r l t).besides o = s.besides o := by
  unfold State.setActive
  simp only [↓State.setLadle_besides]

theorem State.onStream_besides (p : Port) (f : Stream → Stream) : (s.onStream p f).besides o = s.besides o := by
  unfold State.onStream
  split <;> simp only [↓State.setActive_besides]

theorem State.onStreamW_besides (p : Port) (f : Stream → Stream) : (s.onStreamW p f).besides o = s.besides o := by
  unfold State.onStreamW
  split <;> simp only [↓State.setActive_besides]

theorem State.hallFaults_besides (r l : Nat) (gs : List (Nat × Nat)) :
    (s.hallFaults r l gs).besides o = s.besides o := by
  unfold State.hallFaults
  simp only [↓State.blockRaise_besides, ↓State.ladleErr_besides, ↓State.foldl_besides, implies_true]

theorem State.rangeFaults_besides (r l : Nat) (t : Stream) (n : Nat) :
    (s.rangeFaults r l t n).besides o = s.besides o := by
  unfold State.rangeFaults
  simp only [↓State.ladleErr_besides, ↓State.raise_besides, ↓State.foldl_besides, implies_true]

theorem State.take_besides (p : Port) (kind n : Nat) : (s.take p kind n).2.besides o = s.besides o := by
  unfold State.take
  split <;> simp only [↓State.bumpIf_besides, ↓State.hallFaults_besides, ↓State.rangeFaults_besides,
    ↓State.ladleErr_besides, ↓State.bump_besides, ↓State.padEcc_besides, ↓State.voidBuf_besides,
    ↓State.setLadle_besides, ↓State.foldl_besides, implies_true, ↓State.besides_ite, ↓ite_self, ↓snd_ite]

theorem State.renewWords_besides (ps : List Place) : (s.renewWords ps).besides o = s.besides o := by
  unfold State.renewWords
  simp only [↓State.padEcc_besides, ↓State.foldl_besides, implies_true, ↓State.besides_ite, ↓ite_self,
    ↓State.besides_memory]

theorem State.putBytes_besides (l : List (Place × Byte)) : (s.putBytes l).besides o = s.besides o := by
  induction l generalizing s with
  | nil => rfl
  | cons e l ih => exact (ih _).trans (s.setByte_besides ..)

theorem State.give_besides (p : Port) (kind : Nat) (bs : List Byte) : (s.give p kind bs).besides o = s.besides o := by
  unfold State.give
  split <;> simp only [↓State.renewWords_besides, ↓State.putBytes_besides, ↓State.rangeFaults_besides,
    ↓State.bump_besides, ↓State.hallFaults_besides, ↓State.voidBuf_besides, ↓State.setLadle_besides,
    ↓State.besides_ite, ↓ite_self]

theorem State.fillGranule_besides (keys : List Nat) (g : Nat × Nat) :
    (s.fillGranule keys g).besides o = s.besides o := by
  unfold State.fillGranule
  simp only [↓State.foldl_besides, implies_true, ↓State.besides_ite, ↓ite_self, ↓State.besides_memory]

theorem State.takeScale_besides (p : Port) : (s.takeScale p).2.2.besides o = s.besides o := by
  unfold State.takeScale
  simp only [↓State.take_besides, ↓State.besides_ite, ↓ite_self, ↓snd_ite]

theorem State.scaleSkew_besides (ctx : Option Nat) (region unit : Nat) (loc : BitVec 64) (t : Nat) :
    (s.scaleSkew ctx region unit loc t).besides o = s.besides o := by
  unfold State.scaleSkew
  simp only [↓State.laters_besides]

theorem State.setChan_besides (k : Nat) (c : Channel) : (s.setChan k c).besides o = s.besides o :=
  State.besides_update

theorem State.settleTaps_besides (t : Nat) : (s.settleTaps t).besides o = s.besides o := by
  unfold State.settleTaps
  simp only [↓State.setChan_besides, ↓State.foldl_besides, implies_true, ↓State.besides_update]

theorem State.openChans_besides (region unit base count : Nat) (f : Fmt) (t : Nat) :
    (s.openChans region unit base count f t).2.besides o = s.besides o := by
  unfold State.openChans
  simp only [↓State.settleTaps_besides, ↓State.setChan_besides, ↓State.foldl_besides, implies_true]

theorem State.closeChans_besides (cs : ChanSet) (vs : List (Nat × FVal)) (due : Nat) :
    (s.closeChans cs vs due).besides o = s.besides o := by
  unfold State.closeChans
  simp only [↓State.foldl_besides, implies_true, ↓State.besides_update]

theorem State.closeStage_besides (g : Stage) (due : Nat) : (s.closeStage g due).besides o = s.besides o := by
  unfold State.closeStage
  simp only [↓State.foldl_besides, implies_true, ↓State.besides_update]

theorem State.countFlags_besides (region due : Nat) (fs : List FlagWord) :
    (s.countFlags region due fs).besides o = s.besides o := by
  unfold State.countFlags
  simp only [↓State.laters_besides]

theorem State.shadowFault_besides (r cls idx : Nat) (p : Option Nat) (t : Nat) :
    (s.shadowFault r cls idx p t).besides o = s.besides o := by
  unfold State.shadowFault
  split <;> simp only [↓State.later_besides]

theorem State.eccCells_besides (c : Cmd) (cls idx t : Nat) : (s.eccCells c cls idx t).2.besides o = s.besides o := by
  unfold State.eccCells
  simp only [↓State.eccLater_besides, ↓State.foldl_besides, implies_true]

theorem State.eccReads_besides (c : Cmd) (cls idx t : Nat) : (s.eccReads c cls idx t).2.besides o = s.besides o := by
  unfold State.eccReads
  simp only [↓State.eccLater_besides, ↓State.foldl_besides, implies_true]

theorem State.spoil_besides (r l : Nat) (p : Option Nat) : (s.spoil r l p).besides o = s.besides o := by
  unfold State.spoil
  split
  · rfl
  extract_lets +onlyGivenNames s1
  have h1 : s1.besides o = s.besides o := s.shadowFault_besides ..
  split <;> simp only [↓State.voidBuf_besides, ↓State.setLadle_besides, h1]

theorem State.stageTags_besides (r l : Nat) (tags : List Nat) : (s.stageTags r l tags).besides o = s.besides o := by
  unfold State.stageTags
  split <;> simp only [↓State.voidBuf_besides, ↓State.scaleSkew_besides, ↓State.setActive_besides, ↓State.besides_ite,
    ↓ite_self]

theorem State.takeElems_besides (p : Port) (n ne : Nat) (f : Fmt) (zp : Nat → Option Nat) :
    (s.takeElems p n ne f zp).2.besides o = s.besides o := by
  unfold State.takeElems
  split <;> simp only [↓State.take_besides, ↓State.takeScale_besides, ↓State.onStream_besides,
    ↓State.stageTags_besides, ↓State.spoil_besides, ↓State.besides_ite, ↓ite_self, ↓snd_ite]

theorem State.giveStaged_besides (p : Port) (vals : List (Nat → FVal)) :
    (s.giveStaged p vals).besides o = s.besides o := by
  unfold State.giveStaged
  split <;> simp only [↓State.setActive_besides, ↓State.give_besides, ↓State.spoil_besides, ↓State.besides_ite,
    ↓ite_self]

theorem State.giveElems_besides (p : Port) (f : Fmt) (codes : List Nat) (exps : List Nat) (exOf : Nat → Nat)
    (scale : List ScaleBlock) :
    (s.giveElems p f codes exps exOf scale).besides o = s.besides o := by
  unfold State.giveElems
  split <;> simp only [↓State.stageTags_besides, ↓State.giveStaged_besides, ↓State.give_besides, ↓State.besides_ite,
    ↓ite_self]

theorem State.giveFlags_besides (p : Port) (due : Nat) (flags : List FlagWord) :
    (s.giveFlags p due flags).besides o = s.besides o := by
  unfold State.giveFlags
  simp only [↓State.onStreamW_besides, ↓State.countFlags_besides, ↓State.give_besides]

theorem State.stageScale_besides (p : Port) : (s.stageScale p).besides o = s.besides o := by
  unfold State.stageScale
  split
  · rfl
  split <;> simp only [↓State.give_besides, ↓State.besides_ite, ↓ite_self]

theorem State.endWrite_besides (p : Port) (at_ : Nat) (ok void : Bool) (cause : Nat) :
    (s.endWrite p at_ ok void cause).besides o = s.besides o := by
  unfold State.endWrite
  extract_lets +onlyGivenNames s1 r l
  have h1 : s1.besides o = s.besides o := s.stageScale_besides p
  split <;> simp only [↓State.voidBuf_besides, ↓State.voidEntry_besides, ↓State.setLadle_besides,
    ↓State.remark_besides, ↓State.fillGranule_besides, ↓State.foldl_besides, implies_true, ↓State.besides_ite,
    ↓ite_self, h1]

theorem State.setGrants_besides (r : Nat) (gs : List Grant) : (s.setGrants r gs).besides o = s.besides o :=
  State.besides_update

theorem State.setWaits_besides (r : Nat) (ws : List LeaveReq) : (s.setWaits r ws).besides o = s.besides o :=
  State.besides_update

theorem State.takeLeave_besides (c : Cmd) (engine leave : Nat) :
    (s.takeLeave c engine leave).2.besides o = s.besides o := by
  unfold State.takeLeave
  simp only [↓State.setGrants_besides, ↓State.setWaits_besides, ↓State.onCtx_besides, ↓State.besides_ite, ↓ite_self,
    ↓snd_ite]

theorem State.useLeave_besides (c : Cmd) (finish : Nat) : (s.useLeave c finish).besides o = s.besides o := by
  unfold State.useLeave
  simp only [↓State.setGrants_besides, ↓State.besides_ite, ↓ite_self]

theorem State.waitBreach_besides (i : Issue) (c : Cmd) (loc : BitVec 64) (cycles : Nat) :
    (s.waitBreach i c loc cycles).besides o = s.besides o := by
  unfold State.waitBreach
  simp only [↓State.breach_besides, ↓State.besides_ite, ↓ite_self]

theorem State.freezeBreaches_besides (i : Issue) (c : Cmd) (loc : BitVec 64) (fs : Freezes) :
    (s.freezeBreaches i c loc fs).besides o = s.besides o := by
  exact foldl_keeps (fun x : Nat × State => x.2.besides o) (fun x f => x.2.breachRun_besides ..) fs (0, s)

theorem State.takenBy_besides (p : Port) (fs : Freezes) (cycle : Nat) (gap : Nat) :
    (s.takenBy p fs cycle gap).besides o = s.besides o := by
  unfold State.takenBy
  split <;> simp only [↓State.setActive_besides, ↓State.besides_ite, ↓ite_self]

/-! ## Machine/Array -/

theorem State.setAnvil_besides (r a : Nat) (x : Anvil) : (s.setAnvil r a x).besides o = s.besides o :=
  State.besides_update

theorem State.countFreeze_besides (r a lo : Nat) (fs : Freezes) :
    (s.countFreeze r a lo fs).besides o = s.besides o := by
  unfold State.countFreeze
  simp only [↓State.later_besides, ↓State.foldl_besides, implies_true]

theorem State.freezeAnvil_besides (i : Issue) (c : Cmd) (loc : BitVec 64) (fs : Freezes) :
    (s.freezeAnvil i c loc fs).besides o = s.besides o := by
  unfold State.freezeAnvil
  split
  · rfl
  extract_lets +onlyGivenNames s1 v a s2 here s3 s4
  have h3 : s3.besides o = s.besides o := by
    simp only [s3, s2, s1, ↓State.freezeBreaches_besides, ↓State.setAnvil_besides, ↓State.voidOuts_besides,
      ↓State.foldl_besides, implies_true, ↓State.besides_ite, ↓ite_self]
  have h4 : s4.besides o = s.besides o := by
    unfold s4; split <;> simp only [↓State.onCtx_besides, h3]
  simp only [↓State.besides_update, h4]

theorem State.drainChecks_besides (c : Cmd) (at_ m : Nat) (bad skip : Bool) (want found seq : Nat) :
    (s.drainChecks c at_ m bad skip want found seq).besides o = s.besides o := by
  unfold State.drainChecks
  simp only [↓State.laters_besides, ↓State.later_besides, ↓State.besides_ite, ↓ite_self]

theorem State.drainRow_besides (d : Drain) (at_ : Nat) : (s.drainRow d at_).besides o = s.besides o := by
  unfold State.drainRow
  simp only [↓State.setAnvil_besides, ↓State.countFreeze_besides, ↓State.freezeAnvil_besides,
    ↓State.drainChecks_besides, ↓State.eccLater_besides, ↓State.foldl_besides, implies_true, ↓State.besides_ite,
    ↓ite_self]

theorem State.drainOut_besides (d : Drain) (n : Nat) (scale : List ScaleBlock) :
    (s.drainOut d n scale).2.besides o = s.besides o := by
  unfold State.drainOut
  simp only [↓State.give_besides, ↓State.giveElems_besides, ↓State.besides_ite, ↓ite_self, ↓snd_ite]

theorem State.endDrain_besides (d : Drain) : (s.endDrain d).besides o = s.besides o := by
  unfold State.endDrain
  simp only [↓State.scaleSkew_besides, ↓State.shadowFault_besides, ↓State.drainOut_besides, ↓State.closeChans_besides,
    ↓State.giveFlags_besides, ↓State.later_besides, ↓State.endWrite_besides, ↓State.setAnvil_besides,
    ↓State.besides_ite, ↓ite_self]

theorem State.drainTo_besides (r a t : Nat) (x : Nat) : (s.drainTo r a t x).besides o = s.besides o := by
  induction x generalizing s with
  | zero => rfl
  | succ n ih =>
    unfold State.drainTo
    split
    · rfl
    · simp only [↓State.drainRow_besides, ↓State.endDrain_besides, ↓ih, ↓State.besides_ite, ↓ite_self]

theorem State.drainsTo_besides (t : Nat) : (s.drainsTo t).besides o = s.besides o := by
  refine s.foldl_besides (fun s e => ?_) s.anvils
  split <;> simp only [↓State.drainTo_besides]

/-! ## Machine/Issue -/

theorem State.closeDone_besides (r l t : Nat) : (s.closeDone r l t).besides o = s.besides o := by
  unfold State.closeDone
  split
  · rfl
  split <;> simp only [↓State.setActive_besides, ↓State.closeStage_besides, ↓State.besides_ite, ↓ite_self]

theorem State.meetStore_besides (x : Issue × State) (c : Cmd) (loc : BitVec 64) :
    (State.meetStore x c loc).2.besides o = x.2.besides o := by
  unfold State.meetStore
  split <;> simp only [↓State.eccLater_besides, ↓State.later_besides, ↓State.besides_ite, ↓ite_self, ↓snd_ite]

theorem State.issue_besides (c : Cmd) (loc : BitVec 64) (free engine : Nat) :
    (s.issue c loc free engine).2.besides o = s.besides o := by
  unfold State.issue
  simp only [↓State.settleSignals_besides, ↓State.drainsTo_besides, ↓State.issueElastic_besides,
    ↓State.issueData_besides, ↓State.meetStore_besides, ↓State.meetSpine_besides, ↓State.besides_ite, ↓ite_self,
    ↓snd_ite]

/-! ## Machine/Anvil -/

theorem State.readTile_besides (c : Cmd) (i : Issue) : (s.readTile c i).2.2.besides o = s.besides o := by
  unfold State.readTile
  simp only [↓State.takeElems_besides]

theorem State.streamRows_besides (c : Cmd) (i : Issue) (t : Tile) (m enter : Nat) (extraVoid : Bool)
    (cause : Nat) :
    (s.streamRows c i t m enter extraVoid cause).2.besides o = s.besides o := by
  unfold State.streamRows
  simp only [↓State.takeElems_besides, ↓State.eccLater_besides, ↓State.foldl_besides, implies_true,
    ↓State.besides_ite, ↓ite_self, ↓snd_ite]

theorem State.latchZero_besides (c : Cmd) (fs : Freezes) (zeros : List (Nat × Nat × Nat)) :
    (s.latchZero c fs zeros).besides o = s.besides o := by
  unfold State.latchZero
  simp only [↓State.laters_besides, ↓State.foldl_besides, implies_true]

theorem State.countRows_besides (c : Cmd) (fs : Freezes) (m d enter : Nat) :
    (s.countRows c fs m d enter).besides o = s.besides o := by
  unfold State.countRows
  simp only [↓State.later_besides, ↓State.foldl_besides, implies_true]

theorem State.anvilLoad_besides (c : Cmd) : (s.anvilLoad c).besides o = s.besides o := by
  unfold State.anvilLoad
  simp only [↓State.drainsTo_besides, ↓State.issue_besides, ↓State.readTile_besides, ↓State.takenBy_besides,
    ↓State.countFreeze_besides, ↓State.freezeAnvil_besides, ↓State.setAnvil_besides, ↓State.track_besides,
    ↓State.besides_ite, ↓ite_self]

theorem State.anvilStream_besides (c : Cmd) : (s.anvilStream c).besides o = s.besides o := by
  unfold State.anvilStream
  simp only [↓State.drainsTo_besides, ↓State.takeLeave_besides, ↓State.issue_besides, ↓State.blockRaise_besides,
    ↓State.streamRows_besides, ↓State.latchZero_besides, ↓State.takenBy_besides, ↓State.countFreeze_besides,
    ↓State.freezeAnvil_besides, ↓State.setAnvil_besides, ↓State.countRows_besides, ↓State.useLeave_besides,
    ↓State.track_besides, ↓State.besides_ite, ↓ite_self]

theorem State.anvilLoadStream_besides (c : Cmd) : (s.anvilLoadStream c).besides o = s.besides o := by
  unfold State.anvilLoadStream
  simp only [↓State.drainsTo_besides, ↓State.takeLeave_besides, ↓State.issue_besides, ↓State.readTile_besides,
    ↓State.streamRows_besides, ↓State.latchZero_besides, ↓State.takenBy_besides, ↓State.countFreeze_besides,
    ↓State.freezeAnvil_besides, ↓State.setAnvil_besides, ↓State.countRows_besides, ↓State.useLeave_besides,
    ↓State.track_besides, ↓State.besides_ite, ↓ite_self]

theorem State.anvilBias_besides (c : Cmd) : (s.anvilBias c).besides o = s.besides o := by
  unfold State.anvilBias
  simp only [↓State.drainsTo_besides, ↓State.issue_besides, ↓State.take_besides, ↓State.takenBy_besides,
    ↓State.countFreeze_besides, ↓State.freezeAnvil_besides, ↓State.setAnvil_besides, ↓State.track_besides,
    ↓State.besides_ite, ↓ite_self]

theorem State.anvilDrain_besides (c : Cmd) : (s.anvilDrain c).besides o = s.besides o := by
  unfold State.anvilDrain
  simp only [↓State.drainsTo_besides, ↓State.issue_besides, ↓State.voidOuts_besides, ↓State.setAnvil_besides,
    ↓State.track_besides, ↓State.openChans_besides, ↓State.countFreeze_besides, ↓State.freezeAnvil_besides,
    ↓State.besides_ite, ↓ite_self, ↓snd_ite]

/-! ## Machine/Crossbar -/

theorem State.retry_besides (r : Nat) (x : Requester) : (s.retry r x).besides o = s.besides o := by
  unfold State.retry
  split
  · split <;> simp only [↓State.setActive_besides]
  · split <;> simp only [↓State.besides_update]
  · rfl

theorem State.portClash_besides (r bank : Nat) (a b : Requester) :
    (s.portClash r bank a b).besides o = s.besides o := by
  unfold State.portClash
  simp only [↓State.retry_besides, ↓State.bankCollision_besides]

/-! ## Machine/Ladle -/

theorem State.copyWhole_besides (r l : Nat) (t : Stream) : (s.copyWhole r l t).besides o = s.besides o := by
  unfold State.copyWhole
  simp only [↓State.hallFaults_besides, ↓State.rangeFaults_besides, ↓State.ladleErr_besides, ↓State.bump_besides,
    ↓State.padEcc_besides, ↓State.renewWords_besides, ↓State.putBytes_besides, ↓State.setHallmark_besides,
    ↓State.voidBuf_besides, ↓State.setLadle_besides, ↓State.foldl_besides, implies_true, ↓State.besides_ite,
    ↓ite_self]

theorem State.copyStaged_besides (r l : Nat) (t : Stream) : (s.copyStaged r l t).besides o = s.besides o := by
  unfold State.copyStaged
  simp only [↓State.setActive_besides, ↓State.takeElems_besides, ↓State.take_besides, ↓State.giveElems_besides,
    ↓State.give_besides, ↓State.countFlags_besides, ↓State.endWrite_besides, ↓State.setLadle_besides,
    ↓State.besides_ite, ↓ite_self, ↓snd_ite]

theorem State.copyNow_besides (r l : Nat) : (s.copyNow r l).besides o = s.besides o := by
  unfold State.copyNow
  split <;> simp only [↓State.copyWhole_besides, ↓State.copyStaged_besides, ↓State.besides_ite, ↓ite_self]

theorem State.beginStream_besides (r l : Nat) (t : Stream) (at_ : Nat) :
    (s.beginStream r l t at_).besides o = s.besides o := by
  unfold State.beginStream
  simp only [↓State.setActive_besides, ↓State.copyNow_besides, ↓State.besides_ite, ↓ite_self]

theorem State.endStream_besides (r l : Nat) : (s.endStream r l).besides o = s.besides o := by
  unfold State.endStream
  split <;> simp only [↓State.closeDone_besides, ↓State.setActive_besides, ↓State.signalAt_besides,
    ↓State.foldl_besides, implies_true, ↓State.besides_ite, ↓ite_self]

theorem State.promoteShadow_besides (r l at_ : Nat) : (s.promoteShadow r l at_).besides o = s.besides o := by
  unfold State.promoteShadow
  extract_lets
  split <;> simp only [↓State.beginStream_besides, ↓State.setLadle_besides]

theorem State.plantErrors_besides (r : Nat) (es : List (Nat × Nat)) :
    (s.plantErrors r es).besides o = s.besides o := by
  unfold State.plantErrors
  simp only [↓State.markWords_besides]

theorem State.openStage_besides (c : Cmd) (t : Nat) : (s.openStage c t).2.besides o = s.besides o := by
  unfold State.openStage
  simp only [↓State.openChans_besides, ↓State.closeDone_besides, ↓State.besides_ite, ↓ite_self, ↓snd_ite]

theorem State.arm_besides (c : Cmd) (bank : Option (Nat × Requester)) (spine : Option SpineFault) :
    (s.arm c bank spine).besides o = s.besides o := by
  unfold State.arm
  extract_lets +onlyGivenNames r l loc stopping
  split
  · exact s.onCtx_besides ..
  extract_lets +onlyGivenNames leave
  split
  next ok s1 e1 =>
  have h1 : s1.besides o = s.besides o := State.besides_snd e1 (by
    simp only [↓snd_ite, ↓State.besides_ite, ↓State.takeLeave_besides, ↓ite_self])
  split
  · exact h1
  split
  next i s2 e2 =>
  have h2 : s2.besides o = s.besides o := State.besides_snd e2 ((s1.issue_besides ..).trans h1)
  split
  · exact h2
  extract_lets +onlyGivenNames s3 s4
  have h4 : s4.besides o = s.besides o := by
    unfold s4; split <;> simp only [s3, ↓State.spineFault_besides, ↓State.plantErrors_besides, h2]
  extract_lets +onlyGivenNames buf s5
  have h5 : s5.besides o = s.besides o := by
    unfold s5; split <;> simp only [↓State.clearBuf_besides, ↓State.besides_ite, ↓ite_self, h4]
  cases bank <;> simp only [↓State.useLeave_besides, ↓State.track_besides, ↓State.voidBuf_besides,
    ↓State.padEcc_besides, ↓State.openStage_besides, ↓State.promoteShadow_besides, ↓State.endStream_besides,
    ↓State.beginStream_besides, ↓State.setLadle_besides, ↓State.ladleErr_besides, ↓State.raise_besides,
    ↓State.portClash_besides, ↓State.foldl_besides, implies_true, ↓State.besides_ite, ↓ite_self, h5]

/-! ## Machine/Tinker -/

theorem State.setTinker_besides (r t : Nat) (x : Tinker) : (s.setTinker r t x).besides .tinker = s.besides .tinker :=
  (rfl)

theorem State.tinkerCheck_besides (c : Cmd) (t : Nat) : (s.tinkerCheck c t).besides o = s.besides o := by
  unfold State.tinkerCheck
  split <;> simp only [↓State.laters_besides]

theorem State.tinkerRun_besides (c : Cmd) (always : Bool) (need dur : Nat)
    {effect : Nat → State → List Byte → List Byte × State}
    (h : ∀ n s b, (effect n s b).2.besides .tinker = s.besides .tinker) :
    (s.tinkerRun c always need dur effect).besides .tinker = s.besides .tinker := by
  unfold State.tinkerRun
  simp only [↓State.issue_besides, ↓State.voidOuts_besides, ↓State.setTinker_besides, ↓State.track_besides,
    ↓State.take_besides, ↓State.later_besides, ↓State.tinkerCheck_besides, ↓State.eccReads_besides,
    ↓State.waitBreach_besides, ↓State.give_besides, ↓State.endWrite_besides, ↓State.besides_ite, ↓ite_self, ↓snd_ite,
    ↓h]

theorem State.tinkerDesc_besides (c : Cmd) : (s.tinkerDesc c).besides .tinker = s.besides .tinker := by
  unfold State.tinkerDesc
  simp only [↓State.tinkerRun_besides, implies_true]

theorem State.tinkerLookup_besides (c : Cmd) : (s.tinkerLookup c).besides .tinker = s.besides .tinker := by
  unfold State.tinkerLookup
  simp only [↓State.tinkerRun_besides, ↓State.later_besides, implies_true]

theorem State.tinkerSort_besides (c : Cmd) : (s.tinkerSort c).besides .tinker = s.besides .tinker := by
  unfold State.tinkerSort
  simp only [↓State.tinkerRun_besides, implies_true]

theorem State.tinkerSelect_besides (c : Cmd) : (s.tinkerSelect c).besides .tinker = s.besides .tinker := by
  unfold State.tinkerSelect
  simp only [↓State.tinkerRun_besides, implies_true]

theorem State.tinkerPack_besides (c : Cmd) : (s.tinkerPack c).besides .tinker = s.besides .tinker := by
  unfold State.tinkerPack
  simp only [↓State.tinkerRun_besides, implies_true, ↓ite_self, ↓snd_ite]

theorem State.tinkerCrc_besides (c : Cmd) : (s.tinkerCrc c).besides .tinker = s.besides .tinker := by
  unfold State.tinkerCrc
  simp only [↓State.tinkerRun_besides, implies_true]

theorem State.tinkerScramble_besides (c : Cmd) : (s.tinkerScramble c).besides .tinker = s.besides .tinker := by
  unfold State.tinkerScramble
  simp only [↓State.tinkerRun_besides, implies_true]

theorem State.seekBlock_besides (p : Port) (k : Nat) : (s.seekBlock p k).besides o = s.besides o := by
  unfold State.seekBlock
  split <;> simp only [↓State.setLadle_besides, ↓State.besides_ite, ↓ite_self]

theorem State.closeBatch_besides (c : Cmd) : (s.closeBatch c).besides .tinker = s.besides .tinker := by
  unfold State.closeBatch
  simp only [↓State.seekBlock_besides, ↓State.give_besides, ↓State.setTinker_besides]

theorem State.appendBatch_besides (c : Cmd) (at_ : Nat) (v : List Byte) :
    (s.appendBatch c at_ v).besides .tinker = s.besides .tinker := by
  unfold State.appendBatch
  simp only [↓State.setTinker_besides, ↓State.closeBatch_besides, ↓State.later_besides, ↓State.besides_ite, ↓ite_self]

theorem State.tinkerBatch_besides (c : Cmd) : (s.tinkerBatch c).besides .tinker = s.besides .tinker := by
  unfold State.tinkerBatch
  simp only [↓State.tinkerRun_besides, ↓State.appendBatch_besides, ↓State.closeBatch_besides, ↓State.later_besides,
    ↓State.foldl_besides, implies_true, ↓State.besides_ite, ↓ite_self]

theorem State.tinkerFill_besides (c : Cmd) : (s.tinkerFill c).besides .tinker = s.besides .tinker := by
  unfold State.tinkerFill
  simp only [↓State.tinkerRun_besides, ↓State.later_besides, ↓State.drawFor_besides, ↓State.bumpIf_besides,
    implies_true, ↓State.besides_ite, ↓ite_self]

/-! ## Machine/Transfer -/

theorem State.readPad_besides (u : Unit_) (r a n : Nat) : (s.readPad u r a n).2.besides o = s.besides o := by
  unfold State.readPad
  simp only [↓State.blockRaise_besides, ↓State.bump_besides, ↓State.padEcc_besides, ↓State.foldl_besides,
    implies_true]

theorem State.writePad_besides (r a : Nat) (bs : List Byte) (ok : Bool) :
    (s.writePad r a bs ok).besides o = s.besides o := by
  unfold State.writePad
  simp only [↓State.bump_besides, ↓State.renewWords_besides, ↓State.putBytes_besides, ↓State.remark_besides,
    ↓State.fillGranule_besides, ↓State.foldl_besides, implies_true, ↓State.besides_ite, ↓ite_self]

theorem State.putBeside_besides (r buf : Nat) (x : Beside) : (s.putBeside r buf x).besides o = s.besides o := by
  unfold State.putBeside
  simp only [↓State.besides_memory]

/-! ## Machine/Code -/

theorem State.freshBits_besides (elastic : Bool) (n : Nat) : (s.freshBits elastic n).2.besides o = s.besides o := by
  unfold State.freshBits
  simp only [↓State.drawFor_besides]

theorem State.readRecord_besides (u : Unit_) (w : Word) : (s.readRecord u w).2.2.besides o = s.besides o := by
  unfold State.readRecord
  simp only [↓State.readPad_besides]

theorem State.softWrite_besides (r : CodeRec) (i : Nat) (xs : List Int) :
    (s.softWrite r i xs).besides o = s.besides o := by
  unfold State.softWrite
  simp only [↓State.remark_besides, ↓State.foldl_besides, implies_true, ↓State.besides_memory]

theorem State.codeEnd_besides (c : Cmd) (i : Issue) (finish : Nat) (void : Bool) (cause : Nat) :
    (s.codeEnd c i finish void cause).besides o = s.besides o := by
  unfold State.codeEnd
  simp only [↓State.voidOuts_besides, ↓State.signalAt_besides, ↓State.track_besides, ↓State.foldl_besides,
    implies_true, ↓State.besides_ite, ↓ite_self]

theorem State.codeRun_besides (c : Cmd) (heavy : Bool)
    {effect : State → Issue → CodeRec → Bool → Option (List Byte) × Option Nat × State}
    (h : ∀ s i r v, (effect s i r v).2.2.besides o = s.besides o) :
    (s.codeRun c heavy effect).besides o = s.besides o := by
  unfold State.codeRun
  extract_lets +onlyGivenNames u
  split
  next ok s1 e1 =>
  have h1 : s1.besides o = s.besides o := State.besides_snd e1 (by
    simp only [↓snd_ite, ↓State.besides_ite, ↓State.takeLeave_besides, ↓ite_self])
  split
  · exact h1
  split
  next i s2 e2 =>
  have h2 : s2.besides o = s.besides o := State.besides_snd e2 ((s1.issue_besides ..).trans h1)
  split
  · exact h2
  extract_lets +onlyGivenNames vin s3
  have h3 : s3.besides o = s.besides o := by
    unfold s3; split <;> simp only [↓State.clearBuf_besides, h2]
  clear_value s3
  split
  next ws k s4 e4 =>
  have h4 : s4.besides o = s.besides o := by
    have h := s3.readRecord_besides (o := o) u c.w.w3
    rw [e4] at h
    exact h.trans h3
  extract_lets +onlyGivenNames r finish s5 matched
  have h5 : s5.besides o = s.besides o := by
    simp only [s5, ↓State.besides_ite, ↓State.useLeave_besides, ↓ite_self, h4]
  clear_value s5
  split
  · exact (s5.codeEnd_besides ..).trans h5
  split
  · simp only [↓State.codeEnd_besides, ↓State.blockRaise_besides, ↓State.later_besides, h5]
  split
  next out bad s6 e6 =>
  have h6 : s6.besides o = s.besides o := by
    have h := h s5 i r vin
    rw [e6] at h
    exact h.trans h5
  cases out <;> simp only [↓State.codeEnd_besides, ↓State.writePad_besides, ↓State.eccReads_besides, h6]

theorem State.codeInput_besides (c : Cmd) (n : Nat) : (s.codeInput c n).2.besides o = s.besides o := by
  unfold State.codeInput
  simp only [↓State.readPad_besides]

theorem State.ldec_besides (c : Cmd) : (s.ldec c).besides o = s.besides o := by
  unfold State.ldec
  simp only [↓State.codeRun_besides, ↓State.codeInput_besides, ↓State.later_besides, ↓State.bump_besides,
    ↓State.softWrite_besides, ↓State.laters_besides, ↓State.foldl_besides, implies_true, ↓State.besides_ite,
    ↓ite_self, ↓snd_ite, ↓State.besides_update]

theorem State.lenc_besides (c : Cmd) : (s.lenc c).besides o = s.besides o := by
  unfold State.lenc
  simp only [↓State.codeRun_besides, ↓State.codeInput_besides, implies_true]

theorem State.pdec_besides (c : Cmd) : (s.pdec c).besides o = s.besides o := by
  unfold State.pdec
  simp only [↓State.codeRun_besides, ↓State.codeInput_besides, implies_true]

theorem State.penc_besides (c : Cmd) : (s.penc c).besides o = s.besides o := by
  unfold State.penc
  simp only [↓State.codeRun_besides, ↓State.codeInput_besides, implies_true]

theorem State.tbseg_besides (c : Cmd) : (s.tbseg c).besides o = s.besides o := by
  unfold State.tbseg
  simp only [↓State.codeRun_besides, ↓State.codeInput_besides, ↓State.freshBits_besides, implies_true]

theorem State.tbchk_besides (c : Cmd) : (s.tbchk c).besides o = s.besides o := by
  unfold State.tbchk
  simp only [↓State.codeRun_besides, ↓State.codeInput_besides, ↓State.later_besides, ↓State.freshBits_besides,
    implies_true]

theorem State.request_besides (c : Cmd) (ws : List Word) (bad : Bool) :
    (s.request c ws bad).besides o = s.besides o := by
  unfold State.request
  simp only [↓State.bump_besides, ↓State.voidBuf_besides, ↓State.besides_ite, ↓ite_self, ↓State.besides_update]

theorem State.tinkerReenc_besides (c : Cmd) : (s.tinkerReenc c).besides .tinker = s.besides .tinker := by
  unfold State.tinkerReenc
  simp only [↓State.tinkerRun_besides, ↓State.readPad_besides, ↓State.request_besides, implies_true]

theorem State.reEncoding_besides (unit cycle : Nat) : (s.reEncoding unit cycle).besides o = s.besides o := by
  unfold State.reEncoding
  extract_lets +onlyGivenNames s1
  have h1 : s1.besides o = s.besides o := s.reach_besides ..
  split <;> simp only [↓State.clearBuf_besides, ↓State.readPad_besides, ↓State.freshBits_besides,
    ↓State.writePad_besides, ↓State.voidBuf_besides, ↓State.signalAt_besides, ↓State.besides_ite, ↓ite_self, ↓snd_ite,
    ↓State.besides_update, h1]

/-! ## Machine/Slicer -/

theorem State.setSlicer_besides (r : Nat) (x : Slicer) : (s.setSlicer r x).besides .slicer = s.besides .slicer :=
  (rfl)

theorem State.slicerFreeze_besides (i : Issue) (c : Cmd) (fs : Freezes) :
    (s.slicerFreeze i c fs).besides o = s.besides o := by
  unfold State.slicerFreeze
  simp only [↓State.later_besides, ↓State.freezeBreaches_besides, ↓State.foldl_besides, implies_true]

theorem State.slicerVload_besides (c : Cmd) : (s.slicerVload c).besides .slicer = s.besides .slicer := by
  unfold State.slicerVload
  simp only [↓State.issue_besides, ↓State.setSlicer_besides, ↓State.track_besides, ↓State.takeElems_besides,
    ↓State.slicerFreeze_besides, ↓State.besides_ite, ↓ite_self]

theorem State.slicerZero_besides (r t : Nat) (z : Option (Nat × Nat × Nat)) :
    (s.slicerZero r t z).besides o = s.besides o := by
  cases z with
  | none => rfl
  | some z => exact s.laters_besides ..

theorem State.freeExps_besides (elastic : Bool) (f : Fmt) (count : Nat) :
    (s.freeExps elastic f count).2.besides o = s.besides o := by
  unfold State.freeExps
  simp only [↓State.drawFor_besides, ↓State.besides_ite, ↓ite_self, ↓snd_ite]

theorem State.slicerSweep_besides (c : Cmd) : (s.slicerSweep c).besides .slicer = s.besides .slicer := by
  unfold State.slicerSweep
  simp only [↓State.takeLeave_besides, ↓State.issue_besides, ↓State.bump_besides, ↓State.blockRaise_besides,
    ↓State.freeExps_besides, ↓State.slicerFreeze_besides, ↓State.slicerZero_besides, ↓State.eccReads_besides,
    ↓State.setReg_besides, ↓State.setSlicer_besides, ↓State.useLeave_besides, ↓State.track_besides,
    ↓State.foldl_besides, implies_true, ↓State.besides_ite, ↓ite_self]

theorem State.giveRaw_besides (p : Port) (es : List (BitVec 128)) (value : BitVec 128 → FVal) :
    (s.giveRaw p es value).besides o = s.besides o := by
  unfold State.giveRaw
  split <;> simp only [↓State.giveStaged_besides, ↓State.give_besides, ↓State.besides_ite, ↓ite_self]

theorem State.slicerSout_besides (c : Cmd) : (s.slicerSout c).besides .slicer = s.besides .slicer := by
  unfold State.slicerSout
  simp only [↓State.issue_besides, ↓State.voidOuts_besides, ↓State.setSlicer_besides, ↓State.track_besides,
    ↓State.laters_besides, ↓State.later_besides, ↓State.eccReads_besides, ↓State.slicerFreeze_besides,
    ↓State.giveRaw_besides, ↓State.giveFlags_besides, ↓State.endWrite_besides, ↓State.foldl_besides, implies_true,
    ↓State.besides_ite, ↓ite_self]

/-! ## Machine/Gradient -/

theorem State.setSwage_besides (r : Nat) (x : Swage) : (s.setSwage r x).besides .swage = s.besides .swage :=
  (rfl)

theorem State.swageEmit_besides (r buf : Nat) : (s.swageEmit r buf).besides .swage = s.besides .swage := by
  unfold State.swageEmit
  simp only [↓State.reach_besides, ↓State.laters_besides, ↓State.eccLater_besides, ↓State.setReg_besides,
    ↓State.giveElems_besides, ↓State.giveFlags_besides, ↓State.later_besides, ↓State.endWrite_besides,
    ↓State.setSwage_besides, ↓State.foldl_besides, implies_true, ↓State.besides_ite, ↓ite_self]

theorem State.takeTiles_besides (p : Port) (n : Nat) : (s.takeTiles p n).2.2.besides o = s.besides o := by
  unfold State.takeTiles
  split <;> simp only [↓State.onStream_besides, ↓State.take_besides]

theorem State.swageTranspose_besides (c : Cmd) : (s.swageTranspose c).besides .swage = s.besides .swage := by
  unfold State.swageTranspose
  simp only [↓State.issue_besides, ↓State.swageEmit_besides, ↓State.voidOuts_besides, ↓State.track_besides,
    ↓State.takeTiles_besides, ↓State.take_besides, ↓State.takenBy_besides, ↓State.later_besides,
    ↓State.waitBreach_besides, ↓State.setSwage_besides, ↓State.besides_ite, ↓ite_self]

theorem State.setCrucible_besides (r : Nat) (x : Crucible) :
    (s.setCrucible r x).besides .crucible = s.besides .crucible :=
  (rfl)

theorem State.crucibleErrors_besides (c : Cmd) (t : Nat) : (s.crucibleErrors c t).2.besides o = s.besides o := by
  unfold State.crucibleErrors
  simp only [↓State.eccCells_besides]

theorem State.crucibleRefuse_besides (c : Cmd) (i : Issue) (outs : List (Nat × Nat)) :
    (s.crucibleRefuse c i outs).besides .crucible = s.besides .crucible := by
  unfold State.crucibleRefuse
  simp only [↓State.blockRaise_besides, ↓State.voidOuts_besides, ↓State.setCrucible_besides, ↓State.track_besides]

theorem State.crucibleOpen_besides (c : Cmd) : (s.crucibleOpen c).besides .crucible = s.besides .crucible := by
  unfold State.crucibleOpen
  simp only [↓State.issue_besides, ↓State.crucibleRefuse_besides, ↓State.track_besides, ↓State.setCrucible_besides,
    ↓State.besides_ite, ↓ite_self]

theorem State.takeBlocks_besides (p : Port) : (s.takeBlocks p).2.2.besides o = s.besides o := by
  unfold State.takeBlocks
  simp only [↓State.take_besides]

theorem State.padShifts_besides (n : Nat) (xs : List Int) : (s.padShifts n xs).2.besides o = s.besides o := by
  unfold State.padShifts
  simp only [↓State.drawFor_besides]

theorem State.crucibleAccum_besides (c : Cmd) : (s.crucibleAccum c).besides .crucible = s.besides .crucible := by
  unfold State.crucibleAccum
  simp only [↓State.issue_besides, ↓State.crucibleRefuse_besides, ↓State.setCrucible_besides, ↓State.track_besides,
    ↓State.takeBlocks_besides, ↓State.scaleSkew_besides, ↓State.breach_besides, ↓State.padShifts_besides,
    ↓State.take_besides, ↓State.takenBy_besides, ↓State.waitBreach_besides, ↓State.crucibleErrors_besides,
    ↓State.laters_besides, ↓State.later_besides, ↓State.besides_ite, ↓ite_self, ↓snd_ite]

theorem State.crucibleFlush_besides (c : Cmd) : (s.crucibleFlush c).besides .crucible = s.besides .crucible := by
  unfold State.crucibleFlush
  simp only [↓State.issue_besides, ↓State.crucibleRefuse_besides, ↓State.later_besides, ↓State.crucibleErrors_besides,
    ↓State.waitBreach_besides, ↓State.giveElems_besides, ↓State.giveRaw_besides, ↓State.giveFlags_besides,
    ↓State.endWrite_besides, ↓State.setCrucible_besides, ↓State.track_besides, ↓State.besides_ite, ↓ite_self]

/-! ## Machine/Planisher -/

theorem State.setPlanisher_besides (r p : Nat) (x : Planisher) :
    (s.setPlanisher r p x).besides .planisher = s.besides .planisher :=
  (rfl)

theorem State.planIssue_besides (c : Cmd) (arith : Bool) (reads writes : List Nat) :
    (s.planIssue c arith reads writes).2.besides o = s.besides o := by
  unfold State.planIssue
  simp only [↓State.issue_besides]

theorem State.witness_besides (c : Cmd) (t : Nat) : (s.witness c t).2.besides o = s.besides o := by
  unfold State.witness
  split <;> simp only [↓State.laters_besides]

theorem State.planZero_besides (c : Cmd) (tile t : Nat) (z : Option (Nat × Nat)) :
    (s.planZero c tile t z).besides o = s.besides o := by
  cases z with
  | none => rfl
  | some z => exact s.later_besides ..

theorem State.planFlags_besides (c : Cmd) (t : Nat) (fs : List (Nat × FlagWord)) :
    (s.planFlags c t fs).besides o = s.besides o := by
  unfold State.planFlags
  simp only [↓State.laters_besides]

theorem State.planCycles_besides (c : Cmd) (strict : Bool) (t n : Nat) :
    (s.planCycles c strict t n).besides o = s.besides o := by
  unfold State.planCycles
  simp only [↓State.laters_besides, ↓State.later_besides, ↓State.besides_ite, ↓ite_self]

theorem State.planTload_besides (c : Cmd) : (s.planTload c).besides .planisher = s.besides .planisher := by
  unfold State.planTload
  simp only [↓State.planIssue_besides, ↓State.track_besides, ↓State.takeElems_besides, ↓State.takenBy_besides,
    ↓State.scaleSkew_besides, ↓State.shadowFault_besides, ↓State.freezeBreaches_besides, ↓State.setPlanisher_besides,
    ↓State.planFlags_besides, ↓State.later_besides, ↓State.besides_ite, ↓ite_self]

theorem State.planTstore_besides (c : Cmd) : (s.planTstore c).besides .planisher = s.besides .planisher := by
  unfold State.planTstore
  simp only [↓State.planIssue_besides, ↓State.voidOuts_besides, ↓State.track_besides, ↓State.openChans_besides,
    ↓State.freezeBreaches_besides, ↓State.shadowFault_besides, ↓State.eccReads_besides, ↓State.giveElems_besides,
    ↓State.closeChans_besides, ↓State.giveFlags_besides, ↓State.planFlags_besides, ↓State.later_besides,
    ↓State.endWrite_besides, ↓State.setPlanisher_besides, ↓State.besides_ite, ↓ite_self, ↓snd_ite]

theorem State.planEwise_besides (c : Cmd) : (s.planEwise c).besides .planisher = s.besides .planisher := by
  unfold State.planEwise
  simp only [↓State.planIssue_besides, ↓State.track_besides, ↓State.witness_besides, ↓State.eccReads_besides,
    ↓State.setPlanisher_besides, ↓State.planFlags_besides, ↓State.planZero_besides, ↓State.planCycles_besides,
    ↓State.besides_ite, ↓ite_self]

theorem State.planReduce_besides (c : Cmd) : (s.planReduce c).besides .planisher = s.besides .planisher := by
  unfold State.planReduce
  simp only [↓State.planIssue_besides, ↓State.track_besides, ↓State.setPlanisher_besides, ↓State.witness_besides,
    ↓State.eccReads_besides, ↓State.planFlags_besides, ↓State.planZero_besides, ↓State.planCycles_besides,
    ↓State.besides_ite, ↓ite_self]

/-! ## Machine/Twin -/

theorem State.issueSwitu_besides (c : Cmd) : (s.issueSwitu c).2.besides o = s.besides o := by
  unfold State.issueSwitu
  simp only [↓State.issue_besides, ↓State.besides_ite, ↓ite_self, ↓snd_ite]

theorem State.send_besides (c : Cmd) : (s.send c).besides o = s.besides o := by
  unfold State.send
  simp only [↓State.issueSwitu_besides, ↓State.track_besides, ↓State.bump_besides, ↓State.eccReads_besides,
    ↓State.blockRaise_besides, ↓State.voidBuf_besides, ↓State.breachAt_besides, ↓State.foldl_besides, implies_true,
    ↓State.besides_ite, ↓ite_self, ↓State.besides_update]

theorem State.putGranule_besides (g : Nat × Nat) (bs : List Byte) (h : Word) :
    (s.putGranule g bs h).besides o = s.besides o := by
  unfold State.putGranule
  simp only [↓State.setHallmark_besides, ↓State.besides_ite, ↓ite_self, ↓State.besides_memory]

theorem State.recv_besides (c : Cmd) : (s.recv c).besides o = s.besides o := by
  unfold State.recv
  split
  next i s1 e1 =>
  have h1 : s1.besides o = s.besides o := State.besides_snd e1 (s.issueSwitu_besides c)
  split
  · exact h1
  extract_lets +onlyGivenNames n r buf outs finish gs joining tag missing bad void _ s2 s3 s4 s5
  have h4 : s4.besides o = s.besides o := by
    simp only [s4, s3, s2, ↓State.raise_besides, ↓State.bump_besides, ↓State.blockRaise_besides, ↓State.foldl_besides,
      implies_true, ↓State.besides_ite, ↓ite_self, ↓State.besides_update, h1]
  have h5 : s5.besides o = s.besides o := by
    refine (State.foldl_besides _ (fun s e => ?_) _).trans h4
    extract_lets +onlyGivenNames p
    split
    · split <;> exact s.putGranule_besides ..
    · rfl
  simp only [↓State.bump_besides, ↓State.voidOuts_besides, ↓State.signalAt_besides, ↓State.track_besides,
    ↓State.foldl_besides, implies_true, ↓State.besides_ite, ↓ite_self, ↓State.besides_update, h5]

/-! ## Machine/Net -/

theorem State.putSent_besides (p : Nat) (xs : List Sent) : (s.putSent p xs).besides .net = s.besides .net := by
  unfold State.putSent
  simp only [↓State.besides_ite, ↓ite_self, ↓State.besides_net]

theorem State.issueNet_besides (c : Cmd) : (s.issueNet c).2.besides o = s.besides o := by
  unfold State.issueNet
  simp only [↓State.issue_besides]

theorem State.packetErrors_besides (c : Cmd) (t : Nat) : (s.packetErrors c t).2.besides o = s.besides o := by
  unfold State.packetErrors
  simp only [↓State.eccLater_besides, ↓State.foldl_besides, implies_true]

theorem State.uprx_besides (c : Cmd) : (s.uprx c).besides o = s.besides o := by
  unfold State.uprx
  simp only [↓State.issueNet_besides, ↓State.bump_besides, ↓State.packetErrors_besides, ↓State.shadowFault_besides,
    ↓State.writePad_besides, ↓State.countFlags_besides, ↓State.laters_besides, ↓State.putBeside_besides,
    ↓State.voidOuts_besides, ↓State.signalAt_besides, ↓State.track_besides, ↓State.foldl_besides, implies_true,
    ↓State.besides_ite, ↓ite_self]

theorem State.voidSource_besides (c : Cmd) : (s.voidSource c).besides o = s.besides o := by
  unfold State.voidSource
  simp only [↓State.voidBuf_besides]

theorem State.uptx_besides (c : Cmd) : (s.uptx c).besides .net = s.besides .net := by
  unfold State.uptx
  simp only [↓State.issueNet_besides, ↓State.readPad_besides, ↓State.voidSource_besides, ↓State.draw_besides,
    ↓State.shadowFault_besides, ↓State.orFlags_besides, ↓State.putSent_besides, ↓State.track_besides,
    ↓State.besides_ite, ↓ite_self, ↓snd_ite]

theorem State.cptx_besides (c : Cmd) : (s.cptx c).besides .net = s.besides .net := by
  unfold State.cptx
  simp only [↓State.issueNet_besides, ↓State.readPad_besides, ↓State.voidSource_besides, ↓State.bump_besides,
    ↓State.putSent_besides, ↓State.track_besides, ↓State.besides_ite, ↓ite_self]

theorem State.datagramAt_besides (c : Cmd) (void : Bool) (r a : Nat) :
    (s.datagramAt c void r a).2.besides .net = s.besides .net := by
  unfold State.datagramAt
  simp only [↓State.readPad_besides, ↓State.voidSource_besides, ↓State.putSent_besides, ↓State.besides_ite, ↓ite_self,
    ↓State.besides_net]

theorem State.datagrams_besides (c : Cmd) (void : Bool) (r a : Nat) (x : Nat) :
    (s.datagrams c void r a x).2.besides .net = s.besides .net := by
  induction x generalizing s a with
  | zero => rfl
  | succ n ih =>
    unfold State.datagrams
    simp only [↓State.datagramAt_besides, ↓ih]

theorem State.l2tx_besides (c : Cmd) : (s.l2tx c).besides .net = s.besides .net := by
  unfold State.l2tx
  simp only [↓State.issueNet_besides, ↓State.putSent_besides, ↓State.datagrams_besides, ↓State.track_besides,
    ↓State.besides_ite, ↓ite_self]

theorem State.l2rx_besides (c : Cmd) : (s.l2rx c).besides .net = s.besides .net := by
  unfold State.l2rx
  split
  next i s1 e1 =>
  have h1 : s1.besides .net = s.besides .net := State.besides_snd e1 (s.issueNet_besides c)
  split
  · exact h1
  extract_lets +onlyGivenNames types air r rows outs mine ms
  split
  extract_lets +onlyGivenNames bs due bad closed _ s2 s3 s4 s5
  have h4 : s4.besides .net = s.besides .net := by
    simp only [s4, s3, s2, ↓State.bump_besides, ↓State.besides_net, h1]
  have h5 : s5.besides .net = s.besides .net := by
    refine (State.foldl_besides _ (fun s g => ?_) _).trans h4
    split <;> simp only [↓State.voidEntry_besides]
  simp only [↓State.packetErrors_besides, ↓State.writePad_besides, ↓State.voidOuts_besides, ↓State.signalAt_besides,
    ↓State.track_besides, ↓State.foldl_besides, implies_true, ↓State.besides_ite, ↓ite_self, h5]

/-! ## Machine/Transform -/

theorem State.teWrite_besides (k : Nat) (w : Word) : (s.teWrite k w).besides .transform = s.besides .transform :=
  (rfl)

theorem State.teMark_besides (g : Nat) : (s.teMark g).besides o = s.besides o := by
  unfold State.teMark
  simp only [↓State.besides_memory]

theorem State.teSetVoid_besides (g cause : Nat) : (s.teSetVoid g cause).besides o = s.besides o := by
  unfold State.teSetVoid
  simp only [↓State.besides_memory]

theorem State.teWriteAll_besides (l : List (Nat × Word)) :
    (s.teWriteAll l).besides .transform = s.besides .transform := by
  induction l generalizing s with
  | nil => rfl
  | cons e l ih => exact (ih _).trans (s.teWrite_besides ..)

theorem State.teTake_besides (t : Nat) (ks : List Nat) : (s.teTake t ks).2.besides o = s.besides o := by
  unfold State.teTake
  simp only [↓State.blockRaise_besides, ↓State.foldl_besides, implies_true]

theorem State.issueTe_besides (c : Cmd) : (s.issueTe c).2.besides o = s.besides o := by
  unfold State.issueTe
  simp only [↓State.issue_besides]

theorem State.teBusy_besides (t finish cycles : Nat) : (s.teBusy t finish cycles).besides o = s.besides o := by
  unfold State.teBusy
  simp only [↓State.later_besides]

theorem State.trailer_besides (c : Cmd) (be : Nat) : (s.trailer c be).2.besides o = s.besides o := by
  unfold State.trailer
  simp only [↓State.draw_besides, ↓State.besides_ite, ↓ite_self, ↓snd_ite]

theorem State.stageOut_besides (c : Cmd) (vs : List (FVal × FVal)) (t finish : Nat) :
    (s.stageOut c vs t finish).2.2.besides o = s.besides o := by
  unfold State.stageOut
  simp only [↓State.openChans_besides, ↓State.closeChans_besides]

theorem State.teNothing_besides (c : Cmd) (i : Issue) (region buf : Nat) :
    (s.teNothing c i region buf).besides o = s.besides o := by
  unfold State.teNothing
  simp only [↓State.voidBuf_besides, ↓State.signalAt_besides, ↓State.track_besides, ↓State.besides_ite, ↓ite_self]

theorem State.teEnd_besides (c : Cmd) (i : Issue) (r buf : Nat) (beside : Beside) (be : Option Nat)
    (cause finish : Nat) :
    (s.teEnd c i r buf beside be cause finish).besides o = s.besides o := by
  unfold State.teEnd
  split <;> simp only [↓State.laters_besides, ↓State.later_besides, ↓State.putBeside_besides,
    ↓State.countFlags_besides, ↓State.voidBuf_besides, ↓State.teBusy_besides, ↓State.signalAt_besides,
    ↓State.track_besides, ↓State.besides_ite, ↓ite_self]

theorem State.teChecks_besides (c : Cmd) (i : Issue) (src : Source) (finish : Nat) :
    (s.teChecks c i src finish).2.besides o = s.besides o := by
  unfold State.teChecks
  simp only [↓State.eccCells_besides, ↓State.shadowFault_besides]

theorem State.teDeliver_besides (c : Cmd) (i : Issue) (src : Source) (bs : List Byte) (beside : Beside)
    (be : Option Nat) (finish : Nat) :
    (s.teDeliver c i src bs beside be finish).besides o = s.besides o := by
  unfold State.teDeliver
  simp only [↓State.teChecks_besides, ↓State.writePad_besides, ↓State.teEnd_besides]

theorem State.fft_besides (c : Cmd) : (s.fft c).besides .transform = s.besides .transform := by
  unfold State.fft
  simp only [↓State.issueTe_besides, ↓State.teNothing_besides, ↓State.teTake_besides, ↓State.teWriteAll_besides,
    ↓State.stageOut_besides, ↓State.trailer_besides, ↓State.teDeliver_besides, ↓State.besides_ite, ↓ite_self]

theorem State.fir_besides (c : Cmd) : (s.fir c).besides o = s.besides o := by
  unfold State.fir
  simp only [↓State.issueTe_besides, ↓State.teNothing_besides, ↓State.teTake_besides, ↓State.stageOut_besides,
    ↓State.teDeliver_besides, ↓State.besides_ite, ↓ite_self]

theorem State.ringWrite_besides (t : Nat) (ch : RadioChan) (n j : Nat) (xs : List Pair) (cause : Nat) :
    (s.ringWrite t ch n j xs cause).besides .transform = s.besides .transform := by
  unfold State.ringWrite
  simp only [↓State.teWriteAll_besides, ↓State.teSetVoid_besides, ↓State.teMark_besides, ↓State.foldl_besides,
    implies_true, ↓State.besides_ite, ↓ite_self]

theorem State.ifft_besides (c : Cmd) : (s.ifft c).besides .transform = s.besides .transform := by
  unfold State.ifft
  simp only [↓State.issueTe_besides, ↓State.teNothing_besides, ↓State.teTake_besides, ↓State.teWriteAll_besides,
    ↓State.teChecks_besides, ↓State.ringWrite_besides, ↓State.teEnd_besides, ↓State.besides_ite, ↓ite_self,
    ↓State.besides_radio]

theorem State.fetch_besides (c : Cmd) : (s.fetch c).besides .transform = s.besides .transform := by
  unfold State.fetch
  simp only [↓State.issueTe_besides, ↓State.readPad_besides, ↓State.teWriteAll_besides, ↓State.teSetVoid_besides,
    ↓State.teMark_besides, ↓State.teBusy_besides, ↓State.track_besides, ↓State.foldl_besides, implies_true,
    ↓State.besides_ite, ↓ite_self]

/-! ## Machine/Radio -/

theorem State.setLane_besides (l : Nat) (x : SteerLane) :
    (s.setLane l x).besides .transform = s.besides .transform := by
  unfold State.setLane
  simp only [↓State.besides_radio]

theorem State.queueWord_besides (w : SteerWord) : (s.queueWord w).2.besides .transform = s.besides .transform := by
  unfold State.queueWord
  simp only [↓State.raise_besides, ↓State.bump_besides, ↓State.setLane_besides, ↓State.setFld_besides,
    ↓State.besides_ite, ↓ite_self, ↓snd_ite]

theorem State.addDelta_besides (n : Nat) (v : Int) : (s.addDelta n v).besides o = s.besides o := by
  unfold State.addDelta
  simp only [↓State.setReg_besides]

theorem State.addToff_besides (n : Nat) (v : Int) : (s.addToff n v).besides o = s.besides o := by
  unfold State.addToff
  simp only [↓State.setFld_besides]

theorem State.steerRecord_besides (w0 w1 w2 : Word) :
    (s.steerRecord w0 w1 w2).besides .transform = s.besides .transform := by
  unfold State.steerRecord
  extract_lets +onlyGivenNames kind target value cycle now refuse
  clear_value kind
  split <;> simp only [refuse, ↓State.bump_besides, ↓State.addDelta_besides, ↓State.addToff_besides,
    ↓State.queueWord_besides, ↓State.besides_ite, ↓ite_self, ↓State.besides_radio]

theorem State.steer_besides (c : Cmd) : (s.steer c).besides .transform = s.besides .transform := by
  unfold State.steer
  simp only [↓State.issueTe_besides, ↓State.teTake_besides, ↓State.steerRecord_besides, ↓State.teBusy_besides,
    ↓State.track_besides, ↓State.foldl_besides, implies_true, ↓State.besides_ite, ↓ite_self]

end

end Sys2Proof.Machine
end

section
/-! PROOF of O56: an engine command leaves all else alone. -/

namespace Sys2Proof.Machine

open Sys2Proof

/-- The class of an engine command (R299). -/
def Owner.of (i : Instr) : Owner :=
  match i with
  | .tload _ | .tstore _ | .ewise _ | .reduce _ => .planisher
  | .desc _ | .lookup _ | .sort _ | .select _ | .pack _ | .crc _ | .scramble _ | .reenc _ | .batch _ | .fill _ =>
    .tinker
  | .transpose _ => .swage
  | .openTensor _ | .accum _ | .flush _ => .crucible
  | .vload _ | .sweep _ | .sout _ => .slicer
  | .fft _ | .ifft _ | .fir _ | .fetch _ | .steer _ => .transform
  | .uprx _ | .uptx _ | .cptx _ | .l2tx _ | .l2rx _ => .net
  | _ => .shared

/-- The commands that a class other than `shared` names, each with the operands `c`. -/
def Owner.commands (o : Owner) (c : Cmd) : List Instr :=
  match o with
  | .shared => []
  | .planisher => [.tload c, .tstore c, .ewise c, .reduce c]
  | .tinker => [.desc c, .lookup c, .sort c, .select c, .pack c, .crc c, .scramble c, .reenc c, .batch c, .fill c]
  | .swage => [.transpose c]
  | .crucible => [.openTensor c, .accum c, .flush c]
  | .slicer => [.vload c, .sweep c, .sout c]
  | .transform => [.fft c, .ifft c, .fir c, .fetch c, .steer c]
  | .net => [.uprx c, .uptx c, .cptx c, .l2tx c, .l2rx c]

/-- A command that a class does not name is of another class. -/
theorem Owner.of_ne {i : Instr} {o : Owner} (ho : o ≠ .shared) (hi : ∀ c, i ∉ o.commands c) :
    Owner.of i ≠ o := by
  rintro rfl
  unfold Owner.of at ho hi
  split at ho <;> simp_all [Owner.commands]

/-- The state that an outcome answers agrees with `s` in all that commands of class `o` leave alone. -/
def Spares (s : State) (o : Owner) (a : Host.Outcome State Fault Refusal) : Prop :=
  ∀ t, a = .next t → t.besides o = s.besides o

theorem Spares.admitted {s t : State} {o : Owner} {ok : Bool} (h : t.besides o = s.besides o) :
    Spares s o (admitted ok t) := by
  unfold Machine.admitted
  split
  · exact fun _ e => Host.Outcome.next.inj e ▸ h
  · exact fun _ e => nomatch e

theorem spares_exec (s : State) {i : Instr} (h : i.isEngine = true) : Spares s (Owner.of i) (exec i s) := by
  unfold Instr.isEngine at h
  split at h
  exacts [.admitted (s.anvilLoad_besides ..), .admitted (s.anvilStream_besides ..),
    .admitted (s.anvilLoadStream_besides ..), .admitted (s.anvilBias_besides ..), .admitted (s.anvilDrain_besides ..),
    .admitted (s.slicerVload_besides ..), .admitted (s.slicerSweep_besides ..), .admitted (s.slicerSout_besides ..),
    .admitted (s.swageTranspose_besides ..), .admitted (s.crucibleOpen_besides ..),
    .admitted (s.crucibleAccum_besides ..), .admitted (s.crucibleFlush_besides ..),
    .admitted (s.planTload_besides ..), .admitted (s.planTstore_besides ..), .admitted (s.planEwise_besides ..),
    .admitted (s.planReduce_besides ..), .admitted (s.tinkerDesc_besides ..), .admitted (s.tinkerLookup_besides ..),
    .admitted (s.tinkerSort_besides ..), .admitted (s.tinkerSelect_besides ..), .admitted (s.tinkerPack_besides ..),
    .admitted (s.tinkerCrc_besides ..), .admitted (s.tinkerScramble_besides ..),
    .admitted (s.tinkerReenc_besides ..), .admitted (s.tinkerBatch_besides ..), .admitted (s.tinkerFill_besides ..),
    .admitted (s.arm_besides ..), .admitted (s.fft_besides ..), .admitted (s.ifft_besides ..),
    .admitted (s.fir_besides ..), .admitted (s.fetch_besides ..), .admitted (s.steer_besides ..),
    .admitted (s.ldec_besides ..), .admitted (s.lenc_besides ..), .admitted (s.pdec_besides ..),
    .admitted (s.penc_besides ..), .admitted (s.tbseg_besides ..), .admitted (s.tbchk_besides ..),
    .admitted (s.reEncoding_besides ..), .admitted (s.uprx_besides ..), .admitted (s.uptx_besides ..),
    .admitted (s.cptx_besides ..), .admitted (s.l2tx_besides ..), .admitted (s.l2rx_besides ..),
    .admitted (s.send_besides ..), .admitted (s.recv_besides ..), nomatch h]

/-- Settles O56: an engine command leaves what `State.besides` keeps of the state for its class (`spares_exec`). -/
theorem engineCommandsLeaveOtherUnitsAlone : Obligations.EngineCommandsLeaveOtherUnitsAlone := by
  unfold Obligations.EngineCommandsLeaveOtherUnitsAlone
  intro i s t hi ht
  have h : t.besides (Owner.of i) = s.besides (Owner.of i) := spares_exec s hi t ht
  refine ⟨?_, fun hn => ?_, fun hn => ?_, fun hn => ?_, fun hn => ?_, fun hn => ?_, fun hn => ⟨?_, ?_⟩,
    fun hn => ?_⟩
  · exact ⟨congrArg (·.pending) h, congrArg (·.plan) h, congrArg (·.commit) h, congrArg (·.start) h,
      congrArg (·.sec) h, congrArg (·.seq) h, congrArg (·.i3c) h, congrArg (·.time) h, congrArg (·.power) h,
      congrArg (·.test) h, congrArg (·.mem.flash) h, congrArg (·.mem.store) h⟩
  · exact Owner.eq_of_hide (congrArg (·.planishers) h) (Owner.of_ne nofun hn)
  · exact Owner.eq_of_hide (congrArg (·.tinkers) h) (Owner.of_ne nofun hn)
  · exact Owner.eq_of_hide (congrArg (·.swages) h) (Owner.of_ne nofun fun c hc => hn c (List.mem_singleton.mp hc))
  · exact Owner.eq_of_hide (congrArg (·.crucibles) h) (Owner.of_ne nofun hn)
  · exact Owner.eq_of_hide (congrArg (·.slicers) h) (Owner.of_ne nofun hn)
  · exact Owner.eq_of_hide (congrArg (·.radio) h) (Owner.of_ne nofun hn)
  · exact Owner.eq_of_hide (congrArg (·.mem.te) h) (Owner.of_ne nofun hn)
  · exact Owner.eq_of_hide (congrArg (·.net) h) (Owner.of_ne nofun hn)

end Sys2Proof.Machine
end

section
/-! REFUTATION of O37. The statement speaks of every state and so of every list of late effects (log entry 7), and one
of these may name TCK.SLOTNUM: no hypothesis keeps `due` to the counters, flags and first-occurrence registers that
engine commands leave there. -/

namespace Sys2Proof.Machine

open Sys2Proof

theorem exec_slotTick (s : State) (x : TickInput) : exec (.slotTick x) s = .next (s.slotTick x) := rfl

/-- A running device in cycle 0 of slot 0, of 1,000 cycles, with nothing staged and one effect that falls due in this
slot: it puts 77 into TCK.SLOTNUM. -/
def State.slotNumberDue : State :=
  { State.reset.setReg Reg.TCK_SLOTLEN 1000 with
    clock := { running := true }
    due := [⟨0, 0, .put Reg.TCK_SLOTNUM 0 32 77⟩] }

theorem State.slotNumberDue_started : State.slotNumberDue.started = true := rfl

theorem State.slotNumberDue_stagedOnly : State.slotNumberDue.stagedOnly = true := rfl

/-- The end of the slot settles what is due in it (R74), which leaves 77 in TCK.SLOTNUM, and step 4 counts on from
there. -/
theorem State.slotNumberDue_slotTick_slot : (State.slotNumberDue.slotTick {}).slot = 78 := by decide +kernel

/-- Refutes O37: in `State.slotNumberDue` the slot tick of slot 0 begins slot 78, where the first clause asks for
slot 1. -/
theorem not_ticksBeginSlotsAndEpochs : ¬ Obligations.TicksBeginSlotsAndEpochs := by
  unfold Obligations.TicksBeginSlotsAndEpochs
  intro h
  obtain ⟨hslot, -⟩ := h State.slotNumberDue
  obtain ⟨t, ht, hnext, -⟩ := hslot {} State.slotNumberDue_started State.slotNumberDue_stagedOnly
  rw [exec_slotTick] at ht
  obtain rfl := Host.Outcome.next.inj ht
  have hzero : State.slotNumberDue.slot = 0 := rfl
  rw [State.slotNumberDue_slotTick_slot, hzero] at hnext
  exact absurd hnext (by decide)

end Sys2Proof.Machine
end

section
/-! PROOF of O31: what a committed RESET of a channel and a write of FMT.CHCFG or FMT.CHZP do (R135 to R137). -/

namespace Sys2Proof.Machine

open Sys2Proof

section
variable (s : State)

theorem State.chan_setChan (k : Nat) (c : Channel) (j : Nat) :
    (s.setChan k c).chan j = if j = k then c else s.chan j := SMap.read_write

theorem State.bit_setBit_same (k : Nat) {i : Nat} (b : Bool) (h : i < 32) : (s.setBit k i b).bit k i = b :=
  (s.bit_setBit k i b k i h).trans (if_pos ⟨rfl, rfl⟩)

/-! ## The history reset -/

theorem exec_historyReset_of_not_discard (region unit chan : Nat) (hd : s.faults.discard = false) :
    exec (.historyReset region unit chan) s = .next (s.historyReset region unit chan) :=
  congrArg Host.Outcome.next (s.managed_of_not_discard hd)

/-- A RESET that stands in the register of a listed channel is carried out (R136). -/
theorem State.historyReset_of_reset {region unit : Nat} (chan : Nat) (hu : unit < convUnits region)
    (hreset : s.bit (winKey (chanKey region unit chan) Reg.FMT_CHCFG) 4 = true) :
    s.historyReset region unit chan =
      (s.setBit (winKey (chanKey region unit chan) Reg.FMT_CHCFG) 4 false).setChan (chanKey region unit chan)
        { s.chan (chanKey region unit chan) with hist := [], fresh := true } := by
  unfold State.historyReset
  exact if_pos (Bool.and_eq_true_iff.mpr ⟨decide_eq_true hu, hreset⟩)

/-! ## The staging of an update -/

/-- No place is left for an update of channel `k`, which has none staged (R135). -/
def State.stagingFull (s : State) (k : Nat) : Prop :=
  s.stagedChans.contains k = false ∧ 64 ≤ s.stagedChans.length

theorem State.stagingFull_iff {k : Nat} :
    s.stagingFull k ↔ (!s.stagedChans.contains k && decide (64 ≤ s.stagedChans.length)) = true := by
  rw [Bool.and_eq_true_iff, Bool.not_eq_true', decide_eq_true_iff, State.stagingFull]

theorem exec_channelUpdateStage_of_not_discard (zp : Bool) (value : Nat) (hd : s.faults.discard = false) :
    exec (.channelUpdateStage zp value) s = .next (s.stageChannel zp value) :=
  congrArg Host.Outcome.next (s.managed_of_not_discard hd)

/-- An update of a channel that finds no place sets FMT.STAGED.FULL (R135). -/
theorem State.stageChannel_of_full (zp : Bool) (value : Nat) {k : Nat} (hsel : s.selChan = some k)
    (hfull : s.stagingFull k) : s.stageChannel zp value = s.setBit Reg.FMT_STAGED 8 true := by
  unfold State.stageChannel
  rw [hsel]
  exact if_pos (s.stagingFull_iff.mp hfull)

/-- An update that finds a place is the shadow of the channel's register (R135, R137). -/
theorem State.stageChannel_of_room (zp : Bool) (value : Nat) {k : Nat} (hsel : s.selChan = some k)
    (hroom : ¬ s.stagingFull k) :
    s.stageChannel zp value = { s with commit := { s.commit with
      shadow := SMap.write {} s.commit.shadow (winKey k (if zp then Reg.FMT_CHZP else Reg.FMT_CHCFG))
        ⟨if zp then 0x1FFFF else 0xFFF1F, BitVec.ofNat 32 value &&& if zp then 0x1FFFF else 0xFFF1F⟩ } } := by
  unfold State.stageChannel
  rw [hsel]
  exact if_neg (mt s.stagingFull_iff.mpr hroom)

end

/-- Settles O31: the reset is `State.historyReset_of_reset`, and an update is staged or refused by whether the channel
finds a place (`State.stagingFull`). -/
theorem channelUpdatesAreStaged : Obligations.ChannelUpdatesAreStaged := by
  unfold Obligations.ChannelUpdatesAreStaged
  intro s hd
  constructor
  · intro region unit chan hu k hreset
    refine ⟨_, exec_historyReset_of_not_discard s region unit chan hd, ?_⟩
    rw [s.historyReset_of_reset chan hu hreset]
    refine ⟨rfl, ?_, ?_, ?_, fun j hj => ?_⟩
    · exact s.bit_setBit_same _ false (by decide)
    · rw [State.chan_setChan, if_pos rfl]
    · rw [State.chan_setChan, if_pos rfl]
    · rw [State.chan_setChan, if_neg hj]
      rfl
  · intro zp value k hsel key full
    refine ⟨fun hroom => ?_, fun hfull => ?_⟩
    · refine ⟨_, exec_channelUpdateStage_of_not_discard s zp value hd, ?_⟩
      rw [s.stageChannel_of_room zp value hsel hroom]
      exact ⟨rfl, rfl, congrArg Staged.val SMap.read_write_same⟩
    · refine ⟨_, exec_channelUpdateStage_of_not_discard s zp value hd, ?_⟩
      rw [s.stageChannel_of_full zp value hsel hfull]
      exact ⟨s.bit_setBit_same _ true (by decide), rfl⟩

end Sys2Proof.Machine
end

section
/-! SUPPORT. The Anvils, the commands under way and the gates of the regions: what leaves them alone, and what of them
a fence changes (R32, R46, R165). -/

namespace Sys2Proof.Machine

open Sys2Proof

/-- The Anvils, the commands under way and the word of the regions' gates. -/
def State.arrays (s : State) : SMap Anvil × List Running × Word := (s.anvils, s.running, s.reg Reg.SPN_GATE)

theorem State.anvil_of_arrays {s t : State} (h : t.arrays = s.arrays) (r a : Nat) : t.anvil r a = s.anvil r a :=
  congrArg (fun x : SMap Anvil × List Running × Word => SMap.read {} x.1 (r * 4 + a)) h

theorem State.running_of_arrays {s t : State} (h : t.arrays = s.arrays) : t.running = s.running :=
  congrArg (·.2.1) h

theorem State.fenced_of_arrays {s t : State} (h : t.arrays = s.arrays) (r : Nat) : t.fenced r = s.fenced r :=
  congrArg (fun x : SMap Anvil × List Running × Word => bitOf x.2.2 r) h

/-- An effect that counts, latches or makes a record, without touching the gates. -/
def Effect.quiet : Effect → Bool
  | .count k _ _ _ => k != Reg.SPN_GATE
  | .latch _ _ vs => vs.all fun v => v.1 != Reg.SPN_GATE
  | .record .. => true
  | _ => false

section
variable (s : State)

theorem State.arrays_of {t : State} (ha : t.anvils = s.anvils) (hr : t.running = s.running)
    (hg : t.reg Reg.SPN_GATE = s.reg Reg.SPN_GATE) : t.arrays = s.arrays :=
  Prod.ext ha (Prod.ext hr hg)

/-- An update of other fields leaves the arrays. -/
theorem State.arrays_update {s : State} {x1 x2 x3 x4 x5 x6 x7 x8 x9 x10 x11 x12 x13 x14 x15 x16 x17 x18 x19 x20 x21 x22
    x23 x24 x25 x26 x27 x28 x29 x30 x31 x32 x33 x34 x35} :
    (State.mk x1 s.regs x2 x3 x4 x5 x6 x7 x8 x9 x10 x11 x12 s.running x13 s.anvils x14 x15 x16 x17 x18 x19 x20 x21 x22
      x23 x24 x25 x26 x27 x28 x29 x30 x31 x32 x33 x34 x35).arrays = s.arrays := (rfl)

theorem State.arrays_ite (c : Prop) [Decidable c] (a b : State) :
    (if c then a else b).arrays = if c then a.arrays else b.arrays := apply_ite _ ..

theorem State.arrays_ite_of {c : Prop} [Decidable c] {a b : State} (h : a.arrays = b.arrays) :
    (if c then a else b).arrays = b.arrays := by
  rw [State.arrays_ite, h, ite_self]

theorem State.foldl_arrays {β : Type} {f : State → β → State} (h : ∀ s b, (f s b).arrays = s.arrays) (l : List β) :
    (l.foldl f s).arrays = s.arrays := foldl_keeps State.arrays h l s

theorem State.setReg_arrays {k : Nat} (w : Word) (hk : k ≠ Reg.SPN_GATE) : (s.setReg k w).arrays = s.arrays :=
  s.arrays_of rfl rfl ((s.reg_setReg ..).trans (if_neg hk.symm))

theorem State.setFld_arrays {k : Nat} (lo n v : Nat) (hk : k ≠ Reg.SPN_GATE) :
    (s.setFld k lo n v).arrays = s.arrays := s.setReg_arrays _ hk

theorem State.bump_arrays {k : Nat} (lo n v : Nat) (hk : k ≠ Reg.SPN_GATE) : (s.bump k lo n v).arrays = s.arrays :=
  s.setFld_arrays _ _ _ hk

theorem State.queueRecord_arrays (r : Record) : (s.queueRecord r).arrays = s.arrays :=
  s.arrays_of (s.queueRecord_anvils r) (s.queueRecord_running r) (s.reg_queueRecord r (by decide))

theorem State.setBit_arrays {k : Nat} (i : Nat) (b : Bool) (hk : k ≠ Reg.SPN_GATE) :
    (s.setBit k i b).arrays = s.arrays := s.setFld_arrays _ _ _ hk

theorem State.goFatal_arrays (code : Nat) : (s.goFatal code).arrays = s.arrays := by
  have hword : Reg.FLT_FATAL ≠ Reg.SPN_GATE := by decide
  have hstep : Reg.STA_STEP ≠ Reg.SPN_GATE := by decide
  unfold State.goFatal
  simp only [↓State.arrays_update, ↓State.setReg_arrays _ _ hword, ↓State.setBit_arrays _ _ _ hstep, ↓State.arrays_ite,
    ↓ite_self]

theorem State.raise_arrays (code : Nat) (cls : FaultClass) (loc : BitVec 64) (d0 d1 : Nat) :
    (s.raise code cls loc d0 d1).arrays = s.arrays := by
  have hmasked : Reg.FLT_CNTM ≠ Reg.SPN_GATE := by decide
  have hdetected : Reg.FLT_CNTD ≠ Reg.SPN_GATE := by decide
  unfold State.raise
  cases cls <;> simp only [↓State.arrays_update, ↓State.bump_arrays _ _ _ _ hmasked,
    ↓State.bump_arrays _ _ _ _ hdetected, ↓State.goFatal_arrays, ↓State.queueRecord_arrays]

theorem State.setRegs_arrays {vs : List (Nat × Word)} (h : ∀ v ∈ vs, v.1 ≠ Reg.SPN_GATE) :
    (vs.foldl (fun s v => s.setReg v.1 v.2) s).arrays = s.arrays := by
  induction vs generalizing s with
  | nil => rfl
  | cons v vs ih =>
    rw [List.forall_mem_cons] at h
    exact (ih _ h.2).trans (s.setReg_arrays _ h.1)

theorem State.apply_arrays (r : Nat) {e : Effect} (he : e.quiet = true) : (s.apply r e).arrays = s.arrays := by
  cases e with
  | count k lo n v => exact s.bump_arrays _ _ _ (bne_iff_ne.mp he)
  | record code cls loc d0 d1 => exact s.raise_arrays ..
  | latch k bit vs =>
    have hvs := s.setRegs_arrays fun v hv => bne_iff_ne.mp (List.all_eq_true.mp he v hv)
    exact (State.arrays_ite _ s _).trans (by rw [hvs, ite_self])
  | flags | mask | put | first | report | fence => exact absurd he nofun

theorem State.later_arrays (t r : Nat) {e : Effect} (he : e.quiet = true) : (s.later t r e).arrays = s.arrays := by
  unfold State.later
  split
  exacts [s.apply_arrays r he, rfl]

theorem State.laters_arrays (t r : Nat) {es : List Effect} (he : ∀ e ∈ es, e.quiet = true) :
    (s.laters t r es).arrays = s.arrays := by
  unfold State.laters
  induction es generalizing s with
  | nil => rfl
  | cons e es ih =>
    rw [List.forall_mem_cons] at he
    exact (ih _ he.2).trans (s.later_arrays t r he.1)

theorem State.setCell_arrays (g r b : Nat) (x : LedgerCell) : (s.setCell g r b x).arrays = s.arrays := rfl

theorem State.voidEntry_arrays (lag r buf cause : Nat) : (s.voidEntry lag r buf cause).arrays = s.arrays := by
  have htotal : Reg.LGR_TOTAL ≠ Reg.SPN_GATE := by decide
  unfold State.voidEntry
  simp only [↓State.arrays_update, ↓State.bump_arrays _ _ _ _ htotal, ↓State.setCell_arrays, ↓State.arrays_ite,
    ↓ite_self]

theorem State.onCtx_arrays (c : Nat) (f : Ctx → Ctx) : (s.onCtx c f).arrays = s.arrays := rfl

theorem State.voidBuf_arrays (ctx : Option Nat) (r buf cause : Nat) :
    (s.voidBuf ctx r buf cause).arrays = s.arrays := by
  unfold State.voidBuf
  split
  · rfl
  · cases ctx with
    | none => exact s.voidEntry_arrays ..
    | some c => exact s.onCtx_arrays ..

theorem State.voidOuts_arrays (ctx : Option Nat) (outs : List (Nat × Nat)) (cause : Nat) :
    (s.voidOuts ctx outs cause).arrays = s.arrays :=
  s.foldl_arrays (fun s _ => s.voidBuf_arrays ..) outs

theorem Effect.quiet_count {k : Nat} (lo n v : Nat) (hk : k ≠ Reg.SPN_GATE) : (Effect.count k lo n v).quiet = true :=
  bne_iff_ne.mpr hk

theorem State.countBreach_arrays (r t : Nat) : (s.countBreach r t).arrays = s.arrays :=
  s.laters_arrays t r (List.forall_mem_cons.mpr ⟨rfl, List.forall_mem_singleton.mpr rfl⟩)

theorem State.breachAt_arrays (ctx : Option Nat) (loc : BitVec 64) (w0 : Word) (planned cycle late : Nat) :
    (s.breachAt ctx loc w0 planned cycle late).arrays = s.arrays := by
  cases ctx with
  | none => exact (State.later_arrays _ _ _ rfl).trans (s.countBreach_arrays ..)
  | some c => exact s.laters_arrays _ _ (List.forall_mem_cons.mpr ⟨rfl, List.forall_mem_singleton.mpr rfl⟩)

theorem State.moreBreaches_arrays (ctx : Option Nat) (loc : BitVec 64) (t n : Nat) :
    (s.moreBreaches ctx loc t n).arrays = s.arrays := by
  unfold State.moreBreaches
  extract_lets masked r u
  have hcount : (if masked = true then Reg.FLT_CNTM else Reg.FLT_CNTD) ≠ Reg.SPN_GATE := by split <;> decide
  have hu : u.arrays = s.arrays := s.laters_arrays t r
    (List.forall_mem_cons.mpr ⟨rfl, List.forall_mem_singleton.mpr (Effect.quiet_count _ _ _ hcount)⟩)
  have hlost : Reg.FLT_LOST ≠ Reg.SPN_GATE := by decide
  rw [State.arrays_ite, u.later_arrays _ _ (Effect.quiet_count _ _ _ hlost), ite_self, hu]

theorem State.breachRun_arrays (ctx : Option Nat) (loc : BitVec 64) (w0 : Word) (planned cycle late n : Nat) :
    (s.breachRun ctx loc w0 planned cycle late n).arrays = s.arrays := by
  unfold State.breachRun
  simp only [↓State.breachAt_arrays, ↓State.moreBreaches_arrays, ↓State.foldl_arrays, implies_true, ↓State.arrays_ite,
    ↓ite_self]

theorem State.freezeBreaches_arrays (i : Issue) (c : Cmd) (loc : BitVec 64) (fs : Freezes) :
    (s.freezeBreaches i c loc fs).arrays = s.arrays :=
  foldl_keeps (fun x : Nat × State => x.2.arrays) (fun x _ => x.2.breachRun_arrays ..) fs (0, s)

theorem State.countFreeze_arrays (r a lo : Nat) (fs : Freezes) : (s.countFreeze r a lo fs).arrays = s.arrays := by
  have hk : Reg.ANV_FRZ r a ≠ Reg.SPN_GATE := by unfold Reg.ANV_FRZ Reg.SPN_GATE; omega
  exact s.foldl_arrays (fun s _ => s.later_arrays _ _ (Effect.quiet_count _ _ _ hk)) fs

theorem State.countRows_arrays (c : Cmd) (fs : Freezes) (m d enter : Nat) :
    (s.countRows c fs m d enter).arrays = s.arrays := by
  have hk : Reg.ANV_ACT c.region c.unit ≠ Reg.SPN_GATE := by unfold Reg.ANV_ACT Reg.SPN_GATE; omega
  exact s.foldl_arrays (fun s _ => s.later_arrays _ _ (Effect.quiet_count _ _ _ hk)) _

theorem State.useLeave_arrays (c : Cmd) (finish : Nat) : (s.useLeave c finish).arrays = s.arrays := by
  unfold State.useLeave
  split <;> rfl

theorem State.setLadle_arrays (r l : Nat) (x : Ladle) : (s.setLadle r l x).arrays = s.arrays := rfl

theorem State.takenBy_arrays (p : Port) (fs : Freezes) (cycle gap : Nat) :
    (s.takenBy p fs cycle gap).arrays = s.arrays := by
  unfold State.takenBy
  split
  · rfl
  · dsimp only
    split <;> rfl

theorem State.setChan_arrays (k : Nat) (c : Channel) : (s.setChan k c).arrays = s.arrays := rfl

theorem State.settleTaps_arrays (t : Nat) : (s.settleTaps t).arrays = s.arrays :=
  State.foldl_arrays _ (fun s _ => s.setChan_arrays ..) _

theorem State.openChans_arrays (region unit base count : Nat) (f : Fmt) (t : Nat) :
    (s.openChans region unit base count f t).2.arrays = s.arrays :=
  (State.foldl_arrays _ (fun s _ => s.setChan_arrays ..) _).trans (s.settleTaps_arrays t)

theorem State.countJob_arrays (client which n : Nat) : (s.countJob client which n).arrays = s.arrays :=
  s.bump_arrays _ _ _ (winKey_ne (by decide))

theorem State.onHandIn_arrays (j : Job) (f : HandIn → HandIn) : (s.onHandIn j f).arrays = s.arrays := by
  unfold State.onHandIn
  split <;> rfl

/-! ## The command under way -/

/-- A command that has issued becomes the newest one under way. -/
theorem State.track_arrays (c : Cmd) (i : Issue) (port finish : Nat) (outs : List (Nat × Nat)) :
    ∃ es, (s.track c i port finish outs).arrays = (s.anvils,
      ⟨c.cls, c.region, c.unit, port, c.w.w0, c.issue, finish, outs, i.ctx⟩ :: es, s.reg Reg.SPN_GATE) := by
  unfold State.track
  extract_lets e u
  refine ⟨s.running.filter _, Eq.trans ?_ (show u.arrays = _ from rfl)⟩
  cases i.ctx with
  | none => rfl
  | some k =>
    simp only [↓State.onCtx_arrays, ↓State.countJob_arrays, ↓State.onHandIn_arrays, ↓State.arrays_update,
      ↓State.arrays_ite, ↓ite_self]

/-- The newest command under way is `c` in a slot of its engine, and ends at `finish`. -/
def State.newest (s : State) (c : Cmd) (port finish : Nat) : Prop := s.runs c port = true ∧ s.newestEnd = some finish

theorem State.newest_of_running {c : Cmd} {port finish : Nat} {e : Running} {es : List Running}
    (hs : s.running = e :: es) (hf : e.finish = finish) (he : e.cls = c.cls ∧ e.region = c.region ∧ e.unit = c.unit ∧
      e.port = port ∧ e.w0 = c.w.w0 ∧ e.planned = c.issue) : s.newest c port finish := by
  obtain ⟨h1, h2, h3, h4, h5, h6⟩ := he
  unfold State.newest State.runs State.newestEnd
  rw [hs]
  simp [h1, h2, h3, h4, h5, h6, hf]

theorem State.newest_of_arrays {s t : State} (h : t.arrays = s.arrays) {c : Cmd} {port finish : Nat}
    (hs : s.newest c port finish) : t.newest c port finish := by
  unfold State.newest State.runs State.newestEnd at hs ⊢
  rwa [State.running_of_arrays h]

theorem State.track_newest (c : Cmd) (i : Issue) (port finish : Nat) (outs : List (Nat × Nat)) :
    (s.track c i port finish outs).newest c port finish := by
  obtain ⟨_, h⟩ := s.track_arrays c i port finish outs
  exact State.newest_of_running _ (congrArg (·.2.1) h) rfl ⟨rfl, rfl, rfl, rfl, rfl, rfl⟩

theorem State.track_anvil (c : Cmd) (i : Issue) (port finish : Nat) (outs : List (Nat × Nat)) (r a : Nat) :
    (s.track c i port finish outs).anvil r a = s.anvil r a := by
  obtain ⟨es, h⟩ := s.track_arrays c i port finish outs
  exact congrArg (fun x : SMap Anvil × List Running × Word => SMap.read {} x.1 (r * 4 + a)) h

theorem State.track_fenced (c : Cmd) (i : Issue) (port finish : Nat) (outs : List (Nat × Nat)) (r : Nat) :
    (s.track c i port finish outs).fenced r = s.fenced r := by
  obtain ⟨es, h⟩ := s.track_arrays c i port finish outs
  exact congrArg (fun x : SMap Anvil × List Running × Word => bitOf x.2.2 r) h

theorem State.anvil_setAnvil (r a : Nat) (x : Anvil) : (s.setAnvil r a x).anvil r a = x := SMap.read_write_same

/-! ## Freezes (R170, R171) -/

theorem delayedEnd_nil (t : Nat) : delayedEnd [] t = t := by
  unfold delayedEnd
  split
  · exact Eq.symm ‹t = 0›
  · exact Nat.succ_pred_eq_of_ne_zero ‹¬t = 0›

/-- An Anvil as freezes of its array leave it. -/
def Anvil.frozen (fs : Freezes) (v : Bool) (a : Anvil) : Anvil :=
  { a with
    flight := a.flight.map fun w => w.frozen fs v, drain := a.drain.map fun d => d.frozen fs v
    arrayFree := delayedEnd fs a.arrayFree, drainFree := delayedEnd fs a.drainFree }

/-- A command under way as freezes of an array leave it. -/
def Running.frozen (c : Cmd) (fs : Freezes) (e : Running) : Running :=
  if e.cls == 1 && e.region == c.region && e.unit == c.unit then { e with finish := delayedEnd fs e.finish } else e

theorem Drain.frozen_nil (d : Drain) : d.frozen [] false = d := by
  unfold Drain.frozen
  simp

theorem Anvil.frozen_nil (a : Anvil) : a.frozen [] false = a := by
  have hw : (fun w : RowWrite => w.frozen [] false) = id := rfl
  have hd : (fun d : Drain => d.frozen [] false) = id := funext Drain.frozen_nil
  unfold Anvil.frozen
  rw [hw, hd, List.map_id, Option.map_id, delayedEnd_nil, delayedEnd_nil, id]

theorem Running.frozen_nil (c : Cmd) (e : Running) : e.frozen c [] = e := by
  unfold Running.frozen
  rw [delayedEnd_nil, ite_self]

/-- Freezes hold up what runs in their array, and leave the gates. -/
theorem State.freezeAnvil_arrays (i : Issue) (c : Cmd) (loc : BitVec 64) {fs : Freezes} (hfs : fs ≠ []) :
    ∃ v, (s.freezeAnvil i c loc fs).arrays =
      ((s.setAnvil c.region c.unit ((s.anvil c.region c.unit).frozen fs v)).anvils,
        s.running.map (Running.frozen c fs), s.reg Reg.SPN_GATE) := by
  unfold State.freezeAnvil
  split
  · exact absurd rfl hfs
  next f tail =>
  extract_lets u v a w here x y
  have hu : u.arrays = s.arrays := s.freezeBreaches_arrays ..
  have hw : w.arrays = ((s.setAnvil c.region c.unit ((s.anvil c.region c.unit).frozen (f :: tail) v)).anvils,
      s.running, s.reg Reg.SPN_GATE) := by
    have ha : a = s.anvil c.region c.unit := State.anvil_of_arrays hu ..
    have hs : u.anvils = s.anvils := congrArg (·.1) hu
    refine Prod.ext ?_ (congrArg (·.2) hu)
    change SMap.write {} u.anvils _ (a.frozen (f :: tail) v) = _
    rw [hs, ha]
    rfl
  have hx : x.arrays = w.arrays := State.foldl_arrays _ (fun s e => by split <;> [exact s.voidOuts_arrays ..; rfl]) _
  have hy : y.arrays = x.arrays := by unfold y; split <;> rfl
  have hy : y.arrays = _ := hy.trans (hx.trans hw)
  refine ⟨v, Prod.ext (congrArg (·.1) hy) (Prod.ext ?_ (congrArg (·.2.2) hy))⟩
  change y.running.map (Running.frozen c (f :: tail)) = _
  rw [show y.running = s.running from congrArg (·.2.1) hy]

theorem State.freezeAnvil_running (i : Issue) (c : Cmd) (loc : BitVec 64) (fs : Freezes) :
    (s.freezeAnvil i c loc fs).running = s.running.map (Running.frozen c fs) := by
  cases fs with
  | nil => exact ((List.map_congr_left fun e _ => Running.frozen_nil c e).trans (List.map_id _)).symm
  | cons f fs =>
    obtain ⟨v, h⟩ := s.freezeAnvil_arrays i c loc (List.cons_ne_nil f fs)
    exact congrArg (·.2.1) h

theorem State.freezeAnvil_anvil (i : Issue) (c : Cmd) (loc : BitVec 64) (fs : Freezes) :
    ∃ v, (s.freezeAnvil i c loc fs).anvil c.region c.unit = (s.anvil c.region c.unit).frozen fs v := by
  cases fs with
  | nil => exact ⟨false, (Anvil.frozen_nil _).symm⟩
  | cons f fs =>
    obtain ⟨v, h⟩ := s.freezeAnvil_arrays i c loc (List.cons_ne_nil f fs)
    refine ⟨v, ?_⟩
    have ha : (s.freezeAnvil i c loc (f :: fs)).anvils = _ := congrArg (·.1) h
    unfold State.anvil
    rw [ha]
    exact s.anvil_setAnvil ..

theorem State.freezeAnvil_fenced (i : Issue) (c : Cmd) (loc : BitVec 64) (fs : Freezes) (r : Nat) :
    (s.freezeAnvil i c loc fs).fenced r = s.fenced r := by
  cases fs with
  | nil => rfl
  | cons f fs =>
    obtain ⟨v, h⟩ := s.freezeAnvil_arrays i c loc (List.cons_ne_nil f fs)
    exact congrArg (fun x : SMap Anvil × List Running × Word => bitOf x.2.2 r) h

/-- The newest command of a frozen array is still the newest one, and ends as much later. -/
theorem State.freezeAnvil_newest (i : Issue) {c : Cmd} (loc : BitVec 64) (fs : Freezes) {port finish : Nat}
    (hc : c.cls = 1) (h : s.newest c port finish) :
    (s.freezeAnvil i c loc fs).newest c port (delayedEnd fs finish) := by
  obtain ⟨hrun, hend⟩ := h
  unfold State.runs at hrun
  unfold State.newestEnd at hend
  match hs : s.running with
  | [] => rw [hs] at hrun; exact absurd hrun nofun
  | e :: es =>
    rw [hs] at hrun hend
    simp only [Bool.and_eq_true, beq_iff_eq] at hrun
    obtain ⟨⟨⟨⟨⟨h1, h2⟩, h3⟩, h4⟩, h5⟩, h6⟩ := hrun
    have he : e.frozen c fs = { e with finish := delayedEnd fs e.finish } :=
      if_pos (by simp [h1, h2, h3, hc])
    have hf : e.finish = finish := Option.some.inj hend
    refine State.newest_of_running _ (e := e.frozen c fs) (es := es.map (Running.frozen c fs)) ?_ ?_ ?_
    · exact (s.freezeAnvil_running ..).trans (by rw [hs, List.map_cons])
    · rw [he, hf]
    · rw [he]; exact ⟨h1, h2, h3, h4, h5, h6⟩

end

end Sys2Proof.Machine
end

section
/-! SUPPORT. The tile of an Anvil while a command takes data from a Ladle: it stands unless its region is fenced (R32, R46,
R165). -/

namespace Sys2Proof.Machine

open Sys2Proof

/-- A table in which some entries have been changed or taken out reads as before at a key whose entries stand. -/
theorem SMap.read_filterMap {α : Type} {d : α} {f : Nat × α → Option (Nat × α)} {k : Nat} {m : SMap α}
    (hstay : ∀ e ∈ m, e.1 = k → f e = some e) (hkey : ∀ e ∈ m, ∀ e', f e = some e' → e'.1 = e.1) :
    SMap.read d (m.filterMap f) k = SMap.read d m k := by
  induction m with
  | nil => rfl
  | cons e m ih =>
    rw [List.forall_mem_cons] at hstay hkey
    have ih := ih hstay.2 hkey.2
    by_cases hk : k = e.1
    · rw [List.filterMap_cons_some (hstay.1 hk.symm)]
      simp only [SMap.read, if_pos hk]
    · rw [SMap.read, if_neg hk, ← ih]
      cases hf : f e with
      | none => rw [List.filterMap_cons_none hf]
      | some e' =>
        rw [List.filterMap_cons_some hf, SMap.read, if_neg (hkey.1 e' hf ▸ hk)]

section
variable (s : State)

/-! ## The fence of a region -/

theorem State.dropTaster_gate (js : List Job) : (s.dropTaster js).reg Reg.SPN_GATE = s.reg Reg.SPN_GATE := by
  have hdrop : Reg.TST_DROP ≠ Reg.SPN_GATE := by decide
  have h : (s.dropTaster js).arrays = s.arrays := by
    unfold State.dropTaster
    simp only [↓State.onHandIn_arrays, ↓State.foldl_arrays, implies_true, ↓State.bump_arrays _ _ _ _ hdrop]
  exact congrArg (·.2.2) h

theorem State.abortJobs_gate (c : Nat) (p : Job → Bool) :
    (s.abortJobs c p).reg Reg.SPN_GATE = s.reg Reg.SPN_GATE := by
  have hwithdraw : ∀ t : State, (t.withdrawCtx c).reg Reg.SPN_GATE = t.reg Reg.SPN_GATE := fun t => by
    unfold State.reg; rw [t.withdrawCtx_regs]
  unfold State.abortJobs
  extract_lets x n
  split
  · rfl
  next head u rest v _ =>
  have hv : v.reg Reg.SPN_GATE = s.reg Reg.SPN_GATE :=
    (State.dropTaster_gate _ _).trans (congrArg (·.2.2) (s.countJob_arrays ..))
  rw [apply_ite (fun t : State => t.reg Reg.SPN_GATE), hwithdraw, ite_self, hv]

theorem State.abortWhere_gate (q : Ctx → Bool) (p : Job → Bool) :
    (s.abortWhere q p).reg Reg.SPN_GATE = s.reg Reg.SPN_GATE :=
  foldl_keeps (fun t : State => t.reg Reg.SPN_GATE) (fun t c => by
    rw [apply_ite (fun t : State => t.reg Reg.SPN_GATE), t.abortJobs_gate, ite_self]) _ s

theorem State.voidRegion_arrays (r cause : Nat) : (s.voidRegion r cause).arrays = s.arrays :=
  s.foldl_arrays (fun s _ => s.voidEntry_arrays ..) _

/-- Closing a gate sets its bit and no other. -/
theorem State.closeGate_fenced {r : Nat} (cause : Nat) (hr : r < 13) (j : Nat) :
    (s.closeGate r cause).fenced j = if j = r then true else s.fenced j := by
  have h : (s.closeGate r cause).reg Reg.SPN_GATE = (s.setBit Reg.SPN_GATE r true).reg Reg.SPN_GATE := by
    unfold State.closeGate
    extract_lets u v w
    have hv : v.reg Reg.SPN_GATE = u.reg Reg.SPN_GATE := congrArg (·.2.2) (u.voidRegion_arrays r cause)
    have hw : w.reg Reg.SPN_GATE = v.reg Reg.SPN_GATE := v.abortWhere_gate ..
    unfold State.reg at hw hv ⊢
    dsimp only
    rw [hw, hv]
  have hbit := s.bit_setBit Reg.SPN_GATE r true Reg.SPN_GATE j (by omega)
  simp only [true_and] at hbit
  exact (congrArg (bitOf · j) h).trans hbit

/-- Closing a gate leaves the Anvils of the other regions. -/
theorem State.closeGate_anvil {r j a : Nat} (cause : Nat) (hj : j ≠ r) (ha : a < 4) :
    (s.closeGate r cause).anvil j a = s.anvil j a := by
  have hbefore : ((s.setBit Reg.SPN_GATE r true).voidRegion r cause).anvils = s.anvils :=
    congrArg (·.1) (State.voidRegion_arrays ..)
  unfold State.closeGate State.anvil
  dsimp only
  rw [State.abortWhere_anvils, hbefore]
  refine SMap.read_filterMap (fun e _ he => if_neg ?_) (fun e _ e' he => ?_)
  · rw [he]; omega
  · split at he
    · split at he
      · exact absurd he nofun
      · exact (Option.some.inj he) ▸ rfl
    · exact (Option.some.inj he) ▸ rfl

/-! ## Tiles -/

/-- The tile of an Anvil stands in `t` as in `s`, unless its region has been fenced. -/
structure State.TileStands (s t : State) (r a : Nat) : Prop where
  unfenced : t.fenced r = false → s.fenced r = false
  tile : t.fenced r = false → (t.anvil r a).tile = (s.anvil r a).tile

variable {s} {t u : State} {r a : Nat}

theorem State.TileStands.trans (h : s.TileStands t r a) (h' : t.TileStands u r a) : s.TileStands u r a :=
  ⟨fun hu => h.unfenced (h'.unfenced hu), fun hu => (h'.tile hu).trans (h.tile (h'.unfenced hu))⟩

theorem State.TileStands.of_arrays (h : t.arrays = s.arrays) : s.TileStands t r a :=
  ⟨fun ht => State.fenced_of_arrays h r ▸ ht, fun _ => congrArg Anvil.tile (State.anvil_of_arrays h r a)⟩

theorem State.tileStands_self : s.TileStands s r a := .of_arrays rfl

theorem State.TileStands.foldl {β : Type} {f : State → β → State} (h : ∀ (s : State) b, s.TileStands (f s b) r a) (l : List β) :
    s.TileStands (l.foldl f s) r a := by
  induction l generalizing s with
  | nil => exact s.tileStands_self
  | cons b l ih => exact (h s b).trans ih

variable (s) (ha : a < 4)
include ha

theorem State.fenceFault_tileStands {q : Nat} (cause : Nat) (hq : q < 13) :
    s.TileStands (s.fenceFault q cause) r a := by
  have hend : ∀ t : State, t.arrays = (s.closeGate q cause).arrays → s.TileStands t r a := fun t ht => by
    have hgate : t.fenced r = if r = q then true else s.fenced r :=
      (State.fenced_of_arrays ht r).trans (s.closeGate_fenced cause hq r)
    by_cases hr : r = q
    · rw [if_pos hr] at hgate
      exact ⟨fun h => absurd (hgate.symm.trans h) nofun, fun h => absurd (hgate.symm.trans h) nofun⟩
    · rw [if_neg hr] at hgate
      exact ⟨hgate ▸ id,
        fun _ => congrArg Anvil.tile ((State.anvil_of_arrays ht r a).trans (s.closeGate_anvil cause hr ha))⟩
  unfold State.fenceFault
  split
  · exact s.tileStands_self
  · refine hend _ ?_
    simp only [↓State.arrays_ite, ↓State.arrays_update, ↓State.raise_arrays, ↓ite_self]

theorem State.blockFault_tileStands (q cls idx cause : Nat) : s.TileStands (s.blockFault q cls idx cause) r a := by
  unfold State.blockFault
  extract_lets k e run x u
  have hu : s.TileStands u r a := .of_arrays rfl
  split
  next h => exact hu.trans (u.fenceFault_tileStands ha cause (by simpa using (Bool.and_eq_true_iff.mp h).2))
  next => exact hu

omit ha in
theorem State.report_arrays (q cls idx : Nat) : (s.report q cls idx).1.arrays = s.arrays := by
  unfold State.report
  extract_lets k now x u
  split
  · rfl
  · split
    · rfl
    · exact State.raise_arrays ..

theorem State.blockRaise_tileStands (q cls idx code : Nat) (loc : BitVec 64) (d0 d1 : Nat) :
    s.TileStands (s.blockRaise q cls idx code loc d0 d1) r a := by
  have hreport : s.TileStands (s.report q cls idx).1 r a := .of_arrays (s.report_arrays q cls idx)
  unfold State.blockRaise
  split <;> rename_i u h <;> rw [h] at hreport
  · exact (hreport.trans (.of_arrays (u.raise_arrays ..))).trans (State.blockFault_tileStands _ ha ..)
  · exact hreport

theorem State.eccRecord_tileStands (unc : Bool) (q cls idx : Nat) (loc : BitVec 64) (addr hi : Nat) :
    s.TileStands (s.eccRecord unc q cls idx loc addr hi) r a := by
  have hfresh : s.TileStands s.fresh.2 r a := .of_arrays rfl
  unfold State.eccRecord
  dsimp only
  split
  · exact hfresh.trans (State.blockRaise_tileStands _ ha ..)
  · exact hfresh.trans (.of_arrays (State.raise_arrays ..))

theorem State.padEcc_tileStands (w e : Nat) : s.TileStands (s.padEcc w e) r a := by
  have hecc : ∀ q, Reg.SPD_ECC q ≠ Reg.SPN_GATE := fun q => by unfold Reg.SPD_ECC Reg.SPN_GATE; omega
  have hloc : ∀ q, Reg.SPD_ECCLOC q ≠ Reg.SPN_GATE := fun q => by unfold Reg.SPD_ECCLOC Reg.SPN_GATE; omega
  unfold State.padEcc
  split
  · refine .trans (.of_arrays ?_) (State.eccRecord_tileStands _ ha ..)
    simp only [↓State.arrays_ite, ↓State.setReg_arrays _ _ (hloc _), ↓State.bump_arrays _ _ _ _ (hecc _), ↓ite_self]
  · exact .trans (.of_arrays (s.bump_arrays _ _ _ (hecc _))) (State.eccRecord_tileStands _ ha ..)

omit ha in
theorem State.ladleErr_arrays (q l lo n : Nat) : (s.ladleErr q l lo n).arrays = s.arrays := by
  have herr : Reg.LDL_ERR q l ≠ Reg.SPN_GATE := by unfold Reg.LDL_ERR Reg.SPN_GATE; omega
  have hslot : Reg.LDL_ERRSLOT q l ≠ Reg.SPN_GATE := by unfold Reg.LDL_ERRSLOT Reg.SPN_GATE; omega
  unfold State.ladleErr
  simp only [↓State.arrays_ite, ↓State.setReg_arrays _ _ hslot, ↓State.bump_arrays _ _ _ _ herr, ↓ite_self]

omit ha in
theorem State.rangeFaults_arrays (q l : Nat) (x : Stream) (n : Nat) :
    (s.rangeFaults q l x n).arrays = s.arrays := by
  unfold State.rangeFaults
  simp only [↓State.raise_arrays, ↓State.foldl_arrays, implies_true, ↓State.ladleErr_arrays]

theorem State.hallFaults_tileStands (q l : Nat) (gs : List (Nat × Nat)) :
    s.TileStands (s.hallFaults q l gs) r a :=
  .foldl (fun s _ => .trans (.of_arrays (s.ladleErr_arrays ..)) (State.blockRaise_tileStands _ ha ..)) gs

omit ha in
theorem State.bumpIf_arrays (b : Bool) {k : Nat} (lo n v : Nat) (hk : k ≠ Reg.SPN_GATE) :
    (s.bumpIf b k lo n v).arrays = s.arrays :=
  State.arrays_ite_of (s.bump_arrays _ _ _ hk)

/-- A command that takes data from a Ladle leaves the tile, unless what it meets fences the region. -/
theorem State.take_tileStands (p : Port) (kind n : Nat) : s.TileStands (s.take p kind n).2 r a := by
  have hmap : Reg.RAD_CNT ≠ Reg.SPN_GATE := by decide
  have habsent : Reg.SPN_ABSCNT ≠ Reg.SPN_GATE := by decide
  unfold State.take
  split
  · exact s.tileStands_self
  next x _ =>
  extract_lets q l bs o ps before gs gs' bad par bad' out abs ecc unc bytes
  dsimp only
  refine .trans ?met (.of_arrays ((State.setLadle_arrays ..).trans (State.arrays_ite_of (State.voidBuf_arrays ..))))
  refine .trans ?read (.foldl (fun s _ => s.padEcc_tileStands ha ..) ecc)
  exact (State.TileStands.of_arrays (s.bumpIf_arrays _ _ _ _ hmap)).trans ((State.hallFaults_tileStands _ ha ..).trans
    (.of_arrays ((State.bump_arrays _ _ _ _ habsent).trans ((State.ladleErr_arrays ..).trans
      (State.rangeFaults_arrays ..)))))


end

end Sys2Proof.Machine
end

section
/-! PROOF of O4, O5 and O6: what the array commands that issue leave in their Anvil (R145 to R160). For each command one
lemma says which state it answers; the statements are then read off that state. -/

namespace Sys2Proof.Machine

open Sys2Proof

/-! ## Shared facts -/

theorem admitted_of {ok : Bool} (h : ok = true) (s : State) : admitted ok s = .next s := if_pos h

theorem Cmd.cls_and_unit_of_common {c : Cmd} {cls op units : Nat} {regions : List Nat} {elasticOk dataOk : Bool}
    {flags : Nat} (h : c.common cls op units regions elasticOk dataOk flags = true) : c.cls = cls ∧ c.unit < units := by
  unfold Cmd.common at h
  simp only [Bool.and_eq_true, beq_iff_eq, decide_eq_true_eq] at h
  obtain ⟨⟨⟨⟨⟨⟨⟨⟨hcls, -⟩, hunit⟩, -⟩, -⟩, -⟩, -⟩, -⟩, -⟩ := h
  exact ⟨hcls, hunit⟩

theorem RowWrite.frozen_fields (fs : Freezes) (v : Bool) (w : RowWrite) : (w.frozen fs v).seq = w.seq ∧
    (w.frozen fs v).acc = w.acc ∧ (w.frozen fs v).cls = w.cls ∧ (w.frozen fs v).raw = w.raw := by
  unfold RowWrite.frozen
  split <;> exact ⟨rfl, rfl, rfl, rfl⟩

theorem map_seq_frozen (fs : Freezes) (v : Bool) (ws : List RowWrite) :
    (ws.map fun w => w.frozen fs v).map (·.seq) = ws.map (·.seq) := by
  rw [List.map_map]
  refine List.map_congr_left fun w _ => ?_
  obtain ⟨hseq, -⟩ := w.frozen_fields fs v
  exact hseq

section
variable (s : State) (c : Cmd)

/-! ## LOAD -/

theorem State.readTile_fields (i : Issue) : (s.readTile c i).1.krows = bitsOf c.w.w2 16 8 ∧
    (s.readTile c i).1.ncols = bitsOf c.w.w2 24 7 ∧ (s.readTile c i).1.fmt = (Fmt.get (bitsOf c.w.w2 8 4)).code ∧
    (s.readTile c i).1.ctx = i.ctx :=
  ⟨rfl, rfl, rfl, rfl⟩

theorem State.anvilLoad_issued {x : Issue × State} {v : State} (hv : s.drainsTo (s.comesAt c) = v)
    (hx : v.issue c (s.anvilLoc c) (v.anvil c.region c.unit).arrayFree (2 ^ c.unit) = x) (hgo : x.1.go = true) :
    ∃ u : State, s.anvilLoad c = (u.setAnvil c.region c.unit
      { u.anvil c.region c.unit with
        tile := some (x.2.readTile c x.1).1
        arrayFree := delayedEnd (x.2.loadFreezes c x.1.t) (x.1.t + 128) }).track c x.1 0
          (delayedEnd (x.2.loadFreezes c x.1.t) (x.1.t + 128)) [] := by
  obtain ⟨i, u⟩ := x
  have hgo : i.go = true := hgo
  unfold State.anvilLoad
  rw [hv]
  dsimp only
  rw [hx, if_neg (by rw [hgo]; decide)]
  exact ⟨_, rfl⟩

/-! ## BIAS -/

/-- Freezes of an array leave the tile in it. -/
theorem State.freezeAnvil_tileStands (i : Issue) (loc : BitVec 64) (fs : Freezes) :
    s.TileStands (s.freezeAnvil i c loc fs) c.region c.unit where
  unfenced h := s.freezeAnvil_fenced i c loc fs c.region ▸ h
  tile _ := by
    obtain ⟨v, h⟩ := s.freezeAnvil_anvil i c loc fs
    rw [h]
    rfl

/-- The row writes of a BIAS of `m` rows: 64 raw entries each, none accumulating (R150). -/
structure BiasRows (ws : List RowWrite) (m : Nat) : Prop where
  seqs : ws.map (·.seq) = (List.range m).map fun j => (bitsOf c.w.w3 16 9 + j) % 512
  raws : ∀ w ∈ ws, w.acc = false ∧ w.cls = biasClass (bitsOf c.w.w2 4 2) ∧ w.raw.map List.length = some 64

variable {c} in
theorem BiasRows.frozen {ws : List RowWrite} {m : Nat} (h : BiasRows c ws m) (fs : Freezes) (v : Bool) :
    BiasRows c (ws.map fun w => w.frozen fs v) m where
  seqs := (map_seq_frozen fs v ws).trans h.seqs
  raws := List.forall_mem_map.mpr fun w hw => by
    obtain ⟨-, hacc, hcls, hraw⟩ := w.frozen_fields fs v
    rw [hacc, hcls, hraw]
    exact h.raws w hw

theorem biasRows_map {m : Nat} {f : Nat → RowWrite} (hseq : ∀ j, (f j).seq = (bitsOf c.w.w3 16 9 + j) % 512)
    (hraw : ∀ j, (f j).acc = false ∧ (f j).cls = biasClass (bitsOf c.w.w2 4 2) ∧
      (f j).raw.map List.length = some 64) : BiasRows c ((List.range m).map f) m where
  seqs := (List.map_map ..).trans (List.map_congr_left fun j _ => hseq j)
  raws := List.forall_mem_map.mpr fun j _ => hraw j

theorem State.anvilBias_issued {x : Issue × State} {v : State} (hv : s.drainsTo (s.comesAt c) = v)
    (hx : v.issue c (s.anvilLoc c) (v.anvil c.region c.unit).arrayFree (2 ^ c.unit) = x) (hgo : x.1.go = true)
    (hu : c.unit < 4) :
    ∃ (u : State) (ws : List RowWrite) (finish : Nat), BiasRows c ws (s.rowsOf c) ∧
      x.2.TileStands u c.region c.unit ∧
      s.anvilBias c = (u.setAnvil c.region c.unit
        { u.anvil c.region c.unit with
          flight := (u.anvil c.region c.unit).flight ++ ws, arrayFree := finish }).track c x.1 0 finish [] := by
  obtain ⟨i, u⟩ := x
  have hgo : i.go = true := hgo
  unfold State.anvilBias
  rw [hv]
  dsimp only
  rw [hx, if_neg (by rw [hgo]; decide)]
  refine ⟨_, _, _, (biasRows_map c (fun j => rfl) fun j => ⟨rfl, rfl, ?_⟩).frozen _ _, ?_, rfl⟩
  · exact congrArg some (by simp)
  · exact ((u.take_tileStands hu ..).trans (.of_arrays (State.takenBy_arrays ..))).trans
      ((State.freezeAnvil_tileStands ..).trans (.of_arrays (State.countFreeze_arrays ..)))

/-! ## STREAM and LOADSTREAM -/

/-- The row writes of a stream of `m` rows: each adds to its row exactly where the command's ACC flag is set (R148). -/
structure StreamRows (ws : List RowWrite) (m : Nat) : Prop where
  seqs : ws.map (·.seq) = (List.range m).map fun j => (bitsOf c.w.w3 16 9 + j) % 512
  accs : ∀ w ∈ ws, w.acc = c.flag 0

variable {c} in
theorem StreamRows.frozen {ws : List RowWrite} {m : Nat} (h : StreamRows c ws m) (fs : Freezes) (v : Bool) :
    StreamRows c (ws.map fun w => w.frozen fs v) m where
  seqs := (map_seq_frozen fs v ws).trans h.seqs
  accs := List.forall_mem_map.mpr fun w hw => by
    obtain ⟨-, hacc, -⟩ := w.frozen_fields fs v
    rw [hacc, h.accs w hw]

theorem streamRows_map {m : Nat} {f : Nat → RowWrite} (hseq : ∀ j, (f j).seq = (bitsOf c.w.w3 16 9 + j) % 512)
    (hacc : ∀ j, (f j).acc = c.flag 0) : StreamRows c ((List.range m).map f) m where
  seqs := (List.map_map ..).trans (List.map_congr_left fun j _ => hseq j)
  accs := List.forall_mem_map.mpr fun j _ => hacc j

theorem State.streamRows_rows (i : Issue) (tile : Tile) (m enter : Nat) (extraVoid : Bool) (cause : Nat) :
    StreamRows c (s.streamRows c i tile m enter extraVoid cause).1.rows m := by
  unfold State.streamRows
  exact streamRows_map c (fun j => rfl) fun j => rfl

/-- The command is under way in the array slot of its Anvil, whose newest row writes are those of its stream. -/
structure StreamLaunched (t : State) (m : Nat) : Prop where
  newest : ∃ finish, t.newest c 0 finish
  flight : ∃ old new, (t.anvil c.region c.unit).flight = old ++ new ∧ StreamRows c new m

variable {c} in
/-- What comes after the row writes have been launched leaves the Anvil: the counts of the rows, and the leave. -/
theorem State.launch_anvil (u : State) (a : Anvil) (fs : Freezes) (m d enter finish : Nat) (i : Issue) :
    ((((u.setAnvil c.region c.unit a).countRows c fs m d enter).useLeave c finish).track c i 0 finish []).anvil
      c.region c.unit = a := by
  have harrays := (State.useLeave_arrays _ c finish).trans
    ((u.setAnvil c.region c.unit a).countRows_arrays c fs m d enter)
  exact ((State.track_anvil _ c i 0 finish [] c.region c.unit).trans
    (State.anvil_of_arrays harrays c.region c.unit)).trans (u.anvil_setAnvil c.region c.unit a)

variable {c} in
theorem StreamLaunched.of_launch {u : State} {a : Anvil} {old new : List RowWrite} {m : Nat}
    (hnew : StreamRows c new m) (ha : a.flight = old ++ new) (fs : Freezes) (d enter finish : Nat) (i : Issue) :
    StreamLaunched c (((((u.setAnvil c.region c.unit a).countRows c fs m d enter).useLeave c finish).track c i 0 finish
      [])) m :=
  ⟨⟨finish, State.track_newest ..⟩, old, new, by rw [u.launch_anvil, ha], hnew⟩

theorem State.anvilStream_issued {x : Issue × State} {v : State}
    (hv : (s.drainsTo (s.comesAt c)).takeLeave c (2 ^ c.unit) c.anvilLeave = (true, v))
    (hx : v.issue c (s.anvilLoc c) (v.anvil c.region c.unit).arrayFree (2 ^ c.unit) = x) (hgo : x.1.go = true) :
    StreamLaunched c (s.anvilStream c) (s.rowsOf c) := by
  obtain ⟨i, u⟩ := x
  have hgo : i.go = true := hgo
  unfold State.anvilStream
  dsimp only
  rw [hv]
  dsimp only
  rw [if_neg (by decide), hx, if_neg (by rw [hgo]; decide)]
  exact .of_launch ((State.streamRows_rows ..).frozen _ _) (by rfl) ..

theorem State.anvilLoadStream_issued {x : Issue × State} {v : State}
    (hv : (s.drainsTo (s.comesAt c)).takeLeave c (2 ^ c.unit) c.anvilLeave = (true, v))
    (hx : v.issue c (s.anvilLoc c) (v.anvil c.region c.unit).arrayFree (2 ^ c.unit) = x) (hgo : x.1.go = true) :
    StreamLaunched c (s.anvilLoadStream c) (s.rowsOf c) ∧
      ((s.anvilLoadStream c).anvil c.region c.unit).tile = some (x.2.readTile c x.1).1 := by
  obtain ⟨i, u⟩ := x
  have hgo : i.go = true := hgo
  unfold State.anvilLoadStream
  dsimp only
  rw [hv]
  dsimp only
  rw [if_neg (by decide), hx, if_neg (by rw [hgo]; decide)]
  exact ⟨.of_launch ((State.streamRows_rows ..).frozen _ _) (by rfl) ..,
    (congrArg Anvil.tile (State.launch_anvil ..)).trans rfl⟩

/-! ## DRAIN -/

/-- A DRAIN of no rows only takes the drain slot for a cycle (R164). -/
theorem State.anvilDrain_empty {x : Issue × State} {v : State} (hv : s.drainsTo (s.comesAt c) = v)
    (hx : v.issue c (s.anvilLoc c) (v.anvil c.region c.unit).drainFree (2 ^ c.unit) = x) (hgo : x.1.go = true)
    (hm : s.rowsOf c = 0) : ∃ (u : State) (outs : List (Nat × Nat)), u.arrays = x.2.arrays ∧
      s.anvilDrain c = (u.setAnvil c.region c.unit
        { u.anvil c.region c.unit with drainFree := x.1.t + 1 }).track c x.1 1 (x.1.t + 1) outs := by
  obtain ⟨i, u⟩ := x
  have hgo : i.go = true := hgo
  unfold State.anvilDrain
  rw [hv]
  dsimp only
  rw [hx, if_neg (by rw [hgo]; decide), if_pos hm]
  exact ⟨_, _, State.voidOuts_arrays .., rfl⟩

/-- A DRAIN that has rows to read stands at its first one, and its backups hold up the array (R158, R170). -/
theorem State.anvilDrain_rows {x : Issue × State} {v : State} (hv : s.drainsTo (s.comesAt c) = v)
    (hx : v.issue c (s.anvilLoc c) (v.anvil c.region c.unit).drainFree (2 ^ c.unit) = x) (hgo : x.1.go = true)
    (hm : s.rowsOf c ≠ 0) : ∃ (u : State) (d : Drain) (outs : List (Nat × Nat)), u.arrays = x.2.arrays ∧
      (d.cmd = c ∧ d.at_ = x.1.t ∧ d.rows = s.rowsOf c ∧ d.next = 0) ∧
      s.anvilDrain c = ((((u.setAnvil c.region c.unit
        { u.anvil c.region c.unit with drain := some d, drainFree := d.finish }).track c x.1 1 d.finish outs).freezeAnvil
          x.1 c (s.anvilLoc c) (c.backups x.1.t)).countFreeze c.region c.unit 16 (c.backups x.1.t)) := by
  obtain ⟨i, u⟩ := x
  have hgo : i.go = true := hgo
  unfold State.anvilDrain
  rw [hv]
  dsimp only
  rw [hx, if_neg (by rw [hgo]; decide), if_neg hm]
  refine ⟨_, _, _, ?_, ⟨rfl, rfl, rfl, rfl⟩, rfl⟩
  have hopen := u.openChans_arrays c.region c.unit (bitsOf c.w.w2 16 8)
    (min (bitsOf c.w.w2 24 8 + 1) (if c.flag 1 then 32 else 64)) (Fmt.get (bitsOf c.w.w2 4 4)) i.t
  rw [snd_ite]
  exact (State.arrays_ite_of hopen.symm).trans hopen
variable {c} in
/-- A DRAIN that has been put into its slot is the newest command under way, and the freezes of its array hold it up as
they hold up its slot. -/
theorem State.frozenDrain_newest (loc : BitVec 64) (hc : c.cls = 1) (u : State) (d : Drain) (i : Issue)
    (outs : List (Nat × Nat)) (fs : Freezes) :
    let a : Anvil := { u.anvil c.region c.unit with drain := some d, drainFree := d.finish }
    let t := (((u.setAnvil c.region c.unit a).track c i 1 d.finish outs).freezeAnvil i c loc fs).countFreeze c.region
      c.unit 16 fs
    t.runs c 1 = true ∧ t.newestEnd = some (delayedEnd fs d.finish) ∧
      ∃ v, t.anvil c.region c.unit = a.frozen fs v := by
  intro a t
  have hcount := State.countFreeze_arrays
    (((u.setAnvil c.region c.unit a).track c i 1 d.finish outs).freezeAnvil i c loc fs) c.region c.unit 16 fs
  obtain ⟨hrun, hend⟩ := State.newest_of_arrays hcount
    (State.freezeAnvil_newest _ i loc fs hc (State.track_newest (u.setAnvil c.region c.unit a) c i 1 d.finish outs))
  obtain ⟨v, hv⟩ := ((u.setAnvil c.region c.unit a).track c i 1 d.finish outs).freezeAnvil_anvil i c loc fs
  refine ⟨hrun, hend, v, ?_⟩
  rw [State.anvil_of_arrays hcount, hv, State.track_anvil, State.anvil_setAnvil]

end

theorem exec_load {c : Cmd} (h : c.wfLoad = true) (s : State) : exec (.load c) s = .next (s.anvilLoad c) :=
  admitted_of h _

theorem exec_bias {c : Cmd} (h : c.wfBias = true) (s : State) : exec (.bias c) s = .next (s.anvilBias c) :=
  admitted_of h _

theorem exec_stream {c : Cmd} (h : c.wfStream = true) (s : State) : exec (.stream c) s = .next (s.anvilStream c) :=
  admitted_of h _

theorem exec_loadstream {c : Cmd} (h : c.wfLoadstream = true) (s : State) :
    exec (.loadstream c) s = .next (s.anvilLoadStream c) := admitted_of h _

theorem exec_drain {c : Cmd} (h : c.wfDrain = true) (s : State) : exec (.drain c) s = .next (s.anvilDrain c) :=
  admitted_of h _

theorem Cmd.unit_lt_of_wfBias {c : Cmd} (h : c.wfBias = true) : c.unit < 4 := by
  unfold Cmd.wfBias at h
  simp only [Bool.and_eq_true] at h
  obtain ⟨⟨⟨hcommon, -⟩, -⟩, -⟩ := h
  exact (Cmd.cls_and_unit_of_common hcommon).2

theorem Cmd.cls_of_wfDrain {c : Cmd} (h : c.wfDrain = true) : c.cls = 1 := by
  unfold Cmd.wfDrain at h
  simp only [Bool.and_eq_true] at h
  obtain ⟨⟨⟨⟨⟨⟨hcommon, -⟩, -⟩, -⟩, -⟩, -⟩, -⟩ := h
  exact (Cmd.cls_and_unit_of_common hcommon).1

/-- Settles O4: the states that `State.anvilLoad_issued` and `State.anvilBias_issued` give. -/
theorem anvilTilesAndBiasRows : Obligations.AnvilTilesAndBiasRows := by
  unfold Obligations.AnvilTilesAndBiasRows
  constructor
  · intro s c hwf v free x hgo
    have hissue : x.1.go = true := (v.issue_goes c (s.anvilLoc c) free (2 ^ c.unit)).trans hgo
    obtain ⟨u, hu⟩ := s.anvilLoad_issued c (x := x) rfl rfl hissue
    obtain ⟨hk, hn, hf, hctx⟩ := x.2.readTile_fields c x.1
    refine ⟨_, (x.2.readTile c x.1).1, exec_load hwf s, ?_⟩
    rw [hu, State.track_anvil, State.anvil_setAnvil]
    refine ⟨(State.track_newest ..).1, rfl, hk, hn, hf, hctx, fun hlate => ?_⟩
    exact (congrArg (delayedEnd · (x.1.t + 128)) hlate).trans (delayedEnd_nil _)
  · intro s c hwf v free x hgo
    have hissue : x.1.go = true := (v.issue_goes c (s.anvilLoc c) free (2 ^ c.unit)).trans hgo
    obtain ⟨u, ws, finish, hws, htile, hu⟩ := s.anvilBias_issued c (x := x) rfl rfl hissue (Cmd.unit_lt_of_wfBias hwf)
    refine ⟨_, (u.anvil c.region c.unit).flight, ws, exec_bias hwf s, ?_⟩
    rw [hu, State.track_anvil, State.anvil_setAnvil, State.track_fenced]
    exact ⟨(State.track_newest ..).1, rfl, hws.seqs, hws.raws, htile.tile⟩

/-- Settles O5: `State.anvilStream_issued` and `State.anvilLoadStream_issued`. -/
theorem anvilStreamLaunchesItsRows : Obligations.AnvilStreamLaunchesItsRows := by
  unfold Obligations.AnvilStreamLaunchesItsRows
  intro s c g rows hleave hgo
  have hg : g = (true, g.2) := Prod.ext hleave rfl
  have hissue := (g.2.issue_goes c (s.anvilLoc c) (g.2.anvil c.region c.unit).arrayFree (2 ^ c.unit)).trans hgo
  refine ⟨fun hwf => ?_, fun hwf => ?_⟩
  · obtain ⟨⟨finish, hrun, -⟩, old, new, hflight, hseqs, haccs⟩ := s.anvilStream_issued c hg rfl hissue
    exact ⟨_, old, new, exec_stream hwf s, hrun, hflight, hseqs, haccs⟩
  · obtain ⟨⟨⟨finish, hrun, -⟩, old, new, hflight, hseqs, haccs⟩, htile⟩ := s.anvilLoadStream_issued c hg rfl hissue
    exact ⟨_, old, new, _, exec_loadstream hwf s, hrun, hflight, hseqs, haccs, htile, rfl, rfl⟩

/-- Settles O6: the states that `State.anvilDrain_empty` and `State.anvilDrain_rows` give. -/
theorem anvilDrainTakesTheDrainSlot : Obligations.AnvilDrainTakesTheDrainSlot := by
  unfold Obligations.AnvilDrainTakesTheDrainSlot
  intro s c hwf v free x hgo
  have hissue : x.1.go = true := (v.issue_goes c (s.anvilLoc c) free (2 ^ c.unit)).trans hgo
  refine ⟨_, exec_drain hwf s, ?_⟩
  by_cases hm : s.rowsOf c = 0
  · obtain ⟨u, outs, hux, hu⟩ := s.anvilDrain_empty c (x := x) rfl rfl hissue hm
    obtain ⟨hrun, hend⟩ := State.track_newest (u.setAnvil c.region c.unit
      { u.anvil c.region c.unit with drainFree := x.1.t + 1 }) c x.1 1 (x.1.t + 1) outs
    have htile := congrArg Anvil.tile (State.anvil_of_arrays hux c.region c.unit)
    rw [hu, State.track_anvil, State.anvil_setAnvil]
    exact ⟨hrun, hend, htile, fun _ => hend, fun h => absurd hm h⟩
  · obtain ⟨u, d, outs, hux, ⟨hcmd, hat, hrows, hnext⟩, hu⟩ := s.anvilDrain_rows c (x := x) rfl rfl hissue hm
    obtain ⟨hrun, hend, v, hanvil⟩ := State.frozenDrain_newest (s.anvilLoc c) (Cmd.cls_of_wfDrain hwf) u d x.1 outs
      (c.backups x.1.t)
    have htile := congrArg Anvil.tile (State.anvil_of_arrays hux c.region c.unit)
    rw [hu, hanvil]
    exact ⟨hrun, hend, htile, fun h => absurd h hm, fun _ => ⟨d.frozen (c.backups x.1.t) v, rfl, hcmd, hat, hrows, hnext⟩⟩

end Sys2Proof.Machine
end

section
/-! PROOF of O7: what VLOAD, SWEEP and SOUT leave in the Slicer (R174 to R177). -/

namespace Sys2Proof.Machine

open Sys2Proof

theorem State.slicers_of_besides {s t : State} (h : t.besides .shared = s.besides .shared) : t.slicers = s.slicers :=
  Owner.eq_of_hide (u := .slicer) (o := .shared) (empty := []) (congrArg (·.slicers) h) nofun

theorem State.slicer_of_besides {s t : State} (h : t.besides .shared = s.besides .shared) (r : Nat) :
    t.slicer r = s.slicer r :=
  congrArg (fun m : SMap Slicer => SMap.read ({} : Slicer) m r) (State.slicers_of_besides h)

theorem State.slicer_setSlicer (s : State) (r : Nat) (x : Slicer) : (s.setSlicer r x).slicer r = x := SMap.read_write_same

/-- A list cut into `k` pieces of `n` that it fills has `k` pieces. -/
theorem length_chunks {α : Type} {n k : Nat} (hn : 0 < n) {xs : List α} (h : xs.length = k * n) :
    (chunks n k xs).length = k := by
  induction k generalizing xs with
  | zero => cases xs <;> rfl
  | succ k ih =>
    cases xs with
    | nil => rw [Nat.succ_mul, List.length_nil] at h; omega
    | cons x xs =>
      have hrest : ((x :: xs).drop n).length = k * n := by
        rw [List.length_drop, h, Nat.succ_mul, Nat.add_sub_cancel]
      rw [chunks, List.length_cons, ih hrest]
      exact List.cons_ne_nil x xs

section
variable (s : State) (c : Cmd)

/-- A client takes as many elements as it asks for. -/
theorem State.takeElems_length (p : Port) (n ne : Nat) (f : Fmt) (zp : Nat → Option Nat) :
    (s.takeElems p n ne f zp).1.vals.length = n := by
  unfold State.takeElems
  split
  · exact List.length_replicate
  · dsimp only
    split <;> exact (List.length_map _).trans List.length_range

theorem State.track_slicer (i : Issue) (finish : Nat) (outs : List (Nat × Nat)) (r : Nat) :
    (s.track c i 0 finish outs).slicer r = s.slicer r :=
  State.slicer_of_besides (s.track_besides ..) r

theorem State.useLeave_slicer (finish r : Nat) : (s.useLeave c finish).slicer r = s.slicer r :=
  State.slicer_of_besides (s.useLeave_besides ..) r

theorem State.endWrite_slicer (p : Port) (at_ : Nat) (ok void : Bool) (cause r : Nat) :
    (s.endWrite p at_ ok void cause).slicer r = s.slicer r :=
  State.slicer_of_besides (s.endWrite_besides ..) r

/-- The Slicer is taken by `c`, the newest command under way, until that ends. -/
def State.slicerTaken (t : State) : Prop :=
  t.runs c 0 = true ∧ t.newestEnd = some (t.slicer c.region).free

/-- A command takes the Slicer until it ends that has left its end there as it is entered among those under way. -/
theorem State.track_slicerTaken (i : Issue) {finish : Nat} (outs : List (Nat × Nat))
    (h : (s.slicer c.region).free = finish) : (s.track c i 0 finish outs).slicerTaken c := by
  obtain ⟨hrun, hend⟩ := s.track_newest c i 0 finish outs
  refine ⟨hrun, ?_⟩
  rw [State.track_slicer, h, hend]

theorem State.slicerVload_issued {x : Issue × State}
    (hx : s.issue c (slicerLoc c) (s.slicer c.region).free slicerBit = x) (hgo : x.1.go = true) :
    (s.slicerVload c).slicerTaken c ∧
      ((s.slicerVload c).slicer c.region).fmt = (Fmt.get (bitsOf c.w.w2 4 4)).code ∧
      (bitsOf c.w.w2 8 5 * bitsOf c.w.w2 16 16 ≠ 0 →
        ((s.slicerVload c).slicer c.region).vecs.length = bitsOf c.w.w2 8 5) := by
  obtain ⟨i, u⟩ := x
  have hgo : i.go = true := hgo
  unfold State.slicerVload
  rw [hx]
  dsimp only
  rw [if_neg (by rw [hgo]; decide)]
  by_cases hbk : bitsOf c.w.w2 8 5 * bitsOf c.w.w2 16 16 = 0
  · rw [if_pos hbk]
    rw [State.track_slicer, State.slicer_setSlicer]
    exact ⟨State.track_slicerTaken _ c _ _ (by rw [State.slicer_setSlicer]), rfl, fun h => absurd hbk h⟩
  · rw [if_neg hbk, State.track_slicer, State.slicer_setSlicer]
    exact ⟨State.track_slicerTaken _ c _ _ (by rw [State.slicer_setSlicer]), rfl,
      fun _ => length_chunks (Nat.pos_of_ne_zero (Nat.mul_ne_zero_iff.mp hbk).2) (State.takeElems_length ..)⟩

theorem State.slicerSweep_issued {x : Issue × State} {v : State}
    (hv : s.takeLeave c slicerBit (bitsOf c.w.w5 0 12) = (true, v))
    (hx : v.issue c (slicerLoc c) (v.slicer c.region).free slicerBit = x) (hgo : x.1.go = true) :
    (s.slicerSweep c).slicerTaken c ∧ ((s.slicerSweep c).slicer c.region).chkOn = c.flag 4 ∧
      ((s.slicerSweep c).slicer c.region).weight =
        (Fmt.get (bitsOf c.w.w3 0 4)).weight + (Fmt.get (x.2.slicer c.region).fmt).weight := by
  obtain ⟨i, u⟩ := x
  have hgo : i.go = true := hgo
  unfold State.slicerSweep
  rw [hv]
  dsimp only
  rw [if_neg (by decide), hx, if_neg (by rw [hgo]; decide)]
  rw [State.track_slicer, State.useLeave_slicer, State.slicer_setSlicer]
  exact ⟨State.track_slicerTaken _ c _ _ (by rw [State.useLeave_slicer, State.slicer_setSlicer]), rfl, rfl⟩

theorem State.slicerSout_empty {x : Issue × State}
    (hx : s.issue c (slicerLoc c) (s.slicer c.region).free slicerBit = x) (hgo : x.1.go = true)
    (hn : bitsOf c.w.w2 8 5 * bitsOf c.w.w2 16 14 = 0) :
    ∃ (u : State) (outs : List (Nat × Nat)), s.slicerSout c = (u.setSlicer c.region
      { x.2.slicer c.region with free := x.1.t + 1 }).track c x.1 0 (x.1.t + 1) outs := by
  obtain ⟨i, u⟩ := x
  have hgo : i.go = true := hgo
  unfold State.slicerSout
  dsimp only
  rw [hx]
  dsimp only
  rw [if_neg (by rw [hgo]; decide), if_pos hn]
  exact ⟨_, _, rfl⟩

/-- What a SOUT hands to its Ladle leaves the Slicer (R177). -/
theorem State.slicerSout_rows {x : Issue × State}
    (hx : s.issue c (slicerLoc c) (s.slicer c.region).free slicerBit = x) (hgo : x.1.go = true)
    (hn : bitsOf c.w.w2 8 5 * bitsOf c.w.w2 16 14 ≠ 0) :
    ∃ (u : State) (port : Port) (ok void : Bool) (cause finish : Nat) (outs : List (Nat × Nat)),
      u.slicer c.region = x.2.slicer c.region ∧
      s.slicerSout c = ((u.setSlicer c.region { u.slicer c.region with free := finish }).endWrite port finish ok void
        cause).track c x.1 0 finish outs := by
  obtain ⟨i, u⟩ := x
  have hgo : i.go = true := hgo
  unfold State.slicerSout
  dsimp only
  rw [hx]
  dsimp only
  rw [if_neg (by rw [hgo]; decide), if_neg hn]
  refine ⟨_, _, _, _, _, _, _, State.slicer_of_besides ?_ _, rfl⟩
  simp only [↓State.laters_besides, ↓State.later_besides, ↓State.eccReads_besides, ↓State.slicerFreeze_besides,
    ↓State.giveRaw_besides, ↓State.giveFlags_besides, ↓State.foldl_besides, implies_true]

theorem State.slicerSout_issued {x : Issue × State}
    (hx : s.issue c (slicerLoc c) (s.slicer c.region).free slicerBit = x) (hgo : x.1.go = true) :
    (s.slicerSout c).slicerTaken c ∧
      ((s.slicerSout c).slicer c.region).entries = (x.2.slicer c.region).entries := by
  by_cases hn : bitsOf c.w.w2 8 5 * bitsOf c.w.w2 16 14 = 0
  · obtain ⟨u, outs, hs⟩ := s.slicerSout_empty c hx hgo hn
    rw [hs, State.track_slicer, State.slicer_setSlicer]
    exact ⟨State.track_slicerTaken _ c _ _ (by rw [State.slicer_setSlicer]), rfl⟩
  · obtain ⟨u, port, ok, void, cause, finish, outs, hslicer, hs⟩ := s.slicerSout_rows c hx hgo hn
    have hentries := congrArg Slicer.entries hslicer
    rw [hs, State.track_slicer, State.endWrite_slicer, State.slicer_setSlicer]
    exact ⟨State.track_slicerTaken _ c _ _ (by rw [State.endWrite_slicer, State.slicer_setSlicer]), hentries⟩

end

theorem exec_vload {c : Cmd} (h : c.wfVload = true) (s : State) : exec (.vload c) s = .next (s.slicerVload c) :=
  admitted_of h _

theorem exec_sweep {c : Cmd} (h : c.wfSweep = true) (s : State) : exec (.sweep c) s = .next (s.slicerSweep c) :=
  admitted_of h _

theorem exec_sout {c : Cmd} (h : c.wfSout = true) (s : State) : exec (.sout c) s = .next (s.slicerSout c) :=
  admitted_of h _

/-- Settles O7: `State.slicerVload_issued`, `State.slicerSweep_issued` and `State.slicerSout_issued`. -/
theorem slicerCommandsTakeTheSlicer : Obligations.SlicerCommandsTakeTheSlicer := by
  unfold Obligations.SlicerCommandsTakeTheSlicer
  intro s c
  refine ⟨fun hwf hgo => ?_, fun hwf => ?_, fun hwf => ?_⟩
  · obtain ⟨⟨hrun, hend⟩, hfmt, hvecs⟩ := s.slicerVload_issued c rfl ((s.issue_goes c (slicerLoc c) ..).trans hgo)
    exact ⟨_, exec_vload hwf s, hrun, hend, hfmt, hvecs⟩
  · intro g x hleave hgo
    obtain ⟨⟨hrun, hend⟩, hchk, hweight⟩ := s.slicerSweep_issued c (x := x) (v := g.2) (Prod.ext hleave rfl) rfl
      ((g.2.issue_goes c (slicerLoc c) ..).trans hgo)
    exact ⟨_, exec_sweep hwf s, hrun, hend, hchk, hweight⟩
  · intro x hgo
    obtain ⟨⟨hrun, hend⟩, hentries⟩ := s.slicerSout_issued c (x := x) rfl
      ((s.issue_goes c (slicerLoc c) ..).trans hgo)
    exact ⟨_, exec_sout hwf s, hrun, hend, hentries⟩

end Sys2Proof.Machine
end

section
/-! SUPPORT. The share scheduler: what each of its steps does to a context, and what it leaves (R321 to R326). -/

namespace Sys2Proof.Machine

open Sys2Proof

/-- A fold over a list makes `p b` hold for each `b` of the list where the step of `b` makes it hold and every step keeps
it. -/
theorem foldl_establishes {α β : Type} {p : β → α → Prop} {f : α → β → α} (hmakes : ∀ a b, p b (f a b))
    (hkeeps : ∀ a b j, p j a → p j (f a b)) (l : List β) (a : α) : ∀ j ∈ l, p j (l.foldl f a) := by
  induction l generalizing a with
  | nil => exact fun j hj => absurd hj List.not_mem_nil
  | cons b l ih =>
    exact List.forall_mem_cons.mpr
      ⟨List.foldlRecOn l f (hmakes a b) fun a ha c _ => hkeeps a c b ha, ih (f a b)⟩

/-- The Anvils and the registers, which no step of the scheduler touches but for the count of overruns. -/
def State.fixtures (s : State) : SMap Anvil × SMap Word := (s.anvils, s.regs)

theorem State.anvils_of_fixtures {s t : State} (h : t.fixtures = s.fixtures) : t.anvils = s.anvils := congrArg (·.1) h

theorem State.regs_of_fixtures {s t : State} (h : t.fixtures = s.fixtures) : t.regs = s.regs := congrArg (·.2) h

section
variable (s : State)

theorem State.ctx_setCtx (c j : Nat) (x : Ctx) : (s.setCtx c x).ctx j = if j = c then x else s.ctx j :=
  SMap.read_write

theorem State.ctx_onCtx (c j : Nat) (f : Ctx → Ctx) : (s.onCtx c f).ctx j = if j = c then f (s.ctx c) else s.ctx j :=
  s.ctx_setCtx c j _

/-- A change of contexts that keeps the image of the one that it changes keeps every image. -/
theorem State.onCtx_image {c : Nat} {f : Ctx → Ctx} (h : ∀ x, (f x).image = x.image) (j : Nat) :
    ((s.onCtx c f).ctx j).image = (s.ctx j).image := by
  rw [State.ctx_onCtx]
  split
  next hj => rw [h, hj]
  next => rfl

/-! ## Signals and the state of contexts -/

theorem State.complete_image (ctx : Option Nat) (r buf j : Nat) :
    ((s.complete ctx r buf).ctx j).image = (s.ctx j).image := by
  unfold State.complete
  split
  · rfl
  · cases ctx with
    | none => rfl
    | some c => refine s.onCtx_image ?_ j; exact fun _ => rfl

theorem State.settleSignals_image (t j : Nat) : ((s.settleSignals t).ctx j).image = (s.ctx j).image :=
  foldr_keeps (fun s : State => (s.ctx j).image) (fun s _ => s.complete_image ..) _ _

theorem State.settleSignals_fixtures (t : Nat) : (s.settleSignals t).fixtures = s.fixtures :=
  foldr_keeps State.fixtures (fun s _ => Prod.ext (s.complete_anvils ..) (s.complete_regs ..)) _ _

theorem State.refreshCtx_form (r t k : Nat) :
    ∃ f : Ctx → Ctx, (∀ x, (f x).image = x.image) ∧ (s.refreshCtx r t k = s.onCtx k f ∨ s.refreshCtx r t k = s) := by
  unfold State.refreshCtx
  dsimp only
  split
  · refine ⟨_, ?_, .inl rfl⟩; exact fun _ => rfl
  · split
    · refine ⟨_, ?_, .inl rfl⟩; exact fun x => by split <;> rfl
    · split
      · refine ⟨_, ?_, .inl rfl⟩; exact fun _ => rfl
      · exact ⟨id, fun _ => rfl, .inr rfl⟩
    · split
      · exact ⟨id, fun _ => rfl, .inr rfl⟩
      · refine ⟨_, ?_, .inl rfl⟩; exact fun _ => rfl
    · exact ⟨id, fun _ => rfl, .inr rfl⟩

theorem State.refreshCtx_image (r t k j : Nat) : ((s.refreshCtx r t k).ctx j).image = (s.ctx j).image := by
  obtain ⟨f, hf, h | h⟩ := s.refreshCtx_form r t k
  · rw [h]; exact s.onCtx_image hf j
  · rw [h]

theorem State.refreshCtx_fixtures (r t k : Nat) : (s.refreshCtx r t k).fixtures = s.fixtures := by
  obtain ⟨f, -, h | h⟩ := s.refreshCtx_form r t k <;> rw [h]
  rfl

theorem State.homed_of_images {t : State} (h : ∀ j, (t.ctx j).image = (s.ctx j).image) (r : Nat) :
    t.homed r = s.homed r :=
  List.filter_congr fun k _ => by rw [h k]

/-! ## Membership -/

theorem State.endMember_of_none {r k : Nat} (slice : Bool) (h : (s.ctx k).member = none) :
    s.endMember r k slice = s := by
  unfold State.endMember
  dsimp only
  rw [h]

/-- What is left of a membership that began at `start`: its class is charged, and its context is no member (R324). -/
def State.leaveSet (s : State) (r k start : Nat) : State :=
  (s.charge r (s.shareClass (s.ctx k).image.client)
    (engineCount (s.ctx k).image.mask * ((s.ctx k).lastDone - start))).onCtx k fun x =>
      { x with member := none, state := if x.state = .running then .runnable else x.state }

theorem State.endMember_of_some {r k start : Nat} (h : (s.ctx k).member = some start) :
    s.endMember r k false = s.leaveSet r k start := by
  unfold State.endMember
  dsimp only
  rw [h]
  rfl

/-- The end of a slice counts its overrun besides (R326). -/
theorem State.endMember_of_slice {r k start : Nat} (h : (s.ctx k).member = some start) :
    (s.endMember r k true).regs = ((s.leaveSet r k start).bump (winKey r Reg.ELS_OVR) 0 32
      ((s.ctx k).lastDone - (s.ctx k).sliceEnd)).regs := by
  unfold State.endMember
  dsimp only
  rw [h]
  rfl

theorem State.leaveSet_ctx (r k start j : Nat) : (s.leaveSet r k start).ctx j = if j = k then
    { s.ctx k with member := none, state := if (s.ctx k).state = .running then .runnable else (s.ctx k).state }
    else s.ctx j := State.ctx_onCtx ..

theorem State.leaveSet_fixtures (r k start : Nat) : (s.leaveSet r k start).fixtures = s.fixtures := rfl

theorem State.leaveSet_deficit (r k start : Nat) :
    (s.leaveSet r k start).deficit r (s.shareClass (s.ctx k).image.client) =
      max (-(2 ^ 31)) (s.deficit r (s.shareClass (s.ctx k).image.client)
        - ((engineCount (s.ctx k).image.mask * ((s.ctx k).lastDone - start) : Nat) : Int)) :=
  SMap.read_write_same

theorem State.endMember_fixtures (r k : Nat) : (s.endMember r k false).fixtures = s.fixtures := by
  cases h : (s.ctx k).member with
  | none => rw [s.endMember_of_none false h]
  | some start => rw [s.endMember_of_some h, s.leaveSet_fixtures]

theorem State.beginMember_fixtures (r t k : Nat) : (s.beginMember r t k).fixtures = s.fixtures := rfl

/-- A context that is a member of its region's running set runs. -/
def State.MemberRuns (s : State) (k : Nat) : Prop := (s.ctx k).member.isSome = true → (s.ctx k).state = .running

variable {s} in
theorem State.beginMember_memberRuns {j : Nat} (h : s.MemberRuns j) (r t k : Nat) : (s.beginMember r t k).MemberRuns j := by
  have hctx : (s.beginMember r t k).ctx j = if j = k then _ else s.ctx j := State.ctx_onCtx ..
  unfold State.MemberRuns
  rw [hctx]
  split
  · exact fun _ => rfl
  · exact h

/-- A member that has blocked or become idle leaves the running set (R325). -/
def State.dropIdle (s : State) (r k : Nat) : State :=
  if (s.ctx k).member.isSome && (s.ctx k).state != .running then s.endMember r k false else s

theorem State.dropIdle_memberRuns (r k : Nat) : (s.dropIdle r k).MemberRuns k := by
  unfold State.dropIdle
  split
  next h =>
    obtain ⟨start, hm⟩ := Option.isSome_iff_exists.mp (Bool.and_eq_true_iff.mp h).1
    unfold State.MemberRuns
    rw [s.endMember_of_some hm, s.leaveSet_ctx, if_pos rfl]
    exact fun hs => absurd hs nofun
  next h =>
    intro hm
    by_contra hs
    exact h (by rw [hm, Bool.true_and]; exact bne_iff_ne.mpr hs)

theorem State.dropIdle_keeps (r k j : Nat) (hj : s.MemberRuns j) : (s.dropIdle r k).MemberRuns j := by
  by_cases hk : j = k
  · exact hk ▸ s.dropIdle_memberRuns r k
  · unfold State.dropIdle
    split
    next h =>
      obtain ⟨start, hm⟩ := Option.isSome_iff_exists.mp (Bool.and_eq_true_iff.mp h).1
      unfold State.MemberRuns
      rw [s.endMember_of_some hm, s.leaveSet_ctx, if_neg hk]
      exact hj
    next => exact hj

theorem State.dropIdle_fixtures (r k : Nat) : (s.dropIdle r k).fixtures = s.fixtures := by
  unfold State.dropIdle
  split
  exacts [s.endMember_fixtures r k, rfl]

/-! ## The decision -/

theorem State.fillSet_fixtures (r t n : Nat) : (s.fillSet r t n).fixtures = s.fixtures := by
  induction n generalizing s with
  | zero => rfl
  | succ n ih =>
    unfold State.fillSet
    split
    exacts [rfl, (ih _).trans (s.beginMember_fixtures ..)]

variable {s} in
theorem State.fillSet_memberRuns {j : Nat} (h : s.MemberRuns j) (r t n : Nat) : (s.fillSet r t n).MemberRuns j := by
  induction n generalizing s with
  | zero => exact h
  | succ n ih =>
    unfold State.fillSet
    split
    exacts [h, ih (State.beginMember_memberRuns h _ _ _)]

/-- The contexts of a region after the signals and the state of each are up to date (R321). -/
def State.refreshed (s : State) (r t : Nat) : State :=
  ((s.settleSignals t).homed r).foldl (fun s k => s.refreshCtx r t k) (s.settleSignals t)

theorem State.refreshed_homed (r t : Nat) : (s.refreshed r t).homed r = s.homed r :=
  s.homed_of_images (fun j => (foldl_keeps (fun s : State => (s.ctx j).image) (fun s _ => s.refreshCtx_image ..) _ _).trans
    (s.settleSignals_image t j)) r

theorem State.refreshed_fixtures (r t : Nat) : (s.refreshed r t).fixtures = s.fixtures :=
  (foldl_keeps State.fixtures (fun s _ => s.refreshCtx_fixtures ..) _ _).trans (s.settleSignals_fixtures t)

theorem State.decision_eq {r t : Nat} (hexact : s.exact = false) (hlive : s.engineLive r = true) :
    s.decision r t =
      (((s.refreshed r t).homed r).foldl (fun s k => s.dropIdle r k) (s.refreshed r t)).fillSet r t 8 := by
  unfold State.decision
  rw [if_neg (by rw [hexact, hlive]; decide)]
  rfl

theorem State.decision_fixtures (r t : Nat) : (s.decision r t).fixtures = s.fixtures := by
  by_cases h : (s.exact || !s.engineLive r) = true
  · unfold State.decision
    rw [if_pos h]
  · rw [Bool.or_eq_true, not_or, Bool.not_eq_true, Bool.not_eq_true', Bool.not_eq_false] at h
    rw [s.decision_eq h.1 h.2]
    exact (State.fillSet_fixtures ..).trans ((foldl_keeps State.fixtures (fun s _ => s.dropIdle_fixtures ..) _ _).trans
      (s.refreshed_fixtures r t))

/-- After a decision every member of the region's running set runs (R325). -/
theorem State.decision_memberRuns {r : Nat} (t : Nat) (hexact : s.exact = false) (hlive : s.engineLive r = true) :
    ∀ k ∈ s.homed r, (s.decision r t).MemberRuns k := fun k hk => by
  rw [s.decision_eq hexact hlive]
  refine State.fillSet_memberRuns ?_ r t 8
  exact foldl_establishes (p := fun k s => State.MemberRuns s k) (fun s k => s.dropIdle_memberRuns r k)
    (fun s k j => s.dropIdle_keeps r k j) _ _ k (s.refreshed_homed r t ▸ hk)

end

end Sys2Proof.Machine
end

section
/-! PROOF of O38: windows, decisions, slice ends and guards (R165, R169, R322 to R326). -/

namespace Sys2Proof.Machine

open Sys2Proof

/-- A table reads as an entry of its own at a key, or as unlisted. -/
theorem SMap.read_mem_or {α : Type} (d : α) (m : SMap α) (k : Nat) : (k, m.read d k) ∈ m ∨ m.read d k = d := by
  induction m with
  | nil => exact .inr rfl
  | cons e m ih =>
    obtain ⟨j, v⟩ := e
    by_cases hk : k = j
    · rw [SMap.read, if_pos hk]; exact .inl (hk ▸ List.mem_cons_self)
    · rw [SMap.read, if_neg hk]; exact ih.imp_left (List.mem_cons_of_mem _)

section
variable (s : State)

/-! ## The start of a window -/

theorem Anvil.dropDataTile_tile {a : Anvil} {x : Tile} (h : a.dropDataTile.tile = some x) : x.ctx.isSome = true :=
  (Option.filter_eq_some_iff.mp h).2

theorem State.mem_dropTiles {r mask a : Nat} (hr : r < 8) (ha : a < 4) (hmask : mask.testBit a = true) {x : Anvil}
    (h : (r * 4 + a, x) ∈ (s.dropTiles r mask).anvils) : ∃ y : Anvil, x = y.dropDataTile := by
  unfold State.dropTiles at h
  rw [if_neg (by omega)] at h
  obtain ⟨e, -, he⟩ := List.mem_map.mp (List.mem_filter.mp h).1
  have hkey : e.1 = r * 4 + a := by
    have hfst := congrArg Prod.fst he
    split at hfst <;> exact hfst
  have hin : (e.1 / 4 = r && mask.testBit (e.1 % 4)) = true := by
    rw [hkey, show (r * 4 + a) / 4 = r by omega, show (r * 4 + a) % 4 = a by omega, hmask, decide_eq_true rfl]
    rfl
  rw [if_pos hin] at he
  exact ⟨e.2, (congrArg Prod.snd he).symm⟩

/-- The Anvils of a window hold no tile of the data plane (R169). -/
theorem State.dropTiles_tile {r mask a : Nat} (hr : r < 8) (ha : a < 4) (hmask : mask.testBit a = true) {x : Tile}
    (h : ((s.dropTiles r mask).anvil r a).tile = some x) : x.ctx.isSome = true := by
  unfold State.anvil at h
  rcases SMap.read_mem_or {} (s.dropTiles r mask).anvils (r * 4 + a) with hmem | hnone
  · obtain ⟨y, hy⟩ := s.mem_dropTiles hr ha hmask hmem
    exact Anvil.dropDataTile_tile (hy ▸ h)
  · rw [hnone] at h
    exact absurd h nofun

/-- The engines of a list of windows. -/
theorem testBit_engines {ws : List ElsWindow} {w : ElsWindow} (hw : w ∈ ws) {a : Nat}
    (ha : w.engines.testBit a = true) : (ws.foldl (fun m (w : ElsWindow) => m ||| w.engines) 0).testBit a = true :=
  foldl_establishes (f := fun m (w : ElsWindow) => m ||| w.engines)
    (p := fun w m => w.engines.testBit a = true → m.testBit a = true)
    (fun m w h => by rw [Nat.testBit_or, h, Bool.or_true])
    (fun m _ w hw h => by rw [Nat.testBit_or, hw h, Bool.true_or]) ws 0 w hw ha

/-- The windows of a region that start at a cycle. -/
def State.windowsAt (s : State) (r start : Nat) : List ElsWindow :=
  (s.curPlan.windows.filter fun w => w.1 = r && w.2.start = start && w.2.parity).map (·.2)

theorem State.mem_windowsAt {r start : Nat} {w : Nat × ElsWindow} (hw : w ∈ s.curPlan.windows) (h1 : w.1 = r)
    (h2 : w.2.start = start) (h3 : w.2.parity = true) : w.2 ∈ s.windowsAt r start :=
  List.mem_map.mpr ⟨w, List.mem_filter.mpr ⟨hw, by simp [h1, h2, h3]⟩, rfl⟩

theorem State.windowStart_eq {r start : Nat} (hlive : s.engineLive r = true) (hws : s.windowsAt r start ≠ []) :
    s.windowStart r start = ((s.reach start).dropTiles r
      ((s.windowsAt r start).foldl (fun m w => m ||| w.engines) 0)).decision r start := by
  unfold State.windowStart
  exact if_neg (by
    change ¬(!s.engineLive r || (s.windowsAt r start).isEmpty) = true
    rw [hlive, List.isEmpty_eq_false_iff.mpr hws]; decide)

theorem State.windowStart_tile {r start : Nat} (hlive : s.engineLive r = true) (hr : r < 8) {w : ElsWindow}
    (hw : w ∈ s.windowsAt r start) {a : Nat} (ha : a < 4) (hwa : w.engines.testBit a = true) {x : Tile}
    (hx : ((s.windowStart r start).anvil r a).tile = some x) : x.ctx.isSome = true := by
  rw [s.windowStart_eq hlive (List.ne_nil_of_mem hw)] at hx
  unfold State.anvil at hx
  rw [State.anvils_of_fixtures (State.decision_fixtures ..)] at hx
  exact (s.reach start).dropTiles_tile hr ha (testBit_engines hw hwa) hx

/-! ## The end of a slice and the guard -/

theorem State.sliceEnded_eq {r k : Nat} (hexact : s.exact = false) (hmember : (s.ctx k).member.isSome = true)
    (hhome : (s.ctx k).image.home = r) :
    s.sliceEnded r k = ((s.reach (s.ctx k).sliceEnd).endMember r k true).decision r (s.ctx k).sliceEnd := by
  unfold State.sliceEnded
  exact if_neg (by simp [hexact, hhome, Option.isSome_iff_ne_none.mp hmember])

theorem State.guardReached_eq {r k t : Nat} (hexact : s.exact = false) (hmember : (s.ctx k).member.isSome = true)
    (hhome : (s.ctx k).image.home = r) (hguard : (s.openWindow r (t + 1) (s.ctx k).image.mask).isNone = true) :
    s.guardReached r k t = (s.reach t).endMember r k false := by
  unfold State.guardReached
  exact if_neg (by simp [hexact, hhome, Option.isSome_iff_ne_none.mp hmember, Option.isNone_iff_eq_none.mp hguard])

theorem State.fld_of_regs {s t : State} (h : t.regs = s.regs) (k lo n : Nat) : t.fld k lo n = s.fld k lo n :=
  congrArg (fun m => bitsOf (SMap.read 0 m k) lo n) h

theorem State.endSlice_overrun {r k : Nat} (t : Nat) (hmember : (s.ctx k).member.isSome = true) :
    ((s.endMember r k true).decision r t).fld (winKey r Reg.ELS_OVR) 0 32 =
      min (s.fld (winKey r Reg.ELS_OVR) 0 32 + ((s.ctx k).lastDone - (s.ctx k).sliceEnd)) (2 ^ 32 - 1) := by
  obtain ⟨start, hstart⟩ := Option.isSome_iff_exists.mp hmember
  rw [State.fld_of_regs (State.regs_of_fixtures (State.decision_fixtures ..)),
    State.fld_of_regs (s.endMember_of_slice hstart),
    State.fld_bump _ _ _ _ _ _ _ _ (by decide) (.inr (.inr (.inr ⟨rfl, rfl⟩))), if_pos ⟨rfl, rfl, rfl⟩,
    State.fld_of_regs (State.regs_of_fixtures (s.leaveSet_fixtures r k start))]

end

/-- Settles O38: `State.windowStart_tile`, `State.decision_memberRuns`, `State.endSlice_overrun` and the lemmas about
`State.leaveSet`. -/
theorem elasticMembersJoinAndLeave : Obligations.ElasticMembersJoinAndLeave := by
  unfold Obligations.ElasticMembersJoinAndLeave
  intro s r
  refine ⟨?_, ?_, ?_, ?_⟩
  · intro start hlive hr hany
    exact ⟨s.windowStart r start, rfl, fun w hw h1 h2 h3 a ha hwa x hx =>
      s.windowStart_tile hlive hr (s.mem_windowsAt hw h1 h2 h3) ha hwa hx⟩
  · intro cycle s1 hexact hlive
    exact ⟨s1.decision r cycle, rfl, s1.decision_memberRuns cycle hexact hlive⟩
  · intro k hexact hmember hhome s1 hstill
    exact ⟨s.sliceEnded r k, rfl, s.sliceEnded_eq hexact hmember hhome ▸ s1.endSlice_overrun _ hstill⟩
  · intro k start cycle hexact hmember hhome hguard s1 x cl hstart
    have hend : s.guardReached r k cycle = s1.leaveSet r k start :=
      (s.guardReached_eq hexact hmember hhome hguard).trans (s1.endMember_of_some hstart)
    refine ⟨s.guardReached r k cycle, rfl, ?_⟩
    rw [hend, s1.leaveSet_ctx, if_pos rfl]
    exact ⟨rfl, rfl, rfl, s1.leaveSet_deficit r k start⟩

end Sys2Proof.Machine
end

section
/-! PROOF of O8: what TRANSPOSE and TRANSPOSE_EMIT leave in the Swage (R198, R202). -/

namespace Sys2Proof.Machine

open Sys2Proof

theorem State.swage_of_besides {s t : State} (h : t.besides .shared = s.besides .shared) (r : Nat) :
    t.swage r = s.swage r :=
  congrArg (fun m : SMap Swage => SMap.read ({} : Swage) m r)
    (Owner.eq_of_hide (u := .swage) (o := .shared) (empty := []) (congrArg (·.swages) h) nofun)

theorem State.swage_setSwage (s : State) (r : Nat) (x : Swage) : (s.setSwage r x).swage r = x := SMap.read_write_same

/-- The block that a TRANSPOSE of some elements leaves in its buffer (R198). -/
def SwageBlock.filledBy (c : Cmd) (b : SwageBlock) : Prop :=
  b.filled = true ∧ b.rows = bitsOf c.w.w2 16 8 ∧ b.cols = bitsOf c.w.w2 24 8 ∧
    b.fmt = (Fmt.get (bitsOf c.w.w2 12 4)).code ∧ b.sink = bitsOf c.w.w2 4 4

section
variable (s : State) (c : Cmd)

theorem State.track_swage (i : Issue) (finish : Nat) (outs : List (Nat × Nat)) (r : Nat) :
    (s.track c i 0 finish outs).swage r = s.swage r :=
  State.swage_of_besides (s.track_besides ..) r

/-- The first cycle from which a TRANSPOSE can fill its buffer (R198, R202). -/
def State.fillFreeFor : Nat :=
  max (s.swage c.region).fillFree (SMap.read {} (s.swage c.region).bufs (bitsOf c.w.w2 8 2)).emitEnd

theorem State.swageTranspose_empty {x : Issue × State}
    (hx : s.issue c (swageLoc c.region) (s.fillFreeFor c) (2 ^ 16) = x) (hgo : x.1.go = true)
    (hn : bitsOf c.w.w2 16 8 * bitsOf c.w.w2 24 8 = 0) :
    ∃ (u : State) (outs : List (Nat × Nat)), s.swageTranspose c = u.track c x.1 0 (x.1.t + 1) outs := by
  obtain ⟨i, u⟩ := x
  have hgo : i.go = true := hgo
  unfold State.fillFreeFor at hx
  unfold State.swageTranspose
  dsimp only
  rw [hx]
  dsimp only
  rw [if_neg (by rw [hgo]; decide), if_pos hn]
  exact ⟨_, _, rfl⟩

theorem State.swageTranspose_block {x : Issue × State}
    (hx : s.issue c (swageLoc c.region) (s.fillFreeFor c) (2 ^ 16) = x) (hgo : x.1.go = true)
    (hn : bitsOf c.w.w2 16 8 * bitsOf c.w.w2 24 8 ≠ 0) :
    ∃ (u : State) (y : Swage) (finish : Nat) (outs : List (Nat × Nat)),
      s.swageTranspose c = (u.setSwage c.region y).track c x.1 0 finish outs ∧
      (SMap.read {} y.bufs (bitsOf c.w.w2 8 2)).filledBy c := by
  obtain ⟨i, u⟩ := x
  have hgo : i.go = true := hgo
  unfold State.fillFreeFor at hx
  unfold State.swageTranspose
  dsimp only
  rw [hx]
  dsimp only
  rw [if_neg (by rw [hgo]; decide), if_neg hn]
  refine ⟨_, _, _, _, rfl, ?_⟩
  rw [SMap.read_write_same]
  exact ⟨rfl, rfl, rfl, rfl, rfl⟩

/-- A TRANSPOSE that issues is the newest command under way, and unless it is empty its block stands in the buffer that
it names. -/
theorem State.swageTranspose_issued {x : Issue × State}
    (hx : s.issue c (swageLoc c.region) (s.fillFreeFor c) (2 ^ 16) = x) (hgo : x.1.go = true) :
    (s.swageTranspose c).runs c 0 = true ∧ (bitsOf c.w.w2 16 8 * bitsOf c.w.w2 24 8 ≠ 0 →
      (SMap.read {} ((s.swageTranspose c).swage c.region).bufs (bitsOf c.w.w2 8 2)).filledBy c) := by
  by_cases hn : bitsOf c.w.w2 16 8 * bitsOf c.w.w2 24 8 = 0
  · obtain ⟨u, outs, hs⟩ := s.swageTranspose_empty c hx hgo hn
    rw [hs]
    exact ⟨(u.track_newest ..).1, fun h => absurd hn h⟩
  · obtain ⟨u, y, finish, outs, hs, hblock⟩ := s.swageTranspose_block c hx hgo hn
    rw [hs, State.track_swage, State.swage_setSwage]
    exact ⟨(State.track_newest ..).1, fun _ => hblock⟩

theorem State.swageEmit_of_empty (r buf : Nat) (h : (SMap.read {} (s.swage r).bufs buf).filled = false) :
    s.swageEmit r buf = s := by
  unfold State.swageEmit
  exact if_pos (by rw [h]; rfl)

theorem State.swageEmit_of_filled (r buf : Nat) (h : (SMap.read {} (s.swage r).bufs buf).filled = true) :
    let b := SMap.read {} (s.swage r).bufs buf
    (s.swageEmit r buf).swage r = { s.swage r with
      bufs := SMap.write {} (s.swage r).bufs buf { b with filled := false }
      bytes := (s.swage r).bytes + packedBytes (Fmt.get b.fmt).bits (transposed b.rows b.cols b.codes).length } := by
  intro b
  unfold State.swageEmit
  extract_lets x b1 s1 out err bad s2 unc s3 f port total s4 fresh s5 s6 s7 s8 x1
  rw [if_neg (by rw [h]; decide), State.swage_setSwage]
  have hx : x1 = s.swage r := State.swage_of_besides (by
    simp only [s8, s7, s6, s5, s4, s3, s2, s1, ↓State.reach_besides, ↓State.laters_besides, ↓State.eccLater_besides,
      ↓State.setReg_besides, ↓State.giveElems_besides, ↓State.giveFlags_besides, ↓State.later_besides,
      ↓State.endWrite_besides, ↓State.foldl_besides, implies_true, ↓State.besides_ite, ↓ite_self]) r
  rw [hx]

end

theorem exec_transpose {c : Cmd} (h : c.wfTranspose = true) (s : State) :
    exec (.transpose c) s = .next (s.swageTranspose c) := admitted_of h _

theorem exec_transposeEmit (region buf : Nat) (s : State) :
    exec (.transposeEmit region buf) s = .next (if s.engineLive region then s.swageEmit region buf else s) := rfl

/-- Settles O8: `State.swageTranspose_issued`, `State.swageEmit_of_filled` and `State.swageEmit_of_empty`. -/
theorem swageFillsAndEmitsBlocks : Obligations.SwageFillsAndEmitsBlocks := by
  unfold Obligations.SwageFillsAndEmitsBlocks
  intro s c
  refine ⟨fun hwf hgo => ?_, fun region buf => ⟨fun hlive hfilled => ?_, fun hempty => ?_⟩⟩
  · obtain ⟨hrun, hblock⟩ := s.swageTranspose_issued c rfl ((s.issue_goes c (swageLoc c.region) ..).trans hgo)
    exact ⟨_, exec_transpose hwf s, hrun, hblock⟩
  · refine ⟨s.swageEmit region buf, by rw [exec_transposeEmit, if_pos hlive], ?_⟩
    rw [s.swageEmit_of_filled region buf hfilled, SMap.read_write_same]
    exact ⟨rfl, rfl⟩
  · rw [exec_transposeEmit, s.swageEmit_of_empty region buf hempty, ite_self]

end Sys2Proof.Machine
end

section
/-! PROOF of O9 and O10: what OPEN, ACCUM and FLUSH leave in the Crucible, and what they leave of it where the context
may not use the tensor (R205 to R217). -/

namespace Sys2Proof.Machine

open Sys2Proof

theorem State.crucible_of_besides {s t : State} (h : t.besides .shared = s.besides .shared) (r : Nat) :
    t.crucible r = s.crucible r :=
  congrArg (fun m : SMap Crucible => SMap.read ({} : Crucible) m r)
    (Owner.eq_of_hide (u := .crucible) (o := .shared) (empty := []) (congrArg (·.crucibles) h) nofun)

theorem State.crucible_setCrucible (s : State) (r : Nat) (x : Crucible) : (s.setCrucible r x).crucible r = x :=
  SMap.read_write_same

theorem Crucible.tensor_setTensor (x : Crucible) (n : Nat) (y : Tensor) : (x.setTensor n y).tensor n = y :=
  SMap.read_write_same

theorem Tensor.isOpen_of_usable {y : Tensor} {ctx : Option Nat} (h : y.usable ctx = true) : y.isOpen = true :=
  (Bool.and_eq_true_iff.mp h).1

theorem Crucible.setTensor_entries (x : Crucible) (n : Nat) (y : Tensor) : (x.setTensor n y).entries = x.entries := rfl

/-- The tensor that a Crucible command names, as it stands in a state. -/
def State.tensorOf (s : State) (c : Cmd) : Tensor := (s.crucible c.region).tensor (bitsOf c.w.w2 0 4)

/-- The tensor record that an OPEN makes (R206, R216). -/
def Cmd.openedTensor (c : Cmd) : Tensor :=
  { isOpen := true, base := bitsOf c.w.w2 4 18, rows := bitsOf c.w.w3 0 13, cols := bitsOf c.w.w3 16 13
    g := sbitsOf c.w.w4 0 12, owner := c.ctx, seq := bitsOf c.w.w2 0 4 }

/-- The Crucible that an OPEN leaves: its entries cleared and its record made. -/
def Crucible.opened (x : Crucible) (c : Cmd) (finish : Nat) : Crucible :=
  { x with
    entries := SMap.drop x.entries fun k => decide (bitsOf c.w.w2 4 18 ≤ k) &&
      decide (k < bitsOf c.w.w2 4 18 + bitsOf c.w.w3 0 13 * bitsOf c.w.w3 16 13)
    free := finish }.setTensor (bitsOf c.w.w2 0 4) c.openedTensor

theorem Crucible.opened_tensor (x : Crucible) (c : Cmd) (finish : Nat) :
    (x.opened c finish).tensor (bitsOf c.w.w2 0 4) = c.openedTensor := Crucible.tensor_setTensor ..

theorem Crucible.opened_entries (x : Crucible) (c : Cmd) (finish : Nat) {k : Nat} (hlow : bitsOf c.w.w2 4 18 ≤ k)
    (hhigh : k < bitsOf c.w.w2 4 18 + bitsOf c.w.w3 0 13 * bitsOf c.w.w3 16 13) :
    SMap.read 0 (x.opened c finish).entries k = 0 := by
  unfold Crucible.opened
  rw [Crucible.setTensor_entries, SMap.read_drop, decide_eq_true hlow, decide_eq_true hhigh]
  rfl

section
variable (s : State) (c : Cmd)

/-- A command that ends with the Crucible `x` in place is the newest one under way, and the Crucible is `x`. -/
theorem State.track_setCrucible (x : Crucible) (i : Issue) (finish : Nat) (outs : List (Nat × Nat)) :
    ((s.setCrucible c.region x).track c i 0 finish outs).newest c 0 finish ∧
      ((s.setCrucible c.region x).track c i 0 finish outs).crucible c.region = x :=
  ⟨State.track_newest .., (State.crucible_of_besides (State.track_besides ..) _).trans (s.crucible_setCrucible ..)⟩

/-! ## Refusals (R217) -/

/-- A refused command ends in the next cycle, and only the time from which the Crucible is free changes there. -/
theorem State.crucibleRefuse_keeps (i : Issue) (outs : List (Nat × Nat)) :
    (s.crucibleRefuse c i outs).newest c 0 (i.t + 1) ∧
      (s.crucibleRefuse c i outs).crucible c.region = { s.crucible c.region with free := i.t + 1 } := by
  unfold State.crucibleRefuse
  extract_lets s1 s2 s3
  have hsame : s2.crucible c.region = s.crucible c.region := State.crucible_of_besides (by
    simp only [s2, s1, ↓State.voidOuts_besides, ↓State.blockRaise_besides]) _
  obtain ⟨hnewest, hfree⟩ := s2.track_setCrucible c { s2.crucible c.region with free := i.t + 1 } i (i.t + 1) outs
  exact ⟨hnewest, hfree.trans (by rw [hsame])⟩

variable {x : Issue × State}
  (hx : s.issue c (crucibleLoc c.region) (s.crucible c.region).free (2 ^ 17) = x) (hgo : x.1.go = true)
include hx hgo

theorem State.crucibleOpen_refused (hy : (x.2.tensorOf c).isOpen = true) (hown : x.1.ctx ≠ some (x.2.tensorOf c).owner) :
    s.crucibleOpen c = x.2.crucibleRefuse c x.1 [] := by
  unfold State.tensorOf at hy hown
  unfold State.crucibleOpen
  extract_lets +onlyGivenNames r
  split
  next i u e =>
  obtain rfl : x = (i, u) := hx.symm.trans e
  rw [if_neg (by rw [hgo]; decide)]
  exact if_pos (by rw [hy, bne_iff_ne.mpr hown]; rfl)

theorem State.crucibleAccum_refused (hy : (x.2.tensorOf c).usable x.1.ctx = false) :
    s.crucibleAccum c = x.2.crucibleRefuse c x.1 [] := by
  unfold State.tensorOf at hy
  unfold State.crucibleAccum
  extract_lets +onlyGivenNames r loc
  split
  next i u e =>
  obtain rfl : x = (i, u) := hx.symm.trans e
  rw [if_neg (by rw [hgo]; decide)]
  exact if_pos (by rw [hy]; rfl)

theorem State.crucibleFlush_refused (hy : (x.2.tensorOf c).usable x.1.ctx = false) :
    ∃ outs, s.crucibleFlush c = x.2.crucibleRefuse c x.1 outs := by
  unfold State.tensorOf at hy
  unfold State.crucibleFlush
  extract_lets +onlyGivenNames r loc
  split
  next i u e =>
  obtain rfl : x = (i, u) := hx.symm.trans e
  rw [if_neg (by rw [hgo]; decide)]
  exact ⟨_, if_pos (by rw [hy]; rfl)⟩

/-! ## Commands that are performed -/

theorem State.crucibleOpen_performed (hy : (x.2.tensorOf c).isOpen = false ∨ x.1.ctx = some (x.2.tensorOf c).owner) :
    ∃ finish, s.crucibleOpen c =
      (x.2.setCrucible c.region ((x.2.crucible c.region).opened c finish)).track c x.1 0 finish [] := by
  unfold State.crucibleOpen
  extract_lets +onlyGivenNames r
  split
  next i u e =>
  obtain rfl : x = (i, u) := hx.symm.trans e
  rw [if_neg (by rw [hgo]; decide)]
  have hallowed : ¬((u.tensorOf c).isOpen && i.ctx != some (u.tensorOf c).owner) = true := by
    rw [Bool.and_eq_true, bne_iff_ne, not_and, not_not]
    exact fun hopen => hy.resolve_left (by rw [hopen]; decide)
  exact ⟨_, if_neg hallowed⟩

theorem State.crucibleAccum_performed (hy : (x.2.tensorOf c).usable x.1.ctx = true)
    (hn : bitsOf c.w.w4 0 13 * bitsOf c.w.w4 16 13 ≠ 0) (hslip : c.slip = none) :
    ∃ (u : State) (z : Crucible) (y : Tensor) (finish : Nat),
      s.crucibleAccum c =
        (u.setCrucible c.region (z.setTensor (bitsOf c.w.w2 0 4) y)).track c x.1 0 finish [] ∧
      y.count = min ((x.2.tensorOf c).count + 1) (2 ^ 32 - 1) ∧
      y.isOpen = (x.2.tensorOf c).isOpen := by
  unfold State.tensorOf at hy ⊢
  unfold State.crucibleAccum
  extract_lets +onlyGivenNames r loc
  split
  next i u e =>
  obtain rfl : x = (i, u) := hx.symm.trans e
  rw [if_neg (by rw [hgo]; decide)]
  extract_lets +onlyGivenNames n
  rw [if_neg (by rw [hy]; decide), if_neg hn]
  extract_lets +onlyGivenNames src step none'
  split
  next rs kr s1 e1 =>
  have h1 : s1.besides .shared = u.besides .shared := State.besides_snd e1 (by
    split <;> simp only [↓State.takeBlocks_besides])
  split
  next cs kc s2 e2 =>
  have h2 : s2.besides .shared = u.besides .shared := State.besides_snd e2 (by
    split <;> simp only [↓State.takeBlocks_besides, h1])
  extract_lets +onlyGivenNames skew s3 gone s4
  have h4 : s4.besides .shared = u.besides .shared := by
    simp only [s4, s3, ↓State.scaleSkew_besides, ↓State.breach_besides, ↓State.besides_ite, ↓ite_self, h2]
  split
  next rsh s5 e5 =>
  have h5 : s5.besides .shared = u.besides .shared := State.besides_snd e5 (by
    split <;> simp only [↓State.padShifts_besides, h4])
  split
  next csh s6 e6 =>
  have h6 : s6.besides .shared = u.besides .shared := State.besides_snd e6 (by
    split <;> simp only [↓State.padShifts_besides, h5])
  extract_lets +onlyGivenNames sblk data fill
  split
  next k s7 e7 =>
  have h7 : s7.besides .shared = u.besides .shared := State.besides_snd e7 ((s6.take_besides ..).trans h6)
  extract_lets +onlyGivenNames s8 j base expo cru dst y low frz s9
  have hcru : cru = u.crucible r := State.crucible_of_besides ((s7.takenBy_besides ..).trans h7) r
  have hdst : dst = n := by simp only [dst, hslip]
  have htensor : y = (u.crucible r).tensor n := by simp only [y, hcru, hdst]
  split
  next unc s10 e10 =>
  extract_lets +onlyGivenNames void finish skewF
  cases hlow : low with
  | true =>
    rw [if_pos rfl, hdst]
    exact ⟨_, _, _, _, rfl, by rw [htensor], by rw [htensor]⟩
  | false =>
    rw [if_neg Bool.false_ne_true, hdst]
    exact ⟨_, _, _, _, rfl, by rw [htensor], by rw [htensor]⟩

theorem State.crucibleFlush_performed (hy : (x.2.tensorOf c).usable x.1.ctx = true) :
    ∃ (u : State) (y : Tensor) (finish : Nat) (outs : List (Nat × Nat)),
      u.crucible c.region = x.2.crucible c.region ∧ y.isOpen = !bitOf c.w.w2 9 ∧
      s.crucibleFlush c = (u.setCrucible c.region ({ u.crucible c.region with free := finish }.setTensor
        (bitsOf c.w.w2 0 4) y)).track c x.1 0 finish outs := by
  unfold State.tensorOf at hy
  unfold State.crucibleFlush
  extract_lets +onlyGivenNames r loc
  split
  next i u e =>
  obtain rfl : x = (i, u) := hx.symm.trans e
  rw [if_neg (by rw [hgo]; decide)]
  extract_lets +onlyGivenNames n port outs y
  rw [if_neg (by rw [hy]; decide)]
  dsimp only
  refine ⟨_, _, _, _, State.crucible_of_besides ?_ _, ?_, rfl⟩
  · simp only [↓State.endWrite_besides, ↓State.later_besides, ↓State.giveFlags_besides, ↓State.giveElems_besides,
      ↓State.giveRaw_besides, ↓State.waitBreach_besides, ↓State.crucibleErrors_besides, ↓State.besides_ite, ↓ite_self]
  · exact congrArg (· && !bitOf c.w.w2 9) (Tensor.isOpen_of_usable hy)

end

theorem exec_openTensor {c : Cmd} (h : c.wfOpen = true) (s : State) :
    exec (.openTensor c) s = .next (s.crucibleOpen c) := admitted_of h _

theorem exec_accum {c : Cmd} (h : c.wfAccum = true) (s : State) : exec (.accum c) s = .next (s.crucibleAccum c) :=
  admitted_of h _

theorem exec_flush {c : Cmd} (h : c.wfFlush = true) (s : State) : exec (.flush c) s = .next (s.crucibleFlush c) :=
  admitted_of h _

/-- Settles O9: `State.crucibleOpen_performed`, `State.crucibleAccum_performed` and
`State.crucibleFlush_performed`. -/
theorem crucibleTensorsOpenGatherAndFlush : Obligations.CrucibleTensorsOpenGatherAndFlush := by
  unfold Obligations.CrucibleTensorsOpenGatherAndFlush
  intro s c x n y hgoes
  have hgo : x.1.go = true := (s.issue_goes c (crucibleLoc c.region) ..).trans hgoes
  refine ⟨fun hwf hy => ?_, fun hwf hy hn hslip => ?_, fun hwf hy => ?_⟩
  · obtain ⟨finish, hs⟩ := s.crucibleOpen_performed c rfl hgo hy
    obtain ⟨⟨hrun, -⟩, hafter⟩ :=
      x.2.track_setCrucible c ((x.2.crucible c.region).opened c finish) x.1 finish []
    refine ⟨_, exec_openTensor hwf s, ?_⟩
    rw [hs, hafter, Crucible.opened_tensor]
    exact ⟨hrun, rfl, rfl, rfl, rfl, rfl, rfl, fun k => Crucible.opened_entries _ c finish⟩
  · obtain ⟨u, z, y', finish, hs, hcount, hopen⟩ := s.crucibleAccum_performed c rfl hgo hy hn hslip
    obtain ⟨⟨hrun, -⟩, hafter⟩ := u.track_setCrucible c (z.setTensor n y') x.1 finish []
    refine ⟨_, exec_accum hwf s, ?_⟩
    rw [hs, hafter, Crucible.tensor_setTensor]
    exact ⟨hrun, hcount, hopen.trans (Tensor.isOpen_of_usable hy)⟩
  · obtain ⟨u, y', finish, outs, hkept, hopen, hs⟩ := s.crucibleFlush_performed c rfl hgo hy
    obtain ⟨⟨hrun, -⟩, hafter⟩ :=
      u.track_setCrucible c ({ u.crucible c.region with free := finish }.setTensor n y') x.1 finish outs
    refine ⟨_, exec_flush hwf s, ?_⟩
    rw [hs, hafter, Crucible.tensor_setTensor]
    exact ⟨hrun, hopen, congrArg (·.entries) hkept⟩

/-- Settles O10: a command that its context may not perform is `State.crucibleRefuse`. -/
theorem crucibleRefusesAForeignTensor : Obligations.CrucibleRefusesAForeignTensor := by
  unfold Obligations.CrucibleRefusesAForeignTensor
  intro s c x y same hgoes
  have hgo : x.1.go = true := (s.issue_goes c (crucibleLoc c.region) ..).trans hgoes
  have hsame (outs : List (Nat × Nat)) : same (.next (x.2.crucibleRefuse c x.1 outs)) := by
    obtain ⟨⟨hrun, hend⟩, hafter⟩ := x.2.crucibleRefuse_keeps c x.1 outs
    exact ⟨_, rfl, hrun, hend, congrArg (·.tensors) hafter, congrArg (·.entries) hafter⟩
  refine ⟨fun hwf hy hown => ?_, fun hwf hy => ?_, fun hwf hy => ?_⟩
  · rw [exec_openTensor hwf, s.crucibleOpen_refused c rfl hgo hy hown]
    exact hsame []
  · rw [exec_accum hwf, s.crucibleAccum_refused c rfl hgo hy]
    exact hsame []
  · obtain ⟨outs, hs⟩ := s.crucibleFlush_refused c rfl hgo hy
    rw [exec_flush hwf, hs]
    exact hsame outs

end Sys2Proof.Machine
end

section
/-! PROOF of O11: what TLOAD, TSTORE, EWISE and REDUCE leave in their Planisher (R225, R229, R238, R241). -/

namespace Sys2Proof.Machine

open Sys2Proof

theorem State.planisher_of_besides {s t : State} (h : t.besides .shared = s.besides .shared) (r p : Nat) :
    t.planisher r p = s.planisher r p :=
  congrArg (fun m : SMap Planisher => SMap.read ({} : Planisher) m (r * 2 + p))
    (Owner.eq_of_hide (u := .planisher) (o := .shared) (empty := []) (congrArg (·.planishers) h) nofun)

theorem State.planisher_setPlanisher (s : State) (r p : Nat) (x : Planisher) :
    (s.setPlanisher r p x).planisher r p = x := SMap.read_write_same

/-- A tile has the tag that it is given. -/
theorem Planisher.int_tag (x : Planisher) (tile : Nat) (int : Bool) : (x.tag tile int).int tile = int :=
  SMap.read_write_same

theorem Planisher.fly_elems (x : Planisher) (f : PlnFlight) : (x.fly f).elems = x.elems := rfl

section
variable (s : State) (c : Cmd) (r p : Nat)

theorem State.track_planisher (i : Issue) (port finish : Nat) (outs : List (Nat × Nat)) :
    (s.track c i port finish outs).planisher r p = s.planisher r p :=
  State.planisher_of_besides (s.track_besides ..) r p

theorem State.later_planisher (t q : Nat) (e : Effect) : (s.later t q e).planisher r p = s.planisher r p :=
  State.planisher_of_besides (s.later_besides ..) r p

theorem State.planFlags_planisher (t : Nat) (fs : List (Nat × FlagWord)) :
    (s.planFlags c t fs).planisher r p = s.planisher r p :=
  State.planisher_of_besides (s.planFlags_besides ..) r p

theorem State.planZero_planisher (tile t : Nat) (z : Option (Nat × Nat)) :
    (s.planZero c tile t z).planisher r p = s.planisher r p :=
  State.planisher_of_besides (s.planZero_besides ..) r p

theorem State.planCycles_planisher (strict : Bool) (t n : Nat) :
    (s.planCycles c strict t n).planisher r p = s.planisher r p :=
  State.planisher_of_besides (s.planCycles_besides ..) r p

theorem State.planIssue_planisher (arith : Bool) (reads writes : List Nat) :
    (s.planIssue c arith reads writes).2.planisher r p = s.planisher r p :=
  State.planisher_of_besides (s.planIssue_besides ..) r p

theorem State.voidOuts_planisher (ctx : Option Nat) (outs : List (Nat × Nat)) (cause : Nat) :
    (s.voidOuts ctx outs cause).planisher r p = s.planisher r p :=
  State.planisher_of_besides (s.voidOuts_besides ..) r p

/-- Whether a command issues in the slot of its Planisher that `arith` names, with the tiles that it reads and writes
(R239). -/
def State.planGoes (arith : Bool) (reads writes : List Nat) : Bool :=
  s.goes c ((s.planisher c.region c.unit).freeFor arith reads writes) (planBit c)

theorem State.planIssue_go (arith : Bool) (reads writes : List Nat) :
    (s.planIssue c arith reads writes).1.go = s.planGoes c arith reads writes := s.issue_goes ..

theorem State.planTload_issued (hgo : s.planGoes c false [] [bitsOf c.w.w2 8 3] = true) :
    (s.planTload c).runs c 0 = true ∧ (bitsOf c.w.w2 11 7 ≠ 0 →
      ((s.planTload c).planisher c.region c.unit).int (bitsOf c.w.w2 8 3) = c.flag 3) := by
  unfold State.planTload
  dsimp only
  rw [if_neg (by rw [s.planIssue_go, hgo]; decide)]
  by_cases hrows : bitsOf c.w.w2 11 7 = 0
  · rw [if_pos hrows]
    exact ⟨(State.track_newest ..).1, fun h => absurd hrows h⟩
  · rw [if_neg hrows, State.track_planisher, State.later_planisher, State.planFlags_planisher,
      State.planisher_setPlanisher]
    exact ⟨(State.track_newest ..).1, fun _ => Planisher.int_tag ..⟩

theorem State.planTstore_issued (hgo : s.planGoes c false [bitsOf c.w.w2 8 3] [] = true) :
    (s.planTstore c).runs c 0 = true ∧
      ((s.planTstore c).planisher c.region c.unit).elems = (s.planisher c.region c.unit).elems := by
  unfold State.planTstore
  dsimp only
  rw [if_neg (by rw [s.planIssue_go, hgo]; decide)]
  by_cases hrows : bitsOf c.w.w2 11 7 = 0
  · rw [if_pos hrows, State.track_planisher, State.voidOuts_planisher, State.planIssue_planisher]
    exact ⟨(State.track_newest ..).1, rfl⟩
  · rw [if_neg hrows, State.track_planisher, State.planisher_setPlanisher]
    refine ⟨(State.track_newest ..).1, ?_⟩
    rw [Planisher.fly_elems]
    refine congrArg Planisher.elems (State.planisher_of_besides ?_ ..)
    simp only [↓State.planIssue_besides, ↓State.openChans_besides, ↓State.freezeBreaches_besides,
      ↓State.shadowFault_besides, ↓State.eccReads_besides, ↓State.giveElems_besides, ↓State.closeChans_besides,
      ↓State.giveFlags_besides, ↓State.planFlags_besides, ↓State.later_besides, ↓State.endWrite_besides,
      ↓State.besides_ite, ↓ite_self, ↓snd_ite]

theorem State.planEwise_issued (hgo : s.planGoes c true c.ewiseReads [bitsOf c.w.w2 6 3] = true) :
    (s.planEwise c).runs c 1 = true ∧ (bitsOf c.w.w2 20 7 * bitsOf c.w.w3 12 7 ≠ 0 →
      ((s.planEwise c).planisher c.region c.unit).int (bitsOf c.w.w2 6 3) =
          opGivesInt (bitsOf c.w.w2 0 6) ((s.planisher c.region c.unit).int (bitsOf c.w.w2 9 3)) ∧
        ((s.planEwise c).planisher c.region c.unit).witness =
          (s.planisher c.region c.unit).witness + (if c.flag 0 then 8 else 1) * bitsOf c.w.w2 20 7) := by
  unfold State.planEwise
  dsimp only
  rw [if_neg (by rw [s.planIssue_go, hgo]; decide)]
  by_cases hn : bitsOf c.w.w2 20 7 * bitsOf c.w.w3 12 7 = 0
  · rw [if_pos hn]
    exact ⟨(State.track_newest ..).1, fun h => absurd hn h⟩
  · rw [if_neg hn, State.track_planisher, State.planCycles_planisher, State.planZero_planisher,
      State.planFlags_planisher, State.planisher_setPlanisher, State.planIssue_planisher]
    exact ⟨(State.track_newest ..).1, fun _ => ⟨Planisher.int_tag .., rfl⟩⟩

theorem State.planReduce_issued (hgo : s.planGoes c true c.reduceReads [bitsOf c.w.w2 7 3] = true) :
    (s.planReduce c).runs c 1 = true ∧ (bitsOf c.w.w2 11 7 ≠ 0 →
      ((s.planReduce c).planisher c.region c.unit).int (bitsOf c.w.w2 7 3) =
          (s.planisher c.region c.unit).int (bitsOf c.w.w2 4 3) ∧
        ((s.planReduce c).planisher c.region c.unit).witness =
          (s.planisher c.region c.unit).witness + (if c.flag 0 then 8 else 1) * bitsOf c.w.w2 11 7) := by
  unfold State.planReduce
  dsimp only
  rw [if_neg (by rw [s.planIssue_go, hgo]; decide)]
  by_cases hrows : bitsOf c.w.w2 11 7 = 0
  · rw [if_pos hrows]
    exact ⟨(State.track_newest ..).1, fun h => absurd hrows h⟩
  · rw [if_neg hrows, State.track_planisher, State.planCycles_planisher, State.planZero_planisher,
      State.planFlags_planisher, State.planisher_setPlanisher, State.planIssue_planisher]
    exact ⟨(State.track_newest ..).1, fun _ => ⟨Planisher.int_tag .., rfl⟩⟩

end

theorem exec_tload {c : Cmd} (h : c.wfTload = true) (s : State) : exec (.tload c) s = .next (s.planTload c) :=
  admitted_of h _

theorem exec_tstore {c : Cmd} (h : c.wfTstore = true) (s : State) : exec (.tstore c) s = .next (s.planTstore c) :=
  admitted_of h _

theorem exec_ewise {c : Cmd} (h : c.wfEwise = true) (s : State) : exec (.ewise c) s = .next (s.planEwise c) :=
  admitted_of h _

theorem exec_reduce {c : Cmd} (h : c.wfReduce = true) (s : State) : exec (.reduce c) s = .next (s.planReduce c) :=
  admitted_of h _

/-- Settles O11: `State.planTload_issued`, `State.planTstore_issued`, `State.planEwise_issued` and
`State.planReduce_issued`. -/
theorem planisherCommandsRunInTheirSlots : Obligations.PlanisherCommandsRunInTheirSlots := by
  unfold Obligations.PlanisherCommandsRunInTheirSlots
  intro s c p goes
  exact ⟨fun hwf hgo => ⟨_, exec_tload hwf s, s.planTload_issued c hgo⟩,
    fun hwf hgo => ⟨_, exec_tstore hwf s, s.planTstore_issued c hgo⟩,
    fun hwf hgo => ⟨_, exec_ewise hwf s, s.planEwise_issued c hgo⟩,
    fun hwf hgo => ⟨_, exec_reduce hwf s, s.planReduce_issued c hgo⟩⟩

end Sys2Proof.Machine
end

section
/-! PROOF of O12: a Tinker command that issues takes its Tinker until it ends (R246, R247). -/

namespace Sys2Proof.Machine

open Sys2Proof

theorem State.tinker_of_besides {s t : State} (h : t.besides .shared = s.besides .shared) (r n : Nat) :
    t.tinker r n = s.tinker r n :=
  congrArg (fun m : SMap Tinker => SMap.read ({} : Tinker) m (r * 4 + n))
    (Owner.eq_of_hide (u := .tinker) (o := .shared) (empty := []) (congrArg (·.tinkers) h) nofun)

theorem State.tinker_setTinker (s : State) (r n : Nat) (x : Tinker) : (s.setTinker r n x).tinker r n = x :=
  SMap.read_write_same

/-- The Tinker of `c` is taken by `c`, the newest command under way, until that ends. -/
def State.tinkerTaken (t : State) (c : Cmd) : Prop :=
  t.newest c 0 (t.tinker c.region c.unit).free

section
variable (s : State) (c : Cmd)

/-- A command takes its Tinker that has left its end there as it is entered among those under way. -/
theorem State.track_tinkerTaken (x : Tinker) (i : Issue) (outs : List (Nat × Nat)) :
    ((s.setTinker c.region c.unit x).track c i 0 x.free outs).tinkerTaken c := by
  unfold State.tinkerTaken
  rw [State.tinker_of_besides (State.track_besides ..), State.tinker_setTinker]
  exact State.track_newest ..

/-- Counting leaves a Tinker taken. -/
theorem State.bumpIf_tinkerTaken (b : Bool) {k : Nat} (lo n v : Nat) (hk : k ≠ Reg.SPN_GATE) (h : s.tinkerTaken c) :
    (s.bumpIf b k lo n v).tinkerTaken c := by
  unfold State.tinkerTaken at h ⊢
  rw [State.tinker_of_besides (s.bumpIf_besides ..)]
  exact State.newest_of_arrays (s.bumpIf_arrays b lo n v hk) h

variable {c}
  (hgo : s.goes c (s.tinker c.region c.unit).free (tinkerBit c) = true)
include hgo

/-- A Tinker command that issues takes its Tinker, whatever its effect. -/
theorem State.tinkerRun_taken (always : Bool) (need dur : Nat)
    (effect : Nat → State → List Byte → List Byte × State) :
    (s.tinkerRun c always need dur effect).tinkerTaken c := by
  have hissue := s.issue_goes c (tinkerLoc c) (s.tinker c.region c.unit).free (tinkerBit c)
  unfold State.tinkerRun
  dsimp only
  rw [if_neg (by rw [hissue, hgo]; decide)]
  split <;> exact State.track_tinkerTaken ..

/-- A FILL may count a structure after it has run. -/
theorem State.tinkerFill_taken : (s.tinkerFill c).tinkerTaken c :=
  State.bumpIf_tinkerTaken _ c _ _ _ _ (by decide) (s.tinkerRun_taken hgo ..)

end

/-- Settles O12: each command is a run of its Tinker (`State.tinkerRun_taken`), a FILL with a count after it
(`State.tinkerFill_taken`). -/
theorem tinkerCommandsTakeTheTinker : Obligations.TinkerCommandsTakeTheTinker := by
  unfold Obligations.TinkerCommandsTakeTheTinker
  intro s c i hi hwf hgo
  have hends (t : State) (hexec : exec i s = admitted i.wf t) (ht : t.tinkerTaken c) :
      ∃ t, exec i s = .next t ∧ t.runs c 0 = true ∧ t.newestEnd = some (t.tinker c.region c.unit).free :=
    ⟨t, hexec.trans (admitted_of hwf t), ht⟩
  have hrun := s.tinkerRun_taken hgo
  simp only [List.mem_cons, List.not_mem_nil, or_false] at hi
  obtain rfl | rfl | rfl | rfl | rfl | rfl | rfl | rfl | rfl | rfl := hi
  · exact hends (s.tinkerDesc c) rfl (by unfold State.tinkerDesc; exact hrun ..)
  · exact hends (s.tinkerLookup c) rfl (by unfold State.tinkerLookup; exact hrun ..)
  · exact hends (s.tinkerSort c) rfl (by unfold State.tinkerSort; exact hrun ..)
  · exact hends (s.tinkerSelect c) rfl (by unfold State.tinkerSelect; exact hrun ..)
  · exact hends (s.tinkerPack c) rfl (by unfold State.tinkerPack; exact hrun ..)
  · exact hends (s.tinkerCrc c) rfl (by unfold State.tinkerCrc; exact hrun ..)
  · exact hends (s.tinkerScramble c) rfl (by unfold State.tinkerScramble; exact hrun ..)
  · exact hends (s.tinkerReenc c) rfl (by unfold State.tinkerReenc; exact hrun ..)
  · exact hends (s.tinkerBatch c) rfl (by unfold State.tinkerBatch; exact hrun ..)
  · exact hends (s.tinkerFill c) rfl (s.tinkerFill_taken hgo)

end Sys2Proof.Machine
end

section
/-! PROOF of O13: SORT gives the records in the order of their keys (R250). -/

namespace Sys2Proof.Machine

open Sys2Proof

/-- Whether the key `a` goes before the key `b` in the order that the command asks for (R250). -/
def Cmd.keyBefore (c : Cmd) (a b : Int) : Bool := if bitOf c.w.w3 15 then decide (b < a) else decide (a < b)

/-- Keys are in order where the later one does not go before the earlier one. -/
theorem Cmd.keyBefore_eq_false (c : Cmd) (a b : Int) :
    c.keyBefore b a = false ↔ if bitOf c.w.w3 15 then b ≤ a else a ≤ b := by
  unfold Cmd.keyBefore
  split <;> rw [decide_eq_false_iff_not, Int.not_lt]

theorem Cmd.keyBefore_asymm (c : Cmd) {a b : Int} (h : c.keyBefore a b = true) : c.keyBefore b a = false := by
  rw [c.keyBefore_eq_false]
  unfold Cmd.keyBefore at h
  split_ifs at h ⊢
  exacts [(of_decide_eq_true h).le, (of_decide_eq_true h).le]

/-- The order of keys is transitive. -/
theorem Cmd.keyBefore_trans (c : Cmd) {a b d : Int} (hab : c.keyBefore b a = false) (hbd : c.keyBefore d b = false) :
    c.keyBefore d a = false := by
  rw [c.keyBefore_eq_false] at *
  split_ifs at *
  exacts [hbd.trans hab, hab.trans hbd]

/-- No record of a list of keyed records stands before one whose key goes before its own. -/
def Cmd.keyOrdered (c : Cmd) (xs : List (Int × List Byte)) : Prop :=
  xs.Pairwise fun x y => c.keyBefore y.1 x.1 = false

/-- Insertion adds the record and no other. -/
theorem insertRec_perm (before : Int → Int → Bool) (k : Int) (r : List Byte) (xs : List (Int × List Byte)) :
    (insertRec before k r xs).Perm ((k, r) :: xs) := by
  induction xs with
  | nil => exact .refl _
  | cons x xs ih =>
    rw [insertRec]
    split
    · exact .refl _
    · exact (ih.cons x).trans (.swap ..)

theorem Cmd.keyOrdered_insertRec (c : Cmd) (k : Int) (r : List Byte) {xs : List (Int × List Byte)}
    (h : c.keyOrdered xs) : c.keyOrdered (insertRec c.keyBefore k r xs) := by
  unfold Cmd.keyOrdered at h ⊢
  induction xs with
  | nil => exact List.pairwise_singleton ..
  | cons x xs ih =>
    obtain ⟨hx, hxs⟩ := List.pairwise_cons.mp h
    rw [insertRec]
    split
    next hk =>
      have hkx := c.keyBefore_asymm hk
      exact h.cons (List.forall_mem_cons.mpr ⟨hkx, fun y hy => c.keyBefore_trans hkx (hx y hy)⟩)
    next hk =>
      refine (ih hxs).cons fun y hy => ?_
      obtain rfl | hy := List.mem_cons.mp ((insertRec_perm ..).mem_iff.mp hy)
      · exact Bool.eq_false_of_not_eq_true hk
      · exact hx y hy

/-- The records `rs` with their keys, inserted one after the other into `xs`. -/
def Cmd.insertRecs (c : Cmd) (rs : List (List Byte)) (xs : List (Int × List Byte)) : List (Int × List Byte) :=
  rs.foldl (fun acc r => insertRec c.keyBefore (recordKey c r) r acc) xs

theorem Cmd.insertRecs_perm (c : Cmd) (rs : List (List Byte)) (xs : List (Int × List Byte)) :
    (c.insertRecs rs xs).Perm (rs.map (fun r => (recordKey c r, r)) ++ xs) := by
  induction rs generalizing xs with
  | nil => exact .refl _
  | cons r rs ih => exact (ih _).trans (((insertRec_perm ..).append_left _).trans List.perm_middle)

theorem Cmd.keyOrdered_insertRecs (c : Cmd) (rs : List (List Byte)) {xs : List (Int × List Byte)}
    (h : c.keyOrdered xs) : c.keyOrdered (c.insertRecs rs xs) := by
  induction rs generalizing xs with
  | nil => exact h
  | cons r rs ih => exact ih (c.keyOrdered_insertRec _ r h)

theorem sortRecs_eq_insertRecs (c : Cmd) (bs : List Byte) :
    sortRecs c bs = (c.insertRecs (chunks (bitsOf c.w.w3 0 6 + 1) c.count bs) []).map (·.2) := rfl

/-- Settles O13: SORT inserts the records one after the other (`Cmd.insertRecs_perm`, `Cmd.keyOrdered_insertRecs`), each
with its own key. -/
theorem sortPutsRecordsInKeyOrder : Obligations.SortPutsRecordsInKeyOrder := by
  unfold Obligations.SortPutsRecordsInKeyOrder
  intro c bs
  rw [sortRecs_eq_insertRecs]
  generalize chunks (bitsOf c.w.w3 0 6 + 1) c.count bs = rs
  have hperm := c.insertRecs_perm rs []
  rw [List.append_nil] at hperm
  have hkey : ∀ x ∈ c.insertRecs rs [], x.1 = recordKey c x.2 := fun x hx => by
    obtain ⟨r, -, rfl⟩ := List.mem_map.mp (hperm.mem_iff.mp hx)
    rfl
  constructor
  · have hrecords : (rs.map fun r => (recordKey c r, r)).map (·.2) = rs := by
      rw [List.map_map]
      exact List.map_id rs
    exact (hperm.map (·.2)).trans (.of_eq hrecords)
  · have hordered : c.keyOrdered (c.insertRecs rs []) := c.keyOrdered_insertRecs rs .nil
    refine List.pairwise_map.mpr (hordered.imp_of_mem fun hx hy h => ?_)
    rw [← c.keyBefore_eq_false, ← hkey _ hx, ← hkey _ hy]
    exact h

end Sys2Proof.Machine
end

section
/-! SUPPORT. The canonical form of the registers and memories (R261 to R263): every function of the model that answers
a state keeps it, which is said here once for each, in the order of the model's files. A register or a memory changes
only by the operations of the sparse table, and each of these keeps the table canonical (`SMap.write_wf`,
`SMap.writeList_wf`, `SMap.writeAll_wf`, `SMap.drop_wf`). None of this is arithmetic: `grind` runs without its
`linarith`. -/

namespace Sys2Proof.Machine

open Sys2Proof

/- The lemmas are checked one after another: side by side, those that wait for one another would each hold a stack. -/
set_option Elab.async false

theorem canonical_ite {c : Prop} [Decidable c] {a b : State} (ha : a.canonical = true) (hb : b.canonical = true) :
    (if c then a else b).canonical = true := by
  split
  exacts [ha, hb]

theorem canonical_foldl {β : Type} {f : State → β → State} {s : State}
    (hf : ∀ (s : State) (b : β), s.canonical = true → (f s b).canonical = true) (h : s.canonical = true)
    (l : List β) : (l.foldl f s).canonical = true :=
  List.foldlRecOn l f h fun s hs b _ => hf s b hs

theorem canonical_foldr {β : Type} {f : β → State → State} {s : State}
    (hf : ∀ (s : State) (b : β), s.canonical = true → (f b s).canonical = true) (h : s.canonical = true)
    (l : List β) : (l.foldr f s).canonical = true :=
  List.foldrRecOn l f h fun s hs b _ => hf s b hs

section
variable {s : State} (h : s.canonical = true)
include h

/-! ### Machine/Ops -/

theorem State.setReg_canonical (k : Nat) (w : Word) : (s.setReg k w).canonical = true := by
  unfold State.setReg
  grind -linarith only [State.canonical, SMap.write_wf]

theorem State.setFld_canonical (k lo n v : Nat) : (s.setFld k lo n v).canonical = true := by
  unfold State.setFld
  grind -linarith only [State.setReg_canonical]

theorem State.setBit_canonical (k i : Nat) (b : Bool) : (s.setBit k i b).canonical = true := by
  unfold State.setBit
  grind -linarith only [State.setFld_canonical]

theorem State.bump_canonical (k lo n by_ : Nat) : (s.bump k lo n by_).canonical = true := by
  unfold State.bump
  grind -linarith only [State.setFld_canonical]

theorem State.wrapAdd_canonical (k lo n by_ : Nat) : (s.wrapAdd k lo n by_).canonical = true := by
  unfold State.wrapAdd
  grind -linarith only [State.setFld_canonical]

theorem State.bumpIf_canonical (b : Bool) (k lo n by_ : Nat) : (s.bumpIf b k lo n by_).canonical = true := by
  unfold State.bumpIf
  grind -linarith only [State.bump_canonical]

theorem State.orFlags_canonical (k : Nat) (f : FlagWord) : (s.orFlags k f).canonical = true := by
  unfold State.orFlags
  grind -linarith only [State.setFld_canonical]

theorem State.zeroRegs_canonical (ks : List Nat) : (s.zeroRegs ks).canonical = true := by
  induction ks generalizing s with
  | nil => exact h
  | cons k ks ih => exact ih (State.setReg_canonical h k 0)

theorem State.goFatal_canonical (code : Nat) : (s.goFatal code).canonical = true := by
  unfold State.goFatal
  grind -linarith only [State.setBit_canonical, State.setReg_canonical, State.canonical]

theorem State.queueRecord_canonical (r : Record) : (s.queueRecord r).canonical = true := by
  unfold State.queueRecord
  grind -linarith only [State.bump_canonical, State.canonical]

theorem State.raise_canonical (code : Nat) (cls : FaultClass) (loc : BitVec 64) (d0 d1 : Nat) :
    (s.raise code cls loc d0 d1).canonical = true := by
  unfold State.raise
  grind -linarith only [State.queueRecord_canonical, State.bump_canonical, State.goFatal_canonical,
    State.canonical]

theorem State.raiseIf_canonical (b : Bool) (code : Nat) (cls : FaultClass) (loc : BitVec 64) (d0 d1 : Nat) :
    (s.raiseIf b code cls loc d0 d1).canonical = true := by
  unfold State.raiseIf
  grind -linarith only [State.raise_canonical]

theorem State.setCtx_canonical (c : Nat) (x : Ctx) : (s.setCtx c x).canonical = true := h

theorem State.onCtx_canonical (c : Nat) (f : Ctx → Ctx) : (s.onCtx c f).canonical = true := by
  unfold State.onCtx
  grind -linarith only [State.setCtx_canonical]

theorem State.countJob_canonical (client which n : Nat) : (s.countJob client which n).canonical = true := by
  unfold State.countJob
  grind -linarith only [State.bump_canonical]

theorem State.setLadle_canonical (r l : Nat) (x : Ladle) : (s.setLadle r l x).canonical = true := h

theorem State.cancelStreams_canonical (c : Nat) : (s.cancelStreams c).canonical = true := h

theorem State.withdrawCtx_canonical (c : Nat) : (s.withdrawCtx c).canonical = true := by
  unfold State.withdrawCtx
  grind -linarith only [State.cancelStreams_canonical, State.canonical]

theorem State.onHandIn_canonical (j : Job) (f : HandIn → HandIn) : (s.onHandIn j f).canonical = true := by
  unfold State.onHandIn
  grind -linarith only [State.canonical]

theorem State.dropTaster_canonical (js : List Job) : (s.dropTaster js).canonical = true := by
  unfold State.dropTaster
  grind -linarith only [State.bump_canonical, State.onHandIn_canonical, canonical_foldl]

theorem State.abortJob_canonical (c : Nat) : (s.abortJob c).canonical = true := by
  unfold State.abortJob
  grind -linarith only [State.countJob_canonical, State.dropTaster_canonical, State.onCtx_canonical,
    State.withdrawCtx_canonical]

theorem State.abortJobs_canonical (c : Nat) (p : Job → Bool) : (s.abortJobs c p).canonical = true := by
  unfold State.abortJobs
  grind -linarith only [State.countJob_canonical, State.dropTaster_canonical, State.onCtx_canonical,
    State.withdrawCtx_canonical]

theorem State.abortWhere_canonical (q : Ctx → Bool) (p : Job → Bool) :
    (s.abortWhere q p).canonical = true := by
  unfold State.abortWhere
  grind -linarith only [State.abortJobs_canonical, canonical_foldl]

theorem State.setCell_canonical (lag region buf : Nat) (x : LedgerCell) :
    (s.setCell lag region buf x).canonical = true := h

theorem State.voidEntry_canonical (lag region buf cause : Nat) :
    (s.voidEntry lag region buf cause).canonical = true := by
  unfold State.voidEntry
  grind -linarith only [State.setCell_canonical, State.bump_canonical, State.canonical]

theorem State.suspectEntry_canonical (lag region buf cause : Nat) :
    (s.suspectEntry lag region buf cause).canonical = true := by
  unfold State.suspectEntry
  grind -linarith only [State.setCell_canonical, State.canonical]

theorem State.voidBuf_canonical (ctx : Option Nat) (region buf cause : Nat) :
    (s.voidBuf ctx region buf cause).canonical = true := by
  unfold State.voidBuf
  grind -linarith only [State.voidEntry_canonical, State.onCtx_canonical]

theorem State.voidOuts_canonical (ctx : Option Nat) (outs : List (Nat × Nat)) (cause : Nat) :
    (s.voidOuts ctx outs cause).canonical = true := by
  unfold State.voidOuts
  grind -linarith only [State.voidBuf_canonical, canonical_foldl]

theorem State.complete_canonical (ctx : Option Nat) (region buf : Nat) :
    (s.complete ctx region buf).canonical = true := by
  unfold State.complete
  grind -linarith only [State.setCell_canonical, State.onCtx_canonical]

theorem State.clearBuf_canonical (c buf : Nat) : (s.clearBuf c buf).canonical = true := by
  unfold State.clearBuf
  grind -linarith only [State.onCtx_canonical]

theorem State.voidRegion_canonical (r cause : Nat) : (s.voidRegion r cause).canonical = true := by
  unfold State.voidRegion
  grind -linarith only [State.voidEntry_canonical, canonical_foldl]

theorem State.closeGate_canonical (r cause : Nat) : (s.closeGate r cause).canonical = true := by
  unfold State.closeGate
  grind -linarith only [State.setBit_canonical, State.voidRegion_canonical, State.abortWhere_canonical,
    State.canonical]

theorem State.fenceFault_canonical (r cause : Nat) : (s.fenceFault r cause).canonical = true := by
  unfold State.fenceFault
  grind -linarith only [State.closeGate_canonical, State.raise_canonical, State.canonical]

theorem State.blockFault_canonical (r cls idx cause : Nat) :
    (s.blockFault r cls idx cause).canonical = true := by
  unfold State.blockFault
  grind -linarith only [State.fenceFault_canonical, State.canonical]

theorem State.report_canonical (r cls idx : Nat) : (s.report r cls idx).1.canonical = true := by
  unfold State.report
  grind -linarith only [State.raise_canonical, State.canonical]

theorem State.blockRaise_canonical (r cls idx code : Nat) (loc : BitVec 64) (d0 d1 : Nat) :
    (s.blockRaise r cls idx code loc d0 d1).canonical = true := by
  unfold State.blockRaise
  grind -linarith only [State.report_canonical, State.raise_canonical, State.blockFault_canonical]

theorem State.bankCollision_canonical (r bank : Nat) : (s.bankCollision r bank).canonical = true := by
  unfold State.bankCollision
  grind -linarith only [State.bump_canonical, State.raise_canonical, State.fenceFault_canonical,
    State.canonical]

theorem State.apply_canonical (region : Nat) (e : Effect) : (s.apply region e).canonical = true := by
  unfold State.apply
  grind -linarith only [State.bump_canonical, State.orFlags_canonical, State.setReg_canonical,
    State.setFld_canonical, State.blockRaise_canonical, State.fenceFault_canonical, State.raise_canonical,
    canonical_foldl]

theorem State.later_canonical (t region : Nat) (e : Effect) : (s.later t region e).canonical = true := by
  unfold State.later
  grind -linarith only [State.apply_canonical, State.canonical]

theorem State.laters_canonical (t region : Nat) (es : List Effect) :
    (s.laters t region es).canonical = true := by
  unfold State.laters
  grind -linarith only [State.later_canonical, canonical_foldl]

theorem State.settle_canonical (t : Nat) : (s.settle t).canonical = true := by
  unfold State.settle
  grind -linarith only [State.apply_canonical, State.canonical, canonical_foldr]

theorem State.reach_canonical (t : Nat) : (s.reach t).canonical = true := by
  unfold State.reach
  grind -linarith only [State.settle_canonical, State.canonical]

theorem State.countBreach_canonical (r t : Nat) : (s.countBreach r t).canonical = true := by
  unfold State.countBreach
  grind -linarith only [State.laters_canonical]

theorem State.breachAt_canonical (ctx : Option Nat) (loc : BitVec 64) (w0 : Word) (planned cycle late : Nat) :
    (s.breachAt ctx loc w0 planned cycle late).canonical = true := by
  unfold State.breachAt
  grind -linarith only [State.countBreach_canonical, State.later_canonical, State.laters_canonical]

theorem State.breach_canonical (ctx : Option Nat) (loc : BitVec 64) (w0 : Word) (planned late : Nat) :
    (s.breach ctx loc w0 planned late).canonical = true := by
  unfold State.breach
  grind -linarith only [State.breachAt_canonical]

theorem State.moreBreaches_canonical (ctx : Option Nat) (loc : BitVec 64) (t n : Nat) :
    (s.moreBreaches ctx loc t n).canonical = true := by
  unfold State.moreBreaches
  grind -linarith only [State.laters_canonical, State.later_canonical]

theorem State.breachRun_canonical (ctx : Option Nat) (loc : BitVec 64) (w0 : Word)
    (planned cycle late n : Nat) :
    (s.breachRun ctx loc w0 planned cycle late n).canonical = true := by
  unfold State.breachRun
  grind -linarith only [State.breachAt_canonical, State.moreBreaches_canonical, canonical_foldl]

theorem State.fresh_canonical : s.fresh.2.canonical = true := h

theorem State.draw_canonical (n : Nat) : (s.draw n).2.canonical = true := h

theorem State.drawFor_canonical (elastic : Bool) (n : Nat) : (s.drawFor elastic n).2.canonical = true := by
  unfold State.drawFor
  grind -linarith only [State.draw_canonical, State.canonical]

theorem State.eccRecord_canonical (unc : Bool) (r cls idx : Nat) (loc : BitVec 64) (addr hi : Nat) :
    (s.eccRecord unc r cls idx loc addr hi).canonical = true := by
  unfold State.eccRecord
  grind -linarith only [State.fresh_canonical, State.blockRaise_canonical, State.raise_canonical]

theorem State.eccLater_canonical (unc : Bool) (r cls idx : Nat) (loc : BitVec 64) (addr t : Nat) :
    (s.eccLater unc r cls idx loc addr t).canonical = true := by
  unfold State.eccLater
  grind -linarith only [State.fresh_canonical, State.later_canonical]

theorem State.spineFault_canonical (ctx : Option Nat) (f : SpineFault) :
    (s.spineFault ctx f).canonical = true := by
  unfold State.spineFault
  grind -linarith only [State.setBit_canonical, State.raise_canonical, State.voidOuts_canonical,
    State.eccRecord_canonical, State.canonical]

theorem State.voidIdleEntries_canonical : s.voidIdleEntries.canonical = true := by
  unfold State.voidIdleEntries
  grind -linarith only [State.voidOuts_canonical, canonical_foldl]

theorem State.loadTables_canonical : s.loadTables.canonical = true := h

theorem State.wakeSource_canonical (src : Nat) : (s.wakeSource src).canonical = true := by
  unfold State.wakeSource
  grind -linarith only [State.canonical]

theorem State.announce_canonical (kind : Nat) (payload : List Byte) :
    (s.announce kind payload).canonical = true := h

theorem State.managed_canonical {f : State → State}
    (hf : ∀ s : State, s.canonical = true → (f s).canonical = true) : (s.managed f).canonical = true := by
  unfold State.managed
  grind -linarith only [State.canonical]

/-! ### Machine/Operands -/

theorem State.neverStarts_canonical (c : Cmd) (t : Nat) : (s.neverStarts c t).canonical = true := h

theorem State.issueData_canonical (c : Cmd) (loc : BitVec 64) (free : Nat) :
    (s.issueData c loc free).2.canonical = true := by
  unfold State.issueData
  grind -linarith only [State.neverStarts_canonical, State.reach_canonical, State.breach_canonical]

theorem State.countVoidIn_canonical (step : Nat) : (s.countVoidIn step).canonical = true := by
  unfold State.countVoidIn
  grind -linarith only [State.bump_canonical, State.canonical]

theorem State.skipVoidJob_canonical (c : Nat) : (s.skipVoidJob c).canonical = true := by
  unfold State.skipVoidJob
  grind -linarith only [State.countVoidIn_canonical, State.onCtx_canonical, State.canonical]

theorem State.zeroRun_canonical (c : Cmd) (t : Nat) : (s.zeroRun c t).canonical = true := by
  unfold State.zeroRun
  grind -linarith only [State.complete_canonical, State.reach_canonical, State.onCtx_canonical, canonical_foldl]

theorem State.issueElastic_canonical (c : Cmd) (loc : BitVec 64) (free engine : Nat) :
    (s.issueElastic c loc free engine).2.canonical = true := by
  unfold State.issueElastic
  extract_lets +onlyGivenNames s1 x c1 t named
  have h1 : s1.canonical = true := State.skipVoidJob_canonical h ..
  clear_value s1 x c1 t named
  repeat' split
  all_goals grind -linarith only [State.zeroRun_canonical, State.reach_canonical, State.bump_canonical,
    State.raise_canonical, State.abortJob_canonical, State.onCtx_canonical, State.breach_canonical]

theorem State.settleSignals_canonical (t : Nat) : (s.settleSignals t).canonical = true := by
  unfold State.settleSignals
  grind -linarith only [State.complete_canonical, State.canonical, canonical_foldr]

theorem State.signalAt_canonical (ctx : Option Nat) (region buf due : Nat) :
    (s.signalAt ctx region buf due).canonical = true := by
  unfold State.signalAt
  grind -linarith only [State.canonical]

omit h in
theorem State.meetSpine_canonical {x : Issue × State} (hx : x.2.canonical = true) (c : Cmd) :
    (State.meetSpine x c).2.canonical = true := by
  unfold State.meetSpine
  grind -linarith only [State.spineFault_canonical]

theorem State.track_canonical (c : Cmd) (i : Issue) (port finish : Nat) (outs : List (Nat × Nat)) :
    (s.track c i port finish outs).canonical = true := by
  unfold State.track
  grind -linarith only [State.onCtx_canonical, State.countJob_canonical, State.onHandIn_canonical,
    State.canonical]

theorem State.setByte_canonical (p : Place) (b : Byte) : (s.setByte p b).canonical = true := by
  unfold State.setByte
  grind -linarith only [State.canonical, Memories.wf, SMap.write_wf]

theorem State.setHallmark_canonical (g : Nat × Nat) (h1 : Word) : (s.setHallmark g h1).canonical = true := by
  unfold State.setHallmark
  grind -linarith only [State.canonical, Memories.wf, SMap.write_wf]

theorem State.remark_canonical (g : Nat × Nat) : (s.remark g).canonical = true := by
  unfold State.remark
  grind -linarith only [State.setHallmark_canonical]

theorem State.ladleErr_canonical (r l lo n : Nat) : (s.ladleErr r l lo n).canonical = true := by
  unfold State.ladleErr
  grind -linarith only [State.setReg_canonical, State.bump_canonical]

theorem State.padEcc_canonical (w e : Nat) : (s.padEcc w e).canonical = true := by
  unfold State.padEcc
  grind -linarith only [State.bump_canonical, State.setReg_canonical, State.eccRecord_canonical]

theorem State.markWords_canonical (es : List (Nat × Nat)) : (s.markWords es).canonical = true := by
  unfold State.markWords
  grind -linarith only [State.drawFor_canonical, State.canonical, canonical_foldl, Memories.wf, SMap.write_wf,
    SMap.writeList_wf]

theorem State.setActive_canonical (r l : Nat) (t : Option Stream) : (s.setActive r l t).canonical = true := by
  unfold State.setActive
  grind -linarith only [State.setLadle_canonical]

theorem State.onStream_canonical (p : Port) (f : Stream → Stream) : (s.onStream p f).canonical = true := by
  unfold State.onStream
  grind -linarith only [State.setActive_canonical]

theorem State.onStreamW_canonical (p : Port) (f : Stream → Stream) : (s.onStreamW p f).canonical = true := by
  unfold State.onStreamW
  grind -linarith only [State.setActive_canonical]

theorem State.hallFaults_canonical (r l : Nat) (gs : List (Nat × Nat)) :
    (s.hallFaults r l gs).canonical = true := by
  unfold State.hallFaults
  grind -linarith only [State.ladleErr_canonical, State.blockRaise_canonical, canonical_foldl]

theorem State.rangeFaults_canonical (r l : Nat) (t : Stream) (n : Nat) :
    (s.rangeFaults r l t n).canonical = true := by
  unfold State.rangeFaults
  grind -linarith only [State.ladleErr_canonical, State.raise_canonical, canonical_foldl]

theorem State.take_canonical (p : Port) (kind n : Nat) : (s.take p kind n).2.canonical = true := by
  unfold State.take
  grind -linarith only [State.bumpIf_canonical, State.hallFaults_canonical, State.rangeFaults_canonical,
    State.ladleErr_canonical, State.bump_canonical, State.padEcc_canonical, State.voidBuf_canonical,
    State.setLadle_canonical, State.canonical, canonical_foldl]

theorem State.renewWords_canonical (ps : List Place) : (s.renewWords ps).canonical = true := by
  unfold State.renewWords
  grind -linarith only [State.padEcc_canonical, State.canonical, canonical_foldl, Memories.wf, SMap.write_wf]

theorem State.putBytes_canonical (l : List (Place × Byte)) : (s.putBytes l).canonical = true := by
  induction l generalizing s with
  | nil => exact h
  | cons e l ih => exact ih (State.setByte_canonical h e.1 e.2)

theorem State.give_canonical (p : Port) (kind : Nat) (bs : List Byte) :
    (s.give p kind bs).canonical = true := by
  unfold State.give
  grind -linarith only [State.renewWords_canonical, State.putBytes_canonical, State.rangeFaults_canonical,
    State.bump_canonical, State.hallFaults_canonical, State.voidBuf_canonical, State.setLadle_canonical,
    State.canonical]

theorem State.fillGranule_canonical (keys : List Nat) (g : Nat × Nat) :
    (s.fillGranule keys g).canonical = true := by
  unfold State.fillGranule
  grind -linarith only [State.canonical, canonical_foldl, Memories.wf, SMap.write_wf]

theorem State.takeScale_canonical (p : Port) : (s.takeScale p).2.2.canonical = true := by
  unfold State.takeScale
  grind -linarith only [State.take_canonical]

theorem State.scaleSkew_canonical (ctx : Option Nat) (region unit : Nat) (loc : BitVec 64) (t : Nat) :
    (s.scaleSkew ctx region unit loc t).canonical = true := by
  unfold State.scaleSkew
  grind -linarith only [State.laters_canonical]

theorem State.setChan_canonical (k : Nat) (c : Channel) : (s.setChan k c).canonical = true := h

theorem State.settleTaps_canonical (t : Nat) : (s.settleTaps t).canonical = true := by
  unfold State.settleTaps
  grind -linarith only [State.setChan_canonical, State.canonical, canonical_foldl]

theorem State.openChans_canonical (region unit base count : Nat) (f : Fmt) (t : Nat) :
    (s.openChans region unit base count f t).2.canonical = true := by
  unfold State.openChans
  grind -linarith only [State.settleTaps_canonical, State.setChan_canonical, canonical_foldl]

theorem State.closeChans_canonical (cs : ChanSet) (vs : List (Nat × FVal)) (due : Nat) :
    (s.closeChans cs vs due).canonical = true := by
  unfold State.closeChans
  grind -linarith only [State.canonical, canonical_foldl]

theorem State.closeStage_canonical (g : Stage) (due : Nat) : (s.closeStage g due).canonical = true := by
  unfold State.closeStage
  grind -linarith only [State.canonical, canonical_foldl]

theorem State.countFlags_canonical (region due : Nat) (fs : List FlagWord) :
    (s.countFlags region due fs).canonical = true := by
  unfold State.countFlags
  grind -linarith only [State.laters_canonical]

theorem State.shadowFault_canonical (r cls idx : Nat) (p : Option Nat) (t : Nat) :
    (s.shadowFault r cls idx p t).canonical = true := by
  unfold State.shadowFault
  grind -linarith only [State.later_canonical]

theorem State.eccCells_canonical (c : Cmd) (cls idx t : Nat) :
    (s.eccCells c cls idx t).2.canonical = true := by
  unfold State.eccCells
  grind -linarith only [State.eccLater_canonical, canonical_foldl]

theorem State.eccReads_canonical (c : Cmd) (cls idx t : Nat) :
    (s.eccReads c cls idx t).2.canonical = true := by
  unfold State.eccReads
  grind -linarith only [State.eccLater_canonical, canonical_foldl]

theorem State.spoil_canonical (r l : Nat) (p : Option Nat) : (s.spoil r l p).canonical = true := by
  unfold State.spoil
  grind -linarith only [State.shadowFault_canonical, State.voidBuf_canonical, State.setLadle_canonical]

theorem State.stageTags_canonical (r l : Nat) (tags : List Nat) :
    (s.stageTags r l tags).canonical = true := by
  unfold State.stageTags
  grind -linarith only [State.scaleSkew_canonical, State.voidBuf_canonical, State.setActive_canonical,
    State.canonical]

theorem State.takeElems_canonical (p : Port) (n ne : Nat) (f : Fmt) (zp : Nat → Option Nat) :
    (s.takeElems p n ne f zp).2.canonical = true := by
  unfold State.takeElems
  grind -linarith only [State.take_canonical, State.takeScale_canonical, State.onStream_canonical,
    State.stageTags_canonical, State.spoil_canonical, State.canonical]

theorem State.giveStaged_canonical (p : Port) (vals : List (Nat → FVal)) :
    (s.giveStaged p vals).canonical = true := by
  unfold State.giveStaged
  grind -linarith only [State.setActive_canonical, State.give_canonical, State.spoil_canonical, State.canonical]

theorem State.giveElems_canonical (p : Port) (f : Fmt) (codes : List Nat) (exps : List Nat)
    (exOf : Nat → Nat) (scale : List ScaleBlock) :
    (s.giveElems p f codes exps exOf scale).canonical = true := by
  unfold State.giveElems
  grind -linarith only [State.stageTags_canonical, State.giveStaged_canonical, State.give_canonical,
    State.canonical]

theorem State.giveFlags_canonical (p : Port) (due : Nat) (flags : List FlagWord) :
    (s.giveFlags p due flags).canonical = true := by
  unfold State.giveFlags
  grind -linarith only [State.onStreamW_canonical, State.countFlags_canonical, State.give_canonical]

theorem State.stageScale_canonical (p : Port) : (s.stageScale p).canonical = true := by
  unfold State.stageScale
  grind -linarith only [State.give_canonical, State.canonical]

theorem State.endWrite_canonical (p : Port) (at_ : Nat) (ok void : Bool) (cause : Nat) :
    (s.endWrite p at_ ok void cause).canonical = true := by
  unfold State.endWrite
  grind -linarith only [State.stageScale_canonical, State.voidBuf_canonical, State.voidEntry_canonical,
    State.setLadle_canonical, State.fillGranule_canonical, State.remark_canonical, State.canonical,
    canonical_foldl]

theorem State.setGrants_canonical (r : Nat) (gs : List Grant) : (s.setGrants r gs).canonical = true := h

theorem State.setWaits_canonical (r : Nat) (ws : List LeaveReq) : (s.setWaits r ws).canonical = true := h

theorem State.takeLeave_canonical (c : Cmd) (engine leave : Nat) :
    (s.takeLeave c engine leave).2.canonical = true := by
  unfold State.takeLeave
  grind -linarith only [State.setGrants_canonical, State.setWaits_canonical, State.onCtx_canonical]

theorem State.useLeave_canonical (c : Cmd) (finish : Nat) : (s.useLeave c finish).canonical = true := by
  unfold State.useLeave
  grind -linarith only [State.setGrants_canonical]

theorem State.waitBreach_canonical (i : Issue) (c : Cmd) (loc : BitVec 64) (cycles : Nat) :
    (s.waitBreach i c loc cycles).canonical = true := by
  unfold State.waitBreach
  grind -linarith only [State.breach_canonical]

theorem State.freezeBreaches_canonical (i : Issue) (c : Cmd) (loc : BitVec 64) (fs : Freezes) :
    (s.freezeBreaches i c loc fs).canonical = true := by
  exact List.foldlRecOn (motive := fun x : Nat × State => x.2.canonical = true) fs _ h
    fun x hx f _ => State.breachRun_canonical hx ..

theorem State.takenBy_canonical (p : Port) (fs : Freezes) (cycle : Nat) (gap : Nat := 1) :
    (s.takenBy p fs cycle gap).canonical = true := by
  unfold State.takenBy
  grind -linarith only [State.setActive_canonical, State.canonical]

/-! ### Machine/Array -/

theorem State.setAnvil_canonical (r a : Nat) (x : Anvil) : (s.setAnvil r a x).canonical = true := h

theorem State.countFreeze_canonical (r a lo : Nat) (fs : Freezes) :
    (s.countFreeze r a lo fs).canonical = true := by
  unfold State.countFreeze
  grind -linarith only [State.later_canonical, canonical_foldl]

theorem State.freezeAnvil_canonical (i : Issue) (c : Cmd) (loc : BitVec 64) (fs : Freezes) :
    (s.freezeAnvil i c loc fs).canonical = true := by
  unfold State.freezeAnvil
  grind -linarith only [State.freezeBreaches_canonical, State.setAnvil_canonical, State.voidOuts_canonical,
    State.onCtx_canonical, State.canonical, canonical_foldl]

theorem State.drainChecks_canonical (c : Cmd) (at_ m : Nat) (bad skip : Bool) (want found seq : Nat) :
    (s.drainChecks c at_ m bad skip want found seq).canonical = true := by
  unfold State.drainChecks
  grind -linarith only [State.laters_canonical, State.later_canonical]

theorem State.drainRow_canonical (d : Drain) (at_ : Nat) : (s.drainRow d at_).canonical = true := by
  unfold State.drainRow
  grind -linarith only [State.setAnvil_canonical, State.freezeAnvil_canonical, State.countFreeze_canonical,
    State.drainChecks_canonical, State.eccLater_canonical, canonical_foldl]

theorem State.drainOut_canonical (d : Drain) (n : Nat) (scale : List ScaleBlock) :
    (s.drainOut d n scale).2.canonical = true := by
  unfold State.drainOut
  grind -linarith only [State.give_canonical, State.giveElems_canonical]

theorem State.endDrain_canonical (d : Drain) : (s.endDrain d).canonical = true := by
  unfold State.endDrain
  grind -linarith only [State.scaleSkew_canonical, State.shadowFault_canonical, State.drainOut_canonical,
    State.closeChans_canonical, State.giveFlags_canonical, State.later_canonical, State.endWrite_canonical,
    State.setAnvil_canonical]

theorem State.drainTo_canonical (r a t n : Nat) : (s.drainTo r a t n).canonical = true := by
  induction n generalizing s with
  | zero => exact h
  | succ n ih =>
    unfold State.drainTo
    grind -linarith only [State.drainRow_canonical, State.endDrain_canonical]

theorem State.drainsTo_canonical (t : Nat) : (s.drainsTo t).canonical = true := by
  unfold State.drainsTo
  grind -linarith only [State.drainTo_canonical, canonical_foldl]

theorem State.stopDrain_canonical (k : Nat) (d : Drain) : (s.stopDrain k d).canonical = true := by
  unfold State.stopDrain
  grind -linarith only [State.drainOut_canonical, State.setAnvil_canonical]

/-! ### Machine/Issue -/

theorem State.closeDone_canonical (r l t : Nat) : (s.closeDone r l t).canonical = true := by
  unfold State.closeDone
  grind -linarith only [State.closeStage_canonical, State.setActive_canonical, State.canonical]

theorem State.catchUp_canonical : s.catchUp.canonical = true := by
  unfold State.catchUp
  grind -linarith only [State.closeDone_canonical, State.drainsTo_canonical, canonical_foldl]

omit h in
theorem State.meetStore_canonical {x : Issue × State} (hx : x.2.canonical = true) (c : Cmd) (loc : BitVec 64) :
    (State.meetStore x c loc).2.canonical = true := by
  unfold State.meetStore
  grind -linarith only [State.eccLater_canonical, State.later_canonical]

theorem State.issue_canonical (c : Cmd) (loc : BitVec 64) (free engine : Nat) :
    (s.issue c loc free engine).2.canonical = true := by
  unfold State.issue
  grind -linarith only [State.drainsTo_canonical, State.settleSignals_canonical, State.issueElastic_canonical,
    State.issueData_canonical, State.meetSpine_canonical, State.meetStore_canonical]

/-! ### Machine/Anvil -/

theorem State.readTile_canonical (c : Cmd) (i : Issue) : (s.readTile c i).2.2.canonical = true := by
  unfold State.readTile
  grind -linarith only [State.takeElems_canonical]

theorem State.streamRows_canonical (c : Cmd) (i : Issue) (t : Tile) (m enter : Nat) (extraVoid : Bool)
    (cause : Nat) :
    (s.streamRows c i t m enter extraVoid cause).2.canonical = true := by
  unfold State.streamRows
  grind -linarith only [State.takeElems_canonical, State.eccLater_canonical, canonical_foldl]

theorem State.latchZero_canonical (c : Cmd) (fs : Freezes) (zeros : List (Nat × Nat × Nat)) :
    (s.latchZero c fs zeros).canonical = true := by
  unfold State.latchZero
  grind -linarith only [State.laters_canonical, canonical_foldl]

theorem State.countRows_canonical (c : Cmd) (fs : Freezes) (m d enter : Nat) :
    (s.countRows c fs m d enter).canonical = true := by
  unfold State.countRows
  grind -linarith only [State.later_canonical, canonical_foldl]

theorem State.anvilLoad_canonical (c : Cmd) : (s.anvilLoad c).canonical = true := by
  unfold State.anvilLoad
  grind -linarith only [State.drainsTo_canonical, State.issue_canonical, State.readTile_canonical,
    State.takenBy_canonical, State.freezeAnvil_canonical, State.countFreeze_canonical, State.setAnvil_canonical,
    State.track_canonical]

theorem State.anvilStream_canonical (c : Cmd) : (s.anvilStream c).canonical = true := by
  unfold State.anvilStream
  grind -linarith only [State.drainsTo_canonical, State.takeLeave_canonical, State.issue_canonical,
    State.blockRaise_canonical, State.streamRows_canonical, State.latchZero_canonical, State.takenBy_canonical,
    State.freezeAnvil_canonical, State.countFreeze_canonical, State.setAnvil_canonical,
    State.countRows_canonical, State.useLeave_canonical, State.track_canonical, State.canonical]

theorem State.anvilLoadStream_canonical (c : Cmd) : (s.anvilLoadStream c).canonical = true := by
  unfold State.anvilLoadStream
  grind -linarith only [State.drainsTo_canonical, State.takeLeave_canonical, State.issue_canonical,
    State.readTile_canonical, State.streamRows_canonical, State.latchZero_canonical, State.takenBy_canonical,
    State.freezeAnvil_canonical, State.countFreeze_canonical, State.setAnvil_canonical,
    State.countRows_canonical, State.useLeave_canonical, State.track_canonical, State.canonical]

theorem State.anvilBias_canonical (c : Cmd) : (s.anvilBias c).canonical = true := by
  unfold State.anvilBias
  grind -linarith only [State.drainsTo_canonical, State.issue_canonical, State.take_canonical,
    State.takenBy_canonical, State.freezeAnvil_canonical, State.countFreeze_canonical, State.setAnvil_canonical,
    State.track_canonical]

theorem State.anvilDrain_canonical (c : Cmd) : (s.anvilDrain c).canonical = true := by
  unfold State.anvilDrain
  grind -linarith only [State.drainsTo_canonical, State.issue_canonical, State.voidOuts_canonical,
    State.setAnvil_canonical, State.track_canonical, State.openChans_canonical, State.freezeAnvil_canonical,
    State.countFreeze_canonical]

/-! ### Machine/Clear -/

theorem State.atRegion_canonical (r : Nat) {f : State → State}
    (hf : ∀ s : State, s.canonical = true → (f s).canonical = true) : (s.atRegion r f).canonical = true := by
  unfold State.atRegion
  grind -linarith only [State.catchUp_canonical, State.bump_canonical]

theorem State.unassigned_canonical (m a : Nat) : (s.unassigned m a).canonical = true := by
  unfold State.unassigned
  grind -linarith only [State.bump_canonical, State.raise_canonical]

theorem State.whereFitted_canonical (fitted : Bool) (a : Nat) {f : State → State}
    (hf : ∀ s : State, s.canonical = true → (f s).canonical = true) :
    (s.whereFitted fitted a f).canonical = true := by
  unfold State.whereFitted
  grind -linarith only [State.unassigned_canonical]

theorem State.spnCntclr_canonical : s.spnCntclr.canonical = true := by
  unfold State.spnCntclr
  grind -linarith only [State.zeroRegs_canonical]

theorem State.detClr_canonical : s.detClr.canonical = true := by
  unfold State.detClr
  grind -linarith only [State.zeroRegs_canonical]

theorem State.fmtClr_canonical : s.fmtClr.canonical = true := by
  unfold State.fmtClr
  grind -linarith only [State.zeroRegs_canonical]

theorem State.anvClrLatch_canonical (region unit : Nat) : (s.anvClrLatch region unit).canonical = true := by
  unfold State.anvClrLatch
  grind -linarith only [State.atRegion_canonical, State.zeroRegs_canonical]

theorem State.anvClrCnt_canonical (region unit : Nat) : (s.anvClrCnt region unit).canonical = true := by
  unfold State.anvClrCnt
  grind -linarith only [State.atRegion_canonical, State.zeroRegs_canonical]

theorem State.slcClrLatch_canonical (region : Nat) : (s.slcClrLatch region).canonical = true := by
  unfold State.slcClrLatch
  grind -linarith only [State.atRegion_canonical, State.zeroRegs_canonical]

theorem State.slcClrCnt_canonical (region : Nat) : (s.slcClrCnt region).canonical = true := by
  unfold State.slcClrCnt
  grind -linarith only [State.atRegion_canonical, State.zeroRegs_canonical, State.canonical]

theorem State.grdClr_canonical : s.grdClr.canonical = true := by
  unfold State.grdClr
  grind -linarith only [State.zeroRegs_canonical]

theorem State.swgClr_canonical (region : Nat) : (s.swgClr region).canonical = true := by
  unfold State.swgClr
  grind -linarith only [State.atRegion_canonical, State.zeroRegs_canonical, State.canonical]

theorem State.cruClr_canonical (region : Nat) : (s.cruClr region).canonical = true := by
  unfold State.cruClr
  grind -linarith only [State.atRegion_canonical, State.zeroRegs_canonical]

theorem State.plnClrLatch_canonical (region unit : Nat) : (s.plnClrLatch region unit).canonical = true := by
  unfold State.plnClrLatch
  grind -linarith only [State.atRegion_canonical, State.zeroRegs_canonical]

theorem State.plnClrCnt_canonical (region unit : Nat) : (s.plnClrCnt region unit).canonical = true := by
  unfold State.plnClrCnt
  grind -linarith only [State.atRegion_canonical, State.zeroRegs_canonical]

theorem State.tnkClr_canonical (region unit : Nat) : (s.tnkClr region unit).canonical = true := by
  unfold State.tnkClr
  grind -linarith only [State.atRegion_canonical, State.zeroRegs_canonical]

theorem State.ldlClr_canonical (region unit : Nat) : (s.ldlClr region unit).canonical = true := by
  unfold State.ldlClr
  grind -linarith only [State.atRegion_canonical, State.zeroRegs_canonical, State.setLadle_canonical]

theorem State.spdClr_canonical (region : Nat) : (s.spdClr region).canonical = true := by
  unfold State.spdClr
  grind -linarith only [State.atRegion_canonical, State.zeroRegs_canonical]

theorem State.memClr_canonical : s.memClr.canonical = true := by
  unfold State.memClr
  grind -linarith only [State.atRegion_canonical, State.zeroRegs_canonical]

theorem State.elsClr_canonical : s.elsClr.canonical = true := by
  unfold State.elsClr
  grind -linarith only [State.zeroRegs_canonical]

theorem State.radClr_canonical : s.radClr.canonical = true := by
  unfold State.radClr
  grind -linarith only [State.atRegion_canonical, State.setFld_canonical, State.zeroRegs_canonical,
    State.setReg_canonical, State.canonical]

theorem State.cdcClr_canonical : s.cdcClr.canonical = true := by
  unfold State.cdcClr
  grind -linarith only [State.atRegion_canonical, State.zeroRegs_canonical, State.setFld_canonical]

theorem State.wgtClr_canonical : s.wgtClr.canonical = true := by
  unfold State.wgtClr
  grind -linarith only [State.zeroRegs_canonical]

theorem State.schClr_canonical : s.schClr.canonical = true := by
  unfold State.schClr
  grind -linarith only [State.zeroRegs_canonical]

theorem State.netClr_canonical : s.netClr.canonical = true := by
  unfold State.netClr
  grind -linarith only [State.atRegion_canonical, State.zeroRegs_canonical, State.setReg_canonical,
    State.setFld_canonical, canonical_foldl]

theorem State.fltClr_canonical : s.fltClr.canonical = true := by
  unfold State.fltClr
  grind -linarith only [State.zeroRegs_canonical]

theorem State.lgrClr_canonical : s.lgrClr.canonical = true := by
  unfold State.lgrClr
  grind -linarith only [State.zeroRegs_canonical]

theorem State.twnClr_canonical : s.twnClr.canonical = true := by
  unfold State.twnClr
  grind -linarith only [State.atRegion_canonical, State.zeroRegs_canonical]

theorem State.pwrClr_canonical : s.pwrClr.canonical = true := by
  unfold State.pwrClr
  grind -linarith only [State.setFld_canonical, State.zeroRegs_canonical]

theorem State.clkClr_canonical : s.clkClr.canonical = true := by
  unfold State.clkClr
  grind -linarith only [State.zeroRegs_canonical]

theorem State.secClr_canonical : s.secClr.canonical = true := by
  unfold State.secClr
  grind -linarith only [State.zeroRegs_canonical]

theorem State.mgtClr_canonical : s.mgtClr.canonical = true := by
  unfold State.mgtClr
  grind -linarith only [State.zeroRegs_canonical, State.setFld_canonical]

theorem State.netPrbsClr_canonical : s.netPrbsClr.canonical = true := by
  unfold State.netPrbsClr
  grind -linarith only [State.atRegion_canonical, State.zeroRegs_canonical]

theorem State.radPrbsClr_canonical : s.radPrbsClr.canonical = true := by
  unfold State.radPrbsClr
  grind -linarith only [State.atRegion_canonical, State.setReg_canonical]

theorem State.twnPrbsClr_canonical : s.twnPrbsClr.canonical = true := by
  unfold State.twnPrbsClr
  grind -linarith only [State.atRegion_canonical, State.setReg_canonical]

/-! ### Machine/Crossbar -/

theorem State.retry_canonical (r : Nat) (e : Requester) : (s.retry r e).canonical = true := by
  unfold State.retry
  grind -linarith only [State.setActive_canonical, State.canonical]

theorem State.portClash_canonical (r bank : Nat) (a b : Requester) :
    (s.portClash r bank a b).canonical = true := by
  unfold State.portClash
  grind -linarith only [State.bankCollision_canonical, State.retry_canonical]

/-! ### Machine/Ladle -/

theorem State.copyWhole_canonical (r l : Nat) (t : Stream) : (s.copyWhole r l t).canonical = true := by
  unfold State.copyWhole
  grind -linarith only [State.hallFaults_canonical, State.rangeFaults_canonical, State.ladleErr_canonical,
    State.bump_canonical, State.padEcc_canonical, State.renewWords_canonical, State.putBytes_canonical,
    State.setHallmark_canonical, State.voidBuf_canonical, State.setLadle_canonical, canonical_foldl]

theorem State.copyStaged_canonical (r l : Nat) (t : Stream) : (s.copyStaged r l t).canonical = true := by
  unfold State.copyStaged
  grind -linarith only [State.setActive_canonical, State.takeElems_canonical, State.take_canonical,
    State.giveElems_canonical, State.give_canonical, State.countFlags_canonical, State.endWrite_canonical,
    State.setLadle_canonical]

theorem State.copyNow_canonical (r l : Nat) : (s.copyNow r l).canonical = true := by
  unfold State.copyNow
  grind -linarith only [State.copyWhole_canonical, State.copyStaged_canonical, State.canonical]

theorem State.beginStream_canonical (r l : Nat) (t : Stream) (at_ : Nat) :
    (s.beginStream r l t at_).canonical = true := by
  unfold State.beginStream
  grind -linarith only [State.setActive_canonical, State.copyNow_canonical]

theorem State.endStream_canonical (r l : Nat) : (s.endStream r l).canonical = true := by
  unfold State.endStream
  grind -linarith only [State.closeDone_canonical, State.setActive_canonical, State.signalAt_canonical,
    State.canonical, canonical_foldl]

theorem State.promoteShadow_canonical (r l at_ : Nat) : (s.promoteShadow r l at_).canonical = true := by
  unfold State.promoteShadow
  grind -linarith only [State.setLadle_canonical, State.beginStream_canonical]

theorem State.plantErrors_canonical (r : Nat) (es : List (Nat × Nat)) :
    (s.plantErrors r es).canonical = true := by
  unfold State.plantErrors
  grind -linarith only [State.markWords_canonical]

theorem State.openStage_canonical (c : Cmd) (t : Nat) : (s.openStage c t).2.canonical = true := by
  unfold State.openStage
  grind -linarith only [State.closeDone_canonical, State.openChans_canonical]

theorem State.arm_canonical (c : Cmd) (bank : Option (Nat × Requester)) (spine : Option SpineFault) :
    (s.arm c bank spine).canonical = true := by
  unfold State.arm
  extract_lets +onlyGivenNames r l loc stopping
  split
  · exact State.onCtx_canonical h ..
  extract_lets +onlyGivenNames leave
  split
  next ok s1 e1 =>
  have h1 : s1.canonical = true := by
    grind -linarith only [State.takeLeave_canonical]
  split
  · exact h1
  split
  next i s2 e2 =>
  have h2 : s2.canonical = true := by grind -linarith only [State.issue_canonical]
  split
  · exact h2
  extract_lets +onlyGivenNames s3 s4 buf s5 s6 s7 s8
  have h5 : s5.canonical = true := by
    grind -linarith only [State.plantErrors_canonical, State.spineFault_canonical, State.clearBuf_canonical]
  have h8 : s8.canonical = true := by
    grind -linarith only [State.useLeave_canonical, State.track_canonical, State.voidBuf_canonical]
  clear_value s8
  split
  split
  extract_lets +onlyGivenNames copy listed s9 lost s10
  have h10 : s10.canonical = true := by
    grind -linarith only [State.padEcc_canonical, State.voidBuf_canonical, canonical_foldl]
  clear_value s10
  split
  next stage s11 e11 =>
  have h11 : s11.canonical = true := by grind -linarith only [State.openStage_canonical]
  extract_lets +onlyGivenNames t x busy s12 y s13 s14 s15
  have h12 : s12.canonical = true := by
    grind -linarith only [State.endStream_canonical, State.promoteShadow_canonical]
  have h15 : s15.canonical = true := by
    clear_value s12
    grind -linarith only [State.beginStream_canonical, State.setLadle_canonical, State.ladleErr_canonical,
      State.raise_canonical, State.voidBuf_canonical]
  clear_value s15
  grind -linarith only [State.portClash_canonical]

theorem State.releaseLadle_canonical (r l : Nat) : (s.releaseLadle r l).canonical = true := by
  unfold State.releaseLadle
  grind -linarith only [State.setActive_canonical, State.onCtx_canonical, State.canonical, canonical_foldl]

theorem State.absentReply_canonical (r l offset n discarded : Nat) :
    (s.absentReply r l offset n discarded).canonical = true := by
  unfold State.absentReply
  grind -linarith only [State.bump_canonical, State.ladleErr_canonical, State.voidBuf_canonical,
    State.setActive_canonical]

/-! ### Machine/Elastic -/

theorem State.setDeficit_canonical (r cl : Nat) (d : Int) : (s.setDeficit r cl d).canonical = true := h

theorem State.charge_canonical (r cl n : Nat) : (s.charge r cl n).canonical = true := by
  unfold State.charge
  grind -linarith only [State.setDeficit_canonical]

theorem State.refreshCtx_canonical (r t k : Nat) : (s.refreshCtx r t k).canonical = true := by
  unfold State.refreshCtx
  grind -linarith only [State.onCtx_canonical, State.canonical]

theorem State.endMember_canonical (r k : Nat) (slice : Bool) : (s.endMember r k slice).canonical = true := by
  unfold State.endMember
  grind -linarith only [State.charge_canonical, State.onCtx_canonical, State.bump_canonical, State.canonical]

theorem State.beginMember_canonical (r t k : Nat) : (s.beginMember r t k).canonical = true := by
  unfold State.beginMember
  grind -linarith only [State.onCtx_canonical, State.canonical]

theorem State.fillSet_canonical (r t n : Nat) : (s.fillSet r t n).canonical = true := by
  induction n generalizing s with
  | zero => exact h
  | succ n ih =>
    unfold State.fillSet
    grind -linarith only [State.beginMember_canonical]

theorem State.decision_canonical (r t : Nat) : (s.decision r t).canonical = true := by
  unfold State.decision
  grind -linarith only [State.settleSignals_canonical, State.refreshCtx_canonical, State.endMember_canonical,
    State.fillSet_canonical, canonical_foldl]

theorem State.dropTiles_canonical (r mask : Nat) : (s.dropTiles r mask).canonical = true := by
  unfold State.dropTiles
  grind -linarith only [State.canonical]

theorem State.windowStart_canonical (r start : Nat) : (s.windowStart r start).canonical = true := by
  unfold State.windowStart
  grind -linarith only [State.reach_canonical, State.dropTiles_canonical, State.decision_canonical]

theorem State.sliceEnded_canonical (r k : Nat) : (s.sliceEnded r k).canonical = true := by
  unfold State.sliceEnded
  grind -linarith only [State.reach_canonical, State.endMember_canonical, State.decision_canonical]

theorem State.guardReached_canonical (r k t : Nat) : (s.guardReached r k t).canonical = true := by
  unfold State.guardReached
  grind -linarith only [State.reach_canonical, State.endMember_canonical]

theorem State.moveHalls_canonical (r : Nat) (i : CtxImage) (out : Bool) :
    (s.moveHalls r i out).canonical = true := by
  unfold State.moveHalls
  grind -linarith only [State.setHallmark_canonical, canonical_foldl]

theorem State.saveCtx_canonical (r k : Nat) : (s.saveCtx r k).canonical = true := by
  unfold State.saveCtx
  grind -linarith only [State.drawFor_canonical, State.moveHalls_canonical, State.onCtx_canonical,
    State.canonical, Memories.wf, SMap.writeList_wf]

theorem State.loadRow_canonical (r a row : Nat) (keep : AccRow) (bs : List Byte) :
    (s.loadRow r a row keep bs).canonical = true := h

theorem State.loadTile_canonical (r p tile : Nat) (keep : List PlnRow) (bs : List Byte) :
    (s.loadTile r p tile keep bs).canonical = true := by
  unfold State.loadTile
  grind -linarith only [State.canonical]

theorem State.restoreCtx_canonical (r k slot : Nat) : (s.restoreCtx r k slot).canonical = true := by
  unfold State.restoreCtx
  grind -linarith only [State.loadRow_canonical, State.loadTile_canonical, State.moveHalls_canonical,
    State.onCtx_canonical, State.canonical, canonical_foldl, Memories.wf, SMap.writeList_wf]

theorem State.setSwap_canonical (r : Nat) (x : Option Swapping) : (s.setSwap r x).canonical = true := h

theorem State.startSwap_canonical (r t cycles : Nat) (out : Option Nat) (into : Nat) :
    (s.startSwap r t cycles out into).canonical = true := by
  unfold State.startSwap
  grind -linarith only [State.setSwap_canonical]

theorem State.trySwap_canonical (r t cycles : Nat) : (s.trySwap r t cycles).canonical = true := by
  unfold State.trySwap
  grind -linarith only [State.settleSignals_canonical, State.refreshCtx_canonical, State.reach_canonical,
    State.startSwap_canonical, State.canonical, canonical_foldl]

theorem State.swapComplete_canonical (r : Nat) : (s.swapComplete r).canonical = true := by
  unfold State.swapComplete
  grind -linarith only [State.reach_canonical, State.saveCtx_canonical, State.restoreCtx_canonical,
    State.setSwap_canonical, State.charge_canonical, State.bump_canonical, State.bumpIf_canonical,
    State.decision_canonical, State.canonical]

theorem State.cutCommand_canonical (e : Running) : (s.cutCommand e).canonical = true := by
  unfold State.cutCommand
  grind -linarith only [State.bump_canonical, State.raise_canonical, State.voidOuts_canonical]

theorem State.cutStream_canonical (r l : Nat) : (s.cutStream r l).canonical = true := by
  unfold State.cutStream
  grind -linarith only [State.bump_canonical, State.raise_canonical, State.voidBuf_canonical,
    State.setLadle_canonical, State.canonical]

theorem State.windowCut_canonical (r t : Nat) : (s.windowCut r t).canonical = true := by
  unfold State.windowCut
  grind -linarith only [State.reach_canonical, State.cutCommand_canonical, State.cutStream_canonical,
    State.onCtx_canonical, State.endMember_canonical, State.bump_canonical, State.raise_canonical,
    State.setSwap_canonical, State.canonical, canonical_foldl]

theorem State.sequenceEntry_canonical (r index cycles : Nat) :
    (s.sequenceEntry r index cycles).canonical = true := by
  unfold State.sequenceEntry
  grind -linarith only [State.reach_canonical, State.raise_canonical, State.startSwap_canonical,
    State.onCtx_canonical, State.canonical]

/-! ### Machine/Tinker -/

theorem State.setTinker_canonical (r t : Nat) (x : Tinker) : (s.setTinker r t x).canonical = true := h

theorem State.tinkerCheck_canonical (c : Cmd) (t : Nat) : (s.tinkerCheck c t).canonical = true := by
  unfold State.tinkerCheck
  grind -linarith only [State.laters_canonical]

theorem State.tinkerRun_canonical (c : Cmd) (always : Bool) (need dur : Nat)
    {effect : Nat → State → List Byte → List Byte × State}
    (hf : ∀ (t : Nat) (s : State) (bs : List Byte), s.canonical = true → (effect t s bs).2.canonical = true) :
    (s.tinkerRun c always need dur effect).canonical = true := by
  unfold State.tinkerRun
  grind -linarith only [State.issue_canonical, State.voidOuts_canonical, State.setTinker_canonical,
    State.track_canonical, State.take_canonical, State.later_canonical, State.tinkerCheck_canonical,
    State.eccReads_canonical, State.waitBreach_canonical, State.give_canonical, State.endWrite_canonical]

theorem State.tinkerDesc_canonical (c : Cmd) : (s.tinkerDesc c).canonical = true := by
  unfold State.tinkerDesc
  grind -linarith only [State.tinkerRun_canonical]

theorem State.tinkerLookup_canonical (c : Cmd) : (s.tinkerLookup c).canonical = true := by
  unfold State.tinkerLookup
  grind -linarith only [State.tinkerRun_canonical, State.later_canonical]

theorem State.tinkerSort_canonical (c : Cmd) : (s.tinkerSort c).canonical = true := by
  unfold State.tinkerSort
  grind -linarith only [State.tinkerRun_canonical]

theorem State.tinkerSelect_canonical (c : Cmd) : (s.tinkerSelect c).canonical = true := by
  unfold State.tinkerSelect
  grind -linarith only [State.tinkerRun_canonical]

theorem State.tinkerPack_canonical (c : Cmd) : (s.tinkerPack c).canonical = true := by
  unfold State.tinkerPack
  grind -linarith only [State.tinkerRun_canonical]

theorem State.tinkerCrc_canonical (c : Cmd) : (s.tinkerCrc c).canonical = true := by
  unfold State.tinkerCrc
  grind -linarith only [State.tinkerRun_canonical]

theorem State.tinkerScramble_canonical (c : Cmd) : (s.tinkerScramble c).canonical = true := by
  unfold State.tinkerScramble
  grind -linarith only [State.tinkerRun_canonical]

theorem State.seekBlock_canonical (p : Port) (k : Nat) : (s.seekBlock p k).canonical = true := by
  unfold State.seekBlock
  grind -linarith only [State.setLadle_canonical, State.canonical]

theorem State.closeBatch_canonical (c : Cmd) : (s.closeBatch c).canonical = true := by
  unfold State.closeBatch
  grind -linarith only [State.seekBlock_canonical, State.give_canonical, State.setTinker_canonical]

theorem State.appendBatch_canonical (c : Cmd) (at_ : Nat) (v : List Byte) :
    (s.appendBatch c at_ v).canonical = true := by
  unfold State.appendBatch
  grind -linarith only [State.setTinker_canonical, State.later_canonical, State.closeBatch_canonical]

theorem State.tinkerBatch_canonical (c : Cmd) : (s.tinkerBatch c).canonical = true := by
  unfold State.tinkerBatch
  grind -linarith only [State.tinkerRun_canonical, State.appendBatch_canonical, State.later_canonical,
    State.closeBatch_canonical, canonical_foldl]

theorem State.tinkerFill_canonical (c : Cmd) : (s.tinkerFill c).canonical = true := by
  unfold State.tinkerFill
  grind -linarith only [State.tinkerRun_canonical, State.later_canonical, State.drawFor_canonical,
    State.bumpIf_canonical]

/-! ### Machine/Transfer -/

theorem State.readPad_canonical (u : Unit_) (r a n : Nat) : (s.readPad u r a n).2.canonical = true := by
  unfold State.readPad
  grind -linarith only [State.blockRaise_canonical, State.bump_canonical, State.padEcc_canonical,
    canonical_foldl]

theorem State.writePad_canonical (r a : Nat) (bs : List Byte) (ok : Bool) :
    (s.writePad r a bs ok).canonical = true := by
  unfold State.writePad
  grind -linarith only [State.bump_canonical, State.renewWords_canonical, State.putBytes_canonical,
    State.fillGranule_canonical, State.remark_canonical, canonical_foldl]

theorem State.putBeside_canonical (r buf : Nat) (x : Beside) : (s.putBeside r buf x).canonical = true := by
  unfold State.putBeside
  grind -linarith only [State.canonical, Memories.wf, SMap.write_wf]

/-! ### Machine/Code -/

theorem State.freshBits_canonical (elastic : Bool) (n : Nat) :
    (s.freshBits elastic n).2.canonical = true := by
  unfold State.freshBits
  grind -linarith only [State.drawFor_canonical]

theorem State.readRecord_canonical (u : Unit_) (w : Word) : (s.readRecord u w).2.2.canonical = true := by
  unfold State.readRecord
  grind -linarith only [State.readPad_canonical]

theorem State.softWrite_canonical (r : CodeRec) (i : Nat) (xs : List Int) :
    (s.softWrite r i xs).canonical = true := by
  unfold State.softWrite
  grind -linarith only [State.remark_canonical, State.canonical, canonical_foldl, Memories.wf,
    SMap.writeList_wf]

theorem State.codeEnd_canonical (c : Cmd) (i : Issue) (finish : Nat) (void : Bool) (cause : Nat) :
    (s.codeEnd c i finish void cause).canonical = true := by
  unfold State.codeEnd
  grind -linarith only [State.voidOuts_canonical, State.signalAt_canonical, State.track_canonical,
    canonical_foldl]

theorem State.codeRun_canonical (c : Cmd) (heavy : Bool)
    {effect : State → Issue → CodeRec → Bool → Option (List Byte) × Option Nat × State}
    (hf : ∀ (s : State) (i : Issue) (r : CodeRec) (vin : Bool), s.canonical = true →
      (effect s i r vin).2.2.canonical = true) :
    (s.codeRun c heavy effect).canonical = true := by
  unfold State.codeRun
  grind -linarith only [State.takeLeave_canonical, State.issue_canonical, State.clearBuf_canonical,
    State.readRecord_canonical, State.useLeave_canonical, State.codeEnd_canonical, State.later_canonical,
    State.blockRaise_canonical, State.eccReads_canonical, State.writePad_canonical]

theorem State.codeInput_canonical (c : Cmd) (n : Nat) : (s.codeInput c n).2.canonical = true := by
  unfold State.codeInput
  grind -linarith only [State.readPad_canonical]

theorem State.ldec_canonical (c : Cmd) : (s.ldec c).canonical = true := by
  unfold State.ldec
  grind -linarith only [State.codeRun_canonical, State.codeInput_canonical, State.later_canonical,
    State.bump_canonical, State.softWrite_canonical, State.laters_canonical, State.canonical, canonical_foldl]

theorem State.lenc_canonical (c : Cmd) : (s.lenc c).canonical = true := by
  unfold State.lenc
  grind -linarith only [State.codeRun_canonical, State.codeInput_canonical]

theorem State.pdec_canonical (c : Cmd) : (s.pdec c).canonical = true := by
  unfold State.pdec
  grind -linarith only [State.codeRun_canonical, State.codeInput_canonical]

theorem State.penc_canonical (c : Cmd) : (s.penc c).canonical = true := by
  unfold State.penc
  grind -linarith only [State.codeRun_canonical, State.codeInput_canonical]

theorem State.tbseg_canonical (c : Cmd) : (s.tbseg c).canonical = true := by
  unfold State.tbseg
  grind -linarith only [State.codeRun_canonical, State.codeInput_canonical, State.freshBits_canonical]

theorem State.tbchk_canonical (c : Cmd) : (s.tbchk c).canonical = true := by
  unfold State.tbchk
  grind -linarith only [State.codeRun_canonical, State.codeInput_canonical, State.later_canonical,
    State.freshBits_canonical]

theorem State.request_canonical (c : Cmd) (ws : List Word) (bad : Bool) :
    (s.request c ws bad).canonical = true := by
  unfold State.request
  grind -linarith only [State.bump_canonical, State.voidBuf_canonical, State.canonical]

theorem State.tinkerReenc_canonical (c : Cmd) : (s.tinkerReenc c).canonical = true := by
  unfold State.tinkerReenc
  grind -linarith only [State.tinkerRun_canonical, State.readPad_canonical, State.request_canonical]

theorem State.reEncoding_canonical (unit cycle : Nat) : (s.reEncoding unit cycle).canonical = true := by
  unfold State.reEncoding
  grind -linarith only [State.reach_canonical, State.clearBuf_canonical, State.readPad_canonical,
    State.freshBits_canonical, State.writePad_canonical, State.voidBuf_canonical, State.signalAt_canonical,
    State.canonical]

/-! ### Machine/Switch -/

theorem State.dropStaged_canonical (r : Nat) : (s.dropStaged r).canonical = true := h

theorem State.imageRegion_canonical (r : Nat) : (s.imageRegion r).canonical = true := by
  unfold State.imageRegion
  grind -linarith only [State.canonical, SMap.writeAll_wf, SMap.drop_wf]

theorem State.clearRegion_canonical (r : Nat) (keep : Nat → Bool) : (s.clearRegion r keep).canonical = true := by
  unfold State.clearRegion
  grind -linarith only [State.canonical, Memories.wf, SMap.drop_wf, SMap.nil_wf, State.dropStaged_canonical,
    State.imageRegion_canonical]

theorem State.setDomains_canonical (r : Nat) (on : Bool) : (s.setDomains r on).canonical = true := by
  unfold State.setDomains
  grind -linarith only [State.setBit_canonical, canonical_foldl]

theorem State.regionOff_canonical (r : Nat) : (s.regionOff r).canonical = true := by
  unfold State.regionOff
  grind -linarith only [State.closeGate_canonical, State.clearRegion_canonical, State.setDomains_canonical]

theorem State.trimUnused_canonical : s.trimUnused.canonical = true := by
  unfold State.trimUnused
  grind -linarith only [State.regionOff_canonical, State.canonical, canonical_foldl]

theorem State.showPeriod_canonical : s.showPeriod.canonical = true := by
  unfold State.showPeriod
  grind -linarith only [State.setFld_canonical]

theorem State.showPlan_canonical (f : Nat) : (s.showPlan f).canonical = true := by
  unfold State.showPlan
  grind -linarith only [State.showPeriod_canonical, State.setFld_canonical]

theorem State.install_canonical (v cause n f : Nat) : (s.install v cause n f).canonical = true := by
  unfold State.install
  grind -linarith only [State.loadTables_canonical, State.setFld_canonical, State.setReg_canonical,
    State.bump_canonical, State.raise_canonical, State.abortWhere_canonical, State.trimUnused_canonical,
    State.canonical]

theorem State.setVariant_canonical (v : Nat) : (s.setVariant v).canonical = true := by
  unfold State.setVariant
  grind -linarith only [State.setFld_canonical, State.showPeriod_canonical]

theorem State.installNow_canonical (v : Nat) : (s.installNow v).canonical = true := by
  unfold State.installNow
  grind -linarith only [State.install_canonical, State.showPlan_canonical]

/-! ### Machine/Slicer -/

theorem State.setSlicer_canonical (r : Nat) (x : Slicer) : (s.setSlicer r x).canonical = true := h

theorem State.slicerFreeze_canonical (i : Issue) (c : Cmd) (fs : Freezes) :
    (s.slicerFreeze i c fs).canonical = true := by
  unfold State.slicerFreeze
  grind -linarith only [State.later_canonical, State.freezeBreaches_canonical, canonical_foldl]

theorem State.slicerVload_canonical (c : Cmd) : (s.slicerVload c).canonical = true := by
  unfold State.slicerVload
  grind -linarith only [State.issue_canonical, State.setSlicer_canonical, State.track_canonical,
    State.takeElems_canonical, State.slicerFreeze_canonical]

theorem State.slicerZero_canonical (r t : Nat) (e : Option (Nat × Nat × Nat)) :
    (s.slicerZero r t e).canonical = true := by
  unfold State.slicerZero
  grind -linarith only [State.laters_canonical]

theorem State.freeExps_canonical (elastic : Bool) (f : Fmt) (count : Nat) :
    (s.freeExps elastic f count).2.canonical = true := by
  unfold State.freeExps
  grind -linarith only [State.drawFor_canonical]

theorem State.slicerSweep_canonical (c : Cmd) : (s.slicerSweep c).canonical = true := by
  unfold State.slicerSweep
  grind -linarith only [State.takeLeave_canonical, State.issue_canonical, State.bump_canonical,
    State.blockRaise_canonical, State.freeExps_canonical, State.slicerFreeze_canonical,
    State.slicerZero_canonical, State.eccReads_canonical, State.setReg_canonical, State.setSlicer_canonical,
    State.useLeave_canonical, State.track_canonical, State.canonical, canonical_foldl]

theorem State.giveRaw_canonical (p : Port) (es : List (BitVec 128)) (value : BitVec 128 → FVal) :
    (s.giveRaw p es value).canonical = true := by
  unfold State.giveRaw
  grind -linarith only [State.giveStaged_canonical, State.give_canonical, State.canonical]

theorem State.slicerSout_canonical (c : Cmd) : (s.slicerSout c).canonical = true := by
  unfold State.slicerSout
  grind -linarith only [State.issue_canonical, State.voidOuts_canonical, State.setSlicer_canonical,
    State.track_canonical, State.laters_canonical, State.later_canonical, State.eccReads_canonical,
    State.slicerFreeze_canonical, State.giveRaw_canonical, State.giveFlags_canonical, State.endWrite_canonical,
    canonical_foldl]

/-! ### Machine/Gradient -/

theorem State.setSwage_canonical (r : Nat) (x : Swage) : (s.setSwage r x).canonical = true := h

theorem State.swageEmit_canonical (r buf : Nat) : (s.swageEmit r buf).canonical = true := by
  unfold State.swageEmit
  grind -linarith only [State.reach_canonical, State.laters_canonical, State.eccLater_canonical,
    State.setReg_canonical, State.giveElems_canonical, State.giveFlags_canonical, State.later_canonical,
    State.endWrite_canonical, State.setSwage_canonical, canonical_foldl]

theorem State.takeTiles_canonical (p : Port) (n : Nat) : (s.takeTiles p n).2.2.canonical = true := by
  unfold State.takeTiles
  grind -linarith only [State.onStream_canonical, State.take_canonical]

theorem State.swageTranspose_canonical (c : Cmd) : (s.swageTranspose c).canonical = true := by
  unfold State.swageTranspose
  grind -linarith only [State.issue_canonical, State.swageEmit_canonical, State.voidOuts_canonical,
    State.track_canonical, State.takeTiles_canonical, State.take_canonical, State.takenBy_canonical,
    State.later_canonical, State.waitBreach_canonical, State.setSwage_canonical]

theorem State.setCrucible_canonical (r : Nat) (x : Crucible) : (s.setCrucible r x).canonical = true := h

theorem State.crucibleErrors_canonical (c : Cmd) (t : Nat) : (s.crucibleErrors c t).2.canonical = true := by
  unfold State.crucibleErrors
  grind -linarith only [State.eccCells_canonical]

theorem State.crucibleRefuse_canonical (c : Cmd) (i : Issue) (outs : List (Nat × Nat)) :
    (s.crucibleRefuse c i outs).canonical = true := by
  unfold State.crucibleRefuse
  grind -linarith only [State.blockRaise_canonical, State.voidOuts_canonical, State.setCrucible_canonical,
    State.track_canonical]

theorem State.crucibleOpen_canonical (c : Cmd) : (s.crucibleOpen c).canonical = true := by
  unfold State.crucibleOpen
  grind -linarith only [State.issue_canonical, State.crucibleRefuse_canonical, State.setCrucible_canonical,
    State.track_canonical]

theorem State.takeBlocks_canonical (p : Port) : (s.takeBlocks p).2.2.canonical = true := by
  unfold State.takeBlocks
  grind -linarith only [State.take_canonical]

theorem State.padShifts_canonical (n : Nat) (xs : List Int) : (s.padShifts n xs).2.canonical = true := by
  unfold State.padShifts
  grind -linarith only [State.drawFor_canonical]

theorem State.crucibleAccum_canonical (c : Cmd) : (s.crucibleAccum c).canonical = true := by
  unfold State.crucibleAccum
  grind -linarith only [State.issue_canonical, State.crucibleRefuse_canonical, State.setCrucible_canonical,
    State.track_canonical, State.takeBlocks_canonical, State.scaleSkew_canonical, State.breach_canonical,
    State.padShifts_canonical, State.take_canonical, State.takenBy_canonical, State.waitBreach_canonical,
    State.crucibleErrors_canonical, State.laters_canonical, State.later_canonical]

theorem State.crucibleFlush_canonical (c : Cmd) : (s.crucibleFlush c).canonical = true := by
  unfold State.crucibleFlush
  grind -linarith only [State.issue_canonical, State.crucibleRefuse_canonical, State.later_canonical,
    State.crucibleErrors_canonical, State.waitBreach_canonical, State.giveElems_canonical,
    State.giveRaw_canonical, State.giveFlags_canonical, State.endWrite_canonical, State.setCrucible_canonical,
    State.track_canonical, State.canonical]

/-! ### Machine/Planisher -/

theorem State.setPlanisher_canonical (r p : Nat) (x : Planisher) :
    (s.setPlanisher r p x).canonical = true := h

theorem State.planIssue_canonical (c : Cmd) (arith : Bool) (reads writes : List Nat) :
    (s.planIssue c arith reads writes).2.canonical = true := by
  unfold State.planIssue
  grind -linarith only [State.issue_canonical]

theorem State.witness_canonical (c : Cmd) (t : Nat) : (s.witness c t).2.canonical = true := by
  unfold State.witness
  grind -linarith only [State.laters_canonical]

theorem State.planZero_canonical (c : Cmd) (tile t : Nat) (e : Option (Nat × Nat)) :
    (s.planZero c tile t e).canonical = true := by
  unfold State.planZero
  grind -linarith only [State.later_canonical]

theorem State.planFlags_canonical (c : Cmd) (t : Nat) (fs : List (Nat × FlagWord)) :
    (s.planFlags c t fs).canonical = true := by
  unfold State.planFlags
  grind -linarith only [State.laters_canonical]

theorem State.planCycles_canonical (c : Cmd) (strict : Bool) (t n : Nat) :
    (s.planCycles c strict t n).canonical = true := by
  unfold State.planCycles
  grind -linarith only [State.laters_canonical, State.later_canonical]

theorem State.planTload_canonical (c : Cmd) : (s.planTload c).canonical = true := by
  unfold State.planTload
  grind -linarith only [State.planIssue_canonical, State.track_canonical, State.takeElems_canonical,
    State.takenBy_canonical, State.scaleSkew_canonical, State.shadowFault_canonical,
    State.freezeBreaches_canonical, State.setPlanisher_canonical, State.planFlags_canonical,
    State.later_canonical]

theorem State.planTstore_canonical (c : Cmd) : (s.planTstore c).canonical = true := by
  unfold State.planTstore
  grind -linarith only [State.planIssue_canonical, State.voidOuts_canonical, State.track_canonical,
    State.openChans_canonical, State.freezeBreaches_canonical, State.shadowFault_canonical,
    State.eccReads_canonical, State.giveElems_canonical, State.closeChans_canonical, State.giveFlags_canonical,
    State.planFlags_canonical, State.later_canonical, State.endWrite_canonical, State.setPlanisher_canonical]

theorem State.planEwise_canonical (c : Cmd) : (s.planEwise c).canonical = true := by
  unfold State.planEwise
  grind -linarith only [State.planIssue_canonical, State.track_canonical, State.witness_canonical,
    State.eccReads_canonical, State.setPlanisher_canonical, State.planFlags_canonical, State.planZero_canonical,
    State.planCycles_canonical]

theorem State.planReduce_canonical (c : Cmd) : (s.planReduce c).canonical = true := by
  unfold State.planReduce
  grind -linarith only [State.planIssue_canonical, State.setPlanisher_canonical, State.track_canonical,
    State.witness_canonical, State.eccReads_canonical, State.planFlags_canonical, State.planZero_canonical,
    State.planCycles_canonical]

/-! ### Machine/Weights -/

theorem State.setStandby_canonical (v : Nat) : (s.setStandby v).canonical = true := by
  unfold State.setStandby
  grind -linarith only [State.setFld_canonical]

theorem State.hbmPut_canonical (a : Nat) (bs : List Byte) : (s.hbmPut a bs).canonical = true := by
  unfold State.hbmPut
  grind -linarith only [State.remark_canonical, State.canonical, canonical_foldl, Memories.wf,
    SMap.writeList_wf]

theorem State.fillStandby_canonical (src : Nat) : (s.fillStandby src).canonical = true := by
  unfold State.fillStandby
  grind -linarith only [State.hbmPut_canonical]

theorem State.abortStale_canonical : s.abortStale.canonical = true := by
  unfold State.abortStale
  grind -linarith only [State.abortWhere_canonical, State.bump_canonical]

theorem State.closeTensors_canonical : s.closeTensors.canonical = true := by
  unfold State.closeTensors
  grind -linarith only [State.setCrucible_canonical, canonical_foldl]

theorem State.abortTraining_canonical : s.abortTraining.canonical = true := by
  unfold State.abortTraining
  grind -linarith only [State.closeTensors_canonical, State.canonical]

theorem State.promote_canonical : s.promote.canonical = true := by
  unfold State.promote
  grind -linarith only [State.setReg_canonical, State.bump_canonical, State.abortStale_canonical,
    State.abortTraining_canonical]

theorem State.revert_canonical : s.revert.canonical = true := by
  unfold State.revert
  grind -linarith only [State.abortWhere_canonical, State.setStandby_canonical, State.abortTraining_canonical]

theorem State.promoteRow_canonical : s.promoteRow.canonical = true := by
  unfold State.promoteRow
  grind -linarith only [State.setBit_canonical, State.promote_canonical]

theorem State.revertRow_canonical : s.revertRow.canonical = true := by
  unfold State.revertRow
  grind -linarith only [State.setBit_canonical, State.revert_canonical]

theorem State.revertCopied_canonical : s.revertCopied.canonical = true := by
  unfold State.revertCopied
  grind -linarith only [State.fillStandby_canonical, State.setStandby_canonical, State.canonical]

theorem State.seeded_canonical : s.seeded.canonical = true := by
  unfold State.seeded
  grind -linarith only [State.fillStandby_canonical, State.setStandby_canonical, State.canonical]

theorem State.updateTensor_canonical (n : Nat) (t : WeightTensor) :
    (s.updateTensor n t).canonical = true := by
  unfold State.updateTensor
  grind -linarith only [State.hbmPut_canonical, State.bump_canonical]

theorem State.trainingStep_canonical : s.trainingStep.canonical = true := by
  unfold State.trainingStep
  grind -linarith only [State.updateTensor_canonical, State.closeTensors_canonical, State.canonical,
    canonical_foldl]

theorem State.tasterEpoch_canonical : s.tasterEpoch.canonical = true := by
  unfold State.tasterEpoch
  grind -linarith only [State.setStandby_canonical, State.canonical]

theorem State.tasterDecision_canonical (n eAct eCand eCls voids : Nat) :
    (s.tasterDecision n eAct eCand eCls voids).canonical = true := by
  unfold State.tasterDecision
  grind -linarith only [State.setReg_canonical, State.bump_canonical, State.raiseIf_canonical,
    State.revert_canonical, State.setStandby_canonical, State.canonical]

theorem State.historyReset_canonical (region unit chan : Nat) :
    (s.historyReset region unit chan).canonical = true := by
  unfold State.historyReset
  grind -linarith only [State.setBit_canonical, State.setChan_canonical]

theorem State.stageChannel_canonical (zp : Bool) (value : Nat) :
    (s.stageChannel zp value).canonical = true := by
  unfold State.stageChannel
  grind -linarith only [State.setBit_canonical, State.canonical]

/-! ### Machine/Twin -/

theorem State.setTwinState_canonical (v : Nat) : (s.setTwinState v).canonical = true := by
  unfold State.setTwinState
  grind -linarith only [State.setFld_canonical]

theorem State.setLive_canonical (b : Bool) : (s.setLive b).canonical = true := by
  unfold State.setLive
  grind -linarith only [State.setBit_canonical]

theorem State.notify_canonical (k : Notice) (slot : Nat) : (s.notify k slot).canonical = true := h

theorem State.stopPlane_canonical : s.stopPlane.canonical = true := h

theorem State.issueSwitu_canonical (c : Cmd) : (s.issueSwitu c).2.canonical = true := by
  unfold State.issueSwitu
  grind -linarith only [State.issue_canonical]

theorem State.send_canonical (c : Cmd) : (s.send c).canonical = true := by
  unfold State.send
  grind -linarith only [State.issueSwitu_canonical, State.track_canonical, State.bump_canonical,
    State.eccReads_canonical, State.blockRaise_canonical, State.voidBuf_canonical, State.breachAt_canonical,
    State.canonical, canonical_foldl]

theorem State.putGranule_canonical (g : Nat × Nat) (bs : List Byte) (h1 : Word) :
    (s.putGranule g bs h1).canonical = true := by
  unfold State.putGranule
  grind -linarith only [State.setHallmark_canonical, State.canonical, Memories.wf, SMap.writeList_wf]

theorem State.recv_canonical (c : Cmd) : (s.recv c).canonical = true := by
  unfold State.recv
  grind -linarith only [State.issueSwitu_canonical, State.bump_canonical, State.raise_canonical,
    State.blockRaise_canonical, State.putGranule_canonical, State.voidOuts_canonical, State.signalAt_canonical,
    State.track_canonical, State.canonical, canonical_foldl]

theorem State.partnerLost_canonical (row : Nat) : (s.partnerLost row).canonical = true := by
  unfold State.partnerLost
  grind -linarith only [State.canonical]

theorem State.superframe_canonical (t : Nat) (m : Marker) (gs : List Granule) :
    (s.superframe t m gs).canonical = true := by
  unfold State.superframe
  grind -linarith only [State.reach_canonical, State.setFld_canonical, State.partnerLost_canonical,
    State.canonical]

theorem State.switDown_canonical (lanes : Nat) : (s.switDown lanes).canonical = true := by
  unfold State.switDown
  grind -linarith only [State.setBit_canonical, State.bump_canonical, State.raiseIf_canonical,
    State.partnerLost_canonical]

theorem State.twinPeerFall_canonical (byMarker : Bool) : (s.twinPeerFall byMarker).canonical = true := by
  unfold State.twinPeerFall
  grind -linarith only [State.setBit_canonical, State.partnerLost_canonical, State.canonical]

theorem State.formDigest_canonical : s.formDigest.canonical = true := by
  unfold State.formDigest
  grind -linarith only [State.canonical]

theorem State.digestSend_canonical : s.digestSend.canonical = true := by
  unfold State.digestSend
  grind -linarith only [State.setReg_canonical, State.canonical]

theorem State.digestArrived_canonical (d : SlotDigest) : (s.digestArrived d).canonical = true := by
  unfold State.digestArrived
  grind -linarith only [State.setReg_canonical, State.canonical]

theorem State.suspectSlot_canonical : s.suspectSlot.canonical = true := by
  unfold State.suspectSlot
  grind -linarith only [State.suspectEntry_canonical, canonical_foldl]

theorem State.digestCompare_canonical : s.digestCompare.canonical = true := by
  unfold State.digestCompare
  grind -linarith only [State.setReg_canonical, State.setBit_canonical, State.bump_canonical,
    State.raise_canonical, State.suspectSlot_canonical, State.canonical]

theorem State.exchangeRoles_canonical : s.exchangeRoles.canonical = true := by
  unfold State.exchangeRoles
  grind -linarith only [State.setLive_canonical, State.installNow_canonical, State.canonical]

theorem State.roleSwap_canonical : s.roleSwap.canonical = true := by
  unfold State.roleSwap
  grind -linarith only [State.exchangeRoles_canonical, State.canonical]

theorem State.takeOver_canonical (v : Nat) : (s.takeOver v).canonical = true := by
  unfold State.takeOver
  grind -linarith only [State.setLive_canonical, State.installNow_canonical, State.bump_canonical,
    State.raise_canonical]

theorem State.actOnLoss_canonical (row : Nat) : (s.actOnLoss row).canonical = true := by
  unfold State.actOnLoss
  grind -linarith only [State.setTwinState_canonical, State.setBit_canonical, State.stopPlane_canonical,
    State.takeOver_canonical, State.canonical]

theorem State.takeover_canonical : s.takeover.canonical = true := by
  unfold State.takeover
  split
  · exact h
  split
  · extract_lets slots
    split
    · exact State.raise_canonical (State.actOnLoss_canonical h _) ..
    · exact h
  · repeat' split
    exacts [State.actOnLoss_canonical h _, h, h]

theorem State.swapRoles_canonical : s.swapRoles.canonical = true := by
  unfold State.swapRoles
  grind -linarith only [State.setBit_canonical, State.exchangeRoles_canonical]

theorem State.hello_canonical (h1 : Hello) : (s.hello h1).canonical = true := by
  unfold State.hello
  grind -linarith only [State.raise_canonical, State.setTwinState_canonical, State.setBit_canonical,
    State.notify_canonical, State.setLive_canonical, State.canonical]

theorem State.transferNotice_canonical (e : Nat) : (s.transferNotice e).canonical = true := by
  unfold State.transferNotice
  grind -linarith only [State.canonical]

theorem State.transferStart_canonical : s.transferStart.canonical = true := by
  unfold State.transferStart
  grind -linarith only [State.setTwinState_canonical, State.abortWhere_canonical, State.setStandby_canonical,
    State.installNow_canonical, State.setReg_canonical, State.canonical]

theorem State.bulkComplete_canonical : s.bulkComplete.canonical = true := by
  unfold State.bulkComplete
  grind -linarith only [State.notify_canonical, State.canonical]

theorem State.joinNotice_canonical (j : Nat) : (s.joinNotice j).canonical = true := by
  unfold State.joinNotice
  grind -linarith only [State.canonical]

theorem State.takeTransferred_canonical (x : Transferred) : (s.takeTransferred x).canonical = true := by
  unfold State.takeTransferred
  grind -linarith only [State.canonical, SMap.write_wf, SMap.foldl_wf]

theorem State.join_canonical (x : Transferred) : (s.join x).canonical = true := by
  unfold State.join
  grind -linarith only [State.takeTransferred_canonical, State.setReg_canonical, State.setTwinState_canonical,
    State.setVariant_canonical, State.installNow_canonical, State.canonical]

theorem State.swapNotice_canonical (n : Nat) : (s.swapNotice n).canonical = true := by
  unfold State.swapNotice
  grind -linarith only [State.canonical]

theorem State.detachNotice_canonical (n : Nat) : (s.detachNotice n).canonical = true := by
  unfold State.detachNotice
  grind -linarith only [State.canonical]

theorem State.endAttach_canonical : s.endAttach.canonical = true := by
  unfold State.endAttach
  grind -linarith only [State.raise_canonical, State.setTwinState_canonical, State.installNow_canonical,
    State.canonical]

theorem State.abortNotice_canonical : s.abortNotice.canonical = true := by
  unfold State.abortNotice
  grind -linarith only [State.endAttach_canonical]

theorem State.attachAborted_canonical : s.attachAborted.canonical = true := by
  unfold State.attachAborted
  grind -linarith only [State.endAttach_canonical, State.notify_canonical]

theorem State.attach_canonical : s.attach.canonical = true := by
  unfold State.attach
  grind -linarith only [State.setBit_canonical, State.setTwinState_canonical, State.canonical]

theorem State.detach_canonical : s.detach.canonical = true := by
  unfold State.detach
  grind -linarith only [State.setBit_canonical, State.notify_canonical, State.canonical]

theorem State.depart_canonical : s.depart.canonical = true := by
  unfold State.depart
  grind -linarith only [State.setTwinState_canonical, State.stopPlane_canonical, State.canonical]

/-! ### Machine/Power -/

theorem State.setPowerState_canonical (v : Nat) : (s.setPowerState v).canonical = true := by
  unfold State.setPowerState
  grind -linarith only [State.setFld_canonical]

theorem State.takeRequest_canonical (k : Nat) {f : State → State}
    (hf : ∀ s : State, s.canonical = true → (f s).canonical = true) :
    (s.takeRequest k f).canonical = true := by
  unfold State.takeRequest
  grind -linarith only [State.canonical]

theorem State.grantWaiting_canonical (r t : Nat) (ws : List LeaveReq) :
    (s.grantWaiting r t ws).canonical = true := by
  induction ws generalizing s with
  | nil => exact State.setWaits_canonical h ..
  | cons w ws ih =>
    unfold State.grantWaiting
    grind -linarith only [State.setGrants_canonical, State.bump_canonical, State.onCtx_canonical,
      State.setWaits_canonical]

theorem State.leaveGrant_canonical (r t : Nat) : (s.leaveGrant r t).canonical = true := by
  unfold State.leaveGrant
  grind -linarith only [State.reach_canonical, State.grantWaiting_canonical]

theorem State.setTemp_canonical (sensor temp : Nat) (warn : Bool) :
    (s.setTemp sensor temp warn).canonical = true := by
  unfold State.setTemp
  grind -linarith only [State.setReg_canonical]

theorem State.overTemp_canonical (sensor temp : Nat) : (s.overTemp sensor temp).canonical = true := by
  unfold State.overTemp
  grind -linarith only [State.setTemp_canonical, State.raise_canonical]

theorem State.thermalTrip_canonical (sensor temp : Nat) : (s.thermalTrip sensor temp).canonical = true := by
  unfold State.thermalTrip
  grind -linarith only [State.setTemp_canonical, State.raise_canonical, State.canonical]

theorem State.tempFallen_canonical (sensor temp : Nat) : (s.tempFallen sensor temp).canonical = true := by
  unfold State.tempFallen
  grind -linarith only [State.setTemp_canonical, State.leaveGrant_canonical, canonical_foldl]

theorem State.tripOff_canonical : s.tripOff.canonical = true := by
  unfold State.tripOff
  grind -linarith only [State.regionOff_canonical, State.setBit_canonical, State.canonical, canonical_foldl]

theorem State.pllLost_canonical (d : Nat) : (s.pllLost d).canonical = true := by
  unfold State.pllLost
  grind -linarith only [State.setFld_canonical, State.setBit_canonical, State.bump_canonical,
    State.raise_canonical, State.canonical]

theorem State.pllRelock_canonical (d : Nat) : (s.pllRelock d).canonical = true := h

theorem State.takeRegion_canonical (act : Nat) {f : Nat → State → State}
    (hf : ∀ (r : Nat) (s : State), s.canonical = true → (f r s).canonical = true) :
    (s.takeRegion act f).canonical = true := by
  unfold State.takeRegion
  grind -linarith only [State.setFld_canonical]

theorem State.regionReset_canonical : s.regionReset.canonical = true := by
  unfold State.regionReset
  grind -linarith only [State.takeRegion_canonical, State.closeGate_canonical, State.clearRegion_canonical,
    State.canonical]

theorem State.regionDown_canonical : s.regionDown.canonical = true := by
  unfold State.regionDown
  grind -linarith only [State.takeRegion_canonical, State.regionOff_canonical]

theorem State.regionUp_canonical : s.regionUp.canonical = true := by
  unfold State.regionUp
  grind -linarith only [State.takeRegion_canonical, State.canonical]

theorem State.openGates_canonical : s.openGates.canonical = true := by
  unfold State.openGates
  grind -linarith only [State.setBit_canonical, State.setPowerState_canonical, State.canonical, canonical_foldl]

theorem State.runRequest_canonical : s.runRequest.canonical = true := by
  unfold State.runRequest
  grind -linarith only [State.takeRequest_canonical, State.setPowerState_canonical, State.canonical]

theorem State.trimRequest_canonical : s.trimRequest.canonical = true := by
  unfold State.trimRequest
  grind -linarith only [State.takeRequest_canonical, State.trimUnused_canonical, State.setPowerState_canonical]

theorem State.doze_canonical : s.doze.canonical = true := by
  unfold State.doze
  grind -linarith only [State.takeRequest_canonical, State.abortWhere_canonical, State.voidRegion_canonical,
    State.stopPlane_canonical, State.closeGate_canonical, State.clearRegion_canonical,
    State.setDomains_canonical, State.setPowerState_canonical, State.canonical, canonical_foldl]

theorem State.keep_canonical : s.keep.canonical = true := by
  unfold State.keep
  refine State.takeRequest_canonical h 3 fun s hs => ?_
  split
  · exact hs
  extract_lets +onlyGivenNames now regs _ s1 s2 _ s3 s4 s5
  have h1 : s1.canonical = true := hs
  have h2 : s2.canonical = true := canonical_foldl (fun s r hs => State.regionOff_canonical hs r) h1 _
  clear_value s2
  have h3 : s3.canonical = true := by grind -linarith only [State.canonical, Memories.wf, SMap.nil_wf]
  have h5 : s5.canonical = true := State.setFld_canonical
    (State.setPowerState_canonical (State.setReg_canonical h3 ..) _) ..
  clear_value s5 s3
  grind -linarith only [State.canonical, State.wakeSource_canonical]

theorem State.wakeN_canonical : s.wakeN.canonical = true := by
  unfold State.wakeN
  grind -linarith only [State.wakeSource_canonical, State.canonical]

theorem State.wakeNow_canonical : s.wakeNow.canonical = true := by
  unfold State.wakeNow
  grind -linarith only [State.wakeSource_canonical]

theorem State.wakeTimeout_canonical (region : Option Nat) : (s.wakeTimeout region).canonical = true := by
  unfold State.wakeTimeout
  grind -linarith only [State.raise_canonical, State.setDomains_canonical, State.canonical, canonical_foldl]

/-! ### Machine/Commit -/

theorem State.stage_canonical (k : Nat) (mask val : Word) : (s.stage k mask val).canonical = true := h

theorem State.judgeGroup_canonical (g : Nat) : (s.judgeGroup g).canonical = true := by
  unfold State.judgeGroup
  grind -linarith only [State.setBit_canonical, State.bump_canonical, State.setReg_canonical,
    State.raise_canonical, State.notify_canonical, State.canonical]

theorem State.doCommit_canonical (mask : Nat) : (s.doCommit mask).canonical = true := by
  unfold State.doCommit
  grind -linarith only [State.zeroRegs_canonical, State.judgeGroup_canonical, State.announce_canonical,
    canonical_foldl]

theorem State.discard_canonical (mask : Nat) : (s.discard mask).canonical = true := h

theorem State.applyOne_canonical (a : Accepted) : (s.applyOne a).canonical = true := by
  unfold State.applyOne
  grind -linarith only [State.setReg_canonical, State.canonical]

theorem State.applyCommits_canonical (n : Nat) : (s.applyCommits n).canonical = true := by
  unfold State.applyCommits
  grind -linarith only [State.applyOne_canonical, State.setFld_canonical, State.canonical, canonical_foldl]

/-! ### Machine/Faults -/

theorem State.popRecord_canonical : s.popRecord.canonical = true := h

theorem State.closeLedger_canonical : s.closeLedger.canonical = true := by
  unfold State.closeLedger
  grind -linarith only [State.setReg_canonical, State.canonical]

theorem State.clearOldest_canonical : s.clearOldest.canonical = true := h

theorem State.writeExtract_canonical : s.writeExtract.canonical = true := by
  unfold State.writeExtract
  grind -linarith only [State.bumpIf_canonical, State.bump_canonical, State.renewWords_canonical,
    State.remark_canonical, State.complete_canonical, State.canonical, canonical_foldl, Memories.wf,
    SMap.writeList_wf]

theorem State.lockstep_canonical (block : Nat) (action : Bool) :
    (s.lockstep block action).canonical = true := by
  unfold State.lockstep
  grind -linarith only [State.raise_canonical, State.canonical]

theorem State.selfTest_canonical (done : Bool) (fail : Option Nat) (checker : Option Nat) :
    (s.selfTest done fail checker).canonical = true := by
  unfold State.selfTest
  grind -linarith only [State.bumpIf_canonical, State.bump_canonical, State.raise_canonical,
    State.fenceFault_canonical, State.canonical]

/-! ### Machine/Hbm -/

theorem State.tableParity_canonical (stack : Nat) : (s.tableParity stack).canonical = true := by
  unfold State.tableParity
  grind -linarith only [State.bump_canonical, State.raise_canonical]

theorem State.hbmEcc_canonical (n : Nat) (es : List (Nat × Bool)) : (s.hbmEcc n es).canonical = true := by
  unfold State.hbmEcc
  grind -linarith only [State.bump_canonical, State.setReg_canonical, State.eccRecord_canonical,
    canonical_foldl]

theorem State.loseUnits_canonical (n : Nat) (es : List (Nat × Bool)) :
    (s.loseUnits n es).canonical = true := by
  unfold State.loseUnits
  grind -linarith only [State.drawFor_canonical, State.setHallmark_canonical, State.canonical, canonical_foldl,
    Memories.wf, SMap.writeList_wf]

theorem State.voidStream_canonical (r l : Nat) (t : Stream) (cause : Nat) :
    (s.voidStream r l t cause).canonical = true := by
  unfold State.voidStream
  grind -linarith only [State.voidBuf_canonical, State.setActive_canonical]

theorem State.stripeBreach_canonical (r l : Nat) (t : Stream) (sslot late : Nat) :
    (s.stripeBreach r l t sslot late).canonical = true := by
  unfold State.stripeBreach
  grind -linarith only [State.breach_canonical]

theorem State.countLate_canonical (ctx : Option Nat) : (s.countLate ctx).canonical = true := by
  unfold State.countLate
  grind -linarith only [State.bump_canonical]

theorem State.afterRead_canonical (r l : Nat) : (s.afterRead r l).canonical = true := by
  unfold State.afterRead
  grind -linarith only [State.copyNow_canonical, State.canonical]

theorem State.landStripe_canonical (t : Stream) (n : Nat) (bs : List Byte) :
    (s.landStripe t n bs).canonical = true := by
  unfold State.landStripe
  grind -linarith only [State.setHallmark_canonical, State.remark_canonical, State.canonical, canonical_foldl,
    Memories.wf, SMap.writeList_wf]

theorem State.moveStripe_canonical (stack r l idx t_ : Nat) (write : Bool) (ecc : List (Nat × Bool)) :
    (s.moveStripe stack r l idx t_ write ecc).canonical = true := by
  unfold State.moveStripe
  grind -linarith only [State.hbmEcc_canonical, State.voidStream_canonical, State.bump_canonical,
    State.landStripe_canonical, State.loseUnits_canonical, State.setActive_canonical, State.afterRead_canonical,
    State.canonical]

theorem State.missStripe_canonical (r l idx sslot : Nat) (write : Bool) :
    (s.missStripe r l idx sslot write).canonical = true := by
  unfold State.missStripe
  grind -linarith only [State.stripeBreach_canonical, State.countLate_canonical, State.voidStream_canonical,
    State.setActive_canonical, State.afterRead_canonical, State.canonical]

theorem State.skipStripe_canonical (r l idx cause : Nat) (write : Bool) :
    (s.skipStripe r l idx cause write).canonical = true := by
  unfold State.skipStripe
  grind -linarith only [State.voidStream_canonical, State.setActive_canonical, State.afterRead_canonical,
    State.canonical]

theorem State.absentVoid_canonical (r l : Nat) (t : Stream) (idx : Nat) (write : Bool) :
    (s.absentVoid r l t idx write).canonical = true := by
  unfold State.absentVoid
  grind -linarith only [State.voidStream_canonical, State.setActive_canonical, State.afterRead_canonical]

theorem State.absentStripe_canonical (r l : Nat) (idx : Option Nat) (write : Bool) :
    (s.absentStripe r l idx write).canonical = true := by
  unfold State.absentStripe
  grind -linarith only [State.bumpIf_canonical, State.ladleErr_canonical, State.absentVoid_canonical]

theorem State.hbmStripe_canonical (stack sslot region ladle : Nat) (write : Bool) (ecc : List (Nat × Bool)) :
    (s.hbmStripe stack sslot region ladle write ecc).canonical = true := by
  unfold State.hbmStripe
  extract_lets +onlyGivenNames ws stream
  split
  · exact h
  extract_lets +onlyGivenNames idx
  split
  · exact State.absentStripe_canonical h ..
  split
  · exact h
  extract_lets +onlyGivenNames s1 s2
  have h2 : s2.canonical = true := by
    grind -linarith only [State.reach_canonical, State.tableParity_canonical]
  clear_value stream idx s2
  split
  · extract_lets +onlyGivenNames n
    clear_value n
    split_ifs <;> grind -linarith only [State.canonical, State.skipStripe_canonical, State.missStripe_canonical,
      State.stripeBreach_canonical, State.voidStream_canonical, State.moveStripe_canonical]
  · grind -linarith only [State.hbmEcc_canonical, State.bump_canonical]

theorem State.delayedStripe_canonical (stack sslot : Nat) :
    (s.delayedStripe stack sslot).canonical = true := by
  unfold State.delayedStripe
  grind -linarith only [State.reach_canonical, State.moveStripe_canonical, State.countLate_canonical,
    State.voidStream_canonical, State.setActive_canonical, State.afterRead_canonical, State.canonical]

theorem State.refreshEntry_canonical (stack sslot : Nat) : (s.refreshEntry stack sslot).canonical = true := by
  unfold State.refreshEntry
  grind -linarith only [State.reach_canonical, State.tableParity_canonical, State.setFld_canonical,
    State.canonical]

theorem State.hbmTemperature_canonical (stack temp rating : Nat) :
    (s.hbmTemperature stack temp rating).canonical = true := by
  unfold State.hbmTemperature
  grind -linarith only [State.setFld_canonical, State.setBit_canonical, State.raiseIf_canonical]

theorem State.scrub_canonical (r bank : Nat) (found : List (Nat × Nat)) :
    (s.scrub r bank found).canonical = true := by
  unfold State.scrub
  grind -linarith only [State.markWords_canonical, State.padEcc_canonical, State.bump_canonical,
    State.canonical, canonical_foldl, Memories.wf, SMap.write_wf]

/-! ### Machine/Net -/

theorem State.inNet_canonical {f : State → State}
    (hf : ∀ s : State, s.canonical = true → (f s).canonical = true) : (s.inNet f).canonical = true := by
  unfold State.inNet
  grind -linarith only

theorem State.enqueue_canonical (p : Nat) (x : Sent) : (s.enqueue p x).canonical = true := h

theorem State.putSent_canonical (p : Nat) (xs : List Sent) : (s.putSent p xs).canonical = true := by
  unfold State.putSent
  grind -linarith only [State.canonical]

theorem State.ethernetFrame_canonical (p : Nat) (f : EthFrame) : (s.ethernetFrame p f).canonical = true := by
  unfold State.ethernetFrame
  grind -linarith only [State.inNet_canonical, State.bump_canonical, State.bumpIf_canonical, State.canonical]

theorem State.arpRequest_canonical (mac ip target : Nat) : (s.arpRequest mac ip target).canonical = true := by
  unfold State.arpRequest
  grind -linarith only [State.inNet_canonical, State.enqueue_canonical]

theorem State.neighbourSolicitation_canonical (mac ip target : Nat) :
    (s.neighbourSolicitation mac ip target).canonical = true := by
  unfold State.neighbourSolicitation
  grind -linarith only [State.inNet_canonical, State.enqueue_canonical]

theorem State.ethernetLinkDown_canonical (p : Nat) : (s.ethernetLinkDown p).canonical = true := by
  unfold State.ethernetLinkDown
  grind -linarith only [State.inNet_canonical, State.setBit_canonical]

theorem State.esmcPdu_canonical (p ql : Nat) : (s.esmcPdu p ql).canonical = true := by
  unfold State.esmcPdu
  grind -linarith only [State.inNet_canonical, State.setFld_canonical]

theorem State.esmcTimeout_canonical : s.esmcTimeout.canonical = true := by
  unfold State.esmcTimeout
  grind -linarith only [State.inNet_canonical, State.setFld_canonical]

theorem State.sendEsmc_canonical (event : Bool) : (s.sendEsmc event).canonical = true := by
  unfold State.sendEsmc
  grind -linarith only [State.inNet_canonical, State.enqueue_canonical, canonical_foldl]

theorem State.uPlaneSection_canonical (t : Nat) (x : USection) : (s.uPlaneSection t x).canonical = true := by
  unfold State.uPlaneSection
  grind -linarith only [State.inNet_canonical, State.reach_canonical, State.bump_canonical, State.canonical]

theorem State.issueNet_canonical (c : Cmd) : (s.issueNet c).2.canonical = true := by
  unfold State.issueNet
  grind -linarith only [State.issue_canonical]

theorem State.packetErrors_canonical (c : Cmd) (t : Nat) : (s.packetErrors c t).2.canonical = true := by
  unfold State.packetErrors
  grind -linarith only [State.eccLater_canonical, canonical_foldl]

theorem State.uprx_canonical (c : Cmd) : (s.uprx c).canonical = true := by
  unfold State.uprx
  grind -linarith only [State.issueNet_canonical, State.bump_canonical, State.packetErrors_canonical,
    State.shadowFault_canonical, State.writePad_canonical, State.laters_canonical, State.countFlags_canonical,
    State.putBeside_canonical, State.voidOuts_canonical, State.signalAt_canonical, State.track_canonical,
    canonical_foldl]

theorem State.voidSource_canonical (c : Cmd) : (s.voidSource c).canonical = true := by
  unfold State.voidSource
  grind -linarith only [State.voidBuf_canonical]

theorem State.uptx_canonical (c : Cmd) : (s.uptx c).canonical = true := by
  unfold State.uptx
  grind -linarith only [State.issueNet_canonical, State.readPad_canonical, State.voidSource_canonical,
    State.draw_canonical, State.shadowFault_canonical, State.orFlags_canonical, State.putSent_canonical,
    State.track_canonical]

theorem State.cptx_canonical (c : Cmd) : (s.cptx c).canonical = true := by
  unfold State.cptx
  grind -linarith only [State.issueNet_canonical, State.readPad_canonical, State.voidSource_canonical,
    State.bump_canonical, State.putSent_canonical, State.track_canonical]

theorem State.datagramAt_canonical (c : Cmd) (void : Bool) (r a : Nat) :
    (s.datagramAt c void r a).2.canonical = true := by
  unfold State.datagramAt
  grind -linarith only [State.readPad_canonical, State.voidSource_canonical, State.putSent_canonical,
    State.canonical]

theorem State.datagrams_canonical (c : Cmd) (void : Bool) (r a n : Nat) :
    (s.datagrams c void r a n).2.canonical = true := by
  induction n generalizing s a with
  | zero => exact h
  | succ n ih =>
    unfold State.datagrams
    grind -linarith only [State.datagramAt_canonical]

theorem State.l2tx_canonical (c : Cmd) : (s.l2tx c).canonical = true := by
  unfold State.l2tx
  grind -linarith only [State.issueNet_canonical, State.putSent_canonical, State.datagrams_canonical,
    State.track_canonical]

theorem State.l2Message_canonical (m : L2Msg) : (s.l2Message m).canonical = true := by
  unfold State.l2Message
  grind -linarith only [State.inNet_canonical, State.bump_canonical, State.canonical]

theorem State.l2rx_canonical (c : Cmd) : (s.l2rx c).canonical = true := by
  unfold State.l2rx
  grind -linarith only [State.issueNet_canonical, State.bump_canonical, State.voidEntry_canonical,
    State.packetErrors_canonical, State.writePad_canonical, State.voidOuts_canonical, State.signalAt_canonical,
    State.track_canonical, State.canonical, canonical_foldl]

theorem State.faultMessage_canonical : s.faultMessage.canonical = true := by
  unfold State.faultMessage
  grind -linarith only [State.inNet_canonical, State.enqueue_canonical, State.canonical]

/-! ### Machine/Transform -/

theorem State.teWrite_canonical (k : Nat) (w : Word) : (s.teWrite k w).canonical = true := by
  unfold State.teWrite
  grind -linarith only [State.canonical, Memories.wf, SMap.write_wf]

theorem State.teMark_canonical (g : Nat) : (s.teMark g).canonical = true := by
  unfold State.teMark
  grind -linarith only [State.canonical, Memories.wf, SMap.write_wf]

theorem State.teSetVoid_canonical (g cause : Nat) : (s.teSetVoid g cause).canonical = true := by
  unfold State.teSetVoid
  grind -linarith only [State.canonical, Memories.wf, SMap.write_wf]

theorem State.teWriteAll_canonical (es : List (Nat × Word)) : (s.teWriteAll es).canonical = true := by
  induction es generalizing s with
  | nil => exact h
  | cons e es ih => exact ih (State.teWrite_canonical h e.1 e.2)

theorem State.teTake_canonical (t : Nat) (ks : List Nat) : (s.teTake t ks).2.canonical = true := by
  unfold State.teTake
  grind -linarith only [State.blockRaise_canonical, canonical_foldl]

theorem State.issueTe_canonical (c : Cmd) : (s.issueTe c).2.canonical = true := by
  unfold State.issueTe
  grind -linarith only [State.issue_canonical]

theorem State.teBusy_canonical (t finish cycles : Nat) : (s.teBusy t finish cycles).canonical = true := by
  unfold State.teBusy
  grind -linarith only [State.later_canonical]

theorem State.trailer_canonical (c : Cmd) (be : Nat) : (s.trailer c be).2.canonical = true := by
  unfold State.trailer
  grind -linarith only [State.draw_canonical]

theorem State.stageOut_canonical (c : Cmd) (vs : List (FVal × FVal)) (t finish : Nat) :
    (s.stageOut c vs t finish).2.2.canonical = true := by
  unfold State.stageOut
  grind -linarith only [State.openChans_canonical, State.closeChans_canonical]

theorem State.teNothing_canonical (c : Cmd) (i : Issue) (region buf : Nat) :
    (s.teNothing c i region buf).canonical = true := by
  unfold State.teNothing
  grind -linarith only [State.voidBuf_canonical, State.signalAt_canonical, State.track_canonical]

theorem State.teEnd_canonical (c : Cmd) (i : Issue) (r buf : Nat) (beside : Beside) (be : Option Nat)
    (cause finish : Nat) :
    (s.teEnd c i r buf beside be cause finish).canonical = true := by
  unfold State.teEnd
  grind -linarith only [State.laters_canonical, State.later_canonical, State.countFlags_canonical,
    State.putBeside_canonical, State.voidBuf_canonical, State.signalAt_canonical, State.teBusy_canonical,
    State.track_canonical]

theorem State.teChecks_canonical (c : Cmd) (i : Issue) (src : Source) (finish : Nat) :
    (s.teChecks c i src finish).2.canonical = true := by
  unfold State.teChecks
  grind -linarith only [State.eccCells_canonical, State.shadowFault_canonical]

theorem State.teDeliver_canonical (c : Cmd) (i : Issue) (src : Source) (bs : List Byte) (beside : Beside)
    (be : Option Nat) (finish : Nat) :
    (s.teDeliver c i src bs beside be finish).canonical = true := by
  unfold State.teDeliver
  grind -linarith only [State.teChecks_canonical, State.writePad_canonical, State.teEnd_canonical]

theorem State.fft_canonical (c : Cmd) : (s.fft c).canonical = true := by
  unfold State.fft
  grind -linarith only [State.issueTe_canonical, State.teNothing_canonical, State.teTake_canonical,
    State.teWriteAll_canonical, State.stageOut_canonical, State.trailer_canonical, State.teDeliver_canonical]

theorem State.fir_canonical (c : Cmd) : (s.fir c).canonical = true := by
  unfold State.fir
  grind -linarith only [State.issueTe_canonical, State.teNothing_canonical, State.teTake_canonical,
    State.stageOut_canonical, State.teDeliver_canonical]

theorem State.ringWrite_canonical (t : Nat) (ch : RadioChan) (n j : Nat) (xs : List Pair) (cause : Nat) :
    (s.ringWrite t ch n j xs cause).canonical = true := by
  unfold State.ringWrite
  grind -linarith only [State.teWriteAll_canonical, State.teMark_canonical, State.teSetVoid_canonical,
    canonical_foldl]

theorem State.ifft_canonical (c : Cmd) : (s.ifft c).canonical = true := by
  unfold State.ifft
  grind -linarith only [State.issueTe_canonical, State.teNothing_canonical, State.teTake_canonical,
    State.teWriteAll_canonical, State.teChecks_canonical, State.ringWrite_canonical, State.teEnd_canonical,
    State.canonical]

theorem State.fetch_canonical (c : Cmd) : (s.fetch c).canonical = true := by
  unfold State.fetch
  grind -linarith only [State.issueTe_canonical, State.readPad_canonical, State.teWriteAll_canonical,
    State.teMark_canonical, State.teSetVoid_canonical, State.teBusy_canonical, State.track_canonical,
    canonical_foldl]

/-! ### Machine/Radio -/

theorem State.onRadio_canonical {f : State → State}
    (hf : ∀ s : State, s.canonical = true → (f s).canonical = true) : (s.onRadio f).canonical = true := by
  unfold State.onRadio
  grind -linarith only

theorem State.setLane_canonical (l : Nat) (x : SteerLane) : (s.setLane l x).canonical = true := h

theorem State.setLoop_canonical (l : Nat) (x : GainLoop) : (s.setLoop l x).canonical = true := h

theorem State.queueWord_canonical (w : SteerWord) : (s.queueWord w).2.canonical = true := by
  unfold State.queueWord
  grind -linarith only [State.bump_canonical, State.raise_canonical, State.setLane_canonical,
    State.setFld_canonical]

theorem State.dropGainWord_canonical (w : SteerWord) : (s.dropGainWord w).canonical = true := by
  unfold State.dropGainWord
  grind -linarith only [State.setLoop_canonical]

theorem State.laneFrame_canonical (k fin l : Nat) : (s.laneFrame k fin l).canonical = true := by
  unfold State.laneFrame
  grind -linarith only [State.setLane_canonical, State.bump_canonical, State.raise_canonical,
    State.dropGainWord_canonical, State.bumpIf_canonical, State.canonical, canonical_foldl]

theorem State.checkLooped_canonical : s.checkLooped.canonical = true := by
  unfold State.checkLooped
  grind -linarith only [State.bump_canonical, State.canonical]

theorem State.steeringFrame_canonical (k : Nat) : (s.steeringFrame k).canonical = true := by
  unfold State.steeringFrame
  grind -linarith only [State.reach_canonical, State.checkLooped_canonical, State.laneFrame_canonical,
    canonical_foldl]

theorem State.addDelta_canonical (n : Nat) (v : Int) : (s.addDelta n v).canonical = true := by
  unfold State.addDelta
  grind -linarith only [State.setReg_canonical]

theorem State.addToff_canonical (n : Nat) (v : Int) : (s.addToff n v).canonical = true := by
  unfold State.addToff
  grind -linarith only [State.setFld_canonical]

theorem State.settleSteps_canonical (n kind t : Nat) : (s.settleSteps n kind t).canonical = true := by
  unfold State.settleSteps
  grind -linarith only [State.addDelta_canonical, State.addToff_canonical, State.canonical, canonical_foldl]

theorem State.steerRecord_canonical (w0 w1 w2 : Word) : (s.steerRecord w0 w1 w2).canonical = true := by
  unfold State.steerRecord
  grind -linarith only [State.bump_canonical, State.addDelta_canonical, State.addToff_canonical,
    State.queueWord_canonical, State.canonical]

theorem State.steer_canonical (c : Cmd) : (s.steer c).canonical = true := by
  unfold State.steer
  grind -linarith only [State.issueTe_canonical, State.teTake_canonical, State.steerRecord_canonical,
    State.teBusy_canonical, State.track_canonical, canonical_foldl]

theorem State.ncoPhase_canonical (n a : Nat) : (s.ncoPhase n a).2.canonical = true := h

theorem State.mixPart_canonical (v : Int) : (s.mixPart v).2.canonical = true := by
  unfold State.mixPart
  grind -linarith only [State.draw_canonical]

theorem State.mix_canonical (ch : RadioChan) (slot j : Nat) (p : Pair) (rx : Bool) :
    (s.mix ch slot j p rx).2.canonical = true := by
  unfold State.mix
  grind -linarith only [State.settleSteps_canonical, State.ncoPhase_canonical, State.mixPart_canonical,
    State.canonical]

theorem State.enterData_canonical (tx : Bool) (n : Nat) : (s.enterData tx n).canonical = true := by
  unfold State.enterData
  grind -linarith only [State.setFld_canonical]

theorem State.detect_canonical (c : Nat) (p : Pair) : (s.detect c p).canonical = true := by
  unfold State.detect
  grind -linarith only [State.setLoop_canonical]

theorem State.receiveSample_canonical (c slot j re im : Nat) :
    (s.receiveSample c slot j re im).canonical = true := by
  unfold State.receiveSample
  grind -linarith only [State.reach_canonical, State.mix_canonical, State.detect_canonical,
    State.teWrite_canonical, State.teSetVoid_canonical, State.teMark_canonical]

theorem State.transmitSample_canonical (c slot j buf : Nat) :
    (s.transmitSample c slot j buf).canonical = true := by
  unfold State.transmitSample
  grind -linarith only [State.reach_canonical, State.bump_canonical, State.breach_canonical,
    State.voidBuf_canonical, State.blockRaise_canonical, State.mix_canonical, State.canonical]

theorem State.voidSamples_canonical (link slot j n cause : Nat) :
    (s.voidSamples link slot j n cause).canonical = true := by
  unfold State.voidSamples
  grind -linarith only [State.teSetVoid_canonical, canonical_foldl]

theorem State.linkCrc_canonical (link slot j n : Nat) : (s.linkCrc link slot j n).canonical = true := by
  unfold State.linkCrc
  grind -linarith only [State.voidSamples_canonical, State.bump_canonical, State.raiseIf_canonical]

theorem State.linkDown_canonical (tx : Bool) (link : Nat) (elastic : Bool) :
    (s.linkDown tx link elastic).canonical = true := by
  unfold State.linkDown
  grind -linarith only [State.setFld_canonical, State.bump_canonical, State.raiseIf_canonical]

theorem State.relock_canonical (tx : Bool) (link : Nat) : (s.relock tx link).canonical = true := by
  unfold State.relock
  grind -linarith only [State.setFld_canonical, State.bump_canonical]

theorem State.sysrefEdge_canonical (off : Bool) (t : Nat) : (s.sysrefEdge off t).canonical = true := by
  unfold State.sysrefEdge
  grind -linarith only [State.wrapAdd_canonical, State.setBit_canonical, State.enterData_canonical,
    State.setFld_canonical, State.bump_canonical, State.raise_canonical, State.canonical, canonical_foldl]

theorem State.withdraw_canonical (l t : Nat) : (s.withdraw l t).canonical = true := by
  unfold State.withdraw
  grind -linarith only [State.setLane_canonical, State.dropGainWord_canonical, State.bump_canonical,
    canonical_foldl]

theorem State.freeze_canonical (l t until_ : Nat) : (s.freeze l t until_).canonical = true := by
  unfold State.freeze
  grind -linarith only [State.withdraw_canonical, State.setLoop_canonical]

theorem State.queueGain_canonical (l att time : Nat) (frozen : Bool) :
    (s.queueGain l att time frozen).canonical = true := by
  unfold State.queueGain
  grind -linarith only [State.setLane_canonical, State.dropGainWord_canonical, State.queueWord_canonical,
    State.bump_canonical, State.setLoop_canonical, canonical_foldl]

theorem State.gainWindow_canonical (l : Nat) : (s.gainWindow l).canonical = true := by
  unfold State.gainWindow
  grind -linarith only [State.setLoop_canonical, State.setFld_canonical, State.queueGain_canonical,
    State.bump_canonical]

theorem State.applyGain_canonical (l t : Nat) : (s.applyGain l t).canonical = true := by
  unfold State.applyGain
  grind -linarith only [State.setLoop_canonical, State.setFld_canonical]

theorem State.freezeEnd_canonical (l t : Nat) : (s.freezeEnd l t).canonical = true := by
  unfold State.freezeEnd
  grind -linarith only [State.setLoop_canonical]

theorem State.loopSymbol_canonical (l k : Nat) : (s.loopSymbol l k).canonical = true := by
  unfold State.loopSymbol
  grind -linarith only [State.applyGain_canonical, State.setLoop_canonical, State.freeze_canonical,
    State.withdraw_canonical, State.setFld_canonical, State.canonical, canonical_foldl]

theorem State.symbolTick_canonical (k : Nat) : (s.symbolTick k).canonical = true := by
  unfold State.symbolTick
  grind -linarith only [State.reach_canonical, State.onRadio_canonical, State.settleSteps_canonical,
    State.loopSymbol_canonical, State.enterData_canonical, canonical_foldl]

theorem State.ncoClear_canonical (n : Nat) : (s.ncoClear n).canonical = true := by
  unfold State.ncoClear
  grind -linarith only [State.zeroRegs_canonical, State.setBit_canonical]

/-! ### Machine/TimeUnit -/

theorem State.setSlave_canonical (x : Slave) : (s.setSlave x).canonical = true := h

theorem State.setTuState_canonical (v : Nat) : (s.setTuState v).canonical = true := by
  unfold State.setTuState
  grind -linarith only [State.setFld_canonical]

theorem State.nsWord_canonical (o : Int) : (s.nsWord o).2.canonical = true := by
  unfold State.nsWord
  grind -linarith only [State.fresh_canonical]

theorem State.setPend_canonical (o : Int) : (s.setPend o).canonical = true := by
  unfold State.setPend
  grind -linarith only [State.nsWord_canonical, State.setReg_canonical, State.setSlave_canonical]

theorem State.clearPend_canonical : s.clearPend.canonical = true := by
  unfold State.clearPend
  grind -linarith only [State.setReg_canonical, State.setBit_canonical, State.setSlave_canonical]

theorem State.offsetMeasured_canonical (o : Int) : (s.offsetMeasured o).canonical = true := by
  unfold State.offsetMeasured
  grind -linarith only [State.nsWord_canonical, State.setReg_canonical, State.setSlave_canonical,
    State.setTuState_canonical, State.setBit_canonical, State.setPend_canonical, State.raise_canonical,
    State.clearPend_canonical, State.fresh_canonical, State.canonical]

theorem State.announceHeard_canonical (d : MasterSet) : (s.announceHeard d).canonical = true := by
  unfold State.announceHeard
  grind -linarith only [State.setSlave_canonical, State.setTuState_canonical, State.canonical]

theorem State.slaveSync_canonical (m : PtpMsg) (ingress : Nat) :
    (s.slaveSync m ingress).canonical = true := by
  unfold State.slaveSync
  grind -linarith only [State.setTuState_canonical, State.setSlave_canonical, State.enqueue_canonical]

theorem State.slaveFollowUp_canonical (m : PtpMsg) : (s.slaveFollowUp m).canonical = true := by
  unfold State.slaveFollowUp
  grind -linarith only [State.setSlave_canonical, State.canonical]

theorem State.slaveResponse_canonical (m : PtpMsg) : (s.slaveResponse m).canonical = true := by
  unfold State.slaveResponse
  grind -linarith only [State.setSlave_canonical, State.offsetMeasured_canonical]

theorem State.ptpArrival_canonical (p : Nat) (m : PtpMsg) (stamp : Nat) {slave : Nat → State → State}
    (hf : ∀ (n : Nat) (s : State), s.canonical = true → (slave n s).canonical = true) :
    (s.ptpArrival p m stamp slave).canonical = true := by
  unfold State.ptpArrival
  grind -linarith only [State.inNet_canonical, State.bump_canonical, State.enqueue_canonical, canonical_foldl]

theorem State.followUpTimeout_canonical (seq src : Nat) : (s.followUpTimeout seq src).canonical = true := by
  unfold State.followUpTimeout
  grind -linarith only [State.inNet_canonical, State.bump_canonical, State.canonical]

theorem State.syncMissed_canonical : s.syncMissed.canonical = true := by
  unfold State.syncMissed
  grind -linarith only [State.setSlave_canonical, State.setTuState_canonical]

theorem State.leave_canonical (p egress : Nat) (x : Sent) : (s.leave p egress x).2.canonical = true := by
  unfold State.leave
  grind -linarith only [State.setSlave_canonical, State.canonical]

theorem State.nonPlanned_canonical (p t stamp : Nat) : (s.nonPlanned p t stamp).canonical = true := by
  unfold State.nonPlanned
  grind -linarith only [State.inNet_canonical, State.reach_canonical, State.leave_canonical,
    State.putSent_canonical, State.canonical]

theorem State.fire_canonical (n : Nat) (late : Bool) : (s.fire n late).canonical = true := by
  unfold State.fire
  grind -linarith only [State.wrapAdd_canonical, State.setBit_canonical, State.setReg_canonical,
    State.setFld_canonical, State.canonical]

theorem State.triggerArm_canonical (n : Nat) (value : Word) : (s.triggerArm n value).canonical = true := by
  unfold State.triggerArm
  extract_lets +onlyGivenNames s1 t d
  have h1 : s1.canonical = true := State.setReg_canonical h ..
  clear_value t d
  split
  · exact h1
  split
  · exact State.setBit_canonical (State.setBit_canonical h1 ..) ..
  split
  · exact State.fire_canonical h1 ..
  · exact h1

theorem State.triggerFire_canonical (n t : Nat) : (s.triggerFire n t).canonical = true := by
  unfold State.triggerFire
  grind -linarith only [State.reach_canonical, State.fire_canonical]

theorem State.capture_canonical (n source stamp : Nat) : (s.capture n source stamp).canonical = true := by
  unfold State.capture
  grind -linarith only [State.bump_canonical, State.setReg_canonical, State.setFld_canonical]

theorem State.timeRead_canonical : s.timeRead.canonical = true := by
  unfold State.timeRead
  grind -linarith only [State.setReg_canonical]

theorem State.timeStep_canonical : s.timeStep.canonical = true := by
  unfold State.timeStep
  grind -linarith only [State.setBit_canonical, State.clearPend_canonical, State.setSlave_canonical,
    State.setTuState_canonical, State.fire_canonical, State.canonical, canonical_foldl]

theorem State.enterFreerun_canonical : s.enterFreerun.canonical = true := by
  unfold State.enterFreerun
  grind -linarith only [State.setBit_canonical, State.setSlave_canonical, State.clearPend_canonical,
    State.setTuState_canonical]

/-! ### Machine/Start -/

theorem State.setFlash_canonical (a : Nat) (bs : List Byte) : (s.setFlash a bs).canonical = true := by
  unfold State.setFlash
  grind -linarith only [State.canonical, Memories.wf, SMap.writeList_wf]

theorem State.writeBoot_canonical (b : BootRecord) : (s.writeBoot b).canonical = true := by
  unfold State.writeBoot
  grind -linarith only [State.setFlash_canonical]

theorem State.stepDone_canonical (k : Nat) : (s.stepDone k).canonical = true := by
  unfold State.stepDone
  grind -linarith only [State.setFld_canonical, State.setReg_canonical, State.canonical]

theorem State.atUs_canonical (us : Nat) : (s.atUs us).canonical = true := h

theorem State.recordBrownOut_canonical : s.recordBrownOut.canonical = true := by
  unfold State.recordBrownOut
  grind -linarith only [State.raise_canonical, State.canonical]

theorem State.mgmtOnly_canonical : s.mgmtOnly.canonical = true := by
  unfold State.mgmtOnly
  grind -linarith only [State.setBit_canonical, State.recordBrownOut_canonical]

theorem State.refuseImage_canonical : s.refuseImage.canonical = true := by
  unfold State.refuseImage
  grind -linarith only [State.raise_canonical, State.mgmtOnly_canonical]

theorem State.failSlot_canonical (k reason sect item : Nat) :
    (s.failSlot k reason sect item).canonical = true := by
  unfold State.failSlot
  grind -linarith only [State.setReg_canonical, State.raiseIf_canonical, State.canonical]

theorem State.enterFinding_canonical (f : Finding) : (s.enterFinding f).canonical = true := by
  unfold State.enterFinding
  grind -linarith only [State.setBit_canonical, State.raiseIf_canonical, State.raise_canonical, State.canonical]

theorem State.leaveOut_canonical : s.leaveOut.canonical = true := by
  unfold State.leaveOut
  grind -linarith only [State.setReg_canonical, State.canonical, canonical_foldl]

theorem State.selfTestStep_canonical (g : Nat) : (s.selfTestStep g).canonical = true := by
  unfold State.selfTestStep
  grind -linarith only [State.enterFinding_canonical, State.setReg_canonical, State.setFld_canonical,
    State.leaveOut_canonical, State.raise_canonical, State.canonical, canonical_foldl, Memories.wf, SMap.nil_wf]

theorem State.loadSection_canonical (base : Nat) (x : Section) : (s.loadSection base x).canonical = true := by
  unfold State.loadSection
  grind -linarith only [State.remark_canonical, State.setReg_canonical, State.canonical, canonical_foldl,
    Memories.wf, SMap.writeList_wf]

theorem State.selectVariant_canonical : s.selectVariant.canonical = true := by
  unfold State.selectVariant
  grind -linarith only [State.setFld_canonical, State.setVariant_canonical, State.raise_canonical]

theorem State.applyImage_canonical (k base : Nat) (c : ImageContent) : (s.applyImage k base c).canonical = true := by
  unfold State.applyImage
  extract_lets +onlyGivenNames hd contexts _ _ s1
  have h1 : s1.canonical = true := by grind -linarith only [State.canonical, SMap.writeAll_wf]
  clear_value s1
  grind -linarith only [State.setFld_canonical, State.setBit_canonical, State.setReg_canonical, canonical_foldl]

theorem State.restoreSaved_canonical : s.restoreSaved.canonical = true := by
  unfold State.restoreSaved
  grind -linarith only [State.canonical, SMap.writeAll_wf, State.setBit_canonical, State.raise_canonical]

theorem State.applyWeights_canonical (b : BootRecord) : (s.applyWeights b).canonical = true := by
  unfold State.applyWeights
  grind -linarith only [State.raise_canonical, State.hbmPut_canonical, State.setFld_canonical,
    State.setBit_canonical]

theorem State.runAlone_canonical : s.runAlone.canonical = true := by
  unfold State.runAlone
  grind -linarith only [State.setTwinState_canonical, State.setLive_canonical, State.setVariant_canonical]

theorem State.advance_canonical (locked : Bool) : (s.advance locked).canonical = true := by
  unfold State.advance
  grind -linarith only [State.stepDone_canonical, State.runAlone_canonical, State.setTwinState_canonical,
    State.canonical]

theorem State.loadSlot_canonical (b : BootRecord) (k : Nat) : (s.loadSlot b k).1.canonical = true := by
  unfold State.loadSlot
  extract_lets +onlyGivenNames base c _ s1 sa _ sb s2
  have h1 : s1.canonical = true := h
  clear_value s1
  split
  · exact h1
  have h2 : s2.canonical = true := by
    grind -linarith only [State.canonical, State.setFld_canonical, State.selfTestStep_canonical,
      State.stepDone_canonical]
  clear_value s2
  split
  · exact h2
  split
  · exact State.failSlot_canonical h2 ..
  extract_lets +onlyGivenNames xs _ s3 s4 s5 s6 s7 s8 _ s9
  have h3 : s3.canonical = true := h2
  have h4 : s4.canonical = true := canonical_foldl (fun s x hs => State.loadSection_canonical hs ..) h3 _
  have h5 : s5.canonical = true := State.selectVariant_canonical
    (State.restoreSaved_canonical (State.applyImage_canonical h4 ..))
  have h6 : s6.canonical = true := State.stepDone_canonical h5 8
  have h7 : s7.canonical = true := canonical_foldl (fun s x hs => State.hbmPut_canonical hs ..) h6 _
  have h9 : s9.canonical = true := State.stepDone_canonical (State.applyWeights_canonical h7 b) 9
  clear_value s5 s6 s9
  repeat' split
  exacts [h5, h6, State.advance_canonical h9 _]

theorem State.trySlot_canonical (b : BootRecord) (k n : Nat) : (s.trySlot b k n).canonical = true := by
  induction n generalizing s k with
  | zero => exact State.refuseImage_canonical h
  | succ n ih =>
    unfold State.trySlot
    grind -linarith only [State.setFld_canonical, State.canonical, State.failSlot_canonical,
      State.stepDone_canonical, State.loadSlot_canonical]

theorem State.bootFrom_canonical : s.bootFrom.canonical = true := by
  unfold State.bootFrom
  grind -linarith only [State.setReg_canonical, State.refuseImage_canonical, State.trySlot_canonical,
    State.canonical]

theorem State.boardFlash_canonical : s.boardFlash.canonical = true := by
  unfold State.boardFlash
  grind -linarith only [State.setFlash_canonical, canonical_foldl]

theorem State.identityStep_canonical : s.identityStep.canonical = true := by
  unfold State.identityStep
  grind -linarith only [State.setReg_canonical, State.raiseIf_canonical, State.canonical]

theorem State.afterStraps_canonical : s.afterStraps.canonical = true := by
  unfold State.afterStraps
  grind -linarith only [State.mgmtOnly_canonical, State.bootFrom_canonical, State.canonical]

theorem State.strapStep_canonical : s.strapStep.canonical = true := by
  unfold State.strapStep
  grind -linarith only [State.setReg_canonical, State.setFld_canonical]

omit h in
theorem State.reset_canonical : State.reset.canonical = true := by decide

theorem State.hardReset_canonical : s.hardReset.canonical = true := by
  have hreset := State.reset_canonical
  unfold State.hardReset
  grind -linarith only [State.canonical, Memories.wf]

theorem State.powerOn_canonical (x : StartInput) (bor : Bool) : (s.powerOn x bor).canonical = true := by
  unfold State.powerOn
  grind -linarith only [State.hardReset_canonical, State.boardFlash_canonical, State.setReg_canonical,
    State.stepDone_canonical, State.identityStep_canonical, State.strapStep_canonical,
    State.afterStraps_canonical, State.canonical]

theorem State.wakeStart_canonical (x : StartInput) (us : Nat) : (s.wakeStart x us).canonical = true := by
  unfold State.wakeStart
  grind -linarith only [State.boardFlash_canonical, State.setBit_canonical, State.setReg_canonical,
    State.setPowerState_canonical, State.setFld_canonical, State.bootFrom_canonical, State.canonical,
    canonical_foldl]

theorem State.stepTimeout_canonical (stack : Nat) : (s.stepTimeout stack).canonical = true := by
  unfold State.stepTimeout
  grind -linarith only [State.failSlot_canonical, State.trySlot_canonical, State.raise_canonical,
    State.mgmtOnly_canonical, State.canonical]

theorem State.linksNotTrained_canonical (us : Nat) : (s.linksNotTrained us).canonical = true := by
  unfold State.linksNotTrained
  grind -linarith only [State.atUs_canonical, State.raiseIf_canonical, State.advance_canonical, State.canonical,
    canonical_foldl]

theorem State.timeLockTimeout_canonical (us : Nat) : (s.timeLockTimeout us).canonical = true := by
  unfold State.timeLockTimeout
  grind -linarith only [State.atUs_canonical, State.raise_canonical, State.advance_canonical]

theorem State.handshakeExpired_canonical (us : Nat) : (s.handshakeExpired us).canonical = true := by
  unfold State.handshakeExpired
  grind -linarith only [State.atUs_canonical, State.runAlone_canonical, State.advance_canonical]

theorem State.jesdUp_canonical (us : Nat) : (s.jesdUp us).canonical = true := by
  unfold State.jesdUp
  grind -linarith only [State.atUs_canonical, State.advance_canonical, State.canonical]

theorem State.interfaceUp_canonical (l : LinkId) (us errs : Nat) :
    (s.interfaceUp l us errs).canonical = true := by
  unfold State.interfaceUp
  grind -linarith only [State.inNet_canonical, State.setBit_canonical, State.setFld_canonical,
    State.bump_canonical, State.jesdUp_canonical, State.canonical]

theorem State.readySignal_canonical (region : Option Nat) (us : Nat) (x : StartInput) :
    (s.readySignal region us x).canonical = true := by
  unfold State.readySignal
  grind -linarith only [State.setDomains_canonical, State.clearRegion_canonical, State.wakeStart_canonical,
    State.setPowerState_canonical, State.setReg_canonical, State.canonical, canonical_foldl]

/-! ### Machine/Security -/

theorem State.nvmResult_canonical (result reason : Nat) : (s.nvmResult result reason).canonical = true := by
  unfold State.nvmResult
  grind -linarith only [State.setFld_canonical]

theorem State.unverify_canonical (a n : Nat) : (s.unverify a n).canonical = true := by
  unfold State.unverify
  grind -linarith only [State.setBit_canonical, State.canonical, canonical_foldl]

theorem State.nvmRun_canonical (job : NvmJob) : (s.nvmRun job).canonical = true := by
  unfold State.nvmRun
  grind -linarith only [State.nvmResult_canonical, State.setBit_canonical, State.canonical]

theorem State.nvmIdle_canonical {f : State → State}
    (hf : ∀ s : State, s.canonical = true → (f s).canonical = true) : (s.nvmIdle f).canonical = true := by
  unfold State.nvmIdle
  grind -linarith only [State.nvmResult_canonical]

theorem State.nvmErase_canonical : s.nvmErase.canonical = true := by
  unfold State.nvmErase
  grind -linarith only [State.nvmIdle_canonical, State.nvmResult_canonical, State.unverify_canonical,
    State.nvmRun_canonical]

theorem State.nvmProgram_canonical : s.nvmProgram.canonical = true := by
  unfold State.nvmProgram
  grind -linarith only [State.nvmIdle_canonical, State.nvmResult_canonical, State.unverify_canonical,
    State.nvmRun_canonical, State.setFld_canonical, State.canonical]

theorem State.nvmVerify_canonical (slot : Nat) : (s.nvmVerify slot).canonical = true := by
  unfold State.nvmVerify
  grind -linarith only [State.nvmIdle_canonical, State.nvmRun_canonical]

theorem State.nvmActivate_canonical (slot : Nat) : (s.nvmActivate slot).canonical = true := by
  unfold State.nvmActivate
  grind -linarith only [State.nvmIdle_canonical, State.nvmRun_canonical, State.nvmResult_canonical]

theorem State.nvmSave_canonical : s.nvmSave.canonical = true := by
  unfold State.nvmSave
  grind -linarith only [State.nvmIdle_canonical, State.nvmResult_canonical, State.nvmRun_canonical]

theorem State.nvmDrop_canonical : s.nvmDrop.canonical = true := by
  unfold State.nvmDrop
  grind -linarith only [State.nvmIdle_canonical, State.nvmRun_canonical]

theorem State.startSave_canonical : s.startSave.canonical = true := by
  unfold State.startSave
  grind -linarith only [State.canonical]

theorem State.freeBytes_canonical (n : Nat) : (s.freeBytes n).2.canonical = true := by
  unfold State.freeBytes
  grind -linarith only [State.drawFor_canonical]

theorem State.writeWeights_canonical (b : BootRecord) : (s.writeWeights b).canonical = true := by
  unfold State.writeWeights
  grind -linarith only [State.raise_canonical, State.setFlash_canonical, State.writeBoot_canonical,
    canonical_foldl]

theorem State.nvmEffect_canonical (j : NvmJob) : (s.nvmEffect j).canonical = true := by
  unfold State.nvmEffect
  cases s.bootRecord <;> simp only [Option.map_none, Option.map_some, Option.getD_none, Option.getD_some] <;>
    grind -linarith only [State.setFlash_canonical, State.nvmResult_canonical, State.setBit_canonical,
      State.writeBoot_canonical, State.writeWeights_canonical]

theorem State.nvmDone_canonical (error : Bool) : (s.nvmDone error).canonical = true := by
  unfold State.nvmDone
  grind -linarith only [State.freeBytes_canonical, State.setFlash_canonical, State.bump_canonical,
    State.nvmResult_canonical, State.raise_canonical, State.nvmEffect_canonical, State.setBit_canonical,
    State.announce_canonical, State.canonical]

theorem State.pageWrite_canonical (w : Word) : (s.pageWrite w).canonical = true := by
  unfold State.pageWrite
  grind -linarith only [State.setFld_canonical, State.canonical]

theorem State.nvmCommand_canonical (cmd slot : Nat) : (s.nvmCommand cmd slot).canonical = true := by
  unfold State.nvmCommand
  grind -linarith only [State.nvmErase_canonical, State.nvmProgram_canonical, State.nvmVerify_canonical,
    State.nvmActivate_canonical, State.nvmSave_canonical, State.nvmDrop_canonical]

theorem State.sendReport_canonical (bs : List Byte) : (s.sendReport bs).canonical = true := by
  unfold State.sendReport
  grind -linarith only [State.inNet_canonical, State.enqueue_canonical]

theorem State.showReport_canonical (status : Nat) (bs : List Byte) :
    (s.showReport status bs).canonical = true := by
  unfold State.showReport
  grind -linarith only [State.setBit_canonical, State.setFld_canonical, State.announce_canonical,
    State.canonical]

theorem State.shortReport_canonical (l2 : Bool) (status : Nat) :
    (s.shortReport l2 status).canonical = true := by
  unfold State.shortReport
  grind -linarith only [State.bump_canonical, State.sendReport_canonical, State.showReport_canonical]

theorem State.requestReport_canonical (l2 : Bool) (nonce : List Byte) (map : Bool) :
    (s.requestReport l2 nonce map).canonical = true := by
  unfold State.requestReport
  grind -linarith only [State.shortReport_canonical, State.setBit_canonical, State.canonical]

theorem State.attReq_canonical (m : L2Msg) : (s.attReq m).canonical = true := by
  unfold State.attReq
  grind -linarith only [State.inNet_canonical, State.bump_canonical, State.requestReport_canonical]

theorem State.attGo_canonical (map : Bool) : (s.attGo map).canonical = true := by
  unfold State.attGo
  grind -linarith only [State.setBit_canonical, State.requestReport_canonical, State.canonical]

theorem State.reportReady_canonical : s.reportReady.canonical = true := by
  unfold State.reportReady
  grind -linarith only [State.setBit_canonical, State.bump_canonical, State.sendReport_canonical,
    State.showReport_canonical, State.canonical]

theorem State.attRead_canonical : s.attRead.canonical = true := by
  unfold State.attRead
  grind -linarith only [State.setReg_canonical, State.canonical]

/-! ### Machine/Control -/

theorem State.measureLeg_canonical (a seen : Nat) : (s.measureLeg a seen).canonical = true := by
  unfold State.measureLeg
  grind -linarith only [State.setFld_canonical]

theorem State.access_canonical (m a : Nat) : (s.access m a).2.2.canonical = true := by
  unfold State.access
  grind -linarith only [State.catchUp_canonical, State.unassigned_canonical, State.bump_canonical,
    State.canonical]

theorem State.ctlRead_canonical (m a : Nat) : (s.ctlRead m a).2.2.canonical = true := by
  unfold State.ctlRead
  grind -linarith only [State.access_canonical, State.timeRead_canonical, State.attRead_canonical,
    State.canonical]

theorem whenBit_canonical (w : Word) (i : Nat) {f : State → State}
    (hf : ∀ s : State, s.canonical = true → (f s).canonical = true) : (whenBit w i f s).canonical = true := by
  unfold whenBit
  grind -linarith only

theorem State.clearCompute_canonical (r o : Nat) (w : Word) : (s.clearCompute r o w).canonical = true := by
  unfold State.clearCompute
  extract_lets blk i
  clear_value blk i
  split_ifs <;> grind -linarith only [whenBit_canonical, State.anvClrCnt_canonical, State.anvClrLatch_canonical,
    State.plnClrCnt_canonical, State.plnClrLatch_canonical, State.slcClrCnt_canonical,
    State.slcClrLatch_canonical, State.swgClr_canonical, State.cruClr_canonical, State.tnkClr_canonical,
    State.ldlClr_canonical, State.spdClr_canonical]

theorem State.writeEffect_canonical (a : Nat) (w : Word) : (s.writeEffect a w).canonical = true := by
  have hbit (i : Nat) {f : State → State} (hf : ∀ {s : State}, s.canonical = true → (f s).canonical = true) :=
    whenBit_canonical h w i fun _ => hf
  unfold State.writeEffect
  refine
    canonical_ite (State.doCommit_canonical h _) <| canonical_ite (State.discard_canonical h _) <|
    canonical_ite (hbit 0 fun hs => State.attGo_canonical hs _) <| canonical_ite (State.pageWrite_canonical h _) <|
    canonical_ite (State.nvmCommand_canonical h ..) <| canonical_ite (hbit 8 State.wakeNow_canonical) <|
    canonical_ite (hbit 0 State.popRecord_canonical) <| canonical_ite (hbit 0 State.spnCntclr_canonical) <|
    canonical_ite (hbit 0 State.detClr_canonical) <| canonical_ite (hbit 0 State.fmtClr_canonical) <|
    canonical_ite (hbit 0 State.grdClr_canonical) <| canonical_ite (hbit 0 State.elsClr_canonical) <|
    canonical_ite (hbit 0 State.wgtClr_canonical) <| canonical_ite (hbit 0 State.schClr_canonical) <|
    canonical_ite (hbit 0 State.radClr_canonical) <| canonical_ite (hbit 16 State.radPrbsClr_canonical) <|
    canonical_ite (hbit 0 State.netClr_canonical) <| canonical_ite (hbit 16 State.netPrbsClr_canonical) <|
    canonical_ite (hbit 0 State.cdcClr_canonical) <| canonical_ite (hbit 0 State.memClr_canonical) <|
    canonical_ite (hbit 0 State.twnClr_canonical) <| canonical_ite (hbit 16 State.twnPrbsClr_canonical) <|
    canonical_ite (hbit 0 State.mgtClr_canonical) <| canonical_ite (hbit 0 State.fltClr_canonical) <|
    canonical_ite (hbit 0 State.lgrClr_canonical) <| canonical_ite (hbit 0 State.pwrClr_canonical) <|
    canonical_ite (hbit 0 State.clkClr_canonical) <| canonical_ite (hbit 0 State.secClr_canonical) ?_
  grind -linarith only [State.clearCompute_canonical]

theorem State.writeFields_canonical (d : RegDef) (a : Nat) (w : Word) :
    (s.writeFields d a w).canonical = true := by
  unfold State.writeFields
  grind -linarith only [State.triggerArm_canonical, State.setReg_canonical, State.setFld_canonical]

theorem State.writeStaged_canonical (d : RegDef) (a : Nat) (w : Word) :
    (s.writeStaged d a w).2.canonical = true := by
  unfold State.writeStaged
  grind -linarith only [State.stageChannel_canonical, State.stage_canonical]

theorem State.ctlWrite_canonical (m a : Nat) (w : Word) : (s.ctlWrite m a w).2.canonical = true := by
  unfold State.ctlWrite
  grind -linarith only [State.access_canonical, State.writeFields_canonical, State.writeStaged_canonical,
    State.writeEffect_canonical]

/-! ### Machine/I3c -/

theorem State.answer_canonical (bs : List Byte) : (s.answer bs).canonical = true := h

theorem State.setDa_canonical (da : Nat) : (s.setDa da).canonical = true := by
  unfold State.setDa
  grind -linarith only [State.setFld_canonical, State.setBit_canonical, State.canonical]

theorem State.setEvents_canonical (ev : Nat) (on : Bool) : (s.setEvents ev on).canonical = true := by
  unfold State.setEvents
  grind -linarith only [State.setBit_canonical]

theorem State.resetDa_canonical : s.resetDa.canonical = true := by
  unfold State.resetDa
  grind -linarith only [State.setFld_canonical, State.setBit_canonical]

theorem State.entDaa_canonical (da : Nat) : (s.entDaa da).canonical = true := by
  unfold State.entDaa
  grind -linarith only [State.setDa_canonical, State.answer_canonical]

theorem State.setFromStatic_canonical (da : Nat) : (s.setFromStatic da).canonical = true := by
  unfold State.setFromStatic
  grind -linarith only [State.setDa_canonical]

theorem State.setNewDa_canonical (da : Nat) : (s.setNewDa da).canonical = true := by
  unfold State.setNewDa
  grind -linarith only [State.setDa_canonical]

theorem State.getStatus_canonical : s.getStatus.canonical = true := by
  unfold State.getStatus
  grind -linarith only [State.answer_canonical, State.canonical]

theorem State.respond_canonical (st : Status) (ws : List Word) : (s.respond st ws).canonical = true := h

theorem State.frameError_canonical (st : Status) : (s.frameError st).canonical = true := by
  unfold State.frameError
  grind -linarith only [State.respond_canonical, State.bump_canonical, State.raise_canonical, State.canonical]

theorem State.writeWords_canonical (a : Nat) (st : Status) (ws : List Word) :
    (s.writeWords a st ws).2.canonical = true := by
  induction ws generalizing s a st with
  | nil => exact h
  | cons w ws ih => exact ih (State.ctlWrite_canonical h ..) ..

theorem State.readWords_canonical (a : Nat) (st : Status) (n : Nat) :
    (s.readWords a st n).2.2.canonical = true := by
  induction n generalizing s a st with
  | zero => exact h
  | succ n ih => exact ih (State.ctlRead_canonical h ..) ..

theorem State.perform_canonical (bs : List Byte) : (s.perform bs).canonical = true := by
  unfold State.perform
  grind -linarith only [State.setFld_canonical, State.respond_canonical, State.writeWords_canonical,
    State.readWords_canonical]

theorem State.frameArrives_canonical (frame : List Byte) (leg : Nat) :
    (s.frameArrives frame leg).canonical = true := by
  unfold State.frameArrives
  grind -linarith only [State.frameError_canonical, State.measureLeg_canonical, State.perform_canonical]

theorem State.responseRead_canonical (pending : Bool) : (s.responseRead pending).canonical = true := by
  unfold State.responseRead
  grind -linarith only [State.answer_canonical]

theorem State.ibi_canonical (ack : Bool) : (s.ibi ack).canonical = true := by
  unfold State.ibi
  grind -linarith only [State.answer_canonical, State.bump_canonical, State.wrapAdd_canonical, State.canonical]

/-! ### Machine/Sequencer -/

theorem State.setSlot_canonical (i : Nat) (w : Word) : (s.setSlot i w).canonical = true := h

theorem State.clearSlots_canonical : s.clearSlots.canonical = true := h

theorem State.stepRead_canonical (x : SeqStep) : (s.stepRead x).canonical = true := by
  unfold State.stepRead
  grind -linarith only [State.ctlRead_canonical, State.setSlot_canonical]

theorem State.stepWrite_canonical (x : SeqStep) : (s.stepWrite x).canonical = true := by
  unfold State.stepWrite
  grind -linarith only [State.ctlWrite_canonical]

theorem State.stepRmw_canonical (x : SeqStep) : (s.stepRmw x).canonical = true := by
  unfold State.stepRmw
  grind -linarith only [State.ctlRead_canonical, State.ctlWrite_canonical]

theorem State.stepDelta_canonical (x : SeqStep) : (s.stepDelta x).canonical = true := by
  unfold State.stepDelta
  grind -linarith only [State.ctlRead_canonical, State.setSlot_canonical]

theorem State.stepTest_canonical (x : SeqStep) : (s.stepTest x).canonical = true := h

theorem State.stepRecord_canonical (p i : Nat) (x : SeqStep) : (s.stepRecord p i x).canonical = true := by
  unfold State.stepRecord
  grind -linarith only [State.raise_canonical]

theorem State.stepCommit_canonical (x : SeqStep) : (s.stepCommit x).canonical = true := by
  unfold State.stepCommit
  grind -linarith only [State.ctlWrite_canonical]

theorem State.stepAct_canonical (p i : Nat) (x : SeqStep) : (s.stepAct p i x).canonical = true := by
  unfold State.stepAct
  grind -linarith only [State.stepRead_canonical, State.stepWrite_canonical, State.stepRmw_canonical,
    State.stepDelta_canonical, State.stepTest_canonical, State.stepRecord_canonical, State.stepCommit_canonical]

theorem State.runStep_canonical (p i : Nat) (x : SeqStep) : (s.runStep p i x).canonical = true := by
  unfold State.runStep
  grind -linarith only [State.setFld_canonical, State.clearSlots_canonical, State.stepAct_canonical,
    State.canonical]

theorem State.seqStep_canonical (p i : Nat) (x : SeqStep) : (s.seqStep p i x).canonical = true := by
  unfold State.seqStep
  grind -linarith only [State.runStep_canonical, State.canonical]

theorem State.readAll_canonical (as_ : List Nat) : (s.readAll as_).2.canonical = true := by
  induction as_ generalizing s with
  | nil => exact h
  | cons a as_ ih => exact ih (State.ctlRead_canonical h ..)

theorem State.snapshot_canonical : s.snapshot.canonical = true := by
  unfold State.snapshot
  grind -linarith only [State.readAll_canonical, State.setReg_canonical, State.canonical]

theorem State.epochProgram_canonical (run leg : Nat) : (s.epochProgram run leg).canonical = true := by
  unfold State.epochProgram
  grind -linarith only [State.reach_canonical, State.measureLeg_canonical, State.snapshot_canonical,
    State.bump_canonical, State.raise_canonical, State.runStep_canonical, State.setBit_canonical,
    State.canonical, canonical_foldl]

/-! ### Machine/Test -/

theorem State.retrain_canonical (e : LinkId) : (s.retrain e).canonical = true := by
  unfold State.retrain
  grind -linarith only [State.setFld_canonical, State.setBit_canonical]

theorem State.setLock_canonical (l : PrbsLane) (b : Bool) : (s.setLock l b).canonical = true := by
  unfold State.setLock
  grind -linarith only [State.setBit_canonical]

theorem State.retrainLane_canonical (l : PrbsLane) : (s.retrainLane l).canonical = true := by
  unfold State.retrainLane
  grind -linarith only [State.setLock_canonical, State.retrain_canonical, State.canonical, canonical_foldl]

theorem State.setTests_canonical (loops : List LinkId) (lanes : List PrbsLane) :
    (s.setTests loops lanes).canonical = true := by
  unfold State.setTests
  grind -linarith only [State.retrain_canonical, State.retrainLane_canonical, State.canonical, canonical_foldl]

theorem State.activateTests_canonical : s.activateTests.canonical = true := by
  unfold State.activateTests
  grind -linarith only [State.setTests_canonical]

theorem State.endTests_canonical : s.endTests.canonical = true := by
  unfold State.endTests
  grind -linarith only [State.setTests_canonical]

theorem State.countPrbs_canonical (l : PrbsLane) (errors units : Nat) :
    (s.countPrbs l errors units).canonical = true := by
  unfold State.countPrbs
  grind -linarith only [State.bump_canonical, State.canonical]

theorem State.prbsLock_canonical (l : PrbsLane) (errors units : Nat) :
    (s.prbsLock l errors units).canonical = true := by
  unfold State.prbsLock
  grind -linarith only [State.setLock_canonical, State.countPrbs_canonical]

theorem State.prbsLoss_canonical (l : PrbsLane) (errors units : Nat) :
    (s.prbsLoss l errors units).canonical = true := by
  unfold State.prbsLoss
  grind -linarith only [State.countPrbs_canonical, State.setLock_canonical]

theorem State.setTap_canonical (op : Nat) (scan : Option Nat) (highZ : Bool) (dr : Nat) :
    (s.setTap op scan highZ dr).canonical = true := h

theorem State.bypass_canonical : s.bypass.canonical = true := by
  unfold State.bypass
  grind -linarith only [State.setTap_canonical]

theorem State.drive_canonical (op sampled data : Nat) : (s.drive op sampled data).canonical = true := by
  unfold State.drive
  grind -linarith only [State.setTap_canonical, State.bypass_canonical, State.canonical]

theorem State.samplePreload_canonical (sampled data : Nat) :
    (s.samplePreload sampled data).canonical = true := by
  unfold State.samplePreload
  grind -linarith only [State.setTap_canonical, State.canonical]

theorem State.testLogicReset_canonical : s.testLogicReset.canonical = true := by
  unfold State.testLogicReset
  grind -linarith only [State.setTap_canonical, State.afterStraps_canonical]

/-! ### Machine/Tick -/

theorem State.overrun_canonical (e : Running) : (s.overrun e).canonical = true := by
  unfold State.overrun
  grind -linarith only [State.raise_canonical, State.countBreach_canonical, State.voidOuts_canonical]

theorem State.overrunStream_canonical (r l : Nat) (t : Stream) :
    (s.overrunStream r l t).canonical = true := by
  unfold State.overrunStream
  grind -linarith only [State.raise_canonical, State.countBreach_canonical, State.voidBuf_canonical]

theorem State.endLadle_canonical (r l : Nat) : (s.endLadle r l).canonical = true := by
  unfold State.endLadle
  grind -linarith only [State.endStream_canonical, State.overrunStream_canonical, State.setActive_canonical,
    State.setLadle_canonical, State.canonical]

theorem State.idleEngines_canonical : s.idleEngines.canonical = true := h

theorem State.endElastic_canonical : s.endElastic.canonical = true := by
  unfold State.endElastic
  grind -linarith only [State.endMember_canonical, State.canonical, canonical_foldl]

theorem State.endSlot_canonical : s.endSlot.canonical = true := by
  unfold State.endSlot
  extract_lets +onlyGivenNames len s1 s2 s3 c s4 late s5 s6
  have h1 : s1.canonical = true := State.settleSignals_canonical
    (State.reach_canonical (State.drainsTo_canonical h _) _) _
  have h2 : s2.canonical = true := canonical_foldl (fun s e hs => by grind -linarith only [
    State.stopDrain_canonical]) h1 _
  have h3 : s3.canonical = true := State.delayedStripe_canonical (State.delayedStripe_canonical h2 ..) ..
  have h4 : s4.canonical = true := h3
  have h5 : s5.canonical = true := canonical_foldl (fun s e hs => State.overrun_canonical hs e) h4 _
  have h6 : s6.canonical = true := canonical_foldl
    (fun s r hs => canonical_foldl (fun s l hs => State.endLadle_canonical hs r l) hs _) h5 _
  exact State.endElastic_canonical (State.idleEngines_canonical
    (State.settleTaps_canonical (State.settleSignals_canonical h6 _) _))

theorem State.abortOverrun_canonical (n : Nat) : (s.abortOverrun n).canonical = true := by
  unfold State.abortOverrun
  grind -linarith only [State.abortWhere_canonical, State.bump_canonical]

theorem State.dropJob_canonical (j : Job) : (s.dropJob j).canonical = true := by
  unfold State.dropJob
  grind -linarith only [State.countJob_canonical, State.dropTaster_canonical]

theorem State.submit_canonical (j : Job) : (s.submit j).canonical = true := by
  unfold State.submit
  grind -linarith only [State.dropJob_canonical, State.countJob_canonical, State.onHandIn_canonical,
    State.onCtx_canonical]

theorem State.submitKind_canonical (r kind : Nat) (js : List Job) :
    (s.submitKind r kind js).canonical = true := by
  unfold State.submitKind
  grind -linarith only [State.dropJob_canonical, State.submit_canonical, canonical_foldl]

theorem State.takeRing_canonical (r a : Nat) : (s.takeRing r a).canonical = true := by
  unfold State.takeRing
  split
  · exact h
  extract_lets +onlyGivenNames js s1
  have h1 : s1.canonical = true := canonical_foldl (fun s j hs => State.countVoidIn_canonical hs ..) h _
  clear_value s1 js
  grind -linarith only [State.canonical, State.submitKind_canonical, State.submit_canonical, canonical_foldl]

theorem State.takeJobs_canonical : s.takeJobs.canonical = true := by
  unfold State.takeJobs
  grind -linarith only [State.takeRing_canonical, canonical_foldl]

theorem State.setFrame_canonical (t : Nat) : (s.setFrame t).canonical = true := by
  unfold State.setFrame
  grind -linarith only [State.setReg_canonical]

theorem State.endRequest_canonical (n : Nat) : (s.endRequest n).canonical = true := h

theorem State.superseded_canonical (v n : Nat) : (s.superseded v n).canonical = true := by
  unfold State.superseded
  grind -linarith only [State.raise_canonical]

theorem State.switchStep_canonical (n f : Nat) : (s.switchStep n f).canonical = true := by
  unfold State.switchStep
  grind -linarith only [State.endRequest_canonical, State.setBit_canonical, State.install_canonical,
    State.endTests_canonical, State.superseded_canonical, State.showPlan_canonical, State.canonical]

theorem State.exactBegins_canonical : s.exactBegins.canonical = true := by
  unfold State.exactBegins
  grind -linarith only [State.abortJobs_canonical, canonical_foldl]

theorem State.autoPromote_canonical : s.autoPromote.canonical = true := by
  unfold State.autoPromote
  grind -linarith only [State.promote_canonical]

theorem State.measurePower_canonical (mean : Nat) : (s.measurePower mean).canonical = true := by
  unfold State.measurePower
  grind -linarith only [State.setFld_canonical, State.raiseIf_canonical]

theorem State.setEstimates_canonical (es : List (Nat × Word × Word)) :
    (s.setEstimates es).canonical = true := by
  unfold State.setEstimates
  grind -linarith only [State.setReg_canonical, canonical_foldl]

theorem State.commitStep_canonical (n : Nat) : (s.commitStep n).canonical = true := by
  unfold State.commitStep
  grind -linarith only [State.applyCommits_canonical, State.exactBegins_canonical, State.sendEsmc_canonical]

theorem State.promoteStep_canonical (x : TickInput) : (s.promoteStep x).canonical = true := by
  unfold State.promoteStep
  grind -linarith only [State.autoPromote_canonical, State.startSave_canonical, State.tasterEpoch_canonical,
    State.openGates_canonical, State.setReg_canonical, State.measurePower_canonical]

theorem State.gainDeficits_canonical : s.gainDeficits.canonical = true := by
  unfold State.gainDeficits
  grind -linarith only [State.setDeficit_canonical, canonical_foldl]

theorem State.checkLeave_canonical : s.checkLeave.canonical = true := by
  unfold State.checkLeave
  grind -linarith only [State.raiseIf_canonical, canonical_foldl]

theorem State.voidNewSlot_canonical : s.voidNewSlot.canonical = true := by
  unfold State.voidNewSlot
  grind -linarith only [State.voidRegion_canonical, State.voidIdleEntries_canonical,
    State.suspectSlot_canonical, State.canonical, canonical_foldl]

theorem State.takeHandIns_canonical (n : Nat) : (s.takeHandIns n).canonical = true := by
  unfold State.takeHandIns
  grind -linarith only [State.bump_canonical, State.canonical]

theorem State.lastSteps_canonical (x : TickInput) : (s.lastSteps x).canonical = true := by
  unfold State.lastSteps
  grind -linarith only [State.clearOldest_canonical, State.setReg_canonical, State.setBit_canonical,
    State.setFrame_canonical, State.setEstimates_canonical, State.tripOff_canonical, State.showPlan_canonical,
    State.gainDeficits_canonical, State.checkLeave_canonical, State.voidNewSlot_canonical,
    State.takeHandIns_canonical, State.depart_canonical, State.canonical]

theorem State.firstSteps_canonical (n : Nat) : (s.firstSteps n).canonical = true := by
  unfold State.firstSteps
  grind -linarith only [State.endSlot_canonical, State.abortOverrun_canonical, State.formDigest_canonical,
    State.closeLedger_canonical, State.switchStep_canonical]

theorem State.intake_canonical (n : Nat) : (s.intake n).canonical = true := by
  unfold State.intake
  grind -linarith only [State.takeJobs_canonical, State.abortOverrun_canonical]

theorem State.tickSteps_canonical (n : Nat) (x : TickInput) (epoch : Bool) :
    (s.tickSteps n x epoch).canonical = true := by
  unfold State.tickSteps
  grind -linarith only [State.firstSteps_canonical, State.commitStep_canonical, State.intake_canonical,
    State.promoteStep_canonical]

theorem State.slotTick_canonical (x : TickInput) : (s.slotTick x).canonical = true := by
  unfold State.slotTick
  grind -linarith only [State.tickSteps_canonical, State.lastSteps_canonical]

theorem State.epochTick_canonical (x : TickInput) : (s.epochTick x).canonical = true := by
  unfold State.epochTick
  grind -linarith only [State.applyCommits_canonical, State.tickSteps_canonical, State.canonical]

theorem State.tickMismatch_canonical (rs : List Nat) : (s.tickMismatch rs).canonical = true := by
  unfold State.tickMismatch
  grind -linarith only [State.raise_canonical, State.fenceFault_canonical, canonical_foldl]

theorem State.switchRequest_canonical (v : Nat) : (s.switchRequest v).canonical = true := by
  unfold State.switchRequest
  grind -linarith only [State.stage_canonical, State.doCommit_canonical]

theorem State.startPlane_canonical (n t us : Nat) : (s.startPlane n t us).canonical = true := by
  unfold State.startPlane
  grind -linarith only [State.atUs_canonical, State.setReg_canonical, State.stepDone_canonical,
    State.recordBrownOut_canonical, State.applyCommits_canonical, State.setFrame_canonical,
    State.showPlan_canonical, State.tasterEpoch_canonical, State.gainDeficits_canonical,
    State.voidNewSlot_canonical, State.endTests_canonical, State.canonical]

theorem State.resumePlane_canonical : s.resumePlane.canonical = true := by
  unfold State.resumePlane
  grind -linarith only [State.setReg_canonical, State.raise_canonical, State.showPlan_canonical,
    State.voidNewSlot_canonical, State.endTests_canonical, State.canonical]

theorem State.dataPlaneStart_canonical (us : Nat) : (s.dataPlaneStart us).canonical = true := by
  unfold State.dataPlaneStart
  grind -linarith only [State.resumePlane_canonical, State.startPlane_canonical]

theorem State.joinTick_canonical (x : Transferred) (us : Nat) : (s.joinTick x us).canonical = true := by
  unfold State.joinTick
  grind -linarith only [State.join_canonical, State.startPlane_canonical]

end

end Sys2Proof.Machine
end

section
/-! PROOF of O57: every step keeps the registers and the memories in canonical form. -/

namespace Sys2Proof.Machine

open Sys2Proof

/-- An outcome that answers only canonical states. -/
def AnswersCanonical (o : Host.Outcome State Fault Refusal) : Prop := ∀ t, o = .next t → t.canonical = true

section
variable {s t : State}

theorem AnswersCanonical.next (h : t.canonical = true) : AnswersCanonical (.next t) :=
  fun _ e => Host.Outcome.next.inj e ▸ h

theorem AnswersCanonical.admitted {ok : Bool} (h : t.canonical = true) : AnswersCanonical (admitted ok t) := by
  unfold Machine.admitted
  split
  · exact .next h
  · exact fun _ e => nomatch e

theorem AnswersCanonical.managed {f : State → State} (h : s.canonical = true)
    (hf : ∀ {s : State}, s.canonical = true → (f s).canonical = true) : AnswersCanonical (.next (s.managed f)) :=
  .next (State.managed_canonical h fun _ => hf)

end

/-- Whatever a command does to a canonical state, the state that it answers is canonical. -/
theorem answersCanonical_exec {s : State} (h : s.canonical = true) : ∀ i, AnswersCanonical (exec i s)
  | .slotTick .. => .next (State.slotTick_canonical h ..)
  | .epochTick .. => .next (State.epochTick_canonical h ..)
  | .symbolTick .. => .next (State.symbolTick_canonical h ..)
  | .epochProgram .. => .next (State.epochProgram_canonical h ..)
  | .tickMismatch .. => .next (State.tickMismatch_canonical h ..)
  | .load .. => .admitted (State.anvilLoad_canonical h ..)
  | .stream .. => .admitted (State.anvilStream_canonical h ..)
  | .loadstream .. => .admitted (State.anvilLoadStream_canonical h ..)
  | .bias .. => .admitted (State.anvilBias_canonical h ..)
  | .drain .. => .admitted (State.anvilDrain_canonical h ..)
  | .vload .. => .admitted (State.slicerVload_canonical h ..)
  | .sweep .. => .admitted (State.slicerSweep_canonical h ..)
  | .sout .. => .admitted (State.slicerSout_canonical h ..)
  | .transpose .. => .admitted (State.swageTranspose_canonical h ..)
  | .transposeEmit .. => .next (canonical_ite (State.swageEmit_canonical h ..) h)
  | .openTensor .. => .admitted (State.crucibleOpen_canonical h ..)
  | .accum .. => .admitted (State.crucibleAccum_canonical h ..)
  | .flush .. => .admitted (State.crucibleFlush_canonical h ..)
  | .tload .. => .admitted (State.planTload_canonical h ..)
  | .tstore .. => .admitted (State.planTstore_canonical h ..)
  | .ewise .. => .admitted (State.planEwise_canonical h ..)
  | .reduce .. => .admitted (State.planReduce_canonical h ..)
  | .desc .. => .admitted (State.tinkerDesc_canonical h ..)
  | .lookup .. => .admitted (State.tinkerLookup_canonical h ..)
  | .sort .. => .admitted (State.tinkerSort_canonical h ..)
  | .select .. => .admitted (State.tinkerSelect_canonical h ..)
  | .pack .. => .admitted (State.tinkerPack_canonical h ..)
  | .crc .. => .admitted (State.tinkerCrc_canonical h ..)
  | .scramble .. => .admitted (State.tinkerScramble_canonical h ..)
  | .reenc .. => .admitted (State.tinkerReenc_canonical h ..)
  | .batch .. => .admitted (State.tinkerBatch_canonical h ..)
  | .fill .. => .admitted (State.tinkerFill_canonical h ..)
  | .arm .. => .admitted (State.arm_canonical h ..)
  | .shadowBecomesActive .. => .next (State.promoteShadow_canonical
      (State.endStream_canonical (State.drainsTo_canonical h _) ..) ..)
  | .streamDone .. => .next (State.endStream_canonical (State.drainsTo_canonical h _) ..)
  | .absent .. => .next (State.absentReply_canonical h ..)
  | .ladleRelease .. => .next (State.releaseLadle_canonical h ..)
  | .hbmStripe .. => .next (State.hbmStripe_canonical h ..)
  | .delayedStripe .. => .next (State.delayedStripe_canonical h ..)
  | .refreshEntry .. => .next (State.refreshEntry_canonical h ..)
  | .hbmOverTemperature .. => .next (State.hbmTemperature_canonical h ..)
  | .scrub .. => .next (State.scrub_canonical h ..)
  | .fft .. => .admitted (State.fft_canonical h ..)
  | .ifft .. => .admitted (State.ifft_canonical h ..)
  | .fir .. => .admitted (State.fir_canonical h ..)
  | .fetch .. => .admitted (State.fetch_canonical h ..)
  | .steer .. => .admitted (State.steer_canonical h ..)
  | .ncoDeltaUpdate .. => .next (State.onRadio_canonical h fun _ h =>
      State.settleSteps_canonical (State.reach_canonical h _) ..)
  | .ncoToffUpdate .. => .next (State.onRadio_canonical h fun _ h =>
      State.settleSteps_canonical (State.reach_canonical h _) ..)
  | .steeringFrame .. => .next (State.onRadio_canonical h fun _ h => State.steeringFrame_canonical h ..)
  | .receiveSample .. => .next (State.onRadio_canonical h fun _ h => State.receiveSample_canonical h ..)
  | .transmitSample .. => .next (State.onRadio_canonical h fun _ h => State.transmitSample_canonical h ..)
  | .jesdLinkCrc .. => .next (State.onRadio_canonical h fun _ h => State.linkCrc_canonical h ..)
  | .jesdLinkDown .. => .next (State.onRadio_canonical h fun _ h => State.linkDown_canonical h ..)
  | .relock .. => .next (State.onRadio_canonical h fun _ h => State.relock_canonical h ..)
  | .sysrefEdge .. => .next (State.onRadio_canonical h fun _ h => State.sysrefEdge_canonical h ..)
  | .gainWindow .. => .next (State.onRadio_canonical h fun _ h => State.gainWindow_canonical h ..)
  | .gainWordApply .. => .next (State.onRadio_canonical h fun _ h =>
      State.applyGain_canonical (State.reach_canonical h _) ..)
  | .freezeEnd .. => .next (State.onRadio_canonical h fun _ h =>
      State.freezeEnd_canonical (State.reach_canonical h _) ..)
  | .ldec .. => .admitted (State.ldec_canonical h ..)
  | .lenc .. => .admitted (State.lenc_canonical h ..)
  | .pdec .. => .admitted (State.pdec_canonical h ..)
  | .penc .. => .admitted (State.penc_canonical h ..)
  | .tbseg .. => .admitted (State.tbseg_canonical h ..)
  | .tbchk .. => .admitted (State.tbchk_canonical h ..)
  | .reEncoding .. => .admitted (State.reEncoding_canonical h ..)
  | .uprx .. => .admitted (State.uprx_canonical h ..)
  | .uptx .. => .admitted (State.uptx_canonical h ..)
  | .cptx .. => .admitted (State.cptx_canonical h ..)
  | .l2tx .. => .admitted (State.l2tx_canonical h ..)
  | .l2rx .. => .admitted (State.l2rx_canonical h ..)
  | .uPlaneSection .. => .next (State.uPlaneSection_canonical h ..)
  | .ethernetFrame .. => .next (State.ethernetFrame_canonical h ..)
  | .nonPlannedFrame .. => .next (State.nonPlanned_canonical h ..)
  | .arpRequest .. => .next (State.arpRequest_canonical h ..)
  | .neighbourSolicitation .. => .next (State.neighbourSolicitation_canonical h ..)
  | .bsr .. => .next (State.l2Message_canonical h ..)
  | .qos .. => .next (State.l2Message_canonical h ..)
  | .dldata .. => .next (State.l2Message_canonical h ..)
  | .attreq .. => .next (State.attReq_canonical h ..)
  | .fault => .next (State.faultMessage_canonical h ..)
  | .announce .. => .next (State.ptpArrival_canonical h _ _ _ fun _ _ h => State.announceHeard_canonical h ..)
  | .sync .. => .next (State.ptpArrival_canonical h _ _ _ fun _ _ h => State.slaveSync_canonical h ..)
  | .delayReq .. => .next (State.ptpArrival_canonical h _ _ _ fun _ _ h => h)
  | .followUp .. => .next (State.ptpArrival_canonical h _ _ _ fun _ _ h => State.slaveFollowUp_canonical h ..)
  | .followUpTimeout .. => .next (State.followUpTimeout_canonical h ..)
  | .syncMissed => .next (State.syncMissed_canonical h ..)
  | .esmcPdu .. => .next (State.esmcPdu_canonical h ..)
  | .esmcTimeout => .next (State.esmcTimeout_canonical h ..)
  | .informationPdu => .next (State.sendEsmc_canonical h ..)
  | .triggerArm .. => .managed h fun h => canonical_ite (State.triggerArm_canonical h ..) h
  | .triggerFire .. => .next (canonical_ite (State.triggerFire_canonical h ..) h)
  | .capture .. => .next (canonical_ite (State.capture_canonical h ..) h)
  | .timeRead => .next (State.timeRead_canonical h ..)
  | .timeStepAccept => .managed h fun h => State.timeStep_canonical h ..
  | .enterFreerun => .managed h fun h => State.enterFreerun_canonical h ..
  | .superframe .. => .next (State.superframe_canonical h ..)
  | .swituLinkDown .. => .next (State.switDown_canonical h ..)
  | .send .. => .admitted (State.send_canonical h ..)
  | .recv .. => .admitted (State.recv_canonical h ..)
  | .hello .. => .next (State.advance_canonical (State.atUs_canonical (State.hello_canonical h _) _) _)
  | .digest .. => .next (State.digestArrived_canonical h ..)
  | .digestSend => .next (State.digestSend_canonical h ..)
  | .digestCompare => .next (State.digestCompare_canonical h ..)
  | .roleSwap => .next (State.roleSwap_canonical h ..)
  | .swapNotice .. => .next (State.swapNotice_canonical h ..)
  | .transferNotice .. => .next (State.transferNotice_canonical h ..)
  | .joinNotice .. => .next (State.joinNotice_canonical h ..)
  | .detachNotice .. => .next (State.detachNotice_canonical h ..)
  | .abortNotice => .next (State.abortNotice_canonical h ..)
  | .transferStart => .next (State.transferStart_canonical h ..)
  | .bulkCopyComplete => .next (State.bulkComplete_canonical h ..)
  | .join .. => .next (State.joinTick_canonical h ..)
  | .attachAborted => .next (State.attachAborted_canonical h ..)
  | .twinPeerFall .. => .next (State.twinPeerFall_canonical h ..)
  | .takeover => .next (State.takeover_canonical h ..)
  | .attach => .managed h fun h => State.attach_canonical h ..
  | .detach => .managed h fun h => State.detach_canonical h ..
  | .swapRoles => .managed h fun h => State.swapRoles_canonical h ..
  | .planSwitchRequest .. => .managed h fun h => State.switchRequest_canonical h ..
  | .promote => .managed h fun h => State.promoteRow_canonical h ..
  | .revert => .managed h fun h => State.revertRow_canonical h ..
  | .revertCopyComplete => .next (State.revertCopied_canonical h ..)
  | .seedingJobComplete => .next (State.seeded_canonical h ..)
  | .trainingStep => .next (State.trainingStep_canonical h ..)
  | .tasterDecision .. => .next (State.tasterDecision_canonical h ..)
  | .historyReset .. => .managed h fun h => State.historyReset_canonical h ..
  | .channelUpdateStage .. => .managed h fun h => State.stageChannel_canonical h ..
  | .ncoClear .. => .next (State.onRadio_canonical h fun _ h => State.ncoClear_canonical h ..)
  | .commit .. => .managed h fun h => State.doCommit_canonical h ..
  | .discard .. => .managed h fun h => State.discard_canonical h ..
  | .registerWrite .. => .managed h fun h => State.ctlWrite_canonical (State.measureLeg_canonical h ..) ..
  | .elasticWindowStart .. => .next (State.windowStart_canonical h ..)
  | .schedulerDecision .. => .next (State.decision_canonical (State.reach_canonical h _) ..)
  | .sliceEnd .. => .next (State.sliceEnded_canonical h ..)
  | .swap .. => .next (State.trySwap_canonical h ..)
  | .swapComplete .. => .next (State.swapComplete_canonical h ..)
  | .elasticWindowCut .. => .next (State.windowCut_canonical h ..)
  | .elasticSequenceEntry .. => .next (State.sequenceEntry_canonical h ..)
  | .leaveGrant .. => .next (State.leaveGrant_canonical h ..)
  | .overTemperature .. => .next (State.overTemp_canonical h ..)
  | .thermalTrip .. => .next (State.thermalTrip_canonical h ..)
  | .pllLossOfLock .. => .next (State.pllLost_canonical h ..)
  | .lockstepMismatch .. => .next (State.lockstep_canonical h ..)
  | .rotatingSelfTest .. => .next (State.selfTest_canonical h ..)
  | .ledgerExtract => .next (State.writeExtract_canonical h ..)
  | .runRequest => .managed h fun h => State.runRequest_canonical h ..
  | .trimRequest => .managed h fun h => State.trimRequest_canonical h ..
  | .doze => .managed h fun h => State.doze_canonical h ..
  | .keep => .managed h fun h => State.keep_canonical h ..
  | .regionReset => .managed h fun h => State.regionReset_canonical h ..
  | .regionPowerDown => .managed h fun h => State.regionDown_canonical h ..
  | .regionPowerUp => .managed h fun h => State.regionUp_canonical h ..
  | .wakeN => .next (State.wakeN_canonical h ..)
  | .wakeNow => .managed h fun h => State.wakeNow_canonical h ..
  | .wakeTimeout .. => .next (State.wakeTimeout_canonical h ..)
  | .brownOut .. => .next (State.powerOn_canonical h ..)
  | .supplyReset => .next (State.hardReset_canonical h ..)
  | .powerOn .. => .next (State.powerOn_canonical h ..)
  | .startStepTimeout .. => .next (State.stepTimeout_canonical h ..)
  | .linkNotTrained .. => .next (State.linksNotTrained_canonical h ..)
  | .timeLockTimeout .. => .next (State.timeLockTimeout_canonical h ..)
  | .handshakeWaitExpiry .. => .next (State.handshakeExpired_canonical h ..)
  | .dataPlaneStart .. => .next (State.dataPlaneStart_canonical h ..)
  | .erase => .managed h fun h => State.nvmErase_canonical h ..
  | .program => .managed h fun h => State.nvmProgram_canonical h ..
  | .verify .. => .managed h fun h => State.nvmVerify_canonical h ..
  | .activate .. => .managed h fun h => State.nvmActivate_canonical h ..
  | .savew => .managed h fun h => State.nvmSave_canonical h ..
  | .dropw => .managed h fun h => State.nvmDrop_canonical h ..
  | .pageBufferWrite .. => .managed h fun h => State.pageWrite_canonical h ..
  | .nvmCommandDone .. => .next (State.nvmDone_canonical h ..)
  | .go .. => .managed h fun h => State.attGo_canonical h ..
  | .reportReady => .next (State.reportReady_canonical h ..)
  | .attdataRead => .managed h fun h => State.attRead_canonical h ..
  | .pop => .managed h fun h => State.popRecord_canonical h ..
  | .echo .. => .managed h fun h => State.setFld_canonical h ..
  | .write .. => .managed h fun h => State.frameArrives_canonical h ..
  | .read .. => .managed h fun h => State.frameArrives_canonical h ..
  | .responseRead .. => .managed h fun h => State.responseRead_canonical h ..
  | .enec .. => .managed h fun h => State.setEvents_canonical h ..
  | .disec .. => .managed h fun h => State.setEvents_canonical h ..
  | .entas .. => .managed h fun h => canonical_ite h h
  | .rstdaa => .managed h fun h => State.resetDa_canonical h ..
  | .entdaa .. => .managed h fun h => State.entDaa_canonical h ..
  | .enthdr0 => .managed h fun h => State.setBit_canonical h ..
  | .hdrExit => .managed h fun h => State.setBit_canonical h ..
  | .setaasa => .managed h fun h => State.setFromStatic_canonical h ..
  | .setdasa .. => .managed h fun h => State.setFromStatic_canonical h ..
  | .setnewda .. => .managed h fun h => State.setNewDa_canonical h ..
  | .getmwl => .managed h fun h => State.answer_canonical h ..
  | .getmrl => .managed h fun h => State.answer_canonical h ..
  | .getpid => .managed h fun h => State.answer_canonical h ..
  | .getbcr => .managed h fun h => State.answer_canonical h ..
  | .getdcr => .managed h fun h => State.answer_canonical h ..
  | .getstatus => .managed h fun h => State.getStatus_canonical h ..
  | .getmxds => .managed h fun h => State.answer_canonical h ..
  | .getcaps => .managed h fun h => State.answer_canonical h ..
  | .ibi .. => .managed h fun h => State.ibi_canonical h ..
  | .seqRead .. => .next (State.seqStep_canonical h ..)
  | .seqWrite .. => .next (State.seqStep_canonical h ..)
  | .rmw .. => .next (State.seqStep_canonical h ..)
  | .delta .. => .next (State.seqStep_canonical h ..)
  | .test .. => .next (State.seqStep_canonical h ..)
  | .record .. => .next (State.seqStep_canonical h ..)
  | .seqCommit .. => .next (State.seqStep_canonical h ..)
  | .loopbackActivate => .next (State.activateTests_canonical h ..)
  | .prbsLock .. => .next (State.prbsLock_canonical h ..)
  | .prbsLossOfLock .. => .next (State.prbsLoss_canonical h ..)
  | .extest .. => .next (State.drive_canonical h ..)
  | .idcode => .next (State.setTap_canonical h ..)
  | .samplePreload .. => .next (State.samplePreload_canonical h ..)
  | .highz => .next (canonical_ite (State.setTap_canonical h ..) (State.bypass_canonical h))
  | .clamp => .next (canonical_ite (State.setTap_canonical h ..) (State.bypass_canonical h))
  | .extestPulse .. => .next (State.drive_canonical h ..)
  | .extestTrain .. => .next (State.drive_canonical h ..)
  | .bypass => .next (State.bypass_canonical h ..)
  | .testLogicReset => .next (State.testLogicReset_canonical h ..)
  | .anvClrLatch .. => .managed h fun h => State.whereFitted_canonical h _ _ fun _ h =>
      State.anvClrLatch_canonical h ..
  | .anvClrCnt .. => .managed h fun h => State.whereFitted_canonical h _ _ fun _ h =>
      State.anvClrCnt_canonical h ..
  | .slcClrLatch .. => .managed h fun h => State.whereFitted_canonical h _ _ fun _ h =>
      State.slcClrLatch_canonical h ..
  | .slcClrCnt .. => .managed h fun h => State.whereFitted_canonical h _ _ fun _ h =>
      State.slcClrCnt_canonical h ..
  | .swgClr .. => .managed h fun h => State.swgClr_canonical h ..
  | .cruClr .. => .managed h fun h => State.cruClr_canonical h ..
  | .plnClrLatch .. => .managed h fun h => State.plnClrLatch_canonical h ..
  | .plnClrCnt .. => .managed h fun h => State.plnClrCnt_canonical h ..
  | .tnkClr .. => .managed h fun h => State.tnkClr_canonical h ..
  | .ldlClr .. => .managed h fun h => State.ldlClr_canonical h ..
  | .spdClr .. => .managed h fun h => State.spdClr_canonical h ..
  | .delayResp .. => .next (State.advance_canonical (State.atUs_canonical
      (State.ptpArrival_canonical h _ _ _ fun _ _ h => State.slaveResponse_canonical h ..) _) _)
  | .pllRelock .. => .next (State.pllRelock_canonical h ..)
  | .readySignal .. => .next (State.readySignal_canonical h ..)
  | .linkUp .. => .next (State.interfaceUp_canonical h ..)
  | .ethernetLinkDown .. => .next (State.ethernetLinkDown_canonical h ..)
  | .temperatureFallenBelowLimit .. => .next (State.tempFallen_canonical h ..)
  | .guardReached .. => .next (State.guardReached_canonical h ..)
  | .spnCntclr => .managed h fun h => State.spnCntclr_canonical h ..
  | .detClr => .managed h fun h => State.detClr_canonical h ..
  | .fmtClr => .managed h fun h => State.fmtClr_canonical h ..
  | .grdClr => .managed h fun h => State.grdClr_canonical h ..
  | .memClr => .managed h fun h => State.memClr_canonical h ..
  | .elsClr => .managed h fun h => State.elsClr_canonical h ..
  | .radClr => .managed h fun h => State.radClr_canonical h ..
  | .cdcClr => .managed h fun h => State.cdcClr_canonical h ..
  | .wgtClr => .managed h fun h => State.wgtClr_canonical h ..
  | .schClr => .managed h fun h => State.schClr_canonical h ..
  | .netClr => .managed h fun h => State.netClr_canonical h ..
  | .fltClr => .managed h fun h => State.fltClr_canonical h ..
  | .lgrClr => .managed h fun h => State.lgrClr_canonical h ..
  | .twnClr => .managed h fun h => State.twnClr_canonical h ..
  | .pwrClr => .managed h fun h => State.pwrClr_canonical h ..
  | .clkClr => .managed h fun h => State.clkClr_canonical h ..
  | .secClr => .managed h fun h => State.secClr_canonical h ..
  | .mgtClr => .managed h fun h => State.mgtClr_canonical h ..
  | .netPrbsClr => .managed h fun h => State.netPrbsClr_canonical h ..
  | .radPrbsClr => .managed h fun h => State.radPrbsClr_canonical h ..
  | .twnPrbsClr => .managed h fun h => State.twnPrbsClr_canonical h ..

/-- Settles O57: a step takes a command from the queue, which is no part of the canonical form, and performs it
(`answersCanonical_exec`). -/
theorem stepKeepsCanonicalForm : Obligations.StepKeepsCanonicalForm := by
  unfold Obligations.StepKeepsCanonicalForm
  intro s t hs h
  unfold step at h
  split at h
  · exact Host.Outcome.next.inj h ▸ hs
  next c rest _ =>
    have hrest : State.canonical { s with pending := rest } = true := hs
    exact answersCanonical_exec hrest c t h

end Sys2Proof.Machine
end

section
/-! REFUTATION of O14. The statement speaks of every state, and so of a table of Ladles that lists one key twice: what
hides the second entry ends when the first is taken out. A write list that runs past the end of its scratchpad does
that within the ARM: it meets an uncorrectable word of the next region, whose fence aborts the context that the first
entry's Ladle stands for (`State.cancelStreams`), and the stream of the second entry then makes the ARM a re-arm. -/

namespace Sys2Proof.Machine

open Sys2Proof

theorem exec_arm (c : Cmd) (bank : Option (Nat × Requester)) (spine : Option SpineFault) (s : State) :
    exec (.arm c bank spine) s = admitted c.wfArm (s.arm c bank spine) := rfl

/-- A running device whose engines are powered. Ladle 0 of region 0 is listed twice, first without a stream and then
with an active stream of context 0, which runs in region 1. The first word of region 1 cannot be corrected, and the
three that its block has shown make the next one fence the region. -/
def State.ladleListedTwice : State :=
  { ((State.reset.setReg Reg.PWR_DOM 0x1FFFFFFF).setReg Reg.STA_STEP 13).setReg Reg.TCK_SLOTLEN 1000000 with
    clock := { running := true }
    mem := { padEcc := [(2 ^ 22, 255)] }
    faults := { escal := [((1 * 64 + 8) * 64, ⟨2 ^ 32 - 1, 3⟩)] }
    els := { ctxs := [(0, { image := { home := 1 }, queue := [{}] })] }
    ladles := [(0, {}), (0, { active := some { ctx := some 0 } })] }

/-- A write stream of Ladle 0 of region 0 whose list runs past the last word of its scratchpad. -/
def armPastTheRegion : Cmd :=
  { region := 0, unit := 0,
    w := { w0 := 0x550, w1 := 0x01FFE000, w2 := 0x002FFFFF, w3 := 0, w4 := 0, w5 := 0, w6 := 0, w7 := 0 } }

theorem armPastTheRegion_wf : armPastTheRegion.wfArm = true := by decide +kernel

theorem State.ladleListedTwice_active : (State.ladleListedTwice.ladle 0 0).active = none := rfl

theorem State.ladleListedTwice_goes : State.ladleListedTwice.goes armPastTheRegion 0 (2 ^ 10) = true := by
  decide +kernel

theorem State.ladleListedTwice_ladle_issue :
    (State.ladleListedTwice.issue armPastTheRegion (ladleLoc 0 0) 0 (2 ^ 10)).2.ladle 0 0 = {} := by
  rfl

/-- The ARM finds the stream that the fence of region 1 has uncovered active and puts its own into the shadow. -/
theorem State.ladleListedTwice_shadow_arm :
    ((State.ladleListedTwice.arm armPastTheRegion none none).ladle 0 0).shadow.isNone = false := by
  decide +kernel

/-- Refutes O14: on `State.ladleListedTwice`, whose Ladle reads as empty before and after the issue, the ARM leaves a
re-arm, where the first clause asks for none. -/
theorem not_ladleStreamsStartEndAndFollow : ¬ Obligations.LadleStreamsStartEndAndFollow := by
  unfold Obligations.LadleStreamsStartEndAndFollow
  rintro ⟨harm, -⟩
  obtain ⟨t, ht, hstream⟩ := harm State.ladleListedTwice armPastTheRegion none none armPastTheRegion_wf
    State.ladleListedTwice_active (congrArg (·.active) State.ladleListedTwice_ladle_issue)
    (congrArg (·.shadow) State.ladleListedTwice_ladle_issue) rfl State.ladleListedTwice_goes
  rw [exec_arm, armPastTheRegion_wf] at ht
  obtain rfl := Host.Outcome.next.inj ht
  obtain ⟨hshadow, -⟩ := hstream (.inl rfl)
  exact Bool.false_ne_true (State.ladleListedTwice_shadow_arm.symm.trans (Option.isNone_iff_eq_none.mpr hshadow))

end Sys2Proof.Machine
end

section
/-! SUPPORT. What moves a stripe keeps the controllers' own state (R287 to R293), but for the bank that the stripe
takes: said once for each function on the way, in the order of the model's files. -/

namespace Sys2Proof.Machine

open Sys2Proof

/- The lemmas are checked one after another: side by side, those that wait for one another would each hold a stack. -/
set_option Elab.async false

section
variable (s : State)

theorem State.foldl_hbm {α : Type} {f : State → α → State} (l : List α)
    (hf : ∀ (s : State) (e : α), (f s e).hbm = s.hbm) : (l.foldl f s).hbm = s.hbm :=
  foldl_keeps State.hbm hf l s

/-! ## Machine/Ops -/

theorem State.fresh_hbm : s.fresh.2.hbm = s.hbm := rfl

theorem State.draw_hbm (n : Nat) : (s.draw n).2.hbm = s.hbm := rfl

theorem State.drawFor_hbm (elastic : Bool) (n : Nat) : (s.drawFor elastic n).2.hbm = s.hbm := by
  unfold State.drawFor
  grind -linarith only [State.draw_hbm]

theorem State.eccRecord_hbm (unc : Bool) (r cls idx : Nat) (loc : BitVec 64) (addr hi : Nat) :
    (s.eccRecord unc r cls idx loc addr hi).hbm = s.hbm := by
  unfold State.eccRecord
  grind -linarith only [State.fresh_hbm, State.blockRaise_hbm, State.raise_hbm]

/-! ## Machine/Operands -/

theorem State.setByte_hbm (p : Place) (b : Byte) : (s.setByte p b).hbm = s.hbm := by
  unfold State.setByte
  grind -linarith only

theorem State.setHallmark_hbm (g : Nat × Nat) (h : Word) : (s.setHallmark g h).hbm = s.hbm := by
  unfold State.setHallmark
  grind -linarith only

theorem State.remark_hbm (g : Nat × Nat) : (s.remark g).hbm = s.hbm := by
  unfold State.remark
  grind -linarith only [State.setHallmark_hbm]

theorem State.ladleErr_hbm (r l lo n : Nat) : (s.ladleErr r l lo n).hbm = s.hbm := by
  unfold State.ladleErr
  grind -linarith only [State.setReg_hbm, State.bump_hbm]

theorem State.padEcc_hbm (w e : Nat) : (s.padEcc w e).hbm = s.hbm := by
  unfold State.padEcc
  grind -linarith only [State.bump_hbm, State.setReg_hbm, State.eccRecord_hbm]

theorem State.setActive_hbm (r l : Nat) (t : Option Stream) : (s.setActive r l t).hbm = s.hbm := rfl

theorem State.onStream_hbm (p : Port) (f : Stream → Stream) : (s.onStream p f).hbm = s.hbm := by
  unfold State.onStream
  grind -linarith only [State.setActive_hbm]

theorem State.hallFaults_hbm (r l : Nat) (gs : List (Nat × Nat)) : (s.hallFaults r l gs).hbm = s.hbm := by
  unfold State.hallFaults
  grind -linarith only [State.ladleErr_hbm, State.blockRaise_hbm, State.foldl_hbm]

theorem State.rangeFaults_hbm (r l : Nat) (t : Stream) (n : Nat) : (s.rangeFaults r l t n).hbm = s.hbm := by
  unfold State.rangeFaults
  grind -linarith only [State.ladleErr_hbm, State.raise_hbm, State.foldl_hbm]

theorem State.take_hbm (p : Port) (kind n : Nat) : (s.take p kind n).2.hbm = s.hbm := by
  unfold State.take
  grind -linarith only [State.bumpIf_hbm, State.hallFaults_hbm, State.rangeFaults_hbm, State.ladleErr_hbm,
    State.bump_hbm, State.padEcc_hbm, State.voidBuf_hbm, State.setLadle_hbm, State.foldl_hbm]

theorem State.renewWords_hbm (ps : List Place) : (s.renewWords ps).hbm = s.hbm := by
  unfold State.renewWords
  grind -linarith only [State.padEcc_hbm, State.foldl_hbm]

theorem State.putBytes_hbm (es : List (Place × Byte)) : (s.putBytes es).hbm = s.hbm := by
  induction es generalizing s with
  | nil => rfl
  | cons e l ih => exact (ih _).trans (s.setByte_hbm ..)

theorem State.give_hbm (p : Port) (kind : Nat) (bs : List Byte) : (s.give p kind bs).hbm = s.hbm := by
  unfold State.give
  grind -linarith only [State.renewWords_hbm, State.putBytes_hbm, State.rangeFaults_hbm, State.bump_hbm,
    State.hallFaults_hbm, State.voidBuf_hbm, State.setLadle_hbm]

theorem State.fillGranule_hbm (keys : List Nat) (g : Nat × Nat) : (s.fillGranule keys g).hbm = s.hbm := by
  unfold State.fillGranule
  grind -linarith only [State.foldl_hbm]

theorem State.takeScale_hbm (p : Port) : (s.takeScale p).2.2.hbm = s.hbm := by
  unfold State.takeScale
  grind -linarith only [State.take_hbm]

theorem State.scaleSkew_hbm (ctx : Option Nat) (region unit : Nat) (loc : BitVec 64) (t : Nat) :
    (s.scaleSkew ctx region unit loc t).hbm = s.hbm := by
  unfold State.scaleSkew
  grind -linarith only [State.laters_hbm]

theorem State.countFlags_hbm (region due : Nat) (fs : List FlagWord) :
    (s.countFlags region due fs).hbm = s.hbm := by
  unfold State.countFlags
  grind -linarith only [State.laters_hbm]

theorem State.shadowFault_hbm (r cls idx : Nat) (p : Option Nat) (t : Nat) :
    (s.shadowFault r cls idx p t).hbm = s.hbm := by
  unfold State.shadowFault
  grind -linarith only [State.later_hbm]

theorem State.spoil_hbm (r l : Nat) (p : Option Nat) : (s.spoil r l p).hbm = s.hbm := by
  unfold State.spoil
  grind -linarith only [State.shadowFault_hbm, State.voidBuf_hbm, State.setLadle_hbm]

theorem State.stageTags_hbm (r l : Nat) (tags : List Nat) : (s.stageTags r l tags).hbm = s.hbm := by
  unfold State.stageTags
  grind -linarith only [State.scaleSkew_hbm, State.voidBuf_hbm, State.setActive_hbm]

theorem State.takeElems_hbm (p : Port) (n ne : Nat) (f : Fmt) (zp : Nat → Option Nat) :
    (s.takeElems p n ne f zp).2.hbm = s.hbm := by
  unfold State.takeElems
  grind -linarith only [State.take_hbm, State.takeScale_hbm, State.onStream_hbm, State.stageTags_hbm,
    State.spoil_hbm]

theorem State.giveStaged_hbm (p : Port) (vals : List (Nat → FVal)) : (s.giveStaged p vals).hbm = s.hbm := by
  unfold State.giveStaged
  grind -linarith only [State.setActive_hbm, State.give_hbm, State.spoil_hbm]

theorem State.giveElems_hbm (p : Port) (f : Fmt) (codes : List Nat) (exps : List Nat) (exOf : Nat → Nat)
    (scale : List ScaleBlock) :
    (s.giveElems p f codes exps exOf scale).hbm = s.hbm := by
  unfold State.giveElems
  grind -linarith only [State.stageTags_hbm, State.giveStaged_hbm, State.give_hbm]

theorem State.stageScale_hbm (p : Port) : (s.stageScale p).hbm = s.hbm := by
  unfold State.stageScale
  grind -linarith only [State.give_hbm]

theorem State.endWrite_hbm (p : Port) (at_ : Nat) (ok void : Bool) (cause : Nat) :
    (s.endWrite p at_ ok void cause).hbm = s.hbm := by
  unfold State.endWrite
  grind -linarith only [State.stageScale_hbm, State.voidBuf_hbm, State.voidEntry_hbm, State.setLadle_hbm,
    State.fillGranule_hbm, State.remark_hbm, State.foldl_hbm]

/-! ## Machine/Ladle -/

theorem State.copyWhole_hbm (r l : Nat) (t : Stream) : (s.copyWhole r l t).hbm = s.hbm := by
  unfold State.copyWhole
  grind -linarith only [State.hallFaults_hbm, State.rangeFaults_hbm, State.ladleErr_hbm, State.bump_hbm,
    State.padEcc_hbm, State.renewWords_hbm, State.putBytes_hbm, State.setHallmark_hbm, State.voidBuf_hbm,
    State.setLadle_hbm, State.foldl_hbm]

theorem State.copyStaged_hbm (r l : Nat) (t : Stream) : (s.copyStaged r l t).hbm = s.hbm := by
  unfold State.copyStaged
  grind -linarith only [State.setActive_hbm, State.takeElems_hbm, State.take_hbm, State.giveElems_hbm,
    State.give_hbm, State.countFlags_hbm, State.endWrite_hbm, State.setLadle_hbm]

theorem State.copyNow_hbm (r l : Nat) : (s.copyNow r l).hbm = s.hbm := by
  unfold State.copyNow
  grind -linarith only [State.copyWhole_hbm, State.copyStaged_hbm]

/-! ## Machine/Hbm -/

theorem State.hbmEcc_hbm (n : Nat) (es : List (Nat × Bool)) : (s.hbmEcc n es).hbm = s.hbm := by
  unfold State.hbmEcc
  grind -linarith only [State.bump_hbm, State.setReg_hbm, State.eccRecord_hbm, State.foldl_hbm]

theorem State.loseUnits_hbm (n : Nat) (es : List (Nat × Bool)) : (s.loseUnits n es).hbm = s.hbm := by
  unfold State.loseUnits
  grind -linarith only [State.drawFor_hbm, State.setHallmark_hbm, State.foldl_hbm]

theorem State.voidStream_hbm (r l : Nat) (t : Stream) (cause : Nat) :
    (s.voidStream r l t cause).hbm = s.hbm := by
  unfold State.voidStream
  grind -linarith only [State.voidBuf_hbm, State.setActive_hbm]

theorem State.countLate_hbm (ctx : Option Nat) : (s.countLate ctx).hbm = s.hbm := by
  unfold State.countLate
  grind -linarith only [State.bump_hbm]

theorem State.afterRead_hbm (r l : Nat) : (s.afterRead r l).hbm = s.hbm := by
  unfold State.afterRead
  grind -linarith only [State.copyNow_hbm]

theorem State.landStripe_hbm (t : Stream) (n : Nat) (bs : List Byte) : (s.landStripe t n bs).hbm = s.hbm := by
  unfold State.landStripe
  grind -linarith only [State.setHallmark_hbm, State.remark_hbm, State.foldl_hbm]

end

end Sys2Proof.Machine
end

section
/-! PROOF of O15: what the stripe slots, refreshes, temperature readouts and scrubs of the memories leave. -/

namespace Sys2Proof.Machine

open Sys2Proof

section
variable (s : State)

/-! ## The delayed stripe -/

theorem State.moveStripe_waiting (stack r l idx t : Nat) (write : Bool) (ecc : List (Nat × Bool)) :
    (s.moveStripe stack r l idx t write ecc).hbm.waiting = s.hbm.waiting := by
  unfold State.moveStripe
  grind -linarith only [State.hbmEcc_hbm, State.voidStream_hbm, State.bump_hbm, State.landStripe_hbm,
    State.loseUnits_hbm, State.setActive_hbm, State.afterRead_hbm]

theorem State.delayedStripe_waiting (stack sslot : Nat) :
    SMap.read none (s.delayedStripe stack sslot).hbm.waiting stack = none := by
  unfold State.delayedStripe
  split
  next hnone => exact hnone
  next d _ =>
    -- The entry is emptied first; what moves or gives up the stripe then keeps it so.
    grind -linarith only [State.moveStripe_waiting, State.reach_hbm, State.countLate_hbm, State.voidStream_hbm,
      State.setActive_hbm, State.afterRead_hbm, SMap.read_write_same]

/-! ## Refresh entries and temperatures -/

theorem State.refreshEntry_lastRefresh {stack sslot : Nat} {w : HbmWindow}
    (hw : (s.hbmTable stack).find? (fun w => w.type = 3 && w.start = sslot) = some w)
    (hl : s.engineLive 11 = true) (hc : s.bit Reg.MEM_CFG stack = true) (hp : w.parity = true) :
    SMap.read 0 (s.refreshEntry stack sslot).hbm.lastRefresh (stack * 16 + w.bank)
      = (s.reach (4 * sslot)).absSlot sslot + 1 := by
  unfold State.refreshEntry
  simp only [hw, hl, hc, hp, Bool.not_true, Bool.or_self, Bool.false_eq_true, if_false]
  exact SMap.read_write_same

theorem State.reg_raise_detected (code : Nat) (loc : BitVec 64) (d0 d1 : Nat) {k : Nat}
    (hk : k ≠ Reg.FLT_LOST) (hk' : k ≠ Reg.FLT_CNTD) : (s.raise code .detected loc d0 d1).reg k = s.reg k := by
  unfold State.raise
  exact ((State.reg_bump ..).trans (if_neg hk')).trans (s.reg_queueRecord _ hk)

theorem State.hbmTemperature_form_of_le {stack temp rating : Nat} (h : temp ≤ rating) :
    s.hbmTemperature stack temp rating = { s with regs := (s.hbmTemperature stack temp rating).regs } := by
  unfold State.hbmTemperature State.raiseIf
  simp only [decide_eq_false (Nat.not_lt.mpr h), Bool.false_eq_true, if_false]
  rfl

theorem State.hbmTemperature_fld (stack temp rating : Nat) :
    (s.hbmTemperature stack temp rating).fld Reg.MEM_STAT (8 * (stack % 2)) 8 = min temp 255 := by
  unfold State.hbmTemperature State.raiseIf
  extract_lets +onlyGivenNames s1 hot s2
  have hset : s1.fld Reg.MEM_STAT (8 * (stack % 2)) 8 = min temp 255 := by
    rw [State.fld_setFld _ _ _ _ _ _ _ _ (by omega) (by omega), if_pos ⟨rfl, rfl, rfl⟩]
    omega
  have hhot : s2.fld Reg.MEM_STAT (8 * (stack % 2)) 8 = min temp 255 :=
    (s1.fld_setBit _ _ _ _ _ _ (by decide) (by omega)).trans hset
  split
  · unfold State.fld at hhot ⊢
    rw [s2.reg_raise_detected _ _ _ _ (by decide) (by decide), hhot]
  · exact hhot

/-! ## The write stripe that lands -/

theorem State.ladle_setActive_active (r l : Nat) (t : Option Stream) :
    ((s.setActive r l t).ladle r l).active = t := by
  unfold State.setActive State.setLadle State.ladle
  rw [SMap.read_write_same]

theorem State.setHallmark_mem_hbm (g : Nat × Nat) (h : Word) : (s.setHallmark g h).mem.hbm = s.mem.hbm := by
  unfold State.setHallmark
  split <;> rfl

theorem State.landStripe_mem_hbm (t : Stream) (n : Nat) (bs : List Byte) :
    (s.landStripe t n bs).mem.hbm = SMap.writeList 0 s.mem.hbm (n * 2048) bs := by
  unfold State.landStripe
  extract_lets s1
  refine List.foldlRecOn (motive := fun u : State => u.mem.hbm = SMap.writeList 0 s.mem.hbm (n * 2048) bs) _ _ rfl
    fun u hu g _ => ?_
  dsimp only
  split
  · exact (u.setHallmark_mem_hbm ..).trans hu
  · split
    · exact (u.setHallmark_mem_hbm ..).trans hu
    · exact hu

theorem Stream.stripeData_length {t : Stream} {n : Nat} {bs : List Byte} (h : t.stripeData n = some bs) :
    bs.length = 2048 := by
  unfold Stream.stripeData at h
  extract_lets os at h
  split at h
  next hall =>
    obtain rfl := Option.some.inj h
    calc (os.filterMap id).length = os.length := List.filterMap_length_eq_length.mpr (List.all_eq_true.mp hall)
      _ = 2048 := by rw [List.length_map, List.length_range]
  next => exact nomatch h

/-! ## Stripe slots -/

theorem State.served_of_engineLive {r : Nat} (h : s.engineLive r = true) : s.served r = true :=
  (Bool.and_eq_true_iff.mp h).2

/-- A slot that an entry of good parity gives, unstolen, to a requester without a Ladle counts a stripe (R287). -/
theorem State.hbmStripe_of_no_ladle {stack sslot region ladle : Nat} {write : Bool} {w : HbmWindow}
    (hw : (s.hbmTable stack).find?
      (fun w => w.isData && w.claims sslot && w.serves (reqOf region) write none) = some w)
    (hl : s.engineLive 11 = true) (hc : s.bit Reg.MEM_CFG stack = true) (hp : w.parity = true)
    (hr : stolenByRefresh (s.hbmTable stack) w sslot = false) (hn : 6 ≤ ladle ∨ 8 ≤ region) :
    s.hbmStripe stack sslot region ladle write [] =
      (s.reach (4 * sslot)).bump (if write then Reg.MEM_WRSTR else Reg.MEM_RDSTR) 0 32 1 := by
  have hport : (decide (ladle < 6) && decide (region < 8)) = false := by
    simp only [Bool.and_eq_false_iff, decide_eq_false_iff_not]; omega
  unfold State.hbmStripe
  simp only [hport, Bool.false_eq_true, if_false, hw, s.served_of_engineLive hl, hl, hc, hp, hr, Bool.not_true,
    Bool.or_self, Bool.true_or, if_true, Option.bind_none]
  rfl

/-- A slot that an entry of good parity gives, unstolen, to a stream moves the stream's next write stripe, which is
whole and in time, to its free bank (R287 to R293). -/
theorem State.hbmStripe_of_write {stack sslot region ladle i : Nat} {w : HbmWindow} {a : Stream} {bs : List Byte}
    (hreg : region < 8) (hlad : ladle < 6) (ha : (s.ladle region ladle).active = some a)
    (hw : (s.hbmTable stack).find?
      (fun w => w.isData && w.claims sslot && w.serves (reqOf region) true (some a)) = some w)
    (hl : s.engineLive 11 = true) (hc : s.bit Reg.MEM_CFG stack = true) (hp : w.parity = true)
    (hr : stolenByRefresh (s.hbmTable stack) w sslot = false)
    (hlock : (s.reach (4 * sslot)).lostLock (13 + stack) = false) (hi : a.nextStripe stack true = some i)
    (hstart : a.start + 24 ≤ 4 * sslot) (hbs : a.stripeData (a.writeStripes.getD i 0) = some bs)
    (hbank : (s.reach (4 * sslot)).bankFree stack (stripeBank (a.writeStripes.getD i 0))
      ((s.reach (4 * sslot)).absSlot sslot) = true) :
    s.hbmStripe stack sslot region ladle true [] = (s.reach (4 * sslot)).moveStripe stack region ladle i
      ((s.reach (4 * sslot)).absSlot sslot) true [] := by
  unfold State.hbmStripe
  simp only [hreg, hlad, decide_true, Bool.and_self, if_true, ha, hw, s.served_of_engineLive hl, hl, hc, hp, hr,
    hlock, hi, hbs, hbank, decide_eq_false (Nat.not_lt.mpr hstart), Bool.not_true, Bool.or_self, Bool.true_or,
    Option.bind_some, Option.isNone_some, Bool.and_false, Bool.false_eq_true, if_false]

/-- The state in which a stripe of bank `bank` lands, counted and with its bank taken at stripe slot `t`. -/
def State.takeBank (s : State) (stack bank t : Nat) : State :=
  { s with hbm := { s.hbm with
      lastStripe := SMap.write 0 s.hbm.lastStripe (stack * 16 + bank) (t + 1) } }.bump Reg.MEM_WRSTR 0 32 1

/-- A write stripe of a stream that has all its bytes lands whole and is marked as moved. -/
theorem State.moveStripe_write {stack region ladle i t : Nat} {a : Stream} {bs : List Byte}
    (ha : (s.ladle region ladle).active = some a) (hbs : a.stripeData (a.writeStripes.getD i 0) = some bs) :
    ∃ d, s.moveStripe stack region ladle i t true [] =
      ((s.takeBank stack (stripeBank (a.writeStripes.getD i 0)) t).landStripe a (a.writeStripes.getD i 0)
        bs).setActive region ladle (some { a with wmoved := a.wmoved ++ [i], doneAt := d }) := by
  have ht (u : State) (hu : u.ladles = s.ladles) : (u.ladle region ladle).active.getD a = a := by
    unfold State.ladle at ha ⊢
    rw [hu, ha, Option.getD_some]
  unfold State.moveStripe
  split
  next hnone => exact nomatch ha.symm.trans hnone
  next a' ha' =>
    obtain rfl := Option.some.inj (ha.symm.trans ha')
    extract_lets n h s1 s2 bad s3 a2 s4 s5
    have ha2 : a2 = a := ht s3 rfl
    have hs5 : s5 = (s.takeBank stack (stripeBank n) t).landStripe a n bs := by
      change s4.landStripe a2 n ((a2.stripeData n).getD []) = _
      rw [ha2, show a.stripeData n = some bs from hbs]
      rfl
    refine ⟨s5.clock.cc + 60, ?_⟩
    rw [if_pos rfl, ha2, hs5]
    rfl

theorem State.setActive_mem (r l : Nat) (t : Option Stream) : (s.setActive r l t).mem = s.mem := rfl

/-- The bytes of a write stripe that has landed are those that the stream had waiting. -/
theorem State.read_moveStripe_write {stack region ladle i t : Nat} {a : Stream} {bs : List Byte}
    (ha : (s.ladle region ladle).active = some a) (hbs : a.stripeData (a.writeStripes.getD i 0) = some bs)
    {j : Nat} (hj : j < 2048) :
    SMap.read 0 (s.moveStripe stack region ladle i t true []).mem.hbm (a.writeStripes.getD i 0 * 2048 + j) =
      bs.getD j 0 := by
  obtain ⟨d, hmove⟩ := s.moveStripe_write (stack := stack) (t := t) ha hbs
  rw [hmove, State.setActive_mem, State.landStripe_mem_hbm, SMap.read_writeList, Stream.stripeData_length hbs,
    if_pos (by omega), Nat.add_sub_cancel_left]

theorem State.active_moveStripe_write {stack region ladle i t : Nat} {a : Stream} {bs : List Byte}
    (ha : (s.ladle region ladle).active = some a) (hbs : a.stripeData (a.writeStripes.getD i 0) = some bs) :
    ∃ b, ((s.moveStripe stack region ladle i t true []).ladle region ladle).active = some b ∧
      b.wmoved = a.wmoved ++ [i] := by
  obtain ⟨d, hmove⟩ := s.moveStripe_write (stack := stack) (t := t) ha hbs
  exact ⟨_, by rw [hmove, State.ladle_setActive_active], rfl⟩

/-! ## The scrubber -/

theorem State.fresh_mem : s.fresh.2.mem = s.mem := rfl

theorem State.eccRecord_mem (unc : Bool) (r cls idx : Nat) (loc : BitVec 64) (addr hi : Nat) :
    (s.eccRecord unc r cls idx loc addr hi).mem = s.mem := by
  unfold State.eccRecord
  grind -linarith only [State.fresh_mem, State.blockRaise_mem, State.raise_mem]

theorem State.padEcc_mem (w e : Nat) : (s.padEcc w e).mem = s.mem := by
  unfold State.padEcc
  grind -linarith only [State.eccRecord_mem, State.bump_mem, State.setReg_mem]

/-- The scrubber at word `w`: a single error is reported and corrected, a double one reported (R264). -/
def State.scrubWord (s : State) (w : Nat) : State :=
  let e := SMap.read 0 s.mem.padEcc w
  if e = 0 then s
  else
    let s := s.padEcc w e
    if e = 255 then s
    else { s with mem := { s.mem with padEcc := SMap.write 0 s.mem.padEcc w 0 } }

/-- Word `w` holds no single error. -/
def State.mended (s : State) (w : Nat) : Prop :=
  SMap.read 0 s.mem.padEcc w = 0 ∨ SMap.read 0 s.mem.padEcc w = 255

theorem State.scrubWord_read (w v : Nat) :
    SMap.read 0 (s.scrubWord w).mem.padEcc v =
      if v = w ∧ SMap.read 0 s.mem.padEcc w ≠ 255 then 0 else SMap.read 0 s.mem.padEcc v := by
  unfold State.scrubWord
  extract_lets e u
  have hu : u.mem = s.mem := s.padEcc_mem w e
  split
  next h0 => exact (ite_eq_right_iff.mpr fun h => h.1 ▸ h0.symm).symm
  next =>
    split
    next h255 => rw [hu, if_neg fun h => h.2 h255]
    next h255 =>
      rw [SMap.read_write, hu]
      simp only [h255, ne_eq, e, not_false_eq_true, and_true]

theorem State.scrubWord_mended (w : Nat) : (s.scrubWord w).mended w := by
  unfold State.mended
  rw [State.scrubWord_read]
  split
  next => exact .inl rfl
  next h => exact .inr (not_not.mp fun hne => h ⟨rfl, hne⟩)

theorem State.mended.scrubWord {s : State} {v : Nat} (h : s.mended v) (w : Nat) : (s.scrubWord w).mended v := by
  unfold State.mended at h ⊢
  rw [State.scrubWord_read]
  split
  · exact .inl rfl
  · exact h

theorem State.foldl_scrubWord_mended (line i : Nat) (l : List Nat) (h : i ∈ l ∨ s.mended (line + i)) :
    (l.foldl (fun s i => s.scrubWord (line + i)) s).mended (line + i) := by
  induction l generalizing s with
  | nil => exact h.resolve_left nofun
  | cons k l ih =>
    refine ih _ ?_
    rcases h with h | h
    · rcases List.mem_cons.mp h with rfl | h
      · exact .inr (s.scrubWord_mended _)
      · exact .inl h
    · exact .inr (h.scrubWord _)

section
variable {r bank : Nat} (found : List (Nat × Nat)) (hr : r < 8) (hb : bank < 48) (hs : s.served r = true)
  (hp : s.portEmpty r bank = true)
include hr hb hs hp

/-- What keeps a scrub from running is absent. -/
theorem State.scrub_runs : (!s.served r || decide (48 ≤ bank) || decide (8 ≤ r) || !s.portEmpty r bank) = false := by
  simp only [hs, hp, decide_eq_false (Nat.not_le.mpr hr), decide_eq_false (Nat.not_le.mpr hb), Bool.not_true,
    Bool.or_self]

theorem State.scrub_scrubbed :
    SMap.read 0 (s.scrub r bank found).hbm.scrubbed (r * 48 + bank) =
      SMap.read 0 s.hbm.scrubbed (r * 48 + bank) + 1 := by
  unfold State.scrub
  rw [s.scrub_runs hr hb hs hp, if_neg Bool.false_ne_true]
  extract_lets k n before line s1 s2 u s3
  clear_value s2
  rw [State.bump_hbm]
  change SMap.read 0 (SMap.write 0 s2.hbm.scrubbed k (n + 1)) k = n + 1
  exact SMap.read_write_same

theorem State.scrub_mended {i : Nat} (hi : i < 8) :
    (s.scrub r bank found).mended
      (r * 2 ^ 22 + bank * 65536 + SMap.read 0 s.hbm.scrubbed (r * 48 + bank) % 8192 * 8 + i) := by
  unfold State.scrub
  rw [s.scrub_runs hr hb hs hp, if_neg Bool.false_ne_true]
  extract_lets k n before line s1 s2 u s3
  have hs2 : s2 = (List.range 8).foldl (fun s i => s.scrubWord (line + i)) s1 := rfl
  clear_value s2
  unfold State.mended
  rw [State.bump_mem]
  change s2.mended (line + i)
  rw [hs2]
  exact State.foldl_scrubWord_mended s1 line i (List.range 8) (.inl (List.mem_range.mpr hi))

end

end

/-- Settles O15: what each event of the memories leaves is a lemma of its own above. -/
theorem hbmEventsCountAndClear : Obligations.HbmEventsCountAndClear := by
  unfold Obligations.HbmEventsCountAndClear
  intro s
  refine ⟨?counted, ?landed, ?delayed, ?refreshed, ?readOut, ?scrubbed⟩
  case counted =>
    intro stack sslot region ladle write w hw hl hc hp hr hn
    refine ⟨_, rfl, ?_⟩
    rw [s.hbmStripe_of_no_ladle hw hl hc hp hr hn]
    exact (State.fld_bump _ _ _ _ _ _ _ _ (by decide) (by omega)).trans (if_pos ⟨rfl, rfl, rfl⟩)
  case landed =>
    intro stack sslot region ladle w a i bs hreg hlad k s1 n ha ha1 hw hl hc hp hr hlock hi hstart hbs hbank
    obtain ⟨b, hb, hmoved⟩ := s1.active_moveStripe_write (stack := k) (t := s1.absSlot sslot) ha1 hbs
    have hslot := s.hbmStripe_of_write hreg hlad ha hw hl hc hp hr hlock hi hstart hbs hbank
    refine ⟨_, b, rfl, ?_⟩
    rw [hslot]
    exact ⟨fun j hj => s1.read_moveStripe_write ha1 hbs hj, hb, hmoved⟩
  case delayed => exact fun stack sslot => ⟨_, rfl, s.delayedStripe_waiting _ sslot⟩
  case refreshed => exact fun stack sslot w hw hl hc hp => ⟨_, rfl, s.refreshEntry_lastRefresh hw hl hc hp⟩
  case readOut =>
    exact fun stack temp => ⟨_, rfl, s.hbmTemperature_fld stack temp 95, fun h => s.hbmTemperature_form_of_le h⟩
  case scrubbed =>
    exact fun region bank found hr hb hs hp =>
      ⟨_, rfl, s.scrub_scrubbed found hr hb hs hp, fun i hi => s.scrub_mended found hr hb hs hp hi⟩

end Sys2Proof.Machine
end

section
/-! PROOF of O3: which commands are answered with a next state (R300, R306). -/

namespace Sys2Proof.Machine

open Sys2Proof

/-- The loader's rules that read the command alone are the only thing that stops an engine command. -/
theorem exec_eq_admitted_of_isEngine (s : State) {i : Instr} (h : i.isEngine = true) :
    ∃ t, exec i s = admitted i.wf t := by
  unfold Instr.isEngine at h
  split at h
  case h_47 => nomatch h
  all_goals exact ⟨_, rfl⟩

/-- No rule of the loader reads any other command. -/
theorem exec_eq_next_of_not_isEngine (s : State) {i : Instr} (h : i.isEngine = false) :
    ∃ t, exec i s = .next t := by
  cases i
  case load | stream | loadstream | bias | drain | vload | sweep | sout | transpose | openTensor | accum | flush
    | tload | tstore | ewise | reduce | desc | lookup | sort | select | pack | crc | scramble | reenc | batch | fill
    | arm | fft | ifft | fir | fetch | steer | ldec | lenc | pdec | penc | tbseg | tbchk | reEncoding | uprx | uptx
    | cptx | l2tx | l2rx | send | recv => nomatch h
  all_goals exact ⟨_, rfl⟩

theorem admitted_of_eq_false {ok : Bool} (h : ok = false) (t : State) :
    admitted ok t = .refused .loaderRefuses := by rw [h]; rfl

/-- Settles O3: an engine command is admitted exactly where the loader's rules accept it
(`exec_eq_admitted_of_isEngine`), and no other command asks them (`exec_eq_next_of_not_isEngine`). -/
theorem everyCommandIsAnswered : Obligations.EveryCommandIsAnswered := by
  unfold Obligations.EveryCommandIsAnswered
  refine ⟨fun i s h => ?_, fun i s h => exec_eq_next_of_not_isEngine s h⟩
  obtain ⟨t, ht⟩ := exec_eq_admitted_of_isEngine s h
  exact ⟨fun hw => ht.trans (admitted_of_eq_false hw t), fun hw => ⟨t, ht.trans (admitted_of hw t)⟩⟩

end Sys2Proof.Machine
end

section
/-! PROOF of O43: what a commit of one group, a plan switch request and a DISCARD do (R309, R588 to R590). -/

namespace Sys2Proof.Machine

open Sys2Proof

/-! ## One group of a commit -/

section
variable (s : State) {g : Nat}

/-- The state in which a commit judges its groups: what the last commit showed reads 0 (R588). -/
abbrev State.judging : State := s.zeroRegs [Reg.MGT_CSTAT, Reg.MGT_CREASON, Reg.MGT_CADDR]

/-- The staged registers of a group. -/
abbrev State.stagedIn (g : Nat) : List (Nat × Staged) := s.commit.shadow.filter fun e => groupOf e.1 == g

theorem State.judging_form : s.judging = { s with regs := s.judging.regs } := s.zeroRegs_form _

theorem State.judging_commit : s.judging.commit = s.commit := by rw [State.judging_form]

theorem State.judging_mem : s.judging.mem = s.mem := by rw [State.judging_form]

theorem State.judging_clock : s.judging.clock = s.clock := by rw [State.judging_form]

theorem State.judging_fld_cstat (lo n : Nat) : s.judging.fld Reg.MGT_CSTAT lo n = 0 := by
  unfold State.fld
  rw [State.reg_zeroRegs, if_pos (by decide)]
  simp [bitsOf]

/-- The epoch tick of a commit hangs on the data plane's clock and on the registers of the slots (R16, R67, R69). -/
theorem State.dueSlot_congr {s t : State} (hc : t.clock = s.clock)
    (hr : ∀ k ∈ [Reg.TCK_SLOTNUM, Reg.TCK_SLOTLEN, Reg.TCK_SPE, Reg.STA_STEP], t.reg k = s.reg k) :
    t.dueSlot = s.dueSlot := by
  simp only [List.forall_mem_cons] at hr
  obtain ⟨hslot, hlen, hspe, hstep, -⟩ := hr
  unfold State.dueSlot State.epochAfter State.started State.slot State.slotLen State.spe State.fld
  rw [hc, hslot, hlen, hspe, hstep]

/-- A commit of one group judges that group, and tells the host how it ended (R588). -/
theorem State.doCommit_single (hg : g < 15) :
    ∃ payload, s.doCommit (2 ^ g) = (s.judging.judgeGroup g).announce 0xA4 payload := by
  have hone : ∀ g < 15, 2 ^ g % 2 ^ 15 ≠ 0 ∧ (List.range 15).filter (2 ^ g).testBit = [g] := by decide
  obtain ⟨hmask, hgroups⟩ := hone g hg
  unfold State.doCommit
  rw [if_neg hmask]
  simp only [← List.foldl_filter, hgroups]
  exact ⟨_, rfl⟩

/-- A group that nothing refuses is shown as accepted, and its staged registers wait for the epoch tick (R588, R591). -/
theorem State.judgeGroup_of_accepted (hg : g < 32) (h : s.groupRefusal g = none) :
    (s.judgeGroup g).bit Reg.MGT_CSTAT g = true ∧
    (s.judgeGroup g).reg Reg.MGT_CEPOCH = BitVec.ofNat 32 s.dueSlot ∧
    (s.judgeGroup g).commit =
      { shadow := s.commit.shadow.drop fun k => groupOf k == g
        waiting := s.commit.waiting ++ (s.stagedIn g).map fun e => ⟨s.dueSlot, e.1, e.2⟩ } ∧
    (s.judgeGroup g).mem = s.mem := by
  unfold State.judgeGroup
  split
  next hrefused => exact nomatch h.symm.trans hrefused
  extract_lets s1 due s2 mine s3
  have hdue : due = s.dueSlot := State.dueSlot_congr rfl (by
    simp [s1, State.reg_bump, State.reg_setBit, Reg.TCK_SLOTNUM, Reg.TCK_SLOTLEN, Reg.TCK_SPE, Reg.STA_STEP,
      Reg.MGT_CSTAT, Reg.MGT_CCNT])
  have hbit : s2.bit Reg.MGT_CSTAT g = true := by
    rw [State.bit_setReg, if_neg (by decide), State.bit_bump _ _ _ _ _ _ _ (by decide) (.inl (by decide)),
      s.bit_setBit_same _ true hg]
  rw [← hdue]
  split <;> exact ⟨hbit, s1.reg_setReg_same .., rfl, rfl⟩

/-- A group that is refused is shown as refused with the register and the reason, and stays staged (R588, R590). -/
theorem State.judgeGroup_of_refused {a reason fault : Nat} (hg : g < 15) (hfirst : s.fld Reg.MGT_CSTAT 16 15 = 0)
    (h : s.groupRefusal g = some (a, reason, fault)) :
    (s.judgeGroup g).bit Reg.MGT_CSTAT (16 + g) = true ∧
    (s.judgeGroup g).reg Reg.MGT_CREASON = BitVec.ofNat 32 (reason + g * 16) ∧
    (s.judgeGroup g).reg Reg.MGT_CADDR = BitVec.ofNat 32 a ∧
    (s.judgeGroup g).commit = s.commit ∧ (s.judgeGroup g).mem = s.mem := by
  unfold State.judgeGroup
  split
  case h_2 haccepted => exact nomatch h.symm.trans haccepted
  next _ _ _ hrefused =>
  obtain ⟨rfl, rfl, rfl⟩ : _ ∧ _ ∧ _ := by simpa using h.symm.trans hrefused
  extract_lets first s1 s2 s3
  have hs3 : s3 = (s2.setReg Reg.MGT_CREASON (BitVec.ofNat 32 (reason + g * 16))).setReg Reg.MGT_CADDR
      (BitVec.ofNat 32 a) := if_pos (beq_iff_eq.mpr hfirst)
  have hbit : s3.bit Reg.MGT_CSTAT (16 + g) = true := by
    rw [hs3, State.bit_setReg, if_neg (by decide), State.bit_setReg, if_neg (by decide),
      State.bit_bump _ _ _ _ _ _ _ (by decide) (.inl (by decide)), s.bit_setBit_same _ true (by omega)]
  have hreason : s3.reg Reg.MGT_CREASON = BitVec.ofNat 32 (reason + g * 16) := by
    rw [hs3, State.reg_setReg, if_neg (by decide), State.reg_setReg_same]
  have haddr : s3.reg Reg.MGT_CADDR = BitVec.ofNat 32 a := hs3 ▸ State.reg_setReg_same ..
  have hraise (code : Nat) (loc : BitVec 64) (d0 d1 : Nat) :
      let t := s3.raise code .detected loc d0 d1
      t.bit Reg.MGT_CSTAT (16 + g) = true ∧ t.reg Reg.MGT_CREASON = BitVec.ofNat 32 (reason + g * 16) ∧
        t.reg Reg.MGT_CADDR = BitVec.ofNat 32 a ∧ t.commit = s.commit ∧ t.mem = s.mem := by
    have hreg {k : Nat} (hlost : k ≠ Reg.FLT_LOST) (hcnt : k ≠ Reg.FLT_CNTD) :=
      s3.reg_raise_detected code loc d0 d1 hlost hcnt
    refine ⟨?_, (hreg (by decide) (by decide)).trans hreason, (hreg (by decide) (by decide)).trans haddr, ?_, ?_⟩
    · exact (congrArg (bitOf · (16 + g)) (hreg (by decide) (by decide))).trans hbit
    · rw [State.raise_commit, hs3]; rfl
    · rw [State.raise_mem, hs3]; rfl
  split <;> exact hraise ..

end

/-! ## The commands -/

section
variable {s : State} {g : Nat} (hd : s.faults.discard = false)
include hd

theorem exec_commit_of_accepted (hg : g < 15) (h : s.judging.groupRefusal g = none) :
    ∃ t, exec (.commit (2 ^ g)) s = .next t ∧ t.bit Reg.MGT_CSTAT g = true ∧
      t.reg Reg.MGT_CEPOCH = BitVec.ofNat 32 s.dueSlot ∧
      t.commit.waiting = s.commit.waiting ++ (s.stagedIn g).map (fun e => ⟨s.dueSlot, e.1, e.2⟩) ∧
      t.commit.shadow = s.commit.shadow.filter (fun e => !(groupOf e.1 == g)) ∧ t.mem = s.mem := by
  obtain ⟨payload, hcommit⟩ := s.doCommit_single hg
  obtain ⟨hbit, hepoch, hunit, hmem⟩ := s.judging.judgeGroup_of_accepted (by omega) h
  have hdue : s.judging.dueSlot = s.dueSlot :=
    State.dueSlot_congr s.judging_clock fun k hk =>
      (s.reg_zeroRegs ..).trans (if_neg (by revert k; decide))
  rw [hdue] at hepoch
  rw [State.stagedIn, hdue, s.judging_commit] at hunit
  refine ⟨_, exec_of_chip hd rfl, ?_⟩
  rw [hcommit]
  exact ⟨hbit, hepoch, congrArg CommitUnit.waiting hunit, congrArg CommitUnit.shadow hunit,
    hmem.trans s.judging_mem⟩

theorem exec_commit_of_refused {a reason fault : Nat} (hg : g < 15)
    (h : s.judging.groupRefusal g = some (a, reason, fault)) :
    ∃ t, exec (.commit (2 ^ g)) s = .next t ∧ t.bit Reg.MGT_CSTAT (16 + g) = true ∧
      t.reg Reg.MGT_CREASON = BitVec.ofNat 32 (reason + g * 16) ∧ t.reg Reg.MGT_CADDR = BitVec.ofNat 32 a ∧
      t.commit = s.commit ∧ t.mem = s.mem := by
  obtain ⟨payload, hcommit⟩ := s.doCommit_single hg
  obtain ⟨hbit, hreason, haddr, hunit, hmem⟩ :=
    s.judging.judgeGroup_of_refused hg (s.judging_fld_cstat 16 15) h
  refine ⟨_, exec_of_chip hd rfl, ?_⟩
  rw [hcommit]
  exact ⟨hbit, hreason, haddr, hunit.trans s.judging_commit, hmem.trans s.judging_mem⟩

theorem exec_planSwitchRequest_eq_commit (v : Nat) :
    exec (.planSwitchRequest v) s =
      exec (.commit 1) (s.stage Reg.SPL_SWREQ 0x1FFFF (BitVec.ofNat 32 (v % 2 ^ 16 + 2 ^ 16))) := by
  rw [exec_of_chip hd (i := .planSwitchRequest v) rfl, exec_of_chip (i := .commit 1) (by exact hd) rfl]
  rfl

end

/-- A register with a bit of it staged stands among the staged registers. -/
theorem State.mem_shadow_stage (s : State) (k : Nat) {mask val : Word} (hm : mask ≠ 0) :
    ∃ y, (k, y) ∈ (s.stage k mask val).commit.shadow := by
  rcases SMap.read_mem_or ({} : Staged) (s.stage k mask val).commit.shadow k with h | h
  · exact ⟨_, h⟩
  · have hmask : (SMap.read ({} : Staged) s.commit.shadow k).mask ||| mask = 0 :=
      congrArg Staged.mask (SMap.read_write_same.symm.trans h)
    exact absurd (BitVec.or_eq_zero_iff.mp hmask).2 hm

/-- A DISCARD of groups takes the staged registers of these groups alone (R588). -/
theorem State.discard_of_groups (s : State) {mask : Nat} (h : mask < 2 ^ 15) :
    s.discard mask = { s with commit := { s.commit with
      shadow := s.commit.shadow.filter fun e => !mask.testBit (groupOf e.1) } } := by
  have hbit (g : Nat) : (mask.testBit g && decide (g < 15)) = mask.testBit g := by
    rcases Nat.lt_or_ge g 15 with hg | hg
    · simp [hg]
    · have : mask.testBit g = false :=
        Nat.testBit_lt_two_pow (h.trans_le (Nat.pow_le_pow_right (by decide) hg))
      simp [this]
  unfold State.discard SMap.drop
  simp only [hbit]

/-- Settles O43: a commit of one group is judged by `State.groupRefusal` (`State.judgeGroup_of_accepted`,
`State.judgeGroup_of_refused`), and a plan switch request is such a commit. -/
theorem commitsAreJudgedByGroup : Obligations.CommitsAreJudgedByGroup := by
  unfold Obligations.CommitsAreJudgedByGroup
  intro s hd
  refine ⟨fun g hg => ⟨exec_commit_of_accepted hd hg, fun a reason fault => exec_commit_of_refused hd hg⟩,
    fun v => ⟨exec_planSwitchRequest_eq_commit hd v, fun haccepted => ?switch⟩, fun mask hmask => ?discard⟩
  case switch =>
    obtain ⟨t, ht, hbit, -, hwaiting, hshadow, -⟩ :=
      exec_commit_of_accepted (g := 0) (by exact hd) (by decide) haccepted
    refine ⟨t, (exec_planSwitchRequest_eq_commit hd v).trans ht, hbit, ?_, ?_⟩
    · unfold State.isStaged
      rw [hshadow, SMap.read_filter (p := fun k => !(groupOf k == 0)), if_neg (by decide)]
      rfl
    · obtain ⟨y, hy⟩ := s.mem_shadow_stage Reg.SPL_SWREQ (mask := 0x1FFFF)
        (val := BitVec.ofNat 32 (v % 2 ^ 16 + 2 ^ 16)) (by decide)
      rw [hwaiting, List.any_eq_true]
      exact ⟨_, List.mem_append_right _ (List.mem_map_of_mem (List.mem_filter.mpr ⟨hy, rfl⟩)), beq_self_eq_true _⟩
  case discard =>
    refine ⟨_, exec_of_chip hd rfl, ?_⟩
    rw [s.discard_of_groups hmask]
    exact ⟨rfl, rfl, rfl⟩

end Sys2Proof.Machine
end

section
/-! PROOF of O39: swaps, window cuts and the elastic sequence (R315, R327 to R331). -/

namespace Sys2Proof.Machine

open Sys2Proof

section
variable (s : State)

/-! ## What keeps a context in or out of residence -/

/-- The swaps in progress and whether context `j` is resident. -/
def State.residency (s : State) (j : Nat) : SMap (Option Swapping) × Bool := (s.els.swaps, (s.ctx j).resident)

theorem State.onCtx_residency {c : Nat} {f : Ctx → Ctx} (h : ∀ x, (f x).resident = x.resident) (j : Nat) :
    (s.onCtx c f).residency j = s.residency j := by
  refine Prod.ext rfl ?_
  change ((s.onCtx c f).ctx j).resident = _
  rw [State.ctx_onCtx]
  split
  next hj => rw [h, hj]; rfl
  next => rfl

theorem State.complete_residency (ctx : Option Nat) (r buf j : Nat) :
    (s.complete ctx r buf).residency j = s.residency j := by
  unfold State.complete
  split
  · rfl
  · cases ctx with
    | none => rfl
    | some c => refine s.onCtx_residency ?_ j; exact fun _ => rfl

theorem State.settleSignals_residency (t j : Nat) : (s.settleSignals t).residency j = s.residency j :=
  foldr_keeps (fun s : State => s.residency j) (fun s _ => s.complete_residency ..) _ _

theorem State.refreshCtx_residency (r t k j : Nat) : (s.refreshCtx r t k).residency j = s.residency j := by
  unfold State.refreshCtx
  dsimp only
  split
  · refine s.onCtx_residency ?_ j; exact fun _ => rfl
  · split
    · refine s.onCtx_residency ?_ j; exact fun x => by split <;> rfl
    · split
      · refine s.onCtx_residency ?_ j; exact fun _ => rfl
      · rfl
    · split
      · rfl
      · refine s.onCtx_residency ?_ j; exact fun _ => rfl
    · rfl

theorem State.refreshed_residency (r t j : Nat) : (s.refreshed r t).residency j = s.residency j :=
  (foldl_keeps (fun s : State => s.residency j) (fun s _ => s.refreshCtx_residency ..) _ _).trans
    (s.settleSignals_residency t j)

theorem State.leaveSet_residency (r k start j : Nat) : (s.leaveSet r k start).residency j = s.residency j := by
  refine State.onCtx_residency _ ?_ j; exact fun _ => rfl

theorem State.dropIdle_residency (r k j : Nat) : (s.dropIdle r k).residency j = s.residency j := by
  unfold State.dropIdle
  split
  next h =>
    obtain ⟨start, hm⟩ := Option.isSome_iff_exists.mp (Bool.and_eq_true_iff.mp h).1
    rw [s.endMember_of_some hm, s.leaveSet_residency]
  next => rfl

theorem State.beginMember_residency (r t k j : Nat) : (s.beginMember r t k).residency j = s.residency j := by
  refine State.onCtx_residency _ ?_ j; exact fun _ => rfl

theorem State.fillSet_residency (r t n j : Nat) : (s.fillSet r t n).residency j = s.residency j := by
  induction n generalizing s with
  | zero => rfl
  | succ n ih =>
    unfold State.fillSet
    split
    exacts [rfl, (ih _).trans (s.beginMember_residency ..)]

theorem State.decision_residency (r t j : Nat) : (s.decision r t).residency j = s.residency j := by
  by_cases h : (s.exact || !s.engineLive r) = true
  · unfold State.decision
    rw [if_pos h]
  · obtain ⟨hexact, hlive⟩ : s.exact = false ∧ s.engineLive r = true := by simpa using h
    rw [s.decision_eq hexact hlive]
    exact (State.fillSet_residency ..).trans ((foldl_keeps (fun s : State => s.residency j)
      (fun s _ => s.dropIdle_residency ..) _ _).trans (s.refreshed_residency r t j))

/-! ## The swap that a scheduler starts (R328, R329) -/

theorem State.swapping_setSwap (r : Nat) (x : Option Swapping) : (s.setSwap r x).swapping r = x :=
  SMap.read_write_same (α := Option Swapping)

theorem State.swapping_startSwap (r t cycles : Nat) (out : Option Nat) (into : Nat) :
    (s.startSwap r t cycles out into).swapping r =
      some ⟨out, into, t, t + max cycles (s.swapCycles out into)⟩ := s.swapping_setSwap ..

theorem State.trySwap_into {r t cycles into : Nat} (hexact : s.exact = false) (hlive : s.engineLive r = true)
    (hnone : s.swapping r = none) (hwindow : s.inWindow r t = true)
    (hbest : (s.refreshed r t).bestOf r (((s.refreshed r t).homed r).filter fun k =>
      !((s.refreshed r t).ctx k).resident && ((s.refreshed r t).ctx k).state == .runnable) = some into)
    (hfree : ((s.refreshed r t).residents r).length < 8) :
    s.trySwap r t cycles = ((s.refreshed r t).reach t).startSwap r t cycles none into := by
  unfold State.trySwap
  rw [if_neg (by rw [hexact, hlive, hnone, hwindow]; decide)]
  dsimp only
  split
  next hnobody => exact nomatch hbest.symm.trans hnobody
  next best hfound =>
    obtain rfl : into = best := Option.some.inj (hbest.symm.trans hfound)
    exact if_pos hfree

/-! ## The swap that completes (R327, R328) -/

/-- The elastic plane and the registers, which no copy of the bytes of a context touches. -/
def State.uncopied (s : State) : Elastic × SMap Word := (s.els, s.regs)

theorem State.setHallmark_uncopied (g : Nat × Nat) (h : Word) : (s.setHallmark g h).uncopied = s.uncopied := by
  unfold State.setHallmark
  split <;> rfl

theorem State.moveHalls_uncopied (r : Nat) (i : CtxImage) (out : Bool) :
    (s.moveHalls r i out).uncopied = s.uncopied := by
  refine foldl_keeps State.uncopied (fun s g => ?_) _ _
  split <;> exact s.setHallmark_uncopied ..

/-- `t` is `s` after a copy of bytes that leaves context `k` resident, or not. -/
def State.Copied (s : State) (k : Nat) (resident : Bool) (t : State) : Prop :=
  ∃ (u : State) (f : Ctx → Ctx), u.uncopied = s.uncopied ∧ (∀ x, (f x).resident = resident) ∧ t = u.onCtx k f

variable {s} in
theorem State.Copied.regs {k : Nat} {b : Bool} {t : State} (h : s.Copied k b t) : t.regs = s.regs := by
  obtain ⟨u, f, hu, -, rfl⟩ := h
  exact congrArg Prod.snd hu

variable {s} in
theorem State.Copied.resident {k : Nat} {b : Bool} {t : State} (h : s.Copied k b t) (j : Nat) :
    (t.ctx j).resident = if j = k then b else (s.ctx j).resident := by
  obtain ⟨u, f, hu, hf, rfl⟩ := h
  rw [State.ctx_onCtx]
  split
  · exact hf _
  · exact congrArg (fun x : Elastic × SMap Word => (SMap.read {} x.1.ctxs j).resident) hu

theorem State.copied_onCtx {u : State} {k : Nat} {b : Bool} {f : Ctx → Ctx} (hu : u.uncopied = s.uncopied)
    (hf : ∀ x, (f x).resident = b) : s.Copied k b (u.onCtx k f) := ⟨u, f, hu, hf, rfl⟩

theorem State.loadRow_uncopied (r a row : Nat) (keep : AccRow) (bs : List Byte) :
    (s.loadRow r a row keep bs).uncopied = s.uncopied := by
  dsimp only [State.loadRow, State.uncopied]

theorem State.loadTile_uncopied (r p tile : Nat) (keep : List PlnRow) (bs : List Byte) :
    (s.loadTile r p tile keep bs).uncopied = s.uncopied := by
  dsimp only [State.loadTile, State.uncopied]

theorem State.uncopied_of_mem (m : Memories) (n : Nat) :
    ({ s with mem := m, free := n } : State).uncopied = s.uncopied := rfl

theorem State.copied_saveCtx (r k : Nat) : s.Copied k false (s.saveCtx r k) := by
  unfold State.saveCtx State.drawFor
  dsimp only [↓reduceIte]
  refine s.copied_onCtx ?_ ?_
  · rw [State.moveHalls_uncopied]
    exact s.uncopied_of_mem ..
  · exact fun _ => rfl

theorem State.copied_restoreCtx (r k slot : Nat) : s.Copied k true (s.restoreCtx r k slot) := by
  unfold State.restoreCtx
  dsimp only
  refine s.copied_onCtx ?_ ?_
  · rw [State.moveHalls_uncopied]
    refine (State.uncopied_of_mem _ _ _).trans ?_
    exact (foldl_keeps State.uncopied (fun s n => s.loadTile_uncopied ..) _ _).trans
      (foldl_keeps State.uncopied (fun s n => s.loadRow_uncopied ..) _ _)
  · exact fun _ => rfl

/-- The context that a swap evicts, if any, is saved (R328). -/
def State.swapOut (s : State) (r : Nat) (out : Option Nat) : State :=
  match out with
  | some o => s.saveCtx r o
  | none => s

theorem State.swapOut_regs (r : Nat) (out : Option Nat) : (s.swapOut r out).regs = s.regs := by
  cases out with
  | none => rfl
  | some o => exact (s.copied_saveCtx r o).regs

/-- The position that the incoming context of a swap takes. -/
def State.swapPosition (s : State) (r : Nat) (out : Option Nat) : Nat :=
  match out with
  | some o => (s.ctx o).slot
  | none => s.freePosition r

/-- A swap that has ended is charged to the class of its incoming context and counted (R328). -/
def State.endSwap (s : State) (r : Nat) (w : Swapping) : State :=
  let s := s.setSwap r none
  let i := (s.ctx w.into).image
  let s := s.charge r (s.shareClass i.client) (engineCount i.mask * (w.finish - w.start))
  let s := s.bump (winKey r Reg.ELS_SWAPS) 0 16 1
  s.bumpIf (w.out.isSome && !s.exact) (winKey r Reg.ELS_SWAPS) 16 16 1

theorem State.endSwap_ctx (r : Nat) (w : Swapping) (j : Nat) : (s.endSwap r w).ctx j = s.ctx j := by
  unfold State.endSwap State.bumpIf
  dsimp only
  split <;> rfl

theorem State.endSwap_swapping (r : Nat) (w : Swapping) : (s.endSwap r w).swapping r = none := by
  unfold State.endSwap State.bumpIf
  dsimp only
  split <;> exact s.swapping_setSwap r none

theorem State.endSwap_count (r : Nat) (w : Swapping) :
    (s.endSwap r w).fld (winKey r Reg.ELS_SWAPS) 0 16 = min (s.fld (winKey r Reg.ELS_SWAPS) 0 16 + 1) 65535 := by
  have hcount (t : State) (ht : t.regs = s.regs) : (t.bump (winKey r Reg.ELS_SWAPS) 0 16 1).fld
      (winKey r Reg.ELS_SWAPS) 0 16 = min (s.fld (winKey r Reg.ELS_SWAPS) 0 16 + 1) 65535 := by
    rw [State.fld_bump _ _ _ _ _ _ _ _ (by decide) (by omega), if_pos ⟨rfl, rfl, rfl⟩, State.fld_of_regs ht]
    rfl
  unfold State.endSwap State.bumpIf
  extract_lets _ _ u _
  split
  · rw [State.fld_bump _ _ _ _ _ _ _ _ (by decide) (by omega), if_neg (by omega)]
    exact hcount u rfl
  · exact hcount u rfl

theorem State.swapComplete_eq {r : Nat} {w : Swapping} (h : s.swapping r = some w) :
    s.swapComplete r = ((((s.reach w.finish).swapOut r w.out).restoreCtx r w.into
      ((s.reach w.finish).swapPosition r w.out)).endSwap r w).decision r w.finish := by
  unfold State.swapComplete
  rw [h]
  rfl

/-- What stands in residence after a completed swap: the incoming context, and not the evicted one (R328). -/
theorem State.swapComplete_swapped {r : Nat} {w : Swapping} (h : s.swapping r = some w) :
    (s.swapComplete r).swapping r = none ∧ ((s.swapComplete r).ctx w.into).resident = true ∧
    (∀ o, w.out = some o → o ≠ w.into → ((s.swapComplete r).ctx o).resident = false) ∧
    (s.swapComplete r).fld (winKey r Reg.ELS_SWAPS) 0 16
      = min ((s.reach w.finish).fld (winKey r Reg.ELS_SWAPS) 0 16 + 1) 65535 := by
  rw [s.swapComplete_eq h]
  generalize s.reach w.finish = s1
  generalize s1.swapPosition r w.out = slot
  have hin := (s1.swapOut r w.out).copied_restoreCtx r w.into slot
  generalize (s1.swapOut r w.out).restoreCtx r w.into slot = s2 at hin
  have hres (j : Nat) : (((s2.endSwap r w).decision r w.finish).ctx j).resident = (s2.ctx j).resident :=
    (congrArg Prod.snd (State.decision_residency _ r w.finish j)).trans
      (congrArg Ctx.resident (s2.endSwap_ctx r w j))
  refine ⟨?_, ?_, fun o hout hne => ?_, ?_⟩
  · exact (congrArg (fun x : SMap (Option Swapping) × Bool => SMap.read none x.1 r)
      (State.decision_residency _ r w.finish 0)).trans (s2.endSwap_swapping r w)
  · rw [hres, hin.resident, if_pos rfl]
  · rw [hres, hin.resident, if_neg hne, hout]
    exact ((s1.copied_saveCtx r o).resident o).trans (if_pos rfl)
  · rw [State.fld_of_regs (State.regs_of_fixtures (State.decision_fixtures ..)), s2.endSwap_count,
      State.fld_of_regs (hin.regs.trans (s1.swapOut_regs r w.out))]

/-! ## The end of a window (R315, R330) -/

/-- The windows of a region that end at a cycle. -/
def State.windowsEnding (s : State) (r stop : Nat) : List ElsWindow :=
  (s.curPlan.windows.filter fun w => w.1 = r && w.2.stop = stop && w.2.parity).map (·.2)

theorem State.mem_windowsEnding {r stop : Nat} {w : Nat × ElsWindow} (hw : w ∈ s.curPlan.windows) (h1 : w.1 = r)
    (h2 : w.2.stop = stop) (h3 : w.2.parity = true) : w.2 ∈ s.windowsEnding r stop :=
  List.mem_map.mpr ⟨w, List.mem_filter.mpr ⟨hw, by simp [h1, h2, h3]⟩, rfl⟩

theorem State.windowsEnding_ne_nil {r stop : Nat}
    (h : (s.curPlan.windows.any fun w => w.1 == r && w.2.stop == stop && w.2.parity) = true) :
    s.windowsEnding r stop ≠ [] := by
  obtain ⟨w, hw, hends⟩ := List.any_eq_true.mp h
  obtain ⟨⟨hregion, hstop⟩, hparity⟩ : (w.1 = r ∧ w.2.stop = stop) ∧ w.2.parity = true := by simpa using hends
  exact List.ne_nil_of_mem (s.mem_windowsEnding hw hregion hstop hparity)

/-- An elastic command that runs on one of the engines of `mask` past cycle `t`. -/
def Running.outlasts (e : Running) (r t mask : Nat) : Bool :=
  (e.region = r && e.ctx.isSome && mask.testBit e.engine) && decide (t < e.finish)

/-- The commands that outlast the window are cut (R315). -/
def State.cutRunning (s : State) (r t mask : Nat) : State :=
  let s := (s.running.filter fun e => e.outlasts r t mask).foldl (fun s e => s.cutCommand e) s
  { s with running := s.running.filter fun e => !e.outlasts r t mask }

/-- The streams of the window's Ladles are cut (R284, R315). -/
def State.cutStreams (s : State) (r mask : Nat) : State :=
  if r < 8 then (List.range 6).foldl (fun s l => if mask.testBit (10 + l) then s.cutStream r l else s) s else s

/-- A member of the window leaves the running set (R326). -/
def State.leaveWindow (s : State) (r t mask k : Nat) : State :=
  if (s.ctx k).member.isSome && (s.ctx k).image.mask &&& mask != 0 then
    (s.onCtx k fun x => { x with lastDone := min x.lastDone t }).endMember r k false else s

/-- A swap that outlasts the window stops, and counts as a cut (R330). -/
def State.cutSwap (s : State) (r t : Nat) : State :=
  match s.swapping r with
  | none => s
  | some w =>
      if w.finish ≤ t then s
      else
        let s := s.bump (winKey r Reg.ELS_CUTS) 0 16 1
        let s := s.raise 0x0501 s.cutClass (regionLoc r) 0 (w.start % 2 ^ 21)
        s.setSwap r none

theorem State.windowCut_eq {r t : Nat} (hlive : s.engineLive r = true) (hws : s.windowsEnding r t ≠ []) :
    s.windowCut r t =
      let mask := (s.windowsEnding r t).foldl (fun m w => m ||| w.engines) 0
      let s := ((s.reach t).cutRunning r t mask).cutStreams r mask
      ((s.homed r).foldl (fun s k => s.leaveWindow r t mask k) s).cutSwap r t := by
  unfold State.windowCut
  exact if_neg (by
    change ¬(!s.engineLive r || (s.windowsEnding r t).isEmpty) = true
    rw [hlive, List.isEmpty_eq_false_iff.mpr hws]; decide)

theorem State.endMember_running (r k : Nat) (slice : Bool) : (s.endMember r k slice).running = s.running := by
  unfold State.endMember
  dsimp only
  split
  · rfl
  · split <;> rfl

theorem State.cutStream_running (r l : Nat) : (s.cutStream r l).running = s.running := by
  unfold State.cutStream
  dsimp only
  split
  · rfl
  · split
    · rfl
    · rw [State.setLadle_running, State.voidBuf_running, State.raise_running, State.bump_running]

theorem State.cutStreams_running (r mask : Nat) : (s.cutStreams r mask).running = s.running := by
  unfold State.cutStreams
  split
  · refine foldl_keeps State.running (fun s l => ?_) _ _
    split
    exacts [s.cutStream_running r l, rfl]
  · rfl

theorem State.leaveWindow_running (r t mask k : Nat) : (s.leaveWindow r t mask k).running = s.running := by
  unfold State.leaveWindow
  split
  exacts [State.endMember_running .., rfl]

theorem State.cutSwap_running (r t : Nat) : (s.cutSwap r t).running = s.running := by
  unfold State.cutSwap
  dsimp only
  split
  · rfl
  · split
    · rfl
    · rw [State.setSwap_running, State.raise_running, State.bump_running]

/-- No elastic command of the window's engines runs past its end (R315). -/
theorem State.windowCut_running {r t : Nat} (hlive : s.engineLive r = true) {w : ElsWindow}
    (hw : w ∈ s.windowsEnding r t) {e : Running} (he : e ∈ (s.windowCut r t).running) (hregion : e.region = r)
    (hctx : e.ctx.isSome = true) (hengine : w.engines.testBit e.engine = true) : e.finish ≤ t := by
  rw [s.windowCut_eq hlive (List.ne_nil_of_mem hw)] at he
  dsimp only at he
  rw [State.cutSwap_running, foldl_keeps State.running (fun s _ => s.leaveWindow_running ..),
    State.cutStreams_running] at he
  have hkept := (List.mem_filter.mp he).2
  simpa [Running.outlasts, hregion, hctx, testBit_engines hw hengine] using hkept

/-- Nor does a swap of the region (R330). -/
theorem State.cutSwap_swapping {r t : Nat} {w : Swapping} (h : (s.cutSwap r t).swapping r = some w) :
    w.finish ≤ t := by
  unfold State.cutSwap at h
  split at h
  next hnone => exact nomatch hnone.symm.trans h
  next v hv =>
    split at h
    next hle => exact Option.some.inj (hv.symm.trans h) ▸ hle
    next => exact nomatch (State.swapping_setSwap ..).symm.trans h

/-! ## The elastic sequence (R331) -/

theorem State.sequenceEntry_eq {r index cycles : Nat} {e : BitVec 64} (hexact : s.exact = true)
    (hlive : s.engineLive r = true)
    (hentry : ((s.curPlan.eseq.filter fun e => e.1 = r).map (·.2))[index]? = some e)
    (hparity : oddOnes 64 e.toNat = false) :
    s.sequenceEntry r index cycles =
      let t := e.toNat % 2 ^ 21
      let k := e.toNat / 2 ^ 21 % 64
      let s := s.reach t
      if e.getLsbD 35 then
        if (s.swapping r).isSome then s
        else
          let slot := e.toNat / 2 ^ 36 % 8
          s.startSwap r t cycles ((s.residents r).find? fun j => (s.ctx j).slot == slot) k
      else s.onCtx k fun x => { x with due := some (e.toNat / 2 ^ 27 % 256, t), duePos := e.toNat / 2 ^ 39 % 4 } := by
  unfold State.sequenceEntry
  dsimp only
  rw [hentry]
  dsimp only
  rw [if_neg (by rw [hexact, hlive]; decide), hparity]
  rfl

end

/-- Settles O39: `State.trySwap_into`, `State.swapComplete_swapped`, the lemmas about `State.windowCut` and
`State.sequenceEntry_eq`. -/
theorem swapsAndCutsChangeResidency : Obligations.SwapsAndCutsChangeResidency := by
  unfold Obligations.SwapsAndCutsChangeResidency
  intro s r
  refine ⟨?starts, fun w hw => ⟨_, rfl, s.swapComplete_swapped hw⟩, ?cut, ?sequence⟩
  case starts =>
    intro cycle cycles hexact hlive hnone hwindow s1 into hbest hfree
    have heq := s.trySwap_into (cycles := cycles) hexact hlive hnone hwindow hbest hfree
    exact ⟨_, _, rfl, (congrArg (State.swapping · r) heq).trans (State.swapping_startSwap ..), rfl, rfl, rfl,
      Nat.add_le_add_left (Nat.le_max_left ..) cycle⟩
  case cut =>
    intro cycle hlive hany
    refine ⟨_, rfl, fun w hw h1 h2 h3 e he hregion hctx hengine => ?_, fun w hw => ?_⟩
    · exact s.windowCut_running hlive (s.mem_windowsEnding hw h1 h2 h3) he hregion hctx hengine
    · rw [s.windowCut_eq hlive (s.windowsEnding_ne_nil hany)] at hw
      exact State.cutSwap_swapping _ hw
  case sequence =>
    intro index cycles e hexact hlive hentry hparity k c s1
    have heq := s.sequenceEntry_eq (cycles := cycles) hexact hlive hentry hparity
    refine ⟨fun hswap hnone => ?_, fun hissue => ?_⟩
    · rw [if_pos hswap, if_neg (by rw [hnone]; decide)] at heq
      exact ⟨_, _, rfl, (congrArg (State.swapping · r) heq).trans (State.swapping_startSwap ..), rfl, rfl⟩
    · refine ⟨_, rfl, ?_⟩
      rw [heq]
      dsimp only
      rw [if_neg (by rw [hissue]; decide), State.ctx_onCtx, if_pos rfl]
      exact ⟨rfl, rfl, rfl, rfl⟩

end Sys2Proof.Machine
end

section
/-! PROOF of O21: due NCO steps take effect once, and a committed CLRD clears an NCO (R365, R373). -/

namespace Sys2Proof.Machine

open Sys2Proof

/-- RADIO's gates are open to an event (R46). -/
theorem State.onRadio_of_served {s : State} (h : s.served 8 = true) (f : State → State) : s.onRadio f = f s :=
  if_pos h

/-! ## Steps of an NCO -/

/-- Whether a step of an NCO falls due by an absolute cycle; kind 1 is a step of DELTA, 2 one of TOFF. -/
def NcoStep.dueBy (n kind t : Nat) (x : NcoStep) : Bool := x.target == n && x.kind == kind && decide (x.time ≤ t)

/-- A step takes effect. -/
def State.takeStep (s : State) (n kind : Nat) (x : NcoStep) : State :=
  if kind = 1 then s.addDelta n x.value else s.addToff n x.value

section
variable (s : State) (n : Nat)

theorem State.settleSteps_eq (kind t : Nat) :
    s.settleSteps n kind t = (s.radio.steps.filter (NcoStep.dueBy n kind t)).foldl (fun s x => s.takeStep n kind x)
      { s with radio := { s.radio with steps := s.radio.steps.filter fun x => !NcoStep.dueBy n kind t x } } := rfl

theorem State.takeStep_radio (kind : Nat) (x : NcoStep) : (s.takeStep n kind x).radio = s.radio := by
  unfold State.takeStep
  split <;> rfl

theorem State.settleSteps_steps (kind t : Nat) :
    (s.settleSteps n kind t).radio.steps = s.radio.steps.filter fun x => !NcoStep.dueBy n kind t x := by
  rw [State.settleSteps_eq, foldl_keeps State.radio fun s x => s.takeStep_radio n kind x]

theorem State.settleSteps_regs_of_nil {kind t : Nat} (h : s.radio.steps.filter (NcoStep.dueBy n kind t) = []) :
    (s.settleSteps n kind t).regs = s.regs := by
  rw [State.settleSteps_eq, h]
  rfl

/-- One step that is due takes effect on the registers as they stand. -/
theorem State.reg_settleSteps_of_singleton {kind t : Nat} {x : NcoStep}
    (h : s.radio.steps.filter (NcoStep.dueBy n kind t) = [x]) (k : Nat) :
    (s.settleSteps n kind t).reg k = (s.takeStep n kind x).reg k := by
  rw [State.settleSteps_eq, h, List.foldl_cons, List.foldl_nil]
  unfold State.takeStep
  split <;> rfl

theorem State.addDelta_toInt (v : Int) : ((s.addDelta n v).reg (Reg.NCO_DELTA n)).toInt =
    max (-(2 ^ 31)) (min (2 ^ 31 - 1) ((s.reg (Reg.NCO_DELTA n)).toInt + v)) := by
  unfold State.addDelta
  rw [State.reg_setReg_same]
  exact BitVec.toInt_ofInt_eq_self (by decide) (by omega) (by omega)

/-- A signed 16-bit field holds what is put there, where it fits. -/
theorem State.sfld_setFld_wrapBits {v : Int} (k lo : Nat) (hlo : lo + 16 ≤ 32) (hmin : -32768 ≤ v) (hmax : v < 32768) :
    (s.setFld k lo 16 (wrapBits 16 v)).sfld k lo 16 = v := by
  have hfield : bitsOf ((s.setFld k lo 16 (wrapBits 16 v)).reg k) lo 16 = wrapBits 16 v % 2 ^ 16 := by
    rw [State.reg_setFld, if_pos rfl, bitsOf_putBits hlo]
  unfold State.sfld sbitsOf
  rw [hfield]
  unfold wrapBits
  dsimp only
  split <;> omega

theorem State.addToff_sfld (v : Int) : (s.addToff n v).sfld (Reg.NCO_TOFF n) 0 16 =
    max (-2048) (min 2048 (s.sfld (Reg.NCO_TOFF n) 0 16 + v)) :=
  s.sfld_setFld_wrapBits _ 0 (by decide) (by omega) (by omega)

/-! ## CLRD -/

theorem State.ncoClear_cleared (h : s.bit (Reg.NCO_CTL n) 1 = true) :
    (s.ncoClear n).reg (Reg.NCO_DELTA n) = 0 ∧ (s.ncoClear n).reg (Reg.NCO_TOFF n) = 0 ∧
      (s.ncoClear n).bit (Reg.NCO_CTL n) 1 = false := by
  have hdelta : Reg.NCO_DELTA n ≠ Reg.NCO_CTL n := by unfold Reg.NCO_DELTA Reg.NCO_CTL; omega
  have htoff : Reg.NCO_TOFF n ≠ Reg.NCO_CTL n := by unfold Reg.NCO_TOFF Reg.NCO_CTL; omega
  unfold State.ncoClear
  rw [if_pos h, State.reg_setBit, if_neg hdelta, State.reg_setBit, if_neg htoff,
    State.bit_setBit _ _ _ _ _ _ (by decide)]
  simp [State.reg_zeroRegs]

end

/-! ## The commands -/

section
variable {s : State} (hs : s.served 8 = true)
include hs

theorem exec_ncoDeltaUpdate (n cycle : Nat) : exec (.ncoDeltaUpdate n cycle) s =
    .next ((s.reach cycle).settleSteps n 1 (s.absCycle (max cycle s.clock.cc))) :=
  congrArg _ (State.onRadio_of_served hs _)

theorem exec_ncoToffUpdate (n cycle : Nat) : exec (.ncoToffUpdate n cycle) s =
    .next ((s.reach cycle).settleSteps n 2 (s.absCycle (max cycle s.clock.cc))) :=
  congrArg _ (State.onRadio_of_served hs _)

theorem exec_ncoClear {n : Nat} (hn : n < 16) : exec (.ncoClear n) s = .next (s.ncoClear n) :=
  (congrArg _ (State.onRadio_of_served hs _)).trans (by rw [Nat.mod_eq_of_lt hn])

end

/-- Settles O21: `State.settleSteps` takes the due steps out of the list and lets them act, and `State.ncoClear`
clears. -/
theorem ncoStepsAndClears : Obligations.NcoStepsAndClears := by
  unfold Obligations.NcoStepsAndClears
  intro s n cycle hs now s1 due
  refine ⟨⟨_, exec_ncoDeltaUpdate hs n cycle, s1.settleSteps_steps n 1 now, s1.settleSteps_regs_of_nil n, ?delta⟩,
    ⟨_, exec_ncoToffUpdate hs n cycle, s1.settleSteps_steps n 2 now, s1.settleSteps_regs_of_nil n, ?toff⟩,
    fun hn hclrd => ⟨_, exec_ncoClear hs hn, s.ncoClear_cleared n hclrd⟩⟩
  case delta =>
    intro x hx
    rw [s1.reg_settleSteps_of_singleton n hx]
    exact s1.addDelta_toInt n x.value
  case toff =>
    intro x hx
    unfold State.sfld
    rw [s1.reg_settleSteps_of_singleton n hx]
    exact s1.addToff_sfld n x.value

end Sys2Proof.Machine
end

section
/-! PROOF of O19: gain windows end, queued words apply and freezes end (R361 to R363). -/

namespace Sys2Proof.Machine

open Sys2Proof

section
variable (s : State)

/-! ## The loops -/

theorem State.loop_setLoop (l j : Nat) (x : GainLoop) : (s.setLoop l x).loop j = if j = l then x else s.loop j :=
  SMap.read_write

/-- What a loop's power detector holds: the samples of the running window, their sum, and the last window's power. -/
def State.window (s : State) (l : Nat) : Nat × Nat × Nat := ((s.loop l).count, (s.loop l).sum, (s.loop l).lastP)

theorem State.window_of_loops {s t : State} (h : t.radio.loops = s.radio.loops) (l : Nat) :
    t.window l = s.window l := by
  unfold State.window State.loop
  rw [h]

theorem State.window_setFld (k lo n v l : Nat) : (s.setFld k lo n v).window l = s.window l :=
  State.window_of_loops (congrArg Radio.loops (s.setFld_radio ..)) l

theorem State.window_bump (k lo n v l : Nat) : (s.bump k lo n v).window l = s.window l :=
  State.window_of_loops (congrArg Radio.loops (s.bump_radio ..)) l

/-- A loop that is replaced by one with the same detector keeps every window. -/
theorem State.window_setLoop {l : Nat} {x : GainLoop} (h : (x.count, x.sum, x.lastP) = s.window l) (j : Nat) :
    (s.setLoop l x).window j = s.window j := by
  unfold State.window at h ⊢
  rw [State.loop_setLoop]
  split
  next hj => rw [h, hj]
  next => rfl

theorem State.window_dropGainWord (w : SteerWord) (j : Nat) : (s.dropGainWord w).window j = s.window j := by
  unfold State.dropGainWord
  split
  · exact State.window_setLoop _ (by rfl) j
  · rfl

theorem State.queueWord_loops (w : SteerWord) : (s.queueWord w).2.radio.loops = s.radio.loops := by
  unfold State.queueWord
  dsimp only
  split
  · rfl
  split
  · exact congrArg Radio.loops ((State.raise_radio ..).trans (State.bump_radio ..))
  · dsimp only
    split <;> rfl

theorem State.window_queueGain (l att time : Nat) (frozen : Bool) (j : Nat) :
    (s.queueGain l att time frozen).window j = s.window j := by
  unfold State.queueGain
  extract_lets x hit old s1 s2 time
  have h2 : s2.window j = s.window j :=
    (foldl_keeps (State.window · j) (fun s w => s.window_dropGainWord w j) old s1).trans
      (State.window_of_loops rfl j)
  generalize hq : s2.queueWord _ = q
  obtain ⟨ok, s3⟩ := q
  have h3 : s3.window j = s.window j := by
    refine (State.window_of_loops ?_ j).trans h2
    rw [← s2.queueWord_loops, hq]
  dsimp only
  split
  · exact h3
  · exact (State.window_setLoop _ (by rfl) j).trans ((s3.window_bump ..).trans h3)

/-! ## The end of a window (R361) -/

/-- The end of a full window starts a new one and keeps the power of the one that ended. -/
theorem State.gainWindow_window {l : Nat} (h : 2 ^ s.fld (winKey l Reg.AGC_CFG) 8 4 ≤ (s.loop l).count) :
    (s.gainWindow l).window l = (0, 0, powerSteps (s.loop l).sum (s.fld (winKey l Reg.AGC_CFG) 8 4)) := by
  unfold State.gainWindow
  extract_lets r w x p rose s1 s2 e hyst att k time s3 s4 y
  rw [if_neg (Nat.not_lt.mpr h)]
  have h1 : s1.window l = (0, 0, p) := by
    unfold State.window
    rw [State.loop_setLoop, if_pos rfl]
  have h2 : s2.window l = (0, 0, p) := (s1.window_setFld ..).trans h1
  have h3 : s3.window l = (0, 0, p) := by
    unfold s3
    split
    · exact h2
    · exact (s2.window_queueGain ..).trans h2
  split
  · exact h2
  split
  · exact h3
  · exact (State.window_setLoop _ (by rfl) l).trans ((s3.window_bump ..).trans h3)

/-! ## Words that apply (R362) -/

theorem foldl_snd_eq_getLast? {α β : Type} (es : List (α × β)) (b : β) :
    es.foldl (fun _ e => e.2) b = (es.getLast?.map (·.2)).getD b := by
  induction es using List.reverseRecOn with
  | nil => rfl
  | append_singleton es e _ => simp

theorem State.applyGain_loop (l t : Nat) :
    ((s.applyGain l t).loop l).words = (s.loop l).words.filter (fun e => !decide (e.1 ≤ t)) ∧
    ((s.applyGain l t).loop l).att =
      (((s.loop l).words.filter fun e => decide (e.1 ≤ t)).getLast?.map (·.2)).getD (s.loop l).att := by
  have hloop : (s.applyGain l t).loop l = _ := (s.loop_setLoop l l _).trans (if_pos rfl)
  rw [hloop]
  exact ⟨rfl, foldl_snd_eq_getLast? _ _⟩

/-! ## The end of a freeze (R363) -/

theorem State.freezeEnd_eq {l t : Nat} (hfrozen : (s.loop l).frozen = true) (hover : (s.loop l).frozenUntil ≤ t) :
    s.freezeEnd l t = s.setLoop l { s.loop l with frozen := false, sum := 0, count := 0 } :=
  if_pos (by rw [hfrozen, decide_eq_true hover]; rfl)

end

/-! ## The commands -/

section
variable {s : State} (hs : s.served 8 = true)
include hs

theorem exec_gainWindow (l : Nat) : exec (.gainWindow l) s = .next (s.gainWindow l) :=
  congrArg _ (State.onRadio_of_served hs _)

theorem exec_gainWordApply (l cycle : Nat) : exec (.gainWordApply l cycle) s =
    .next ((s.reach cycle).applyGain l (s.absCycle (max cycle s.clock.cc))) :=
  congrArg _ (State.onRadio_of_served hs _)

theorem exec_freezeEnd (l cycle : Nat) : exec (.freezeEnd l cycle) s =
    .next ((s.reach cycle).freezeEnd l (s.absCycle (max cycle s.clock.cc))) :=
  congrArg _ (State.onRadio_of_served hs _)

end

/-- Settles O19: `State.gainWindow_window`, `State.applyGain_loop` and `State.freezeEnd_eq`. -/
theorem gainLoopsWindowAndApply : Obligations.GainLoopsWindowAndApply := by
  unfold Obligations.GainLoopsWindowAndApply
  intro s l hs
  refine ⟨fun hfull => ?window, fun cycle => ?cycle⟩
  case window =>
    obtain ⟨hcount, hsum, hlast⟩ : _ ∧ _ ∧ _ := by simpa [State.window] using s.gainWindow_window hfull
    exact ⟨_, exec_gainWindow hs l, hcount, hsum, hlast⟩
  case cycle =>
    intro now s1 x
    refine ⟨?_, fun hfrozen hover => ⟨_, exec_freezeEnd hs l cycle, ?_⟩⟩
    · obtain ⟨hwords, hatt⟩ := s1.applyGain_loop l now
      exact ⟨_, exec_gainWordApply hs l cycle, hwords, hatt, rfl⟩
    · rw [s1.freezeEnd_eq hfrozen hover, State.loop_setLoop, if_pos rfl]
      exact ⟨rfl, rfl, rfl, rfl⟩

end Sys2Proof.Machine
end

section
/-! PROOF of O20: steering frames and the time of a STEER (R351, R357, R365 to R368). -/

namespace Sys2Proof.Machine

open Sys2Proof

section
variable (s : State)

/-! ## Lanes -/

theorem State.lane_setLane (l j : Nat) (x : SteerLane) : (s.setLane l x).lane j = if j = l then x else s.lane j :=
  SMap.read_write

/-- What a steering lane sends by: the lanes and the enables of STP.CFG. -/
def State.port (s : State) : SMap SteerLane × Word := (s.radio.lanes, s.reg Reg.STP_CFG)

theorem State.lane_of_port {s t : State} (h : t.port = s.port) (l : Nat) : t.lane l = s.lane l :=
  congrArg (fun x : SMap SteerLane × Word => x.1.read ({} : SteerLane) l) h

theorem State.enabled_of_port {s t : State} (h : t.port = s.port) (l : Nat) : t.bit Reg.STP_CFG l = s.bit Reg.STP_CFG l :=
  congrArg (fun x : SMap SteerLane × Word => bitOf x.2 l) h

theorem State.port_bump {k : Nat} (lo n v : Nat) (hk : k ≠ Reg.STP_CFG) : (s.bump k lo n v).port = s.port :=
  Prod.ext (congrArg Radio.lanes (s.bump_radio ..)) ((s.reg_bump ..).trans (if_neg hk.symm))

theorem State.port_dropGainWord (w : SteerWord) : (s.dropGainWord w).port = s.port := by
  unfold State.dropGainWord
  split <;> rfl

/-- A word that is too late is dropped, counted and reported, which leaves the lanes (R369). -/
theorem State.port_dropLate (l : Nat) (w : SteerWord) :
    (((s.bump Reg.STP_ERR 0 16 1).raise 0x0605 .masked (laneLoc l) 0 0).dropGainWord w).port = s.port := by
  have hraise : ((s.bump Reg.STP_ERR 0 16 1).raise 0x0605 .masked (laneLoc l) 0 0).port =
      (s.bump Reg.STP_ERR 0 16 1).port :=
    Prod.ext (congrArg Radio.lanes (State.raise_radio ..)) (State.reg_raise_masked _ _ _ _ _ (by decide) (by decide))
  exact (State.port_dropGainWord _ w).trans (hraise.trans (s.port_bump _ _ _ (by decide)))

/-- What a frame leaves on the lanes: lane `l` sends where it is enabled, and nothing else changes. -/
structure State.FramesLane (s t : State) (l : Nat) : Prop where
  last : (t.lane l).last.isSome = s.bit Reg.STP_CFG l
  others : ∀ j, j ≠ l → t.lane j = s.lane j
  config : t.reg Reg.STP_CFG = s.reg Reg.STP_CFG

theorem State.framesLane_setLane {s u : State} {l : Nat} (hu : u.port = s.port) {x : SteerLane}
    (hx : x.last.isSome = s.bit Reg.STP_CFG l) : s.FramesLane (u.setLane l x) l where
  last := by rw [State.lane_setLane, if_pos rfl, hx]
  others j hj := by rw [State.lane_setLane, if_neg hj, State.lane_of_port hu]
  config := congrArg (·.2) hu

theorem State.FramesLane.of_port {s t u : State} {l : Nat} (h : s.FramesLane t l) (hu : u.port = t.port) :
    s.FramesLane u l where
  last := State.lane_of_port hu l ▸ h.last
  others j hj := (State.lane_of_port hu j).trans (h.others j hj)
  config := (congrArg (·.2) hu).trans h.config

theorem State.laneFrame_frames (k fin l : Nat) : s.FramesLane (s.laneFrame k fin l) l := by
  unfold State.laneFrame
  extract_lets x late s1 rest
  by_cases hl : s.bit Reg.STP_CFG l = true
  · rw [if_neg (by simp [hl])]
    split
    · exact State.framesLane_setLane rfl hl.symm
    split
    · exact State.framesLane_setLane rfl hl.symm
    have h1 : s1.port = s.port := foldl_keeps State.port (fun s w => s.port_dropLate l w) late s
    split
    · exact State.framesLane_setLane h1 hl.symm
    next w _ =>
      extract_lets s2 radio s3
      have h2 : s.FramesLane s2 l := State.framesLane_setLane h1 hl.symm
      have h3 : s.FramesLane s3 l := h2.of_port rfl
      unfold State.bumpIf
      split
      · exact h3.of_port (s3.port_bump _ _ _ (by decide))
      · exact h3
  · rw [if_pos (by simp [hl])]
    exact State.framesLane_setLane rfl (by simp [hl])

/-- Whether a lane has sent a frame exactly if it is enabled. -/
def State.LaneSent (l : Nat) (s : State) : Prop := (s.lane l).last.isSome = s.bit Reg.STP_CFG l

theorem State.FramesLane.sent {s t : State} {l : Nat} (h : s.FramesLane t l) : t.LaneSent l :=
  h.last.trans (congrArg (bitOf · l) h.config.symm)

theorem State.FramesLane.keeps_sent {s t : State} {l j : Nat} (h : s.FramesLane t l) (hj : s.LaneSent j) :
    t.LaneSent j := by
  by_cases hjl : j = l
  · exact hjl ▸ h.sent
  · unfold State.LaneSent State.bit
    rw [h.others j hjl, h.config]
    exact hj

theorem State.port_checkLooped : s.checkLooped.port = s.port :=
  (State.port_bump _ _ _ _ (by decide)).trans rfl

/-- A steering frame within the slot reaches every lane. -/
theorem State.steeringFrame_lane {k : Nat} (hrun : s.clock.running = true) (hk : k < s.slotLen / 400) {l : Nat}
    (hl : l < 4) : ((s.steeringFrame k).lane l).last.isSome = (s.reach (400 * k)).bit Reg.STP_CFG l := by
  unfold State.steeringFrame
  rw [if_neg (by simpa [hrun] using hk)]
  extract_lets u v
  have hlane (s : State) (l : Nat) : s.FramesLane (s.laneFrame k (s.absCycle (400 * k + 400)) l) l := s.laneFrame_frames ..
  have hsent := foldl_establishes (p := State.LaneSent) (fun s l => (hlane s l).sent)
    (fun s l j hj => (hlane s l).keeps_sent hj) (List.range 4) v l (List.mem_range.mpr hl)
  have hconfig := foldl_keeps (State.reg · Reg.STP_CFG) (fun s l => (hlane s l).config) (List.range 4) v
  calc _ = bitOf (((List.range 4).foldl _ v).reg Reg.STP_CFG) l := hsent
    _ = v.bit Reg.STP_CFG l := congrArg (bitOf · l) hconfig
    _ = u.bit Reg.STP_CFG l := State.enabled_of_port u.port_checkLooped l

/-! ## STEER -/

/-- The cycle in which a STEER ends (R357). -/
def Cmd.steerEnd (c : Cmd) (t : Nat) : Nat :=
  if bitsOf c.w.w2 16 8 = 0 then t + 1 else t + 4 * bitsOf c.w.w2 16 8 + 8

/-- A STEER that issues is under way until its end. -/
theorem State.steer_newest {c : Cmd} (hgo : (s.issueTe c).1.go = true) :
    (s.steer c).newest c 0 (c.steerEnd (s.issueTe c).1.t) := by
  unfold State.steer
  extract_lets n a
  split
  next i u hi =>
    rw [hi] at hgo ⊢
    rw [if_neg (by simpa using hgo)]
    exact State.track_newest ..

end

theorem State.issueTe_goes (s : State) (c : Cmd) : (s.issueTe c).1.go = s.goes c (s.unitFree 8 8 c.unit) 0 :=
  s.issue_goes ..

theorem exec_steeringFrame {s : State} (hs : s.served 8 = true) (k : Nat) :
    exec (.steeringFrame k) s = .next (s.steeringFrame k) := congrArg _ (State.onRadio_of_served hs _)

theorem exec_steer {c : Cmd} (h : c.wfSteer = true) (s : State) : exec (.steer c) s = .next (s.steer c) :=
  admitted_of h _

/-- Settles O20: `State.steeringFrame_lane` and `State.steer_newest`. -/
theorem steeringLanesSendAFrameEach : Obligations.SteeringLanesSendAFrameEach := by
  unfold Obligations.SteeringLanesSendAFrameEach
  refine fun s => ⟨fun k hrun hs hk => ⟨_, exec_steeringFrame hs k, fun l hl => s.steeringFrame_lane hrun hk hl⟩,
    fun c hwf hgo => ?_⟩
  obtain ⟨hruns, hend⟩ := s.steer_newest ((s.issueTe_goes c).trans hgo)
  exact ⟨_, exec_steer hwf s, hruns, hend⟩

end Sys2Proof.Machine
end

section
/-! PROOF of O18: the events of the JESD links, and the symbol tick that starts them (R65, R342 to R345). -/

namespace Sys2Proof.Machine

open Sys2Proof

/-! ## The registers of the links -/

theorem linkStat_lt (tx : Bool) {n : Nat} (hn : n < 8) : 0x1800100C ≤ linkStat tx n ∧ linkStat tx n ≤ 0x180014EC := by
  unfold linkStat Reg.JTX_STAT Reg.JRX_STAT
  split <;> omega

theorem linkStat_ne_linkErr (tx : Bool) (n : Nat) : linkStat tx n ≠ linkErr tx n := by
  unfold linkStat linkErr Reg.JTX_STAT Reg.JRX_STAT Reg.JTX_ERR Reg.JRX_ERR
  split <;> omega

theorem linkStat_inj {tx ty : Bool} {n m : Nat} (hn : n < 8) (hm : m < 8) (h : linkStat tx n = linkStat ty m) :
    tx = ty ∧ n = m := by
  unfold linkStat Reg.JTX_STAT Reg.JRX_STAT at h
  cases tx <;> cases ty <;> simp at h ⊢ <;> omega

section
variable (s : State)

theorem State.fld_setFld_same (k : Nat) {lo n v : Nat} (h : lo + n ≤ 32) (hv : v < 2 ^ n) :
    (s.setFld k lo n v).fld k lo n = v := by
  rw [State.fld_setFld _ _ _ _ _ _ _ _ h (by simp), if_pos ⟨rfl, rfl, rfl⟩, Nat.mod_eq_of_lt hv]

/-! ## Events of one link -/

theorem State.voidSamples_regs (link slot j n cause : Nat) : (s.voidSamples link slot j n cause).regs = s.regs :=
  foldl_keeps State.regs (fun s e => by
    split
    · exact foldl_keeps State.regs (fun s g => (rfl : (s.teSetVoid g cause).regs = s.regs)) _ s
    · rfl) _ s

theorem State.fld_raiseIf_detected (b : Bool) (code : Nat) (loc : BitVec 64) (d0 d1 : Nat) {k : Nat}
    (hlost : k ≠ Reg.FLT_LOST) (hcnt : k ≠ Reg.FLT_CNTD) (lo n : Nat) :
    (s.raiseIf b code .detected loc d0 d1).fld k lo n = s.fld k lo n := by
  unfold State.raiseIf
  split
  · exact congrArg (bitsOf · lo n) (s.reg_raise_detected code loc d0 d1 hlost hcnt)
  · rfl

theorem State.linkCrc_counts {link : Nat} (hl : link < 8) (slot j n : Nat) :
    (s.linkCrc link slot j n).fld (Reg.JRX_ERR link) 0 8 = min (s.fld (Reg.JRX_ERR link) 0 8 + 1) 255 := by
  have hlost : Reg.JRX_ERR link ≠ Reg.FLT_LOST := by unfold Reg.JRX_ERR Reg.FLT_LOST; omega
  have hcnt : Reg.JRX_ERR link ≠ Reg.FLT_CNTD := by unfold Reg.JRX_ERR Reg.FLT_CNTD; omega
  unfold State.linkCrc
  extract_lets u
  rw [State.fld_raiseIf_detected _ _ _ _ _ _ hlost hcnt, State.fld_bump _ _ _ _ _ _ _ _ (by decide) (by simp),
    if_pos ⟨rfl, rfl, rfl⟩, State.fld_of_regs (s.voidSamples_regs link slot j n 0x0602)]
  rfl

theorem State.linkDown_state (tx : Bool) {link : Nat} (hl : link < 8) (elastic : Bool) :
    (s.linkDown tx link elastic).fld (linkStat tx link) 0 3 = 0 := by
  obtain ⟨hmin, hmax⟩ := linkStat_lt tx hl
  have hlost : linkStat tx link ≠ Reg.FLT_LOST := by unfold Reg.FLT_LOST; omega
  have hcnt : linkStat tx link ≠ Reg.FLT_CNTD := by unfold Reg.FLT_CNTD; omega
  unfold State.linkDown
  extract_lets u v
  rw [State.fld_raiseIf_detected _ _ _ _ _ _ hlost hcnt,
    State.fld_bump _ _ _ _ _ _ _ _ (by split <;> decide) (.inl (linkStat_ne_linkErr tx link)),
    if_neg fun h => linkStat_ne_linkErr tx link h.1]
  exact s.fld_setFld_zero _ (by decide)

theorem State.relock_state {tx : Bool} {link : Nat} (hdown : s.fld (linkStat tx link) 0 3 ≠ 4)
    (hlemc : s.bit Reg.RAD_SYSREF 1 = true) :
    (s.relock tx link).fld (linkStat tx link) 0 3 = 3 ∧
      s.relock tx link = { s with regs := (s.relock tx link).regs } := by
  have h : s.relock tx link = (s.setFld (linkStat tx link) 0 3 3).bump (linkErr tx link) 24 8 1 :=
    if_neg (by simp [hdown, hlemc])
  rw [h]
  refine ⟨?_, rfl⟩
  rw [State.fld_bump _ _ _ _ _ _ _ _ (by decide) (.inl (linkStat_ne_linkErr tx link)),
    if_neg fun h => linkStat_ne_linkErr tx link h.1, s.fld_setFld_same _ (by decide) (by decide)]

/-! ## The sixteen links together -/

/-- The state of link `i`: the receive links are 0 to 7, the transmit links 8 to 15. -/
def State.linkState (s : State) (i : Nat) : Nat := s.fld (linkStat (decide (8 ≤ i)) (i % 8)) 0 3

/-- A sweep over the links moves each from its own state. -/
theorem State.foldl_linkState {f : State → Nat → State} {next : Nat → Nat}
    (hf : ∀ s i j, i < 16 → j < 16 → (f s i).linkState j = if j = i then next (s.linkState j) else s.linkState j)
    {is : List Nat} (his : is.Nodup) (hlt : ∀ i ∈ is, i < 16) {j : Nat} (hj : j < 16) (s : State) :
    (is.foldl f s).linkState j = if j ∈ is then next (s.linkState j) else s.linkState j := by
  induction is generalizing s with
  | nil => rfl
  | cons i is ih =>
    obtain ⟨hi, his⟩ := List.nodup_cons.mp his
    obtain ⟨hlti, hlt⟩ := List.forall_mem_cons.mp hlt
    rw [List.foldl_cons, ih his hlt, hf s i j hlti hj]
    by_cases hji : j = i
    · subst hji
      simp [hi]
    · simp [hji]

/-- A sweep over all sixteen moves every link once. -/
theorem State.sweep_linkState {f : State → Nat → State} {next : Nat → Nat}
    (hf : ∀ s i j, i < 16 → j < 16 → (f s i).linkState j = if j = i then next (s.linkState j) else s.linkState j)
    {j : Nat} (hj : j < 16) (s : State) : ((List.range 16).foldl f s).linkState j = next (s.linkState j) :=
  (State.foldl_linkState hf List.nodup_range (fun _ => List.mem_range.mp) hj s).trans
    (if_pos (List.mem_range.mpr hj))

theorem linkStat_index_ne {i j : Nat} (hi : i < 16) (hj : j < 16) (h : j ≠ i) :
    linkStat (decide (8 ≤ j)) (j % 8) ≠ linkStat (decide (8 ≤ i)) (i % 8) := by
  intro he
  obtain ⟨htx, hn⟩ := linkStat_inj (Nat.mod_lt _ (by decide)) (Nat.mod_lt _ (by decide)) he
  rw [decide_eq_decide] at htx
  omega

theorem State.fld_enterData (tx : Bool) (n : Nat) : (s.enterData tx n).fld (linkStat tx n) 0 3 = 4 := by
  unfold State.enterData
  rw [State.fld_setFld _ _ _ _ _ _ _ _ (by decide) (by simp), if_neg (by simp),
    s.fld_setFld_same _ (by decide) (by decide)]

theorem State.reg_enterData (tx : Bool) (n : Nat) {k : Nat} (hk : k ≠ linkStat tx n) :
    (s.enterData tx n).reg k = s.reg k := by
  unfold State.enterData
  rw [State.reg_setFld, if_neg hk, State.reg_setFld, if_neg hk]

theorem State.linkState_enterData {i j : Nat} (hi : i < 16) (hj : j < 16) :
    (s.enterData (decide (8 ≤ i)) (i % 8)).linkState j = if j = i then 4 else s.linkState j := by
  split
  next h => exact h ▸ s.fld_enterData ..
  next h => exact congrArg (bitsOf · 0 3) (s.reg_enterData _ _ (linkStat_index_ne hi hj h))

theorem State.linkState_setFld {i j v : Nat} (hi : i < 16) (hj : j < 16) (hv : v < 2 ^ 3) :
    (s.setFld (linkStat (decide (8 ≤ i)) (i % 8)) 0 3 v).linkState j = if j = i then v else s.linkState j := by
  split
  next h => exact h ▸ s.fld_setFld_same _ (by decide) hv
  next h => exact congrArg (bitsOf · 0 3) ((s.reg_setFld ..).trans (if_neg (linkStat_index_ne hi hj h)))

/-- A link that is ready enters its data state at the symbol tick (R345). -/
def State.startLink (s : State) (i : Nat) : State :=
  if s.linkState i = 3 then s.enterData (decide (8 ≤ i)) (i % 8) else s

/-- The state of a link after that. -/
def stateStarted (v : Nat) : Nat := if v = 3 then 4 else v

/-- At the first SYSREF edge a link that is ready does, and one that waits for LEMC is ready (R342, R343). -/
def State.alignLink (s : State) (i : Nat) : State :=
  if s.linkState i = 3 then s.enterData (decide (8 ≤ i)) (i % 8)
  else if s.linkState i = 2 then s.setFld (linkStat (decide (8 ≤ i)) (i % 8)) 0 3 3 else s

/-- The state of a link after that. -/
def stateAligned (v : Nat) : Nat := if v = 3 then 4 else if v = 2 then 3 else v

theorem State.linkState_startLink (i j : Nat) (hi : i < 16) (hj : j < 16) :
    (s.startLink i).linkState j = if j = i then stateStarted (s.linkState j) else s.linkState j := by
  unfold State.startLink stateStarted
  by_cases h3 : s.linkState i = 3
  · rw [if_pos h3, s.linkState_enterData hi hj]
    by_cases hji : j = i <;> simp [hji, h3]
  · rw [if_neg h3]
    by_cases hji : j = i <;> simp [hji, h3]

theorem State.linkState_alignLink (i j : Nat) (hi : i < 16) (hj : j < 16) :
    (s.alignLink i).linkState j = if j = i then stateAligned (s.linkState j) else s.linkState j := by
  unfold State.alignLink stateAligned
  by_cases h3 : s.linkState i = 3
  · rw [if_pos h3, s.linkState_enterData hi hj]
    by_cases hji : j = i <;> simp [hji, h3]
  by_cases h2 : s.linkState i = 2
  · rw [if_neg h3, if_pos h2, s.linkState_setFld hi hj (by decide)]
    by_cases hji : j = i <;> simp [hji, h2]
  · rw [if_neg h3, if_neg h2]
    by_cases hji : j = i <;> simp [hji, h3, h2]

/-- The number of a link among the sixteen. -/
theorem linkState_eq (tx : Bool) {n : Nat} (hn : n < 8) :
    ∃ i < 16, ∀ s : State, s.linkState i = s.fld (linkStat tx n) 0 3 := by
  refine ⟨n + if tx then 8 else 0, by split <;> omega, fun s => ?_⟩
  have hside : decide (8 ≤ n + if tx then 8 else 0) = tx := by cases tx <;> [simpa using hn; simp]
  have hlink : (n + if tx then 8 else 0) % 8 = n := by split <;> omega
  unfold State.linkState
  rw [hside, hlink]

/-- After the sweep of a symbol tick every link that was ready or running is in its data state. -/
theorem State.foldl_startLink {tx : Bool} {n : Nat} (hn : n < 8)
    (h : s.fld (linkStat tx n) 0 3 = 3 ∨ s.fld (linkStat tx n) 0 3 = 4) :
    ((List.range 16).foldl State.startLink s).fld (linkStat tx n) 0 3 = 4 := by
  obtain ⟨i, hi, hlink⟩ := linkState_eq tx hn
  rw [← hlink] at h ⊢
  rw [State.sweep_linkState State.linkState_startLink hi]
  rcases h with h | h <;> rw [h] <;> rfl

theorem State.foldl_alignLink {tx : Bool} {n : Nat} (hn : n < 8) (h : s.fld (linkStat tx n) 0 3 = 3) :
    ((List.range 16).foldl State.alignLink s).fld (linkStat tx n) 0 3 = 4 := by
  obtain ⟨i, hi, hlink⟩ := linkState_eq tx hn
  rw [← hlink] at h ⊢
  rw [State.sweep_linkState State.linkState_alignLink hi, h]
  rfl

/-! ## The SYSREF edge (R342, R343) -/

/-- The state in which the first SYSREF edge that the device has asked for finds the links. -/
def State.lemcAligned (s : State) (t : Nat) : State :=
  let s := (s.wrapAdd Reg.RAD_SYSREF 8 8 1).setBit Reg.RAD_SYSREF 1 true
  { s with
    pins := { s.pins with sysrefReq := false }
    start := { s.start with lemcAt := some t }
    clock := { s.clock with tu := if s.started then s.clock.tu else max s.clock.tu t } }

theorem State.sysrefEdge_of_request (off : Bool) (t : Nat) (hfirst : s.bit Reg.RAD_SYSREF 1 = false)
    (hreq : s.pins.sysrefReq = true) :
    s.sysrefEdge off t = (List.range 16).foldl State.alignLink (s.lemcAligned t) := by
  have hbit : (s.wrapAdd Reg.RAD_SYSREF 8 8 1).bit Reg.RAD_SYSREF 1 = false :=
    (s.bit_setFld _ _ _ _ _ _ (by decide)).trans ((if_neg (by decide)).trans hfirst)
  unfold State.sysrefEdge
  extract_lets u
  rw [if_pos (by rw [hbit]; rfl), if_pos (show u.pins.sysrefReq = true from hreq)]
  rfl

/-- What the sweep over the links leaves: all but their registers. -/
theorem State.alignLink_form (i : Nat) : s.alignLink i = { s with regs := (s.alignLink i).regs } := by
  unfold State.alignLink
  split
  · rfl
  split <;> rfl

theorem State.reg_alignLink (i : Nat) {k : Nat} (hk : ∀ tx, ∀ n < 8, linkStat tx n ≠ k) :
    (s.alignLink i).reg k = s.reg k := by
  have hk : k ≠ linkStat (decide (8 ≤ i)) (i % 8) := (hk _ _ (Nat.mod_lt i (by decide))).symm
  unfold State.alignLink
  split
  · exact s.reg_enterData _ _ hk
  split
  · exact (s.reg_setFld ..).trans (if_neg hk)
  · rfl

theorem linkStat_ne_sysref (tx : Bool) (n : Nat) (hn : n < 8) : linkStat tx n ≠ Reg.RAD_SYSREF := by
  have := linkStat_lt tx hn
  unfold Reg.RAD_SYSREF
  omega

theorem State.reg_lemcAligned (t : Nat) {k : Nat} (hk : k ≠ Reg.RAD_SYSREF) : (s.lemcAligned t).reg k = s.reg k :=
  calc _ = ((s.wrapAdd Reg.RAD_SYSREF 8 8 1).setBit Reg.RAD_SYSREF 1 true).reg k := rfl
    _ = s.reg k := by rw [State.reg_setBit, if_neg hk, State.reg_wrapAdd, if_neg hk]

theorem State.bit_lemcAligned (t : Nat) : (s.lemcAligned t).bit Reg.RAD_SYSREF 1 = true :=
  calc _ = ((s.wrapAdd Reg.RAD_SYSREF 8 8 1).setBit Reg.RAD_SYSREF 1 true).bit Reg.RAD_SYSREF 1 := rfl
    _ = true := by rw [State.bit_setBit _ _ _ _ _ _ (by decide), if_pos ⟨rfl, rfl⟩]

/-- The edge that the device has asked for establishes LEMC, ends the request and starts the links that are ready. -/
theorem State.sysrefEdge_aligned (off : Bool) (t : Nat) (hfirst : s.bit Reg.RAD_SYSREF 1 = false)
    (hreq : s.pins.sysrefReq = true) :
    (s.sysrefEdge off t).bit Reg.RAD_SYSREF 1 = true ∧ (s.sysrefEdge off t).pins.sysrefReq = false ∧
      (s.sysrefEdge off t).start.lemcAt = some t ∧
      ∀ tx, ∀ n < 8, s.fld (linkStat tx n) 0 3 = 3 → (s.sysrefEdge off t).fld (linkStat tx n) 0 3 = 4 := by
  rw [s.sysrefEdge_of_request off t hfirst hreq]
  have hkeeps {γ : Type} (g : State → γ) (hg : ∀ (s : State) m, g { s with regs := m } = g s) :
      g ((List.range 16).foldl State.alignLink (s.lemcAligned t)) = g (s.lemcAligned t) :=
    foldl_keeps g (fun s i => by rw [State.alignLink_form, hg]) _ _
  have hreg := foldl_keeps (State.reg · Reg.RAD_SYSREF) (fun s i => State.reg_alignLink s i linkStat_ne_sysref)
    (List.range 16) (s.lemcAligned t)
  refine ⟨?_, ?_, ?_, fun tx n hn h => State.foldl_alignLink _ hn ?_⟩
  · unfold State.bit
    rw [hreg]
    exact s.bit_lemcAligned t
  · exact congrArg Pins.sysrefReq (hkeeps State.pins fun _ _ => rfl)
  · exact congrArg Start.lemcAt (hkeeps State.start fun _ _ => rfl)
  · unfold State.fld
    rw [s.reg_lemcAligned t (linkStat_ne_sysref tx n hn)]
    exact h

/-! ## The symbol tick -/

/-- What NCOs and gain loops leave alone at a symbol tick: the memories, the plan, the command queue, and the state
registers of the links. -/
def State.linkView (s : State) : Memories × PlanStore × List Instr × (Bool → Fin 8 → Word) :=
  (s.mem, s.plan, s.pending, fun tx n => s.reg (linkStat tx n))

theorem State.linkView_radio (d : Radio) : ({ s with radio := d } : State).linkView = s.linkView := (rfl)

theorem State.linkView_ite (c : Prop) [Decidable c] (a b : State) :
    (if c then a else b).linkView = if c then a.linkView else b.linkView := apply_ite _ ..

theorem State.linkView_foldl {β : Type} {f : State → β → State} (h : ∀ s b, (f s b).linkView = s.linkView)
    (l : List β) : (l.foldl f s).linkView = s.linkView := foldl_keeps State.linkView h l s

theorem State.linkView_setReg {k : Nat} (w : Word) (hk : ∀ tx, ∀ n < 8, linkStat tx n ≠ k) :
    (s.setReg k w).linkView = s.linkView := by
  have hreg (tx : Bool) (n : Fin 8) : (s.setReg k w).reg (linkStat tx n) = s.reg (linkStat tx n) :=
    (s.reg_setReg ..).trans (if_neg (hk tx n n.isLt))
  unfold State.linkView
  simp only [hreg, State.setReg_mem, State.setReg_plan, State.setReg_pending]

theorem linkStat_ne_winKey (l a : Nat) (tx : Bool) (n : Nat) (hn : n < 8) : linkStat tx n ≠ winKey l a :=
  (winKey_ne ((linkStat_lt tx hn).2.trans_lt (by decide))).symm

theorem State.linkView_bump_window (l a lo n v : Nat) : (s.bump (winKey l a) lo n v).linkView = s.linkView :=
  s.linkView_setReg _ (linkStat_ne_winKey l a)

theorem State.linkView_setFld_window (l a lo n v : Nat) : (s.setFld (winKey l a) lo n v).linkView = s.linkView :=
  s.linkView_setReg _ (linkStat_ne_winKey l a)

theorem State.linkView_setLoop (l : Nat) (x : GainLoop) : (s.setLoop l x).linkView = s.linkView := (rfl)

theorem State.linkView_setLane (l : Nat) (x : SteerLane) : (s.setLane l x).linkView = s.linkView := (rfl)

theorem State.linkView_dropGainWord (w : SteerWord) : (s.dropGainWord w).linkView = s.linkView := by
  unfold State.dropGainWord
  simp only [↓State.linkView_setLoop, ↓State.linkView_ite, ↓ite_self]

theorem State.linkView_withdraw (l t : Nat) : (s.withdraw l t).linkView = s.linkView := by
  unfold State.withdraw
  simp only [↓State.linkView_bump_window, ↓State.linkView_dropGainWord, ↓State.linkView_foldl, implies_true,
    ↓State.linkView_setLane]

theorem State.linkView_freeze (l t until_ : Nat) : (s.freeze l t until_).linkView = s.linkView := by
  unfold State.freeze
  simp only [↓State.linkView_setLoop, ↓State.linkView_withdraw]

theorem State.linkView_applyGain (l t : Nat) : (s.applyGain l t).linkView = s.linkView := by
  unfold State.applyGain
  simp only [↓State.linkView_setFld_window, ↓State.linkView_setLoop]

theorem State.linkView_loopSymbol (l k : Nat) : (s.loopSymbol l k).linkView = s.linkView := by
  unfold State.loopSymbol
  extract_lets +onlyGivenNames t s1 _ s2
  have h1 : s1.linkView = s.linkView := s.linkView_applyGain ..
  have h2 : s2.linkView = s.linkView := by
    unfold s2
    split <;> simp only [↓State.linkView_freeze, ↓State.linkView_setLoop, ↓State.linkView_ite, ↓ite_self, h1]
  simp only [↓State.linkView_setFld_window, ↓State.linkView_setLoop, ↓State.linkView_withdraw, ↓State.linkView_freeze,
    ↓State.linkView_foldl, implies_true, ↓State.linkView_ite, ↓ite_self, h2]

theorem State.linkView_takeStep (n kind : Nat) (x : NcoStep) : (s.takeStep n kind x).linkView = s.linkView := by
  unfold State.takeStep
  split
  · exact s.linkView_setReg _ fun tx m hm => by have := linkStat_lt tx hm; unfold Reg.NCO_DELTA; omega
  · exact s.linkView_setReg _ fun tx m hm => by have := linkStat_lt tx hm; unfold Reg.NCO_TOFF; omega

theorem State.linkView_settleSteps (n kind t : Nat) : (s.settleSteps n kind t).linkView = s.linkView := by
  rw [State.settleSteps_eq, State.linkView_foldl _ fun s x => s.linkView_takeStep n kind x, State.linkView_radio]

/-- The state in which a symbol tick finds the links: after the NCO steps and the gain loops. -/
def State.ticked (s : State) (k : Nat) : State :=
  (List.range 64).foldl (fun s l => s.loopSymbol l k)
    ((List.range 16).foldl (fun s n => s.settleSteps n 2 (s.symbolCycle k)) s)

theorem State.linkView_ticked (k : Nat) : (s.ticked k).linkView = s.linkView :=
  (State.linkView_foldl _ (fun s l => s.linkView_loopSymbol l k) _).trans
    (s.linkView_foldl (fun s _ => s.linkView_settleSteps ..) _)

theorem State.symbolTick_eq {k : Nat} (hrun : s.clock.running = true) (hk : k < s.fld Reg.TCK_SYMS 0 4)
    (hs : (s.reach (s.fld (Reg.TCK_SYMOFF k) 0 21)).served 8 = true) :
    s.symbolTick k = (List.range 16).foldl State.startLink ((s.reach (s.fld (Reg.TCK_SYMOFF k) 0 21)).ticked k) := by
  unfold State.symbolTick
  rw [if_neg (by simpa [hrun] using hk)]
  exact State.onRadio_of_served hs _

theorem State.startLink_form (i : Nat) : s.startLink i = { s with regs := (s.startLink i).regs } := by
  unfold State.startLink
  split <;> rfl

end

/-! ## The commands -/

section
variable {s : State} (hs : s.served 8 = true) {n : Nat} (hn : n < 8)
include hs

theorem exec_sysrefEdge (off : Bool) (t : Nat) : exec (.sysrefEdge off t) s = .next (s.sysrefEdge off t) :=
  congrArg _ (State.onRadio_of_served hs _)

include hn

theorem exec_jesdLinkCrc (slot j k : Nat) : exec (.jesdLinkCrc n slot j k) s = .next (s.linkCrc n slot j k) :=
  (congrArg _ (State.onRadio_of_served hs _)).trans (by rw [Nat.mod_eq_of_lt hn])

theorem exec_jesdLinkDown (tx elastic : Bool) :
    exec (.jesdLinkDown tx n elastic) s = .next (s.linkDown tx n elastic) :=
  (congrArg _ (State.onRadio_of_served hs _)).trans (by rw [Nat.mod_eq_of_lt hn])

theorem exec_relock (tx : Bool) : exec (.relock tx n) s = .next (s.relock tx n) :=
  (congrArg _ (State.onRadio_of_served hs _)).trans (by rw [Nat.mod_eq_of_lt hn])

end

/-- Settles O18: one lemma for each event of a link (`State.linkCrc_counts`, `State.linkDown_state`,
`State.relock_state`, `State.sysrefEdge_aligned`), and `State.foldl_startLink` for the symbol tick. -/
theorem linkEventsAndSymbolTicks : Obligations.LinkEventsAndSymbolTicks := by
  unfold Obligations.LinkEventsAndSymbolTicks
  refine ⟨fun s n hn hs => ⟨fun slot j k => ⟨_, exec_jesdLinkCrc hs hn slot j k, s.linkCrc_counts hn slot j k⟩,
    fun tx elastic => ⟨_, exec_jesdLinkDown hs hn tx elastic, s.linkDown_state tx hn elastic⟩,
    fun tx hdown hlemc => ⟨_, exec_relock hs hn tx, s.relock_state hdown hlemc⟩,
    fun off t hfirst hreq => ?sysref⟩, ?tick⟩
  case sysref =>
    obtain ⟨hbit, hpin, hlemc, hlinks⟩ := s.sysrefEdge_aligned off t hfirst hreq
    exact ⟨_, exec_sysrefEdge hs off t, hbit, hpin, hlemc, fun tx => hlinks tx n hn⟩
  case tick =>
    intro s k hrun hk s1 hs
    have hview : (s1.ticked k).linkView = s1.linkView := s1.linkView_ticked k
    have hkeeps {γ : Type} (g : State → γ) (hg : ∀ (s : State) m, g { s with regs := m } = g s) :
        g (s.symbolTick k) = g (s1.ticked k) := by
      rw [s.symbolTick_eq hrun hk hs]
      exact foldl_keeps g (fun s i => by rw [State.startLink_form, hg]) _ _
    refine ⟨_, rfl, fun tx n hn h => ?_, (hkeeps State.mem fun _ _ => rfl).trans (congrArg (·.1) hview),
      (hkeeps State.plan fun _ _ => rfl).trans (congrArg (·.2.1) hview),
      (hkeeps State.pending fun _ _ => rfl).trans (congrArg (·.2.2.1) hview)⟩
    have hreg : (s1.ticked k).reg (linkStat tx n) = s1.reg (linkStat tx n) :=
      congrFun₂ (congrArg (·.2.2.2) hview) tx ⟨n, hn⟩
    rw [s.symbolTick_eq hrun hk hs]
    exact State.foldl_startLink _ hn (h.imp (congrArg (bitsOf · 0 3) hreg).trans (congrArg (bitsOf · 0 3) hreg).trans)

end Sys2Proof.Machine
end

section
/-! PROOF of O17: received samples enter the ring and transmitted ones leave it through the NCO (R339 to R348). -/

namespace Sys2Proof.Machine

open Sys2Proof

section
variable (s : State)

/-! ## Received samples -/

/-- A received sample as the NCO has mixed it is measured and stored in its ring; where the link was not up, its
granule is void. -/
def State.storeSample (s : State) (c : Nat) (ch : RadioChan) (slot j : Nat) (p : Pair) (up : Prop) [Decidable up] :
    State :=
  let s := s.detect c p
  let a := s.ringAddr ch slot j
  let k := teKey ch.engine 0 a
  let s := s.teWrite k (wordOf p)
  let g := k / 64
  let s := if a % 64 = 0 then s.teSetVoid g 0 else s
  let s := if up then s else s.teSetVoid g 0x0603
  let s := if s.lostLock 24 then s.teSetVoid g 0x0B06 else s
  if a % 64 = 63 then s.teMark g else s

/-- The state as a receive sample comes: its cycle, and with it what earlier cycles owe. -/
def State.atReceive (s : State) (ch : RadioChan) (slot j : Nat) : State :=
  if slot = s.slot then s.reach (s.sampleCycle j + s.fld (Reg.JRX_STAT ch.link) 16 16) else s

/-- What a receive sample of a channel with a path does: its parts, justified or zero, go through the NCO and are
stored. -/
theorem State.receiveSample_eq {c slot j re im n1 n2 : Nat} {ch : RadioChan} {s1 u : State} {p : Pair}
    (hrun : s.clock.running = true) (hrx : (s.variant s.active).rx.any (fun e => e.1 == c) = true)
    (hch : s.rxChan c = ch) (hn : s.renumber false ch.link slot j = (n1, n2)) (hs1 : s.atReceive ch n1 n2 = s1)
    (hm : s1.mix ch n1 n2 (if s1.fld (Reg.JRX_STAT ch.link) 0 3 = 4 then
      (s1.justify ch.link re, s1.justify ch.link im) else (0, 0)) true = (p, u)) :
    s.receiveSample c slot j re im = u.storeSample c ch n1 n2
      (if s1.fld (Reg.JRX_STAT ch.link) 0 3 = 4 then p else (0, 0)) (s1.fld (Reg.JRX_STAT ch.link) 0 3 = 4) := by
  unfold State.atReceive at hs1
  unfold State.receiveSample
  rw [if_neg (by simp [hrun, hrx])]
  dsimp only
  rw [hch, hn]
  dsimp only
  rw [hs1, hm]
  rfl

/-- The marks of a granule are beside its samples. -/
theorem State.teRead_of_te {s t : State} (h : t.mem.te = s.mem.te) (k : Nat) : t.teRead k = s.teRead k := by
  unfold State.teRead
  rw [h]

theorem State.te_teSetVoid (g cause : Nat) : (s.teSetVoid g cause).mem.te = s.mem.te := rfl

theorem State.te_teMark (g : Nat) : (s.teMark g).mem.te = s.mem.te := by
  obtain ⟨w, -, h⟩ := s.teMark_form g
  rw [h]

theorem State.teVoid_teMark (g : Nat) : (s.teMark g).mem.teVoid = s.mem.teVoid := by
  obtain ⟨w, -, h⟩ := s.teMark_form g
  rw [h]

theorem State.ringAddr_of_regs {s t : State} (h : t.regs = s.regs) (ch : RadioChan) (n j : Nat) :
    t.ringAddr ch n j = s.ringAddr ch n j := by
  unfold State.ringAddr State.toff State.sfld State.reg
  rw [h]

theorem State.detect_regs (c : Nat) (p : Pair) : (s.detect c p).regs = s.regs := rfl

theorem State.teVoid_teSetVoid (g cause : Nat) : SMap.read 0 (s.teSetVoid g cause).mem.teVoid g = cause :=
  SMap.read_write_same

section
variable (c : Nat) (ch : RadioChan) (slot j : Nat) (p : Pair) (up : Prop) [Decidable up]

/-- A stored sample lies at its ring address. -/
theorem State.teRead_storeSample :
    (s.storeSample c ch slot j p up).teRead (teKey ch.engine 0 (s.ringAddr ch slot j)) = wordOf p := by
  rw [← State.ringAddr_of_regs (s.detect_regs c p)]
  unfold State.storeSample
  extract_lets s1 a k s2 g s3 s4 s5
  have h3 : s3.mem.te = s2.mem.te := by unfold s3; split <;> [exact s2.te_teSetVoid ..; rfl]
  have h4 : s4.mem.te = s3.mem.te := by unfold s4; split <;> [rfl; exact s3.te_teSetVoid ..]
  have h5 : s5.mem.te = s4.mem.te := by unfold s5; split <;> [exact s4.te_teSetVoid ..; rfl]
  have h6 : (if a % 64 = 63 then s5.teMark g else s5).mem.te = s5.mem.te := by split <;> [exact s5.te_teMark g; rfl]
  rw [State.teRead_of_te (h6.trans (h5.trans (h4.trans h3)))]
  exact (s1.teRead_teWrite k k _).trans (if_pos rfl)

/-- The granule of a sample whose link was not up is void. -/
theorem State.teVoid_storeSample (hup : ¬up) :
    SMap.read 0 (s.storeSample c ch slot j p up).mem.teVoid (teKey ch.engine 0 (s.ringAddr ch slot j) / 64) ≠ 0 := by
  rw [← State.ringAddr_of_regs (s.detect_regs c p)]
  unfold State.storeSample
  extract_lets s1 a k s2 g s3 s4 s5
  have h4 : SMap.read 0 s4.mem.teVoid g = 0x0603 := by
    unfold s4
    rw [if_neg hup]
    exact s3.teVoid_teSetVoid g _
  have h5 : SMap.read 0 s5.mem.teVoid g ≠ 0 := by
    unfold s5
    split
    · rw [s4.teVoid_teSetVoid]; decide
    · rw [h4]; decide
  have h6 : (if a % 64 = 63 then s5.teMark g else s5).mem.teVoid = s5.mem.teVoid := by
    split <;> [exact s5.teVoid_teMark g; rfl]
  rw [h6]
  exact h5

end

section
variable {s} {c slot j re im n1 n2 : Nat} {ch : RadioChan} {s1 u : State} {p : Pair}
  (hrun : s.clock.running = true) (hrx : (s.variant s.active).rx.any (fun e => e.1 == c) = true)
  (hch : s.rxChan c = ch) (hn : s.renumber false ch.link slot j = (n1, n2)) (hs1 : s.atReceive ch n1 n2 = s1)
include hrun hrx hch hn hs1

theorem State.receiveSample_up (hup : s1.fld (Reg.JRX_STAT ch.link) 0 3 = 4)
    (hm : s1.mix ch n1 n2 (s1.justify ch.link re, s1.justify ch.link im) true = (p, u)) :
    (s.receiveSample c slot j re im).teRead (teKey ch.engine 0 (u.ringAddr ch n1 n2)) = wordOf p := by
  rw [s.receiveSample_eq (p := p) (u := u) hrun hrx hch hn hs1 (by rw [if_pos hup]; exact hm), if_pos hup]
  exact State.teRead_storeSample ..

theorem State.receiveSample_down (hdown : s1.fld (Reg.JRX_STAT ch.link) 0 3 ≠ 4)
    (hm : s1.mix ch n1 n2 (0, 0) true = (p, u)) :
    (s.receiveSample c slot j re im).teRead (teKey ch.engine 0 (u.ringAddr ch n1 n2)) = 0 ∧
      SMap.read 0 (s.receiveSample c slot j re im).mem.teVoid (teKey ch.engine 0 (u.ringAddr ch n1 n2) / 64) ≠ 0 := by
  rw [s.receiveSample_eq (p := p) (u := u) hrun hrx hch hn hs1 (by rw [if_neg hdown]; exact hm), if_neg hdown]
  exact ⟨State.teRead_storeSample .., State.teVoid_storeSample _ _ _ _ _ _ _ hdown⟩

end

/-! ## Transmitted samples -/

/-- A channel's sample leaves to its link: zero from a shadow twin (R494). -/
def State.sendSample (s : State) (c : Nat) (p : Pair) : State :=
  { s with radio := { s.radio with
    out := SMap.write 0 s.radio.out c (wordOf (if s.isShadow then (0, 0) else p)) } }

theorem State.out_sendSample (c : Nat) (p : Pair) :
    SMap.read 0 (s.sendSample c p).radio.out c = wordOf (if s.isShadow then (0, 0) else p) := SMap.read_write_same

theorem State.out_sendSample_zero (c : Nat) : SMap.read 0 (s.sendSample c (0, 0)).radio.out c = 0 := by
  rw [State.out_sendSample, ite_self]
  rfl

/-- The state as a transmit sample leaves. -/
def State.atTransmit (s : State) (ch : RadioChan) (slot j : Nat) : State :=
  if slot = s.slot then s.reach (s.sampleCycle j - s.fld (Reg.JTX_STAT ch.link) 16 16) else s

theorem State.transmitSample_of_down {c slot j buf : Nat}
    (htx : (s.variant s.active).tx.any (fun e => e.1 == c) = true)
    (hdown : s.fld (Reg.JTX_STAT (s.txChan c).link) 0 3 ≠ 4) :
    s.transmitSample c slot j buf = s.sendSample c (0, 0) := by
  unfold State.transmitSample
  extract_lets ch send
  rw [if_neg (by simp [htx]), if_pos (by simp [ch, hdown])]
  rfl

section
variable {c slot j buf n1 n2 : Nat} {ch : RadioChan} {s1 : State} (hrun : s.clock.running = true)
  (hidle : s.fatalIdle = false) (htx : (s.variant s.active).tx.any (fun e => e.1 == c) = true)
  (hch : s.txChan c = ch) (hup : s.fld (Reg.JTX_STAT ch.link) 0 3 = 4)
  (hn : s.renumber true ch.link slot j = (n1, n2)) (hs1 : s.atTransmit ch n1 n2 = s1)
include hrun hidle htx hch hup hn hs1

/-- A sample whose granule is complete, not void and passes its hallmark leaves through the NCO. -/
theorem State.transmitSample_of_done {p : Pair} {u : State}
    (hdone : s1.granuleDone c (s1.ringAddr ch n1 n2) (n1 * slotSamples + n2) = true)
    (hvoid : SMap.read 0 s1.mem.teVoid (teKey ch.engine 0 (s1.ringAddr ch n1 n2) / 64) = 0)
    (hok : s1.teOk (teKey ch.engine 0 (s1.ringAddr ch n1 n2) / 64) = true)
    (hm : s1.mix ch n1 n2 (pairOf (s1.teRead (teKey ch.engine 0 (s1.ringAddr ch n1 n2)))) false = (p, u)) :
    s.transmitSample c slot j buf = u.sendSample c p := by
  unfold State.atTransmit at hs1
  unfold State.transmitSample
  dsimp only
  rw [hch, if_neg (by simp [htx]), if_neg (by simp [hrun, hidle, hup]), hn]
  dsimp only
  rw [hs1, if_neg (by simp [hdone]), if_neg (by simp [hvoid, hok]), hm]
  rfl

/-- A sample whose granule is not complete leaves as zero; the granule's first counts and is a breach. -/
theorem State.transmitSample_of_not_done
    (hdone : s1.granuleDone c (s1.ringAddr ch n1 n2) (n1 * slotSamples + n2) = false) :
    ∃ t, s.transmitSample c slot j buf = (if s1.ringAddr ch n1 n2 % 64 = 0 then
      ((s1.bump Reg.RAD_CNT 16 16 1).breach none (teLoc ch.engine) 0 t 0).voidBuf none 8 buf 0x0301
      else s1).sendSample c (0, 0) := by
  unfold State.atTransmit at hs1
  unfold State.transmitSample
  dsimp only
  rw [hch, if_neg (by simp [htx]), if_neg (by simp [hrun, hidle, hup]), hn]
  dsimp only
  rw [hs1, if_pos (by simp [hdone])]
  simp only [beq_iff_eq]
  exact ⟨_, rfl⟩

end

/-! ## The count of granules that were not ready (R345) -/

/-- The registers in which a breach of the data plane shows (R93). -/
def breachRegs : List Nat := [Reg.DET_BREACH, Reg.DET_BRSLOT, Reg.DET_BRCC, Reg.FLT_LOST, Reg.FLT_CNTD]

theorem State.reg_later {k : Nat} (t r : Nat) {e : Effect} (he : (s.apply r e).reg k = s.reg k) :
    (s.later t r e).reg k = s.reg k := by
  unfold State.later
  split
  exacts [he, rfl]

theorem State.reg_breach (loc : BitVec 64) (w0 : Word) (planned late : Nat) {k : Nat} (hk : k ∉ breachRegs) :
    (s.breach none loc w0 planned late).reg k = s.reg k := by
  simp only [breachRegs, List.mem_cons, List.not_mem_nil, or_false, not_or] at hk
  obtain ⟨hbreach, hslot, hcc, hlost, hcnt⟩ := hk
  have hlatch (s : State) (v w : Word) :
      (s.apply (locRegion loc) (.latch Reg.DET_BRCC 31 [(Reg.DET_BRSLOT, v), (Reg.DET_BRCC, w)])).reg k = s.reg k := by
    unfold State.apply
    dsimp only
    split
    · rfl
    · rw [List.foldl_cons, List.foldl_cons, List.foldl_nil, State.reg_setReg, if_neg hcc, State.reg_setReg,
        if_neg hslot]
  calc _ = (s.countBreach (locRegion loc) planned).reg k :=
        State.reg_later _ _ _ (by exact State.reg_raise_detected _ _ _ _ _ hlost hcnt)
    _ = s.reg k :=
        (State.reg_later _ _ _ (hlatch _ _ _)).trans
          (s.reg_later _ _ (by exact (s.reg_bump ..).trans (if_neg hbreach)))

theorem State.reg_voidBuf_none (r buf cause : Nat) {k : Nat} (hk : k ≠ Reg.LGR_TOTAL) :
    (s.voidBuf none r buf cause).reg k = s.reg k := by
  have hbump (s : State) : (s.bump Reg.LGR_TOTAL 0 32 1).reg k = s.reg k := (s.reg_bump ..).trans (if_neg hk)
  unfold State.voidBuf State.voidEntry
  dsimp only
  split
  · rfl
  split
  · split
    · rfl
    · split <;> exact hbump _
  · exact hbump s

theorem State.fld_sendSample (c : Nat) (p : Pair) (k lo n : Nat) : (s.sendSample c p).fld k lo n = s.fld k lo n :=
  s.fld_radio _ k lo n

/-- The first sample of a granule that is not ready counts it in RAD.CNT. -/
theorem State.granuleMissed_counts (engine t buf : Nat) :
    (((s.bump Reg.RAD_CNT 16 16 1).breach none (teLoc engine) 0 t 0).voidBuf none 8 buf 0x0301).fld Reg.RAD_CNT 16 16
      = min (s.fld Reg.RAD_CNT 16 16 + 1) 65535 := by
  unfold State.fld
  rw [State.reg_voidBuf_none _ _ _ _ (by decide), State.reg_breach _ _ _ _ _ (by decide)]
  exact (s.fld_bump _ _ _ _ _ _ _ (by decide) (by simp)).trans (if_pos ⟨rfl, rfl, rfl⟩)

end

/-! ## The commands -/

theorem exec_receiveSample {s : State} (hs : s.served 8 = true) (c slot j re im : Nat) :
    exec (.receiveSample c slot j re im) s = .next (s.receiveSample c slot j re im) :=
  congrArg _ (State.onRadio_of_served hs _)

theorem exec_transmitSample {s : State} (hs : s.served 8 = true) (c slot j buf : Nat) :
    exec (.transmitSample c slot j buf) s = .next (s.transmitSample c slot j buf) :=
  congrArg _ (State.onRadio_of_served hs _)

/-- Settles O17: `State.receiveSample_eq` says where a received sample is stored, and `State.transmitSample_of_done`,
`State.transmitSample_of_not_done` and `State.transmitSample_of_down` what leaves. -/
theorem radioSamplesPassTheNco : Obligations.RadioSamplesPassTheNco := by
  unfold Obligations.RadioSamplesPassTheNco
  intro s c slot j hs hrun
  refine ⟨fun hrx re im => ?receive, fun htx buf => ?transmit⟩
  case receive =>
    intro ch n s1 m z
    refine ⟨fun hup => ⟨_, exec_receiveSample hs .., ?_⟩, fun hdown => ⟨_, exec_receiveSample hs .., ?_⟩⟩
    · exact State.receiveSample_up (n1 := n.1) (n2 := n.2) (s1 := s1) (p := m.1) hrun hrx rfl rfl rfl hup rfl
    · exact State.receiveSample_down (n1 := n.1) (n2 := n.2) (s1 := s1) (p := z.1) hrun hrx rfl rfl rfl hdown rfl
  case transmit =>
    intro ch n s1 a k m
    refine ⟨fun hidle hup => ⟨fun hdone hvoid hok => ⟨_, exec_transmitSample hs .., ?_⟩,
      fun hdone => ⟨_, exec_transmitSample hs .., ?_⟩⟩, fun hdown => ⟨_, exec_transmitSample hs .., ?_⟩⟩
    · rw [s.transmitSample_of_done (n1 := n.1) (n2 := n.2) (s1 := s1) (p := m.1) (u := m.2) hrun hidle htx rfl hup rfl
        rfl hdone hvoid hok rfl]
      exact State.out_sendSample ..
    · obtain ⟨t, ht⟩ := s.transmitSample_of_not_done (buf := buf) (n1 := n.1) (n2 := n.2) (s1 := s1) hrun hidle htx rfl
        hup rfl rfl hdone
      rw [ht]
      refine ⟨State.out_sendSample_zero .., fun hfirst => ?_⟩
      rw [State.fld_sendSample, if_pos hfirst]
      exact s1.granuleMissed_counts ..
    · rw [s.transmitSample_of_down htx hdown]
      exact ⟨s.out_sendSample_zero c, rfl⟩

end Sys2Proof.Machine
end

section
/-! PROOF of O16: what FFT, IFFT, FIR and FETCH leave in the work area, the memories and the spans, and when they end
(R351 to R357). -/

namespace Sys2Proof.Machine

open Sys2Proof

/-! ## Lengths of a transform (R352) -/

theorem length_evens_add_odds {α : Type} (xs : List α) : (evens xs).length + (odds xs).length = xs.length := by
  induction xs using evens.induct with
  | case1 x y xs ih => simp only [evens, odds, List.length_cons]; omega
  | case2 x => rfl
  | case3 => rfl

theorem length_bitReverse {α : Type} (n : Nat) (xs : List α) : (bitReverse n xs).length = xs.length := by
  induction n generalizing xs with
  | zero => rfl
  | succ n ih => rw [bitReverse, List.length_append, ih, ih, length_evens_add_odds]

/-- A list of `n` blocks of `h` points each. -/
def Blocks (n h : Nat) (bs : List (List Pair)) : Prop := bs.length = n ∧ ∀ b ∈ bs, b.length = h

theorem Blocks.length_flatten {n h : Nat} {bs : List (List Pair)} (hb : Blocks n h bs) :
    bs.flatten.length = n * h := by
  obtain ⟨hn, hh⟩ := hb
  rw [List.length_flatten, List.map_congr_left hh, List.map_const', hn, List.sum_replicate, smul_eq_mul]

/-- A pass halves the number of blocks and doubles their length. -/
theorem Blocks.passPairs {n h : Nat} (s : Nat) {ws : List Pair} {bs : List (List Pair)} (hw : ws.length = h)
    (hb : Blocks (2 * n) h bs) : Blocks n (2 * h) (passPairs s ws bs) := by
  induction n generalizing bs with
  | zero =>
    obtain ⟨hn, -⟩ := hb
    rw [List.length_eq_zero_iff.mp hn]
    exact ⟨rfl, nofun⟩
  | succ n ih =>
    match bs, hb with
    | a :: b :: rest, ⟨hn, hh⟩ =>
      rw [List.forall_mem_cons, List.forall_mem_cons] at hh
      obtain ⟨ha, hb, hrest⟩ := hh
      obtain ⟨hlen, hall⟩ := ih ⟨by simpa [Nat.mul_succ] using hn, hrest⟩
      refine ⟨congrArg (· + 1) hlen, List.forall_mem_cons.mpr ⟨?_, hall⟩⟩
      simp only [List.length_append, List.length_map, List.length_zip, hw, ha, hb]
      omega

theorem length_twiddles (inv : Bool) (h : Nat) : (twiddles inv h).length = h := by
  unfold twiddles
  rw [List.length_map, List.length_range]

/-- The points after the last pass and after the one before are as many as those before the first. -/
theorem length_passes (inv : Bool) {n h : Nat} {bs : List (List Pair)} (be : Nat) (hb : Blocks (2 ^ n) h bs) :
    (passes inv n h bs be).1.length = 2 ^ n * h ∧ (passes inv n h bs be).2.1.length = 2 ^ n * h := by
  induction n generalizing h bs be with
  | zero => exact ⟨hb.length_flatten, hb.length_flatten⟩
  | succ n ih =>
    rw [Nat.pow_succ'] at hb
    have hpass (s : Nat) : Blocks (2 ^ n) (2 * h) (passPairs s (twiddles inv h) bs) :=
      hb.passPairs s (length_twiddles ..)
    have hpow : 2 ^ (n + 1) * h = 2 ^ n * (2 * h) := by rw [Nat.pow_succ, Nat.mul_assoc]
    rw [hpow]
    cases n with
    | zero => exact ⟨(hpass _).length_flatten, hb.length_flatten.trans hpow⟩
    | succ n => exact ih _ (hpass _)

theorem length_transform (inv : Bool) {n : Nat} {xs : List Pair} (h : xs.length = 2 ^ n) :
    (transform inv n xs).1.length = 2 ^ n ∧ (transform inv n xs).2.1.length = 2 ^ n := by
  have hb : Blocks (2 ^ n) 1 ((bitReverse n xs).map fun x => [x]) := by
    refine ⟨by rw [List.length_map, length_bitReverse, h], List.forall_mem_map.mpr fun _ _ => rfl⟩
  have := length_passes inv 0 hb
  rwa [Nat.mul_one] at this

/-! ## Runs of samples in a memory (R350) -/

/-- Values written at different keys are read there. -/
theorem SMap.read_writeAll_zip {α : Type} [DecidableEq α] {d : α} {ks : List Nat} {vs : List α} (hks : ks.Nodup)
    (hlen : vs.length = ks.length) {j : Nat} (hj : j < ks.length) (m : SMap α) :
    (SMap.writeAll d m (ks.zip vs)).read d ks[j] = vs[j] := by
  induction ks generalizing vs m j with
  | nil => exact absurd hj (Nat.not_lt_zero _)
  | cons k ks ih =>
    obtain ⟨hk, hks⟩ := List.nodup_cons.mp hks
    match vs, hlen with
    | v :: vs, hlen =>
      cases j with
      | zero =>
        change SMap.read d (SMap.writeAll d (SMap.write d m k v) (ks.zip vs)) k = v
        refine (SMap.read_writeAll_other fun e he heq => hk ?_).trans SMap.read_write_same
        exact heq ▸ (List.of_mem_zip he).1
      | succ j => exact ih hks (Nat.succ.inj hlen) (Nat.lt_of_succ_lt_succ hj) _

/-- The keys of `n` samples of a memory from address `a`. -/
def teRun (t m a n : Nat) : List Nat := (List.range n).map fun i => teKey t m (a + i)

theorem length_teRun (t m a n : Nat) : (teRun t m a n).length = n := by
  unfold teRun
  rw [List.length_map, List.length_range]

theorem getElem_teRun (t m a : Nat) {n j : Nat} (h : j < (teRun t m a n).length) :
    (teRun t m a n)[j] = teKey t m (a + j) := by
  simp [teRun]

theorem teKey_inj {t m a b : Nat} (ha : a < 65536) (hb : b < 65536) (h : teKey t m a = teKey t m b) : a = b := by
  unfold teKey at h
  omega

theorem nodup_teRun (t m : Nat) {a n : Nat} (h : a + n ≤ 65536) : (teRun t m a n).Nodup := by
  refine List.Nodup.map_on (fun i hi j hj hij => ?_) List.nodup_range
  rw [List.mem_range] at hi hj
  exact Nat.add_left_cancel (teKey_inj (by omega) (by omega) hij)

section
variable (s : State)

theorem State.te_teWriteAll (es : List (Nat × Word)) : (s.teWriteAll es).mem.te = SMap.writeAll 0 s.mem.te es := by
  induction es generalizing s with
  | nil => rfl
  | cons e es ih => exact ih _

theorem State.teRead_teWriteAll_run (t m : Nat) {a n j : Nat} (h : a + n ≤ 65536) {ws : List Word} (hw : ws.length = n)
    (hj : j < n) : (s.teWriteAll ((teRun t m a n).zip ws)).teRead (teKey t m (a + j)) = ws[j] := by
  have hlen := length_teRun t m a n
  have hread := SMap.read_writeAll_zip (d := 0) (nodup_teRun t m h) (hw.trans hlen.symm) (hlen.symm ▸ hj) s.mem.te
  rw [getElem_teRun] at hread
  unfold State.teRead
  rw [State.te_teWriteAll]
  exact hread

theorem State.teRead_teWriteAll_other {es : List (Nat × Word)} {k : Nat} (h : ∀ e ∈ es, e.1 ≠ k) :
    (s.teWriteAll es).teRead k = s.teRead k := by
  unfold State.teRead
  rw [State.te_teWriteAll, SMap.read_writeAll_other h]

/-- What the granules of an output take: a fresh H-C each, or the code of what made them void (R356). -/
def State.markGranules (gs : List Nat) (cause : Nat) : State :=
  gs.foldl (fun s g => if cause = 0 then (s.teMark g).teSetVoid g 0 else s.teSetVoid g cause) s

theorem State.te_markGranules (gs : List Nat) (cause : Nat) : (s.markGranules gs cause).mem.te = s.mem.te := by
  refine foldl_keeps (fun s : State => s.mem.te) (fun s g => ?_) gs s
  split
  · exact ((s.teMark g).te_teSetVoid g 0).trans (s.te_teMark g)
  · exact s.te_teSetVoid g cause

/-! ## The work area (R352) -/

/-- The writes of points to memory Y from an address. -/
def areaWrites (t base : Nat) (xs : List Pair) : List (Nat × Word) :=
  ((List.range xs.length).zip xs).map fun e => (teKey t 1 (base + e.1), wordOf e.2)

theorem areaWrites_eq (t base : Nat) (xs : List Pair) :
    areaWrites t base xs = (teRun t 1 base xs.length).zip (xs.map wordOf) :=
  (List.zip_map (f := fun i => teKey t 1 (base + i)) (g := wordOf)).symm

theorem areaWrites_ne {t base k : Nat} {xs : List Pair} (hbase : k < base) (hend : base + xs.length ≤ 65536) :
    ∀ e ∈ areaWrites t base xs, e.1 ≠ teKey t 1 k := by
  refine List.forall_mem_map.mpr fun e he h => ?_
  have hlt := List.mem_range.mp (List.of_mem_zip he).1
  have := teKey_inj (by omega) (by omega) h
  omega

/-- The last two passes of a transform lie in the two halves of the work area, which of them in the first by the parity
of their number. -/
def State.workArea (t wrk n : Nat) (x : List Pair × List Pair × Nat) : State :=
  let ab := if n % 2 = 1 then (x.1, x.2.1) else (x.2.1, x.1)
  (s.teWriteAll (areaWrites t wrk ab.1)).teWriteAll (areaWrites t (wrk + 2 ^ n) ab.2)

theorem State.teRead_areaWrites (t : Nat) {base : Nat} {xs : List Pair} (h : base + xs.length ≤ 65536) {k : Nat}
    (hk : k < xs.length) : (s.teWriteAll (areaWrites t base xs)).teRead (teKey t 1 (base + k)) =
      wordOf (xs.getD k (0, 0)) := by
  rw [areaWrites_eq, s.teRead_teWriteAll_run t 1 h (List.length_map _) hk, List.getElem_map,
    List.getD_eq_getElem _ _ hk]

theorem State.teRead_workArea (t : Nat) {wrk n : Nat} {x : List Pair × List Pair × Nat}
    (hfit : wrk + 2 * 2 ^ n ≤ 65536) (hx : x.1.length = 2 ^ n ∧ x.2.1.length = 2 ^ n) {k : Nat} (hk : k < 2 ^ n) :
    (s.workArea t wrk n x).teRead (teKey t 1 (wrk + (if n % 2 = 1 then 0 else 2 ^ n) + k)) =
      wordOf (x.1.getD k (0, 0)) := by
  obtain ⟨hres, hprev⟩ := hx
  unfold State.workArea
  by_cases hn : n % 2 = 1
  · simp only [if_pos hn, Nat.add_zero]
    rw [State.teRead_teWriteAll_other _ (areaWrites_ne (by omega) (by omega))]
    exact s.teRead_areaWrites _ (by omega) (by omega)
  · simp only [if_neg hn]
    exact State.teRead_areaWrites _ _ (by omega) (by omega)

/-! ## What the end of a command leaves (R120, R357) -/

theorem State.te_of_besides {s t : State} (h : t.besides .shared = s.besides .shared) : t.mem.te = s.mem.te :=
  Owner.eq_of_hide (u := .transform) (o := .shared) (empty := []) (congrArg (·.mem.te) h) nofun

theorem State.radio_of_besides {s t : State} (h : t.besides .shared = s.besides .shared) : t.radio = s.radio :=
  Owner.eq_of_hide (u := .transform) (o := .shared) (empty := {}) (congrArg (·.radio) h) nofun

section
variable (c : Cmd) (i : Issue) (port finish : Nat) (outs : List (Nat × Nat))

theorem State.track_signals : (s.track c i port finish outs).signals = s.signals := by
  unfold State.track
  extract_lets e u
  cases i.ctx with
  | none => rfl
  | some k =>
    dsimp only
    split
    · rfl
    split <;> exact State.onHandIn_signals ..

theorem State.track_mem : (s.track c i port finish outs).mem = s.mem := by
  unfold State.track
  extract_lets e u
  cases i.ctx with
  | none => rfl
  | some k =>
    dsimp only
    split
    · rfl
    split <;> exact State.onHandIn_mem ..

end

theorem State.mem_signalAt {buf : Nat} (h : buf ≠ 0xFFF) (ctx : Option Nat) (region due : Nat) :
    ⟨due, region, buf, ctx⟩ ∈ (s.signalAt ctx region buf due).signals := by
  unfold State.signalAt
  rw [if_neg h]
  exact List.mem_cons_self

theorem State.signalAt_mem (ctx : Option Nat) (region buf due : Nat) :
    (s.signalAt ctx region buf due).mem = s.mem := by
  unfold State.signalAt
  split <;> rfl

theorem State.teBusy_signals (t finish cycles : Nat) : (s.teBusy t finish cycles).signals = s.signals := by
  unfold State.teBusy State.later
  split <;> rfl

theorem State.teBusy_mem (t finish cycles : Nat) : (s.teBusy t finish cycles).mem = s.mem := s.later_mem ..

/-- When an output of a transform engine is complete in its region: across the spine where that is another (R41). -/
def teDoneAt (r finish : Nat) : Nat := if r = 8 then finish else deliveredAt finish (hopsFrom 8 r)

section
variable (c : Cmd) (i : Issue) (r buf : Nat) (beside : Beside) (be : Option Nat) (cause finish : Nat)

/-- Its last three steps: the completion is signalled, the busy cycles are counted, and the command is under way. -/
theorem State.teEnd_eq : ∃ u : State, SMap.read {} u.mem.beside (r * 4096 + buf) = beside ∧
    s.teEnd c i r buf beside be cause finish =
      ((u.signalAt none r buf (teDoneAt r finish)).teBusy c.unit finish (finish - i.t)).track c i 0 finish
        [(r, buf)] := by
  unfold State.teEnd
  extract_lets s1 s2 s3 s4 s5
  refine ⟨s4, ?_, rfl⟩
  have h3 : SMap.read {} s3.mem.beside (r * 4096 + buf) = beside := SMap.read_write_same
  unfold s4
  split
  · exact h3
  · rw [State.voidBuf_mem]
    exact h3

theorem State.teEnd_newest : (s.teEnd c i r buf beside be cause finish).newest c 0 finish := by
  obtain ⟨u, -, h⟩ := s.teEnd_eq c i r buf beside be cause finish
  rw [h]
  exact State.track_newest ..

theorem State.teEnd_signals (hbuf : buf ≠ 0xFFF) :
    ⟨teDoneAt r finish, r, buf, none⟩ ∈ (s.teEnd c i r buf beside be cause finish).signals := by
  obtain ⟨u, -, h⟩ := s.teEnd_eq c i r buf beside be cause finish
  rw [h, State.track_signals, State.teBusy_signals]
  exact u.mem_signalAt hbuf ..

theorem State.teEnd_beside :
    SMap.read {} (s.teEnd c i r buf beside be cause finish).mem.beside (r * 4096 + buf) = beside := by
  obtain ⟨u, hu, h⟩ := s.teEnd_eq c i r buf beside be cause finish
  rw [h, State.track_mem, State.teBusy_mem, State.signalAt_mem, hu]

theorem State.teNothing_newest : (s.teNothing c i r buf).newest c 0 (i.t + 1) := State.track_newest ..

end

/-- A command with an output is under way to its end, with DONE of the buffer that it names. -/
structure State.Ends (t : State) (c : Cmd) (r finish : Nat) : Prop where
  newest : t.newest c 0 finish
  done : bitsOf c.w.w7 0 12 ≠ 0xFFF → ⟨teDoneAt r finish, r, bitsOf c.w.w7 0 12, none⟩ ∈ t.signals

theorem State.teEnd_ends (c : Cmd) (i : Issue) (r : Nat) (beside : Beside) (be : Option Nat) (cause finish : Nat) :
    (s.teEnd c i r (bitsOf c.w.w7 0 12) beside be cause finish).Ends c r finish :=
  ⟨s.teEnd_newest .., fun h => s.teEnd_signals _ _ _ _ _ _ _ _ h⟩

section
variable (c : Cmd) (i : Issue) (src : Source) (bs : List Byte) (beside : Beside) (be : Option Nat) (finish : Nat)

theorem State.teDeliver_ends : (s.teDeliver c i src bs beside be finish).Ends c (bitsOf c.w.w6 25 3) finish :=
  State.teEnd_ends ..

theorem State.teDeliver_beside : SMap.read {} (s.teDeliver c i src bs beside be finish).mem.beside
    (bitsOf c.w.w6 25 3 * 4096 + bitsOf c.w.w7 0 12) = beside := State.teEnd_beside ..

end

theorem State.length_flags_stageOut (c : Cmd) (vs : List (FVal × FVal)) (t finish : Nat) :
    (s.stageOut c vs t finish).2.1.flags.length = 1 := rfl

end

/-! ## Samples taken, fetched and put into a ring -/

/-- A transform takes as many samples as it has points. -/
theorem State.length_vals_sourceKeys (s : State) (c : Cmd) (n : Nat) :
    (s.teTake c.unit (s.sourceKeys c n)).1.vals.length = n := by
  have hkeys : (s.sourceKeys c n).length = n := by
    unfold State.sourceKeys
    split <;> exact (List.length_map _).trans List.length_range
  exact (List.length_map _).trans hkeys

theorem State.teRead_ringWrite (s : State) (t : Nat) (ch : RadioChan) (n j : Nat) (xs : List Pair) (cause k : Nat) :
    (s.ringWrite t ch n j xs cause).teRead (teKey t 1 k) = s.teRead (teKey t 1 k) := by
  unfold State.ringWrite
  extract_lets ks u
  refine (State.teRead_of_te (u.te_markGranules _ cause) _).trans (s.teRead_teWriteAll_other fun e he h => ?_)
  obtain ⟨i, -, hk⟩ := List.mem_map.mp (List.of_mem_zip he).1
  rw [← hk] at h
  unfold teKey at h
  omega

/-- A list cut into pieces has the list from `n * j` as its piece `j`. -/
theorem getElem_chunks {α : Type} {n k : Nat} {xs : List α} {j : Nat} (hj : j < (chunks n k xs).length) :
    (chunks n k xs)[j] = (xs.drop (n * j)).take n := by
  induction k generalizing xs j with
  | zero => exact absurd hj (Nat.not_lt_zero _)
  | succ k ih =>
    cases xs with
    | nil => exact absurd hj (Nat.not_lt_zero _)
    | cons x xs =>
      cases j with
      | zero => rfl
      | succ j =>
        have hj' : j < (chunks n k ((x :: xs).drop n)).length := Nat.lt_of_succ_lt_succ hj
        calc _ = (((x :: xs).drop n).drop (n * j)).take n := ih hj'
          _ = _ := by rw [List.drop_drop, Nat.mul_succ, Nat.add_comm]

theorem State.length_bytes_readPad (s : State) (u : Unit_) (r a n : Nat) : (s.readPad u r a n).1.bytes.length = n := by
  simp [State.readPad, State.padPlaces]

/-- A symbol is the last `cp` points and then all of them. -/
theorem length_symbol {α : Type} {xs : List α} {cp n : Nat} (h : xs.length = n) (hcp : cp ≤ n) :
    (xs.drop (n - cp) ++ xs).length = cp + n := by
  rw [List.length_append, List.length_drop, h]
  omega

/-! ## The ends of the commands (R357) -/

/-- The cycles of the passes of a transform. -/
def Cmd.passCycles (c : Cmd) : Nat := (bitsOf c.w.w2 0 4 + 1) * (2 ^ bitsOf c.w.w2 0 4 / 16 + 24)

def Cmd.fftEnd (c : Cmd) (t : Nat) : Nat := t + c.passCycles + 16

def Cmd.ifftEnd (c : Cmd) (t : Nat) : Nat := t + c.passCycles + (bitsOf c.w.w3 16 12 + 7) / 8 + 16

def Cmd.firEnd (c : Cmd) (t : Nat) : Nat := t + (bitsOf c.w.w4 0 16 * (8 * bitsOf c.w.w3 16 8) + 7) / 8 + 40

def Cmd.fetchEnd (c : Cmd) (t : Nat) : Nat :=
  if bitsOf c.w.w4 0 16 = 0 then t + 1
  else deliveredAt (t + (bitsOf c.w.w4 0 16 + 15) / 16) (hopsFrom (bitsOf c.w.w2 25 3) 8)

/-- The points that an IFFT transforms: its bins in their places, and zeros (R352). -/
def Cmd.ifftPoints (c : Cmd) (vals : List Pair) : List Pair :=
  let n := bitsOf c.w.w2 0 4
  (List.range (2 ^ n)).map fun p =>
    let k := (p + 2 ^ n - bitsOf c.w.w4 0 13 % 2 ^ n) % 2 ^ n
    if k < bitsOf c.w.w4 16 14 then vals.getD k (0, 0) else (0, 0)

theorem Cmd.length_ifftPoints (c : Cmd) (vals : List Pair) : (c.ifftPoints vals).length = 2 ^ bitsOf c.w.w2 0 4 :=
  (List.length_map _).trans List.length_range

/-! ## FFT (R352, R355) -/

section
variable {s : State} {c : Cmd} {i : Issue} {s1 : State} (hi : s.issueTe c = (i, s1)) (hgo : i.go = true)
include hi hgo

theorem State.fft_of_no_bins (h : bitsOf c.w.w4 16 14 = 0) :
    s.fft c = s1.teNothing c i (bitsOf c.w.w6 25 3) (bitsOf c.w.w7 0 12) := by
  unfold State.fft
  rw [hi]
  dsimp only
  rw [if_neg (by simp [hgo]), if_pos h]

/-- What an FFT with bins delivers, from a state whose sample memories hold the points of its transform. -/
theorem State.fft_of_bins (h : bitsOf c.w.w4 16 14 ≠ 0) :
    let n := bitsOf c.w.w2 0 4
    let x := s1.teTake c.unit (s1.sourceKeys c (2 ^ n))
    ∃ (u : State) (bs : List Byte) (beside : Beside) (be : Option Nat),
      u.mem.te = (x.2.workArea c.unit (bitsOf c.w.w3 0 16) n (transform false n x.1.vals)).mem.te ∧
      beside.flags.length = 1 ∧ s.fft c = u.teDeliver c i x.1 bs beside be (c.fftEnd i.t) := by
  unfold State.fft
  rw [hi]
  extract_lets n x
  dsimp only
  rw [if_neg (by simp [hgo]), if_neg h]
  generalize transform false n x.1.vals = y
  obtain ⟨res, prev, be⟩ := y
  dsimp only
  refine ⟨_, _, _, _, ?_, ?_, rfl⟩
  · exact State.te_of_besides ((State.trailer_besides ..).trans (State.stageOut_besides ..))
  · exact State.length_flags_stageOut ..

theorem State.fft_newest : (s.fft c).newest c 0 (if bitsOf c.w.w4 16 14 = 0 then i.t + 1 else c.fftEnd i.t) := by
  split
  next h =>
    rw [State.fft_of_no_bins hi hgo h]
    exact s1.teNothing_newest ..
  next h =>
    obtain ⟨u, _, _, _, -, -, heq⟩ := State.fft_of_bins hi hgo h
    rw [heq]
    exact (u.teDeliver_ends ..).newest

/-! ## FIR (R351, R355) -/

theorem State.fir_of_no_outputs (h : bitsOf c.w.w4 0 16 = 0) :
    s.fir c = s1.teNothing c i (bitsOf c.w.w6 25 3) (bitsOf c.w.w7 0 12) := by
  unfold State.fir
  rw [hi]
  dsimp only
  rw [if_neg (by simp [hgo]), if_pos h]

theorem State.fir_of_outputs (h : bitsOf c.w.w4 0 16 ≠ 0) :
    ∃ (u : State) (src : Source) (bs : List Byte) (beside : Beside), beside.flags.length = 1 ∧
      s.fir c = u.teDeliver c i src bs beside none (c.firEnd i.t) := by
  unfold State.fir
  rw [hi]
  dsimp only
  rw [if_neg (by simp [hgo]), if_neg h]
  refine ⟨_, _, _, _, ?_, rfl⟩
  exact State.length_flags_stageOut ..

theorem State.fir_newest : (s.fir c).newest c 0 (if bitsOf c.w.w4 0 16 = 0 then i.t + 1 else c.firEnd i.t) := by
  split
  next h =>
    rw [State.fir_of_no_outputs hi hgo h]
    exact s1.teNothing_newest ..
  next h =>
    obtain ⟨u, _, _, _, -, heq⟩ := State.fir_of_outputs hi hgo h
    rw [heq]
    exact (u.teDeliver_ends ..).newest

/-! ## IFFT (R352, R355) -/

theorem State.ifft_of_no_bins (h : bitsOf c.w.w4 16 14 = 0) :
    s.ifft c = s1.teNothing c i 8 (bitsOf c.w.w7 0 12) := by
  unfold State.ifft
  rw [hi]
  dsimp only
  rw [if_neg (by simp [hgo]), if_pos h]

/-- What an IFFT with bins ends with: the points of its transform in the sample memories, and its symbol at the head of
the channel's spans. -/
theorem State.ifft_of_bins (hsize : bitsOf c.w.w3 16 12 ≤ 2 ^ bitsOf c.w.w2 0 4) (h : bitsOf c.w.w4 16 14 ≠ 0) :
    let n := bitsOf c.w.w2 0 4
    let x := s1.teTake c.unit (s1.sourceKeys c (bitsOf c.w.w4 16 14))
    let xs := c.ifftPoints x.1.vals
    ∃ (u : State) (beside : Beside) (be : Option Nat) (cause : Nat),
      (∀ k, u.teRead (teKey c.unit 1 k) =
        (x.2.workArea c.unit (bitsOf c.w.w3 0 16) n (transform true n xs)).teRead (teKey c.unit 1 k)) ∧
      (∃ y ys, SMap.read [] u.radio.spans (bitsOf c.w.w2 5 6) = y :: ys ∧ y.finish = c.ifftEnd i.t ∧
        y.buf = bitsOf c.w.w7 0 12 ∧ y.count = bitsOf c.w.w3 16 12 + 2 ^ n) ∧
      s.ifft c = u.teEnd c i 8 (bitsOf c.w.w7 0 12) beside be cause (c.ifftEnd i.t) := by
  unfold State.ifft
  rw [hi]
  extract_lets n x xs
  dsimp only
  rw [if_neg (by simp [hgo]), if_neg h]
  have hxs : ((List.range (2 ^ n)).map fun p =>
      if (p + 2 ^ n - bitsOf c.w.w4 0 13 % 2 ^ n) % 2 ^ n < bitsOf c.w.w4 16 14 then
        x.1.vals.toArray.getD ((p + 2 ^ n - bitsOf c.w.w4 0 13 % 2 ^ n) % 2 ^ n) (0, 0) else (0, 0)) = xs := by
    simp [xs, Cmd.ifftPoints, n]
  have hres : (transform true n xs).1.length = 2 ^ n := (length_transform true (c.length_ifftPoints _)).1
  rw [hxs]
  generalize transform true n xs = y at hres ⊢
  obtain ⟨res, prev, be⟩ := y
  dsimp only at hres ⊢
  refine ⟨_, _, _, _, ?_, ?_, rfl⟩
  · intro k
    exact (State.teRead_ringWrite ..).trans (State.teRead_of_te (State.te_of_besides (State.teChecks_besides ..)) _)
  · refine ⟨_, _, SMap.read_write_same.trans List.take_succ_cons, rfl, rfl, ?_⟩
    exact length_symbol (by rw [List.length_map, List.length_map, hres]) hsize

theorem State.ifft_newest (hsize : bitsOf c.w.w3 16 12 ≤ 2 ^ bitsOf c.w.w2 0 4) :
    (s.ifft c).newest c 0 (if bitsOf c.w.w4 16 14 = 0 then i.t + 1 else c.ifftEnd i.t) := by
  split
  next h =>
    rw [State.ifft_of_no_bins hi hgo h]
    exact s1.teNothing_newest ..
  next h =>
    obtain ⟨u, _, _, _, -, -, heq⟩ := State.ifft_of_bins hi hgo hsize h
    rw [heq]
    exact (u.teEnd_ends ..).newest

/-! ## FETCH (R351, R357) -/

/-- The samples that a FETCH reads lie in the engine's memory, and it is under way to its end. -/
theorem State.fetch_eq :
    let m := bitsOf c.w.w4 0 16
    let k := s1.readPad ⟨8, 0x10, c.unit⟩ (bitsOf c.w.w2 25 3) (bitsOf c.w.w2 0 25) (4 * m)
    ∃ u : State, u.mem.te = (k.2.teWriteAll ((teRun c.unit (bitsOf c.w.w3 16 1) (bitsOf c.w.w3 0 16) m).zip
        ((chunks 4 m k.1.bytes).map fun b => BitVec.ofNat 32 (leNat b)))).mem.te ∧
      s.fetch c = u.track c i 0 (c.fetchEnd i.t) [] := by
  unfold State.fetch
  rw [hi]
  extract_lets m k
  dsimp only
  rw [if_neg (by simp [hgo])]
  refine ⟨_, ?_, rfl⟩
  split
  · exact State.te_markGranules ..
  · exact (State.te_of_besides (State.teBusy_besides ..)).trans (State.te_markGranules ..)

theorem State.fetch_newest : (s.fetch c).newest c 0 (c.fetchEnd i.t) := by
  obtain ⟨u, -, h⟩ := State.fetch_eq hi hgo
  rw [h]
  exact u.track_newest ..

theorem State.teRead_fetch (hfit : bitsOf c.w.w3 0 16 + bitsOf c.w.w4 0 16 ≤ 65536) {j : Nat}
    (hj : j < bitsOf c.w.w4 0 16) :
    (s.fetch c).teRead (teKey c.unit (bitsOf c.w.w3 16 1) (bitsOf c.w.w3 0 16 + j)) =
      BitVec.ofNat 32 (leNat (((s1.readPad ⟨8, 0x10, c.unit⟩ (bitsOf c.w.w2 25 3) (bitsOf c.w.w2 0 25)
        (4 * bitsOf c.w.w4 0 16)).1.bytes.drop (4 * j)).take 4)) := by
  obtain ⟨u, hu, h⟩ := State.fetch_eq hi hgo
  have hlen := length_chunks (n := 4) (by decide) ((s1.length_bytes_readPad ⟨8, 0x10, c.unit⟩ (bitsOf c.w.w2 25 3)
    (bitsOf c.w.w2 0 25) (4 * bitsOf c.w.w4 0 16)).trans (Nat.mul_comm ..))
  have hte := (congrArg Memories.te (u.track_mem c i 0 (c.fetchEnd i.t) [])).trans hu
  rw [h, State.teRead_of_te hte, State.teRead_teWriteAll_run _ _ _ hfit ((List.length_map _).trans hlen) hj,
    List.getElem_map, getElem_chunks]

end

/-! ## The commands as they are executed -/

section
variable {s : State} {c : Cmd}

theorem exec_fft (h : c.wfFft = true) : exec (.fft c) s = .next (s.fft c) := admitted_of h _

theorem exec_ifft (h : c.wfIfft = true) : exec (.ifft c) s = .next (s.ifft c) := admitted_of h _

theorem exec_fir (h : c.wfFir = true) : exec (.fir c) s = .next (s.fir c) := admitted_of h _

theorem exec_fetch (h : c.wfFetch = true) : exec (.fetch c) s = .next (s.fetch c) := admitted_of h _

theorem Cmd.transformOk_fits {n : Nat} (h : c.transformOk n = true) :
    bitsOf c.w.w3 0 16 + 2 * 2 ^ bitsOf c.w.w2 0 4 ≤ 65536 := by
  unfold Cmd.transformOk at h
  simp only [Bool.and_eq_true, decide_eq_true_eq] at h
  obtain ⟨⟨⟨-, hfit⟩, -⟩, -⟩ := h
  exact hfit

theorem Cmd.fits_of_wfFft (h : c.wfFft = true) : bitsOf c.w.w3 0 16 + 2 * 2 ^ bitsOf c.w.w2 0 4 ≤ 65536 := by
  unfold Cmd.wfFft at h
  simp only [Bool.and_eq_true] at h
  obtain ⟨⟨-, h⟩, -⟩ := h
  exact Cmd.transformOk_fits h

theorem Cmd.fits_of_wfIfft (h : c.wfIfft = true) : bitsOf c.w.w3 0 16 + 2 * 2 ^ bitsOf c.w.w2 0 4 ≤ 65536 ∧
    bitsOf c.w.w3 16 12 ≤ 2 ^ bitsOf c.w.w2 0 4 := by
  unfold Cmd.wfIfft at h
  simp only [Bool.and_eq_true, decide_eq_true_eq] at h
  obtain ⟨⟨⟨-, h⟩, -⟩, hsize⟩ := h
  exact ⟨Cmd.transformOk_fits h, hsize⟩

theorem Cmd.fits_of_wfFetch (h : c.wfFetch = true) : bitsOf c.w.w3 0 16 + bitsOf c.w.w4 0 16 ≤ 65536 := by
  unfold Cmd.wfFetch at h
  simp only [Bool.and_eq_true, decide_eq_true_eq] at h
  obtain ⟨⟨-, hfit⟩, -⟩ := h
  exact hfit

end

/-- Settles O16: for each command what it does with nothing to do and with an output (`State.fft_of_bins`,
`State.ifft_of_bins`, `State.fir_of_outputs`), where its last steps leave it under way, with DONE (`State.Ends`). -/
theorem transformEnginesTakeTheirTime : Obligations.TransformEnginesTakeTheirTime := by
  unfold Obligations.TransformEnginesTakeTheirTime
  intro s c x n body nbin area r buf done hgoes
  have hgo : x.1.go = true := (s.issueTe_goes c).trans hgoes
  have hi : s.issueTe c = (x.1, x.2) := rfl
  refine ⟨fun hwf => ?_, fun hwf => ?_, fun hwf => ?_, fun hwf => ?_⟩
  · intro e vals
    have hnew := State.fft_newest hi hgo
    refine ⟨_, exec_fft hwf, hnew.1, hnew.2, fun hbin => ?_⟩
    obtain ⟨u, bs, beside, be, hte, hflags, heq⟩ := State.fft_of_bins hi hgo hbin
    rw [heq]
    refine ⟨(u.teDeliver_ends ..).done, by rw [State.teDeliver_beside, hflags], fun k hk => ?_⟩
    rw [State.teRead_of_te ((State.te_of_besides (u.teDeliver_besides ..)).trans hte)]
    exact State.teRead_workArea _ _ (Cmd.fits_of_wfFft hwf) (length_transform _ (State.length_vals_sourceKeys ..)) hk
  · intro e bins xs
    obtain ⟨hfit, hsize⟩ := Cmd.fits_of_wfIfft hwf
    have hnew := State.ifft_newest hi hgo hsize
    refine ⟨_, exec_ifft hwf, hnew.1, hnew.2, fun hbin => ?_⟩
    obtain ⟨u, beside, be, cause, hte, hspan, heq⟩ := State.ifft_of_bins hi hgo hsize hbin
    rw [heq]
    refine ⟨(u.teEnd_ends ..).done, fun k hk => ?_, State.radio_of_besides (u.teEnd_besides ..) ▸ hspan⟩
    rw [State.teRead_of_te (State.te_of_besides (u.teEnd_besides ..)), hte]
    exact State.teRead_workArea _ _ hfit (length_transform _ (c.length_ifftPoints bins)) hk
  · intro e
    have hnew := State.fir_newest hi hgo
    refine ⟨_, exec_fir hwf, hnew.1, hnew.2, fun hout => ?_⟩
    obtain ⟨u, src, bs, beside, hflags, heq⟩ := State.fir_of_outputs hi hgo hout
    rw [heq]
    exact ⟨(u.teDeliver_ends ..).done, by rw [State.teDeliver_beside, hflags]⟩
  · intro m bs
    have hnew := State.fetch_newest hi hgo
    exact ⟨_, exec_fetch hwf, hnew.1, hnew.2, fun j hj => State.teRead_fetch hi hgo (Cmd.fits_of_wfFetch hwf) hj⟩

end Sys2Proof.Machine
end

section
/-! SUPPORT. What the abort of jobs leaves of the registers, and what the closing of tensors and the filling of the
standby leave of the state (R215, R386, R394). -/

namespace Sys2Proof.Machine

open Sys2Proof

section
variable (s : State)

/-! ## Registers -/

theorem State.reg_of_regs {s t : State} (h : t.regs = s.regs) (k : Nat) : t.reg k = s.reg k :=
  congrArg (fun m => SMap.read 0 m k) h

theorem State.reg_bump_other {k j : Nat} (lo n v : Nat) (h : j ≠ k) : (s.bump k lo n v).reg j = s.reg j :=
  (s.reg_bump ..).trans (if_neg h)

theorem State.reg_setBit_other {k j : Nat} (i : Nat) (b : Bool) (h : j ≠ k) : (s.setBit k i b).reg j = s.reg j :=
  (s.reg_setBit ..).trans (if_neg h)

theorem State.reg_setReg_other {k j : Nat} (w : Word) (h : j ≠ k) : (s.setReg k w).reg j = s.reg j :=
  (s.reg_setReg ..).trans (if_neg h)

theorem State.reg_setFld_other {k j : Nat} (lo n v : Nat) (h : j ≠ k) : (s.setFld k lo n v).reg j = s.reg j :=
  (s.reg_setFld ..).trans (if_neg h)

/-- The registers that the abort of jobs may write: the counts of the clients, and TST.DROP (R319, R397). -/
abbrev abortSpares (k : Nat) : Prop := k < 2 ^ 32 ∧ k ≠ Reg.TST_DROP

theorem State.reg_dropTaster (js : List Job) {k : Nat} (hk : abortSpares k) : (s.dropTaster js).reg k = s.reg k :=
  (foldl_keeps (fun t : State => t.reg k) (fun t j => State.reg_of_regs (t.onHandIn_regs j _) k) js _).trans
    (s.reg_bump_other _ _ _ hk.2)

theorem State.reg_abortJobs (c : Nat) (p : Job → Bool) {k : Nat} (hk : abortSpares k) :
    (s.abortJobs c p).reg k = s.reg k := by
  have hwithdraw (t : State) : (t.withdrawCtx c).reg k = t.reg k := State.reg_of_regs (t.withdrawCtx_regs c) k
  unfold State.abortJobs
  extract_lets x n
  split
  · rfl
  next head u rest v _ =>
  have hv : v.reg k = s.reg k :=
    (State.reg_dropTaster _ _ hk).trans (s.reg_bump_other _ _ _ (winKey_ne hk.1).symm)
  rw [apply_ite (fun t : State => t.reg k), hwithdraw, ite_self, hv]

theorem State.reg_abortWhere (q : Ctx → Bool) (p : Job → Bool) {k : Nat} (hk : abortSpares k) :
    (s.abortWhere q p).reg k = s.reg k :=
  foldl_keeps (fun t : State => t.reg k) (fun t c => by
    rw [apply_ite (fun t : State => t.reg k), t.reg_abortJobs c p hk, ite_self]) _ s

/-! ## Tensors of the weight plan -/

/-- The tensor of an entry of the weight plan, closed in its Crucible. -/
def State.closeTensor (s : State) (w : WeightTensor) : State :=
  let x := s.crucible w.region
  s.setCrucible w.region (x.setTensor w.tensor { x.tensor w.tensor with isOpen := false })

theorem State.closeTensors_eq_foldl : s.closeTensors = s.plan.weights.tensors.foldl State.closeTensor s := rfl

/-- The closing of tensors writes nothing but Crucibles. -/
theorem State.closeTensors_form : s.closeTensors = { s with crucibles := s.closeTensors.crucibles } := by
  rw [State.closeTensors_eq_foldl]
  generalize s.plan.weights.tensors = ws
  induction ws generalizing s with
  | nil => rfl
  | cons w ws ih => exact ih (s.closeTensor w)

theorem State.closeTensors_regs : s.closeTensors.regs = s.regs := by rw [State.closeTensors_form]
theorem State.closeTensors_mem : s.closeTensors.mem = s.mem := by rw [State.closeTensors_form]
theorem State.closeTensors_train : s.closeTensors.train = s.train := by rw [State.closeTensors_form]
theorem State.closeTensors_els : s.closeTensors.els = s.els := by rw [State.closeTensors_form]
theorem State.closeTensors_pending : s.closeTensors.pending = s.pending := by rw [State.closeTensors_form]

theorem State.isOpen_closeTensor (w : WeightTensor) (r n : Nat) :
    (((s.closeTensor w).crucible r).tensor n).isOpen =
      if r = w.region ∧ n = w.tensor then false else ((s.crucible r).tensor n).isOpen := by
  by_cases hr : r = w.region
  · subst hr
    unfold State.closeTensor
    rw [State.crucible_setCrucible]
    unfold Crucible.setTensor Crucible.tensor
    dsimp only
    rw [SMap.read_write]
    by_cases hn : n = w.tensor
    · rw [if_pos hn, if_pos ⟨rfl, hn⟩]
    · rw [if_neg hn, if_neg (fun h => hn h.2)]
  · have h : (s.closeTensor w).crucible r = s.crucible r := SMap.read_write_other hr
    rw [if_neg (fun h => hr h.1), h]

/-- A tensor that a list of entries names, or that is closed before, is closed after the list. -/
theorem State.isOpen_foldl_closeTensor {ws : List WeightTensor} {r n : Nat}
    (h : ((s.crucible r).tensor n).isOpen = false ∨ ∃ w ∈ ws, r = w.region ∧ n = w.tensor) :
    (((ws.foldl State.closeTensor s).crucible r).tensor n).isOpen = false := by
  induction ws generalizing s with
  | nil => exact h.resolve_right (by simp)
  | cons w ws ih =>
    refine ih (s.closeTensor w) ?_
    rw [s.isOpen_closeTensor]
    by_cases hw : r = w.region ∧ n = w.tensor
    · exact .inl (if_pos hw)
    · rw [if_neg hw]
      refine h.imp_right fun ⟨w', hmem, hw'⟩ => ⟨w', (List.mem_cons.mp hmem).resolve_left ?_, hw'⟩
      rintro rfl
      exact hw hw'

theorem State.isOpen_closeTensors {w : WeightTensor} (hw : w ∈ s.plan.weights.tensors) :
    ((s.closeTensors.crucible w.region).tensor w.tensor).isOpen = false := by
  rw [State.closeTensors_eq_foldl]
  exact s.isOpen_foldl_closeTensor (.inr ⟨w, hw, rfl, rfl⟩)

/-! ## The training step that is aborted (R394) -/

theorem State.reg_abortTraining (k : Nat) : s.abortTraining.reg k = s.reg k :=
  State.reg_of_regs (s.closeTensors_regs) k

theorem State.abortTraining_mem : s.abortTraining.mem = s.mem := s.closeTensors_mem

theorem State.abortTraining_due : s.abortTraining.train.due = s.train.due := rfl

/-! ## What a training step writes (R386, R394) -/

/-- The state with its memories and registers erased: what no update of a tensor writes. -/
def State.beyondStore (s : State) : State := { s with mem := {}, regs := [] }

theorem State.remark_beyondStore (g : Nat × Nat) : (s.remark g).beyondStore = s.beyondStore := by
  unfold State.remark State.setHallmark
  split <;> rfl

theorem State.hbmPut_beyondStore (a : Nat) (bs : List Byte) : (s.hbmPut a bs).beyondStore = s.beyondStore :=
  foldl_keeps State.beyondStore (fun t _ => t.remark_beyondStore _) _ _

theorem State.updateTensor_beyondStore (n : Nat) (w : WeightTensor) :
    (s.updateTensor n w).beyondStore = s.beyondStore := by
  unfold State.updateTensor
  extract_lets x y k count f n32 ms qs sat codes s1 s2 s3
  split
  · rfl
  · exact ((s2.hbmPut_beyondStore ..).trans (s1.hbmPut_beyondStore ..)).trans (s.hbmPut_beyondStore ..)

theorem State.updateTensors_beyondStore (n : Nat) (ws : List WeightTensor) :
    (ws.foldl (fun s w => s.updateTensor n w) s).beyondStore = s.beyondStore :=
  foldl_keeps State.beyondStore (fun t w => t.updateTensor_beyondStore n w) ws s

theorem State.train_of_beyondStore {s t : State} (h : t.beyondStore = s.beyondStore) : t.train = s.train :=
  congrArg (·.train) h
theorem State.els_of_beyondStore {s t : State} (h : t.beyondStore = s.beyondStore) : t.els = s.els :=
  congrArg (·.els) h
theorem State.pending_of_beyondStore {s t : State} (h : t.beyondStore = s.beyondStore) : t.pending = s.pending :=
  congrArg (·.pending) h
theorem State.plan_of_beyondStore {s t : State} (h : t.beyondStore = s.beyondStore) : t.plan = s.plan :=
  congrArg (·.plan) h

/-! ## The standby is filled (R386, R388) -/

theorem State.remark_bytes (g : Nat × Nat) :
    ((s.remark g).mem.hbm, (s.remark g).mem.pad, (s.remark g).regs) = (s.mem.hbm, s.mem.pad, s.regs) := by
  unfold State.remark State.setHallmark
  split <;> rfl

/-- Bytes put into HBM stand there, and no other byte, no byte of scratchpad and no register changes. -/
theorem State.hbmPut_bytes (a : Nat) (bs : List Byte) :
    ((s.hbmPut a bs).mem.hbm, (s.hbmPut a bs).mem.pad, (s.hbmPut a bs).regs) =
      (SMap.writeList 0 s.mem.hbm a bs, s.mem.pad, s.regs) :=
  foldl_keeps (fun t : State => (t.mem.hbm, t.mem.pad, t.regs)) (fun t _ => t.remark_bytes _) _ _

theorem State.fld_fillStandby (src k lo n : Nat) : (s.fillStandby src).fld k lo n = s.fld k lo n :=
  State.fld_of_regs (congrArg (·.2.2) (s.hbmPut_bytes ..)) k lo n

/-! ## WGT.STATE -/

theorem State.standby_setStandby {v : Nat} (hv : v < 8) : (s.setStandby v).standby = v :=
  s.fld_setFld_same Reg.WGT_STATE (by decide) hv

theorem State.activeCopy_setStandby (v : Nat) : (s.setStandby v).activeCopy = s.activeCopy := by
  unfold State.activeCopy State.setStandby
  rw [s.fld_setFld Reg.WGT_STATE 1 3 v Reg.WGT_STATE 0 1 (by decide) (by decide)]
  exact if_neg (by decide)

theorem State.activeCopy_le_one : s.activeCopy ≤ 1 := Nat.le_of_lt_succ (s.fld_lt Reg.WGT_STATE 0 1)

theorem State.standby_of_reg {s t : State} (h : t.reg Reg.WGT_STATE = s.reg Reg.WGT_STATE) : t.standby = s.standby :=
  congrArg (bitsOf · 1 3) h

theorem State.activeCopy_of_reg {s t : State} (h : t.reg Reg.WGT_STATE = s.reg Reg.WGT_STATE) :
    t.activeCopy = s.activeCopy :=
  congrArg (bitsOf · 0 1) h

end

end Sys2Proof.Machine
end

section
/-! PROOF of O29: promotion, revert, the copy of the base set and the seeding job (R386 to R388). -/

namespace Sys2Proof.Machine

open Sys2Proof

/-- The word of WGT.STATE with copy `a` active, an EMPTY standby and generation `g`. -/
theorem bitsOf_weightState {a g : Nat} (ha : a ≤ 1) (hg : g < 2 ^ 16) :
    let w : Word := BitVec.ofNat 32 (a + g * 2 ^ 16)
    bitsOf w 0 1 = a ∧ bitsOf w 1 3 = 0 ∧ bitsOf w 16 16 = g := by
  have hw : (BitVec.ofNat 32 (a + g * 2 ^ 16)).toNat = a + g * 2 ^ 16 := by
    rw [BitVec.toNat_ofNat]
    omega
  unfold bitsOf
  dsimp only
  rw [hw]
  omega

section
variable {s : State}

/-- The generation that a promotion gives: 0 for the base set that a revert has copied in (R386). -/
def State.nextGeneration (s : State) : Nat :=
  if s.train.reverted = true then 0 else (s.fld Reg.WGT_STATE 16 16 + 1) % 2 ^ 16

theorem State.nextGeneration_lt (s : State) : s.nextGeneration < 2 ^ 16 := by
  unfold State.nextGeneration
  split <;> omega

theorem State.abortStale_mem (s : State) : s.abortStale.mem = s.mem :=
  (State.bump_mem ..).trans (s.abortWhere_mem ..)

theorem State.reg_abortStale (s : State) {k : Nat} (hk : abortSpares k) (hs : k ≠ Reg.GRD_STALE) :
    s.abortStale.reg k = s.reg k :=
  (State.reg_bump_other _ _ _ _ hs).trans (s.reg_abortWhere _ _ hk)

/-- A PASSED standby becomes active (R387). -/
theorem State.promote_eq (h : s.standby = 3) :
    s.promote = ((s.setReg Reg.WGT_STATE (BitVec.ofNat 32 (1 - s.activeCopy + s.nextGeneration * 2 ^ 16))).bump
      Reg.WGT_CNT 0 16 1).abortStale.abortTraining := by
  unfold State.promote
  exact if_neg (by simp [h])

theorem State.promote_mem (h : s.standby = 3) : s.promote.mem = s.mem := by
  rw [State.promote_eq h, State.abortTraining_mem, State.abortStale_mem]
  rfl

theorem State.reg_promote (h : s.standby = 3) {k : Nat} (hk : abortSpares k) (hs : k ≠ Reg.GRD_STALE) :
    s.promote.reg k =
      ((s.setReg Reg.WGT_STATE (BitVec.ofNat 32 (1 - s.activeCopy + s.nextGeneration * 2 ^ 16))).bump
        Reg.WGT_CNT 0 16 1).reg k := by
  rw [State.promote_eq h, State.reg_abortTraining, State.reg_abortStale _ hk hs]

theorem State.reg_promote_state (h : s.standby = 3) : s.promote.reg Reg.WGT_STATE =
    BitVec.ofNat 32 (1 - s.activeCopy + s.nextGeneration * 2 ^ 16) := by
  rw [State.reg_promote h (by decide) (by decide), State.reg_bump_other _ _ _ _ (by decide)]
  exact State.reg_setReg_same ..

theorem State.count_promote (h : s.standby = 3) :
    s.promote.fld Reg.WGT_CNT 0 16 = min (s.fld Reg.WGT_CNT 0 16 + 1) 65535 := by
  unfold State.fld
  rw [State.reg_promote h (by decide) (by decide)]
  refine (State.fld_bump _ Reg.WGT_CNT 0 16 1 Reg.WGT_CNT 0 16 (by decide) (by decide)).trans ?_
  rw [if_pos ⟨rfl, rfl, rfl⟩, State.fld_setReg, if_neg (by decide)]
  rfl

theorem exec_promote (hd : s.faults.discard = false) (hreq : s.bit Reg.WGT_CTL 1 = true)
    (hrev : s.bit Reg.WGT_CTL 2 = false) (hheld : s.promotionHeld = false) :
    exec .promote s = .next (s.setBit Reg.WGT_CTL 1 false).promote := by
  refine (congrArg Host.Outcome.next (s.managed_of_not_discard hd)).trans ?_
  have hheld' : (s.setBit Reg.WGT_CTL 1 false).promotionHeld = false := hheld
  unfold State.promoteRow
  simp [hreq, hrev, hheld']

/-- A revert leaves the standby REVERTING (R388). -/
theorem State.reg_revert {k : Nat} (hk : abortSpares k) (hs : k ≠ Reg.WGT_STATE) : s.revert.reg k = s.reg k := by
  unfold State.revert
  rw [State.reg_abortTraining, State.setStandby, State.reg_setFld_other _ _ _ _ hs, State.reg_abortWhere _ _ _ hk]

theorem State.standby_revert : s.revert.standby = 4 := by
  unfold State.revert
  rw [State.standby_of_reg (State.reg_abortTraining ..)]
  exact State.standby_setStandby _ (by decide)

theorem State.activeCopy_revert : s.revert.activeCopy = s.activeCopy := by
  unfold State.revert
  rw [State.activeCopy_of_reg (State.reg_abortTraining ..), State.activeCopy_setStandby]
  exact State.activeCopy_of_reg (s.reg_abortWhere _ _ (by decide))

theorem State.revert_mem : s.revert.mem = s.mem := by
  unfold State.revert
  rw [State.abortTraining_mem, State.setStandby_mem, State.abortWhere_mem]

theorem exec_revert (hd : s.faults.discard = false) (hrev : s.bit Reg.WGT_CTL 2 = true) :
    exec .revert s = .next ((s.setBit Reg.WGT_CTL 2 false).setBit Reg.WGT_CTL 1 false).revert := by
  refine (congrArg Host.Outcome.next (s.managed_of_not_discard hd)).trans ?_
  unfold State.revertRow
  simp [hrev]

/-- The standby filled from `src` and put into state `v`: the bytes and the state of the two sets. -/
theorem State.fillStandby_setStandby (s : State) (src : Nat) {v : Nat} (hv : v < 8) :
    let t := (s.fillStandby src).setStandby v
    t.standby = v ∧ t.activeCopy = s.activeCopy ∧ t.mem.pad = s.mem.pad ∧
      t.mem.hbm = SMap.writeList 0 s.mem.hbm (ofCopy s.plan.weights.copies (1 - s.activeCopy))
        (SMap.readList 0 s.mem.hbm src s.plan.weights.len) := by
  have hput := s.hbmPut_bytes (ofCopy s.plan.weights.copies (1 - s.activeCopy))
    (SMap.readList 0 s.mem.hbm src s.plan.weights.len)
  refine ⟨State.standby_setStandby _ hv, ?_, congrArg (·.2.1) hput, congrArg (·.1) hput⟩
  rw [State.activeCopy_setStandby]
  exact s.fld_fillStandby src ..

end

/-- Settles O29: each row by the equation of its command and what its steps leave of WGT.STATE, WGT.CTL, WGT.CNT and
the memories. -/
theorem weightSetsChangeState : Obligations.WeightSetsChangeState := by
  unfold Obligations.WeightSetsChangeState
  intro s fill
  refine ⟨fun hd hreq hrev hheld hsb => ?_, fun hd hrev => ?_, fun hsb => ?_, fun hsb => ?_⟩
  · have hstate : (s.setBit Reg.WGT_CTL 1 false).reg Reg.WGT_STATE = s.reg Reg.WGT_STATE :=
      s.reg_setBit_other _ _ (by decide)
    have hsb' : (s.setBit Reg.WGT_CTL 1 false).standby = 3 := (State.standby_of_reg hstate).trans hsb
    have hreg := State.reg_promote_state hsb'
    obtain ⟨hact, hstd, hgen⟩ := bitsOf_weightState (Nat.sub_le 1 (s.setBit Reg.WGT_CTL 1 false).activeCopy)
      (s.setBit Reg.WGT_CTL 1 false).nextGeneration_lt
    rw [← hreg] at hact hstd hgen
    refine ⟨_, exec_promote hd hreq hrev hheld, hact.trans ?_, hstd, ?_, hgen.trans ?_, ?_, State.promote_mem hsb'⟩
    · rw [State.activeCopy_of_reg hstate]
    · unfold State.bit
      rw [State.reg_promote hsb' (by decide) (by decide), State.reg_bump_other _ _ _ _ (by decide),
        State.reg_setReg_other _ _ (by decide)]
      exact s.bit_setBit_same Reg.WGT_CTL false (by decide)
    · unfold State.nextGeneration State.fld
      rw [hstate]
      rfl
    · rw [State.count_promote hsb', State.fld_setBit _ _ _ _ _ _ _ (by decide) (.inl (by decide))]
  · have hctl (t : State) : t.revert.reg Reg.WGT_CTL = t.reg Reg.WGT_CTL := State.reg_revert (by decide) (by decide)
    refine ⟨_, exec_revert hd hrev, State.standby_revert, ?_, ?_, ?_, rfl, rfl, State.revert_mem⟩
    · rw [State.activeCopy_revert]
      exact State.activeCopy_of_reg ((State.reg_setBit_other _ _ _ (by decide)).trans
        (s.reg_setBit_other _ _ (by decide)))
    · exact (congrArg (bitOf · 1) (hctl _)).trans (State.bit_setBit_same _ _ _ (by decide))
    · refine (congrArg (bitOf · 2) (hctl _)).trans ((State.bit_setBit _ _ _ _ _ _ (by decide)).trans ?_)
      rw [if_neg (by decide)]
      exact s.bit_setBit_same Reg.WGT_CTL false (by decide)
  · obtain ⟨hstd, hact, hpad, hhbm⟩ := s.fillStandby_setStandby s.plan.weights.base (v := 3) (by decide)
    exact ⟨_, congrArg Host.Outcome.next (if_neg (by simp [hsb])), hstd, rfl, hhbm, hpad, hact⟩
  · obtain ⟨hstd, hact, hpad, hhbm⟩ :=
      s.fillStandby_setStandby (ofCopy s.plan.weights.copies s.activeCopy) (v := 1) (by decide)
    exact ⟨_, congrArg Host.Outcome.next (if_neg (by simp [hsb])), hstd, rfl, hhbm, hpad, hact⟩

end Sys2Proof.Machine
end

section
/-! PROOF of O30: training steps, and the decision at the end of an evaluation period (R386, R394, R396 to R398). -/

namespace Sys2Proof.Machine

open Sys2Proof

section
variable {s : State}

/-! ## The training step -/

/-- A training step that has gathered its kept sets closes the tensors of a state `u`, which differs from the one it
meets in the count of kept sets and, with the standby TRAINING, in the updates, the memories and the registers. -/
theorem State.trainingStep_eq (h : s.fld Reg.WGT_TRAIN 0 16 ≤ s.train.gathered) :
    ∃ u : State, s.trainingStep = u.closeTensors ∧ u.plan = s.plan ∧ u.els = s.els ∧ u.pending = s.pending ∧
      u.train.gathered = 0 ∧
      u.train.updates =
        (if s.standby = 1 ∧ s.train.gathered ≠ 0 then s.train.updates + 1 else s.train.updates) ∧
      (s.standby ≠ 1 → u.mem = s.mem ∧ u.regs = s.regs) := by
  unfold State.trainingStep
  extract_lets n ts train s0 s1 train1 s2
  refine ⟨s2, if_neg (Nat.not_lt.mpr h), ?_⟩
  have hb : s1.beyondStore = s0.beyondStore := s0.updateTensors_beyondStore n ts
  have htrain : s1.train = s0.train := State.train_of_beyondStore hb
  have hplan : s1.plan = s.plan := (State.plan_of_beyondStore hb).trans rfl
  have hels : s1.els = s.els := (State.els_of_beyondStore hb).trans rfl
  have hpending : s1.pending = s.pending := (State.pending_of_beyondStore hb).trans rfl
  have hstandby : s0.standby = s.standby := rfl
  unfold s2
  rw [hstandby]
  by_cases h1 : s.standby = 1
  · rw [if_pos h1]
    by_cases hn : n = 0
    · rw [if_pos hn, htrain, if_neg (fun hc => hc.2 hn)]
      exact ⟨hplan, hels, hpending, rfl, rfl, fun hne => absurd h1 hne⟩
    · rw [if_neg hn, if_pos ⟨h1, hn⟩]
      refine ⟨hplan, hels, hpending, ?_, ?_, fun hne => absurd h1 hne⟩
      · exact congrArg (·.gathered) htrain
      · exact congrArg (·.updates + 1) htrain
  · rw [if_neg h1, if_neg (fun hc => h1 hc.1)]
    exact ⟨rfl, rfl, rfl, rfl, rfl, fun _ => ⟨rfl, rfl⟩⟩

/-! ## The counts of a period -/

/-- The counts of an ended period, entered; its decision is no longer due (R398). -/
def State.enterCounts (s : State) (n a c k v : Nat) : State :=
  (((({ s with train := { s.train with due := none } }.setReg Reg.TST_N (BitVec.ofNat 32 n)).setReg
    Reg.TST_EACT (BitVec.ofNat 32 a)).setReg Reg.TST_ECAND (BitVec.ofNat 32 c)).setReg
    Reg.TST_ECLS (BitVec.ofNat 32 k)).bump Reg.TST_DROP 0 32 v

/-- The counts entered, and the active set's fall below the classical receiver raised (R398). -/
def State.weigh (s : State) (n a c k v : Nat) : State :=
  (s.enterCounts n a c k v).raiseIf
    (decide (k + s.fld Reg.TST_LIM 0 16 < a) && decide (s.fld Reg.TST_LIM 16 16 ≤ n)) 0x0701 .detected
    (blockLoc 13 0x38 0) a k

/-- The active set errs below the classical receiver, and a revert follows (R396, R398). -/
def State.tasterReverts (s : State) (n a k : Nat) : Prop :=
  k + s.fld Reg.TST_LIM 0 16 < a ∧ s.fld Reg.TST_LIM 16 16 ≤ n ∧ s.bit Reg.WGT_CTL 0 = true ∧ s.standby ≠ 4

/-- The rule by which a CANDIDATE passes (R398). -/
def State.candidatePasses (s : State) (n a c k : Nat) : Prop :=
  s.fld Reg.TST_LIM 16 16 ≤ n ∧ c ≤ a ∧ c ≤ k + s.fld Reg.TST_LIM 0 16

section
variable {n a c k v : Nat}

theorem State.reg_enterCounts {j : Nat}
    (hj : j ∉ [Reg.TST_N, Reg.TST_EACT, Reg.TST_ECAND, Reg.TST_ECLS, Reg.TST_DROP]) :
    (s.enterCounts n a c k v).reg j = s.reg j := by
  simp only [List.mem_cons, List.not_mem_nil, or_false, not_or] at hj
  obtain ⟨hn, ha, hc, hk, hv⟩ := hj
  unfold State.enterCounts
  rw [State.reg_bump_other _ _ _ _ hv, State.reg_setReg_other _ _ hk, State.reg_setReg_other _ _ hc,
    State.reg_setReg_other _ _ ha, State.reg_setReg_other _ _ hn]
  rfl

theorem State.enterCounts_counts :
    (s.enterCounts n a c k v).reg Reg.TST_N = BitVec.ofNat 32 n ∧
      (s.enterCounts n a c k v).reg Reg.TST_EACT = BitVec.ofNat 32 a ∧
      (s.enterCounts n a c k v).reg Reg.TST_ECAND = BitVec.ofNat 32 c ∧
      (s.enterCounts n a c k v).reg Reg.TST_ECLS = BitVec.ofNat 32 k := by
  unfold State.enterCounts
  simp only [State.reg_bump, State.reg_setReg]
  exact ⟨rfl, rfl, rfl, rfl⟩

theorem State.enterCounts_train : (s.enterCounts n a c k v).train = { s.train with due := none } := by
  unfold State.enterCounts
  simp only [State.bump_train, State.setReg_train]

theorem State.enterCounts_mem : (s.enterCounts n a c k v).mem = s.mem := by
  unfold State.enterCounts
  simp only [State.bump_mem, State.setReg_mem]

theorem State.reg_weigh {j : Nat} (hlost : j ≠ Reg.FLT_LOST) (hcnt : j ≠ Reg.FLT_CNTD) :
    (s.weigh n a c k v).reg j = (s.enterCounts n a c k v).reg j := by
  unfold State.weigh State.raiseIf
  split
  · exact State.reg_raise_detected _ _ _ _ _ hlost hcnt
  · rfl

/-- The state of the sets and of memory is the one before, and the counts of the period stand in their registers. -/
structure State.Weighed (s : State) (n a c k : Nat) (t : State) : Prop where
  due : t.train.due = none
  samples : t.reg Reg.TST_N = BitVec.ofNat 32 n
  active : t.reg Reg.TST_EACT = BitVec.ofNat 32 a
  candidate : t.reg Reg.TST_ECAND = BitVec.ofNat 32 c
  classical : t.reg Reg.TST_ECLS = BitVec.ofNat 32 k
  copy : t.activeCopy = s.activeCopy
  mem : t.mem = s.mem

theorem State.weigh_weighed : s.Weighed n a c k (s.weigh n a c k v) := by
  have hreg {j : Nat} (hlost : j ≠ Reg.FLT_LOST) (hcnt : j ≠ Reg.FLT_CNTD) :
      (s.weigh n a c k v).reg j = (s.enterCounts n a c k v).reg j := State.reg_weigh hlost hcnt
  obtain ⟨hn, ha, hc, hk⟩ := State.enterCounts_counts (s := s) (n := n) (a := a) (c := c) (k := k) (v := v)
  have hstate := (hreg (by decide) (by decide)).trans (State.reg_enterCounts (j := Reg.WGT_STATE) (by decide))
  refine ⟨?_, (hreg (by decide) (by decide)).trans hn, (hreg (by decide) (by decide)).trans ha,
    (hreg (by decide) (by decide)).trans hc, (hreg (by decide) (by decide)).trans hk, State.activeCopy_of_reg hstate,
    ?_⟩
  · unfold State.weigh
    rw [State.raiseIf_train, State.enterCounts_train]
  · unfold State.weigh
    rw [State.raiseIf_mem, State.enterCounts_mem]

theorem State.Weighed.of_reg {t u : State} (h : s.Weighed n a c k t) (hdue : u.train.due = t.train.due)
    (hreg : ∀ j ∈ [Reg.TST_N, Reg.TST_EACT, Reg.TST_ECAND, Reg.TST_ECLS], u.reg j = t.reg j)
    (hcopy : u.activeCopy = t.activeCopy) (hmem : u.mem = t.mem) : s.Weighed n a c k u where
  due := hdue.trans h.due
  samples := (hreg _ (by simp)).trans h.samples
  active := (hreg _ (by simp)).trans h.active
  candidate := (hreg _ (by simp)).trans h.candidate
  classical := (hreg _ (by simp)).trans h.classical
  copy := hcopy.trans h.copy
  mem := hmem.trans h.mem

theorem abortSpares_counts {j : Nat} (hj : j ∈ [Reg.TST_N, Reg.TST_EACT, Reg.TST_ECAND, Reg.TST_ECLS]) :
    abortSpares j ∧ j ≠ Reg.WGT_STATE ∧ j ≠ Reg.WGT_CNT := by
  simp only [List.mem_cons, List.not_mem_nil, or_false] at hj
  obtain rfl | rfl | rfl | rfl := hj <;> decide

theorem State.revert_due (t : State) : t.revert.train.due = t.train.due := by
  unfold State.revert
  rw [State.abortTraining_due, State.setStandby_train, State.abortWhere_train]

theorem State.Weighed.revert {t : State} (h : s.Weighed n a c k t) : s.Weighed n a c k t.revert :=
  h.of_reg t.revert_due (fun _ hj => by
    obtain ⟨hspares, hstate, -⟩ := abortSpares_counts hj
    exact State.reg_revert hspares hstate) State.activeCopy_revert State.revert_mem

theorem State.Weighed.setStandby {t : State} (h : s.Weighed n a c k t) (x : Nat) :
    s.Weighed n a c k (t.setStandby x) :=
  h.of_reg rfl (fun _ hj => by
    obtain ⟨-, hstate, -⟩ := abortSpares_counts hj
    exact t.reg_setFld_other _ _ _ hstate) (t.activeCopy_setStandby x) rfl

theorem State.Weighed.countDrop {t : State} (h : s.Weighed n a c k t) :
    s.Weighed n a c k (t.bump Reg.WGT_CNT 16 16 1) :=
  h.of_reg rfl (fun _ hj => by
    obtain ⟨-, -, hcnt⟩ := abortSpares_counts hj
    exact t.reg_bump_other _ _ _ hcnt) (State.activeCopy_of_reg (t.reg_bump_other _ _ _ (by decide))) rfl

theorem State.standby_weigh : (s.weigh n a c k v).standby = s.standby :=
  State.standby_of_reg ((State.reg_weigh (by decide) (by decide)).trans (State.reg_enterCounts (by decide)))

/-! ## The decision -/

section
variable {whole : Bool} (hdue : s.train.due = some whole)
include hdue

/-- The decision, from the state that the period's counts leave (R398). -/
theorem State.tasterDecision_eq : s.tasterDecision n a c k v =
    if decide (k + s.fld Reg.TST_LIM 0 16 < a) && decide (s.fld Reg.TST_LIM 16 16 ≤ n) && s.bit Reg.WGT_CTL 0 &&
        s.standby != 4 then (s.weigh n a c k v).revert
    else if !(whole && (s.weigh n a c k v).standby = 2) then s.weigh n a c k v
    else if decide (s.fld Reg.TST_LIM 16 16 ≤ n) && decide (c ≤ a) && decide (c ≤ k + s.fld Reg.TST_LIM 0 16) then
      (s.weigh n a c k v).setStandby 3
    else ((s.weigh n a c k v).setStandby 0).bump Reg.WGT_CNT 16 16 1 := by
  have hreg (j : Nat) (hj : j ∉ [Reg.TST_N, Reg.TST_EACT, Reg.TST_ECAND, Reg.TST_ECLS, Reg.TST_DROP]) :
      (s.enterCounts n a c k v).reg j = s.reg j := State.reg_enterCounts hj
  have hlim (lo m : Nat) : (s.enterCounts n a c k v).fld Reg.TST_LIM lo m = s.fld Reg.TST_LIM lo m :=
    congrArg (bitsOf · lo m) (hreg _ (by decide))
  have hauto : (s.enterCounts n a c k v).bit Reg.WGT_CTL 0 = s.bit Reg.WGT_CTL 0 :=
    congrArg (bitOf · 0) (hreg _ (by decide))
  have hsb : (s.enterCounts n a c k v).standby = s.standby := State.standby_of_reg (hreg _ (by decide))
  unfold State.weigh
  rw [← hlim, ← hlim, ← hauto, ← hsb]
  unfold State.tasterDecision
  rw [hdue]
  rfl

/-- Whatever the decision, the counts stand, and the active copy and the memories are as before. -/
theorem State.tasterDecision_weighed : s.Weighed n a c k (s.tasterDecision n a c k v) := by
  have hw : s.Weighed n a c k (s.weigh n a c k v) := State.weigh_weighed
  rw [State.tasterDecision_eq hdue]
  split
  · exact hw.revert
  split
  · exact hw
  split
  · exact hw.setStandby 3
  · exact (hw.setStandby 0).countDrop

theorem State.tasterDecision_of_reverts (h : s.tasterReverts n a k) :
    s.tasterDecision n a c k v = (s.weigh n a c k v).revert := by
  obtain ⟨hbelow, henough, hauto, hsb⟩ := h
  rw [State.tasterDecision_eq hdue]
  exact if_pos (by simp [hbelow, henough, hauto, hsb])

theorem State.tasterDecision_of_unjudged (h : ¬ s.tasterReverts n a k) (hj : ¬ (whole = true ∧ s.standby = 2)) :
    s.tasterDecision n a c k v = s.weigh n a c k v := by
  rw [State.tasterDecision_eq hdue, if_neg (by simpa [State.tasterReverts, and_assoc] using h)]
  exact if_pos (by simpa [State.standby_weigh, -not_and, not_and_or] using hj)

theorem State.tasterDecision_of_passes (h : ¬ s.tasterReverts n a k) (hw : whole = true) (hsb : s.standby = 2)
    (hp : s.candidatePasses n a c k) : s.tasterDecision n a c k v = (s.weigh n a c k v).setStandby 3 := by
  rw [State.tasterDecision_eq hdue, if_neg (by simpa [State.tasterReverts, and_assoc] using h),
    if_neg (by simp [hw, hsb, State.standby_weigh])]
  exact if_pos (by simpa [State.candidatePasses, and_assoc] using hp)

theorem State.tasterDecision_of_fails (h : ¬ s.tasterReverts n a k) (hw : whole = true) (hsb : s.standby = 2)
    (hp : ¬ s.candidatePasses n a c k) :
    s.tasterDecision n a c k v = ((s.weigh n a c k v).setStandby 0).bump Reg.WGT_CNT 16 16 1 := by
  rw [State.tasterDecision_eq hdue, if_neg (by simpa [State.tasterReverts, and_assoc] using h),
    if_neg (by simp [hw, hsb, State.standby_weigh])]
  exact if_neg (by simpa [State.candidatePasses, and_assoc] using hp)

end

/-- A CANDIDATE that fails leaves the standby EMPTY and is counted (R398). -/
theorem State.standby_drop (t : State) : ((t.setStandby 0).bump Reg.WGT_CNT 16 16 1).standby = 0 :=
  (State.standby_of_reg (State.reg_bump_other _ _ _ _ (by decide))).trans (t.standby_setStandby (by decide))

theorem State.count_drop : (((s.weigh n a c k v).setStandby 0).bump Reg.WGT_CNT 16 16 1).fld Reg.WGT_CNT 16 16 =
    min (s.fld Reg.WGT_CNT 16 16 + 1) 65535 := by
  have hcnt : ((s.weigh n a c k v).setStandby 0).reg Reg.WGT_CNT = s.reg Reg.WGT_CNT :=
    (State.reg_setFld_other _ _ _ _ (by decide)).trans
      ((State.reg_weigh (by decide) (by decide)).trans (State.reg_enterCounts (by decide)))
  rw [State.fld_bump _ _ _ _ _ _ _ _ (by decide) (by decide), if_pos ⟨rfl, rfl, rfl⟩]
  unfold State.fld
  rw [hcnt]
  rfl

end

end

/-- Settles O30: a training step by `State.trainingStep_eq`; a decision leaves the period's counts in their registers
(`State.tasterDecision_weighed`) and has four outcomes. -/
theorem trainingAndTasterDecide : Obligations.TrainingAndTasterDecide := by
  unfold Obligations.TrainingAndTasterDecide
  refine ⟨fun s h => ?_, fun s n a c k v whole hdue => ?_⟩
  · obtain ⟨u, heq, hplan, hels, hpending, hgathered, hupdates, hstill⟩ := State.trainingStep_eq h
    refine ⟨u.closeTensors, congrArg Host.Outcome.next heq, ?_, ?_, fun w hw => ?_, fun h1 => ?_, ?_, ?_⟩
    · rw [State.closeTensors_train, hgathered]
    · rw [State.closeTensors_train, hupdates]
    · exact u.isOpen_closeTensors (hplan ▸ hw)
    · obtain ⟨hmem, hregs⟩ := hstill h1
      exact ⟨u.closeTensors_mem.trans hmem, u.closeTensors_regs.trans hregs⟩
    · rw [State.closeTensors_els, hels]
    · rw [State.closeTensors_pending, hpending]
  · intro margin enough back judged good
    have ht : s.Weighed n a c k (s.tasterDecision n a c k v) := State.tasterDecision_weighed hdue
    refine ⟨_, rfl, ht.due, ht.samples, ht.active, ht.candidate, ht.classical, fun hb => ?_, fun hj hg => ?_,
      fun hj hg => ?_, fun hb hj => ?_, ht.copy, ht.mem⟩
    · rw [State.tasterDecision_of_reverts hdue hb, State.standby_revert]
    · obtain ⟨hb, hwhole, hsb⟩ := hj
      rw [State.tasterDecision_of_passes hdue hb hwhole hsb hg, State.standby_setStandby _ (by decide)]
    · obtain ⟨hb, hwhole, hsb⟩ := hj
      rw [State.tasterDecision_of_fails hdue hb hwhole hsb hg]
      exact ⟨State.standby_drop _, State.count_drop⟩
    · rw [State.tasterDecision_of_unjudged hdue hb fun h => hj ⟨hb, h⟩, State.standby_weigh]

end Sys2Proof.Machine
end

section
/-! PROOF of O22: CODE commands end after their duration, and the oldest re-encode request starts (R392, R400 to
R406). What a region's fence takes out of the queue of requests is withdrawn; nothing joins it (R392). -/

namespace Sys2Proof.Machine

open Sys2Proof

/-! ## The end of a command (R400, R403, R406) -/

section
variable (s : State)

theorem State.signalAt_signals_of_mem {x : Signal} (h : x ∈ s.signals) (ctx : Option Nat) (r buf due : Nat) :
    x ∈ (s.signalAt ctx r buf due).signals := by
  unfold State.signalAt
  split
  · exact h
  · exact List.mem_cons_of_mem _ h

theorem State.foldl_signalAt_signals_of_mem {x : Signal} (ctx : Option Nat) (due : Nat) (outs : List (Nat × Nat))
    (h : x ∈ s.signals) : x ∈ (outs.foldl (fun s o => s.signalAt ctx o.1 o.2 due) s).signals := by
  induction outs generalizing s with
  | nil => exact h
  | cons o outs ih => exact ih _ (s.signalAt_signals_of_mem h ..)

/-- A command that ends at `finish` is under way until then, and signals its output at CODE. -/
theorem State.codeEnd_ends (c : Cmd) (i : Issue) (finish : Nat) (void : Bool) (cause : Nat) :
    (s.codeEnd c i finish void cause).newest c 0 finish ∧
      (c.codeBuf ≠ 0xFFF → ⟨finish, 10, c.codeBuf, i.ctx⟩ ∈ (s.codeEnd c i finish void cause).signals) := by
  refine ⟨State.track_newest .., fun hbuf => ?_⟩
  unfold State.codeEnd
  rw [State.track_signals]
  exact State.foldl_signalAt_signals_of_mem _ _ _ (c.codeOuts i.ctx).tail (State.mem_signalAt _ hbuf ..)

/-- The record that a CODE command reads once it has issued for context `ctx` (R401). -/
def State.codeRecord (c : Cmd) (ctx : Option Nat) : CodeRec :=
  CodeRec.ofWords ((match ctx with
    | some k => s.clearBuf k c.codeBuf
    | none => s).readRecord (codeUnit c) c.w.w3).1

/-- When a CODE command that issues at `t` with record `r` ends (R406). -/
def Cmd.codeFinish (c : Cmd) (r : CodeRec) (t : Nat) : Nat :=
  if r.kind == kindOf c.opcode && r.empty then t + 1 else t + c.codeDur

/-- A CODE command that has its leave and issues ends as its record says, whatever its effect. -/
theorem State.codeRun_eq_codeEnd {c : Cmd} {heavy : Bool} {s0 s1 : State} {i : Issue}
    (effect : State → Issue → CodeRec → Bool → Option (List Byte) × Option Nat × State)
    (hleave : (if heavy then s.takeLeave c (2 ^ c.unit) c.codeLeave else (true, s)) = (true, s0))
    (hi : s0.issue c (codeUnit c).loc (s0.unitFree 9 10 c.unit) (2 ^ c.unit) = (i, s1)) (hgo : i.go = true) :
    ∃ (u : State) (void : Bool) (cause : Nat),
      s.codeRun c heavy effect = u.codeEnd c i (c.codeFinish (s1.codeRecord c i.ctx) i.t) void cause := by
  unfold State.codeRun
  rw [hleave]
  extract_lets +onlyGivenNames u
  dsimp -zeta only
  rw [if_neg (by decide), hi]
  dsimp -zeta only
  rw [if_neg (by simp [hgo])]
  extract_lets +onlyGivenNames vin s2 r finish s3 matched
  have hr : s1.codeRecord c i.ctx = r := rfl
  rw [hr]
  unfold Cmd.codeFinish
  by_cases hempty : (matched && r.empty) = true
  · rw [if_pos hempty, if_pos hempty]
    exact ⟨_, _, _, rfl⟩
  rw [if_neg hempty, if_neg hempty]
  split
  · exact ⟨_, _, _, rfl⟩
  · exact ⟨_, _, _, rfl⟩

/-- A CODE command that has its leave and issues is under way until its end, and signals its output at CODE then. -/
theorem State.codeRun_ends {c : Cmd} {heavy : Bool} {s0 s1 : State} {i : Issue}
    (effect : State → Issue → CodeRec → Bool → Option (List Byte) × Option Nat × State)
    (hleave : (if heavy then s.takeLeave c (2 ^ c.unit) c.codeLeave else (true, s)) = (true, s0))
    (hi : s0.issue c (codeUnit c).loc (s0.unitFree 9 10 c.unit) (2 ^ c.unit) = (i, s1)) (hgo : i.go = true) :
    (s.codeRun c heavy effect).newest c 0 (c.codeFinish (s1.codeRecord c i.ctx) i.t) ∧
      (c.codeBuf ≠ 0xFFF → ⟨c.codeFinish (s1.codeRecord c i.ctx) i.t, 10, c.codeBuf, i.ctx⟩ ∈
        (s.codeRun c heavy effect).signals) := by
  obtain ⟨u, void, cause, heq⟩ := s.codeRun_eq_codeEnd effect hleave hi hgo
  rw [heq]
  exact u.codeEnd_ends ..

end

/-! ## The queue of re-encode requests (R392) -/

section
variable (s : State)

/-- Every request that waits in `t` waits in `s`, in the same order. -/
def State.WithdrawsTo (s t : State) : Prop := t.code.queue.Sublist s.code.queue

theorem State.WithdrawsTo.trans {s t u : State} (h : s.WithdrawsTo t) (h' : t.WithdrawsTo u) : s.WithdrawsTo u :=
  List.Sublist.trans h' h

theorem State.withdrawsTo_of_code {s t : State} (h : t.code = s.code) : s.WithdrawsTo t := by
  unfold State.WithdrawsTo
  rw [h]

theorem State.WithdrawsTo.code {s t u : State} (h : s.WithdrawsTo t) (h' : u.code = t.code) : s.WithdrawsTo u :=
  h.trans (State.withdrawsTo_of_code h')

theorem State.withdrawsTo_ite {c : Prop} [Decidable c] {s a b : State} (ha : s.WithdrawsTo a) (hb : s.WithdrawsTo b) :
    s.WithdrawsTo (if c then a else b) := by
  split
  exacts [ha, hb]

theorem State.withdrawsTo_foldl {β : Type} {f : State → β → State}
    (h : ∀ (s : State) (b : β), s.WithdrawsTo (f s b)) (l : List β) :
    s.WithdrawsTo (l.foldl f s) := by
  induction l generalizing s with
  | nil => exact State.withdrawsTo_of_code rfl
  | cons b l ih => exact (h s b).trans (ih _)

theorem State.withdrawsTo_raise (code : Nat) (cls : FaultClass) (loc : BitVec 64) (d0 d1 : Nat) :
    s.WithdrawsTo (s.raise code cls loc d0 d1) := State.withdrawsTo_of_code (s.raise_code ..)

theorem State.withdrawsTo_withdrawCtx (c : Nat) : s.WithdrawsTo (s.withdrawCtx c) := List.filter_sublist

theorem State.withdrawsTo_abortJobs (c : Nat) (p : Job → Bool) : s.WithdrawsTo (s.abortJobs c p) := by
  unfold State.abortJobs
  extract_lets x n
  split
  · exact State.withdrawsTo_of_code rfl
  next head u rest v _ =>
  have hv : s.WithdrawsTo v := State.withdrawsTo_of_code (State.dropTaster_code ..)
  exact State.withdrawsTo_ite (hv.trans (v.withdrawsTo_withdrawCtx c)) hv

theorem State.withdrawsTo_abortWhere (q : Ctx → Bool) (p : Job → Bool) : s.WithdrawsTo (s.abortWhere q p) :=
  s.withdrawsTo_foldl (fun t c => by
    split
    exacts [t.withdrawsTo_abortJobs c p, State.withdrawsTo_of_code rfl]) _

theorem State.withdrawsTo_closeGate (r cause : Nat) : s.WithdrawsTo (s.closeGate r cause) := by
  have hvoid : s.WithdrawsTo ((s.setBit Reg.SPN_GATE r true).voidRegion r cause) :=
    State.withdrawsTo_of_code ((State.voidRegion_code ..).trans (s.setBit_code ..))
  unfold State.closeGate
  extract_lets u v w
  have hw : s.WithdrawsTo w := hvoid.trans (v.withdrawsTo_abortWhere ..)
  clear_value w
  exact hw.code rfl

theorem State.withdrawsTo_fenceFault (r cause : Nat) : s.WithdrawsTo (s.fenceFault r cause) := by
  unfold State.fenceFault
  have h1 := s.withdrawsTo_closeGate r cause
  generalize s.closeGate r cause = s1 at h1
  extract_lets u faults s2 s3
  have h3 : s.WithdrawsTo s3 := h1.trans (s2.withdrawsTo_raise ..)
  exact State.withdrawsTo_ite (State.withdrawsTo_of_code rfl) (State.withdrawsTo_ite (h3.code rfl) h3)

theorem State.withdrawsTo_blockFault (r cls idx cause : Nat) : s.WithdrawsTo (s.blockFault r cls idx cause) := by
  unfold State.blockFault
  extract_lets k e run faults s1
  have h1 : s.WithdrawsTo s1 := State.withdrawsTo_of_code rfl
  exact State.withdrawsTo_ite (h1.trans (s1.withdrawsTo_fenceFault r cause)) h1

theorem State.withdrawsTo_blockRaise (r cls idx code : Nat) (loc : BitVec 64) (d0 d1 : Nat) :
    s.WithdrawsTo (s.blockRaise r cls idx code loc d0 d1) := by
  have hreport : (s.report r cls idx).1.code = s.code := s.report_code ..
  unfold State.blockRaise
  split
  next u h =>
    rw [h] at hreport
    exact ((State.withdrawsTo_of_code hreport).trans (u.withdrawsTo_raise ..)).trans (State.withdrawsTo_blockFault ..)
  next u h =>
    rw [h] at hreport
    exact State.withdrawsTo_of_code hreport

theorem State.withdrawsTo_eccRecord (unc : Bool) (r cls idx : Nat) (loc : BitVec 64) (addr hi : Nat) :
    s.WithdrawsTo (s.eccRecord unc r cls idx loc addr hi) := by
  have hfresh : s.WithdrawsTo s.fresh.2 := State.withdrawsTo_of_code rfl
  exact State.withdrawsTo_ite (hfresh.trans (State.withdrawsTo_blockRaise ..))
    (hfresh.trans (State.withdrawsTo_raise ..))

theorem State.withdrawsTo_padEcc (w e : Nat) : s.WithdrawsTo (s.padEcc w e) := by
  unfold State.padEcc
  extract_lets r bank word s1 s2 s3
  have h1 : s.WithdrawsTo s1 := State.withdrawsTo_of_code rfl
  have h2 : s.WithdrawsTo s2 := State.withdrawsTo_ite h1 (h1.code rfl)
  have h3 : s.WithdrawsTo s3 := State.withdrawsTo_of_code rfl
  exact State.withdrawsTo_ite (h2.trans (State.withdrawsTo_eccRecord ..)) (h3.trans (State.withdrawsTo_eccRecord ..))

theorem State.withdrawsTo_readPad (u : Unit_) (r a n : Nat) : s.WithdrawsTo (s.readPad u r a n).2 := by
  unfold State.readPad
  dsimp only
  have hbad := s.withdrawsTo_foldl (f := fun s g => s.blockRaise u.region u.cls u.index 0x0201 u.loc
    (s.hallmark g).toNat (hc (s.granuleBytes g)).toNat) fun s _ => s.withdrawsTo_blockRaise ..
  exact ((hbad _).code (State.bump_code ..)).trans (State.withdrawsTo_foldl _ (fun s e => s.withdrawsTo_padEcc ..) _)

theorem State.withdrawsTo_renewWords (ps : List Place) : s.WithdrawsTo (s.renewWords ps) := by
  unfold State.renewWords
  refine s.withdrawsTo_foldl (fun s x => ?_) _
  have hstay : s.WithdrawsTo s := State.withdrawsTo_of_code rfl
  exact State.withdrawsTo_ite hstay (State.withdrawsTo_ite (hstay.code rfl)
    (State.withdrawsTo_ite (s.withdrawsTo_padEcc ..) ((s.withdrawsTo_padEcc ..).code rfl)))

theorem State.setByte_code (p : Place) (b : Byte) : (s.setByte p b).code = s.code := by
  unfold State.setByte
  split <;> rfl

theorem State.putBytes_code (ps : List (Place × Byte)) : (s.putBytes ps).code = s.code := by
  induction ps generalizing s with
  | nil => rfl
  | cons p ps ih => exact (ih _).trans (s.setByte_code ..)

theorem State.fillGranule_code (keys : List Nat) (g : Nat × Nat) : (s.fillGranule keys g).code = s.code := by
  unfold State.fillGranule
  split
  · exact foldl_keeps State.code (fun s i => by split <;> rfl) _ s
  · rfl

theorem State.remark_code (g : Nat × Nat) : (s.remark g).code = s.code := by
  unfold State.remark State.setHallmark
  split <;> rfl

theorem State.withdrawsTo_writePad (r a : Nat) (bs : List Byte) (ok : Bool) : s.WithdrawsTo (s.writePad r a bs ok) := by
  unfold State.writePad
  extract_lets ps abs s1 s2 s3 ks gs
  have h2 : s.WithdrawsTo s2 := (State.withdrawsTo_of_code rfl : s.WithdrawsTo s1).trans (s1.withdrawsTo_renewWords ps)
  have h3 : s.WithdrawsTo s3 := h2.code (s2.putBytes_code _)
  exact State.withdrawsTo_ite h3 (h3.code
    (foldl_keeps State.code (fun t g => (State.remark_code ..).trans (t.fillGranule_code ks g)) gs s3))

theorem State.freshBits_code (elastic : Bool) (n : Nat) : (s.freshBits elastic n).2.code = s.code := by
  unfold State.freshBits State.drawFor State.draw
  cases elastic <;> rfl

theorem State.signalAt_code (ctx : Option Nat) (r buf due : Nat) : (s.signalAt ctx r buf due).code = s.code := by
  unfold State.signalAt
  split <;> rfl

end

/-! ## The oldest request starts (R392) -/

/-- Where an encoder is free for it, the oldest request leaves the queue and the encoder runs it for its context. -/
theorem State.reEncoding_starts (s : State) {unit cycle : Nat} {q : CodeRequest} {rest : List CodeRequest}
    (hq : (s.reach cycle).code.queue = q :: rest) (hlive : (s.reach cycle).engineLive 10 = true)
    (hwindow : ((s.reach cycle).openWindow 10 cycle (2 ^ (16 + unit))).isSome = true)
    (hfree : (s.reach cycle).unitFree 9 10 (16 + unit) ≤ cycle) :
    ∃ e, (s.reEncoding unit cycle).code.queue.Sublist rest ∧ (s.reEncoding unit cycle).running.head? = some e ∧
      e.cls = 9 ∧ e.region = 10 ∧ e.unit = 16 + unit ∧ e.ctx = some q.ctx := by
  unfold State.reEncoding
  extract_lets +onlyGivenNames s0
  split
  next hnil => exact absurd (hnil.symm.trans hq) (List.cons_ne_nil _ _).symm
  next q' rest' hcons =>
  obtain ⟨rfl, rfl⟩ := List.cons.inj (hcons.symm.trans hq)
  extract_lets +onlyGivenNames u
  rw [if_neg (by simp [s0, u, hlive, ← Option.isSome_iff_ne_none, hwindow, hfree])]
  extract_lets +onlyGivenNames loc w r buf queue s1 s2 finish n
  have h2 : s2.code.queue = rest' := rfl
  clear_value s2
  split
  next k s3 hread =>
  have h3 : s2.WithdrawsTo s3 := by
    refine (?_ : s2.WithdrawsTo (k, s3).2)
    rw [← hread]
    split
    exacts [State.withdrawsTo_of_code rfl, s2.withdrawsTo_readPad ..]
  extract_lets +onlyGivenNames tb bits
  split
  next pad s4 hpad =>
  have h4 : s2.WithdrawsTo s4 := by
    refine h3.code (?_ : (pad, s4).2.code = s3.code)
    rw [← hpad]
    exact s3.freshBits_code ..
  extract_lets +onlyGivenNames all out s5 s6 s7
  have h5 : s2.WithdrawsTo s5 := State.withdrawsTo_ite h4 (h4.trans (s4.withdrawsTo_writePad ..))
  have h6 : s2.WithdrawsTo s6 := State.withdrawsTo_ite (h5.code (s5.voidBuf_code ..)) h5
  have h7 : s2.WithdrawsTo s7 := h6.code (s6.signalAt_code ..)
  exact ⟨_, h2 ▸ h7, rfl, rfl, rfl, rfl, rfl⟩

theorem State.reEncoding_of_no_request (s : State) (unit : Nat) {cycle : Nat} (hq : (s.reach cycle).code.queue = []) :
    s.reEncoding unit cycle = s.reach cycle := by
  unfold State.reEncoding
  dsimp only
  rw [hq]

theorem exec_reEncoding {unit : Nat} (hu : unit < 8) (cycle : Nat) (s : State) :
    exec (.reEncoding unit cycle) s = .next (s.reEncoding unit cycle) := admitted_of (decide_eq_true hu) _

section
variable (s : State) (c : Cmd)

theorem State.ldec_eq_codeRun : ∃ effect, s.ldec c = s.codeRun c true effect := by
  unfold State.ldec
  exact ⟨_, rfl⟩
theorem State.lenc_eq_codeRun : ∃ effect, s.lenc c = s.codeRun c true effect := ⟨_, rfl⟩
theorem State.pdec_eq_codeRun : ∃ effect, s.pdec c = s.codeRun c false effect := ⟨_, rfl⟩
theorem State.penc_eq_codeRun : ∃ effect, s.penc c = s.codeRun c false effect := ⟨_, rfl⟩
theorem State.tbseg_eq_codeRun : ∃ effect, s.tbseg c = s.codeRun c false effect := ⟨_, rfl⟩
theorem State.tbchk_eq_codeRun : ∃ effect, s.tbchk c = s.codeRun c false effect := ⟨_, rfl⟩

end

/-- Settles O22: each command is a run of its unit (`State.codeRun_ends`), and the oldest request starts or there is
none (`State.reEncoding_starts`, `State.reEncoding_of_no_request`). -/
theorem codeCommandsAndRequestsRun : Obligations.CodeCommandsAndRequestsRun := by
  unfold Obligations.CodeCommandsAndRequestsRun
  refine ⟨fun s c i heavy hi hwf => ?_, fun s unit cycle hu =>
    ⟨fun q rest hq hlive hwindow hfree => ?_, fun hq => ?_⟩⟩
  · intro g x s1 r e hg hgo
    have hleave : g = (true, g.2) := Prod.ext hg rfl
    have hx : x.1.go = true := (g.2.issue_goes ..).trans hgo
    have hrun {t : State} (ht : ∃ effect, t = s.codeRun c heavy effect) (hexec : exec i s = admitted i.wf t) :
        ∃ t, exec i s = .next t ∧ t.runs c 0 = true ∧ t.newestEnd = some e ∧
          (c.codeBuf ≠ 0xFFF → ⟨e, 10, c.codeBuf, x.1.ctx⟩ ∈ t.signals) := by
      obtain ⟨effect, rfl⟩ := ht
      obtain ⟨⟨hruns, hend⟩, hdone⟩ := s.codeRun_ends effect hleave rfl hx
      exact ⟨_, hexec.trans (admitted_of hwf _), hruns, hend, hdone⟩
    clear_value e
    simp only [List.mem_cons, List.not_mem_nil, or_false, Prod.mk.injEq] at hi
    obtain ⟨rfl, rfl⟩ | ⟨rfl, rfl⟩ | ⟨rfl, rfl⟩ | ⟨rfl, rfl⟩ | ⟨rfl, rfl⟩ | ⟨rfl, rfl⟩ := hi
    · exact hrun (s.ldec_eq_codeRun c) rfl
    · exact hrun (s.lenc_eq_codeRun c) rfl
    · exact hrun (s.pdec_eq_codeRun c) rfl
    · exact hrun (s.penc_eq_codeRun c) rfl
    · exact hrun (s.tbseg_eq_codeRun c) rfl
    · exact hrun (s.tbchk_eq_codeRun c) rfl
  · obtain ⟨e, hqueue, hhead, hcls, hregion, hunit, hctx⟩ := s.reEncoding_starts hq hlive hwindow hfree
    exact ⟨_, e, exec_reEncoding hu cycle s, hqueue, hhead, hcls, hregion, hunit, hctx⟩
  · rw [exec_reEncoding hu, s.reEncoding_of_no_request unit hq]

end Sys2Proof.Machine
end

section
/-! PROOF of O59: a command leaves the commands that wait alone. -/

namespace Sys2Proof.Machine

open Sys2Proof

/-- Settles O59: what waits after a command follows what waited before it (`answers_exec`), and so the queue is the same. -/
theorem commandsLeaveTheQueue : Obligations.CommandsLeaveTheQueue := by
  unfold Obligations.CommandsLeaveTheQueue
  exact fun i s t h => (answers_exec s i t h).1

end Sys2Proof.Machine
end

section
/-! SUPPORT. States that differ in nothing but registers, and more about what a register reads after a write. -/

namespace Sys2Proof.Machine

open Sys2Proof

/-- Nothing but registers differs. -/
def State.OnlyRegs (s t : State) : Prop := t = { s with regs := t.regs }

section
variable {s t u : State}

theorem State.onlyRegs_self (s : State) : s.OnlyRegs s := rfl

theorem State.OnlyRegs.trans (h : s.OnlyRegs t) (h' : t.OnlyRegs u) : s.OnlyRegs u := by
  unfold State.OnlyRegs at *
  rw [h', h]

theorem State.OnlyRegs.congr {α : Type} (h : s.OnlyRegs t) (f : State → α) (hf : ∀ r, f { s with regs := r } = f s) :
    f t = f s := (congrArg f h).trans (hf _)

theorem State.OnlyRegs.mem (h : s.OnlyRegs t) : t.mem = s.mem := h.congr State.mem fun _ => rfl

theorem State.OnlyRegs.setReg (h : s.OnlyRegs t) (k : Nat) (w : Word) : s.OnlyRegs (t.setReg k w) := h.trans rfl

theorem State.OnlyRegs.setFld (h : s.OnlyRegs t) (k lo n v : Nat) : s.OnlyRegs (t.setFld k lo n v) := h.trans rfl

theorem State.OnlyRegs.setBit (h : s.OnlyRegs t) (k i : Nat) (b : Bool) : s.OnlyRegs (t.setBit k i b) := h.trans rfl

theorem State.OnlyRegs.bump (h : s.OnlyRegs t) (k lo n v : Nat) : s.OnlyRegs (t.bump k lo n v) := h.trans rfl

theorem State.OnlyRegs.ite {c : Prop} [Decidable c] (ht : s.OnlyRegs t) (hu : s.OnlyRegs u) :
    s.OnlyRegs (if c then t else u) := by
  split
  exacts [ht, hu]

theorem State.OnlyRegs.foldl {β : Type} {f : State → β → State} (hf : ∀ (s : State) b, s.OnlyRegs (f s b))
    (h : s.OnlyRegs t) (l : List β) : s.OnlyRegs (l.foldl f t) := by
  induction l generalizing t with
  | nil => exact h
  | cons b l ih => exact ih (h.trans (hf t b))

end

section
variable (s : State)

/-! ### A field or a bit after a write of the same one, of another one of its register, of another register -/

@[simp] theorem State.fld_setFld_mod {k lo n v : Nat} (h : lo + n ≤ 32) : (s.setFld k lo n v).fld k lo n = v % 2 ^ n :=
  (s.fld_setFld _ _ _ _ _ _ _ h (.inr (.inr (.inr ⟨rfl, rfl⟩)))).trans (if_pos ⟨rfl, rfl, rfl⟩)

@[simp] theorem State.fld_setFld_off {k lo n v a b : Nat} (h : lo + n ≤ 32) (hb : 0 < b) (hd : a + b ≤ lo ∨ lo + n ≤ a) :
    (s.setFld k lo n v).fld k a b = s.fld k a b := s.fld_setFld_apart v h hb (.inr hd)

@[simp] theorem State.bit_setFld_off {k lo n v i : Nat} (h : lo + n ≤ 32) (hd : i < lo ∨ lo + n ≤ i) :
    (s.setFld k lo n v).bit k i = s.bit k i := (s.bit_setFld _ _ _ _ _ _ h).trans (if_neg (by omega))

@[simp] theorem State.bit_setFld_in {k lo n v i : Nat} (h : lo + n ≤ 32) (hd : lo ≤ i ∧ i < lo + n) :
    (s.setFld k lo n v).bit k i = v.testBit (i - lo) := (s.bit_setFld _ _ _ _ _ _ h).trans (if_pos ⟨rfl, hd⟩)

@[simp] theorem State.bit_setBit_own {k i : Nat} (b : Bool) (h : i < 32) : (s.setBit k i b).bit k i = b :=
  s.bit_setBit_same k b h

@[simp] theorem State.bit_setBit_off {k i j : Nat} (b : Bool) (h : i < 32) (hd : j ≠ i) :
    (s.setBit k i b).bit k j = s.bit k j := (s.bit_setBit _ _ _ _ _ h).trans (if_neg fun e => hd e.2)

@[simp] theorem State.fld_setBit_off {k i a b : Nat} (c : Bool) (h : i < 32) (hd : a + b ≤ i ∨ i + 1 ≤ a) :
    (s.setBit k i c).fld k a b = s.fld k a b := s.fld_setBit _ _ _ _ _ _ h (.inr hd)

@[simp] theorem State.fld_bump_same {k lo n v : Nat} (h : lo + n ≤ 32) :
    (s.bump k lo n v).fld k lo n = min (s.fld k lo n + v) (2 ^ n - 1) :=
  (s.fld_bump _ _ _ _ _ _ _ h (.inr (.inr (.inr ⟨rfl, rfl⟩)))).trans (if_pos ⟨rfl, rfl, rfl⟩)

@[simp] theorem State.fld_bump_off {k lo n v a b : Nat} (h : lo + n ≤ 32) (hb : 0 < b) (hd : a + b ≤ lo ∨ lo + n ≤ a) :
    (s.bump k lo n v).fld k a b = s.fld k a b := s.fld_setFld_off h hb hd

@[simp] theorem State.bit_bump_off {k lo n v i : Nat} (h : lo + n ≤ 32) (hd : i < lo ∨ lo + n ≤ i) :
    (s.bump k lo n v).bit k i = s.bit k i := s.bit_setFld_off h hd

@[simp] theorem State.fld_wrapAdd_same {k lo n v : Nat} (h : lo + n ≤ 32) :
    (s.wrapAdd k lo n v).fld k lo n = (s.fld k lo n + v) % 2 ^ n :=
  (s.fld_wrapAdd _ _ _ _ _ _ _ h (.inr (.inr (.inr ⟨rfl, rfl⟩)))).trans (if_pos ⟨rfl, rfl, rfl⟩)

@[simp] theorem State.reg_setReg_apart {k j : Nat} (w : Word) (h : j ≠ k) : (s.setReg k w).reg j = s.reg j :=
  s.reg_setReg_other w h

@[simp] theorem State.reg_setFld_apart {k j : Nat} (lo n v : Nat) (h : j ≠ k) : (s.setFld k lo n v).reg j = s.reg j :=
  s.reg_setFld_other lo n v h

@[simp] theorem State.reg_setBit_apart {k j : Nat} (i : Nat) (b : Bool) (h : j ≠ k) : (s.setBit k i b).reg j = s.reg j :=
  s.reg_setBit_other i b h

@[simp] theorem State.reg_bump_apart {k j : Nat} (lo n v : Nat) (h : j ≠ k) : (s.bump k lo n v).reg j = s.reg j :=
  s.reg_bump_other lo n v h

@[simp] theorem State.reg_wrapAdd_apart {k j : Nat} (lo n v : Nat) (h : j ≠ k) : (s.wrapAdd k lo n v).reg j = s.reg j :=
  s.reg_setFld_other lo n _ h

theorem State.reg_ite (c : Prop) [Decidable c] (a b : State) (k : Nat) :
    (if c then a else b).reg k = if c then a.reg k else b.reg k := apply_ite (fun t : State => t.reg k) ..

/-- A management action that no lockstep mismatch discards (R467). -/
theorem exec_managed {s t : State} {i : Instr} {f : State → State} (hd : s.faults.discard = false)
    (hx : exec i s = .next (s.managed f)) (h : f s = t) : exec i s = .next t := by
  rw [hx, s.managed_of_not_discard hd, h]

/-! ### The registers of a state that is written out, as an update of other fields leaves it -/

@[simp] theorem State.reg_mk {w : SMap Word} {x0 x2 x3 x4 x5 x6 x7 x8 x9 x10 x11 x12 x13 x14 x15 x16 x17 x18 x19 x20
    x21 x22 x23 x24 x25 x26 x27 x28 x29 x30 x31 x32 x33 x34 x35 x36 x37} (k : Nat) : (State.mk x0 w x2 x3 x4 x5 x6 x7
    x8 x9 x10 x11 x12 x13 x14 x15 x16 x17 x18 x19 x20 x21 x22 x23 x24 x25 x26 x27 x28 x29 x30 x31 x32 x33 x34 x35 x36
    x37).reg k = SMap.read 0#32 w k := rfl

@[simp] theorem State.fld_mk {w : SMap Word} {x0 x2 x3 x4 x5 x6 x7 x8 x9 x10 x11 x12 x13 x14 x15 x16 x17 x18 x19 x20
    x21 x22 x23 x24 x25 x26 x27 x28 x29 x30 x31 x32 x33 x34 x35 x36 x37} (k : Nat) (lo n : Nat) : (State.mk x0 w x2 x3
    x4 x5 x6 x7 x8 x9 x10 x11 x12 x13 x14 x15 x16 x17 x18 x19 x20 x21 x22 x23 x24 x25 x26 x27 x28 x29 x30 x31 x32 x33
    x34 x35 x36 x37).fld k lo n = bitsOf (SMap.read 0#32 w k) lo n := rfl

@[simp] theorem State.bit_mk {w : SMap Word} {x0 x2 x3 x4 x5 x6 x7 x8 x9 x10 x11 x12 x13 x14 x15 x16 x17 x18 x19 x20
    x21 x22 x23 x24 x25 x26 x27 x28 x29 x30 x31 x32 x33 x34 x35 x36 x37} (k : Nat) (i : Nat) : (State.mk x0 w x2 x3 x4
    x5 x6 x7 x8 x9 x10 x11 x12 x13 x14 x15 x16 x17 x18 x19 x20 x21 x22 x23 x24 x25 x26 x27 x28 x29 x30 x31 x32 x33 x34
    x35 x36 x37).bit k i = bitOf (SMap.read 0#32 w k) i := rfl

@[simp] theorem State.read_regs (k : Nat) : SMap.read 0#32 s.regs k = s.reg k := rfl

@[simp] theorem State.bitsOf_reg (k lo n : Nat) : bitsOf (s.reg k) lo n = s.fld k lo n := rfl

@[simp] theorem State.bitOf_reg (k i : Nat) : bitOf (s.reg k) i = s.bit k i := rfl

theorem State.reg_with_i3c (x : I3cTarget) (k : Nat) : ({ s with i3c := x } : State).reg k = s.reg k := rfl

theorem State.fld_of_reg {s t : State} {k : Nat} (h : t.reg k = s.reg k) (lo n : Nat) : t.fld k lo n = s.fld k lo n :=
  congrArg (bitsOf · lo n) h

theorem State.bit_of_reg {s t : State} {k : Nat} (h : t.reg k = s.reg k) (i : Nat) : t.bit k i = s.bit k i :=
  congrArg (bitOf · i) h

/-! ### Another register -/

@[simp] theorem State.fld_setReg_away {k j : Nat} (w : Word) (h : j ≠ k) (x y : Nat) :
    (s.setReg k w).fld j x y = s.fld j x y := State.fld_of_reg (s.reg_setReg_apart w h) x y

@[simp] theorem State.bit_setReg_away {k j : Nat} (w : Word) (h : j ≠ k) (x : Nat) :
    (s.setReg k w).bit j x = s.bit j x := State.bit_of_reg (s.reg_setReg_apart w h) x

@[simp] theorem State.fld_setFld_away {k j : Nat} (lo n v : Nat) (h : j ≠ k) (x y : Nat) :
    (s.setFld k lo n v).fld j x y = s.fld j x y := State.fld_of_reg (s.reg_setFld_apart lo n v h) x y

@[simp] theorem State.bit_setFld_away {k j : Nat} (lo n v : Nat) (h : j ≠ k) (x : Nat) :
    (s.setFld k lo n v).bit j x = s.bit j x := State.bit_of_reg (s.reg_setFld_apart lo n v h) x

@[simp] theorem State.fld_setBit_away {k j : Nat} (i : Nat) (b : Bool) (h : j ≠ k) (x y : Nat) :
    (s.setBit k i b).fld j x y = s.fld j x y := State.fld_of_reg (s.reg_setBit_apart i b h) x y

@[simp] theorem State.bit_setBit_away {k j : Nat} (i : Nat) (b : Bool) (h : j ≠ k) (x : Nat) :
    (s.setBit k i b).bit j x = s.bit j x := State.bit_of_reg (s.reg_setBit_apart i b h) x

@[simp] theorem State.fld_bump_away {k j : Nat} (lo n v : Nat) (h : j ≠ k) (x y : Nat) :
    (s.bump k lo n v).fld j x y = s.fld j x y := State.fld_of_reg (s.reg_bump_apart lo n v h) x y

@[simp] theorem State.bit_bump_away {k j : Nat} (lo n v : Nat) (h : j ≠ k) (x : Nat) :
    (s.bump k lo n v).bit j x = s.bit j x := State.bit_of_reg (s.reg_bump_apart lo n v h) x

@[simp] theorem State.fld_wrapAdd_away {k j : Nat} (lo n v : Nat) (h : j ≠ k) (x y : Nat) :
    (s.wrapAdd k lo n v).fld j x y = s.fld j x y := State.fld_of_reg (s.reg_wrapAdd_apart lo n v h) x y

@[simp] theorem State.bit_wrapAdd_away {k j : Nat} (lo n v : Nat) (h : j ≠ k) (x : Nat) :
    (s.wrapAdd k lo n v).bit j x = s.bit j x := State.bit_of_reg (s.reg_wrapAdd_apart lo n v h) x

/-- A bit that is set stands in the register's word. -/
theorem State.lt_of_bit {s : State} {k i : Nat} (h : s.bit k i = true) : i < 32 := BitVec.lt_of_getLsbD h

end

end Sys2Proof.Machine
end

section
/-! PROOF of O51 and O55: loop-backs and patterns, PRBS checkers, and the test access port (R601, R602, R608, R612 to
R614). -/

namespace Sys2Proof.Machine

open Sys2Proof

section
variable (s : State)

/-! ## The settings in force -/

theorem State.onlyRegs_retrain (l : LinkId) : s.OnlyRegs (s.retrain l) := by cases l <;> rfl

theorem State.onlyRegs_setLock (l : PrbsLane) (b : Bool) : s.OnlyRegs (s.setLock l b) := by cases l <;> rfl

theorem State.onlyRegs_retrainLane (l : PrbsLane) : s.OnlyRegs (s.retrainLane l) := by
  refine (s.onlyRegs_setLock l false).trans ?_
  cases l with
  | ether p i => exact State.onlyRegs_retrain _ (.ether p)
  | jesd i => exact (State.onlyRegs_self _).foldl (fun s n => s.onlyRegs_retrain (.jesd n)) _
  | switu i => exact State.onlyRegs_retrain _ .switu

/-- The settings in force are those given; beside them only registers change. -/
theorem State.setTests_eq (loops : List LinkId) (lanes : List PrbsLane) :
    s.setTests loops lanes = { s with
      regs := (s.setTests loops lanes).regs, test := { s.test with loops := loops, prbs := lanes } } := by
  have h : State.OnlyRegs { s with test := { s.test with loops := loops, prbs := lanes } } (s.setTests loops lanes) :=
    ((State.onlyRegs_self _).foldl State.onlyRegs_retrain _).foldl State.onlyRegs_retrainLane _
  exact h

/-! ## Checkers -/

theorem winKey_apart (i : Nat) {a b : Nat} (ha : a < 2 ^ 32) (hb : b < 2 ^ 32) (h : a ≠ b) : winKey i a ≠ winKey i b :=
  fun e => h ((winKey_inj ha hb).mp e).2

/-- The register and the bit that show the lock of a lane. -/
def PrbsLane.lockBit : PrbsLane → Nat × Nat
  | .ether p i => (winKey p Reg.NET_PRBS, 8 + i)
  | .jesd i => (winKey i Reg.RAD_PRBS, 11)
  | .switu i => (winKey i Reg.TWN_PRBS, 11)

theorem State.locked_eq (l : PrbsLane) : s.locked l = s.bit l.lockBit.1 l.lockBit.2 := by cases l <;> rfl

theorem State.setLock_eq (l : PrbsLane) (b : Bool) : s.setLock l b = s.setBit l.lockBit.1 l.lockBit.2 b := by
  cases l <;> rfl

theorem State.locked_setLock {l : PrbsLane} (h : l.lockBit.2 < 32) (b : Bool) : (s.setLock l b).locked l = b := by
  rw [State.setLock_eq, State.locked_eq]
  exact s.bit_setBit_same _ b h

theorem State.onlyRegs_countPrbs (l : PrbsLane) (errors units : Nat) : s.OnlyRegs (s.countPrbs l errors units) := by
  cases l with
  | ether p i => exact State.OnlyRegs.ite rfl rfl
  | jesd i => rfl
  | switu i => rfl

/-- What a checker counts stands in other registers than its lock. -/
theorem State.locked_countPrbs (l : PrbsLane) (errors units : Nat) :
    (s.countPrbs l errors units).locked l = s.locked l := by
  rw [State.locked_eq, State.locked_eq]
  refine State.bit_of_reg ?_ _
  cases l with
  | ether p i =>
    have hbits : winKey p Reg.NET_PRBS ≠ winKey p Reg.NET_PRBSBITS := winKey_apart p (by decide) (by decide) (by decide)
    have herr : winKey p Reg.NET_PRBS ≠ winKey p (if i = 0 then Reg.NET_PRBSERR0 else Reg.NET_PRBSERR1) := by
      split <;> exact winKey_apart p (by decide) (by decide) (by decide)
    rw [State.countPrbs, PrbsLane.lockBit, State.reg_ite, State.reg_bump_other _ _ _ _ hbits, ite_self]
    exact State.reg_bump_other _ _ _ _ herr
  | jesd i => exact State.reg_bump_other _ _ _ _ (winKey_apart i (by decide) (by decide) (by decide))
  | switu i => exact State.reg_bump_other _ _ _ _ (winKey_apart i (by decide) (by decide) (by decide))

theorem PrbsLane.lockBit_lt {l : PrbsLane} (h : l ∈ prbsIds) : l.lockBit.2 < 32 := by
  have hall : ∀ l ∈ prbsIds, l.lockBit.2 < 32 := by decide
  exact hall l h

/-- A checker that is active locks and counts (R608, R609). -/
theorem State.prbsLock_locks {l : PrbsLane} (hl : l ∈ prbsIds) (hc : s.checking l = true) (hs : s.laneServed l = true)
    (e u : Nat) : s.OnlyRegs (s.prbsLock l e u) ∧ (s.prbsLock l e u).locked l = true ∧
      ∀ n, l = .jesd n → (s.prbsLock l e u).fld (winKey n Reg.RAD_PRBSERR) 0 32
        = min (s.fld (winKey n Reg.RAD_PRBSERR) 0 32 + e) (2 ^ 32 - 1) := by
  have h : s.prbsLock l e u = (s.setLock l true).countPrbs l e u := if_pos (by rw [hc, hs]; rfl)
  rw [h]
  refine ⟨(s.onlyRegs_setLock l true).trans (State.onlyRegs_countPrbs ..), ?_, ?_⟩
  · rw [State.locked_countPrbs]
    exact s.locked_setLock (PrbsLane.lockBit_lt hl) true
  · rintro n rfl
    have hkey : winKey n Reg.RAD_PRBSERR ≠ winKey n Reg.RAD_PRBS := winKey_apart n (by decide) (by decide) (by decide)
    have hfld : (s.setLock (.jesd n) true).fld (winKey n Reg.RAD_PRBSERR) 0 32 = s.fld (winKey n Reg.RAD_PRBSERR) 0 32 :=
      State.fld_of_reg (s.reg_setBit_other _ _ hkey) _ _
    exact (State.fld_bump_same _ (by decide)).trans (by rw [hfld])

/-- A locked checker that loses its lock is no longer locked (R608). -/
theorem State.prbsLoss_unlocks {l : PrbsLane} (hl : s.locked l = true) (hs : s.laneServed l = true) (e u : Nat) :
    s.OnlyRegs (s.prbsLoss l e u) ∧ (s.prbsLoss l e u).locked l = false := by
  have h : s.prbsLoss l e u = (s.countPrbs l e u).setLock l false := if_pos (by rw [hl, hs]; rfl)
  have hlt : l.lockBit.2 < 32 := State.lt_of_bit ((s.locked_eq l).symm.trans hl)
  rw [h]
  exact ⟨(s.onlyRegs_countPrbs ..).trans (State.onlyRegs_setLock ..), State.locked_setLock _ hlt false⟩

/-! ## The test access port -/

theorem State.drive_of_allowed (h : s.scanAllowed = true) (op sampled data : Nat) :
    s.drive op sampled data = { s with
      test := { s.test with boundary := data, tap := op, dr := sampled }
      pins := { s.pins with scan := some data, highZ := false } } := if_pos h

theorem State.drive_of_not_allowed (h : s.scanAllowed = false) (op sampled data : Nat) :
    s.drive op sampled data = s.bypass := if_neg (ne_true_of_eq_false h)

theorem State.testLogicReset_of_not_held (h : s.start.held = false) :
    s.testLogicReset = s.setTap 1 none false idcode := if_neg (ne_true_of_eq_false h)

end

/-- The instructions that drive the balls and their opcodes: each is `State.drive` with its opcode. -/
theorem exec_drives {sampled data op : Nat} {i : Instr} (h : (i, op) ∈ [(Instr.extest sampled data, 0x00),
      (.extestPulse sampled data, 0x09), (.extestTrain sampled data, 0x0A)]) (s : State) :
    exec i s = .next (s.drive op sampled data) := by
  simp only [List.mem_cons, Prod.mk.injEq, List.not_mem_nil, or_false] at h
  obtain ⟨rfl, rfl⟩ | ⟨rfl, rfl⟩ | ⟨rfl, rfl⟩ := h <;> rfl

/-- Settles O51: the activation is `State.setTests`, the checkers are `State.prbsLock_locks` and
`State.prbsLoss_unlocks`, and each scan instruction sets the tap. -/
theorem testModesTakeForce : Obligations.TestModesTakeForce := by
  unfold Obligations.TestModesTakeForce
  intro s
  refine ⟨⟨_, rfl, ?_, ?_, ?_⟩, fun l e u => ⟨fun hl hc hs => ⟨_, rfl, s.prbsLock_locks hl hc hs e u⟩,
    fun hl hs => ⟨_, rfl, s.prbsLoss_unlocks hl hs e u⟩⟩, fun sampled data i op hi => ⟨fun h => ?_, fun h => ?_⟩,
    fun h => ⟨⟨_, rfl, ?_⟩, ⟨_, rfl, ?_⟩⟩, fun sampled data => ⟨_, rfl, rfl, rfl, rfl, rfl, rfl⟩,
    ⟨_, rfl, rfl, rfl, rfl⟩, ⟨_, rfl, rfl, rfl, rfl, rfl⟩, fun h => ⟨?_, _, rfl, ?_⟩⟩
  · exact congrArg (·.test.loops) (s.setTests_eq _ _)
  · exact congrArg (·.test.prbs) (s.setTests_eq _ _)
  · rw [State.activateTests, State.setTests_eq]
  · exact ⟨_, exec_drives hi s, by rw [s.drive_of_allowed h]; exact ⟨rfl, rfl, rfl, rfl, rfl, rfl⟩⟩
  · rw [exec_drives hi, s.drive_of_not_allowed h]
    rfl
  · rw [if_pos h]
    exact ⟨rfl, rfl, rfl, rfl⟩
  · rw [if_pos h]
    exact ⟨rfl, rfl, rfl⟩
  · exact congrArg _ (s.testLogicReset_of_not_held h)
  · rw [s.testLogicReset_of_not_held h]
    exact ⟨rfl, rfl, rfl⟩

/-- Settles O55: both instructions leave `idcode` in the data register. -/
theorem idcodeNamesTheStepping : Obligations.IdcodeNamesTheStepping := by
  unfold Obligations.IdcodeNamesTheStepping
  have hword : idcode < 2 ^ 32 ∧ idcode / 2 ^ 28 = 0xB ∧ idcode / 2 ^ 12 % 2 ^ 16 = 0x0940 ∧
      idcode / 2 % 2 ^ 11 = 0x5A3 ∧ idcode % 2 = 1 := by decide
  rintro s i (rfl | ⟨rfl, hheld⟩)
  · exact ⟨_, rfl, hword⟩
  · exact ⟨_, congrArg Host.Outcome.next (s.testLogicReset_of_not_held hheld), hword⟩

end Sys2Proof.Machine
end

section
/-! PROOF of O48 and O49: the common command codes, the register framing and the in-band interrupts of the I3C target
(R578 to R586, R607). -/

namespace Sys2Proof.Machine

open Sys2Proof

/-! ## Bytes -/

theorem length_leBytes (k v : Nat) : (leBytes k v).length = k := by
  induction k generalizing v with
  | zero => rfl
  | succ k ih => rw [leBytes, List.length_cons, ih]

theorem leNat_leBytes {k v : Nat} (h : v < 256 ^ k) : leNat (leBytes k v) = v := by
  induction k generalizing v with
  | zero => exact (Nat.lt_one_iff.mp h).symm
  | succ k ih =>
    have hlo : (BitVec.ofNat 8 v).toNat = v % 256 := BitVec.toNat_ofNat ..
    have hhi : v / 256 < 256 ^ k := Nat.div_lt_of_lt_mul (by rwa [Nat.pow_succ'] at h)
    rw [leBytes, leNat, ih hhi, hlo]
    omega

section
variable (s : State)

/-! ## The dynamic address -/

/-- A target that takes a dynamic address has it, and there has been no request since (R582). -/
theorem State.setDa_addressed {da : Nat} (h : da < 128) : (s.setDa da).addressed = true ∧
    (s.setDa da).fld Reg.MGT_I3C 0 7 = da ∧ (s.setDa da).i3c.response = [] := by
  have hreg : (s.setDa da).reg Reg.MGT_I3C =
      ((s.setFld Reg.MGT_I3C 0 7 da).setBit Reg.MGT_I3C 7 true).reg Reg.MGT_I3C := State.reg_with_i3c ..
  refine ⟨(State.bit_of_reg hreg 7).trans (State.bit_setBit_same _ _ true (by decide)), ?_, rfl⟩
  rw [State.fld_of_reg hreg, State.fld_setBit _ _ _ _ _ _ _ (by decide) (by decide)]
  exact s.fld_setFld_same _ (by decide) h

theorem State.resetDa_addressed : s.resetDa.addressed = false ∧ s.resetDa.fld Reg.MGT_I3C 0 7 = 0 ∧
    s.resetDa.bit Reg.MGT_I3C 15 = false := by
  unfold State.resetDa State.addressed
  refine ⟨?_, ?_, State.bit_setBit_same _ _ false (by decide)⟩
  · rw [State.bit_setBit _ _ _ _ _ _ (by decide), if_neg (by decide)]
    exact State.bit_setBit_same _ _ false (by decide)
  · rw [State.fld_setBit _ _ _ _ _ _ _ (by decide) (by decide),
      State.fld_setBit _ _ _ _ _ _ _ (by decide) (by decide)]
    exact s.fld_setFld_same _ (by decide) (by decide)

theorem State.onlyRegs_resetDa : s.OnlyRegs s.resetDa := ((s.onlyRegs_self.setFld ..).setBit ..).setBit ..

theorem State.entDaa_of_not_addressed (h : s.addressed = false) (da : Nat) :
    s.entDaa da = (s.setDa da).answer (s.provisionedId ++ [0x06, 0x00]) := if_neg (ne_true_of_eq_false h)

theorem State.setFromStatic_of_not_addressed (h : s.addressed = false) (da : Nat) : s.setFromStatic da = s.setDa da :=
  if_neg (ne_true_of_eq_false h)

theorem State.setNewDa_of_addressed (h : s.addressed = true) (da : Nat) : s.setNewDa da = s.setDa da := if_pos h

theorem State.setEvents_of_bit {ev : Nat} (h : ev.testBit 0 = true) (on : Bool) :
    s.setEvents ev on = s.setBit Reg.MGT_I3C 15 on := if_pos h

end

/-- The codes that return bytes and do nothing else (R579). -/
theorem exec_get {s : State} (hd : s.faults.discard = false) {i : Instr} {bs : List Byte}
    (h : (i, bs) ∈ [(Instr.getmwl, [1, 7]), (.getmrl, [1, 7, 5]), (.getpid, s.provisionedId), (.getbcr, [0x06]),
      (.getdcr, [0x00]), (.getmxds, [0x00, 0x00]), (.getcaps, [0x01, 0x00])]) :
    exec i s = .next (s.answer bs) := by
  simp only [List.mem_cons, Prod.mk.injEq, List.not_mem_nil, or_false] at h
  obtain ⟨rfl, rfl⟩ | ⟨rfl, rfl⟩ | ⟨rfl, rfl⟩ | ⟨rfl, rfl⟩ | ⟨rfl, rfl⟩ | ⟨rfl, rfl⟩ | ⟨rfl, rfl⟩ := h <;>
    exact exec_managed hd rfl rfl

theorem exec_entas {s : State} (hd : s.faults.discard = false) (k : Nat) : exec (.entas k) s = .next s :=
  exec_managed hd rfl (ite_self _)

/-- Settles O48: each code is its function of the state, with the address as `State.setDa` and `State.resetDa` leave
it. -/
theorem commonCommandCodesAct : Obligations.CommonCommandCodesAct := by
  unfold Obligations.CommonCommandCodesAct
  intro s hd
  refine ⟨fun ev hev => ⟨⟨_, exec_managed hd rfl rfl, ?_, ?_⟩, _, exec_managed hd rfl rfl, ?_, ?_⟩, exec_entas hd,
    ⟨_, exec_managed hd rfl rfl, s.onlyRegs_resetDa, s.resetDa_addressed⟩, fun da hda => ⟨fun hno => ⟨?_, ?_, ?_⟩, fun hyes => ?_⟩,
    ⟨_, exec_managed hd rfl rfl, s.setBit_form .., s.bit_setBit_same _ true (by decide)⟩,
    ⟨_, exec_managed hd rfl rfl, s.setBit_form .., s.bit_setBit_same _ false (by decide)⟩, fun i bs h => exec_get hd h,
    _, exec_managed hd rfl rfl, rfl, rfl, rfl, rfl⟩
  · rw [s.setEvents_of_bit hev]
    exact s.setBit_form ..
  · rw [s.setEvents_of_bit hev]
    exact s.bit_setBit_same _ true (by decide)
  · rw [s.setEvents_of_bit hev]
    exact s.setBit_form ..
  · rw [s.setEvents_of_bit hev]
    exact s.bit_setBit_same _ false (by decide)
  · have ⟨h1, h2, _⟩ := s.setDa_addressed hda
    exact ⟨_, exec_managed hd rfl (s.entDaa_of_not_addressed hno da), h1, h2, rfl⟩
  · have ⟨h1, h2, _⟩ := s.setDa_addressed (s.fld_lt Reg.MGT_I3C 8 7)
    exact ⟨_, exec_managed hd rfl (s.setFromStatic_of_not_addressed hno _), h1, h2⟩
  · have ⟨h1, h2, _⟩ := s.setDa_addressed hda
    exact ⟨_, exec_managed hd rfl (s.setFromStatic_of_not_addressed hno _), h1, h2⟩
  · exact ⟨_, exec_managed hd rfl (s.setNewDa_of_addressed hyes da), s.setDa_addressed hda⟩

section
variable (s : State)

/-! ## Request frames (R580 to R584) -/

/-- A frame of an odd number of bytes that ends in its CRC is performed if its form is right. -/
theorem State.frameArrives_withCrc {s : State} (ha : s.addressed = true) {bs : List Byte} (leg : Nat)
    (hodd : bs.length % 2 = 0) (hok : frameOk (withCrc bs) = true) {a : Nat}
    (haddr : leNat (((withCrc bs).drop 2).take 4) = a) :
    s.frameArrives (withCrc bs) leg = (s.measureLeg a leg).perform (withCrc bs) := by
  have hlen1 : (withCrc bs).length = bs.length + 1 := by simp [withCrc]
  have hpad : (s.bit Reg.MGT_I3C 16 && (withCrc bs).length % 2 == 0) = false := by
    rw [hlen1, show ((bs.length + 1) % 2 == 0) = false by simp; omega, Bool.and_false]
  have hne : (withCrc bs).isEmpty = false := by simp [withCrc]
  have hcrc : ((withCrc bs).getLast? != some (BitVec.ofNat 8 (crc8 (withCrc bs).dropLast))) = false := by
    simp [withCrc]
  unfold State.frameArrives
  simp only [ha, hpad, hne, hcrc, hok, haddr, Bool.not_true, Bool.false_eq_true, if_false]

/-- A frame whose last byte is not its CRC is counted and answered with CRCERR. -/
theorem State.frameArrives_of_bad_crc {s : State} (ha : s.addressed = true) (hhdr : s.bit Reg.MGT_I3C 16 = false)
    {bs : List Byte} {crc : Byte} (hcrc : crc ≠ BitVec.ofNat 8 (crc8 bs)) (leg : Nat) :
    s.frameArrives (bs ++ [crc]) leg = s.frameError 0x01 := by
  have hne : (bs ++ [crc]).isEmpty = false := by simp
  have hlast : ((bs ++ [crc]).getLast? != some (BitVec.ofNat 8 (crc8 (bs ++ [crc]).dropLast))) = true := by
    simpa using hcrc
  unfold State.frameArrives
  simp only [ha, hhdr, hne, hlast, Bool.not_true, Bool.false_and, Bool.false_eq_true, if_false, if_true]

theorem State.frameError_counts (st : Status) : (s.frameError st).i3c.err = true ∧
    (s.frameError st).i3c.response = withCrc [BitVec.ofNat 8 st, 0x00] ∧
    (s.frameError st).fld Reg.MGT_ACC 16 16 = min (s.fld Reg.MGT_ACC 16 16 + 1) 65535 ∧
    (s.frameError st).mem = s.mem := by
  have hresp : (s.respond st []).i3c.response = withCrc [BitVec.ofNat 8 st, 0x00] := congrArg withCrc rfl
  have hcount := (s.respond st []).fld_bump_same (k := Reg.MGT_ACC) (v := 1) (by decide : 16 + 16 ≤ 32)
  have hmem : ((s.respond st []).bump Reg.MGT_ACC 16 16 1).mem = s.mem := (s.respond st []).bump_mem Reg.MGT_ACC 16 16 1
  have hi3c := (s.respond st []).bump_i3c Reg.MGT_ACC 16 16 1
  unfold State.frameError
  generalize (s.respond st []).bump Reg.MGT_ACC 16 16 1 = u at hcount hmem hi3c
  refine ⟨by rw [State.raise_i3c], by rw [State.raise_i3c]; exact (congrArg I3cTarget.response hi3c).trans hresp, ?_,
    (State.raise_mem ..).trans hmem⟩
  exact (State.fld_of_reg ((State.reg_raise_masked _ _ _ _ _ (by decide) (by decide)).trans (u.reg_with_i3c ..)) _ _).trans
    hcount

/-- The words of the two frames of one word. -/
def readFrame (a : Nat) : List Byte := [2, 1] ++ leBytes 4 a

def writeFrame (a : Nat) (w : Word) : List Byte := [1, 1] ++ leBytes 4 a ++ leBytes 4 w.toNat

theorem length_readFrame (a : Nat) : (readFrame a).length = 6 := rfl

theorem length_writeFrame (a : Nat) (w : Word) : (writeFrame a w).length = 10 := rfl

theorem leNat_address {a : Nat} (h : a < 2 ^ 32) (x y : Byte) (bs : List Byte) :
    leNat ((([x, y] ++ leBytes 4 a ++ bs).drop 2).take 4) = a := by
  have hlen : (leBytes 4 a).length = 4 := length_leBytes ..
  rw [List.append_assoc, List.drop_append_of_le_length (by rfl), List.drop_of_length_le (by rfl), List.nil_append,
    List.take_append_of_le_length (by omega), List.take_of_length_le (by omega)]
  exact leNat_leBytes h

theorem leNat_readFrame {a : Nat} (h : a < 2 ^ 32) : leNat (((withCrc (readFrame a)).drop 2).take 4) = a := by
  rw [withCrc, readFrame]
  exact leNat_address h ..

theorem leNat_writeFrame {a : Nat} (h : a < 2 ^ 32) (w : Word) :
    leNat (((withCrc (writeFrame a w)).drop 2).take 4) = a := by
  rw [withCrc, writeFrame, List.append_assoc]
  exact leNat_address h ..

theorem State.fld_measureLeg (a leg : Nat) : (s.measureLeg a leg).fld Reg.MGT_I3CTEST 0 8 = s.fld Reg.MGT_I3CTEST 0 8 :=
  State.fld_of_reg (s.reg_setFld_other _ _ _ (by decide)) _ _

theorem State.perform_read {a : Nat} (h : a < 2 ^ 32) (hecho : s.fld Reg.MGT_I3CTEST 0 8 = 0) :
    s.perform (withCrc (readFrame a)) =
      (s.ctlRead 0x39 a).2.2.respond (s.ctlRead 0x39 a).1 [(s.ctlRead 0x39 a).2.1] := by
  have hop : (withCrc (readFrame a)).getD 0 0 = 2 := rfl
  have hn : ((withCrc (readFrame a)).getD 1 0).toNat = 1 := rfl
  unfold State.perform
  simp only [leNat_readFrame h, hecho, hop, hn]
  rfl

theorem State.perform_write {a : Nat} (h : a < 2 ^ 32) (hecho : s.fld Reg.MGT_I3CTEST 0 8 = 0) (w : Word) :
    s.perform (withCrc (writeFrame a w)) = (s.ctlWrite 0x39 a w).2.respond (s.ctlWrite 0x39 a w).1 [] := by
  have hop : (withCrc (writeFrame a w)).getD 0 0 = 1 := rfl
  have hn : ((withCrc (writeFrame a w)).getD 1 0).toNat = 1 := rfl
  have hdata : dataWords ((withCrc (writeFrame a w)).drop 6) 1 = [w] := by
    have hword : BitVec.ofNat 32 (leNat (leBytes 4 w.toNat)) = w := by
      rw [leNat_leBytes w.isLt, BitVec.ofNat_toNat, BitVec.setWidth_eq]
    have htake : ((withCrc (writeFrame a w)).drop 6).take 4 = leBytes 4 w.toNat := rfl
    have hone (bs : List Byte) : dataWords bs 1 = [BitVec.ofNat 32 (leNat (bs.take 4))] := rfl
    rw [hone, htake, hword]
  unfold State.perform
  simp only [leNat_writeFrame h, hecho, hop, hn, hdata]
  rfl

/-! ## In-band interrupts (R585, R586) -/

/-- An in-band interrupt that is not accepted leaves its announcement out (R586). -/
theorem State.ibi_of_nack {s : State} (ha : s.addressed = true) (hen : s.bit Reg.MGT_I3C 15 = true)
    {x : Announcement} (hx : s.nextAnnouncement = some x) :
    s.ibi false = { (s.bump Reg.MGT_IBI 16 8 1) with
      i3c := { s.i3c with reply := s.ibiBytes x, out := some x } } := by
  unfold State.ibi
  simp only [ha, hen, hx]
  rfl

/-- One that is accepted marks its record as announced or takes its event from those that wait (R586). -/
theorem State.ibi_of_ack {s : State} (ha : s.addressed = true) (hen : s.bit Reg.MGT_I3C 15 = true)
    {x : Announcement} (hx : s.nextAnnouncement = some x) :
    (s.ibi true).i3c.out = none ∧ (s.ibi true).i3c.reply = s.ibiBytes x ∧
      (s.ibi true).regs = ((s.answer (s.ibiBytes x)).wrapAdd Reg.MGT_IBI 24 8 1).regs ∧
      ∀ r, x = .record r → (s.ibi true).faults.queue = markSent r s.faults.queue := by
  unfold State.ibi
  simp only [ha, hen, hx, Bool.not_true, Bool.or_self, Bool.false_eq_true, if_false]
  have hreply : ((s.answer (s.ibiBytes x)).wrapAdd Reg.MGT_IBI 24 8 1).i3c.reply = s.ibiBytes x := rfl
  have hfaults : ((s.answer (s.ibiBytes x)).wrapAdd Reg.MGT_IBI 24 8 1).faults = s.faults := rfl
  generalize (s.answer (s.ibiBytes x)).wrapAdd Reg.MGT_IBI 24 8 1 = u at hreply hfaults
  cases x with
  | record r => exact ⟨rfl, hreply, rfl, fun r' h => by cases h; rw [← hfaults]⟩
  | event k p => exact ⟨rfl, hreply, rfl, fun r' h => nomatch h⟩

end

/-- Settles O49: a frame of one word is performed on the state that has measured its leg, a frame of a wrong CRC is
`State.frameError`, and an in-band interrupt does what its acknowledgement says. -/
theorem framesAreAnsweredOverI3c : Obligations.FramesAreAnsweredOverI3c := by
  unfold Obligations.FramesAreAnsweredOverI3c
  intro s hd
  refine ⟨fun count => ⟨_, exec_managed hd rfl rfl, rfl, s.fld_setFld_mod (by decide)⟩, fun ha hecho a leg h32 => ?_,
    fun ha hhdr hne => ?_, fun ha hen x hx => ⟨?_, ?_⟩⟩
  · have hecho1 : (s.measureLeg a leg).fld Reg.MGT_I3CTEST 0 8 = 0 := (s.fld_measureLeg a leg).trans hecho
    refine ⟨?_, fun w => ?_, fun bs crc hbs hhdr hcrc => ?_⟩
    · have h := State.frameArrives_withCrc ha leg (bs := readFrame a) (by rw [length_readFrame]) rfl (leNat_readFrame h32)
      exact ⟨_, exec_managed hd rfl (h.trans (State.perform_read _ h32 hecho1)), rfl, rfl⟩
    · have h := State.frameArrives_withCrc ha leg (bs := writeFrame a w) (by rw [length_writeFrame]) rfl (leNat_writeFrame h32 w)
      exact ⟨_, exec_managed hd rfl (h.trans (State.perform_write _ h32 hecho1 w)), rfl, rfl⟩
    · exact ⟨_, exec_managed hd rfl (State.frameArrives_of_bad_crc ha hhdr hcrc leg), s.frameError_counts _⟩
  · refine exec_managed hd rfl ?_
    unfold State.responseRead
    simp only [ha, hhdr, List.isEmpty_eq_false_iff.mpr hne]
    rfl
  · exact ⟨_, exec_managed hd rfl (State.ibi_of_nack ha hen hx), rfl, rfl,
      (State.fld_of_reg (State.reg_with_i3c _ _ _) 16 8).trans (s.fld_bump_same (by decide : 16 + 8 ≤ 32)), s.bump_faults Reg.MGT_IBI 16 8 1⟩
  · obtain ⟨hout, hreply, hregs, hqueue⟩ := State.ibi_of_ack ha hen hx
    refine ⟨_, exec_managed hd rfl rfl, hout, hreply, ?_, hqueue⟩
    rw [State.fld_of_reg (State.reg_of_regs hregs _), State.fld_wrapAdd _ _ _ _ _ _ _ _ (by decide) (by decide)]
    exact if_pos ⟨rfl, rfl, rfl⟩

end Sys2Proof.Machine
end

section
/-! PROOF of O46: NVM commands run one at a time and write the flash when they are done (R566 to R568, R573). -/

namespace Sys2Proof.Machine

open Sys2Proof

/-- A list of values that was written at consecutive keys is read back. -/
theorem SMap.readList_writeList {α : Type} [DecidableEq α] {d : α} {m : SMap α} {k n : Nat} {vs : List α}
    (h : vs.length = n) : SMap.readList d (SMap.writeList d m k vs) k n = vs := by
  subst h
  refine List.ext_getElem (by simp [SMap.readList]) fun i hi hi' => ?_
  simp [SMap.readList, SMap.read_writeList, hi']

section
variable (s : State)

theorem State.flashBytes_setFlash {a n : Nat} {bs : List Byte} (h : bs.length = n) : (s.setFlash a bs).flashBytes a n = bs :=
  SMap.readList_writeList h

/-! ## A command begins -/

theorem State.onlyRegs_nvmResult (result reason : Nat) : s.OnlyRegs (s.nvmResult result reason) :=
  (s.onlyRegs_self.setFld ..).setFld ..

theorem State.fld_nvmResult (result reason : Nat) : (s.nvmResult result reason).fld Reg.NVM_STAT 8 4 = result % 16 := by
  simp (disch := decide) [State.nvmResult]

theorem State.onlyRegs_unverify (a n : Nat) : s.OnlyRegs (s.unverify a n) := by
  unfold State.unverify
  cases s.bootRecord with
  | none => exact s.onlyRegs_self
  | some b => exact s.onlyRegs_self.foldl (fun s _ => (s.onlyRegs_self.setBit ..).ite s.onlyRegs_self) _

theorem State.unverify_mem (a n : Nat) : (s.unverify a n).mem = s.mem := (s.onlyRegs_unverify a n).mem

variable {s}

theorem State.nvmIdle_of_idle (h : s.bit Reg.NVM_STAT 0 = false) (f : State → State) : s.nvmIdle f = f s :=
  if_neg (by rw [h]; decide)

theorem State.nvmIdle_of_busy (h : s.bit Reg.NVM_STAT 0 = true) (f : State → State) : s.nvmIdle f = s.nvmResult 1 0 :=
  if_pos h

/-- A command runs: it is the one that is noted, NVM.STAT shows it, and the memories have not changed. -/
def State.NvmRuns (s t : State) (j : NvmJob) : Prop :=
  t.sec.job = some j ∧ t.bit Reg.NVM_STAT 0 = true ∧ t.mem = s.mem

theorem State.nvmRuns_nvmRun (j : NvmJob) : s.NvmRuns (s.nvmRun j) j :=
  ⟨rfl, by simp (disch := decide) [State.nvmRun], rfl⟩

theorem State.nvmRuns_erase (h : s.bit Reg.NVM_STAT 0 = false)
    (hp : s.protectedArea (s.reg Reg.NVM_ADDR).toNat s.sectorSize = false)
    (ha : (s.reg Reg.NVM_ADDR).toNat % s.sectorSize = 0) : s.NvmRuns s.nvmErase ⟨1, 0, (s.reg Reg.NVM_ADDR).toNat, []⟩ := by
  rw [State.nvmErase, State.nvmIdle_of_idle h]
  simp only [hp, ha, bne_self_eq_false, Bool.false_eq_true, if_false]
  obtain ⟨hjob, hrun, hmem⟩ := State.nvmRuns_nvmRun (s := s.unverify (s.reg Reg.NVM_ADDR).toNat s.sectorSize) _
  exact ⟨hjob, hrun, hmem.trans (s.unverify_mem ..)⟩

theorem State.nvmRuns_program (h : s.bit Reg.NVM_STAT 0 = false)
    (hp : s.protectedArea (s.reg Reg.NVM_ADDR).toNat 256 = false) (ha : (s.reg Reg.NVM_ADDR).toNat % 256 = 0) :
    s.NvmRuns s.nvmProgram ⟨2, 0, (s.reg Reg.NVM_ADDR).toNat, s.sec.page⟩ := by
  rw [State.nvmProgram, State.nvmIdle_of_idle h]
  simp only [hp, ha, bne_self_eq_false, Bool.false_eq_true, if_false]
  obtain ⟨hjob, hrun, hmem⟩ := State.nvmRuns_nvmRun (s := s.unverify (s.reg Reg.NVM_ADDR).toNat 256)
    ⟨2, 0, (s.reg Reg.NVM_ADDR).toNat, s.sec.page⟩
  generalize (s.unverify (s.reg Reg.NVM_ADDR).toNat 256).nvmRun _ = t at hjob hrun hmem
  exact ⟨hjob, by simp (disch := decide) [hrun], hmem.trans (s.unverify_mem ..)⟩

theorem State.nvmRuns_activate (h : s.bit Reg.NVM_STAT 0 = false) {slot : Nat}
    (hv : s.bit Reg.NVM_STAT (16 + slot % 2) = true) : s.NvmRuns (s.nvmActivate slot) ⟨4, slot % 2, 0, []⟩ := by
  rw [State.nvmActivate, State.nvmIdle_of_idle h, if_pos hv]
  exact State.nvmRuns_nvmRun _

theorem State.nvmRuns_save (h : s.bit Reg.NVM_STAT 0 = false) {b : BootRecord} (hb : s.bootRecord = some b)
    (hfit : s.plan.weights.len ≤ b.wsize) : s.NvmRuns s.nvmSave ⟨5, 0, 0, []⟩ := by
  rw [State.nvmSave, State.nvmIdle_of_idle h]
  simp only [hb, Option.map_some, Option.getD_some, Option.isNone_some, decide_eq_false (Nat.not_lt.mpr hfit),
    Bool.or_self, Bool.false_eq_true, if_false]
  exact State.nvmRuns_nvmRun _

/-- A command while one is running is refused with result 1 (R567). -/
theorem exec_nvm_of_busy (hd : s.faults.discard = false) (h : s.bit Reg.NVM_STAT 0 = true) {slot : Nat} {i : Instr}
    (hi : i ∈ [Instr.erase, .program, .verify slot, .activate slot, .savew, .dropw]) :
    exec i s = .next (s.nvmResult 1 0) := by
  simp only [List.mem_cons, List.not_mem_nil, or_false] at hi
  obtain rfl | rfl | rfl | rfl | rfl | rfl := hi <;> exact exec_managed hd rfl (State.nvmIdle_of_busy h _)

/-! ## A command is done -/

/-- What is left of a command that has had its effect `u`. -/
def State.nvmEnd (u : State) : State :=
  let u := { (u.setBit Reg.NVM_STAT 0 false) with sec := { u.sec with job := none, saving := false } }
  u.announce 0xA3 (leBytes 2 (u.fld Reg.NVM_STAT 0 16) ++ [0, 0])

/-- A command that meets a flash error (R567, R585). -/
def State.nvmFail (s : State) (j : NvmJob) : State :=
  let a := (s.nvmArea j).1
  let (bs, s) := s.freeBytes (s.nvmArea j).2
  (((s.setFlash a bs).bump Reg.NVM_STAT 24 8 1).nvmResult 4 0).raise 0x0C0C .detected nvmLoc a 0

theorem State.nvmDone_of_job {j : NvmJob} (hj : s.sec.job = some j) (hs : j.cmd = 5 → s.sec.saving = true) (error : Bool) :
    s.nvmDone error = (if error then s.nvmFail j else s.nvmEffect j).nvmEnd := by
  have hgo : (decide (j.cmd = 5) && !s.sec.saving) = false := by
    by_cases h : j.cmd = 5
    · simp [h, hs h]
    · simp [h]
  unfold State.nvmDone
  simp only [hj, hgo, Bool.false_eq_true, if_false]
  rfl

variable (s)

theorem State.nvmEnd_idle : s.nvmEnd.bit Reg.NVM_STAT 0 = false := by
  simp (disch := decide) [State.nvmEnd, State.announce]

theorem State.fld_nvmEnd {a b : Nat} (h : 1 ≤ a) : s.nvmEnd.fld Reg.NVM_STAT a b = s.fld Reg.NVM_STAT a b :=
  s.fld_setBit_off false (by decide) (.inr h)

theorem State.fld_nvmFail (j : NvmJob) : (s.nvmFail j).fld Reg.NVM_STAT 8 4 = 4 ∧
    (s.nvmFail j).fld Reg.NVM_STAT 24 8 = min (s.fld Reg.NVM_STAT 24 8 + 1) 255 := by
  have hreg (u : State) (a : Nat) : (u.raise 0x0C0C .detected nvmLoc a 0).reg Reg.NVM_STAT = u.reg Reg.NVM_STAT :=
    u.reg_raise_detected _ _ _ _ (by decide) (by decide)
  have hbase : ((s.freeBytes (s.nvmArea j).2).2.setFlash (s.nvmArea j).1 (s.freeBytes (s.nvmArea j).2).1).fld Reg.NVM_STAT 24 8
      = s.fld Reg.NVM_STAT 24 8 := rfl
  unfold State.nvmFail
  dsimp only
  generalize (s.freeBytes (s.nvmArea j).2).2.setFlash (s.nvmArea j).1 (s.freeBytes (s.nvmArea j).2).1 = u at hbase
  constructor
  · rw [State.fld_of_reg (hreg _ _)]
    exact State.fld_nvmResult _ 4 0
  · rw [State.fld_of_reg (hreg _ _)]
    simp (disch := decide) [State.nvmResult, hbase]

theorem State.flashBytes_nvmEnd (a n : Nat) : s.nvmEnd.flashBytes a n = s.flashBytes a n := rfl

theorem State.flashBytes_nvmResult (result reason a n : Nat) : (s.nvmResult result reason).flashBytes a n = s.flashBytes a n := rfl

variable {s}

theorem State.nvmEffect_erases {j : NvmJob} (h : j.cmd = 1) :
    (s.nvmEffect j).flashBytes j.addr s.sectorSize = List.replicate s.sectorSize 0xFF := by
  unfold State.nvmEffect
  rw [h]
  exact (State.flashBytes_nvmResult ..).trans (s.flashBytes_setFlash List.length_replicate)

theorem length_flatMap_leBytes (ws : List Word) : (ws.flatMap fun w => leBytes 4 w.toNat).length = 4 * ws.length := by
  simp [List.length_flatMap, length_leBytes, Nat.mul_comm]

theorem State.nvmEffect_programs {j : NvmJob} (h : j.cmd = 2) (hlen : j.words.length ≤ 64) :
    (s.nvmEffect j).flashBytes j.addr 256 =
      (j.words.flatMap fun w => leBytes 4 w.toNat) ++ List.replicate (256 - 4 * j.words.length) 0xFF := by
  unfold State.nvmEffect
  rw [h]
  refine (State.flashBytes_nvmResult ..).trans (s.flashBytes_setFlash ?_)
  rw [List.length_append, length_flatMap_leBytes, List.length_replicate]
  omega

theorem State.pageWrite_of_room (w : Word) (h : s.sec.page.length < 64) :
    (s.pageWrite w).sec.page = s.sec.page ++ [w] ∧ (s.pageWrite w).fld Reg.NVM_STAT 1 7 = s.sec.page.length + 1 ∧
      (s.pageWrite w).mem = s.mem := by
  have hlt : s.sec.page.length + 1 < 128 := by omega
  rw [State.pageWrite, if_neg (Nat.not_le.mpr h)]
  exact ⟨rfl, by simp (disch := decide) [Nat.mod_eq_of_lt hlt], rfl⟩

end

/-- Settles O46: an idle NVM unit takes each command that its conditions allow, a busy one refuses each, and a command that
is done ends with its effect or with an error. -/
theorem nvmCommandsRunAndEnd : Obligations.NvmCommandsRunAndEnd := by
  unfold Obligations.NvmCommandsRunAndEnd
  intro s
  refine ⟨fun hd hidle => ?_, fun hd hbusy slot i hi => ?_, fun w hd hroom => ?_, fun j hj hs => ⟨?_, ?_⟩⟩
  · have run (slot : Nat) (j : NvmJob) : s.NvmRuns (s.nvmIdle fun s => s.nvmRun j) j := by
      rw [State.nvmIdle_of_idle hidle]
      exact State.nvmRuns_nvmRun j
    exact ⟨fun hp ha => ⟨_, exec_managed hd rfl rfl, State.nvmRuns_erase hidle hp ha⟩,
      fun hp ha => ⟨_, exec_managed hd rfl rfl, State.nvmRuns_program hidle hp ha⟩,
      fun slot => ⟨⟨_, exec_managed hd rfl rfl, run slot _⟩,
        fun hv => ⟨_, exec_managed hd rfl rfl, State.nvmRuns_activate hidle hv⟩⟩,
      fun b hb hfit => ⟨_, exec_managed hd rfl rfl, State.nvmRuns_save hidle hb hfit⟩,
      ⟨_, exec_managed hd rfl rfl, run 0 _⟩⟩
  · exact ⟨_, exec_nvm_of_busy hd hbusy hi, s.fld_nvmResult 1 0, s.onlyRegs_nvmResult 1 0⟩
  · exact ⟨_, exec_managed hd rfl rfl, State.pageWrite_of_room w hroom⟩
  · obtain ⟨hresult, hcount⟩ := s.fld_nvmFail j
    exact ⟨_, congrArg Host.Outcome.next (State.nvmDone_of_job hj hs true), rfl, State.nvmEnd_idle _,
      (State.fld_nvmEnd _ (by decide)).trans hresult, (State.fld_nvmEnd _ (by decide)).trans hcount⟩
  · exact ⟨_, congrArg Host.Outcome.next (State.nvmDone_of_job hj hs false), rfl, State.nvmEnd_idle _,
      fun h => (State.flashBytes_nvmEnd ..).trans (State.nvmEffect_erases h),
      fun h hlen => (State.flashBytes_nvmEnd ..).trans (State.nvmEffect_programs h hlen)⟩

end Sys2Proof.Machine
end

section
/-! PROOF of O47: attestation reports form, are signed and are read (R562 to R565, R572). -/

namespace Sys2Proof.Machine

open Sys2Proof

section
variable {s t : State}

/-! ## What a report says does not depend on SEC.ATTSTAT -/

/-- A state that shows the same in every register but SEC.ATTSTAT. -/
def State.SameBesidesAttstat (s t : State) : Prop :=
  (∀ k, k ≠ Reg.SEC_ATTSTAT → t.reg k = s.reg k) ∧ t.clock = s.clock ∧ t.time = s.time ∧ t.start = s.start

theorem State.SameBesidesAttstat.imageDigest (h : s.SameBesidesAttstat t) : t.imageDigest = s.imageDigest := by
  refine congrArg (BitVec.ofNat 512) (List.foldr_ext _ _ _ fun k hk v => ?_)
  have hlt := List.mem_range.mp hk
  rw [h.1 _ (by unfold Reg.STA_DIG Reg.SEC_ATTSTAT; omega)]

theorem State.SameBesidesAttstat.nonceBytes (h : s.SameBesidesAttstat t) : t.nonceBytes = s.nonceBytes := by
  refine List.flatMap_congr fun k hk => ?_
  have hlt := List.mem_range.mp hk
  rw [h.1 _ (by unfold Reg.SEC_NONCE Reg.SEC_ATTSTAT; omega)]

theorem State.SameBesidesAttstat.fld (h : s.SameBesidesAttstat t) {k : Nat} (hk : k ≠ Reg.SEC_ATTSTAT) (lo n : Nat) :
    t.fld k lo n = s.fld k lo n := State.fld_of_reg (h.1 k hk) lo n

theorem State.SameBesidesAttstat.bit (h : s.SameBesidesAttstat t) {k : Nat} (hk : k ≠ Reg.SEC_ATTSTAT) (i : Nat) :
    t.bit k i = s.bit k i := State.bit_of_reg (h.1 k hk) i

theorem State.SameBesidesAttstat.now (h : s.SameBesidesAttstat t) : t.now = s.now := by
  have hlen : t.slotLen = s.slotLen := h.fld (by decide) ..
  obtain ⟨-, hclock, htime, -⟩ := h
  simp only [State.now, State.nextTu, State.slewStep, hlen, hclock, htime]

theorem State.SameBesidesAttstat.slotShown (h : s.SameBesidesAttstat t) : t.slotShown = s.slotShown := by
  have hstarted : t.started = s.started := by
    simp only [State.started, h.fld (k := Reg.STA_STEP) (by decide), h.2.1]
  have hcur : t.curSlot = s.curSlot := by
    simp only [State.curSlot, State.slot, h.1 Reg.TCK_SLOTNUM (by decide), h.2.1]
  simp only [State.slotShown, hstarted, hcur]

theorem State.SameBesidesAttstat.repairBytes (h : s.SameBesidesAttstat t) : t.repairBytes = s.repairBytes := by
  funext f
  have hfld := h.fld (k := Reg.ARC_LOCFORM) (by decide) 0 1
  have hbit := h.bit (k := Reg.ARC_LOCFORM) (by decide) 0
  simp only [State.repairBytes, State.formOf, hfld, hbit]

theorem State.SameBesidesAttstat.reportBody (h : s.SameBesidesAttstat t) (nonce : List Byte) (map : Bool) :
    t.reportBody nonce map = s.reportBody nonce map := by
  unfold State.reportBody
  have htu : t.tuState = s.tuState := h.fld (by decide) ..
  have hfld {k : Nat} (hk : k ≠ Reg.SEC_ATTSTAT) := h.fld hk
  have hbit {k : Nat} (hk : k ≠ Reg.SEC_ATTSTAT) := h.bit hk
  obtain ⟨hreg, hclock, -, hstart⟩ := id h
  simp (disch := decide) only [h.imageDigest, h.now, h.slotShown, h.repairBytes, htu, hfld, hbit, hreg, hclock, hstart]

/-! ## A request -/

/-- A report forms. -/
theorem State.requestReport_forms (hstep : 3 ≤ s.fld Reg.STA_STEP 0 4) (hid : s.bit Reg.SEC_ID 0 = true)
    (hnone : s.sec.forming = none) (l2 : Bool) (nonce : List Byte) (map : Bool) :
    s.requestReport l2 nonce map = { (s.setBit Reg.SEC_ATTSTAT 0 true) with
      sec := { s.sec with forming := some ⟨l2, s.reportBody nonce map⟩ } } := by
  unfold State.requestReport
  simp only [decide_eq_false (Nat.not_lt.mpr hstep), hid, hnone, Bool.not_true, Bool.or_self, Bool.false_eq_true, if_false,
    Option.isSome_none]

/-- A request while a report forms is counted as busy (R565). -/
theorem State.requestReport_busy (hstep : 3 ≤ s.fld Reg.STA_STEP 0 4) (hid : s.bit Reg.SEC_ID 0 = true)
    (hsome : s.sec.forming.isSome = true) (l2 : Bool) (nonce : List Byte) (map : Bool) :
    s.requestReport l2 nonce map = s.shortReport l2 1 := by
  unfold State.requestReport
  simp only [decide_eq_false (Nat.not_lt.mpr hstep), hid, hsome, Bool.not_true, Bool.or_self, Bool.false_eq_true, if_false,
    if_true]

theorem State.attReq_requests (hserved : s.served 9 = true) (hshadow : s.isShadow = false) {m : L2Msg}
    (hlen : m.len = 44) (hbody : m.body.length = 36) :
    s.attReq m = s.requestReport true (m.body.take 32) (beNat (m.body.drop 32) % 2 == 1) := by
  unfold State.attReq State.inNet
  simp only [hserved, hshadow, hlen, hbody, bne_self_eq_false, Bool.or_self, Bool.false_eq_true, if_false, if_true]

/-- What GO leaves before its request: no report to be read. -/
def State.withoutReport (s : State) : State :=
  { (s.setBit Reg.SEC_ATTSTAT 1 false) with sec := { s.sec with report := [], taken := 0 } }

variable (s)

theorem State.withoutReport_same : s.SameBesidesAttstat s.withoutReport :=
  ⟨fun _ hk => (State.reg_of_regs rfl _).trans (s.reg_setBit_apart 1 false hk), rfl, rfl, rfl⟩

theorem State.withoutReport_ready : s.withoutReport.bit Reg.SEC_ATTSTAT 1 = false := by
  simp (disch := decide) [State.withoutReport]

theorem State.attGo_eq (map : Bool) : s.attGo map = s.withoutReport.requestReport false s.nonceBytes map := by
  unfold State.attGo
  exact congrArg (s.withoutReport.requestReport false · map) s.withoutReport_same.nonceBytes

theorem State.withoutReport_request (hstep : 3 ≤ s.fld Reg.STA_STEP 0 4) (hid : s.bit Reg.SEC_ID 0 = true) :
    3 ≤ s.withoutReport.fld Reg.STA_STEP 0 4 ∧ s.withoutReport.bit Reg.SEC_ID 0 = true :=
  ⟨by rwa [s.withoutReport_same.fld (by decide)], by rwa [s.withoutReport_same.bit (by decide)]⟩

/-! ## A report that is ready -/

/-- The registers as a report of `n` bytes that is ready for I3C leaves them. -/
def State.showLength (s : State) (status n : Nat) : State :=
  ((s.setBit Reg.SEC_ATTSTAT 1 true).setFld Reg.SEC_ATTSTAT 2 2 status).setFld Reg.SEC_ATTSTAT 16 16 n

/-- The bytes of a report as they wait for I3C. -/
def State.holdReport (s : State) (bs : List Byte) : State :=
  ({ s with sec := { s.sec with report := bs, taken := 0 } }).announce 0xA2 (leBytes 2 bs.length ++ [0, 0])

theorem State.reg_holdReport (bs : List Byte) (k : Nat) : (s.holdReport bs).reg k = s.reg k := rfl

theorem State.holdReport_sec (bs : List Byte) : (s.holdReport bs).sec = { s.sec with report := bs, taken := 0 } := rfl

theorem State.showLength_sec (status n : Nat) : (s.showLength status n).sec = s.sec :=
  (((s.onlyRegs_self.setBit ..).setFld ..).setFld ..).congr State.sec fun _ => rfl

theorem State.showReport_eq (status : Nat) (bs : List Byte) :
    s.showReport status bs = (s.showLength status bs.length).holdReport bs := rfl

theorem State.reg_showReport (status : Nat) (bs : List Byte) (k : Nat) :
    (s.showReport status bs).reg k = (s.showLength status bs.length).reg k := by
  rw [s.showReport_eq, State.reg_holdReport]

theorem State.showReport_sec (status : Nat) (bs : List Byte) :
    (s.showReport status bs).sec = { s.sec with report := bs, taken := 0 } := by
  rw [s.showReport_eq, State.holdReport_sec, s.showLength_sec]

theorem State.showReport_shows (status : Nat) (bs : List Byte) :
    (s.showReport status bs).bit Reg.SEC_ATTSTAT 0 = s.bit Reg.SEC_ATTSTAT 0 ∧
    (s.showReport status bs).bit Reg.SEC_ATTSTAT 1 = true ∧
    (s.showReport status bs).fld Reg.SEC_ATTSTAT 2 2 = status % 4 := by
  rw [State.bit_of_reg (s.reg_showReport ..), State.bit_of_reg (s.reg_showReport ..),
    State.fld_of_reg (s.reg_showReport ..)]
  simp (disch := decide) [State.showLength]

theorem State.showReport_counts (status : Nat) (bs : List Byte) (lo n : Nat) :
    (s.showReport status bs).fld Reg.SEC_CNT lo n = s.fld Reg.SEC_CNT lo n := by
  rw [State.fld_of_reg (s.reg_showReport ..)]
  simp (disch := decide) [State.showLength]

theorem State.shortReport_busy : (s.shortReport false 1).sec.forming = s.sec.forming ∧
    (s.shortReport false 1).fld Reg.SEC_CNT 16 8 = min (s.fld Reg.SEC_CNT 16 8 + 1) 255 ∧
    (s.shortReport false 1).fld Reg.SEC_ATTSTAT 2 2 = 1 := by
  have hform : s.shortReport false 1 = (s.bump Reg.SEC_CNT 16 8 1).showReport 1 (leBytes 2 1 ++ leBytes 2 1 ++ leBytes 4 8) := rfl
  have hcount := s.fld_bump_same (k := Reg.SEC_CNT) (v := 1) (by decide : 16 + 8 ≤ 32)
  have hsec := s.bump_sec Reg.SEC_CNT 16 8 1
  rw [hform]
  generalize s.bump Reg.SEC_CNT 16 8 1 = u at hcount hsec
  exact ⟨by rw [u.showReport_sec, hsec], (u.showReport_counts ..).trans hcount, (u.showReport_shows ..).2.2⟩

theorem State.sendReport_form (bs : List Byte) : s.sendReport bs = { s with net := (s.sendReport bs).net } := by
  unfold State.sendReport State.inNet
  split <;> rfl

/-- What REPORT_READY leaves before the report is returned: one more report counted, none that forms. -/
def State.reportFormed (s : State) : State :=
  ({ (s.setBit Reg.SEC_ATTSTAT 0 false) with sec := { s.sec with forming := none } }).bump Reg.SEC_CNT 0 16 1

theorem State.reportFormed_shows : s.reportFormed.bit Reg.SEC_ATTSTAT 0 = false ∧
    s.reportFormed.fld Reg.SEC_CNT 0 16 = min (s.fld Reg.SEC_CNT 0 16 + 1) 65535 := by
  simp (disch := decide) [State.reportFormed]

variable {s}

/-- The bytes of a report with its signature and the padding byte (R563, R564). -/
def Report.signed (r : Report) : List Byte := r.body ++ Config.mldsaSign (Config.sha3 r.body) ++ [0]

theorem State.reportReady_of_forming {r : Report} (h : s.sec.forming = some r) :
    s.reportReady = if r.l2 then s.reportFormed.sendReport r.signed else s.reportFormed.showReport 0 r.signed := by
  unfold State.reportReady
  rw [h]
  rfl

theorem State.reportReady_returns {r : Report} (h : s.sec.forming = some r) :
    s.reportReady.sec.forming = none ∧ s.reportReady.bit Reg.SEC_ATTSTAT 0 = false ∧
      s.reportReady.fld Reg.SEC_CNT 0 16 = min (s.fld Reg.SEC_CNT 0 16 + 1) 65535 ∧
      (r.l2 = false → s.reportReady.bit Reg.SEC_ATTSTAT 1 = true ∧ s.reportReady.sec.taken = 0 ∧
        s.reportReady.sec.report = r.signed) := by
  obtain ⟨hforms, hcount⟩ := s.reportFormed_shows
  have hnone : s.reportFormed.sec.forming = none := rfl
  rw [State.reportReady_of_forming h]
  generalize s.reportFormed = u at hforms hcount hnone
  cases r.l2 with
  | true =>
    rw [if_pos rfl, u.sendReport_form]
    exact ⟨hnone, hforms, hcount, nofun⟩
  | false =>
    obtain ⟨hkept, hready, -⟩ := u.showReport_shows 0 r.signed
    rw [if_neg Bool.false_ne_true]
    exact ⟨hnone, hkept.trans hforms, (u.showReport_counts ..).trans hcount, fun _ => ⟨hready, rfl, rfl⟩⟩

end

/-- Settles O47: a request outside a report that forms notes its body, one while a report forms is counted, and a report
that is ready is shown with its signature. -/
theorem reportsFormAndAreRead : Obligations.ReportsFormAndAreRead := by
  unfold Obligations.ReportsFormAndAreRead
  intro s
  refine ⟨fun hstep hid hnone => ⟨fun m hserved hshadow hlen hbody => ?_, fun map hd => ?_⟩,
    fun map hstep hid hsome hd => ?_, fun r hr => ?_, fun hd => ?_⟩
  · refine ⟨_, congrArg Host.Outcome.next ((State.attReq_requests hserved hshadow hlen hbody).trans
      (State.requestReport_forms hstep hid hnone ..)), ?_, rfl, rfl⟩
    simp (disch := decide)
  · obtain ⟨hstep', hid'⟩ := s.withoutReport_request hstep hid
    have hready := s.withoutReport_ready
    have hbody := s.withoutReport_same.reportBody s.nonceBytes map
    have hsec : s.withoutReport.sec.report = [] := rfl
    refine ⟨_, exec_managed hd rfl ((s.attGo_eq map).trans (State.requestReport_forms hstep' hid' hnone ..)), ?_⟩
    generalize s.withoutReport = u at hready hbody hsec
    simp (disch := decide) [hready, hbody, hsec]
  · obtain ⟨hstep', hid'⟩ := s.withoutReport_request hstep hid
    refine ⟨_, exec_managed hd rfl ((s.attGo_eq map).trans (State.requestReport_busy hstep' hid' hsome ..)), ?_⟩
    have hcount : s.withoutReport.fld Reg.SEC_CNT 16 8 = s.fld Reg.SEC_CNT 16 8 := s.withoutReport_same.fld (by decide) ..
    have hforming : s.withoutReport.sec.forming = s.sec.forming := rfl
    generalize s.withoutReport = u at hcount hforming
    obtain ⟨hsec, hcounted, hstatus⟩ := u.shortReport_busy
    exact ⟨hsec.trans hforming, by rw [hcounted, hcount], hstatus⟩
  · exact ⟨_, rfl, State.reportReady_returns hr⟩
  · exact ⟨_, exec_managed hd rfl rfl, rfl, s.reg_setReg_same .., rfl, rfl⟩

end Sys2Proof.Machine
end

section
/-! SUPPORT. What fault records, fatal faults and the closing of a region's gates leave of the registers (R32, R46, R465,
R466). -/

namespace Sys2Proof.Machine

open Sys2Proof

section
variable (s : State)

/-! ## Fault records -/

theorem State.queueRecord_discard (r : Record) : (s.queueRecord r).faults.discard = s.faults.discard := by
  have hbump (lo n v : Nat) : (s.bump Reg.FLT_LOST lo n v).faults.discard = s.faults.discard := rfl
  unfold State.queueRecord
  extract_lets q
  split
  · rfl
  · split
    · exact hbump ..
    · split
      · split <;> exact hbump ..
      · rfl

theorem State.goFatal_discard (code : Nat) : (s.goFatal code).faults.discard = s.faults.discard := by
  unfold State.goFatal
  extract_lets p u v
  have hv : v.faults.discard = s.faults.discard := (apply_ite (fun t : State => t.faults.discard) ..).trans (ite_self _)
  clear_value v
  split <;> exact hv

/-- A fault record leaves the discard of management actions alone. -/
theorem State.raise_discard (code : Nat) (cls : FaultClass) (loc : BitVec 64) (d0 d1 : Nat) :
    (s.raise code cls loc d0 d1).faults.discard = s.faults.discard := by
  unfold State.raise
  extract_lets form t r u
  have hu : u.faults.discard = s.faults.discard := s.queueRecord_discard r
  clear_value u
  cases cls with
  | masked => exact hu
  | detected => exact hu
  | fatal => exact (State.goFatal_discard _ code).trans hu

/-- A detected fault changes nothing but registers and the fault controller. -/
theorem State.raise_detected_form (code : Nat) (loc : BitVec 64) (d0 d1 : Nat) : s.raise code .detected loc d0 d1 =
    { s with regs := (s.raise code .detected loc d0 d1).regs, faults := (s.raise code .detected loc d0 d1).faults } := by
  have hpins : (s.raise code .detected loc d0 d1).pins = s.pins := by
    unfold State.raise
    extract_lets form t r u
    have hu : u.pins = s.pins := s.queueRecord_pins r
    clear_value u
    exact hu
  exact (s.raise_form code .detected loc d0 d1).trans (by rw [hpins])

theorem State.fld_raise_detected (code : Nat) (loc : BitVec 64) (d0 d1 : Nat) :
    (s.raise code .detected loc d0 d1).fld Reg.FLT_CNTD 0 32 = min (s.fld Reg.FLT_CNTD 0 32 + 1) (2 ^ 32 - 1) := by
  unfold State.raise
  extract_lets form t r u
  have hu : u.fld Reg.FLT_CNTD 0 32 = s.fld Reg.FLT_CNTD 0 32 := State.fld_of_reg (s.reg_queueRecord r (by decide)) _ _
  clear_value u
  rw [← hu]
  exact u.fld_bump_same (by decide)

theorem State.reg_with_faults (f : FaultUnit) (k : Nat) : ({ s with faults := f } : State).reg k = s.reg k := rfl

/-- FAULT_N and TWIN_OK fall, and a start goes to management-only operation (R466, R545). -/
def State.lowerFaultN (s : State) : State := { s with pins := { s.pins with faultN := false, twinOk := false } }

def State.endStart (s : State) : State := if s.started then s else s.setBit Reg.STA_STEP 4 true

/-- The first fatal fault is kept with its word of FLT.FATAL (R466). -/
def State.holdFatal (s : State) (w : Word) : State :=
  if s.bit Reg.FLT_FATAL 31 then s
  else { (s.setReg Reg.FLT_FATAL w) with faults := { s.faults with fatalSlot := some s.curSlot } }

theorem State.goFatal_eq (code : Nat) :
    s.goFatal code = s.lowerFaultN.endStart.holdFatal (BitVec.ofNat 32 (code + 2 ^ 31)) := by
  unfold State.goFatal
  generalize BitVec.ofNat 32 (code + 2 ^ 31) = w
  rfl

theorem State.endStart_pins : s.endStart.pins = s.pins := by
  unfold State.endStart
  split <;> rfl

theorem State.holdFatal_pins (w : Word) : (s.holdFatal w).pins = s.pins := by
  unfold State.holdFatal
  split <;> rfl

theorem State.bit_holdFatal {w : Word} (h : bitOf w 31 = true) : (s.holdFatal w).bit Reg.FLT_FATAL 31 = true := by
  have hset (u : State) (f : FaultUnit) :
    ({ (u.setReg Reg.FLT_FATAL w) with faults := f } : State).reg Reg.FLT_FATAL = w := u.reg_setReg_same ..
  unfold State.holdFatal
  split
  · assumption
  · exact (congrArg (bitOf · 31) (hset ..)).trans h

theorem bitOf_fatalWord {code : Nat} (h : code < 2 ^ 31) : bitOf (BitVec.ofNat 32 (code + 2 ^ 31)) 31 = true := by
  unfold bitOf
  rw [BitVec.getLsbD_ofNat, Nat.add_comm, Nat.testBit_two_pow_add_eq, Nat.testBit_lt_two_pow h]
  rfl

/-- A fatal fault shows in FLT.FATAL and lowers FAULT_N. -/
theorem State.goFatal_shows (code : Nat) (h : code < 2 ^ 31) :
    (s.goFatal code).bit Reg.FLT_FATAL 31 = true ∧ (s.goFatal code).pins.faultN = false := by
  rw [s.goFatal_eq]
  refine ⟨State.bit_holdFatal _ (bitOf_fatalWord h), ?_⟩
  rw [State.holdFatal_pins, State.endStart_pins]
  rfl

theorem State.raise_fatal_shows {code : Nat} (h : code < 2 ^ 31) (loc : BitVec 64) (d0 d1 : Nat) :
    (s.raise code .fatal loc d0 d1).bit Reg.FLT_FATAL 31 = true ∧ (s.raise code .fatal loc d0 d1).pins.faultN = false := by
  unfold State.raise
  exact State.goFatal_shows _ code h

/-! ## The gates of a region -/

theorem State.reg_voidEntry (lag r buf cause : Nat) {k : Nat} (hk : k ≠ Reg.LGR_TOTAL) :
    (s.voidEntry lag r buf cause).reg k = s.reg k := by
  have hbump (s : State) : (s.bump Reg.LGR_TOTAL 0 32 1).reg k = s.reg k := s.reg_bump_other _ _ _ hk
  unfold State.voidEntry
  dsimp only
  split
  · split
    · rfl
    · split <;> exact hbump _
  · exact hbump s

theorem State.reg_voidRegion (r cause : Nat) {k : Nat} (hk : k ≠ Reg.LGR_TOTAL) : (s.voidRegion r cause).reg k = s.reg k :=
  foldl_keeps (fun t : State => t.reg k) (fun t _ => t.reg_voidEntry 0 r _ cause hk) _ s

/-- What the closing of gates writes in registers: the gate, and the counts of void buffers and aborted jobs. -/
theorem State.reg_closeGate_eq (r cause : Nat) {k : Nat} (hk : abortSpares k) (hv : k ≠ Reg.LGR_TOTAL) :
    (s.closeGate r cause).reg k = (s.setBit Reg.SPN_GATE r true).reg k := by
  unfold State.closeGate
  extract_lets u v w
  have hw : w.reg k = u.reg k := (v.reg_abortWhere _ _ hk).trans (u.reg_voidRegion r cause hv)
  clear_value w
  exact hw

abbrev gateSpares (k : Nat) : Prop := abortSpares k ∧ k ≠ Reg.LGR_TOTAL ∧ k ≠ Reg.SPN_GATE

theorem State.reg_closeGate (r cause : Nat) {k : Nat} (hk : gateSpares k) : (s.closeGate r cause).reg k = s.reg k :=
  (s.reg_closeGate_eq r cause hk.1 hk.2.1).trans (s.reg_setBit_other _ _ hk.2.2)

theorem State.fenced_closeGate {r : Nat} (cause : Nat) (hr : r < 32) : (s.closeGate r cause).fenced r = true :=
  (State.bit_of_reg (s.reg_closeGate_eq (k := Reg.SPN_GATE) r cause (by decide) (by decide)) r).trans (s.bit_setBit_own true hr)

/-- The registers that a fault of a region leaves alone. -/
abbrev faultSpares (k : Nat) : Prop := gateSpares k ∧ k ≠ Reg.FLT_LOST ∧ k ≠ Reg.FLT_CNTD ∧ k ≠ Reg.FLT_CNTM

/-- A region whose buffers of the next slot are void as well (R34). -/
def State.voidNext (s : State) (r : Nat) : State :=
  { s with faults := { s.faults with voidNext := s.faults.voidNext ++ [r] } }

/-- In SOLO the fault controller asks for a switch (R34). -/
def State.askSwitch (s : State) : State :=
  if s.fld Reg.TWN_CFG 0 2 = 0 then { s with faults := { s.faults with switchTo := s.excluding } } else s

theorem State.reg_voidNext (r k : Nat) : (s.voidNext r).reg k = s.reg k := rfl

theorem State.reg_askSwitch (k : Nat) : s.askSwitch.reg k = s.reg k := by
  unfold State.askSwitch
  split <;> rfl

theorem State.fenceFault_of_open {r : Nat} (hf : s.fenced r = false) (cause : Nat) : s.fenceFault r cause =
    (((s.closeGate r cause).voidNext r).raise 0x030A .detected (regionLoc r) 0 0).askSwitch := by
  unfold State.fenceFault
  rw [if_neg (by simp [hf])]
  generalize s.closeGate r cause = u
  have hraise (v : State) : (if (v.fld Reg.TWN_CFG 0 2) = 0 then
    { v with faults := { v.faults with switchTo := v.excluding } } else v) = v.askSwitch := rfl
  exact hraise ((u.voidNext r).raise 0x030A .detected (regionLoc r) 0 0)

/-- What a fence by the fault unit leaves in registers beside those of its record. -/
theorem State.reg_fenceFault_eq {r : Nat} (cause : Nat) {k : Nat} (hf : s.fenced r = false) (hl : k ≠ Reg.FLT_LOST)
    (hc : k ≠ Reg.FLT_CNTD) : (s.fenceFault r cause).reg k = (s.closeGate r cause).reg k := by
  rw [s.fenceFault_of_open hf, State.reg_askSwitch, State.reg_raise_detected _ _ _ _ _ hl hc, State.reg_voidNext]

theorem State.reg_fenceFault (r cause : Nat) {k : Nat} (hk : faultSpares k) : (s.fenceFault r cause).reg k = s.reg k := by
  obtain ⟨hg, hl, hc, -⟩ := hk
  cases hf : s.fenced r with
  | false => exact (s.reg_fenceFault_eq cause hf hl hc).trans (s.reg_closeGate r cause hg)
  | true => rw [State.fenceFault, if_pos hf]

theorem State.fenced_fenceFault {r : Nat} (cause : Nat) (hr : r < 32) : (s.fenceFault r cause).fenced r = true := by
  cases hf : s.fenced r with
  | false =>
    exact (State.bit_of_reg (s.reg_fenceFault_eq cause hf (by decide) (by decide)) r).trans (s.fenced_closeGate cause hr)
  | true => rwa [State.fenceFault, if_pos hf]

theorem State.reg_blockFault (r cls idx cause : Nat) {k : Nat} (hk : faultSpares k) :
    (s.blockFault r cls idx cause).reg k = s.reg k := by
  unfold State.blockFault
  extract_lets _ _ _ _ u
  split
  · exact u.reg_fenceFault r cause hk
  · rfl

theorem State.reg_report (r cls idx : Nat) {k : Nat} (hk : faultSpares k) : (s.report r cls idx).1.reg k = s.reg k := by
  unfold State.report
  extract_lets _ _ _ u
  split
  · rfl
  split
  · rfl
  · exact u.reg_raise_detected _ _ _ _ hk.2.1 hk.2.2.1

theorem State.reg_blockRaise (r cls idx code : Nat) (loc : BitVec 64) (d0 d1 : Nat) {k : Nat} (hk : faultSpares k) :
    (s.blockRaise r cls idx code loc d0 d1).reg k = s.reg k := by
  have hrep := s.reg_report r cls idx hk
  unfold State.blockRaise
  split
  next u h =>
    rw [h] at hrep
    exact ((State.reg_blockFault _ r cls idx code hk).trans (u.reg_raise_detected _ _ _ _ hk.2.1 hk.2.2.1)).trans hrep
  next u h => rwa [h] at hrep

theorem State.reg_eccRecord (unc : Bool) (r cls idx : Nat) (loc : BitVec 64) (addr hi : Nat) {k : Nat} (hk : faultSpares k) :
    (s.eccRecord unc r cls idx loc addr hi).reg k = s.reg k := by
  unfold State.eccRecord
  split
  next f u h =>
  have hu : u.reg k = s.reg k := (congrArg (fun x : BitVec 64 × State => x.2.reg k) h).symm.trans rfl
  split
  · exact (u.reg_blockRaise _ _ _ _ _ _ _ hk).trans hu
  · exact (u.reg_raise_masked _ _ _ _ hk.2.1 hk.2.2.2).trans hu

/-! ## The check bits of the scratchpad -/

/-- The registers that SECDED errors of the scratchpad leave alone: the counts and the locations of the regions stand at
two offsets of their spaces (R296). -/
abbrev eccSpares (k : Nat) : Prop := faultSpares k ∧ k % 2 ^ 24 ≠ 0x1E00C ∧ k % 2 ^ 24 ≠ 0x1E010

theorem eccSpares.apart {k : Nat} (hk : eccSpares k) (r : Nat) : k ≠ Reg.SPD_ECC r ∧ k ≠ Reg.SPD_ECCLOC r := by
  obtain ⟨-, hcnt, hloc⟩ := hk
  unfold Reg.SPD_ECC Reg.SPD_ECCLOC
  omega

theorem State.reg_padEcc (w e : Nat) {k : Nat} (hk : eccSpares k) : (s.padEcc w e).reg k = s.reg k := by
  unfold State.padEcc
  extract_lets r bank word u v x
  obtain ⟨hcnt, hloc⟩ := hk.apart r
  have hu : u.reg k = s.reg k := s.reg_bump_other _ _ _ hcnt
  have hv : v.reg k = u.reg k :=
    (apply_ite (fun t : State => t.reg k) ..).trans ((congrArg (ite _ _) (u.reg_setReg_other _ hloc)).trans (ite_self _))
  have hx : x.reg k = s.reg k := s.reg_bump_other _ _ _ hcnt
  split
  · exact (v.reg_eccRecord _ _ _ _ _ _ _ hk.1).trans (hv.trans hu)
  · exact (x.reg_eccRecord _ _ _ _ _ _ _ hk.1).trans hx

theorem State.reg_renewWords (ps : List Place) {k : Nat} (hk : eccSpares k) : (s.renewWords ps).reg k = s.reg k :=
  foldl_keeps (fun t : State => t.reg k) (fun t x => by
    have hclean (u : State) (m : Memories) : ({ u with mem := m } : State).reg k = u.reg k := rfl
    dsimp only
    split
    · rfl
    split
    · rfl
    split
    · exact t.reg_padEcc _ _ hk
    · exact (hclean ..).trans (t.reg_padEcc _ _ hk)) _ s

theorem State.remark_regs (g : Nat × Nat) : (s.remark g).regs = s.regs := by
  unfold State.remark State.setHallmark
  split <;> rfl

/-! ## Buffers that are complete -/

theorem State.cell_setCell (lag r buf : Nat) (x : LedgerCell) : (s.setCell lag r buf x).cell lag r buf = x :=
  SMap.read_write_same

theorem State.cell_complete (r : Nat) {buf : Nat} (h : buf ≠ 0xFFF) : ((s.complete none r buf).cell 0 r buf).complete = true := by
  rw [State.complete, if_neg h]
  exact congrArg LedgerCell.complete (s.cell_setCell ..)

end

end Sys2Proof.Machine
end

section
/-! PROOF of O42: POP, lockstep mismatches, the rotating self-test and the ledger extract (R464, R467, R471, R476). -/

namespace Sys2Proof.Machine

open Sys2Proof

section
variable (s : State)

/-! ## Lockstep mismatches (R467) -/

theorem State.lockstep_of_fatal {block : Nat} (h : block = 3 ∨ block = 5) (action : Bool) :
    (s.lockstep block action).bit Reg.FLT_FATAL 31 = true ∧ (s.lockstep block action).pins.faultN = false ∧
      (s.lockstep block action).faults.discard = s.faults.discard := by
  have hif : s.lockstep block action = s.raise 0x020A .fatal (blockLoc 13 (lockstepClass block) 0) 0 0 := by
    unfold State.lockstep
    exact if_pos (by simp; omega)
  rw [hif]
  obtain ⟨hfatal, hball⟩ := s.raise_fatal_shows (code := 0x020A) (by decide) (blockLoc 13 (lockstepClass block) 0) 0 0
  exact ⟨hfatal, hball, s.raise_discard ..⟩

/-- A mismatch that is a detected fault: the management action of that cycle is discarded, the sequencer's step is
repeated. -/
def State.noteMismatch (s : State) (action : Bool) : State :=
  { s with faults := { s.faults with discard := s.faults.discard || action, repeatStep := true } }

theorem State.lockstep_of_detected {block : Nat} (h : block < 5) (h3 : block ≠ 3) (action : Bool) :
    s.lockstep block action =
      (s.raise 0x020A .detected (blockLoc 13 (lockstepClass block) 0) 0 0).noteMismatch action := by
  unfold State.lockstep
  exact if_neg (by simp; omega)

theorem State.lockstep_detected_shows {block : Nat} (h : block < 5) (h3 : block ≠ 3) (action : Bool) :
    s.lockstep block action = { s with
      regs := (s.lockstep block action).regs, faults := (s.lockstep block action).faults } ∧
    (s.lockstep block action).faults.discard = (s.faults.discard || action) ∧
    (s.lockstep block action).faults.repeatStep = true ∧
    (s.lockstep block action).fld Reg.FLT_CNTD 0 32 = min (s.fld Reg.FLT_CNTD 0 32 + 1) (2 ^ 32 - 1) := by
  rw [s.lockstep_of_detected h h3]
  have hform := s.raise_detected_form 0x020A (blockLoc 13 (lockstepClass block) 0) 0 0
  have hdiscard := s.raise_discard 0x020A .detected (blockLoc 13 (lockstepClass block) 0) 0 0
  have hcount := s.fld_raise_detected 0x020A (blockLoc 13 (lockstepClass block) 0) 0 0
  generalize s.raise 0x020A .detected (blockLoc 13 (lockstepClass block) 0) 0 0 = u at hform hdiscard hcount
  refine ⟨congrArg (·.noteMismatch action) hform, by rw [← hdiscard]; rfl, rfl, hcount⟩

/-! ## The rotating self-test (R476) -/

theorem State.fld_bumpIf_selfTest (done : Bool) : (s.bumpIf done Reg.FLT_STEST 0 16 1).fld Reg.FLT_STEST 0 16 =
    min (s.fld Reg.FLT_STEST 0 16 + if done = true then 1 else 0) 65535 := by
  cases done with
  | true => exact s.fld_bump_same (by decide)
  | false => exact (Nat.min_eq_left (Nat.le_of_lt_succ (s.fld_lt ..))).symm

/-- A failing element is counted and recorded; a failing checker fences its region. -/
theorem State.selfTest_of_failure (done : Bool) (l : Nat) (checker : Option Nat) :
    (s.selfTest done (some l) checker).fld Reg.FLT_STEST 16 16 = min (s.fld Reg.FLT_STEST 16 16 + 1) 65535 ∧
    (∀ r, checker = some r → r < 13 → (s.selfTest done (some l) checker).fenced r = true) ∧
    (s.selfTest done (some l) checker).clock = s.clock := by
  unfold State.selfTest
  dsimp only
  have hdone : (s.bumpIf done Reg.FLT_STEST 0 16 1).fld Reg.FLT_STEST 16 16 = s.fld Reg.FLT_STEST 16 16 := by
    cases done with
    | true => exact s.fld_bump_off (by decide) (by decide) (.inr (by decide))
    | false => rfl
  have hclock : (s.bumpIf done Reg.FLT_STEST 0 16 1).clock = s.clock := State.bumpIf_clock ..
  generalize s.bumpIf done Reg.FLT_STEST 0 16 1 = t at hdone hclock
  have hfld := (t.bump Reg.FLT_STEST 16 16 1).reg_raise_detected 0x0901 (BitVec.ofNat 64 l) 0 0 (k := Reg.FLT_STEST)
    (by decide) (by decide)
  have hcount := (State.fld_of_reg hfld 16 16).trans (t.fld_bump_same (by decide))
  have hclk := ((t.bump Reg.FLT_STEST 16 16 1).raise_clock 0x0901 .detected (BitVec.ofNat 64 l) 0 0).trans (t.bump_clock ..)
  generalize (t.bump Reg.FLT_STEST 16 16 1).raise 0x0901 .detected (BitVec.ofNat 64 l) 0 0 = u at hcount hclk
  rw [hdone] at hcount
  rw [hclock] at hclk
  cases checker with
  | none => exact ⟨hcount, nofun, hclk⟩
  | some r =>
    dsimp only
    split
    next hr =>
      refine ⟨(State.fld_of_reg (u.reg_fenceFault r 0x0901 (by decide)) 16 16).trans hcount, fun r' e _ => ?_,
        (u.fenceFault_clock ..).trans hclk⟩
      cases e
      exact u.fenced_fenceFault 0x0901 (by omega)
    next hr => exact ⟨hcount, fun r' e hr' => absurd hr' (by cases e; exact hr), hclk⟩

/-! ## The ledger extract (R464) -/

/-! ### That the extract has been formed is not forgotten as its buffer is written -/

theorem State.voidEntry_extracted (lag r buf cause : Nat) :
    (s.voidEntry lag r buf cause).ledger.extracted = s.ledger.extracted := by
  unfold State.voidEntry
  dsimp only
  split
  · split
    · rfl
    · split <;> rfl
  · rfl

theorem State.closeGate_extracted (r cause : Nat) : (s.closeGate r cause).ledger.extracted = s.ledger.extracted := by
  unfold State.closeGate
  extract_lets u v w
  have hv : v.ledger.extracted = u.ledger.extracted :=
    foldl_keeps (fun t : State => t.ledger.extracted) (fun t _ => t.voidEntry_extracted ..) _ u
  have hw : w.ledger = v.ledger := v.abortWhere_ledger ..
  clear_value w
  exact (congrArg Ledger.extracted hw).trans hv

theorem State.askSwitch_ledger : s.askSwitch.ledger = s.ledger := by
  unfold State.askSwitch
  split <;> rfl

theorem State.voidNext_ledger (r : Nat) : (s.voidNext r).ledger = s.ledger := rfl

theorem State.fenceFault_extracted (r cause : Nat) : (s.fenceFault r cause).ledger.extracted = s.ledger.extracted := by
  cases hf : s.fenced r with
  | false =>
    rw [s.fenceFault_of_open hf, State.askSwitch_ledger, State.raise_ledger, State.voidNext_ledger]
    exact s.closeGate_extracted r cause
  | true => rw [State.fenceFault, if_pos hf]

theorem State.blockRaise_extracted (r cls idx code : Nat) (loc : BitVec 64) (d0 d1 : Nat) :
    (s.blockRaise r cls idx code loc d0 d1).ledger.extracted = s.ledger.extracted := by
  have hrep := s.report_keeps State.ledger (fun _ _ _ _ => rfl) r cls idx
  unfold State.blockRaise
  split
  next u h =>
    rw [h] at hrep
    have hraise : (u.raise code .detected loc d0 d1).ledger = s.ledger := (u.raise_ledger ..).trans hrep
    generalize u.raise code .detected loc d0 d1 = v at hraise
    unfold State.blockFault
    extract_lets _ _ _ _ w
    rw [← hraise]
    split
    · exact w.fenceFault_extracted r code
    · rfl
  next u h => exact congrArg Ledger.extracted (by rwa [h] at hrep)

theorem State.eccRecord_extracted (unc : Bool) (r cls idx : Nat) (loc : BitVec 64) (addr hi : Nat) :
    (s.eccRecord unc r cls idx loc addr hi).ledger.extracted = s.ledger.extracted := by
  unfold State.eccRecord
  split
  next f u h =>
  have hu : u.ledger = s.ledger := (congrArg (fun x : BitVec 64 × State => x.2.ledger) h).symm.trans rfl
  split
  · rw [u.blockRaise_extracted, hu]
  · rw [u.raise_ledger, hu]

theorem State.padEcc_extracted (w e : Nat) : (s.padEcc w e).ledger.extracted = s.ledger.extracted := by
  unfold State.padEcc
  extract_lets r bank word u v x
  have hu : u.ledger = s.ledger := s.bump_ledger ..
  clear_value u
  have hv : v.ledger = s.ledger :=
    ((apply_ite State.ledger ..).trans ((congrArg (ite _ _) (u.setReg_ledger ..)).trans (ite_self _))).trans hu
  have hx : x.ledger = s.ledger := s.bump_ledger ..
  clear_value x
  split
  · exact (v.eccRecord_extracted ..).trans (congrArg Ledger.extracted hv)
  · exact (x.eccRecord_extracted ..).trans (congrArg Ledger.extracted hx)

theorem State.renewWords_extracted (ps : List Place) : (s.renewWords ps).ledger.extracted = s.ledger.extracted :=
  foldl_keeps (fun t : State => t.ledger.extracted) (fun t x => by
    dsimp only
    split
    · rfl
    split
    · rfl
    split
    · exact t.padEcc_extracted ..
    · exact t.padEcc_extracted x.1 _) _ s

theorem State.remark_ledger (g : Nat × Nat) : (s.remark g).ledger = s.ledger := by
  unfold State.remark State.setHallmark
  split <;> rfl

theorem State.complete_extracted (r buf : Nat) : (s.complete none r buf).ledger.extracted = s.ledger.extracted := by
  unfold State.complete
  split <;> rfl

/-! ### The extract -/

/-- The extract that is formed, with the count of entries that do not fit. -/
def State.takeExtract (s : State) : State :=
  ({ s with ledger := { s.ledger with extracted := true } } : State).bumpIf (255 < s.ledger.closed.length)
    Reg.LGR_XOVF 0 16 1

/-- The bytes of an extract and their hallmarks. -/
def State.storeExtract (s : State) (r a : Nat) (bs : List Byte) : State :=
  let n := (bs.length + 255) / 256
  let k := padKey r a
  let s := s.renewWords ((List.range (256 * n)).map fun i => Place.pad r (a + i))
  let s := { s with mem := { s.mem with
    pad := SMap.writeList 0 s.mem.pad k (bs ++ List.replicate (256 * n - bs.length) 0) } }
  (List.range n).foldl (fun s g => s.remark (0, k / 256 + g)) s

theorem State.writeExtract_eq (hrun : s.clock.running = true) (hnew : s.ledger.extracted = false) :
    s.writeExtract =
      if !s.takeExtract.served (s.fld Reg.LGR_XBUF 25 3) then s.takeExtract.bump Reg.LGR_XOVF 16 16 1
      else (s.takeExtract.storeExtract (s.fld Reg.LGR_XBUF 25 3) (s.fld Reg.LGR_XBUF 0 25)
        s.takeExtract.extractBytes).complete none (s.fld Reg.LGR_XBUF 25 3)
        ((s.takeExtract.storeExtract (s.fld Reg.LGR_XBUF 25 3) (s.fld Reg.LGR_XBUF 0 25)
          s.takeExtract.extractBytes).fld Reg.LGR_XNUM 0 12) := by
  unfold State.writeExtract
  rw [if_neg (by simp [hrun, hnew])]
  rfl

theorem State.reg_takeExtract {k : Nat} (h : k ≠ Reg.LGR_XOVF) : s.takeExtract.reg k = s.reg k := by
  unfold State.takeExtract State.bumpIf
  split
  · exact State.reg_bump_other _ _ _ _ h
  · rfl

theorem State.takeExtract_extracted : s.takeExtract.ledger.extracted = true :=
  congrArg Ledger.extracted (State.bumpIf_ledger ..)

theorem State.takeExtract_mem : s.takeExtract.mem = s.mem := State.bumpIf_mem ..

theorem State.served_takeExtract (r : Nat) : s.takeExtract.served r = s.served r := by
  have hbit (k i : Nat) (h : k ≠ Reg.LGR_XOVF) := State.bit_of_reg (s.reg_takeExtract h) i
  simp (disch := decide) only [State.served, State.fenced, State.powered, hbit]

theorem State.reg_storeExtract (r a : Nat) (bs : List Byte) {k : Nat} (hk : eccSpares k) :
    (s.storeExtract r a bs).reg k = s.reg k :=
  (foldl_keeps (fun t : State => t.reg k) (fun t _ => State.reg_of_regs (t.remark_regs _) k) _ _).trans
    (s.reg_renewWords _ hk)

theorem State.storeExtract_extracted (r a : Nat) (bs : List Byte) :
    (s.storeExtract r a bs).ledger.extracted = s.ledger.extracted :=
  (foldl_keeps (fun t : State => t.ledger.extracted) (fun t _ => congrArg Ledger.extracted (t.remark_ledger _)) _ _).trans
    (s.renewWords_extracted _)

/-- The extract of a ledger that was closed is formed once, and its buffer completes where its region answers. -/
theorem State.writeExtract_forms (hrun : s.clock.running = true) (hnew : s.ledger.extracted = false) :
    s.writeExtract.ledger.extracted = true ∧
    (s.served (s.fld Reg.LGR_XBUF 25 3) = true → s.fld Reg.LGR_XNUM 0 12 ≠ 0xFFF →
      (s.writeExtract.cell 0 (s.fld Reg.LGR_XBUF 25 3) (s.fld Reg.LGR_XNUM 0 12)).complete = true) ∧
    (s.served (s.fld Reg.LGR_XBUF 25 3) = false → s.writeExtract.mem = s.mem) := by
  have hnum : (s.takeExtract.storeExtract (s.fld Reg.LGR_XBUF 25 3) (s.fld Reg.LGR_XBUF 0 25)
      s.takeExtract.extractBytes).fld Reg.LGR_XNUM 0 12 = s.fld Reg.LGR_XNUM 0 12 :=
    State.fld_of_reg ((State.reg_storeExtract _ _ _ _ (by decide)).trans (s.reg_takeExtract (by decide))) 0 12
  rw [s.writeExtract_eq hrun hnew, hnum, s.served_takeExtract]
  cases s.served (s.fld Reg.LGR_XBUF 25 3) with
  | false =>
    refine ⟨?_, nofun, fun _ => ?_⟩
    · exact (congrArg Ledger.extracted (State.bump_ledger ..)).trans s.takeExtract_extracted
    · exact (State.bump_mem ..).trans s.takeExtract_mem
  | true =>
    refine ⟨?_, fun _ hbuf => State.cell_complete _ _ hbuf, nofun⟩
    exact ((State.complete_extracted ..).trans (State.storeExtract_extracted ..)).trans s.takeExtract_extracted

end

/-- Settles O42: `State.lockstep_of_fatal`, `State.lockstep_detected_shows`, `State.selfTest_of_failure` and
`State.writeExtract_forms`. -/
theorem faultControllerCommandsAct : Obligations.FaultControllerCommandsAct := by
  unfold Obligations.FaultControllerCommandsAct
  intro s
  refine ⟨fun hd => exec_managed hd rfl rfl, fun block action h => ⟨_, rfl, s.lockstep_of_fatal h action⟩,
    fun block action h h3 => ⟨_, rfl, s.lockstep_detected_shows h h3 action⟩,
    fun done checker l => ⟨⟨_, rfl, ?_, s.fld_bumpIf_selfTest done⟩, ⟨_, rfl, s.selfTest_of_failure done l checker⟩⟩,
    fun hrun hnew => ⟨_, rfl, s.writeExtract_forms hrun hnew⟩⟩
  exact s.bumpIf_form ..

end Sys2Proof.Machine
end

section
/-! PROOF of O26 and O27: triggers, captures, time reads and time steps (R438, R439, R443 to R447). -/

namespace Sys2Proof.Machine

open Sys2Proof

section
variable (s : State)

/-! ## A trigger fires (R445) -/

/-- The output of a trigger, for its width. -/
def State.raiseOutput (s : State) (n : Nat) : State :=
  if s.fld (Reg.TU_TRGC n) 0 16 = 0 then s else { s with time := { s.time with
    outs := SMap.write 0 s.time.outs n (s.now + s.fld (Reg.TU_TRGC n) 0 16 * 10 * nsTime + 1) } }

/-- A firing is counted, and marked where it is late. -/
def State.countFiring (s : State) (n : Nat) (late : Bool) : State :=
  let s := s.wrapAdd (Reg.TU_TRGC n) 24 8 1
  if late then s.setBit (Reg.TU_TRGC n) 16 true else s

/-- A trigger that has fired at `t` is disarmed, or waits for its next time. -/
def State.nextFiring (s : State) (n t : Nat) : State :=
  let period := (s.reg (Reg.TU_TRGP n)).toNat
  if period = 0 then s.setBit (Reg.TU_TRGN n) 31 false
  else
    let t := t / nsTime + period
    (s.setReg (Reg.TU_TRGS n) (BitVec.ofNat 32 (t / 1000000000))).setFld (Reg.TU_TRGN n) 0 30 (t % 1000000000)

theorem State.fire_eq (n : Nat) (late : Bool) :
    s.fire n late = ((s.raiseOutput n).countFiring n late).nextFiring n (s.trigTime n) := rfl

/-- The registers that no firing writes. -/
abbrev triggerSpares (k : Nat) : Prop := ∀ n < 4, k ≠ Reg.TU_TRGS n ∧ k ≠ Reg.TU_TRGN n ∧ k ≠ Reg.TU_TRGC n

theorem State.raiseOutput_regs (n : Nat) : (s.raiseOutput n).regs = s.regs := by
  unfold State.raiseOutput
  split <;> rfl

theorem State.raiseOutput_outs {n : Nat} (h : s.fld (Reg.TU_TRGC n) 0 16 ≠ 0) : SMap.read 0 (s.raiseOutput n).time.outs n ≠ 0 := by
  rw [State.raiseOutput, if_neg h]
  exact fun hzero => absurd (SMap.read_write_same.symm.trans hzero) (Nat.succ_ne_zero _)

theorem State.onlyRegs_countFiring (n : Nat) (late : Bool) : s.OnlyRegs (s.countFiring n late) :=
  ((s.onlyRegs_self.setFld ..).setBit ..).ite (s.onlyRegs_self.setFld ..)

theorem State.onlyRegs_nextFiring (n t : Nat) : s.OnlyRegs (s.nextFiring n t) :=
  (s.onlyRegs_self.setBit ..).ite ((s.onlyRegs_self.setReg ..).setFld ..)

/-- A firing changes nothing but registers and the time unit. -/
theorem State.fire_keeps {γ : Type} (g : State → γ) (hg : ∀ (s : State) w x, g { s with regs := w, time := x } = g s)
    (n : Nat) (late : Bool) : g (s.fire n late) = g s := by
  have hout : g (s.raiseOutput n) = g s := by
    unfold State.raiseOutput
    split
    · rfl
    · exact hg s s.regs _
  rw [s.fire_eq, (State.onlyRegs_nextFiring ..).congr g fun w => hg _ w _,
    (State.onlyRegs_countFiring ..).congr g fun w => hg _ w _, hout]

theorem State.fire_time (n : Nat) (late : Bool) : (s.fire n late).time = (s.raiseOutput n).time := by
  rw [s.fire_eq, (State.onlyRegs_nextFiring ..).congr State.time fun _ => rfl,
    (State.onlyRegs_countFiring ..).congr State.time fun _ => rfl]

theorem State.reg_countFiring {n : Nat} (late : Bool) {k : Nat} (hk : k ≠ Reg.TU_TRGC n) :
    (s.countFiring n late).reg k = s.reg k := by
  unfold State.countFiring
  dsimp only
  split
  · exact (State.reg_setBit_other _ _ _ hk).trans (s.reg_wrapAdd_apart _ _ _ hk)
  · exact s.reg_wrapAdd_apart _ _ _ hk

theorem State.reg_nextFiring {n : Nat} (t : Nat) {k : Nat} (hs : k ≠ Reg.TU_TRGS n) (hn : k ≠ Reg.TU_TRGN n) :
    (s.nextFiring n t).reg k = s.reg k := by
  unfold State.nextFiring
  dsimp only
  split
  · exact s.reg_setBit_other _ _ hn
  · exact (State.reg_setFld_other _ _ _ _ hn).trans (s.reg_setReg_other _ hs)

theorem State.reg_fire {n : Nat} (hn : n < 4) (late : Bool) {k : Nat} (hk : triggerSpares k) :
    (s.fire n late).reg k = s.reg k := by
  obtain ⟨hs, hn, hc⟩ := hk n hn
  rw [s.fire_eq, State.reg_nextFiring _ _ hs hn, State.reg_countFiring _ _ hc, State.reg_of_regs (s.raiseOutput_regs n)]

/-- The registers of one trigger are four. -/
theorem trigger_regs_apart (n : Nat) : Reg.TU_TRGC n ≠ Reg.TU_TRGS n ∧ Reg.TU_TRGC n ≠ Reg.TU_TRGN n ∧
    Reg.TU_TRGP n ≠ Reg.TU_TRGC n := by
  unfold Reg.TU_TRGC Reg.TU_TRGS Reg.TU_TRGN Reg.TU_TRGP
  omega

/-- A firing in time is counted, and disarms a trigger that has no period. -/
theorem State.fire_counts (n : Nat) :
    (s.fire n false).fld (Reg.TU_TRGC n) 24 8 = (s.fld (Reg.TU_TRGC n) 24 8 + 1) % 256 ∧
    (s.reg (Reg.TU_TRGP n) = 0 → (s.fire n false).bit (Reg.TU_TRGN n) 31 = false) := by
  obtain ⟨hs, hn, hp⟩ := trigger_regs_apart n
  have hout (k : Nat) := State.reg_of_regs (s.raiseOutput_regs n) k
  have hcount := (s.raiseOutput n).fld_wrapAdd_same (k := Reg.TU_TRGC n) (v := 1) (by decide : 24 + 8 ≤ 32)
  rw [State.fld_of_reg (hout _)] at hcount
  rw [s.fire_eq]
  refine ⟨(State.fld_of_reg (State.reg_nextFiring _ _ hs hn) 24 8).trans hcount, fun hzero => ?_⟩
  have hperiod : ((s.raiseOutput n).countFiring n false).reg (Reg.TU_TRGP n) = 0 := by
    rw [State.reg_countFiring _ _ hp, hout, hzero]
  unfold State.nextFiring
  rw [if_pos (by rw [hperiod]; rfl)]
  exact State.bit_setBit_own _ _ (by decide)

/-! ## The present instant -/

/-- The instant does not depend on the registers of a trigger. -/
theorem State.now_setReg {k : Nat} (w : Word) (hk : k ≠ Reg.TCK_SLOTLEN) : (s.setReg k w).now = s.now := by
  have hlen : (s.setReg k w).slotLen = s.slotLen := s.fld_setReg_away w hk.symm ..
  simp only [State.now, State.nextTu, State.slewStep, hlen, State.setReg_clock, State.setReg_time]

variable {s}

/-- A trigger whose time is ahead by less than 2 s is armed with no other effect (R445). -/
theorem State.triggerArm_of_ahead {n : Nat} {value : Word}
    (h : bitOf value 31 = false ∨ (s.now ≤ (s.setReg (Reg.TU_TRGN n) (value &&& 0xBFFFFFFF)).trigTime n ∧
      (s.setReg (Reg.TU_TRGN n) (value &&& 0xBFFFFFFF)).trigTime n < s.now + 2000000000 * nsTime)) :
    s.triggerArm n value = s.setReg (Reg.TU_TRGN n) (value &&& 0xBFFFFFFF) := by
  have hnow := s.now_setReg (k := Reg.TU_TRGN n) (value &&& 0xBFFFFFFF) (by unfold Reg.TU_TRGN Reg.TCK_SLOTLEN; omega)
  unfold State.triggerArm
  dsimp only
  rw [hnow]
  generalize s.setReg (Reg.TU_TRGN n) (value &&& 0xBFFFFFFF) = u at h
  obtain h | ⟨hahead, hnear⟩ := h
  · simp [h]
  · have hlate : ¬ (0 : Int) < (s.now : Int) - u.trigTime n := by omega
    have hfar : ¬ 2 * 1000000000 * nsTime ≤ ((s.now : Int) - u.trigTime n).natAbs := by omega
    rw [if_neg hfar, if_neg hlate, ite_self]

theorem State.triggerFire_of_reached {n cycle : Nat} (harm : (s.reach cycle).bit (Reg.TU_TRGN n) 31 = true)
    (hreached : (s.reach cycle).reached ((s.reach cycle).trigTime n) = true) :
    s.triggerFire n cycle = (s.reach cycle).fire n false := by
  unfold State.triggerFire
  exact if_pos (by simp [harm, hreached])

end

/-- Settles O26: `State.triggerArm_of_ahead` and `State.fire_counts`. -/
theorem triggersArmAndFire : Obligations.TriggersArmAndFire := by
  unfold Obligations.TriggersArmAndFire
  refine fun s n hn => ⟨fun value hd h => ⟨?_, s.reg_setReg_same ..⟩, fun cycle harm hreached => ?_⟩
  · exact exec_managed hd rfl ((if_pos hn).trans (State.triggerArm_of_ahead h))
  · obtain ⟨hcount, hdisarm⟩ := (s.reach cycle).fire_counts n
    refine ⟨_, congrArg Host.Outcome.next ((if_pos hn).trans (State.triggerFire_of_reached harm hreached)), hcount, hdisarm,
      fun hwidth => ?_, State.fire_keeps _ State.mem (fun _ _ _ => rfl) .., State.fire_keeps _ State.net (fun _ _ _ => rfl) ..⟩
    rw [State.fire_time]
    exact State.raiseOutput_outs _ hwidth

/-! ## Captures and time reads (R443, R447) -/

section
variable {s : State} {n source : Nat} (stamp : Nat)

theorem State.onlyRegs_capture (n source stamp : Nat) : s.OnlyRegs (s.capture n source stamp) :=
  s.onlyRegs_self.ite ((s.onlyRegs_self.bump ..).ite (((s.onlyRegs_self.setReg ..).setReg ..).setFld ..))

/-- The registers of one capture are three. -/
theorem capture_regs_apart (n : Nat) : Reg.TU_CAPS n ≠ Reg.TU_CAPN n ∧ Reg.TU_CAPS n ≠ Reg.TU_CAPF n ∧
    Reg.TU_CAPN n ≠ Reg.TU_CAPF n := by
  unfold Reg.TU_CAPS Reg.TU_CAPN Reg.TU_CAPF
  omega

/-- An edge at a full capture is only counted. -/
theorem State.capture_of_full (hsource : s.fld Reg.TU_CAPSRC (4 * n) 2 = source) (hfull : s.bit (Reg.TU_CAPN n) 31 = true) :
    s.capture n source stamp = s.bump (Reg.TU_CAPF n) 24 8 1 := by
  unfold State.capture
  rw [if_neg (by simp [hsource]), if_pos hfull]

/-- An edge at an empty capture latches its instant. -/
theorem State.capture_of_empty (hsource : s.fld Reg.TU_CAPSRC (4 * n) 2 = source) (hfree : s.bit (Reg.TU_CAPN n) 31 = false) :
    s.capture n source stamp = ((s.setReg (Reg.TU_CAPS n) (BitVec.ofNat 32 (secOf stamp))).setReg (Reg.TU_CAPN n)
      (BitVec.ofNat 32 (nsOf stamp + 2 ^ 31))).setFld (Reg.TU_CAPF n) 0 16 (stamp % nsTime) := by
  unfold State.capture
  rw [if_neg (by simp [hsource]), if_neg (by simp [hfree])]

theorem State.capture_latches (hsource : s.fld Reg.TU_CAPSRC (4 * n) 2 = source) (hfree : s.bit (Reg.TU_CAPN n) 31 = false) :
    (s.capture n source stamp).reg (Reg.TU_CAPS n) = BitVec.ofNat 32 (secOf stamp) ∧
    (s.capture n source stamp).reg (Reg.TU_CAPN n) = BitVec.ofNat 32 (nsOf stamp + 2 ^ 31) ∧
    (s.capture n source stamp).fld (Reg.TU_CAPF n) 0 16 = stamp % nsTime := by
  obtain ⟨hsn, hsf, hnf⟩ := capture_regs_apart n
  rw [State.capture_of_empty stamp hsource hfree]
  generalize BitVec.ofNat 32 (nsOf stamp + 2 ^ 31) = w
  have hlt : stamp % nsTime < 2 ^ 16 := Nat.mod_lt _ (by decide)
  refine ⟨?_, ?_, State.fld_setFld_same _ _ (by decide) hlt⟩
  · rw [State.reg_setFld_other _ _ _ _ hsf, State.reg_setReg_other _ _ hsn, State.reg_setReg_same]
  · rw [State.reg_setFld_other _ _ _ _ hnf, State.reg_setReg_same]

variable (s)

theorem State.onlyRegs_timeRead : s.OnlyRegs s.timeRead := (((s.onlyRegs_self.setReg ..).setReg ..).setReg ..).setReg ..

theorem State.timeRead_latches : s.timeRead.reg Reg.TU_SECHI = BitVec.ofNat 32 (secOf s.now / 2 ^ 32 % 2 ^ 16) ∧
    s.timeRead.reg Reg.TU_SECLO = BitVec.ofNat 32 (secOf s.now) ∧ s.timeRead.reg Reg.TU_NS = BitVec.ofNat 32 (nsOf s.now) ∧
    s.timeRead.reg Reg.TU_SUBNS = BitVec.ofNat 32 (s.now % nsTime) := by
  unfold State.timeRead
  simp (disch := decide) only [State.reg_setReg_apart, State.reg_setReg_same, and_self]

/-! ## Time steps, FREE and missed Syncs (R438, R439) -/

/-- The step that an ACCEPT takes: the pending offset `o` moves the time scale and the phase (R439, R440). -/
def State.moveTime (s : State) (o : Int) : State :=
  let s := s.clearPend
  let s := { s with clock := { s.clock with tu := ((s.clock.tu : Int) - o).toNat } }
  let s := { s with time := { s.time with slew := s.phaseOf (s.time.slew - o) } }
  let s := s.setBit Reg.TU_STAT 3 (s.time.slew != 0)
  (s.setSlave { s.time.slave with good := 0, judging := none }).setTuState 1

/-- The triggers whose times a step has passed over fire late (R446). -/
def State.fireSkipped (s : State) (was : Nat) : State :=
  (List.range 4).foldl (fun s n =>
    let t := s.trigTime n
    if s.bit (Reg.TU_TRGN n) 31 && decide (was < t) && decide (t ≤ s.now) then s.fire n true else s) s

theorem State.timeStep_of_accept (hacc : s.bit Reg.TU_CTL 0 = true) (hpend : s.bit Reg.TU_STAT 2 = true) :
    s.timeStep = ((s.setBit Reg.TU_CTL 0 false).moveTime s.time.slave.pend).fireSkipped (s.setBit Reg.TU_CTL 0 false).now := by
  have hstill : (s.setBit Reg.TU_CTL 0 false).stepPending = true :=
    (s.bit_setBit_away (k := Reg.TU_CTL) (j := Reg.TU_STAT) 0 false (by decide) 2).trans hpend
  unfold State.timeStep
  rw [if_neg (by simp [hacc])]
  dsimp only
  rw [if_neg (by simp [hstill])]
  rfl

theorem State.fireSkipped_clock (was : Nat) : (s.fireSkipped was).clock = s.clock :=
  foldl_keeps State.clock (fun t n => by
    rw [apply_ite State.clock, t.fire_keeps State.clock fun _ _ _ => rfl, ite_self]) _ s

theorem State.reg_fireSkipped (was : Nat) {k : Nat} (hk : triggerSpares k) : (s.fireSkipped was).reg k = s.reg k :=
  List.foldlRecOn (motive := fun t : State => t.reg k = s.reg k) _ _ rfl fun t ht n hn => by
    rw [apply_ite (fun t : State => t.reg k), t.reg_fire (List.mem_range.mp hn) true hk, ite_self, ht]

theorem State.reg_setSlave (x : Slave) (k : Nat) : (s.setSlave x).reg k = s.reg k := rfl

theorem State.reg_clearPend (k : Nat) : s.clearPend.reg k = ((s.setReg Reg.TU_PEND 0).setBit Reg.TU_STAT 2 false).reg k :=
  State.reg_setSlave ..

/-- The clock and the phase as a step moves them. -/
def State.shiftTime (s : State) (o : Int) : State :=
  let s := { s with clock := { s.clock with tu := ((s.clock.tu : Int) - o).toNat } }
  { s with time := { s.time with slew := s.phaseOf (s.time.slew - o) } }

theorem State.reg_shiftTime (o : Int) (k : Nat) : (s.shiftTime o).reg k = s.reg k := rfl

/-- The phase shows in TU.STAT, and the slave acquires anew. -/
def State.acquire (s : State) : State :=
  let s := s.setBit Reg.TU_STAT 3 (s.time.slew != 0)
  (s.setSlave { s.time.slave with good := 0, judging := none }).setTuState 1

theorem State.reg_acquire (k : Nat) :
    s.acquire.reg k = ((s.setBit Reg.TU_STAT 3 (s.time.slew != 0)).setFld Reg.TU_STAT 0 2 1).reg k := by
  unfold State.acquire State.setTuState
  dsimp only
  rw [State.reg_setFld, State.reg_setFld, State.reg_setSlave, State.reg_setSlave]

theorem State.moveTime_eq (o : Int) : s.moveTime o = (s.clearPend.shiftTime o).acquire := rfl

theorem State.moveTime_clock (o : Int) : (s.moveTime o).clock.tu = ((s.clock.tu : Int) - o).toNat := rfl

/-- A step clears itself and leaves the state ACQUIRING. -/
theorem State.moveTime_shows (o : Int) : (s.moveTime o).bit Reg.TU_STAT 2 = false ∧ (s.moveTime o).tuState = 1 ∧
    (s.moveTime o).bit Reg.TU_CTL 0 = s.bit Reg.TU_CTL 0 := by
  have hpend : (s.clearPend.shiftTime o).bit Reg.TU_STAT 2 = false :=
    (State.bit_of_reg ((s.clearPend.reg_shiftTime ..).trans (s.reg_clearPend ..)) 2).trans (State.bit_setBit_own _ _ (by decide))
  have hctl : (s.clearPend.shiftTime o).bit Reg.TU_CTL 0 = s.bit Reg.TU_CTL 0 :=
    (State.bit_of_reg ((s.clearPend.reg_shiftTime ..).trans (s.reg_clearPend ..)) 0).trans (by simp (disch := decide))
  rw [s.moveTime_eq]
  generalize s.clearPend.shiftTime o = u at hpend hctl
  refine ⟨(State.bit_of_reg (u.reg_acquire _) 2).trans ?_, (State.fld_of_reg (u.reg_acquire _) 0 2).trans ?_,
    (State.bit_of_reg (u.reg_acquire _) 0).trans ?_⟩
  · simp (disch := decide) [hpend]
  · exact State.fld_setFld_same _ _ (by decide) (by decide)
  · simp (disch := decide) [hctl]

variable {s}

theorem State.timeStep_steps (hacc : s.bit Reg.TU_CTL 0 = true) (hpend : s.bit Reg.TU_STAT 2 = true) :
    s.timeStep.bit Reg.TU_CTL 0 = false ∧ s.timeStep.bit Reg.TU_STAT 2 = false ∧
    s.timeStep.clock.tu = ((s.clock.tu : Int) - s.time.slave.pend).toNat ∧ s.timeStep.tuState = 1 := by
  obtain ⟨hstep, hstate, hctl⟩ := (s.setBit Reg.TU_CTL 0 false).moveTime_shows s.time.slave.pend
  have hclock := (s.setBit Reg.TU_CTL 0 false).moveTime_clock s.time.slave.pend
  rw [s.bit_setBit_own false (by decide)] at hctl
  rw [s.timeStep_of_accept hacc hpend]
  generalize (s.setBit Reg.TU_CTL 0 false).moveTime s.time.slave.pend = u at hstep hstate hctl hclock
  refine ⟨(State.bit_of_reg (u.reg_fireSkipped _ (by decide)) 0).trans hctl,
    (State.bit_of_reg (u.reg_fireSkipped _ (by decide)) 2).trans hstep, ?_,
    (State.fld_of_reg (u.reg_fireSkipped _ (by decide)) 0 2).trans hstate⟩
  rw [u.fireSkipped_clock]
  exact hclock

/-- The slave that knows no master. -/
def State.forgetMaster (s : State) : State :=
  s.setSlave { s.time.slave with heard := [], master := none, good := 0, judging := none }

theorem State.enterFreerun_frees (hfree : s.bit Reg.TU_CTL 1 = true) : s.enterFreerun.bit Reg.TU_CTL 1 = false ∧
    s.enterFreerun.time.slave.master = none ∧ s.enterFreerun.tuState = 0 ∧ s.enterFreerun.clock = s.clock := by
  have heq : s.enterFreerun = (s.setBit Reg.TU_CTL 1 false).forgetMaster.clearPend.setTuState 0 :=
    if_neg (by simp [hfree])
  rw [heq]
  have hctl : (s.setBit Reg.TU_CTL 1 false).forgetMaster.bit Reg.TU_CTL 1 = false := s.bit_setBit_own false (by decide)
  have hmaster : (s.setBit Reg.TU_CTL 1 false).forgetMaster.time.slave.master = none := rfl
  have hclock : (s.setBit Reg.TU_CTL 1 false).forgetMaster.clock = s.clock := s.setBit_clock Reg.TU_CTL 1 false
  generalize (s.setBit Reg.TU_CTL 1 false).forgetMaster = u at hctl hmaster hclock
  refine ⟨?_, hmaster, State.fld_setFld_same _ _ (by decide) (by decide), hclock⟩
  refine (State.bit_setFld_away _ _ _ _ (by decide) _).trans ((State.bit_of_reg (u.reg_clearPend _) 1).trans ?_)
  simp (disch := decide) [hctl]

variable (s)

/-- A missed Sync is counted, and the sixteenth in a row takes LOCKED to HOLDOVER (R438). -/
theorem State.syncMissed_counts : s.syncMissed.time.slave.missed = s.time.slave.missed + 1 ∧
    s.syncMissed.tuState = (if 16 ≤ s.time.slave.missed + 1 ∧ s.tuState = 2 then 3 else s.tuState) ∧
    s.syncMissed.net = s.net := by
  have hstate (u : State) (x : Slave) : (u.setSlave x).tuState = u.tuState := rfl
  unfold State.syncMissed
  dsimp only
  simp only [Bool.and_eq_true, decide_eq_true_eq, hstate]
  split
  · exact ⟨rfl, State.fld_setFld_same _ _ (by decide) (by decide), rfl⟩
  · exact ⟨rfl, rfl, rfl⟩

end

/-- Settles O27: captures by `State.capture_latches`, the others by what each leaves in the registers of the time unit. -/
theorem timeIsLatchedAndStepped : Obligations.TimeIsLatchedAndStepped := by
  unfold Obligations.TimeIsLatchedAndStepped
  refine ⟨fun s => ⟨fun n source stamp hn hsource => ?_, ⟨_, rfl, s.onlyRegs_timeRead, s.timeRead_latches⟩⟩,
    fun s => ⟨fun hd hacc hpend => ⟨_, exec_managed hd rfl rfl, State.timeStep_steps hacc hpend⟩,
      fun hd hfree => ⟨_, exec_managed hd rfl rfl, State.enterFreerun_frees hfree⟩, ⟨_, rfl, s.syncMissed_counts⟩⟩⟩
  refine ⟨_, congrArg Host.Outcome.next (if_pos hn), s.onlyRegs_capture .., fun hfull => ?_,
    State.capture_latches stamp hsource⟩
  rw [State.capture_of_full stamp hsource hfull]
  exact ⟨s.fld_bump_same (by decide), s.reg_bump_other _ _ _ (capture_regs_apart n).2.2⟩

end Sys2Proof.Machine
end

section
/-! SUPPORT. The wait of steps 10 to 12 of the start (R541 to R544): what goes on leaves all but registers, the start, the
twin and the balls alone. -/

namespace Sys2Proof.Machine

open Sys2Proof

/-- Nothing but registers, the start, the twin and the balls differs. -/
def State.OnlyStart (s t : State) : Prop := t = { s with
  regs := t.regs, start := t.start, twin := t.twin, pins := t.pins }

section
variable {s t u : State}

theorem State.onlyStart_self (s : State) : s.OnlyStart s := rfl

theorem State.OnlyStart.trans (h : s.OnlyStart t) (h' : t.OnlyStart u) : s.OnlyStart u := by
  unfold State.OnlyStart at *
  rw [h', h]

theorem State.OnlyRegs.onlyStart (h : s.OnlyRegs t) : s.OnlyStart t := by
  unfold State.OnlyRegs at h
  rw [h]
  rfl

theorem State.OnlyStart.ite {c : Prop} [Decidable c] (ht : s.OnlyStart t) (hu : s.OnlyStart u) :
    s.OnlyStart (if c then t else u) := by
  split
  exacts [ht, hu]

theorem State.OnlyStart.congr {α : Type} (h : s.OnlyStart t) (f : State → α)
    (hf : ∀ r st tw ps, f { s with regs := r, start := st, twin := tw, pins := ps } = f s) : f t = f s :=
  (congrArg f h).trans (hf ..)

theorem State.onlyRegs_setVariant (s : State) (v : Nat) : s.OnlyRegs (s.setVariant v) := by
  unfold State.setVariant State.showPeriod
  dsimp only
  have h := ((s.onlyRegs_self.setFld Reg.DET_VARIANT 0 16 v).setFld Reg.PWR_CAP 16 13 (s.variant v).peak).setFld
    Reg.SPL_PATTERN 0 7
  split
  · exact ((h _).setFld ..).setFld ..
  · exact h _

theorem State.onlyRegs_runAlone (s : State) : s.OnlyRegs s.runAlone := by
  have h : s.OnlyRegs ((s.setTwinState 0).setLive true) := (s.onlyRegs_self.setFld ..).setBit ..
  unfold State.runAlone
  dsimp only
  split
  · exact h.trans (State.onlyRegs_setVariant ..)
  · exact h

theorem State.onlyStart_stepDone (s : State) (k : Nat) : s.OnlyStart (s.stepDone k) := rfl

/-! ### The three steps -/

/-- Whether step `k` of the start is done and the start goes on. -/
def State.stepReached (s : State) (k : Nat) : Bool := s.fld Reg.STA_STEP 0 4 == k && !s.isMgmtOnly && !s.start.held

/-- Step 10: every enabled link is up or was reported (R541). -/
def State.passLinks (s : State) : State := if s.stepReached 9 && s.start.links.isEmpty then s.stepDone 10 else s

/-- A twin whose partner is there waits for its HELLO (R543). -/
def State.awaitHello (s : State) : State := { (s.setTwinState 1) with twin := { s.twin with before := 5, step := 0 } }

/-- What step 11 leaves of the pairing (R543). -/
def State.beginPairing (s : State) : State :=
  if s.twinMode = 0 then s else if !s.pins.twinPeer then s.runAlone else s.awaitHello

/-- Step 11: the time unit is LOCKED, or is no longer waited for (R542). -/
def State.passLock (s : State) (locked : Bool) : State :=
  if s.stepReached 10 && locked then (s.stepDone 11).beginPairing else s

/-- SYSREF_REQ rises where a JESD link is enabled (R544). -/
def State.askSysref (s : State) : State := if s.anyJesd then { s with pins := { s.pins with sysrefReq := true } } else s

/-- Step 12: the handshake is over (R543). -/
def State.passPairing (s : State) : State :=
  if s.stepReached 11 && (s.twinState == 0 || (s.twinState == 1 && decide (4 ≤ s.twin.step))) then
    (s.stepDone 12).askSysref
  else s

theorem State.advance_eq (s : State) (locked : Bool) : s.advance locked = (s.passLinks.passLock locked).passPairing := rfl

theorem State.onlyStart_passLinks (s : State) : s.OnlyStart s.passLinks := (s.onlyStart_stepDone 10).ite s.onlyStart_self

theorem State.onlyStart_awaitHello (s : State) : s.OnlyStart s.awaitHello := rfl

theorem State.onlyStart_beginPairing (s : State) : s.OnlyStart s.beginPairing :=
  s.onlyStart_self.ite (s.onlyRegs_runAlone.onlyStart.ite s.onlyStart_awaitHello)

theorem State.onlyStart_passLock (s : State) (locked : Bool) : s.OnlyStart (s.passLock locked) :=
  ((s.onlyStart_stepDone 11).trans (State.onlyStart_beginPairing _)).ite s.onlyStart_self

theorem State.onlyStart_askSysref (s : State) : s.OnlyStart s.askSysref := State.OnlyStart.ite rfl s.onlyStart_self

theorem State.onlyStart_passPairing (s : State) : s.OnlyStart s.passPairing :=
  ((s.onlyStart_stepDone 12).trans (State.onlyStart_askSysref _)).ite s.onlyStart_self

theorem State.onlyStart_advance (s : State) (locked : Bool) : s.OnlyStart (s.advance locked) :=
  (s.onlyStart_passLinks.trans (State.onlyStart_passLock _ locked)).trans (State.onlyStart_passPairing _)

end

end Sys2Proof.Machine
end

section
/-! PROOF of O24, O25, O28 and O54: frames, messages and sections that NET takes, and the forwarding of PTP messages (R418,
R425, R428, R430 to R432, R435, R437, R442, R448). -/

namespace Sys2Proof.Machine

open Sys2Proof

section
variable (s : State)

variable {s} in
theorem State.inNet_of_served (hs : s.served 9 = true) (f : State → State) : s.inNet f = f s := if_pos hs

/-! ## The queues of non-planned frames -/

/-- The frames that wait at a port. -/
abbrev State.queueAt (s : State) (p : Nat) : List Sent := SMap.read [] s.net.egress p

theorem State.queueAt_enqueue (p : Nat) (x : Sent) (q : Nat) :
    (s.enqueue p x).queueAt q = if q = p then s.queueAt p ++ [x] else s.queueAt q := SMap.read_write ..

/-- A frame that is queued at each port of a list without repetition; `f` is the frame, which no queue changes. -/
theorem State.queueAt_enqueueAll {f : State → Sent} (hf : ∀ (s : State) p x, f (s.enqueue p x) = f s) (ps : List Nat)
    (hps : ps.Nodup) (q : Nat) : (ps.foldl (fun s p => s.enqueue p (f s)) s).queueAt q =
      if q ∈ ps then s.queueAt q ++ [f s] else s.queueAt q := by
  induction ps generalizing s with
  | nil => rfl
  | cons p ps ih =>
    obtain ⟨hp, hps⟩ := List.nodup_cons.mp hps
    rw [List.foldl_cons, ih (s.enqueue p (f s)) hps, hf, s.queueAt_enqueue]
    by_cases hq : q = p
    · subst hq
      simp [hp]
    · simp [hq]

theorem State.enqueueAll_keeps {γ : Type} (g : State → γ) (hg : ∀ (s : State) p x, g (s.enqueue p x) = g s) (f : State → Sent)
    (ps : List Nat) : g (ps.foldl (fun s p => s.enqueue p (f s)) s) = g s :=
  foldl_keeps g (fun s p => hg s p (f s)) ps s

theorem State.mem_ptpPorts (q : Nat) : q ∈ s.ptpPorts ↔ q < 8 ∧ s.bit Reg.NET_PTPFWD q = true := by
  simp [State.ptpPorts]

theorem State.nodup_ptpPorts : s.ptpPorts.Nodup := List.nodup_range.filter _

/-! ## Forwarding (R435) -/

/-- What the slave's part of a message leaves alone: the queues of the fronthaul ports, and the mask of the forwarding. -/
def State.KeepsFronthaul (s t : State) : Prop :=
  (∀ q, q ≠ 8 → t.queueAt q = s.queueAt q) ∧ t.reg Reg.NET_PTPFWD = s.reg Reg.NET_PTPFWD

theorem State.ptpPorts_of_reg {s t : State} (h : t.reg Reg.NET_PTPFWD = s.reg Reg.NET_PTPFWD) : t.ptpPorts = s.ptpPorts := by
  unfold State.ptpPorts
  simp only [State.bit, h]

variable {s} {p stamp : Nat} {m : PtpMsg} {slave : Nat → State → State}

/-- The frame that a message goes on as. -/
abbrev State.forwarded (s : State) (p : Nat) (m : PtpMsg) (stamp : Nat) : Sent := .ptp m (stamp - s.ptpLat p 0) false

theorem State.ptpArrival_of_good (hs : s.served 9 = true) (hopt : m.badOpt = false) (hdom : m.domain = s.plan.net.domain) :
    s.ptpArrival p m stamp slave =
      ((if p = 8 then slave (stamp - s.ptpLat p 0) s else s).forwardTo p).foldl
        (fun t q => t.enqueue q (s.forwarded p m stamp)) (if p = 8 then slave (stamp - s.ptpLat p 0) s else s) := by
  unfold State.ptpArrival
  rw [State.inNet_of_served hs]
  exact if_neg (by simp [hopt, hdom])

/-- A message with an unsupported option or of another domain is dropped and counted. -/
theorem State.ptpArrival_of_bad (hs : s.served 9 = true) (hbad : m.badOpt = true ∨ m.domain ≠ s.plan.net.domain) :
    s.ptpArrival p m stamp slave = s.bump Reg.NET_PTPCNT 0 16 1 := by
  unfold State.ptpArrival
  rw [State.inNet_of_served hs]
  exact if_pos (by simpa using hbad)

/-- From the L2 port a message is queued at every fronthaul port of the mask. -/
theorem State.queueAt_ptpArrival_l2 (hs : s.served 9 = true) (hopt : m.badOpt = false) (hdom : m.domain = s.plan.net.domain)
    (hslave : s.KeepsFronthaul (slave (stamp - s.ptpLat 8 0) s)) {q : Nat} (hq : q ∈ s.ptpPorts) :
    (s.ptpArrival 8 m stamp slave).queueAt q = s.queueAt q ++ [s.forwarded 8 m stamp] := by
  obtain ⟨hqueue, hmask⟩ := hslave
  have hq8 : q ≠ 8 := by have := (s.mem_ptpPorts q).mp hq; omega
  rw [State.ptpArrival_of_good hs hopt hdom, if_pos rfl, State.forwardTo, if_pos rfl, State.ptpPorts_of_reg hmask,
    State.queueAt_enqueueAll _ (f := fun _ => s.forwarded 8 m stamp) (fun _ _ _ => rfl) _ s.nodup_ptpPorts, if_pos hq,
    hqueue q hq8]

/-- What the slave's part leaves of the time unit is what the message leaves of it. -/
theorem State.ptpArrival_l2_time (hs : s.served 9 = true) (hopt : m.badOpt = false) (hdom : m.domain = s.plan.net.domain) :
    (s.ptpArrival 8 m stamp slave).time = (slave (stamp - s.ptpLat 8 0) s).time := by
  rw [State.ptpArrival_of_good hs hopt hdom, if_pos rfl]
  exact State.enqueueAll_keeps _ State.time (fun _ _ _ => rfl) (fun _ => s.forwarded 8 m stamp) _

/-- From a fronthaul port of the mask a message is queued at the L2 port alone. -/
theorem State.ptpArrival_of_masked (hs : s.served 9 = true) (hopt : m.badOpt = false) (hdom : m.domain = s.plan.net.domain)
    (hp : p ∈ s.ptpPorts) : s.ptpArrival p m stamp slave = s.enqueue 8 (s.forwarded p m stamp) := by
  have hp8 : p ≠ 8 := by have := (s.mem_ptpPorts p).mp hp; omega
  rw [State.ptpArrival_of_good hs hopt hdom, if_neg hp8, State.forwardTo, if_neg hp8,
    if_pos (List.contains_iff_mem.mpr hp)]
  rfl

/-- From another fronthaul port a message changes nothing. -/
theorem State.ptpArrival_of_unmasked (hs : s.served 9 = true) (hopt : m.badOpt = false) (hdom : m.domain = s.plan.net.domain)
    (hp8 : p ≠ 8) (hp : p ∉ s.ptpPorts) : s.ptpArrival p m stamp slave = s := by
  rw [State.ptpArrival_of_good hs hopt hdom, if_neg hp8, State.forwardTo, if_neg hp8,
    if_neg (by simpa using hp)]
  rfl

/-! ## The slave (R438, R439) -/

/-- Nothing of NET differs, nor the mask of the forwarding. -/
def State.KeepsNet (s t : State) : Prop := t.net = s.net ∧ t.reg Reg.NET_PTPFWD = s.reg Reg.NET_PTPFWD

theorem State.KeepsNet.fronthaul {t : State} (h : s.KeepsNet t) : s.KeepsFronthaul t :=
  ⟨fun q _ => by rw [State.queueAt, h.1], h.2⟩

variable {t u : State}

theorem State.keepsNet_self (s : State) : s.KeepsNet s := ⟨rfl, rfl⟩

theorem State.KeepsNet.trans (h : s.KeepsNet t) (h' : t.KeepsNet u) : s.KeepsNet u :=
  ⟨h'.1.trans h.1, h'.2.trans h.2⟩

theorem State.KeepsNet.setReg (h : s.KeepsNet t) {k : Nat} (w : Word) (hk : k ≠ Reg.NET_PTPFWD) : s.KeepsNet (t.setReg k w) :=
  h.trans ⟨rfl, t.reg_setReg_other w hk.symm⟩

theorem State.KeepsNet.setFld (h : s.KeepsNet t) {k : Nat} (lo n v : Nat) (hk : k ≠ Reg.NET_PTPFWD) :
    s.KeepsNet (t.setFld k lo n v) := h.trans ⟨rfl, t.reg_setFld_other lo n v hk.symm⟩

theorem State.KeepsNet.setBit (h : s.KeepsNet t) {k : Nat} (i : Nat) (b : Bool) (hk : k ≠ Reg.NET_PTPFWD) :
    s.KeepsNet (t.setBit k i b) := h.trans ⟨rfl, t.reg_setBit_other i b hk.symm⟩

theorem State.KeepsNet.setSlave (h : s.KeepsNet t) (x : Slave) : s.KeepsNet (t.setSlave x) := h.trans ⟨rfl, rfl⟩

theorem State.KeepsNet.setTuState (h : s.KeepsNet t) (v : Nat) : s.KeepsNet (t.setTuState v) := h.setFld _ _ _ (by decide)

theorem State.KeepsNet.ite {c : Prop} [Decidable c] (ht : s.KeepsNet t) (hu : s.KeepsNet u) : s.KeepsNet (if c then t else u) := by
  split
  exacts [ht, hu]

theorem State.KeepsNet.raise (h : s.KeepsNet t) (code : Nat) (loc : BitVec 64) (d0 d1 : Nat) :
    s.KeepsNet (t.raise code .detected loc d0 d1) :=
  h.trans ⟨t.raise_net .., t.reg_raise_detected _ _ _ _ (by decide) (by decide)⟩

theorem State.KeepsNet.nsWord (h : s.KeepsNet t) (o : Int) : s.KeepsNet (t.nsWord o).2 := h.trans ⟨rfl, rfl⟩

theorem State.KeepsNet.setPend (h : s.KeepsNet t) (o : Int) : s.KeepsNet (t.setPend o) :=
  ((h.nsWord o).setReg _ (by decide)).setSlave _

theorem State.KeepsNet.clearPend (h : s.KeepsNet t) : s.KeepsNet t.clearPend :=
  ((h.setReg _ (by decide)).setBit _ _ (by decide)).setSlave _

theorem State.keepsNet_announceHeard (s : State) (d : MasterSet) : s.KeepsNet (s.announceHeard d) := by
  have hheard := s.keepsNet_self.setSlave
  unfold State.announceHeard
  dsimp only
  split
  · exact hheard _
  · split
    · exact ((hheard _).setSlave _).setTuState 1
    · exact ((hheard _).setSlave _).ite ((hheard _).setSlave _)

theorem State.keepsNet_slaveFollowUp (s : State) (m : PtpMsg) : s.KeepsNet (s.slaveFollowUp m) := by
  unfold State.slaveFollowUp
  dsimp only
  split
  · exact (s.keepsNet_self.setSlave _).ite s.keepsNet_self
  · exact s.keepsNet_self

theorem State.keepsNet_offsetMeasured (s : State) (o : Int) : s.KeepsNet (s.offsetMeasured o) := by
  have hword := s.keepsNet_self.nsWord o
  unfold State.offsetMeasured
  generalize s.nsWord o = y at hword
  obtain ⟨w, v⟩ := y
  have hv : s.KeepsNet (v.setReg Reg.TU_OFS w) := hword.setReg _ (by decide)
  dsimp only
  generalize v.setReg Reg.TU_OFS w = v at hv
  split
  · split
    · exact hv.setSlave _
    · split
      · exact ((((hv.setSlave _).setTuState 3).setBit _ _ (by decide)).setPend _).raise ..
      · exact (hv.setSlave _).clearPend.setTuState 1
  · split
    · exact hv.setPend o
    · have hw : s.KeepsNet v.fresh.2 := hv.trans ⟨rfl, rfl⟩
      refine State.KeepsNet.ite (State.KeepsNet.setTuState ?_ 2) ?_ <;> exact hw.ite (hw.setSlave _)

theorem State.keepsNet_slaveResponse (s : State) (m : PtpMsg) : s.KeepsNet (s.slaveResponse m) := by
  unfold State.slaveResponse
  dsimp only
  split
  · exact s.keepsNet_self
  · split
    · exact (s.keepsNet_self.setSlave _).trans (State.keepsNet_offsetMeasured _ _)
    · exact s.keepsNet_self

/-- The slave's part of a Sync queues its Delay_Req at the L2 port. -/
theorem State.keepsFronthaul_slaveSync (s : State) (m : PtpMsg) (ingress : Nat) : s.KeepsFronthaul (s.slaveSync m ingress) := by
  unfold State.slaveSync
  split
  · exact s.keepsNet_self.fronthaul
  · extract_lets x u
    have hu : s.KeepsNet u := (s.keepsNet_self.setTuState 1).ite s.keepsNet_self
    clear_value u
    obtain ⟨hqueue, hmask⟩ := (hu.setSlave _).fronthaul
    exact ⟨fun q hq => ((State.queueAt_enqueue ..).trans (if_neg hq)).trans (hqueue q hq), hmask⟩

theorem State.mem_heard_announceHeard (s : State) (d : MasterSet) : d ∈ (s.announceHeard d).time.slave.heard := by
  have hheard (xs : List MasterSet) (v : Nat) (u : State) (h : u.time.slave.heard = d :: xs) :
      d ∈ (u.setTuState v).time.slave.heard := h ▸ List.mem_cons_self
  unfold State.announceHeard
  dsimp only
  split
  · exact List.mem_cons_self
  · split
    · exact hheard _ 1 _ rfl
    · split <;> exact List.mem_cons_self

theorem State.slaveSync_t2 {m : PtpMsg} (h : s.fromMaster m = true) (ingress : Nat) :
    (s.slaveSync m ingress).time.slave.t2 = (ingress : Int) := by
  unfold State.slaveSync
  rw [if_neg (by simp [h])]
  rfl

/-! ## The frames that leave (R419, R431, R437) -/

theorem State.leave_egress (s : State) (p e : Nat) (x : Sent) : (s.leave p e x).2.net.egress = s.net.egress := by
  unfold State.leave
  dsimp only
  repeat' split
  all_goals rfl

theorem State.leave_regs (s : State) (p e : Nat) (x : Sent) : (s.leave p e x).2.regs = s.regs := by
  unfold State.leave
  dsimp only
  repeat' split
  all_goals rfl

theorem State.isShadow_of_regs {s t : State} (h : t.regs = s.regs) : t.isShadow = s.isShadow := by
  have hreg (k : Nat) := State.reg_of_regs h k
  unfold State.isShadow
  rw [State.fld_of_reg (hreg _), State.fld_of_reg (hreg _), State.bit_of_reg (hreg _)]

theorem State.putSent_of_live {s : State} (h : s.isShadow = false) (p : Nat) (xs : List Sent) :
    s.putSent p xs = { s with net := { s.net with sent := SMap.write [] s.net.sent p xs } } := by
  unfold State.putSent
  rw [h]
  rfl

theorem State.sent_putSent {s : State} (h : s.isShadow = false) (p : Nat) (xs : List Sent) :
    SMap.read [] (s.putSent p xs).net.sent p = xs := by
  rw [State.putSent_of_live h]
  exact (SMap.read_write_same : SMap.read [] (SMap.write [] s.net.sent p xs) p = xs)

/-- The state without the oldest frame of a port's queue. -/
def State.takeFrame (s : State) (p : Nat) (rest : List Sent) : State :=
  { s with net := { s.net with egress := SMap.write [] s.net.egress p rest } }

/-- The oldest non-planned frame of a port leaves where the plan leaves it time (R419). -/
theorem State.nonPlanned_leaves {s : State} (hs : s.served 9 = true) {p cycle : Nat} {x : Sent} {rest : List Sent}
    (hqueue : (s.reach cycle).queueAt p = x :: rest) (hgap : (s.reach cycle).gapOpen p cycle = true)
    (hlive : (s.reach cycle).isShadow = false) (stamp : Nat) : ∃ y, (s.nonPlanned p cycle stamp).queueAt p = rest ∧
      SMap.read [] (s.nonPlanned p cycle stamp).net.sent p = [y] := by
  have heq : s.nonPlanned p cycle stamp = (((s.reach cycle).takeFrame p rest).leave p
      (stamp + ((s.reach cycle).takeFrame p rest).ptpLat p 16) x).2.putSent p
      [(((s.reach cycle).takeFrame p rest).leave p (stamp + ((s.reach cycle).takeFrame p rest).ptpLat p 16) x).1] := by
    unfold State.nonPlanned
    rw [State.inNet_of_served hs]
    dsimp only
    rw [show SMap.read [] (s.reach cycle).net.egress p = x :: rest from hqueue]
    dsimp only
    rw [if_neg (by simp [hgap])]
    rfl
  rw [heq]
  generalize s.reach cycle = u at hlive
  have hrest : (u.takeFrame p rest).queueAt p = rest := SMap.read_write_same
  have hshadow : (u.takeFrame p rest).isShadow = false := (State.isShadow_of_regs rfl).trans hlive
  generalize u.takeFrame p rest = v at hrest hshadow
  have hegress := v.leave_egress p (stamp + v.ptpLat p 16) x
  have hleft := (State.isShadow_of_regs (v.leave_regs p (stamp + v.ptpLat p 16) x)).trans hshadow
  generalize v.leave p (stamp + v.ptpLat p 16) x = z at hegress hleft
  refine ⟨z.1, ?_, State.sent_putSent hleft p _⟩
  rw [State.putSent_of_live hleft]
  exact (congrArg (SMap.read [] · p) hegress).trans hrest

def State.setNet (s : State) (x : Net) : State := { s with net := x }

theorem State.followUpTimeout_of_left {s : State} (hs : s.served 9 = true) {seq src : Nat}
    (h : s.net.left.any (fun x => x.seq == seq && x.src == src) = true) :
    s.followUpTimeout seq src = (s.bump Reg.NET_PTPCNT 16 16 1).setNet { s.net with
      left := s.net.left.filter fun x => !(x.seq == seq && x.src == src) } := by
  unfold State.followUpTimeout
  rw [State.inNet_of_served hs, if_pos h]
  rfl

theorem State.fld_setNet (s : State) (x : Net) (k lo n : Nat) : (s.setNet x).fld k lo n = s.fld k lo n := rfl

/-- The forgotten half of a two-step Sync is counted and removed (R437). -/
theorem State.followUpTimeout_counts {s : State} (hs : s.served 9 = true) {seq src : Nat}
    (h : s.net.left.any (fun x => x.seq == seq && x.src == src) = true) :
    (s.followUpTimeout seq src).net.left = s.net.left.filter (fun x => !(x.seq == seq && x.src == src)) ∧
    (s.followUpTimeout seq src).fld Reg.NET_PTPCNT 16 16 = min (s.fld Reg.NET_PTPCNT 16 16 + 1) 65535 := by
  rw [State.followUpTimeout_of_left hs h, State.fld_setNet]
  exact ⟨rfl, s.fld_bump_same (by decide)⟩

end

/-! ## The commands -/

section
variable {p stamp : Nat} {m : PtpMsg} {d : MasterSet} {i : Instr} {k : PtpKind} {a : Nat}

/-- A message is its arrival with the slave's part of it. -/
theorem exec_ptpMessage (s : State) (h : (i, k, a) ∈ [(Instr.announce p m d, PtpKind.announce, 0), (.sync p m stamp, .sync, stamp),
      (.delayReq p m stamp, .delayReq, stamp), (.followUp p m, .followUp, 0)]) :
    ∃ slave, exec i s = .next (s.ptpArrival p { m with kind := k } a slave) ∧ ∀ x,
      s.KeepsFronthaul (slave x s) ∧ (k = .announce → d ∈ (slave x s).time.slave.heard) ∧
      (k = .sync → s.fromMaster m = true → (slave x s).time.slave.t2 = (x : Int)) := by
  simp only [List.mem_cons, Prod.mk.injEq, List.not_mem_nil, or_false] at h
  obtain ⟨rfl, rfl, rfl⟩ | ⟨rfl, rfl, rfl⟩ | ⟨rfl, rfl, rfl⟩ | ⟨rfl, rfl, rfl⟩ := h
  · exact ⟨_, rfl, fun x => ⟨(s.keepsNet_announceHeard d).fronthaul, fun _ => s.mem_heard_announceHeard d, nofun⟩⟩
  · exact ⟨_, rfl, fun x => ⟨s.keepsFronthaul_slaveSync _ x, nofun, fun _ hm => State.slaveSync_t2 hm x⟩⟩
  · exact ⟨_, rfl, fun x => ⟨s.keepsNet_self.fronthaul, nofun, nofun⟩⟩
  · exact ⟨_, rfl, fun x => ⟨(s.keepsNet_slaveFollowUp _).fronthaul, nofun, nofun⟩⟩

/-- The messages that are forwarded are those of `exec_ptpMessage` and Delay_Resp. -/
theorem mem_ptpMessages {us : Nat} (h : (i, k, a) ∈ [(Instr.announce p m d, PtpKind.announce, 0), (.sync p m stamp, .sync, stamp),
      (.delayReq p m stamp, .delayReq, stamp), (.followUp p m, .followUp, 0), (.delayResp p m us, .delayResp, 0)]) :
    (i, k, a) ∈ [(Instr.announce p m d, PtpKind.announce, 0), (.sync p m stamp, .sync, stamp),
      (.delayReq p m stamp, .delayReq, stamp), (.followUp p m, .followUp, 0)] ∨
    i = .delayResp p m us ∧ k = .delayResp ∧ a = 0 := by
  obtain h | h := (List.mem_append (s := [_, _, _, _]) (t := [_])).mp h
  · exact .inl h
  · exact .inr (by simpa using h)

/-- So is a Delay_Resp, but for what the start does next. -/
theorem exec_delayResp (s : State) (us : Nat) : ∃ t, exec (.delayResp p m us) s = .next t ∧ t.net =
    (s.ptpArrival p { m with kind := .delayResp } 0 fun _ s => s.slaveResponse { m with kind := .delayResp }).net :=
  ⟨_, rfl, ((State.onlyStart_advance _ _).congr State.net fun _ _ _ _ => rfl).trans rfl⟩

/-- The queues after a message that is forwarded. -/
theorem State.queueAt_ptpArrival {s : State} {slave : Nat → State → State} (hs : s.served 9 = true) (hopt : m.badOpt = false)
    (hdom : m.domain = s.plan.net.domain) (hslave : ∀ x, s.KeepsFronthaul (slave x s)) {q : Nat}
    (hq : (p = 8 ∧ q ∈ s.ptpPorts) ∨ (p ∈ s.ptpPorts ∧ q = 8)) :
    (s.ptpArrival p m stamp slave).queueAt q = s.queueAt q ++ [s.forwarded p m stamp] := by
  obtain ⟨rfl, hq⟩ | ⟨hp, rfl⟩ := hq
  · exact State.queueAt_ptpArrival_l2 hs hopt hdom (hslave _) hq
  · rw [State.ptpArrival_of_masked hs hopt hdom hp]
    exact (s.queueAt_enqueue ..).trans (if_pos rfl)

end

/-- Settles O54: `exec_ptpMessage` with what an arrival at the L2 port, at a port of the mask and at another port leaves. -/
theorem ptpMessagesGoWhereTheRuleSays : Obligations.PtpMessagesGoWhereTheRuleSays := by
  unfold Obligations.PtpMessagesGoWhereTheRuleSays
  intro s hs p stamp m d hopt hdom i k a hi x
  obtain ⟨slave, hexec, hslave⟩ := exec_ptpMessage s hi
  refine ⟨?_, fun hp hmask => ?_, fun hp hmask => ?_⟩
  · rintro rfl
    obtain ⟨hkeeps, hheard, hsync⟩ := hslave (a - s.ptpLat 8 0)
    have htime := State.ptpArrival_l2_time (m := { m with kind := k }) (stamp := a) (slave := slave) hs hopt hdom
    refine ⟨_, hexec, fun q hq hmask => ?_, fun hk => ?_, fun hk hm => ?_⟩
    · exact State.queueAt_ptpArrival_l2 (m := { m with kind := k }) hs hopt hdom hkeeps ((s.mem_ptpPorts q).mpr ⟨hq, hmask⟩)
    · rw [htime]
      exact hheard hk
    · have ha : a = stamp := by
        simp only [List.mem_cons, Prod.mk.injEq, List.not_mem_nil, or_false] at hi
        subst hk
        simp at hi
        exact hi.2
      rw [htime, hsync hk hm, ha]
  · rw [State.ptpArrival_of_masked (m := { m with kind := k }) hs hopt hdom ((s.mem_ptpPorts p).mpr ⟨hp, hmask⟩)] at hexec
    exact ⟨_, hexec, (s.queueAt_enqueue ..).trans (if_pos rfl), fun q hq => (s.queueAt_enqueue ..).trans (if_neg hq), rfl⟩
  · rwa [State.ptpArrival_of_unmasked (m := { m with kind := k }) hs hopt hdom (by omega) (by simp [s.mem_ptpPorts, hmask])] at hexec

/-- Settles O28: `State.queueAt_ptpArrival`, `State.followUpTimeout_counts` and `State.nonPlanned_leaves`. -/
theorem ptpMessagesAreForwarded : Obligations.PtpMessagesAreForwarded := by
  unfold Obligations.PtpMessagesAreForwarded
  intro s hs
  refine ⟨fun p stamp us m d i k a hi => ?_, fun seq src h => ⟨_, rfl, State.followUpTimeout_counts hs h⟩,
    fun p cycle stamp x rest hqueue hgap hlive => ?_⟩
  · obtain hi | ⟨rfl, rfl, rfl⟩ := mem_ptpMessages hi
    · obtain ⟨slave, hexec, hslave⟩ := exec_ptpMessage s hi
      refine ⟨fun hopt hdom => ⟨_, hexec, fun q hq => ?_⟩, fun _ hbad => ⟨_, hexec, ?_⟩⟩
      · exact State.queueAt_ptpArrival (m := { m with kind := k }) hs hopt hdom (fun x => (hslave x).1) hq
      · rw [State.ptpArrival_of_bad (m := { m with kind := k }) hs hbad]
        exact ⟨s.onlyRegs_self.bump .., s.fld_bump_same (by decide)⟩
    · obtain ⟨t, hexec, hnet⟩ := exec_delayResp (p := p) (m := m) s us
      refine ⟨fun hopt hdom => ⟨t, hexec, fun q hq => ?_⟩, fun hk => absurd rfl hk⟩
      rw [hnet]
      exact State.queueAt_ptpArrival (m := { m with kind := .delayResp }) hs hopt hdom
        (fun _ => (State.keepsNet_slaveResponse _ _).fronthaul) hq
  · obtain ⟨y, hrest, hsent⟩ := State.nonPlanned_leaves hs hqueue hgap hlive stamp
    exact ⟨_, y, rfl, hrest, hsent⟩

end Sys2Proof.Machine
end

section
/-! PROOF of O24 and O25: frames, requests, messages and sections that NET takes (R418, R425, R428, R430 to R432, R442,
R448). -/

namespace Sys2Proof.Machine

open Sys2Proof

section
variable {s : State} (hs : s.served 9 = true)
include hs

/-! ## Frames and requests (R418, R428, R448) -/

theorem State.ethernetFrame_of_bad_fcs (hlive : s.isShadow = false) {f : EthFrame} (hf : f.fcs = false) (p : Nat) :
    s.ethernetFrame p f = s.bump (winKey p Reg.NET_PCNT) 0 16 1 := by
  unfold State.ethernetFrame
  rw [State.inNet_of_served hs, if_neg (by simp [hlive]), if_pos (by simp [hf])]

/-- A good datagram at the L2 port sets the SEQ that is expected next. -/
theorem State.ethernetFrame_of_datagram (hlive : s.isShadow = false) {f : EthFrame} {seq : Nat} (hf : f.fcs = true)
    (hlock : s.lostLock 23 = false) (hmin : 64 ≤ f.len) (hmax : f.len ≤ 9216) (htags : f.tags ≤ 1)
    (htakes : s.takesFrame 8 f = true) (hroom : s.netUsed + f.len ≤ 2 ^ 24) (hudp : f.udp = some (true, seq)) :
    (s.ethernetFrame 8 f).net.peerSeq = some ((seq + 1) % 2 ^ 32) := by
  have hgood : (!f.fcs || s.lostLock (15 + 8) || decide (f.len < 64) || decide (9216 < f.len) || decide (1 < f.tags) ||
      !s.takesFrame 8 f) = false := by
    simp [hf, hlock, htakes, hmin, hmax, htags]
  unfold State.ethernetFrame
  rw [State.inNet_of_served hs, if_neg (by simp [hlive]), if_neg (by simp [hgood]), if_neg (Nat.not_lt.mpr hroom), hudp]
  rfl

theorem State.arpRequest_replies (mac ip : Nat) :
    s.arpRequest mac ip s.plan.net.ipv4 = s.enqueue 8 (.arpReply mac ip s.plan.net.ipv4) :=
  (State.inNet_of_served hs _).trans (if_pos rfl)

theorem State.neighbourSolicitation_replies (mac ip : Nat) {target : Nat} (h : s.plan.net.ipv6.contains target = true) :
    s.neighbourSolicitation mac ip target = s.enqueue 8 (.neighbour mac ip target) :=
  (State.inNet_of_served hs _).trans (if_pos h)

theorem State.ethernetLinkDown_clears (p : Nat) : (s.ethernetLinkDown p).bit (winKey p Reg.NET_PSTAT) 0 = false := by
  rw [State.ethernetLinkDown, State.inNet_of_served hs]
  exact s.bit_setBit_own false (by decide)

/-! ## ESMC PDUs and fault messages (R431, R442) -/

theorem State.esmcPdu_shows (ql : Nat) : (s.esmcPdu 8 ql).fld Reg.NET_SYNCE 8 4 = ql % 16 := by
  rw [State.esmcPdu, State.inNet_of_served hs]
  exact s.fld_setFld_mod (by decide)

theorem State.esmcTimeout_shows : s.esmcTimeout.fld Reg.NET_SYNCE 8 4 = 15 := by
  rw [State.esmcTimeout, State.inNet_of_served hs]
  exact s.fld_setFld_mod (by decide)

/-- An information PDU goes to each fronthaul port of the mask. -/
theorem State.queueAt_sendEsmc {p : Nat} (hp : p ∈ s.ptpPorts) (event : Bool) :
    (s.sendEsmc event).queueAt p = s.queueAt p ++ [.esmc event (s.fld Reg.NET_SYNCE 12 4)] := by
  rw [State.sendEsmc, State.inNet_of_served hs]
  exact (s.queueAt_enqueueAll (f := fun s => .esmc event (s.fld Reg.NET_SYNCE 12 4)) (fun _ _ _ => rfl) _
    s.nodup_ptpPorts p).trans (if_pos hp)

/-- FAULT sends the oldest record that is owed. -/
theorem State.faultMessage_sends {r : Record} {rest : List Record} (h : s.faults.copies = r :: rest) :
    s.faultMessage.faults.copies = rest ∧ (s.faultMessage.queueAt 8).length = (s.queueAt 8).length + 1 := by
  have hqueue (x : Sent) : ((s.enqueue 8 x).queueAt 8).length = (s.queueAt 8).length + 1 := by
    rw [s.queueAt_enqueue, if_pos rfl, List.length_append, List.length_singleton]
  rw [State.faultMessage, State.inNet_of_served hs, h]
  exact ⟨rfl, hqueue _⟩

/-! ## Messages and sections that wait (R425, R430, R432) -/

/-- A message of its type's length that its reader has not closed joins the waiting ones. -/
theorem State.l2Message_joins (hlive : s.isShadow = false) {m : L2Msg} (hsize : m.wellSized = true)
    (hopen : m.type = 2 ∨ SMap.read 0 s.net.closed m.type = 0) :
    s.l2Message m = { s with net := { s.net with msgs := s.net.msgs ++ [m] } } := by
  have hlate (b : Bool) : (m.type != 2 && decide (0 < SMap.read 0 s.net.closed m.type) && b) = false := by
    obtain h | h := hopen <;> simp [h]
  unfold State.l2Message
  rw [State.inNet_of_served hs, if_neg (by simp [hlive]), if_neg (by simp [hsize])]
  dsimp only
  rw [if_neg (by simp [hlate])]

theorem State.l2Message_of_wrong_size (hlive : s.isShadow = false) {m : L2Msg} (hsize : m.wellSized = false) :
    s.l2Message m = s.bump Reg.NET_L2CNT0 8 8 1 := by
  unfold State.l2Message
  rw [State.inNet_of_served hs, if_neg (by simp [hlive]), if_pos (by simp [hsize])]

/-- One for the air slot that its reader closed last is late. -/
theorem State.l2Message_of_late (hlive : s.isShadow = false) {m : L2Msg} (hsize : m.wellSized = true) (htype : m.type ≠ 2)
    (hclosed : SMap.read 0 s.net.closed m.type = m.airslot + 1) : s.l2Message m = s.bump Reg.NET_L2CNT0 16 16 1 := by
  unfold State.l2Message
  rw [State.inNet_of_served hs, if_neg (by simp [hlive]), if_neg (by simp [hsize])]
  dsimp only
  rw [if_pos (by simp [htype, hclosed])]

/-- A section with a legal header and a known eAxC that lands inside a window joins the sections. -/
theorem State.uPlaneSection_lands {cycle : Nat} {x : USection} (hlive : (s.reach cycle).isShadow = false)
    (hlock : (s.reach cycle).plan.net.eaxc.any (fun e => e.id == x.eaxc && (s.reach cycle).lostLock (15 + e.port)) = false)
    (hlegal : (x.rev != 1 || x.concat || x.msgType != 0 || !x.eBit || x.payVer != 1 || decide (3 < x.filter) || x.symInc
        || decide (273 < x.prbs.length)) = false)
    (hknown : (s.reach cycle).plan.net.eaxc.any (fun e => e.id = x.eaxc) = true)
    (hlands : ((s.reach cycle).windowsFor x).any
      (fun w => decide (w.1 ≤ (cycle : Int)) && decide ((cycle : Int) ≤ w.2)) = true) :
    (s.uPlaneSection cycle x).net.sections = (s.reach cycle).net.sections ++ [⟨(s.reach cycle).slot, x⟩] := by
  have hwindows : ((s.reach cycle).windowsFor x).isEmpty = false := by
    cases h : (s.reach cycle).windowsFor x with
    | nil => simp [h] at hlands
    | cons w ws => rfl
  unfold State.uPlaneSection
  rw [State.inNet_of_served hs]
  dsimp only
  generalize s.reach cycle = u at hlive hlock hknown hlands hwindows
  rw [if_neg (by rw [hlive, hlock]; decide), if_neg (by simp [hlegal]), if_neg (by rw [hknown]; decide),
    if_neg (by simp [hwindows]), if_pos hlands]

end

/-- Settles O24: what each arrival leaves, as the lemmas above state it. -/
theorem framesAreCountedQueuedAndTaken : Obligations.FramesAreCountedQueuedAndTaken := by
  unfold Obligations.FramesAreCountedQueuedAndTaken
  intro s hs
  have hlast (x : Sent) : (s.enqueue 8 x).queueAt 8 = s.queueAt 8 ++ [x] := (s.queueAt_enqueue ..).trans (if_pos rfl)
  refine ⟨fun p f hlive hf => ⟨_, congrArg Host.Outcome.next (State.ethernetFrame_of_bad_fcs hs hlive hf p),
      s.fld_bump_same (by decide), s.onlyRegs_self.bump ..⟩,
    fun f seq hlive hf hlock hmin hmax htags htakes hroom hudp =>
      ⟨_, rfl, State.ethernetFrame_of_datagram hs hlive hf hlock hmin hmax htags htakes hroom hudp⟩,
    fun mac ip => ⟨_, congrArg Host.Outcome.next (State.arpRequest_replies hs mac ip), hlast _⟩,
    fun mac ip target h => ⟨_, congrArg Host.Outcome.next (State.neighbourSolicitation_replies hs mac ip h), hlast _⟩,
    fun p => ⟨_, rfl, State.ethernetLinkDown_clears hs p⟩, fun ql => ⟨_, rfl, State.esmcPdu_shows hs ql⟩,
    ⟨_, rfl, State.esmcTimeout_shows hs⟩, ⟨_, rfl, fun p hp hmask => ?_⟩, fun r rest h => ⟨_, rfl, State.faultMessage_sends hs h⟩⟩
  exact State.queueAt_sendEsmc hs ((s.mem_ptpPorts p).mpr ⟨hp, hmask⟩) false

theorem exec_l2Message {m : L2Msg} {n : Nat} {i : L2Msg → Instr}
    (h : (n, i) ∈ [(1, Instr.bsr), (2, Instr.qos), (3, Instr.dldata)]) (s : State) :
    exec (i m) s = .next (s.l2Message { m with type := n }) := by
  simp only [List.mem_cons, Prod.mk.injEq, List.not_mem_nil, or_false] at h
  obtain ⟨rfl, rfl⟩ | ⟨rfl, rfl⟩ | ⟨rfl, rfl⟩ := h <;> rfl

/-- Settles O25: `State.l2Message_joins`, `State.l2Message_of_wrong_size`, `State.l2Message_of_late` and
`State.uPlaneSection_lands`. -/
theorem messagesAndSectionsWaitForTheirReaders : Obligations.MessagesAndSectionsWaitForTheirReaders := by
  unfold Obligations.MessagesAndSectionsWaitForTheirReaders
  intro s hs hlive
  refine ⟨fun m n i hi => ?_, fun cycle x hlive' hlock hrev hconcat htype hebit hver hfilter hsym hprbs hknown hlands =>
    ⟨_, rfl, State.uPlaneSection_lands hs hlive' hlock ?_ hknown hlands⟩⟩
  · have hexec := exec_l2Message (m := m) hi s
    refine ⟨fun hsize hopen => ⟨_, hexec, ?_⟩, fun hsize => ⟨_, hexec, ?_⟩, fun hsize hn hclosed => ⟨_, hexec, ?_⟩⟩
    · rw [State.l2Message_joins hs hlive hsize hopen]
      exact ⟨rfl, rfl⟩
    · rw [State.l2Message_of_wrong_size hs hlive hsize]
      exact ⟨s.onlyRegs_self.bump .., s.fld_bump_same (by decide)⟩
    · rw [State.l2Message_of_late hs hlive hsize hn hclosed]
      exact ⟨s.onlyRegs_self.bump .., s.fld_bump_same (by decide)⟩
  · simp [hrev, hconcat, htype, hebit, hver, hfilter, hsym, hprbs]

end Sys2Proof.Machine
end

section
/-! PROOF of O33 and O53: the events of the twin link (R485 to R488, R499, R502). -/

namespace Sys2Proof.Machine

open Sys2Proof

section
variable (s : State)

/-! ## The loss of a partner (R499) -/

/-- A partner loss that is held, or an attach that is to be aborted, stands in the twin alone. -/
theorem State.partnerLost_form (row : Nat) : s.partnerLost row = { s with twin :=
    { s.twin with loss := (s.partnerLost row).twin.loss, abort := (s.partnerLost row).twin.abort } } := by
  unfold State.partnerLost
  split
  · split
    · split <;> rfl
    · rfl
    · rfl
  · split <;> rfl

@[simp] theorem State.partnerLost_regs (row : Nat) : (s.partnerLost row).regs = s.regs := by
  rw [s.partnerLost_form]

@[simp] theorem State.partnerLost_reg (row k : Nat) : (s.partnerLost row).reg k = s.reg k :=
  State.reg_of_regs (s.partnerLost_regs row) k

@[simp] theorem State.partnerLost_mem (row : Nat) : (s.partnerLost row).mem = s.mem := by rw [s.partnerLost_form]

@[simp] theorem State.partnerLost_pins (row : Nat) : (s.partnerLost row).pins = s.pins := by rw [s.partnerLost_form]

@[simp] theorem State.partnerLost_marker (row : Nat) : (s.partnerLost row).twin.marker = s.twin.marker := by
  rw [s.partnerLost_form]

@[simp] theorem State.partnerLost_staging (row : Nat) : (s.partnerLost row).twin.staging = s.twin.staging := by
  rw [s.partnerLost_form]

/-- The first loss of the partner of a PAIRED twin is held with its row, slot and cycle. -/
theorem State.partnerLost_of_paired (row : Nat) (h : s.twinState = 3) (hl : s.twin.loss = none) :
    s.partnerLost row = { s with twin := { s.twin with loss := some (row, s.slot, s.clock.cc) } } := by
  unfold State.partnerLost
  rw [if_pos h, hl]

/-! ## A superframe (R485 to R488) -/

/-- What a superframe leaves in the twin, in the state of its cycle. -/
def State.landFrame (s : State) (t lat : Nat) (m : Marker) (gs : List Granule) : State :=
  let s := s.setFld Reg.TWN_LAT 0 12 lat
  let off : Int := (t : Int) - (64 * m.index + lat : Nat)
  let ok := decide (off.natAbs ≤ 4) && m.slot == s.slot
  let room := 16384 - s.twin.staging.length
  { s with twin := { s.twin with
    marker := some m, aligned := ok
    staging := s.twin.staging ++ ((gs.take 63).take room).map fun g =>
      (s.slot, { g with void := g.void || s.lostLock 26 }) } }

/-- The latency that an echo gives, in 12 bits. -/
def State.echoLatency (s : State) (t : Nat) (m : Marker) : Nat :=
  (max 0 (min 4095 ((((s.slot : Int) - m.echo.1) * s.slotLen + t - 64 * m.echo.2) / 2))).toNat

theorem State.superframe_eq (t : Nat) (m : Marker) (gs : List Granule) (h : s.served 12 = true)
    (hl : s.linkUp = true) : s.superframe t m gs =
      let u := (s.reach t).landFrame t ((s.reach t).echoLatency t m) m gs
      if m.fatal then u.partnerLost 0 else u := by
  unfold State.superframe
  rw [h, hl]
  rfl

theorem State.fld_landFrame (t : Nat) {lat : Nat} (hlat : lat < 4096) (m : Marker) (gs : List Granule) :
    (s.landFrame t lat m gs).fld Reg.TWN_LAT 0 12 = lat :=
  (s.fld_setFld_mod (by decide)).trans (Nat.mod_eq_of_lt hlat)

theorem State.landFrame_staging_length (t lat : Nat) (m : Marker) (gs : List Granule)
    (h : s.twin.staging.length ≤ 16384) : (s.landFrame t lat m gs).twin.staging.length
      = min 16384 (s.twin.staging.length + min 63 gs.length) := by
  have hlen : (s.landFrame t lat m gs).twin.staging.length
      = (s.twin.staging ++ ((gs.take 63).take (16384 - s.twin.staging.length)).map fun g =>
        (s.slot, ({ g with void := g.void || s.lostLock 26 } : Granule))).length := by
    unfold State.landFrame
    simp only [List.length_append, List.length_map, List.length_take]
    rfl
  rw [hlen, List.length_append, List.length_map, List.length_take, List.length_take]
  omega

theorem State.echoLatency_lt (t : Nat) (m : Marker) : s.echoLatency t m < 4096 := by
  unfold State.echoLatency
  omega

/-! ## The link and TWIN_PEER (R483, R488) -/

/-- The link is down, and counted. -/
def State.lowerLink (s : State) : State := (s.setBit Reg.TWN_STAT 4 false).bump Reg.TWN_LNK 16 8 1

theorem State.onlyRegs_lowerLink : s.OnlyRegs s.lowerLink := (s.onlyRegs_self.setBit ..).bump ..

/-- The link is down, counted and recorded. -/
def State.dropLink (s : State) (lanes : Nat) : State :=
  s.lowerLink.raiseIf (!s.lowerLink.looped .switu) 0x0A03 .detected linkLayer.loc lanes 0

/-- TWIN_PEER is low. -/
def State.dropPeer (s : State) : State :=
  { (s.setBit Reg.TWN_STAT 5 false) with pins := { s.pins with twinPeer := false } }

theorem State.switDown_eq (lanes : Nat) (h : s.linkUp = true) :
    s.switDown lanes = (s.dropLink lanes).partnerLost (if (s.dropLink lanes).pins.twinPeer then 2 else 1) := by
  unfold State.switDown State.dropLink State.lowerLink
  simp only [h, Bool.not_true, Bool.false_eq_true, if_false]

theorem State.dropLink_form (lanes : Nat) : s.dropLink lanes =
    { s with regs := (s.dropLink lanes).regs, faults := (s.dropLink lanes).faults } := by
  have hu := s.onlyRegs_lowerLink
  unfold State.dropLink State.raiseIf
  generalize s.lowerLink = u at *
  split
  · have he := u.raise_detected_form 0x0A03 linkLayer.loc lanes 0
    generalize u.raise 0x0A03 .detected linkLayer.loc lanes 0 = v at *
    refine he.trans ?_
    rw [hu]
  · rw [hu.congr State.faults fun _ => rfl]
    exact hu

theorem State.reg_dropLink (lanes : Nat) {k : Nat} (hl : k ≠ Reg.FLT_LOST) (hc : k ≠ Reg.FLT_CNTD) :
    (s.dropLink lanes).reg k = s.lowerLink.reg k := by
  unfold State.dropLink State.raiseIf
  split
  · exact State.reg_raise_detected _ _ _ _ _ hl hc
  · rfl

/-- A link that goes down is counted, and the partner of a PAIRED twin is held as lost. -/
theorem State.switDown_holds (lanes : Nat) (h : s.linkUp = true) : ∃ t, exec (.swituLinkDown lanes) s = .next t ∧
    t.linkUp = false ∧ t.fld Reg.TWN_LNK 16 8 = min (s.fld Reg.TWN_LNK 16 8 + 1) 255 ∧
    (s.twinState = 3 → s.twin.loss = none →
      t.twin.loss = some (if s.pins.twinPeer = true then 2 else 1, s.slot, s.clock.cc)) ∧ t.mem = s.mem := by
  refine ⟨_, congrArg Host.Outcome.next (s.switDown_eq lanes h), ?_⟩
  have hform := s.dropLink_form lanes
  have hstat := s.reg_dropLink lanes (k := Reg.TWN_STAT) (by decide) (by decide)
  have hlnk := s.reg_dropLink lanes (k := Reg.TWN_LNK) (by decide) (by decide)
  have hslot : (s.dropLink lanes).slot = s.slot := by
    refine congrArg BitVec.toNat ((s.reg_dropLink lanes (by decide) (by decide)).trans ?_)
    exact ((s.setBit ..).reg_bump_apart _ _ _ (by decide)).trans (s.reg_setBit_apart _ _ (by decide))
  unfold State.lowerLink at hstat hlnk
  generalize s.dropLink lanes = u at *
  have hup : u.linkUp = false := (State.bit_of_reg hstat 4).trans (by simp (disch := decide))
  have hst : u.twinState = s.twinState := (State.fld_of_reg hstat 0 3).trans (by
    simp (disch := decide) only [State.fld_bump_away, State.fld_setBit_off]
    rfl)
  have hcount : u.fld Reg.TWN_LNK 16 8 = min (s.fld Reg.TWN_LNK 16 8 + 1) 255 :=
    (State.fld_of_reg hlnk 16 8).trans (by simp (disch := decide))
  have htwin : u.twin = s.twin := by rw [hform]
  have hmem : u.mem = s.mem := by rw [hform]
  have hpins : u.pins = s.pins := by rw [hform]
  have hclock : u.clock = s.clock := by rw [hform]
  refine ⟨(State.bit_of_reg (u.partnerLost_reg _ _) 4).trans hup, (State.fld_of_reg (u.partnerLost_reg _ _) 16 8).trans
    hcount, fun hs hl => ?_, (u.partnerLost_mem _).trans hmem⟩
  rw [u.partnerLost_of_paired _ (hst.trans hs) (htwin ▸ hl), hpins, hslot, hclock]

end

/-- Settles O33: each event is written out as an update of registers, balls and the twin, and a loss is held as
`partnerLost_of_paired` says. -/
theorem twinLinkEventsAreHeld : Obligations.TwinLinkEventsAreHeld := by
  unfold Obligations.TwinLinkEventsAreHeld
  intro s
  refine ⟨fun t m gs hserved hlink => ?_, fun lanes hlink => ?_, ?_, fun hs hl => ?_⟩
  · dsimp only
    intro hroom
    refine ⟨_, congrArg Host.Outcome.next (s.superframe_eq t m gs hserved hlink), ?_⟩
    generalize s.reach t = s1 at hroom ⊢
    have hlat := s1.fld_landFrame t (s1.echoLatency_lt t m) m gs
    have hlen := s1.landFrame_staging_length t (s1.echoLatency t m) m gs hroom
    have hloss : (s1.landFrame t (s1.echoLatency t m) m gs).twin.loss = s1.twin.loss := rfl
    have hmarker : (s1.landFrame t (s1.echoLatency t m) m gs).twin.marker = some m := rfl
    have hmem : (s1.landFrame t (s1.echoLatency t m) m gs).mem = s1.mem := rfl
    dsimp only
    generalize s1.landFrame t (s1.echoLatency t m) m gs = u at *
    split
    next hf =>
      exact ⟨(u.partnerLost_marker 0).trans hmarker, (State.fld_of_reg (u.partnerLost_reg 0 _) _ _).trans hlat,
        (congrArg List.length (u.partnerLost_staging 0)).trans hlen, fun h => absurd hf (ne_true_of_eq_false h),
        (u.partnerLost_mem 0).trans hmem⟩
    · exact ⟨hmarker, hlat, hlen, fun _ => hloss, hmem⟩
  · exact s.switDown_holds lanes hlink
  · refine ⟨_, rfl, ?_⟩
    have hpeer : (s.dropPeer).twinState = s.twinState := s.fld_setBit_off false (by decide) (by decide)
    have hlow : (s.dropPeer).bit Reg.TWN_STAT 5 = false := s.bit_setBit_own false (by decide)
    have hslot : (s.dropPeer).slot = s.slot :=
      congrArg BitVec.toNat (s.reg_setBit_apart (k := Reg.TWN_STAT) 5 false (by decide))
    refine ⟨?_, ?_, fun hs hl => ?_⟩
    · exact congrArg Pins.twinPeer (s.dropPeer.partnerLost_pins 0)
    · exact (State.bit_of_reg (s.dropPeer.partnerLost_reg 0 _) _).trans hlow
    · refine (congrArg (·.twin.loss) (s.dropPeer.partnerLost_of_paired 0 (hpeer.trans hs) hl)).trans ?_
      exact congrArg (fun n => some (0, n, s.clock.cc)) hslot
  · have h := s.partnerLost_of_paired 0 hs hl
    refine ⟨_, rfl, ?_, congrArg (·.twin.loss) h⟩
    exact h.trans (congrArg (fun w : Twin => { s with twin := w }) (congrArg State.twin h.symm))

/-! ## The variant that runs alone (R502) -/

/-- A twin that runs alone, with its link up and its regions powered, and with an effect of TWIN due in cycle 0 that writes
DET.VARIANT. No command of the model queues such an effect; the statement speaks of every state. -/
def owesVariant : State :=
  { regs := [(Reg.PWR_DOM, 0x3FFFFFFF), (Reg.TWN_STAT, 0x10)], due := [⟨0, 12, .put Reg.DET_VARIANT 0 16 1⟩] }

/-- The marker of a partner whose slot 0 begins. -/
def idleMarker : Marker := ⟨0, 0, false, false, (0, 0)⟩

theorem owesVariant_alone : owesVariant.twinState = 0 := by decide

theorem owesVariant_active : owesVariant.active = 0 := by decide

theorem superframe_owesVariant_active : (owesVariant.superframe 1 idleMarker []).active = 1 := by decide

/-- Refutes O53: a superframe reaches its cycle, and what is due before then takes place; in `owesVariant` that is a write
of the active variant, which the statement does not rule out. -/
theorem not_aloneTheLossVariantIsTheRunningOne : ¬ Obligations.AloneTheLossVariantIsTheRunningOne := by
  unfold Obligations.AloneTheLossVariantIsTheRunningOne
  intro h
  obtain ⟨t, ht, hactive, -⟩ := (h owesVariant (.inl owesVariant_alone)).2 false 0 1 0 idleMarker [] (.superframe 1 idleMarker []) (by simp)
  have hsame : owesVariant.superframe 1 idleMarker [] = t := Host.Outcome.next.inj ht
  rw [← hsame, superframe_owesVariant_active, owesVariant_active] at hactive
  exact absurd hactive (by decide)

end Sys2Proof.Machine
end

section
/-! PROOF of O34: slot digests (R496 to R498). -/

namespace Sys2Proof.Machine

open Sys2Proof

section
variable (s : State)

@[simp] theorem State.suspectSlot_regs : s.suspectSlot.regs = s.regs :=
  foldl_keeps State.regs (fun t _ => t.suspectEntry_regs ..) _ s

/-- A detected fault of the link layer leaves the registers of the twin link alone. -/
theorem State.reg_raise_twin (code d0 d1 : Nat) {k : Nat} (hk : k ∈ [Reg.TWN_DSLOT, Reg.TWN_CNT, Reg.TWN_STAT, Reg.TWN_LNK]) :
    (s.raise code .detected linkLayer.loc d0 d1).reg k = s.reg k :=
  s.reg_raise_detected code _ d0 d1 (by rintro rfl; revert hk; decide) (by rintro rfl; revert hk; decide)

/-! ## A comparison of digests that differ (R498) -/

/-- The mismatch is counted and recorded. -/
def State.countMismatch (s : State) (a b : SlotDigest) : State :=
  let n := s.slotBack 1
  ((s.setReg Reg.TWN_DSLOT (BitVec.ofNat 32 n)).bump Reg.TWN_CNT 0 16 1).raise 0x0A01 .detected linkLayer.loc n
    ((if a.isLocal then 1 else 0) + (if b.isLocal then 2 else 0))

/-- A swap at the next slot tick. -/
def State.swapNext (s : State) : State := { s with twin := { s.twin with swapAt := some ((s.slot + 1) % 2 ^ 32) } }

/-- A twin with a local fault that its partner does not have counts a yield. -/
def State.countYield (s : State) (n : Nat) : State :=
  (s.bump Reg.TWN_CNT 24 8 1).raise 0x0A06 .detected linkLayer.loc n 0

/-- What a mismatch makes of the roles and of the exit buffers. -/
def State.answerMismatch (s : State) (n : Nat) (mine other : Bool) : State :=
  if mine && !other then if (s.countYield n).isLive then (s.countYield n).swapNext else s.countYield n
  else if other && !mine then if s.isLive then s else s.swapNext
  else if mine then s
  else (s.setBit Reg.TWN_STAT 6 true).suspectSlot

theorem State.digestCompare_of_both {a b : SlotDigest} (hs : s.twinState = 3) (hm : s.twinMode = 1)
    (ha : s.twin.own = some a) (hb : s.twin.peer = some b) (hna : a.slot = s.slotBack 1) (hnb : b.slot = s.slotBack 1) :
    s.digestCompare = if a.value == b.value then
        (s.setReg Reg.TWN_DSLOT (BitVec.ofNat 32 (s.slotBack 1))).setBit Reg.TWN_STAT 6 false
      else (s.countMismatch a b).answerMismatch (s.slotBack 1) a.isLocal b.isLocal := by
  unfold State.digestCompare
  rw [hs, hm, ha, hb]
  simp only [Option.filter, hna, hnb, beq_self_eq_true, if_true, decide_true, Bool.and_self, Bool.not_true,
    Bool.false_eq_true, if_false]
  rfl

theorem State.digestCompare_of_missing (hs : s.twinState = 3) (hm : s.twinMode = 1)
    (h : s.twin.own = none ∨ s.twin.peer = none) : s.digestCompare
      = (s.bump Reg.TWN_LNK 24 8 1).raise 0x0A07 .detected linkLayer.loc (s.slotBack 1) 0 := by
  unfold State.digestCompare
  rw [hs, hm]
  simp only [decide_true, Bool.and_self, Bool.not_true, Bool.false_eq_true, if_false]
  rcases h with h | h
  · rw [h]
    rfl
  · rw [h]
    cases s.twin.own.filter fun d => d.slot == s.slotBack 1 <;> rfl

theorem State.reg_countMismatch (a b : SlotDigest) {k : Nat}
    (hk : k ∈ [Reg.TWN_DSLOT, Reg.TWN_CNT, Reg.TWN_STAT]) : (s.countMismatch a b).reg k
      = ((s.setReg Reg.TWN_DSLOT (BitVec.ofNat 32 (s.slotBack 1))).bump Reg.TWN_CNT 0 16 1).reg k :=
  State.reg_raise_twin _ _ _ _ (by revert hk; simp only [List.mem_cons]; tauto)

theorem State.countMismatch_holds (a b : SlotDigest) :
    (s.countMismatch a b).reg Reg.TWN_DSLOT = BitVec.ofNat 32 (s.slotBack 1) ∧
    (s.countMismatch a b).fld Reg.TWN_CNT 0 16 = min (s.fld Reg.TWN_CNT 0 16 + 1) 65535 ∧
    (s.countMismatch a b).isLive = s.isLive ∧ (s.countMismatch a b).slot = s.slot := by
  have hslot := (s.setReg Reg.TWN_DSLOT (BitVec.ofNat 32 (s.slotBack 1))).bump Reg.TWN_CNT 0 16 1
    |>.reg_raise_detected 0x0A01 linkLayer.loc (s.slotBack 1) ((if a.isLocal then 1 else 0) + (if b.isLocal then 2 else 0))
      (k := Reg.TCK_SLOTNUM) (by decide) (by decide)
  refine ⟨(s.reg_countMismatch a b (by decide)).trans ?_,
    (State.fld_of_reg (s.reg_countMismatch a b (by decide)) 0 16).trans ?_,
    (State.bit_of_reg (s.reg_countMismatch a b (by decide)) 3).trans ?_, congrArg BitVec.toNat (hslot.trans ?_)⟩
  · rw [State.reg_bump_apart _ _ _ _ (by decide), State.reg_setReg_same]
  · simp (disch := decide)
  · simp (disch := decide)
    rfl
  · simp (disch := decide)

theorem State.reg_countYield (n : Nat) {k : Nat} (hl : k ≠ Reg.FLT_LOST) (hc : k ≠ Reg.FLT_CNTD) :
    (s.countYield n).reg k = (s.bump Reg.TWN_CNT 24 8 1).reg k := State.reg_raise_detected _ _ _ _ _ hl hc

/-- An answer leaves the slot shown and the count of mismatches alone. -/
theorem State.answerMismatch_keeps (n : Nat) (mine other : Bool) :
    (s.answerMismatch n mine other).reg Reg.TWN_DSLOT = s.reg Reg.TWN_DSLOT ∧
    (s.answerMismatch n mine other).fld Reg.TWN_CNT 0 16 = s.fld Reg.TWN_CNT 0 16 := by
  have hyield : (s.countYield n).reg Reg.TWN_DSLOT = s.reg Reg.TWN_DSLOT ∧
      (s.countYield n).fld Reg.TWN_CNT 0 16 = s.fld Reg.TWN_CNT 0 16 :=
    ⟨(s.reg_countYield n (by decide) (by decide)).trans (s.reg_bump_apart _ _ _ (by decide)),
      (State.fld_of_reg (s.reg_countYield n (by decide) (by decide)) _ _).trans
        (s.fld_bump_off (by decide) (by decide) (by decide))⟩
  have hsuspect (k : Nat) : (s.setBit Reg.TWN_STAT 6 true).suspectSlot.reg k = (s.setBit Reg.TWN_STAT 6 true).reg k :=
    State.reg_of_regs (State.suspectSlot_regs _) k
  unfold State.answerMismatch
  cases mine <;> cases other
  · exact ⟨(hsuspect _).trans (s.reg_setBit_apart _ _ (by decide)),
      State.fld_of_reg ((hsuspect _).trans (s.reg_setBit_apart _ _ (by decide))) _ _⟩
  · change (if s.isLive then s else s.swapNext).reg _ = _ ∧ (if s.isLive then s else s.swapNext).fld _ _ _ = _
    split <;> exact ⟨rfl, rfl⟩
  · change (if (s.countYield n).isLive then (s.countYield n).swapNext else s.countYield n).reg _ = _ ∧
      (if (s.countYield n).isLive then (s.countYield n).swapNext else s.countYield n).fld _ _ _ = _
    split <;> exact hyield
  · exact ⟨rfl, rfl⟩

theorem State.answerMismatch_of_own_fault (n : Nat) (h : s.isLive = true) :
    (s.answerMismatch n true false).twin.swapAt = some ((s.slot + 1) % 2 ^ 32) := by
  have hlive : (s.countYield n).isLive = true :=
    (State.bit_of_reg (s.reg_countYield n (k := Reg.TWN_STAT) (by decide) (by decide)) 3).trans
      ((s.bit_bump_away _ _ _ (by decide) 3).trans h)
  have hslot : (s.countYield n).slot = s.slot :=
    congrArg BitVec.toNat ((s.reg_countYield n (by decide) (by decide)).trans (s.reg_bump_apart _ _ _ (by decide)))
  have heq : s.answerMismatch n true false = (s.countYield n).swapNext := if_pos hlive
  rw [heq, ← hslot]
  rfl

theorem State.answerMismatch_of_no_fault (n : Nat) : (s.answerMismatch n false false).bit Reg.TWN_STAT 6 = true :=
  (State.bit_of_reg (State.reg_of_regs (State.suspectSlot_regs _) _) 6).trans (s.bit_setBit_own true (by decide))

end

/-- Settles O34: by the equation of a comparison with both digests (`digestCompare_of_both`) and of one that misses a digest
(`digestCompare_of_missing`), and by what the answer to a mismatch leaves. -/
theorem slotDigestsAreExchanged : Obligations.SlotDigestsAreExchanged := by
  unfold Obligations.SlotDigestsAreExchanged
  intro s hs hm
  have hpaired : (decide (s.twinState = 3) && decide (s.twinMode = 1)) = true := by rw [hs, hm]; rfl
  refine ⟨fun d hl hd => ?_, fun d hl => ?_, fun a b ha hb hna hnb => ?_, fun h => ?_⟩
  · have heq : s.digestSend = (s.setReg Reg.TWN_DIGLO (d.value.setWidth 32)).setReg Reg.TWN_DIGHI
        ((d.value >>> 32).setWidth 32) := by
      unfold State.digestSend
      rw [hd]
      exact if_pos (by rw [hpaired, hl]; rfl)
    refine ⟨_, congrArg Host.Outcome.next heq, rfl, ?_, State.reg_setReg_same ..⟩
    rw [State.reg_setReg_apart _ _ (by decide), State.reg_setReg_same]
  · have heq : s.digestArrived d = (({ s with twin := { s.twin with peer := some d } } : State).setReg Reg.TWN_PDIGLO
        (d.value.setWidth 32)).setReg Reg.TWN_PDIGHI ((d.value >>> 32).setWidth 32) := by
      unfold State.digestArrived
      exact if_pos (by rw [hpaired, hl]; rfl)
    refine ⟨_, congrArg Host.Outcome.next heq, rfl, ?_, State.reg_setReg_same .., rfl⟩
    rw [State.reg_setReg_apart _ _ (by decide), State.reg_setReg_same]
  · refine ⟨_, congrArg Host.Outcome.next (s.digestCompare_of_both hs hm ha hb hna hnb), ?_⟩
    by_cases hv : a.value = b.value
    · rw [if_pos (beq_iff_eq.mpr hv)]
      refine ⟨?_, fun _ => ⟨State.bit_setBit_own _ _ (by decide),
        (s.onlyRegs_self.setReg ..).setBit ..⟩, fun h => absurd hv h⟩
      rw [State.reg_setBit_apart _ _ _ (by decide), State.reg_setReg_same]
    · rw [if_neg (by simpa using hv)]
      obtain ⟨hdslot, hcnt, hlive, hslot⟩ := s.countMismatch_holds a b
      generalize s.countMismatch a b = u at *
      obtain ⟨hkd, hkc⟩ := u.answerMismatch_keeps (s.slotBack 1) a.isLocal b.isLocal
      refine ⟨hkd.trans hdslot, fun h => absurd h hv, fun _ => ⟨hkc.trans hcnt, fun hal hbl hl => ?_, fun hal hbl => ?_⟩⟩
      · rw [hal, hbl, ← hslot]
        exact u.answerMismatch_of_own_fault _ (hlive.trans hl)
      · rw [hal, hbl]
        exact u.answerMismatch_of_no_fault _
  · refine ⟨_, congrArg Host.Outcome.next (s.digestCompare_of_missing hs hm h), ?_⟩
    refine (State.fld_of_reg (State.reg_raise_twin _ _ _ _ (by decide)) 24 8).trans ?_
    exact s.fld_bump_same (by decide)

end Sys2Proof.Machine
end

section
/-! SUPPORT. What a plan switch at the asking of the twin link leaves alone (R308 to R311, R499). -/

namespace Sys2Proof.Machine

open Sys2Proof

/-- The twin, the cycle and the registers of `p` are the same. -/
structure State.KeepsTwin (p : Nat → Prop) (s t : State) : Prop where
  twin : t.twin = s.twin
  clock : t.clock = s.clock
  reg : ∀ k, p k → t.reg k = s.reg k

namespace State.KeepsTwin

variable {p q : Nat → Prop} {s t u : State}

theorem self (p : Nat → Prop) (s : State) : s.KeepsTwin p s := ⟨rfl, rfl, fun _ _ => rfl⟩

theorem trans (h : s.KeepsTwin p t) (h' : t.KeepsTwin p u) : s.KeepsTwin p u :=
  ⟨h'.twin.trans h.twin, h'.clock.trans h.clock, fun k hk => (h'.reg k hk).trans (h.reg k hk)⟩

theorem mono (h : s.KeepsTwin q t) (hpq : ∀ k, p k → q k) : s.KeepsTwin p t :=
  ⟨h.twin, h.clock, fun k hk => h.reg k (hpq k hk)⟩

theorem ite {c : Prop} [Decidable c] (ht : c → s.KeepsTwin p t) (hu : ¬ c → s.KeepsTwin p u) :
    s.KeepsTwin p (if c then t else u) := by
  split
  next h => exact ht h
  next h => exact hu h

theorem foldl {β : Type} {f : State → β → State} (l : List β) (hf : ∀ (t : State), ∀ b ∈ l, t.KeepsTwin p (f t b)) :
    s.KeepsTwin p (l.foldl f s) := by
  induction l generalizing s with
  | nil => exact self p s
  | cons b l ih => exact (hf s b List.mem_cons_self).trans (ih fun t c hc => hf t c (List.mem_cons_of_mem _ hc))

theorem fld (h : s.KeepsTwin p t) {k : Nat} (hk : p k) (lo n : Nat) : t.fld k lo n = s.fld k lo n :=
  State.fld_of_reg (h.reg k hk) lo n

theorem bit (h : s.KeepsTwin p t) {k : Nat} (hk : p k) (i : Nat) : t.bit k i = s.bit k i :=
  State.bit_of_reg (h.reg k hk) i

/-! ### Writes of other registers -/

theorem setReg (h : s.KeepsTwin p t) {k : Nat} (w : Word) (hk : ∀ j, p j → j ≠ k) : s.KeepsTwin p (t.setReg k w) :=
  ⟨h.twin, h.clock, fun j hj => (t.reg_setReg_apart w (hk j hj)).trans (h.reg j hj)⟩

theorem setFld (h : s.KeepsTwin p t) {k : Nat} (lo n v : Nat) (hk : ∀ j, p j → j ≠ k) :
    s.KeepsTwin p (t.setFld k lo n v) :=
  ⟨h.twin, h.clock, fun j hj => (t.reg_setFld_apart lo n v (hk j hj)).trans (h.reg j hj)⟩

theorem setBit (h : s.KeepsTwin p t) {k : Nat} (i : Nat) (b : Bool) (hk : ∀ j, p j → j ≠ k) :
    s.KeepsTwin p (t.setBit k i b) :=
  ⟨h.twin, h.clock, fun j hj => (t.reg_setBit_apart i b (hk j hj)).trans (h.reg j hj)⟩

theorem bump (h : s.KeepsTwin p t) {k : Nat} (lo n v : Nat) (hk : ∀ j, p j → j ≠ k) :
    s.KeepsTwin p (t.bump k lo n v) :=
  ⟨h.twin, h.clock, fun j hj => (t.reg_bump_apart lo n v (hk j hj)).trans (h.reg j hj)⟩

theorem raise_detected (h : s.KeepsTwin p t) (code : Nat) (loc : BitVec 64) (d0 d1 : Nat)
    (hl : ∀ j, p j → j ≠ Reg.FLT_LOST) (hc : ∀ j, p j → j ≠ Reg.FLT_CNTD) :
    s.KeepsTwin p (t.raise code .detected loc d0 d1) :=
  ⟨(t.raise_twin ..).trans h.twin, (t.raise_clock ..).trans h.clock, fun j hj =>
    (t.reg_raise_detected code loc d0 d1 (hl j hj) (hc j hj)).trans (h.reg j hj)⟩

theorem raise_masked (h : s.KeepsTwin p t) (code : Nat) (loc : BitVec 64) (d0 d1 : Nat)
    (hl : ∀ j, p j → j ≠ Reg.FLT_LOST) (hc : ∀ j, p j → j ≠ Reg.FLT_CNTM) :
    s.KeepsTwin p (t.raise code .masked loc d0 d1) :=
  ⟨(t.raise_twin ..).trans h.twin, (t.raise_clock ..).trans h.clock, fun j hj =>
    (t.reg_raise_masked code loc d0 d1 (hl j hj) (hc j hj)).trans (h.reg j hj)⟩

theorem abortWhere (h : s.KeepsTwin p t) (f : Ctx → Bool) (g : Job → Bool) (hk : ∀ j, p j → abortSpares j) :
    s.KeepsTwin p (t.abortWhere f g) :=
  ⟨(t.abortWhere_twin ..).trans h.twin, (t.abortWhere_clock ..).trans h.clock, fun j hj =>
    (t.reg_abortWhere f g (hk j hj)).trans (h.reg j hj)⟩

end State.KeepsTwin

/-! ## A plan switch -/

/-- The registers that a plan switch shows itself in. -/
def switchRegs : List Nat := [Reg.DET_VARIANT, Reg.SPL_SWLAST, Reg.SPL_SWCAUSE, Reg.SPL_SWCNT, Reg.SPL_PATTERN,
  Reg.PWR_CAP, Reg.TWN_VAR, Reg.FLT_LOST, Reg.FLT_CNTD]

/-- A register that a plan switch leaves alone outside Trim. -/
abbrev switchSpares (k : Nat) : Prop := abortSpares k ∧ k ∉ switchRegs

theorem switchSpares.ne {k : Nat} (hk : switchSpares k) {j : Nat} (hj : j ∈ switchRegs) : k ≠ j :=
  fun h => hk.2 (h ▸ hj)

section
variable (s : State)

/-- A switch writes what it installed into its registers. -/
def State.showSwitch (s : State) (v cause n : Nat) (cold : Bool) : State :=
  let u := s.active
  let new := s.variant v
  let s := s.loadTables.setFld Reg.DET_VARIANT 0 16 v
  let s := s.setReg Reg.SPL_SWLAST (BitVec.ofNat 32 n)
  let s := s.setReg Reg.SPL_SWCAUSE (BitVec.ofNat 32
    (u % 2 ^ 16 + cause * 2 ^ 16 + (if cold then 2 ^ 18 else 0)))
  let s := if cause = 1 then s.bump Reg.SPL_SWCNT 0 16 1
    else if cause = 2 then s.bump Reg.SPL_SWCNT 16 16 1 else s
  s.setFld Reg.PWR_CAP 16 13 new.peak

/-- It names the partner's variant and the one for the partner's loss. -/
def State.showPair (s : State) (pair : Option PairInfo) : State :=
  match pair with
  | some p => (s.setFld Reg.TWN_VAR 0 16 p.peerVariant).setFld Reg.TWN_VAR 16 16 p.loss
  | none => s

/-- A cold switch is recorded (R310). -/
def State.recordCold (s : State) (cold : Bool) (u v n : Nat) : State :=
  if cold then
    { (s.raise 0x0304 .detected chipLoc (v % 2 ^ 16 + u % 2 ^ 16 * 2 ^ 16) n) with
      plan := { s.plan with coldAt := some n } }
  else s

theorem State.install_untrimmed (v cause n f : Nat) (cold : Bool) (hcold : (!s.isWarm (s.variant s.active) (s.variant v) f) = cold)
    (t : State) (ht : ((((s.showSwitch v cause n cold).showPair (s.variant v).pair).recordCold cold s.active v n).abortWhere
      (fun x => !(s.variant v).regions.testBit x.image.home && !x.queue.isEmpty) fun _ => true) = t)
    (h : t.bit Reg.PWR_STATE 4 = false) : s.install v cause n f = t := by
  subst hcold ht
  exact if_neg (ne_true_of_eq_false h)

theorem State.showSwitch_keeps (v cause n : Nat) (cold : Bool) :
    s.KeepsTwin switchSpares (s.showSwitch v cause n cold) := by
  have hne (j : Nat) (hj : j ∈ switchRegs) (k : Nat) (hk : switchSpares k) : k ≠ j := hk.ne hj
  unfold State.showSwitch
  extract_lets u new s1 s2 s3 s4
  have h0 : s.KeepsTwin switchSpares s.loadTables := ⟨rfl, rfl, fun _ _ => rfl⟩
  have h1 : s.KeepsTwin switchSpares s1 := h0.setFld _ _ _ (hne _ (by decide))
  have h3 : s.KeepsTwin switchSpares s3 := (h1.setReg _ (hne _ (by decide))).setReg _ (hne _ (by decide))
  have h4 : s.KeepsTwin switchSpares s4 := .ite (fun _ => h3.bump _ _ _ (hne _ (by decide))) fun _ =>
    .ite (fun _ => h3.bump _ _ _ (hne _ (by decide))) fun _ => h3
  exact h4.setFld _ _ _ (hne _ (by decide))

theorem State.showPair_keeps (pair : Option PairInfo) : s.KeepsTwin switchSpares (s.showPair pair) := by
  have hne (k : Nat) (hk : switchSpares k) : k ≠ Reg.TWN_VAR := hk.ne (by decide)
  cases pair with
  | none => exact .self ..
  | some p => exact ((State.KeepsTwin.self _ s).setFld _ _ _ hne).setFld _ _ _ hne

theorem State.recordCold_keeps (cold : Bool) (u v n : Nat) : s.KeepsTwin switchSpares (s.recordCold cold u v n) := by
  refine .ite (fun _ => ?_) fun _ => .self ..
  have h := (State.KeepsTwin.self switchSpares s).raise_detected 0x0304 chipLoc (v % 2 ^ 16 + u % 2 ^ 16 * 2 ^ 16) n
    (fun k hk => hk.ne (by decide)) fun k hk => hk.ne (by decide)
  exact ⟨h.twin, h.clock, h.reg⟩

/-- Outside Trim a plan switch leaves the twin, the cycle and all but its own registers alone. -/
theorem State.install_keeps (v cause n f : Nat) (h : s.bit Reg.PWR_STATE 4 = false) :
    s.KeepsTwin switchSpares (s.install v cause n f) := by
  generalize hc : (!s.isWarm (s.variant s.active) (s.variant v) f) = cold
  have hk := (((s.showSwitch_keeps v cause n cold).trans (State.showPair_keeps _ (s.variant v).pair)).trans
    (State.recordCold_keeps _ cold s.active v n)).abortWhere
    (fun x => !(s.variant v).regions.testBit x.image.home && !x.queue.isEmpty) (fun _ => true) fun _ hj => hj.1
  rw [s.install_untrimmed v cause n f cold hc _ rfl ((hk.bit (by decide) 4).trans h)]
  exact hk

theorem State.showPlan_keeps (f : Nat) : s.KeepsTwin switchSpares (s.showPlan f) := by
  have hne (k : Nat) (hk : switchSpares k) : k ≠ Reg.SPL_PATTERN := hk.ne (by decide)
  exact ((State.KeepsTwin.self _ s).setFld _ _ _ hne).setFld _ _ _ hne

theorem State.installNow_keeps (v : Nat) (h : s.bit Reg.PWR_STATE 4 = false) :
    s.KeepsTwin switchSpares (s.installNow v) :=
  (s.install_keeps v 3 _ _ h).trans (State.showPlan_keeps _ _)

end

end Sys2Proof.Machine
end

section
/-! PROOF of O35: notices, roles and the replacement of a lost partner (R499, R501, R503, R505, R506, R509). -/

namespace Sys2Proof.Machine

open Sys2Proof

section
variable (s : State)

/-! ## The exchange of roles -/

theorem State.exchangeRoles_holds (h : s.bit Reg.PWR_STATE 4 = false) : s.exchangeRoles.isLive = !s.isLive ∧
    s.exchangeRoles.twin.swapAt = none ∧ s.exchangeRoles.twinState = s.twinState ∧
    s.exchangeRoles.reg Reg.TWN_CTL = s.reg Reg.TWN_CTL := by
  have hk := (({ s with twin := { s.twin with swapAt := none } } : State).setLive (!s.isLive)).installNow_keeps
    (({ s with twin := { s.twin with swapAt := none } } : State).roleHalf (!s.isLive))
    ((State.bit_setBit_away _ _ _ (by decide) 4).trans h)
  exact ⟨(hk.bit (by decide) 3).trans (State.bit_setBit_own _ _ (by decide)), congrArg Twin.swapAt hk.twin,
    (hk.fld (by decide) 0 3).trans (State.fld_setBit_off _ _ (by decide) (by decide)),
    (hk.reg _ (by decide)).trans (State.reg_setBit_apart _ _ _ (by decide))⟩

theorem State.roleSwap_of_due (hs : s.twinState = 3) (hm : s.twinMode = 1) (hl : s.twin.loss = none)
    (h : s.twin.swapAt = some s.slot) : s.roleSwap = s.exchangeRoles := by
  unfold State.roleSwap
  rw [h, hs, hm, hl]
  exact if_pos (by simp)

/-- SWAP of TWN.CTL has been taken. -/
def State.clearSwap (s : State) : State := s.setBit Reg.TWN_CTL 2 false

theorem State.swapRoles_of_live (hc : s.bit Reg.TWN_CTL 2 = true) (hd : s.bit Reg.TWN_CTL 1 = false)
    (hs : s.twinState = 3) (hm : s.twinMode = 1) (hl : s.twin.loss = none) (hlive : s.isLive = true) :
    s.swapRoles = s.clearSwap.exchangeRoles := by
  have hctl : s.clearSwap.bit Reg.TWN_CTL 1 = false := (s.bit_setBit_off _ (by decide) (by decide)).trans hd
  have hst : s.clearSwap.twinState = 3 := (s.fld_setBit_away _ _ (by decide) 0 3).trans hs
  have hmode : s.clearSwap.twinMode = 1 := (s.fld_setBit_away _ _ (by decide) 0 2).trans hm
  have hrole : s.clearSwap.isLive = true := (s.bit_setBit_away _ _ (by decide) 3).trans hlive
  unfold State.swapRoles
  rw [hc]
  refine (if_neg (by simp)).trans (if_neg (c := (s.clearSwap.bit Reg.TWN_CTL 1 || !(decide (s.clearSwap.twinState = 3) &&
    decide (s.clearSwap.twinMode = 1) && s.clearSwap.isLive) || s.clearSwap.twin.loss.isSome) = true) ?_)
  rw [hctl, hst, hmode, hrole, show s.clearSwap.twin.loss = none from hl]
  simp

/-! ## Leaving the pair (R505, R506) -/

/-- The requests of TWN.CTL.DETACH and SWAP have been taken. -/
def State.clearDetach (s : State) : State := (s.setBit Reg.TWN_CTL 1 false).setBit Reg.TWN_CTL 2 false

theorem State.onlyRegs_clearDetach : s.OnlyRegs s.clearDetach := (s.onlyRegs_self.setBit ..).setBit ..

theorem State.reg_clearDetach {k : Nat} (hk : k ≠ Reg.TWN_CTL) : s.clearDetach.reg k = s.reg k := by
  unfold State.clearDetach
  rw [State.reg_setBit_apart _ _ _ hk, State.reg_setBit_apart _ _ _ hk]

theorem State.bit_clearDetach {i : Nat} (h : i = 1 ∨ i = 2) : s.clearDetach.bit Reg.TWN_CTL i = false := by
  unfold State.clearDetach
  rcases h with rfl | rfl <;> simp (disch := decide)

/-- What a committed DETACH does once it has been taken. -/
def State.leavePair (s : State) : State :=
  if s.twinState = 1 || s.twinState = 2 then { s with twin := { s.twin with abort := true } }
  else if s.twinState = 3 then
    ({ s with twin := { s.twin with leaveAt := some (s.epochAfter 1) } } : State).notify .detach (s.epochAfter 1)
  else s

theorem State.detach_eq (h : s.bit Reg.TWN_CTL 1 = true) : s.detach = s.clearDetach.leavePair := by
  unfold State.detach
  rw [h]
  rfl

theorem State.leavePair_form : s.leavePair = { s with twin := s.leavePair.twin } := by
  unfold State.leavePair
  split
  · rfl
  · split <;> rfl

theorem State.detach_holds (h : s.bit Reg.TWN_CTL 1 = true) :
    s.detach.bit Reg.TWN_CTL 1 = false ∧ s.detach.bit Reg.TWN_CTL 2 = false ∧
    (s.twinState = 3 → s.detach.twin.leaveAt = some (s.epochAfter 1) ∧
      s.detach.twin.notices = s.twin.notices ++ [(.detach, s.epochAfter 1)]) ∧
    (s.twinState = 1 ∨ s.twinState = 2 → s.detach.twin.abort = true) ∧ s.detach.mem = s.mem := by
  have hst : s.clearDetach.twinState = s.twinState := State.fld_of_reg (s.reg_clearDetach (by decide)) 0 3
  have hspe : s.clearDetach.spe = s.spe := State.fld_of_reg (s.reg_clearDetach (by decide)) 0 4
  have hslot : s.clearDetach.slot = s.slot := congrArg BitVec.toNat (s.reg_clearDetach (by decide))
  have hepoch : s.clearDetach.epochAfter 1 = s.epochAfter 1 := by
    unfold State.epochAfter
    rw [hspe, hslot]
  have hbit (i : Nat) (hi : i = 1 ∨ i = 2) := s.bit_clearDetach hi
  have honly := s.onlyRegs_clearDetach
  rw [s.detach_eq h]
  generalize s.clearDetach = u at *
  have hform := u.leavePair_form
  have hregs : u.leavePair.regs = u.regs := by rw [hform]
  have htwin : u.twin = s.twin := honly.congr State.twin fun _ => rfl
  refine ⟨(State.bit_of_reg (State.reg_of_regs hregs _) 1).trans (hbit 1 (.inl rfl)),
    (State.bit_of_reg (State.reg_of_regs hregs _) 2).trans (hbit 2 (.inr rfl)), fun h3 => ?_, fun h12 => ?_,
    (show u.leavePair.mem = u.mem by rw [hform]).trans honly.mem⟩
  · have heq : u.leavePair = ({ u with twin := { u.twin with leaveAt := some (u.epochAfter 1) } } : State).notify .detach
        (u.epochAfter 1) := by
      unfold State.leavePair
      rw [hst, h3]
      rfl
    rw [heq, hepoch, ← htwin]
    exact ⟨rfl, rfl⟩
  · have heq : u.leavePair = { u with twin := { u.twin with abort := true } } := by
      unfold State.leavePair
      rw [hst]
      exact if_pos (by simpa using h12)
    rw [heq]

/-! ## The end of an attach (R505) -/

/-- Nothing of an attach waits. -/
def State.dropAttach (s : State) : State := { s with twin := { s.twin with
  abort := false, step := 0, hold := false, transferAt := none, joinAt := none } }

/-- The state to which a twin returns. -/
def State.standAlone (s : State) (back was : Nat) : State :=
  if s.clock.running then
    if was = 2 then (s.setTwinState back).installNow ((s.setTwinState back).roleHalf (s.setTwinState back).isLive)
    else s.setTwinState back
  else s.setTwinState 5

theorem State.endAttach_eq {u : State} (hu : s.raise 0x0A09 .detected linkLayer.loc s.twin.step 0 = u) :
    s.endAttach = u.dropAttach.standAlone u.twin.before u.twinState := by
  unfold State.endAttach
  rw [hu]
  rfl

theorem State.standAlone_twin (back was : Nat) (h : s.bit Reg.PWR_STATE 4 = false) :
    (s.standAlone back was).twin = s.twin ∧
    (s.standAlone back was).twinState = if s.clock.running = true then back % 8 else 5 := by
  have hback : (s.setTwinState back).twinState = back % 8 := s.fld_setFld_mod (by decide)
  unfold State.standAlone
  split
  · split
    · have hk := (s.setTwinState back).installNow_keeps ((s.setTwinState back).roleHalf (s.setTwinState back).isLive)
        ((s.bit_setFld_away _ _ _ (by decide) 4).trans h)
      exact ⟨hk.twin, (hk.fld (by decide) 0 3).trans hback⟩
    · exact ⟨rfl, hback⟩
  · exact ⟨rfl, s.fld_setFld_mod (by decide)⟩

/-- The end of an attach leaves nothing of it waiting, and the twin in the state before it or in IDLE. -/
theorem State.endAttach_holds (h : s.bit Reg.PWR_STATE 4 = false) :
    s.endAttach.twin = { s.twin with abort := false, step := 0, hold := false, transferAt := none, joinAt := none } ∧
    s.endAttach.twinState = if s.clock.running = true then s.twin.before % 8 else 5 := by
  have hk := (State.KeepsTwin.self switchSpares s).raise_detected 0x0A09 linkLayer.loc s.twin.step 0
    (fun k hk => hk.ne (by decide)) fun k hk => hk.ne (by decide)
  have heq := s.endAttach_eq rfl
  generalize s.raise 0x0A09 .detected linkLayer.loc s.twin.step 0 = u at *
  have hdrop := u.dropAttach.standAlone_twin u.twin.before u.twinState ((hk.bit (by decide) 4).trans h)
  rw [heq]
  obtain ⟨htwin, hst⟩ := hdrop
  refine ⟨htwin.trans ?_, hst.trans ?_⟩
  · unfold State.dropAttach
    rw [hk.twin]
  · rw [show u.dropAttach.clock = u.clock from rfl, hk.clock, hk.twin]

/-! ## A lost partner (R499) -/

/-- The loss has been dealt with: DETACHED, and no loss, swap or leave of the partner waits. -/
def State.endLoss (s : State) : State :=
  let s := (s.setTwinState 4).setBit Reg.TWN_STAT 6 false
  { s with twin := { s.twin with loss := none, swapAt := none, peerLeaveAt := none } }

/-- What the twin runs from then on. -/
def State.runOn (s : State) (row : Nat) (live : Bool) (loss : Nat) : State :=
  if s.twinMode = 1 then
    if live then s
    else if row = 2 then s.stopPlane
    else s.takeOver (s.roleHalf true)
  else if row = 2 && !live then s.stopPlane
  else s.takeOver loss

theorem State.actOnLoss_eq (row : Nat) : s.actOnLoss row = s.endLoss.runOn row s.isLive (s.fld Reg.TWN_VAR 16 16) := rfl

/-- A twin that runs on keeps its state and what waits. -/
def State.SameTwin (s t : State) : Prop :=
  t.twin = s.twin ∧ t.fld Reg.TWN_STAT 0 3 = s.fld Reg.TWN_STAT 0 3 ∧ t.bit Reg.TWN_STAT 6 = s.bit Reg.TWN_STAT 6

theorem State.takeOver_keeps (v : Nat) (h : s.bit Reg.PWR_STATE 4 = false) : s.SameTwin (s.takeOver v) := by
  have hspares : ∀ k, k = Reg.TWN_STAT → switchSpares k := fun k hk => by subst hk; decide
  have hk := ((s.setLive true).installNow_keeps v ((s.bit_setBit_away _ _ (by decide) 4).trans h)).mono hspares
  unfold State.takeOver
  dsimp only
  generalize (s.setLive true).installNow v = u at *
  have hc := hk.bump (k := Reg.TWN_CNT) 16 8 1 fun k hk => by subst hk; decide
  generalize u.bump Reg.TWN_CNT 16 8 1 = w at *
  have hr := hc.raise_masked 0x0A05 linkLayer.loc v w.slot (fun k hk => by subst hk; decide)
    fun k hk => by subst hk; decide
  exact ⟨hr.twin, (hr.fld rfl 0 3).trans (s.fld_setBit_off _ (by decide) (by decide)),
    (hr.bit rfl 6).trans (s.bit_setBit_off _ (by decide) (by decide))⟩

theorem State.runOn_keeps (row : Nat) (live : Bool) (loss : Nat) (h : s.bit Reg.PWR_STATE 4 = false) :
    s.SameTwin (s.runOn row live loss) := by
  have hself : s.SameTwin s := ⟨rfl, rfl, rfl⟩
  have hstop : s.SameTwin s.stopPlane := ⟨rfl, rfl, rfl⟩
  unfold State.runOn
  split
  · split
    · exact hself
    · split
      · exact hstop
      · exact s.takeOver_keeps _ h
  · split
    · exact hstop
    · exact s.takeOver_keeps _ h

theorem State.takeover_of_loss {row n cc : Nat} (hr : s.clock.running = true) (hs : s.twinState = 3)
    (hl : s.twin.loss = some (row, n, cc)) (h1 : 1 ≤ (s.slot + 2 ^ 32 - n) % 2 ^ 32)
    (h2 : 256 ≤ (s.slot + 2 ^ 32 - n) % 2 ^ 32 * s.slotLen - cc) :
    s.takeover = (s.actOnLoss row).raise 0x0A04 .detected linkLayer.loc row 0 := by
  unfold State.takeover
  rw [hr, hs, hl]
  exact (if_neg (by simp)).trans (if_pos (And.intro h1 h2))

theorem State.takeover_holds {row n cc : Nat} (hr : s.clock.running = true) (hs : s.twinState = 3)
    (hl : s.twin.loss = some (row, n, cc)) (h1 : 1 ≤ (s.slot + 2 ^ 32 - n) % 2 ^ 32)
    (h2 : 256 ≤ (s.slot + 2 ^ 32 - n) % 2 ^ 32 * s.slotLen - cc) (h : s.bit Reg.PWR_STATE 4 = false) :
    s.takeover.twinState = 4 ∧ s.takeover.twin.loss = none ∧ s.takeover.twin.swapAt = none ∧
    s.takeover.bit Reg.TWN_STAT 6 = false := by
  have hstate : s.endLoss.fld Reg.TWN_STAT 0 3 = 4 :=
    ((s.setTwinState 4).fld_setBit_off (k := Reg.TWN_STAT) (i := 6) false (by decide) (by decide)).trans (s.fld_setFld_mod (by decide))
  have hclear : s.endLoss.bit Reg.TWN_STAT 6 = false := (s.setTwinState 4).bit_setBit_own false (by decide)
  have htrim : s.endLoss.bit Reg.PWR_STATE 4 = false :=
    ((s.setTwinState 4).bit_setBit_away (k := Reg.TWN_STAT) 6 false (by decide) 4).trans ((s.bit_setFld_away _ _ _ (by decide) 4).trans h)
  have hloss : s.endLoss.twin.loss = none ∧ s.endLoss.twin.swapAt = none := ⟨rfl, rfl⟩
  rw [s.takeover_of_loss hr hs hl h1 h2, s.actOnLoss_eq]
  generalize s.endLoss = u at *
  obtain ⟨htwin, hst, hbit⟩ := u.runOn_keeps row s.isLive (s.fld Reg.TWN_VAR 16 16) htrim
  generalize u.runOn row s.isLive (s.fld Reg.TWN_VAR 16 16) = v at *
  have hreg := v.reg_raise_twin 0x0A04 row 0 (k := Reg.TWN_STAT) (by decide)
  have hraise := v.raise_twin 0x0A04 .detected linkLayer.loc row 0
  exact ⟨(State.fld_of_reg hreg 0 3).trans (hst.trans hstate), (congrArg Twin.loss (hraise.trans htwin)).trans hloss.1,
    (congrArg Twin.swapAt (hraise.trans htwin)).trans hloss.2, (State.bit_of_reg hreg 6).trans (hbit.trans hclear)⟩

end

/-- Settles O35: notices are read off the model, and swaps, DETACH, an abort and the loss of a partner are
`exchangeRoles_holds`, `detach_holds`, `endAttach_holds` and `takeover_holds`. -/
theorem noticesAndRoles : Obligations.NoticesAndRoles := by
  unfold Obligations.NoticesAndRoles
  refine ⟨fun s n => ⟨fun hs hm => ?_, fun hs hr => ?_, fun hs hr => ?_, fun hs => ?_, fun hs => ?_, fun hs h => ?_⟩,
    fun s h => ⟨fun hs hm hl => ⟨fun hdue => ?_, fun hd hswap hdetach hlive => ?_⟩, fun hd hc => ?_,
      fun row n cc hr hs hl h1 h2 => ⟨_, rfl, s.takeover_holds hr hs hl h1 h2 h⟩⟩⟩
  · exact congrArg Host.Outcome.next (if_pos (by rw [hs, hm]; rfl))
  · exact congrArg Host.Outcome.next (if_pos (by rw [hs, hr]; rfl))
  · exact congrArg Host.Outcome.next (if_pos (by rw [hr]; simpa using hs))
  · exact congrArg Host.Outcome.next (if_pos hs)
  · refine congrArg Host.Outcome.next ((if_neg (by omega)).trans (if_pos ?_))
    simpa using hs
  · obtain ⟨htwin, hst⟩ := s.endAttach_holds h
    refine ⟨_, congrArg Host.Outcome.next (if_pos (by simpa using hs)), ?_⟩
    rw [htwin]
    exact ⟨rfl, rfl, rfl, rfl, rfl, hst⟩
  · obtain ⟨hlive, hswap, hst, -⟩ := s.exchangeRoles_holds h
    exact ⟨_, congrArg Host.Outcome.next (s.roleSwap_of_due hs hm hl hdue), hlive, hswap, hst.trans hs⟩
  · have htrim : s.clearSwap.bit Reg.PWR_STATE 4 = false := (s.bit_setBit_away _ _ (by decide) 4).trans h
    have hrole : s.clearSwap.isLive = s.isLive := s.bit_setBit_away _ _ (by decide) 3
    have hst : s.clearSwap.twinState = s.twinState := s.fld_setBit_away _ _ (by decide) 0 3
    have hctl : s.clearSwap.bit Reg.TWN_CTL 2 = false := s.bit_setBit_own _ (by decide)
    refine ⟨_, exec_managed hd rfl (s.swapRoles_of_live hswap hdetach hs hm hl hlive), ?_⟩
    generalize s.clearSwap = u at *
    obtain ⟨hlive', -, hst', hctl'⟩ := u.exchangeRoles_holds htrim
    exact ⟨by rw [hlive', hrole, hlive]; rfl, (State.bit_of_reg hctl' 2).trans hctl, hst'.trans (hst.trans hs)⟩
  · exact ⟨_, exec_managed hd rfl rfl, s.detach_holds hc⟩

end Sys2Proof.Machine
end

section
/-! SUPPORT. What the start of the data plane leaves of the twin, the cycle and the registers of the start (R543, R544). -/

namespace Sys2Proof.Machine

open Sys2Proof

/-- The registers that show the slot, the join, the step of the start and the epoch. -/
def startKeys : List Nat := [Reg.TWN_JOIN, Reg.TCK_SLOTNUM, Reg.STA_STEP, Reg.MGT_EPOCH]

/-! ## Loop-backs and patterns that a variant ends (R602) -/

/-- The registers in which an interface that retrains shows itself. -/
def LinkId.retrainKeys : LinkId → List Nat
  | .ether p => [winKey p Reg.NET_PSTAT, winKey p Reg.NET_LPBK]
  | .jesd n => [linkStat false n, linkStat true n, Reg.RAD_LPBK]
  | .jrx n => [linkStat false n]
  | .jtx n => [linkStat true n]
  | .switu => [Reg.TWN_STAT, Reg.TWN_LPBK]
  | .steer _ => [Reg.STP_LPBK]
  | .hbm _ => [Reg.MEM_LPBK]

/-- The interface whose lane is checked, where there is one. -/
def PrbsLane.hosts : PrbsLane → List LinkId
  | .ether p _ => [.ether p]
  | .jesd _ => (List.range 8).map .jesd
  | .switu _ => [.switu]

theorem retrainKeys_apart : ∀ l ∈ loopIds, ∀ k ∈ startKeys, k ∉ l.retrainKeys := by decide

theorem lockBit_apart : ∀ l ∈ prbsIds, ∀ k ∈ Reg.TWN_STAT :: startKeys, k ≠ l.lockBit.1 := by decide

theorem hosts_subset : ∀ l ∈ prbsIds, ∀ h ∈ l.hosts, h ∈ loopIds := by decide

theorem twnStat_apart : ∀ l ∈ loopIds, l ≠ .switu → Reg.TWN_STAT ∉ l.retrainKeys := by decide

section
variable (s : State)

/-- What the start of the data plane reads back: the twin, its state, the cycle and the registers above. -/
structure State.Started (s t : State) : Prop where
  twin : t.twin = s.twin
  clock : t.clock = s.clock
  state : t.twinState = s.twinState
  reg : ∀ k ∈ startKeys, t.reg k = s.reg k

theorem State.Started.self : s.Started s := ⟨rfl, rfl, rfl, fun _ _ => rfl⟩

variable {s} in
theorem State.Started.trans {t u : State} (h : s.Started t) (h' : t.Started u) : s.Started u :=
  ⟨h'.twin.trans h.twin, h'.clock.trans h.clock, h'.state.trans h.state, fun k hk => (h'.reg k hk).trans (h.reg k hk)⟩

variable {s} in
theorem State.KeepsTwin.started {p : Nat → Prop} {t : State} (h : s.KeepsTwin p t) (hp : ∀ k ∈ Reg.TWN_STAT :: startKeys, p k) :
    s.Started t :=
  ⟨h.twin, h.clock, h.fld (hp _ List.mem_cons_self) 0 3, fun k hk => h.reg k (hp k (List.mem_cons_of_mem _ hk))⟩

variable {s} in
theorem State.Started.foldl {β : Type} {f : State → β → State} (l : List β)
    (hf : ∀ (t : State), ∀ b ∈ l, t.Started (f t b)) : s.Started (l.foldl f s) := by
  induction l generalizing s with
  | nil => exact .self s
  | cons b l ih => exact (hf s b List.mem_cons_self).trans (ih fun t c hc => hf t c (List.mem_cons_of_mem _ hc))

theorem State.reg_retrain (l : LinkId) {k : Nat} (hk : k ∉ l.retrainKeys) : (s.retrain l).reg k = s.reg k := by
  cases l <;> simp only [LinkId.retrainKeys, List.mem_cons, List.not_mem_nil, or_false, not_or] at hk
  case ether p => exact (State.reg_setBit_apart _ _ _ hk.2).trans (s.reg_setFld_apart _ _ _ hk.1)
  case jrx n => exact s.reg_setFld_apart _ _ _ hk
  case jtx n => exact s.reg_setFld_apart _ _ _ hk
  case jesd n =>
    exact (State.reg_setBit_apart _ _ _ hk.2.2).trans ((State.reg_setFld_apart _ _ _ _ hk.2.1).trans
      (s.reg_setFld_apart _ _ _ hk.1))
  case switu => exact (State.reg_setBit_apart _ _ _ hk.2).trans (s.reg_setBit_apart _ _ hk.1)
  case steer i => exact s.reg_setBit_apart _ _ hk
  case hbm i => exact s.reg_setBit_apart _ _ hk

theorem State.twinState_retrain {l : LinkId} (hl : l ∈ loopIds) : (s.retrain l).twinState = s.twinState := by
  by_cases h : l = .switu
  · subst h
    exact (State.fld_setBit_away _ _ _ (by decide) 0 3).trans (s.fld_setBit_off _ (by decide) (by decide))
  · exact State.fld_of_reg (s.reg_retrain l (twnStat_apart l hl h)) 0 3

theorem State.started_retrain {l : LinkId} (hl : l ∈ loopIds) : s.Started (s.retrain l) :=
  ⟨(s.onlyRegs_retrain l).congr State.twin fun _ => rfl, (s.onlyRegs_retrain l).congr State.clock fun _ => rfl,
    s.twinState_retrain hl, fun k hk => s.reg_retrain l (retrainKeys_apart l hl k hk)⟩

theorem State.started_setLock {l : PrbsLane} (hl : l ∈ prbsIds) (b : Bool) : s.Started (s.setLock l b) := by
  rw [s.setLock_eq l b]
  exact ((State.KeepsTwin.self (· ∈ Reg.TWN_STAT :: startKeys) s).setBit _ b fun k hk => lockBit_apart l hl k hk).started
    fun k hk => hk

theorem State.started_retrainLane {l : PrbsLane} (hl : l ∈ prbsIds) : s.Started (s.retrainLane l) := by
  have hhost := hosts_subset l hl
  refine (s.started_setLock hl false).trans ?_
  cases l with
  | ether p i => exact State.started_retrain _ (hhost _ (List.mem_singleton_self _))
  | jesd i =>
    refine State.Started.foldl _ fun t n hn => t.started_retrain (hhost _ ?_)
    exact List.mem_map_of_mem (List.mem_of_mem_filter hn)
  | switu i => exact State.started_retrain _ (hhost _ (List.mem_singleton_self _))

theorem State.started_setTests (loops : List LinkId) (lanes : List PrbsLane) : s.Started (s.setTests loops lanes) := by
  have h : s.Started { s with test := { s.test with loops := loops, prbs := lanes } } := ⟨rfl, rfl, rfl, fun _ _ => rfl⟩
  exact (h.trans (.foldl _ fun t l hl => t.started_retrain (List.mem_of_mem_filter hl))).trans
    (.foldl _ fun t l hl => t.started_retrainLane (List.mem_of_mem_filter hl))

theorem State.started_endTests : s.Started s.endTests := State.started_setTests s _ _

/-! ## What begins with the data plane -/

/-- The registers that the start of the data plane leaves alone until its tests end. -/
abbrev beginSpares (k : Nat) : Prop := k ∈ Reg.TWN_STAT :: startKeys

theorem beginSpares.ne {k j : Nat} (hk : beginSpares k) (hj : j ∉ Reg.TWN_STAT :: startKeys) : k ≠ j :=
  fun h => hj (h ▸ hk)

theorem staged_apart : ∀ k, beginSpares k → stagedKey k = false := by decide

theorem State.applyOne_keeps {a : Accepted} (h : stagedKey a.key = true) : s.KeepsTwin beginSpares (s.applyOne a) := by
  have hk := (State.KeepsTwin.self beginSpares s).setReg (overlay (s.reg a.key) a.staged) fun k hk e => by
    subst e
    exact Bool.noConfusion ((staged_apart _ hk).symm.trans h)
  exact .ite (fun _ => ⟨hk.twin, hk.clock, hk.reg⟩) fun _ => hk

/-- Commits of staged registers leave the registers of the start alone. -/
theorem State.applyCommits_keeps (n : Nat) (h : s.stagedOnly = true) : s.KeepsTwin beginSpares (s.applyCommits n) := by
  have hstaged : ∀ a ∈ s.commit.waiting, stagedKey a.key = true := by
    unfold State.stagedOnly at h
    exact List.all_eq_true.mp (Bool.and_eq_true_iff.mp h).2
  unfold State.applyCommits
  extract_lets due _ s1 s2
  have h1 : s.KeepsTwin beginSpares s1 := ⟨rfl, rfl, fun _ _ => rfl⟩
  have h2 : s1.KeepsTwin beginSpares s2 :=
    .foldl _ fun t a ha => t.applyOne_keeps (hstaged a (List.mem_of_mem_filter ha))
  exact .ite (fun _ => (h1.trans h2).setFld _ _ _ fun _ hk => hk.ne (by decide)) fun _ => h1.trans h2

theorem State.voidEntry_keeps (lag r buf cause : Nat) : s.KeepsTwin beginSpares (s.voidEntry lag r buf cause) :=
  ⟨s.voidEntry_twin .., s.voidEntry_clock .., fun k hk => s.reg_voidEntry lag r buf cause (by
    rintro rfl
    revert hk
    decide)⟩

theorem State.voidRegion_keeps (r cause : Nat) : s.KeepsTwin beginSpares (s.voidRegion r cause) :=
  .foldl _ fun t b _ => t.voidEntry_keeps 0 r b.buf cause

theorem State.voidIdleEntries_keeps : s.KeepsTwin beginSpares s.voidIdleEntries :=
  .foldl _ fun _ _ _ => .foldl _ fun u _ _ => .ite (fun _ => .self ..) fun _ => u.voidEntry_keeps 0 _ _ _

theorem State.suspectSlot_keeps : s.KeepsTwin beginSpares s.suspectSlot :=
  .foldl _ fun t _ _ => ⟨t.suspectEntry_twin .., t.suspectEntry_clock .., fun k _ =>
    State.reg_of_regs (t.suspectEntry_regs ..) k⟩

theorem State.voidNewSlot_keeps : s.KeepsTwin beginSpares s.voidNewSlot := by
  unfold State.voidNewSlot
  extract_lets last _ u v w
  have hu : s.KeepsTwin beginSpares u := ⟨rfl, rfl, fun _ _ => rfl⟩
  have hv : u.KeepsTwin beginSpares v :=
    .foldl _ fun t r _ => .ite (fun _ => t.voidRegion_keeps r _) fun _ => .self ..
  have hw := (hu.trans hv).trans v.voidIdleEntries_keeps
  refine .ite (fun _ => hu.trans (.foldl _ fun t r _ => t.voidRegion_keeps r _)) fun _ => ?_
  exact .ite (fun _ => hw.trans w.suspectSlot_keeps) fun _ => hw

theorem State.gainDeficits_keeps : s.KeepsTwin beginSpares s.gainDeficits :=
  .foldl _ fun _ _ _ => .foldl _ fun _ _ _ => .ite (fun _ => ⟨rfl, rfl, fun _ _ => rfl⟩) fun _ => ⟨rfl, rfl, fun _ _ => rfl⟩

theorem State.tasterEpoch_keeps : s.KeepsTwin beginSpares s.tasterEpoch := by
  unfold State.tasterEpoch
  extract_lets t u
  have hu : s.KeepsTwin beginSpares u :=
    .ite (fun _ => (State.KeepsTwin.self _ s).setFld _ _ _ fun _ hk => hk.ne (by decide)) fun _ => .self ..
  exact .ite (fun _ => ⟨rfl, rfl, fun _ _ => rfl⟩) fun _ => ⟨hu.twin, hu.clock, hu.reg⟩

theorem State.recordBrownOut_keeps : s.KeepsTwin beginSpares s.recordBrownOut := by
  have h : s.KeepsTwin beginSpares { s with start := { s.start with brownOut := false } } := ⟨rfl, rfl, fun _ _ => rfl⟩
  exact .ite (fun _ => h.raise_detected _ _ _ _ (fun _ hk => hk.ne (by decide)) fun _ hk => hk.ne (by decide))
    fun _ => .self ..

/-! ## The start -/

/-- The data plane begins at an instant with slot `n`, and step 13 is done. -/
def State.beginPlane (s : State) (n t us : Nat) : State :=
  let s := (s.atUs us).setReg Reg.TCK_SLOTNUM (BitVec.ofNat 32 n)
  ({ s with
    clock := { s.clock with running := true, cc := 0, tu := t, epochDone := false, inTick := false }
    pins := { s.pins with twinOk := !s.fatalIdle } } : State).stepDone 13

theorem State.beginPlane_twin (n t us : Nat) : (s.beginPlane n t us).twin = s.twin := rfl

theorem State.beginPlane_commit (n t us : Nat) : (s.beginPlane n t us).commit = s.commit := rfl

theorem State.beginPlane_running (n t us : Nat) : (s.beginPlane n t us).clock.running = true := rfl

theorem State.beginPlane_cc (n t us : Nat) : (s.beginPlane n t us).clock.cc = 0 := rfl

theorem State.reg_beginPlane (n t us : Nat) {k : Nat} (hk : k ∉ [Reg.TCK_SLOTNUM, Reg.STA_STEP, Reg.STA_TSTEP 12]) :
    (s.beginPlane n t us).reg k = s.reg k := by
  simp only [List.mem_cons, List.not_mem_nil, or_false, not_or] at hk
  obtain ⟨hslot, hstep, hlast⟩ := hk
  refine (State.reg_setReg_apart _ _ hlast).trans ((State.reg_setFld_apart _ _ _ _ hstep).trans ?_)
  exact (s.atUs us).reg_setReg_apart _ hslot

theorem State.slot_beginPlane (n t us : Nat) : (s.beginPlane n t us).reg Reg.TCK_SLOTNUM = BitVec.ofNat 32 n := by
  refine (State.reg_setReg_apart _ _ (by decide)).trans ((State.reg_setFld_apart _ _ _ _ (by decide)).trans ?_)
  exact (s.atUs us).reg_setReg_same _ _

theorem State.fld_beginPlane (n t us : Nat) : (s.beginPlane n t us).fld Reg.STA_STEP 0 4 = 13 :=
  (State.fld_setReg_away _ _ (by decide) 0 4).trans (State.fld_setFld_mod _ (by decide))

/-- What waits for the start takes effect. -/
def State.beginCommits (s : State) (t : Nat) : State :=
  let s := (s.recordBrownOut.applyCommits 0).setFrame t
  s.showPlan (s.fld Reg.TCK_FRAME 0 7)

/-- Epoch 0 begins. -/
def State.beginEpoch (s : State) : State := (s.setReg Reg.MGT_EPOCH 0).tasterEpoch.gainDeficits.voidNewSlot.endTests

theorem State.startPlane_eq (n t us : Nat) : s.startPlane n t us = ((s.beginPlane n t us).beginCommits t).beginEpoch := rfl

theorem State.beginCommits_keeps (t : Nat) (h : s.stagedOnly = true) : s.KeepsTwin beginSpares (s.beginCommits t) := by
  have hcommit : s.recordBrownOut.commit = s.commit := by
    unfold State.recordBrownOut
    split
    · exact State.raise_commit ..
    · rfl
  have hstaged : s.recordBrownOut.stagedOnly = true := by
    unfold State.stagedOnly at *
    rwa [hcommit]
  have hframe := (s.recordBrownOut_keeps.trans (State.applyCommits_keeps _ 0 hstaged)).setReg (k := Reg.TCK_FRAME)
    (BitVec.ofNat 32 ((s.recordBrownOut.applyCommits 0).frameIndex t % 2 ^ 7
      + ((s.recordBrownOut.applyCommits 0).boundaryOf t / (s.recordBrownOut.applyCommits 0).frameSlots % 1024).toNat * 2 ^ 16))
    fun _ hk => hk.ne (by decide)
  exact hframe.trans ((State.showPlan_keeps _ _).mono (by decide))

/-- Epoch 0 leaves the twin, its state, the cycle and the registers of the start but the epoch's number. -/
theorem State.beginEpoch_keeps : s.beginEpoch.twin = s.twin ∧ s.beginEpoch.clock = s.clock ∧
    s.beginEpoch.twinState = s.twinState ∧
    (∀ k ∈ startKeys, k ≠ Reg.MGT_EPOCH → s.beginEpoch.reg k = s.reg k) ∧ s.beginEpoch.reg Reg.MGT_EPOCH = 0 := by
  have htwin : (s.setReg Reg.MGT_EPOCH 0).twin = s.twin := rfl
  have hclock : (s.setReg Reg.MGT_EPOCH 0).clock = s.clock := rfl
  have hstate : (s.setReg Reg.MGT_EPOCH 0).twinState = s.twinState := s.fld_setReg_away _ (by decide) 0 3
  have hreg (k : Nat) (hk : k ≠ Reg.MGT_EPOCH) : (s.setReg Reg.MGT_EPOCH 0).reg k = s.reg k := s.reg_setReg_apart _ hk
  have hepoch : (s.setReg Reg.MGT_EPOCH 0).reg Reg.MGT_EPOCH = 0 := s.reg_setReg_same _ _
  unfold State.beginEpoch
  generalize s.setReg Reg.MGT_EPOCH 0 = u at *
  have h := (u.tasterEpoch_keeps.trans (State.gainDeficits_keeps _)).trans (State.voidNewSlot_keeps _)
  have he := (h.started fun _ hk => hk).trans (State.started_endTests _)
  exact ⟨he.twin.trans htwin, he.clock.trans hclock, he.state.trans hstate,
    fun k hk hm => (he.reg k hk).trans (hreg k hm), (he.reg _ (by decide)).trans hepoch⟩

/-- The start of the data plane with slot `n`. -/
theorem State.startPlane_holds (n t us : Nat) (h : s.stagedOnly = true) : (s.startPlane n t us).twin = s.twin ∧
    (s.startPlane n t us).twinState = s.twinState ∧ (s.startPlane n t us).clock.running = true ∧
    (s.startPlane n t us).clock.cc = 0 ∧ (s.startPlane n t us).slot = n % 2 ^ 32 ∧
    (s.startPlane n t us).reg Reg.TWN_JOIN = s.reg Reg.TWN_JOIN ∧ (s.startPlane n t us).fld Reg.STA_STEP 0 4 = 13 ∧
    (s.startPlane n t us).reg Reg.MGT_EPOCH = 0 := by
  have htwin := s.beginPlane_twin n t us
  have hrun := s.beginPlane_running n t us
  have hcc := s.beginPlane_cc n t us
  have hcommit := s.beginPlane_commit n t us
  have hstaged : (s.beginPlane n t us).stagedOnly = true := by
    unfold State.stagedOnly at *
    rwa [hcommit]
  have hregs {k : Nat} := s.reg_beginPlane n t us (k := k)
  have hslot := s.slot_beginPlane n t us
  have hstate : (s.beginPlane n t us).twinState = s.twinState := State.fld_of_reg (hregs (by decide)) 0 3
  have hstep := s.fld_beginPlane n t us
  have hw := s.startPlane_eq n t us
  generalize s.startPlane n t us = w at *
  generalize s.beginPlane n t us = u at *
  have hc := u.beginCommits_keeps t hstaged
  generalize u.beginCommits t = v at *
  obtain ⟨hetwin, heclock, hestate, hereg, heepoch⟩ := v.beginEpoch_keeps
  rw [← hw] at hetwin heclock hestate hereg heepoch
  have hreg {k : Nat} (hk : k ∈ startKeys) (hm : k ≠ Reg.MGT_EPOCH) : w.reg k = u.reg k :=
    (hereg k hk hm).trans (hc.reg k (List.mem_cons_of_mem _ hk))
  have hclock : w.clock = u.clock := heclock.trans hc.clock
  refine ⟨hetwin.trans (hc.twin.trans htwin), ?_, ?_, ?_, ?_, ?_, ?_, ?_⟩
  · exact hestate.trans ((hc.fld (by decide) 0 3).trans hstate)
  · rw [hclock, hrun]
  · rw [hclock, hcc]
  · refine (congrArg BitVec.toNat ((hreg (by decide) (by decide)).trans hslot)).trans ?_
    exact BitVec.toNat_ofNat n 32
  · exact (hreg (by decide) (by decide)).trans (hregs (by decide))
  · exact (State.fld_of_reg (hreg (by decide) (by decide)) 0 4).trans hstep
  · exact heepoch

end

end Sys2Proof.Machine
end

section
/-! PROOF of O36: attaching a twin (R482, R503 to R505). -/

namespace Sys2Proof.Machine

open Sys2Proof

section
variable (s : State)

/-! ## HELLO -/

/-- What an accepted HELLO leaves in the twin that the wait of the start does not change. -/
def State.offer (s : State) : Option PairInfo × Option Nat × List (Notice × Nat) :=
  (s.twin.halves, s.twin.transferAt, s.twin.notices)

theorem State.offer_of_onlyRegs {s t : State} (h : s.OnlyRegs t) : t.offer = s.offer := h.congr State.offer fun _ => rfl

theorem State.offer_stepDone (k : Nat) : (s.stepDone k).offer = s.offer := rfl

theorem State.offer_beginPairing : s.beginPairing.offer = s.offer := by
  unfold State.beginPairing
  split
  · rfl
  · split
    · exact State.offer_of_onlyRegs s.onlyRegs_runAlone
    · rfl

theorem State.offer_advance (locked : Bool) : (s.advance locked).offer = s.offer := by
  have hlinks (t : State) : t.passLinks.offer = t.offer := by
    unfold State.passLinks
    split
    · exact t.offer_stepDone 10
    · rfl
  have hlock (t : State) : (t.passLock locked).offer = t.offer := by
    unfold State.passLock
    split
    · exact (State.offer_beginPairing _).trans (t.offer_stepDone 11)
    · rfl
  have hsysref (t : State) : t.askSysref.offer = t.offer := by
    unfold State.askSysref
    split <;> rfl
  have hpairing (t : State) : t.passPairing.offer = t.offer := by
    unfold State.passPairing
    split
    · exact (hsysref _).trans (t.offer_stepDone 12)
    · rfl
  rw [State.advance_eq, hpairing, hlock, hlinks]

/-- An accepted HELLO chooses the halves. -/
def State.acceptHello (s : State) (h : Hello) : State :=
  { s with twin := { s.twin with halves := s.fittingPair h.anvmap, step := 4 } }

/-- A running twin names the transfer tick. -/
def State.nameTransfer (s : State) : State :=
  ({ s with twin := { s.twin with transferAt := some (s.epochAfter 64), step := 5 } } : State).notify .transfer
    (s.epochAfter 64)

theorem State.hello_of_accepted (h : Hello) (hs : s.twinState = 1) (hl : s.linkUp = true)
    (hf : s.helloFault h s.imageDigest = 0) : s.hello h = if s.clock.running then (s.acceptHello h).nameTransfer
      else (s.acceptHello h).setLive (if (s.twin.marker.any fun m => m.slot != 0xFFFFFFFF) && (s.twinMode = 1 : Bool)
        then false else (s.fld Reg.TWN_CFG 2 1 = 0 : Bool)) := by
  unfold State.hello
  rw [hs, hl]
  refine (if_neg (by decide)).trans ?_
  dsimp only
  rw [hf]
  rfl

theorem State.hello_holds (h : Hello) (hs : s.twinState = 1) (hl : s.linkUp = true)
    (hf : s.helloFault h s.imageDigest = 0) : (s.hello h).twin.halves = s.fittingPair h.anvmap ∧
    (s.clock.running = true → (s.hello h).twin.transferAt = some (s.epochAfter 64) ∧
      (s.hello h).twin.notices = s.twin.notices ++ [(.transfer, s.epochAfter 64)]) := by
  rw [s.hello_of_accepted h hs hl hf]
  split
  · exact ⟨rfl, fun _ => ⟨rfl, rfl⟩⟩
  next hr => exact ⟨rfl, fun hr' => absurd hr' hr⟩

/-! ## The transfer (R503, R504) -/

/-- The running twin's elastic jobs, standby, tensors and kept sets are emptied. -/
def State.emptyForTransfer (s : State) : State :=
  let s := ((s.setTwinState 2).abortWhere (fun _ => true) fun _ => true).setStandby 0
  { s with
    twin := { s.twin with transferAt := none, step := 6, hold := true }
    train := { s.train with gathered := 0, updates := 0, reverted := false, keptFrom := some s.slot }
    crucibles := emptied s.crucibles }

/-- The attach half of the chosen pair runs. -/
def State.runAttachHalf (s : State) : State :=
  match s.twin.halves with
  | some p => s.installNow p.attach
  | none => s

theorem State.transferStart_of_running {e : Nat} (he : s.twin.transferAt = some e) (hs : s.twinState = 1)
    (hr : s.clock.running = true) (hslot : e = s.slot) : s.transferStart = s.emptyForTransfer.runAttachHalf := by
  unfold State.transferStart State.runAttachHalf State.emptyForTransfer
  rw [he]
  subst hslot
  simp only [hs, hr, bne_self_eq_false, Bool.false_eq_true, if_false, if_true] <;>
    (generalize ((s.setTwinState 2).abortWhere (fun _ => true) fun _ => true).setStandby 0 = u; rfl)

theorem State.emptyForTransfer_holds : s.emptyForTransfer.twinState = 2 ∧ s.emptyForTransfer.twin.hold = true ∧
    s.emptyForTransfer.twin.step = 6 ∧ s.emptyForTransfer.standby = 0 ∧
    s.emptyForTransfer.reg Reg.PWR_STATE = s.reg Reg.PWR_STATE := by
  have hreg {k : Nat} (hk : abortSpares k) := (s.setTwinState 2).reg_abortWhere (fun _ => true) (fun _ => true) hk
  unfold State.emptyForTransfer
  generalize (s.setTwinState 2).abortWhere (fun _ => true) (fun _ => true) = u at *
  refine ⟨?_, rfl, rfl, u.fld_setFld_mod (by decide), ?_⟩
  · exact (u.fld_setFld_away _ _ _ (by decide) 0 3).trans ((State.fld_of_reg (hreg (by decide)) 0 3).trans
      (s.fld_setFld_mod (by decide)))
  · exact (u.reg_setFld_apart _ _ _ (by decide)).trans ((hreg (by decide)).trans (s.reg_setFld_apart _ _ _ (by decide)))

theorem State.runAttachHalf_keeps (h : s.bit Reg.PWR_STATE 4 = false) : s.KeepsTwin switchSpares s.runAttachHalf := by
  unfold State.runAttachHalf
  split
  · exact s.installNow_keeps _ h
  · exact .self ..

/-- A newcomer takes the slot number of the running twin's marker. -/
def State.takeSlotNumber (s : State) : State :=
  match s.twin.marker with
  | some m => s.setReg Reg.TCK_SLOTNUM (BitVec.ofNat 32 m.slot)
  | none => s

/-- A newcomer takes what it is sent. -/
def State.openTransfer (s : State) : State :=
  { (s.setTwinState 2) with twin := { s.twin with transferAt := none, step := 6, set := [] } }

theorem State.transferStart_of_newcomer {e : Nat} (he : s.twin.transferAt = some e) (hs : s.twinState = 1)
    (hr : s.clock.running = false) : s.transferStart = s.takeSlotNumber.openTransfer := by
  unfold State.transferStart
  rw [he, hs, hr]
  exact (if_neg (by decide)).trans (if_neg (by decide))

theorem State.takeSlotNumber_clock : s.takeSlotNumber.clock = s.clock := by
  unfold State.takeSlotNumber
  split <;> rfl

theorem State.twinState_openTransfer : s.openTransfer.twinState = 2 := s.fld_setFld_mod (by decide)

/-! ## The join (R503, R543) -/

/-- The plane of a newcomer runs from slot `j` with what it has received. -/
def State.freshPlane (s : State) (x : Transferred) (j : Nat) : State :=
  let s := (if s.twinState = 2 then s.takeTransferred x else s).setReg Reg.TCK_SLOTNUM (BitVec.ofNat 32 j)
  { s with clock := { s.clock with running := true, cc := 0 }, pins := { s.pins with twinOk := true } }

/-- The twins are PAIRED from slot `j`. -/
def State.pairUp (s : State) (j : Nat) : State :=
  let s := (s.setTwinState 3).setReg Reg.TWN_JOIN (BitVec.ofNat 32 j)
  { s with twin := { s.twin with joinAt := none, step := 0, hold := false, own := none, peer := none } }

theorem State.join_of_running {j : Nat} (x : Transferred) (hj : s.twin.joinAt = some j) (hr : s.clock.running = true)
    (hslot : j = s.slot) : s.join x = let u := s.pairUp j
      if (u.roleHalf u.isLive == u.active : Bool) then u else u.installNow (u.roleHalf u.isLive) := by
  unfold State.join
  rw [hj, hr, hslot]
  dsimp only
  rw [if_neg (by simp)]
  rfl

theorem State.join_of_newcomer {j : Nat} (x : Transferred) (hj : s.twin.joinAt = some j) (hr : s.clock.running = false) :
    s.join x = let u := (s.freshPlane x j).pairUp j
      u.setVariant (u.roleHalf u.isLive) := by
  unfold State.join
  rw [hj, hr]
  dsimp only
  rw [if_neg (by simp)]
  rfl

theorem State.setVariant_keeps (v : Nat) : s.KeepsTwin switchSpares (s.setVariant v) := by
  have hne (j : Nat) (hj : j ∈ switchRegs) (k : Nat) (hk : switchSpares k) : k ≠ j := hk.ne hj
  have hshow (t : State) (h : s.KeepsTwin switchSpares t) : s.KeepsTwin switchSpares t.showPeriod :=
    h.setFld _ _ _ (hne _ (by decide))
  unfold State.setVariant
  extract_lets p u
  have hu : s.KeepsTwin switchSpares u := hshow _ (((State.KeepsTwin.self _ s).setFld _ _ _ (hne _ (by decide))).setFld
    _ _ _ (hne _ (by decide)))
  clear_value u
  split
  · exact (hu.setFld _ _ _ (hne _ (by decide))).setFld _ _ _ (hne _ (by decide))
  · exact hu

theorem State.pairUp_holds (j : Nat) : (s.pairUp j).twinState = 3 ∧ (s.pairUp j).reg Reg.TWN_JOIN = BitVec.ofNat 32 j ∧
    (s.pairUp j).twin.joinAt = none ∧ (s.pairUp j).twin.hold = false ∧ (s.pairUp j).clock = s.clock ∧
    (s.pairUp j).commit = s.commit ∧ (s.pairUp j).reg Reg.PWR_STATE = s.reg Reg.PWR_STATE :=
  ⟨(State.fld_setReg_away _ _ (by decide) 0 3).trans (s.fld_setFld_mod (by decide)), State.reg_setReg_same _ _ _, rfl, rfl,
    rfl, rfl, (State.reg_setReg_apart _ _ (by decide)).trans (s.reg_setFld_apart _ _ _ (by decide))⟩

theorem State.freshPlane_commit (x : Transferred) (j : Nat) : (s.freshPlane x j).commit = s.commit := by
  have h : (if s.twinState = 2 then s.takeTransferred x else s).commit = s.commit := by
    split <;> rfl
  exact h

/-- The two plans that a join of a running twin may leave. -/
theorem State.joinRunning_keeps (h : s.bit Reg.PWR_STATE 4 = false) : s.KeepsTwin switchSpares
    (if (s.roleHalf s.isLive == s.active : Bool) then s else s.installNow (s.roleHalf s.isLive)) :=
  .ite (fun _ => .self ..) fun _ => s.installNow_keeps _ h

theorem State.join_of_running_holds {j : Nat} (x : Transferred) (hj : s.twin.joinAt = some j)
    (hr : s.clock.running = true) (hslot : j = s.slot) (h : s.bit Reg.PWR_STATE 4 = false) :
    (s.join x).twinState = 3 ∧ (s.join x).reg Reg.TWN_JOIN = BitVec.ofNat 32 j ∧ (s.join x).twin.joinAt = none ∧
    (s.join x).twin.hold = false ∧ (s.join x).clock.running = true := by
  obtain ⟨hst, hjoin, hat, hhold, hclock, -, hpwr⟩ := s.pairUp_holds j
  rw [s.join_of_running x hj hr hslot]
  dsimp only
  generalize s.pairUp j = u at *
  have hk := u.joinRunning_keeps ((State.bit_of_reg hpwr 4).trans h)
  generalize (if (u.roleHalf u.isLive == u.active : Bool) then u else u.installNow (u.roleHalf u.isLive)) = w at *
  exact ⟨(hk.fld (by decide) 0 3).trans hst, (hk.reg _ (by decide)).trans hjoin, by rw [hk.twin, hat],
    by rw [hk.twin, hhold], by rw [hk.clock, hclock, hr]⟩

theorem State.join_of_newcomer_holds {j : Nat} (x : Transferred) (hj : s.twin.joinAt = some j)
    (hr : s.clock.running = false) : (s.join x).twinState = 3 ∧ (s.join x).reg Reg.TWN_JOIN = BitVec.ofNat 32 j ∧
    (s.join x).twin.joinAt = none ∧ (s.join x).twin.hold = false ∧ (s.join x).commit = s.commit := by
  rw [s.join_of_newcomer x hj hr]
  dsimp only
  have hfresh := s.freshPlane_commit x j
  generalize s.freshPlane x j = f at *
  obtain ⟨hst, hjoin, hat, hhold, -, hcommit, -⟩ := f.pairUp_holds j
  generalize f.pairUp j = u at *
  have hk := u.setVariant_keeps (u.roleHalf u.isLive)
  have honly := u.onlyRegs_setVariant (u.roleHalf u.isLive)
  generalize u.setVariant (u.roleHalf u.isLive) = w at *
  exact ⟨(hk.fld (by decide) 0 3).trans hst, (hk.reg _ (by decide)).trans hjoin, by rw [hk.twin, hat],
    by rw [hk.twin, hhold], (honly.congr State.commit fun _ => rfl).trans (hcommit.trans hfresh)⟩

theorem State.joinTick_of_running (x : Transferred) (us : Nat) (hr : s.clock.running = true) : s.joinTick x us = s.join x :=
  if_pos hr

theorem State.joinTick_of_newcomer {j : Nat} (x : Transferred) (us : Nat) (hj : s.twin.joinAt = some j)
    (hr : s.clock.running = false) :
    s.joinTick x us = (s.join x).startPlane j ((s.join x).epochBoundary (s.join x).now) us := by
  unfold State.joinTick
  rw [hr, hj]
  rfl

/-! ## The ends of an attach -/

/-- A twin that is to be attached, from the state `back`. -/
def State.beginAttach (s : State) (back : Nat) : State :=
  { (s.setTwinState 1) with twin := { s.twin with before := back, step := 1, abort := false } }

theorem State.twinState_beginAttach (back : Nat) : (s.beginAttach back).twinState = 1 := s.fld_setFld_mod (by decide)

theorem State.reg_beginAttach (back : Nat) : (s.beginAttach back).reg Reg.TWN_CTL = s.reg Reg.TWN_CTL :=
  s.reg_setFld_apart _ _ _ (by decide)

theorem State.attach_of_alone (hc : s.bit Reg.TWN_CTL 0 = true) (hs : s.twinState = 0 ∨ s.twinState = 4) :
    s.attach = (s.setBit Reg.TWN_CTL 0 false).beginAttach s.twinState := by
  have hst : (s.setBit Reg.TWN_CTL 0 false).twinState = s.twinState := s.fld_setBit_away _ _ (by decide) 0 3
  unfold State.attach
  rw [hc]
  refine (if_neg (by decide)).trans ?_
  dsimp only
  rw [hst]
  exact if_pos (by simpa using hs)

theorem State.attachAborted_of_abort (ha : s.twin.abort = true) (hs : s.twinState = 1 ∨ s.twinState = 2) :
    s.attachAborted = s.endAttach.notify .abort s.slot := by
  unfold State.attachAborted
  rw [ha]
  exact if_pos (by simpa using hs)

end

/-- Settles O36: each step of an attach by the equation of its event (`hello_of_accepted`, `transferStart_of_running`,
`transferStart_of_newcomer`, `join_of_running`, `join_of_newcomer`, `endAttach_holds`), what a plan switch leaves alone
(`installNow_keeps`) and the start of the data plane (`startPlane_holds`). -/
theorem attachRunsItsSteps : Obligations.AttachRunsItsSteps := by
  unfold Obligations.AttachRunsItsSteps
  intro s
  refine ⟨fun hd hc hs => ?_, fun h us hs hl hf => ?_, fun e he hs hr hslot hp => ?_, fun e he hs hr => ?_,
    fun hs hr hj => ?_, fun x us j hj hslot hp hstaged => ?_, fun ha hs hp => ?_⟩
  · refine ⟨_, exec_managed hd rfl (s.attach_of_alone hc hs), State.twinState_beginAttach _ _, ?_, rfl, rfl, rfl⟩
    exact (State.bit_of_reg (State.reg_beginAttach _ _) 0).trans (s.bit_setBit_own false (by decide))
  · obtain ⟨hhalves, hrunning⟩ := s.hello_holds h hs hl hf
    have hoffer := ((s.hello h).atUs us).offer_advance ((s.hello h).tuState == 2)
    refine ⟨_, rfl, ?_⟩
    generalize ((s.hello h).atUs us).advance ((s.hello h).tuState == 2) = w at *
    obtain ⟨hw1, hw23⟩ := Prod.mk.inj hoffer
    obtain ⟨hw2, hw3⟩ := Prod.mk.inj hw23
    exact ⟨hw1.trans hhalves, fun hr => ⟨hw2.trans (hrunning hr).1, hw3.trans (hrunning hr).2⟩⟩
  · refine ⟨_, congrArg Host.Outcome.next (s.transferStart_of_running he hs hr hslot), ?_⟩
    obtain ⟨hst, hhold, hstep, hstandby, hpwr⟩ := s.emptyForTransfer_holds
    generalize s.emptyForTransfer = u at *
    have hk := u.runAttachHalf_keeps ((State.bit_of_reg hpwr 4).trans hp)
    exact ⟨(hk.fld (by decide) 0 3).trans hst, by rw [hk.twin, hhold], by rw [hk.twin, hstep],
      (hk.fld (by decide) 1 3).trans hstandby⟩
  · exact ⟨_, congrArg Host.Outcome.next (s.transferStart_of_newcomer he hs hr), State.twinState_openTransfer _, rfl,
      s.takeSlotNumber_clock⟩
  · exact congrArg Host.Outcome.next (if_pos (by rw [hs, hr, hj]; rfl))
  · cases hr : s.clock.running with
    | true =>
      obtain ⟨hst, hjoin, hat, hhold, hrun⟩ := s.join_of_running_holds x hj hr (hslot hr) hp
      exact ⟨_, congrArg Host.Outcome.next (s.joinTick_of_running x us hr), hst, hjoin, hat, hhold, hrun,
        fun h => Bool.noConfusion h⟩
    | false =>
      obtain ⟨hst, hjoin, hat, hhold, hcommit⟩ := s.join_of_newcomer_holds x hj hr
      refine ⟨_, congrArg Host.Outcome.next (s.joinTick_of_newcomer x us hj hr), ?_⟩
      generalize s.join x = u at *
      have hstaged' : u.stagedOnly = true := by
        unfold State.stagedOnly at *
        rwa [hcommit]
      obtain ⟨htwin, hstate, hrun, -, hnum, hreg, -⟩ := u.startPlane_holds j (u.epochBoundary u.now) us hstaged'
      exact ⟨hstate.trans hst, hreg.trans hjoin, by rw [htwin, hat], by rw [htwin, hhold], hrun, fun _ => hnum⟩
  · obtain ⟨htwin, hst⟩ := s.endAttach_holds hp
    refine ⟨_, congrArg Host.Outcome.next (s.attachAborted_of_abort ha hs), ?_⟩
    have hslot (u : State) : (u.notify .abort s.slot).twin = { u.twin with notices := u.twin.notices ++ [(.abort, s.slot)] } := rfl
    generalize s.endAttach = u at *
    rw [hslot, htwin]
    exact ⟨rfl, rfl, rfl, hst⟩

end Sys2Proof.Machine
end

section
/-! SUPPORT. The steps of the start that are done, and its wait for links, time and the partner (R541 to R543). -/

namespace Sys2Proof.Machine

open Sys2Proof

section
variable (s : State)

/-! ## Steps that are done -/

theorem State.reg_stepDone {n k : Nat} (h : k ≠ Reg.STA_STEP) (h' : k ≠ Reg.STA_TSTEP (n - 1)) :
    (s.stepDone n).reg k = s.reg k :=
  (State.reg_setReg_apart _ _ h').trans (State.reg_setFld_apart _ _ _ _ h)

theorem State.fld_stepDone {n : Nat} (h : n < 16) (h' : Reg.STA_STEP ≠ Reg.STA_TSTEP (n - 1)) :
    (s.stepDone n).fld Reg.STA_STEP 0 4 = n :=
  (State.fld_setReg_away _ _ h' 0 4).trans ((State.fld_setFld_mod _ (by decide)).trans (Nat.mod_eq_of_lt h))

theorem State.bit_stepDone {n : Nat} (h' : Reg.STA_STEP ≠ Reg.STA_TSTEP (n - 1)) :
    (s.stepDone n).bit Reg.STA_STEP 4 = s.bit Reg.STA_STEP 4 :=
  (State.bit_setReg_away _ _ h' 4).trans (State.bit_setFld_off _ (by decide) (by decide))

/-- A start that goes on at a step. -/
def State.AtStep (s : State) (k : Nat) : Prop :=
  s.fld Reg.STA_STEP 0 4 = k ∧ s.isMgmtOnly = false ∧ s.start.held = false

theorem State.stepReached_of_atStep {k : Nat} (h : s.AtStep k) (j : Nat) : s.stepReached j = (k == j) := by
  obtain ⟨hk, hm, hh⟩ := h
  unfold State.stepReached
  rw [hk, hm, hh]
  simp

theorem State.AtStep.stepDone {s : State} {k n : Nat} (h : s.AtStep k) (hn : n < 16) (h' : Reg.STA_STEP ≠ Reg.STA_TSTEP (n - 1)) :
    (s.stepDone n).AtStep n :=
  ⟨s.fld_stepDone hn h', (s.bit_stepDone h').trans h.2.1, h.2.2⟩

theorem State.AtStep.congr {s t : State} {k : Nat} (h : s.AtStep k) (hreg : t.reg Reg.STA_STEP = s.reg Reg.STA_STEP)
    (hheld : t.start.held = s.start.held) : t.AtStep k :=
  ⟨(State.fld_of_reg hreg 0 4).trans h.1, (State.bit_of_reg hreg 4).trans h.2.1, hheld.trans h.2.2⟩

/-! ## The pairing of step 11 (R543) -/

/-- What a device without a partner leaves alone but the state of the twin. -/
theorem State.reg_runAlone {k : Nat} (hk : switchSpares k) (h : k ≠ Reg.TWN_STAT) : s.runAlone.reg k = s.reg k := by
  have hstat : ((s.setTwinState 0).setLive true).reg k = s.reg k :=
    (State.reg_setBit_apart _ _ _ h).trans (s.reg_setFld_apart _ _ _ h)
  unfold State.runAlone
  dsimp only
  split
  · exact ((State.setVariant_keeps _ _).reg k hk).trans hstat
  · exact hstat

theorem State.runAlone_alone : s.runAlone.twinState = 0 ∧ s.runAlone.isLive = true := by
  have hstate : ((s.setTwinState 0).setLive true).twinState = 0 :=
    (State.fld_setBit_off _ _ (by decide) (by decide)).trans (s.fld_setFld_mod (by decide))
  have hlive : ((s.setTwinState 0).setLive true).isLive = true := State.bit_setBit_own _ _ (by decide)
  unfold State.runAlone
  dsimp only
  generalize (s.setTwinState 0).setLive true = u at *
  split
  · exact ⟨((State.setVariant_keeps _ _).fld (by decide) 0 3).trans hstate,
      ((State.setVariant_keeps _ _).bit (by decide) 3).trans hlive⟩
  · exact ⟨hstate, hlive⟩

theorem State.start_runAlone : s.runAlone.start = s.start := s.onlyRegs_runAlone.congr State.start fun _ => rfl

theorem State.reg_beginPairing {k : Nat} (hk : switchSpares k) (h : k ≠ Reg.TWN_STAT) :
    s.beginPairing.reg k = s.reg k := by
  unfold State.beginPairing
  split
  · rfl
  · split
    · exact s.reg_runAlone hk h
    · exact s.reg_setFld_apart _ _ _ h

theorem State.start_beginPairing : s.beginPairing.start = s.start := by
  unfold State.beginPairing
  split
  · rfl
  · split
    · exact s.start_runAlone
    · rfl

/-! ## The wait of steps 10 to 12 -/

/-- The registers that the wait leaves alone. -/
abbrev waitSpares (k : Nat) : Prop := switchSpares k ∧ k ∉ [Reg.TWN_STAT, Reg.STA_STEP, Reg.STA_TSTEP 9, Reg.STA_TSTEP 10,
  Reg.STA_TSTEP 11]

/-- Links and reports, and registers beside those of the wait, are the same. -/
def State.WaitsOn (s t : State) : Prop :=
  t.start.links = s.start.links ∧ t.start.reported = s.start.reported ∧ ∀ k, waitSpares k → t.reg k = s.reg k

theorem State.WaitsOn.trans {s t u : State} (h : s.WaitsOn t) (h' : t.WaitsOn u) : s.WaitsOn u :=
  ⟨h'.1.trans h.1, h'.2.1.trans h.2.1, fun k hk => (h'.2.2 k hk).trans (h.2.2 k hk)⟩

theorem State.waitsOn_stepDone {n : Nat} (hn : n ∈ [10, 11, 12]) : s.WaitsOn (s.stepDone n) := by
  refine ⟨rfl, rfl, fun k hk => s.reg_stepDone ?_ ?_⟩
  · rintro rfl
    exact absurd hk.2 (by decide)
  · rintro rfl
    revert hk
    fin_cases hn <;> decide

theorem State.waitsOn_passLinks : s.WaitsOn s.passLinks := by
  unfold State.passLinks
  split
  · exact s.waitsOn_stepDone (by decide)
  · exact ⟨rfl, rfl, fun _ _ => rfl⟩

theorem State.waitsOn_passLock (locked : Bool) : s.WaitsOn (s.passLock locked) := by
  unfold State.passLock
  split
  · refine (s.waitsOn_stepDone (n := 11) (by decide)).trans ⟨?_, ?_, fun k hk => State.reg_beginPairing _ hk.1 ?_⟩
    · rw [State.start_beginPairing]
    · rw [State.start_beginPairing]
    · rintro rfl
      exact absurd hk.2 (by decide)
  · exact ⟨rfl, rfl, fun _ _ => rfl⟩

theorem State.waitsOn_askSysref : s.WaitsOn s.askSysref := by
  unfold State.askSysref
  split <;> exact ⟨rfl, rfl, fun _ _ => rfl⟩

theorem State.waitsOn_passPairing : s.WaitsOn s.passPairing := by
  unfold State.passPairing
  split
  · exact (s.waitsOn_stepDone (by decide)).trans (State.waitsOn_askSysref _)
  · exact ⟨rfl, rfl, fun _ _ => rfl⟩

theorem State.waitsOn_advance (locked : Bool) : s.WaitsOn (s.advance locked) := by
  rw [State.advance_eq]
  exact (s.waitsOn_passLinks.trans (State.waitsOn_passLock _ _)).trans (State.waitsOn_passPairing _)

theorem State.reg_askSysref (k : Nat) : s.askSysref.reg k = s.reg k := by
  unfold State.askSysref
  split <;> rfl

/-- The last part of the wait does not go back. -/
theorem State.le_passPairing {k : Nat} (h : s.AtStep k) : k ≤ s.passPairing.fld Reg.STA_STEP 0 4 := by
  unfold State.passPairing
  rw [s.stepReached_of_atStep h 11]
  split
  next hreach =>
    have hk : k = 11 := beq_iff_eq.mp (Bool.and_eq_true_iff.mp hreach).1
    rw [State.fld_of_reg (State.reg_askSysref _ _) 0 4, s.fld_stepDone (by decide) (by decide), hk]
    decide
  · exact h.1.ge

theorem State.le_passLock (locked : Bool) {k : Nat} (h : s.AtStep k) :
    ∃ j, (if locked = true ∧ k = 10 then 11 else k) ≤ j ∧ (s.passLock locked).AtStep j := by
  unfold State.passLock
  rw [s.stepReached_of_atStep h 10]
  by_cases hc : locked = true ∧ k = 10
  · obtain ⟨rfl, rfl⟩ := hc
    refine ⟨11, le_of_eq (if_pos ⟨rfl, rfl⟩), ?_⟩
    exact (h.stepDone (by decide) (by decide)).congr (State.reg_beginPairing _ (by decide) (by decide))
      (congrArg Start.held (State.start_beginPairing _))
  · refine ⟨k, le_of_eq (if_neg hc), ?_⟩
    rw [if_neg (by simpa [and_comm] using hc)]
    exact h

end

end Sys2Proof.Machine
end

section
/-! PROOF of O45: resets, the start and its time-outs (R538, R541 to R545, R628). -/

namespace Sys2Proof.Machine

open Sys2Proof

section
variable (s : State)

/-! ## Time-outs -/

theorem State.goFatal_pins (code : Nat) : (s.goFatal code).pins = { s.pins with faultN := false, twinOk := false } := by
  rw [s.goFatal_eq, State.holdFatal_pins, State.endStart_pins]
  rfl

/-- A fatal fault lowers FAULT_N and TWIN_OK and no other ball. -/
theorem State.raise_fatal_pins (code : Nat) (loc : BitVec 64) (d0 d1 : Nat) :
    (s.raise code .fatal loc d0 d1).pins = { s.pins with faultN := false, twinOk := false } := by
  unfold State.raise
  exact (State.goFatal_pins _ code).trans
    (congrArg (fun p : Pins => { p with faultN := false, twinOk := false }) (s.queueRecord_pins _))

theorem State.reg_recordBrownOut {k : Nat} (hl : k ≠ Reg.FLT_LOST) (hc : k ≠ Reg.FLT_CNTD) :
    s.recordBrownOut.reg k = s.reg k := by
  unfold State.recordBrownOut
  split
  · exact State.reg_raise_detected _ _ _ _ _ hl hc
  · rfl

theorem State.recordBrownOut_pins : s.recordBrownOut.pins = s.pins := by
  unfold State.recordBrownOut
  split
  · rw [State.raise_detected_form]
  · rfl

/-- Management-only operation (R545). -/
theorem State.mgmtOnly_holds : s.mgmtOnly.isMgmtOnly = true ∧ s.mgmtOnly.pins = s.pins ∧
    s.mgmtOnly.fld Reg.STA_STEP 0 4 = s.fld Reg.STA_STEP 0 4 ∧
    ∀ k, k ∉ [Reg.STA_STEP, Reg.FLT_LOST, Reg.FLT_CNTD] → s.mgmtOnly.reg k = s.reg k := by
  have hreg := State.reg_recordBrownOut (s.setBit Reg.STA_STEP 4 true) (k := Reg.STA_STEP) (by decide) (by decide)
  refine ⟨(State.bit_of_reg hreg 4).trans (s.bit_setBit_own true (by decide)), State.recordBrownOut_pins _,
    (State.fld_of_reg hreg 0 4).trans (s.fld_setBit_off true (by decide) (by decide)), fun k hk => ?_⟩
  simp only [List.mem_cons, List.not_mem_nil, or_false, not_or] at hk
  exact (State.reg_recordBrownOut _ hk.2.1 hk.2.2).trans (s.reg_setBit_apart _ _ hk.1)

/-- The step under way is no longer held up. -/
def State.unstall (s : State) : State :=
  { s with start := { s.start with input := { s.start.input with stall := none } } }

theorem State.stepTimeout_fatal {k : Nat} (stack : Nat) (h : s.AtStep k) (hk : k ∈ [6, 7, 12]) : s.stepTimeout stack
    = (({ s.unstall with pins := { s.pins with sysrefReq := false } } : State).raise 0x0C03 .fatal chipLoc (k + 1) 0).mgmtOnly := by
  obtain ⟨hstep, hmgmt, hheld⟩ := h
  have hgo : (s.unstall.isMgmtOnly || s.unstall.start.held) = false := by
    rw [show s.unstall.isMgmtOnly = false from hmgmt, show s.unstall.start.held = false from hheld]
    rfl
  unfold State.stepTimeout
  rw [hstep]
  refine (if_neg (ne_true_of_eq_false hgo)).trans ?_
  fin_cases hk <;> rfl

theorem State.stepTimeout_early {k : Nat} (stack : Nat) (h : s.AtStep k) (hk : k < 3) :
    s.stepTimeout stack = { s.unstall with pins := { s.pins with faultN := false } } := by
  obtain ⟨hstep, hmgmt, hheld⟩ := h
  have hgo : (s.unstall.isMgmtOnly || s.unstall.start.held) = false := by
    rw [show s.unstall.isMgmtOnly = false from hmgmt, show s.unstall.start.held = false from hheld]
    rfl
  unfold State.stepTimeout
  rw [hstep]
  exact (if_neg (ne_true_of_eq_false hgo)).trans (if_pos (by omega))

/-- The links that step 10 has waited for are recorded. -/
def State.recordLinks (s : State) : State :=
  s.start.links.foldl (fun s l =>
    let loop := match l with
      | .jrx n => .jesd n
      | .jtx n => .jesd n
      | l => l
    s.raiseIf (!s.looped loop) 0x0C08 .detected (s.linkPlace l) 0 0) s

theorem State.recordLinks_keeps : s.recordLinks.start = s.start ∧ s.recordLinks.reg Reg.STA_STEP = s.reg Reg.STA_STEP := by
  have hstart (t : State) (b : Bool) (code : Nat) (loc : BitVec 64) (d0 d1 : Nat) :
      (t.raiseIf b code .detected loc d0 d1).start = t.start := by
    unfold State.raiseIf
    split
    · exact t.raise_start ..
    · rfl
  have hreg (t : State) (b : Bool) (code : Nat) (loc : BitVec 64) (d0 d1 : Nat) :
      (t.raiseIf b code .detected loc d0 d1).reg Reg.STA_STEP = t.reg Reg.STA_STEP := by
    unfold State.raiseIf
    split
    · exact t.reg_raise_detected _ _ _ _ (by decide) (by decide)
    · rfl
  exact ⟨foldl_keeps State.start (fun t l => hstart ..) _ s,
    foldl_keeps (fun t : State => t.reg Reg.STA_STEP) (fun t l => hreg ..) _ s⟩

theorem State.linksNotTrained_eq (us : Nat) (h : s.AtStep 9) : s.linksNotTrained us
    = let t := ({ (s.atUs us).recordLinks with start := { (s.atUs us).recordLinks.start with
        links := [], reported := (s.atUs us).start.links } } : State)
      t.advance (t.tuState == 2) := by
  obtain ⟨hstep, hmgmt, -⟩ := h
  unfold State.linksNotTrained
  rw [hstep, hmgmt]
  rfl

/-- A wait for links that has ended, with no link to wait for, goes on to step 10 at least. -/
theorem State.le_advance_of_no_links (locked : Bool) (h : s.AtStep 9) (hl : s.start.links = []) :
    10 ≤ (s.advance locked).fld Reg.STA_STEP 0 4 := by
  have hlinks : s.passLinks = s.stepDone 10 := by
    unfold State.passLinks
    rw [s.stepReached_of_atStep h 9, hl]
    rfl
  obtain ⟨j, hj, hat⟩ := State.le_passLock _ locked (h.stepDone (n := 10) (by decide) (by decide))
  rw [State.advance_eq, hlinks]
  exact le_trans (by split at hj <;> omega) (State.le_passPairing _ hat)

/-- Where step 10 is done, a wait that ends goes on to step 11 at least. -/
theorem State.le_advance_of_locked (h : s.AtStep 10) : 11 ≤ (s.advance true).fld Reg.STA_STEP 0 4 := by
  have hlinks : s.passLinks = s := by
    unfold State.passLinks
    rw [s.stepReached_of_atStep h 9]
    rfl
  obtain ⟨j, hj, hat⟩ := s.le_passLock true h
  rw [State.advance_eq, hlinks]
  exact le_trans (by simpa using hj) (State.le_passPairing _ hat)

theorem State.timeLockTimeout_eq (us : Nat) (h : s.AtStep 10) (hl : s.start.tlock ≠ 0) (ht : s.tuState ≠ 2) :
    s.timeLockTimeout us = ((s.atUs us).raise 0x0C09 .detected (blockLoc 13 0x3E 0) (s.atUs us).tuState 0).advance true := by
  obtain ⟨hstep, hmgmt, -⟩ := h
  unfold State.timeLockTimeout
  rw [hstep, hmgmt]
  exact if_neg (by simp [hl, ht])

/-- Where step 11 is done and no partner is waited for, step 12 is done. -/
theorem State.advance_of_alone (h : s.AtStep 11) (hs : s.twinState = 0) :
    s.advance false = (s.stepDone 12).askSysref := by
  have hlinks : s.passLinks = s := by
    unfold State.passLinks
    rw [s.stepReached_of_atStep h 9]
    rfl
  have hlock : s.passLock false = s := by
    unfold State.passLock
    rw [s.stepReached_of_atStep h 10]
    rfl
  rw [State.advance_eq, hlinks, hlock]
  unfold State.passPairing
  rw [s.stepReached_of_atStep h 11, hs]
  rfl

theorem State.handshakeExpired_eq (us : Nat) (h : s.AtStep 11) (hs : s.twinState = 1) (hstep : s.twin.step < 4)
    (hm : s.twin.marker.any (fun m => m.slot != 0xFFFFFFFF) = false) :
    s.handshakeExpired us = (s.atUs us).runAlone.advance false := by
  obtain ⟨hat, hmgmt, -⟩ := h
  unfold State.handshakeExpired
  rw [hat, hmgmt, hs, hm, decide_eq_false (by omega)]
  rfl

theorem State.handshakeExpired_holds (us : Nat) (h : s.AtStep 11) (hs : s.twinState = 1) (hstep : s.twin.step < 4)
    (hm : s.twin.marker.any (fun m => m.slot != 0xFFFFFFFF) = false) : (s.handshakeExpired us).twinState = 0 ∧
    (s.handshakeExpired us).isLive = true ∧ (s.handshakeExpired us).fld Reg.STA_STEP 0 4 = 12 := by
  have hat : (s.atUs us).AtStep 11 := h.congr rfl rfl
  rw [s.handshakeExpired_eq us h hs hstep hm]
  generalize s.atUs us = u at *
  obtain ⟨hstate, hlive⟩ := u.runAlone_alone
  have halone : u.runAlone.AtStep 11 :=
    hat.congr (u.reg_runAlone (by decide) (by decide)) (congrArg Start.held u.start_runAlone)
  generalize u.runAlone = v at *
  rw [v.advance_of_alone halone hstate]
  have hreg (k : Nat) := State.reg_askSysref (v.stepDone 12) k
  have hstat : (v.stepDone 12).reg Reg.TWN_STAT = v.reg Reg.TWN_STAT := v.reg_stepDone (by decide) (by decide)
  exact ⟨(State.fld_of_reg ((hreg _).trans hstat) 0 3).trans hstate, (State.bit_of_reg ((hreg _).trans hstat) 3).trans hlive,
    (State.fld_of_reg (hreg _) 0 4).trans (v.fld_stepDone (by decide) (by decide))⟩

theorem State.dataPlaneStart_eq (us : Nat) (hr : s.clock.running = false) (hm : s.isMgmtOnly = false)
    (hres : s.power.resume = false) (hready : s.anyJesd = false ∨ (s.start.lemcAt.isSome = true ∧ s.jesdReady = true))
    (hstep : s.fld Reg.STA_STEP 0 4 = 12) (h1 : s.twinState ≠ 1) (h2 : s.twinState ≠ 2) :
    ∃ t, s.dataPlaneStart us = s.startPlane 0 t us := by
  have hgo : (!s.anyJesd || (s.start.lemcAt.isSome && s.jesdReady)) = true := by
    rcases hready with h | ⟨h, h'⟩
    · rw [h]
      rfl
    · rw [h, h', Bool.and_self, Bool.or_true]
  refine ⟨s.epochBoundary (if s.anyJesd then max s.now (s.start.lemcAt.getD 0 + 1000000 * nsTime) else s.now), ?_⟩
  unfold State.dataPlaneStart
  rw [hr, hm, hres, hgo, hstep]
  exact (if_neg (by decide)).trans ((if_neg (by decide)).trans (if_neg (by simp [h1, h2])))

/-! ## Power-on (R538, R545, R628) -/

/-- A reset device whose start meets `x`. -/
def State.resetWith (s : State) (x : StartInput) (bor : Bool) : State :=
  { s.hardReset with start := { input := x, brownOut := bor } }

/-- The supply rises, and the cause is shown. -/
def State.raiseSupply (s : State) (p : Pins) (x : StartInput) (bor : Bool) : State :=
  ({ s with pins := { p with pwrEn := true, twinPeer := x.twinPeer } } : State).setReg Reg.PWR_RSTCAUSE
    (if bor then 2 else 1)

/-- The supply has risen: the device is reset, and its flash is what the board holds. -/
def State.supplyUp (s : State) (x : StartInput) (bor : Bool) : State :=
  (s.resetWith x bor).boardFlash.raiseSupply (s.resetWith x bor).pins x bor

theorem State.boardFlash_form : s.boardFlash = { s with mem := s.boardFlash.mem } := by
  have h (P : State → Prop) (hP : ∀ t e, P t → P (t.setFlash e.1 e.2)) (h0 : P s) : P s.boardFlash :=
    List.foldlRecOn _ _ h0 fun t ht e _ => hP t e ht
  exact h (fun t => t = { s with mem := t.mem }) (fun t e ht => by rw [ht]; rfl) rfl

/-- What the first step of a power-on begins from. -/
theorem State.supplyUp_holds (x : StartInput) (bor : Bool) : (s.supplyUp x bor).start = { input := x, brownOut := bor } ∧
    (s.supplyUp x bor).clock = {} ∧ (s.supplyUp x bor).pending = s.pending ∧
    (s.supplyUp x bor).pins = { faultN := false, pwrEn := true, twinPeer := x.twinPeer, scan := s.pins.scan, highZ := s.pins.highZ } ∧
    (s.supplyUp x bor).reg Reg.PWR_RSTCAUSE = (if bor then 2 else 1) ∧
    ∀ k, k ≠ Reg.PWR_RSTCAUSE → (s.supplyUp x bor).reg k = State.reset.reg k := by
  have hform := (s.resetWith x bor).boardFlash_form
  unfold State.supplyUp
  generalize (s.resetWith x bor).boardFlash = v at *
  have hregs : v.regs = State.reset.regs := by
    rw [hform]
    rfl
  have hstart : v.start = { input := x, brownOut := bor } := by rw [hform]; rfl
  have hclock : v.clock = {} := by rw [hform]; rfl
  have hpending : v.pending = s.pending := by rw [hform]; rfl
  clear hform
  exact ⟨hstart, hclock, hpending, rfl, State.reg_setReg_same _ _ _, fun k hk =>
    (State.reg_setReg_apart _ _ hk).trans (State.reg_of_regs hregs k)⟩

/-- The identity of step 3, without FAULT_N (R560, R561). -/
def State.identify (s : State) : State :=
  let x := s.start.input
  let puf := x.seedOk && x.keyOk
  let s := s.setReg Reg.SEC_ID (BitVec.ofNat 32 ((if puf then 1 else 0) + (if x.chainOk then 2 else 0)
    + x.cgrade % 2 * 4))
  let serial := if x.chainOk then x.serial else 0
  let s := (s.setReg Reg.SEC_SERLO (BitVec.ofNat 32 serial)).setReg Reg.SEC_SERHI
    (BitVec.ofNat 32 (serial / 2 ^ 32))
  let s := s.raiseIf (!x.seedOk) 0x0C06 .detected secLoc 1 0
  let s := s.raiseIf (x.seedOk && !x.keyOk) 0x0C06 .detected secLoc 2 0
  s.raiseIf (!x.chainOk) 0x0C06 .detected secLoc 3 0

theorem State.identityStep_eq : s.identityStep =
    { s.identify with pins := { s.identify.pins with faultN := !s.identify.bit Reg.FLT_FATAL 31 } } := rfl

/-- What the first steps leave alone: the start's input, the cycle, the queue, the balls, and the cause and the fatal fault
that are shown. -/
structure State.PowersOn (s t : State) : Prop where
  input : t.start.input = s.start.input
  clock : t.clock = s.clock
  pending : t.pending = s.pending
  pins : t.pins = s.pins
  reg : ∀ k ∈ [Reg.PWR_RSTCAUSE, Reg.FLT_FATAL], t.reg k = s.reg k

theorem State.PowersOn.trans {s t u : State} (h : s.PowersOn t) (h' : t.PowersOn u) : s.PowersOn u :=
  ⟨h'.input.trans h.input, h'.clock.trans h.clock, h'.pending.trans h.pending, h'.pins.trans h.pins,
    fun k hk => (h'.reg k hk).trans (h.reg k hk)⟩

theorem State.powersOn_setReg {k : Nat} (w : Word) (hk : k ∉ [Reg.PWR_RSTCAUSE, Reg.FLT_FATAL]) :
    s.PowersOn (s.setReg k w) := ⟨rfl, rfl, rfl, rfl, fun _ hj => s.reg_setReg_apart w fun e => hk (e ▸ hj)⟩

theorem State.powersOn_setFld {k : Nat} (lo n v : Nat) (hk : k ∉ [Reg.PWR_RSTCAUSE, Reg.FLT_FATAL]) :
    s.PowersOn (s.setFld k lo n v) := ⟨rfl, rfl, rfl, rfl, fun _ hj => s.reg_setFld_apart lo n v fun e => hk (e ▸ hj)⟩

theorem State.powersOn_stepDone {n : Nat} (hn : n ∈ [1, 2, 3, 4]) : s.PowersOn (s.stepDone n) := by
  refine ⟨rfl, rfl, rfl, rfl, fun k hk => s.reg_stepDone ?_ ?_⟩
  · rintro rfl
    revert hk
    decide
  · rintro rfl
    revert hk
    fin_cases hn <;> decide

theorem State.powersOn_raiseIf (b : Bool) (code : Nat) (loc : BitVec 64) (d0 d1 : Nat) :
    s.PowersOn (s.raiseIf b code .detected loc d0 d1) := by
  unfold State.raiseIf
  split
  · refine ⟨by rw [s.raise_start], s.raise_clock .., s.raise_pending .., by rw [State.raise_detected_form],
      fun k hk => s.reg_raise_detected _ _ _ _ ?_ ?_⟩
    all_goals
      rintro rfl
      revert hk
      decide
  · exact ⟨rfl, rfl, rfl, rfl, fun _ _ => rfl⟩

theorem State.powersOn_identify : s.PowersOn s.identify := by
  unfold State.identify
  extract_lets x puf s1 serial s2 s3 s4
  have h1 : s.PowersOn s1 := s.powersOn_setReg _ (by decide)
  have h2 : s1.PowersOn s2 := (s1.powersOn_setReg _ (by decide)).trans (State.powersOn_setReg _ _ (by decide))
  exact (((h1.trans h2).trans (State.powersOn_raiseIf ..)).trans (State.powersOn_raiseIf ..)).trans
    (State.powersOn_raiseIf ..)

/-- Steps 1 and 2, and the identity of step 3. -/
def State.upToIdentity (s : State) : State := (((s.setReg Reg.PWR_DOM 0x3FFFFFFF).stepDone 1).stepDone 2).identify

/-- Step 3, with FAULT_N released. -/
def State.releaseFaultN (s : State) : State :=
  ({ s with pins := { s.pins with faultN := !s.bit Reg.FLT_FATAL 31 } } : State).stepDone 3

theorem State.powersOn_upToIdentity : s.PowersOn s.upToIdentity :=
  (((s.powersOn_setReg _ (by decide)).trans (State.powersOn_stepDone _ (by decide))).trans
    (State.powersOn_stepDone _ (by decide))).trans (State.powersOn_identify _)

/-- Steps 1 to 13, each up to where the start hangs. -/
def State.powerSteps (s : State) : State :=
  if s.stalled 1 then s
  else
    let s := (s.setReg Reg.PWR_DOM 0x3FFFFFFF).stepDone 1
    if s.stalled 2 then s
    else
      let s := s.stepDone 2
      if s.stalled 3 then s
      else (s.identityStep.stepDone 3).strapStep.stepDone 4 |>.afterStraps

theorem State.powerOn_eq (x : StartInput) (bor : Bool) : s.powerOn x bor = (s.supplyUp x bor).powerSteps := by
  rfl

theorem State.not_stalled_of_input (k : Nat) (h : s.start.input.stall = none) : s.stalled k = false := by
  unfold State.stalled
  rw [h]
  rfl

theorem State.powerSteps_of_no_stall (h : s.start.input.stall = none) :
    s.powerSteps = (s.upToIdentity.releaseFaultN.strapStep.stepDone 4).afterStraps := by
  unfold State.powerSteps
  have h1 := State.not_stalled_of_input s 1 h
  have h2 := State.not_stalled_of_input ((s.setReg Reg.PWR_DOM 0x3FFFFFFF).stepDone 1) 2 h
  have h3 := State.not_stalled_of_input (((s.setReg Reg.PWR_DOM 0x3FFFFFFF).stepDone 1).stepDone 2) 3 h
  dsimp only
  rw [h1, h2, h3]
  rfl

theorem bitOf_strap (w : Nat) : bitOf (BitVec.ofNat 32 (w % 32)) 4 = w.testBit 4 := by
  have h : (w % 2 ^ 5).testBit 4 = w.testBit 4 := by
    rw [Nat.testBit_mod_two_pow]
    rfl
  unfold bitOf
  rw [BitVec.getLsbD_ofNat, ← h]
  rfl

/-- The straps are latched, and step 4 is done. -/
theorem State.straps_holds : s.PowersOn (s.strapStep.stepDone 4) ∧
    (s.strapStep.stepDone 4).bit Reg.STA_STRAP 4 = s.start.input.straps.testBit 4 ∧
    (s.strapStep.stepDone 4).fld Reg.STA_STEP 0 4 = 4 := by
  have hstrap : s.strapStep.reg Reg.STA_STRAP = BitVec.ofNat 32 (s.start.input.straps % 32) :=
    (State.reg_setFld_apart _ _ _ _ (by decide)).trans (s.reg_setReg_same _ _)
  refine ⟨((s.powersOn_setReg _ (by decide)).trans (State.powersOn_setFld _ _ _ _ (by decide))).trans
    (State.powersOn_stepDone _ (by decide)), ?_, State.fld_stepDone _ (by decide) (by decide)⟩
  refine (State.bit_of_reg (State.reg_stepDone _ (by decide) (by decide)) 4).trans ?_
  exact (congrArg (bitOf · 4) hstrap).trans (bitOf_strap _)

theorem State.mgmtOnly_clock : s.mgmtOnly.clock = s.clock ∧ s.mgmtOnly.pending = s.pending := by
  unfold State.mgmtOnly State.recordBrownOut
  split
  · exact ⟨State.raise_clock .., State.raise_pending ..⟩
  · exact ⟨rfl, rfl⟩

theorem State.afterStraps_of_recovery (hs : s.pins.scan = none) (hz : s.pins.highZ = false)
    (h : s.bit Reg.STA_STRAP 4 = true) :
    s.afterStraps = ({ s with start := { s.start with held := false } } : State).mgmtOnly := by
  unfold State.afterStraps
  rw [hs, hz]
  exact if_pos h

/-- FAULT_N is released where no fatal fault stands. -/
theorem State.releaseFaultN_holds (h : s.bit Reg.FLT_FATAL 31 = false) :
    State.PowersOn { s with pins := { s.pins with faultN := true } } s.releaseFaultN := by
  unfold State.releaseFaultN
  rw [h]
  exact State.powersOn_stepDone _ (by decide)

/-- A start in RECOVERY ends in management-only operation at step 4. -/
theorem State.powerSteps_of_recovery (hstall : s.start.input.stall = none) (hrec : s.start.input.straps.testBit 4 = true)
    (hs : s.pins.scan = none) (hz : s.pins.highZ = false) (hf : s.bit Reg.FLT_FATAL 31 = false) :
    s.powerSteps.fld Reg.STA_STEP 0 4 = 4 ∧ s.powerSteps.isMgmtOnly = true ∧ s.powerSteps.pins.faultN = true ∧
    s.powerSteps.reg Reg.PWR_RSTCAUSE = s.reg Reg.PWR_RSTCAUSE ∧ s.powerSteps.clock = s.clock ∧
    s.powerSteps.pending = s.pending := by
  rw [s.powerSteps_of_no_stall hstall]
  have hu := s.powersOn_upToIdentity
  generalize s.upToIdentity = u at *
  have hv := u.releaseFaultN_holds ((State.bit_of_reg (hu.reg _ (by decide)) 31).trans hf)
  generalize u.releaseFaultN = v at *
  obtain ⟨hw, hstrap, hstep⟩ := v.straps_holds
  generalize v.strapStep.stepDone 4 = w at *
  have hinput : v.start.input = s.start.input := hv.input.trans hu.input
  have hpins : w.pins = { s.pins with faultN := true } := by rw [hw.pins, hv.pins, hu.pins]
  rw [w.afterStraps_of_recovery (by rw [hpins, hs]) (by rw [hpins, hz]) (by rw [hstrap, hinput, hrec])]
  obtain ⟨y, hy⟩ : ∃ y : State, y = { w with start := { w.start with held := false } } := ⟨_, rfl⟩
  have hypins : y.pins = w.pins := by rw [hy]
  have hyclock : y.clock = w.clock := by rw [hy]
  have hypending : y.pending = w.pending := by rw [hy]
  have hyregs : y.regs = w.regs := by rw [hy]
  rw [← hy]
  obtain ⟨hmgmt, hmpins, hmstep, hmreg⟩ := y.mgmtOnly_holds
  obtain ⟨hmclock, hmpending⟩ := y.mgmtOnly_clock
  generalize y.mgmtOnly = z at *
  refine ⟨hmstep.trans ((State.fld_of_reg (State.reg_of_regs hyregs _) 0 4).trans hstep), hmgmt,
    by rw [hmpins, hypins, hpins], ?_, ?_, ?_⟩
  · exact (hmreg _ (by decide)).trans ((State.reg_of_regs hyregs _).trans ((hw.reg _ (by decide)).trans
      ((hv.reg _ (by decide)).trans (hu.reg _ (by decide)))))
  · exact hmclock.trans (hyclock.trans (hw.clock.trans (hv.clock.trans hu.clock)))
  · exact hmpending.trans (hypending.trans (hw.pending.trans (hv.pending.trans hu.pending)))

/-- What a power-on and a brown-out leave. -/
theorem State.powerOn_holds (x : StartInput) (bor : Bool) :
    (x.stall = some 1 → (s.powerOn x bor).fld Reg.STA_STEP 0 5 = 0 ∧ (s.powerOn x bor).pins.faultN = false ∧
      (s.powerOn x bor).pins.pwrEn = true ∧ (s.powerOn x bor).reg Reg.PWR_RSTCAUSE = (if bor then 2 else 1) ∧
      (s.powerOn x bor).reg Reg.ARC_ID = 0x0940B000) ∧
    (x.stall = none → x.straps.testBit 4 = true → s.pins.scan = none → s.pins.highZ = false →
      (s.powerOn x bor).fld Reg.STA_STEP 0 4 = 4 ∧ (s.powerOn x bor).isMgmtOnly = true ∧
      (s.powerOn x bor).pins.faultN = true ∧ (s.powerOn x bor).reg Reg.PWR_RSTCAUSE = (if bor then 2 else 1) ∧
      (s.powerOn x bor).clock.running = false ∧ (s.powerOn x bor).pending = s.pending) := by
  obtain ⟨hstart, hclock, hpending, hpins, hcause, hreset⟩ := s.supplyUp_holds x bor
  rw [s.powerOn_eq]
  generalize s.supplyUp x bor = u at *
  refine ⟨fun hstall => ?_, fun hstall hrec hscan hz => ?_⟩
  · have hfirst : u.stalled 1 = true := by
      unfold State.stalled
      rw [hstart, hstall]
      rfl
    rw [show u.powerSteps = u from if_pos hfirst]
    have hstep : State.reset.fld Reg.STA_STEP 0 5 = 0 := by decide
    exact ⟨(State.fld_of_reg (hreset _ (by decide)) 0 5).trans hstep, by rw [hpins], by rw [hpins], hcause,
      (hreset _ (by decide)).trans reset_reg.1⟩
  · have hfatal : State.reset.bit Reg.FLT_FATAL 31 = false := by decide
    obtain ⟨hstep, hmgmt, hfault, hreg, hclk, hpend⟩ := u.powerSteps_of_recovery (by rw [hstart, hstall])
      (by rw [hstart, hrec]) (by rw [hpins, hscan]) (by rw [hpins, hz])
      ((State.bit_of_reg (hreset _ (by decide)) 31).trans hfatal)
    exact ⟨hstep, hmgmt, hfault, hreg.trans hcause, by rw [hclk, hclock], hpend.trans hpending⟩

end

/-- Settles O45: resets and the first steps by `supplyUp_holds` and `powerSteps_of_recovery`, the time-outs by the equation of
each, the wait of steps 10 to 12 by `waitsOn_advance`, and the start of the data plane by `startPlane_holds`. -/
theorem theStartRunsAndEnds : Obligations.TheStartRunsAndEnds := by
  unfold Obligations.TheStartRunsAndEnds
  intro s
  refine ⟨⟨_, rfl, rfl, rfl, rfl, rfl, rfl, rfl, rfl⟩, fun x i c hi => ?_, fun hm hh => ⟨fun stack hk => ?_,
    fun stack hk => ?_, fun us hk => ?_, fun us hk hl ht => ?_, fun us hk hs hstep hmark => ?_⟩,
    fun us hr hm hres hstaged hready hk h1 h2 => ?_⟩
  · simp only [List.mem_cons, Prod.mk.injEq, List.not_mem_nil, or_false] at hi
    rcases hi with ⟨rfl, rfl⟩ | ⟨rfl, rfl⟩
    · obtain ⟨hstall, hrec⟩ := s.powerOn_holds x false
      exact ⟨fun h => ⟨_, rfl, hstall h⟩, fun h hs hscan hz => ⟨_, rfl, hrec h hs hscan hz⟩⟩
    · obtain ⟨hstall, hrec⟩ := s.powerOn_holds x true
      exact ⟨fun h => ⟨_, rfl, hstall h⟩, fun h hs hscan hz => ⟨_, rfl, hrec h hs hscan hz⟩⟩
  · refine ⟨_, congrArg Host.Outcome.next (s.stepTimeout_fatal stack ⟨rfl, hm, hh⟩ hk), ?_⟩
    generalize s.fld Reg.STA_STEP 0 4 + 1 = k
    obtain ⟨u, hu⟩ : ∃ u : State, u = { s.unstall with pins := { s.pins with sysrefReq := false } } := ⟨_, rfl⟩
    have hsysref : u.pins.sysrefReq = false := by rw [hu]
    rw [← hu]
    obtain ⟨hfatal, hfault⟩ := u.raise_fatal_shows (code := 0x0C03) (by decide) chipLoc k 0
    have hpins := u.raise_fatal_pins 0x0C03 chipLoc k 0
    generalize u.raise 0x0C03 .fatal chipLoc k 0 = v at *
    obtain ⟨hmgmt, hmpins, -, hmreg⟩ := v.mgmtOnly_holds
    exact ⟨hmgmt, (State.bit_of_reg (hmreg _ (by decide)) 31).trans hfatal, by rw [hmpins, hfault],
      by rw [hmpins, hpins]; exact hsysref⟩
  · exact ⟨_, congrArg Host.Outcome.next (s.stepTimeout_early stack ⟨rfl, hm, hh⟩ hk), rfl, rfl⟩
  · refine ⟨_, congrArg Host.Outcome.next (s.linksNotTrained_eq us ⟨hk, hm, hh⟩), ?_⟩
    obtain ⟨hstart, hreg⟩ := (s.atUs us).recordLinks_keeps
    have hat : (s.atUs us).AtStep 9 := ⟨hk, hm, hh⟩
    have hlinks : (s.atUs us).start.links = s.start.links := rfl
    generalize (s.atUs us).recordLinks = u at *
    generalize s.atUs us = v at *
    have hu : u.AtStep 9 := hat.congr hreg (congrArg Start.held hstart)
    obtain ⟨y, hy⟩ : ∃ y : State, y = { u with start := { u.start with links := [], reported := v.start.links } } :=
      ⟨_, rfl⟩
    have hy1 : y.start.links = [] := by rw [hy]
    have hy2 : y.start.reported = v.start.links := by rw [hy]
    have hyat : y.AtStep 9 := hu.congr (State.reg_of_regs (by rw [hy]) _) (by rw [hy])
    dsimp only
    rw [← hy]
    obtain ⟨hw1, hw2, -⟩ := y.waitsOn_advance (y.tuState == 2)
    exact ⟨hw1.trans hy1, hw2.trans (hy2.trans hlinks), y.le_advance_of_no_links _ hyat hy1⟩
  · refine ⟨_, congrArg Host.Outcome.next (s.timeLockTimeout_eq us ⟨hk, hm, hh⟩ hl ht), ?_⟩
    have hat : (s.atUs us).AtStep 10 := ⟨hk, hm, hh⟩
    have hstart := (s.atUs us).raise_start 0x0C09 .detected (blockLoc 13 0x3E 0) (s.atUs us).tuState 0
    have hreg {k : Nat} := (s.atUs us).reg_raise_detected 0x0C09 (blockLoc 13 0x3E 0) (s.atUs us).tuState 0 (k := k)
    have htu : (s.atUs us).reg Reg.TU_STAT = s.reg Reg.TU_STAT := rfl
    generalize (s.atUs us).raise 0x0C09 .detected (blockLoc 13 0x3E 0) (s.atUs us).tuState 0 = v at *
    have hv : v.AtStep 10 := hat.congr (hreg (by decide) (by decide)) (congrArg Start.held hstart)
    obtain ⟨-, -, hw⟩ := v.waitsOn_advance true
    exact ⟨v.le_advance_of_locked hv, State.fld_of_reg ((hw _ (by decide)).trans ((hreg (by decide) (by decide)).trans htu)) 0 2⟩
  · exact ⟨_, rfl, s.handshakeExpired_holds us ⟨hk, hm, hh⟩ hs hstep hmark⟩
  · obtain ⟨t, ht⟩ := s.dataPlaneStart_eq us hr hm hres hready hk h1 h2
    obtain ⟨-, -, hrun, hcc, hslot, -, hstep, hepoch⟩ := s.startPlane_holds 0 t us hstaged
    exact ⟨_, congrArg Host.Outcome.next ht, hrun, hslot, hcc, hstep, hepoch⟩

end Sys2Proof.Machine
end

section
/-! PROOF of O40: leave grants, temperature and the loss of lock of clocks (R513, R517, R519). -/

namespace Sys2Proof.Machine

open Sys2Proof

section
variable (s : State)

/-! ## The governor (R517) -/

/-- The request at the front is granted at cycle `t`, and its context runs on. -/
def State.grantFirst (s : State) (r t : Nat) (w : LeaveReq) : State :=
  let s := s.setGrants r (s.heldGrants r t ++ [⟨w.ctx, w.amount, none⟩])
  let s := s.bump (winKey r Reg.PWR_WAIT) 0 32 ((t - w.since : Int).toNat)
  s.onCtx w.ctx fun x => if x.cause = .leave then { x with state := .runnable, cause := .none } else x

/-- Whether a request fits the budget of a region beside what is held. -/
def State.leaveFits (s : State) (r t : Nat) (w : LeaveReq) : Prop :=
  ((s.heldGrants r t).map (·.amount)).sum + w.amount ≤ s.budget r t

theorem State.grantWaiting_cons_fits {r t : Nat} {w : LeaveReq} (ws : List LeaveReq) (h : s.leaveFits r t w) :
    s.grantWaiting r t (w :: ws) = (s.grantFirst r t w).grantWaiting r t ws := if_pos h

theorem State.grantWaiting_cons_unfit {r t : Nat} {w : LeaveReq} (ws : List LeaveReq) (h : ¬ s.leaveFits r t w) :
    s.grantWaiting r t (w :: ws) = s.setWaits r (w :: ws) := if_neg h

theorem State.waits_setWaits (r : Nat) (ws : List LeaveReq) : SMap.read [] (s.setWaits r ws).els.waits r = ws :=
  SMap.read_write_same

/-- What still waits at the front does not fit. -/
theorem State.grantWaiting_front (r t : Nat) (ws : List LeaveReq) {w : LeaveReq} {rest : List LeaveReq}
    (h : SMap.read [] (s.grantWaiting r t ws).els.waits r = w :: rest) : ¬ (s.grantWaiting r t ws).leaveFits r t w := by
  induction ws generalizing s with
  | nil =>
    rw [show s.grantWaiting r t [] = s.setWaits r [] from rfl, s.waits_setWaits] at h
    exact absurd h (by simp)
  | cons v vs ih =>
    by_cases hv : s.leaveFits r t v
    · rw [s.grantWaiting_cons_fits vs hv] at *
      exact ih _ h
    · rw [s.grantWaiting_cons_unfit vs hv] at *
      rw [s.waits_setWaits] at h
      obtain ⟨rfl, -⟩ := List.cons.inj h
      exact hv

theorem State.reg_grantWaiting (r t : Nat) (ws : List LeaveReq) {k : Nat} (hk : k < 2 ^ 32) :
    (s.grantWaiting r t ws).reg k = s.reg k := by
  induction ws generalizing s with
  | nil => rfl
  | cons v vs ih =>
    by_cases hv : s.leaveFits r t v
    · rw [s.grantWaiting_cons_fits vs hv, ih]
      exact (s.setGrants r _).reg_bump_apart _ _ _ (winKey_ne hk).symm
    · rw [s.grantWaiting_cons_unfit vs hv]
      rfl

/-- The requests that the governor judges, in its order. -/
def State.judgedReqs (s : State) (r : Nat) : List LeaveReq :=
  ((SMap.read [] s.els.waits r).filter fun w => (s.ctx w.ctx).cause = .leave).foldr insertReq []

theorem State.leaveGrant_of_live {r : Nat} (t : Nat) (he : s.exact = false) (hh : s.hot = false)
    (hl : s.engineLive r = true) : s.leaveGrant r t =
      (s.reach t).grantWaiting r (max t (s.reach t).clock.cc) ((s.reach t).judgedReqs r) := by
  unfold State.leaveGrant
  rw [he, hh, hl]
  rfl

theorem State.cc_reach (t : Nat) : (s.reach t).clock.cc = max t s.clock.cc := by
  unfold State.reach
  split
  next h => exact (max_eq_right h).symm
  next h =>
    show t = max t s.clock.cc
    omega

theorem State.reach_now : s.reach s.clock.cc = s := if_pos le_rfl

theorem State.leaveGrant_holds {r : Nat} (cycle : Nat) (he : s.exact = false) (hh : s.hot = false)
    (hl : s.engineLive r = true) :
    (∀ w rest, SMap.read [] (s.leaveGrant r cycle).els.waits r = w :: rest →
      ¬ (s.leaveGrant r cycle).leaveFits r (max cycle s.clock.cc) w) ∧
    ∀ w, SMap.read [] (s.reach cycle).els.waits r = [w] → ((s.reach cycle).ctx w.ctx).cause = .leave →
      (s.reach cycle).leaveFits r (max cycle s.clock.cc) w →
      SMap.read [] (s.leaveGrant r cycle).els.waits r = [] ∧ ((s.leaveGrant r cycle).ctx w.ctx).cause = .none ∧
      ((s.leaveGrant r cycle).ctx w.ctx).state = .runnable := by
  have hcc : max cycle (s.reach cycle).clock.cc = max cycle s.clock.cc := by rw [s.cc_reach]; omega
  rw [s.leaveGrant_of_live cycle he hh hl, hcc]
  generalize s.reach cycle = u, max cycle s.clock.cc = t
  refine ⟨fun w rest h => u.grantWaiting_front r t _ h, fun w hw hcause hfits => ?_⟩
  have hjudged : u.judgedReqs r = [w] := by
    unfold State.judgedReqs
    rw [hw]
    simp [hcause, insertReq]
  have hctx : (u.grantFirst r t w).ctx w.ctx = { u.ctx w.ctx with state := .runnable, cause := .none } :=
    (SMap.read_write_same).trans (if_pos hcause)
  rw [hjudged, u.grantWaiting_cons_fits [] hfits]
  exact ⟨State.waits_setWaits _ _ _, congrArg Ctx.cause hctx, congrArg Ctx.state hctx⟩

/-! ## Temperature (R519) -/

theorem State.reg_leaveGrant_now (r : Nat) {k : Nat} (hk : k < 2 ^ 32) :
    (s.leaveGrant r s.clock.cc).reg k = s.reg k := by
  unfold State.leaveGrant
  split
  · rfl
  · dsimp only
    rw [s.reach_now]
    exact s.reg_grantWaiting _ _ _ hk

theorem tempDetail_of_lt {sensor temp : Nat} (hs : sensor < 16) (ht : temp < 256) :
    tempDetail sensor temp = temp + sensor * 2 ^ 8 := by
  unfold tempDetail
  omega

theorem State.reg_setTemp (sensor temp : Nat) (warn : Bool) : (s.setTemp sensor temp warn).reg Reg.PWR_TEMP
    = BitVec.ofNat 32 (tempDetail sensor temp + if warn then 2 ^ 16 else 0) := s.reg_setReg_same _ _

theorem State.onlyRegs_setTemp (sensor temp : Nat) (warn : Bool) : s.OnlyRegs (s.setTemp sensor temp warn) := rfl

theorem State.overTemp_holds {sensor temp : Nat} (hs : sensor < 16) (ht : temp < 256) :
    s.overTemp sensor temp = { s with regs := (s.overTemp sensor temp).regs, faults := (s.overTemp sensor temp).faults } ∧
    (s.overTemp sensor temp).reg Reg.PWR_TEMP = BitVec.ofNat 32 (temp + sensor * 2 ^ 8 + 2 ^ 16) := by
  have hreg := s.reg_setTemp sensor temp true
  have honly := s.onlyRegs_setTemp sensor temp true
  rw [tempDetail_of_lt hs ht] at hreg
  unfold State.overTemp
  generalize s.setTemp sensor temp true = u, tempDetail sensor temp = d at *
  have hform := u.raise_detected_form 0x0B02 powerLoc d 0
  have hkeep := u.reg_raise_detected 0x0B02 powerLoc d 0 (k := Reg.PWR_TEMP) (by decide) (by decide)
  generalize u.raise 0x0B02 .detected powerLoc d 0 = v at *
  refine ⟨?_, hkeep.trans hreg⟩
  refine hform.trans ?_
  rw [honly]

theorem State.thermalTrip_holds (sensor temp : Nat) : (s.thermalTrip sensor temp).power.tripped = true ∧
    (s.thermalTrip sensor temp).bit Reg.FLT_FATAL 31 = true ∧ (s.thermalTrip sensor temp).pins.faultN = false ∧
    (s.thermalTrip sensor temp).pins.twinOk = false ∧ (s.thermalTrip sensor temp).mem = s.mem := by
  unfold State.thermalTrip
  have hmem := (s.onlyRegs_setTemp sensor temp true).mem
  generalize s.setTemp sensor temp true = u, tempDetail sensor temp = d at *
  obtain ⟨v, hv⟩ : ∃ v : State, v = { u with power := { u.power with tripped := true } } := ⟨_, rfl⟩
  have htrip : v.power.tripped = true := by rw [hv]
  have hvmem : v.mem = u.mem := by rw [hv]
  dsimp only
  rw [← hv]
  obtain ⟨hfatal, hfault⟩ := v.raise_fatal_shows (code := 0x0B03) (by decide) powerLoc d 0
  refine ⟨by rw [State.raise_power, htrip], hfatal, hfault, by rw [v.raise_fatal_pins], ?_⟩
  rw [State.raise_mem, hvmem, hmem]

theorem State.tempFallen_holds {sensor temp : Nat} (hs : sensor < 16) (ht : temp < 256) :
    (s.tempFallen sensor temp).reg Reg.PWR_TEMP = BitVec.ofNat 32 (temp + sensor * 2 ^ 8) := by
  have hreg := s.reg_setTemp sensor temp false
  rw [tempDetail_of_lt hs ht] at hreg
  exact (foldl_keeps (fun t : State => t.reg Reg.PWR_TEMP) (fun t r => t.reg_leaveGrant_now r (by decide)) _ _).trans hreg

/-! ## Clocks (R513) -/

/-- The loss of a clock domain's lock is counted, and the first one is kept. -/
def State.countLoss (s : State) (d : Nat) : State :=
  let s := if s.bit Reg.CLK_LOL 31 then s
    else (s.setFld Reg.CLK_LOL 0 6 d).setBit Reg.CLK_LOL 31 true
  s.bump Reg.CLK_LOL 8 8 1

/-- A domain is without lock. -/
def State.unlock (s : State) (d : Nat) : State :=
  { s with power := { s.power with
    unlocked := if d ∈ s.power.unlocked then s.power.unlocked else s.power.unlocked ++ [d] } }

theorem State.pllLost_of_engine {d : Nat} (h : d ≤ 12) : s.pllLost d = (s.countLoss d).raise 0x0B06 .fatal powerLoc d 0 :=
  if_pos h

theorem State.pllLost_of_other {d : Nat} (h : 12 < d) :
    s.pllLost d = ((s.countLoss d).unlock d).raise 0x0B06 .detected powerLoc d 0 := if_neg (by omega)

theorem State.onlyRegs_countLoss (d : Nat) : s.OnlyRegs (s.countLoss d) :=
  (s.onlyRegs_self.ite ((s.onlyRegs_self.setFld ..).setBit ..)).bump ..

theorem State.countLoss_holds {d : Nat} (hd : d < 64) :
    (s.countLoss d).fld Reg.CLK_LOL 8 8 = min (s.fld Reg.CLK_LOL 8 8 + 1) 255 ∧ (s.countLoss d).bit Reg.CLK_LOL 31 = true ∧
    (s.bit Reg.CLK_LOL 31 = false → (s.countLoss d).fld Reg.CLK_LOL 0 6 = d) := by
  unfold State.countLoss
  cases h : s.bit Reg.CLK_LOL 31 with
  | true =>
    rw [if_pos rfl]
    exact ⟨s.fld_bump_same (by decide), (s.bit_bump_off (by decide) (by decide)).trans h, fun h' => Bool.noConfusion h'⟩
  | false =>
    rw [if_neg Bool.false_ne_true]
    refine ⟨?_, ?_, fun _ => ?_⟩
    · rw [State.fld_bump_same _ (by decide), State.fld_setBit_off _ _ (by decide) (by decide),
        State.fld_setFld_off _ (by decide) (by decide) (by decide)]
      rfl
    · rw [State.bit_bump_off _ (by decide) (by decide), State.bit_setBit_own _ _ (by decide)]
    · rw [State.fld_bump_off _ (by decide) (by decide) (by decide), State.fld_setBit_off _ _ (by decide) (by decide),
        State.fld_setFld_mod _ (by decide)]
      exact Nat.mod_eq_of_lt hd

theorem State.lostLock_unlock (d : Nat) : (s.unlock d).lostLock d = true := by
  unfold State.lostLock State.unlock
  by_cases h : d ∈ s.power.unlocked
  · simp [h]
  · simp [h]

theorem State.reg_goFatal (code : Nat) {k : Nat} (hs : k ≠ Reg.STA_STEP) (hf : k ≠ Reg.FLT_FATAL) :
    (s.goFatal code).reg k = s.reg k := by
  have hstart (u : State) : u.endStart.reg k = u.reg k := by
    unfold State.endStart
    split
    · rfl
    · exact u.reg_setBit_apart _ _ hs
  have hhold (u : State) (w : Word) : (u.holdFatal w).reg k = u.reg k := by
    unfold State.holdFatal
    split
    · rfl
    · exact u.reg_setReg_apart w hf
  rw [s.goFatal_eq, hhold, hstart]
  rfl

/-- A fatal fault writes the registers of the fault controller and the start's step, and no other. -/
theorem State.reg_raise_fatal (code : Nat) (loc : BitVec 64) (d0 d1 : Nat) {k : Nat} (hl : k ≠ Reg.FLT_LOST)
    (hs : k ≠ Reg.STA_STEP) (hf : k ≠ Reg.FLT_FATAL) : (s.raise code .fatal loc d0 d1).reg k = s.reg k := by
  unfold State.raise
  exact (State.reg_goFatal _ code hs hf).trans (s.reg_queueRecord _ hl)

theorem State.pllLost_holds {d : Nat} (hd : d < 64) :
    (s.pllLost d).fld Reg.CLK_LOL 8 8 = min (s.fld Reg.CLK_LOL 8 8 + 1) 255 ∧ (s.pllLost d).bit Reg.CLK_LOL 31 = true ∧
    (s.bit Reg.CLK_LOL 31 = false → (s.pllLost d).fld Reg.CLK_LOL 0 6 = d) ∧
    (d ≤ 12 → (s.pllLost d).bit Reg.FLT_FATAL 31 = true ∧ (s.pllLost d).pins.faultN = false) ∧
    (12 < d → (s.pllLost d).lostLock d = true ∧ (s.pllLost d).pins = s.pins) := by
  obtain ⟨hcount, hset, hfirst⟩ := s.countLoss_holds hd
  have hpins : (s.countLoss d).pins = s.pins := (s.onlyRegs_countLoss d).congr State.pins fun _ => rfl
  rcases Nat.lt_or_ge 12 d with hlt | hle
  · rw [s.pllLost_of_other hlt]
    have hlost := (s.countLoss d).lostLock_unlock d
    have hregs : ((s.countLoss d).unlock d).reg Reg.CLK_LOL = (s.countLoss d).reg Reg.CLK_LOL := rfl
    have hupins : ((s.countLoss d).unlock d).pins = (s.countLoss d).pins := rfl
    generalize (s.countLoss d).unlock d = u at *
    have hkeep := (u.reg_raise_detected 0x0B06 powerLoc d 0 (k := Reg.CLK_LOL) (by decide) (by decide)).trans hregs
    have hpower := u.raise_power 0x0B06 .detected powerLoc d 0
    have hform := u.raise_detected_form 0x0B06 powerLoc d 0
    generalize u.raise 0x0B06 .detected powerLoc d 0 = v at *
    refine ⟨(State.fld_of_reg hkeep 8 8).trans hcount, (State.bit_of_reg hkeep 31).trans hset,
      fun h => (State.fld_of_reg hkeep 0 6).trans (hfirst h), fun h => absurd hlt (by omega), fun _ => ⟨?_, ?_⟩⟩
    · exact (congrArg (fun p : Power => p.unlocked.contains d) hpower).trans hlost
    · rw [hform]
      exact hupins.trans hpins
  · rw [s.pllLost_of_engine hle]
    generalize s.countLoss d = u at *
    have hkeep := u.reg_raise_fatal 0x0B06 powerLoc d 0 (k := Reg.CLK_LOL) (by decide) (by decide) (by decide)
    obtain ⟨hfatal, hfault⟩ := u.raise_fatal_shows (code := 0x0B06) (by decide) powerLoc d 0
    generalize u.raise 0x0B06 .fatal powerLoc d 0 = v at *
    exact ⟨(State.fld_of_reg hkeep 8 8).trans hcount, (State.bit_of_reg hkeep 31).trans hset,
      fun h => (State.fld_of_reg hkeep 0 6).trans (hfirst h), fun _ => ⟨hfatal, hfault⟩, fun h => absurd h (by omega)⟩

theorem State.pllRelock_lostLock (d e : Nat) : (s.pllRelock d).lostLock e = (s.lostLock e && e != d) := by
  unfold State.lostLock State.pllRelock
  rw [Bool.eq_iff_iff]
  simp

end

/-- Settles O40: the governor by induction over the requests that wait (`grantWaiting_front`), temperatures and the loss of lock
by what their faults leave of PWR.TEMP, CLK.LOL and the balls. -/
theorem leaveTemperatureAndLocksAreKept : Obligations.LeaveTemperatureAndLocksAreKept := by
  unfold Obligations.LeaveTemperatureAndLocksAreKept
  intro s
  refine ⟨fun r cycle he hh hl => ?_, fun sensor temp hs ht => ⟨⟨_, rfl, s.overTemp_holds hs ht⟩,
    ⟨_, rfl, s.thermalTrip_holds sensor temp⟩, ⟨_, rfl, s.tempFallen_holds hs ht⟩⟩, fun d hd =>
    ⟨⟨_, rfl, s.pllLost_holds hd⟩, ⟨_, rfl, rfl, ?_, fun e he => ?_⟩⟩⟩
  · obtain ⟨hfront, hgrant⟩ := s.leaveGrant_holds cycle he hh hl
    exact ⟨_, rfl, fun w rest h => Nat.lt_of_not_le (hfront w rest h), hgrant⟩
  · rw [s.pllRelock_lostLock]
    simp
  · rw [s.pllRelock_lostLock]
    simp [he]

end Sys2Proof.Machine
end

section
/-! SUPPORT. What switching regions off and on leaves alone (R510, R530 to R532). -/

namespace Sys2Proof.Machine

open Sys2Proof

section
variable (s : State)

/-! ## No command runs in a region without power -/

theorem State.abortJobs_idle (c : Nat) (p : Job → Bool) (h : s.running = []) : (s.abortJobs c p).running = [] := by
  unfold State.abortJobs
  extract_lets x n
  split
  · exact h
  next head u rest v _ =>
  have hv : v.running = [] := (State.dropTaster_running ..).trans h
  clear_value v
  split
  · unfold State.withdrawCtx
    exact (congrArg (List.filter _) hv)
  · exact hv

theorem State.abortWhere_idle (q : Ctx → Bool) (p : Job → Bool) (h : s.running = []) :
    (s.abortWhere q p).running = [] :=
  List.foldlRecOn (motive := fun t : State => t.running = []) _ _ h fun t ht c _ => by
    split
    exacts [t.abortJobs_idle c p ht, ht]

theorem State.closeGate_idle (r cause : Nat) (h : s.running = []) : (s.closeGate r cause).running = [] := by
  unfold State.closeGate
  extract_lets u v w
  have hw : w.running = [] := v.abortWhere_idle _ _ ((State.voidRegion_running ..).trans h)
  clear_value w
  exact congrArg (List.filter fun e => e.region != r) hw

/-! ## Registers outside a region -/

/-- A register outside the control space of the compute, radio, network, memory and twin regions. -/
abbrev chipKey (k : Nat) : Prop := k < 0x10000000 ∨ 0x1D000000 ≤ k ∧ k < 2 ^ 32

theorem keyOfRegion_chip (r : Nat) {k : Nat} (h : chipKey k) : keyOfRegion r k = false := by
  have hk : k % 2 ^ 32 = k := Nat.mod_eq_of_lt (by omega)
  unfold keyOfRegion controlBase
  rw [hk]
  dsimp only
  split
  · have hfmt : decide (2 ^ 32 ≤ k) = false := decide_eq_false (by omega)
    rw [hfmt, Bool.false_and]
  · rw [Bool.and_eq_false_iff, Bool.and_eq_false_iff, decide_eq_false_iff_not, decide_eq_false_iff_not,
      decide_eq_false_iff_not]
    omega

theorem State.reg_imageRegion (r : Nat) {k : Nat} (h : chipKey k) : (s.imageRegion r).reg k = s.reg k := by
  refine (SMap.read_writeAll_other fun e he hek => ?_).trans (SMap.read_drop.trans (if_neg ?_))
  · have hr := (List.mem_filter.mp he).2
    rw [hek, keyOfRegion_chip r h] at hr
    exact Bool.noConfusion hr
  · rw [keyOfRegion_chip r h]
    exact Bool.false_ne_true

/-! ## A region that goes off -/

/-- What a region that goes off, or is cleared, leaves alone. -/
structure State.GoesOff (s t : State) : Prop where
  power : t.power = s.power
  clock : t.clock = s.clock
  pins : t.pins = s.pins
  idle : s.running = [] → t.running = []
  fenced : ∀ j, s.fenced j = true → t.fenced j = true
  reg : ∀ k ∈ [Reg.PWR_STATE, Reg.PWR_RREQ], t.reg k = s.reg k

namespace State.GoesOff

theorem self : s.GoesOff s := ⟨rfl, rfl, rfl, id, fun _ => id, fun _ _ => rfl⟩

variable {s} {t u : State}

theorem trans (h : s.GoesOff t) (h' : t.GoesOff u) : s.GoesOff u :=
  ⟨h'.power.trans h.power, h'.clock.trans h.clock, h'.pins.trans h.pins, fun hs => h'.idle (h.idle hs),
    fun j hj => h'.fenced j (h.fenced j hj), fun k hk => (h'.reg k hk).trans (h.reg k hk)⟩

theorem foldl {β : Type} {f : State → β → State} (l : List β) (hf : ∀ (t : State), ∀ b ∈ l, t.GoesOff (f t b)) :
    s.GoesOff (l.foldl f s) := by
  induction l generalizing s with
  | nil => exact self s
  | cons b l ih => exact (hf s b List.mem_cons_self).trans (ih fun t c hc => hf t c (List.mem_cons_of_mem _ hc))

end State.GoesOff

theorem State.closeGate_goesOff {r : Nat} (cause : Nat) (hr : r < 32) : s.GoesOff (s.closeGate r cause) := by
  refine ⟨s.closeGate_power .., s.closeGate_clock .., s.closeGate_pins .., s.closeGate_idle r cause, fun j hj => ?_,
    fun k hk => s.reg_closeGate r cause ?_⟩
  · have hreg := s.reg_closeGate_eq (k := Reg.SPN_GATE) r cause (by decide) (by decide)
    refine (State.bit_of_reg hreg j).trans ?_
    by_cases h : j = r
    · subst h
      exact s.bit_setBit_own true (State.lt_of_bit hj)
    · exact (s.bit_setBit_off true hr h).trans hj
  · revert hk k
    decide

/-- The units of a region cleared, with the memory that is left. -/
def State.clearArrays (s : State) (r : Nat) (m : Memories) : State :=
  { s with
    mem := m
    ladles := s.ladles.drop fun k => k / 8 = r
    anvils := s.anvils.drop fun k => k / 4 = r
    planishers := s.planishers.drop fun k => k / 2 = r
    tinkers := s.tinkers.drop fun k => k / 4 = r
    slicers := s.slicers.drop fun k => k = r
    swages := s.swages.drop fun k => k = r
    crucibles := s.crucibles.drop fun k => k = r
    running := s.running.filter fun e => e.region != r
    taps := s.taps.filter fun t => t.chan / 65536 != r
    hbm := { s.hbm with scrubbed := s.hbm.scrubbed.drop fun k => k / 48 = r } }

/-- What RADIO, NET, CODE and TWIN hold is cleared with their region. -/
def State.clearUnits (s : State) (r : Nat) : State :=
  let s := if r = 8 then { s with radio := {} } else s
  let s := if r = 9 then { s with net := {} } else s
  let s := if r = 10 then { s with code := { s.code with queue := [] } } else s
  if r = 12 then { s with twin := { s.twin with staging := [], left := [], windows := 0 } } else s

/-- The SRAMs of a region cleared but for the banks that are kept. -/
def State.memCleared (s : State) (r : Nat) (keep : Nat → Bool) : Memories :=
  let lost (k : Nat) : Bool := decide (k / 2 ^ 25 = r) && !keep (k % 2 ^ 25 / 2 ^ 19)
  let mem := { s.mem with
    pad := s.mem.pad.drop lost
    padHall := s.mem.padHall.drop fun g => lost (g * 256)
    padEcc := s.mem.padEcc.drop fun w => lost (w * 8) }
  if r = 8 then { mem with te := [], teHall := [], teVoid := [] } else mem

theorem State.clearRegion_eq (r : Nat) (keep : Nat → Bool) : s.clearRegion r keep =
    (((s.clearArrays r (s.memCleared r keep)).clearUnits r).dropStaged r).imageRegion r := rfl

/-- Only registers of the region, and no part of the state that a power state shows, are the same. -/
def State.OffQuietly (s t : State) : Prop :=
  t.power = s.power ∧ t.clock = s.clock ∧ t.pins = s.pins ∧ t.running = s.running ∧ t.regs = s.regs

theorem State.OffQuietly.trans {s t u : State} (h : s.OffQuietly t) (h' : t.OffQuietly u) : s.OffQuietly u := by
  obtain ⟨h1, h2, h3, h4, h5⟩ := h
  obtain ⟨k1, k2, k3, k4, k5⟩ := h'
  exact ⟨k1.trans h1, k2.trans h2, k3.trans h3, k4.trans h4, k5.trans h5⟩

theorem State.offQuietly_ite {c : Prop} [Decidable c] {s t : State} (h : s.OffQuietly t) :
    s.OffQuietly (if c then t else s) := by
  split
  exacts [h, ⟨rfl, rfl, rfl, rfl, rfl⟩]

theorem State.clearUnits_quiet (r : Nat) : s.OffQuietly (s.clearUnits r) := by
  unfold State.clearUnits
  extract_lets u v _ w
  have hu : s.OffQuietly u := State.offQuietly_ite ⟨rfl, rfl, rfl, rfl, rfl⟩
  have hv : u.OffQuietly v := State.offQuietly_ite ⟨rfl, rfl, rfl, rfl, rfl⟩
  have hw : v.OffQuietly w := State.offQuietly_ite ⟨rfl, rfl, rfl, rfl, rfl⟩
  exact ((hu.trans hv).trans hw).trans (State.offQuietly_ite ⟨rfl, rfl, rfl, rfl, rfl⟩)

theorem State.clearRegion_goesOff (r : Nat) (keep : Nat → Bool) : s.GoesOff (s.clearRegion r keep) := by
  have harr : (s.clearArrays r (s.memCleared r keep)).power = s.power ∧
      (s.clearArrays r (s.memCleared r keep)).clock = s.clock ∧ (s.clearArrays r (s.memCleared r keep)).pins = s.pins ∧
      (s.clearArrays r (s.memCleared r keep)).regs = s.regs ∧
      (s.running = [] → (s.clearArrays r (s.memCleared r keep)).running = []) :=
    ⟨rfl, rfl, rfl, rfl, fun h => congrArg (List.filter _) h⟩
  rw [s.clearRegion_eq]
  generalize s.clearArrays r (s.memCleared r keep) = u at *
  obtain ⟨hpower, hclock, hpins, hregs, hidle⟩ := harr
  obtain ⟨kpower, kclock, kpins, krun, kregs⟩ := u.clearUnits_quiet r
  generalize u.clearUnits r = v at *
  have hv : (v.dropStaged r).OffQuietly v := ⟨rfl, rfl, rfl, rfl, rfl⟩
  generalize v.dropStaged r = w at *
  obtain ⟨wpower, wclock, wpins, wrun, wregs⟩ := hv
  have hreg {k : Nat} (hk : chipKey k) : (w.imageRegion r).reg k = s.reg k :=
    (w.reg_imageRegion r hk).trans (State.reg_of_regs (wregs.symm.trans (kregs.trans hregs)) k)
  refine ⟨wpower.symm.trans (kpower.trans hpower), wclock.symm.trans (kclock.trans hclock),
    wpins.symm.trans (kpins.trans hpins), fun h => wrun.symm.trans (krun.trans (hidle h)), fun j hj => ?_, fun k hk => hreg ?_⟩
  · exact (State.bit_of_reg (hreg (.inl (by decide))) j).trans hj
  · revert hk k
    decide

theorem State.setDomains_regs (r : Nat) (on : Bool) {k : Nat} (hk : k ≠ Reg.PWR_DOM) :
    (s.setDomains r on).reg k = s.reg k :=
  foldl_keeps (fun t : State => t.reg k) (fun t d => by
    split
    · exact t.reg_setBit_apart d on hk
    · rfl) _ s

theorem State.onlyRegs_setDomains (r : Nat) (on : Bool) : s.OnlyRegs (s.setDomains r on) :=
  s.onlyRegs_self.foldl (fun t d => (t.onlyRegs_self.setBit Reg.PWR_DOM d on).ite t.onlyRegs_self) _

theorem State.OnlyRegs.goesOff {s t : State} (h : s.OnlyRegs t) (hreg : ∀ k ∈ [Reg.SPN_GATE, Reg.PWR_STATE, Reg.PWR_RREQ],
    t.reg k = s.reg k) : s.GoesOff t where
  power := h.congr State.power fun _ => rfl
  clock := h.congr State.clock fun _ => rfl
  pins := h.congr State.pins fun _ => rfl
  idle hs := (h.congr State.running fun _ => rfl).trans hs
  fenced j hj := (State.bit_of_reg (hreg _ List.mem_cons_self) j).trans hj
  reg k hk := hreg k (List.mem_cons_of_mem _ hk)

theorem State.setDomains_goesOff (r : Nat) (on : Bool) : s.GoesOff (s.setDomains r on) :=
  (s.onlyRegs_setDomains r on).goesOff fun _ hk => s.setDomains_regs r on (by rintro rfl; revert hk; decide)

/-- The gates of a region that goes off are closed. -/
theorem State.dark_holds {r : Nat} (cause : Nat) (keep : Nat → Bool) (hr : r < 32) :
    s.GoesOff ((s.closeGate r cause).clearRegion r keep) ∧ ((s.closeGate r cause).clearRegion r keep).fenced r = true :=
  have hclear := State.clearRegion_goesOff (s.closeGate r cause) r keep
  ⟨(s.closeGate_goesOff cause hr).trans hclear, hclear.fenced r (s.fenced_closeGate cause hr)⟩

theorem State.regionOff_holds {r : Nat} (hr : r < 32) : s.GoesOff (s.regionOff r) ∧ (s.regionOff r).fenced r = true := by
  obtain ⟨hoff, hfenced⟩ := s.dark_holds 0x030A (fun _ => false) hr
  have hdom := State.setDomains_goesOff ((s.closeGate r 0x030A).clearRegion r fun _ => false) r false
  exact ⟨hoff.trans hdom, hdom.fenced r hfenced⟩

/-- Every region of a list whose members go off is off at the end. -/
theorem State.fenced_foldl {f : State → Nat → State} (rs : List Nat)
    (hf : ∀ (t : State), ∀ r ∈ rs, t.GoesOff (f t r) ∧ (f t r).fenced r = true) :
    ∀ r ∈ rs, (rs.foldl f s).fenced r = true := by
  induction rs generalizing s with
  | nil => exact fun r hr => absurd hr (List.not_mem_nil)
  | cons a rs ih =>
    have hrest (t : State) (r : Nat) (hr : r ∈ rs) := hf t r (List.mem_cons_of_mem _ hr)
    intro r hr
    rcases List.mem_cons.mp hr with rfl | hr
    · have hgo : (f s r).GoesOff (rs.foldl f (f s r)) := .foldl rs fun t b hb => (hrest t b hb).1
      exact hgo.fenced r (hf s r List.mem_cons_self).2
    · exact ih (f s a) hrest r hr

/-- A region whose gates are closed does not answer. -/
theorem State.not_served_of_fenced {r : Nat} (hr : r < 13) (h : s.fenced r = true) : s.served r = false := by
  unfold State.served
  rw [h]
  simpa using Nat.ne_of_lt hr

end

end Sys2Proof.Machine
end

section
/-! PROOF of O41: power requests, region power, wakes and ready signals (R522 to R532). -/

namespace Sys2Proof.Machine

open Sys2Proof

section
variable (s : State)

/-- A committed state request has been taken. -/
def State.requestTaken (s : State) : State := { s with power := { s.power with request := none } }

theorem State.takeRequest_of_asked {k : Nat} (f : State → State) (h : s.power.request = some k) :
    s.takeRequest k f = f s.requestTaken := if_pos h

/-! ## Run and Trim (R522) -/

/-- A Run request that is taken. -/
def State.toRunState (s : State) : State :=
  if s.powerState = 1 then
    if s.power.trimmed.isEmpty then s.setPowerState 0
    else { s with power := { s.power with
      toRun := true
      rising := s.power.rising ++ (s.power.trimmed.map fun r => (r, 0)) } }
  else if s.powerState = 2 then { s with power := { s.power with wake := some (2, 0) } }
  else s

theorem State.runRequest_eq (h : s.power.request = some 0) : s.runRequest = s.requestTaken.toRunState :=
  s.takeRequest_of_asked _ h

theorem State.toRunState_of_trim (hp : s.powerState = 1) (ht : s.power.trimmed = []) :
    s.toRunState = s.setPowerState 0 :=
  (if_pos hp).trans (if_pos (by rw [ht]; rfl))

theorem State.toRunState_of_trimmed (hp : s.powerState = 1) (ht : s.power.trimmed ≠ []) :
    s.toRunState.power.toRun = true ∧ s.toRunState.regs = s.regs ∧
    s.toRunState.power.rising = s.power.rising ++ s.power.trimmed.map (fun r => (r, 0)) := by
  unfold State.toRunState
  rw [if_pos hp, if_neg (mt List.isEmpty_iff.mp ht)]
  exact ⟨rfl, rfl, rfl⟩

theorem State.toRunState_of_doze (hp : s.powerState = 2) :
    s.toRunState.power.wake = some (2, 0) ∧ s.toRunState.regs = s.regs := by
  unfold State.toRunState
  rw [if_neg (by rw [hp]; decide), if_pos hp]
  exact ⟨rfl, rfl⟩

theorem State.trimRequest_of_run (h : s.power.request = some 1) (hp : s.powerState = 0) :
    s.trimRequest = s.requestTaken.trimUnused.setPowerState 1 :=
  (s.takeRequest_of_asked _ h).trans (if_pos hp)

theorem State.trimUnused_request : s.trimUnused.power.request = s.power.request := by
  unfold State.trimUnused
  extract_lets v
  refine List.foldlRecOn (motive := fun t : State => t.power.request = s.power.request) _ _ rfl fun t ht r hr => ?_
  have hlt : r < 32 := by
    revert hr r
    decide
  split
  · exact ht
  · exact (congrArg Power.request (t.regionOff_holds hlt).1.power).trans ht

/-! ## Doze (R523) -/

/-- The data plane has stopped, and no command is under way. -/
def State.stopAll (s : State) : State :=
  let s := s.abortWhere (fun x => !x.queue.isEmpty) fun _ => true
  let s := (List.range 13).foldl (fun s r => s.voidRegion r 0x030A) s
  { s.stopPlane with running := [], signals := [] }

theorem State.stopAll_holds : s.stopAll.clock.running = false ∧ s.stopAll.pins.twinOk = false ∧ s.stopAll.running = [] := by
  unfold State.stopAll
  extract_lets u v
  clear_value v
  exact ⟨rfl, rfl, rfl⟩

/-- The regions of Doze go off, with the retained banks kept. -/
def State.darkDoze (s : State) : State :=
  dozeRegions.foldl (fun s r => ((s.closeGate r 0x030A).clearRegion r fun b => s.retained r b).setDomains r false) s

/-- The device is in Doze. -/
def State.enterDoze (s : State) (asleep : List (Nat × Bool)) (regs : List (Nat × Word)) : State :=
  { (s.setPowerState 2) with power := { s.power with
      trimmed := [], rising := [], resets := [], asleep := asleep, toRun := false
      saved := some (regs, 0, 0, 0) } }

/-- The regions that Doze switches off, and whether each answered. -/
def State.dozeAsleep (s : State) : List (Nat × Bool) :=
  (dozeRegions.filter fun r => s.powered r || s.power.trimmed.contains r).map fun r =>
    (r, !s.fenced r || s.power.trimmed.contains r)

/-- The registers that Keep may need, as they are before Doze. -/
def State.savedNow (s : State) : List (Nat × Word) := savedKeys.map fun k => (k, s.reg k)

theorem State.enterDoze_holds (asleep : List (Nat × Bool)) (regs : List (Nat × Word)) :
    (s.enterDoze asleep regs).regs = (s.setPowerState 2).regs ∧ (s.enterDoze asleep regs).clock = s.clock ∧
    (s.enterDoze asleep regs).pins = s.pins ∧ (s.enterDoze asleep regs).running = s.running := ⟨rfl, rfl, rfl, rfl⟩

theorem State.doze_eq (h : s.power.request = some 2) (hp : s.powerState < 2) : s.doze =
    s.requestTaken.stopAll.darkDoze.enterDoze s.requestTaken.stopAll.dozeAsleep s.requestTaken.savedNow := by
  have hstate : ¬ 2 ≤ s.requestTaken.powerState := Nat.not_le.mpr hp
  unfold State.doze
  rw [s.takeRequest_of_asked _ h]
  generalize s.requestTaken = u at *
  rw [if_neg hstate]
  extract_lets regs v w x stopped on asleep dark
  have hstop : stopped = u.stopAll := rfl
  have hdark : dark = stopped.darkDoze := rfl
  have hasleep : asleep = stopped.dozeAsleep := rfl
  clear_value stopped dark asleep
  rw [← hstop, ← hdark, ← hasleep]
  rfl

theorem State.darkDoze_step (t : State) {r : Nat} (hr : r < 32) :
    t.GoesOff (((t.closeGate r 0x030A).clearRegion r fun b => t.retained r b).setDomains r false) ∧
    (((t.closeGate r 0x030A).clearRegion r fun b => t.retained r b).setDomains r false).fenced r = true := by
  obtain ⟨hoff, hfenced⟩ := t.dark_holds 0x030A (fun b => t.retained r b) hr
  have hdom := State.setDomains_goesOff ((t.closeGate r 0x030A).clearRegion r fun b => t.retained r b) r false
  exact ⟨hoff.trans hdom, hdom.fenced r hfenced⟩

theorem dozeRegions_lt : ∀ r ∈ dozeRegions, r < 32 := by decide

theorem dozeRegions_all : ∀ r < 13, r ≠ 9 → r ∈ dozeRegions := by decide

theorem State.darkDoze_holds : s.GoesOff s.darkDoze ∧ ∀ r ∈ dozeRegions, s.darkDoze.fenced r = true :=
  ⟨.foldl _ fun t r hr => (t.darkDoze_step (dozeRegions_lt r hr)).1,
    s.fenced_foldl _ fun t r hr => t.darkDoze_step (dozeRegions_lt r hr)⟩

theorem State.doze_holds (h : s.power.request = some 2) (hp : s.powerState < 2) : s.doze.powerState = 2 ∧
    s.doze.clock.running = false ∧ s.doze.pins.twinOk = false ∧ s.doze.running = [] ∧
    ∀ r < 13, r ≠ 9 → s.doze.served r = false := by
  rw [s.doze_eq h hp]
  generalize s.requestTaken.stopAll.dozeAsleep = asleep, s.requestTaken.savedNow = regs
  obtain ⟨hrun, hpin, hidle⟩ := s.requestTaken.stopAll_holds
  generalize s.requestTaken.stopAll = u at *
  obtain ⟨hoff, hfenced⟩ := u.darkDoze_holds
  generalize u.darkDoze = v at *
  obtain ⟨hwregs, hwclock, hwpins, hwrunning⟩ := v.enterDoze_holds asleep regs
  generalize v.enterDoze asleep regs = w at *
  have hgate : w.reg Reg.SPN_GATE = v.reg Reg.SPN_GATE :=
    (State.reg_of_regs hwregs _).trans (v.reg_setFld_apart _ _ _ (by decide))
  have hstate : w.powerState = 2 := (State.fld_of_reg (State.reg_of_regs hwregs _) 0 2).trans (v.fld_setFld_mod (by decide))
  refine ⟨hstate, by rw [hwclock, hoff.clock, hrun], by rw [hwpins, hoff.pins, hpin],
    hwrunning.trans (hoff.idle hidle), fun r hr h9 => ?_⟩
  exact State.not_served_of_fenced _ hr ((State.bit_of_reg hgate r).trans (hfenced r (dozeRegions_all r hr h9)))

/-! ## Keep (R524, R525) -/

/-- What Keep saves; no wake and no restart waits. -/
def State.saveForKeep (s : State) (regs : List (Nat × Word)) : State :=
  { s with power := { s.power with
    saved := some (regs, s.now, s.time.slave.freq, s.imageDigest)
    wake := none, resume := false } }

/-- Every region goes off. -/
def State.darkAll (s : State) : State := (List.range 13).foldl (fun s r => s.regionOff r) s

/-- The device is in Keep, with the time unit in HOLDOVER. -/
def State.enterKeep (s : State) : State :=
  let s := { s with mem := { s.mem with hbm := [], hbmHall := [] } }
  let s := (s.setReg Reg.PWR_DOM 0x1C000000).setPowerState 3
  let s := s.setFld Reg.TU_STAT 0 2 3
  { s with pins := { s.pins with pwrEn := false } }

/-- What Keep saves of the registers: those of NET as they are now, the others as they were before Doze. -/
def State.keptRegs (s : State) : List (Nat × Word) :=
  ((s.power.saved.map (·.1)).getD []).map fun e => (e.1, if keyOfRegion 9 e.1 then s.reg e.1 else e.2)

/-- A wake that was held begins. -/
def State.wakeIfHeld (s : State) : State :=
  if s.power.wakeHeld then ({ s with power := { s.power with wakeHeld := false } } : State).wakeSource 0 else s

theorem State.keep_eq (h : s.power.request = some 3) (hp : s.powerState = 2) :
    s.keep = (s.requestTaken.saveForKeep s.requestTaken.keptRegs).darkAll.enterKeep.wakeIfHeld := by
  have hdoze : ¬ (s.requestTaken.powerState != 2) = true := by
    have : s.requestTaken.powerState = 2 := hp
    rw [this]
    decide
  unfold State.keep
  rw [s.takeRequest_of_asked _ h]
  generalize s.requestTaken = u at *
  rw [if_neg hdoze]
  extract_lets now regs _ saved dark _ v w x _ y
  have hregs : regs = u.keptRegs := rfl
  clear_value regs
  have hsaved : saved = u.saveForKeep regs := rfl
  clear_value saved
  have hdark : dark = saved.darkAll := rfl
  clear_value dark
  have hy : y = dark.enterKeep := rfl
  clear_value y
  rw [← hregs, ← hsaved, ← hdark, ← hy]
  rfl

theorem State.darkAll_holds : s.GoesOff s.darkAll ∧ ∀ r < 13, s.darkAll.fenced r = true :=
  ⟨.foldl _ fun t r hr => (t.regionOff_holds (by have := List.mem_range.mp hr; omega)).1,
    fun r hr => s.fenced_foldl (List.range 13) (fun t r hr => t.regionOff_holds (by have := List.mem_range.mp hr; omega)) r
      (List.mem_range.mpr hr)⟩

theorem State.enterKeep_holds : s.enterKeep.powerState = 3 ∧ s.enterKeep.pins.pwrEn = false ∧
    s.enterKeep.reg Reg.PWR_DOM = 0x1C000000 ∧ s.enterKeep.mem.hbm = [] ∧ s.enterKeep.fld Reg.TU_STAT 0 2 = 3 ∧
    s.enterKeep.reg Reg.SPN_GATE = s.reg Reg.SPN_GATE ∧ s.enterKeep.power = s.power := by
  unfold State.enterKeep
  obtain ⟨u, hu⟩ : ∃ u : State, u = { s with mem := { s.mem with hbm := [], hbmHall := [] } } := ⟨_, rfl⟩
  have hmem : u.mem.hbm = [] := by rw [hu]
  have hpower : u.power = s.power := by rw [hu]
  have hgate : u.reg Reg.SPN_GATE = s.reg Reg.SPN_GATE := State.reg_of_regs (by rw [hu]) _
  dsimp only
  rw [← hu]
  clear hu
  obtain ⟨v, hv⟩ : ∃ v : State, v = ((u.setReg Reg.PWR_DOM 0x1C000000).setPowerState 3).setFld Reg.TU_STAT 0 2 3 := ⟨_, rfl⟩
  have honly : u.OnlyRegs v := by
    rw [hv]
    exact ((u.onlyRegs_self.setReg _ _).setFld ..).setFld ..
  have hstate : v.powerState = 3 := by
    rw [hv]
    exact (State.fld_setFld_away _ _ _ _ (by decide) 0 2).trans (State.fld_setFld_mod _ (by decide))
  have hdom : v.reg Reg.PWR_DOM = 0x1C000000 := by
    rw [hv]
    exact (State.reg_setFld_apart _ _ _ _ (by decide)).trans ((State.reg_setFld_apart _ _ _ _ (by decide)).trans
      (u.reg_setReg_same _ _))
  have htu : v.fld Reg.TU_STAT 0 2 = 3 := by
    rw [hv]
    exact State.fld_setFld_mod _ (by decide)
  have hvgate : v.reg Reg.SPN_GATE = u.reg Reg.SPN_GATE := by
    rw [hv]
    exact (State.reg_setFld_apart _ _ _ _ (by decide)).trans ((State.reg_setFld_apart _ _ _ _ (by decide)).trans
      (u.reg_setReg_apart _ (by decide)))
  rw [← hv]
  exact ⟨hstate, rfl, hdom, (congrArg Memories.hbm honly.mem).trans hmem, htu, hvgate.trans hgate,
    (honly.congr State.power fun _ => rfl).trans hpower⟩

theorem State.keep_holds (h : s.power.request = some 3) (hp : s.powerState = 2) (hw : s.power.wakeHeld = false) :
    s.keep.powerState = 3 ∧ s.keep.pins.pwrEn = false ∧ s.keep.reg Reg.PWR_DOM = 0x1C000000 ∧ s.keep.mem.hbm = [] ∧
    s.keep.fld Reg.TU_STAT 0 2 = 3 ∧ ∀ r < 13, s.keep.served r = false := by
  rw [s.keep_eq h hp]
  have hheld : (s.requestTaken.saveForKeep s.requestTaken.keptRegs).power.wakeHeld = false := hw
  generalize s.requestTaken.saveForKeep s.requestTaken.keptRegs = u at *
  obtain ⟨hoff, hfenced⟩ := u.darkAll_holds
  generalize u.darkAll = v at *
  obtain ⟨hstate, hpin, hdom, hmem, htu, hgate, hpower⟩ := v.enterKeep_holds
  generalize v.enterKeep = w at *
  have hwake : w.wakeIfHeld = w := by
    unfold State.wakeIfHeld
    rw [hpower, hoff.power, hheld]
    rfl
  rw [hwake]
  exact ⟨hstate, hpin, hdom, hmem, htu, fun r hr =>
    w.not_served_of_fenced hr ((State.bit_of_reg hgate r).trans (hfenced r hr))⟩

/-! ## Regions (R530 to R532) -/

/-- A committed action on a region has been taken. -/
def State.actionTaken (s : State) : State := s.setFld Reg.PWR_RREQ 4 2 0

theorem State.takeRegion_of_asked {act : Nat} (f : Nat → State → State) (h : s.fld Reg.PWR_RREQ 4 2 = act) :
    s.takeRegion act f = f (s.fld Reg.PWR_RREQ 0 4) s.actionTaken := if_pos h

theorem State.fld_actionTaken : s.actionTaken.fld Reg.PWR_RREQ 4 2 = 0 := s.fld_setFld_mod (by decide)

/-- The gates of a region open at the next epoch tick. -/
def State.addReset (s : State) (r : Nat) : State :=
  { s with power := { s.power with resets := s.power.resets ++ [r] } }

theorem State.addReset_holds (r : Nat) : (s.addReset r).regs = s.regs ∧ r ∈ (s.addReset r).power.resets :=
  ⟨rfl, List.mem_append_right _ (List.mem_singleton_self r)⟩

/-- A region is reset, and its gates open at the next epoch tick. -/
def State.resetRegion (s : State) (r : Nat) : State :=
  ((s.closeGate r 0x030A).clearRegion r fun _ => false).addReset r

theorem State.resetRegion_holds {r : Nat} (hr : r < 32) : (s.resetRegion r).reg Reg.PWR_RREQ = s.reg Reg.PWR_RREQ ∧
    (s.resetRegion r).fenced r = true ∧ r ∈ (s.resetRegion r).power.resets := by
  obtain ⟨hoff, hfenced⟩ := s.dark_holds 0x030A (fun _ => false) hr
  unfold State.resetRegion
  generalize (s.closeGate r 0x030A).clearRegion r (fun _ => false) = v at *
  obtain ⟨hregs, hmem⟩ := v.addReset_holds r
  exact ⟨(State.reg_of_regs hregs _).trans (hoff.reg _ (by decide)),
    (State.bit_of_reg (State.reg_of_regs hregs _) r).trans hfenced, hmem⟩

theorem State.regionReset_holds (h : s.fld Reg.PWR_RREQ 4 2 = 1) : s.regionReset.fld Reg.PWR_RREQ 4 2 = 0 ∧
    s.regionReset.fenced (s.fld Reg.PWR_RREQ 0 4) = true ∧ s.fld Reg.PWR_RREQ 0 4 ∈ s.regionReset.power.resets := by
  have hr : s.fld Reg.PWR_RREQ 0 4 < 32 := Nat.lt_of_lt_of_le (s.fld_lt Reg.PWR_RREQ 0 4) (by decide)
  have heq : s.regionReset = s.actionTaken.resetRegion (s.fld Reg.PWR_RREQ 0 4) := s.takeRegion_of_asked _ h
  have htaken := s.fld_actionTaken
  rw [heq]
  generalize s.actionTaken = u, s.fld Reg.PWR_RREQ 0 4 = r at *
  obtain ⟨hreg, hfenced, hmem⟩ := u.resetRegion_holds hr
  exact ⟨(State.fld_of_reg hreg 4 2).trans htaken, hfenced, hmem⟩

theorem State.regionDown_holds (h : s.fld Reg.PWR_RREQ 4 2 = 2) (hr : s.fld Reg.PWR_RREQ 0 4 < 13) :
    s.regionDown.fld Reg.PWR_RREQ 4 2 = 0 ∧ s.regionDown.served (s.fld Reg.PWR_RREQ 0 4) = false := by
  unfold State.regionDown
  rw [s.takeRegion_of_asked _ h]
  have htaken := s.fld_actionTaken
  generalize s.actionTaken = u, s.fld Reg.PWR_RREQ 0 4 = r at *
  obtain ⟨hoff, hfenced⟩ := u.regionOff_holds (show r < 32 by omega)
  exact ⟨(State.fld_of_reg (hoff.reg _ (by decide)) 4 2).trans htaken, State.not_served_of_fenced _ hr hfenced⟩

theorem State.regionUp_holds (h : s.fld Reg.PWR_RREQ 4 2 = 3) : s.regionUp.fld Reg.PWR_RREQ 4 2 = 0 ∧
    (s.fld Reg.PWR_RREQ 0 4, 0) ∈ s.regionUp.power.rising ∧ s.regionUp.mem = s.mem := by
  unfold State.regionUp
  rw [s.takeRegion_of_asked _ h]
  have htaken := s.fld_actionTaken
  have hmem : s.actionTaken.mem = s.mem := rfl
  generalize s.actionTaken = u at *
  exact ⟨htaken, List.mem_append_right _ (List.mem_singleton_self _), hmem⟩

/-! ## Wakes (R526 to R529) -/

theorem State.wakeSource_of_enabled {src : Nat} (hp : s.powerState = 3) (hb : s.bit Reg.PWR_WAKE src = true)
    (hw : s.power.wake = none) : s.wakeSource src =
      { s with power := { s.power with wake := some (3, 0) }, pins := { s.pins with pwrEn := true } } := by
  unfold State.wakeSource
  rw [hp, hb, hw]
  rfl

/-- The power-up of a region has failed: it rises no more, and its domains are off. -/
def State.riseFailed (s : State) (r : Nat) : State :=
  (({ s with power := { s.power with rising := s.power.rising.filter fun e => e.1 != r } } : State)).setDomains r false

theorem State.riseFailed_rising {r k : Nat} (h : s.power.rising = [(r, k)]) : (s.riseFailed r).power.rising = [] := by
  unfold State.riseFailed
  rw [(State.setDomains_goesOff _ r false).power]
  exact (congrArg (List.filter _) h).trans (List.filter_cons_of_neg (by simp))

theorem find?_only (r k : Nat) : [(r, k)].find? (fun e : Nat × Nat => e.1 = r) = some (r, k) :=
  List.find?_cons_of_pos (by simp)

theorem State.wakeTimeout_of_rising {r k : Nat} (h : s.power.rising = [(r, k)]) :
    s.wakeTimeout (some r) = (s.raise 0x0B04 .detected powerLoc (k + 1) 0).riseFailed r := by
  unfold State.wakeTimeout
  rw [h]
  dsimp only
  rw [find?_only]
  rfl

/-- No wake is under way. -/
def State.wakeEnded (s : State) : State := { s with power := { s.power with wake := none } }

/-- A wake from `back` has failed. -/
def State.wakeFailed (s : State) (back : Nat) : State :=
  if back = 3 then { s.wakeEnded with pins := { s.wakeEnded.pins with pwrEn := false } }
  else s.wakeEnded.power.asleep.foldl (fun s e => s.setDomains e.1 false) s.wakeEnded

theorem State.wakeFailed_holds (back : Nat) : (s.wakeFailed back).power.wake = none ∧
    (back = 3 → (s.wakeFailed back).pins.pwrEn = false) := by
  unfold State.wakeFailed
  split
  · exact ⟨rfl, fun _ => rfl⟩
  · refine ⟨?_, fun h => absurd h ‹_›⟩
    have hgo : s.wakeEnded.GoesOff (s.wakeEnded.power.asleep.foldl (fun s e => s.setDomains e.1 false) s.wakeEnded) :=
      .foldl _ fun t e _ => t.setDomains_goesOff e.1 false
    exact congrArg Power.wake hgo.power

theorem State.wakeTimeout_of_wake {back k : Nat} (h : s.power.wake = some (back, k)) :
    s.wakeTimeout none = (s.raise 0x0B04 .detected powerLoc (k + 1) 0).wakeFailed back := by
  unfold State.wakeTimeout
  rw [h]
  rfl

/-! ## Ready signals (R527, R529, R532) -/

theorem State.domains_on (l : List Nat) (h : ∀ d ∈ l, d < 26) (d : Nat) (hd : d ∈ l ∨ s.bit Reg.PWR_DOM d = true) :
    (l.foldl (fun s d => if d < 26 then s.setBit Reg.PWR_DOM d true else s) s).bit Reg.PWR_DOM d = true := by
  induction l generalizing s with
  | nil => exact hd.resolve_left List.not_mem_nil
  | cons a l ih =>
    have ha : a < 26 := h a List.mem_cons_self
    rw [List.foldl_cons, if_pos ha]
    refine ih _ (fun e he => h e (List.mem_cons_of_mem _ he)) ?_
    by_cases hda : d = a
    · subst hda
      exact .inr (s.bit_setBit_own true (by omega))
    · rcases hd with hd | hd
      · exact .inl ((List.mem_cons.mp hd).resolve_left hda)
      · exact .inr ((s.bit_setBit_off true (by omega) hda).trans hd)

theorem domainsOf_lt : ∀ r < 13, ∀ d ∈ domainsOf r, d < 26 := by decide

theorem State.powered_setDomains {r : Nat} (hr : r < 13) : (s.setDomains r true).powered r = true := by
  unfold State.powered State.setDomains
  exact List.all_eq_true.mpr fun d hd => s.domains_on _ (domainsOf_lt r hr) d (.inl hd)

/-- What a region does when step `k` of its power-up is ready. -/
def State.readyStep (s : State) (r k : Nat) : State :=
  let s := if k = 0 then s.setDomains r true else s
  if k = 2 then s.clearRegion r fun _ => false else s

theorem State.readyStep_goesOff (r k : Nat) : s.GoesOff (s.readyStep r k) := by
  unfold State.readyStep
  extract_lets u
  have hu : s.GoesOff u := by
    unfold u
    split
    exacts [s.setDomains_goesOff r true, .self s]
  clear_value u
  split
  exacts [hu.trans (u.clearRegion_goesOff r _), hu]

theorem State.powered_readyStep {r : Nat} (hr : r < 13) : (s.readyStep r 0).powered r = true := s.powered_setDomains hr

/-- Region `r` has reached step `k` of its power-up; after the last its gates open at the next epoch tick. -/
def State.rise (s : State) (rest : List (Nat × Nat)) (r k : Nat) : State :=
  if k + 1 < 4 then { s with power := { s.power with rising := rest ++ [(r, k + 1)] } }
  else { s with power := { s.power with rising := rest, resets := s.power.resets ++ [r] } }

theorem State.rise_holds (r k : Nat) : (k < 3 → (s.rise [] r k).power.rising = [(r, k + 1)]) ∧
    (s.rise [] r k).regs = s.regs ∧
    (3 ≤ k → (s.rise [] r k).power.rising = [] ∧ (s.rise [] r k).power.resets = s.power.resets ++ [r]) ∧
    (s.rise [] r k).clock = s.clock := by
  unfold State.rise
  split
  · exact ⟨fun _ => rfl, rfl, fun h => by omega, rfl⟩
  · exact ⟨fun h => by omega, rfl, fun _ => ⟨rfl, rfl⟩, rfl⟩

theorem State.readySignal_of_rising {r k : Nat} (us : Nat) (x : StartInput) (h : s.power.rising = [(r, k)]) :
    s.readySignal (some r) us x = (s.readyStep r k).rise [] r k := by
  have hrest : [(r, k)].filter (fun e : Nat × Nat => e.1 != r) = [] := List.filter_cons_of_neg (by simp)
  unfold State.readySignal
  rw [h]
  dsimp only
  rw [find?_only, hrest]
  rfl

/-- The next step of a wake from `back` begins. -/
def State.wakeOn (s : State) (back k : Nat) : State := { s with power := { s.power with wake := some (back, k + 1) } }

theorem State.readySignal_of_wake {back k : Nat} (us : Nat) (x : StartInput) (h : s.power.wake = some (back, k))
    (hk : k < 3) : s.readySignal none us x =
      (if back = 2 && k = 0 then s.power.asleep.foldl (fun s e => s.setDomains e.1 true) s else s).wakeOn back k := by
  unfold State.readySignal
  rw [h]
  exact if_pos (show k + 1 < 4 by omega)

theorem State.readySignal_wake_clock {back k : Nat} (us : Nat) (x : StartInput) (h : s.power.wake = some (back, k))
    (hk : k < 3) : (s.readySignal none us x).power.wake = some (back, k + 1) ∧
      (s.readySignal none us x).clock = s.clock := by
  rw [s.readySignal_of_wake us x h hk]
  have hgo : s.GoesOff (if back = 2 && k = 0 then s.power.asleep.foldl (fun s e => s.setDomains e.1 true) s else s) := by
    split
    exacts [.foldl _ fun t e _ => t.setDomains_goesOff e.1 true, .self s]
  exact ⟨rfl, hgo.clock⟩

/-- What a wake from Doze leaves to the epoch tick. -/
def Power.resumed (p : Power) : Power :=
  { p with
    resume := true, asleep := []
    resets := p.resets ++ p.asleep.filterMap fun (e : Nat × Bool) => if e.2 then some e.1 else none }

/-- The device is in Run, with the time of its wake. -/
def State.wokenAt (s : State) (us : Nat) : State :=
  (s.setPowerState 0).setReg Reg.PWR_WTIME (BitVec.ofNat 32 (us % 65536))

/-- The regions that answered open their gates at the next epoch tick, and the links of the data plane train. -/
def State.toResume (s : State) : State :=
  { s with
    power := s.power.resumed
    start := { s.start with
      links := s.enabledLinks (s.start.input.image s.start.slot), reported := [], lemcAt := none } }

theorem State.wokenAt_holds (us : Nat) : (s.wokenAt us).powerState = 0 ∧ (s.wokenAt us).power = s.power ∧
    (s.wokenAt us).reg Reg.PWR_WTIME = BitVec.ofNat 32 (us % 65536) ∧ (s.wokenAt us).mem = s.mem :=
  ⟨(State.fld_of_reg ((s.setPowerState 0).reg_setReg_apart _ (by decide)) 0 2).trans (s.fld_setFld_mod (by decide)),
    rfl, (s.setPowerState 0).reg_setReg_same _ _, rfl⟩

theorem State.toResume_holds : s.toResume.regs = s.regs ∧ s.toResume.power = s.power.resumed ∧ s.toResume.mem = s.mem :=
  ⟨rfl, rfl, rfl⟩

theorem State.askSysref_holds : s.askSysref.regs = s.regs ∧ s.askSysref.power = s.power ∧ s.askSysref.mem = s.mem := by
  unfold State.askSysref
  split <;> exact ⟨rfl, rfl, rfl⟩

theorem State.readySignal_of_last (us : Nat) (x : StartInput) (h : s.power.wake = some (2, 3)) :
    s.readySignal none us x = (s.wakeEnded.wokenAt us).toResume.askSysref := by
  unfold State.readySignal
  rw [h]
  rfl

end

/-! ## The obligation -/

/-- Settles O41, stage by stage of each power state, with `State.GoesOff` for what a region that goes off leaves alone. -/
theorem powerStatesAndWakes : Obligations.PowerStatesAndWakes := by
  unfold Obligations.PowerStatesAndWakes
  refine ⟨fun s => ⟨fun hd => ⟨fun h hp ht => ?_, fun h hp ht => ?_, fun h hp => ?_, fun h hp => ?_, fun h hp => ?_,
      fun h hp hw => ?_, fun h => ?_, fun h hr => ?_, fun h => ?_, fun hp hb hw => ?_⟩, fun hp hb hw => ?_,
    fun back k h => ?_, fun r k h => ?_⟩, fun s us x => ⟨fun r k hr h => ?_, fun back k h hk => ?_, fun h => ?_⟩⟩
  · exact ⟨_, exec_managed hd rfl ((s.runRequest_eq h).trans (State.toRunState_of_trim _ hp ht)), State.fld_setFld_mod _ (by decide), rfl, rfl⟩
  · exact ⟨_, exec_managed hd rfl (s.runRequest_eq h), s.requestTaken.toRunState_of_trimmed hp ht⟩
  · exact ⟨_, exec_managed hd rfl (s.runRequest_eq h), s.requestTaken.toRunState_of_doze hp⟩
  · exact ⟨_, exec_managed hd rfl (s.trimRequest_of_run h hp), State.fld_setFld_mod _ (by decide),
      s.requestTaken.trimUnused_request⟩
  · exact ⟨_, exec_managed hd rfl rfl, s.doze_holds h hp⟩
  · exact ⟨_, exec_managed hd rfl rfl, s.keep_holds h hp hw⟩
  · exact ⟨_, exec_managed hd rfl rfl, s.regionReset_holds h⟩
  · exact ⟨_, exec_managed hd rfl rfl, s.regionDown_holds h hr⟩
  · exact ⟨_, exec_managed hd rfl rfl, s.regionUp_holds h⟩
  · exact ⟨_, exec_managed hd rfl (s.wakeSource_of_enabled hp hb hw), rfl, rfl, rfl⟩
  · exact ⟨_, congrArg Host.Outcome.next ((if_pos hp).trans (s.wakeSource_of_enabled hp hb hw)), rfl, rfl, rfl⟩
  · exact ⟨_, congrArg Host.Outcome.next (s.wakeTimeout_of_wake h), State.wakeFailed_holds _ back⟩
  · exact ⟨_, congrArg Host.Outcome.next (s.wakeTimeout_of_rising h),
      State.riseFailed_rising _ ((congrArg Power.rising (s.raise_power ..)).trans h)⟩
  · refine ⟨_, congrArg Host.Outcome.next (s.readySignal_of_rising us x h), ?_⟩
    have hgo := s.readyStep_goesOff r k
    have hon : k = 0 → (s.readyStep r k).powered r = true := by
      rintro rfl
      exact s.powered_readyStep hr
    generalize s.readyStep r k = u at *
    obtain ⟨hnext, hregs, hlast, hclock⟩ := u.rise_holds r k
    rw [hgo.power] at hlast
    refine ⟨hnext, fun hk => ?_, hlast, hclock.trans hgo.clock⟩
    unfold State.powered at *
    simpa only [State.bit, State.reg, hregs] using hon hk
  · exact ⟨_, rfl, s.readySignal_wake_clock us x h hk⟩
  · refine ⟨_, congrArg Host.Outcome.next (s.readySignal_of_last us x h), ?_⟩
    have hwake : s.wakeEnded.power = { s.power with wake := none } := rfl
    have hmem : s.wakeEnded.mem = s.mem := rfl
    generalize s.wakeEnded = u at *
    obtain ⟨hstate, hpower, htime, hm⟩ := u.wokenAt_holds us
    generalize u.wokenAt us = v at *
    obtain ⟨jregs, jpower, jmem⟩ := v.toResume_holds
    generalize v.toResume = w at *
    obtain ⟨kregs, kpower, kmem⟩ := w.askSysref_holds
    generalize w.askSysref = t at *
    have hreg (k : Nat) : t.reg k = v.reg k := State.reg_of_regs (kregs.trans jregs) k
    rw [kpower, jpower, hpower, hwake, kmem, jmem, hm, hmem]
    exact ⟨(State.fld_of_reg (hreg _) 0 2).trans hstate, rfl, rfl, rfl, rfl, (hreg _).trans htime, rfl⟩

end Sys2Proof.Machine
end

section
/-! SUPPORT. No access of the control space changes the halves of the telemetry snapshot (R597). The rules are given to
`simp` with `↓`, so that it meets a whole call before it looks into the state that the call is made on. -/

namespace Sys2Proof.Machine

open Sys2Proof

/-- The halves of the telemetry snapshot: the complete one and the standby one. -/
def State.halves (s : State) : List Word × List Word := (s.seq.complete, s.seq.standby)

theorem State.halves_of {s t : State} (h : t.seq = s.seq) : t.halves = s.halves := by
  rw [State.halves, h, State.halves]

section
variable (s : State)

theorem State.halves_ite (c : Prop) [Decidable c] (a b : State) :
    (if c then a else b).halves = if c then a.halves else b.halves := apply_ite _ ..

/-- The halves of a state that is written out, as an update of other fields leaves it. -/
theorem State.halves_mk {q : Sequencer}
    {x0 x1 x2 x3 x4 x5 x6 x7 x8 x9 x10 x11 x12 x13 x14 x15 x16 x17 x18 x19 x20 x21 x22 x23 x24 x25 x26 x27 x28 x29
     x30 x31 x33 x34 x35 x36 x37} :
    (State.mk x0 x1 x2 x3 x4 x5 x6 x7 x8 x9 x10 x11 x12 x13 x14 x15 x16 x17 x18 x19 x20 x21 x22 x23 x24 x25 x26
      x27 x28 x29 x30 x31 q x33 x34 x35 x36 x37).halves = (q.complete, q.standby) := by
  rw [State.halves]

theorem State.halves_eta : (s.seq.complete, s.seq.standby) = s.halves := by
  rw [State.halves]

theorem State.foldl_halves {β : Type} {f : State → β → State} (h : ∀ s b, (f s b).halves = s.halves)
    (l : List β) : (l.foldl f s).halves = s.halves := foldl_keeps State.halves h l s

/-! ## Registers, faults and notices -/

theorem State.setReg_halves (k : Nat) (w : Word) : (s.setReg k w).halves = s.halves := State.halves_of (s.setReg_seq ..)

theorem State.setFld_halves (k lo n v : Nat) : (s.setFld k lo n v).halves = s.halves := State.halves_of (s.setFld_seq ..)

theorem State.setBit_halves (k i : Nat) (b : Bool) : (s.setBit k i b).halves = s.halves := State.halves_of (s.setBit_seq ..)

theorem State.bump_halves (k lo n v : Nat) : (s.bump k lo n v).halves = s.halves := State.halves_of (s.bump_seq ..)

theorem State.wrapAdd_halves (k lo n v : Nat) : (s.wrapAdd k lo n v).halves = s.halves := State.halves_of (s.wrapAdd_seq ..)

theorem State.raise_halves (code : Nat) (c : FaultClass) (loc : BitVec 64) (d0 d1 : Nat) :
    (s.raise code c loc d0 d1).halves = s.halves := State.halves_of (s.raise_seq ..)

theorem State.zeroRegs_halves (ks : List Nat) : (s.zeroRegs ks).halves = s.halves := by
  rw [s.zeroRegs_form ks, State.halves_mk, State.halves_eta]

theorem State.announce_halves (k : Nat) (p : List Byte) : (s.announce k p).halves = s.halves :=
  State.halves_of (s.announce_seq ..)

theorem State.measureLeg_halves (a leg : Nat) : (s.measureLeg a leg).halves = s.halves := State.halves_of (s.measureLeg_seq ..)

theorem State.catchUp_halves : s.catchUp.halves = s.halves := by
  have h : s.catchUp.besides .net = s.besides .net :=
    (State.foldl_besides _ (fun t r => t.foldl_besides (fun u l => u.closeDone_besides r l _) _) _).trans
      (s.drainsTo_besides _)
  have hseq (t : State) : (t.besides .net).halves = t.halves := by
    rw [State.besides, State.halves_mk, State.halves_eta]
  rw [← hseq, h, hseq]

theorem State.unassigned_halves (m a : Nat) : (s.unassigned m a).halves = s.halves := by
  unfold State.unassigned
  rw [State.raise_halves, State.bump_halves]

/-! ## Reads -/

theorem State.access_halves (m a : Nat) : (s.access m a).2.2.halves = s.halves := by
  unfold State.access
  extract_lets u
  have h : u.halves = s.halves := s.catchUp_halves
  clear_value u
  split
  · exact (u.unassigned_halves m a).trans h
  split
  · exact (u.unassigned_halves m a).trans h
  split
  exacts [(u.bump_halves ..).trans h, h]

theorem State.timeRead_halves : s.timeRead.halves = s.halves := by
  unfold State.timeRead
  simp only [↓State.setReg_halves]

theorem State.attRead_halves : s.attRead.halves = s.halves := by
  unfold State.attRead
  rw [State.halves_mk, State.halves_eta, State.setReg_halves]

theorem State.ctlRead_halves (m a : Nat) : (s.ctlRead m a).2.2.halves = s.halves := by
  have h := s.access_halves m a
  unfold State.ctlRead
  split
  next heq => rwa [heq] at h
  next st d t heq =>
  rw [heq] at h
  extract_lets u
  have hu : u.halves = s.halves := by
    simp only [u, ↓State.halves_ite, ↓State.timeRead_halves, ↓State.attRead_halves, ↓ite_self]
    exact h
  clear_value u
  split
  exacts [hu, hu]

/-! ## Clear registers -/

theorem State.atRegion_halves (r : Nat) {f : State → State} (h : ∀ t : State, (f t).halves = t.halves) :
    (s.atRegion r f).halves = s.halves := by
  unfold State.atRegion
  split
  exacts [(h _).trans s.catchUp_halves, s.bump_halves ..]

theorem whenBit_halves (w : Word) (i : Nat) {f : State → State} (h : ∀ t : State, (f t).halves = t.halves) (s : State) :
    (whenBit w i f s).halves = s.halves := by
  unfold whenBit
  split
  exacts [h s, rfl]

/-- A clear register of a region that sets registers to 0. -/
theorem State.clearAt_halves (r : Nat) (ks : State → List Nat) :
    (s.atRegion r fun t => t.zeroRegs (ks t)).halves = s.halves := s.atRegion_halves r fun t => t.zeroRegs_halves _

theorem State.slcClrCnt_halves (r : Nat) : (s.slcClrCnt r).halves = s.halves :=
  s.atRegion_halves r fun t => State.halves_mk.trans ((State.halves_eta _).trans (t.zeroRegs_halves _))

theorem State.swgClr_halves (r : Nat) : (s.swgClr r).halves = s.halves :=
  s.atRegion_halves r fun t => State.halves_mk.trans ((State.halves_eta _).trans (t.zeroRegs_halves _))

theorem State.ldlClr_halves (r u : Nat) : (s.ldlClr r u).halves = s.halves :=
  s.atRegion_halves r fun t => (State.halves_of (State.setLadle_seq ..)).trans (t.zeroRegs_halves _)

theorem State.clearCompute_halves (r o : Nat) (w : Word) : (s.clearCompute r o w).halves = s.halves := by
  unfold State.clearCompute State.anvClrCnt State.anvClrLatch State.plnClrCnt State.plnClrLatch State.slcClrLatch
    State.cruClr State.tnkClr State.spdClr
  simp only [↓State.halves_ite, ↓whenBit_halves, ↓State.clearAt_halves, ↓State.slcClrCnt_halves, ↓State.swgClr_halves,
    ↓State.ldlClr_halves, implies_true, ↓ite_self]

theorem State.elsClr_halves : s.elsClr.halves = s.halves := by
  unfold State.elsClr
  simp only [↓State.zeroRegs_halves]

theorem State.radClr_halves : s.radClr.halves = s.halves := by
  refine s.atRegion_halves 8 fun t => ?_
  simp only [↓State.halves_mk, ↓State.halves_eta, ↓State.setReg_halves, ↓State.zeroRegs_halves, ↓State.setFld_halves]

theorem State.cdcClr_halves : s.cdcClr.halves = s.halves := by
  refine s.atRegion_halves 10 fun t => ?_
  simp only [↓State.setFld_halves, ↓State.zeroRegs_halves]

theorem State.netClr_halves : s.netClr.halves = s.halves := by
  refine s.atRegion_halves 9 fun t => ?_
  simp only [↓State.foldl_halves, ↓State.setFld_halves, ↓State.setReg_halves, ↓State.zeroRegs_halves, implies_true]

theorem State.pwrClr_halves : s.pwrClr.halves = s.halves := by
  unfold State.pwrClr
  simp only [↓State.zeroRegs_halves, ↓State.setFld_halves]

theorem State.mgtClr_halves : s.mgtClr.halves = s.halves := by
  unfold State.mgtClr
  simp only [↓State.zeroRegs_halves, ↓State.setFld_halves]

theorem State.radPrbsClr_halves : s.radPrbsClr.halves = s.halves := s.atRegion_halves 8 fun t => t.setReg_halves _ _

theorem State.twnPrbsClr_halves : s.twnPrbsClr.halves = s.halves := s.atRegion_halves 12 fun t => t.setReg_halves _ _

theorem State.memClr_halves : s.memClr.halves = s.halves := s.clearAt_halves 11 _

theorem State.twnClr_halves : s.twnClr.halves = s.halves := s.clearAt_halves 12 _

theorem State.netPrbsClr_halves : s.netPrbsClr.halves = s.halves := s.clearAt_halves 9 _

/-! ## Commands of the flash, and attestation -/

/-- What the flash takes, or refuses, leaves the halves. -/
theorem State.nvmIdle_halves {f : State → State} (h : (f s).halves = s.halves) : (s.nvmIdle f).halves = s.halves := by
  unfold State.nvmIdle
  split
  exacts [State.halves_of (s.nvmResult_seq ..), h]

theorem State.nvmResult_halves (a b : Nat) : (s.nvmResult a b).halves = s.halves := State.halves_of (s.nvmResult_seq ..)

theorem State.unverify_halves (a n : Nat) : (s.unverify a n).halves = s.halves := by
  unfold State.unverify
  split
  · rfl
  · simp only [↓State.foldl_halves, ↓State.halves_ite, ↓State.setBit_halves, ↓ite_self, implies_true]

theorem State.nvmRun_halves (job : NvmJob) : (s.nvmRun job).halves = s.halves := by
  unfold State.nvmRun
  rw [State.halves_mk, State.halves_eta, State.setBit_halves, State.nvmResult_halves]

theorem State.nvmErase_halves : s.nvmErase.halves = s.halves := by
  refine s.nvmIdle_halves ?_
  simp only [↓State.halves_ite, ↓State.nvmResult_halves, ↓State.nvmRun_halves, ↓State.unverify_halves, ↓ite_self]

theorem State.nvmProgram_halves : s.nvmProgram.halves = s.halves := by
  refine s.nvmIdle_halves ?_
  simp only [↓State.halves_ite, ↓State.nvmResult_halves, ↓State.halves_mk, ↓State.halves_eta, ↓State.setFld_halves,
    ↓State.nvmRun_halves, ↓State.unverify_halves, ↓ite_self]

theorem State.nvmActivate_halves (slot : Nat) : (s.nvmActivate slot).halves = s.halves := by
  refine s.nvmIdle_halves ?_
  simp only [↓State.halves_ite, ↓State.nvmResult_halves, ↓State.nvmRun_halves, ↓ite_self]

theorem State.nvmSave_halves : s.nvmSave.halves = s.halves := by
  refine s.nvmIdle_halves ?_
  simp only [↓State.halves_ite, ↓State.nvmResult_halves, ↓State.nvmRun_halves, ↓ite_self]

theorem State.nvmCommand_halves (cmd slot : Nat) : (s.nvmCommand cmd slot).halves = s.halves := by
  unfold State.nvmCommand
  split
  exacts [s.nvmErase_halves, s.nvmProgram_halves, s.nvmIdle_halves (s.nvmRun_halves _), s.nvmActivate_halves slot,
    s.nvmSave_halves, s.nvmIdle_halves (s.nvmRun_halves _), rfl]

theorem State.pageWrite_halves (w : Word) : (s.pageWrite w).halves = s.halves := by
  unfold State.pageWrite
  simp only [↓State.halves_ite, ↓State.halves_mk, ↓State.halves_eta, ↓State.setFld_halves, ↓ite_self]

theorem State.sendReport_halves (bs : List Byte) : (s.sendReport bs).halves = s.halves := by
  unfold State.sendReport State.inNet
  split
  exacts [State.halves_of (s.enqueue_seq ..), rfl]

theorem State.showReport_halves (status : Nat) (bs : List Byte) : (s.showReport status bs).halves = s.halves := by
  unfold State.showReport
  simp only [↓State.announce_halves, ↓State.halves_mk, ↓State.halves_eta, ↓State.setFld_halves, ↓State.setBit_halves]

theorem State.attGo_halves (map : Bool) : (s.attGo map).halves = s.halves := by
  unfold State.attGo State.requestReport State.shortReport
  simp only [↓State.halves_ite, ↓State.sendReport_halves, ↓State.showReport_halves, ↓State.bump_halves,
    ↓State.halves_mk, ↓State.halves_eta, ↓State.setBit_halves, ↓ite_self]

/-! ## Commits -/

theorem State.judgeGroup_halves (g : Nat) : (s.judgeGroup g).halves = s.halves := by
  unfold State.judgeGroup
  split
  · simp only [↓State.halves_ite, ↓State.raise_halves, ↓State.setReg_halves, ↓State.bump_halves, ↓State.setBit_halves,
      ↓ite_self]
  · extract_lets u due v mine w
    have hu : u.halves = s.halves := (State.bump_halves ..).trans (s.setBit_halves ..)
    have hv : v.halves = u.halves := u.setReg_halves ..
    have hw : w.halves = v.halves := State.halves_mk.trans v.halves_eta
    split
    exacts [(State.halves_of (State.notify_seq ..)).trans (hw.trans (hv.trans hu)), hw.trans (hv.trans hu)]

theorem State.doCommit_halves (mask : Nat) : (s.doCommit mask).halves = s.halves := by
  unfold State.doCommit
  simp only [↓State.halves_ite, ↓State.announce_halves, ↓State.foldl_halves, ↓State.judgeGroup_halves,
    ↓State.zeroRegs_halves, ↓ite_self, implies_true]

theorem State.discard_halves (mask : Nat) : (s.discard mask).halves = s.halves := by
  unfold State.discard
  rw [State.halves_mk, State.halves_eta]

/-! ## Writes -/

theorem State.wakeNow_halves : s.wakeNow.halves = s.halves := by
  unfold State.wakeNow State.wakeSource
  simp only [↓State.halves_ite, ↓State.halves_mk, ↓State.halves_eta, ↓ite_self]

theorem State.popRecord_halves : s.popRecord.halves = s.halves := State.halves_of s.popRecord_seq

theorem State.writeEffect_halves (a : Nat) (w : Word) : (s.writeEffect a w).halves = s.halves := by
  unfold State.writeEffect State.spnCntclr State.detClr State.fmtClr State.grdClr State.wgtClr State.schClr State.fltClr
    State.lgrClr State.clkClr State.secClr
  cases regionOfAddr a <;> simp only [↓State.halves_ite, ↓whenBit_halves, ↓State.doCommit_halves, ↓State.discard_halves, ↓State.attGo_halves,
    ↓State.pageWrite_halves, ↓State.nvmCommand_halves, ↓State.wakeNow_halves, ↓State.popRecord_halves,
    ↓State.zeroRegs_halves, ↓State.elsClr_halves, ↓State.radClr_halves, ↓State.radPrbsClr_halves, ↓State.netClr_halves,
    ↓State.netPrbsClr_halves, ↓State.cdcClr_halves, ↓State.memClr_halves, ↓State.twnClr_halves, ↓State.twnPrbsClr_halves,
    ↓State.mgtClr_halves, ↓State.pwrClr_halves, ↓State.clearCompute_halves,
    implies_true, ↓ite_self]

theorem State.fire_halves (n : Nat) (late : Bool) : (s.fire n late).halves = s.halves := by
  unfold State.fire
  simp only [↓State.halves_ite, ↓State.setReg_halves, ↓State.setFld_halves, ↓State.setBit_halves, ↓State.wrapAdd_halves,
    ↓State.halves_mk, ↓State.halves_eta, ↓ite_self]

theorem State.writeFields_halves (d : RegDef) (a : Nat) (w : Word) : (s.writeFields d a w).halves = s.halves := by
  unfold State.writeFields State.triggerArm
  simp only [↓State.halves_ite, ↓State.setReg_halves, ↓State.setFld_halves, ↓State.setBit_halves, ↓State.fire_halves,
    ↓ite_self]

theorem State.stageChannel_halves (zp : Bool) (v : Nat) : (s.stageChannel zp v).halves = s.halves := by
  unfold State.stageChannel
  split
  · rfl
  · simp only [↓State.halves_ite, ↓State.setBit_halves, ↓State.halves_mk, ↓State.halves_eta, ↓ite_self]

theorem State.writeStaged_halves (d : RegDef) (a : Nat) (w : Word) : (s.writeStaged d a w).2.halves = s.halves := by
  unfold State.writeStaged
  extract_lets mask full
  split
  · rfl
  split
  · exact s.stageChannel_halves ..
  split
  exacts [rfl, State.halves_of (s.stage_seq ..)]

theorem State.ctlWrite_halves (m a : Nat) (w : Word) : (s.ctlWrite m a w).2.halves = s.halves := by
  have h := s.access_halves m a
  unfold State.ctlWrite
  split
  next heq => rwa [heq] at h
  next d t heq =>
  rw [heq] at h
  exact (State.writeEffect_halves ..).trans ((State.writeStaged_halves ..).trans ((t.writeFields_halves ..).trans h))

end

end Sys2Proof.Machine
end

section
/-! PROOF of O50: sequencer steps and the epoch program (R467, R593 to R597). -/

namespace Sys2Proof.Machine

open Sys2Proof

/-! ## A step with its OP set -/

theorem SeqStep.op_as (x : SeqStep) {k : Nat} (hk : k < 16) : (x.as_ k).op = k :=
  (bitsOf_putBits (by decide)).trans (Nat.mod_eq_of_lt hk)

theorem SeqStep.bits_as (x : SeqStep) (k : Nat) {a b : Nat} (ha : 4 ≤ a) : bitsOf (x.as_ k).w0 a b = bitsOf x.w0 a b :=
  bitsOf_putBits_apart (by decide) (.inr ha)

theorem SeqStep.slot_as (x : SeqStep) (k : Nat) : (x.as_ k).slot = x.slot := x.bits_as k (by decide)

theorem SeqStep.bit_as (x : SeqStep) (k : Nat) {i : Nat} (hi : 4 ≤ i) : bitOf (x.as_ k).w0 i = bitOf x.w0 i :=
  (bitOf_putBits (by decide)).trans (if_neg (by omega))

theorem SeqStep.slot_lt (x : SeqStep) : x.slot < 16 := Nat.mod_lt _ (by decide)

section
variable (s : State)

/-- A value slot that is replaced holds its new word. -/
theorem State.valueSlot_setSlot {i : Nat} (hi : i < 16) (w : Word) : (s.setSlot i w).valueSlot i = w := by
  unfold State.valueSlot State.setSlot
  rw [List.getD_eq_getElem?_getD, List.getElem?_map, List.getElem?_range hi]
  exact if_pos rfl

/-! ## Which steps run -/

theorem State.runStep_eq (p i : Nat) (x : SeqStep) : s.runStep p i x =
    if bitOf x.w0 4 && !(s.atStep p i).seq.p then s.atStep p i else (s.atStep p i).stepAct p i x := rfl

theorem State.seqStep_of_runs {p i k : Nat} {x : SeqStep} (hd : s.faults.discard = false)
    (hr : s.faults.repeatStep = false) (h : bitOf x.w0 4 = false ∨ (s.atStep p i).seq.p = true) :
    s.seqStep p i (x.as_ k) = (s.atStep p i).stepAct p i (x.as_ k) := by
  have hseq : s.seqStep p i (x.as_ k) = s.runStep p i (x.as_ k) := if_neg (by rw [hd, hr]; decide)
  rw [hseq, s.runStep_eq, x.bit_as k (Nat.le_refl 4)]
  refine if_neg ?_
  rcases h with h | h <;> simp [h]

theorem State.seqStep_of_skipped {p i k : Nat} {x : SeqStep} (hd : s.faults.discard = false)
    (hr : s.faults.repeatStep = false) (h : bitOf x.w0 4 = true) (hp : (s.atStep p i).seq.p = false) :
    s.seqStep p i (x.as_ k) = s.atStep p i := by
  have hseq : s.seqStep p i (x.as_ k) = s.runStep p i (x.as_ k) := if_neg (by rw [hd, hr]; decide)
  rw [hseq, s.runStep_eq, x.bit_as k (Nat.le_refl 4)]
  exact if_pos (by rw [h, hp]; rfl)

/-- What the step named by its OP does. -/
theorem State.stepAct_as (p i : Nat) (x : SeqStep) :
    s.stepAct p i (x.as_ 1) = s.stepRead (x.as_ 1) ∧ s.stepAct p i (x.as_ 2) = s.stepWrite (x.as_ 2) ∧
    s.stepAct p i (x.as_ 3) = s.stepRmw (x.as_ 3) ∧ s.stepAct p i (x.as_ 4) = s.stepDelta (x.as_ 4) ∧
    s.stepAct p i (x.as_ 5) = s.stepTest (x.as_ 5) ∧ s.stepAct p i (x.as_ 6) = s.stepRecord p i (x.as_ 6) ∧
    s.stepAct p i (x.as_ 7) = s.stepCommit (x.as_ 7) := by
  have hop {k : Nat} (hk : k < 16) := x.op_as hk
  unfold State.stepAct
  rw [hop (show 1 < 16 by decide), hop (show 2 < 16 by decide), hop (show 3 < 16 by decide), hop (show 4 < 16 by decide),
    hop (show 5 < 16 by decide), hop (show 6 < 16 by decide), hop (show 7 < 16 by decide)]
  exact ⟨rfl, rfl, rfl, rfl, rfl, rfl, rfl⟩

theorem State.stepRead_slot (x : SeqStep) : (s.stepRead x).valueSlot x.slot = (s.ctlRead 0x38 x.w1.toNat).2.1 :=
  State.valueSlot_setSlot _ x.slot_lt _

theorem State.stepDelta_slot (x : SeqStep) : (s.stepDelta x).valueSlot x.slot =
    (s.ctlRead 0x38 x.w1.toNat).2.1 - (s.ctlRead 0x38 x.w1.toNat).2.2.valueSlot x.slot :=
  State.valueSlot_setSlot _ x.slot_lt _

theorem State.fld_raise_masked (code : Nat) (loc : BitVec 64) (d0 d1 : Nat) :
    (s.raise code .masked loc d0 d1).fld Reg.FLT_CNTM 0 32 = min (s.fld Reg.FLT_CNTM 0 32 + 1) (2 ^ 32 - 1) := by
  unfold State.raise
  extract_lets form t r u
  have hu : u.fld Reg.FLT_CNTM 0 32 = s.fld Reg.FLT_CNTM 0 32 := State.fld_of_reg (s.reg_queueRecord r (by decide)) _ _
  clear_value u
  rw [← hu]
  exact u.fld_bump_same (by decide)

/-- A RECORD raises its fault in the class that it names (R469). -/
theorem State.stepRecord_holds (p i : Nat) (x : SeqStep) : (s.stepRecord p i x).mem = s.mem ∧
    (bitsOf x.w0 12 2 = 0 → (s.stepRecord p i x).fld Reg.FLT_CNTM 0 32 = min (s.fld Reg.FLT_CNTM 0 32 + 1) (2 ^ 32 - 1)) ∧
    (bitsOf x.w0 12 2 = 1 → (s.stepRecord p i x).fld Reg.FLT_CNTD 0 32 = min (s.fld Reg.FLT_CNTD 0 32 + 1) (2 ^ 32 - 1)) ∧
    (bitsOf x.w0 12 2 = 2 → (s.stepRecord p i x).bit Reg.FLT_FATAL 31 = true) ∧
    (bitsOf x.w0 12 2 = 3 → s.stepRecord p i x = s) := by
  unfold State.stepRecord
  extract_lets d0 d1
  have hlt : bitsOf x.w0 12 2 < 4 := Nat.mod_lt _ (by decide)
  generalize bitsOf x.w0 12 2 = c at *
  match c, hlt with
  | 0, _ => exact ⟨s.raise_mem .., fun _ => s.fld_raise_masked .., nofun, nofun, nofun⟩
  | 1, _ => exact ⟨s.raise_mem .., nofun, fun _ => s.fld_raise_detected .., nofun, nofun⟩
  | 2, _ => exact ⟨s.raise_mem .., nofun, nofun, fun _ => (s.raise_fatal_shows (by decide) ..).1, nofun⟩
  | 3, _ => exact ⟨rfl, nofun, nofun, nofun, fun _ => rfl⟩

theorem State.reg_atStep (p i : Nat) {k : Nat} (hk : k ≠ Reg.MGT_SEQSTAT) : (s.atStep p i).reg k = s.reg k := by
  unfold State.atStep
  extract_lets _ u v
  have hv : v.reg k = s.reg k := (State.reg_setFld_apart _ _ _ _ hk).trans ((State.reg_setFld_apart _ _ _ _ hk).trans rfl)
  clear_value v
  split
  exacts [(State.reg_of_regs rfl k).trans hv, hv]

theorem State.mem_atStep (p i : Nat) : (s.atStep p i).mem = s.mem := by
  unfold State.atStep
  extract_lets _ u v
  have hv : v.mem = s.mem := rfl
  clear_value v
  split
  exacts [hv, hv]

/-! ## The epoch program -/

theorem State.setSlot_halves (i : Nat) (w : Word) : (s.setSlot i w).halves = s.halves := by
  rw [State.setSlot, State.halves_mk, State.halves_eta]

theorem State.atStep_halves (p i : Nat) : (s.atStep p i).halves = s.halves := by
  unfold State.atStep State.clearSlots
  simp only [↓State.halves_ite, ↓State.halves_mk, ↓State.halves_eta, ↓State.setFld_halves, ↓ite_self]

theorem State.stepAct_halves (p i : Nat) (x : SeqStep) : (s.stepAct p i x).halves = s.halves := by
  unfold State.stepAct
  split
  · exact (State.setSlot_halves ..).trans (s.ctlRead_halves ..)
  · exact s.ctlWrite_halves ..
  · exact (State.ctlWrite_halves ..).trans (s.ctlRead_halves ..)
  · exact (State.setSlot_halves ..).trans (s.ctlRead_halves ..)
  · rw [State.stepTest, State.halves_mk, State.halves_eta]
  · unfold State.stepRecord
    split
    exacts [s.raise_halves .., s.raise_halves .., s.raise_halves .., rfl]
  · exact s.ctlWrite_halves ..
  · rfl

theorem State.runStep_halves (p i : Nat) (x : SeqStep) : (s.runStep p i x).halves = s.halves := by
  rw [s.runStep_eq]
  split
  exacts [s.atStep_halves p i, (State.stepAct_halves ..).trans (s.atStep_halves p i)]

theorem State.readAll_halves (as : List Nat) : (s.readAll as).2.halves = s.halves := by
  induction as generalizing s with
  | nil => rfl
  | cons a as ih => exact (ih _).trans (s.ctlRead_halves ..)

theorem State.readAll_length (as : List Nat) : (s.readAll as).1.length = as.length := by
  induction as generalizing s with
  | nil => rfl
  | cons a as ih => exact congrArg (· + 1) (ih _)

/-- A snapshot has one word for each address of the list, and keeps the last one in the other half. -/
theorem State.snapshot_holds : s.snapshot.seq.complete.length = min 256 (s.fld Reg.MGT_TLMCFG 0 9) ∧
    s.snapshot.seq.standby = s.seq.complete := by
  have hkeep : (s.readAll s.readAddrs).2.seq.complete = s.seq.complete := congrArg Prod.fst (s.readAll_halves s.readAddrs)
  refine ⟨(s.readAll_length s.readAddrs).trans ?_, hkeep⟩
  rw [State.readAddrs, List.length_map, List.length_range]

theorem State.reg_measureLegs (as : List Nat) (leg : Nat) {k : Nat} (hk : k ≠ Reg.SPN_CTLMAX) :
    (as.foldl (fun s a => s.measureLeg a leg) s).reg k = s.reg k :=
  foldl_keeps (fun t : State => t.reg k) (fun t _ => t.reg_setFld_apart _ _ _ hk) as s

theorem State.measureLegs_halves (as : List Nat) (leg : Nat) :
    (as.foldl (fun s a => s.measureLeg a leg) s).halves = s.halves :=
  s.foldl_halves (fun t a => t.measureLeg_halves a leg) as

/-- The epoch program up to its snapshot. -/
def State.telemetry (s : State) (leg : Nat) : State :=
  (s.readAddrs.foldl (fun s a => s.measureLeg a leg) s).snapshot

theorem State.telemetry_holds (leg : Nat) : (s.telemetry leg).seq.complete.length = min 256 (s.fld Reg.MGT_TLMCFG 0 9) ∧
    (s.telemetry leg).seq.standby = s.seq.complete := by
  unfold State.telemetry
  have hreg := s.reg_measureLegs s.readAddrs leg (k := Reg.MGT_TLMCFG) (by decide)
  have hhalves := s.measureLegs_halves s.readAddrs leg
  generalize s.readAddrs.foldl (fun s a => s.measureLeg a leg) s = u at *
  obtain ⟨hlen, hstandby⟩ := u.snapshot_holds
  rw [State.fld_of_reg hreg] at hlen
  exact ⟨hlen, hstandby.trans (congrArg Prod.fst hhalves)⟩

/-- The steps of the epoch program after its snapshot. -/
def State.runPrograms (s : State) (run leg : Nat) : State :=
  let late := s.seq.deferred
  let s := if late.isEmpty then s
    else (s.bump Reg.MGT_SEQSTAT 16 16 1).raise 0x0D04 .detected seqLoc late.length 0
  let steps := late ++ (((List.range 16).filter s.triggers).flatMap s.programSteps)
  let s := { s with faults := { s.faults with codes := [] } }
  let s := (steps.take run).foldl (fun s e =>
    ((e.2.2.addr.foldl (fun s a => s.measureLeg a leg) s).runStep e.1 e.2.1 e.2.2)) s
  let s := { s with seq := { s.seq with deferred := steps.drop run } }
  s.setBit Reg.MGT_SEQSTAT 4 (!(steps.drop run).isEmpty)

theorem State.runPrograms_halves (run leg : Nat) : (s.runPrograms run leg).halves = s.halves := by
  unfold State.runPrograms
  extract_lets late u steps _ v w _ x
  have hu : u.halves = s.halves := by
    simp only [u, ↓State.halves_ite, ↓State.raise_halves, ↓State.bump_halves, ↓ite_self]
  have hv : v.halves = u.halves := State.halves_mk.trans u.halves_eta
  have hw : w.halves = v.halves :=
    v.foldl_halves (fun t e => (State.runStep_halves ..).trans (t.measureLegs_halves _ leg)) _
  have hx : x.halves = w.halves := State.halves_mk.trans w.halves_eta
  exact (x.setBit_halves ..).trans (hx.trans (hw.trans (hv.trans hu)))

/-- No lockstep mismatch holds the programs of the tick. -/
def State.mayRun (s : State) : State := { s with faults := { s.faults with discard := false, repeatStep := false } }

theorem State.epochProgram_of_due (run leg : Nat) (h : s.started = true)
    (hslot : s.clock.running = true → s.slot % max 1 s.spe = 0) : s.epochProgram run leg =
      ((if s.clock.running then s.reach 64 else s).mayRun.telemetry leg).runPrograms run leg := by
  refine if_neg ?_
  rw [h]
  cases hr : s.clock.running with
  | false => simp
  | true => simp [hslot hr]

theorem State.epochProgram_holds (run leg : Nat) : ((s.mayRun.telemetry leg).runPrograms run leg).seq.standby = s.seq.complete ∧
    ((s.mayRun.telemetry leg).runPrograms run leg).seq.complete.length = min 256 (s.fld Reg.MGT_TLMCFG 0 9) := by
  obtain ⟨hlen, hstandby⟩ := s.mayRun.telemetry_holds leg
  have hcomplete : s.mayRun.seq.complete = s.seq.complete := rfl
  have hfld : s.mayRun.fld Reg.MGT_TLMCFG 0 9 = s.fld Reg.MGT_TLMCFG 0 9 := rfl
  rw [hcomplete] at hstandby
  rw [hfld] at hlen
  generalize s.mayRun.telemetry leg = u at *
  obtain ⟨hfst, hsnd⟩ := Prod.mk.inj (u.runPrograms_halves run leg)
  exact ⟨hsnd.trans hstandby, (congrArg List.length hfst).trans hlen⟩

end

/-! ## The obligation -/

/-- Settles O50: each step is `State.stepAct` with its OP, and no access changes the halves of the snapshot. -/
theorem sequencerStepsAct : Obligations.SequencerStepsAct := by
  unfold Obligations.SequencerStepsAct
  intro s p i x s1 a
  refine ⟨fun hd hr => ⟨fun hrun => ?_, fun h4 hp f hf => ?_⟩, fun h => ?_, fun run leg h hslot => ?_⟩
  · have hstep {k : Nat} := s.seqStep_of_runs (k := k) (x := x) hd hr hrun
    obtain ⟨h1, h2, h3, h4, h5, h6, h7⟩ := s1.stepAct_as p i x
    have hcount {k : Nat} (hk : k ≠ Reg.MGT_SEQSTAT) := s.reg_atStep p i hk
    have hmem := s.mem_atStep p i
    refine ⟨⟨_, congrArg Host.Outcome.next (hstep.trans h1), ?_⟩,
      ⟨_, congrArg Host.Outcome.next (hstep.trans h4), ?_⟩,
      congrArg Host.Outcome.next (hstep.trans (h2.trans ?_)),
      congrArg Host.Outcome.next (hstep.trans (h3.trans rfl)),
      ⟨_, congrArg Host.Outcome.next (hstep.trans h5), rfl, ?_⟩,
      ⟨_, congrArg Host.Outcome.next (hstep.trans h6), ?_⟩,
      congrArg Host.Outcome.next (hstep.trans h7)⟩
    · rw [← x.slot_as 1]
      exact s1.stepRead_slot _
    · rw [← x.slot_as 4]
      exact s1.stepDelta_slot _
    · rw [State.stepWrite, x.bit_as 2 (by decide), x.slot_as]
      rfl
    · have hp : (s1.stepTest (x.as_ 5)).seq.p = compares (bitsOf (x.as_ 5).w0 10 2)
        (s1.valueSlot (x.as_ 5).slot &&& x.w3) x.w2 := rfl
      rw [hp, x.bits_as 5 (by decide), x.slot_as]
    · obtain ⟨hm, h0, h1, h2, h3⟩ := s1.stepRecord_holds p i (x.as_ 6)
      rw [x.bits_as 6 (by decide)] at h0 h1 h2 h3
      rw [State.fld_of_reg (hcount (by decide))] at h0 h1
      exact ⟨hm.trans hmem, h0, h1, h2, h3⟩
  · have hstep (k : Nat) : s.seqStep p i (x.as_ k) = s1 := s.seqStep_of_skipped hd hr h4 hp
    simp only [List.mem_cons, List.not_mem_nil, or_false] at hf
    rcases hf with rfl | rfl | rfl | rfl | rfl | rfl | rfl <;> exact congrArg Host.Outcome.next (hstep _)
  · exact ⟨_, congrArg Host.Outcome.next (if_pos (by simpa using h)), rfl, rfl, rfl, rfl⟩
  · intro s2
    exact ⟨_, congrArg Host.Outcome.next (s.epochProgram_of_due run leg h hslot), State.epochProgram_holds s2 run leg⟩

end Sys2Proof.Machine
end

section
/-! PROOF of O32: SEND and RECV (R490 to R492). -/

namespace Sys2Proof.Machine

open Sys2Proof

section
variable (s : State)

/-! ## What leaves TWIN alone -/

theorem State.foldl_twin {β : Type} {f : State → β → State} (h : ∀ t b, (f t b).twin = t.twin) (l : List β) :
    (l.foldl f s).twin = s.twin := foldl_keeps State.twin h l s

theorem State.eccLater_twin (unc : Bool) (r cls idx : Nat) (loc : BitVec 64) (addr t : Nat) :
    (s.eccLater unc r cls idx loc addr t).twin = s.twin := by
  unfold State.eccLater State.fresh
  dsimp only
  split
  exacts [State.later_twin .., State.later_twin ..]

theorem State.eccReads_twin (c : Cmd) (cls idx t : Nat) : (s.eccReads c cls idx t).2.twin = s.twin :=
  s.foldl_twin (fun _ _ => State.eccLater_twin ..) _

theorem State.voidOuts_twin (ctx : Option Nat) (outs : List (Nat × Nat)) (cause : Nat) :
    (s.voidOuts ctx outs cause).twin = s.twin := s.foldl_twin (fun _ _ => State.voidBuf_twin ..) _

theorem State.track_twin (c : Cmd) (i : Issue) (port finish : Nat) (outs : List (Nat × Nat)) :
    (s.track c i port finish outs).twin = s.twin := by
  unfold State.track
  extract_lets e u
  have hu : u.twin = s.twin := rfl
  clear_value u
  cases i.ctx with
  | none => exact hu
  | some k =>
    dsimp only
    split
    · exact hu
    split <;> exact (State.onHandIn_twin ..).trans hu

theorem State.signalAt_twin (ctx : Option Nat) (region buf due : Nat) : (s.signalAt ctx region buf due).twin = s.twin := by
  unfold State.signalAt
  split <;> rfl

theorem State.putGranule_twin (g : Nat × Nat) (bs : List Byte) (h : Word) : (s.putGranule g bs h).twin = s.twin := by
  unfold State.putGranule State.setHallmark
  dsimp only
  split <;> split <;> rfl

/-! ## Issue -/

/-- A newcomer takes a transfer at once. -/
def Cmd.takenAtOnce (c : Cmd) : Issue := ⟨true, c.issue, if c.elastic then some c.ctx else none, false, 0⟩

theorem State.issueSwitu_of_newcomer (c : Cmd) (hs : s.twinState = 2) (hr : s.clock.running = false)
    (hf : s.fatalIdle = false) : s.issueSwitu c = (c.takenAtOnce, s) := if_pos (by rw [hs, hr, hf]; rfl)

theorem State.issueSwitu_goes {c : Cmd} 
    (h : (s.twinState = 2 ∧ s.clock.running = false ∧ s.fatalIdle = false) ∨ s.goes c (s.unitFree 11 12 0) 1 = true) :
    (s.issueSwitu c).1.go = true := by
  rcases h with ⟨hs, hr, hf⟩ | h
  · rw [s.issueSwitu_of_newcomer c hs hr hf]
    rfl
  · unfold State.issueSwitu
    split
    · rfl
    · exact (s.issue_goes ..).trans h

/-! ## SEND -/

/-- The next `n` slots of the window table are taken. -/
def State.takeWindows (s : State) (n : Nat) : State := { s with twin := { s.twin with windows := s.twin.windows + n } }

/-- The granules of a SEND whose hallmark fails; none where its region does not answer. -/
def State.sendBad (s : State) (c : Cmd) (n : Nat) : Nat :=
  if !s.served (if bitOf c.w.w2 28 then 11 else bitsOf c.w.w2 25 3) then 0
  else ((s.switSource c n).filter fun e => !e.2.2).length

/-- What a SEND counts and reports of its source. -/
def State.sendFaults (s : State) (c : Cmd) (i : Issue) (n bad : Nat) : State :=
  let s := if !s.served (if bitOf c.w.w2 28 then 11 else bitsOf c.w.w2 25 3) then s.bump Reg.SPN_ABSCNT 0 32 n else s
  let s := (s.eccReads c 0x31 0 i.t).2
  let s := (List.range bad).foldl (fun s _ => s.blockRaise 12 0x31 0 0x0201 linkLayer.loc 0 0) s
  if bad = 0 then s else s.voidBuf i.ctx c.region c.wbuf 0x0201

/-- The cycle of a SEND's granule. -/
def sendCycle (slots : List (Nat × Nat)) (t k : Nat) : Nat :=
  match slots[k]? with
  | some e => 64 * e.1 + e.2
  | none => t

/-- What a SEND reports of granules that were late. -/
def State.sendLates (s : State) (c : Cmd) (i : Issue) (slots : List (Nat × Nat)) (n : Nat) : State :=
  ((List.range n).filter fun k => decide (0 < c.lateness k)).foldl (fun s k =>
    s.breachAt i.ctx linkLayer.loc c.w.w0 c.issue (sendCycle slots i.t k) (c.lateness k)) s

/-- The granules of a SEND with the slots in which they leave. -/
def Cmd.sentGranules (c : Cmd) (void : Bool) (slots : List (Nat × Nat)) (src : List (List Byte × Word × Bool)) (n : Nat) :
    List (Nat × Nat × Granule) :=
  ((List.range n).zip (slots.zip src)).map fun e =>
    (e.2.1.1, e.2.1.2, (⟨bitsOf c.w.w5 0 12, e.1, void || !e.2.2.2.2 || decide (0 < c.lateness e.1),
      e.2.2.1, e.2.2.2.1⟩ : Granule))

/-- Granules leave. -/
def State.sendOut (s : State) (out : List (Nat × Nat × Granule)) : State :=
  { s with twin := { s.twin with left := s.twin.left ++ out } }

theorem State.sendFaults_twin (c : Cmd) (i : Issue) (n bad : Nat) : (s.sendFaults c i n bad).twin = s.twin := by
  unfold State.sendFaults
  extract_lets u v w
  have hu : u.twin = s.twin := by
    unfold u
    rw [apply_ite State.twin, State.bump_twin, ite_self]
  have hv : v.twin = u.twin := u.eccReads_twin ..
  have hw : w.twin = v.twin := v.foldl_twin (fun _ _ => State.blockRaise_twin ..) _
  clear_value w
  split
  exacts [hw.trans (hv.trans hu), (State.voidBuf_twin ..).trans (hw.trans (hv.trans hu))]

theorem State.sendLates_twin (c : Cmd) (i : Issue) (slots : List (Nat × Nat)) (n : Nat) :
    (s.sendLates c i slots n).twin = s.twin := s.foldl_twin (fun _ _ => State.breachAt_twin ..) _

theorem Cmd.slots_of_sentGranules (c : Cmd) (void : Bool) {slots : List (Nat × Nat)}
    {src : List (List Byte × Word × Bool)} {n : Nat} (hs : slots.length ≤ n) (hn : src.length = n) :
    (c.sentGranules void slots src n).map (fun e => (e.1, e.2.1)) = slots := by
  have hsnd : (fun e : Nat × (Nat × Nat) × List Byte × Word × Bool => (e.2.1.1, e.2.1.2)) = Prod.fst ∘ Prod.snd := rfl
  unfold Cmd.sentGranules
  rw [List.map_map]
  refine Eq.trans (congrArg (List.map · _) hsnd) ?_
  rw [← List.map_map, List.map_snd_zip (by simp; omega), List.map_fst_zip (by omega)]

theorem Cmd.pbuf_of_sentGranules (c : Cmd) (void : Bool) (slots : List (Nat × Nat)) (src : List (List Byte × Word × Bool))
    (n : Nat) : ∀ e ∈ c.sentGranules void slots src n, e.2.2.pbuf = bitsOf c.w.w5 0 12 := by
  intro e he
  obtain ⟨y, -, rfl⟩ := List.mem_map.mp he
  rfl

/-- The granule slots that a SEND takes. -/
def State.sendSlots (s : State) (n : Nat) : List (Nat × Nat) := (s.curPlan.granuleSlots.drop s.twin.windows).take n

/-- When a SEND of granules ends. -/
def sendEnd (slots : List (Nat × Nat)) (n t : Nat) : Nat :=
  match slots.getLast? with
  | some e => if n = 0 then t + 1 else 64 * e.1 + e.2 + 1
  | none => t + 1

section
variable {s : State} {c : Cmd} {i : Issue} {u : State} (hi : s.issueSwitu c = (i, u)) (hgo : i.go = true)
include hi hgo

/-- What a SEND of granules ends with while the link is up. -/
theorem State.send_of_granules (hn : bitsOf c.w.w4 0 16 ≠ 0) (hup : u.linkUp = true) :
    let n := bitsOf c.w.w4 0 16
    let v := u.takeWindows n
    s.send c = (((v.sendFaults c i n (v.sendBad c n)).sendLates c i (u.sendSlots n) n).sendOut
      (c.sentGranules (i.void || c.ecc.any eccBad) (u.sendSlots n) (v.switSource c n) n)).track c i 0
        (sendEnd (u.sendSlots n) n i.t) [] := by
  have hlink : ¬ (decide (bitsOf c.w.w4 0 16 = 0) || !(u.takeWindows (bitsOf c.w.w4 0 16)).linkUp) = true := by
    have hup' : (u.takeWindows (bitsOf c.w.w4 0 16)).linkUp = true := hup
    simp [hn, hup']
  unfold State.send
  rw [hi]
  exact (if_neg (by simp [hgo])).trans (if_neg hlink)

/-- The granules of a SEND while the link is up, with the slots in which they leave. -/
theorem State.send_holds (hn : bitsOf c.w.w4 0 16 ≠ 0) (hup : u.linkUp = true) :
    let n := bitsOf c.w.w4 0 16
    let out := c.sentGranules (i.void || c.ecc.any eccBad) (u.sendSlots n) ((u.takeWindows n).switSource c n) n
    (s.send c).runs c 0 = true ∧ (s.send c).twin.windows = u.twin.windows + n ∧
    (s.send c).twin.left = u.twin.left ++ out := by
  intro n out
  have heq := State.send_of_granules hi hgo hn hup
  have htwin : (((u.takeWindows n).sendFaults c i n ((u.takeWindows n).sendBad c n)).sendLates c i (u.sendSlots n) n).twin =
      (u.takeWindows n).twin := (State.sendLates_twin ..).trans (State.sendFaults_twin ..)
  dsimp only at heq
  rw [heq, State.track_twin]
  refine ⟨(State.track_newest ..).1, congrArg Twin.windows htwin, ?_⟩
  have hleft : (u.takeWindows n).twin.left = u.twin.left := rfl
  exact (congrArg (fun t : Twin => t.left ++ out) htwin).trans (congrArg (· ++ out) hleft)

end

/-! ## RECV -/

/-- The granules of a RECV leave the receive staging. -/
def State.takeStaged (s : State) (c : Cmd) (n : Nat) : State :=
  { s with twin := { s.twin with
    staging := s.twin.staging.filter fun e =>
      !(e.1 = s.slot && e.2.pbuf = bitsOf c.w.w6 0 12 && decide (e.2.index < n)) } }

/-- The granules that arrived with a hallmark that fails. -/
def badGranules (gs : List (Option Granule)) : List Granule := (gs.filterMap id).filter fun g => !g.void && g.hall != hc g.bytes

/-- What a RECV reports of the granules that are missing or bad. -/
def State.recvFaults (s : State) (c : Cmd) (gs : List (Option Granule)) : State :=
  let missing := (gs.filter Option.isNone).length
  let s := if missing = 0 || !s.linkUp then s
    else (s.bump Reg.TWN_LNK 0 16 missing).raise 0x0A02 .detected linkLayer.loc (bitsOf c.w.w6 0 12) missing
  (badGranules gs).foldl (fun s g => s.blockRaise 12 0x31 0 0x0201 linkLayer.loc g.hall.toNat (hc g.bytes).toNat) s

/-- The region that a RECV writes. -/
def Cmd.recvRegion (c : Cmd) : Nat := if bitOf c.w.w2 28 then 11 else bitsOf c.w.w2 25 3

/-- A RECV writes its granules; a bulk copy to a newcomer writes where no forwarded write has. -/
def State.recvStores (s : State) (c : Cmd) (gs : List (Option Granule)) (joining : Bool) (n : Nat) : State :=
  ((List.range n).zip gs).foldl (fun s e =>
    let p := c.recvPlace e.1
    if s.served c.recvRegion && !(joining && c.elastic && s.twin.set.contains p) then
      match e.2 with
      | some g => s.putGranule p g.bytes g.hall
      | none => s.putGranule p (List.replicate 256 0) (hc (List.replicate 256 0))
    else s) s

/-- A newcomer marks what a forwarded write has set; what finds no region is counted. -/
def State.recvMarks (s : State) (c : Cmd) (joining : Bool) (n : Nat) : State :=
  let s := if joining && !c.elastic then
    { s with twin := { s.twin with
      set := s.twin.set ++ ((List.range n).map c.recvPlace).filter fun p => !s.twin.set.contains p } }
    else s
  if s.served c.recvRegion then s else s.bump Reg.SPN_ABSCNT 0 32 n

/-- The buffers of a RECV are void where a granule was missing, bad or void, and complete at its end. -/
def State.recvDone (s : State) (i : Issue) (gs : List (Option Granule)) (outs : List (Nat × Nat)) (finish : Nat) : State :=
  let missing := (gs.filter Option.isNone).length
  let void := (gs.filterMap id).any (·.void)
  let cause := if i.void then i.cause else if !(badGranules gs).isEmpty then 0x0201
    else if void then 0x0201 else 0x0A02
  let s := if i.void || decide (0 < missing) || !(badGranules gs).isEmpty || void then s.voidOuts i.ctx outs cause
    else s
  outs.foldl (fun s o => s.signalAt i.ctx o.1 o.2 finish) s

theorem State.recvFaults_twin (c : Cmd) (gs : List (Option Granule)) : (s.recvFaults c gs).twin = s.twin := by
  unfold State.recvFaults
  extract_lets missing u
  have hu : u.twin = s.twin := by
    unfold u
    rw [apply_ite State.twin, State.raise_twin, State.bump_twin, ite_self]
  exact (u.foldl_twin (fun _ _ => State.blockRaise_twin ..) _).trans hu

theorem State.recvStores_twin (c : Cmd) (gs : List (Option Granule)) (joining : Bool) (n : Nat) :
    (s.recvStores c gs joining n).twin = s.twin := by
  refine s.foldl_twin (fun t e => ?_) _
  dsimp only
  split
  · split <;> exact State.putGranule_twin ..
  · rfl

theorem State.recvMarks_staging (c : Cmd) (joining : Bool) (n : Nat) :
    (s.recvMarks c joining n).twin.staging = s.twin.staging := by
  unfold State.recvMarks
  extract_lets t u
  have hu : u.twin.staging = s.twin.staging := by
    unfold u
    split <;> rfl
  clear_value u
  split
  exacts [hu, hu]

theorem State.recvDone_twin (i : Issue) (gs : List (Option Granule)) (outs : List (Nat × Nat)) (finish : Nat) :
    (s.recvDone i gs outs finish).twin = s.twin := by
  unfold State.recvDone
  extract_lets missing void cause u
  have hu : u.twin = s.twin := by
    unfold u
    rw [apply_ite State.twin, State.voidOuts_twin, ite_self]
  exact (u.foldl_twin (fun _ _ => State.signalAt_twin ..) _).trans hu

/-- The buffers that a RECV completes. -/
def Cmd.recvOuts (c : Cmd) (i : Issue) : List (Nat × Nat) :=
  if i.ctx.isSome then [(12, bitsOf c.w.w5 0 12)] else [(12, bitsOf c.w.w5 0 12), (c.recvRegion, bitsOf c.w.w5 0 12)]

/-- When a RECV ends (R492). -/
def Cmd.recvEnd (c : Cmd) (t : Nat) : Nat :=
  if bitsOf c.w.w4 0 16 = 0 then t + 1 else t + bitsOf c.w.w4 0 16 + 8 + 2 * hopsTo c.recvRegion + 3

/-- Whether a twin is a newcomer. -/
def State.joining (s : State) : Bool := s.twinState = 2 && !s.clock.running

theorem State.recv_eq {s : State} {c : Cmd} {i : Issue} {u : State} (hi : s.issueSwitu c = (i, u)) (hgo : i.go = true) :
    let n := bitsOf c.w.w4 0 16
    let gs := u.arrived c n
    s.recv c = ((((((u.takeStaged c n).recvFaults c gs).recvStores c gs u.joining n).recvMarks c u.joining n).recvDone i gs
      (c.recvOuts i) (c.recvEnd i.t)).track c i 0 (c.recvEnd i.t) (c.recvOuts i)) := by
  unfold State.recv
  rw [hi]
  exact if_neg (by simp [hgo])

theorem State.recv_holds {s : State} {c : Cmd} {i : Issue} {u : State} (hi : s.issueSwitu c = (i, u)) (hgo : i.go = true) :
    (s.recv c).newest c 0 (c.recvEnd i.t) ∧
    (s.recv c).twin.staging = (u.takeStaged c (bitsOf c.w.w4 0 16)).twin.staging := by
  rw [State.recv_eq hi hgo]
  refine ⟨State.track_newest .., ?_⟩
  rw [State.track_twin, State.recvDone_twin, State.recvMarks_staging, State.recvStores_twin, State.recvFaults_twin]

end

/-! ## The obligation -/

/-- Settles O32: what a SEND and a RECV end with, stage by stage; none but the last changes TWIN. -/
theorem swituTransfersLeaveAndLand : Obligations.SwituTransfersLeaveAndLand := by
  unfold Obligations.SwituTransfersLeaveAndLand
  intro s c x n h
  have hgo : x.1.go = true := s.issueSwitu_goes h
  have hi : s.issueSwitu c = (x.1, x.2) := rfl
  generalize x.1 = i, x.2 = u at *
  refine ⟨fun hwf hn hup => ?_, fun hwf => ?_⟩
  · intro slots
    obtain ⟨hruns, hwin, hleft⟩ := State.send_holds hi hgo hn hup
    have hlen : ((u.takeWindows n).switSource c n).length = n := (List.length_map _).trans List.length_range
    exact ⟨_, _, admitted_of hwf _, hruns, hwin, hleft, c.slots_of_sentGranules _ (List.length_take_le ..) hlen,
      c.pbuf_of_sentGranules _ _ _ _⟩
  · intro r
    obtain ⟨⟨hruns, hend⟩, hstaging⟩ := State.recv_holds hi hgo
    refine ⟨s.recv c, admitted_of hwf _, hruns, hend, hstaging.trans ?_⟩
    refine List.filter_congr fun e _ => ?_
    simp only [beq_eq_decide]
    rfl

end Sys2Proof.Machine
end

section
/-! SUPPORT. The parts that the NET commands share: what their reads, writes and reports leave alone, and their ends
(R303, R424, R458, R494). -/

namespace Sys2Proof.Machine

open Sys2Proof

/-! ## Issue -/

theorem Cmd.not_elastic_of_netOk {c : Cmd} {op m2 m3 m4 m5 m6 : Nat} (h : c.netOk op m2 m3 m4 m5 m6 = true) :
    c.elastic = false := by
  unfold Cmd.netOk Cmd.common at h
  cases he : c.elastic with
  | false => rfl
  | true => simp [he] at h

section
variable (s : State)

theorem State.issueData_ctx (c : Cmd) (loc : BitVec 64) (free : Nat) : (s.issueData c loc free).1.ctx = none := by
  unfold State.issueData
  dsimp only
  split <;> rfl

theorem State.meetSpine_fst (x : Issue × State) (c : Cmd) : (State.meetSpine x c).1 = x.1 := by
  unfold State.meetSpine
  split
  · split <;> rfl
  · rfl

theorem State.meetStore_ctx (x : Issue × State) (c : Cmd) (loc : BitVec 64) :
    (State.meetStore x c loc).1.ctx = x.1.ctx := by
  unfold State.meetStore
  split
  · rfl
  split
  · rfl
  split <;> rfl

/-- A command of the data plane runs in no context. -/
theorem State.issue_ctx {c : Cmd} (he : c.elastic = false) (loc : BitVec 64) (free engine : Nat) :
    (s.issue c loc free engine).1.ctx = none := by
  unfold State.issue
  extract_lets u x
  split
  · rfl
  · rw [State.meetStore_ctx, State.meetSpine_fst]
    unfold x
    rw [he]
    exact u.issueData_ctx ..

/-! ## Registers -/

theorem State.reg_with_mem (m : Memories) (k : Nat) : ({ s with mem := m } : State).reg k = s.reg k := rfl

theorem State.reg_eccLater (unc : Bool) (r cls idx : Nat) (loc : BitVec 64) (addr t : Nat) {k : Nat} (hk : faultSpares k) :
    (s.eccLater unc r cls idx loc addr t).reg k = s.reg k := by
  unfold State.eccLater State.fresh
  dsimp only
  split
  · exact State.reg_later _ _ _ (State.reg_blockRaise _ _ _ _ _ _ _ _ hk)
  · exact State.reg_later _ _ _ (State.reg_raise_masked _ _ _ _ _ hk.2.1 hk.2.2.2)

theorem State.reg_packetErrors (c : Cmd) (t : Nat) {k : Nat} (hk : faultSpares k) :
    (s.packetErrors c t).2.reg k = s.reg k :=
  foldl_keeps (fun t : State => t.reg k) (fun t _ => t.reg_eccLater _ _ _ _ _ _ _ hk) c.ecc s

theorem State.reg_shadowFault (r cls idx : Nat) (p : Option Nat) (t : Nat) {k : Nat} (hk : faultSpares k) :
    (s.shadowFault r cls idx p t).reg k = s.reg k := by
  unfold State.shadowFault
  split
  · exact s.reg_later _ _ (s.reg_blockRaise _ _ _ _ _ _ _ hk)
  · rfl

theorem State.reg_readPad (u : Unit_) (r a n : Nat) {k : Nat} (hk : eccSpares k) (ha : k ≠ Reg.SPN_ABSCNT) :
    (s.readPad u r a n).2.reg k = s.reg k := by
  unfold State.readPad
  extract_lets _ _ _ _ ecc _ _ v w x _
  have hv : v.reg k = s.reg k :=
    foldl_keeps (fun t : State => t.reg k) (fun t _ => t.reg_blockRaise _ _ _ _ _ _ _ hk.1) _ s
  have hw : w.reg k = v.reg k := v.reg_bump_other _ _ _ ha
  have hx : x.reg k = w.reg k := foldl_keeps (fun t : State => t.reg k) (fun t e => t.reg_padEcc _ _ hk) _ w
  exact hx.trans (hw.trans hv)

theorem State.putBytes_regs (bs : List (Place × Byte)) : (s.putBytes bs).regs = s.regs := by
  induction bs generalizing s with
  | nil => rfl
  | cons b bs ih =>
    refine (ih _).trans ?_
    unfold State.setByte
    split <;> rfl

theorem State.fillGranule_regs (keys : List Nat) (g : Nat × Nat) : (s.fillGranule keys g).regs = s.regs := by
  unfold State.fillGranule
  split
  · exact foldl_keeps State.regs (fun t i => by split <;> rfl) _ s
  · rfl

theorem State.reg_writePad (r a : Nat) (bs : List Byte) (ok : Bool) {k : Nat} (hk : eccSpares k)
    (ha : k ≠ Reg.SPN_ABSCNT) : (s.writePad r a bs ok).reg k = s.reg k := by
  unfold State.writePad
  extract_lets ps abs u v w ks gs
  have hu : u.reg k = s.reg k := s.reg_bump_other _ _ _ ha
  have hv : v.reg k = u.reg k := u.reg_renewWords ps hk
  have hw : w.reg k = s.reg k := (State.reg_of_regs (v.putBytes_regs _) k).trans (hv.trans hu)
  clear_value w
  split
  · exact hw
  · refine (foldl_keeps (fun t : State => t.reg k) (fun t g => ?_) gs w).trans hw
    exact State.reg_of_regs ((State.remark_regs _ g).trans (t.fillGranule_regs ks g)) k

/-! ## The state of NET -/

theorem State.net_of_besides {s t : State} (h : t.besides .shared = s.besides .shared) : t.net = s.net :=
  Owner.eq_of_hide (u := .net) (o := .shared) (empty := {}) (congrArg (·.net) h) nofun

theorem State.isShadow_of_twin {s t : State} (hcfg : t.reg Reg.TWN_CFG = s.reg Reg.TWN_CFG)
    (hstat : t.reg Reg.TWN_STAT = s.reg Reg.TWN_STAT) : t.isShadow = s.isShadow := by
  unfold State.isShadow
  rw [State.fld_of_reg hcfg, State.fld_of_reg hstat, State.bit_of_reg hstat]

theorem State.putSent_regs (p : Nat) (xs : List Sent) : (s.putSent p xs).regs = s.regs := by
  unfold State.putSent
  split <;> rfl

theorem State.putSent_seq (p : Nat) (xs : List Sent) : (s.putSent p xs).net.seq = s.net.seq := by
  unfold State.putSent
  split <;> rfl

theorem State.track_net (c : Cmd) (i : Issue) (port finish : Nat) (outs : List (Nat × Nat)) :
    (s.track c i port finish outs).net = s.net := State.net_of_besides (s.track_besides ..)

/-- The source of a NET command in the scratchpad is read, and is void where a granule of it fails. -/
def State.padSource (s : State) (c : Cmd) (u : Unit_) (r a n : Nat) : State :=
  let (k, s) := s.readPad u r a n
  if k.bad = 0 then s else s.voidSource c

/-- The registers that the reads of NET commands leave alone. -/
abbrev sourceSpares (k : Nat) : Prop := eccSpares k ∧ k ≠ Reg.SPN_ABSCNT ∧ k ≠ Reg.LGR_TOTAL

theorem State.padSource_holds (c : Cmd) (u : Unit_) (r a n : Nat) :
    (s.padSource c u r a n).net = s.net ∧ ∀ k, sourceSpares k → (s.padSource c u r a n).reg k = s.reg k := by
  have hnet : (s.readPad u r a n).2.net = s.net := State.net_of_besides (s.readPad_besides ..)
  have hreg {k : Nat} (hk : sourceSpares k) := s.reg_readPad u r a n hk.1 hk.2.1
  unfold State.padSource
  generalize s.readPad u r a n = x at *
  obtain ⟨y, t⟩ := x
  dsimp only at *
  split
  · exact ⟨hnet, fun k hk => hreg hk⟩
  · exact ⟨(State.net_of_besides (t.voidBuf_besides ..)).trans hnet,
      fun k hk => (t.reg_voidBuf_none _ _ _ hk.2.2).trans (hreg hk)⟩

theorem State.padSource_shadow (c : Cmd) (u : Unit_) (r a n : Nat) : (s.padSource c u r a n).isShadow = s.isShadow := by
  obtain ⟨-, hreg⟩ := s.padSource_holds c u r a n
  exact State.isShadow_of_twin (hreg _ (by decide)) (hreg _ (by decide))

/-! ## Void buffers -/

theorem State.cell_setCell_void (q r b buf : Nat) (x : LedgerCell) (hx : x.void = true)
    (h : (s.cell 0 q b).void = true) : ((s.setCell 0 r buf x).cell 0 q b).void = true := by
  have hread : (s.setCell 0 r buf x).cell 0 q b =
      SMap.read {} (SMap.write {} s.ledger.cells (ledgerKey (s.slotBack 0) r buf) x) (ledgerKey (s.slotBack 0) q b) := rfl
  rw [hread, SMap.read_write]
  split
  exacts [hx, h]

theorem State.cell_of_ledger {s t : State} (hl : t.ledger = s.ledger) (hr : t.reg Reg.TCK_SLOTNUM = s.reg Reg.TCK_SLOTNUM)
    (q b : Nat) : t.cell 0 q b = s.cell 0 q b := by
  unfold State.cell State.slotBack State.slot
  rw [hl, hr]

theorem State.cell_of_bump (q b : Nat) : (s.bump Reg.LGR_TOTAL 0 32 1).cell 0 q b = s.cell 0 q b :=
  State.cell_of_ledger (s.bump_ledger ..) (s.reg_bump_other _ _ _ (by decide)) q b

/-- A void buffer of this slot stays void. -/
theorem State.void_voidBuf_of_void (q b r buf cause : Nat) (h : (s.cell 0 q b).void = true) :
    ((s.voidBuf none r buf cause).cell 0 q b).void = true := by
  unfold State.voidBuf State.voidEntry
  split
  · exact h
  dsimp only
  rw [if_pos (Nat.zero_le 3), if_pos rfl]
  split
  · exact h
  · rw [State.cell_of_bump]
    exact s.cell_setCell_void q r b buf _ rfl h

theorem State.void_voidBuf {buf : Nat} (hb : buf ≠ 0xFFF) (r cause : Nat) :
    ((s.voidBuf none r buf cause).cell 0 r buf).void = true := by
  unfold State.voidBuf State.voidEntry
  rw [if_neg hb]
  dsimp only
  rw [if_pos (Nat.zero_le 3), if_pos rfl]
  split
  next h => exact h
  · rw [State.cell_of_bump, State.cell_setCell]

/-- Both copies of a buffer's bits are void. -/
theorem State.void_netOuts {buf : Nat} (hb : buf ≠ 0xFFF) (r cause : Nat) :
    ((s.voidOuts none (netOuts r buf) cause).cell 0 9 buf).void = true ∧
    ((s.voidOuts none (netOuts r buf) cause).cell 0 r buf).void = true :=
  ⟨State.void_voidBuf_of_void _ _ _ _ _ _ (s.void_voidBuf hb 9 cause), State.void_voidBuf _ hb r cause⟩

/-! ## The end of a command that receives -/

/-- A command that receives voids its buffers where it must, signals them at its end, and is under way. -/
def State.netDone (s : State) (c : Cmd) (i : Issue) (bad : Bool) (cause finish : Nat) : State :=
  let outs := netOuts (bitsOf c.w.w4 25 3) (bitsOf c.w.w6 0 12)
  let s := if bad then s.voidOuts none outs cause else s
  (outs.foldl (fun s o => s.signalAt none o.1 o.2 finish) s).track c i 0 finish outs

section
variable (c : Cmd) (i : Issue) (bad : Bool) (cause finish : Nat)

theorem State.netDone_newest : (s.netDone c i bad cause finish).newest c 0 finish := State.track_newest ..

/-- The signals of a command's buffers. -/
theorem State.signalAt_keeps (ctx : Option Nat) (r buf due : Nat) (x : Signal) (h : x ∈ s.signals) :
    x ∈ (s.signalAt ctx r buf due).signals := by
  unfold State.signalAt
  split
  exacts [h, List.mem_cons_of_mem _ h]

theorem State.netDone_signals (hb : bitsOf c.w.w6 0 12 ≠ 0xFFF) :
    ⟨finish, 9, bitsOf c.w.w6 0 12, none⟩ ∈ (s.netDone c i bad cause finish).signals ∧
    ⟨finish, bitsOf c.w.w4 25 3, bitsOf c.w.w6 0 12, none⟩ ∈ (s.netDone c i bad cause finish).signals := by
  unfold State.netDone
  rw [State.track_signals]
  exact ⟨State.signalAt_keeps _ _ _ _ _ _ (State.mem_signalAt _ hb ..), State.mem_signalAt _ hb ..⟩

theorem State.signalAt_data (ctx : Option Nat) (r buf due : Nat) :
    (s.signalAt ctx r buf due).regs = s.regs ∧ (s.signalAt ctx r buf due).ledger = s.ledger := by
  unfold State.signalAt
  split <;> exact ⟨rfl, rfl⟩

theorem State.track_data (port : Nat) (outs : List (Nat × Nat)) (hctx : i.ctx = none) :
    (s.track c i port finish outs).regs = s.regs ∧ (s.track c i port finish outs).ledger = s.ledger := by
  unfold State.track
  rw [hctx]
  exact ⟨rfl, rfl⟩

/-- After its buffers are void, the rest of the end changes neither registers nor the ledger. -/
theorem State.netDone_data (hctx : i.ctx = none) :
    let u := if bad then s.voidOuts none (netOuts (bitsOf c.w.w4 25 3) (bitsOf c.w.w6 0 12)) cause else s
    (s.netDone c i bad cause finish).regs = u.regs ∧ (s.netDone c i bad cause finish).ledger = u.ledger := by
  intro w
  unfold State.netDone
  extract_lets outs u
  rw [show w = u from rfl]
  clear_value u
  have hsig : (outs.foldl (fun s o => s.signalAt none o.1 o.2 finish) u).regs = u.regs ∧
      (outs.foldl (fun s o => s.signalAt none o.1 o.2 finish) u).ledger = u.ledger :=
    ⟨foldl_keeps State.regs (fun t o => (t.signalAt_data ..).1) _ u, foldl_keeps State.ledger (fun t o => (t.signalAt_data ..).2) _ u⟩
  generalize outs.foldl (fun s o => s.signalAt none o.1 o.2 finish) u = v at *
  obtain ⟨hregs, hledger⟩ := v.track_data c i finish 0 outs hctx
  exact ⟨hregs.trans hsig.1, hledger.trans hsig.2⟩

theorem State.netDone_mem : (s.netDone c i bad cause finish).mem = s.mem := by
  unfold State.netDone
  extract_lets outs u
  have hu : u.mem = s.mem := by
    unfold u
    split
    · exact foldl_keeps State.mem (fun t o => State.voidBuf_mem ..) _ s
    · rfl
  rw [State.track_mem]
  exact (foldl_keeps State.mem (fun t o => State.signalAt_mem ..) _ u).trans hu

theorem State.netDone_net : (s.netDone c i bad cause finish).net = s.net := by
  unfold State.netDone
  extract_lets outs u
  have hu : u.net = s.net := by
    unfold u
    split
    · exact State.net_of_besides (s.voidOuts_besides ..)
    · rfl
  rw [State.track_net]
  exact (foldl_keeps State.net (fun t o => State.net_of_besides (t.signalAt_besides ..)) _ u).trans hu

theorem State.reg_voidOuts_none (outs : List (Nat × Nat)) {k : Nat} (hk : k ≠ Reg.LGR_TOTAL) :
    (s.voidOuts none outs cause).reg k = s.reg k :=
  foldl_keeps (fun t : State => t.reg k) (fun t _ => t.reg_voidBuf_none _ _ _ hk) outs s

theorem State.reg_netDone (hctx : i.ctx = none) {k : Nat} (hk : k ≠ Reg.LGR_TOTAL) :
    (s.netDone c i bad cause finish).reg k = s.reg k := by
  refine (State.reg_of_regs (s.netDone_data c i bad cause finish hctx).1 k).trans ?_
  split
  exacts [s.reg_voidOuts_none cause _ hk, rfl]

theorem State.netDone_void (hctx : i.ctx = none) (hb : bitsOf c.w.w6 0 12 ≠ 0xFFF) (hbad : bad = true) :
    ((s.netDone c i bad cause finish).cell 0 9 (bitsOf c.w.w6 0 12)).void = true ∧
    ((s.netDone c i bad cause finish).cell 0 (bitsOf c.w.w4 25 3) (bitsOf c.w.w6 0 12)).void = true := by
  obtain ⟨hregs, hledger⟩ := s.netDone_data c i bad cause finish hctx
  rw [if_pos hbad] at hregs hledger
  have hcell := State.cell_of_ledger hledger (State.reg_of_regs hregs _)
  rw [hcell, hcell]
  exact s.void_netOuts hb (bitsOf c.w.w4 25 3) cause

end

end

end Sys2Proof.Machine
end

section
/-! PROOF of O23: UPRX, UPTX, CPTX, L2TX and L2RX (R424 to R432). -/

namespace Sys2Proof.Machine

open Sys2Proof

/-! ## UPRX (R424, R426) -/

/-- The PRBs of an UPRX that no section covers. -/
def State.missed (s : State) (c : Cmd) : Nat :=
  ((List.range (bitsOf c.w.w3 9 9)).filter fun k =>
    (s.takenFor c).all fun y => !y.covers (bitsOf c.w.w3 0 9 + k)).length

theorem prbValues_isNone (scl : Int) (bfp : Bool) (xs : List USection) (p : Nat) :
    (prbValues scl bfp xs p).isNone = xs.all fun y => !y.covers p := by
  unfold prbValues
  rw [Option.isNone_map, Bool.eq_iff_iff, Option.isNone_iff_eq_none, List.find?_eq_none, List.all_eq_true]
  simp

theorem State.missed_eq (s : State) (c : Cmd) (scl : Int) (bfp : Bool) :
    ((((List.range (bitsOf c.w.w3 9 9)).map fun k => bitsOf c.w.w3 0 9 + k).map fun p =>
      prbValues scl bfp (s.takenFor c) p).filter Option.isNone).length = s.missed c := by
  unfold State.missed
  rw [List.map_map, List.filter_map, List.length_map]
  refine congrArg List.length (List.filter_congr fun k _ => ?_)
  exact prbValues_isNone scl bfp _ _

section
variable (s : State)

/-- What an UPRX counts and reports: PRBs that no section covers and those that two cover, and errors of its converter. -/
def State.uprxFaults (s : State) (c : Cmd) (t miss dup : Nat) : State :=
  let s := s.bump Reg.NET_FHCNT1 0 16 miss
  let s := s.bump Reg.NET_FHCNT1 16 16 dup
  let s := (s.packetErrors c t).2
  s.shadowFault 9 (portUnit c.unit).cls (portUnit c.unit).index c.shadow t

theorem State.uprxFaults_count (c : Cmd) (t miss dup : Nat) : (s.uprxFaults c t miss dup).fld Reg.NET_FHCNT1 0 16 =
    min (s.fld Reg.NET_FHCNT1 0 16 + miss) 65535 := by
  unfold State.uprxFaults
  extract_lets u v w
  have hu : u.fld Reg.NET_FHCNT1 0 16 = min (s.fld Reg.NET_FHCNT1 0 16 + miss) 65535 := s.fld_bump_same (by decide)
  have hv : v.fld Reg.NET_FHCNT1 0 16 = u.fld Reg.NET_FHCNT1 0 16 := u.fld_bump_off (by decide) (by decide) (by decide)
  have hw : w.reg Reg.NET_FHCNT1 = v.reg Reg.NET_FHCNT1 := v.reg_packetErrors c t (by decide)
  exact (State.fld_of_reg ((w.reg_shadowFault _ _ _ _ _ (by decide)).trans hw) 0 16).trans (hv.trans hu)

/-- What an UPRX of PRBs writes beside its values. -/
def State.uprxWrite (s : State) (c : Cmd) (bs : List Byte) (flags : FlagWord) (finish : Nat) (ok : Bool) : State :=
  let r := bitsOf c.w.w4 25 3
  let s := s.writePad r (bitsOf c.w.w4 0 25) bs ok
  let s := (s.laters finish 9 [.flags Reg.NET_STAT flags]).countFlags 9 finish [flags]
  s.putBeside r (bitsOf c.w.w6 0 12) ⟨[flags], []⟩

theorem State.uprxWrite_reg (c : Cmd) (bs : List Byte) (flags : FlagWord) (finish : Nat) (ok : Bool) :
    (s.uprxWrite c bs flags finish ok).reg Reg.NET_FHCNT1 = s.reg Reg.NET_FHCNT1 := by
  unfold State.uprxWrite
  extract_lets r u v
  have hu : u.reg Reg.NET_FHCNT1 = s.reg Reg.NET_FHCNT1 := s.reg_writePad _ _ _ _ (by decide) (by decide)
  have hflags (t : State) : (t.later finish 9 (.flags Reg.NET_STAT flags)).reg Reg.NET_FHCNT1 = t.reg Reg.NET_FHCNT1 :=
    t.reg_later _ _ (t.reg_setReg_apart _ (by decide))
  have hcount (t : State) (lo n v : Nat) : (t.later finish 9 (.count Reg.FMT_FLAGCNT lo n v)).reg Reg.NET_FHCNT1 =
      t.reg Reg.NET_FHCNT1 := t.reg_later _ _ (t.reg_bump_other _ _ _ (by decide))
  have hv : v.reg Reg.NET_FHCNT1 = u.reg Reg.NET_FHCNT1 := (hcount ..).trans ((hcount ..).trans (hflags u))
  exact hv.trans hu

theorem State.uprxWrite_beside (c : Cmd) (bs : List Byte) (flags : FlagWord) (finish : Nat) (ok : Bool) :
    SMap.read {} (s.uprxWrite c bs flags finish ok).mem.beside (bitsOf c.w.w4 25 3 * 4096 + bitsOf c.w.w6 0 12) =
      ⟨[flags], []⟩ := by
  unfold State.uprxWrite State.putBeside
  extract_lets r u v
  exact (SMap.read_write_same : SMap.read {} (SMap.write {} v.mem.beside _ (⟨[flags], []⟩ : Beside)) _ = _)

section
variable {s : State} {c : Cmd} {i : Issue} {u : State} (hi : s.issueNet c = (i, u)) (hgo : i.go = true)
include hi hgo

/-- An UPRX of no PRB ends in the next cycle. -/
theorem State.uprx_of_none (hn : bitsOf c.w.w3 9 9 = 0) : ∃ (v : State) (bad : Bool) (cause : Nat),
    s.uprx c = v.netDone c i bad cause (i.t + 1) := by
  unfold State.uprx
  rw [hi]
  dsimp only
  rw [if_neg (by simp [hgo])]
  simp only [if_pos hn]
  exact ⟨_, _, _, rfl⟩

/-- What an UPRX of PRBs ends with. -/
theorem State.uprx_of_prbs (hn : bitsOf c.w.w3 9 9 ≠ 0) :
    ∃ (dup : Nat) (bs : List Byte) (flags : FlagWord) (ok : Bool) (cause finish : Nat),
      s.uprx c = ((u.uprxFaults c i.t (u.missed c) dup).uprxWrite c bs flags finish ok).netDone c i
        (i.void || !ok || decide (0 < u.missed c)) cause finish := by
  have hmiss := u.missed_eq c ((u.eaxcRow (bitsOf c.w.w2 0 16)).getD ⟨0, 0, 0, false, 16, 0⟩).scl
    ((u.eaxcRow (bitsOf c.w.w2 0 16)).getD ⟨0, 0, 0, false, 16, 0⟩).bfp
  unfold State.uprx
  rw [hi]
  dsimp only
  rw [if_neg (by simp [hgo]), hmiss]
  simp only [if_neg hn]
  exact ⟨_, _, _, _, _, _, rfl⟩

end

/-! ## UPTX (R422, R424) -/

/-- The free values of the exponents that an UPTX decodes. -/
def State.uptxDraw (s : State) (c : Cmd) : List (BitVec 64) × State :=
  if (Fmt.get (bitsOf c.w.w3 18 4)).isBfp then s.draw ((24 * bitsOf c.w.w3 9 9 + 15) / 16) else ([], s)

/-- An UPTX has read its source. -/
def State.uptxRead (s : State) (c : Cmd) (t : Nat) : State :=
  let size := 24 * (Fmt.get (bitsOf c.w.w3 18 4)).bits / 8
  let s := s.padSource c (portUnit c.unit) (bitsOf c.w.w4 25 3) (bitsOf c.w.w4 0 25) (bitsOf c.w.w3 9 9 * size)
  (s.uptxDraw c).2.shadowFault 9 (portUnit c.unit).cls (portUnit c.unit).index c.shadow t

theorem State.uptxDraw_regs (c : Cmd) : (s.uptxDraw c).2.regs = s.regs := by
  unfold State.uptxDraw
  split <;> rfl

theorem State.uptxRead_shadow (c : Cmd) (t : Nat) : (s.uptxRead c t).isShadow = s.isShadow := by
  unfold State.uptxRead
  extract_lets size u
  have hu : u.isShadow = s.isShadow := s.padSource_shadow ..
  clear_value u
  have hreg {k : Nat} (hk : faultSpares k) := ((u.uptxDraw c).2.reg_shadowFault 9 (portUnit c.unit).cls
    (portUnit c.unit).index c.shadow t hk).trans (State.reg_of_regs (u.uptxDraw_regs c) k)
  exact (State.isShadow_of_twin (hreg (by decide)) (hreg (by decide))).trans hu

/-- When an UPTX of PRBs ends (R424). -/
def Cmd.uptxEnd (c : Cmd) (row : Eaxc) (t : Nat) : Nat :=
  if bitsOf c.w.w3 9 9 = 0 then t + 1
  else t + 40 + (8 * (bitsOf c.w.w3 9 9 * (if row.bfp then 1 + 3 * row.width else 48) + 34) + 124) / 125

theorem State.orFlags_shadow (w : FlagWord) : (s.orFlags Reg.NET_STAT w).isShadow = s.isShadow :=
  State.isShadow_of_twin (s.reg_setReg_apart _ (by decide)) (s.reg_setReg_apart _ (by decide))

section
variable {s : State} {c : Cmd} {i : Issue} {u : State} (hi : s.issueNet c = (i, u)) (hgo : i.go = true)
include hi hgo

/-- What an UPTX ends with. -/
theorem State.uptx_eq : ∃ (w : FlagWord) (id f sf sl : Nat) (prbs : List (Nat × List Int)), prbs.length = bitsOf c.w.w3 9 9 ∧
    s.uptx c = (if bitsOf c.w.w3 9 9 = 0 then (u.uptxRead c i.t).orFlags Reg.NET_STAT w
      else ((u.uptxRead c i.t).orFlags Reg.NET_STAT w).putSent c.unit
        [.uplane id f sf sl (bitsOf c.w.w2 16 4) (bitsOf c.w.w3 0 9) prbs]).track c i 0
      (c.uptxEnd ((u.eaxcRow (bitsOf c.w.w2 0 16)).getD ⟨0, 0, 0, false, 16, 0⟩) i.t) [] := by
  unfold State.uptx
  rw [hi]
  dsimp only
  rw [if_neg (by simp [hgo])]
  refine ⟨_, _, _, _, _, _, ?_, rfl⟩
  rw [List.length_map, List.length_map, List.length_range]

/-- An UPTX of PRBs leaves one frame from a device that is no shadow. -/
theorem State.uptx_holds : (s.uptx c).newest c 0 (c.uptxEnd ((u.eaxcRow (bitsOf c.w.w2 0 16)).getD ⟨0, 0, 0, false, 16, 0⟩) i.t) ∧
    (bitsOf c.w.w3 9 9 ≠ 0 → u.isShadow = false → ∃ id f sf sl prbs,
      SMap.read [] (s.uptx c).net.sent c.unit =
        [Sent.uplane id f sf sl (bitsOf c.w.w2 16 4) (bitsOf c.w.w3 0 9) prbs] ∧
      prbs.length = bitsOf c.w.w3 9 9) := by
  obtain ⟨w, id, f, sf, sl, prbs, hlen, heq⟩ := State.uptx_eq hi hgo
  rw [heq]
  refine ⟨State.track_newest .., fun hn hlive => ⟨id, f, sf, sl, prbs, ?_, hlen⟩⟩
  rw [State.track_net, if_neg hn]
  exact State.sent_putSent ((State.orFlags_shadow _ w).trans ((u.uptxRead_shadow c i.t).trans hlive)) c.unit _

end

/-! ## CPTX (R424, R427) -/

/-- No message has more records than it may. -/
theorem length_of_mem_gather {cap : Nat} (hcap : 0 < cap) (rs : List (List Word)) :
    ∀ g ∈ gather cap rs, g.length ≤ cap := by
  induction rs with
  | nil => exact fun g hg => absurd hg List.not_mem_nil
  | cons r rs ih =>
    unfold gather
    split
    · intro g hg
      rw [List.mem_singleton.mp hg]
      exact hcap
    next g gs h =>
    rw [h] at ih
    obtain ⟨hg, hgs⟩ := List.forall_mem_cons.mp ih
    split
    next hc =>
      have hlt : g.length < cap := by simpa using (Bool.and_eq_true_iff.mp hc).2
      exact List.forall_mem_cons.mpr ⟨hlt, hgs⟩
    · exact List.forall_mem_cons.mpr ⟨hcap, ih⟩

section
variable {s : State} {c : Cmd} {i : Issue} {u : State} (hi : s.issueNet c = (i, u)) (hgo : i.go = true)
include hi hgo

/-- What a CPTX ends with. -/
theorem State.cptx_eq : ∃ (skipped bytes : Nat) (kept : List (List Word)) (msg : List (List Word) → Sent),
    (∀ g, ∃ id dir st sym f sf sl, msg g = Sent.cplane id dir st sym f sf sl g) ∧
    let m := bitsOf c.w.w2 4 16
    let v := (u.padSource c (portUnit c.unit) (bitsOf c.w.w4 25 3) (bitsOf c.w.w4 0 25) (32 * m)).bump Reg.NET_FHCNT2 16 16 skipped
    s.cptx c = (if m = 0 then v else v.putSent c.unit ((gather 764 kept).map msg)).track c i 0
      (if m = 0 then i.t + 1 else i.t + 40 + (8 * bytes + 124) / 125) [] := by
  unfold State.cptx
  rw [hi]
  dsimp only
  rw [if_neg (by simp [hgo])]
  refine ⟨_, _, _, _, ?_, rfl⟩
  exact fun g => ⟨_, _, _, _, _, _, _, rfl⟩

/-- A CPTX leaves messages of at most 764 records from a device that is no shadow. -/
theorem State.cptx_holds : ∃ e, (s.cptx c).newest c 0 e ∧ (bitsOf c.w.w2 4 16 = 0 → e = i.t + 1) ∧
    (bitsOf c.w.w2 4 16 ≠ 0 → i.t + 40 ≤ e ∧ (u.isShadow = false →
      ∀ y ∈ SMap.read [] (s.cptx c).net.sent c.unit, ∃ id dir st sym f sf sl recs,
        y = Sent.cplane id dir st sym f sf sl recs ∧ recs.length ≤ 764)) := by
  obtain ⟨skipped, bytes, kept, msg, hmsg, heq⟩ := State.cptx_eq hi hgo
  dsimp only at heq
  rw [heq]
  refine ⟨_, State.track_newest .., fun hm => if_pos hm, fun hm => ⟨?_, fun hlive => ?_⟩⟩
  · rw [if_neg hm]
    exact Nat.le_add_right _ _
  · have hshadow := (u.padSource_shadow c (portUnit c.unit) (bitsOf c.w.w4 25 3) (bitsOf c.w.w4 0 25)
      (32 * bitsOf c.w.w2 4 16)).trans hlive
    rw [State.track_net, if_neg hm]
    generalize u.padSource c (portUnit c.unit) (bitsOf c.w.w4 25 3) (bitsOf c.w.w4 0 25) (32 * bitsOf c.w.w2 4 16) = v at *
    have hbump : (v.bump Reg.NET_FHCNT2 16 16 skipped).isShadow = false :=
      (State.isShadow_of_twin (v.reg_bump_other _ _ _ (by decide)) (v.reg_bump_other _ _ _ (by decide))).trans hshadow
    rw [State.sent_putSent hbump]
    intro y hy
    obtain ⟨g, hg, rfl⟩ := List.mem_map.mp hy
    obtain ⟨id, dir, st, sym, f, sf, sl, h⟩ := hmsg g
    exact ⟨id, dir, st, sym, f, sf, sl, g, h, length_of_mem_gather (by decide) kept g hg⟩

end

/-! ## L2TX (R424, R431) -/

theorem State.putSent_shadow (p : Nat) (xs : List Sent) : (s.putSent p xs).isShadow = s.isShadow :=
  State.isShadow_of_regs (s.putSent_regs p xs)

/-- A datagram leaves with the grants that it carries. -/
def State.addDatagram (s : State) (x : Sent) (gs : List GrantRec) : State :=
  let s := s.putSent 8 (SMap.read [] s.net.sent 8 ++ [x])
  { s with net := { s.net with seq := (s.net.seq + 1) % 2 ^ 32, grants := s.net.grants ++ gs } }

theorem State.addDatagram_holds (x : Sent) (gs : List GrantRec) : (s.addDatagram x gs).net.seq = (s.net.seq + 1) % 2 ^ 32 ∧
    (s.addDatagram x gs).isShadow = s.isShadow ∧
    (s.isShadow = false → (SMap.read [] (s.addDatagram x gs).net.sent 8).length = (SMap.read [] s.net.sent 8).length + 1) := by
  have hseq := s.putSent_seq 8 (SMap.read [] s.net.sent 8 ++ [x])
  have hshadow := s.putSent_shadow 8 (SMap.read [] s.net.sent 8 ++ [x])
  have hsent (h : s.isShadow = false) := State.sent_putSent h 8 (SMap.read [] s.net.sent 8 ++ [x])
  unfold State.addDatagram
  generalize s.putSent 8 (SMap.read [] s.net.sent 8 ++ [x]) = u at *
  refine ⟨congrArg (fun q => (q + 1) % 2 ^ 32) hseq, (State.isShadow_of_regs rfl).trans hshadow, fun h => ?_⟩
  exact (congrArg List.length (hsent h)).trans List.length_append

theorem State.datagramAt_eq (c : Cmd) (void : Bool) (r a : Nat) : ∃ size x gs,
    (s.datagramAt c void r a).2 = (s.padSource c (portUnit 8) r a size).addDatagram x gs := by
  unfold State.datagramAt State.addDatagram State.padSource
  dsimp only
  exact ⟨_, _, _, rfl⟩

/-- One datagram more leaves: SEQ moves on by one. -/
theorem State.datagramAt_holds (c : Cmd) (void : Bool) (r a : Nat) :
    (s.datagramAt c void r a).2.net.seq = (s.net.seq + 1) % 2 ^ 32 ∧
    (s.datagramAt c void r a).2.isShadow = s.isShadow ∧
    (s.isShadow = false → (SMap.read [] (s.datagramAt c void r a).2.net.sent 8).length =
      (SMap.read [] s.net.sent 8).length + 1) := by
  obtain ⟨size, x, gs, h⟩ := s.datagramAt_eq c void r a
  obtain ⟨hnet, -⟩ := s.padSource_holds c (portUnit 8) r a size
  have hshadow := s.padSource_shadow c (portUnit 8) r a size
  rw [h, ← hnet, ← hshadow]
  exact State.addDatagram_holds _ x gs

theorem State.datagrams_holds (c : Cmd) (void : Bool) (r a n : Nat) :
    (s.datagrams c void r a n).2.net.seq = (if n = 0 then s.net.seq else (s.net.seq + n) % 2 ^ 32) ∧
    (s.isShadow = false → (SMap.read [] (s.datagrams c void r a n).2.net.sent 8).length =
      (SMap.read [] s.net.sent 8).length + n) := by
  induction n generalizing s a with
  | zero => exact ⟨rfl, fun _ => rfl⟩
  | succ n ih =>
    obtain ⟨hseq, hshadow, hlen⟩ := s.datagramAt_holds c void r a
    unfold State.datagrams
    generalize s.datagramAt c void r a = x at *
    obtain ⟨k, t⟩ := x
    obtain ⟨iseq, ilen⟩ := ih t (a + k)
    dsimp only at *
    refine ⟨?_, fun hlive => ?_⟩
    · rw [iseq, hseq, if_neg (Nat.succ_ne_zero n)]
      split <;> omega
    · rw [ilen (hshadow.trans hlive), hlen hlive]
      omega

section
variable {s : State} {c : Cmd} {i : Issue} {u : State} (hi : s.issueNet c = (i, u)) (hgo : i.go = true)
include hi hgo

theorem State.l2tx_eq : ∃ size, s.l2tx c = ((u.putSent 8 []).datagrams c i.void (bitsOf c.w.w4 25 3) (bitsOf c.w.w4 0 25)
    (bitsOf c.w.w2 4 16)).2.track c i 0
      (if bitsOf c.w.w2 4 16 = 0 then i.t + 1 else i.t + 40 + (16 * size + 124) / 125) [] := by
  unfold State.l2tx
  rw [hi]
  dsimp only
  rw [if_neg (by simp [hgo])]
  exact ⟨_, rfl⟩

/-- An L2TX of `m` datagrams moves SEQ on by `m`, and leaves them from a device that is no shadow. -/
theorem State.l2tx_holds : ∃ e, (s.l2tx c).newest c 0 e ∧
    (bitsOf c.w.w2 4 16 = 0 → e = i.t + 1 ∧ (s.l2tx c).net.seq = u.net.seq) ∧
    (bitsOf c.w.w2 4 16 ≠ 0 → i.t + 40 ≤ e ∧ (s.l2tx c).net.seq = (u.net.seq + bitsOf c.w.w2 4 16) % 2 ^ 32 ∧
      (u.isShadow = false → (SMap.read [] (s.l2tx c).net.sent 8).length = bitsOf c.w.w2 4 16)) := by
  obtain ⟨size, heq⟩ := State.l2tx_eq hi hgo
  rw [heq, State.track_net]
  obtain ⟨hseq, hlen⟩ := (u.putSent 8 []).datagrams_holds c i.void (bitsOf c.w.w4 25 3) (bitsOf c.w.w4 0 25)
    (bitsOf c.w.w2 4 16)
  rw [State.putSent_seq] at hseq
  rw [State.putSent_shadow] at hlen
  refine ⟨_, State.track_newest .., fun hm => ⟨if_pos hm, hseq.trans (if_pos hm)⟩,
    fun hm => ⟨?_, hseq.trans (if_neg hm), fun hlive => ?_⟩⟩
  · rw [if_neg hm]
    exact Nat.le_add_right _ _
  · rw [hlen hlive, State.sent_putSent hlive]
    exact Nat.zero_add _

end

/-! ## L2RX (R432) -/

/-- The air slot that an L2RX closes. -/
def State.airOf (s : State) (c : Cmd) : Nat := (s.slot + bitsOf c.w.w2 16 2) % 2 ^ 32

/-- The messages that an L2RX takes. -/
def State.takesMsg (s : State) (c : Cmd) (m : L2Msg) : Bool :=
  (bitsOf c.w.w2 0 16).testBit m.type && (m.type == 2 || m.airslot == s.airOf c)

/-- The types of an L2RX closed at an air slot; QOS does not close. -/
def closeTypes (types air : Nat) (k : SMap Nat) : SMap Nat :=
  (List.range 16).foldl (fun k t => if types.testBit t && t != 2 then SMap.write 0 k t (air + 1) else k) k

/-- An L2RX takes its messages and closes their types. -/
def State.l2rxTake (s : State) (c : Cmd) : State :=
  { s with net := { s.net with
    msgs := s.net.msgs.filter fun m => !s.takesMsg c m
    closed := closeTypes (bitsOf c.w.w2 0 16) (s.airOf c) s.net.closed
    grants := if (bitsOf c.w.w2 0 16).testBit 3 then s.net.grants.filter fun g => g.airslot != s.airOf c
      else s.net.grants } }

theorem read_closeTypes {types air k : Nat} (hk : k < 16) (h2 : k ≠ 2) (ht : types.testBit k = true) (m : SMap Nat) :
    SMap.read 0 (closeTypes types air m) k = air + 1 := by
  have hfold (l : List Nat) (m : SMap Nat) (h : k ∈ l ∨ SMap.read 0 m k = air + 1) :
      SMap.read 0 (l.foldl (fun k t => if types.testBit t && t != 2 then SMap.write 0 k t (air + 1) else k) m) k =
        air + 1 := by
    induction l generalizing m with
    | nil => exact h.resolve_left List.not_mem_nil
    | cons t l ih =>
      refine ih _ ?_
      dsimp only
      by_cases htk : k = t
      · subst htk
        rw [if_pos (by simp [ht, h2])]
        exact .inr SMap.read_write_same
      · rcases h with h | h
        · exact .inl ((List.mem_cons.mp h).resolve_left htk)
        · refine .inr ?_
          split
          exacts [(SMap.read_write_other htk).trans h, h]
  exact hfold _ m (.inl (List.mem_range.mpr hk))

/-- What an L2RX counts: messages that found no row, and allocations that are not complete, whose buffers are void. -/
def State.l2rxCounts (s : State) (full : Nat) (bad : List GrantRec) : State :=
  let s := s.bump Reg.NET_L2CNT1 0 8 full
  let s := s.bump Reg.NET_L2CNT1 8 8 bad.length
  bad.foldl (fun s g =>
    match s.plan.net.tbBufs.find? fun e => e.1 = g.cell * 65536 + g.ue * 16 + g.harq with
    | some e => s.voidEntry 0 e.2.1 e.2.2 0
    | none => s) s

/-- What an L2RX writes. -/
def State.l2rxWrite (s : State) (c : Cmd) (t : Nat) (bs : List Byte) : State :=
  let (unc, s) := s.packetErrors c t
  if bs.isEmpty then s else s.writePad (bitsOf c.w.w4 25 3) (bitsOf c.w.w4 0 25) bs (!unc)

theorem State.l2rxCounts_net (full : Nat) (bad : List GrantRec) : (s.l2rxCounts full bad).net = s.net := by
  unfold State.l2rxCounts
  refine (foldl_keeps State.net (fun t g => ?_) bad _).trans rfl
  split
  exacts [State.net_of_besides (t.voidEntry_besides ..), rfl]

theorem State.l2rxWrite_net (c : Cmd) (t : Nat) (bs : List Byte) : (s.l2rxWrite c t bs).net = s.net := by
  have herr : (s.packetErrors c t).2.net = s.net := State.net_of_besides (s.packetErrors_besides c t)
  unfold State.l2rxWrite
  generalize s.packetErrors c t = x at *
  obtain ⟨unc, u⟩ := x
  dsimp only at *
  split
  exacts [herr, (State.net_of_besides (u.writePad_besides ..)).trans herr]

section
variable {s : State} {c : Cmd} {i : Issue} {u : State} (hi : s.issueNet c = (i, u)) (hgo : i.go = true)
include hi hgo

/-- What an L2RX ends with. -/
theorem State.l2rx_eq : ∃ (full : Nat) (rest : List GrantRec) (bs : List Byte) (bad : Bool) (cause finish : Nat),
    s.l2rx c = (((u.l2rxTake c).l2rxCounts full rest).l2rxWrite c i.t bs).netDone c i bad cause finish := by
  unfold State.l2rx
  rw [hi]
  dsimp only
  rw [if_neg (by simp [hgo])]
  exact ⟨_, _, _, _, _, _, rfl⟩

/-- After it has taken its messages an L2RX changes NET no more. -/
theorem State.l2rx_net : (s.l2rx c).net = (u.l2rxTake c).net := by
  obtain ⟨full, rest, bs, bad, cause, finish, heq⟩ := State.l2rx_eq hi hgo
  rw [heq, State.netDone_net, State.l2rxWrite_net, State.l2rxCounts_net]

end

end

/-! ## The obligation -/

/-- A command that receives is under way and signals both copies of its buffer. -/
theorem State.netDone_signalled (s : State) (c : Cmd) (i : Issue) (bad : Bool) (cause finish : Nat)
    (hb : bitsOf c.w.w6 0 12 ≠ 0xFFF) : ∃ e, (s.netDone c i bad cause finish).newestEnd = some e ∧
      ⟨e, 9, bitsOf c.w.w6 0 12, none⟩ ∈ (s.netDone c i bad cause finish).signals ∧
      ⟨e, bitsOf c.w.w4 25 3, bitsOf c.w.w6 0 12, none⟩ ∈ (s.netDone c i bad cause finish).signals :=
  ⟨finish, (s.netDone_newest ..).2, s.netDone_signals c i bad cause finish hb⟩

/-- Settles O23: for each command the state that it ends with, and what its reads and reports leave of NET. -/
theorem netCommandsRunOnTheirPorts : Obligations.NetCommandsRunOnTheirPorts := by
  unfold Obligations.NetCommandsRunOnTheirPorts
  intro s c x r buf n m both hgoes
  have hgo : x.1.go = true := (s.issue_goes ..).trans hgoes
  have hctx (he : c.elastic = false) : x.1.ctx = none := s.issue_ctx he _ _ _
  have hi : s.issueNet c = (x.1, x.2) := rfl
  generalize x.1 = i, x.2 = u at *
  refine ⟨fun hwf => ⟨s.uprx c, admitted_of hwf _, ?_⟩, fun hwf => ⟨s.uptx c, admitted_of hwf _, ?_⟩,
    fun hwf => ?_, fun hwf => ?_, fun hwf => ⟨s.l2rx c, admitted_of hwf _, ?_⟩⟩
  · have hnone := i.ctx
    by_cases hn : n = 0
    · obtain ⟨v, bad, cause, heq⟩ := State.uprx_of_none hi hgo hn
      obtain ⟨hruns, hend⟩ := v.netDone_newest c i bad cause (i.t + 1)
      rw [heq]
      exact ⟨hruns, v.netDone_signalled c i bad cause (i.t + 1), fun _ => hend, fun h => absurd hn h⟩
    · have he : c.elastic = false := by
        unfold Cmd.wfUprx at hwf
        simp only [Bool.and_eq_true] at hwf
        exact Cmd.not_elastic_of_netOk hwf.1.1.1.1
      obtain ⟨dup, bs, flags, ok, cause, finish, heq⟩ := State.uprx_of_prbs hi hgo hn
      have hcount := u.uprxFaults_count c i.t (u.missed c) dup
      generalize u.uprxFaults c i.t (u.missed c) dup = v at *
      have hreg := v.uprxWrite_reg c bs flags finish ok
      have hbeside := v.uprxWrite_beside c bs flags finish ok
      generalize v.uprxWrite c bs flags finish ok = w at *
      obtain ⟨hruns, hend⟩ := w.netDone_newest c i (i.void || !ok || decide (0 < u.missed c)) cause finish
      rw [heq]
      refine ⟨hruns, w.netDone_signalled c i _ cause finish, fun h => absurd h hn, fun _ => ?_⟩
      intro miss
      refine ⟨?_, ?_, fun hm hb => ?_⟩
      · rw [State.netDone_mem]
        exact congrArg (fun b : Beside => b.flags.length) hbeside
      · exact (State.fld_of_reg ((w.reg_netDone c i _ cause finish (hctx he) (by decide)).trans hreg) 0 16).trans hcount
      · refine w.netDone_void c i _ cause finish (hctx he) hb ?_
        have hpos : 0 < u.missed c := Nat.pos_of_ne_zero hm
        simp [hpos]
  · obtain ⟨⟨hruns, hend⟩, hsent⟩ := State.uptx_holds hi hgo
    exact ⟨hruns, hend, hsent⟩
  · obtain ⟨e, ⟨hruns, hend⟩, hzero, hmore⟩ := State.cptx_holds hi hgo
    exact ⟨s.cptx c, e, admitted_of hwf _, hruns, hend, hzero, hmore⟩
  · obtain ⟨e, ⟨hruns, hend⟩, hzero, hmore⟩ := State.l2tx_holds hi hgo
    exact ⟨s.l2tx c, e, admitted_of hwf _, hruns, hend, hzero, hmore⟩
  · have hnet := State.l2rx_net hi hgo
    obtain ⟨full, rest, bs, bad, cause, finish, heq⟩ := State.l2rx_eq hi hgo
    generalize ((u.l2rxTake c).l2rxCounts full rest).l2rxWrite c i.t bs = v at *
    obtain ⟨hruns, -⟩ := v.netDone_newest c i bad cause finish
    rw [heq] at hnet ⊢
    refine ⟨hruns, v.netDone_signalled c i bad cause finish, ?_⟩
    intro types air
    rw [hnet]
    exact ⟨rfl, fun k hk h2 ht => read_closeTypes hk h2 ht u.net.closed⟩

end Sys2Proof.Machine
end
